-- ==== Sys2Proof/Word.lean ====
section
/-!
DEFINITION. The word types of the model: 32-bit registers (R9), bytes, and the numbers that name a slot, a cluster,
a lane, a hub, a Helm core or a general register.
-/
namespace Sys2Proof

/-- A 32-bit register or memory word (R9). -/
abbrev Word := BitVec 32
/-- One byte of memory or of a frame. -/
abbrev Byte := BitVec 8
/-- A problem slot p = 0 to 3 (R60). -/
abbrev Slot := Fin 4
/-- A cluster of the Sextant array, 0 to 15 (R89). -/
abbrev Cl := Fin 16
/-- A cell lane CL0 to CL63 (R194). -/
abbrev LaneN := Fin 64
/-- A hub number 0 to 63 (R205). -/
abbrev HubN := Fin 64
/-- An arm number 0 to 63 (R173). -/
abbrev ArmN := Fin 64
/-- A Helm core: 0 to 7 compute-die cores, 8 the management core, 9 the safety island pair (COREID, R343). -/
abbrev CoreN := Fin 10
/-- A general register w0 to w31 (R341). -/
abbrev RegN := Fin 32
/-- A GDDR6 channel 0 to 7 (R242). -/
abbrev ChanN := Fin 8
/-- The levels of one leg, dimension 0 first. -/
abbrev Leg := List Nat
/-- A course: its legs, leg 1 first. -/
abbrev Course := List Leg

end Sys2Proof
end

