-- ==== Sys2Proof/Syntax.lean ====
section
/-!
DEFINITION. The commands of the block: one constructor of Instr per row of the opcode table, in the table's order.
An operand is what the outside brings: a value written, a frame's bytes, a measured time or voltage, the check result of a
memory. `now` is always the fabric cycle of the period (PER_NOW) at which the command falls.
-/
namespace Sys2Proof

/-- Who makes an access (R25, R29). -/
inductive Requester where
  | island | mgmt | port | chain (src : Fin 64) | dma | core (n : Fin 8)
deriving DecidableEq, Repr

/-- What a memory's SECDED check finds at an access (R92, R247, R340, R387, R417). -/
inductive Ecc where
  | clean | corrected | uncorrectable
deriving DecidableEq, Repr

/-- What the checks of a memory access find: the SECDED result of each 64-bit word in address order (clean where none is given), and the
mismatches of the link CRC in a row of a GDDR6 burst (R247, R253). -/
structure Check where
  ecc : List Ecc := []
  edc : Nat := 0
deriving DecidableEq, Repr

/-- What a unit's GDDR6 accesses meet: the 64-byte bursts, by block number (bits 33:6 of the address), in which a check finds something, in the
order of the accesses, with what it finds (R247, R253). -/
abbrev Met := List (BitVec 28 × Check)

/-- Who makes a GDDR6 request (R257): a requester of R25 or a unit of the compute die. -/
inductive MemUser where
  | req (r : Requester) | lookup | capture | ringScan | bulk | builder | verify | scrub | background
deriving DecidableEq, Repr

/-- An access of a register page: a write of a word, or a read (R29), with what the checks of a memory word find. -/
structure Access where
  r : Requester
  addr : BitVec 40
  v : Option Word
  chk : Check := {}
deriving DecidableEq, Repr

/-- An output of a core of the lockstep pair that the comparator checks (R372). -/
inductive LsOut where
  | fetch (pc : Word) | load (ea : Word) (size : Nat) | store (ea v : Word) (size : Nat) | special (idx : Nat) (v : Word)
  | keepalive (on : Bool) | halt | doubleFault
deriving DecidableEq, Repr

/-- A read mode of the boot memory, by the lanes of its command, address and data (R392). -/
inductive ReadMode where
  | m111 | m114 | m144 | m118 | m188
deriving DecidableEq, Repr

/-- A read mode that SFDP lists (R393, R394): its command with 3-byte addresses and, from the 4-byte Address Instruction Table, with 4-byte
addresses, its dummy cycles, and whether the memory has its enable bit set. -/
structure SfdpMode where
  mode : ReadMode
  code : BitVec 8
  code4 : Option (BitVec 8)
  dummy : Nat
  enabled : Bool
deriving DecidableEq, Repr

/-- A write command that SFDP lists (R393, R413): the bytes it covers as a power of two, and its code in both address forms. -/
structure SfdpWrite where
  log : Nat
  code : BitVec 8
  code4 : Option (BitVec 8)
deriving DecidableEq, Repr

/-- What SFDP gives (R393): the density in bytes, the read modes, whether there is a 4-byte Address Instruction Table, the erase types, and the
page program command with the page size. -/
structure Sfdp where
  density : Nat
  modes : List SfdpMode
  fourByte : Bool
  erases : List SfdpWrite
  page : SfdpWrite
deriving DecidableEq, Repr

/-- What the array's own checks find when a batch lands (R92, R121, R131). -/
inductive LaneFault where
  | none | duplex | scratchCorrected | scratchUncorrectable
deriving DecidableEq, Repr

/-- A chain port (R291). -/
inductive ChPort where
  | up | dn
deriving DecidableEq, Repr

/-- A lane of a chain port (R291). -/
inductive ChLane where
  | d0 | d1 | pl
deriving DecidableEq, Repr

/-- A receiver that can hold block lock: a cell lane (R196) or a chain data lane (R292). -/
inductive Link where
  | cell (l : LaneN) | chain (p : ChPort) (d1 : Bool)
deriving DecidableEq, Repr

/-- A chart buffer (R145). -/
inductive Buf where
  | bufA | bufB
deriving DecidableEq, Repr

/-- A monitored supply (R456). -/
inductive Supply where
  | main48 | standby12 | computeCore | binnacleCore
deriving DecidableEq, Repr

/-- A watched clock (R451). -/
inductive Clock where
  | fabric | refclk | binnacle | idlePll
deriving DecidableEq, Repr

/-- A block with a bit in CLK_GATE or PWR_BRST, in the order of those bits (R465). -/
inductive Blk where
  | srch | chrt | cell | cap | chn | evt | plt | ser | mem | per
deriving DecidableEq, Repr

/-- One cell's sample at a hub mark (R206). -/
structure Sample where
  vcap : BitVec 16
  icell : BitVec 16
  temp : BitVec 16
  svc : Bool
  perm : Bool
  gdf : Bool
  fcode : Byte
  sofs : BitVec 16
  aux : BitVec 16
deriving DecidableEq, Repr

/-- The commands, one constructor per row of spec/opcode_table.json. -/
inductive Instr where
  -- The Control Period
  | periodMark | marksEnable | marksDisable
  | markSourceWrite (chain : Bool)
  | periodLengthWrite (pace : Fin 3) (v : Word)
  | deadlineWrite (reg : Fin 3) (v : Word)
  | fixDeadline | provisionalSend
  | provisionalGather (p : Slot)
  | searchDeadline | checkDeadline | commitDeadline
  | generalTimerFire (n : Fin 4)
  | timerCompareWrite (n : Fin 4) (v : Word)
  -- The Sextant Array
  | latch (p : Slot) (ue : Option (BitVec 16))
  | launch (p : Slot) (now : Nat)
  | fixReady (p : Slot) (now : Nat) (ue : Option (BitVec 16))
  | comparison (p : Slot)
  | correctionSetup (p : Slot)
  | closeRequest (p : Slot) (now : Nat)
  | budgetExpiry (p : Slot)
  | treeExhausted (p : Slot) (now : Nat)
  | batchIssue (c : Cl)
  | batchLanding (c : Cl) (f : LaneFault)
  | refinedBound (c : Cl) (i : Nat)
  | shiftedSeedOffer (p : Slot)
  | chartSeedOffer (p : Slot)
  | sharingPoint (p : Slot)
  | sharingWrite (p : Slot)
  | stealTransfer (c : Cl)
  | deterministicDeal (p : Slot)
  | chartStep (p : Slot) (now : Nat)
  | deterministicComparison (p : Slot)
  | deterministicClose (p : Slot)
  | finalGather (p : Slot)
  | duplexVerdict (p : Slot)
  | shadowEvaluation (c : Cl)
  | shadowVerdict (p : Slot) (copyOk : Bool)
  | resultRecordWrite (p : Slot)
  -- From Decision to Cell Commands
  | selection (p : Slot) (a : ArmN)
  | downlinkFrameSend (l : LaneN)
  | switchCountDecay (a : ArmN)
  | cntclr
  -- Cell Links and the Hub Protocol
  | laneEnable (l : LaneN)
  | laneDisable (l : LaneN)
  | blockLockAcquired (k : Link)
  | blockLockLost (k : Link)
  | decho (l : LaneN) (typ token : Byte) (turn : BitVec 16) (rtt : Nat)
  | ack (l : LaneN) (typ seq : Byte) (hub : HubN) (result : Byte)
  | ackTimeout (l : LaneN) (seq : Byte)
  | uplinkFrame (l : LaneN) (bytes : List Byte)
  | hcdlWrite (upofs : Bool) (v : Word)
  | roleWrite (role : Bool)
  | hubMark (h : HubN) (samples : List Sample)
  | hubMarkBlock (h : HubN) (portB : Bool) (pcnt : BitVec 16) (ofs : BitVec 7) (role : Bool) (len : BitVec 24)
  | hubMarkAbsent (h : HubN)
  | hubDownlinkFrame (h : HubN) (portB : Bool) (bytes : List Byte) (tNs : Nat)
  | hubDreq (h : HubN) (portB : Bool) (typ token : Byte) (turn : BitVec 16)
  | hubUplink (h : HubN) (portB : Bool) (supply : Bool)
  | hubUnconfigure (h : HubN)
  -- Capture and Compression
  | captureRecord (withheld : Bool) (edcs : List Nat)
  | captureTrigger (src : Fin 6)
  | trig | freeze | captureResume | clear | postTriggerEnd
  | ringScan (met : Met)
  -- The Chart
  | begin_ (b : Buf)
  | verify (b : Buf)
  | verificationDone (b : Buf) (met : Met)
  | activate (b : Buf)
  | deactivate
  | abort (b : Buf)
  | build (b : Buf) (met : Met)
  | chartLookup (p : Slot) (chks : List Check) (now : Nat)
  | buildEntry (c : Cl) (met : Met)
  | chartReverify (met : Met)
  | backgroundVerify (met : Met)
  -- Cluster self-test
  | powerupSelftest (pass : BitVec 16)
  | selftestSegmentStart
  | selftestSegmentEnd (ok : Bool)
  | selftestSlotEnd
  | stenWrite (en : Bool)
  | clexclWrite (v : BitVec 16)
  -- GDDR6 Memory
  | gddr6Access (u : MemUser) (addr : Nat) (size : Nat) (data : Option (List Byte)) (chk : Check)
  | trainingStart
  | trainingDone (pass : BitVec 8) (eye : Vector Byte 8)
  | shortRetrain (c : ChanN) (ok : Bool) (eye : Byte)
  | exclWrite (v : BitVec 8)
  | perBankRefresh (c : ChanN) (bank : Fin 16)
  | temperatureReadout (c : ChanN) (t : Int)
  | scrub (chk : Check)
  | arbitrationWindow
  | selfRefreshEntry (ok : Bool)
  | selfRefreshExit
  -- Functional Safety
  | safeinRequest (lowNs : Nat)
  | safeinReleaseEdge (lowMs : Nat)
  | ss1Timeout | storeq | ss1req | release | keepaliveStop
  -- step 0 opens the first switch, 1 closes it, 2 opens the second, 3 closes it, 4 is 1 µs later
  | outputTest (o : Fin 4) (step : Fin 5)
  -- the level read back at the pin, and for how long it has been so
  | outputFault (o : Fin 4) (high : Bool) (ns : Nat)
  | lockstepMismatch (i : Nat) (b : LsOut)
  | islandSelftest (ok : Bool)
  | watchdogService (key : Word)
  | watchdogTimeout
  | markNotice (bytes : List Byte)
  | decisionReport (bytes : List Byte)
  | missNotice (bytes : List Byte)
  | reportTimeout | dpfWindow | pairedSafeAtMark
  | selftestReport (c : Cl) (pass : Bool)
  | latentTimeout (c : Cl)
  -- above 125 °C for 1 ms, or back at or below it
  | junctionOvertemp (above : Bool)
  -- The Chain
  | chainFrameReceive (p : ChPort) (k : ChLane) (bytes : List Byte)
  | rdreq (p : ChPort) (pilot : Bool) (src : Fin 64) (tag : BitVec 16) (addr : BitVec 40) (nw : Byte) (chks : List Check)
  | wrreq (p : ChPort) (pilot : Bool) (src : Fin 64) (tag : BitVec 16) (addr : BitVec 40) (ws : List Word) (chks : List Check)
  | blkwr (src : Fin 64) (tag : BitVec 16) (addr : BitVec 40) (start : Bool) (bseq : BitVec 16) (data : List Byte) (chks : List Check)
  | blkrd (src : Fin 64) (tag : BitVec 16) (addr : BitVec 40) (len : BitVec 16)
  | blkdataSend (chks : List Check)
  | enum (p : ChPort) (next : Byte) (fresh : Bool)
  | hb (pilot : Bool) (src : Fin 64) (payload : List Byte)
  | pilotHb
  | tkreq (src : Fin 64) (ccount : Word) (cause : Byte)
  | tkconf (src : Fin 64)
  | wake
  | cmark (p : ChPort) (typ : Byte) (ccl ofs : BitVec 24) (hops : BitVec 6) (hi : Bool) (skew now : Nat)
  | chainMark (now : Nat)
  | flywheelMark
  | trimMark (p : ChPort) (cycles : Nat)
  | portDown (p : ChPort)
  | pilotSyncLoss (p : ChPort)
  | chainDecho (p : ChPort) (token : Byte) (turn : BitVec 16) (rtt : Nat)
  | chainDreq (p : ChPort) (token : Byte) (turn : BitVec 16)
  | delayRemeasure (p : ChPort)
  | portRetry (p : ChPort)
  -- The Management Port
  | transactionStart
  | commandWord (w : Word)
  | portRegisterWrite (w : Word)
  | portRegisterRead (edges : Fin 33) (mdi : Word)
  | windowWrite (w : Word)
  | windowWritePerform (chk : Check)
  | windowRead (mdi : Word)
  | windowAccessDone (inTime : Bool) (chk : Check)
  | transactionEnd (edges : Fin 32) (value : Word)
  | portWake | cdrst
  | doorbellIn (bells : Word)
  | doorbellOut (bells : Word)
  -- Helm Core Instruction Set
  | add (n : CoreN) (rd ra rb : RegN) | sub (n : CoreN) (rd ra rb : RegN)
  | and (n : CoreN) (rd ra rb : RegN) | or (n : CoreN) (rd ra rb : RegN) | xor (n : CoreN) (rd ra rb : RegN)
  | sll (n : CoreN) (rd ra rb : RegN) | srl (n : CoreN) (rd ra rb : RegN) | sra (n : CoreN) (rd ra rb : RegN)
  | slt (n : CoreN) (rd ra rb : RegN) | sltu (n : CoreN) (rd ra rb : RegN)
  | min (n : CoreN) (rd ra rb : RegN) | max (n : CoreN) (rd ra rb : RegN)
  | minu (n : CoreN) (rd ra rb : RegN) | maxu (n : CoreN) (rd ra rb : RegN)
  | adds (n : CoreN) (rd ra rb : RegN) | subs (n : CoreN) (rd ra rb : RegN)
  | clz (n : CoreN) (rd ra : RegN) | abs (n : CoreN) (rd ra : RegN)
  | addi (n : CoreN) (rd ra : RegN) (imm : BitVec 16) | andi (n : CoreN) (rd ra : RegN) (imm : BitVec 16)
  | ori (n : CoreN) (rd ra : RegN) (imm : BitVec 16) | xori (n : CoreN) (rd ra : RegN) (imm : BitVec 16)
  | slti (n : CoreN) (rd ra : RegN) (imm : BitVec 16) | sltiu (n : CoreN) (rd ra : RegN) (imm : BitVec 16)
  | shi (n : CoreN) (rd ra : RegN) (k : Fin 4) (amt : Fin 32)
  | lui (n : CoreN) (rd : RegN) (imm : BitVec 16)
  | lw (n : CoreN) (rd ra : RegN) (imm : BitVec 16) (ecc : Ecc)
  | lh (n : CoreN) (rd ra : RegN) (imm : BitVec 16) (ecc : Ecc)
  | lhu (n : CoreN) (rd ra : RegN) (imm : BitVec 16) (ecc : Ecc)
  | lb (n : CoreN) (rd ra : RegN) (imm : BitVec 16) (ecc : Ecc)
  | lbu (n : CoreN) (rd ra : RegN) (imm : BitVec 16) (ecc : Ecc)
  | loadReply (n : CoreN) (chk : Check) (stall : Nat)
  | sw (n : CoreN) (rs ra : RegN) (imm : BitVec 16)
  | sh (n : CoreN) (rs ra : RegN) (imm : BitVec 16)
  | sb (n : CoreN) (rs ra : RegN) (imm : BitVec 16)
  | postedStoreComplete (n : CoreN) (chk : Check)
  | beq (n : CoreN) (ra rb : RegN) (off : BitVec 16) | bne (n : CoreN) (ra rb : RegN) (off : BitVec 16)
  | blt (n : CoreN) (ra rb : RegN) (off : BitVec 16) | bge (n : CoreN) (ra rb : RegN) (off : BitVec 16)
  | bltu (n : CoreN) (ra rb : RegN) (off : BitVec 16) | bgeu (n : CoreN) (ra rb : RegN) (off : BitVec 16)
  | j (n : CoreN) (off : BitVec 26)
  | jr (n : CoreN) (ra : RegN)
  | jalr (n : CoreN) (rd ra : RegN)
  | call (n : CoreN) (mask : BitVec 10) (off : BitVec 16)
  | callr (n : CoreN) (mask : BitVec 10) (ra : RegN)
  -- the check of each word of the frame
  | ret (n : CoreN) (mask : BitVec 10) (eccs : List Ecc)
  | mul (n : CoreN) (m : Fin 4) (ra rb : RegN) | mulu (n : CoreN) (m : Fin 4) (ra rb : RegN)
  | mac (n : CoreN) (m : Fin 4) (ra rb : RegN) | macu (n : CoreN) (m : Fin 4) (ra rb : RegN)
  | msu (n : CoreN) (m : Fin 4) (ra rb : RegN) | macs (n : CoreN) (m : Fin 4) (ra rb : RegN)
  | mpWriteLand (n : CoreN)
  | mfmp (n : CoreN) (rd : RegN) (m : Fin 4) (sh : Fin 64) (rnd sat : Bool)
  | mtmp (n : CoreN) (m : Fin 4) (ra : RegN) | mtmp2 (n : CoreN) (m : Fin 4) (ra rb : RegN)
  | div (n : CoreN) (rd ra rb : RegN) | divu (n : CoreN) (rd ra rb : RegN)
  | rem (n : CoreN) (rd ra rb : RegN) | remu (n : CoreN) (rd ra rb : RegN)
  | mfs (n : CoreN) (rd : RegN) (idx : Byte)
  | mts (n : CoreN) (ra : RegN) (idx : Byte)
  | lstest (hit : Bool)
  | hret (n : CoreN) | wfi (n : CoreN) | fence (n : CoreN) | fenceI (n : CoreN) | breakI (n : CoreN)
  | trap (n : CoreN) (code : Fin 32)
  | atxch (n : CoreN) (rd ra rb : RegN) | atadd (n : CoreN) (rd ra rb : RegN)
  | atand (n : CoreN) (rd ra rb : RegN) | atorr (n : CoreN) (rd ra rb : RegN)
  | interruptTake (n : CoreN)
  | interruptRaise (n : CoreN) (line : Fin 18)
  | tcmpMatch (n : CoreN)
  -- an instruction word of no other row: a custom opcode 0x30 to 0x3F, or a word without a meaning (R351)
  | customInstruction (n : CoreN) (w : Word) (ecc : Option Nat) (fetch : Ecc) (chks : List Check)
  | decodeTableWrite (n : Fin 8) (off : BitVec 13) (v : Word)
  | coreRun (n : Fin 8) | coreHalt (n : Fin 8) | haltComplete (n : Fin 8) | coreReset (n : Fin 8)
  -- Boot and Secure Start
  -- the GEN lines (copy, line) whose normal and margin readings differ, and whether the chosen copy's margin check differs
  | bootRecall (half : List (Fin 2 × Fin 256)) (lines : Nat)
  | bootPort (sfdp : Option Sfdp)
  | bootSlot
  | bootCdpwr (ok : Bool)
  | bootStage (met : Met)
  | bootGddr6 (met : Met)
  | bootSelftest | bootChain | bootChart | bootTimeout | bootRetry
  | done | chartskip | chartfail | reboot
  | bootErase (slot : Fin 2)
  | bootProgram (slot : Fin 2)
  | bootOperationDone (timedOut : Bool)
  | raise | clrdeg
  | bootRead (slot : Fin 2)
  | warmRestart (ok : Bool)
  | computeDieReset (ok : Bool)
  | binnacleReset (refToggling : Bool)
  -- Flash and Record Store
  | program (r : Requester) | erase (r : Requester) | suspend | resume | mcheck | refresh (r : Requester)
  | flashOperationDone (linesDiffer : Nat)
  | flashAutoResume
  | writeProtect (hi : Bool) (v : Word)
  | recordStoreRecall
  | counterIncrement (mask : Byte)
  -- Clocks, Pace and Power States
  | paceRequest (v : Fin 4)
  | pllLock (ok : Bool)
  | voltageSettled
  | clockMonitorWindow (c : Clock) (count : Nat) (nominal : Nat) (farEnd : Option (Nat × Bool))
  | droop (cycles : Nat)
  | gateClose (b : Blk)
  | gateClosed (b : Blk) (forced : Bool)
  | gateOpen (b : Blk)
  | blockReset (b : Blk)
  | blockResetRelease (b : Blk)
  | supplyWarning (u : Supply)
  | supplyResetCrossing (u : Supply)
  | mainInputRestored
  | governorEvaluation (pMeas : Nat) (lanes : Nat) (coldplate : Int)
  | idle | run | stby | dorm
  | idleTimeout | standbyTimeout | dormantTimeout
  | wakeTimer
  | wakePin (level : Bool) (edge : Bool)
  | wakeTaken
  -- Pins and the Event Matrix
  | pinConfigWrite (n : Fin 96) (v : Word)
  | eventInputEdge (n : Fin 96) (rising : Bool)
  | eventChannel (c : Fin 32) (dt now : Nat) (sameCycle : Bool)
  | eventOutputPulseEnd (i : Fin 32)
  | bridgeEvent (code : Byte)
  | softwareEvent (mask : Byte)
  | stormReenable (mask : Word)
  | subscriptionWrite (k : Fin 280) (v : Word)
  | producerWrite (c : Fin 32) (v : Word)
  -- Plot Engines and Serial Channels
  | plotSlot (e : Fin 4) (now : Nat)
  | branch (e : Fin 4) (c : Fin 16) (dly : Fin 16) (cond : Fin 8) (tgt : BitVec 7)
  | hold (e : Fin 4) (c : Fin 16) (dly : Fin 16) (src : Fin 4) (pol : Bool) (idx : Fin 16)
  | drive (e : Fin 4) (c : Fin 16) (dly : Fin 16) (oe val : Bool)
  | shift (e : Fin 4) (c : Fin 16) (dly : Fin 16) (dir lsb : Bool) (idx : Fin 16)
  | take (e : Fin 4) (c : Fin 16) (dly : Fin 16) (nb : Bool) (len : Fin 32)
  | give (e : Fin 4) (c : Fin 16) (dly : Fin 16) (nb : Bool)
  | copy (e : Fin 4) (c : Fin 16) (dly : Fin 16) (dst : Fin 4) (src : Fin 7) (now : Nat)
  | load (e : Fin 4) (c : Fin 16) (dly : Fin 16) (regB : Bool) (imm : BitVec 16)
  | signal (e : Fin 4) (c : Fin 16) (dly : Fin 16) (kind : Fin 4)
  | plotRun (e : Fin 4) (mask : BitVec 16)
  | plotHalt (e : Fin 4) (mask : BitVec 16)
  | txqWrite (e : Fin 4) (c : Fin 16) (v : Word)
  | rxqRead (e : Fin 4) (c : Fin 16)
  | joinWrite (e : Fin 4) (c : Fin 16) (join : Fin 4)
  | txEntryAppend (i : Fin 6) (v : Word)
  | rxRead (i : Fin 6)
  | go (i : Fin 6)
  | serialAbort (i : Fin 6)
  | serialWordDone (i : Fin 6) (rx : Word)
  | serialTransferStart (i : Fin 6)
  | ckdivWrite (i : Fin 6) (v : Word)
  | mpinOutWrite (r : Requester) (v : Word)
  | safetyWordStart (r : Requester) (i : Fin 2) (v : Word)
  -- `atMark`: the conversion that the word reads out started at or after the latest mark
  | safetyWordDone (i : Fin 2) (rx : Word) (atMark : Bool)
  -- `set` and `clr`: the bits that the hardware sets and clears in the cycle of the access (R14)
  | registerReadClear (r : Requester) (addr : BitVec 40) (set : Word) (chk : Check)
  -- `same`: the other accesses that reach a page in the same cycle (R29)
  | registerWrite (r : Requester) (addr : BitVec 40) (v set clr : Word) (same : List Access) (chk : Check)
  | pilotSyncAcquired (p : ChPort)
  | trimMarkSend
  | hubPowerUp (h : HubN) (dual : Bool)
deriving DecidableEq, Repr

end Sys2Proof
end

