-- ==== Sys2Proof/Config.lean ====
section
/-!
DEFINITION. What the manual leaves open: free values without a body. Each is applied to a plain counter of the state
(State.freeCtr) or to the operands it depends on, so that no proof can see what it is.
-/
namespace Sys2Proof

/-- A free 32-bit value: T0 to T3 and LC of the micro-engine when a custom instruction starts (R380), and the content of a
scratch word whose layout R93 does not specify. Log entry 5. -/
opaque Config.freeWord : Nat → Word

/-- A free truth value: whether a SAFEIN low of 2 to 3 µs is recognised (R269, R289). Log entry 6. -/
opaque Config.freeBit : Nat → Bool

/-- The check byte of a 64-bit word of GDDR6: a (72,64) SECDED code that the manual does not give (R244). Log entry 93. -/
opaque Config.checkByte : BitVec 64 → Byte

end Sys2Proof
end

