-- ==== Sys2Proof/Machine/State.lean ====
section
/-!
DEFINITION. The state of the block as plain data. Every register of the manual's register pages lives in `regs`, keyed by
its 40-bit address; every memory byte lives in `mem`. Both are sparse lists: an address not listed holds its reset value
(`regReset`, `memReset` in Machine/Regs.lean and Machine/Ops.lean). What the manual's blocks hold besides registers and
memory is in the structures below, one per block.
-/
namespace Sys2Proof.Machine

/-- Why the machine stops. No meaning of this model raises one: every command of the manual has an effect or an error
response that the machine goes on from. -/
inductive Fault where
  /-- Raised by no meaning; safe, since nothing depends on it. -/
  | neverRaised
deriving DecidableEq, Repr

/-- Why a command has no meaning. -/
inductive Refusal where
  /-- Raised by an arm of `exec` whose meaning is not written yet; safe, the machine only stops. -/
  | notModelled (mnemonic : String)
deriving DecidableEq, Repr

/-! ## Problem tables as latched (R63 to R70) -/

/-- A state entry (R67). -/
structure SEntry where
  frac : Nat := 0
  kind : Nat := 0
  soften : Bool := false
  qsh : Nat := 0
  shift : Nat := 0
  w : Nat := 0
  tw : Nat := 0
  slo : Int := 0
  shi : Int := 0
  mu : Nat := 0
  psh : Nat := 0
  tol : Nat := 0
deriving DecidableEq, Repr

/-- An action entry (R68). -/
structure AEntry where
  arm : Nat := 0
  umin : Nat := 0
  umax : Nat := 0
  step : Nat := 0
  sig : Nat := 0
  level : Nat := 0
deriving DecidableEq, Repr

/-- A coupling constraint (R69): the 2-bit codes of its coefficients and its limits. -/
structure Cpl where
  codes : List Nat := []
  lo : Int := 0
  hi : Int := 0
deriving DecidableEq, Repr

/-- A problem table (R63 to R70). `ref` row l - 1 is leg l; `d` row l is leg l, row 0 before the horizon. -/
structure Table where
  id : Nat := 0
  nx : Nat := 0
  nu : Nat := 0
  h : Nat := 0
  ncpl : Nat := 0
  enable : Bool := false
  determ : Bool := false
  runahead : Bool := false
  chart : Nat := 0
  eps : Nat := 0
  check : Nat := 0
  budget : Nat := 0
  mask : Nat := 0
  bscale : Nat := 0
  tag : Nat := 0
  sts : List SEntry := []
  acts : List AEntry := []
  cpls : List Cpl := []
  a : List (List Int) := []
  g : List (List Int) := []
  d : List (List Int) := []
  ref : List (List Int) := []
deriving DecidableEq, Repr

/-! ## The search array (R89 to R132) -/

/-- An incumbent: its cost, its course, and where it was found, coded as SR_STAT.SRC (R120). -/
structure Inc where
  cost : Nat
  course : Course
  src : Nat
deriving DecidableEq, Repr

/-- A node of the search tree (R94 to R101): depth, prefix, state, accumulated cost, bound, the children not yet issued (none
before its first batch), and whether it has reached the top of its frontier and has its refined bound (R99). -/
structure Node where
  d : Nat
  pfx : Course
  x : List Int
  acc : Nat
  lb : Nat
  kids : Option (List Leg) := none
  seen : Bool := false
  refined : Bool := false
deriving DecidableEq, Repr

/-- A batch in the lane pipeline: the parent node and the children issued (R101). -/
structure Batch where
  parent : Node
  kids : List Leg
deriving DecidableEq, Repr

/-- A cluster: its problem, frontier (top first), incumbent register, batches in flight (oldest first), steal request, the last
shadow evaluation (course, C_sh, limits kept), and what self-test and island ask of it (R89, R101, R105, R122, R127, R286). -/
structure Cluster where
  owner : Option Slot := none
  frontier : List Node := []
  inc : Option Inc := none
  flight : List Batch := []
  stealReq : Bool := false
  shadow : Option (Course × Nat × Bool) := none
  needsPass : Bool := false
  servedSimplex : Bool := false
deriving DecidableEq, Repr

/-- Nodes given up by a donor and not yet arrived, top of the part first (R105). -/
structure Steal where
  donor : Cl
  taker : Cl
  nodes : List Node
deriving DecidableEq, Repr

/-- What the array keeps of a problem beside its registers and its slot in period SRAM. -/
structure Problem where
  /-- The table as latched; before the latch of a period, as the mark saw it. -/
  tbl : Table := {}
  -- kept from launch to launch (R80 to R82, R102)
  wasEnabled : Bool := false
  lastFmt : Nat × Nat × List Nat := (0, 0, [])
  obs : Option (List Int) := none
  /-- Levels applied at the observed state's own mark and at each later mark before the present one. -/
  since : List Leg := []
  prev : Option (Nat × Nat × Course) := none
  -- this period
  u : Leg := []
  enabled : Bool := false
  byMark : Bool := false
  launched : Bool := false
  launchFc : Nat := 0
  launchCount : Nat := 0
  closeAtLatch : Nat := 0
  code : Nat := 0
  newF : Bool := false
  histClr : Bool := false
  emask : Nat := 0
  umax : Leg := []
  x0 : List Int := []
  xhat : List Int := []
  tail : List Nat := []
  /-- T_sh (R138), and whether a box of it was replaced by the whole signed range (R139). -/
  tsh : Nat := 0
  tshWide : Bool := false
  -- the fix (R41 to R46)
  fixRdy : Bool := false
  fixLate : Bool := false
  fixObs : Option (List Int) := none
  compared : Bool := false
  corr : Bool := false
  x0n : List Int := []
  drOnly : Bool := false
  resid : Nat := 0
  -- provisional send (R49)
  provWait : Bool := false
  provGather : Option Leg := none
  provLeg : Option Leg := none
  -- the search (R100 to R112)
  fEps : Option Nat := none
  fDrop : Option Nat := none
  epsCut : Bool := false
  drop : Bool := false
  detLost : Bool := false
  stage1 : Bool := false
  lvl : List Node := []
  nxt : List Node := []
  shifted : Option Course := none
  chartBuf : Option Buf := none
  lookup : Bool := false
  /-- The launch lookup's start, while it is outstanding beside a correction's lookup. -/
  lookOld : Option (List Int × Leg) := none
  /-- Bursts that the oldest lookup outstanding has read in earlier windows (R257). -/
  lookPos : Nat := 0
  chWait : Option Nat := none
  lastLookup : Option Course := none
  /-- A chart course that has arrived and is not yet offered; the chart seed once offered. -/
  seedPend : Option Course := none
  seedChart : Option Course := none
  chartSeed : Bool := false
  shiftPend : Bool := false
  chStepped : Bool := false
  share : Option Inc := none
  steals : List Steal := []
  legs : Nat := 0
  nSteal : Nat := 0
  nInc : Nat := 0
  -- close, check and decision
  close : Nat := 0
  closeFc : Nat := 0
  stall : Nat := 0
  gathered : Bool := false
  inc : Option Inc := none
  gap : Nat := 0
  faultCl : Option Nat := none
  verdict : Nat := 0
  shDiff : Nat := 0
  provSent : Bool := false
  provEq : Bool := false
  decided : Bool := false
  reported : Bool := false
  missed : Bool := false
  reason : Nat := 0
  recDue : Bool := false
  recDone : Bool := false
  /-- Writes to the slot stalled during the latch: address and bytes, oldest first (R86). -/
  stalled : List (Nat × List Byte) := []
deriving DecidableEq, Repr

/-- The self-test rotation (R127, R128). -/
structure Rotation where
  /-- SRCH_CLEXCL as in force (R127). -/
  excl : Nat := 0
  left : Nat := 225
  cur : Nat := 0
  resumeAt : Option Nat := none
  first : List Nat := []
  segRunning : Bool := false
  /-- A segment has started in the present period. -/
  ran : Bool := false
  tested : Bool := false
  stopped : Bool := false
  powerupDone : Bool := false
deriving DecidableEq, Repr

/-! ## The period scheduler (R30 to R59) -/

structure Per where
  running : Bool := false
  stopPending : Bool := false
  firstPending : Bool := false
  chainSrc : Bool := false
  lens : Vector Nat 3 := #v[37500, 27500, 17500]
  dls : Vector Nat 5 := #v[200, 360, 640, 700, 800]
  pace : Fin 3 := 0
  len : Nat := 37500
  /-- The latest fabric cycle of the period that a command has told (PER_NOW). -/
  now : Nat := 0
  fixPassed : Bool := false
  provPassed : Bool := false
  srchPassed : Bool := false
  chkPassed : Bool := false
  commitPassed : Bool := false
  /-- A deadline register has been written since the last mark (R37). -/
  dlNew : Bool := false
  tmrCur : Vector Nat 4 := Vector.replicate 4 0
deriving DecidableEq, Repr

/-! ## The chart (R145 to R172) -/

/-- A build in progress (R166 to R168): for each section the copy of its slot's table, the entries produced so far in
entry order (complete sections first), and the section being built. -/
structure Build where
  buf : Buf
  tables : List Table
  sec : Nat
  done : List (List (Option Course))
  out : List (Option Course)
deriving DecidableEq, Repr

/-- The chart unit beside its registers: a withdrawal due at the next mark (R158), the build that runs and the one that follows it, a
re-verified buffer that becomes active at the next mark (R169), and the buffer whose background verification runs (R170). -/
structure Chart where
  withdraw : Bool := false
  build : Option Build := none
  nextBuild : Option Build := none
  reverBuf : Option Buf := none
  pendRever : Bool := false
  bg : Option Buf := none
deriving DecidableEq, Repr

/-! ## Cells, lanes and hubs (R173 to R223) -/

/-- A cell in an arm's snapshot (R179). -/
structure SnapCell where
  n : Nat
  v : Nat
  avail : Bool
  sc : Nat
  recd : Nat
deriving DecidableEq, Repr

/-- One arm's snapshot (R179): its cells in ascending number and the arm current. -/
structure ArmSnap where
  arm : Nat
  cells : List SnapCell
  cur : Int
deriving DecidableEq, Repr

/-- A selection of a problem: the KIND of its frames (R209), the target level of each arm, the arms still to select in ascending
number, and what the selected arms gave: (cell, word) and (arm, realised level). -/
structure SelJob where
  kind : Nat
  targets : List (Nat × Nat)
  todo : List Nat
  words : List (Nat × Nat) := []
  realised : List (Nat × Nat) := []
deriving DecidableEq, Repr

/-- A downlink frame (R210). In an HPAR frame `words` are the entries as index + 256 × value. -/
structure DFrame where
  kind : Nat
  hub : Nat
  pcnt : Nat
  prob : Nat
  rtx : Nat := 0
  role : Bool := false
  seq : Nat := 0
  pseq : Nat := 0
  cmask : Nat := 0
  pchk : Nat := 0
  words : List Nat
deriving DecidableEq, Repr

/-- A problem in the sorter in this period: its snapshot, the job running, the provisional commands and the settling commands
whose selection is complete. -/
structure Sel where
  snap : Option (List ArmSnap) := none
  job : Option SelJob := none
  prov : Option SelJob := none
  final : Option SelJob := none
deriving DecidableEq, Repr

/-- A MARK block as sent on a lane (R197, R199). -/
structure LaneMark where
  pcnt : Nat
  ofs : Nat
  role : Bool
  len : Nat
deriving DecidableEq, Repr

/-- A cell lane beside its registers (R199, R202, R216, R218). `seq` is the SEQ of the next new frame, none before the first.
`queue` holds frames waiting to leave, `await` frames that have left and wait for their ACK, `sent` the frames that left in this
period, newest first. `mark` is the last MARK block sent. -/
structure Lane where
  token : Nat := 0
  echoes : List Nat := []
  attempts : Nat := 0
  hparSent : Nat := 0
  hparMark : Option Nat := none
  seq : Option Nat := none
  queue : List DFrame := []
  await : List DFrame := []
  sent : List DFrame := []
  silent : Nat := 0
  gotUplink : Bool := false
  mark : Option LaneMark := none
deriving DecidableEq, Repr

/-- A hub's cell: the state held, the hold count of R191, and the command resolved for the next mark (R189). -/
structure HubCell where
  state : Nat := 2
  hold : Nat := 3
  next : Option Nat := none
deriving DecidableEq, Repr

/-- A command, commit, cancel or HPAR frame that a hub has received intact and in time in the period, with its base CRC and the result
it was acknowledged with (R217). -/
structure HubRx where
  portB : Bool
  frame : DFrame
  base : Nat
  result : Nat
deriving DecidableEq, Repr

/-- A cell hub (R189 to R192, R200 to R206, R211 to R217, R220, R221, R525). Parameters are none until applied; `pendPar` waits for
the next mark (index, value, port B). `before` is the state of each cell before the last mark's switching. `upstat` is
HSTAT of the uplink of this mark once sent. `out` is what the hub has sent since its last mark: port B, and the control block's or
frame's bytes, newest first. -/
structure Hub where
  dual : Bool := false
  configured : Bool := false
  num : Option Nat := none
  dlyA : Option Nat := none
  dlyB : Option Nat := none
  hcdl : Option Nat := none
  upofs : Option Nat := none
  pendPar : List (Nat × Nat × Bool) := []
  timed : Bool := false
  gotBlock : Bool := false
  pcnt : Nat := 0
  len : Nat := 0
  timingB : Bool := false
  roleA : Bool := false
  roleB : Bool := false
  absent : Nat := 0
  blockAll : Bool := false
  cells : Vector HubCell 16 := Vector.replicate 16 {}
  samples : List Sample := []
  before : List Nat := []
  rx : List HubRx := []
  solved : List (Nat × Bool) := []
  markLost : Bool := false
  dlErr : Bool := false
  late : Bool := false
  dupErr : Bool := false
  roleC : Bool := false
  upstat : Option Nat := none
  lastSeq : Nat := 0
  dlCnt : Nat := 0
  out : List (Bool × List Byte) := []
deriving DecidableEq, Repr

/-- The sorter and the cell record (R173 to R193). -/
structure CellUnit where
  sels : Vector Sel 4 := Vector.replicate 4 {}
  /-- Problems with a job in the sorter, in the order of arrival (R186). -/
  order : List Slot := []
  /-- Cells with an uplink record accepted in the present period, and in the one before (R175). -/
  recNow : List Nat := []
  recPrev : List Nat := []
  /-- State given to each cell by the last settling frame that left in this period (R187). -/
  left : List (Nat × Nat) := []
  /-- For the present mark: the states that had left for it, and record and hold count at the mark before (R188). -/
  leftMark : List (Nat × Nat) := []
  prevRec : List (Nat × Nat × Nat) := []
  /-- u_k of each configured arm, formed at the mark (R187). -/
  level : List (Nat × Nat) := []
  clrPending : Bool := false
  /-- Whole periods counted since EN of an arm was set, and the arms whose window has just ended (R183). -/
  win : List (Nat × Nat) := []
  due : List Nat := []
  /-- Command frames are stopped: by a hand-over (R284), and in the period in which the safe state was entered (R266). -/
  stopFrames : Bool := false
  stopAll : Bool := false
  /-- Hubs of which a record has been accepted in the present period, and NCELL of each hub's latest record (R227). -/
  upNow : List Nat := []
  ncell : List (Nat × Nat) := []
deriving DecidableEq, Repr

/-! ## Capture (R224 to R241) -/

/-- A snapshot of a period (R224). -/
structure Snap where
  pcnt : Nat
  miss : Nat
  hubs : List Nat
  hstat : List Nat
  cells : List (List (Nat × Nat × Nat × Nat))
  probs : List (Nat × List Nat)
  trigs : Nat
  kmode : Nat
  raw : Bool
deriving DecidableEq, Repr

/-- The capture unit beside its registers. `prev` holds the values a reader reconstructs from the record before; `sinceKey` counts
records since the last key record; `trigs` the sources that have fired since the last snapshot; `trigged` that a trigger has fired
since arming, with `post` further periods to capture; `lost` the sources that have fired while frozen since the mark (R240); `trigRec` that the next record written is the trigger record; `any` that the ring holds a record; `scan` that the ring scan of
R238 is due, with `scanned` the bursts it has read in earlier windows; `wrote` the bursts of the record in progress that have been written
(R257). `snapped`: this period's snapshot has been taken; `gap`: a period since the last record has none (AFTERGAP, R227); `dropped`: a
record has been dropped since the last one (R232). -/
structure Cap where
  snap : Option Snap := none
  prev : Option Snap := none
  sinceKey : Nat := 0
  gap : Bool := false
  dropped : Bool := false
  snapped : Bool := false
  keyNext : Bool := true
  trigs : Nat := 0
  lost : Nat := 0
  trigged : Bool := false
  trigRec : Bool := false
  post : Nat := 0
  resume : Bool := false
  any : Bool := false
  scan : Bool := false
  scanned : Nat := 0
  wrote : Nat := 0
deriving DecidableEq, Repr

/-! ## GDDR6 (R242 to R263) -/

/-- A request that waits (R257, R258): who makes it, address, size, the data of a write, and what its service meets. -/
structure MemReq where
  u : MemUser
  addr : Nat
  size : Nat
  data : Option (List Byte)
  chk : Check
deriving DecidableEq, Repr

/-- The GDDR6 controller beside its registers. Per channel: refresh doubled by temperature (R255), the bank refreshed last, the
short retrain in progress and the failures in a row (R251), the channel unusable (R251), the training result (R249). `poisonDue` lists
the 64-byte blocks whose check bytes get a poison pattern once their channel has retrained (R254). `waiting` holds requests beyond an
allotment or to a channel that retrains, oldest first, and `last` per class the requester served last (R257). -/
structure Mem where
  double : Vector Bool 8 := Vector.replicate 8 false
  refreshed : Vector (Option Nat) 8 := Vector.replicate 8 none
  training : Bool := false
  dead : Vector Bool 8 := Vector.replicate 8 false
  passed : Vector Bool 8 := Vector.replicate 8 false
  tries : Vector Nat 8 := Vector.replicate 8 0
  retraining : Vector Bool 8 := Vector.replicate 8 false
  poisonDue : List Nat := []
  selfRefresh : Bool := false
  retained : Bool := false
  lkUsed : Nat := 0
  capUsed : Nat := 0
  waiting : List MemReq := []
  last : Vector Nat 6 := Vector.replicate 6 0
deriving DecidableEq, Repr

/-! ## Safety island (R264 to R290) -/

/-- The island beside its registers. `islandFault`: it stands still, after an island fault (R272) or held in reset (R22). `active` holds
the causes whose condition lasts (R271); `armed` that the report time-out of R275 runs; `lastU` per slot PCNT and U of the latest report, `y1` per quantity PCNT and the prediction kept (R278, R279); `yMark` the first
sample since the mark and `yPrev` that of the period before (R277); `timed` the clusters timed under R286 and `late` those past 100 ms; `oc` the quantities over their limit
(R281); `memRegions` the GDDR6 regions in which an uncorrectable error was recorded (R282), `memChans` the channels whose failed retrain
was reported (R251); `reports` the self-test reports on the bridge, oldest first: cluster, and whether it passed (R129). `test` is the
output under test and how far its test has come: 0 first switch open, 1 closed again, 2 second switch open, 3 closed again (R268);
`outBad` the outputs in fault and `lanesLost` the lanes lost and not back (R271); `missed` the slots with a miss notice since the latest
mark notice (R283); `passes` the timed clusters in the order of their latest pass, with the 1 ms ticks since (R286); `readback` the outputs last told to read
another level than the one driven, with it (R268, R290). -/
structure Saf where
  active : Nat := 0x40000
  relPending : Bool := false
  islandFault : Bool := false
  selftest : Bool := false
  keepalive : Bool := true
  wdogRun : Bool := false
  pairWait : Option Nat := none
  pcnt : Option Nat := none
  armed : Bool := false
  enmask : Nat := 0
  got : Nat := 0
  lastU : Vector (Option (Nat × List Nat)) 4 := Vector.replicate 4 none
  y1 : Vector (Option (Nat × Int)) 4 := Vector.replicate 4 none
  yMark : Vector (Option Int) 4 := Vector.replicate 4 none
  yPrev : Vector (Option Int) 4 := Vector.replicate 4 none
  misses : Vector Nat 4 := Vector.replicate 4 0
  window : Nat := 0
  excl : Nat := 0
  timed : Nat := 0
  late : Nat := 0
  oc : Nat := 0
  memRegions : Nat := 0
  memChans : Nat := 0
  reports : List (Cl × Bool) := []
  test : Option (Fin 4 × Nat) := none
  outBad : Nat := 0
  lanesLost : List LaneN := []
  missed : Nat := 0
  passes : List (Cl × Nat) := []
  readback : Vector (Option Bool) 4 := Vector.replicate 4 none
deriving DecidableEq, Repr

/-! ## The chain (R291 to R321) -/

/-- A chain frame (R294). -/
structure CFrame where
  typ : Nat
  dst : Nat
  src : Nat
  hops : Nat
  wrap : Bool
  tag : Nat
  pay : List Byte
deriving DecidableEq, Repr

/-- One port of the chain: the DREQ token, the echoes and attempts of the measurement in progress, a new DLY that waits for a mark,
the chain count of the latest CMARK, and the consecutive CMARKs delivered (R302, R308, R312). -/
structure CPort where
  token : Nat := 0
  echoes : List Nat := []
  attempts : Nat := 0
  measuring : Bool := false
  newDly : Option Nat := none
  seenMark : Option (Nat × Nat) := none
  streak : Nat := 0
  /-- The pilot lane is in sync: kept by the Binnacle (R299). -/
  pilot : Bool := false
deriving DecidableEq, Repr

/-- A CMARK sent (R292): port, CCL, OFS, HOPS and HI. -/
structure CMark where
  port : ChPort
  lane : ChLane
  ccl : Nat
  ofs : Nat
  hops : Nat
  hi : Bool
deriving DecidableEq, Repr

/-- A bulk read that runs (R306): source, tag, next address, bytes left. -/
structure BulkRead where
  src : Nat
  tag : Nat
  addr : Nat
  left : Nat
deriving DecidableEq, Repr

/-- The chain beside its registers. `inbox` holds frames consumed and not yet handled (port, pilot lane, frame); `casts` the source
and tag of broadcasts consumed, with the 1 ms ticks since (R296); `streams` the bulk reads that run, oldest first, and `bseqs` per
source of a bulk write its expected BSEQ and the BSEQ last written (R305, R306); `hbs` and `hbNow` the D0 heartbeats counted in a row and whether one came
in this period (R314); `pendMark` the chain count, HOPS and port of the CMARK that the next chain mark follows; `flyMark` the count of
the flywheel mark raised last (R311); `trimMaster` that the Binnacle sends trim marks (R313). What has left the module, oldest first, each
with the lane that carried it: frames (`sent`), CMARKs, DREQ and DECHO blocks; and the
number of trim marks on each pilot lane. -/
structure Chain where
  up : CPort := {}
  dn : CPort := {}
  inbox : List (ChPort × Bool × CFrame) := []
  sent : List (ChPort × ChLane × CFrame) := []
  casts : List (Nat × Nat × Nat) := []
  streams : List BulkRead := []
  bseqs : List (Nat × Nat × Option Nat) := []
  hbs : Nat := 0
  hbNow : Bool := false
  paired : Bool := false
  pendMark : Option (Nat × Nat × ChPort) := none
  flyMark : Option Nat := none
  trimMaster : Bool := false
  marksOut : List CMark := []
  dreqOut : List (ChPort × ChLane × Nat) := []
  dechoOut : List (ChPort × ChLane × Nat × Nat) := []
  trimUp : Nat := 0
  trimDn : Nat := 0
deriving DecidableEq, Repr

/-- How a request that is outstanding stands to the clock gate of the block it addresses (R454): not concerned; in flight while the gate
closes, so that it still finishes; forced at 16 fc. -/
inductive Gate where
  | free | closing | forced
deriving DecidableEq, Repr

/-! ## The management port (R322 to R338) -/

/-- A transaction in progress: `none` phase outside one (R322 to R336). -/
inductive Phase where
  | idle | command | dead | regWrite | regRead | winWrite | winRead
deriving DecidableEq, Repr

/-- A window read started and not completed: its address, its access number while its data is still wanted, and whether a reset of what it
addresses has turned it into an error response (R338, R455). -/
structure PortRead where
  addr : Nat
  want : Option Nat
  lost : Bool := false
  gate : Gate := .free
deriving DecidableEq, Repr

/-- `words` are the complete words received on MDI in this transaction and `mdo` those driven on MDO, oldest first; `status` the
status word's snapshot; `index` the register index, or in a window read the accesses started. In a window read `word` is the MDI
content of the word in progress, `reads` the accesses started and not completed, `data` the results by access number. `queue` holds the window writes that wait (R331). -/
structure Port where
  phase : Phase := .idle
  index : Nat := 0
  inc : Bool := false
  words : List Word := []
  status : Word := 0
  mdo : List Word := []
  queue : List (Nat × Word) := []
  word : Option Word := none
  reads : List PortRead := []
  data : List (Nat × Word) := []
deriving DecidableEq, Repr

/-! ## Helm cores (R339 to R391) -/

/-- An MP write in flight (R356, R357): the cycle in which it issued, the MP register, the function of opcode 0x1C (6 MTMP, 7 MTMP2)
and its operands. `micro`: issued by a microword of the custom instruction that runs, whose cycles are counted in microwords (R384). -/
structure MpWrite where
  issued : Nat
  m : Fin 4
  fn : Nat
  a : Word
  b : Word
  micro : Bool := false
deriving DecidableEq, Repr

/-- A posted store in the store buffer (R346): the 40-bit address, the EA, the size and the value. -/
structure Posted where
  addr : Nat
  ea : Word
  size : Nat
  val : Word
  gate : Gate := .free
deriving DecidableEq, Repr

/-- A load waiting for its reply (R346). `kind`: 0 word, 1 half signed, 2 half unsigned, 3 byte signed, 4 byte unsigned.
`lost`: a reset of what it addresses has turned it into an error response (R455). -/
structure PendLoad where
  rd : RegN
  addr : Nat
  ea : Word
  kind : Nat
  lost : Bool := false
  gate : Gate := .free
deriving DecidableEq, Repr

/-- One Helm core (R341 to R343, R346, R356, R364 to R369). `flight` holds MP writes that have not landed, oldest first; `stores` the
store buffer, of which the first `orphan` were issued before a reset of the core; `posted` the EA of a posted store that failed and
has not raised its exception; `loaded` the destination of a load that was the latest instruction. Of the lockstep pair this is core A; `outs`
holds its outputs of the last two cycles, which the comparator has not yet seen from core B, oldest first, each with its cycle (R372), and
`lsArm` that the forced mismatch of LSTEST awaits the next store, with whether the comparator will see it (R373). -/
structure Core where
  w : Vector Word 32 := Vector.replicate 32 0
  mp : Vector (BitVec 64) 4 := Vector.replicate 4 0
  flight : List MpWrite := []
  pc : Word := 0
  status : Word := 0
  epc : Word := 0
  ecause : Word := 0
  eval : Word := 0
  evec : Word := 0
  imask : Word := 0
  ipend : Word := 0
  cycle : BitVec 64 := 0
  cycleH : Word := 0
  tcmp : Word := 0
  scratch : Word := 0
  seg : Vector Word 16 := #v[0, 0x100, 0x200, 0x300, 0x400, 0x500, 0x030, 0x036, 0x501, 0x502, 0x000, 0x001, 0x002, 0x003, 0x004, 0x005]
  lsstat : Word := 0
  running : Bool := false
  stopping : Bool := false
  runAgain : Bool := false
  wfi : Bool := false
  pend : Option PendLoad := none
  stores : List Posted := []
  orphan : Nat := 0
  posted : Option Word := none
  loaded : Option RegN := none
  outs : List (Nat × LsOut) := []
  lsArm : Option Bool := none
deriving DecidableEq, Repr

/-! ## Boot, flash, power, pins, Plot engines, serial channels -/

/-- How the boot-memory port reads (R392 to R394): mode, command, dummy cycles, the divider of the Binnacle clock, and whether addresses have 4
bytes. Out of reset it is set for SFDP. -/
structure ReadPort where
  mode : ReadMode := .m111
  code : Byte := 0x5A
  dummy : Nat := 8
  div : Nat := 16
  long : Bool := false
deriving DecidableEq, Repr

/-- The loader beside its registers. `active`: a boot runs, in step `step`; `retry`: a failed boot waits 100 ms (R407); `warm`: the
boot is a warm restart; `recalled`: the progress record has been read since the Binnacle's reset; `fromRecovery`: the boot was started in Recovery
(R408). Of the boot memory: the density used, what SFDP gave, how the port reads, and the commands that step PORT or the latest operation sent.
`hdr` holds the copies of the two headers, `cores` the CORES words of the microcode blocks they list (0 for another segment), `ucode` the copy of
the management core's block (R400), `slot` the slot chosen, the hashes as 12 words each (R405). `op` is the boot-memory operation that runs: its
OP, the slot's byte address, its data. The boot-block copy chosen and its generation. -/
structure Boot where
  step : Nat := 1
  active : Bool := true
  retry : Bool := false
  warm : Bool := false
  recalled : Bool := false
  fromRecovery : Bool := false
  density : Nat := 0
  sfdp : Option Sfdp := none
  port : ReadPort := {}
  sent : List Byte := []
  hdr : List (List Byte) := []
  cores : List (List Nat) := []
  ucode : List Byte := []
  slot : Option (Fin 2) := none
  chosenHash : List Nat := List.replicate 12 0
  lastHash : List Nat := List.replicate 12 0
  failHash : List Nat := List.replicate 12 0
  lastSlot : Nat := 0
  op : Option (Nat × Nat × List Byte) := none
  bbCopy : Fin 2 := 0
  bbGen : Nat := 0
deriving DecidableEq, Repr

/-- A flash operation (R419): its code, its sector, and the line and data of a PROGRAM. Of a REFRESH `phase` is 0 while it copies, 1 while its
erase waits for the end of a supply warning, 2 while it erases and 3 while it programs, with `line` the lines done (R433, R444). -/
structure FOp where
  op : Nat
  sector : Nat
  line : Nat
  data : List Byte
  phase : Nat := 0
deriving DecidableEq, Repr

/-- The flash unit beside its registers: the operation that runs or is suspended, and a supply warning in force (R419, R435). -/
structure Flash where
  op : Option FOp := none
  warn : Bool := false
deriving DecidableEq, Repr

inductive Power where
  | run | idle | standby | dormant | off | recovery | starting
deriving DecidableEq, Repr

/-- Clocks and power beside their registers. `cdUp`: the compute die is powered and out of reset; `held`: it is powered and held in reset
(R27). A pace change (R449): its target,
whether the voltage and the lock of steps 1 and 2 are there, and whether step 4 lowers the voltage. `streaks` counts the evaluations
of R459 in a row that would allow Sprint, and Cruise; `trimStreak` the intervals of R448, with `trimCode` the Binnacle's trim code and `trimSeen`
that a trim mark has come since its reset. `idlePend` and `runPend` wait for a mark; `idlePeriods` counts periods for the
idle timer; `wakes` holds the wake sources that have arrived, by code, and `pinLevel` the level of the wake pins (R461). `mainLost`
and `wasRun` follow R457. `cdRstReq`: a warm restart is due (R411). `hang`: the next compute-die reset follows a hang (R450). -/
structure Clk where
  power : Power := .starting
  cdUp : Bool := false
  held : Bool := false
  target : Option (Fin 3) := none
  voltOk : Bool := true
  lockOk : Bool := false
  lowering : Bool := false
  streaks : Nat × Nat := (0, 0)
  trimStreak : Nat := 0
  trimCode : Int := 0
  trimSeen : Bool := false
  idlePend : Bool := false
  runPend : Bool := false
  idlePeriods : Nat := 0
  wakes : Nat := 0
  pinLevel : Bool := false
  mainLost : Bool := false
  wasRun : Bool := false
  cdRstReq : Bool := false
  hang : Bool := false
  /-- REFSEL as it stood when the Binnacle went down, for the choice at the release of its reset (R447). -/
  refSel : Bool := false
  /-- 1 ms ticks of the Binnacle since its reset, and the coldplate reading of the latest, in 1/16 °C (R459). -/
  ms : Nat := 0
  coldplate : Int := 0
deriving DecidableEq, Repr

/-- Pads, event lines and the event channels that carry an event in the next cycles (R466 to R482). Bit n of `ext` is the level
the outside last drove on pad n and bit n of `extOn` that it has driven one; bit n of `kept` is the level a keeper or a held sleep
level shows; bit i of `lines` is event output line i. -/
structure Pins where
  ext : Nat := 0
  extOn : Nat := 0
  kept : Nat := 0
  lines : Nat := 0
  /-- Bit i: a pulse runs on event output line i (R480). -/
  pulses : Nat := 0
  /-- Producer events that each channel is about to carry, and those of tasks that act on them, carried after (R477). -/
  evts : Vector Nat 32 := Vector.replicate 32 0
  late : Vector Nat 32 := Vector.replicate 32 0
  /-- Ages in fc of the latest events each channel carried, newest first (R479). -/
  storm : Vector (List Nat) 32 := Vector.replicate 32 []
  /-- Tasks that have acted for an event of this cycle, with a further channel whose event reaches them in the same cycle (R478). -/
  served : List (Nat × Nat) := []
  /-- Tasks whose actions were done by the latest register writes that did any, those of one cycle together (R476). -/
  wrote : List Nat := []
  /-- Events crossing the die-to-die bridge, oldest first (R477): 0x28 and 0x29 to a producer, l below 16 to line l of the
  management core. -/
  bridge : List Nat := []
deriving DecidableEq, Repr

/-- A Plot engine channel (R486): `wait` codes WAIT of PLT_CSTAT, `dly` the DLY slots left, `markSeen` for a HOLD on a mark that has
been issued whether a mark has fallen since (R487). -/
structure PlotCh where
  run : Bool := false
  pc : Nat := 0
  sr : Word := 0
  sc : Nat := 0
  a : Word := 0
  b : Word := 0
  fl : Bool := false
  ep : Bool := false
  out : Bool := false
  oe : Bool := false
  wait : Nat := 0
  dly : Nat := 0
  markSeen : Option Bool := none
  txq : List Word := []
  rxq : List Word := []
deriving DecidableEq, Repr

/-- A serial channel (R496 to R500). A transmit entry is its word and the content of SER_TXC. `cur` is the word in progress, `sel` the
select asserted; `held` that the last word of the running transfer had CONT 1; `goPend` a start request not yet served. -/
structure SerCh where
  tx : List (Word × Nat) := []
  rx : List Word := []
  cur : Option (Word × Nat) := none
  sel : Option Nat := none
  busy : Bool := false
  held : Bool := false
  goPend : Bool := false
deriving DecidableEq, Repr

/-- The Plot engines' next slots, their channels (16e + c), the serial channels, and for each safety channel the select
asserted when its word in progress was started, and that word (R485, R496, R504). -/
structure Io where
  slot : Vector Nat 4 := Vector.replicate 4 0
  plot : Vector PlotCh 64 := Vector.replicate 64 {}
  ser : Vector SerCh 6 := Vector.replicate 6 {}
  safeSel : Vector (Option Nat) 2 := Vector.replicate 2 none
  safeTx : Vector Word 2 := Vector.replicate 2 0
deriving DecidableEq, Repr

/-- The whole block. -/
structure State where
  mem : List Host.Cell
  /-- The 4-byte units (address / 4) of ECC-protected memory that lie in a word found uncorrectable and not written since (R247, R254,
  R272, R340, R417). -/
  flaws : List Nat
  regs : List (Nat × Word)
  per : Per
  probs : Vector Problem 4
  cls : Vector Cluster 16
  rot : Rotation
  chart : Chart
  cell : CellUnit
  lanes : Vector Lane 64
  hubs : Vector Hub 64
  cap : Cap
  gmem : Mem
  saf : Saf
  chain : Chain
  port : Port
  cores : Vector Core 10
  boot : Boot
  flash : Flash
  clk : Clk
  pins : Pins
  io : Io
  /-- The die-to-die bridge: notices sent to the island, oldest first (R274). -/
  notices : List (List Byte)
  /-- The model's own counter of free values read so far; not the manual's. -/
  freeCtr : Nat
  /-- The commands waiting, first in, first out. -/
  pending : List Instr
deriving DecidableEq, Repr

/-- The block right after the Binnacle reset at power-up: every register at the reset value of its table (none listed), memory
with nothing listed, boot step RECALL in progress, the compute die off, and the safe state latched (R12, R22, R273, R404). -/
def State.reset : State :=
  { mem := [], flaws := [], regs := [], per := {}, probs := Vector.replicate 4 {}, cls := Vector.replicate 16 {}, rot := {}, chart := {},
    cell := {}, lanes := Vector.replicate 64 {}, hubs := Vector.replicate 64 {}, cap := {}, gmem := {}, saf := {}, chain := {},
    port := {}, cores := Vector.replicate 10 {}, boot := {}, flash := {}, clk := {}, pins := {}, io := {}, notices := [],
    freeCtr := 0, pending := [] }

end Sys2Proof.Machine
end

