-- ==== Sys2Proof/Machine/Regs.lean ====
section
/-!
DEFINITION. The register pages (R23): the address of every register, its reset value and the access code of each of its
bits (R13), one row per line of the manual's register maps. A row may describe an array: `count` registers `stride` bytes
apart, each of `inner` consecutive words. Bits of no mask are read-only or write-only; what a write of a write-only bit
does, and what a register that is computed from other state reads as, is in Machine/Bus.lean.
-/
namespace Sys2Proof.Machine

/-- One row of a register map: masks of the RW, RWL, W1C, W1S and RC bits (R13). `step` is added to the reset value per
element (CELL_LCFGl, R223). -/
structure RegRow where
  off : Nat
  reset : Nat := 0
  rw : Nat := 0
  rwl : Nat := 0
  w1c : Nat := 0
  w1s : Nat := 0
  rc : Nat := 0
  stride : Nat := 4
  count : Nat := 1
  inner : Nat := 1
  step : Nat := 0
deriving DecidableEq, Repr

/-! Page bases (R23). -/
def sysBase : Nat := 0x4000000000
def perBase : Nat := 0x4000010000
def srchBase : Nat := 0x4000020000
def chrtBase : Nat := 0x4000030000
def cellBase : Nat := 0x4000040000
def capBase : Nat := 0x4000050000
def memBase : Nat := 0x4000060000
def chnBase : Nat := 0x4000070000
def hlmBase : Nat := 0x4000080000
def clkBase : Nat := 0x4000090000
def pinBase : Nat := 0x40000A0000
def evtBase : Nat := 0x40000B0000
def pltBase : Nat := 0x40000C0000
def serBase : Nat := 0x40000D0000
def bootBase : Nat := 0x5000000000
def flsBase : Nat := 0x5000010000
def nvrBase : Nat := 0x5000020000
def safBase : Nat := 0x5000030000
def mpinBase : Nat := 0x5000040000
def mptBase : Nat := 0x5000050000
/-- The management core's own decode table and microwords (R388), laid out as one core's block of R391; no bus address. -/
def mgmtDtBase : Nat := 0x10200000000

def allBits : Nat := 0xFFFFFFFF
/-- LOCK, bit 31 of a page's control register. -/
def lockBit : Nat := 0x80000000

/-! ## PER (R59) -/
def perCtrl : Nat := perBase
def perStatus : Nat := perBase + 0x04
def perLen (i : Nat) : Nat := perBase + 0x08 + 4 * i
def perDl (i : Nat) : Nat := perBase + 0x14 + 4 * i
def perCount : Nat := perBase + 0x20
def perNow : Nat := perBase + 0x24
def perMissCnt : Nat := perBase + 0x28
def perTmrCtrl (n : Nat) : Nat := perBase + 0x40 + 8 * n
def perTmrCmp (n : Nat) : Nat := perBase + 0x44 + 8 * n

def perRows : List RegRow := [
  { off := 0x00, rw := 3, w1s := lockBit },
  { off := 0x04, w1c := 0xFF1 },
  { off := 0x08, reset := 37500, rwl := 0x1FFFFF },
  { off := 0x0C, reset := 27500, rwl := 0x1FFFFF },
  { off := 0x10, reset := 17500, rwl := 0x1FFFFF },
  { off := 0x14, reset := 0x016800C8, rwl := 0x03FF03FF },
  { off := 0x18, reset := 0x02BC0280, rwl := 0x03FF03FF },
  { off := 0x1C, reset := 0x00000320, rwl := 0x3FF },
  { off := 0x20 }, { off := 0x24 },
  { off := 0x28, rc := allBits },
  { off := 0x40, rw := 3, stride := 8, count := 4 },
  { off := 0x44, rw := 0xFFFFFF, stride := 8, count := 4 }]

/-! ## SRCH (R132) -/
def srchCtrl : Nat := srchBase
def srchStatus : Nat := srchBase + 0x04
def srchLaunch : Nat := srchBase + 0x08
def srchFixrdy : Nat := srchBase + 0x0C
def srchClose : Nat := srchBase + 0x10
def srchClavail : Nat := srchBase + 0x14
def srchClexcl : Nat := srchBase + 0x18
def srchDetcfg : Nat := srchBase + 0x1C
def srchStcfg : Nat := srchBase + 0x20
def srchStstat : Nat := srchBase + 0x24
def srchFault : Nat := srchBase + 0x28
def srchFaultcl : Nat := srchBase + 0x2C
def srchEcccnt : Nat := srchBase + 0x30
def srchPstat (p : Nat) : Nat := srchBase + 0x40 + 4 * p
def srchPincl (p : Nat) : Nat := srchBase + 0x50 + 4 * p
def srchPinch (p : Nat) : Nat := srchBase + 0x60 + 4 * p

def srchRows : List RegRow := [
  { off := 0x00, reset := 1, rwl := 1, w1s := lockBit },
  { off := 0x04, w1c := 0x000FFFFF },
  { off := 0x08 }, { off := 0x0C }, { off := 0x10 }, { off := 0x14 },
  { off := 0x18, rwl := 0xFFFF },
  { off := 0x1C, reset := 0x04000400, rwl := allBits },
  { off := 0x20, reset := 0xE1, rwl := 0xFFFF },
  { off := 0x24 },
  { off := 0x28, w1c := allBits },
  { off := 0x2C },
  { off := 0x30, rc := 0xFFFF },
  { off := 0x40, count := 4 }, { off := 0x50, count := 4 }, { off := 0x60, count := 4 }]

/-! ## CHRT (R172) -/
def chrtCtrl : Nat := chrtBase
def chrtStatus : Nat := chrtBase + 0x04
def chrtCmd : Nat := chrtBase + 0x08
/-- CHRT_BUFA (0) and CHRT_BUFB (1). -/
def chrtBuf (b : Nat) : Nat := chrtBase + 0x0C + 4 * b
def chrtIlen : Nat := chrtBase + 0x14
def chrtVerr : Nat := chrtBase + 0x18
def chrtGen : Nat := chrtBase + 0x1C
def chrtBldmask : Nat := chrtBase + 0x20
def chrtBldbud : Nat := chrtBase + 0x24
def chrtBldprog : Nat := chrtBase + 0x28
def chrtLkcnt : Nat := chrtBase + 0x2C
def chrtTag (p : Nat) : Nat := chrtBase + 0x40 + 4 * p

def chrtRows : List RegRow := [
  { off := 0x00, reset := 3, rw := 1, rwl := 2, w1s := lockBit },
  { off := 0x04, w1c := 0x7F },
  { off := 0x08 }, { off := 0x0C }, { off := 0x10 },
  { off := 0x14, rw := 0x07FFFFFF },
  { off := 0x18 }, { off := 0x1C },
  { off := 0x20, rwl := 0xFFFF },
  { off := 0x24, reset := 15000, rwl := 0xFFFFFF },
  { off := 0x28 },
  { off := 0x2C, rc := allBits },
  { off := 0x40, count := 4 }]

/-! ## CELL (R178, R223) -/
def cellCtrl : Nat := cellBase
def cellStatus : Nat := cellBase + 0x04
def cellHcdl : Nat := cellBase + 0x08
def cellUpofs : Nat := cellBase + 0x0C
def cellLupLo : Nat := cellBase + 0x10
def cellLupHi : Nat := cellBase + 0x14
def cellLlostLo : Nat := cellBase + 0x18
def cellLlostHi : Nat := cellBase + 0x1C
def cellUprxLo : Nat := cellBase + 0x20
def cellUprxHi : Nat := cellBase + 0x24
def cellRole : Nat := cellBase + 0x28
def cellLcfg (l : Nat) : Nat := cellBase + 0x100 + 16 * l
def cellLstat (l : Nat) : Nat := cellBase + 0x104 + 16 * l
def cellLdly (l : Nat) : Nat := cellBase + 0x108 + 16 * l
def cellLerr (l : Nat) : Nat := cellBase + 0x10C + 16 * l
def cellAcfg (a : Nat) : Nat := cellBase + 0x1000 + 32 * a
def cellAkey (a : Nat) : Nat := cellBase + 0x1004 + 32 * a
def cellAstg (a : Nat) : Nat := cellBase + 0x1008 + 32 * a
def cellAi (a : Nat) : Nat := cellBase + 0x100C + 32 * a
def cellAstat (a : Nat) : Nat := cellBase + 0x1010 + 32 * (a % 64)
def cellAdb (a : Nat) : Nat := cellBase + 0x1014 + 32 * a
def cellSelctrl : Nat := cellBase + 0x1800
def cellSelstat : Nat := cellBase + 0x1804
def cellShortLo : Nat := cellBase + 0x1808
def cellShortHi : Nat := cellBase + 0x180C
def cellMiscnt : Nat := cellBase + 0x1810
def cellCmap (n : Nat) : Nat := cellBase + 0x2000 + 4 * n
def cellCst (n : Nat) : Nat := cellBase + 0x3000 + 4 * (n % 1024)

def cellRows : List RegRow := [
  { off := 0x00, reset := 0x100, rwl := 0x300, w1s := lockBit },
  { off := 0x04, w1c := 0x3F },
  { off := 0x08, reset := 2300, rwl := 0x1FFFF },
  { off := 0x0C, reset := 90, rwl := 0x3FF },
  { off := 0x10 }, { off := 0x14 },
  { off := 0x18, w1c := allBits }, { off := 0x1C, w1c := allBits },
  { off := 0x20 }, { off := 0x24 },
  { off := 0x28, reset := 1, rw := 1 },
  { off := 0x100, reset := 0x40000000, step := 1, rw := lockBit, rwl := 0x4000003F, stride := 16, count := 64 },
  { off := 0x104, stride := 16, count := 64 },
  { off := 0x108, stride := 16, count := 64 },
  { off := 0x10C, rc := allBits, stride := 16, count := 64 },
  { off := 0x1000, reset := 0x400, rwl := 0xC07F1F1F, stride := 32, count := 64 },
  { off := 0x1004, rwl := allBits, stride := 32, count := 64 },
  { off := 0x1008, reset := 0x38400000, rwl := allBits, stride := 32, count := 64 },
  { off := 0x100C, rw := allBits, stride := 32, count := 64 },
  { off := 0x1010, stride := 32, count := 64 },
  { off := 0x1014, reset := 0x03E80000, rwl := allBits, stride := 32, count := 64 },
  { off := 0x1800, w1s := lockBit },
  { off := 0x1804, w1c := 7 },
  { off := 0x1808, w1c := allBits }, { off := 0x180C, w1c := allBits },
  { off := 0x1810, rc := 0xFFFF },
  { off := 0x2000, rw := 0x40000000, rwl := 0x803F03FF, count := 1024 },
  { off := 0x3000, count := 1024 }]

/-! ## CAP (R241) -/
def capCtrl : Nat := capBase
def capStatus : Nat := capBase + 0x04
def capCmd : Nat := capBase + 0x08
def capTrigen : Nat := capBase + 0x0C
def capPost : Nat := capBase + 0x10
def capKeyint : Nat := capBase + 0x14
def capHubLo : Nat := capBase + 0x18
def capHubHi : Nat := capBase + 0x1C
def capWptr : Nat := capBase + 0x20
def capOldest : Nat := capBase + 0x24
def capTrigptr : Nat := capBase + 0x28
def capTrigpcnt : Nat := capBase + 0x2C
def capLastkey : Nat := capBase + 0x30
def capReccnt : Nat := capBase + 0x34
def capDropcnt : Nat := capBase + 0x38

def capRows : List RegRow := [
  { off := 0x00, rw := 1, rwl := 0x170, w1s := lockBit },
  { off := 0x04, w1c := 6 },
  { off := 0x08 },
  { off := 0x0C, reset := 0xF, rwl := 0x3F },
  { off := 0x10, reset := 4000, rwl := 0xFFFFFF },
  { off := 0x14, reset := 1000, rwl := 0xFFFF },
  { off := 0x18, reset := allBits, rwl := allBits }, { off := 0x1C, reset := allBits, rwl := allBits },
  { off := 0x20 }, { off := 0x24 }, { off := 0x28 }, { off := 0x2C }, { off := 0x30 }, { off := 0x34 },
  { off := 0x38, rc := 0xFFFF }]

/-! ## MEM (R263) -/
def memCtrl : Nat := memBase
def memStatus : Nat := memBase + 0x04
def memTrctl : Nat := memBase + 0x08
def memCfg : Nat := memBase + 0x0C
def memAllot : Nat := memBase + 0x10
def memCecnt : Nat := memBase + 0x14
def memUecnt : Nat := memBase + 0x18
def memUeaddr : Nat := memBase + 0x1C
def memScrubpos : Nat := memBase + 0x20
def memChstat (c : Nat) : Nat := memBase + 0x40 + 4 * c

def memRows : List RegRow := [
  { off := 0x00, reset := 3, rwl := 3, w1s := lockBit },
  { off := 0x04, w1c := 0x00FF001F },
  { off := 0x08, rwl := 0x00FFFF00 },
  { off := 0x0C, reset := 0x1803, rwl := 0x00FFFF07 },
  { off := 0x10, reset := 0x01F40020, rwl := allBits },
  { off := 0x14, rc := allBits },
  { off := 0x18, rc := 0xFFFF },
  { off := 0x1C }, { off := 0x20 },
  { off := 0x40, count := 8 }]

/-! ## CHN (R321) -/
def chnCtrl : Nat := chnBase
def chnStatus : Nat := chnBase + 0x04
def chnAddr : Nat := chnBase + 0x08
def chnPortstat : Nat := chnBase + 0x0C
/-- CHN_DLYUP (0) and CHN_DLYDN (1). -/
def chnDly (p : Nat) : Nat := chnBase + 0x10 + 4 * p
def chnMkcfg : Nat := chnBase + 0x18
def chnMkstat : Nat := chnBase + 0x1C
def chnCcount : Nat := chnBase + 0x20
def chnPair : Nat := chnBase + 0x24
def chnPairstat : Nat := chnBase + 0x28
def chnErrcnt : Nat := chnBase + 0x2C
def chnXmiscnt : Nat := chnBase + 0x30
def chnBulkcfg : Nat := chnBase + 0x34
def chnBulkstat : Nat := chnBase + 0x38
def chnPilot : Nat := chnBase + 0x3C

def chnRows : List RegRow := [
  { off := 0x00, reset := 0x153, rw := 3, rwl := 0x170, w1s := lockBit },
  { off := 0x04, w1c := 0x2FF },
  { off := 0x08 }, { off := 0x0C }, { off := 0x10 }, { off := 0x14 },
  { off := 0x18, reset := 0x20, rwl := 0xC000FFFF },
  { off := 0x1C }, { off := 0x20 },
  { off := 0x24, rwl := 0xC000003F },
  { off := 0x28 },
  { off := 0x2C, rc := allBits },
  { off := 0x30, rc := 0xFFFF },
  { off := 0x34, reset := 0x10, rwl := 0xFF },
  { off := 0x38 },
  { off := 0x3C, reset := 1, rw := 1 }]

/-! ## HLM (R375, R391) -/
def hlmCtrl : Nat := hlmBase
def hlmRun : Nat := hlmBase + 0x04
def hlmHalt : Nat := hlmBase + 0x08
def hlmRst : Nat := hlmBase + 0x0C
def hlmStatus : Nat := hlmBase + 0x10
def hlmFault : Nat := hlmBase + 0x14
def hlmEcccnt : Nat := hlmBase + 0x18
def hlmRvec (n : Nat) : Nat := hlmBase + 0x100 + 16 * n
def hlmPc (n : Nat) : Nat := hlmBase + 0x104 + 16 * n
def hlmFcause (n : Nat) : Nat := hlmBase + 0x108 + 16 * n
def hlmFepc (n : Nat) : Nat := hlmBase + 0x10C + 16 * n
def hlmDt (n e : Nat) : Nat := hlmBase + 0x1000 + 0x1400 * n + 4 * e
def hlmUwl (n u : Nat) : Nat := hlmBase + 0x1400 + 0x1400 * n + 8 * u
def hlmUwh (n u : Nat) : Nat := hlmBase + 0x1404 + 0x1400 * n + 8 * u
def hlmDtstat : Nat := hlmBase + 0xF000
def mgmtDt (e : Nat) : Nat := mgmtDtBase + 4 * e
def mgmtUwl (u : Nat) : Nat := mgmtDtBase + 0x400 + 8 * u
def mgmtUwh (u : Nat) : Nat := mgmtDtBase + 0x404 + 8 * u

def hlmRows : List RegRow := [
  { off := 0x00, w1s := lockBit },
  { off := 0x04 }, { off := 0x08 }, { off := 0x0C }, { off := 0x10 },
  { off := 0x14, w1c := 0xFFFF },
  { off := 0x18, rc := 0xFFFF },
  { off := 0x100, rwl := 0xFFFC, stride := 16, count := 8 },
  { off := 0x104, stride := 16, count := 8 },
  { off := 0x108, stride := 16, count := 8 },
  { off := 0x10C, stride := 16, count := 8 },
  { off := 0x1000, rwl := allBits, stride := 0x1400, count := 8, inner := 16 },
  { off := 0x1400, rwl := allBits, stride := 0x1400, count := 8, inner := 1024 },
  { off := 0xF000, w1c := 0xFFFF }]

/-! ## CLK and PWR (R465) -/
def clkCtrl : Nat := clkBase
def clkStatus : Nat := clkBase + 0x04
def clkTrim : Nat := clkBase + 0x08
def clkStrcnt : Nat := clkBase + 0x0C
def clkGate : Nat := clkBase + 0x10
def clkGstat : Nat := clkBase + 0x14
def pwrPace : Nat := clkBase + 0x100
def pwrStatus : Nat := clkBase + 0x104
def pwrGovcfg : Nat := clkBase + 0x108
def pwrGovest : Nat := clkBase + 0x10C
def pwrCmd : Nat := clkBase + 0x110
def pwrIdletmo : Nat := clkBase + 0x114
def pwrStbytmo : Nat := clkBase + 0x118
def pwrWakecfg : Nat := clkBase + 0x11C
def pwrWakesrc : Nat := clkBase + 0x120
def pwrBrst : Nat := clkBase + 0x124
def pwrBrstat : Nat := clkBase + 0x128

def clkRows : List RegRow := [
  { off := 0x00, reset := 2, rwl := 3, w1s := lockBit },
  { off := 0x04, w1c := 0xE },
  { off := 0x08 },
  { off := 0x0C, rc := allBits },
  { off := 0x10, rw := 0xFF },
  { off := 0x14 },
  { off := 0x100, rw := 3 },
  { off := 0x104, w1c := 0xFD },
  { off := 0x108, reset := 0x8000140A, rwl := 0x8000FFFF },
  { off := 0x10C }, { off := 0x110 },
  { off := 0x114, rw := 0xFFFFFF },
  { off := 0x118, rw := allBits },
  { off := 0x11C, reset := 1, rw := 0xFFFF000D },
  { off := 0x120 }, { off := 0x124 }, { off := 0x128 }]

/-! ## PIN (R483) -/
def pinCtrl : Nat := pinBase
def pinStatus : Nat := pinBase + 0x04
def pinConflict : Nat := pinBase + 0x08
def pinOut (w : Nat) : Nat := pinBase + 0x10 + 4 * w
def pinIn (w : Nat) : Nat := pinBase + 0x20 + 4 * w
def pinCfg (n : Nat) : Nat := pinBase + 0x100 + 4 * (n % 96)

def pinRows : List RegRow := [
  { off := 0x00, w1s := lockBit },
  { off := 0x04, w1c := 1 },
  { off := 0x08, w1c := lockBit },
  { off := 0x10, rw := allBits, count := 3 },
  { off := 0x20, count := 3 },
  { off := 0x100, rwl := 0x0FFF000F, count := 96 }]

/-! ## EVT (R484) -/
def evtCtrl : Nat := evtBase
def evtStatus : Nat := evtBase + 0x04
def evtStorm : Nat := evtBase + 0x08
def evtSwgen : Nat := evtBase + 0x0C
def evtChprod (c : Nat) : Nat := evtBase + 0x100 + 8 * (c % 32)
def evtChcfg (c : Nat) : Nat := evtBase + 0x104 + 8 * (c % 32)
def evtOutcfg (i : Nat) : Nat := evtBase + 0x400 + 4 * i
def evtTsub (k : Nat) : Nat := evtBase + 0x1000 + 4 * (k % 280)
def evtTmrg (k : Nat) : Nat := evtBase + 0x2000 + 4 * (k % 280)

def evtRows : List RegRow := [
  { off := 0x00, w1s := lockBit },
  { off := 0x04, w1c := 1 },
  { off := 0x08, w1c := allBits },
  { off := 0x0C },
  { off := 0x100, rwl := allBits, stride := 8, count := 32 },
  { off := 0x104, rwl := 0xC0000000, stride := 8, count := 32 },
  { off := 0x400, reset := 1, rwl := 0x3FF, count := 32 },
  { off := 0x1000, rwl := 0x9F9F, count := 280 },
  { off := 0x2000, rc := 0xFFFF, count := 280 }]

/-! ## PLT (R505) -/
def pltCtrl : Nat := pltBase
def pltStatus : Nat := pltBase + 0x04
def pltRunReg (e : Nat) : Nat := pltBase + 0x10 + 16 * e
def pltHaltReg (e : Nat) : Nat := pltBase + 0x14 + 16 * e
def pltSlotl (e : Nat) : Nat := pltBase + 0x18 + 16 * e
def pltSloth (e : Nat) : Nat := pltBase + 0x1C + 16 * e
/-- Register of channel k = 16e + c at offset `o` of its block: 0 CCFG, 4 CSTAT, 8 TXQ, 0xC RXQ, 0x10 SR, 0x14 A, 0x18 B,
0x1C CFLG. -/
def pltChan (k o : Nat) : Nat := pltBase + 0x100 + 32 * (k % 64) + o
def pltImem (e i : Nat) : Nat := pltBase + 0x1000 + 0x200 * e + 4 * i

def pltRows : List RegRow := [
  { off := 0x00, w1s := lockBit },
  { off := 0x04, w1c := 3 },
  { off := 0x10, stride := 16, count := 4 },
  { off := 0x14, stride := 16, count := 4 },
  { off := 0x18, reset := 0x76543210, rwl := allBits, stride := 16, count := 4 },
  { off := 0x1C, reset := 0xFEDCBA98, rwl := allBits, stride := 16, count := 4 },
  { off := 0x100, reset := 0x7F00, rwl := 0x37F7F, stride := 32, count := 64 },
  { off := 0x104, stride := 32, count := 64 },
  { off := 0x108, stride := 32, count := 64 },
  { off := 0x10C, stride := 32, count := 64 },
  { off := 0x110, stride := 32, count := 64 },
  { off := 0x114, stride := 32, count := 64 },
  { off := 0x118, stride := 32, count := 64 },
  { off := 0x11C, w1c := 0x1F, stride := 32, count := 64 },
  { off := 0x1000, rwl := allBits, count := 512 }]

/-! ## SER (R506) -/
def serCtrl : Nat := serBase
def serStatus : Nat := serBase + 0x04
def serCfg (i : Nat) : Nat := serBase + 0x100 + 32 * i
def serCkdiv (i : Nat) : Nat := serBase + 0x104 + 32 * i
def serTxc (i : Nat) : Nat := serBase + 0x108 + 32 * i
def serTxd (i : Nat) : Nat := serBase + 0x10C + 32 * i
def serRxd (i : Nat) : Nat := serBase + 0x110 + 32 * i
def serStat (i : Nat) : Nat := serBase + 0x114 + 32 * i
def serCmd (i : Nat) : Nat := serBase + 0x118 + 32 * i

def serRows : List RegRow := [
  { off := 0x00, w1s := lockBit },
  { off := 0x04, w1c := 1 },
  { off := 0x100, reset := 0x110, rwl := 0xFFFF, stride := 32, count := 6 },
  { off := 0x104, reset := 0x00060A0E, rwl := 0xFFFFFF, stride := 32, count := 6 },
  { off := 0x108, reset := 0x1F, rw := 0xFF, stride := 32, count := 6 },
  { off := 0x10C, stride := 32, count := 6 },
  { off := 0x110, stride := 32, count := 6 },
  { off := 0x114, w1c := 7, stride := 32, count := 6 },
  { off := 0x118, stride := 32, count := 6 }]

/-! ## BOOT (R415) -/
def bootCtrl : Nat := bootBase
def bootStatus : Nat := bootBase + 0x04
def bootCmd : Nat := bootBase + 0x08
def bootCmdst : Nat := bootBase + 0x0C
def bootEvt : Nat := bootBase + 0x10
def bootProg : Nat := bootBase + 0x14
def bootDeg : Nat := bootBase + 0x18
def bootVer : Nat := bootBase + 0x1C
def bootSlotst : Nat := bootBase + 0x20
def bootSeq (n : Nat) : Nat := bootBase + 0x24 + 4 * n
def bootUpofs : Nat := bootBase + 0x2C
def bootCfg : Nat := bootBase + 0x30
def bootBufw (w : Nat) : Nat := bootBase + 0x100 + 4 * (w % 64)

def bootRows : List RegRow := [
  { off := 0x00, w1s := lockBit },
  -- STEP shows the step started latest: RECALL from the Binnacle reset on
  { off := 0x04, reset := 0x100 }, { off := 0x08 },
  { off := 0x0C, w1c := 0x100 },
  { off := 0x10, w1c := 0xF },
  { off := 0x14 }, { off := 0x18 }, { off := 0x1C }, { off := 0x20 },
  { off := 0x24, count := 2 },
  { off := 0x2C, rw := allBits },
  { off := 0x30 },
  { off := 0x100, rw := allBits, count := 64 }]

/-! ## FLS (R445) -/
def flsCtrl : Nat := flsBase
def flsStatus : Nat := flsBase + 0x04
def flsCmd : Nat := flsBase + 0x08
def flsAddr : Nat := flsBase + 0x0C
def flsData (i : Nat) : Nat := flsBase + 0x10 + 4 * i
/-- FLS_WP0 and FLS_WP1. -/
def flsWp (i : Nat) : Nat := flsBase + 0x20 + 4 * i
/-- FLS_DIRTY0 and FLS_DIRTY1. -/
def flsDirty (i : Nat) : Nat := flsBase + 0x28 + 4 * (i % 2)
def flsMargin : Nat := flsBase + 0x30
def flsCecnt : Nat := flsBase + 0x34
def flsUeaddr : Nat := flsBase + 0x38
def flsPesel : Nat := flsBase + 0x3C
def flsPecnt : Nat := flsBase + 0x40
def flsRedir : Nat := flsBase + 0x44

def flsRows : List RegRow := [
  { off := 0x00, reset := 0xF, rwl := 0xF, w1s := lockBit },
  { off := 0x04, w1c := 0x7FF },
  { off := 0x08 },
  { off := 0x0C, rw := 0x003FFFF0 },
  { off := 0x10, rw := allBits, count := 4 },
  { off := 0x20, w1s := allBits, count := 2 },
  { off := 0x28, count := 2 },
  { off := 0x30 },
  { off := 0x34, rc := 0xFFFF },
  { off := 0x38 },
  { off := 0x3C, rw := 0x3F },
  { off := 0x40 }, { off := 0x44 }]

/-! ## NVR (R446) -/
def nvrCtrl : Nat := nvrBase
def nvrStatus : Nat := nvrBase + 0x04
def nvrRecbad : Nat := nvrBase + 0x08
def nvrEvhead : Nat := nvrBase + 0x0C
def nvrCntinc : Nat := nvrBase + 0x10
def nvrCntcfg (k : Nat) : Nat := nvrBase + 0x40 + 16 * (k % 8)
def nvrCntlo (k : Nat) : Nat := nvrBase + 0x44 + 16 * k
def nvrCnthi (k : Nat) : Nat := nvrBase + 0x48 + 16 * (k % 8)

def nvrRows : List RegRow := [
  { off := 0x00, w1s := lockBit },
  { off := 0x04, w1c := 7 },
  { off := 0x08 }, { off := 0x0C }, { off := 0x10 },
  { off := 0x40, rwl := 0x9F00FFFF, stride := 16, count := 8 },
  { off := 0x44, stride := 16, count := 8 },
  { off := 0x48, stride := 16, count := 8 }]

/-! ## SAF (R290) -/
def safCtrl : Nat := safBase
def safStatus : Nat := safBase + 0x04
def safCause : Nat := safBase + 0x08
def safCfg : Nat := safBase + 0x0C
def safSs1t : Nat := safBase + 0x10
def safPermit : Nat := safBase + 0x14
def safLastflt : Nat := safBase + 0x18
def safFltpcnt : Nat := safBase + 0x1C
def safDpfcnt : Nat := safBase + 0x20
def safClage : Nat := safBase + 0x24
def safWdog : Nat := safBase + 0x28
def safLim (p j : Nat) : Nat := safBase + 0x100 + 32 * p + 4 * j
def safYcfg (m : Nat) : Nat := safBase + 0x200 + 32 * m
def safYlim (m : Nat) : Nat := safBase + 0x204 + 32 * m
def safYtol (m : Nat) : Nat := safBase + 0x208 + 32 * m
def safYmod (m : Nat) : Nat := safBase + 0x20C + 32 * m
def safYb (m w : Nat) : Nat := safBase + 0x210 + 32 * m + 4 * w
def safYmeas (m : Nat) : Nat := safBase + 0x280 + 4 * m

def safRows : List RegRow := [
  { off := 0x00, w1s := lockBit },
  { off := 0x04, reset := 0x80000000 },
  { off := 0x08, reset := 0x40000, w1c := 0x6FFFF },
  { off := 0x0C, reset := 0x10340000, rwl := 0xF8FF0000 },
  { off := 0x10, reset := 1000, rwl := 0xFFFF },
  { off := 0x14, reset := 0x3333, rwl := 0x7777 },
  { off := 0x18 }, { off := 0x1C },
  { off := 0x20, rc := allBits },
  { off := 0x24 }, { off := 0x28 },
  { off := 0x100, rwl := 0xBF7F7F7F, count := 32 },
  { off := 0x200, rwl := 0xB13FFFFF, stride := 32, count := 4 },
  { off := 0x204, rwl := allBits, stride := 32, count := 4 },
  { off := 0x208, rwl := allBits, stride := 32, count := 4 },
  { off := 0x20C, rwl := allBits, stride := 32, count := 4 },
  { off := 0x210, rwl := allBits, stride := 32, count := 4, inner := 4 },
  { off := 0x280, count := 4 }]

/-! ## MPIN (R507) -/
def mpinCtrl : Nat := mpinBase
def mpinStatus : Nat := mpinBase + 0x04
def mpinOut : Nat := mpinBase + 0x08
def mpinIn : Nat := mpinBase + 0x0C
def mpinPcfg (n : Nat) : Nat := mpinBase + 0x10 + 4 * n
def mpinScfg (i : Nat) : Nat := mpinBase + 0x40 + 16 * i
def mpinStx (i : Nat) : Nat := mpinBase + 0x44 + 16 * i
def mpinSrx (i : Nat) : Nat := mpinBase + 0x48 + 16 * i
def mpinSstat (i : Nat) : Nat := mpinBase + 0x4C + 16 * i

def mpinRows : List RegRow := [
  { off := 0x00, w1s := lockBit },
  { off := 0x04, w1c := 1 },
  { off := 0x08, rw := 0x3FF },
  { off := 0x0C },
  { off := 0x10, rwl := 0x7F, count := 10 },
  { off := 0x40, reset := 0x1703, rwl := 0xFFFF, stride := 16, count := 2 },
  { off := 0x44, stride := 16, count := 2 },
  { off := 0x48, stride := 16, count := 2 },
  { off := 0x4C, w1c := 3, stride := 16, count := 2 }]

/-! ## MPT (R337): port register of index i at mirror offset 4 * i. The masks are the port side's. -/
def mptReg (i : Nat) : Nat := mptBase + 4 * (i % 256)
def mptId : Nat := mptBase
def mptStatus : Nat := mptBase + 0x04
def mptCtrl : Nat := mptBase + 0x08
def mptWadrl : Nat := mptBase + 0x0C
def mptWadrh : Nat := mptBase + 0x10
def mptWerrl : Nat := mptBase + 0x14
def mptWerrh : Nat := mptBase + 0x18
def mptPstat : Nat := mptBase + 0x1C
def mptBoot : Nat := mptBase + 0x20
def mptSafst : Nat := mptBase + 0x24
def mptSafcau : Nat := mptBase + 0x28
def mptChnaddr : Nat := mptBase + 0x2C
def mptTemp : Nat := mptBase + 0x30
def mptSupply : Nat := mptBase + 0x34
def mptGov : Nat := mptBase + 0x38
def mptUptime : Nat := mptBase + 0x3C
def mptPcount : Nat := mptBase + 0x40
def mptCmd : Nat := mptBase + 0x44
def mptScratch : Nat := mptBase + 0x48
def mptTcrc : Nat := mptBase + 0x4C
def mptMbin (n : Nat) : Nat := mptBase + 0x80 + 4 * n
def mptMbout (n : Nat) : Nat := mptBase + 0x100 + 4 * n
def mptDbin : Nat := mptBase + 0x180
def mptDbout : Nat := mptBase + 0x184

def mptRows : List RegRow := [
  { off := 0x00, reset := 0x070000B1 },
  { off := 0x04, reset := 0x80, w1c := 0xBF },
  { off := 0x08, reset := 1, rwl := 0x303, w1s := lockBit },
  { off := 0x0C, rw := 0xFFFFFFFC },
  { off := 0x10, rw := 0xFF },
  { off := 0x14 }, { off := 0x18 }, { off := 0x1C }, { off := 0x20 },
  { off := 0x24, reset := 0x80000000 }, { off := 0x28, reset := 0x40000 },
  { off := 0x2C }, { off := 0x30 }, { off := 0x34 }, { off := 0x38 }, { off := 0x3C }, { off := 0x40 }, { off := 0x44 },
  { off := 0x48, rw := allBits },
  { off := 0x4C },
  { off := 0x80, rw := allBits, count := 32 },
  { off := 0x100, count := 32 },
  { off := 0x180, w1s := allBits },
  { off := 0x184, w1c := allBits }]

/-- SYS_ID (R2). -/
def sysRows : List RegRow := [{ off := 0, reset := 0x070000B1 }]

/-- The management core's decode table, written only by the boot ROM (R388). -/
def mgmtDtRows : List RegRow := [{ off := 0, inner := 16 }, { off := 0x400, inner := 1024 }]

/-- The pages in the order of R23. -/
def regPages : List (Nat × List RegRow) := [
  (sysBase, sysRows), (perBase, perRows), (srchBase, srchRows), (chrtBase, chrtRows), (cellBase, cellRows),
  (capBase, capRows), (memBase, memRows), (chnBase, chnRows), (hlmBase, hlmRows), (clkBase, clkRows),
  (pinBase, pinRows), (evtBase, evtRows), (pltBase, pltRows), (serBase, serRows), (bootBase, bootRows),
  (flsBase, flsRows), (nvrBase, nvrRows), (safBase, safRows), (mpinBase, mpinRows), (mptBase, mptRows),
  (mgmtDtBase, mgmtDtRows)]

/-- The element of row `r` that holds offset `o`, if one does. -/
def RegRow.index (r : RegRow) (o : Nat) : Option Nat :=
  let k := (o - r.off) / r.stride
  if r.off ≤ o ∧ k < r.count ∧ (o - r.off) % r.stride < 4 * r.inner ∧ (o - r.off) % 4 = 0 then some k
  else if r.off ≤ o ∧ r.count = 1 ∧ o - r.off < 4 * r.inner ∧ (o - r.off) % 4 = 0 then some 0 else none

/-- The row among `rs` that holds offset `o`, and the element. -/
def findRow (o : Nat) : List RegRow → Option (RegRow × Nat)
  | [] => none
  | r :: rs => match r.index o with
    | some k => some (r, k)
    | none => findRow o rs

/-- The page that holds address `a` (R23): its base and its rows. -/
def findPage (a : Nat) : Option (Nat × List RegRow) := regPages.find? fun p => p.1 ≤ a && a < p.1 + 0x10000

/-- The register at address `a`: its row and element; none in a hole of a page and outside every page (R11). -/
def regDesc (a : Nat) : Option (RegRow × Nat) :=
  match findPage a with
  | some (b, rows) => findRow (a - b) rows
  | none => none

/-- The reset value of the register at address `a` (R12); 0 where there is no register. -/
def regReset (a : Nat) : Word :=
  match regDesc a with
  | some (r, k) => BitVec.ofNat 32 (r.reset + r.step * k)
  | none => 0

end Sys2Proof.Machine
end

