-- ==== Sys2Proof/Machine/Ops.lean ====
section
/-!
DEFINITION. The named operations over registers and memory that every family of commands uses: the sparse map that holds
both (one definition), bit fields in the manual's notation, little-endian words of memory, CRC-32 (R214).
-/
namespace Sys2Proof.Machine

abbrev Out := Host.Outcome State Fault Refusal

/-! ## Sparse maps: a list of address and value pairs, strictly rising, no entry equal to the default -/

variable {β : Type} [DecidableEq β]

def sget (d : Nat → β) (m : List (Nat × β)) (a : Nat) : β :=
  match m.find? (fun c => c.1 == a) with
  | some c => c.2
  | none => d a

def sins (a : Nat) (v : β) : List (Nat × β) → List (Nat × β)
  | [] => [(a, v)]
  | c :: cs => if c.1 < a then c :: sins a v cs else (a, v) :: c :: cs

/-- Writing the default removes the entry, so that equal maps are equal lists. -/
def sput (d : Nat → β) (m : List (Nat × β)) (a : Nat) (v : β) : List (Nat × β) :=
  let m' := m.filter (fun c => c.1 != a)
  if v = d a then m' else sins a v m'

/-- The entries outside [lo, hi) stay. -/
def sdrop (lo hi : Nat) (m : List (Nat × β)) : List (Nat × β) := m.filter fun c => decide (c.1 < lo ∨ hi ≤ c.1)

/-- The canonical form: addresses strictly rising, no entry equal to the default. -/
def swf (d : Nat → β) : List (Nat × β) → Bool
  | [] => true
  | [c] => decide (c.2 ≠ d c.1)
  | c :: c' :: cs => decide (c.1 < c'.1) && decide (c.2 ≠ d c.1) && swf d (c' :: cs)

/-- The sum of a list. -/
def sumN (l : List Nat) : Nat := l.foldl (· + ·) 0

/-! ## Bits -/

/-- Bits hi:lo of x. -/
def bits (x hi lo : Nat) : Nat := (x >>> lo) % 2 ^ (hi - lo + 1)
/-- x with bits hi:lo replaced by v. -/
def putBits (x hi lo v : Nat) : Nat := x - (bits x hi lo) <<< lo + (v % 2 ^ (hi - lo + 1)) <<< lo
/-- Two's complement reading of the low w bits. -/
def sgn (w x : Nat) : Int :=
  let y := x % 2 ^ w
  if 2 * y < 2 ^ w then (y : Int) else (y : Int) - 2 ^ w
/-- The low w bits of an integer, as a number. -/
def wrapN (w : Nat) (x : Int) : Nat := (x % (2 ^ w : Int)).toNat
def b2n (b : Bool) : Nat := if b then 1 else 0
/-- The set bits of x below n, lowest first. -/
def setBitsOf (x n : Nat) : List Nat := (List.range n).filter fun i => x.testBit i
def popcount (x n : Nat) : Nat := (setBitsOf x n).length
/-- The offset of a from a base, 0 below it: a - base, so written that it unfolds on a. -/
def ofsFrom (base : Nat) : Nat → Nat
  | 0 => 0
  | n + 1 => n + 1 - base
def ceilDiv (a b : Nat) : Nat := (a + b - 1) / b
/-- Floor division of an integer by 2^k. -/
def floorSh (x : Int) (k : Nat) : Int := x / (2 ^ k : Int)
def ceilSh (x : Nat) (k : Nat) : Nat := (x + (2 ^ k - 1)) >>> k
/-- Saturating addition of one to an n-bit count. -/
def satInc (x max : Nat) : Nat := if x < max then x + 1 else max

/-- A member of Fin n from a number, 0 when out of range. -/
def toFin (n : Nat) [NeZero n] (x : Nat) : Fin n := Fin.ofNat n x

/-! ## Bytes -/

/-- Number from bytes, least significant first. -/
def ofLE : List Byte → Nat
  | [] => 0
  | b :: bs => b.toNat + 256 * ofLE bs
/-- The n bytes of x, least significant first. -/
def toLE : Nat → Nat → List Byte
  | 0, _ => []
  | n + 1, x => BitVec.ofNat 8 x :: toLE n (x / 256)
/-- Number from bytes, most significant first. -/
def ofBE (bs : List Byte) : Nat := ofLE bs.reverse
def toBE (n x : Nat) : List Byte := (toLE n x).reverse

/-- Byte i of a frame; 0 beyond its end. -/
def byteAt (bs : List Byte) (i : Nat) : Nat := (bs.getD i 0).toNat
/-- The n bytes at offset i as a little-endian number. -/
def leAt (bs : List Byte) (i n : Nat) : Nat := ofLE ((bs.drop i).take n)

def crcStep : Nat → Nat → Nat
  | 0, c => c
  | k + 1, c => crcStep k (if c % 2 = 1 then (c >>> 1) ^^^ 0xEDB88320 else c >>> 1)
def crcFold (c : Nat) (bs : List Byte) : Nat := bs.foldl (fun c b => crcStep 8 (c ^^^ b.toNat)) c
/-- CRC-32 with the IEEE 802.3 polynomial: reflected, initial value 0xFFFF_FFFF, final inversion (R214). -/
def crc32 (bs : List Byte) : Nat := crcFold 0xFFFFFFFF bs ^^^ 0xFFFFFFFF
/-- A frame with its CRC appended, least significant byte first (R214). -/
def withCrc (bs : List Byte) : List Byte := bs ++ toLE 4 (crc32 bs)
/-- The last four bytes are the CRC of the rest (R214). -/
def crcOk (bs : List Byte) : Bool :=
  decide (4 ≤ bs.length) && leAt bs (bs.length - 4) 4 == crc32 (bs.take (bs.length - 4))

/-! ## Registers -/

/-- The stored value of the register at address a. -/
def State.rd (s : State) (a : Nat) : Nat := (sget regReset s.regs a).toNat
def State.wr (s : State) (a v : Nat) : State := { s with regs := sput regReset s.regs a (BitVec.ofNat 32 v) }
/-- REG[hi:lo]. -/
def State.fld (s : State) (a hi lo : Nat) : Nat := bits (s.rd a) hi lo
def State.setFld (s : State) (a hi lo v : Nat) : State := s.wr a (putBits (s.rd a) hi lo v)
def State.bit (s : State) (a i : Nat) : Bool := (s.rd a).testBit i
def State.setBit (s : State) (a i : Nat) (b : Bool) : State := s.setFld a i i (b2n b)
/-- Set the bits of a mask. -/
def State.orReg (s : State) (a m : Nat) : State := s.wr a (s.rd a ||| m)
/-- Clear the bits of a mask. -/
def State.clrReg (s : State) (a m : Nat) : State := s.wr a (s.rd a &&& (allBits ^^^ (m % 2 ^ 32)))
/-- Add n to a count field, saturating at its greatest value. -/
def State.count (s : State) (a hi lo : Nat) (n : Nat := 1) : State :=
  s.setFld a hi lo (Nat.min (s.fld a hi lo + n) (2 ^ (hi - lo + 1) - 1))
/-- The registers of one page, or of a part of it, return to their reset values (R12). -/
def State.resetRegs (s : State) (lo hi : Nat) : State := { s with regs := sdrop lo hi s.regs }

/-! ## Memory -/

/-- What a byte that nothing has written reads as: an erased flash and boot-memory byte is 0xFF (R417, log entry 8); every
other memory reads 0 (log entry 9). -/
def memReset (a : Nat) : Byte :=
  if 0x5010000000 ≤ a ∧ a < 0x5010400000 ∨ 0x10000000000 ≤ a ∧ a < 0x10100000000 then 0xFF else 0

/-- The memory is in its canonical form. -/
def Memory.wf (m : List Host.Cell) : Bool := swf memReset m
/-- The registers are in their canonical form. -/
def Registers.wf (r : List (Nat × Word)) : Bool := swf regReset r

def State.byte (s : State) (a : Nat) : Byte := sget memReset s.mem a
def State.setByte (s : State) (a : Nat) (b : Byte) : State := { s with mem := sput memReset s.mem a b }
def State.bytes (s : State) : Nat → Nat → List Byte
  | _, 0 => []
  | a, n + 1 => s.byte a :: State.bytes s (a + 1) n
def State.setBytes (s : State) (a : Nat) : List Byte → State
  | [] => s
  | b :: bs => State.setBytes (s.setByte a b) (a + 1) bs
/-- n bytes at a as a little-endian number (the address space is little-endian, 00). -/
def State.le (s : State) (a n : Nat) : Nat := ofLE (s.bytes a n)
def State.setLe (s : State) (a n v : Nat) : State := s.setBytes a (toLE n v)
def State.word (s : State) (a : Nat) : Nat := s.le a 4
def State.setWord (s : State) (a v : Nat) : State := s.setLe a 4 v
/-- Fill n bytes at a with 0. -/
def State.zeroBytes (s : State) (a n : Nat) : State := s.setBytes a (List.replicate n 0)
/-- Forget what is written in [lo, hi). -/
def State.dropMem (s : State) (lo hi : Nat) : State := { s with mem := sdrop lo hi s.mem }

/-! ## Words in error (R92, R244, R340, R416, R523) -/

/-- Bytes of the SECDED word at address a: a flash line, a word of a Helm local memory, 64 bits elsewhere. -/
def eccSize (a : Nat) : Nat :=
  if 0x5010000000 ≤ a ∧ a < 0x5010400000 then 16 else if 0x3000000000 ≤ a ∧ a < 0x3000100000 ∨ 0x10100000000 ≤ a then 4 else 8
/-- The 4-byte units of the SECDED words that [a, a + n) touches: first and end. -/
def eccUnits (a n : Nat) : Nat × Nat :=
  let z := eccSize a
  (a / z * z / 4, (a + n + z - 1) / z * z / 4)
/-- An access of [a, a + n) meets a word known to be uncorrectable. -/
def State.bad (s : State) (a n : Nat) : Bool := s.flaws.any fun f => decide ((eccUnits a n).1 ≤ f ∧ f < (eccUnits a n).2)
/-- The words of [a, a + n) have been found uncorrectable. -/
def State.setBad (s : State) (a n : Nat) : State :=
  let (lo, hi) := eccUnits a n
  { s with flaws := s.flaws ++ ((List.range (hi - lo)).map (lo + ·)).filter fun f => !s.flaws.contains f }
/-- What a write of [a, a + n) covers has valid check bits again. -/
def State.mend (s : State) (a n : Nat) : State := { s with flaws := s.flaws.filter fun f => !decide (a ≤ 4 * f ∧ 4 * f + 4 ≤ a + n) }
/-- A write of bytes with their check bits. -/
def State.store (s : State) (a : Nat) (bs : List Byte) : State := (s.setBytes a bs).mend a bs.length
/-- The memory [lo, hi) is cleared, or has lost its content: its check bits are valid. -/
def State.clearMem (s : State) (lo hi : Nat) : State := (s.dropMem lo hi).mend lo (hi - lo)
/-- What a check of one word at a finds: the fault told, or the one known. -/
def State.eccOf (s : State) (a n : Nat) (told : Ecc) : Ecc := if s.bad a n then .uncorrectable else told
/-- A word found uncorrectable stays so until it is written. -/
def State.noteEcc (s : State) (a n : Nat) (e : Ecc) : State := if e = .uncorrectable then s.setBad a n else s

/-- The SECDED words that [a, a + n) touches. -/
def eccWords (a n : Nat) : List Nat := (List.range ((a + n + eccSize a - 1) / eccSize a - a / eccSize a)).map fun i => eccSize a * (a / eccSize a + i)
/-- The checks of the words of [a, a + n), each told in address order: how many are corrected, whether none is uncorrectable, and the state
that knows those that are. -/
def State.findEcc (s : State) (a n : Nat) (told : List Ecc) : (Nat × Bool) × State :=
  let es := (eccWords a n).zipIdx.map fun w => (w.1, s.eccOf w.1 (eccSize a) (told.getD w.2 .clean))
  let bad := es.filter fun e => e.2 == .uncorrectable
  (((es.filter fun e => e.2 == .corrected).length, bad.isEmpty), bad.foldl (fun (s : State) e => s.setBad e.1 (eccSize a)) s)
/-- A write to period SRAM: less than a 64-bit word is merged into it, more brings its check bits (R523). -/
def State.sramPut (s : State) (w : Nat × List Byte) : State := if w.2.length < 8 then s.setBytes w.1 w.2 else s.store w.1 w.2
/-- n bytes whose content is open. -/
def State.freeBytes (s : State) (n : Nat) : List Byte × State :=
  ((List.range n).map fun i => BitVec.ofNat 8 (Config.freeWord (s.freeCtr + i)).toNat, { s with freeCtr := s.freeCtr + n })

/-- Base of slot p's problem table and records in period SRAM (R60). -/
def slotBase (p : Nat) : Nat := 0x1000000000 + p * 0x10000

/-! ## Free values: each read advances the model's own counter -/

def State.freeWord (s : State) : Word × State := (Config.freeWord s.freeCtr, { s with freeCtr := s.freeCtr + 1 })
def State.freeBit (s : State) : Bool × State := (Config.freeBit s.freeCtr, { s with freeCtr := s.freeCtr + 1 })

/-! ## Parts of the state -/

def State.prob (s : State) (p : Slot) : Problem := s.probs[p]
def State.setProb (s : State) (p : Slot) (q : Problem) : State := { s with probs := s.probs.set p q }
def State.cl (s : State) (c : Cl) : Cluster := s.cls[c]
def State.setCl (s : State) (c : Cl) (q : Cluster) : State := { s with cls := s.cls.set c q }
def State.lane (s : State) (l : LaneN) : Lane := s.lanes[l]
def State.setLane (s : State) (l : LaneN) (q : Lane) : State := { s with lanes := s.lanes.set l q }
def State.hub (s : State) (h : HubN) : Hub := s.hubs[h]
def State.setHub (s : State) (h : HubN) (q : Hub) : State := { s with hubs := s.hubs.set h q }
def State.core (s : State) (n : CoreN) : Core := s.cores[n]
def State.setCore (s : State) (n : CoreN) (q : Core) : State := { s with cores := s.cores.set n q }
def allSlots : List Slot := List.finRange 4
def allCls : List Cl := List.finRange 16
def allLanes : List LaneN := List.finRange 64
def allArms : List ArmN := List.finRange 64

/-- Run f over a list of things, threading the state. -/
def State.each {α : Type} (s : State) (l : List α) (f : State → α → State) : State := l.foldl f s

end Sys2Proof.Machine
end

