-- ==== Sys2Proof/Machine/Numerics.lean ====
section
/-!
DEFINITION. The problem as described (R64 to R77), its costs and bounds (R94 to R100, R133, R134), the shadow evaluation and
its tolerance (R122, R138, R139): exact integer functions of a latched table.
-/
namespace Sys2Proof.Machine

/-! ## Reading a table from its slot -/

def entryAt (s : State) (b i : Nat) : SEntry :=
  let a := b + 0x40 + 32 * i
  let f := s.word a
  let w := s.word (a + 4)
  let q := s.word (a + 0x10)
  { frac := bits f 4 0, kind := bits f 9 8, soften := f.testBit 12, qsh := bits f 20 16, shift := bits f 29 24,
    w := bits w 15 0, tw := bits w 31 16, slo := sgn 32 (s.word (a + 8)), shi := sgn 32 (s.word (a + 0xC)),
    mu := bits q 15 0, psh := bits q 20 16, tol := bits (s.word (a + 0x14)) 15 0 }

def actionAt (s : State) (b j : Nat) : AEntry :=
  let a := b + 0x240 + 16 * j
  let c := s.word a
  { arm := bits c 5 0, umin := bits c 14 8, umax := bits c 22 16, step := bits c 30 24,
    sig := bits (s.word (a + 4)) 15 0, level := bits (s.word (a + 8)) 6 0 }

def couplingAt (s : State) (b nu c : Nat) : Cpl :=
  let a := b + 0x2C0 + 8 * c
  let m := s.word a
  let l := s.word (a + 4)
  { codes := (List.range nu).map fun j => bits m (2 * j + 1) (2 * j), lo := sgn 11 (bits l 10 0), hi := sgn 11 (bits l 26 16) }

/-- The problem table at address b, its arrays read up to the sizes of PT_DIMS clipped to 16 states, 8 dimensions, 12 legs and
4 constraints (R63 to R70). -/
def readTable (s : State) (b : Nat) : Table :=
  let dims := s.word (b + 4)
  let mode := s.word (b + 8)
  let nx := bits dims 4 0
  let nu := bits dims 11 8
  let h := bits dims 19 16
  let ncpl := bits dims 26 24
  let ix := List.range (Nat.min nx 16)
  let iu := List.range (Nat.min nu 8)
  { id := s.word b, nx, nu, h, ncpl,
    enable := mode.testBit 31, determ := mode.testBit 9, runahead := mode.testBit 8, chart := bits mode 5 4,
    eps := bits mode 3 2, check := bits mode 1 0, budget := bits (s.word (b + 0xC)) 23 0,
    mask := bits (s.word (b + 0x10)) 15 0, bscale := bits (s.word (b + 0x14)) 5 0, tag := s.word (b + 0x18),
    sts := ix.map (entryAt s b), acts := iu.map (actionAt s b),
    cpls := (List.range (Nat.min ncpl 4)).map (couplingAt s b (Nat.min nu 8)),
    a := ix.map fun i => ix.map fun j => sgn 18 (s.word (b + 0x400 + 64 * i + 4 * j)),
    g := ix.map fun i => iu.map fun j => sgn 18 (s.word (b + 0x800 + 32 * i + 4 * j)),
    d := (List.range (Nat.min h 12 + 1)).map fun l => ix.map fun i => sgn 32 (s.word (b + 0xA00 + 64 * l + 4 * i)),
    ref := (List.range (Nat.min h 12)).map fun l => ix.map fun i => sgn 32 (s.word (b + 0xD40 + 64 * l + 4 * i)) }

def slotTable (s : State) (p : Slot) : Table := readTable s (slotBase p)
/-- PT_SOBS of the first n states (R67). -/
def readObs (s : State) (p : Slot) (n : Nat) : List Int :=
  (List.range (Nat.min n 16)).map fun i => sgn 32 (s.word (slotBase p + 0x40 + 32 * i + 0x18))

/-! ## Prediction and cost (R71 to R75) -/

def minI : Int := -2147483648
def maxI : Int := 2147483647
/-- Clamp to a signed 32-bit integer. -/
def clamp32 (y : Int) : Int := max minI (min maxI y)

/-- Nearest integer to x / 2^k, ties to even (R71, R133). -/
def rne (x : Int) (k : Nat) : Int :=
  let q := x / (2 ^ k : Int)
  let r := x % (2 ^ k : Int)
  if 2 * r > 2 ^ k ∨ (2 * r = 2 ^ k ∧ q % 2 = 1) then q + 1 else q

def dotI : List Int → List Int → Int
  | a :: as, b :: bs => a * b + dotI as bs
  | _, _ => 0
def legI (u : Leg) : List Int := u.map Int.ofNat

/-- One row of R71: the clamped state and whether it sets sat. -/
def stepRow (shift : Nat) (a g : List Int) (d : Int) (x : List Int) (u : Leg) : Int × Bool :=
  let y := rne (dotI a x + dotI g (legI u)) shift + d
  (clamp32 y, decide (y < minI ∨ y > maxI))

/-- The model step of R71 with coefficient arrays a and g; row l of D. -/
def stepWith (t : Table) (a g : List (List Int)) (x : List Int) (u : Leg) (l : Nat) : List Int × Bool :=
  let rows := (List.range t.sts.length).map fun i =>
    stepRow (t.sts.getD i {}).shift (a.getD i []) (g.getD i []) ((t.d.getD l []).getD i 0) x u
  (rows.map (·.1), rows.any (·.2))
def stepModel (t : Table) (x : List Int) (u : Leg) (l : Nat) : List Int × Bool := stepWith t t.a t.g x u l

/-- Apply the model under several levels, all with row 0 (R39). -/
def stepMany (t : Table) (x : List Int) : List Leg → List Int × Bool
  | [] => (x, false)
  | u :: us =>
    let (y, sat) := stepModel t x u 0
    let (z, sat') := stepMany t y us
    (z, sat || sat')

def sat16 (x : Int) : Int := max (-32768) (min 32767 x)
/-- The clipped tracking error of state entry e (R73). -/
def trackErr (e : SEntry) (ref x : Int) : Int := sat16 (floorSh (x - ref) e.qsh)
def trackTerm (e : SEntry) (w : Nat) (err : Int) : Nat :=
  if e.kind = 1 then w * err.natAbs else if e.kind = 0 then 0 else w * (err.natAbs * err.natAbs)
def softTerm (e : SEntry) (x : Int) : Nat :=
  if e.soften then
    let v := max 0 (max (e.slo - x) (x - e.shi))
    e.mu * Nat.min (v.toNat >>> e.psh) 65535
  else 0
def weightAt (t : Table) (e : SEntry) (l : Nat) : Nat := if l = t.h then e.tw else e.w
def refAt (t : Table) (l i : Nat) : Int := (t.ref.getD (l - 1) []).getD i 0
def dist (a b : Nat) : Nat := Int.natAbs ((a : Int) - b)
def legDist (u v : Leg) : Nat := sumN ((u.zip v).map fun p => dist p.1 p.2)

/-- legcost of R73. -/
def legCost (t : Table) (x : List Int) (u prev : Leg) (l : Nat) : Nat :=
  sumN ((List.range t.sts.length).map fun i =>
    let e := t.sts.getD i {}
    let xi := x.getD i 0
    trackTerm e (weightAt t e l) (trackErr e (refAt t l i) xi) + softTerm e xi) +
  sumN ((List.range t.acts.length).map fun j => (t.acts.getD j {}).sig * dist (u.getD j 0) (prev.getD j 0))

/-- 2^48 - 1, at which a course's cost saturates (R74). -/
def costSat : Nat := 281474976710655
def satCost (c : Nat) : Nat := Nat.min c costSat

/-- Coefficient m of a coupling code (R69). -/
def cplCoef (code : Nat) : Int := if code = 1 then 1 else if code = 3 then -1 else 0
def couplingOk (t : Table) (u : Leg) : Bool :=
  t.cpls.all fun c => let v := dotI (c.codes.map cplCoef) (legI u); decide (c.lo ≤ v ∧ v ≤ c.hi)

/-- The level and step limits of R75, with effective upper limits `um`. -/
def levelsOk (t : Table) (um u prev : Leg) : Bool :=
  (List.range t.acts.length).all fun j =>
    let a := t.acts.getD j {}
    let v := u.getD j 0
    decide (a.umin ≤ v ∧ v ≤ um.getD j 0 ∧ dist v (prev.getD j 0) ≤ a.step)
def legOk (t : Table) (um u prev : Leg) : Bool := levelsOk t um u prev && couplingOk t u

/-- Cost of the legs from leg l on, from state x under previous levels `prev`; none when infeasible (R74, R75). -/
def courseCostFrom (t : Table) (um : Leg) (x : List Int) (prev : Leg) (l acc : Nat) : Course → Option Nat
  | [] => some acc
  | u :: us =>
    let (y, sat) := stepModel t x u l
    if legOk t um u prev && !sat then courseCostFrom t um y u (l + 1) (satCost (acc + legCost t y u prev l)) us else none
/-- The cost of a course of H legs from X^(0) and u_k. -/
def courseCost (t : Table) (um : Leg) (x0 : List Int) (uk : Leg) (c : Course) : Option Nat :=
  if c.length = t.h then courseCostFrom t um x0 uk 1 0 c else none

/-! ## Children (R94, R95) -/

/-- The levels a dimension may take from previous level v. -/
def levelRange (a : AEntry) (um v : Nat) : List Nat :=
  (List.range 65).filter fun u => decide (a.umin ≤ u ∧ u ≤ um ∧ dist u v ≤ a.step)
def product : List (List Nat) → List Leg
  | [] => [[]]
  | r :: rs => r.flatMap fun v => (product rs).map (v :: ·)

/-- The children of a node with levels `prev`, in ascending order of the sum of changes, then lexicographic. -/
def orderedLegs (t : Table) (um prev : Leg) : List Leg :=
  let all := (product ((List.range t.acts.length).map fun j =>
    levelRange (t.acts.getD j {}) (um.getD j 0) (prev.getD j 0))).filter (couplingOk t)
  (List.range (64 * t.acts.length + 1)).flatMap fun k => all.filter fun u => legDist u prev == k

/-- The guide leg goes first when the node's prefix equals the guide course's first legs (R95). -/
def children (t : Table) (um prev : Leg) (pfx : Course) (guide : Option Course) : List Leg :=
  let ls := orderedLegs t um prev
  match guide with
  | some g =>
    match g.take pfx.length == pfx, g[pfx.length]? with
    | true, some u => if ls.contains u then u :: ls.filter (· != u) else ls
    | _, _ => ls
  | none => ls

/-! ## Order of courses (R96) -/

def legCmp : Leg → Leg → Ordering
  | [], [] => .eq
  | [], _ => .lt
  | _, [] => .gt
  | a :: as, b :: bs => if a < b then .lt else if b < a then .gt else legCmp as bs
def courseCmp : Course → Course → Ordering
  | [], [] => .eq
  | [], _ => .lt
  | _, [] => .gt
  | a :: as, b :: bs => match legCmp a b with
    | .eq => courseCmp as bs
    | o => o
def courseLt (a b : Course) : Bool := courseCmp a b == .lt

/-- (cost, course) is better than an incumbent (R96). -/
def better (cost : Nat) (c : Course) : Option Inc → Bool
  | none => true
  | some i => decide (cost < i.cost) || (cost == i.cost && courseLt c i.course)
/-- The better of two incumbents. -/
def bestInc (a b : Option Inc) : Option Inc :=
  match a with
  | none => b
  | some i => if better i.cost i.course b then some i else b

/-! ## Tail and refined bounds (R97 to R99, R134) -/

/-- State intervals, which of them were widened in this leg, and whether one was widened in this or an earlier leg. -/
structure Box where
  lo : List Int
  hi : List Int
  wide : List Bool
  whole : Bool
deriving DecidableEq, Repr

/-- Ends of the sum of a row over interval states and levels. -/
def rowEnds (a : List Int) (lo hi : List Int) : Int × Int :=
  ((List.range a.length).map fun j =>
    let c := a.getD j 0
    if c ≥ 0 then (c * lo.getD j 0, c * hi.getD j 0) else (c * hi.getD j 0, c * lo.getD j 0)).foldl
    (fun s p => (s.1 + p.1, s.2 + p.2)) (0, 0)

/-- The box of leg l from the box before it: levels within n steps of `u` (R97). Where the range of a level is empty the spec gives no
interval; the ends are taken the other way round (DESIGN CHOICE, log entry 109). -/
def nextBox (t : Table) (um u : Leg) (n l : Nat) (b : Box) : Box :=
  let us := (List.range t.acts.length).map fun j =>
    let a := t.acts.getD j {}
    let lo := max (a.umin : Int) ((u.getD j 0 : Int) - n * a.step)
    let hi := min (um.getD j 0 : Int) ((u.getD j 0 : Int) + n * a.step)
    (min lo hi, max lo hi)
  let ulo := us.map (·.1)
  let uhi := us.map (·.2)
  let ends := (List.range t.sts.length).map fun i =>
    let e := t.sts.getD i {}
    let x := rowEnds (t.a.getD i []) b.lo b.hi
    let y := rowEnds (t.g.getD i []) ulo uhi
    let d := (t.d.getD l []).getD i 0
    let lo := (x.1 + y.1) / (2 ^ e.shift : Int) + d
    let hi := -((-(x.2 + y.2)) / (2 ^ e.shift : Int)) + d
    if lo < minI ∨ hi > maxI then (minI, maxI, true) else (lo, hi, false)
  { lo := ends.map (·.1), hi := ends.map (·.2.1), wide := ends.map (·.2.2), whole := b.whole || ends.any (·.2.2) }

/-- The boxes of legs l, l + 1, … (k of them) from the box before leg l; `n` steps so far. -/
def boxesFrom (t : Table) (um u : Leg) (b : Box) (n l : Nat) : Nat → List Box
  | 0 => []
  | k + 1 => let c := nextBox t um u (n + 1) l b; c :: boxesFrom t um u c (n + 1) (l + 1) k

def clampTo (lo hi x : Int) : Int := max lo (min hi x)
/-- Least soft term over an interval (R134). -/
def softMin (e : SEntry) (lo hi : Int) : Nat :=
  let mid := (e.slo + e.shi) / 2
  [lo, hi, clampTo lo hi e.slo, clampTo lo hi e.shi, clampTo lo hi mid, clampTo lo hi (mid + 1)].foldl
    (fun m x => Nat.min m (softTerm e x)) (softTerm e lo)
/-- Least tracking term over an interval: the clipped error nearest zero (R134). -/
def trackMin (e : SEntry) (w : Nat) (ref lo hi : Int) : Nat :=
  let a := trackErr e ref lo
  let b := trackErr e ref hi
  if a ≤ 0 ∧ 0 ≤ b then 0 else Nat.min (trackTerm e w a) (trackTerm e w b)

/-- m[l] of R97 in bound units; the terms of a widened state are 0 (R144). -/
def boxMin (t : Table) (l : Nat) (b : Box) : Nat :=
  Nat.min 65535 ((sumN ((List.range t.sts.length).map fun i =>
    let e := t.sts.getD i {}
    if b.wide.getD i false then 0 else
    trackMin e (weightAt t e l) (refAt t l i) (b.lo.getD i 0) (b.hi.getD i 0) +
    softMin e (b.lo.getD i 0) (b.hi.getD i 0))) >>> t.bscale)

def pointBox (x : List Int) : Box := { lo := x, hi := x, wide := [], whole := false }
def latchBoxes (t : Table) (um : Leg) (x0 : List Int) (uk : Leg) : List Box :=
  boxesFrom t um uk (pointBox x0) 0 1 t.h
def suffixSums : List Nat → List Nat
  | [] => [0]
  | m :: ms => let r := suffixSums ms; Nat.min 65535 (m + r.headD 0) :: r
/-- T[0] to T[H] of R97. -/
def tailBounds (t : Table) (bs : List Box) : List Nat :=
  suffixSums ((List.range bs.length).map fun k => boxMin t (k + 1) (bs.getD k (pointBox [])))

/-- lb of R98. -/
def childBound (t : Table) (tail : List Nat) (acc d : Nat) : Nat := Nat.min ((acc >>> t.bscale) + tail.getD d 0) 65535
/-- The refined bound of a node at depth d (R99). -/
def refinedBound (t : Table) (um : Leg) (x : List Int) (u : Leg) (d acc : Nat) : Nat :=
  let bs := boxesFrom t um u (pointBox x) 0 (d + 1) (t.h - d)
  let m := sumN ((List.range bs.length).map fun k => boxMin t (d + 1 + k) (bs.getD k (pointBox [])))
  Nat.min ((acc >>> t.bscale) + m) 65535

/-! ## Pruning (R100) -/

/-- Shift e of R100 for EPS 1, 2 or 3. -/
def epsShift (eps : Nat) : Nat := if eps = 1 then 6 else if eps = 2 then 4 else 2
/-- Rules 1 and 2 remove the node. -/
def prunedHard (t : Table) (inc : Option Inc) (lb : Nat) (pfx : Course) : Bool :=
  let v := lb * 2 ^ t.bscale
  match inc with
  | none => decide (v > 2 ^ 48)
  | some i => decide (v > i.cost) || (v == i.cost && courseLt (i.course.take pfx.length) pfx)
/-- Rule 3 removes the node: the value v that it takes into the floor. -/
def prunedEps (t : Table) (inc : Option Inc) (lb : Nat) : Option Nat :=
  let v := lb * 2 ^ t.bscale
  let c := match inc with
    | none => 2 ^ 48
    | some i => i.cost
  if t.eps ≠ 0 ∧ v ≥ c - (c >>> epsShift t.eps) then some v else none
def minOpt (a : Option Nat) (v : Nat) : Option Nat := some (match a with
  | none => v
  | some x => Nat.min x v)

/-! ## ρ, E, the residual and the Shadow tolerance (R77, R79, R120, R138) -/

def absRow (r : List Int) : Nat := sumN (r.map Int.natAbs)
/-- ρ as (numerator, shift) pairs per row; PT_RHO is the greatest, in 16.16 rounded up. -/
def rho1616 (t : Table) : Nat :=
  ((List.range t.sts.length).map fun i => ceilSh (absRow (t.a.getD i []) * 65536) (t.sts.getD i {}).shift).foldl Nat.max 0
/-- ρ exactly, over the common denominator 2^47. -/
def rhoNum (t : Table) : Nat :=
  ((List.range t.sts.length).map fun i => absRow (t.a.getD i []) * 2 ^ (47 - (t.sts.getD i {}).shift)).foldl Nat.max 0
/-- E = ½ max(1, ρ)^(H - 1) in 16.16, rounded up (R77). -/
def perr1616 (t : Table) : Nat :=
  let r := Nat.max (2 ^ 47) (rhoNum t)
  ceilSh (32768 * r ^ (t.h - 1)) (47 * (t.h - 1))
def sat32 (x : Nat) : Nat := Nat.min x 0xFFFFFFFF

/-- SR_RESID: the largest residual over its tolerance, 16.16 rounded up, saturating; a difference against a TOL of 0
saturates (R120). -/
def residual (t : Table) (x xh : List Int) : Nat :=
  ((List.range t.sts.length).map fun i =>
    let dlt := (x.getD i 0 - xh.getD i 0).natAbs
    let tol := (t.sts.getD i {}).tol
    if dlt = 0 then 0 else if tol = 0 then 0xFFFFFFFF else sat32 (ceilDiv (dlt * 65536) tol)).foldl Nat.max 0
/-- The comparison of R42. -/
def agrees (t : Table) (x xh : List Int) : Bool :=
  (List.range t.sts.length).all fun i => decide ((x.getD i 0 - xh.getD i 0).natAbs ≤ (t.sts.getD i {}).tol)

def boxAbs (b : Box) : Nat := ((b.lo ++ b.hi).map Int.natAbs).foldl Nat.max 0
def ceilShI (x : Nat) (k : Nat) : Nat := ceilSh x k

/-- The terms of T_sh for legs l, l + 1, … from σ^(l-1) and β^(l-1) (R138). -/
def shTerms (t : Table) (um : Leg) (sigma beta l : Nat) : List Box → Nat
  | [] => 0
  | b :: bs =>
    let gsum := 8 * sumN um
    let sg := ((List.range t.sts.length).map fun i =>
      ceilSh ((absRow (t.a.getD i []) + 8 * t.nx) * sigma + 8 * t.nx * beta + gsum) (t.sts.getD i {}).shift).foldl Nat.max 0 + 129
    let here := sumN ((List.range t.sts.length).map fun i =>
      let e := t.sts.getD i {}
      let w := weightAt t e l
      let k := Nat.min 65535 ((sg >>> e.qsh) + 1)
      let y := Nat.max (b.lo.getD i 0 - refAt t l i).natAbs (b.hi.getD i 0 - refAt t l i).natAbs
      let m := Nat.min 32767 (ceilSh y e.qsh)
      let tr := if e.kind = 1 then w * k else if e.kind = 0 then 0 else w * (k * (2 * m + k))
      let so := if e.soften then e.mu * Nat.min 65535 ((sg >>> e.psh) + 1) else 0
      tr + so)
    here + shTerms t um sg (boxAbs b) (l + 1) bs
/-- T_sh (R138, R139). -/
def shadowTol (t : Table) (um : Leg) (x0 : List Int) (bs : List Box) : Nat :=
  if bs.any (·.whole) then 0xFFFFFFFF else sat32 (shTerms t um 128 (boxAbs (pointBox x0)) 1 bs)

/-! ## The shadow evaluation (R122) -/

def round8 (x : Int) : Int := min maxI (rne x 8 * 256)
def round4 (c : Int) : Int := rne c 4 * 16
/-- C_sh from leg l on, and whether every leg is within the level, step and coupling limits. -/
def shadowFrom (t : Table) (a g : List (List Int)) (um : Leg) (x : List Int) (prev : Leg) (l acc : Nat) (ok : Bool) :
    Course → Nat × Bool
  | [] => (acc, ok)
  | u :: us =>
    let y := (stepWith t a g x u l).1.map round8
    shadowFrom t a g um y u (l + 1) (satCost (acc + legCost t y u prev l)) (ok && legOk t um u prev) us
def shadowEval (t : Table) (um : Leg) (x0 : List Int) (uk : Leg) (c : Course) : Nat × Bool :=
  shadowFrom t (t.a.map (·.map round4)) (t.g.map (·.map round4)) um (x0.map round8) uk 1 0 (c.length == t.h) c

end Sys2Proof.Machine
end

