-- ==== Sys2Proof/Machine/Signals.lean ====
section
/-!
DEFINITION. The signals that one block sends another: events (R474, R477), interrupt lines (R366), capture triggers (R236),
event-log entries (R440), chain frames (R294, R297), notices to the island (R274), the entry of the safe state (R266, R284),
and the count of misses (R58).
-/
namespace Sys2Proof.Machine

/-- Number of a block in CLK_GATE and PWR_BRST (R465). -/
def blkIdx : Blk → Nat
  | .srch => 0 | .chrt => 1 | .cell => 2 | .cap => 3 | .chn => 4
  | .evt => 5 | .plt => 6 | .ser => 7 | .mem => 8 | .per => 9

/-- The block's gate is closed (CLK_GSTAT, R453, R454). -/
def State.gated (s : State) (b : Blk) : Bool := s.bit clkGstat (blkIdx b)
/-- The block is held in a partial reset (PWR_BRSTAT, R455). -/
def State.inReset (s : State) (b : Blk) : Bool := s.bit pwrBrstat (blkIdx b)
/-- The block acts: the compute die is on and out of reset, the gate open, and no partial reset runs. -/
def State.live (s : State) (b : Blk) : Bool := s.clk.cdUp && !s.gated b && !s.inReset b

/-! ## Events -/

/-- How many of channel c's four producers are code `code`. -/
def producers (s : State) (c code : Nat) : Nat :=
  let w := s.rd (evtChprod c)
  b2n (bits w 7 0 == code) + b2n (bits w 15 8 == code) + b2n (bits w 23 16 == code) + b2n (bits w 31 24 == code)

/-- Channel c carries events: EN is 1 and the storm detector has not disabled it (R473, R479). -/
def State.chanOn (s : State) (c : Nat) : Bool := s.bit (evtChcfg c) 31 && !s.bit evtStorm c

/-- Producer `code` fires: each channel that names it carries the event in the next cycle (R477). Events produced while the
EVT block is gated or in reset are lost (R481). -/
def State.fire (s : State) (code : Nat) : State :=
  if s.live .evt then
    { s with pins := { s.pins with evts := Vector.ofFn fun c : Fin 32 =>
        s.pins.evts[c] + if s.chanOn c then producers s c code else 0 } }
  else s

/-- An event starts across the die-to-die bridge (R477). -/
def State.toBridge (s : State) (code : Nat) : State := { s with pins := { s.pins with bridge := s.pins.bridge ++ [code] } }

/-- An interrupt line of a core is raised: its IPEND bit is set (R366). -/
def State.raiseLine (s : State) (n : CoreN) (l : Nat) : State :=
  let k := s.core n
  s.setCore n { k with ipend := k.ipend ||| BitVec.ofNat 32 (2 ^ l) }

/-- The fabric cycle of the period, as far as a command tells it (PER_NOW). -/
def State.tellNow (s : State) (now : Nat) : State := { s with per := { s.per with now := Nat.max s.per.now now } }
/-- Which tasks' actions a register write did, when it did any (R476). -/
def State.did (s : State) (ks : List Nat) : State := { s with pins := { s.pins with wrote := if ks.isEmpty then s.pins.wrote else ks } }

/-! ## Capture triggers (R236, R240): 0 SW, 1 EVT, 2 DPF, 3 SAFE, 4 MISS, 5 LINK -/

def State.capTrig (s : State) (src : Nat) : State :=
  if !s.live .cap || !s.bit capTrigen src then s
  else if s.bit capStatus 31 && !s.cap.resume then
    { s.setBit capStatus 2 true with cap := { s.cap with lost := s.cap.lost ||| 2 ^ src } }
  else
    let s := if s.bit capStatus 31 || s.cap.trigged then s else s.setBit capStatus 27 true
    State.fire { s with cap := { s.cap with trigs := s.cap.trigs ||| 2 ^ src } } 0x19

/-! ## Event log (R440) -/

def nvrBaseAddr : Nat := 0x5020000000

/-- MPT_UPTIME: whole seconds since the Binnacle reset, saturating, as its 1 ms ticks count them (R337, log entry 104). -/
def State.upTime (s : State) : Nat := Nat.min (s.clk.ms / 1000) (2 ^ 32 - 1)
/-- Write an event-log entry at NVR_EVHEAD, around the ring. -/
def State.evLog (s : State) (src bitNo param : Nat) : State :=
  if s.bit nvrStatus 31 then
    let idx := s.fld nvrEvhead 7 0
    let seq := s.fld nvrEvhead 31 16
    let ws := toLE 4 (seq * 65536 + src * 256 + bitNo) ++ toLE 4 s.upTime ++ toLE 4 param
    let s := s.setBytes (nvrBaseAddr + 0x2000 + 16 * idx) (withCrc ws)
    (s.setFld nvrEvhead 7 0 (idx + 1)).setFld nvrEvhead 31 16 (seq + 1)
  else s

/-! ## System records (R438, R439) -/

/-- The payload words of copy c of record r when the copy is valid, with its SEQ. -/
def recCopy (s : State) (r c : Nat) : Option (Nat × List Nat) :=
  let a := nvrBaseAddr + 0x400 * (r - 1) + 0x200 * c
  let h := s.word a
  let nw := bits h 7 0
  if bits h 15 8 = r ∧ 1 ≤ nw ∧ nw ≤ 125 ∧ s.word (a + 4 + 4 * nw) = crc32 (s.bytes a (4 + 4 * nw)) then
    some (bits h 31 16, (List.range nw).map fun i => s.word (a + 4 + 4 * i))
  else none

/-- SEQ x is newer than SEQ y (R438). -/
def seqNewer (x y : Nat) : Bool :=
  let d := (x + 65536 - y) % 65536
  decide (1 ≤ d ∧ d ≤ 32767)

/-- The newer valid copy of record r: its number, SEQ and payload (R438). -/
def recNewest (s : State) (r : Nat) : Option (Nat × Nat × List Nat) :=
  match recCopy s r 0, recCopy s r 1 with
  | some a, some b => if seqNewer b.1 a.1 then some (1, b) else some (0, a)
  | some a, none => some (0, a)
  | none, some b => some (1, b)
  | none, none => none

/-- The payload of record r, `n` zero words when it has no valid copy (R438, R439: defaults 0). -/
def recRead (s : State) (r n : Nat) : List Nat :=
  match recNewest s r with
  | some (_, _, ws) => ws
  | none => List.replicate n 0

/-- A record's writer writes the copy that is not the newer valid one, with SEQ one above the newer (R438). -/
def State.recWrite (s : State) (r : Nat) (ws : List Nat) : State :=
  let (c, seq) := match recNewest s r with
    | some (c, q, _) => (1 - c, (q + 1) % 65536)
    | none => (0, 1)
  let body := toLE 4 (seq * 65536 + r * 256 + ws.length) ++ ws.flatMap (toLE 4)
  s.setBytes (nvrBaseAddr + 0x400 * (r - 1) + 0x200 * c) (withCrc body)

/-- The loader writes the boot progress record (R405; its layout is log entry 26), once it has read it. -/
def State.saveProg (s : State) : State :=
  if !s.boot.recalled then s
  else s.recWrite 1 ([(s.rd bootStatus &&& 0x38FF0000) + s.boot.lastSlot, s.rd bootProg, s.rd bootDeg] ++ s.boot.lastHash ++ s.boot.failHash)
/-- GCNT of channel c in BOOT_DEG, 2 bits (R250, R251). -/
def State.setGcnt (s : State) (c : ChanN) (v : Nat) : State := (s.setFld bootDeg (2 * c + 1) (2 * c) v).saveProg
def State.gcnt (s : State) (c : ChanN) : Nat := s.fld bootDeg (2 * c + 1) (2 * c)

/-! ## Chain frames -/

def portIdx : ChPort → Nat
  | .up => 0 | .dn => 1
def otherPort : ChPort → ChPort
  | .up => .dn | .dn => .up
def portOf (dn : Bool) : ChPort := if dn then .dn else .up
/-- State code of a port in CHN_PORTSTAT (R302): 3 is UP. -/
def State.portState (s : State) (p : ChPort) : Nat := s.fld chnPortstat (8 * portIdx p + 2) (8 * portIdx p)
def State.setPortState (s : State) (p : ChPort) (v : Nat) : State :=
  s.setFld chnPortstat (8 * portIdx p + 2) (8 * portIdx p) v
def State.cport (s : State) : ChPort → CPort
  | .up => s.chain.up
  | .dn => s.chain.dn
/-- Block lock of D0 (4) and D1 (5), and sync of the pilot lane (6), of a port. -/
def State.portLock (s : State) (p : ChPort) (i : Nat) : Bool :=
  if i = 6 then (s.cport p).pilot else s.bit chnPortstat (8 * portIdx p + i)
/-- The lanes of one kind are out of use on a port: data lanes while the port is not UP, the pilot lane while out of sync
(R297, R298). -/
def State.portDead (s : State) (p : ChPort) (pilot : Bool) : Bool :=
  if pilot then !s.portLock p 6 else !(s.portState p == 3)
def State.hostPort (s : State) : ChPort := portOf (s.bit chnAddr 8)
def State.myAddr (s : State) : Nat := s.fld chnAddr 5 0

/-- The data lanes of a port work: the CHN block acts, the port is enabled, and no fallback to pilot-only is in force (R299, R319). -/
def State.dataOn (s : State) (p : ChPort) : Bool := s.live .chn && s.bit chnCtrl (portIdx p) && !s.bit chnPilot 1
/-- The data lane of a frame or block type: D1 for BLKWR, BLKACK, BLKRD and BLKDATA, D0 for the rest, and the other one when it is out of lock
(R293, R295, log entry 105). -/
def State.dataLane (s : State) (p : ChPort) (typ : Nat) : ChLane :=
  if typ = 5 ∨ typ = 6 ∨ typ = 7 ∨ typ = 8 then (if s.portLock p 4 && !s.portLock p 5 then .d0 else .d1)
  else if s.portLock p 5 && !s.portLock p 4 then .d1 else .d0
/-- A frame leaves on a lane of a port. -/
def State.emit (s : State) (p : ChPort) (pilot : Bool) (f : CFrame) : State :=
  if pilot || s.dataOn p then
    { s with chain := { s.chain with sent := s.chain.sent ++ [(p, if pilot then .pl else s.dataLane p f.typ, f)] } }
  else s

/-- A frame the module originates or forwards toward `dst`: through the port of R297, or through the other with WRAP set when
that port is down. -/
def State.route (s : State) (p : ChPort) (pilot : Bool) (f : CFrame) : State :=
  if s.portDead p pilot then s.emit (otherPort p) pilot { f with wrap := true } else s.emit p pilot f

/-- The port toward an address (R297). -/
def State.portToward (s : State) (dst : Nat) : ChPort :=
  if dst = 0 ∨ dst < s.myAddr then s.hostPort else otherPort s.hostPort

/-- A frame of this module to `dst`. -/
def State.chainSend (s : State) (pilot : Bool) (typ dst tag : Nat) (pay : List Byte) : State :=
  s.route (s.portToward dst) pilot { typ, dst, src := s.myAddr, hops := 0, wrap := false, tag, pay }

/-- An ALERT to the host (R295). It takes D0 when some port's data lanes are UP, else the pilot lane (log entry 31). -/
def State.alertOn (s : State) (p : ChPort) (code : Nat) (param : List Byte) : State :=
  let pilot := !(s.clk.cdUp && (s.portState .up == 3 || s.portState .dn == 3))
  s.route p pilot { typ := 0x14, dst := 0, src := s.myAddr, hops := 0, wrap := false, tag := 0,
                    pay := toLE 4 code ++ param }
/-- An ALERT whose PARAM the manual leaves open: a free value. -/
def State.alert (s : State) (code : Nat) : State :=
  let (w, s) := s.freeWord
  s.alertOn s.hostPort code (toLE 4 w.toNat)

/-- Frames between the modules of a pair use the port of CHN_PAIR.PORT (R314, R316, R317), or the other when it is down (R297). -/
def State.peerSend (s : State) (pilot : Bool) (typ : Nat) (pay : List Byte) : State :=
  s.route (portOf (s.bit chnPair 30)) pilot
    { typ, dst := s.fld chnPair 5 0, src := s.myAddr, hops := 0, wrap := false, tag := 0, pay }

/-! ## Notices to the island (R274) -/

def State.notice (s : State) (body : List Byte) : State := { s with notices := s.notices ++ [withCrc body] }

/-! ## The safe state -/

def State.safe (s : State) : Bool := s.bit safStatus 31
def State.role (s : State) : Bool := s.bit cellRole 0
/-- Causes handled by handing over to the peer (R284): LINK, CLOCK, SUPPLY, TEMP, LATENT, SIMPST, DPFRATE, MISS, REPTO. -/
def pairedCauses : List Nat := [7, 8, 9, 10, 11, 12, 13, 14, 15]

/-- The cell-link unit stops the command frames that wait to leave, and what waits for them: no decision report follows (R266, R284). -/
def State.stopWaiting (s : State) : State :=
  { s with lanes := s.lanes.map fun l => if l.queue.isEmpty then l else { l with queue := l.queue.filter fun f => f.kind == 0x21 },
           cell := { s.cell with sels := s.cell.sels.map fun x => { x with final := none } } }

/-- The safe state is latched: SAFE0 to SAFE3 go low, SS1-t ends, an output test is abandoned, and the cell-link unit stops
the command frames of this period (R266, R289). -/
def State.enterSafe (s : State) : State :=
  if s.safe then s else
  let s := ((s.setBit safStatus 31 true).setBit safStatus 30 false).setBit safStatus 28 false
  let s := { s with saf := { s.saf with pairWait := none, relPending := false, test := none }, cell := { s.cell with stopAll := true } }
  ((s.stopWaiting.toBridge 0x29).capTrig 3).alert 4

/-- A cause arises: it is latched in SAF_CAUSE, recorded, a pending release is cancelled and an output test abandoned (R289), and the safe
state is entered, or the hand-over of R284 begins. -/
def State.raiseCause (s : State) (cause slot unit : Nat) : State :=
  if s.saf.islandFault then s else
  let s := s.orReg safCause (2 ^ cause)
  let s := s.wr safLastflt (0x80000000 + slot * 2 ^ 24 + unit * 2 ^ 16 + cause)
  let s := s.wr safFltpcnt (s.saf.pcnt.getD 0)
  let s := { s with saf := { s.saf with relPending := false, test := none } }
  let s := s.evLog 5 cause slot
  if s.safe || s.saf.pairWait.isSome && pairedCauses.contains cause then s
  else if s.bit safCfg 31 && s.role && pairedCauses.contains cause then
    let s := (s.setBit safStatus 28 true)
    let s := { s with saf := { s.saf with pairWait := some cause }, cell := { s.cell with stopFrames := true } }
    let s := s.stopWaiting.peerSend true 0x12 (toLE 4 (s.rd perCount) ++ toLE 1 cause ++ toLE 3 0)
    s.setBit cellRole 0 false
  else s.enterSafe

/-- A cause whose condition lasts: it stays active until `endCause` (R271). -/
def State.holdCause (s : State) (cause slot unit : Nat) : State :=
  { s.raiseCause cause slot unit with saf := { (s.raiseCause cause slot unit).saf with
      active := (s.raiseCause cause slot unit).saf.active ||| 2 ^ cause } }
def State.endCause (s : State) (cause : Nat) : State :=
  { s with saf := { s.saf with active := s.saf.active &&& (allBits ^^^ 2 ^ cause) } }

/-- An island fault: the keep-alive stops and the safe state is latched until a Binnacle reset (R267, R272). -/
def State.islandFault (s : State) : State :=
  let s := s.holdCause 16 0 0
  { s with saf := { s.saf with islandFault := true, keepalive := false } }

/-- The conditions of R271 that RELOK shows. -/
def State.relOk (s : State) : Bool :=
  !s.saf.islandFault && s.saf.active == 0 && s.rd safCause == 0 && s.bit safCtrl 31 && decide (s.clk.power = .run)

/-- The island's output register holds output i on (R265, R266, R270, R284). -/
def State.safeReg (s : State) (i : Fin 4) : Bool :=
  if i.val = 2 then !s.safe && !s.bit safStatus 30
  else if i.val = 3 then !s.safe && s.role && s.saf.pairWait.isNone else !s.safe
/-- The two switches of output i are closed: by the keep-alive and by the output register, but for the one that a test holds open (R267,
R268). -/
def State.switch1 (s : State) (i : Fin 4) : Bool := s.saf.keepalive && s.saf.test != some (i, 0)
def State.switch2 (s : State) (i : Fin 4) : Bool := s.safeReg i && s.saf.test != some (i, 2)
/-- Levels of SAFE0 to SAFE3. -/
def State.safePin (s : State) (i : Fin 4) : Bool := s.switch1 i && s.switch2 i
def State.safePins (s : State) : Nat :=
  b2n (s.safePin 0) + 2 * b2n (s.safePin 1) + 4 * b2n (s.safePin 2) + 8 * b2n (s.safePin 3)
/-- Readback of SAFE0 to SAFE3: the level driven, but for a pin that was last told to read otherwise (R268, R290). -/
def State.safeRead (s : State) : Nat := sumN ((List.finRange 4).map fun i => 2 ^ i.val * b2n ((s.saf.readback[i]).getD (s.safePin i)))

/-! ## Misses (R58) -/

/-- A problem of the period ends without a decision: MISS, the saturating count, the capture source and the event. Once per
period. -/
def State.miss (s : State) (p : Slot) (reason : Nat) : State :=
  let q := s.prob p
  if q.missed || !q.enabled then s else
  let s := s.setProb p { q with missed := true, reason }
  let s := s.setBit perStatus (4 + p) true
  let s := s.count perMissCnt (8 * p + 7) (8 * p)
  (s.fire (0x14 + p)).capTrig 4

end Sys2Proof.Machine
end

