-- ==== Sys2Proof/Machine/Cells.lean ====
section
/-!
DEFINITION. From decision to cell commands: arms and availability (R174, R175), the sorter (R179 to R186), the cell record
(R187, R188), and the frames that carry commands (R51, R52, R176, R177, R209, R210, R526) with the decision report (R55).
-/
namespace Sys2Proof.Machine

/-! ## Arms and cells -/

/-- The registers of an array that are listed (differ from their reset value): element and value, ascending. -/
def State.listed (s : State) (base stride count : Nat) : List (Nat × Nat) :=
  s.regs.filterMap fun c =>
    if base ≤ c.1 ∧ c.1 < base + stride * count ∧ (c.1 - base) % stride = 0 then some ((c.1 - base) / stride, c.2.toNat)
    else none

/-- Mapped cells with their arm: CELL_CMAPn.EN is 1. An unlisted entry has EN 0. -/
def State.mapped (s : State) : List (Nat × Nat) :=
  ((s.listed (cellCmap 0) 4 1024).filter fun c => c.2.testBit 31).map fun c => (c.1, bits c.2 21 16)
def State.armCells (s : State) (a : Nat) : List Nat := (s.mapped.filter fun c => c.2 == a).map (·.1)
/-- R174. -/
def State.armConfigured (s : State) (a : Nat) : Bool :=
  s.bit (cellAcfg a) 31 && (s.armCells a).length == s.fld (cellAcfg a) 22 16
def State.configuredArms (s : State) : List Nat :=
  ((s.listed (cellAcfg 0) 32 64).map (·.1)).filter s.armConfigured

def uplinkRec (n : Nat) : Nat := 0x1000040000 + 16 * n
/-- R175: a mapped cell of a configured arm that meets the four conditions. -/
def State.cellAvail (s : State) (n : Nat) : Bool :=
  let st := (s.byte (uplinkRec n + 6)).toNat
  s.bit (cellCmap n) 31 && s.armConfigured (s.fld (cellCmap n) 21 16) && !s.bit (cellCmap n) 30 && (s.cell.recNow.contains n || s.cell.recPrev.contains n) && st.testBit 4 && !st.testBit 5
def State.availCount (s : State) (a : Nat) : Nat := ((s.armCells a).filter s.cellAvail).length
/-- The recorded state of a cell. -/
def State.recOf (s : State) (n : Nat) : Nat := s.fld (cellCst n) 5 4

def lookD {α : Type} (d : α) (l : List (Nat × α)) (k : Nat) : α :=
  match l.find? fun c => c.1 == k with
  | some c => c.2
  | none => d
def look {α : Type} (l : List (Nat × α)) (k : Nat) : Option α := (l.find? fun c => c.1 == k).map (·.2)

/-! ## Snapshot (R179) -/

/-- Arm current from the source that ISEL names. -/
def State.armCurrent (s : State) (p : Slot) (a : Nat) : Int :=
  let isel := s.fld (cellAcfg a) 4 0
  if 16 ≤ isel then sgn 32 (s.word (slotBase p + 0x40 + 32 * (isel - 16) + 0x18)) else sgn 32 (s.rd (cellAi a))

def State.snapArm (s : State) (p : Slot) (a : Nat) : ArmSnap :=
  { arm := a, cur := s.armCurrent p a,
    cells := (s.armCells a).map fun n =>
      { n, v := s.le (uplinkRec n) 2, avail := s.cellAvail n, sc := s.fld (cellCst n) 31 16, recd := s.recOf n } }

def armsOf (t : Table) : List Nat := t.acts.map (·.arm)

/-! ## Selection (R180, R181, R184) -/

/-- Cells by eff, then by number. -/
def effBefore (x y : Int × Nat) : Bool := decide (x.1 < y.1) || (x.1 == y.1 && decide (x.2 < y.2))
def lowestOf : List (Int × Nat) → Option (Int × Nat)
  | [] => none
  | x :: xs => match lowestOf xs with
    | none => some x
    | some y => if effBefore x y then some x else some y
def highestOf : List (Int × Nat) → Option (Int × Nat)
  | [] => none
  | x :: xs => match highestOf xs with
    | none => some x
    | some y => if effBefore y x then some x else some y

/-- The sets S and B of R181, the cells moved in order, and the swaps made. -/
structure Pick where
  ins : List (Int × Nat)
  out : List (Int × Nat)
  moves : List Nat
  swaps : Nat
deriving DecidableEq, Repr

def pickIn : Nat → Pick → Pick
  | 0, k => k
  | n + 1, k => match lowestOf k.out with
    | none => k
    | some b => pickIn n { k with ins := b :: k.ins, out := k.out.filter (· != b), moves := k.moves ++ [b.2] }
def pickOut : Nat → Pick → Pick
  | 0, k => k
  | n + 1, k => match highestOf k.ins with
    | none => k
    | some o => pickOut n { k with ins := k.ins.filter (· != o), out := o :: k.out, moves := k.moves ++ [o.2] }
def pickSwap (bypassFirst : Bool) : Nat → Pick → Pick
  | 0, k => k
  | n + 1, k => match highestOf k.ins, lowestOf k.out with
    | some o, some b =>
      if effBefore b o then
        pickSwap bypassFirst n
          { ins := b :: k.ins.filter (· != o), out := o :: k.out.filter (· != b),
            moves := k.moves ++ (if bypassFirst then [o.2, b.2] else [b.2, o.2]), swaps := k.swaps + 1 }
      else k
    | _, _ => k

/-- eff of a cell (R180). -/
def effOf (cur : Int) (idb balw hyst : Nat) (c : SnapCell) : Int :=
  let key : Int := if cur > idb then c.v else if cur < -(idb : Int) then 65535 - (c.v : Int) else 0
  key + balw * c.sc - (if c.recd = 1 then (hyst : Int) else 0)

/-- select(a, N) of R181 over a snapshot; the flag is short(a). -/
def State.select (s : State) (k : ArmSnap) (target : Nat) : Pick × Bool :=
  let w := s.rd (cellAkey k.arm)
  let ranked (c : SnapCell) := (effOf k.cur (s.fld (cellAdb k.arm) 15 0) (bits w 15 0) (bits w 31 16) c, c.n)
  let av := k.cells.filter (·.avail)
  let p0 : Pick := { ins := (av.filter (·.recd == 1)).map ranked, out := (av.filter (·.recd != 1)).map ranked, moves := [],
                     swaps := 0 }
  let n := Nat.min target av.length
  let p1 := pickOut (p0.ins.length - n) (pickIn (n - p0.ins.length) p0)
  (pickSwap (s.bit (cellAstg k.arm) 30) (s.fld (cellAcfg k.arm) 12 8) p1, decide (av.length < target))

/-- The command word of a cell (R176). -/
def cmdWord (stg st : Nat) : Nat := 4 * stg + st

/-- The command words of an arm (R177, R184). -/
def State.armWords (s : State) (k : ArmSnap) (q : Pick) : List (Nat × Nat) :=
  let stg := s.rd (cellAstg k.arm)
  let stmax := bits stg 29 20
  let unav := if s.bit (cellAcfg k.arm) 30 then 0 else 2
  let ins := q.ins.map (·.2)
  let stateOf (c : SnapCell) := b2n (ins.contains c.n)
  let others := (k.cells.filter fun c => c.avail && !q.moves.contains c.n && stateOf c != c.recd).map (·.n)
  let order := q.moves ++ others
  k.cells.map fun c =>
    if !c.avail then (c.n, cmdWord 0 unav)
    else if stateOf c = c.recd then (c.n, cmdWord 0 (stateOf c))
    else if stg.testBit 31 then
      (c.n, cmdWord (Nat.min (bits stg 9 0 + order.idxOf c.n * bits stg 19 10) stmax) (stateOf c))
    else (c.n, cmdWord (Nat.min (s.fld (cellCmap c.n) 9 0) stmax) (stateOf c))

/-! ## Frames (R210, R526) -/

/-- The frame up to its CRC. -/
def DFrame.body (f : DFrame) : List Byte :=
  let hpar := f.kind == 0x21
  toLE 1 f.kind ++ toLE 1 f.hub ++ toLE 2 f.pcnt ++ toLE 1 (f.prob + 4 * f.rtx + 16 * b2n f.role) ++ toLE 1 f.seq ++
  toLE 1 (if f.kind == 0x13 then 0 else f.words.length) ++ toLE 1 f.pseq ++ toLE 2 f.cmask ++ toLE 2 f.pchk ++
  f.words.flatMap fun w => toLE (if hpar then 4 else 2) w
def DFrame.bytes (f : DFrame) : List Byte := withCrc f.body
/-- The base CRC: the CRC of the first transmission (R526). -/
def DFrame.baseCrc (f : DFrame) : Nat := crc32 { f with rtx := 0 }.body

/-- Lanes in UP that serve hub h (code 2 of R202 leaves at most one). -/
def State.laneOf (s : State) (h : Nat) : Option LaneN :=
  ((s.listed (cellLstat 0) 16 64).find? fun c => c.2 % 8 == 4 && s.fld (cellLcfg c.1) 5 0 == h).map fun c => toFin 64 c.1

/-- The state settles a problem (R55): committed form, commit or cancel. -/
def settleKind (k : Nat) : Bool := k == 0x12 || k == 0x13 || k == 0x14

/-- The provisional frame of problem p that left on this lane in this period. -/
def Lane.provOf (l : Lane) (p pcnt : Nat) : Option DFrame := l.sent.find? fun f => f.kind == 0x11 && f.prob == p && f.pcnt == pcnt

def State.pcnt16 (s : State) : Nat := s.rd perCount % 65536

/-- A frame joins the end of a lane's queue. -/
def State.pushFrame (s : State) (l : LaneN) (f : DFrame) : State :=
  s.setLane l { s.lane l with queue := (s.lane l).queue ++ [f] }

/-- Queue the frame of one hub. A commit needs the provisional frame it settles; a cancel names it when it left. -/
def State.queueHub (s : State) (p : Slot) (kind : Nat) (words : List (Nat × Nat)) (h : Nat) : State :=
  match s.laneOf h with
  | none => s
  | some l =>
    let mine := words.filter fun w => w.1 / 16 == h
    let f : DFrame := { kind, hub := h, pcnt := s.pcnt16, prob := p, cmask := sumN (mine.map fun w => 2 ^ (w.1 % 16)),
                        words := (List.range 16).filterMap fun i => look mine (16 * h + i) }
    match (s.lane l).provOf p s.pcnt16 with
    | some pf =>
      if kind = 0x13 then s.pushFrame l { f with words := [], cmask := pf.cmask, pseq := pf.seq, pchk := pf.baseCrc % 65536 }
      else if kind = 0x14 then s.pushFrame l { f with pseq := pf.seq, pchk := pf.baseCrc % 65536 }
      else s.pushFrame l f
    | none => if kind = 0x13 then s else s.pushFrame l f

/-- Queue one frame for each hub that the words concern, in ascending hub number (R209). -/
def State.queueFrames (s : State) (p : Slot) (kind : Nat) (words : List (Nat × Nat)) : State :=
  s.each ((List.range 64).filter fun h => words.any fun w => w.1 / 16 == h) fun s h => s.queueHub p kind words h

/-- A frame of problem p of one of the kinds waits for its first transmission. -/
def State.unsent (s : State) (p : Slot) (kinds : Nat → Bool) : Bool :=
  s.lanes.toList.any fun l => l.queue.any fun f => kinds f.kind && f.prob == p && f.rtx == 0

/-- Remove the waiting frames of problem p of one of the kinds. -/
def State.dropFrames (s : State) (p : Slot) (kinds : Nat → Bool) : State :=
  { s with lanes := s.lanes.map fun l =>
      if l.queue.isEmpty then l else { l with queue := l.queue.filter fun f => !(kinds f.kind && f.prob == p) } }

/-! ## The decision report (R55, R274) -/

/-- SR_STAT of a problem's result (R120). -/
def srStat (q : Problem) : Nat :=
  (match q.inc with | some i => i.src | none => 0) * 2 ^ 28 + q.close * 2 ^ 24 + q.tbl.check % 4 * 2 ^ 22 +
  q.verdict * 2 ^ 20 + b2n q.decided * 2 ^ 15 + b2n q.corr * 2 ^ 14 + b2n q.drOnly * 2 ^ 13 + b2n q.detLost * 2 ^ 12 +
  b2n q.tbl.determ * 2 ^ 11 + b2n q.epsCut * 2 ^ 10 + b2n q.drop * 2 ^ 9 + b2n q.provSent * 2 ^ 8 + b2n q.provEq * 2 ^ 7 +
  b2n q.chartSeed * 2 ^ 6

/-- n bytes of a list of small numbers, 0 beyond its end. -/
def byteRow (n : Nat) (l : List Nat) : List Byte := (List.range n).map fun i => BitVec.ofNat 8 (l.getD i 0)

/-- The body of a decision report (R274). -/
def State.reportBody (s : State) (p : Slot) (realised : List (Nat × Nat)) : List Byte :=
  let q := s.prob p
  let t := q.tbl
  let xs := if q.drOnly then readObs s p t.nx else q.fixObs.getD (readObs s p t.nx)
  toLE 1 2 ++ toLE 1 p ++ toLE 4 (s.rd perCount) ++ toLE 4 (srStat q) ++ toLE 1 t.nu ++ byteRow 8 (armsOf t) ++
  byteRow 8 ((armsOf t).map (lookD 0 realised)) ++ byteRow 8 q.u ++ toLE 1 t.nx ++
  (List.range 16).flatMap fun i => toLE 4 (wrapN 32 (xs.getD i 0))

/-- When the settling frames of a decision have all left, the report goes to the island, once (R55). -/
def State.checkReport (s : State) (p : Slot) : State :=
  let q := s.prob p
  match s.cell.sels[p].final with
  | some j =>
    if q.decided && !q.reported && !q.missed && !s.unsent p settleKind then
      (s.setProb p { q with reported := true }).notice (s.reportBody p j.realised)
    else s
  | none => s

/-! ## The sorter -/

def State.setSel (s : State) (p : Slot) (x : Sel) : State :=
  { s with cell := { s.cell with sels := s.cell.sels.set p x } }

/-- Command frames are stopped (R266, R284). -/
def State.cmdStopped (s : State) : Bool := s.safe || s.cell.stopAll || s.cell.stopFrames
/-- A committed-form frame with STATE 2 for every cell, as R266 sends in the safe state. -/
def DFrame.blocks (f : DFrame) : Bool := f.kind == 0x12 && f.words.all (· == 2)
/-- A frame may be sent again while command frames are stopped. -/
def State.mayResend (s : State) (f : DFrame) : Bool := f.kind == 0x21 || !s.cmdStopped || (s.safe && f.blocks)

/-- A first leg reaches the sorter (R179): the snapshot is taken the first time in a period, and the arms wait for an engine. While the CELL
block does not act the leg is lost (R454). -/
def State.sorterPass (s : State) (p : Slot) (kind : Nat) (leg : Leg) : State :=
  if !s.live .cell then s else
  let arms := armsOf (s.prob p).tbl
  let x := s.cell.sels[p]
  let (snap, s) := match x.snap with
    | some k => (k, s)
    | none =>
      let k := arms.map (s.snapArm p)
      (k, s.each (k.flatMap ArmSnap.cells) fun (s : State) (c : SnapCell) => s.setBit (cellCst c.n) 2 c.avail)
  let job : SelJob := { kind, targets := arms.zip leg, todo := (List.range 64).filter arms.contains }
  let s := s.setSel p { x with snap := some snap, job := some job }
  { s with cell := { s.cell with order := s.cell.order.filter (· != p) ++ [p] } }

/-- A selection job is complete: its frames are built and wait to leave. While command frames are stopped none does (R266, R284). -/
def State.finishJob (s : State) (p : Slot) (j : SelJob) : State :=
  let x := s.cell.sels[p]
  let s := { s with cell := { s.cell with order := s.cell.order.filter (· != p) } }
  if s.cmdStopped then s.setSel p { x with job := none }
  else if j.kind = 0x11 then (s.setSel p { x with job := none, prov := some j }).queueFrames p j.kind j.words
  else ((s.setSel p { x with job := none, final := some j }).queueFrames p j.kind j.words).checkReport p

/-- A result that has passed its check is sent (R51). -/
def State.settle (s : State) (p : Slot) (leg : Leg) : State :=
  let q := s.prob p
  let eq := q.provSent && q.provLeg == some leg
  let s := s.setProb p { q with decided := true, provEq := eq }
  match q.provSent, s.cell.sels[p].prov with
    | true, some j =>
      if eq then
        if s.cmdStopped || !s.live .cell then s else (s.setSel p { s.cell.sels[p] with final := some { j with kind := 0x13 } }).queueFrames p 0x13 j.words |>.checkReport p
      else s.sorterPass p 0x14 leg
    | _, _ => (s.dropFrames p (· == 0x11)).sorterPass p 0x12 leg

/-- Committed-form frames with STATE 2 for every cell of a problem (R266). -/
def State.blockFrames (s : State) (p : Slot) : State :=
  s.queueFrames p 0x12 ((armsOf (s.prob p).tbl).eraseDups.flatMap fun a => (s.armCells a).map fun n => (n, cmdWord 0 2))

/-- Short registers of a shortfall (R182). -/
def State.shortfall (s : State) (a : Nat) : State :=
  (if a < 32 then s.orReg cellShortLo (2 ^ a) else s.orReg cellShortHi (2 ^ (a - 32))).setBit cellSelstat 1 true

/-- An engine completes the selection of an arm (R186): the first four arms waiting, in the order of R186, are in the engines. -/
def execSelection (p : Slot) (a : ArmN) (s : State) : Out :=
  let x := s.cell.sels[p]
  let waiting := s.cell.order.flatMap fun q => match s.cell.sels[q].job with
    | some j => j.todo.map fun b => (q, b)
    | none => []
  match x.job, (x.snap.getD []).find? fun k => k.arm == a.val with
  | some j, some k =>
    if s.live .cell && (waiting.take 4).contains (p, a.val) then
      let (pick, short) := s.select k (lookD 0 j.targets a)
      let level := pick.ins.length
      let s := s.wr (cellAstat a) (putBits (s.rd (cellAstat a)) 23 0 (level * 65536 + pick.swaps * 256 + b2n short))
      let s := if short then s.shortfall a else s
      let j := { j with todo := j.todo.filter (· != a.val), words := j.words ++ s.armWords k pick,
                        realised := j.realised ++ [(a.val, level)] }
      .next (if j.todo.isEmpty then s.finishJob p j else s.setSel p { x with job := some j })
    else .next s
  | _, _ => .next s

/-! ## Frames leave (R52) -/

/-- The states that a frame which has left gives its cells (R187). -/
def State.frameStates (s : State) (l : LaneN) (f : DFrame) : List (Nat × Nat) :=
  let src := if f.kind = 0x13 then ((s.lane l).sent.find? fun g => g.kind == 0x11 && g.seq == f.pseq && g.prob == f.prob) else some f
  match src with
  | some g => ((setBitsOf g.cmask 16).zip g.words).map fun w => (16 * g.hub + w.1, w.2 % 4)
  | none => []

/-- The cells' states of a settling frame that leaves are known. -/
def State.tellStates (s : State) (l : LaneN) (f : DFrame) : State :=
  if settleKind f.kind then { s with cell := { s.cell with left := s.frameStates l f ++ s.cell.left } } else s
/-- The lane holds the frame that left. -/
def State.frameLeft (s : State) (l : LaneN) (f : DFrame) (rest : List DFrame) (seq : Option Nat) : State :=
  s.setLane l { s.lane l with queue := rest, await := (s.lane l).await ++ [f], sent := f :: (s.lane l).sent, seq }
/-- What follows a new frame's leaving: a provisional frame is sent when all its frames have left; a settling one may complete a report. -/
def State.afterFrame (s : State) (f : DFrame) : State :=
  let p : Slot := toFin 4 f.prob
  if f.kind = 0x11 ∧ s.unsent p (· == 0x11) = false then
    s.setProb p { s.prob p with provSent := true, provLeg := s.cell.sels[p].prov.map fun j => (armsOf (s.prob p).tbl).map (lookD 0 j.targets) }
  else if settleKind f.kind then s.checkReport p
  else s
/-- A new frame leaves with the sequence number sq and the ROLE in force, an HPAR frame with the count of the period it is sent in
(R210). -/
def State.sendNew (s : State) (l : LaneN) (f : DFrame) (rest : List DFrame) (sq : Nat) : State :=
  let f := { f with seq := sq, role := s.role, pcnt := if f.kind = 0x21 then s.pcnt16 else f.pcnt }
  ((s.tellStates l f).frameLeft l f rest (some ((sq + 1) % 256))).afterFrame f

/-- The frame at the front of lane l's queue starts: a frame of a period never leaves after its commit deadline, an HPAR frame at
any time (R52, R204). A new frame takes the lane's next SEQ and the ROLE in force. -/
def execDownlinkFrameSend (l : LaneN) (s : State) : Out :=
  let st := s.fld (cellLstat l) 2 0
  match (s.lane l).queue with
  | [] => .next s
  | f :: rest =>
    if !s.live .cell || !(st == 4 || (st == 3 && f.kind == 0x21)) || (f.kind != 0x21 && s.per.commitPassed) then .next s
    else if f.rtx ≠ 0 then .next (((s.count (cellLerr l) 23 16).tellStates l f).frameLeft l f rest (s.lane l).seq)
    else match (s.lane l).seq with
      | some n => .next (s.sendNew l f rest n)
      | none => let (w, s) := s.freeWord; .next (s.sendNew l f rest (w.toNat % 256))

/-! ## The cell record (R183, R187, R188) -/

/-- Record and hold count after a mark. -/
def recStep (r hold : Nat) (cmd : Option Nat) : Nat × Nat :=
  match cmd with
  | some c => (c, 0)
  | none => let h := Nat.min (hold + 1) 3; (if h = 3 then 2 else r, h)

def State.recMark (s : State) (left : List (Nat × Nat)) (n : Nat) : State :=
  let w := s.rd (cellCst n)
  let r := bits w 5 4
  let cmd := look left n
  let (r', h) := recStep r (bits w 7 6) cmd
  let sc := if cmd.isSome && r' != r then Nat.min (bits w 31 16 + 1) 65535 else bits w 31 16
  s.wr (cellCst n) (putBits (putBits (putBits w 5 4 r') 7 6 h) 31 16 sc)

/-- The cells of the configured arms, each with its record and hold count (R187). -/
def State.recsNow (s : State) : List (Nat × Nat × Nat) :=
  (s.configuredArms.flatMap s.armCells).map fun n => (n, s.recOf n, s.fld (cellCst n) 7 6)
/-- A mark that falls while the CELL block does not act: no record is made, but what is of the period that ends, its frames, snapshots and
uplinks, is over all the same (R175, R179, R187, R188, R225, R227; DEDUCED, log entry 114). -/
def State.cellAge (s : State) : State :=
  let c := s.cell
  { s with cell := { c with recNow := [], recPrev := c.recNow, upNow := [], sels := Vector.replicate 4 {}, order := [], left := [],
                            leftMark := c.left, prevRec := s.recsNow, stopAll := false },
           lanes := s.lanes.map fun l => if l.sent.isEmpty && !l.gotUplink then l else { l with sent := [], gotUplink := false } }
/-- The cell-link unit at a mark: record, levels u_k, decay windows, CNTCLR, and the period's sorter work discarded. -/
def State.cellMark (s : State) : State :=
  let c := s.cell
  let arms := s.configuredArms
  let cells := arms.flatMap s.armCells
  let prev := s.recsNow
  let s := s.each cells fun s n => s.recMark c.left n
  let s := if c.clrPending then s.each ((s.listed (cellCst 0) 4 1024).map (·.1)) fun s n => s.setFld (cellCst n) 31 16 0 else s
  let win := ((s.listed (cellAcfg 0) 32 64).filter fun a => a.2.testBit 31).map fun a =>
    (a.1, match look c.win a.1 with | some k => k + 1 | none => 0)
  let due := (win.filter fun w => let k := s.fld (cellAdb w.1) 31 16; k != 0 && w.2 != 0 && w.2 % k == 0).map (·.1)
  { s with
    cell := { c with sels := Vector.replicate 4 {}, order := [], recNow := [], recPrev := c.recNow, left := [], leftMark := c.left,
                     prevRec := prev, clrPending := false, win, due,
                     level := arms.map fun a => (a, ((s.armCells a).filter fun n => s.recOf n == 1).length),
                     stopAll := false, upNow := [] } }

/-- An uplink reports state `st` of cell n (R188). -/
def State.recReport (s : State) (n st : Nat) : State :=
  let st := if st = 3 then 2 else st
  let (r, hold) := lookD (s.recOf n, 0) s.cell.prevRec n
  if st = r then s.setBit (cellCst n) 1 false
  else
    let s := ((s.setBit (cellCst n) 1 true).setBit cellSelstat 2 true).count cellMiscnt 15 0
    let now := if (look s.cell.prevRec n).isSome then (recStep st hold (look s.cell.leftMark n)).1 else st
    let s := s.setFld (cellCst n) 5 4 now
    { s with cell := { s.cell with prevRec := (n, st, hold) :: s.cell.prevRec.filter (·.1 != n) } }

/-- At the end of a decay window every count of the arm is halved (R183). -/
def execSwitchCountDecay (a : ArmN) (s : State) : Out :=
  if s.live .cell && s.cell.due.contains a.val then
    let s := s.each (s.armCells a) fun s n => s.setFld (cellCst n) 31 16 (s.fld (cellCst n) 31 16 / 2)
    .next { s with cell := { s.cell with due := s.cell.due.filter (· != a.val) } }
  else .next s

/-- A write of CELL_SELCTRL.CNTCLR (R178). -/
def execCntclr (s : State) : Out :=
  if s.live .cell then .next { s with cell := { s.cell with clrPending := true } } else .next s

end Sys2Proof.Machine
end

