-- ==== Sys2Proof/Machine/Crypto.lean ====
section
/-!
DEFINITION. SHA-384 (FIPS 180-4) for charts and images (R149, R394), and the verification of an ECDSA signature on P-384 with
SHA-384 (R396).
-/
namespace Sys2Proof.Machine

/-! ## SHA-384 -/

def shaK0 : List Nat := [
  0x428A2F98D728AE22, 0x7137449123EF65CD, 0xB5C0FBCFEC4D3B2F, 0xE9B5DBA58189DBBC, 0x3956C25BF348B538,
  0x59F111F1B605D019, 0x923F82A4AF194F9B, 0xAB1C5ED5DA6D8118, 0xD807AA98A3030242, 0x12835B0145706FBE,
  0x243185BE4EE4B28C, 0x550C7DC3D5FFB4E2, 0x72BE5D74F27B896F, 0x80DEB1FE3B1696B1, 0x9BDC06A725C71235,
  0xC19BF174CF692694, 0xE49B69C19EF14AD2, 0xEFBE4786384F25E3, 0x0FC19DC68B8CD5B5, 0x240CA1CC77AC9C65,
  0x2DE92C6F592B0275, 0x4A7484AA6EA6E483, 0x5CB0A9DCBD41FBD4, 0x76F988DA831153B5, 0x983E5152EE66DFAB,
  0xA831C66D2DB43210, 0xB00327C898FB213F, 0xBF597FC7BEEF0EE4, 0xC6E00BF33DA88FC2, 0xD5A79147930AA725,
  0x06CA6351E003826F, 0x142929670A0E6E70, 0x27B70A8546D22FFC, 0x2E1B21385C26C926, 0x4D2C6DFC5AC42AED,
  0x53380D139D95B3DF, 0x650A73548BAF63DE, 0x766A0ABB3C77B2A8, 0x81C2C92E47EDAEE6, 0x92722C851482353B]
def shaK1 : List Nat := [
  0xA2BFE8A14CF10364, 0xA81A664BBC423001, 0xC24B8B70D0F89791, 0xC76C51A30654BE30, 0xD192E819D6EF5218,
  0xD69906245565A910, 0xF40E35855771202A, 0x106AA07032BBD1B8, 0x19A4C116B8D2D0C8, 0x1E376C085141AB53,
  0x2748774CDF8EEB99, 0x34B0BCB5E19B48A8, 0x391C0CB3C5C95A63, 0x4ED8AA4AE3418ACB, 0x5B9CCA4F7763E373,
  0x682E6FF3D6B2B8A3, 0x748F82EE5DEFB2FC, 0x78A5636F43172F60, 0x84C87814A1F0AB72, 0x8CC702081A6439EC,
  0x90BEFFFA23631E28, 0xA4506CEBDE82BDE9, 0xBEF9A3F7B2C67915, 0xC67178F2E372532B, 0xCA273ECEEA26619C,
  0xD186B8C721C0C207, 0xEADA7DD6CDE0EB1E, 0xF57D4F7FEE6ED178, 0x06F067AA72176FBA, 0x0A637DC5A2C898A6,
  0x113F9804BEF90DAE, 0x1B710B35131C471B, 0x28DB77F523047D84, 0x32CAAB7B40C72493, 0x3C9EBE0A15C9BEBC,
  0x431D67C49C100D4C, 0x4CC5D4BECB3E42B6, 0x597F299CFC657E2A, 0x5FCB6FAB3AD6FAEC, 0x6C44198C4A475817]
def shaInit : List Nat := [
  0xCBBB9D5DC1059ED8, 0x629A292A367CD507, 0x9159015A3070DD17, 0x152FECD8F70E5939, 0x67332667FFC00B31,
  0x8EB44A8768581511, 0xDB0C2E0D64F98FA7, 0x47B5481DBEFA4FA4]

def m64 : Nat := 2 ^ 64
def rotr64 (x n : Nat) : Nat := (x >>> n) ||| (x <<< (64 - n)) % m64

/-- The sixteen words of a block, newest first after the schedule step: w_t from the words before it. -/
def shaNext (ws : List Nat) : Nat :=
  let w2 := ws.getD 1 0
  let w7 := ws.getD 6 0
  let w15 := ws.getD 14 0
  let w16 := ws.getD 15 0
  ((rotr64 w2 19 ^^^ rotr64 w2 61 ^^^ (w2 >>> 6)) + w7 + (rotr64 w15 1 ^^^ rotr64 w15 8 ^^^ (w15 >>> 7)) + w16) % m64
def shaSchedule : Nat → List Nat → List Nat
  | 0, ws => ws
  | n + 1, ws => shaSchedule n (shaNext ws :: ws)

def shaRound (st : List Nat) (kw : Nat) : List Nat :=
  match st with
  | [a, b, c, d, e, f, g, h] =>
    let t1 := (h + (rotr64 e 14 ^^^ rotr64 e 18 ^^^ rotr64 e 41) + ((e &&& f) ^^^ ((m64 - 1 - e) &&& g)) + kw) % m64
    let t2 := ((rotr64 a 28 ^^^ rotr64 a 34 ^^^ rotr64 a 39) + ((a &&& b) ^^^ (a &&& c) ^^^ (b &&& c))) % m64
    [(t1 + t2) % m64, a, b, c, (d + t1) % m64, e, f, g]
  | _ => st

def shaBlock (st : List Nat) (blk : List Byte) : List Nat :=
  let ws := (List.range 16).map fun i => ofBE ((blk.drop (8 * i)).take 8)
  let sched := (shaSchedule 64 ws.reverse).reverse
  let out := ((shaK0 ++ shaK1).zip sched).foldl (fun s p => shaRound s (p.1 + p.2)) st
  (st.zip out).map fun p => (p.1 + p.2) % m64

def shaBlocks : Nat → List Nat → List Byte → List Nat
  | 0, st, _ => st
  | n + 1, st, bs => shaBlocks n (shaBlock st (bs.take 128)) (bs.drop 128)

/-- The padded message: a 1 bit, zeros, and the length in bits in 16 bytes. -/
def shaPad (bs : List Byte) : List Byte :=
  bs ++ [0x80#8] ++ List.replicate ((239 - bs.length % 128) % 128) 0 ++ toBE 16 (8 * bs.length)
/-- The 48 bytes of the digest, most significant first. -/
def sha384 (bs : List Byte) : List Byte :=
  let m := shaPad bs
  ((shaBlocks (m.length / 128) shaInit m).take 6).flatMap (toBE 8)

/-! ## ECDSA on P-384 -/

def ecP : Nat := 2 ^ 384 - 2 ^ 128 - 2 ^ 96 + 2 ^ 32 - 1
def ecB : Nat := 0xB3312FA7E23EE7E4988E056BE3F82D19181D9C6EFE8141120314088F5013875AC656398D8A2ED19D2A85C8EDD3EC2AEF
def ecN : Nat := 0xFFFFFFFFFFFFFFFFFFFFFFFFFFFFFFFFFFFFFFFFFFFFFFFFC7634D81F4372DDF581A0DB248B0A77AECEC196ACCC52973
def ecG : Nat × Nat :=
  (0xAA87CA22BE8B05378EB1C71EF320AD746E1D3B628BA79B9859F741E082542A385502F25DBF55296C3A545E3872760AB7,
   0x3617DE4A96262C6F5D9E98BF9292DC29F8F41DBD289A147CE9DA3113B5F0B8C00A60B1CE1D7E819D7A431D7C90EA0E5F)

/-- a^e mod m by the lowest `n` bits of e. -/
def powMod (m : Nat) : Nat → Nat → Nat → Nat
  | 0, _, _ => 1 % m
  | n + 1, a, e =>
    let r := powMod m n (a * a % m) (e / 2)
    if e % 2 = 1 then r * a % m else r
/-- Inverse modulo a prime below 2^384. -/
def invMod (m a : Nat) : Nat := powMod m 384 (a % m) (m - 2)

/-- A point of the curve, none for the point at infinity. -/
abbrev EcPt := Option (Nat × Nat)
def ecAdd : EcPt → EcPt → EcPt
  | none, q => q
  | p, none => p
  | some (x1, y1), some (x2, y2) =>
    if x1 = x2 ∧ (y1 + y2) % ecP = 0 then none
    else
      let l := if x1 = x2 then (3 * x1 * x1 + (ecP - 3)) * invMod ecP (2 * y1) % ecP
               else (y2 + (ecP - y1)) * invMod ecP (x2 + (ecP - x1)) % ecP
      let x3 := (l * l + 2 * ecP - x1 - x2) % ecP
      some (x3, (l * (x1 + (ecP - x3)) + (ecP - y1)) % ecP)
def ecMul : Nat → Nat → EcPt → EcPt
  | 0, _, _ => none
  | n + 1, k, p =>
    let r := ecMul n (k / 2) (ecAdd p p)
    if k % 2 = 1 then ecAdd r p else r
def ecOnCurve (x y : Nat) : Bool :=
  decide (x < ecP ∧ y < ecP) && (y * y) % ecP == (x * x * x + (ecP - 3) * x + ecB) % ecP

/-- Signature (r, s) of a digest e under the public key (x, y). -/
def ecdsaOk (x y r s e : Nat) : Bool :=
  if decide (1 ≤ r ∧ r < ecN ∧ 1 ≤ s ∧ s < ecN) && ecOnCurve x y then
    let w := invMod ecN s
    match ecAdd (ecMul 384 (e * w % ecN) (some ecG)) (ecMul 384 (r * w % ecN) (some (x, y))) with
    | some q => q.1 % ecN == r
    | none => false
  else false

end Sys2Proof.Machine
end

