-- ==== Sys2Proof/Machine/Memory.lean ====
section
/-!
DEFINITION. GDDR6 addresses, pages and check area (R242, R244, R245, R252), errors and link retry (R247, R253, R254), what one access
does (R246, R262), and which requests wait (R257, R258).
-/
namespace Sys2Proof.Machine

def gddrEnd : Nat := 0x0380000000
def State.setMem (s : State) (m : Mem) : State := { s with gmem := m }
/-- MEM_TRCTL.EXCL. -/
def State.exclMask (s : State) : Nat := s.fld memTrctl 23 16
def allChans : List ChanN := List.finRange 8
def State.inUse (s : State) (c : ChanN) : Bool := !s.exclMask.testBit c
def State.chansInUse (s : State) : List ChanN := allChans.filter s.inUse

/-! ## Places (R242, R244, R245, R252) -/

/-- The holes that an excluded channel leaves (R252). -/
def inHole (a : Nat) : Bool :=
  (decide (0x0108000000 ≤ a) && decide (a < 0x0140000000)) || (decide (0x0248000000 ≤ a) && decide (a < 0x0280000000))
/-- L of R245. -/
def State.linear (s : State) (a : Nat) : Nat :=
  if s.exclMask = 0 then a
  else if a < 0x0108000000 then a
  else if a < 0x0280000000 then ofsFrom 0x38000000 a else ofsFrom 0x70000000 a
/-- The channel of an address (R245). -/
def State.chanOf (s : State) (a : Nat) : ChanN :=
  let cs := s.chansInUse
  cs.getD (s.linear a / 256 % cs.length) 0
/-- The devices' organisation: banks of a device, pages of a bank, bytes of a page, data bytes of a page (R242, R244). -/
def devBanks : Nat := 16
def bankPages : Nat := 65536
def pageBytes : Nat := 2048
def pageData : Nat := 1792
/-- Where a usable address lies: channel, bank, row, page byte of the data, and page byte of its block's check bytes (R245). -/
structure Place where
  chan : ChanN
  bank : Nat
  row : Nat
  col : Nat
  chkofs : Nat
deriving DecidableEq, Repr
def State.place (s : State) (a : Nat) : Place :=
  let l := s.linear a
  let n := s.chansInUse.length
  let ac := l / 256 / n * 256 + l % 256
  let page := ac / pageData
  let col := ac % pageData
  { chan := s.chanOf a, bank := page % devBanks, row := page / devBanks, col,
    chkofs := pageData + 64 * (col / 64 / 7) + 8 * (col / 64 % 7) }
/-- The usable address of page byte col of a page, for the channel of rank r: R245 read backwards. -/
def State.addrAt (s : State) (r bank row col : Nat) : Nat :=
  let n := s.chansInUse.length
  let ac := (row * devBanks + bank) * pageData + col
  let l := (ac / 256 * n + r) * 256 + ac % 256
  if s.exclMask = 0 ∨ l < 0x0108000000 then l else if l < 0x0210000000 then l + 0x38000000 else l + 0x70000000
/-- Byte o of a device page as the device holds it (R244): data, then the check bytes of the data words, 8 to a block, and the last 8 bytes
of each check burst 0. None where the check byte is that of a word in error, which differs from the one its data has. -/
def State.pageByte (s : State) (r bank row o : Nat) : Option Byte :=
  if o < pageData then some (s.byte (s.addrAt r bank row o))
  else
    let t := (o - pageData) / 64
    let i := (o - pageData) % 64
    if 56 ≤ i then some 0
    else
      let a := s.addrAt r bank row (64 * (7 * t + i / 8) + 8 * (i % 8))
      if s.bad a 8 then none else some (Config.checkByte (BitVec.ofNat 64 (s.le a 8)))
/-- The region of R25: 0 and 1 the chart buffers, 2 the capture ring, 3 the tables, 4 general. -/
def regionOf (a : Nat) : Nat :=
  if a < 0x0140000000 then 0 else if a < 0x0280000000 then 1 else if a < 0x0300000000 then 2
  else if a < 0x0360000000 then 3 else 4
/-- The chart buffer at an address, and the state of a buffer in CHRT_BUFA or CHRT_BUFB (R145). -/
def bufAt (a : Nat) : Option Buf := if a < 0x0140000000 then some .bufA else if a < 0x0280000000 then some .bufB else none
def bufIdx : Buf → Nat
  | .bufA => 0 | .bufB => 1
def State.bufState (s : State) (b : Buf) : Nat := s.fld (chrtBuf (bufIdx b)) 2 0

/-! ## Errors -/

/-- Single-bit errors are corrected, in n words (R247). -/
def State.memCorrected (s : State) (n : Nat) : State := if n = 0 then s else (s.count memCecnt 31 0 n).setBit memStatus 0 true
/-- An uncorrectable error at address a is counted, recorded and reported with its region (R247, R256, R282). -/
def State.memUe (s : State) (a : Nat) (scrub : Bool) : State :=
  let s := (((s.setBad a 8).count memUecnt 15 0).setBit memStatus 1 true).wr memUeaddr (2 ^ 31 + b2n scrub * 2 ^ 30 + a / 64 % 2 ^ 28)
  { s with saf := { s.saf with memRegions := s.saf.memRegions ||| 2 ^ regionOf a } }
/-- The 8-byte words of [a, a + n), as addresses. -/
def wordsOf (a n : Nat) : List Nat := (List.range ((a + n + 7) / 8 - a / 8)).map fun i => 8 * (a / 8 + i)
/-- Retries are exhausted: LINKFAIL is set and the channel runs a short retrain (R254). -/
def State.linkFail (s : State) (c : ChanN) : State :=
  let s := s.setBit memStatus (16 + c) true
  s.setMem { s.gmem with retraining := s.gmem.retraining.set c true, tries := s.gmem.tries.set c 0 }
/-- An access that meets `edc` mismatches in a row with `limit` retries (R253): whether it is given up. -/
def State.memRetry (s : State) (c : ChanN) (edc limit : Nat) : State × Bool :=
  let s := s.count (memChstat c) 7 0 (Nat.min edc limit)
  if limit < edc then (s.linkFail c, true) else (s, false)
/-- The block of address a gets a poison pattern in its check bytes once its channel has retrained (R254). -/
def State.poisonLater (s : State) (a : Nat) : State := s.setMem { s.gmem with poisonDue := s.gmem.poisonDue ++ [a / 64] }
/-- Reissues of a burst: MEM_CFG.RETRY, and at most 2 for a chart lookup (R253). -/
def State.retryLimit (s : State) (lookup : Bool) : Nat := if lookup then Nat.min (s.fld memCfg 2 0) 2 else s.fld memCfg 2 0

/-- The controller answers requests: the die is on, the block out of reset, READY set, not in the sequence of R259. -/
def State.memReady (s : State) : Bool := s.clk.cdUp && !s.inReset .mem && s.bit memStatus 31 && !s.gmem.selfRefresh
/-- A request to the channel of a waits for a short retrain (R258). -/
def State.memWaits (s : State) (a : Nat) : Bool := decide (a < gddrEnd) && s.memReady && s.gmem.retraining[s.chanOf a]
/-- Some channel retrains: what reads or writes over all channels waits. -/
def State.anyRetrain (s : State) : Bool := s.memReady && s.chansInUse.any fun c => s.gmem.retraining[c]
/-- Accesses to [a, a + n) get error responses: before READY, in a hole, or on an unusable channel (R249, R251, R252). -/
def State.memDown (s : State) (a n : Nat) : Bool :=
  !s.memReady || ((s.exclMask != 0 && inHole a) || allChans.any fun c => s.gmem.dead[c] && (wordsOf a n).any fun w => s.chanOf w == c)

/-- An access to a hole is seen (R252). -/
def State.holeSeen (s : State) (a : Nat) : State :=
  if s.memReady && s.exclMask != 0 && inHole a then s.setBit memStatus 3 true else s
/-- A unit's own path, which moves bursts of 64 bytes (R246). -/
def unitPath : MemUser → Bool
  | .req r => r == .dma
  | _ => true
/-- Size and alignment that the regions accept (R246). -/
def memSizeOk (dma : Bool) (a n : Nat) : Bool :=
  ([1, 2, 4, 8].contains n || (n == 64 && dma)) && a % n == 0

/-! ## One access -/

/-- What the checks of the words of [a, a + n) find (R247). -/
def State.eccsAt (s : State) (a n : Nat) (told : List Ecc) : List (Nat × Ecc) :=
  (wordsOf a n).zipIdx.map fun w => (w.1, s.eccOf w.1 8 (told.getD w.2 .clean))
/-- The words of a read are checked: single-bit errors are corrected, and the first uncorrectable one is reported (R247). -/
def State.checkWords (s : State) (a n : Nat) (told : List Ecc) (scrub : Bool) : State × Bool :=
  let es := s.eccsAt a n told
  let s := s.memCorrected (es.filter fun e => e.2 == .corrected).length
  match es.filter fun e => e.2 == .uncorrectable with
  | [] => (s, true)
  | e :: more => (State.memUe (more.foldl (fun (s : State) x => s.setBad x.1 8) s) e.1 scrub, false)
/-- An uncorrectable error found by the scrub: SCRUBUE, and the chart in the active buffer is withdrawn at the next mark (R256). -/
def State.scrubUe (s : State) (a : Nat) : State :=
  let s := s.setBit memStatus 2 true
  match bufAt a with
  | some b => if s.fld chrtStatus 29 28 = bufIdx b + 1 then { s with chart := { s.chart with withdraw := true } } else s
  | none => s
/-- A read that passed the tests of size, hole and channel: its data, or none for an error response. -/
def State.gddrFetch (s : State) (u : MemUser) (a n : Nat) (told : List Ecc) : State × Option (List Byte) :=
  match s.checkWords a n told (u == .scrub) with
  | (t, true) => (t, some (s.bytes a n))
  | (t, false) => (if u = .scrub then t.scrubUe a else t, none)
/-- A write: fewer than 8 bytes are a read-modify-write of the word, which an uncorrectable error discards (R246, R247). -/
def State.gddrStore (s : State) (a : Nat) (bs : List Byte) (told : List Ecc) : State × Bool :=
  if bs.length < 8 then
    match s.checkWords a bs.length told false with
    | (t, ok) => if ok then (t.setBytes a bs, true) else (t, false)
  else (s.store a bs, true)

/-- A write to the region that is refused: a chart buffer takes writes in LOADING, and the builder's in BUILDING (R145, R146). -/
def State.bufRefuses (s : State) (u : MemUser) (a : Nat) : Bool := match bufAt a with
  | some b => s.bufState b != 1 && !(u == .builder && s.bufState b == 5)
  | none => false
/-- Base of the retained copy of the staged segments, which the loader alone writes (R409). -/
def retainBase : Nat := 0x037D000000
/-- One access of the GDDR6 regions is served (R246, R247, R252 to R254, R262, R409): the bytes read (none on an error response; a write that
is performed gives the empty list). -/
def State.gddrServe (s : State) (u : MemUser) (a n : Nat) (data : Option (List Byte)) (k : Check) :
    State × Option (List Byte) :=
  if !s.memReady || !memSizeOk (unitPath u) a n || decide (gddrEnd ≤ a) then (s, none)
  else if s.exclMask != 0 && inHole a then (s.setBit memStatus 3 true, none)
  else if data.isSome && s.bufRefuses u a then (s.setBit chrtStatus 3 true, none)
  else if data.isSome && decide (retainBase ≤ a) then (s, none)
  else
    let c := s.chanOf a
    if s.gmem.dead[c] then (s, none)
    else
      let (s, gone) := s.memRetry c k.edc (s.retryLimit (u == .lookup))
      match data with
      | none => if gone then (s, none) else s.gddrFetch u a n k.ecc
      | some bs =>
        if gone then (s.poisonLater a, some [])
        else
          let (s, ok) := s.gddrStore a (bs.take n ++ List.replicate (n - bs.length) 0) k.ecc
          (s, if ok then some [] else none)
/-- One access of the GDDR6 regions. One that comes to a channel which retrains waits there (R254, R258): a write is accepted, and a read
has no data yet. -/
def State.gddrAccess (s : State) (u : MemUser) (a n : Nat) (data : Option (List Byte)) (k : Check) : State × Option (List Byte) :=
  if s.memWaits a then
    (s.setMem { s.gmem with waiting := s.gmem.waiting ++ [{ u, addr := a, size := n, data, chk := k }] }, if data.isSome then some [] else none)
  else s.gddrServe u a n data k

/-! ## What a unit's accesses meet -/

/-- A unit reads the 64-byte bursts at the given addresses one after another, each with what its checks find, and stops at the first error
response: the state, and the address whose read failed with whether an uncorrectable error was read there. -/
def State.unitReads (s : State) (lookup : Bool) : List (Nat × Check) → State × Option (Nat × Bool)
  | [] => (s, none)
  | (a, k) :: rest =>
    if s.memDown a 64 then (s.holeSeen a, some (a, false))
    else
      let (s, gone) := s.memRetry (s.chanOf a) k.edc (s.retryLimit lookup)
      if gone then (s, some (a, false))
      else match s.checkWords (a / 64 * 64) 64 k.ecc false with
        | (t, true) => State.unitReads t lookup rest
        | (t, false) => (t, some (a, true))
/-- One burst of a unit's long read has what its checks find: reissues are counted, single-bit errors corrected, the words in error known.
The burst is lost when its retries are exhausted. -/
def State.meetBurst (s : State) (a : Nat) (k : Check) : State × Bool :=
  let (s, gone) := s.memRetry (s.chanOf a) k.edc (s.retryLimit false)
  if gone then (s, true)
  else
    let es := s.eccsAt a 64 k.ecc
    let s := s.memCorrected (es.filter fun e => e.2 == .corrected).length
    ((es.filter fun e => e.2 == .uncorrectable).foldl (fun (s : State) e => s.setBad e.1 8) s, false)
/-- What a unit's long read of [lo, hi) meets: the addresses of the bursts lost, and the state after it (R247, R253, R254). -/
def State.meetReads (s : State) (lo hi : Nat) : Met → State × List Nat
  | [] => (s, [])
  | (b, k) :: rest =>
    let a := 64 * b.toNat
    if lo ≤ a ∧ a < hi ∧ s.memDown a 64 = false then
      let (s, gone) := s.meetBurst a k
      let (s, ls) := State.meetReads s lo hi rest
      (s, if gone then a :: ls else ls)
    else State.meetReads s lo hi rest
/-- What a unit's write bursts to [lo, hi) meet: the reissues, and the poison of the blocks whose retries are exhausted (R253, R254). -/
def State.meetWrites (s : State) (lo hi : Nat) (met : Met) : State :=
  met.foldl (fun (s : State) x =>
    let a := 64 * x.1.toNat
    if lo ≤ a ∧ a < hi ∧ s.memDown a 64 = false then
      let (s, gone) := s.memRetry (s.chanOf a) x.2.edc (s.retryLimit false)
      if gone then s.poisonLater a else s
    else s) s
/-- A test of a long read over the state in which the bursts lost cannot be read. -/
def State.without (s : State) (lost : List Nat) : State := lost.foldl (fun (s : State) a => s.setBad a 64) s
/-- The first word of [a, a + n) known to be uncorrectable. -/
def State.firstFlaw (s : State) (a n : Nat) : Option Nat :=
  (s.flaws.filter fun f => decide ((eccUnits a n).1 ≤ f ∧ f < (eccUnits a n).2)).foldl
    (fun (b : Option Nat) f => some (match b with | some x => Nat.min x (4 * f) | none => 4 * f)) none
/-- Part of [a, a + n) lies on an unusable channel. -/
def State.onDead (s : State) (a n : Nat) : Bool :=
  (allChans.any fun c => s.gmem.dead[c]) && (List.range (Nat.min 9 ((a + n + 255) / 256 - a / 256))).any fun i =>
    s.gmem.dead[s.chanOf (256 * (a / 256 + i))]
/-- A unit reads all of [a, a + n): whether no part of the read gets an error response. The first word found uncorrectable is reported
(R247). -/
def State.longRead (s : State) (a n : Nat) (met : Met) : State × Bool :=
  let (s, lost) := s.meetReads a (a + n) met
  match (s.without lost).firstFlaw a n with
  | some u => (if lost.contains (u / 64 * 64) then s else s.memUe u false, false)
  | none => (s, !s.memDown a n)
/-- A unit writes within one burst: an access that gets an error response changes nothing (R251, R252). -/
def State.unitPut (s : State) (a : Nat) (bs : List Byte) : State :=
  if s.memDown a bs.length then s.holeSeen a else if bs.length < 8 then s.setBytes a bs else s.store a bs
/-- A unit writes bytes at a 64-byte boundary, burst by burst. -/
def State.unitPuts (s : State) (a : Nat) (bs : List Byte) : State :=
  (List.range ((bs.length + 63) / 64)).foldl (fun (s : State) i => s.unitPut (a + 64 * i) ((bs.drop (64 * i)).take 64)) s

/-! ## Classes (R257) -/

def userIdx : MemUser → Nat
  | .req (.core n) => n
  | .req .island => 8
  | .req .mgmt => 9
  | .req .port => 10
  | .req (.chain _) => 11
  | .req .dma => 12
  | .lookup => 0 | .capture => 0 | .ringScan => 1 | .bulk => 13 | .builder => 14 | .verify => 15 | .scrub => 0 | .background => 1
/-- The class of a request; a write into a chart buffer in LOADING or BUILDING is of class 4 whoever makes it. -/
def State.memClass (s : State) (q : MemReq) : Fin 6 :=
  match q.u with
  | .lookup => 1
  | .capture | .ringScan => 2
  | .bulk | .builder | .verify | .req .dma => 4
  | .scrub | .background => 5
  | .req _ => match bufAt q.addr with
    | some b => if q.data.isSome && (s.bufState b == 1 || s.bufState b == 5) then 4 else 3
    | none => 3
/-- Bursts of class 1 and of class 2 still allotted in this window. -/
def State.lkLeft (s : State) : Nat := s.fld memAllot 31 16 - s.gmem.lkUsed
def State.capLeft (s : State) : Nat := s.fld memAllot 15 0 - s.gmem.capUsed
/-- A request is served in this window: its allotment is not used up and its channel does not retrain. -/
def State.serve? (s : State) (q : MemReq) : Bool :=
  !s.gmem.retraining[s.chanOf q.addr] &&
  (if s.memClass q = 1 then decide (0 < s.lkLeft) else if s.memClass q = 2 then decide (0 < s.capLeft) else true)
def State.serveNow (s : State) (q : MemReq) : State :=
  let k := s.memClass q
  let s := s.setMem { s.gmem with lkUsed := s.gmem.lkUsed + b2n (k == 1), capUsed := s.gmem.capUsed + b2n (k == 2),
                                  last := s.gmem.last.set k (userIdx q.u) }
  (s.gddrServe q.u q.addr q.size q.data q.chk).1
/-- The place of a request in the order of service: its class, then how soon its requester's turn comes (R257; the order of
turns within a class is log entry 101). -/
def State.turn (s : State) (q : MemReq) : Nat :=
  let k := s.memClass q
  16 * k + ((userIdx q.u) + 15 - s.gmem.last[k]) % 16
/-- The number of the waiting request that is served next, the oldest of those whose turn it is. -/
def State.pickReq (s : State) : Option Nat :=
  let ws := s.gmem.waiting.zipIdx.filter fun q => s.serve? q.1
  (ws.foldl (fun (b : Option (Nat × Nat)) q =>
    let t := s.turn q.1
    match b with
    | some (u, _) => if t < u then some (t, q.2) else b
    | none => some (t, q.2)) none).map Prod.snd
/-- Waiting requests are served until none can be. -/
def State.serveLoop : Nat → State → State
  | 0, s => s
  | n + 1, s => match s.pickReq with
    | none => s
    | some i => match s.gmem.waiting[i]? with
      | some q => State.serveLoop n ((s.setMem { s.gmem with waiting := s.gmem.waiting.eraseIdx i }).serveNow q)
      | none => s
def State.serveWaiting (s : State) : State := State.serveLoop s.gmem.waiting.length s
/-- A request joins those that wait, and what can be served is. -/
def State.offerReq (s : State) (q : MemReq) : State := (s.setMem { s.gmem with waiting := s.gmem.waiting ++ [q] }).serveWaiting

end Sys2Proof.Machine
end

