-- ==== Sys2Proof/Machine/ChartFmt.lean ====
section
/-!
DEFINITION. The chart's format (R148 to R155), the lookup (R156 to R158) and the checks of a chart (R161).
-/
namespace Sys2Proof.Machine

/-- Base of a buffer (R25). -/
def bufBase : Buf → Nat
  | .bufA => 0 | .bufB => 0x140000000
def bufSize : Nat := 0x140000000
/-- The upper limit of LEN in bytes: 0x500_0000 units, and 0x420_0000 with a channel excluded (R161, R252). -/
def State.maxLen (s : State) : Nat := if s.exclMask = 0 then bufSize else 0x108000000

/-! ## Directory -/

/-- A key: source, shift, bins, offset (R150). -/
structure CKey where
  src : Nat
  sh : Nat
  nb : Nat
  off : Int
deriving DecidableEq, Repr

/-- A directory section (R150). -/
structure Sect where
  tag : Nat
  edge : Bool
  nkey : Nat
  h : Nat
  nu : Nat
  slot : Nat
  nent : Nat
  nblk : Nat
  idx : Nat
  data : Nat
  keys : List CKey
  xref : List Int
  uref : List Nat
deriving DecidableEq, Repr

def sectAt (s : State) (b : Buf) (i : Nat) : Sect :=
  let a := bufBase b + 0x100 + 256 * i
  let form := s.word (a + 4)
  let nkey := bits form 27 24
  { tag := s.word a, edge := form.testBit 31, nkey, h := bits form 19 16, nu := bits form 11 8, slot := bits form 1 0,
    nent := s.word (a + 8), nblk := s.word (a + 0xC), idx := bufBase b + 64 * s.word (a + 0x10),
    data := bufBase b + 64 * s.word (a + 0x14),
    keys := (List.range (Nat.min nkey 8)).map fun k =>
      let w := s.word (a + 0x20 + 8 * k)
      { src := bits w 5 0, sh := bits w 12 8, nb := bits w 27 16 + 1, off := sgn 32 (s.word (a + 0x24 + 8 * k)) },
    xref := (List.range 16).map fun i => sgn 32 (s.word (a + 0x60 + 4 * i)),
    uref := (List.range 8).map fun j => (s.byte (a + 0xA0 + j)).toNat % 128 }

def nsec (s : State) (b : Buf) : Nat := s.word (bufBase b + 4) % 8
/-- LEN of the header in bytes. -/
def chartLen (s : State) (b : Buf) : Nat := 64 * (s.word (bufBase b + 8) % 2 ^ 27)
def sections (s : State) (b : Buf) : List (Nat × Sect) := (List.range (Nat.min (nsec s b) 4)).map fun i => (i, sectAt s b i)

/-- A key's source lies within the problem (R156). -/
def keyOk (nx nu : Nat) (k : CKey) : Bool := decide (k.src < nx) || (decide (32 ≤ k.src) && decide (k.src - 32 < nu))
/-- The matching section of problem p (R156). -/
def matchSect (s : State) (b : Buf) (p : Slot) (t : Table) : Option Sect :=
  ((sections s b).find? fun c =>
    c.2.slot == p.val && c.2.tag == t.tag && c.2.h == t.h && c.2.nu == t.nu && c.2.keys.all (keyOk t.nx t.nu)).map (·.2)

/-! ## Blocks and entries -/

/-- Address and length of block i of a section (R151). -/
def blockAt (s : State) (c : Sect) (i : Nat) : Nat × Nat := (c.data + 64 * s.word (c.idx + 8 * i), s.word (c.idx + 8 * i + 4) % 2 ^ 24)

/-- Bit i of the payload at address a. -/
def payBit (s : State) (a i : Nat) : Bool := (s.byte (a + i / 8)).toNat.testBit (i % 8)
def payBits (s : State) (a i n : Nat) : Nat := sumN ((List.range n).map fun k => 2 ^ k * b2n (payBit s a (i + k)))

/-- One value code at bit i, its codes ending by bit `lim` (R153, R155): the level and the next bit. -/
def readCode (s : State) (a lim i pred : Nat) : Option (Nat × Nat) :=
  let fin (v : Int) (j : Nat) : Option (Nat × Nat) := if 0 ≤ v ∧ v ≤ 64 ∧ j ≤ lim then some (v.toNat, j) else none
  let signed (neg : Bool) (m : Nat) : Int := if neg then (pred : Int) - m else pred + m
  if !payBit s a i then fin pred (i + 1)
  else if !payBit s a (i + 1) then fin (signed (payBit s a (i + 2)) 1) (i + 3)
  else if !payBit s a (i + 2) then fin (signed (payBit s a (i + 3)) (2 + payBits s a (i + 4) 2)) (i + 6)
  else fin (payBits s a (i + 3) 7) (i + 10)

/-- The levels of one leg, each with its predictor. -/
def readLeg (s : State) (a lim : Nat) : Nat → List Nat → Option (Leg × Nat)
  | i, [] => some ([], i)
  | i, p :: ps => match readCode s a lim i p with
    | none => none
    | some (v, j) => (readLeg s a lim j ps).map fun r => (v :: r.1, r.2)
/-- h legs; each predicts the next (R154). -/
def readLegs (s : State) (a lim : Nat) : Nat → Nat → Leg → Option (Course × Nat)
  | 0, i, _ => some ([], i)
  | h + 1, i, pred => match readLeg s a lim i pred with
    | none => none
    | some (u, j) => (readLegs s a lim h j u).map fun r => (u :: r.1, r.2)

/-- Entry `skip` entries further on in a sub-block: none on a decode error, else the entry's course, or none when it is empty.
`pred` predicts leg 1. -/
def readEntry (s : State) (a lim h : Nat) : Nat → Nat → Leg → Option (Option Course)
  | skip, i, pred =>
    if lim ≤ i then none
    else if payBit s a i then
      match skip with
      | 0 => some none
      | k + 1 => readEntry s a lim h k (i + 1) pred
    else match readLegs s a lim h (i + 1) pred with
      | none => none
      | some (c, j) => match skip with
        | 0 => some (some c)
        | k + 1 => readEntry s a lim h k j (c.headD pred)

/-- What a lookup returns (R158). -/
inductive Looked where
  | course (c : Course) | miss | decodeError
deriving DecidableEq, Repr

/-- Entry n of a section (R151 to R155, R157). -/
def entryOf (s : State) (c : Sect) (n : Nat) : Looked :=
  let (a, _) := blockAt s c (n / 256)
  let sub := n % 256 / 8
  let plen := s.word (a + 8)
  let count := s.word a % 512
  let lim := if sub + 1 < ceilDiv count 8 then s.word (a + 0x10 + 4 * (sub + 1)) else 8 * plen
  match readEntry s (a + 0x90) (Nat.min lim (8 * plen)) c.h (n % 8) (s.word (a + 0x10 + 4 * sub)) (c.uref.take c.nu) with
  | none => .decodeError
  | some none => .miss
  | some (some k) => .course k

/-- q_k of R157, none when out of range with EDGE 0. -/
def quantise (edge : Bool) (k : CKey) (x : Int) : Option Nat :=
  let q := floorSh (x - k.off) k.sh
  if 0 ≤ q ∧ q < k.nb then some q.toNat
  else if edge then some (if q < 0 then 0 else k.nb - 1) else none
/-- Entry number of the keys with their source values; the first key varies fastest. -/
def entryNo (edge : Bool) : List (CKey × Int) → Option Nat
  | [] => some 0
  | (k, x) :: ks => match quantise edge k x, entryNo edge ks with
    | some q, some n => some (q + k.nb * n)
    | _, _ => none
def keyVal (x : List Int) (u : Leg) (k : CKey) : Int := if k.src < 32 then x.getD k.src 0 else (u.getD (k.src - 32) 0 : Nat)

/-- The entry that a state and levels select, none when a key is out of range with EDGE 0 (R157). -/
def Sect.entryFor (c : Sect) (x : List Int) (u : Leg) : Option Nat := entryNo c.edge (c.keys.map fun k => (k, keyVal x u k))
/-- A lookup of section c from state x under levels u. -/
def chartLook (s : State) (c : Sect) (x : List Int) (u : Leg) : Looked :=
  match c.entryFor x u with
  | some n => entryOf s c n
  | none => .miss
/-- The 64-byte bursts of [a, a + n). -/
def burstsOf (a n : Nat) : List Nat := (List.range ((a + n + 63) / 64 - a / 64)).map fun i => 64 * (a / 64 + i)
/-- The bursts that the lookup of entry n reads, in order: index entry, sub-block offset, payload of the sub-block (R159). -/
def lookBursts (s : State) (c : Sect) (n : Nat) : List Nat :=
  let i := c.idx + 8 * (n / 256)
  let (a, _) := blockAt s c (n / 256)
  let sub := n % 256 / 8
  let lo := s.word (a + 0x10 + 4 * sub)
  let plen := s.word (a + 8)
  let hi := if sub + 1 < ceilDiv (s.word a % 512) 8 then Nat.min (s.word (a + 0x14 + 4 * sub)) (8 * plen) else 8 * plen
  burstsOf i 8 ++ burstsOf (a + 0x10 + 4 * sub) 4 ++ burstsOf (a + 0x90 + lo / 8) (Nat.max 1 (hi / 8 - lo / 8))

/-! ## Checks (R161) -/

def Sect.product (c : Sect) : Nat := c.keys.foldl (fun n k => n * k.nb) 1
/-- Ranges of a section that concern the fields you give a builder: NKEY, H, NU and the keys (check 0x3 without the counts). -/
def Sect.keysOk (c : Sect) : Bool :=
  decide (1 ≤ c.nkey ∧ c.nkey ≤ 8 ∧ 1 ≤ c.h ∧ c.h ≤ 12 ∧ 1 ≤ c.nu ∧ c.nu ≤ 8 ∧ c.product ≤ 2 ^ 28) &&
  c.keys.all fun k => decide (k.src < 16 ∨ 32 ≤ k.src ∧ k.src < 40)
def Sect.fieldsOk (c : Sect) : Bool := c.keysOk && c.nent == c.product && c.nblk == ceilDiv c.nent 256
def slotsDistinct : List Sect → Bool
  | [] => true
  | c :: cs => cs.all (fun d => d.slot != c.slot) && slotsDistinct cs

def disjoint : List (Nat × Nat) → Bool
  | [] => true
  | x :: xs => xs.all (fun y => decide (x.1 + x.2 ≤ y.1 ∨ y.1 + y.2 ≤ x.1)) && disjoint xs
/-- The intervals that indexes and blocks occupy. -/
def extents (s : State) (cs : List Sect) : List (Nat × Nat) :=
  cs.flatMap fun c => (c.idx, 8 * c.nblk) :: (List.range c.nblk).map (blockAt s c)

def ascending : List Nat → Bool
  | a :: b :: r => decide (a < b) && ascending (b :: r)
  | _ => true
/-- Check 0x6 of block i (R152, R161). -/
def blockOk (s : State) (c : Sect) (i : Nat) : Bool :=
  let (a, _) := blockAt s c i
  let hd := s.word a
  let count := Nat.min 256 (c.nent - 256 * i)
  let plen := s.word (a + 8)
  let subs := (List.range (ceilDiv count 8)).map fun k => s.word (a + 0x10 + 4 * k)
  bits hd 31 16 == 0x4342 && bits hd 8 0 == count && subs.headD 1 == 0 && ascending subs && subs.all fun o => decide (o < 8 * plen)
/-- Check 0x7 of block i: BCRC covers block bytes 0x08 to 0x90 + PLEN - 1 (R152). -/
def blockCrcOk (s : State) (c : Sect) (i : Nat) : Bool :=
  let (a, _) := blockAt s c i
  s.word (a + 4) == crc32 (s.bytes (a + 8) (0x88 + s.word (a + 8)))

/-- A failure of verification: its code, section and block, and the address of an uncorrectable error (R161). -/
structure VFail where
  code : Nat
  sec : Nat
  blk : Nat
  ue : Option Nat := none
deriving DecidableEq, Repr
/-- The failure as a unit that could not read the bursts at `lost` sees it: their words are lost, not found uncorrectable. -/
def VFail.seen (f : VFail) (lost : List Nat) : VFail := { f with ue := f.ue.filter fun u => !lost.contains (u / 64 * 64) }
/-- One test of a verification, which reads [a, a + n): an error met by the read stops it with code 0x9 (R161). A read that gets an
error response, on an unusable channel, counts as one (log entry 94). -/
def State.vtest (s : State) (a n : Nat) (ok : Bool) (code sec blk : Nat) : Option VFail :=
  match s.firstFlaw a n with
  | some u => some { code := 9, sec, blk, ue := some u }
  | none => if s.onDead a n then some { code := 9, sec, blk } else if ok then none else some { code, sec, blk }
/-- A test of every block of the sections, in section and block order; test c i reads [a, a + n) and passes or not. -/
def State.blockTests (s : State) (code : Nat) (test : Sect → Nat → Nat × Nat × Bool) (cs : List (Nat × Sect)) : Option VFail :=
  cs.findSome? fun c => (List.range c.2.nblk).findSome? fun k =>
    let (a, n, ok) := test c.2 k
    s.vtest a n ok code c.1 k

def chartDigest (s : State) (b : Buf) : List Byte :=
  sha384 (s.bytes (bufBase b) 16 ++ s.bytes (bufBase b + 0x40) (chartLen s b - 0x40))

/-- Check 0x4: the first section whose SLOT an earlier one has. -/
def sharedSlot (cs : List (Nat × Sect)) : Option (Nat × Sect) :=
  cs.find? fun c => cs.any fun d => decide (d.1 < c.1) && d.2.slot == c.2.slot
/-- Check 0x5: the first section with an index or block outside the chart, else the first that overlaps itself or an earlier one
(which section SEC names is DEDUCED, log entry 44). -/
def misplaced (s : State) (b : Buf) (cs : List (Nat × Sect)) : Option (Nat × Sect) :=
  match cs.find? fun c => !(extents s [c.2]).all fun e =>
      decide (bufBase b + 0x1000 ≤ e.1 ∧ e.1 + e.2 ≤ bufBase b + chartLen s b) with
  | some c => some c
  | none => cs.find? fun c => !disjoint (extents s ((cs.filter fun d => decide (d.1 ≤ c.1)).map (·.2)))

/-- Checks 0x1 to 0x6 in order: the first failure (R161). -/
def checkForm (s : State) (b : Buf) (ilen : Nat) : Option VFail :=
  let cs := sections s b
  let len := chartLen s b
  (s.vtest (bufBase b) 0x100 (s.word (bufBase b) == 0x43480001) 1 0 0).orElse fun _ =>
  (if nsec s b = 0 ∨ 4 < nsec s b ∨ len < 64 * 0x40 ∨ s.maxLen < len ∨ 64 * ilen < len then some { code := 2, sec := 0, blk := 0 } else none).orElse fun _ =>
  (cs.findSome? fun c => s.vtest (bufBase b + 0x100 + 256 * c.1) 256 c.2.fieldsOk 3 c.1 0).orElse fun _ =>
  ((sharedSlot cs).map fun c => { code := 4, sec := c.1, blk := 0 }).orElse fun _ =>
  (cs.findSome? fun c => s.vtest c.2.idx (8 * c.2.nblk) true 5 c.1 0).orElse fun _ =>
  ((misplaced s b cs).map fun c => { code := 5, sec := c.1, blk := 0 }).orElse fun _ =>
  s.blockTests 6 (fun c k => ((blockAt s c k).1, 0x90, blockOk s c k)) cs
/-- Check 0x7. -/
def checkCrcs (s : State) (b : Buf) : Option VFail :=
  s.blockTests 7 (fun c k => ((blockAt s c k).1, 0x90 + s.word ((blockAt s c k).1 + 8), blockCrcOk s c k)) (sections s b)
/-- Check 0x8. -/
def checkDigest (s : State) (b : Buf) : Option VFail :=
  s.vtest (bufBase b) (chartLen s b) (s.bytes (bufBase b + 0x10) 48 == chartDigest s b) 8 0 0
/-- All checks. -/
def checkChart (s : State) (b : Buf) (ilen : Nat) : Option VFail :=
  (checkForm s b ilen).orElse fun _ => (checkCrcs s b).orElse fun _ => checkDigest s b

/-- CRC-32 over the BCRC words of all blocks in section and block order (R165). -/
def bcrcCrc (s : State) (b : Buf) : Nat :=
  crc32 ((sections s b).flatMap fun c => (List.range c.2.nblk).flatMap fun k => s.bytes ((blockAt s c.2 k).1 + 4) 4)

/-! ## Writing entries (R153, R154), used by the builder -/

def codeOf (pred v : Nat) : List Bool :=
  let d := dist v pred
  let neg := decide (v < pred)
  if d = 0 then [false]
  else if d = 1 then [true, false, neg]
  else if d ≤ 5 then [true, true, false, neg, (d - 2).testBit 0, (d - 2).testBit 1]
  else [true, true, true] ++ (List.range 7).map fun i => v.testBit i
def legCodes : Leg → Leg → List Bool
  | p :: ps, v :: vs => codeOf p v ++ legCodes ps vs
  | _, _ => []
def courseCodes (pred : Leg) : Course → List Bool
  | [] => []
  | u :: us => legCodes pred u ++ courseCodes u us
/-- The bits of a sub-block. -/
def subCodes (pred : Leg) : List (Option Course) → List Bool
  | [] => []
  | none :: es => true :: subCodes pred es
  | some c :: es => false :: courseCodes pred c ++ subCodes (c.headD pred) es

def chunks {α : Type} (n : Nat) : Nat → List α → List (List α)
  | 0, _ => []
  | k + 1, l => if l.isEmpty then [] else l.take n :: chunks n k (l.drop n)
def packBits (bs : List Bool) : List Byte :=
  (chunks 8 (bs.length + 1) bs).map fun c => BitVec.ofNat 8 (sumN ((List.range 8).map fun i => 2 ^ i * b2n (c.getD i false)))
def prefixSums : Nat → List Nat → List Nat
  | _, [] => []
  | a, n :: ns => a :: prefixSums (a + n) ns
/-- A block of up to 256 entries (R152). -/
def blockBytes (uref : Leg) (es : List (Option Course)) : List Byte :=
  let subs := (chunks 8 33 es).map (subCodes uref)
  let pay := packBits subs.flatten
  let offs := prefixSums 0 (subs.map List.length)
  let body := toLE 4 pay.length ++ toLE 4 0 ++ ((List.range 32).flatMap fun i => toLE 4 (offs.getD i 0)) ++ pay
  toLE 4 (0x43420000 + es.length) ++ toLE 4 (crc32 body) ++ body
def pad64 (bs : List Byte) : List Byte := bs ++ List.replicate ((64 - bs.length % 64) % 64) 0

end Sys2Proof.Machine
end

