-- ==== Sys2Proof/Machine/Array.lean ====
section
/-!
DEFINITION. The Sextant array: launch and latch (R38 to R41, R79 to R88, R113, R116), the search (R94 to R111), the fix and
the correction (R42 to R46, R114), close, gather, checks and the result record (R47 to R51, R117 to R124, R131).
-/
namespace Sys2Proof.Machine

/-! ## Phase and clusters -/

def State.phase (s : State) (p : Slot) : Nat := s.fld (srchPstat p) 2 0
/-- PHASE of SRCH_PSTATp, and BUSY of SRCH_STATUS with it (R132). -/
def State.setPhase (s : State) (p : Slot) (ph : Nat) : State :=
  (s.setFld (srchPstat p) 2 0 ph).setBit srchStatus (24 + p) (decide (1 ≤ ph ∧ ph ≤ 4))
def clsOf (emask : Nat) : List Cl := allCls.filter fun c => emask.testBit c.val
def State.probCls (s : State) (p : Slot) : List Cl := clsOf (s.prob p).emask
/-- The lowest cluster of the effective mask. -/
def State.lowCl (s : State) (p : Slot) : Option Cl := (s.probCls p).head?
/-- The best incumbent among the problem's clusters. -/
def State.bestOf (s : State) (p : Slot) : Option Inc := (s.probCls p).foldl (fun b c => bestInc b (s.cl c).inc) none
/-- SRCH_PSTATp.INC follows the registers. -/
def State.syncInc (s : State) (p : Slot) : State := s.setBit (srchPstat p) 8 (s.bestOf p).isSome
/-- A deadline field in fc (R36): 0 FIXDL, 1 PROVT, 2 SRCHDL, 3 CHKDL, 4 COMMITDL. -/
def State.dlFc (s : State) (i : Fin 5) : Nat := s.per.dls[i] * s.per.len / 1000

/-! ## Latch -/

/-- u_k: the initial levels at the first launch after enable, else the levels recorded at the mark (R81, R187). -/
def State.levelsNow (s : State) (t : Table) (isNew : Bool) : Leg :=
  t.acts.map fun a => if isNew then a.level else lookD 0 s.cell.level a.arm

def Table.fmt (t : Table) : Nat × Nat × List Nat := (t.nx, t.nu, t.sts.map (·.frac))
def Table.dimsOk (t : Table) : Bool := decide (1 ≤ t.nx ∧ t.nx ≤ 16 ∧ 1 ≤ t.nu ∧ t.nu ≤ 8 ∧ 1 ≤ t.h ∧ t.h ≤ 12)

/-- The tables of the enabled lower-numbered slots, the only ones that a slot fails against (R84). A lower-numbered slot launched after
a higher-numbered one that it overlaps therefore passes, and takes the clusters (DEDUCED, log entry 99). -/
def State.rivals (s : State) (p : Slot) : List Table :=
  ((allSlots.filter fun r => decide (r < p)).map fun r => if (s.prob r).launched then (s.prob r).tbl else slotTable s r).filter (·.enable)
def distinctN : List Nat → Bool
  | [] => true
  | x :: xs => !xs.contains x && distinctN xs

/-- UMAX lowered to the available cells (R85). -/
def State.clampMax (s : State) (t : Table) : Leg := t.acts.map fun a => Nat.min a.umax (s.availCount a.arm)
/-- Clusters that a latch may use (R91): available, not excluded, not waiting for a first pass. -/
def State.usable (s : State) : Nat :=
  sumN ((allCls.filter fun (c : Cl) => s.bit srchClavail c.val && !s.rot.excl.testBit c.val && !(s.cl c).needsPass).map fun c => 2 ^ c.val)
def cplOk (c : Cpl) : Bool := c.codes.all (· != 2) && decide (c.lo ≤ c.hi)

/-- Codes 0x01 to 0x0A of R83; 0 when every check passes. -/
def State.validate (s : State) (p : Slot) (t : Table) (um : Leg) : Nat :=
  let arms := armsOf t
  let others := s.rivals p
  if t.id ≠ 0x50540001 then 0x01
  else if !t.dimsOk then 0x02
  else if t.ncpl > 4 then 0x03
  else if t.bscale > 32 ∨ t.sts.any (fun e => e.frac == 31 || e.kind == 3 || decide (e.shift > 47)) then 0x04
  else if t.acts.any fun a => decide (a.umin > a.umax ∨ a.umax > 64 ∨ a.step > 64 ∨ a.level > 64) then 0x05
  else if !arms.all s.armConfigured || !distinctN arms || arms.any (fun a => others.any fun r => (armsOf r).contains a) then 0x06
  else if !t.cpls.all cplOk then 0x07
  else if t.check = 3 ∨ t.chart = 3 ∨ !(s.fld safPermit (4 * p + 2) (4 * p)).testBit t.check then 0x08
  else if t.mask &&& s.usable = 0 ∨ others.any (fun r => r.mask &&& t.mask != 0) then 0x09
  else if (List.range t.acts.length).any fun j => decide ((t.acts.getD j {}).umin > um.getD j 0) then 0x0A
  else 0

/-- Dead reckoning (R39): x̂_k and whether a prediction set sat. `us` are the levels applied since the observed state. -/
def deadReckon (t : Table) (x : List Int) (us : List Leg) : List Int × Bool := stepMany t x us

/-- The active chart buffer, when lookups are made (R171). -/
def State.activeBuf (s : State) : Option Buf :=
  if s.bit chrtCtrl 0 && s.live .chrt then
    let a := s.fld chrtStatus 29 28
    if a = 1 then some .bufA else if a = 2 then some .bufB else none
  else none
/-- The active buffer when it holds a matching chart of R87. -/
def State.chartFor (s : State) (p : Slot) (t : Table) : Option Buf :=
  match s.activeBuf with
  | some b => if (matchSect s b p t).isSome then some b else none
  | none => none

/-- The chart of a search, at its launch: `CHRT_CTRL.EN` cleared later counts from the next latch (R171). -/
def State.launchChart (s : State) (p : Slot) : Option Buf :=
  let t := slotTable s p
  if t.chart = 1 ∨ t.chart = 2 then s.chartFor p t else none

/-- Words of R79. Levels of dimensions at or above NU are 0 (DESIGN CHOICE, log entry 99). -/
def State.writePt (s : State) (p : Slot) (vstat rho perr : Nat) (u : Leg) (age : Nat) : State :=
  let a := slotBase p + 0x1040
  let lv (k : Nat) := sumN ((List.range 4).map fun j => (u.getD (k + j) 0 % 128) * 256 ^ j)
  (((((s.setWord a vstat).setWord (a + 4) rho).setWord (a + 8) perr).setWord (a + 0xC) (lv 0)).setWord (a + 0x10) (lv 4)).setWord
    (a + 0x14) age

/-- The bounds and tolerance from an initial state (R97, R138). -/
def Problem.withBounds (q : Problem) (x0 : List Int) : Problem :=
  let bs := latchBoxes q.tbl q.umax x0 q.u
  { q with x0, tail := tailBounds q.tbl bs, tsh := shadowTol q.tbl q.umax x0 bs, tshWide := bs.any (·.whole) }

/-- CELL_ASTATa.AVAIL of the arms that the table names: the available cells at the latch. -/
def State.showAvail (s : State) (t : Table) : State :=
  s.each (armsOf t) fun (s : State) a => s.setFld (cellAstat a) 30 24 (s.availCount a)

/-- Nodes of an empty cluster. -/
def Cluster.cleared (c : Cluster) : Cluster :=
  { c with frontier := [], inc := none, flight := [], stealReq := false, shadow := none }

/-- The first node of the frontier has reached the top: its refined bound starts (R99). -/
def touchTop : List Node → List Node
  | [] => []
  | n :: ns => { n with seen := true } :: ns

/-- The root is placed for a search from q.x0 (R101, R108). An incumbent that a sharing point found before a correction, and that is not
written yet, is dropped with its old cost (DESIGN CHOICE, log entry 110). -/
def State.plantRoot (s : State) (p : Slot) (q : Problem) : State :=
  let root : Node := { d := 0, pfx := [], x := q.x0, acc := 0, lb := childBound q.tbl q.tail 0 0 }
  let s := s.each (clsOf q.emask) fun s c => s.setCl c { (s.cl c).cleared with owner := some p }
  let q := { q with fEps := none, fDrop := none, epsCut := false, drop := false, steals := [], share := none,
                    stage1 := q.tbl.determ, lvl := if q.tbl.determ then [root] else [], nxt := [] }
  let s := s.setProb p q
  if q.tbl.determ then s
  else match (clsOf q.emask).head? with
    | some c => s.setCl c { s.cl c with frontier := touchTop [root] }
    | none => s

/-- Writes stalled during the latch take effect (R86). -/
def State.applyStalled (s : State) (p : Slot) : State :=
  let ws := (s.prob p).stalled
  (s.setProb p { s.prob p with stalled := [] }).each ws fun (s : State) w => s.sramPut w

/-- The search of p closes (R47): phase 4, waiting for its gather. A comparison in progress goes on, and so does what waits for it (R49). -/
def State.closeWith (s : State) (p : Slot) (code fc : Nat) : State :=
  let s := s.setProb p { s.prob p with close := code, closeFc := fc, chWait := none }
  (s.setFld (srchPstat p) 7 4 code).setPhase p 4

/-- A stall that lasts ends at fabric cycle `now` of the period. -/
def Problem.unstallAt (q : Problem) (now : Nat) : Problem :=
  { q with stall := q.stall + (match q.chWait with | some t => now - t | none => 0), chWait := none }

/-- A problem ends without a decision: the record is due and nothing more happens to it in the period. The record of a Duplex or Shadow
problem without an incumbent, for which R118 has no row, is due here too (DESIGN CHOICE, log entry 111). -/
def State.endWithout (s : State) (p : Slot) (code : Nat) : State :=
  let s := s.setProb p { s.prob p with close := code, recDue := true, inc := none, gap := 0, provWait := false, provGather := none,
                                       lookup := false, lookOld := none, lookPos := 0, chWait := none }
  (s.setFld (srchPstat p) 7 4 code).setPhase p 5

/-- The latch completes (R38, R83, R113): the table is validated, X^(0) formed, bounds computed, lanes start; or the table
fails, which leaves a record and a miss. With NX, NU or H out of range PT_RHO and PT_PERR are 0, and a table that fails leaves CHARTOFF 0,
since no search is made (DESIGN CHOICE, log entry 99); its record has EMASK and CLOSEFC 0 (DESIGN CHOICE, log entry 111). -/
def State.latchDone (s : State) (p : Slot) : State :=
  let q := s.prob p
  let t := q.tbl
  let isNew := !q.wasEnabled
  let hist := !isNew && t.fmt != q.lastFmt
  let u := s.levelsNow t isNew
  let um := q.umax
  let clamped := sumN ((List.range t.acts.length).map fun j => if um.getD j 0 < (t.acts.getD j {}).umax then 2 ^ j else 0)
  let code := q.code
  let obs : Option (List Int) := if isNew || hist then none else q.obs
  let since : List Leg := if isNew || hist then [] else q.since
  -- the state is read only when the table is valid (PT_OBSAGE.NOOBS, R79)
  let base : Option (List Int × List Leg) :=
    if code ≠ 0 then none
    else if q.byMark then (obs.map fun x => (x, since)) else some (readObs s p t.nx, [])
  let xh : Option (List Int × Bool) := base.map fun b => deadReckon t b.1 b.2
  let x0 : Option (List Int × Bool) := xh.map fun r => let y := stepModel t r.1 u 0; (y.1, r.2 || y.2)
  let code := match code, x0 with
    | 0, some (_, false) => 0
    | 0, _ => 0x0B
    | c, _ => c
  let rho := if t.dimsOk then rho1616 t else 0
  let perr := if t.dimsOk then perr1616 t else 0
  let buf := q.chartBuf
  let chartOff := code == 0 && (t.chart == 1 || t.chart == 2) && buf.isNone
  let vstat := code + 256 * b2n isNew + 512 * b2n hist + 1024 * b2n chartOff +
    2048 * b2n (decide (rho > 0xFFFFFFFF ∨ perr > 0xFFFFFFFF)) + 65536 * clamped
  let age := match base with
    | some b => b.2.length
    | none => 8
  let s := s.writePt p vstat (sat32 rho) (sat32 perr) u age
  let q := { q with wasEnabled := true, lastFmt := t.fmt, obs, since, u, code, newF := isNew, histClr := hist,
                    emask := if code = 0 then q.emask else 0,
                    fixObs := if q.byMark then q.fixObs else base.map Prod.fst }
  let s := if code ≠ 0 then
      ((s.setProb p q).endWithout p 6).miss p 1
    else
      let shifted := match q.prev with
        | some (h, nu, c) => if h = t.h ∧ nu = t.nu ∧ !isNew ∧ !hist then some (c.drop 1 ++ [c.getLast?.getD []]) else none
        | none => none
      let q := { q with xhat := (xh.map Prod.fst).getD [], shifted, shiftPend := shifted.isSome, chartBuf := buf,
                        lookup := buf.isSome, chWait := if q.chStepped && buf.isSome then some (q.launchFc + 256) else none }
      let q := q.withBounds ((x0.map Prod.fst).getD [])
      let s := s.plantRoot p q
      let s := if t.check = 2 then s.each (clsOf q.emask) fun s c => s.setCl c { s.cl c with servedSimplex := true } else s
      let s := if buf.isSome then s.count chrtLkcnt 15 0 else s
      let s := s.setPhase p 2
      if q.closeAtLatch ≠ 0 then s.closeWith p q.closeAtLatch 256
      else if 1 ≤ t.budget ∧ t.budget ≤ 256 then s.closeWith p 2 256 else s
  s.applyStalled p

/-- A word of slot p that a read finds uncorrectable, told by its offset in the slot. -/
def State.noteSlot (s : State) (p : Slot) (ue : Option (BitVec 16)) : State := match ue with
  | some o => s.setBad (slotBase p + o.toNat / 8 * 8) 8
  | none => s
/-- An uncorrectable error in a problem's data in period SRAM (R282): a decision-path fault, whose result is withheld; it lies in no
cluster, and SRCH_FAULT and SRCH_FAULTCL show nothing (DEDUCED, log entry 102). -/
def State.dataFault (s : State) (p : Slot) : State :=
  let q := (s.prob p).unstallAt s.per.now
  let fc := if s.phase p = 1 then 256 else if s.phase p = 4 then q.closeFc else s.per.now - q.launchFc
  let s := s.setProb p { q with verdict := 2, closeFc := fc }
  let s := s.each (clsOf q.emask) fun s c => s.setCl c (s.cl c).cleared
  ((((s.endWithout p 5).syncInc p).fire 0x18).capTrig 2).miss p 3
/-- The words of a table (R63). -/
def tableBytes : Nat := 0x1040
/-- The latch completes, unless it reads an uncorrectable word of the table. In that case the words of R79 stay as they are and the launch
counts neither for NEW nor for HISTCLR (DESIGN CHOICE, log entry 111). -/
def execLatch (p : Slot) (ue : Option (BitVec 16)) (s : State) : Out :=
  if s.live .srch && s.phase p == 1 then
    let s := s.noteSlot p ue
    .next (if s.bad (slotBase p) tableBytes then (s.dataFault p).applyStalled p else s.latchDone p)
  else .next s

/-! ## Launch -/

/-- A launch begins: the latch copies and validates the table (R83, R85, R113), evaluates the effective mask (R91), and the chart of the
search is chosen (R156, R160). -/
def State.startLatch (s : State) (p : Slot) (byMark : Bool) (now : Nat) : State :=
  let t := slotTable s p
  let umax := s.clampMax t
  let code := s.validate p t umax
  let s := s.setProb p { s.prob p with launched := true, enabled := true, byMark, launchFc := now, launchCount := s.rd perCount,
                                       tbl := t, umax, code, emask := if code = 0 then t.mask &&& s.usable else 0,
                                       chartBuf := s.launchChart p }
  (s.showAvail t).setPhase p 1

/-- A write of 1 to SRCH_LAUNCH bit p, or its task (R116). A launch that finds ENABLE 0 is refused with LERR (DESIGN CHOICE, log entry
99), and the next that finds it 1 is a first launch (R81); one that finds it 1 makes the slot a problem of the period (R88). -/
def State.launchReq (s : State) (p : Slot) : State :=
  let q := s.prob p
  let t := slotTable s p
  if (t.runahead && !s.bit (srchPstat p) 3) || q.launched || s.per.srchPassed || !s.rot.powerupDone then
    s.setBit srchStatus (12 + p) true
  else if !t.enable then (s.setProb p { q with wasEnabled := false }).setBit srchStatus (12 + p) true
  else s.startLatch p false s.per.now
def execLaunch (p : Slot) (now : Nat) (s : State) : Out :=
  if s.live .srch then .next (((s.tellNow now).did [p]).launchReq p) else .next s

/-! ## Lanes (R101) -/

/-- Levels of a node's own leg. -/
def Node.levels (n : Node) (uk : Leg) : Leg := n.pfx.getLast?.getD uk
/-- The guide course (R95): the chart seed once it has been offered, else the shifted seed (from when a chart seed guides: DESIGN CHOICE, log
entry 110). -/
def Problem.guide (q : Problem) : Option Course := match q.seedChart with
  | some c => some c
  | none => q.shifted
/-- R92: node records per frontier. -/
def frontierCap : Nat := 20480
/-- Batch width (R101). -/
def batchWidth (check : Nat) : Nat := if check = 0 then 128 else if check = 1 then 241 else 256

/-- The pruning test of R100: pruned, and the problem with its ε floor. A node that rule 1 or 2 prunes leaves the floor alone, rule 3 being
tried after them (DEDUCED, log entry 100). -/
def Problem.prune (q : Problem) (inc : Option Inc) (lb : Nat) (pfx : Course) : Problem × Bool :=
  if prunedHard q.tbl inc lb pfx then (q, true)
  else match prunedEps q.tbl inc lb with
    | some v => ({ q with fEps := minOpt q.fEps v, epsCut := true }, true)
    | none => (q, false)

/-- An offer to one register (R101). -/
def offerTo (q : Problem) (c : Cluster) (cost : Nat) (course : Course) (src : Nat) : Problem × Cluster :=
  if better cost course c.inc then ({ q with nInc := q.nInc + 1 }, { c with inc := some { cost, course, src }, shadow := none }) else (q, c)

/-- What the landing of a batch has produced so far: survivors in child order. -/
structure Landing where
  q : Problem
  c : Cluster
  keep : List Node
  dropped : Bool := false

/-- Records of the cluster that nodes fill. -/
def Landing.held (a : Landing) : Nat := if a.q.stage1 then a.q.lvl.length + a.q.nxt.length else a.c.frontier.length

/-- One candidate lands (R101). -/
def Landing.kid (par : Node) (a : Landing) (u : Leg) : Landing :=
  let t := a.q.tbl
  let d := par.d + 1
  let (x, sat) := stepModel t par.x u d
  if sat then a else
  let acc := satCost (par.acc + legCost t x u (par.levels a.q.u) d)
  let pfx := par.pfx ++ [u]
  if d = t.h then
    let (q, c) := offerTo a.q a.c acc pfx 1
    { a with q, c }
  else
    let lb := childBound t a.q.tail acc d
    let (q, cut) := a.q.prune a.c.inc lb pfx
    if cut then { a with q } else { a with q, keep := a.keep ++ [{ d, pfx, x, acc, lb }] }
/-- The survivors are pushed in reverse child order: those that find the frontier full, the first of them, are dropped into F_drop
(R101, R131). -/
def Landing.push (a : Landing) : Landing :=
  let n := a.keep.length - (frontierCap - a.held)
  if n = 0 then a
  else
    let lost := (a.keep.take n).map fun k => k.lb * 2 ^ a.q.tbl.bscale
    { a with q := { a.q with fDrop := lost.foldl minOpt a.q.fDrop, drop := true }, keep := a.keep.drop n,
             dropped := true }
/-- The batch b of a cluster lands. -/
def Batch.lands (b : Batch) (q : Problem) (c : Cluster) : Landing :=
  (b.kids.foldl (Landing.kid b.parent) { q, c, keep := [] }).push

/-- Stage 1 goes one level deeper when its level is done and the survivors are too few to deal (R108). -/
def State.stage1Next (s : State) (p : Slot) : State :=
  let q := s.prob p
  match s.lowCl p with
  | some c =>
    if q.stage1 && q.lvl.isEmpty && (s.cl c).flight.isEmpty && !q.nxt.isEmpty && decide (q.nxt.length < 4 * (clsOf q.emask).length) then
      s.setProb p { q with lvl := q.nxt, nxt := [] }
    else s
  | none => s

/-- A batch of cluster c lands (R101). -/
def State.landBatch (s : State) (p : Slot) (c : Cl) (b : Batch) : State :=
  let a := b.lands (s.prob p) (s.cl c)
  let s := if a.q.stage1 then (s.setProb p { a.q with nxt := a.q.nxt ++ a.keep }).setCl c a.c
    else (s.setProb p a.q).setCl c { a.c with frontier := touchTop (a.keep ++ a.c.frontier) }
  let s := if a.dropped then s.setBit srchStatus p true else s
  (s.stage1Next p).syncInc p

/-- The next batch of a node: the candidates, and the node with the rest. Its children keep the order of its first batch when the guide
changes (DESIGN CHOICE, log entry 110). -/
def nextBatch (q : Problem) (n : Node) : List Leg × Node :=
  let kids := match n.kids with
    | some k => k
    | none => children q.tbl q.umax (n.levels q.u) n.pfx q.guide
  let w := batchWidth q.tbl.check
  (kids.take w, { n with kids := some (kids.drop w) })

/-- One pass of the cluster's loop on the node at the front of `list`: the problem, the cluster, and the list after it. -/
def passNode (q : Problem) (c : Cluster) (n : Node) (rest : List Node) : Problem × Cluster × List Node :=
  let (q, cut) := q.prune c.inc n.lb n.pfx
  if cut then (q, c, rest)
  else
    let (batch, n') := nextBatch q n
    let c := if batch.isEmpty then c else { c with flight := c.flight ++ [{ parent := n, kids := batch }] }
    ({ q with legs := q.legs + batch.length }, c, if n'.kids = some [] then rest else n' :: rest)

/-- The problem's clusters advance: it is not stalled for a lookup (R107, R109). -/
def Problem.steps (q : Problem) : Bool := q.chWait.isNone

/-- A cluster's pass (R101, R105, R108): stage 1 runs on the lowest cluster alone. -/
def execBatchIssue (c : Cl) (s : State) : Out :=
  match (s.cl c).owner with
  | none => .next s
  | some p =>
    let q := s.prob p
    let k := s.cl c
    if !s.live .srch || s.phase p != 2 || !q.steps || !q.emask.testBit c then .next s
    else if q.stage1 then
      if s.lowCl p ≠ some c then .next s
      else match q.lvl with
        | [] => .next s
        | n :: rest =>
          let (q, k, l) := passNode q k n rest
          .next (((s.setProb p { q with lvl := l }).setCl c k).stage1Next p)
    else match k.frontier with
      | [] =>
        if q.tbl.determ || q.steals.any (fun x => x.taker == c) then .next s
        else .next (s.setCl c { k with stealReq := true })
      | n :: rest =>
        let (q, k, l) := passNode q k n rest
        .next ((s.setProb p q).setCl c { k with frontier := touchTop l })

/-- The refined bound of the i-th node from the top completes (R99). One that completes after the close has no effect (DESIGN CHOICE, log
entry 110). -/
def execRefinedBound (c : Cl) (i : Nat) (s : State) : Out :=
  let k := s.cl c
  match k.owner, k.frontier[i]? with
  | some p, some n =>
    let q := s.prob p
    if s.live .srch && s.phase p == 2 && q.steps && n.seen && !n.refined && !q.stage1 then
      let lb := Nat.max n.lb (refinedBound q.tbl q.umax n.x (n.levels q.u) n.d n.acc)
      .next (s.setCl c { k with frontier := k.frontier.set i { n with lb, refined := true } })
    else .next s
  | _, _ => .next s

/-! ## Seeds (R102, R109, R113) -/

/-- A seed is costed from X^(0) and offered to every cluster when feasible. -/
def State.offerSeed (s : State) (p : Slot) (c : Course) (src : Nat) : State × Bool :=
  let q := s.prob p
  let s := s.setProb p { q with legs := q.legs + q.tbl.h }
  match courseCost q.tbl q.umax q.x0 q.u c with
  | none => (s, false)
  | some cost =>
    let s := s.each (s.probCls p) fun s k =>
      let (q, r) := offerTo (s.prob p) (s.cl k) cost c src
      (s.setProb p q).setCl k r
    (s.syncInc p, true)

/-- The shifted seed, H fc after the end of the latch. A seed that is not feasible is discarded. -/
def execShiftedSeedOffer (p : Slot) (s : State) : Out :=
  let q := s.prob p
  match q.shifted with
  | some c =>
    if s.live .srch && (s.phase p == 2 || s.phase p == 3) && q.steps && q.shiftPend then
      let (s, ok) := (s.setProb p { q with shiftPend := false }).offerSeed p c 2
      .next (if ok then s else s.setProb p { s.prob p with shifted := none })
    else .next s
  | none => .next s

/-- The chart seed, H fc after the chart's return, and under DETERM 1 not before the step CHSTEP. -/
def execChartSeedOffer (p : Slot) (s : State) : Out :=
  let q := s.prob p
  match q.seedPend with
  | some c =>
    if s.live .srch && (s.phase p == 2 || s.phase p == 3) && q.steps && (!q.tbl.determ || q.chStepped) then
      let (s, ok) := (s.setProb p { q with seedPend := none }).offerSeed p c 3
      .next (if ok then s.setProb p { s.prob p with chartSeed := true, seedChart := some c } else s)
    else .next s
  | none => .next s

/-- Step CHSTEP of a deterministic search (R109): without the lookup's return the clusters stall from here, and from the end of the
latch where CHSTEP is no later than it, since the lookup starts there (DEDUCED, log entry 43). -/
def execChartStep (p : Slot) (now : Nat) (s : State) : Out :=
  let q := s.prob p
  if s.live .srch && (s.phase p == 1 || s.phase p == 2 || s.phase p == 3) && q.tbl.determ && !q.chStepped then
    .next ((s.tellNow now).setProb p { q with chStepped := true, chWait := if q.lookup then some now else none })
  else .next s

/-! ## Sharing and stealing (R103, R105) -/

/-- The cluster that holds the most nodes, at least 2, the lowest on a tie. -/
def State.donorOf (s : State) (p : Slot) : Option Cl :=
  (s.probCls p).foldl (fun b c =>
    let n := (s.cl c).frontier.length
    match b with
    | none => if 2 ≤ n then some c else none
    | some d => if (s.cl d).frontier.length < n then some c else b) none

/-- One standing request is served. -/
def State.serveSteal (s : State) (p : Slot) (c : Cl) : State :=
  if !(s.cl c).stealReq then s
  else if !(s.cl c).frontier.isEmpty then s.setCl c { s.cl c with stealReq := false }
  else match s.donorOf p with
    | none => s
    | some d =>
      let f := (s.cl d).frontier
      let k := Nat.min (f.length / 2) 64
      let part := f.drop (f.length - k)
      let s := (s.setCl d { s.cl d with frontier := f.take (f.length - k) })
      let s := s.setCl c { s.cl c with stealReq := false }
      s.setProb p { s.prob p with steals := (s.prob p).steals ++ [{ donor := d, taker := c, nodes := part }] }

/-- A sharing point: the best incumbent is found and shown, and steal requests are served in ascending cluster number, the donor being
found anew for each (DESIGN CHOICE, log entry 100). -/
def execSharingPoint (p : Slot) (s : State) : Out :=
  let ph := s.phase p
  if s.live .srch && (ph == 2 || ph == 3) && (s.prob p).steps then
    let b := s.bestOf p
    let s := s.setProb p { s.prob p with share := b }
    let s := match b with
      | some i => (s.wr (srchPincl p) (i.cost % 2 ^ 32)).wr (srchPinch p) (0x80000000 + i.cost / 2 ^ 32)
      | none => (s.wr (srchPincl p) 0).wr (srchPinch p) 0
    .next (if (s.prob p).tbl.determ || ph == 3 then s else s.each (s.probCls p) fun s c => s.serveSteal p c)
  else .next s

/-- Sixteen fc later every register takes the shared incumbent unless its own has become better. -/
def execSharingWrite (p : Slot) (s : State) : Out :=
  let q := s.prob p
  match q.share with
  | some i =>
    if s.live .srch && q.steps && (s.phase p == 2 || s.phase p == 4 && !q.gathered) then
      let s := s.each (s.probCls p) fun s c =>
        let k := s.cl c
        if better i.cost i.course k.inc then s.setCl c { k with inc := some i, shadow := none } else s
      .next (s.setProb p { q with share := none })
    else .next s
  | none => .next s

/-- The next node of a transfer to cluster c arrives, below the nodes that are there (R105). -/
def execStealTransfer (c : Cl) (s : State) : Out :=
  match (s.cl c).owner with
  | none => .next s
  | some p =>
    let q := s.prob p
    if !s.live .srch || s.phase p != 2 then .next s
    else match q.steals.find? fun x => x.taker == c with
      | none => .next s
      | some x => match x.nodes with
        | [] => .next s
        | n :: ns =>
          let q := { q with nSteal := q.nSteal + 1,
                            steals := if ns.isEmpty then q.steals.filter (fun y => y.taker != c)
                              else q.steals.map fun y => if y.taker == c then { y with nodes := ns } else y }
          .next ((s.setProb p q).setCl c { s.cl c with frontier := touchTop ((s.cl c).frontier ++ [n]) })

/-- Stages 2 and 3 of R108: the survivors are dealt in turn to the clusters. -/
def execDeterministicDeal (p : Slot) (s : State) : Out :=
  let q := s.prob p
  let cs := clsOf q.emask
  match cs.head? with
  | none => .next s
  | some low =>
    if s.live .srch && s.phase p == 2 && q.steps && q.stage1 && q.lvl.isEmpty && (s.cl low).flight.isEmpty && (q.nxt.isEmpty || decide (4 * cs.length ≤ q.nxt.length)) then
      let s := s.setProb p { q with stage1 := false, nxt := [] }
      .next (s.each (cs.zipIdx) fun s c =>
        s.setCl c.1 { s.cl c.1 with
          frontier := touchTop ((q.nxt.zipIdx.filter fun n => n.2 % cs.length == c.2).map (·.1)) })
    else .next s

/-! ## The provisional send (R49, R104) -/

/-- The gather at the provisional send time: the incumbent's first leg of this moment. -/
def State.provGather (s : State) (p : Slot) : State :=
  s.setProb p { s.prob p with provWait := false, provGather := ((s.bestOf p).bind fun i => i.course.head?) }

/-- The fix of the period has settled (R49): compared, or no fix-ready by the fix deadline, or the search deadline is past. -/
def State.fixSettled (s : State) (q : Problem) : Bool :=
  !q.byMark || q.compared || (s.per.fixPassed && (!q.fixRdy || q.fixLate)) || s.per.srchPassed

/-- The provisional send time for one problem. While the comparison of a timely fix-ready is still to complete, the first leg waits for it;
no incumbent exists in the latch. -/
def State.provSendTime (s : State) (p : Slot) : State :=
  let q := s.prob p
  let ph := s.phase p
  if q.launched && q.byMark && (ph == 1 || ph == 2 || ph == 4) && !q.decided then
    if s.fixSettled q then s.provGather p
    else if q.fixRdy && !q.compared then s.setProb p { q with provWait := true } else s
  else s

/-- The gather completes, 16 fc on: the first leg goes to the sorter unless the result went first. -/
def execProvisionalGather (p : Slot) (s : State) : Out :=
  let q := s.prob p
  match q.provGather with
  | some leg =>
    let s := s.setProb p { q with provGather := none }
    if s.live .srch && !q.decided && !q.recDue && !s.per.srchPassed then .next (s.sorterPass p 0x11 leg) else .next s
  | none => .next s

/-! ## The fix (R41 to R46, R88, R110, R131) -/

/-- The observed states of slot p lie in a word known to be uncorrectable. -/
def State.obsBad (s : State) (p : Slot) : Bool :=
  (List.range (Nat.min (s.prob p).tbl.nx 16)).any fun i => s.bad (slotBase p + 0x58 + 32 * i) 4
/-- A write of 1 to SRCH_FIXRDY bit p, or its task. The observed state is read; it becomes the base of the next period. An uncorrectable
word of it is a fault of an undecided problem, and no observed state (R282, log entry 102). -/
def State.fixReadyReq (s : State) (p : Slot) : State :=
  let q := s.prob p
  if !q.byMark then (if s.bit (srchPstat p) 3 then s else s.setBit srchStatus (16 + p) true)
  else if q.fixRdy then s.setBit srchStatus (16 + p) true
  else if s.obsBad p then
    let s := s.setProb p { q with fixRdy := true }
    if q.recDue || q.decided then s else s.dataFault p
  else
    let late := s.per.fixPassed || decide (s.per.now > s.dlFc 0)
    s.setProb p { q with fixRdy := true, fixLate := late, drOnly := q.drOnly || late, fixObs := some (readObs s p q.tbl.nx) }
def execFixReady (p : Slot) (now : Nat) (ue : Option (BitVec 16)) (s : State) : Out :=
  if s.live .srch then .next ((((s.noteSlot p ue).tellNow now).did [4 + p]).fixReadyReq p) else .next s

/-- The comparison completes (R42): agreement settles the fix; disagreement starts a correction search, or ends the problem
when the corrected initial state saturates (R43, R44). -/
def State.compare (s : State) (p : Slot) : State :=
  let q := s.prob p
  let x := q.fixObs.getD []
  let ok := agrees q.tbl x q.xhat
  let q' := { q with compared := true, resid := residual q.tbl x q.xhat, provWait := false }
  let s := s.setProb p q'
  if ok then (if q.provWait && !s.per.srchPassed then s.provGather p else s)
  else if q.recDue || q.decided then s
  else
    let (x0n, sat) := stepModel q.tbl x q.u 0
    if sat then
      let s := s.setProb p { q' with closeFc := s.per.now - q.launchFc }
      let s := s.each (clsOf q.emask) fun s c => s.setCl c (s.cl c).cleared
      ((s.endWithout p 7).syncInc p).miss p 6
    else
      let s := s.setProb p { q' with corr := true, x0n, close := 0, gathered := false }
      (s.setFld (srchPstat p) 7 4 0).setPhase p 3

/-- The comparison can complete: the table is latched, fix-ready came in time, and it was not made before. One whose step stalls move past
the search deadline is not made, and DRONLY stays 0 (DESIGN CHOICE, log entry 110). -/
def State.comparable (s : State) (p : Slot) : Bool :=
  let q := s.prob p
  s.live .srch && q.byMark && q.fixRdy && !q.fixLate && !q.compared && !s.per.srchPassed && (s.phase p == 2 || s.phase p == 4 && !q.gathered)
def execComparison (p : Slot) (s : State) : Out :=
  if s.comparable p && !(s.prob p).tbl.determ then .next (s.compare p) else .next s
/-- Under DETERM 1 the comparison is made at the step of R110, after the fix deadline. -/
def execDeterministicComparison (p : Slot) (s : State) : Out :=
  if s.comparable p && (s.prob p).tbl.determ && (s.prob p).steps && s.per.fixPassed then .next (s.compare p) else .next s

/-- The corrected initial state comes into force with an empty search (R44, R114). -/
def State.installCorrection (s : State) (p : Slot) : State :=
  let q := s.prob p
  (s.plantRoot p (q.withBounds q.x0n)).syncInc p

/-- Setup of the correction search completes, 144 fc after fix-ready: the incumbent and the shifted seed are re-costed and offered,
and a chart lookup is issued. A seed that is not feasible is discarded (R102). Under DETERM 1, past CHSTEP, the clusters stall until that
lookup returns (R109, R112; DEDUCED, log entry 21). -/
def execCorrectionSetup (p : Slot) (s : State) : Out :=
  if s.live .srch && s.phase p == 3 && (s.prob p).steps then
    let best := s.bestOf p
    let old := s.prob p
    let s := (s.installCorrection p).setPhase p 2
    let q := s.prob p
    let s := match best with
      | some i => match courseCost q.tbl q.umax q.x0 q.u i.course with
        | some cost => (s.each (s.probCls p) fun s k =>
            let (q, r) := offerTo (s.prob p) (s.cl k) cost i.course i.src
            (s.setProb p q).setCl k r).syncInc p
        | none => s
      | none => s
    let s := match q.shifted with
      | some c => match s.offerSeed p c 2 with
        | (s, true) => s
        | (s, false) => s.setProb p { s.prob p with shifted := none }
      | none => s
    let q := s.prob p
    let look := q.chartBuf.isSome
    let s := s.setProb p { q with shiftPend := false, lookup := look,
                                  chWait := if q.tbl.determ && q.chStepped && look then some s.per.now else none,
                                  lookOld := if old.lookup then some (old.x0, old.u) else none }
    .next (if look then s.count chrtLkcnt 15 0 else s)
  else .next s

/-! ## Close -/

/-- A close with its reason and its time from the launch. During the latch it waits for the latch's end; during the setup of a
correction search it leaves no incumbent (R113, R115, R131). -/
def State.closeSearch (s : State) (p : Slot) (code fc : Nat) : State :=
  let ph := s.phase p
  if ph = 1 then s.setProb p { s.prob p with closeAtLatch := code }
  else if ph = 2 then s.closeWith p code fc
  else if ph = 3 then (s.installCorrection p).closeWith p code fc
  else s
def State.open? (s : State) (p : Slot) : Bool := let ph := s.phase p; ph == 1 || ph == 2 || ph == 3

/-- A write of 1 to SRCH_CLOSE bit p, or its task (R116, R131). -/
def State.closeReq (s : State) (p : Slot) : State :=
  let q := s.prob p
  if s.open? p then (s.setProb p (q.unstallAt s.per.now)).closeSearch p 4 (s.per.now - q.launchFc) else s.setBit srchStatus (8 + p) true
def execCloseRequest (p : Slot) (now : Nat) (s : State) : Out :=
  if s.live .srch then .next (((s.tellNow now).did [8 + p]).closeReq p) else .next s

/-- The budget is spent before the search deadline (R47, R65, R115). -/
def execBudgetExpiry (p : Slot) (s : State) : Out :=
  let q := s.prob p
  let b := q.tbl.budget + q.stall
  if s.live .srch && (s.phase p == 2 || s.phase p == 3) && q.tbl.budget != 0 && !q.tbl.determ && decide (q.launchFc + b < s.dlFc 2) then
    .next (s.closeSearch p 2 b)
  else .next s

/-- No node is left anywhere (R47). -/
def State.exhausted (s : State) (p : Slot) : Bool :=
  let q := s.prob p
  q.steals.isEmpty && q.lvl.isEmpty && q.nxt.isEmpty &&
  (clsOf q.emask).all fun c => (s.cl c).frontier.isEmpty && (s.cl c).flight.isEmpty
def execTreeExhausted (p : Slot) (now : Nat) (s : State) : Out :=
  if s.live .srch && s.phase p == 2 && (s.prob p).steps && s.exhausted p then
    let s := s.tellNow now
    .next (s.closeSearch p 1 (s.per.now - (s.prob p).launchFc))
  else .next s

/-- S_close of R111, in steps; the clusters have made it in S_close plus the stalled fc. With BUDGET 0 the close counts as the
search deadline's (DEDUCED, log entry 20). -/
def State.sClose (s : State) (q : Problem) : Nat :=
  if q.tbl.budget ≠ 0 then q.tbl.budget else s.dlFc 2 - q.launchFc - s.fld srchDetcfg 15 0
def execDeterministicClose (p : Slot) (s : State) : Out :=
  let q := s.prob p
  let n := Nat.max (s.sClose q) 256 + q.stall
  if s.live .srch && (s.phase p == 2 || s.phase p == 3) && q.tbl.determ && q.steps && decide (q.launchFc + n ≤ s.dlFc 2) then
    .next (s.closeSearch p (if q.tbl.budget ≠ 0 then 2 else 3) n)
  else .next s

/-- The search deadline for one problem (one enabled at the mark, or launched since: log entry 99): an open search closes; a deterministic one before its S_close has lost its determinism
(R47, R111), and one that has come to it closes as R111 says (log entry 20); an
enabled problem that was not launched has its record and its miss (R41, R118). -/
def State.searchDeadlineOf (s : State) (p : Slot) : State :=
  let q := s.prob p
  let dl := s.dlFc 2
  if s.open? p then
    let q := q.unstallAt dl
    let lost := q.tbl.determ && decide (q.launchFc + s.sClose q + q.stall > dl)
    let s := if lost then s.setBit srchStatus (4 + p) true else s
    let q := { q with detLost := lost }
    (s.setProb p q).closeSearch p (if q.tbl.determ && !lost && q.tbl.budget != 0 then 2 else 3) (dl - q.launchFc)
  else if q.enabled && !q.launched then
    ((s.setProb p { q with recDue := true, launchCount := s.rd perCount }).setPhase p 5).miss p 0
  else s

/-! ## Faults (R121, R131) -/

/-- A decision-path fault: the event, the capture trigger and the withheld result's miss (R236, R282). -/
def State.decisionFault (s : State) (p : Slot) (c : Nat) : State :=
  let s := (s.wr srchFaultcl (0x80000000 + c)).setProb p { s.prob p with faultCl := some ((s.prob p).faultCl.getD c) }
  ((s.fire 0x18).capTrig 2).miss p 3

/-- The search stops on a fault found in cluster c; `fbit` is the bit of SRCH_FAULT. -/
def State.stopFault (s : State) (p : Slot) (c : Cl) (fbit : Nat) : State :=
  let q := (s.prob p).unstallAt s.per.now
  let fc := if s.phase p = 4 then q.closeFc else s.per.now - q.launchFc
  let s := s.setProb p { q with verdict := 2, closeFc := fc }
  let s := s.each (clsOf q.emask) fun s c => s.setCl c (s.cl c).cleared
  (((s.endWithout p 5).syncInc p).setBit srchFault fbit true).decisionFault p c

/-- The problem that cluster c works for: one whose latch copies its table there (R113), or the owner. -/
def State.serving (s : State) (c : Cl) : Option Slot :=
  (allSlots.find? fun p => s.phase p == 1 && (s.prob p).emask.testBit c).orElse fun _ => (s.cl c).owner
/-- The array's checks of one fc find a fault in cluster c of problem p: the search stops, in its latch too, whose stalled writes then
take effect (R86). -/
def State.checkFault (s : State) (p : Slot) (c : Cl) (fbit : Nat) : State :=
  if s.phase p = 1 then (s.stopFault p c fbit).applyStalled p else s.stopFault p c fbit

/-- The array's checks in one fc of cluster c, in which a batch lands unless the clusters latch or stall: Duplex compares lanes and control
copies, Shadow the control copies, Simplex nothing (R121, R122, R124); the scratch carries SECDED (R92). -/
def execBatchLanding (c : Cl) (f : LaneFault) (s : State) : Out :=
  match s.serving c with
  | none => .next s
  | some p =>
    let q := s.prob p
    let ph := s.phase p
    if !s.live .srch || !q.emask.testBit c || q.gathered || !(1 ≤ ph && ph ≤ 4) then .next s
    else match f with
      | .duplex => if q.tbl.check = 2 then .next s else .next (s.checkFault p c (4 + p))
      | .scratchUncorrectable => .next (s.checkFault p c (12 + p))
      | _ =>
        let s := if f = .scratchCorrected then s.count srchEcccnt 15 0 else s
        if ph = 1 || ph = 3 || !q.steps then .next s
        else match (s.cl c).flight with
          | [] => .next s
          | b :: bs => .next ((s.setCl c { s.cl c with flight := bs }).landBatch p c b)

/-! ## Gather, check and verdict -/

/-- Every batch still in the pipeline lands (R117). -/
def State.drain (s : State) (p : Slot) : State :=
  s.each (s.probCls p) fun s c =>
    let fl := (s.cl c).flight
    (s.setCl c { s.cl c with flight := [] }).each fl fun s b => s.landBatch p c b

def minBound (ns : List Node) : Option Nat := ns.foldl (fun m n => minOpt m n.lb) none
/-- L_f of R117: frontier nodes, nodes in flight and the levels of stage 1; none is +∞. -/
def State.lowestBound (s : State) (p : Slot) : Option Nat :=
  let q := s.prob p
  let ns := (s.probCls p).flatMap (fun c => (s.cl c).frontier) ++ q.steals.flatMap (·.nodes) ++ q.lvl ++ q.nxt
  (minBound ns).map (· * 2 ^ q.tbl.bscale)
/-- G of R117. -/
def gapOf (c : Nat) (ls : List (Option Nat)) : Nat :=
  match ls.foldl (fun m o => match o with | some v => minOpt m v | none => m) none with
  | none => 0
  | some m => satCost (c - m)

/-- A result has passed its check, or needs none: it goes to selection, and its record is due (R50, R51, R118). -/
def State.passResult (s : State) (p : Slot) : State :=
  let leg := ((s.prob p).inc.bind fun i => i.course.head?).getD []
  let s := s.setProb p { s.prob p with recDue := true }
  (s.settle p leg).setPhase p 5

/-- The final gather, 32 fc after the close, once the fix of the period has settled (R48, R104, R117, log entry 19). -/
def execFinalGather (p : Slot) (s : State) : Out :=
  let q := s.prob p
  if s.live .srch && s.phase p == 4 && !q.gathered && s.fixSettled q then
    let s := s.drain p
    let q := s.prob p
    let found : Option Inc := match s.bestOf p with
      | some i => some i
      | none => match q.tbl.chart, q.lastLookup with
        | 2, some c => (courseCost q.tbl q.umax q.x0 q.u c).map fun cost => { cost, course := c, src := 4 }
        | _, _ => none
    match found with
    | none => .next ((s.endWithout p q.close).miss p 2)
    | some i =>
      let s := s.setProb p { q with gathered := true, inc := some i, gap := gapOf i.cost [s.lowestBound p, q.fEps, q.fDrop] }
      .next (if q.tbl.check = 2 then s.passResult p else s)
  else .next s

/-- The problem awaits its verdict. -/
def State.awaiting (s : State) (p : Slot) (check : Nat) : Bool :=
  let q := s.prob p
  s.live .srch && s.phase p == 4 && q.gathered && q.tbl.check == check && !q.recDue
/-- Both control copies agreed to the end (R121). -/
def execDuplexVerdict (p : Slot) (s : State) : Out :=
  if s.awaiting p 0 then .next ((s.setProb p { s.prob p with verdict := 1 }).passResult p) else .next s

/-- A shadow lane completes the evaluation of its cluster's incumbent (R122). -/
def execShadowEvaluation (c : Cl) (s : State) : Out :=
  let k := s.cl c
  match k.owner, k.inc with
  | some p, some i =>
    let q := s.prob p
    if s.live .srch && q.tbl.check == 1 && (s.phase p == 2 || s.phase p == 4) then
      let (cost, ok) := shadowEval q.tbl q.umax q.x0 q.u i.course
      .next (s.setCl c { k with shadow := some (i.course, cost, ok) })
    else .next s
  | _, _ => .next s

/-- The Shadow verdict on the problem incumbent (R123); over a whole-range box the cost comparison always passes (R139). `copyOk`: the
shadow lane holds a byte-for-byte copy of the course. A failure names the lowest cluster whose register holds the incumbent, else the
lowest of the effective mask (DESIGN CHOICE, log entry 111). -/
def execShadowVerdict (p : Slot) (copyOk : Bool) (s : State) : Out :=
  let q := s.prob p
  match q.inc with
  | some i =>
    if s.awaiting p 1 then
      let (csh, ok) := shadowEval q.tbl q.umax q.x0 q.u i.course
      let diff := sat32 (dist i.cost csh)
      let s := s.setProb p { q with shDiff := diff }
      if copyOk && ok && (q.tshWide || decide (dist i.cost csh ≤ q.tsh)) then
        .next ((s.setProb p { s.prob p with verdict := 1 }).passResult p)
      else
        let holder := ((s.probCls p).find? fun c => (s.cl c).inc == some i).orElse fun _ => s.lowCl p
        let s := s.setProb p { s.prob p with verdict := 2 }
        .next (((s.endWithout p q.close).setBit srchFault (8 + p) true).decisionFault p ((holder.map Fin.val).getD 0))
    else .next s
  | none => .next s

/-- The check deadline for one problem: a Duplex or Shadow check without a verdict (R50, R58, R118). SRCH_FAULTCL is valid; a missing verdict
is of no one cluster, so CL is a free value (log entry 98). -/
def State.checkDeadlineOf (s : State) (p : Slot) : State :=
  let q := s.prob p
  let ph := s.phase p
  if q.launched && !q.recDue && q.tbl.check != 2 && (ph == 2 || ph == 3 || ph == 4) then
    let s := s.setProb p { q with verdict := 3 }
    let (w, s) := s.freeWord
    (((s.endWithout p q.close).setBit srchFault p true).wr srchFaultcl (0x80000000 + w.toNat % 16)).miss p 4
  else s

/-! ## The result record (R118 to R120) -/

def courseBytes (c : Course) : List Byte := (List.range 12).flatMap fun l => byteRow 8 (c.getD l [])
/-- The words at 0x1084 to 0x10BF and the course. -/
def recordBytes (q : Problem) : List Byte :=
  let shadow := q.tbl.check == 1
  let cost := (q.inc.map (·.cost)).getD 0
  let gap := if q.inc.isSome then q.gap else 0
  let legs := q.legs % 2 ^ 40
  ([srStat q, cost % 2 ^ 32, cost / 2 ^ 32, gap % 2 ^ 32, gap / 2 ^ 32, legs % 2 ^ 32, legs / 2 ^ 32,
    Nat.min (q.stall / 64) 255 * 2 ^ 24 + q.closeFc % 2 ^ 24, q.resid, if shadow then q.tsh else 0, if shadow then q.shDiff else 0,
    q.emask * 65536 + (match q.faultCl with | some c => 16 + c | none => 0),
    Nat.min q.nSteal 65535 * 65536 + Nat.min q.nInc 65535, 0, 0].flatMap (toLE 4)) ++
  courseBytes ((q.inc.map (·.course)).getD [])

/-- The record is written once in a period, SR_SEQ0 first and SR_SEQ1 last; the step holds all of it. -/
def execResultRecordWrite (p : Slot) (s : State) : Out :=
  let q := s.prob p
  if s.live .srch && q.recDue && !q.recDone then
    let a := slotBase p
    let s := s.setWord (a + 0x1080) q.launchCount
    let s := s.setBytes (a + 0x1084) (recordBytes q)
    let s := s.setWord (a + 0x1120) q.launchCount
    .next ((s.setProb p { q with recDone := true }).fire (0x10 + p))
  else .next s

end Sys2Proof.Machine
end

