-- ==== Sys2Proof/Machine/Capture.lean ====
section
/-!
DEFINITION. Capture: the snapshot of a period (R224 to R226), the record and its coding (R227 to R232), the ring (R233, R234),
triggers and freezing (R236 to R238).
-/
namespace Sys2Proof.Machine

def ringBase : Nat := 0x0280000000
def ringSize : Nat := 2 ^ 31
/-- The largest record (R234). -/
def recMax : Nat := 9216
def pad64n (n : Nat) : Nat := ceilDiv n 64 * 64

/-! ## Snapshot -/

/-- The command words of a frame, by cell; a commit stands for the provisional frame it settles. -/
def Lane.frameWords (k : Lane) (f : DFrame) : List (Nat × Nat) :=
  let src := if f.kind = 0x13 then k.sent.find? fun g => g.kind == 0x11 && g.seq == f.pseq && g.prob == f.prob else some f
  match src with
  | some g => ((setBitsOf g.cmask 16).zip g.words).map fun w => (16 * g.hub + w.1, w.2)
  | none => []
/-- CMD of a cell (R225): of the settling frames that left in this period. -/
def State.sentCmds (s : State) : List (Nat × Nat) :=
  s.lanes.toList.flatMap fun k => (k.sent.filter fun f => settleKind f.kind && f.pcnt == s.rd perCount % 65536).flatMap k.frameWords

/-- HSTAT of R227. -/
def State.hubStat (s : State) (h : Nat) : Nat := lookD 0 s.cell.ncell h + 128 * b2n (s.cell.upNow.contains h)

/-- The words of a decision section. -/
def State.sectionWords (s : State) (p : Slot) : List Nat :=
  let a := slotBase p
  [s.word (a + 0x1084), s.word (a + 0x1088), s.word (a + 0x108C), s.word (a + 0x1090), s.word (a + 0x1094), s.word (a + 0x10A4)] ++
  ((List.range 24).map fun i => s.word (a + 0x10C0 + 4 * i)) ++ ((List.range 16).map fun i => s.word (a + 0x40 + 32 * i + 0x18))

/-- KMODE as it acts: 5 to 7 are treated as 0. -/
def kmodeOf (w : Nat) : Nat := if w ≤ 4 then w else 0

def State.takeSnap (s : State) : Snap :=
  let hubs := (List.range 64).filter fun h => if h < 32 then s.bit capHubLo h else s.bit capHubHi (h - 32)
  let cmds := s.sentCmds
  { pcnt := s.rd perCount, miss := s.fld perStatus 7 4, hubs, hstat := hubs.map s.hubStat,
    cells := hubs.map fun h => (List.range 16).map fun i =>
      let n := 16 * h + i
      (s.le (uplinkRec n) 2, s.le (uplinkRec n + 2) 2, s.le (uplinkRec n + 4) 2, (look cmds n).getD 0xF000),
    probs := (allSlots.filter fun p => (slotTable s p).enable).map fun p => (p.val, s.sectionWords p),
    trigs := s.cap.trigs, kmode := kmodeOf (s.fld capCtrl 6 4), raw := s.bit capCtrl 8 }

/-! ## Coding (R228 to R230) -/

def bitsLsb (n x : Nat) : List Bool := (List.range n).map fun i => x.testBit i
/-- A residual code. -/
def riceBits (m z : Nat) : List Bool :=
  let u := z / 2 ^ m
  if u < 16 then List.replicate u true ++ [false] ++ bitsLsb m z else List.replicate 16 true ++ bitsLsb 17 z
def zigzag (q : Int) : Nat := if 0 ≤ q then (2 * q).toNat else (-2 * q - 1).toNat
/-- The tolerance k of a KMODE. -/
def tolOf (kmode : Nat) : Nat := if kmode = 0 then 0 else 2 ^ (kmode - 1)
/-- The quantResd residual and the reconstruction of one value. -/
def quantRes (k : Nat) (lo hi pred x : Int) : Int × Int :=
  let r := x - pred
  let q := (r.natAbs + k) / (2 * k + 1)
  let q : Int := if r < 0 then -(q : Int) else q
  (q, clampTo lo hi (pred + q * (2 * k + 1)))
/-- The group's code and its bits: the g that gives the fewest, the lowest on a tie. -/
def groupBits (zs xs : List Nat) : Nat × List Bool :=
  let opt (g : Nat) : List Bool := if g = 14 then [] else if g = 15 then xs.flatMap (bitsLsb 16) else zs.flatMap (riceBits g)
  let gs := (List.range 16).filter fun g => g != 14 || zs.all (· == 0)
  gs.foldl (fun b g => let o := opt g; if o.length < b.2.length then (g, o) else b) (0, opt 0)
/-- One group: its bits and the reconstructed values (as 16-bit words). -/
def codeGroup (k : Nat) (signed : Bool) (pred xs : List Nat) : List Bool × List Nat :=
  let val (x : Nat) : Int := if signed then sgn 16 x else x
  let (lo, hi) : Int × Int := if signed then (-32768, 32767) else (0, 65535)
  let qs := xs.zipIdx.map fun x => quantRes k lo hi (val (pred.getD x.2 0)) (val x.1)
  let (g, body) := groupBits (qs.map fun q => zigzag q.1) xs
  (bitsLsb 4 g ++ body, if g = 15 then xs else qs.map fun q => wrapN 16 q.2)

abbrev Cell4 := Nat × Nat × Nat × Nat
/-- Field f of a cell: 0 VCAP, 1 ICELL, 2 TEMP, 3 CMD. -/
def field4 (f : Nat) (c : Cell4) : Nat := if f = 0 then c.1 else if f = 1 then c.2.1 else if f = 2 then c.2.2.1 else c.2.2.2
/-- The groups of one field, hub by hub. -/
def codeField (k f : Nat) (pred cells : List (List Cell4)) : List (List Bool × List Nat) :=
  cells.zipIdx.map fun h =>
    codeGroup (if f = 3 then 0 else k) (f == 1 || f == 2) ((pred.getD h.2 []).map (field4 f)) (h.1.map (field4 f))

/-- The cell section, and the cells as a reader reconstructs them. -/
def cellSection (x : Snap) (pred : List (List Cell4)) : List Byte × List (List Cell4) :=
  if x.raw then (x.cells.flatten.flatMap fun c => (List.range 4).flatMap fun f => toLE 2 (field4 f c), x.cells)
  else
    let fs := (List.range 4).map fun f => codeField (tolOf x.kmode) f pred x.cells
    let bs := fs.flatMap fun g => g.flatMap Prod.fst
    let val (f h i : Nat) : Nat := (((fs.getD f []).getD h ([], [])).2).getD i 0
    (packBits bs,
     (List.range x.cells.length).map fun h => (List.range 16).map fun i => (val 0 h i, val 1 h i, val 2 h i, val 3 h i))

def pad4 (bs : List Byte) : List Byte := bs ++ List.replicate ((4 - bs.length % 4) % 4) 0

/-- The record of R227 up to its CRC, with LEN. -/
def recordBody (x : Snap) (key gap : Bool) (sect : List Byte) : List Byte :=
  let hs := pad4 (byteRow x.hstat.length x.hstat)
  let ds := x.probs.flatMap fun p => p.2.flatMap (toLE 4)
  let cs := pad4 sect
  let len := 32 + hs.length + ds.length + cs.length + 4
  toLE 2 0x4352 ++ toLE 1 1 ++ toLE 1 (b2n key + 2 * b2n (x.trigs != 0) + 4 * b2n gap + 8 * b2n x.raw + 16 * x.kmode) ++
  toLE 4 len ++ toLE 4 x.pcnt ++ toLE 8 (sumN (x.hubs.map fun h => 2 ^ h)) ++
  toLE 1 (sumN (x.probs.map fun p => 2 ^ p.1) + 16 * x.miss) ++ toLE 3 0 ++ toLE 4 x.trigs ++ toLE 4 0 ++ hs ++ ds ++ cs

/-! ## The ring -/

def State.setCap (s : State) (c : Cap) : State := { s with cap := c }

/-- Offset of the record after the one at ofs: a wrap marker stands before the record at offset 0 (R234). -/
def State.nextRec (s : State) (ofs : Nat) : Nat :=
  if s.le (ringBase + ofs) 2 = 0x4357 then 0
  else
    let o := ofs + Nat.max 64 (pad64n (s.word (ringBase + ofs + 4)))
    if ringSize ≤ o ∨ o ≠ s.rd capWptr ∧ s.le (ringBase + o) 2 = 0x4357 then 0 else o
/-- CAP_OLDEST is advanced while its record lies in [lo, hi). -/
def State.advance (s : State) (lo hi : Nat) : Nat → State
  | 0 => s
  | n + 1 =>
    let o := s.rd capOldest
    if lo ≤ o ∧ o < hi then State.advance (s.wr capOldest (s.nextRec o)) lo hi n else s

/-- The capture record of the record store (R234, R238; its layout is log entry 25). -/
def State.writeCapRec (s : State) : State :=
  s.recWrite 5 [s.rd capWptr, s.rd capOldest, s.rd capLastkey, s.rd capTrigptr, s.rd capTrigpcnt, b2n s.cap.any]

/-- A record is dropped (R233). -/
def State.dropRecord (s : State) : State :=
  let s := s.setCap { s.cap with snap := none, wrote := 0, gap := true, dropped := true }
  (s.count capDropcnt 15 0).setBit capStatus 1 true

/-- The offset at which a record goes: at the end of the ring a wrap marker is written first. -/
def State.wrapRing (s : State) : State × Nat :=
  let o := s.rd capWptr
  if ringSize - o < recMax then
    let s := if s.cap.any && decide (o ≤ s.rd capOldest) then s.wr capOldest 0 else s
    ((s.store (ringBase + o) (toLE 64 0x4357)).wr capWptr 0, 0)
  else (s, o)

/-- Whether the next record is a key record (R232). -/
def State.isKey (s : State) (x : Snap) : Bool :=
  let c := s.cap
  let differs := match c.prev with
    | some y => y.hubs != x.hubs || y.kmode != x.kmode || y.raw != x.raw
    | none => true
  c.keyNext || c.dropped || x.raw || differs || decide (Nat.max 1 (s.fld capKeyint 15 0) ≤ c.sinceKey)
/-- The cell section of the next record, and the cells as a reader reconstructs them. -/
def State.nextSection (s : State) (x : Snap) : List Byte × List (List Cell4) :=
  cellSection x (if s.isKey x then [] else ((s.cap.prev.map (·.cells)).getD []))
/-- The next record in whole bursts. -/
def State.nextBytes (s : State) (x : Snap) : List Byte :=
  let bs := withCrc (recordBody x (s.isKey x) s.cap.gap (s.nextSection x).1)
  bs ++ List.replicate (pad64n bs.length - bs.length) 0
/-- A record is written (R232, R234, R236). -/
def State.writeRecord (s : State) (x : Snap) : State :=
  let c := s.cap
  let key := s.isKey x
  let recon := (s.nextSection x).2
  let bs := s.nextBytes x
  let (s, o) := s.wrapRing
  let s := if c.any then s.advance o (o + bs.length) (bs.length / 64 + 1) else s
  let s := s.store (ringBase + o) bs
  let w := o + bs.length
  let s := (s.wr capWptr (if ringSize ≤ w then 0 else w)).wr capReccnt (s.rd capReccnt + 1)
  let s := if c.any then s else s.wr capOldest o
  let s := if c.trigRec then (s.wr capTrigptr (2 ^ 31 + o)).wr capTrigpcnt x.pcnt else s
  let s := s.setCap { s.cap with snap := none, prev := some { x with cells := recon }, sinceKey := if key then 0 else c.sinceKey + 1,
                                 gap := false, dropped := false, keyNext := false, trigRec := false, any := true, wrote := 0 }
  if key then (s.wr capLastkey o).writeCapRec else s

/-- The bursts that the record in progress is written with, in order: a wrap marker first where it wraps (R234). -/
def State.recWrites (s : State) (x : Snap) : List Nat :=
  let o := s.rd capWptr
  if ringSize - o < recMax then (ringBase + o) :: burstsOf ringBase (s.nextBytes x).length
  else burstsOf (ringBase + o) (s.nextBytes x).length
/-- The controller withholds capture (R233, R249, R251, R258): an access of the record still to be made gets an error response, or its channel
retrains. -/
def State.capWithheld (s : State) (x : Snap) : Bool :=
  ((s.recWrites x).drop s.cap.wrote).any fun a => s.memDown a 64 || s.memWaits a
/-- A write burst has `edc` link CRC mismatches in a row; one whose retries are exhausted has its check bytes poisoned later (R253, R254). -/
def State.capLink (s : State) (a edc : Nat) : State :=
  let (s, gone) := s.memRetry (s.chanOf a) edc (s.retryLimit false)
  if gone then s.poisonLater a else s
/-- Write bursts go out one after another, up to the first whose channel retrains: how many have. -/
def State.capSend (s : State) : List (Nat × Nat) → State × Nat
  | [] => (s, 0)
  | (a, e) :: rest =>
    if s.memWaits a then (s, 0)
    else
      let (t, n) := State.capSend (s.capLink a e) rest
      (t, n + 1)
/-- The record in progress goes on: the bursts of this window's allotment are written (R257), `edcs` telling the link CRC mismatches in a row of
each; the others wait. With the last of them the record is complete in the ring (what the ring holds of it before is not modelled: log entry
115). It is dropped when capture is withheld. -/
def execCaptureRecord (withheld : Bool) (edcs : List Nat) (s : State) : Out :=
  match s.cap.snap with
  | some x =>
    if !s.live .cap then .next s
    else if withheld || s.capWithheld x then .next s.dropRecord
    else
      let all := s.recWrites x
      let now := ((all.drop s.cap.wrote).take s.capLeft).zipIdx.map fun a => (a.1, edcs.getD a.2 0)
      let (t, n) := s.capSend now
      let t := t.setMem { t.gmem with capUsed := t.gmem.capUsed + n }
      let w := s.cap.wrote + n
      .next (if w < all.length then t.setCap { t.cap with wrote := w } else t.writeRecord x)
  | none => .next s

/-- A pending RESUME acts at a snapshot that is taken: the ring thaws, the trigger is rearmed, and a trigger of the same period counts
from the key record that follows (R237, R240). -/
def State.thaw (s : State) : State :=
  let s := s.setFld capStatus 31 27 0
  s.setCap { s.cap with resume := false, keyNext := true, trigged := false, trigRec := false, post := 0, lost := 0 }
/-- The commit deadline (R224, R237): a record not complete is dropped, while CAP is gated too (R233); a pending RESUME acts; the snapshot is
taken. -/
def State.capSnapshot (s : State) : State :=
  let s := if s.cap.snap.isSome then s.dropRecord else s
  if !s.live .cap then s else
  let takes := s.bit capCtrl 0 && s.clk.power == .run
  let s := if s.cap.resume && takes then s.thaw else s
  if s.bit capStatus 31 then s
  else
    let c := s.cap
    let first := c.trigs != 0 && !c.trigged
    let s := if first then s.setBit capStatus 27 true else s
    let (trigged, post) := if first then (true, s.fld capPost 23 0) else (c.trigged, c.post)
    if !takes then
      s.setCap { c with trigs := 0, trigged, post, trigRec := c.trigRec || first }
    else if c.trigged && c.post == 0 then s.setCap { c with trigs := 0 }
    else s.setCap { c with snap := some s.takeSnap, snapped := true, trigs := 0, trigged, post := if first then post else post - 1,
                           trigRec := c.trigRec || first }
/-- A period ends: without a snapshot of it, the next record carries AFTERGAP when the ring has had one before (R227); the triggers that fired in
it while frozen are gone (R240). -/
def State.capMark (s : State) : State :=
  s.setCap { s.cap with snapped := false, lost := 0, gap := s.cap.gap || (s.cap.any && !s.cap.snapped) }

/-! ## Triggers and commands -/

/-- A trigger source occurs (R236). -/
def execCaptureTrigger (src : Fin 6) (s : State) : Out := .next (s.capTrig src)
def execTrig (s : State) : Out := .next ((s.did [12]).capTrig 0)

/-- The ring freezes with a cause (R237): a record in progress is not written. -/
def State.freezeRing (s : State) (cause : Nat) : State :=
  let s := (s.setFld capStatus 31 27 (16 + 2 * cause))
  let s := s.setCap { s.cap with snap := none, wrote := 0, trigs := 0, resume := false }
  (s.writeCapRec).fire 0x1A
def State.capFreeze (s : State) : State :=
  if s.bit capStatus 31 then s.setCap { s.cap with resume := false, trigs := 0 } else s.freezeRing 2
def execFreeze (s : State) : Out := if s.live .cap then .next (s.did [13]).capFreeze else .next s
/-- RESUME: triggers that have fired in this period count as the resumed record's (R240). -/
def State.capResume (s : State) : State :=
  if s.bit capStatus 31 then s.setCap { s.cap with resume := true, trigs := s.cap.trigs ||| s.cap.lost, lost := 0 } else s
def execCaptureResume (s : State) : Out := if s.live .cap then .next s.capResume else .next s
def State.capClear (s : State) : State :=
  if s.bit capStatus 31 then
    let s := ((s.wr capOldest (s.rd capWptr)).wr capTrigptr 0).wr capTrigpcnt 0
    s.setCap { s.cap with any := false }
  else s
def execClear (s : State) : Out := if s.live .cap then .next s.capClear else .next s

/-- The count of R237 has run out and its last record is in the ring, or dropped. -/
def execPostTriggerEnd (s : State) : Out :=
  if s.live .cap && s.cap.trigged && s.cap.post == 0 && s.cap.snap.isNone && !s.bit capStatus 31 then
    .next (s.freezeRing 1)
  else .next s

/-! ## After a reset (R238) -/

/-- The unit after a reset that reaches it: frozen and restored when GDDR6 was retained, else empty. -/
def State.capRestart (s : State) (retained : Bool) : State :=
  let s := s.setCap {}
  if retained then
    let ws := recRead s 5 5
    let s := ((s.wr capWptr (ws.getD 0 0)).wr capOldest (ws.getD 1 0)).wr capLastkey (ws.getD 2 0)
    let s := ((s.wr capTrigptr (ws.getD 3 0)).wr capTrigpcnt (ws.getD 4 0)).setFld capStatus 31 27 (16 + 2 * 3)
    s.setCap { s.cap with any := ws.getD 5 0 != 0, scan := true }
  else s

/-- Where the scan forward from the stored CAP_WPTR ends, the bursts read, and the word at which an uncorrectable error stops it. -/
structure ScanEnd where
  ofs : Nat
  bursts : Nat
  ue : Option Nat
deriving DecidableEq, Repr
/-- The scan from offset ofs, after `bursts` bursts and a record of period `last`. -/
def State.scanRing (s : State) : Nat → Nat → Nat → Nat → ScanEnd
  | 0, ofs, _, bursts => { ofs, bursts, ue := none }
  | n + 1, ofs, last, bursts =>
    let ofs' := if s.le (ringBase + ofs) 2 = 0x4357 then 0 else ofs
    let len := Nat.min (s.word (ringBase + ofs' + 4)) recMax
    let pc := s.word (ringBase + ofs' + 8)
    let read := bursts + Nat.max 1 (ceilDiv len 64)
    match (s.firstFlaw (ringBase + ofs) 64).orElse fun _ => (s.firstFlaw (ringBase + ofs') 64).orElse fun _ => s.firstFlaw (ringBase + ofs') len with
    | some u => { ofs, bursts := read, ue := some u }
    | none =>
      if !s.memDown (ringBase + ofs') (Nat.max 64 len) ∧ s.le (ringBase + ofs') 2 = 0x4352 ∧ 36 ≤ len ∧ s.word (ringBase + ofs' + 4) = len ∧
          crcOk (s.bytes (ringBase + ofs') len) ∧ last < pc then
        State.scanRing s n (s.nextRec ofs') pc read
      else { ofs, bursts := read, ue := none }
/-- The scan reads in class 2, as far as the allotment of the window goes (R257): it waits for READY and for a channel that retrains, and ends
at the first read that gets an error response or the first bad record (R238, R247, R251, R258). -/
def execRingScan (met : Met) (s : State) : Out :=
  if s.live .cap && s.cap.scan && s.memReady && !s.anyRetrain && decide (0 < s.capLeft) then
    let (s, lost) := s.meetReads ringBase (ringBase + ringSize) met
    let last := s.word (ringBase + s.rd capLastkey + 8)
    let e := (s.without lost).scanRing (Nat.max 1 (s.fld capKeyint 15 0)) (s.rd capWptr) last 0
    let n := Nat.min s.capLeft (e.bursts - s.cap.scanned)
    let t := s.setMem { s.gmem with capUsed := s.gmem.capUsed + n }
    if s.cap.scanned + n < e.bursts then .next (t.setCap { t.cap with scanned := s.cap.scanned + n })
    else
      let t := match e.ue with
        | some u => if lost.contains (u / 64 * 64) then t else t.memUe u false
        | none => t
      .next ((t.wr capWptr e.ofs).setCap { t.cap with scan := false, scanned := 0, any := t.cap.any || e.ofs != s.rd capWptr })
  else .next s

end Sys2Proof.Machine
end

