-- ==== Sys2Proof/Machine/Flags.lean ====
section
/-!
DEFINITION. Arithmetic of the Helm cores: the ALU group (R353), saturation, division (R354), products and the MP registers (R352,
R357), MFMP (R355). A Helm core has no flags register; Z and N of the micro-engine (R381) are computed from a result here.
-/
namespace Sys2Proof.Machine

/-- An integer saturated to −2^(w−1) to 2^(w−1) − 1. -/
def satI (w : Nat) (x : Int) : Int := max (-(2 ^ (w - 1) : Int)) (min x (2 ^ (w - 1) - 1))
def satWord (x : Int) : Word := BitVec.ofInt 32 (satI 32 x)
def ofBool (b : Bool) : Word := if b then 1 else 0
/-- The shift amount of a register shift: bits 4:0 (R353). -/
def shAmt (b : Word) : Nat := b.toNat % 32
/-- Leading zero bits, 0 to 32. -/
def leadZeros (a : Word) : Word := BitVec.ofNat 32 (if a = 0 then 32 else 31 - a.toNat.log2)
/-- |a|, with −2^31 giving 2^31 − 1. -/
def absSat (a : Word) : Word := satWord (if a.toInt < 0 then -a.toInt else a.toInt)

/-- The function fn of the ALU group (R353); fn above 0x11 is no function. -/
def alu (fn : Nat) (a b : Word) : Word :=
  match fn with
  | 0x00 => a + b
  | 0x01 => a - b
  | 0x02 => a &&& b
  | 0x03 => a ||| b
  | 0x04 => a ^^^ b
  | 0x05 => a <<< shAmt b
  | 0x06 => a >>> shAmt b
  | 0x07 => a.sshiftRight (shAmt b)
  | 0x08 => ofBool (a.slt b)
  | 0x09 => ofBool (a.ult b)
  | 0x0A => if a.slt b then a else b
  | 0x0B => if a.slt b then b else a
  | 0x0C => if a.ult b then a else b
  | 0x0D => if a.ult b then b else a
  | 0x0E => satWord (a.toInt + b.toInt)
  | 0x0F => satWord (a.toInt - b.toInt)
  | 0x10 => leadZeros a
  | _ => absSat a
/-- SHI: k 0 SLL, 1 SRL, 2 SRA, 3 ROR (R352). -/
def shiftImm (k : Fin 4) (n : Nat) (a : Word) : Word :=
  if k = 0 then a <<< n else if k = 1 then a >>> n else if k = 2 then a.sshiftRight n else a.rotateRight n

/-- DIV, DIVU, REM and REMU (R354). -/
def divS (a b : Word) : Word := if b = 0 then 0xFFFFFFFF else BitVec.ofInt 32 (a.toInt.tdiv b.toInt)
def divU (a b : Word) : Word := if b = 0 then 0xFFFFFFFF else a / b
def remS (a b : Word) : Word := if b = 0 then a else BitVec.ofInt 32 (a.toInt.tmod b.toInt)
def remU (a b : Word) : Word := if b = 0 then a else a % b

/-- The signed and the unsigned product, as 64 bits. -/
def prodS (a b : Word) : BitVec 64 := BitVec.ofInt 64 (a.toInt * b.toInt)
def prodU (a b : Word) : BitVec 64 := BitVec.ofNat 64 (a.toNat * b.toNat)
/-- What an MP writer of function fn writes over the old value (R352): 0 MUL, 1 MULU, 2 MAC, 3 MACU, 4 MSU, 5 MACS, 6 MTMP, 7 MTMP2. -/
def mpValue (old : BitVec 64) (fn : Nat) (a b : Word) : BitVec 64 :=
  match fn with
  | 0 => prodS a b
  | 1 => prodU a b
  | 2 => old + prodS a b
  | 3 => old + prodU a b
  | 4 => old - prodS a b
  | 5 => BitVec.ofInt 64 (satI 64 (old.toInt + a.toInt * b.toInt))
  | 6 => a.signExtend 64
  | _ => BitVec.ofNat 64 (b.toNat * 2 ^ 32 + a.toNat)
/-- MFMP (R355). -/
def mfmpValue (v : BitVec 64) (sh : Nat) (rnd sat : Bool) : Word :=
  let x : Int := if rnd && decide (0 < sh) then min (v.toInt + 2 ^ (sh - 1)) (2 ^ 63 - 1) else v.toInt
  let t := floorSh x sh
  if sat then satWord t else BitVec.ofInt 32 t

end Sys2Proof.Machine
end

