-- ==== Sys2Proof/Machine/Operands.lean ====
section
/-!
DEFINITION. Operand forms of the Helm cores: general registers (R341), immediates and offsets (R350, R352), effective addresses
and segments (R344), special registers (R343), selected registers of CALL and RET (R359), and the core's own clock (R343, R352).
-/
namespace Sys2Proof.Machine

/-! ## Registers and immediates -/

/-- w0 reads as zero, and writes to it are discarded. -/
def Core.r (k : Core) (i : RegN) : Word := if i = 0 then 0 else k.w[i]
def Core.setR (k : Core) (i : RegN) (v : Word) : Core := if i = 0 then k else { k with w := k.w.set i v }
def sext16 (i : BitVec 16) : Word := i.signExtend 32
def zext16 (i : BitVec 16) : Word := i.zeroExtend 32
/-- PC + 4 × off. -/
def Core.target16 (k : Core) (off : BitVec 16) : Word := k.pc + (sext16 off <<< 2)
def Core.target26 (k : Core) (off : BitVec 26) : Word := k.pc + ((off.signExtend 32 : Word) <<< 2)
def Core.next (k : Core) : Core := { k with pc := k.pc + 4 }
def Core.goto (k : Core) (a : Word) : Core := { k with pc := a }
/-- The registers that a mask of CALL or RET selects, ascending. -/
def maskRegs (mask : BitVec 10) : List RegN := (setBitsOf mask.toNat 10).map fun k => toFin 32 (22 + k)

/-! ## Addresses -/

/-- The EA lies in segment 0. -/
def isLocal (ea : Word) : Bool := decide (ea.toNat < 2 ^ 28)
/-- Beyond the two local SRAMs. -/
def localHole (ea : Word) : Bool := isLocal ea && decide (0x20000 ≤ ea.toNat)
/-- The 40-bit address of a non-local EA. -/
def Core.segAddr (k : Core) (ea : Word) : Nat := 2 ^ 28 * (k.seg[toFin 16 (ea.toNat / 2 ^ 28)].toNat % 4096) + ea.toNat % 2 ^ 28
/-- Base of a core's own local memories: instruction SRAM, then data SRAM (R24, R339). -/
def localBase (n : CoreN) : Nat := if n.val < 8 then 0x3000000000 + n * 0x20000 else if n.val = 8 then 0x10100000000 else 0x10100100000
/-- Fetch sources (R339): the core's own instruction SRAM; on the Binnacle cores also the flash array. -/
def Core.fetchable (n : CoreN) (k : Core) : Bool :=
  let a := k.segAddr k.pc
  k.pc.toNat % 4 == 0 &&
  (decide (k.pc.toNat < 0x10000) || decide (8 ≤ n.val) && !isLocal k.pc && decide (0x5010000000 ≤ a ∧ a < 0x5010400000))
/-- The requester that a core is (R25, R29). -/
def coreReq (n : CoreN) : Requester := if h : n.val < 8 then .core ⟨n.val, h⟩ else if n.val = 8 then .mgmt else .island

/-! ## STATUS and the clock -/

def Core.inten (k : Core) : Bool := k.status.getLsbD 0
def Core.hdl (k : Core) : Bool := k.status.getLsbD 3
def statusOf (inten hdl : Bool) : Word := ofBool inten ||| (ofBool hdl <<< 3)
/-- c cycles pass: CYCLE advances, and line 16 is raised when CYCLEL meets TCMP in one of them (R343, R366). -/
def Core.tick (k : Core) (c : Nat) : Core :=
  let d := (k.tcmp - k.cycle.setWidth 32).toNat
  let d := if d = 0 then 2 ^ 32 else d
  { k with cycle := k.cycle + BitVec.ofNat 64 c, ipend := if d ≤ c then k.ipend ||| 0x10000 else k.ipend }
/-- Lines pending and enabled, and the lowest of them (R367). -/
def Core.due (k : Core) : Word := k.ipend &&& k.imask
def Core.lowestDue (k : Core) : Nat := ((List.range 18).find? fun i => k.due.getLsbD i).getD 0

/-! ## MP writes in flight (R356 to R358) -/

def Core.landOne (k : Core) (x : MpWrite) : Core := { k with mp := k.mp.set x.m (mpValue k.mp[x.m] x.fn x.a x.b) }
/-- Cycles since an MP write was issued. -/
def Core.age (k : Core) (x : MpWrite) : Nat := (k.cycle - BitVec.ofNat 64 x.issued).toNat
/-- The writes issued four cycles ago or earlier have landed. -/
def Core.landDue (k : Core) : Core :=
  let done := k.flight.filter fun x => decide (4 ≤ k.age x)
  { done.foldl Core.landOne k with flight := k.flight.filter fun x => !decide (4 ≤ k.age x) }
/-- The core waits until every issued MP write has landed. -/
def Core.landAll (k : Core) : Core :=
  let wait := k.flight.foldl (fun w x => Nat.max w (4 - k.age x)) 0
  { k.flight.foldl Core.landOne (k.tick wait) with flight := [] }
def Core.mpIssue (k : Core) (m : Fin 4) (fn : Nat) (a b : Word) (micro : Bool := false) : Core :=
  { k with flight := k.flight ++ [{ issued := k.cycle.toNat, m, fn, a, b, micro }] }
/-- c cycles in which no microword is executed do not count for the writes of the custom instruction that runs (R384). -/
def Core.microDelay (k : Core) (c : Nat) : Core :=
  { k with flight := k.flight.map fun x => if x.micro then { x with issued := x.issued + c } else x }
/-- The custom instruction is over: from here the cycles of the core count (R356). -/
def Core.microOver (k : Core) : Core := { k with flight := k.flight.map fun x => { x with micro := false } }

/-! ## Outputs of the lockstep pair (R371 to R373) -/

/-- Core A of the pair, the core of number 9, puts out o; outputs of more than two cycles ago have been compared. -/
def Core.puts (n : CoreN) (k : Core) (o : LsOut) : Core :=
  if n.val = 9 then { k with outs := (k.outs.filter fun x => decide (k.cycle.toNat ≤ x.1 + 2)) ++ [(k.cycle.toNat, o)] } else k
/-- LSSTAT after a forced mismatch: TESTDONE, and TESTHIT when the comparator saw it. -/
def lsstatOf (hit : Bool) : Word := 1 ||| (ofBool hit <<< 1)
/-- Core B's store comes to the comparator: a forced mismatch is recorded (R373). -/
def Core.lsStore (k : Core) : Core := match k.lsArm with
  | some hit => { k with lsstat := lsstatOf hit, lsArm := none }
  | none => k
/-- A store by core n goes out. -/
def Core.putsStore (n : CoreN) (k : Core) (ea v : Word) (size : Nat) : Core := Core.lsStore (k.puts n (.store ea v size))

/-! ## Special registers (R343) -/

/-- A read of a special register; none for an index not in the table, or one of the island's on another core. -/
def Core.readSpecial (n : CoreN) (k : Core) (idx : Nat) : Option (Word × Core) :=
  match idx with
  | 0x00 => some (k.status, k)
  | 0x01 => some (k.epc, k)
  | 0x02 => some (k.ecause, k)
  | 0x03 => some (k.eval, k)
  | 0x04 => some (k.evec, k)
  | 0x05 => some (k.imask, k)
  | 0x06 => some (k.ipend, k)
  | 0x07 => some (BitVec.ofNat 32 n.val, k)
  | 0x08 => some (k.cycle.setWidth 32, { k with cycleH := (k.cycle >>> 32).setWidth 32 })
  | 0x09 => some (k.cycleH, k)
  | 0x0A => some (k.tcmp, k)
  | 0x0B => some (k.scratch, k)
  | 0x20 => if n.val = 9 then some (k.lsstat, k) else none
  | 0x21 => if n.val = 9 then some (0, k) else none
  | i => if 0x10 ≤ i ∧ i ≤ 0x1F then some (k.seg[toFin 16 (i - 0x10)], k) else none
/-- A write of a special register other than LSTEST; none for an index not in the table or a register that is RO. -/
def Core.writeSpecial (k : Core) (idx : Nat) (v : Word) : Option Core :=
  match idx with
  | 0x00 => some { k with status := v &&& 9 }
  | 0x01 => some { k with epc := v &&& 0xFFFFFFFD }
  | 0x04 => some { k with evec := v &&& 0xFFFFFF80 }
  | 0x05 => some { k with imask := v &&& 0x3FFFF }
  | 0x06 => some { k with ipend := k.ipend &&& ~~~v }
  | 0x0A => some { k with tcmp := v }
  | 0x0B => some { k with scratch := v }
  | i => if 0x11 ≤ i ∧ i ≤ 0x1F then some { k with seg := k.seg.set (toFin 16 (i - 0x10)) (v &&& 0xFFF) } else none

/-! ## Words of instructions whose operands can be illegal, for EVAL (R350, R362) -/

def mfsWord (rd : RegN) (idx : Nat) : Word := BitVec.ofNat 32 (0x20 * 2 ^ 26 + rd.val * 2 ^ 21 + idx)
def mtsWord (ra : RegN) (idx : Nat) : Word := BitVec.ofNat 32 (0x21 * 2 ^ 26 + ra.val * 2 ^ 16 + idx)
def mfmpWord (rd : RegN) (m : Fin 4) (sh : Nat) (rnd sat : Bool) : Word :=
  BitVec.ofNat 32 (0x1D * 2 ^ 26 + rd.val * 2 ^ 21 + m.val * 2 ^ 16 + sh + 64 * b2n rnd + 128 * b2n sat)

end Sys2Proof.Machine
end

