-- ==== Sys2Proof/Machine/Island.lean ====
section
/-!
DEFINITION. The safety island: safe state, SS1-t and release (R265 to R273), notices and their timing (R274, R275), the coarse-model
checks (R276 to R279), overcurrent (R281), misses and fault rate (R283), the duplex pair (R284), latent faults (R286).
-/
namespace Sys2Proof.Machine

def State.setSaf (s : State) (f : Saf) : State := { s with saf := f }
/-- The island acts: no island fault has stopped it (R272), and in Dormant the pair is halted in retention (R460). -/
def State.islandOn (s : State) : Bool := !s.saf.islandFault && s.clk.power != .dormant

/-! ## Requests and release (R269 to R271) -/

/-- SS1-t starts (R270); it has no effect in the safe state or while it runs (R289). -/
def State.ss1Start (s : State) : State :=
  if s.safe || s.bit safStatus 30 || !s.islandOn then s else (s.setBit safStatus 30 true).toBridge 0x28

/-- A recognised low of SAFEIN. In the safe state its condition lasts to its end and cancels a pending release, and it latches no cause anew,
so that the edge of R271 can be a release source (log entry 103). -/
def State.safeinLow (s : State) : State :=
  if s.bit safCfg 29 then s.ss1Start
  else if s.safe then s.setSaf { s.saf with active := s.saf.active ||| 1, relPending := false }
  else s.holdCause 0 0 0
/-- A low of `lowNs` so far: below 2 µs it is ignored, from 3 µs it is recognised, between the two the manual leaves it open. -/
def execSafeinRequest (lowNs : Nat) (s : State) : Out :=
  if !s.islandOn || !s.bit safCfg 28 || lowNs < 2000 then .next s
  else if 3000 ≤ lowNs then .next s.safeinLow
  else
    let (b, s) := s.freeBit
    .next (if b then s.safeinLow else s)

/-- A rising edge of SAFEIN after a low of `lowMs`: the cause is no longer active, and the edge is the release source when RELOK is 1. -/
def execSafeinReleaseEdge (lowMs : Nat) (s : State) : Out :=
  let s := s.endCause 0
  let act := s.islandOn && s.bit safCfg 28 && !s.bit safCfg 30 && decide (10 ≤ lowMs) && s.safe && s.relOk
  .next (if act then s.setSaf { s.saf with relPending := true } else s)

def execSs1Timeout (s : State) : Out :=
  if s.islandOn && s.bit safStatus 30 then .next (s.raiseCause 2 0 0) else .next s
def State.stoReq (s : State) : State := if s.islandOn then s.raiseCause 1 0 0 else s
def execStoreq (s : State) : Out := .next s.stoReq
def execSs1req (s : State) : Out := .next s.ss1Start
/-- A write of SAF_CTRL.RELEASE while RELOK is 1, RELSRC 1 and the safe state held; otherwise it is not kept (R289). -/
def State.relReq (s : State) : State :=
  if s.islandOn && s.bit safCfg 30 && s.safe && s.relOk then s.setSaf { s.saf with relPending := true } else s
def execRelease (s : State) : Out := .next s.relReq
/-- The release takes effect at a period mark (R271, R273). -/
def State.releaseAtMark (s : State) : State :=
  if s.safe && s.saf.relPending && s.relOk && s.saf.selftest then
    let s := s.setBit safStatus 31 false
    { s.setSaf { s.saf with relPending := false } with cell := { s.cell with stopFrames := false } }
  else s

/-! ## Outputs and the pair of cores (R267, R268, R272, R273) -/

/-- The keep-alive stops: every SAFE output de-energises (R267). -/
def execKeepaliveStop (s : State) : Out := .next (s.setSaf { s.saf with keepalive := false })
/-- The next step of the test of output o (R268): outside the safe state, one output at a time. -/
def execOutputTest (o : Fin 4) (step : Fin 5) (s : State) : Out :=
  if !s.islandOn || s.safe || s.saf.test != (if step = 0 then none else some (o, step.val - 1)) then .next s
  else .next (s.setSaf { s.saf with test := if step = 4 then none else some (o, step.val) })
/-- Output o, read back at a level for `ns`, is in fault (R268): low with both switches closed, outside its test or for more than 1 µs; or
high for more than 1 µs with a switch open. -/
def State.outputBad (s : State) (o : Fin 4) (high : Bool) (ns : Nat) : Bool :=
  let closed := s.switch1 o && s.switch2 o
  let inTest := match s.saf.test with
    | some x => x.1 == o
    | none => false
  if high then !closed && decide (1000 < ns) else closed && (!inTest || decide (1000 < ns))
/-- The readback of an output: a fault lasts until a readback agrees with the switches again (log entry 103). -/
def execOutputFault (o : Fin 4) (high : Bool) (ns : Nat) (s : State) : Out :=
  let s := s.setSaf { s.saf with readback := s.saf.readback.set o (if s.safePin o = high then none else some high) }
  if !s.islandOn then .next s
  else if s.outputBad o high ns then .next (State.holdCause (s.setSaf { s.saf with outBad := s.saf.outBad ||| 2 ^ o.val }) 17 0 o)
  else
    let bad := s.saf.outBad &&& (0xF ^^^ 2 ^ o.val)
    let s := s.setSaf { s.saf with outBad := bad }
    .next (if bad = 0 then s.endCause 17 else s)
/-- The comparator sees b as core B's output where core A's i-th output of the last two cycles is due: a difference is an island fault
(R272, R372). -/
def execLockstepMismatch (i : Nat) (b : LsOut) (s : State) : Out :=
  .next (if s.islandOn && ((s.core 9).outs.map (·.2))[i]? != some b then s.islandFault else s)
/-- The start-up self-test completes; a forced mismatch that the comparator did not see fails it (R273, R373). -/
def execIslandSelftest (ok : Bool) (s : State) : Out := .next (s.setSaf { s.saf with selftest := ok && (s.core 9).lsstat != lsstatOf false })
/-- A write of SAF_WDOG (R273). -/
def State.wdogWrite (s : State) (key : Nat) : State := if s.islandOn && key != 0xA5C3 then s.islandFault else s
def execWatchdogService (key : Word) (s : State) : Out := .next (s.wdogWrite key.toNat)
def execWatchdogTimeout (s : State) : Out := if s.islandOn && s.saf.wdogRun then .next s.islandFault else .next s

/-! ## Notices -/

/-- A notice arrives: it is no longer on the bridge. -/
def State.takeNotice (s : State) : State := { s with notices := s.notices.drop 1 }
def lowSlot (m : Nat) : Nat := ((List.range 4).find? fun p => m.testBit p).getD 0

/-- A mark notice (R274, R275, R283): a slot without report or miss notice in the previous period is cause REPTO; the run of misses of a slot
whose period ended in none is over. -/
def execMarkNotice (bytes : List Byte) (s : State) : Out :=
  let s := s.takeNotice
  if !s.islandOn || !crcOk bytes || byteAt bytes 0 != 1 || bytes.length != 14 then .next s
  else
    let lack := s.saf.enmask &&& (0xF ^^^ (s.saf.got % 16))
    let s := if s.saf.pcnt.isSome && lack != 0 then s.raiseCause 15 (lowSlot lack) 0 else s
    let s := s.setSaf { s.saf with pcnt := some (leAt bytes 1 4), enmask := byteAt bytes 9 % 16, got := 0, armed := true, missed := 0,
                                   misses := Vector.ofFn fun p : Slot => if s.saf.missed.testBit p then s.saf.misses[p] else 0 }
    .next s
/-- No mark notice within 1.25 × LEN + 2 µs (R275). -/
def execReportTimeout (s : State) : Out :=
  if s.islandOn && s.saf.armed then .next ((s.setSaf { s.saf with armed := false }).raiseCause 15 0 0) else .next s

/-- A notice of a slot counts when its CRC holds and its PCNT is that of the latest mark notice (R274). -/
def State.noticeOk (s : State) (bs : List Byte) (typ len pcntAt : Nat) : Bool :=
  s.islandOn && crcOk bs && byteAt bs 0 == typ && bs.length == len + 4 && s.saf.pcnt == some (leAt bs pcntAt 4)

/-- Causes found together, as (cause, unit): all are set, and SAF_LASTFLT keeps the lowest (R289). -/
def State.raiseAll (s : State) (p : Nat) (cs : List (Nat × Nat)) : State :=
  [14, 13, 5, 4, 3].foldl (fun (s : State) k => match cs.find? fun c => c.1 == k with
    | some c => s.raiseCause c.1 p c.2
    | none => s) s
/-- A miss notice (R283). -/
def execMissNotice (bytes : List Byte) (s : State) : Out :=
  let s := s.takeNotice
  if !s.noticeOk bytes 3 7 2 then .next s
  else
    let p : Slot := toFin 4 (byteAt bytes 1)
    let n := s.saf.misses[p] + 1
    let s := s.count safDpfcnt 31 16
    let s := s.setSaf { s.saf with got := s.saf.got ||| 2 ^ p.val, misses := s.saf.misses.set p n,
                                   missed := s.saf.missed ||| 2 ^ p.val }
    let dpf := byteAt bytes 6 == 3
    let s := if dpf then (s.count safDpfcnt 15 0).setSaf { s.saf with window := s.saf.window + 1 } else s
    let mx := s.fld safCfg 23 20
    let mx := if 1 ≤ mx ∧ mx ≤ 3 then mx else 3
    let many := dpf && decide (s.fld safCfg 19 16 < s.saf.window)
    .next (s.raiseAll p ((if many then [(13, 0)] else []) ++ (if n = mx then [(14, 0)] else [])))
/-- A window of 1 s of the fault count ends (R283). -/
def execDpfWindow (s : State) : Out := .next (s.setSaf { s.saf with window := 0 })

/-! ## The coarse-model checks -/

/-- A decision report as the island reads it. -/
structure Report where
  p : Slot
  pcnt : Nat
  srStat : Nat
  nu : Nat
  arm : List Nat
  u : List Nat
  uk : List Nat
  nx : Nat
  x : List Int
deriving DecidableEq, Repr

def readReport (bs : List Byte) : Report :=
  let row (o : Nat) (m : Nat) := (List.range 8).map fun j => byteAt bs (o + j) % m
  { p := toFin 4 (byteAt bs 1), pcnt := leAt bs 2 4, srStat := leAt bs 6 4, nu := byteAt bs 10 % 16, arm := row 11 64,
    u := row 19 128, uk := row 27 128, nx := byteAt bs 35 % 32, x := (List.range 16).map fun i => sgn 32 (leAt bs (36 + 4 * i) 4) }

/-- R276: every dimension below NU is within its limits. -/
def State.plausible (s : State) (r : Report) : Bool :=
  (List.range (Nat.min r.nu 8)).all fun j =>
    let l := s.rd (safLim r.p j)
    let u := r.u.getD j 0
    l.testBit 31 && bits l 29 24 == r.arm.getD j 0 && decide (bits l 6 0 ≤ u ∧ u ≤ bits l 14 8) &&
    decide (dist u (r.uk.getD j 0) ≤ bits l 22 16)

/-- B[j] of a quantity. -/
def State.coefB (s : State) (m j : Nat) : Int := let w := s.rd (safYb m (j / 2)); sgn 16 (if j % 2 = 0 then w else w >>> 16)
/-- One step of the first-order model (R278). -/
def State.coarse (s : State) (m : Nat) (y : Int) (u : List Nat) : Int :=
  let w := s.rd (safYmod m)
  floorSh (sgn 16 (w >>> 16) * y) 15 + ((List.range 8).map fun j => s.coefB m j * (u.getD j 0 : Int)).foldl (· + ·) 0 + sgn 16 w

/-- R279: the prediction kept in the period before differs from the measurement by more than OTOL. -/
def outcomeBad (kept : Option (Nat × Int)) (pcnt : Nat) (y : Int) (otol : Nat) : Bool :=
  match kept with
  | some (pc, v) => decide ((pc + 1) % 2 ^ 32 = pcnt ∧ (y - v).natAbs > otol)
  | none => false

/-- The checks of R277 to R279 for quantity m: the causes found, and the state with y1 kept. A report that was on the bridge over a mark is
checked with the sample of its own period. -/
def State.checkQuantity (s : State) (r : Report) (uPrev : List Nat) (m : Fin 4) : List (Nat × Nat) × State :=
  let cfg := s.rd (safYcfg m)
  if !cfg.testBit 31 || bits cfg 29 28 != r.p.val then ([], s)
  else
    let (y, s) : Int × State := match (if r.pcnt = s.rd perCount then s.saf.yMark[m] else s.saf.yPrev[m]) with
      | some y => (y, s)
      | none => let (w, s) := s.freeWord; (sgn 16 w.toNat, s)
    let tol := s.rd (safYtol m)
    let c := floorSh (r.x.getD (bits cfg 19 16) 0 * (bits cfg 15 0 : Int)) 16
    let fix := !r.srStat.testBit 13 && decide ((c - y).natAbs > bits tol 15 0)
    let y1 := s.coarse m y uPrev
    let y2 := s.coarse m y1 r.u
    let plaus := decide (y2.natAbs > s.fld (safYlim m) 15 0)
    let outc := outcomeBad s.saf.y1[m] r.pcnt y (bits tol 31 16)
    let s := s.setSaf { s.saf with y1 := s.saf.y1.set m (some (r.pcnt, y1)) }
    ((if plaus then [(3, m.val)] else []) ++ (if fix then [(4, m.val)] else []) ++ (if outc then [(5, m.val)] else []), s)

/-- A decision report (R276 to R280): the run of misses ends, and the leg is checked. -/
def execDecisionReport (bytes : List Byte) (s : State) : Out :=
  let s := s.takeNotice
  if !s.noticeOk bytes 2 100 2 then .next s
  else
    let r := readReport bytes
    let s := s.setSaf { s.saf with got := s.saf.got ||| 2 ^ r.p.val, misses := s.saf.misses.set r.p 0 }
    let uPrev := match s.saf.lastU[r.p] with
      | some (pc, u) => if (pc + 1) % 2 ^ 32 = r.pcnt then u else r.uk
      | none => r.uk
    let first : List (Nat × Nat) := if s.plausible r then [] else [(3, 0)]
    let (cs, s) := (List.finRange 4).foldl (fun (a : List (Nat × Nat) × State) m =>
      let (c, s) := a.2.checkQuantity r uPrev m
      (a.1 ++ c, s)) (first, s)
    let s := s.setSaf { s.saf with lastU := s.saf.lastU.set r.p (some (r.pcnt, r.u)) }
    .next (s.raiseAll r.p cs)

/-! ## Overcurrent (R281) -/

/-- A reading of the sensor (ch, sel): it becomes the sample of every enabled quantity it measures, and is compared with OCLIM. The first
whose conversion started at or after the mark (`atMark`) is y_meas of R277. -/
def State.safSample (s : State) (ch sel : Nat) (y : Nat) (atMark : Bool) : State :=
  s.each (List.finRange 4) fun (s : State) m =>
    let cfg := s.rd (safYcfg m)
    if !s.islandOn || !cfg.testBit 31 || bits cfg 24 24 != ch || bits cfg 21 20 != sel then s
    else
      let v := sgn 16 y
      let s := s.wr (safYmeas m) (2 ^ 31 + y % 65536)
      let s := if atMark && s.saf.yMark[m].isNone then s.setSaf { s.saf with yMark := s.saf.yMark.set m (some v) } else s
      if v.natAbs > s.fld (safYlim m) 31 16 then
        let s := s.setSaf { s.saf with oc := s.saf.oc ||| 2 ^ m.val }
        s.holdCause 6 0 m
      else
        let s := s.setSaf { s.saf with oc := s.saf.oc &&& (0xF ^^^ 2 ^ m.val) }
        if s.saf.oc = 0 then s.endCause 6 else s

/-! ## The pair, latent faults, temperature -/

/-- Without confirmation the safe state is entered at the next mark (R284). -/
def execPairedSafeAtMark (s : State) : Out := if s.saf.pairWait.isSome then .next s.enterSafe else .next s

/-- The clusters of a mask are timed no more, and none of them is late (R286). -/
def State.untime (s : State) (mask : Nat) : State :=
  let keep := 0xFFFF ^^^ mask % 65536
  let s := s.setSaf { s.saf with timed := s.saf.timed &&& keep, late := s.saf.late &&& keep,
                                 passes := s.saf.passes.filter fun x => !mask.testBit x.1 }
  if s.saf.late = 0 then s.endCause 11 else s
/-- A self-test report that the array has sent arrives (R129, R286). -/
def execSelftestReport (c : Cl) (pass : Bool) (s : State) : Out :=
  if !s.saf.reports.contains (c, pass) then .next s
  else
    let s := s.setSaf { s.saf with reports := s.saf.reports.erase (c, pass) }
    if !s.islandOn then .next s
    else
      let s := s.untime (2 ^ c.val)
      if pass then
        let s := s.setSaf { s.saf with timed := s.saf.timed ||| 2 ^ c.val, passes := s.saf.passes ++ [(c, 0)] }
        .next (s.setCl c { s.cl c with servedSimplex := false })
      else .next (if (s.cl c).servedSimplex then s.raiseCause 12 0 c else s)
/-- One millisecond passes for the clusters timed. -/
def State.passTick (s : State) : State := s.setSaf { s.saf with passes := s.saf.passes.map fun x => (x.1, x.2 + 1) }
/-- SAF_CLAGE (R286, R290): the cluster with the oldest pass, and its time in 0.1 ms, free within what the 1 ms ticks seen since leave
open (log entry 104). -/
def State.clAge (s : State) : Nat × State :=
  match s.saf.passes.filter fun x => s.bit srchClavail x.1 with
  | [] => (0, s)
  | (c, n) :: _ =>
    let (w, s) := s.freeWord
    (c.val * 65536 + Nat.min 65535 (if n = 0 then w.toNat % 10 else 10 * (n - 1) + w.toNat % 20), s)
/-- A cluster is more than 100 ms without a pass (R286). -/
def execLatentTimeout (c : Cl) (s : State) : Out :=
  if s.islandOn && s.saf.timed.testBit c && !s.saf.excl.testBit c && s.bit srchClavail c then
    .next ((s.setSaf { s.saf with late := s.saf.late ||| 2 ^ c.val }).holdCause 11 0 c)
  else .next s
/-- The exclusions in force reach the island at the mark (R286). -/
def State.islandExcl (s : State) (excl : Nat) : State :=
  State.untime (s.setSaf { s.saf with excl }) excl
/-- The junction is above 125 °C for 1 ms, or no longer above it (R282). -/
def execJunctionOvertemp (above : Bool) (s : State) : Out :=
  if !s.islandOn then .next s else .next (if above then s.holdCause 10 0 0 else s.endCause 10)

end Sys2Proof.Machine
end

