-- ==== Sys2Proof/Machine/Links.lean ====
section
/-!
DEFINITION. Cell links: lane bring-up (R196, R202 to R204), uplinks (R205 to R208), acknowledgement and retransmission (R216),
loss (R218, R219), marks on the lanes (R199).
-/
namespace Sys2Proof.Machine

/-! ## Lane states (R202): 0 OFF, 1 LOCKING, 2 DELAY, 3 CONFIG, 4 UP, 5 LOST, 6 FAILED -/

def State.laneState (s : State) (l : LaneN) : Nat := s.fld (cellLstat l) 2 0
def State.laneEn (s : State) (l : LaneN) : Bool := s.bit (cellLcfg l) 31
def State.laneHub (s : State) (l : LaneN) : Nat := s.fld (cellLcfg l) 5 0
def State.laneBlock (s : State) (l : LaneN) : Bool := s.bit (cellLstat l) 3
/-- Set or clear a lane's bit in a LO and HI pair of registers. -/
def State.laneBit (s : State) (lo hi : Nat) (l : LaneN) (b : Bool) : State :=
  if l.val < 32 then s.setBit lo l b else s.setBit hi (l - 32) b
def State.laneBitOf (s : State) (lo hi : Nat) (l : LaneN) : Bool := if l.val < 32 then s.bit lo l else s.bit hi (l - 32)

/-- The lane takes a state; CELL_LUPLO and CELL_LUPHI follow. Outside CONFIG and UP no frame waits. -/
def State.setLaneState (s : State) (l : LaneN) (st : Nat) : State :=
  let s := (s.setFld (cellLstat l) 2 0 st).laneBit cellLupLo cellLupHi l (st == 4)
  if st = 3 ∨ st = 4 then s else s.setLane l { s.lane l with queue := [], await := [] }

/-- Frames that a lane can no longer send do not hold a decision report back. -/
def State.reportsDue (s : State) : State := s.each allSlots State.checkReport

def State.laneFail (s : State) (l : LaneN) (code : Nat) : State :=
  let s := (s.setLaneState l 6).setFld (cellLstat l) 11 8 code
  (if code = 2 then s.setBit cellStatus 3 true else s).reportsDue

/-- An HPAR frame with the given entries (R204). -/
def State.hparFrame (s : State) (l : LaneN) (entries : List (Nat × Nat)) : DFrame :=
  { kind := 0x21, hub := s.laneHub l, pcnt := s.pcnt16, prob := 0, words := entries.map fun e => e.1 + 256 * e.2 }

/-- A new HPAR frame with parameters 0 to 3, counted toward the four of failure code 3. -/
def State.sendHpar (s : State) (l : LaneN) : State :=
  let k := s.lane l
  let f := s.hparFrame l [(0, s.laneHub l), (1, s.fld (cellLdly l) 16 0), (2, s.rd cellHcdl), (3, s.rd cellUpofs)]
  s.setLane l { k with queue := k.queue ++ [f], hparSent := k.hparSent + 1, hparMark := none }

/-- DELAY begins, or begins again: a set of eight DREQ blocks. -/
def State.startDelay (s : State) (l : LaneN) (attempt : Nat) : State :=
  let s := s.setLaneState l 2
  s.setLane l { s.lane l with echoes := [], attempts := attempt }

/-- LOCKING begins; a lane that holds block lock goes on to DELAY. -/
def State.startLocking (s : State) (l : LaneN) : State :=
  let s := s.setLaneState l 1
  if s.laneBlock l then s.startDelay l 1 else s

/-- Of enabled lanes with the same HUB, every one but the lowest fails with code 2 (R202, R222). -/
def State.dupHubs (s : State) : State :=
  s.each ((s.listed (cellLcfg 0) 16 64).filter fun c => c.2.testBit 31) fun s c =>
    let l : LaneN := toFin 64 c.1
    if s.laneState l ≠ 6 ∧ (s.listed (cellLcfg 0) 16 64).any (fun d => d.2.testBit 31 && decide (d.1 < c.1) && d.2 % 64 == c.2 % 64) then
      s.laneFail l 2
    else s

/-- EN of a lane goes from 0 to 1. -/
def State.laneOn (s : State) (l : LaneN) : State :=
  let s := s.setBit (cellLcfg l) 31 true
  let s := (s.wr (cellLstat l) 0).wr (cellLdly l) 0
  let k := s.lane l
  let s := s.setLane l { k with queue := [], await := [], silent := 0, hparMark := none, hparSent := 0, gotUplink := false }
  (s.startLocking l).dupHubs

/-- The loss of lane l is over: the lane is UP again, or disabled (R271, log entry 103). -/
def State.laneBack (s : State) (l : LaneN) : State :=
  let lost := s.saf.lanesLost.filter fun x => x != l
  let s := { s with saf := { s.saf with lanesLost := lost } }
  if lost.isEmpty then s.endCause 7 else s

/-- EN of a lane goes to 0: transmitter and receiver stop at once (R196, R222). -/
def State.laneOff (s : State) (l : LaneN) : State :=
  let s := s.setBit (cellLcfg l) 31 false
  (State.laneBack ((s.setLaneState l 0).setBit (cellLstat l) 3 false) l).reportsDue

def execLaneEnable (l : LaneN) (s : State) : Out :=
  if s.live .cell && !s.laneEn l then .next (s.laneOn l) else .next s
def execLaneDisable (l : LaneN) (s : State) : Out :=
  if s.live .cell && s.laneEn l then .next (s.laneOff l) else .next s

/-- R218, R219: the loss is recorded and reported to the island; with AUTO 1 bring-up restarts at once. -/
def State.laneLost (s : State) (l : LaneN) : State :=
  let s := ((s.laneBit cellLlostLo cellLlostHi l true).setBit cellStatus 0 true).setLaneState l 5
  let s := s.setLane l { s.lane l with silent := 0 }
  let s := (s.fire 0x0D).capTrig 5
  let s := if s.bit safCfg 27 then s
    else State.holdCause { s with saf := { s.saf with lanesLost := l :: s.saf.lanesLost.filter fun x => x != l } } 7 0 l
  let s := if s.bit (cellLcfg l) 30 then s.startLocking l else s
  s.reportsDue

/-- Block lock acquired on a cell lane (R196, R202). -/
def State.laneLocked (s : State) (l : LaneN) : State :=
  if s.live .cell && s.laneEn l then
    let s := s.setBit (cellLstat l) 3 true
    if s.laneState l = 1 then s.startDelay l 1 else s
  else s
/-- Block lock lost on a cell lane: a lane in UP is lost (R218); a lane in DELAY or CONFIG locks again. -/
def State.laneUnlocked (s : State) (l : LaneN) : State :=
  if s.live .cell && s.laneEn l then
    let s := s.setBit (cellLstat l) 3 false
    if s.laneState l = 4 then s.laneLost l
    else if s.laneState l = 2 ∨ s.laneState l = 3 then s.startLocking l else s
  else s

/-- The lane receives: enabled, with block lock (R196). -/
def State.laneRx (s : State) (l : LaneN) : Bool := s.live .cell && s.laneEn l && s.laneBlock l
/-- The block types of R197. -/
def knownBlock (t : Nat) : Bool := [0x1E, 0x33, 0x4B, 0x55, 0x2D, 0x78].contains t
/-- A control block of a type outside R197 is discarded and counted. -/
def State.badBlock (s : State) (l : LaneN) (t : Nat) : State := if knownBlock t then s else s.count (cellLerr l) 15 0

def maxN (l : List Nat) : Nat := l.foldl Nat.max 0
def minN (l : List Nat) : Nat := match l with
  | [] => 0
  | x :: xs => xs.foldl Nat.min x

/-- DLY from the eight echoes: none when their spread is above 4 UI (R202). -/
def dlyOf (echoes : List Nat) : Option Nat := if maxN echoes - minN echoes ≤ 4 then some (minN echoes) else none

/-- A DECHO block answers the DREQ sent: the echo counts, and the next DREQ carries the next token. -/
def execDecho (l : LaneN) (typ token : Byte) (turn : BitVec 16) (rtt : Nat) (s : State) : Out :=
  if !s.laneRx l then .next s
  else if typ ≠ 0x55 then .next (s.badBlock l typ.toNat)
  else
    let k := s.lane l
    if s.laneState l ≠ 2 ∨ token.toNat ≠ k.token then .next s
    else
      let es := k.echoes ++ [(rtt - turn.toNat) / 2]
      let s := s.setLane l { k with echoes := es, token := (k.token + 1) % 256 }
      if es.length < 8 then .next s
      else match dlyOf es with
        | some d =>
          if d > 100000 then .next (s.laneFail l 1)
          else
            let s := (s.wr (cellLdly l) (2 ^ 31 + d)).setLaneState l 3
            .next ((s.setLane l { s.lane l with hparSent := 0 }).sendHpar l)
        | none => if k.attempts < 4 then .next (s.startDelay l (k.attempts + 1)) else .next (s.laneFail l 1)

/-- An ACK block: result 1 sets HUBLATE (R223); its SEQ is that of a frame that waits for it (R216), or that waits to be sent again. -/
def execAck (l : LaneN) (typ seq : Byte) (_hub : HubN) (result : Byte) (s : State) : Out :=
  if !s.laneRx l then .next s
  else if typ ≠ 0x2D then .next (s.badBlock l typ.toNat)
  else
    let s := if result = 1 then s.setBit cellStatus 5 true else s
    let k := s.lane l
    let again := k.queue.filter fun f => f.rtx != 0
    match (k.await ++ again).find? fun f => f.seq == seq.toNat with
    | none => .next s
    | some f =>
      let s := s.setLane l { k with await := k.await.filter (fun g => g.seq != seq.toNat),
                                    queue := k.queue.filter fun g => g.rtx == 0 || g.seq != seq.toNat }
      if f.kind = 0x21 ∧ s.laneState l = 3 then
        if result = 0 then .next (s.setLane l { s.lane l with hparMark := some 0 })
        else if (s.lane l).hparSent < 4 then .next (s.sendHpar l) else .next (s.laneFail l 3)
      else .next s

/-- A frame is abandoned (R216). -/
def State.abandon (s : State) (l : LaneN) : State := (s.count (cellLerr l) 31 24).setBit cellStatus 2 true

/-- RTXMAX; 3 is treated as 2 (R223). -/
def State.rtxMax (s : State) : Nat := Nat.min (s.fld cellCtrl 9 8) 2

/-- No ACK by the time-out of R216: the frame is sent again at once, unless its period or its commit deadline has passed, or it is
abandoned; in CONFIG the rules of R202 apply. -/
def execAckTimeout (l : LaneN) (seq : Byte) (s : State) : Out :=
  let k := s.lane l
  match k.await.find? fun f => f.seq == seq.toNat with
  | none => .next s
  | some f =>
    if !s.live .cell then .next s else
    let s := s.setLane l { k with await := k.await.filter fun g => g.seq != seq.toNat }
    let again := s.setLane l { s.lane l with queue := { f with rtx := f.rtx + 1 } :: (s.lane l).queue }
    if f.kind = 0x21 ∧ s.laneState l = 3 then
      if k.hparSent ≥ 4 then .next (s.laneFail l 3)
      else if f.rtx < 2 then .next (again.setLane l { again.lane l with hparSent := k.hparSent + 1 })
      else .next (s.sendHpar l)
    else if f.rtx < s.rtxMax && (f.kind == 0x21 || f.pcnt == s.pcnt16 && !s.per.commitPassed) && s.mayResend f then .next again
    else .next (s.abandon l)

/-! ## Uplink frames -/

/-- The four conditions of R207, and a length that NCELL accounts for when NCELL is in its range. -/
def State.uplinkOk (s : State) (l : LaneN) (bs : List Byte) : Bool :=
  let n := byteAt bs 4 % 32
  crcOk bs && byteAt bs 0 == 1 && byteAt bs 1 % 64 == s.laneHub l && leAt bs 2 2 == s.pcnt16 &&
  (n == 0 || decide (16 < n) || bs.length == 12 + 12 * n)

/-- Store an accepted frame (R208, R188, R205). -/
def State.storeUplink (s : State) (l : LaneN) (bs : List Byte) : State :=
  let n := byteAt bs 4 % 32
  let h := byteAt bs 1 % 64
  let stat := byteAt bs 5
  let inFix := !s.per.fixPassed
  let s := s.setFld (cellLstat l) 20 16 n
  let s := s.setBit (cellLstat l) 12 (stat.testBit 4)
  let s := if stat.testBit 4 then s.setBit cellStatus 4 true else s
  let tail := toLE 2 s.pcnt16 ++ toLE 1 (b2n inFix + 2 * b2n (stat.testBit 0)) ++ toLE 1 l
  let s := s.each (List.range n) fun s i =>
    let c := 16 * h + i
    let s := s.setBytes (uplinkRec c) ((bs.drop (8 + 12 * i)).take 12 ++ tail)
    let s := { s with cell := { s.cell with recNow := c :: s.cell.recNow.filter (· != c) } }
    s.recReport c (byteAt bs (8 + 12 * i + 6) % 4)
  let fresh := !s.laneBitOf cellUprxLo cellUprxHi l
  let s := s.laneBit cellUprxLo cellUprxHi l true
  let s := s.setLane l { s.lane l with gotUplink := true }
  let s := { s with cell := { s.cell with upNow := h :: s.cell.upNow.filter (· != h), ncell := (h, n) :: s.cell.ncell.filter (·.1 != h) } }
  if inFix && fresh && s.rd cellLupLo &&& s.rd cellUprxLo == s.rd cellLupLo && s.rd cellLupHi &&& s.rd cellUprxHi == s.rd cellLupHi
  then s.fire 0x0C else s

/-- An uplink frame arrives. Before the lane is in UP it can only bring the lane up (R203). -/
def execUplinkFrame (l : LaneN) (bytes : List Byte) (s : State) : Out :=
  if !s.laneRx l then .next s else
  let ok := s.uplinkOk l bytes
  let n := byteAt bytes 4 % 32
  let st := s.laneState l
  if st = 3 ∧ (s.lane l).hparMark = some 1 ∧ ok ∨ st = 4 ∧ ok then
    if n = 0 ∨ 16 < n then .next (s.laneFail l 4) else .next ((State.laneBack (s.setLaneState l 4) l).storeUplink l bytes)
  else if st = 4 then .next ((s.count (cellLerr l) 15 0).setBit cellStatus 1 true)
  else .next s

/-- A new value of CELL_HCDL or CELL_UPOFS is sent to every lane in UP (R223); the registers are locked by CELL_CTRL.LOCK. -/
def State.hcdlSet (s : State) (upofs : Bool) (v : Nat) : State :=
  let v := v % (if upofs then 2 ^ 10 else 2 ^ 17)
  if s.bit cellCtrl 31 ∨ s.rd (if upofs then cellUpofs else cellHcdl) = v then s
  else State.each (if upofs then s.wr cellUpofs v else s.wr cellHcdl v) allLanes fun s l =>
    if s.laneState l = 4 then
      s.setLane l { s.lane l with queue := (s.lane l).queue ++ [s.hparFrame l [(if upofs then 3 else 2, v)]] }
    else s
def execHcdlWrite (upofs : Bool) (v : Word) (s : State) : Out :=
  if s.live .cell then .next (s.hcdlSet upofs v.toNat) else .next s

/-- A write of CELL_ROLE.ROLE: frames and MARK blocks sent later carry it (R221, R222). -/
def execRoleWrite (role : Bool) (s : State) : Out :=
  if s.live .cell then .next (s.setBit cellRole 0 role) else .next s

/-! ## Marks and deadlines on the lanes -/

/-- Length of a period of `len` fc at a pace, in units of 1/16 ns, rounded down (R199). -/
def lenUnits (pace : Fin 3) (len : Nat) : Nat :=
  if pace = 0 then len * 32 / 3 else if pace = 1 then len * 160 / 11 else len * 160 / 7

/-- The lanes at a mark: the MARK block on every enabled lane (R199), HPAR parameters come into effect (R203), UPRX is cleared,
frames that carry a decision of the ended period are gone (R52). Where the mark falls in a block is not told: OFS is a free value of
0 to 65 (log entry 96). -/
def State.laneMark (s : State) (l : LaneN) : State :=
  let k := s.lane l
  let k' := { k with queue := k.queue.filter (fun f => f.kind == 0x21), sent := [], gotUplink := false,
                     hparMark := k.hparMark.map fun _ => 1 }
  if s.laneState l ≠ 0 then
    let (w, s) := s.freeWord
    s.setLane l { k' with mark := some { pcnt := s.pcnt16, ofs := w.toNat % 66, role := s.role,
                                         len := lenUnits s.per.pace s.per.len % 2 ^ 24 } }
  else if k' = k then s else s.setLane l k'
def State.linkMark (s : State) : State := (((s.wr cellUprxLo 0).wr cellUprxHi 0).each allLanes State.laneMark)

/-- The fix deadline on the lanes: two consecutive periods without an accepted uplink are a loss (R218). -/
def State.linkFixDeadline (s : State) : State :=
  s.each ((s.listed (cellLstat 0) 16 64).filter fun c => c.2 % 8 == 4) fun s c =>
    let l : LaneN := toFin 64 c.1
    let k := s.lane l
    if k.gotUplink then s.setLane l { k with silent := 0 }
    else if k.silent = 0 then s.setLane l { k with silent := 1 } else s.laneLost l

/-- The commit deadline on the lanes: waiting frames are discarded; a retransmission among them is abandoned (R52, R216). -/
def State.linkCommitDeadline (s : State) : State :=
  let s := s.each allLanes fun s l =>
    let k := s.lane l
    if k.queue.isEmpty then s else
    let s := s.setLane l { k with queue := k.queue.filter fun f => f.kind == 0x21 }
    s.each (k.queue.filter fun f => f.kind != 0x21 && f.rtx != 0) fun s _ => s.abandon l
  let s := if s.cell.order.isEmpty then s else s.setBit cellSelstat 0 true
  { s with cell := { s.cell with order := [], sels := s.cell.sels.map fun x => { x with job := none } } }

end Sys2Proof.Machine
end

