-- ==== Sys2Proof/Machine/Chain.lean ====
section
/-!
DEFINITION. The chain: frames in and out (R293 to R297), ports (R298, R299, R302), enumeration (R300, R301), marks (R307 to R313),
the duplex pair (R314 to R317), pilot-only operation (R319). Requests that reach the bus are in Machine/ChainReq.lean.
-/
namespace Sys2Proof.Machine

def State.setChain (s : State) (c : Chain) : State := { s with chain := c }
def State.setCport (s : State) (p : ChPort) (k : CPort) : State :=
  match p with
  | .up => s.setChain { s.chain with up := k }
  | .dn => s.setChain { s.chain with dn := k }
/-- The chain unit works: the die is on, and the CHN block out of reset and clocked (R299, R464). -/
def State.chnData (s : State) : Bool := s.live .chn
/-- The pilot lanes work in every powered state (R299). -/
def State.pilotOn (s : State) : Bool := s.clk.power ≠ .off
/-- The receiver of a lane works and is in lock or sync. -/
def State.laneIn (s : State) (p : ChPort) : ChLane → Bool
  | .d0 => s.chnData && s.portLock p 4
  | .d1 => s.chnData && s.portLock p 5
  | .pl => s.pilotOn && s.portLock p 6
/-- Lock of a data lane, or sync of the pilot lane, which CHN_PORTSTAT shows from then on (log entry 106). -/
def State.setLock (s : State) (p : ChPort) (i : Nat) (b : Bool) : State :=
  State.setBit (if i = 6 then s.setCport p { s.cport p with pilot := b } else s) chnPortstat (8 * portIdx p + i) b
/-- Something arrives on the pilot lane of port p, which is in sync. -/
def State.showPilot (s : State) (p : ChPort) : State := if s.clk.cdUp then s.setBit chnPortstat (8 * portIdx p + 6) (s.portLock p 6) else s
/-- The module holds an address (R301). -/
def State.hasAddr (s : State) : Bool := s.bit chnAddr 31
/-- A frame or block is discarded: `routing` says that HOPS or routing was the cause, else CRC or type. -/
def State.chnDrop (s : State) (routing : Bool) : State :=
  (if routing then s.count chnErrcnt 31 16 else s.count chnErrcnt 15 0).setBit chnStatus 0 true

/-! ## The pair (R314 to R317) -/

def State.pairPort (s : State) : ChPort := portOf (s.bit chnPair 30)
def State.pairOn (s : State) : Bool := s.bit chnPair 31
def State.pairState (s : State) (v : Nat) : State := s.setFld chnPairstat 2 0 v
/-- A lane of PORT is in lock or sync. -/
def State.peerLane (s : State) : Bool := let p := s.pairPort; s.portLock p 4 || s.portLock p 5 || s.portLock p 6

/-- The resolving frames that left with ROLE 0 in this period are sent again (R317). -/
def State.resendRole (s : State) (l : LaneN) : State :=
  let k := s.lane l
  let fs := (k.sent.filter fun f => settleKind f.kind && !f.role && f.rtx == 0).reverse
  if fs.isEmpty then s else s.setLane l { k with queue := k.queue ++ fs }
/-- Takeover (R317). -/
def State.takeOver (s : State) : State :=
  let s := ((s.setBit cellRole 0 true).setBit chnStatus 7 true).pairState 5
  let s := s.setChain { s.chain with hbs := 0, paired := false }
  let s := if s.per.commitPassed then s else s.each allLanes State.resendRole
  ((s.peerSend true 0x13 (toLE 4 (s.rd perCount) ++ toLE 4 0)).alert 3).fire 0x2C
/-- The conditions of R316 on the module itself. -/
def State.canTake (s : State) : Bool := s.pairOn && s.chain.paired && !s.role && !s.safe
/-- A lane of the chain has changed: PEERLN follows, and the loss of the last lane of PORT is a takeover, or leaves the peer lost and the
handshake to be made again (R314, R316). -/
def State.peerCheck (s : State) : State :=
  let had := s.bit chnPairstat 5
  let s := s.setBit chnPairstat 5 s.peerLane
  if had && !s.peerLane then
    if s.canTake then s.takeOver
    else if s.pairOn then (s.setChain { s.chain with hbs := 0, paired := false }).pairState 4 else s
  else s

/-- The power state as R327 codes it; a module that starts or restarts is on its way to Run and shows 0 (log entry 33). -/
def powerCode (p : Power) : Nat := match p with
  | .idle => 1 | .standby => 2 | .dormant => 3 | .recovery => 4 | _ => 0

/-- The head of an HB: CCOUNT, ROLE and power state, slots with a result. -/
def State.hbHead (s : State) (slots : List Slot) : List Byte :=
  toLE 4 (s.rd perCount) ++ toLE 1 (b2n s.role + 2 * powerCode s.clk.power) ++ toLE 1 (sumN (slots.map fun p => 2 ^ p.val)) ++ toLE 2 0
/-- The entry of a slot in an HB, from its result record. -/
def State.hbEntry (s : State) (p : Slot) : List Byte :=
  let a := slotBase p
  s.bytes (a + 0x1084) 20 ++ toLE 4 (crc32 (s.bytes (a + 0x10C0) 96))
/-- The heartbeat at the commit deadline (R314). -/
def State.hbSend (s : State) : State :=
  if s.pairOn && s.live .chn then
    let slots := allSlots.filter fun p => (s.prob p).recDone && (s.prob p).decided
    let h := s.hbHead slots
    (s.peerSend false 0x11 (h ++ slots.flatMap s.hbEntry)).peerSend true 0x11 h
  else s

/-- R315: the entry of slot p in a peer's HB differs from this module's result of that count. -/
def State.hbDiffers (s : State) (p : Slot) (ccount : Nat) (e : List Byte) : Bool :=
  let a := slotBase p
  let own := s.hbEntry p
  let det (bs : List Byte) : Bool := let st := leAt bs 0 4; st.testBit 11 && !st.testBit 12
  s.word (a + 0x1080) == ccount && det e && det own &&
  (leAt e 4 6 != leAt own 4 6 || leAt e 12 6 != leAt own 12 6 || leAt e 20 4 != leAt own 20 4)
/-- The slots set in byte 5, with the offset of each entry. -/
def hbSlots (pay : List Byte) : List (Slot × Nat) :=
  ((allSlots.filter fun (p : Slot) => (byteAt pay 5).testBit p.val).zipIdx).map fun x => (x.1, 8 + 24 * x.2)

/-- A heartbeat arrives (R314, R315). -/
def execHb (pilot : Bool) (src : Fin 64) (payload : List Byte) (s : State) : Out :=
  if !s.pairOn || !s.live .chn || src.val != s.fld chnPair 5 0 || payload.length < 8 then .next s
  else
    let role := (byteAt payload 4).testBit 0
    let c := s.chain
    let s := (s.setBit chnPairstat 7 role).setChain { c with
      hbNow := c.hbNow || !pilot, hbs := if role = s.role then 0 else if pilot || c.hbNow then c.hbs else c.hbs + 1 }
    let s := if role = s.role then (s.setChain { s.chain with paired := false }).pairState 3
      else if 8 ≤ s.chain.hbs then (s.setChain { s.chain with paired := true }).pairState 2
      else if s.chain.paired || s.fld chnPairstat 2 0 == 5 then s else s.pairState 1
    if pilot then .next s
    else
      .next (s.each (hbSlots payload) fun s e =>
        if s.hbDiffers e.1 (leAt payload 0 4) ((payload.drop e.2).take 24) then (s.count chnXmiscnt 15 0).setBit chnStatus 5 true else s)

/-- The states in which only the pilot lanes work (R319). -/
def State.pilotOnly (s : State) : Bool :=
  s.bit chnPilot 1 || decide (s.clk.power = .standby ∨ s.clk.power = .dormant ∨ s.clk.power = .recovery)
/-- The short heartbeat once every 1 ms: to the peer of a pair, else to the host (log entry 32). -/
def execPilotHb (s : State) : Out :=
  if s.pilotOn && s.pilotOnly then
    let h := s.hbHead []
    .next (if s.pairOn then s.peerSend true 0x11 h else s.chainSend true 0x11 0 0 h)
  else .next s

/-- A takeover request from the peer (R316, R320). -/
def execTkreq (src : Fin 64) (_ccount : Word) (_cause : Byte) (s : State) : Out :=
  if s.canTake && src.val == s.fld chnPair 5 0 then .next s.takeOver else .next s
/-- A takeover confirmation (R317, R284). -/
def execTkconf (src : Fin 64) (s : State) : Out :=
  let s := if s.clk.cdUp then s.setBit chnStatus 6 true else s
  .next (if s.pairOn && src.val == s.fld chnPair 5 0 && s.saf.pairWait.isSome then s.enterSafe else s)

/-! ## Frames (R294 to R297) -/

def frameBytes (f : CFrame) : List Byte :=
  withCrc (toLE 1 f.typ ++ toLE 1 f.dst ++ toLE 1 f.src ++ toLE 1 (f.hops + 128 * b2n f.wrap) ++ toLE 2 f.pay.length ++ toLE 2 f.tag ++ f.pay)
def readFrame (bs : List Byte) : CFrame :=
  { typ := byteAt bs 0, dst := byteAt bs 1 % 64, src := byteAt bs 2 % 64, hops := byteAt bs 3 % 64, wrap := (byteAt bs 3).testBit 7,
    tag := leAt bs 6 2, pay := (bs.drop 8).take (leAt bs 4 2) }
/-- Length and CRC of a frame hold. -/
def frameOk (pilot : Bool) (bs : List Byte) : Bool :=
  bs.length == 12 + leAt bs 4 2 && decide (leAt bs 4 2 ≤ if pilot then 16 else 2048) && crcOk bs
def knownType (t : Nat) : Bool := [1, 2, 3, 4, 5, 6, 7, 8, 0x10, 0x11, 0x12, 0x13, 0x14, 0x15].contains t
/-- A request is held until it is performed (R303). -/
def isRequest (t : Nat) : Bool := [1, 3, 5, 7].contains t

/-- A frame goes on through the other port of the same kind of lane (R296, R297). -/
def State.forward (s : State) (p : ChPort) (pilot : Bool) (f : CFrame) : State :=
  let f := { f with hops := f.hops + 1 }
  if s.portDead (otherPort p) pilot then
    if f.wrap then s.chnDrop true else s.emit p pilot { f with wrap := true }
  else s.emit (otherPort p) pilot f

/-- A response to a request whose frame came on port p. -/
def State.respond (s : State) (pilot : Bool) (typ dst tag : Nat) (pay : List Byte) : State := s.chainSend pilot typ dst tag pay
/-- Expected BSEQ of a source's stream, 0 before a stream has started, and the BSEQ last written. -/
def State.bseqOf (s : State) (src : Nat) : Nat × Option Nat :=
  match s.chain.bseqs.find? fun x => x.1 == src with
  | some x => x.2
  | none => (0, none)
def State.setBseq (s : State) (src : Nat) (v : Nat × Option Nat) : State :=
  let s := s.setChain { s.chain with bseqs := (s.chain.bseqs.filter fun x => x.1 != src) ++ [(src, v)] }
  if s.fld chnBulkstat 29 24 = src then s.setFld chnBulkstat 15 0 v.1 else s
/-- CHN_BULKCFG.WIN: 1 to 64, other values act as 64 (R321). -/
def State.bulkWin (s : State) : Nat := let w := s.fld chnBulkcfg 7 0; if 1 ≤ w ∧ w ≤ 64 then w else 64
/-- The payload of an RDRSP that carries no data: STATUS and NW words of zeros, at most as many as the lane allows (R295, log entry 38). -/
def rdrspNone (pilot : Bool) (status nw : Nat) : List Byte := toLE 4 status ++ List.replicate (4 * Nat.min nw (if pilot then 2 else 64)) 0
/-- BLKACK: the BSEQ of the last frame written, a free value when the source has written none. -/
def State.blkack (s : State) (src : Nat) (tag status : Nat) : State :=
  let (b, s) : Nat × State := match (s.bseqOf src).2 with
    | some b => (b, s)
    | none => let (w, s) := s.freeWord; (w.toNat % 65536, s)
  s.respond false 6 src tag (toLE 2 b ++ toLE 1 status ++ toLE 1 s.bulkWin)
/-- The response that refuses a request of type t with a status. -/
def State.refuse (s : State) (pilot : Bool) (f : CFrame) (status : Nat) : State :=
  if f.typ = 5 ∨ f.typ = 7 then
    if f.typ = 5 then s.blkack f.src f.tag status
    else s.respond pilot 8 f.src f.tag (f.pay.take 5 ++ toLE 1 status ++ toLE 2 0)
  else if f.typ = 1 then s.respond pilot 2 f.src f.tag (rdrspNone pilot status (byteAt f.pay 5))
  else s.respond pilot (f.typ + 1) f.src f.tag (toLE 4 status)

/-- A frame is consumed: it waits for its step. A ninth request is answered with STATUS 4 (R303). -/
def State.consume (s : State) (p : ChPort) (pilot : Bool) (f : CFrame) : State :=
  if !knownType f.typ then s.chnDrop false
  else if isRequest f.typ && decide (8 ≤ (s.chain.inbox.filter fun x => isRequest x.2.2.typ).length) then s.refuse pilot f 4
  else s.setChain { s.chain with inbox := s.chain.inbox ++ [(p, pilot, f)] }

/-- The age of a broadcast lets it count as consumed in the last 1 ms: certain within the first tick, open within the second. -/
def State.castSeen (s : State) (f : CFrame) : Bool × State :=
  match s.chain.casts.find? fun c => c.1 == f.src && c.2.1 == f.tag with
  | some c => if c.2.2 = 0 then (true, s) else s.freeBit
  | none => (false, s)
/-- One millisecond passes for the broadcasts remembered. -/
def State.castTick (s : State) : State :=
  if s.chain.casts.isEmpty then s
  else s.setChain { s.chain with casts := (s.chain.casts.filter fun c => c.2.2 == 0).map fun c => (c.1, c.2.1, 1) }

/-- A chain frame is received on a lane (R296, R301). -/
def execChainFrameReceive (p : ChPort) (k : ChLane) (bytes : List Byte) (s : State) : Out :=
  let pilot := decide (k = .pl)
  if !s.laneIn p k then .next s
  else
  let s := if pilot then s.showPilot p else s
  if !frameOk pilot bytes then .next (s.chnDrop false)
  else
    let f := readFrame bytes
    if 40 ≤ f.hops then .next (s.chnDrop true)
    else if f.typ = 0x10 then .next (if pilot then s.consume p pilot f else s.chnDrop false)
    else if f.dst = 63 then
      let (seen, s) := s.castSeen f
      if seen then .next s
      else
        let s := s.setChain { s.chain with casts := (s.chain.casts.filter fun c => c.1 != f.src || c.2.1 != f.tag) ++ [(f.src, f.tag, 0)] }
        .next ((s.consume p pilot f).forward p pilot f)
    else if s.hasAddr && f.dst == s.myAddr then .next (s.consume p pilot f)
    else .next (s.forward p pilot f)

/-- The step of a consumed frame takes it from the inbox: the first of its type, with what arrived with it. -/
def State.takeFrame (s : State) (typ : Nat) (src : Option Nat) : Option (ChPort × Bool × CFrame) × State :=
  let hit (x : ChPort × Bool × CFrame) : Bool := x.2.2.typ == typ && (match src with | some a => x.2.2.src == a | none => true)
  match s.chain.inbox.findIdx? hit with
  | some i => (s.chain.inbox[i]?, s.setChain { s.chain with inbox := s.chain.inbox.eraseIdx i })
  | none => (none, s)

/-! ## Enumeration (R300, R301) -/

/-- An ENUM frame arrives on the pilot lane of port p: it goes on as it came, but for HOPS and for NEXT when the address is taken. -/
def execEnum (p : ChPort) (next : Byte) (fresh : Bool) (s : State) : Out :=
  if !s.laneIn p .pl then .next s
  else
    let (f, s) := s.takeFrame 0x10 none
    let f : CFrame := match f with
      | some x => x.2.2
      | none => { typ := 0x10, dst := 63, src := 0, hops := 0, wrap := false, tag := 0, pay := toLE 1 next.toNat ++ toLE 1 (b2n fresh) ++ toLE 2 0 }
    let pass (s : State) (n : Nat) : State := s.emit (otherPort p) true { f with hops := f.hops + 1, pay := toLE 1 n ++ f.pay.drop 1 }
    if s.hasAddr && !fresh then .next (pass s next.toNat)
    else if next.toNat ≤ 32 then
      let s := s.wr chnAddr (2 ^ 31 + 256 * portIdx p + next.toNat)
      .next (pass (s.setBit chnStatus 8 false) (next.toNat + 1))
    else .next (pass ((s.wr chnAddr 0).setBit chnStatus 8 true) next.toNat)

/-! ## Ports (R298, R302): 0 OFF, 1 LOCKING, 2 DELAY, 3 UP, 4 down, 5 FAILED -/

def State.portEn (s : State) (p : ChPort) : Bool := s.bit chnCtrl (portIdx p) && !s.bit chnPilot 1
/-- The lane of a port that carries its control blocks (R293). -/
def State.blockLane (s : State) (p : ChPort) : ChLane := s.dataLane p 0
def State.sendDreq (s : State) (p : ChPort) (token : Nat) : State :=
  s.setChain { s.chain with dreqOut := s.chain.dreqOut ++ [(p, s.blockLane p, token)] }
/-- A measurement begins: eight DREQ blocks, the first at once. -/
def State.startMeasure (s : State) (p : ChPort) (attempt : Nat) : State :=
  let k := s.cport p
  (s.setCport p { k with echoes := [], attempts := attempt, measuring := true }).sendDreq p k.token
/-- Bring-up goes on to DELAY when a data lane has block lock. -/
def State.portLocking (s : State) (p : ChPort) (st : Nat) : State :=
  let s := s.setPortState p st
  if s.portLock p 4 || s.portLock p 5 then (s.setPortState p 2).startMeasure p 1 else s
/-- The selected mark port changes (R312). -/
def State.markSwitch (s : State) (dest : ChPort) : State :=
  ((s.setBit chnMkstat 31 (portIdx dest == 1)).setBit chnStatus 3 true).alert 2
/-- The port goes down: BREAK, an ALERT on the other port, bring-up begins again (R298), another mark port (R312). -/
def State.portDown (s : State) (p : ChPort) (st : Nat) : State :=
  let s := (s.setPortState p st).setBit chnStatus 2 true
  let s := s.setBit (chnDly (portIdx p)) 31 false
  let s := s.setCport p { s.cport p with measuring := false, echoes := [], newDly := none, streak := 0 }
  let s := s.alertOn (otherPort p) 1 (toLE 4 (portIdx p))
  let s := if s.bit chnMkstat 30 && s.bit chnMkstat 31 == (portIdx p == 1) && s.portState (otherPort p) == 3 then s.markSwitch (otherPort p) else s
  s.peerCheck
/-- The port was not down before. -/
def State.portWasUp (s : State) (p : ChPort) : Bool := s.portState p == 2 || s.portState p == 3

def execPortDown (p : ChPort) (s : State) : Out :=
  if s.chnData && s.portWasUp p then .next (((s.setLock p 4 false).setLock p 5 false).portDown p 4) else .next s
/-- Block lock of a chain data lane (R292, R302). -/
def State.chainLocked (s : State) (p : ChPort) (d1 : Bool) : State :=
  if !s.chnData || !s.portEn p then s
  else
    let s := s.setLock p (if d1 then 5 else 4) true
    let s := if s.portState p = 1 ∨ s.portState p = 4 then s.portLocking p 1 else s
    s.peerCheck
def State.chainUnlocked (s : State) (p : ChPort) (d1 : Bool) : State :=
  if !s.chnData then s
  else
    let s := s.setLock p (if d1 then 5 else 4) false
    if !s.portLock p 4 && !s.portLock p 5 && s.portWasUp p then s.portDown p 4 else s.peerCheck
/-- UPEN or DNEN changes. A port that is disabled goes down as one that loses lock does (R298). -/
def State.portEnable (s : State) (p : ChPort) (en : Bool) : State :=
  if en then (if s.portState p = 0 ∧ !s.bit chnPilot 1 then s.portLocking p 1 else s)
  else
    let s' := (s.setLock p 4 false).setLock p 5 false
    if s.portWasUp p then s'.portDown p 0 else ((s'.setPortState p 0).setBit (chnDly (portIdx p)) 31 false).peerCheck

def execBlockLockAcquired (k : Link) (s : State) : Out :=
  match k with
  | .cell l => .next (s.laneLocked l)
  | .chain p d1 => .next (s.chainLocked p d1)
def execBlockLockLost (k : Link) (s : State) : Out :=
  match k with
  | .cell l => .next (s.laneUnlocked l)
  | .chain p d1 => .next (s.chainUnlocked p d1)
def execPilotSyncLoss (p : ChPort) (s : State) : Out := if s.pilotOn then .next (s.setLock p 6 false).peerCheck else .next s
def execPilotSyncAcquired (p : ChPort) (s : State) : Out := if s.pilotOn then .next (s.setLock p 6 true).peerCheck else .next s

/-- The measurement of a chain port passes: the spread is 8 UI or less and no DLY exceeds 300,000 UI (R302). -/
def chainDly (es : List Nat) : Option Nat := if maxN es - minN es ≤ 8 ∧ maxN es ≤ 300000 then some (minN es) else none
def execChainDecho (p : ChPort) (token : Byte) (turn : BitVec 16) (rtt : Nat) (s : State) : Out :=
  let k := s.cport p
  let st := s.portState p
  if !s.chnData || !k.measuring || token.toNat ≠ k.token || !(st == 2 || st == 3) then .next s
  else
    let es := k.echoes ++ [(rtt - turn.toNat) / 2]
    let tok := (k.token + 1) % 256
    if es.length < 8 then
      .next ((s.setCport p { k with echoes := es, token := tok }).sendDreq p tok)
    else
      let s := s.setCport p { k with echoes := [], token := tok, measuring := false }
      match chainDly es with
      | some d =>
        if st = 2 then .next ((s.wr (chnDly (portIdx p)) (2 ^ 31 + d)).setPortState p 3)
        else .next (s.setCport p { s.cport p with newDly := some d })
      | none =>
        if st = 3 then .next (s.setBit chnStatus 9 true)
        else if k.attempts < 4 then .next (s.startMeasure p (k.attempts + 1))
        else .next ((s.setBit chnStatus 9 true).portDown p 5)
/-- A DREQ is answered. -/
def execChainDreq (p : ChPort) (token : Byte) (turn : BitVec 16) (s : State) : Out :=
  if s.chnData && (s.portLock p 4 || s.portLock p 5) then
    .next (s.setChain { s.chain with dechoOut := s.chain.dechoOut ++ [(p, s.blockLane p, token.toNat, turn.toNat)] })
  else .next s
/-- Every 1 ms a port that is up measures again (R302); what an earlier measurement still waits for is given up. -/
def execDelayRemeasure (p : ChPort) (s : State) : Out :=
  if s.chnData && s.portState p == 3 then .next (s.startMeasure p 1) else .next s
def execPortRetry (p : ChPort) (s : State) : Out :=
  if s.chnData && s.portState p == 5 then .next (s.portLocking p 1) else .next s

/-! ## Marks (R307 to R313) -/

/-- The control blocks of the chain (R292). -/
def chainBlock (t : Nat) : Bool := [0x1E, 0x78, 0x4B, 0x55, 0x66].contains t
/-- The chain count of a CMARK (R310). -/
def State.formCount (s : State) (hi : Bool) (ccl : Nat) : Nat :=
  if hi then ccl * 256 % 2 ^ 32
  else
    let base := s.rd chnCcount + 1
    let d := (ccl + 2 ^ 24 - base % 2 ^ 24) % 2 ^ 24
    (if d ≤ 2 ^ 23 then base + d else base + d + 2 ^ 32 - 2 ^ 24) % 2 ^ 32
/-- The port in use (R312). -/
def State.markPort (s : State) : ChPort := portOf (if s.bit chnMkstat 30 then s.bit chnMkstat 31 else s.bit chnMkcfg 30)
/-- The CMARK of a port becomes the one that the next chain mark follows, unless its mark was raised by the flywheel and it comes no later
than 2 × FLY fc after it (R311). `now` is the fc since the latest mark. -/
def State.useMark (s : State) (p : ChPort) (count hops now : Nat) : State :=
  let s := (s.setBit chnMkstat 31 (portIdx p == 1)).setFld chnMkstat 29 24 hops
  let s := s.wr chnCcount count
  if s.chain.flyMark = some count ∧ now ≤ 2 * s.fld chnMkcfg 15 0 then s else s.setChain { s.chain with pendMark := some (count, hops, p) }

/-- A CMARK arrives on D0 of port p (R308 to R312). `skew` is the time in fc since the other port's CMARK for the same mark, 0 when this
one is the first. OFS of the CMARK sent on counts the UI to its place in the control slots, which is free (log entry 107). -/
def execCmark (p : ChPort) (typ : Byte) (ccl ofs : BitVec 24) (hops : BitVec 6) (hi : Bool) (skew now : Nat) (s : State) : Out :=
  if !(s.laneIn p .d0 || s.laneIn p .d1) then .next s
  else if typ ≠ 0x66 then .next (if chainBlock typ.toNat then s else s.chnDrop false)
  else if s.portState p ≠ 3 then .next s
  else
    let o := otherPort p
    -- sent on from the other port, OFS counted from the master mark
    let s := if s.portState o = 3 then
        let (w, s) := s.freeWord
        let out : CMark := { port := o, lane := s.blockLane o, ccl := ccl.toNat, ofs := (ofs.toNat + s.fld (chnDly (portIdx p)) 20 0 + 128 + w.toNat % 66) % 2 ^ 24,
                             hops := (hops.toNat + 1) % 64, hi }
        s.setChain { s.chain with marksOut := s.chain.marksOut ++ [out] }
      else s
    let count := s.formCount hi ccl.toNat
    let s := if hi then s.setBit chnStatus 10 true else s
    let s := s.setCport p { s.cport p with seenMark := some (count, hops.toNat), streak := (s.cport p).streak + 1 }
    let cur := s.markPort
    let s := s.setBit chnMkstat 31 (portIdx cur == 1) |>.setBit chnMkstat 30 true
    let pref := portOf (s.bit chnMkcfg 30)
    if p = cur then
      match (s.cport o).seenMark with
      | some (c, h) =>
        if c = count ∧ 64 < skew then
          let s := s.setCport p { s.cport p with streak := 0 }
          .next ((s.markSwitch o).useMark o count h now)
        else .next (s.useMark p count hops.toNat now)
      | none => .next (s.useMark p count hops.toNat now)
    else if s.portState cur ≠ 3 then .next ((s.markSwitch p).useMark p count hops.toNat now)
    else if p = pref ∧ 16 ≤ (s.cport p).streak then .next (s.useMark p count hops.toNat now)
    else .next s

/-- The chain at every mark: a new DLY takes effect (R302), PEERHB shows the period that ended (R314), the mark master sends its
CMARK (R307), whose place in the control slots and so OFS is free (log entry 107). -/
def State.chainAtMark (s : State) : State :=
  if !s.live .chn then s else
  let s := s.each [ChPort.up, ChPort.dn] fun (s : State) p => match (s.cport p).newDly with
    | some d => (s.wr (chnDly (portIdx p)) (2 ^ 31 + d)).setCport p { s.cport p with newDly := none }
    | none => s
  let s := (s.setBit chnPairstat 6 (s.pairOn && s.chain.hbNow)).setChain { s.chain with hbNow := false, hbs := if s.chain.hbNow then s.chain.hbs else 0 }
  if s.bit chnMkcfg 31 && !s.per.chainSrc then
    let n := s.rd perCount
    let hi := n % 256 == 0
    s.each [ChPort.up, ChPort.dn] fun (s : State) p =>
      if s.portState p = 3 then
        let (w, s) := s.freeWord
        let m : CMark := { port := p, lane := s.blockLane p, ccl := if hi then n / 256 else n % 2 ^ 24, ofs := w.toNat % 2 ^ 24, hops := 0, hi }
        s.setChain { s.chain with marksOut := s.chain.marksOut ++ [m] }
      else s
  else s

/-- A chain mark takes its count from the pending CMARK (R309, R311): the count; and the other port when the port in use has not
delivered (R312). -/
def State.chainCount (s : State) (now : Nat) : Option Nat × State :=
  let cur := s.markPort
  let s := match s.chain.pendMark, (s.cport (otherPort cur)).seenMark with
    | none, some (c, h) =>
      if s.chain.flyMark ≠ some c ∧ s.rd chnCcount ≠ c then (s.markSwitch (otherPort cur)).useMark (otherPort cur) c h now else s
    | _, _ => s
  match s.chain.pendMark with
  | none => (none, s)
  | some (c, h, p) =>
    let pref := portOf (s.bit chnMkcfg 30)
    let s := match (s.cport pref).seenMark with
      | some (c', _) => if c' = c then s else s.setCport pref { s.cport pref with streak := 0 }
      | none => s.setCport pref { s.cport pref with streak := 0 }
    let s := ((s.setBit chnMkstat 31 (portIdx p == 1)).setFld chnMkstat 29 24 h).setFld chnMkstat 23 16 0
    let s := s.setFld chnMkstat 15 0 (wrapN 16 ((s.per.len : Int) - now))
    (some c, s.setChain { s.chain with pendMark := none, flyMark := none })

/-- The mark master sends a trim mark on both pilot lanes every 1 ms, in every powered state (R313): the Binnacle keeps the setting of
MASTER (log entry 106). -/
def execTrimMarkSend (s : State) : Out :=
  if s.pilotOn && s.chain.trimMaster then .next (s.setChain { s.chain with trimUp := s.chain.trimUp + 1, trimDn := s.chain.trimDn + 1 })
  else .next s

/-! ## Reset (R299, R301, R310) -/

/-- The CHN block after a reset: what the Binnacle holds stays; ports that are enabled run their bring-up. -/
def State.chnRestart (s : State) : State :=
  let addr := s.rd chnAddr
  let pil := s.rd chnPilot
  let s := s.resetRegs chnBase (chnBase + 0x10000)
  let s := (s.wr chnAddr addr).wr chnPilot pil
  let c := s.chain
  let s := s.setChain { ({} : Chain) with up := { pilot := c.up.pilot }, dn := { pilot := c.dn.pilot }, trimMaster := c.trimMaster, sent := c.sent, casts := c.casts, inbox := c.inbox.filter fun x => x.2.1, marksOut := c.marksOut,
                                          dreqOut := c.dreqOut, dechoOut := c.dechoOut, trimUp := c.trimUp, trimDn := c.trimDn }
  (if s.clk.cdUp then (s.portEnable .up true).portEnable .dn true else s).peerCheck

end Sys2Proof.Machine
end

