-- ==== Sys2Proof/Machine/Flash.lean ====
section
/-!
DEFINITION. The flash array and the record store: operations (R419 to R427, R432 to R435), reads (R417, R423, R426), the recall (R425,
R434, R436, R438), spread counters (R441 to R443).
-/
namespace Sys2Proof.Machine

def flashBase : Nat := 0x5010000000
def refreshBuf : Nat := nvrBaseAddr + 0x8000
def sectorBase (n : Nat) : Nat := flashBase + 0x10000 * n
def bankOf (sector : Nat) : Nat := sector / 32
def State.setFlash (s : State) (f : Flash) : State := { s with flash := f }

/-- A status bit of the flash unit is set and logged (R440). -/
def State.flsFlag (s : State) (i param : Nat) : State := (s.setBit flsStatus i true).evLog 2 i param

/-! ## The flash state record (R425, R439) -/

def State.flashRec (s : State) : List Nat := recRead s 2 3
def State.setIntent (s : State) (w : Nat) : State := s.recWrite 2 [w, s.flashRec.getD 1 0, s.flashRec.getD 2 0]
def State.dirty (s : State) (n : Nat) : Bool := s.bit (flsDirty (n / 32)) (n % 32)
def State.setDirty (s : State) (n : Nat) (b : Bool) : State :=
  let s := s.setBit (flsDirty (n / 32)) (n % 32) b
  s.recWrite 2 [s.flashRec.getD 0 0, s.rd (flsDirty 0), s.rd (flsDirty 1)]
/-- The operation intent: VALID, OP, phase, sector, lines done. -/
def intentWord (op phase sector : Nat) (lines : Nat := 0) : Nat := 2 ^ 31 + op * 2 ^ 24 + phase * 2 ^ 23 + sector * 2 ^ 16 + lines % 8192

/-! ## Commands (R419, R421, R422) -/

/-- The flash bank that the core fetches from, if it fetches from the flash array (R344, R422). -/
def fetchBank (k : Core) : Option Nat :=
  let pc := k.pc.toNat
  let a := (k.seg[toFin 16 (pc / 2 ^ 28)]).toNat % 4096 * 2 ^ 28 + pc % 2 ^ 28
  if 2 ^ 28 ≤ pc ∧ flashBase ≤ a ∧ a < flashBase + 0x400000 then some (bankOf ((ofsFrom flashBase a) / 0x10000)) else none
def State.requesterBank (s : State) : Requester → Option Nat
  | .mgmt => fetchBank (s.core 8)
  | .island => fetchBank (s.core 9)
  | _ => none

def State.flsTarget (s : State) : Nat := s.fld flsAddr 21 4 * 16
def State.protected? (s : State) (n : Nat) : Bool := s.bit (flsWp (n / 32)) (n % 32)

/-- Why PROGRAM (1), ERASE (2), MCHECK (5) or REFRESH (6) from requester r is refused: the flag of R421. -/
def State.flashRefusal (s : State) (op : Nat) (r : Requester) : Option Nat :=
  let a := s.flsTarget
  let n := a / 0x10000
  if s.flash.op.isSome then some 0
  else if op ≠ 5 ∧ s.protected? n then some 2
  else if op = 1 ∧ s.bytes (flashBase + a) 16 ≠ List.replicate 16 0xFF then some 3
  else if op ≠ 2 ∧ s.dirty n then some 0
  else if op ≠ 5 ∧ s.requesterBank r = some (bankOf n) then some 1
  else none

/-- BUSY, SUSP and WSUSP for the operation that exists. -/
def State.flashBusy (s : State) (susp wsusp : Bool) : State :=
  ((s.setBit flsStatus 31 (s.flash.op.isSome && !susp && !wsusp)).setBit flsStatus 30 susp).setBit flsStatus 29 wsusp

/-- The operation starts, a PROGRAM or an ERASE with its intent (R425), a REFRESH with its copy, which a supply warning does not hold up
(R433, R444). -/
def State.flashBegin (s : State) (op sector line : Nat) (data : List Byte) : State :=
  let s := if op = 1 then s.setIntent (intentWord 1 0 sector) else if op = 2 then s.setIntent (intentWord 2 0 sector) else s
  let s := s.setFlash { s.flash with op := some { op, sector, line := if op = 6 then 0 else line, data } }
  s.flashBusy false (s.flash.warn && op != 5 && op != 6)

def State.flashCmd (s : State) (op : Nat) (r : Requester) : State :=
  let a := s.flsTarget
  match s.flashRefusal op r with
  | some f => s.flsFlag f (a / 0x10000)
  | none => s.flashBegin op (a / 0x10000) (a / 16 % 4096) ((List.range 4).flatMap fun i => toLE 4 (s.rd (flsData i)))
def execProgram (r : Requester) (s : State) : Out := .next (s.flashCmd 1 r)
def execErase (r : Requester) (s : State) : Out := .next (s.flashCmd 2 r)
/-- Only the margin check is open to every requester (R422). -/
def execMcheck (s : State) : Out := .next (s.flashCmd 5 .dma)
def execRefresh (r : Requester) (s : State) : Out := .next (s.flashCmd 6 r)

/-- The operation erases: an ERASE, or a REFRESH in its erase phase. -/
def FOp.erases (f : FOp) : Bool := f.op == 2 || f.op == 6 && f.phase == 2
/-- The operation programs: a PROGRAM, or a REFRESH in its program phase. -/
def FOp.programs (f : FOp) : Bool := f.op == 1 || f.op == 6 && f.phase == 3
def State.eraseOp (s : State) : Bool := match s.flash.op with
  | some f => f.erases
  | none => false
/-- SUSPEND (R424, R444). -/
def State.flashSuspend (s : State) : State :=
  if s.eraseOp && !s.bit flsStatus 30 then s.flashBusy true (s.bit flsStatus 29) else s.flsFlag 0 0
def execSuspend (s : State) : Out := .next s.flashSuspend
def State.flashResume (s : State) : State :=
  if s.bit flsStatus 30 && !s.flash.warn then s.flashBusy false (s.bit flsStatus 29) else s.flsFlag 0 0
def execResume (s : State) : Out := .next s.flashResume

/-! ## Completion (R420, R425, R426, R432, R433) -/

def eraseCount (n : Nat) : Nat := nvrBaseAddr + 0x3000 + 4 * n
/-- An erase of sector n completes: 0xFF everywhere, one more erase counted. -/
def State.eraseSector (s : State) (n : Nat) : State :=
  let s := s.clearMem (sectorBase n) (sectorBase (n + 1))
  s.setWord (eraseCount n) (s.word (eraseCount n) + 1)
/-- The operation is over. -/
def State.flashOver (s : State) : State := ((s.setFlash { s.flash with op := none }).flashBusy false false).setBit flsStatus 8 true
def State.flashGoOn (s : State) (f : FOp) : State := s.setFlash { s.flash with op := some f }
/-- A REFRESH has come to the end of a phase, or has programmed back lines up to the number told (R433). -/
def State.refreshStep (s : State) (f : FOp) (lines : Nat) : State :=
  if f.phase = 0 then
    let s := (s.setBytes refreshBuf (s.bytes (sectorBase f.sector) 0x10000)).setIntent (intentWord 3 1 f.sector)
    (s.flashGoOn { f with phase := if s.flash.warn then 1 else 2 }).flashBusy false s.flash.warn
  else if f.phase = 2 then (s.eraseSector f.sector).flashGoOn { f with phase := 3, line := 0 }
  else
    let n := Nat.max f.line (Nat.min lines 4096)
    let s := s.store (sectorBase f.sector + 16 * f.line) (s.bytes (refreshBuf + 16 * f.line) (16 * (n - f.line)))
    if n < 4096 then (s.setIntent (intentWord 3 1 f.sector n)).flashGoOn { f with line := n }
    else ((s.setIntent 0).wr flsRedir 0).flashOver
def State.flashFinish (s : State) (f : FOp) (lines : Nat) : State :=
  if f.op = 1 then State.flashOver ((s.store (sectorBase f.sector + 16 * f.line) f.data).setIntent 0)
  else if f.op = 2 then State.flashOver (((s.eraseSector f.sector).setDirty f.sector false).setIntent 0)
  else if f.op = 5 then
    let s := s.wr flsMargin (2 ^ 31 + f.sector * 2 ^ 24 + lines % 8192)
    State.flashOver (if lines = 0 then s else s.flsFlag 9 f.sector)
  else s.refreshStep f lines
/-- The running operation completes, a REFRESH a phase of it; `lines` is the number of lines that an MCHECK found to differ, or that the program
phase of a REFRESH has done. -/
def execFlashOperationDone (lines : Nat) (s : State) : Out :=
  match s.flash.op with
  | some f => .next (if s.bit flsStatus 31 then s.flashFinish f (Nat.min lines 4096) else s)
  | none => .next s

/-! ## Supply warning (R435) -/

def State.flashWarn (s : State) : State :=
  let s := s.flsFlag 10 0
  let s := s.setFlash { s.flash with warn := true }
  match s.flash.op with
  | some f => if f.op = 5 ∨ f.op = 6 ∧ f.phase = 0 then s else s.flashBusy (s.bit flsStatus 30) true
  | none => s
def execFlashAutoResume (s : State) : Out :=
  if s.flash.warn then
    let s := s.setFlash { s.flash with warn := false, op := s.flash.op.map fun f => if f.phase = 1 then { f with phase := 2 } else f }
    .next (s.flashBusy (s.bit flsStatus 30) false)
  else .next s

def execWriteProtect (hi : Bool) (v : Word) (s : State) : Out := .next (s.orReg (flsWp (b2n hi)) v.toNat)

/-! ## Reads (R417, R423, R426, R434) -/

/-- n bytes at address a of the sector that operation f works on. A read waits for what is programmed and sees it done (R423, log entry 118); what
an interrupted erase or program leaves is open: free bytes. -/
def State.flashUnder (s : State) (f : FOp) (a n : Nat) : List Byte × State :=
  let here := ofsFrom (sectorBase f.sector) a
  if f.programs && s.bit flsStatus 31 then
    (if f.op = 1 then (s.setBytes (sectorBase f.sector + 16 * f.line) f.data).bytes a n else s.bytes (refreshBuf + here) n, s)
  else if f.erases || f.programs && here / 16 == f.line then
    let (w, s) := s.freeWord
    (toLE n w.toNat, s)
  else (s.bytes a n, s)
/-- n bytes of the flash array at address a, or none for an error response: of a bank under erase and of a dirty sector (R423, R426), of a line in
error (R417). A redirected sector is read from the refresh buffer (R434, R444). -/
def State.flashRead (s : State) (a n : Nat) (ecc : Ecc) : Option (List Byte) × State :=
  let sector := (ofsFrom flashBase a) / 0x10000
  let redir := s.bit flsRedir 31 && s.fld flsRedir 5 0 == sector
  let under := !redir && s.bit flsStatus 31 && (match s.flash.op with
    | some f => f.erases && bankOf f.sector == bankOf sector
    | none => false)
  if under || s.dirty sector then
    let s := if under then s.flsFlag 4 sector else s
    (none, if s.dirty sector then s.flsFlag 5 sector else s)
  else if redir then (some (s.bytes (refreshBuf + ofsFrom (sectorBase sector) a) n), s)
  else match s.eccOf a n ecc with
    | .uncorrectable => (none, ((s.setBad a n).wr flsUeaddr (2 ^ 31 + (ofsFrom flashBase a) / 16 * 16)).flsFlag 7 sector)
    | _ =>
      let s := if ecc = .corrected then (s.count flsCecnt 15 0).setBit flsStatus 6 true else s
      match s.flash.op with
      | some f =>
        if f.sector = sector then
          let (d, s) := s.flashUnder f a n
          (some d, s)
        else (some (s.bytes a n), s)
      | none => (some (s.bytes a n), s)

/-! ## Recall (R425, R434, R436, R438, R440) -/

/-- The valid event-log entry i with its SEQ. -/
def evEntry (s : State) (i : Nat) : Option (Nat × Nat) :=
  let a := nvrBaseAddr + 0x2000 + 16 * i
  if s.word (a + 12) = crc32 (s.bytes a 12) then some (i, s.word a / 65536) else none
/-- The newest valid entry. -/
def newestEntry (s : State) : Option (Nat × Nat) :=
  ((List.range 256).filterMap fun i => evEntry s i).foldl (fun b e => match b with
    | none => some e
    | some o => if seqNewer e.2 o.2 then some e else some o) none

def State.recallIntent (s : State) : State :=
  let ws := s.flashRec
  let w := ws.getD 0 0
  let s := (s.wr (flsDirty 0) (ws.getD 1 0)).wr (flsDirty 1) (ws.getD 2 0)
  if !w.testBit 31 then s
  else
    let n := bits w 21 16
    if bits w 25 24 = 3 then
      if w.testBit 23 then
        let s := (s.wr flsRedir (2 ^ 31 + n)).setFlash { s.flash with op := some { op := 6, sector := n, line := 0, data := [], phase := 2 } }
        s.flashBusy false s.flash.warn
      else s.setIntent 0
    else (s.setDirty n true).setIntent 0

/-- The wake record (R463): the source code and the state left. -/
def State.writeWake (s : State) (code from_ : Nat) : State :=
  (s.recWrite 6 [code + 256 * from_]).wr pwrWakesrc (code + 256 * from_)

/-- The recall completes: records without a valid copy are marked, the event log's head found, an intent acted on, the wake record
shown. -/
def execRecordStoreRecall (s : State) : Out :=
  if s.bit nvrStatus 31 || decide (s.clk.power = .off) then .next s
  else
    let bad := (List.range 6).foldl (fun m i => if (recNewest s (i + 1)).isNone then m + 2 ^ (i + 1) else m) 0
    let s := (s.setBit nvrStatus 31 true).wr nvrRecbad bad
    let s := match newestEntry s with
      | some (i, q) => s.wr nvrEvhead ((q + 1) % 65536 * 65536 + (i + 1) % 256)
      | none => s.wr nvrEvhead 0
    let s := if bad = 0 then s else (s.setBit nvrStatus 0 true).evLog 3 0 bad
    let s := s.recallIntent
    .next (match recNewest s 6 with
      | some (_, _, ws) => s.wr pwrWakesrc (ws.getD 0 0)
      | none => s.writeWake 0 0)

/-! ## Spread counters (R441 to R443) -/

/-- Word index w of the record store. -/
def nvrWord (w : Nat) : Nat := nvrBaseAddr + 4 * w
def State.lowCell (s : State) (base i : Nat) : Nat := s.word (nvrWord (base + 1 + i))
/-- The carry that cell L_((h+1) mod n) holds pending for h. -/
def State.carryPending (s : State) (base n h : Nat) : Bool :=
  let c := s.lowCell base ((h + 1) % n)
  c.testBit 31 && (b2n (c.testBit 30) == (h + 1) % 2)
def State.spreadRead (s : State) (base n : Nat) : Nat :=
  let h := s.word (nvrWord base)
  if s.carryPending base n h then (h + 1) * 2 ^ 24 + s.lowCell base ((h + 1) % n) % 2 ^ 24
  else h * 2 ^ 24 + s.lowCell base (h % n) % 2 ^ 24
def satH (h : Nat) : Nat := Nat.min h 0xFFFFFFFF
def State.spreadInc (s : State) (base n : Nat) : State :=
  let h0 := s.word (nvrWord base)
  let pend := s.carryPending base n h0
  let h := if pend then satH (h0 + 1) else h0
  let s := if pend then s.setWord (nvrWord base) h else s
  let c := s.lowCell base (h % n) % 2 ^ 24
  if c < 2 ^ 24 - 1 then s.setWord (nvrWord (base + 1 + h % n)) (c + 1)
  else
    let s := s.setWord (nvrWord (base + 1 + (h + 1) % n)) (2 ^ 31 + (h + 1) % 2 * 2 ^ 30)
    s.setWord (nvrWord base) (satH (h + 1))

def State.cntN (s : State) (k : Nat) : Nat := s.fld (nvrCntcfg k) 28 24 + 1
def State.cntBase (s : State) (k : Nat) : Nat := s.fld (nvrCntcfg k) 15 0
def State.cntErr (s : State) : State := (s.setBit nvrStatus 2 true).evLog 3 2 0
/-- A write of NVR_CNTINC. -/
def State.cntInc (s : State) (mask : Nat) : State :=
  s.each (setBitsOf mask 8) fun (s : State) k =>
    if s.bit (nvrCntcfg k) 31 && s.bit nvrStatus 31 then s.spreadInc (s.cntBase k) (s.cntN k) else s.cntErr
def execCounterIncrement (mask : Byte) (s : State) : Out := .next (s.cntInc mask.toNat)
/-- A write of NVR_CNTCFGk: one that places a word of the counter outside the free area is refused, whatever its EN (R443). -/
def State.cntConfig (s : State) (k v : Nat) : State :=
  let base := bits v 15 0
  let n := bits v 28 24 + 1
  if s.bit nvrCtrl 31 then s
  else if base < 0x6000 ∨ 0xFFFF < base + n then s.cntErr
  else s.wr (nvrCntcfg k) (v &&& 0x9F00FFFF)
/-- A read of NVR_CNTLOk: it latches the high part into NVR_CNTHIk. -/
def State.cntLo (s : State) (k : Nat) : Nat × State :=
  let v := s.spreadRead (s.cntBase k) (s.cntN k)
  (v % 2 ^ 32, s.wr (nvrCnthi k) (v / 2 ^ 32 % 2 ^ 24))

end Sys2Proof.Machine
end

