-- ==== Sys2Proof/Machine/EntrySearch.lean ====
section
/-!
DEFINITION. The search of a chart-build entry (R167): a deterministic search of the copied table on one cluster, run step by step from
the end of its latch to the spent budget or the exhausted tree (R99 to R101, R107, R108, R113, R115). Log entry 7 tells what the order of
the events of one step rests on.
-/
namespace Sys2Proof.Machine

/-- A search on one cluster: `land` holds the steps in which the batches in flight land, `fine` the prefixes of the nodes whose refined
bound is in work, with the step in which it completes. -/
structure Solo where
  q : Problem
  c : Cluster
  land : List Nat := []
  fine : List (Course × Nat) := []

/-- The bounds of R97 are formed, and the root is placed for stage 1 (R108). -/
def soloStart (t : Table) (x0 : List Int) (u : Leg) : Solo :=
  let t := { t with determ := true }
  let q : Problem := ({ tbl := t, umax := t.acts.map (·.umax), u } : Problem).withBounds x0
  { q := { q with stage1 := true, lvl := [{ d := 0, pfx := [], x := x0, acc := 0, lb := childBound t q.tail 0 0 }] }, c := {} }
/-- The oldest batch lands (R101). -/
def Solo.landOne (z : Solo) : Solo :=
  match z.c.flight with
  | [] => z
  | b :: bs =>
    let a := b.lands z.q { z.c with flight := bs }
    if a.q.stage1 then { z with q := { a.q with nxt := a.q.nxt ++ a.keep }, c := a.c, land := z.land.drop 1 }
    else { z with q := a.q, c := { a.c with frontier := a.keep ++ a.c.frontier }, land := z.land.drop 1 }
/-- The batch whose results are due lands. -/
def Solo.lands (z : Solo) (now : Nat) : Solo := if z.land.head? = some now then z.landOne else z
/-- The refined bounds that complete in this step (R99). -/
def Solo.refines (z : Solo) (now : Nat) : Solo :=
  let due := (z.fine.filter fun f => f.2 == now).map (·.1)
  if due.isEmpty then z else
  { z with fine := z.fine.filter fun f => f.2 != now,
           c := { z.c with frontier := z.c.frontier.map fun n =>
             if due.contains n.pfx then
               { n with lb := Nat.max n.lb (refinedBound z.q.tbl z.q.umax n.x (n.levels z.q.u) n.d n.acc), refined := true }
             else n } }
/-- A level of stage 1 is done: the next one starts, or with four survivors the cluster takes them all (R108). -/
def Solo.deal (z : Solo) : Solo :=
  if z.q.stage1 && z.q.lvl.isEmpty && z.c.flight.isEmpty then
    if z.q.nxt.length < 4 && !z.q.nxt.isEmpty then { z with q := { z.q with lvl := z.q.nxt, nxt := [] } }
    else { z with q := { z.q with stage1 := false, nxt := [] }, c := { z.c with frontier := z.q.nxt } }
  else z
/-- One pass of the loop of R101; a batch issued lands 24 steps later. -/
def Solo.pass (z : Solo) (now : Nat) : Solo :=
  let put (q : Problem) (c : Cluster) : Solo :=
    { z with q, c, land := if c.flight.length = z.c.flight.length then z.land else z.land ++ [now + 24] }
  if z.q.stage1 then
    match z.q.lvl with
    | [] => z
    | n :: rest => let (q, c, l) := passNode z.q z.c n rest; put { q with lvl := l } c
  else
    match z.c.frontier with
    | [] => z
    | n :: rest => let (q, c, l) := passNode z.q z.c n rest; put q { c with frontier := l }
/-- A node that has first reached the top of the frontier starts its refined bound (R99). -/
def Solo.top (z : Solo) (now : Nat) : Solo :=
  match z.c.frontier with
  | n :: rest =>
    if n.seen || z.q.stage1 then z
    else { z with c := { z.c with frontier := { n with seen := true } :: rest }, fine := z.fine ++ [(n.pfx, now + 4 * (z.q.tbl.h - n.d))] }
  | [] => z
def Solo.done (z : Solo) : Bool := z.q.lvl.isEmpty && z.q.nxt.isEmpty && z.c.frontier.isEmpty && z.c.flight.isEmpty
/-- One step. -/
def Solo.step (z : Solo) (now : Nat) : Solo := ((((z.lands now).refines now).deal).top now |>.pass now).top now
/-- `n` steps from step `now`, fewer when the tree is exhausted. -/
def Solo.run (z : Solo) (now : Nat) : Nat → Solo
  | 0 => z
  | n + 1 => if z.done then z else Solo.run (z.step now) (now + 1) n
/-- Batches in flight land after the close (R117). -/
def Solo.drain : Nat → Solo → Solo
  | 0, z => z
  | n + 1, z => Solo.drain n z.landOne
/-- The incumbent course of the entry search from X^(0) and U^(0) with a budget in steps, of which the latch takes 256 (R115). -/
def entrySearch (t : Table) (x0 : List Int) (u : Leg) (bud : Nat) : Option Course :=
  let z := (soloStart t x0 (u.take t.nu)).run 256 (bud - 256)
  (Solo.drain z.c.flight.length z).c.inc.map (·.course)

end Sys2Proof.Machine
end

