-- ==== Sys2Proof/Machine/Chart.lean ====
section
/-!
DEFINITION. The chart unit: buffer operations (R145 to R147), lookups (R156 to R160), verification (R161, R162), activation
(R164, R165), the builder (R166 to R168), re-verification and background verification (R169, R170).
-/
namespace Sys2Proof.Machine

/-! ## Buffer states (R145): 0 EMPTY, 1 LOADING, 2 VERIFYING, 3 READY, 4 ACTIVE, 5 BUILDING, 6 BAD -/

/-- A buffer takes a state. PROG is 1000 once a verification has passed, and 0 when a build starts or nothing has run; what it reads
while a verification runs and after a failed one is open (log entry 41). -/
def State.setBufState (s : State) (b : Buf) (st : Nat) : State :=
  (s.setFld (chrtBuf (bufIdx b)) 2 0 st).setFld (chrtBuf (bufIdx b)) 25 16 (if st = 3 ∨ st = 4 then 1000 else 0)
/-- CHRT_BUFA and CHRT_BUFB as read: PROG is a free value during a verification and in BAD. -/
def State.bufWord (s : State) (a : Nat) : Nat × State :=
  let v := s.rd a
  if v % 8 = 2 ∨ v % 8 = 6 then
    let (w, s) := s.freeWord
    (putBits v 25 16 (w.toNat % 1001), s)
  else (v, s)
def State.bufPend (s : State) (b : Buf) : Bool := s.bit (chrtBuf (bufIdx b)) 4
def State.setBufPend (s : State) (b : Buf) (v : Bool) : State := s.setBit (chrtBuf (bufIdx b)) 4 v
def otherBuf : Buf → Buf
  | .bufA => .bufB | .bufB => .bufA
/-- The buffer that ACTBUF names. -/
def State.actBuf (s : State) : Option Buf :=
  let a := s.fld chrtStatus 29 28
  if a = 1 then some .bufA else if a = 2 then some .bufB else none
/-- A buffer fails verification or is withdrawn: BAD, with no activation pending (R145, R158, R170). -/
def State.setBad6 (s : State) (b : Buf) : State := (s.setBufState b 6).setBufPend b false
def State.cmdErr (s : State) : State := s.setBit chrtStatus 2 true
/-- The build that runs is over; the one that waits follows it, from its first entry. -/
def State.endBuild (s : State) : State :=
  let m := s.chart.nextBuild
  let s := { s with chart := { s.chart with build := m, nextBuild := none } }
  if m.isSome then s.wr chrtBldprog 0 else s
/-- Work on a buffer stops: its build, its re-verification and background verification, and its pending activation. -/
def State.stopBuf (s : State) (b : Buf) : State :=
  let s := s.setBufPend b false
  let s := if s.chart.bg = some b then { s with chart := { s.chart with bg := none } } else s
  let s := if s.chart.reverBuf = some b then
      { s with chart := { s.chart with reverBuf := none, pendRever := false } }.setBit chrtStatus 27 false else s
  let s := { s with chart := { s.chart with nextBuild := s.chart.nextBuild.filter fun k => k.buf != b } }
  match s.chart.build with
  | some k => if k.buf = b then s.endBuild else s
  | none => s

/-! ## Operations of R147 -/

def execBegin (b : Buf) (s : State) : Out :=
  if !s.live .chrt then .next s
  else if [0, 3, 6].contains (s.bufState b) then .next ((s.stopBuf b).setBufState b 1) else .next s.cmdErr
def execVerify (b : Buf) (s : State) : Out :=
  if !s.live .chrt then .next s
  else if s.bufState b = 1 then .next (s.setBufState b 2) else .next s.cmdErr
def execActivate (b : Buf) (s : State) : Out :=
  if !s.live .chrt then .next s
  else if s.bufState b = 3 ∧ !s.bufPend .bufA ∧ !s.bufPend .bufB then .next ((s.setBufPend b true).setBit chrtStatus 7 false)
  else .next s.cmdErr
def execDeactivate (s : State) : Out :=
  if !s.live .chrt then .next s
  else if s.actBuf.isSome ∧ !s.bufPend .bufA ∧ !s.bufPend .bufB ∧ !s.bit chrtStatus 7 then .next (s.setBit chrtStatus 7 true)
  else .next s.cmdErr
def execAbort (b : Buf) (s : State) : Out :=
  if !s.live .chrt then .next s
  else if s.bufState b = 4 then .next s.cmdErr else .next ((s.stopBuf b).setBufState b 0)

/-! ## Verification -/

/-- An uncorrectable error that a verification met is handled as R247 states. -/
def State.memUeAt (s : State) (ue : Option Nat) : State := match ue with
  | some a => s.memUe a false
  | none => s
/-- A failure of a verification (R161): BAD, VERFAIL, and where it was; an uncorrectable error is also handled as R247 states. -/
def State.verifyFail (s : State) (b : Buf) (f : VFail) : State :=
  let s := ((s.memUeAt f.ue).setBad6 b).setBit chrtStatus 0 true
  s.wr chrtVerr (0x80000000 + bufIdx b * 2 ^ 30 + f.sec % 4 * 2 ^ 28 + f.code * 2 ^ 24 +
    (if f.code = 6 ∨ f.code = 7 ∨ f.code = 9 then f.blk % 2 ^ 24 else 0))
/-- A check that reads parts of buffer b, with what its reads meet: the state after it, and the first failure. -/
def State.checkRun (s : State) (b : Buf) (met : Met) (check : State → Option VFail) : State × Option VFail :=
  let (s, lost) := s.meetReads (bufBase b) (bufBase b + bufSize) met
  (s, (check (s.without lost)).map fun f => f.seen lost)
/-- Verification ends: at the first failing check or the first read that gets an error response, or with a pass. Before READY its first read
gets one; while a channel retrains it waits (R249, R258). -/
def execVerificationDone (b : Buf) (met : Met) (s : State) : Out :=
  if !s.live .chrt || s.bufState b ≠ 2 || s.chart.reverBuf == some b || s.anyRetrain then .next s
  else if !s.memReady then .next (s.verifyFail b { code := 9, sec := 0, blk := 0 })
  else
    let (s, f) := s.checkRun b met fun s => checkChart s b (s.fld chrtIlen 26 0)
    match f with
    | some f => .next (s.verifyFail b f)
    | none => .next (s.setBufState b 3)

/-! ## Lookups (R157 to R160) -/

/-- A lookup finds no course: it counts as a miss; a failed read also sets its CHRT_STATUS bit and withdraws the buffer. -/
def State.lookFail (s : State) (bitNo : Option Nat) : State :=
  let s := s.count chrtLkcnt 31 16
  match bitNo with
  | some i => { s.setBit chrtStatus i true with chart := { s.chart with withdraw := true } }
  | none => s
/-- The section that a search's lookups read: that of the chart active at its launch, never a buffer in EMPTY or LOADING (R147, R160). -/
def State.lookSect (s : State) (p : Slot) : Option Sect :=
  let q := s.prob p
  match q.chartBuf with
  | some b => if s.bufState b = 0 ∨ s.bufState b = 1 then none else matchSect s b p q.tbl
  | none => none
/-- The bursts that the oldest outstanding lookup of problem p reads. -/
def State.lookupReads (s : State) (p : Slot) : List Nat :=
  let q := s.prob p
  let (x0, u) := q.lookOld.getD (q.x0, q.u)
  match s.lookSect p with
  | some c => match c.entryFor x0 u with
    | some n => lookBursts s c n
    | none => []
  | none => []
/-- The bursts that the lookup reads next: those of its allotment in this window, up to the first whose channel retrains (R257, R258). Before
READY the first gets an error response. -/
def State.lookNow (s : State) (p : Slot) : List Nat :=
  let todo := (s.lookupReads p).drop (s.prob p).lookPos
  if s.memReady then (todo.take s.lkLeft).takeWhile fun a => !s.memWaits a else todo
/-- The lookup's next request waits: for the next window, or for a channel that retrains. -/
def State.lookWaits (s : State) (p : Slot) : Bool :=
  (s.lookNow p).isEmpty && decide ((s.prob p).lookPos < (s.lookupReads p).length)
/-- The oldest outstanding lookup of problem p goes on at fabric cycle `now` of the period, and returns when all its bursts have been read;
`chks` is what the checks of the bursts read now find, in order. A burst that gets an error response ends it without a course (log entry
95). -/
def execChartLookup (p : Slot) (chks : List Check) (now : Nat) (s : State) : Out :=
  let q := s.prob p
  if !s.live .chrt || !(q.lookup || q.lookOld.isSome) || s.lookWaits p then .next s else
  let (x0, u) := q.lookOld.getD (q.x0, q.u)
  let s := s.tellNow now
  let found : Looked := match s.lookSect p with
    | some c => chartLook s c x0 u
    | none => .miss
  let all := s.lookupReads p
  let bs := s.lookNow p
  let (s, bad) := s.unitReads true (bs.zipIdx.map fun b => (b.1, chks.getD b.2 {}))
  let s := s.setMem { s.gmem with lkUsed := s.gmem.lkUsed + bs.length }
  if bad.isNone && decide (q.lookPos + bs.length < all.length) then .next (s.setProb p { q with lookPos := q.lookPos + bs.length }) else
  let q := { q with lookup := q.lookup && q.lookOld.isSome, lookOld := none, lookPos := 0 }
  -- the stall of R109 ends with the last lookup outstanding
  let q := if q.lookup then q else q.unstallAt now
  match bad with
  | some (_, ue) => .next ((s.setProb p q).lookFail (if ue then some 4 else none))
  | none => match found with
    | .decodeError => .next ((s.setProb p q).lookFail (some 5))
    | .miss => .next ((s.setProb p q).lookFail none)
    | .course c =>
      -- a course that arrives after the close is discarded (R131)
      if s.phase p = 2 ∨ s.phase p = 3 then .next (s.setProb p { q with lastLookup := some c, seedPend := some c }) else .next (s.setProb p q)

/-! ## The builder -/

/-- The four refusals of R166. -/
def State.buildRefused (s : State) (cs : List Sect) : Bool :=
  !(cs.all Sect.keysOk) || !slotsDistinct cs || cs.any fun c =>
    let p : Slot := toFin 4 c.slot
    let t := slotTable s p
    c.tag != t.tag || s.validate p t (s.clampMax t) != 0 || c.h != t.h || c.nu != t.nu

/-- The header and directory of a chart: ID, and 1 to 4 sections (R149). -/
def headOk (s : State) (b : Buf) : Bool := s.word (bufBase b) == 0x43480001 && decide (1 ≤ nsec s b ∧ nsec s b ≤ 4)
/-- BUILD needs LOADING and a header and directory, read without an error response, with ID and 1 to 4 sections; the slots' tables are
copied. A build begun while another runs waits for its end (DESIGN CHOICE, log entry 112). -/
def execBuild (b : Buf) (met : Met) (s : State) : Out :=
  if !s.live .chrt then .next s
  else if s.bufState b ≠ 1 then .next s.cmdErr
  else if (burstsOf (bufBase b) 0x500).any s.memWaits then .next s
  else
    let (s, ok) := s.longRead (bufBase b) 0x500 met
    let cs := (sections s b).map (·.2)
    if !ok || !headOk s b then .next s.cmdErr
    else if s.buildRefused cs then .next (s.setBit chrtStatus 1 true)
    else
      let s := s.setBufState b 5
      let k : Build := { buf := b, tables := cs.map fun c => slotTable s (toFin 4 c.slot), sec := 0, done := [], out := [] }
      if s.chart.build.isSome then .next { s with chart := { s.chart with nextBuild := some k } }
      else .next { s.wr chrtBldprog 0 with chart := { s.chart with build := some k } }

/-- The representative start of entry n (R167): state and levels. -/
def Sect.start (c : Sect) (n : Nat) : List Int × Leg :=
  let qs := c.keys.zip (c.keys.foldl (fun (a : List Nat × Nat) k => (a.1 ++ [a.2 % k.nb], a.2 / k.nb)) ([], n)).1
  let val (k : CKey) (q : Nat) : Int := k.off + q * 2 ^ k.sh + 2 ^ k.sh / 2
  let keyed (src : Nat) : Option Int := (qs.find? fun x => x.1.src == src).map fun x => val x.1 x.2
  ((List.range 16).map fun i => match keyed i with | some v => clamp32 v | none => c.xref.getD i 0,
   (List.range 8).map fun j => match keyed (32 + j) with | some v => (clampTo 0 64 v).toNat | none => c.uref.getD j 0)

/-- The clusters that an enabled problem has or takes in this period: its effective mask from its launch on, and before a launch that may
still come those of its table that a latch may use (DESIGN CHOICE, log entry 112). -/
def State.claimed (s : State) (p : Slot) : Nat :=
  let q := s.prob p
  if !q.enabled then 0 else if q.launched || q.recDue then q.emask else q.tbl.mask &&& s.usable
/-- A cluster that the builder may use (R168). -/
def State.buildFree (s : State) (c : Cl) : Bool :=
  s.bit chrtBldmask c && s.bit srchClavail c && !(allSlots.any fun p => (s.claimed p).testBit c) && !(s.rot.segRunning && s.rot.cur == c.val)

/-- Lay out the blocks of the sections from offset `at` of the buffer: the state and the end of each section's area (log entry 23). -/
def State.writeSect (s : State) (b : Buf) (i : Nat) (es : List (Option Course)) (ofs : Nat) : State × Nat :=
  let c := sectAt s b i
  let blocks := (chunks 256 (es.length + 1) es).map (blockBytes (c.uref.take c.nu))
  let offs := prefixSums 0 (blocks.map fun k => (pad64 k).length / 64)
  let idx := ((offs.zip blocks).flatMap fun p => toLE 4 p.1 ++ toLE 4 p.2.length)
  let idxPad := pad64 idx
  let dataOfs := ofs + idxPad.length
  let body := blocks.flatMap pad64
  let a := bufBase b + 0x100 + 256 * i
  let s := s.unitPut (a + 8) (toLE 4 es.length ++ toLE 4 blocks.length ++ toLE 4 (ofs / 64) ++ toLE 4 (dataOfs / 64))
  let s := s.unitPuts (bufBase b + ofs) (idxPad ++ body)
  (s, dataOfs + body.length)

/-- The finished chart is written, with what its write bursts meet, and its verification begins (R167). -/
def State.finishBuild (s : State) (b : Buf) (secs : List (List (Option Course))) (met : Met) : State :=
  let (s, len) := secs.zipIdx.foldl (fun (a : State × Nat) e => a.1.writeSect b e.2 e.1 a.2) (s, 0x1000)
  let s := s.unitPut (bufBase b + 8) (toLE 4 (len / 64))
  let s := s.unitPut (bufBase b + 0x10) (chartDigest s b)
  let s := s.meetWrites (bufBase b) (bufBase b + len) met
  let s := s.wr chrtIlen (len / 64)
  (s.setBufState b 2).endBuild

/-- The progress of a build in thousandths: entries produced of all sections' entries (R172). -/
def State.buildProg (s : State) (k : Build) : Nat :=
  (sumN (k.done.map List.length) + k.out.length) * 1000 / Nat.max 1 (sumN ((sections s k.buf).map fun c => c.2.product))
/-- One entry search completes on cluster c: its course, or an empty entry, is stored in entry order (R167, R168); with the last one the chart
is written, and `met` is what that write meets. -/
def execBuildEntry (c : Cl) (met : Met) (s : State) : Out :=
  match s.chart.build with
  | none => .next s
  | some k =>
    if !s.live .chrt || !s.live .srch || !s.buildFree c || !s.memReady || s.anyRetrain then .next s
    else
      let sec := sectAt s k.buf k.sec
      let n := k.out.length
      let (x, u) := sec.start n
      let course := entrySearch (k.tables.getD k.sec {}) x u (s.fld chrtBldbud 23 0)
      let out := k.out ++ [course]
      if out.length < sec.product then
        let s := s.wr chrtBldprog (k.sec * 2 ^ 30 + out.length)
        let s := s.setFld (chrtBuf (bufIdx k.buf)) 25 16 (s.buildProg { k with out })
        .next { s with chart := { s.chart with build := some { k with out } } }
      else
        let done := k.done ++ [out]
        if k.sec + 1 < nsec s k.buf then
          let s := s.setFld (chrtBuf (bufIdx k.buf)) 25 16 (s.buildProg { k with done, out := [] })
          .next { s.wr chrtBldprog ((k.sec + 1) * 2 ^ 30) with
                  chart := { s.chart with build := some { k with sec := k.sec + 1, done, out := [] } } }
        else .next ((s.wr chrtBldprog (k.sec * 2 ^ 30 + out.length)).finishBuild k.buf done met)

/-! ## Activation (R158, R164, R165, R169) -/

/-- Tags of the active chart (R172). -/
def State.setTags (s : State) (b : Option Buf) : State :=
  match b with
  | none => s.setFld chrtStatus 19 16 0
  | some b => s.each allSlots fun s p =>
      match (sections s b).find? fun c => c.2.slot == p.val with
      | some c => (s.wr (chrtTag p) c.2.tag).setBit chrtStatus (16 + p) true
      | none => (s.wr (chrtTag p) 0).setBit chrtStatus (16 + p) false
/-- Make a buffer active, or none. -/
def State.setActive (s : State) (b : Option Buf) : State :=
  let s := s.setFld chrtStatus 29 28 (match b with | none => 0 | some b => bufIdx b + 1)
  let s := match b with
    | some b => (s.setBufState b 4).setBufPend b false
    | none => s
  s.setTags b
/-- The chart record (R165, log entry 24): buffer, CHRT_GEN, first 8 bytes of the digest, CRC over the BCRC words. -/
def State.writeChartRec (s : State) (b : Buf) : State :=
  s.recWrite 4 [bufIdx b, s.rd chrtGen, s.word (bufBase b + 0x10), s.word (bufBase b + 0x14), bcrcCrc s b]

/-- The chart unit at a mark: a withdrawal (of the active chart, or of a re-verified one that would become active at this mark), a
re-verified chart, an activation, a deactivation (R158, R164, R169, R170). -/
def State.chartMark (s : State) : State :=
  if !s.live .chrt then s else
  let s := if s.chart.withdraw then
      let c := s.chart
      let s := { s with chart := { c with withdraw := false, bg := none } }
      match s.actBuf with
      | some b => ((s.setBad6 b).setActive none).fire 0x1C
      | none => match c.pendRever, c.reverBuf with
        | true, some b => ({ s with chart := { s.chart with pendRever := false, reverBuf := none } }.setBad6 b).fire 0x1C
        | _, _ => s
    else s
  let s := if s.chart.pendRever then
      match s.chart.reverBuf with
      | some b => { s.setActive (some b) with chart := { s.chart with pendRever := false, reverBuf := none } }
      | none => s
    else s
  let s := [Buf.bufA, Buf.bufB].foldl (fun (s : State) b =>
    if s.bufPend b then
      let s := match s.actBuf with
        | some o => s.setBufState o 3
        | none => s
      let s := (s.setActive (some b)).wr chrtGen (s.rd chrtGen + 1)
      (s.writeChartRec b).fire 0x1B
    else s) s
  if s.bit chrtStatus 7 then
    let s := s.setBit chrtStatus 7 false
    match s.actBuf with
    | some b => (s.setBufState b 3).setActive none
    | none => s
  else s

/-! ## After resets and Standby (R169, R170) -/

/-- With GDDR6 retained the buffer named by the chart record is re-verified; any other becomes EMPTY. Without, both are EMPTY and
CHRT_GEN is 0. -/
def State.chartRestart (s : State) : State :=
  let s := ((s.setBufState .bufA 0).setBufState .bufB 0).setActive none
  let s := { (s.setBufPend .bufA false).setBufPend .bufB false with chart := {} }
  match s.gmem.retained, recNewest s 4 with
  | true, some (_, _, ws) =>
    let b := if ws.getD 0 0 = 0 then Buf.bufA else Buf.bufB
    let s := (s.setBufState b 2).setBit chrtStatus 27 true
    { s.wr chrtGen (ws.getD 1 0) with chart := { s.chart with reverBuf := some b } }
  | _, _ => (s.wr chrtGen 0).setBit chrtStatus 27 false

/-- Re-verification completes (R169). -/
def execChartReverify (met : Met) (s : State) : Out :=
  match s.chart.reverBuf with
  | some b =>
    if !s.live .chrt || !s.bit chrtStatus 27 || !s.memReady || s.anyRetrain then .next s
    else
      let (s, f) := (s.setBit chrtStatus 27 false).checkRun b met fun s => checkForm s b (bufSize / 64)
      let ws := recRead s 4 5
      match f with
      | some f => .next { ((s.memUeAt f.ue).setBad6 b).setBit chrtStatus 0 true with chart := { s.chart with reverBuf := none } }
      | none =>
        if s.word (bufBase b + 0x10) = ws.getD 2 0 ∧ s.word (bufBase b + 0x14) = ws.getD 3 0 ∧ bcrcCrc s b = ws.getD 4 0 then
          .next { s.setBufState b 3 with chart := { s.chart with pendRever := true, bg := if s.bit chrtCtrl 1 then some b else none } }
        else .next { (s.setBad6 b).setBit chrtStatus 0 true with chart := { s.chart with reverBuf := none } }
  | none => .next s

/-- Background verification of the re-verified chart ends (R170), before or after the mark at which that chart becomes active. A chart that
is no longer active becomes BAD at once, and an activation of it that is pending is cancelled. -/
def execBackgroundVerify (met : Met) (s : State) : Out :=
  match s.chart.bg with
  | none => .next s
  | some b =>
    if !s.live .chrt || !s.memReady || s.anyRetrain then .next s
    else
      let (s, f) := State.checkRun { s with chart := { s.chart with bg := none } } b met fun s =>
        (checkCrcs s b).orElse fun _ => checkDigest s b
      match f with
      | none => .next s
      | some f =>
        let s := (s.memUeAt f.ue).setBit chrtStatus 6 true
        if s.actBuf = some b ∨ s.chart.pendRever ∧ s.chart.reverBuf = some b then
          .next { s with chart := { s.chart with withdraw := true } }
        else .next (s.setBad6 b)

end Sys2Proof.Machine
end

