-- ==== Sys2Proof/Machine/Gddr.lean ====
section
/-!
DEFINITION. Commands of the GDDR6 controller: requests and windows (R246, R257), training and retraining (R249 to R251, R254), refresh and
scrub (R255, R256), retention (R259 to R261).
-/
namespace Sys2Proof.Machine

/-! ## Requests (R246, R257) -/

/-- A GDDR6 request (R246). A burst of 64 bytes is a unit's; `chk` is what the checks find when it is served. -/
def execGddr6Access (u : MemUser) (addr size : Nat) (data : Option (List Byte)) (chk : Check) (s : State) : Out :=
  if s.memReady then .next (s.offerReq { u, addr, size, data, chk }) else .next s
def execArbitrationWindow (s : State) : Out :=
  if s.memReady then .next (s.setMem { s.gmem with lkUsed := 0, capUsed := 0 }).serveWaiting else .next s

/-! ## Training (R249 to R251) -/

/-- A write of 1 to MEM_TRCTL.START: ignored with CFGERR while READY is 1 (R262). -/
def State.startTraining (s : State) : State :=
  if s.bit memStatus 31 then s.setBit memStatus 4 true
  else if s.gmem.selfRefresh then s else s.setMem { s.gmem with training := true }
def execTrainingStart (s : State) : Out :=
  if s.clk.cdUp && !s.inReset .mem then .next s.startTraining else .next s

/-- READY is set when every channel in use has passed. -/
def State.setReady (s : State) : State :=
  if s.chansInUse.all fun c => s.gmem.passed[c] then s.setBit memStatus 31 true else s
/-- The saved values of a channel, whose content the manual does not give: 15 free words (log entry 27). -/
def State.freeWords (s : State) : Nat → List Nat × State
  | 0 => ([], s)
  | n + 1 =>
    let (w, s) := s.freeWord
    let (ws, s) := State.freeWords s n
    (w.toNat :: ws, s)
def State.saveTraining (s : State) (c : ChanN) : State :=
  let old := recRead s 3 120
  let (ws, s) := s.freeWords 15
  s.recWrite 3 (old.take (15 * c) ++ ws ++ old.drop (15 * c + 15))

/-- Training of one channel ends. -/
def State.trained (s : State) (c : ChanN) (ok : Bool) (eye : Nat) : State :=
  let cons := s.bit memTrctl (8 + c)
  if !s.inUse c then s.setFld (memChstat c) 31 30 3
  else
    let s := s.setFld (memChstat c) 15 8 eye
    if ok && decide ((if cons then 28 else 24) ≤ eye) then
      let s := ((s.setFld (memChstat c) 31 30 (if cons then 2 else 1)).setFld (memChstat c) 7 0 0).setBit memStatus (8 + c) false
      let s := s.setMem { s.gmem with passed := s.gmem.passed.set c true, dead := s.gmem.dead.set c false }
      (s.saveTraining c).setGcnt c 0
    else
      let s := (s.setFld (memChstat c) 31 30 3).setBit memStatus (8 + c) true
      let s := s.setMem { s.gmem with passed := s.gmem.passed.set c false }
      s.setGcnt c (Nat.min (s.gcnt c + 1) 3)
/-- Training completes on every channel: `pass` is the pattern check, `eye` the narrowest data-pin eye in 1/64 UI. -/
def execTrainingDone (pass : BitVec 8) (eye : Vector Byte 8) (s : State) : Out :=
  if s.gmem.training && s.clk.cdUp && !s.inReset .mem then
    let s := s.setMem { s.gmem with training := false }
    .next (s.each allChans fun (s : State) c => s.trained c (pass.toNat.testBit c) eye[c].toNat).setReady
  else .next s

/-- The poison patterns that wait for channel c's retrain are written (R254). -/
def State.poisonNow (s : State) (c : ChanN) : State :=
  let (now, later) := s.gmem.poisonDue.partition fun b => s.chanOf (64 * b) == c
  (now.foldl (fun (s : State) b => s.setBad (64 * b) 64) s).setMem { s.gmem with poisonDue := later }
/-- A short retrain of a channel ends (R251, R254, R261). -/
def execShortRetrain (c : ChanN) (ok : Bool) (eye : Byte) (s : State) : Out :=
  if !s.gmem.retraining[c] || !s.clk.cdUp || s.inReset .mem then .next s
  else
    let s := (s.count (memChstat c) 23 16).setFld (memChstat c) 15 8 eye.toNat
    let m := s.gmem
    if ok && decide (24 ≤ eye.toNat) then
      let s := (s.setMem { m with retraining := m.retraining.set c false, tries := m.tries.set c 0, passed := m.passed.set c true })
      .next (((s.setBit memStatus (8 + c) false).setReady).poisonNow c).serveWaiting
    else if m.tries[c] = 0 then .next (s.setMem { m with tries := m.tries.set c 1 })
    else
      let s := s.setMem { m with retraining := m.retraining.set c false, tries := m.tries.set c 0, passed := m.passed.set c false,
                                 dead := m.dead.set c true }
      let s := (s.setBit memStatus (8 + c) true).setFld (memChstat c) 31 30 3
      let s := { s with saf := { s.saf with memChans := s.saf.memChans ||| 2 ^ c.val } }
      .next (s.setGcnt c (Nat.min (s.gcnt c + 1) 3)).serveWaiting

/-- MEM_TRCTL.EXCL takes a value: MODE is 3 for an excluded channel, and for one let in again 3 if it failed its latest training, else 0
(R263). -/
def State.exclude (s : State) (v : Nat) : State :=
  let old := s.exclMask
  (s.setFld memTrctl 23 16 v).each allChans fun (s : State) c =>
    if v.testBit c then s.setFld (memChstat c) 31 30 3
    else if old.testBit c then s.setFld (memChstat c) 31 30 (if s.bit memStatus (8 + c) then 3 else 0) else s
/-- A write of MEM_TRCTL.EXCL with more than one bit is discarded (R250). -/
def State.setExcl (s : State) (v : Nat) : State :=
  if s.bit memCtrl 31 then s
  else if 1 < popcount v 8 then s.setBit memStatus 4 true else s.exclude v
def execExclWrite (v : BitVec 8) (s : State) : Out :=
  if s.clk.cdUp && !s.inReset .mem then .next (s.setExcl v.toNat) else .next s

/-! ## Refresh and scrub (R255, R256) -/

def execPerBankRefresh (c : ChanN) (bank : Fin 16) (s : State) : Out :=
  if s.clk.cdUp && !s.gmem.selfRefresh then .next (s.setMem { s.gmem with refreshed := s.gmem.refreshed.set c (some bank.val) })
  else .next s
/-- The refresh rate of a channel is doubled (R255). -/
def State.doubled (s : State) (c : ChanN) : Bool := s.gmem.double[c] || !s.bit memCtrl 0
/-- A readout of the device of channel c, in 1/16 °C: doubled above 85 °C, single below 80 °C, in between as it was (R255). -/
def execTemperatureReadout (c : ChanN) (t : Int) (s : State) : Out :=
  if s.clk.cdUp && !s.gmem.selfRefresh then
    let d := if t > 16 * 85 then true else if t < 16 * 80 then false else s.gmem.double[c]
    .next (s.setMem { s.gmem with double := s.gmem.double.set c d })
  else .next s

/-- The block that the scrub reads from position b on: holes are passed over, and the pass starts again at 0. -/
def State.scrubAt (s : State) (b : Nat) : Nat :=
  if gddrEnd / 64 ≤ b then 0
  else if s.exclMask != 0 && inHole (64 * b) then (if b < 0x0140000000 / 64 then 0x0140000000 / 64 else 0x0280000000 / 64) else b
/-- The scrub reads its next block, on a channel that does not retrain (R256, R258). -/
def execScrub (chk : Check) (s : State) : Out :=
  let b := s.scrubAt (s.fld memScrubpos 27 0)
  if s.memReady && s.bit memCtrl 1 && !s.memWaits (64 * b) then
    .next ((s.wr memScrubpos (s.scrubAt (b + 1))).gddrServe .scrub (64 * b) 64 none chk).1
  else .next s

/-! ## Retention (R259 to R261) -/

/-- Writes that the controller has accepted complete (R259). -/
def State.finishWrites (s : State) : State :=
  (s.gmem.waiting.filter fun q => q.data.isSome).foldl (fun (s : State) q => s.serveNow q) s
/-- The sequence of R259 ends: with self-refresh entered on every channel in time and the latch holding, the content is retained; else it
is treated as lost (R260). -/
def State.enterSelfRefresh (s : State) (ok : Bool) : State :=
  let s := s.finishWrites
  let s := (s.setBit memStatus 31 false).setBit memStatus 30 ok
  s.setMem { s.gmem with selfRefresh := true, retained := ok, waiting := [] }
/-- The sequence of R259 runs before a reset, unless the devices are in self-refresh already. Channels that have not all passed their training
retain nothing. -/
def State.toSelfRefresh (s : State) : State := if s.gmem.selfRefresh then s else s.enterSelfRefresh (s.bit memStatus 31)
def execSelfRefreshEntry (ok : Bool) (s : State) : Out :=
  if s.clk.cdUp && !s.inReset .mem && !s.gmem.selfRefresh then .next (s.enterSelfRefresh ok) else .next s

/-- After the release of a reset with RETAINED 1: self-refresh is left, and every channel in use runs a short retrain (R261). -/
def execSelfRefreshExit (s : State) : Out :=
  if s.clk.cdUp && !s.inReset .mem && s.gmem.selfRefresh && s.gmem.retained then
    let go := Vector.ofFn fun c : ChanN => s.inUse c
    .next (s.setMem { s.gmem with selfRefresh := false, retraining := go, tries := Vector.replicate 8 0, passed := Vector.replicate 8 false })
  else .next s

/-- A reset reaches the controller: registers at reset values, RETAINED from the Binnacle's record; content that was not retained is
lost (R260, R263). MEM_TRCTL is set again from the saved state by the loader. -/
def State.memRestart (s : State) : State :=
  let keep := s.gmem.retained
  let s := (s.resetRegs memBase (memBase + 0x10000)).setBit memStatus 30 keep
  let s := if keep then s else s.clearMem 0 gddrEnd
  s.setMem { retained := keep, selfRefresh := keep, poisonDue := if keep then s.gmem.poisonDue else [] }

end Sys2Proof.Machine
end

