-- ==== Sys2Proof/Machine/SelfTest.lean ====
section
/-!
DEFINITION. Cluster self-test: the power-up test (R126), the rotation and its slots (R127), segments, passes and failures (R128, R129).
-/
namespace Sys2Proof.Machine

def State.setRot (s : State) (r : Rotation) : State := { s with rot := r }
/-- The rotation tests cluster c: it is in AVAIL and not excluded. -/
def State.testable (s : State) (c : Nat) : Bool := s.bit srchClavail c && !s.rot.excl.testBit c
/-- The next testable cluster after `c` in ascending order with wrap-around; `c` itself comes last. -/
def State.nextTest (s : State) (c : Nat) : Option Nat :=
  ((List.range 16).map fun i => (c + 1 + i) % 16).find? fun i => s.testable i

/-- A slot for cluster c starts: no segment is done, the next test problem is in use (the first slot's is 1: DESIGN CHOICE, log entry 77),
SLOTPER periods lie ahead. -/
def State.startSlot (s : State) (c : Nat) : State :=
  let s := ((s.setFld srchStstat 11 8 c).setFld srchStstat 6 4 0).setFld srchStstat 3 0 (s.fld srchStstat 3 0 + 1)
  s.setRot { s.rot with cur := c, left := s.fld srchStcfg 15 0, segRunning := false, tested := false, stopped := false }

/-- The slot for the next cluster: one whose exclusion was cleared comes first, then the order goes on where it stood. PASSED is
cleared when the order wraps. -/
def State.nextSlot (s : State) : State :=
  let stood := s.rot.resumeAt.getD s.rot.cur
  match s.rot.first with
  | c :: rest => (s.setRot { s.rot with first := rest, resumeAt := some stood }).startSlot c
  | [] =>
    let s := s.setRot { s.rot with resumeAt := none }
    match s.nextTest stood with
    | some c => (if c ≤ stood then s.setFld srchStstat 31 16 0 else s).startSlot c
    | none => s.setRot { s.rot with tested := true, left := s.fld srchStcfg 15 0 }

/-- The array's report of a pass or a failure starts across the bridge (R129). -/
def State.selfReport (s : State) (c : Nat) (pass : Bool) : State :=
  { s with saf := { s.saf with reports := s.saf.reports ++ [(toFin 16 c, pass)] } }
/-- A failure of cluster c (R128). -/
def State.selfFail (s : State) (c : Nat) : State :=
  let s := ((s.setBit srchFault (16 + c) true).setBit srchClavail (16 + c) true).setBit srchClavail c false
  State.selfReport ((s.wr srchFaultcl (0x80000000 + c)).setRot { s.rot with tested := true, segRunning := false }) c false

/-- All clusters have run the power-up test: `pass` names those that passed it, and each is reported (R129). The first slot starts at the
next mark. A cluster that fails is also excluded for the next boot (R406). -/
def execPowerupSelftest (pass : BitVec 16) (s : State) : Out :=
  if !s.live .srch || s.rot.powerupDone then .next s
  else
    let bad := 65535 - pass.toNat
    let s := s.wr srchClavail (bad * 65536 + pass.toNat)
    let s := if bad = 0 then s else (s.orReg bootDeg (bad * 65536)).saveProg
    let s := s.each (setBitsOf pass.toNat 16) fun (s : State) c => s.selfReport c true
    .next (s.setRot { s.rot with powerupDone := true, cur := 15, stopped := true, tested := true })

def State.rotating (s : State) : Bool := s.live .srch && s.bit srchCtrl 0 && s.rot.powerupDone && !s.rot.stopped

/-- A segment starts 320 fc after the search deadline, one in a period, when 528 fc remain before the mark (R127). -/
def execSelftestSegmentStart (s : State) : Out :=
  if s.rotating && s.per.running && s.per.srchPassed && decide (s.dlFc 2 + 320 + 528 ≤ s.per.len) && !s.rot.tested && !s.rot.segRunning &&
      !s.rot.ran && s.testable s.rot.cur then
    .next (s.setRot { s.rot with segRunning := true, ran := true })
  else .next s
/-- The signature of the running segment is compared: `ok` when it agrees. The sixth segment declares a pass; a difference declares a
failure (R128). -/
def execSelftestSegmentEnd (ok : Bool) (s : State) : Out :=
  if !(s.live .srch && s.rot.segRunning) then .next s
  else
    let c := s.rot.cur
    let n := s.fld srchStstat 6 4 + 1
    let s := (s.setRot { s.rot with segRunning := false }).setFld srchStstat 6 4 n
    if !ok then .next (s.selfFail c)
    else
      if n < 6 then .next s
      else
        let s := (s.setBit srchStstat (16 + c) true).setRot { s.rot with tested := true }
        .next ((s.setCl (toFin 16 c) { s.cl (toFin 16 c) with needsPass := false }).selfReport c true)

/-- The periods of the slot are over: the next slot starts. -/
def execSelftestSlotEnd (s : State) : Out := if s.rotating && s.rot.left == 0 then .next s.nextSlot else .next s

/-- SRCH_CTRL.STEN (R127): clearing it ends the slot at once; after setting it the rotation resumes at the next mark. -/
def State.setSten (s : State) (en : Bool) : State :=
  let was := s.bit srchCtrl 0
  let s := s.setBit srchCtrl 0 en
  if was && !en && !s.rot.stopped then
    let done := s.bit srchStstat (16 + s.rot.cur) && s.rot.tested
    (s.setFld srchStstat 6 4 0).setRot { s.rot with stopped := true, segRunning := false, tested := done }
  else s
def execStenWrite (en : Bool) (s : State) : Out :=
  if s.live .srch && !s.bit srchCtrl 31 then .next (s.setSten en) else .next s
/-- SRCH_CLEXCL: the value takes effect at the next mark. -/
def execClexclWrite (v : BitVec 16) (s : State) : Out :=
  if s.live .srch && !s.bit srchCtrl 31 then .next (s.wr srchClexcl v.toNat) else .next s

/-- At a mark: SRCH_CLEXCL takes effect, a rotation whose STEN was set again resumes, and a period of the slot is counted. -/
def State.rotMark (s : State) : State :=
  if !s.live .srch then s
  else
    let new := s.fld srchClexcl 15 0
    let freed := (List.range 16).filter fun c => s.rot.excl.testBit c && !new.testBit c && s.bit srchClavail c
    let s := s.each freed fun (s : State) c => s.setCl (toFin 16 c) { s.cl (toFin 16 c) with needsPass := true }
    let s := s.setRot { s.rot with ran := false, excl := new, first := (s.rot.first ++ freed).eraseDups.filter fun c => !new.testBit c }
    if s.bit srchCtrl 0 && s.rot.powerupDone then
      if s.rot.stopped then (if !s.rot.tested && s.testable s.rot.cur then s.startSlot s.rot.cur else s.nextSlot)
      else s.setRot { s.rot with left := s.rot.left - 1 }
    else s

/-- What the period still owes a problem once the array has been reset: its decision report, or its miss notice (R55, R58). The launch made
in the period counts (R116; DEDUCED, log entry 112). -/
def Problem.owed (q : Problem) : Problem :=
  { tbl := q.tbl, u := q.u, enabled := q.enabled, launched := q.launched, code := q.code, fixObs := q.fixObs, inc := q.inc, close := q.close,
    verdict := q.verdict, corr := q.corr, drOnly := q.drOnly, detLost := q.detLost, epsCut := q.epsCut, drop := q.drop,
    chartSeed := q.chartSeed, provSent := q.provSent, provLeg := q.provLeg, provEq := q.provEq, decided := q.decided,
    reported := q.reported, missed := q.missed, reason := q.reason }
/-- A reset of the SRCH block (R126): the power-up test is due again. Writes that a latch has stalled are dropped (DESIGN CHOICE, log
entry 99). -/
def State.srchRestart (s : State) : State :=
  let s := s.setRot {}
  let s := s.each allSlots fun (s : State) p => s.setProb p (s.prob p).owed
  s.each allCls fun (s : State) c => s.setCl c {}

end Sys2Proof.Machine
end

