-- ==== Sys2Proof/Machine/Pins.lean ====
section
/-!
DEFINITION. The general pins: functions and the signals they carry (R466 to R471), sleep (R472), pad levels, and the writes
of PIN_CFGn. What a Plot channel or a serial channel drives is in its own state (R486, R496).
-/
namespace Sys2Proof.Machine

def allPins : List Nat := List.range 96
def State.pinFunc (s : State) (n : Nat) : Nat := s.fld (pinCfg n) 3 0
/-- Plot channel 16e + c of pin n under FUNC f, 1 or 5 (R468). -/
def pinPlot (n f : Nat) : Nat := 16 * ((n / 16 + if f = 5 then 2 else 0) % 4) + n % 16
/-- Serial channel and signal of pin n (R468). -/
def pinSer (n : Nat) : Nat × Nat := (n % 48 / 8, n % 48 % 8)

/-- The input signal pin n selects, as (PIN_CONFLICT.CLASS, IDX) (R468, R483). -/
def State.pinSel (s : State) (n : Nat) : Option (Nat × Nat) :=
  let f := s.pinFunc n
  if f = 1 ∨ f = 5 then some (1, pinPlot n f)
  else if f = 2 ∧ (pinSer n).2 = 2 then some (2, (pinSer n).1)
  else if f = 3 then some (3, n % 32) else none
/-- The pins that select an input signal. -/
def State.selectors (s : State) (sig : Nat × Nat) : List Nat := allPins.filter fun n => s.pinSel n == some sig
/-- The input signals in conflict (R471), in the order of their pins. -/
def State.conflicts (s : State) : List (Nat × Nat) :=
  ((allPins.filterMap fun n => s.pinSel n).filter fun g => decide (2 ≤ (s.selectors g).length)).eraseDups

/-! ## What a pin drives -/

/-- The pin sleeps: the block of its function is gated or in reset (R472). -/
def State.asleep (s : State) (n : Nat) : Bool :=
  let f := s.pinFunc n
  let off := fun b => s.gated b || s.inReset b
  if f = 1 ∨ f = 5 then off .plt else if f = 2 then off .ser else if f = 3 ∨ f = 4 then off .evt else false

/-- The low n bits of v in the order in which they are sent, the first on top: the most significant first, or with `lsb` the other way round
(R496). -/
def bitOrder (lsb : Bool) (n v : Nat) : Nat :=
  if lsb then sumN ((List.range n).map fun i => 2 ^ (n - 1 - i) * b2n (v.testBit i)) else v % 2 ^ n
/-- The clock of a serial word after e of its edges. -/
def sckLevel (cpol : Bool) (e : Nat) : Bool := cpol != (e % 2 == 1)
/-- The data line after e edges of a word of n bits: with CPHA 0 the first bit stands before the first edge and the line changes on every second
edge, with CPHA 1 it changes on the first edge of each pair and is open before (`idle`). -/
def dataLevel (cpha lsb : Bool) (n v e : Nat) (idle : Bool) : Bool :=
  if cpha ∧ e = 0 then idle else (bitOrder lsb n v).testBit (n - 1 - Nat.min ((if cpha then e - 1 else e) / 2) (n - 1))
/-- LEN of a control word: bits − 1, values 0 to 2 act as 3 (R506). -/
def serLen (ctl : Nat) : Nat := Nat.max (ctl % 32) 3 + 1
/-- The level of a serial signal of channel i that is an output: SCK idles at CPOL, a select is asserted while it is held (R496, R498). How many
edges of a word in progress have passed, and the level of MOSI between words, are open: both are read from the free value f. -/
def State.serOut (s : State) (i sig : Nat) (f : Nat) : Option Bool :=
  let cfg := s.rd (serCfg i)
  let k := s.io.ser[toFin 6 i]
  if sig = 0 then some (match k.cur with
    | some (_, ctl) => sckLevel (cfg.testBit 0) (f / 2 % (2 * serLen ctl + 1))
    | none => cfg.testBit 0)
  else if sig = 1 then some (match k.cur with
    | some (w, ctl) => dataLevel (cfg.testBit 1) (cfg.testBit 2) (serLen ctl) w.toNat (f / 2 % (2 * serLen ctl + 1)) (f % 2 == 1)
    | none => f % 2 == 1)
  else if 3 ≤ sig ∧ sig ≤ 6 then some ((k.sel == some (sig - 3)) == cfg.testBit (4 + (sig - 3)))
  else none

/-- The output signal of pin n (R468, R490): none when it does not drive. `f` holds the free value of each serial channel. -/
def State.pinOutput (s : State) (n : Nat) (f : Nat → Nat) : Option Bool :=
  let u := s.pinFunc n
  let cfg := s.rd (pinCfg n)
  if u = 0 then (if cfg.testBit 16 then some (s.bit (pinOut (n / 32)) (n % 32)) else none)
  else if u = 1 ∨ u = 5 then
    let k := s.io.plot[toFin 64 (pinPlot n u)]
    if k.oe then some k.out else none
  else if u = 2 then s.serOut (pinSer n).1 (pinSer n).2 (f (pinSer n).1)
  else if u = 4 then some (s.pins.lines.testBit (n % 32))
  else none

/-- What the pad of pin n drives: nothing while the compute die is unpowered; the SLEEP setting while it sleeps, else the signal of its function;
nothing for a 1 of an open-drain pin (R466, R472). -/
def State.pinDrive (s : State) (n : Nat) (f : Nat → Nat) : Option Bool :=
  let cfg := s.rd (pinCfg n)
  if !s.clk.cdUp then none
  else
    let m := bits cfg 27 26
    let d := if s.asleep n then (if m = 0 then none else if m = 1 then some (s.pins.kept.testBit n) else some (m == 3))
      else s.pinOutput n f
    if cfg.testBit 22 && d == some true then none else d

/-- The level of the pad of pin n: what it drives; else the level from outside; else its pull, or the level last kept. -/
def State.padLevel (s : State) (n : Nat) (f : Nat → Nat) : Bool :=
  match s.pinDrive n f with
  | some v => v
  | none =>
    let pull := s.fld (pinCfg n) 21 20
    if s.pins.extOn.testBit n then s.pins.ext.testBit n
    else if pull = 1 then false else if pull = 2 then true else s.pins.kept.testBit n

/-- The level after INV (R466, R483). -/
def State.pinLevel (s : State) (n : Nat) (f : Nat → Nat) : Bool := s.padLevel n f != s.bit (pinCfg n) 23

/-- The level of the input signal `sig` (R469, R471): that of the one pin that selects it, else `none`, its default. -/
def State.inputPin (s : State) (sig : Nat × Nat) : Option Nat :=
  match s.selectors sig with
  | [n] => some n
  | _ => none
/-- The input of Plot channel k (R469, R490). A pin of FUNC 1 or 5 carries no serial signal. -/
def State.plotInput (s : State) (k : Nat) : Bool :=
  match s.inputPin (1, k) with
  | some n => s.pinLevel n fun _ => 0
  | none => false

/-- A free value for each serial channel. -/
def State.freePins (s : State) : (Nat → Nat) × State :=
  let c := s.freeCtr
  (fun i => (Config.freeWord (c + i)).toNat, { s with freeCtr := c + 6 })
/-- The keepers take the present levels of the pads in `ns` (R470, R472). -/
def State.keepPads (s : State) (ns : List Nat) : State :=
  let (f, s) := s.freePins
  let k := ns.foldl (fun k n => putBits k n n (b2n (s.padLevel n f))) s.pins.kept
  { s with pins := { s.pins with kept := k } }
/-- Before the signal of pins changes: those with a keeper that are driven keep the level they are driven to, until something else drives them
(R466). -/
def State.keepDriven (s : State) (hit : Nat → Bool) : State :=
  let ns := allPins.filter fun n => hit n && s.fld (pinCfg n) 21 20 == 3 && (s.pinDrive n fun _ => 0).isSome
  if ns.isEmpty then s else s.keepPads ns
/-- Before a gate closes or a block reset starts: the pins of block b keep their levels (R472). -/
def State.keepBlock (s : State) (b : Blk) : State :=
  let mine := fun n : Nat =>
    let f := s.pinFunc n
    decide ((f = 1 ∨ f = 5) ∧ b = .plt ∨ f = 2 ∧ b = .ser ∨ (f = 3 ∨ f = 4) ∧ b = .evt)
  if decide (b = .plt ∨ b = .ser ∨ b = .evt) then s.keepPads (allPins.filter mine) else s

/-- PIN_INw (R466, R483): the pad levels after INV. -/
def State.pinInWord (s : State) (w : Nat) : Nat × State :=
  let (f, s) := s.freePins
  (sumN ((List.range 32).map fun i => 2 ^ i * b2n (s.pinLevel (32 * w + i) f)), s)

/-! ## PIN_CFGn (R468, R470, R471, R483) -/

/-- PIN_CONFLICT follows a change of the pins' functions: SET, CLASS and IDX for a conflict that arose, ACTIVE while any lasts. -/
def State.conflictCheck (s : State) (before : List (Nat × Nat)) : State :=
  let now := s.conflicts
  let s := s.each (now.filter fun g => !before.contains g) fun s g =>
    ((s.setBit pinConflict 31 true).setFld pinConflict 8 6 g.1).setFld pinConflict 5 0 g.2
  s.setBit pinConflict 30 (!now.isEmpty)

def pinMask : Nat := 0x0FFF000F
/-- A write of PIN_CFGn: discarded by LOCK; with a reserved FUNC discarded with CFGERR; a change of FUNC passes the keeper cycle,
whose level the pad keeps where the new function does not drive it. -/
def State.pinConfig (s : State) (n : Nat) (v : Nat) : State :=
  if s.bit pinCtrl 31 || !s.clk.cdUp then s
  else if 6 ≤ v % 16 then s.setBit pinStatus 0 true
  else
    let before := s.conflicts
    let s := if s.pinFunc n ≠ v % 16 then s.keepPads [n] else s.keepDriven (· == n)
    (s.wr (pinCfg n) (v &&& pinMask)).conflictCheck before
def execPinConfigWrite (n : Fin 96) (v : Word) (s : State) : Out := .next (s.pinConfig n v.toNat)

end Sys2Proof.Machine
end

