-- ==== Sys2Proof/Machine/Plot.lean ====
section
/-!
DEFINITION. The Plot engines: slots (R485), instructions (R487 to R490), queues (R492), running and halting (R493).
-/
namespace Sys2Proof.Machine

/-- Channel 16e + c. -/
def chanIdx (e : Fin 4) (c : Fin 16) : Fin 64 := toFin 64 (16 * e + c)
def State.plot (s : State) (k : Fin 64) : PlotCh := s.io.plot[k]
def State.setPlot (s : State) (k : Fin 64) (q : PlotCh) : State := { s with io := { s.io with plot := s.io.plot.set k q } }
/-- JOIN of channel k; 3 acts as 0 (R505). -/
def State.join (s : State) (k : Fin 64) : Nat := let j := s.fld (pltChan k 0) 17 16; if j = 3 then 0 else j
def State.txCap (s : State) (k : Fin 64) : Nat := if s.join k = 0 then 4 else if s.join k = 1 then 8 else 0
def State.rxCap (s : State) (k : Fin 64) : Nat := if s.join k = 0 then 4 else if s.join k = 2 then 8 else 0
def State.plotFlag (s : State) (k : Fin 64) (i : Nat) : State := s.setBit (pltChan k 0x1C) i true

/-! ## Completion and stalls (R488) -/

/-- The PC after an instruction that does not branch. -/
def State.nextPc (s : State) (k : Fin 64) : Nat :=
  let cfg := s.rd (pltChan k 0)
  let pc := (s.plot k).pc
  if pc = bits cfg 14 8 then bits cfg 6 0 else (pc + 1) % 128
/-- The instruction completes with the channel's new contents `q`: the PC moves on. -/
def State.plotDone (s : State) (k : Fin 64) (q : PlotCh) : State :=
  s.setPlot k { q with pc := s.nextPc k, wait := 0, markSeen := none }
/-- The instruction stalls: it has no effect, and WAIT shows it. -/
def State.plotStall (s : State) (k : Fin 64) (w : Nat) (seen : Option Bool) : State :=
  s.setPlot k { s.plot k with wait := w, markSeen := seen }

/-! ## The instructions (R487), each on channel k -/

/-- The condition of a BRANCH, and the channel with the register it counts down. -/
def branchCond (q : PlotCh) (inp : Bool) (cond : Nat) : Bool × PlotCh :=
  if cond = 0 then (true, q)
  else if cond = 1 then (q.a != 0, if q.a != 0 then { q with a := q.a - 1 } else q)
  else if cond = 2 then (q.b != 0, if q.b != 0 then { q with b := q.b - 1 } else q)
  else if cond = 3 then (inp, q)
  else if cond = 4 then (!inp, q)
  else if cond = 5 then (q.sc != 0, q)
  else if cond = 6 then (!q.txq.isEmpty, q)
  else (q.a != q.b, q)
def State.plotBranch (s : State) (k : Fin 64) (cond tgt : Nat) : State :=
  let (b, q) := branchCond (s.plot k) (s.plotInput k) cond
  if b then s.setPlot k { q with pc := tgt, wait := 0, markSeen := none } else s.plotDone k q

/-- The channel IDX of the engine of channel k. -/
def sameEngine (k : Fin 64) (idx : Nat) : Fin 64 := toFin 64 (k / 16 * 16 + idx)
def State.plotHoldOn (s : State) (k : Fin 64) (src : Nat) (pol : Bool) (idx : Nat) : State :=
  let q := s.plot k
  if src = 0 then (if s.plotInput (sameEngine k idx) == pol then s.plotDone k q else s.plotStall k 1 none)
  else if src = 1 then (if q.ep then s.plotDone k { q with ep := false } else s.plotStall k 1 none)
  else if src = 2 then (if (s.plot (sameEngine k idx)).fl == pol then s.plotDone k q else s.plotStall k 1 none)
  else if q.markSeen = some true then s.plotDone k q
  else s.plotStall k 1 (some false)

/-- A HOLD on EP or on a mark has no POL and no IDX: none is the illegal instruction. -/
def State.plotHold (s : State) (k : Fin 64) (src : Nat) (pol : Bool) (idx : Nat) : Option State :=
  if src % 2 = 1 ∧ (pol = true ∨ idx ≠ 0) then none else some (s.plotHoldOn k src pol idx)

/-- The pins that carry the signal of channel k keep the level it has driven them to, where they have a keeper (R466). -/
def State.keepPlot (s : State) (k : Fin 64) : State := s.keepDriven fun n => s.pinSel n == some (1, k.val)
def State.plotDrive (s : State) (k : Fin 64) (oe val : Bool) : State :=
  (s.keepPlot k).plotDone k { s.plot k with oe, out := val }

/-- A SHIFT out has no IDX: none is the illegal instruction. -/
def State.plotShift (s : State) (k : Fin 64) (dir lsb : Bool) (idx : Nat) : Option State :=
  let q := s.plot k
  let sc := q.sc - 1
  if dir then
    let b : Word := BitVec.ofNat 32 (b2n (s.plotInput (sameEngine k idx)))
    some (s.plotDone k { q with sc, sr := if lsb then (q.sr >>> 1) ||| (b <<< 31) else (q.sr <<< 1) ||| b })
  else if idx ≠ 0 then none
  else some ((s.keepPlot k).plotDone k
    { q with sc, out := if lsb then q.sr.getLsbD 0 else q.sr.getLsbD 31, sr := if lsb then q.sr >>> 1 else q.sr <<< 1 })

/-- `len` is LEN, 1 to 32. -/
def State.plotTake (s : State) (k : Fin 64) (nb : Bool) (len : Nat) : State :=
  let q := s.plot k
  match q.txq with
  | w :: rest => s.plotDone k { q with sr := w, txq := rest, sc := len }
  | [] => if nb then s.plotDone k { q with sr := q.a, sc := len } else s.plotStall k 2 none

def State.plotGive (s : State) (k : Fin 64) (nb : Bool) : State :=
  let q := s.plot k
  if q.rxq.length < s.rxCap k then s.plotDone k { q with rxq := q.rxq ++ [q.sr] }
  else if nb then (s.plotFlag k 2).plotDone k q
  else s.plotStall k 3 none

def State.plotCopy (s : State) (k : Fin 64) (dst src : Nat) : State :=
  let q := s.plot k
  let v : Word :=
    if src = 0 then q.a else if src = 1 then q.b else if src = 2 then q.sr else if src = 3 then BitVec.ofNat 32 q.sc
    else if src = 4 then BitVec.ofNat 32 (b2n (s.plotInput k)) else if src = 5 then 0 else BitVec.ofNat 32 s.per.now
  s.plotDone k (if dst = 0 then { q with a := v } else if dst = 1 then { q with b := v } else if dst = 2 then { q with sr := v }
    else { q with sc := Nat.min v.toNat 32 })

def State.plotLoad (s : State) (k : Fin 64) (regB : Bool) (imm : Nat) : State :=
  let q := s.plot k
  s.plotDone k (if regB then { q with b := BitVec.ofNat 32 imm } else { q with a := BitVec.ofNat 32 imm })

def State.plotSignal (s : State) (k : Fin 64) (kind : Nat) : State :=
  let q := s.plot k
  if kind = 0 then (s.fire (0x60 + k)).plotDone k q
  else if kind = 1 then s.plotDone k { q with fl := true }
  else if kind = 2 then s.plotDone k { q with fl := false }
  else s.plotDone k { q with run := false }

/-- After the instruction of a slot: one that completed is followed by its DLY slots, unless it halted the channel; an illegal one, none, halts the
channel where it stands (R487, R489). -/
def State.plotAfter (s : State) (k : Fin 64) (dly : Nat) : Option State → State
  | none => ((s.setPlot k { s.plot k with run := false, wait := 0, markSeen := none }).plotFlag k 4).setBit pltStatus 1 true
  | some t =>
    let r := t.plot k
    t.setPlot k { r with dly := if r.wait = 0 ∧ r.run then dly else 0 }
/-- A channel issues an instruction: the PLT block acts, the channel runs, and no DLY slot is left (R485, R487). -/
def State.plotIssues (s : State) (k : Fin 64) : Bool := s.live .plt && (s.plot k).run && (s.plot k).dly == 0
def plotExec (s : State) (k : Fin 64) (dly : Fin 16) (t : Option State) : Out := .next (if s.plotIssues k then s.plotAfter k dly t else s)

def execBranch (e : Fin 4) (c : Fin 16) (dly : Fin 16) (cond : Fin 8) (tgt : BitVec 7) (s : State) : Out :=
  plotExec s (chanIdx e c) dly (some (s.plotBranch (chanIdx e c) cond tgt.toNat))
def execHold (e : Fin 4) (c : Fin 16) (dly : Fin 16) (src : Fin 4) (pol : Bool) (idx : Fin 16) (s : State) : Out :=
  plotExec s (chanIdx e c) dly (s.plotHold (chanIdx e c) src pol idx)
def execDrive (e : Fin 4) (c : Fin 16) (dly : Fin 16) (oe val : Bool) (s : State) : Out :=
  plotExec s (chanIdx e c) dly (some (s.plotDrive (chanIdx e c) oe val))
def execShift (e : Fin 4) (c : Fin 16) (dly : Fin 16) (dir lsb : Bool) (idx : Fin 16) (s : State) : Out :=
  plotExec s (chanIdx e c) dly (s.plotShift (chanIdx e c) dir lsb idx)
def execTake (e : Fin 4) (c : Fin 16) (dly : Fin 16) (nb : Bool) (len : Fin 32) (s : State) : Out :=
  plotExec s (chanIdx e c) dly (some (s.plotTake (chanIdx e c) nb (len + 1)))
def execGive (e : Fin 4) (c : Fin 16) (dly : Fin 16) (nb : Bool) (s : State) : Out :=
  plotExec s (chanIdx e c) dly (some (s.plotGive (chanIdx e c) nb))
/-- `now` is PER_NOW.NOW of the slot's cycle. -/
def execCopy (e : Fin 4) (c : Fin 16) (dly : Fin 16) (dst : Fin 4) (src : Fin 7) (now : Nat) (s : State) : Out :=
  let s := s.tellNow now
  plotExec s (chanIdx e c) dly (some (s.plotCopy (chanIdx e c) dst src))
def execLoad (e : Fin 4) (c : Fin 16) (dly : Fin 16) (regB : Bool) (imm : BitVec 16) (s : State) : Out :=
  plotExec s (chanIdx e c) dly (some (s.plotLoad (chanIdx e c) regB imm.toNat))
def execSignal (e : Fin 4) (c : Fin 16) (dly : Fin 16) (kind : Fin 4) (s : State) : Out :=
  plotExec s (chanIdx e c) dly (some (s.plotSignal (chanIdx e c) kind))

/-! ## Slots (R485, R487 to R489) -/

/-- The instruction word w on channel k: its new state, or none when the word is illegal (R487). -/
def State.plotInsn (s : State) (k : Fin 64) (w : Nat) : Option State :=
  let z := fun hi lo => bits w hi lo == 0
  let op := bits w 31 28
  if op = 0 then (if z 20 7 then some (s.plotBranch k (bits w 23 21) (bits w 6 0)) else none)
  else if op = 1 then
    if z 20 20 && z 15 0 then s.plotHold k (bits w 23 22) (w.testBit 21) (bits w 19 16) else none
  else if op = 2 then (if z 23 18 && z 15 0 then some (s.plotDrive k (w.testBit 17) (w.testBit 16)) else none)
  else if op = 3 then
    if z 21 20 && z 15 0 then s.plotShift k (w.testBit 23) (w.testBit 22) (bits w 19 16) else none
  else if op = 4 then (if z 22 5 then some (s.plotTake k (w.testBit 23) (bits w 4 0 + 1)) else none)
  else if op = 5 then (if z 22 0 then some (s.plotGive k (w.testBit 23)) else none)
  else if op = 6 then
    if z 15 0 && decide (bits w 23 20 ≤ 3) && decide (bits w 19 16 ≤ 6) then some (s.plotCopy k (bits w 23 20) (bits w 19 16)) else none
  else if op = 7 then (if z 22 16 then some (s.plotLoad k (w.testBit 23) (bits w 15 0)) else none)
  else if op = 8 then (if z 21 0 then some (s.plotSignal k (bits w 23 22)) else none)
  else none

/-- The channel that engine e's present slot names. -/
def State.slotChan (s : State) (e : Fin 4) : Fin 64 :=
  let i := s.io.slot[e]
  let w := if i < 8 then s.rd (pltSlotl e) else s.rd (pltSloth e)
  toFin 64 (16 * e + (w >>> (4 * (i % 8))) % 16)

/-- The present slot of engine e is served: a DLY slot is counted off, or the instruction at the channel's PC is executed; after
it completes its DLY slots follow. An illegal instruction halts the channel. -/
def State.serveSlot (s : State) (k : Fin 64) : State :=
  let q := s.plot k
  if 0 < q.dly then s.setPlot k { q with dly := q.dly - 1 }
  else
    let w := s.rd (pltImem (k / 16) q.pc)
    s.plotAfter k (bits w 27 24) (s.plotInsn k w)
/-- `now` is PER_NOW.NOW of the slot's cycle. -/
def execPlotSlot (e : Fin 4) (now : Nat) (s : State) : Out :=
  let s := s.tellNow now
  if !s.live .plt then .next s
  else
    let k := s.slotChan e
    let t := if (s.plot k).run then s.serveSlot k else s
    .next { t with io := { t.io with slot := t.io.slot.set e ((t.io.slot[e] + 1) % 16) } }

/-- A period mark is seen by every HOLD that has been issued on one (R487, R495). -/
def State.plotMark (s : State) : State :=
  if s.live .plt then
    { s with io := { s.io with plot := s.io.plot.map fun q => { q with markSeen := q.markSeen.map fun _ => true } } }
  else s

/-! ## Running, halting and queues (R491 to R493) -/

def engineChans (e : Fin 4) (mask : Nat) : List (Fin 64) := (setBitsOf mask 16).map fun c => toFin 64 (16 * e + c)
def State.plotRunOne (s : State) (k : Fin 64) : State := s.setPlot k { s.plot k with run := true }
/-- A halt between slots: a stalled instruction is abandoned and the remaining DLY slots are discarded. -/
def State.plotHaltOne (s : State) (k : Fin 64) : State :=
  s.setPlot k { s.plot k with run := false, dly := 0, wait := 0, markSeen := none }
def execPlotRun (e : Fin 4) (mask : BitVec 16) (s : State) : Out :=
  .next (if s.live .plt then s.each (engineChans e mask.toNat) State.plotRunOne else s)
def execPlotHalt (e : Fin 4) (mask : BitVec 16) (s : State) : Out :=
  .next (if s.live .plt then s.each (engineChans e mask.toNat) State.plotHaltOne else s)

def State.txqAppend (s : State) (k : Fin 64) (v : Word) : State :=
  let q := s.plot k
  if q.txq.length < s.txCap k then s.setPlot k { q with txq := q.txq ++ [v] } else s.plotFlag k 0
def execTxqWrite (e : Fin 4) (c : Fin 16) (v : Word) (s : State) : Out :=
  .next (if s.live .plt then s.txqAppend (chanIdx e c) v else s)
/-- The value a read of PLT_RXQ returns, and the state after it. -/
def State.rxqPop (s : State) (k : Fin 64) : Word × State :=
  match (s.plot k).rxq with
  | w :: rest => (w, s.setPlot k { s.plot k with rxq := rest })
  | [] => (0, s.plotFlag k 1)
def execRxqRead (e : Fin 4) (c : Fin 16) (s : State) : Out :=
  .next (if s.live .plt then (s.rxqPop (chanIdx e c)).2 else s)
/-- A write of JOIN: only while the channel is halted, and it empties both queues. JOIN is an RWL field. -/
def State.setJoin (s : State) (k : Fin 64) (j : Nat) : State :=
  if (s.plot k).run || s.bit pltCtrl 31 then s
  else (s.setFld (pltChan k 0) 17 16 j).setPlot k { s.plot k with txq := [], rxq := [] }
def execJoinWrite (e : Fin 4) (c : Fin 16) (join : Fin 4) (s : State) : Out :=
  .next (if s.live .plt then s.setJoin (chanIdx e c) join else s)

/-- Task 64 + 16e + c sets EP; a further event merges (R491). -/
def State.plotEvent (s : State) (k : Fin 64) : State :=
  if !s.live .plt then s
  else if (s.plot k).ep then s.plotFlag k 3 else s.setPlot k { s.plot k with ep := true }

/-- A write of SR, A or B, or of the PC field, while the channel is halted; otherwise CFGERR (R493). -/
def State.plotRegWrite (s : State) (k : Fin 64) (o : Nat) (v : Word) : State :=
  let q := s.plot k
  if q.run then s.setBit pltStatus 0 true
  else s.setPlot k (if o = 0x10 then { q with sr := v } else if o = 0x14 then { q with a := v }
    else if o = 0x18 then { q with b := v } else { q with pc := v.toNat % 128 })

/-- PLT_CSTAT (R505). -/
def State.plotStat (s : State) (k : Fin 64) : Nat :=
  let q := s.plot k
  q.txq.length * 2 ^ 28 + q.rxq.length * 2 ^ 24 + q.sc * 2 ^ 16 + b2n q.ep * 2 ^ 13 + b2n q.fl * 2 ^ 12 + q.wait * 2 ^ 10
    + b2n q.oe * 2 ^ 9 + b2n q.out * 2 ^ 8 + q.pc
/-- PLT_RUNe reads 1 for each channel that runs. -/
def State.plotRunning (s : State) (e : Nat) : Nat :=
  sumN ((List.range 16).map fun c => 2 ^ c * b2n (s.plot (toFin 64 (16 * e + c))).run)

end Sys2Proof.Machine
end

