-- ==== Sys2Proof/Machine/Serial.lean ====
section
/-!
DEFINITION. The serial channels of the compute die (R496 to R500), and the management-die pins and safety channels (R502 to R504).
-/
namespace Sys2Proof.Machine

def State.ser (s : State) (i : Fin 6) : SerCh := s.io.ser[i]
def State.setSer (s : State) (i : Fin 6) (k : SerCh) : State := { s with io := { s.io with ser := s.io.ser.set i k } }
def State.serFlag (s : State) (i : Fin 6) (b : Nat) : State := s.setBit (serStat i) b true
/-- The pins of channel i keep the levels it has driven them to, where they have a keeper (R466). -/
def State.keepSer (s : State) (i : Fin 6) : State := s.keepDriven fun n => s.pinFunc n == 2 && (pinSer n).1 == i.val

/-- At a word boundary of a running transfer the next entry starts, unless the receive FIFO is full or no entry waits (R499). -/
def SerCh.advance (k : SerCh) : SerCh :=
  match k.tx with
  | e :: rest => if k.busy && k.cur.isNone && decide (k.rx.length < 8) then { k with cur := some e, tx := rest } else k
  | [] => k

/-- A start request is held until it can act (R498). -/
def State.serGo (s : State) (i : Fin 6) : State :=
  if s.live .ser then s.setSer i { s.ser i with goPend := true } else s
def execGo (i : Fin 6) (s : State) : Out := .next ((s.did [24 + i.val]).serGo i)

/-- The transfer starts: AUTO or a start request, with an entry waiting; the select of its first entry is asserted (R498). -/
def execSerialTransferStart (i : Fin 6) (s : State) : Out :=
  let k := s.ser i
  match k.tx with
  | e :: _ =>
    if s.live .ser && !k.busy && (k.goPend || s.bit (serCfg i) 3) then
      .next ((s.keepSer i).setSer i (SerCh.advance { k with busy := true, goPend := false, held := false, sel := some (bits e.2 6 5) }))
    else .next s
  | [] => .next s

/-- The word of the levels `rx` of MISO at the edges that sample it, the first on top, in the order of bits that LSB sets (R496). The level of
MISO is that of its one pin; without one the words received are 0 (R469, R501). -/
def State.misoWord (s : State) (i : Fin 6) (rx : Word) (len : Nat) : Word :=
  match s.inputPin (2, i.val) with
  | some _ => BitVec.ofNat 32 (bitOrder (s.bit (serCfg i) 2) len rx.toNat)
  | none => 0
/-- A word completes: it enters the receive FIFO; with CONT 1 the transfer goes on, with CONT 0 the select is released and the
completion producer fires (R498, R499). -/
def execSerialWordDone (i : Fin 6) (rx : Word) (s : State) : Out :=
  let k := s.ser i
  match k.cur with
  | none => .next s
  | some (_, ctl) =>
    if !s.live .ser then .next s
    else
      let k := { k with cur := none, rx := k.rx ++ [s.misoWord i rx (serLen ctl)] }
      let s := s.keepSer i
      if ctl.testBit 7 then .next (s.setSer i (SerCh.advance { k with held := true }))
      else .next ((s.setSer i { k with busy := false, held := false, sel := none }).fire (0x30 + i))

/-- The word and the transfer in progress end, the select is released, the transmit FIFO empties, and ABT is set (R500). -/
def State.serAbort (s : State) (i : Fin 6) : State :=
  if s.live .ser then
    ((s.keepSer i).setSer i { s.ser i with tx := [], cur := none, busy := false, held := false, sel := none }).serFlag i 2
  else s
def execSerialAbort (i : Fin 6) (s : State) : Out := .next (s.serAbort i)

/-- A write of SER_TXD appends an entry with the content of SER_TXC; with the FIFO full it is discarded with TXOVF (R496, R499). -/
def State.txAppend (s : State) (i : Fin 6) (v : Word) : State :=
  let k := s.ser i
  if !s.live .ser then s
  else if 8 ≤ k.tx.length then s.serFlag i 0
  else (s.keepSer i).setSer i (SerCh.advance { k with tx := k.tx ++ [(v, s.fld (serTxc i) 7 0)] })
def execTxEntryAppend (i : Fin 6) (v : Word) (s : State) : Out := .next (s.txAppend i v)

/-- The value a read of SER_RXD returns, and the state after it. -/
def State.rxPop (s : State) (i : Fin 6) : Word × State :=
  match (s.ser i).rx with
  | w :: rest => (w, (s.keepSer i).setSer i (SerCh.advance { s.ser i with rx := rest }))
  | [] => (0, s.serFlag i 1)
def execRxRead (i : Fin 6) (s : State) : Out := .next (if s.live .ser then (s.rxPop i).2 else s)

/-- A write of SER_CKDIV: discarded by LOCK; with CFGERR when a field gives an SCK above 50 MHz at its pace (R497). -/
def State.ckdiv (s : State) (i : Fin 6) (v : Nat) : State :=
  if !s.live .ser || s.bit serCtrl 31 then s
  else if bits v 7 0 < 14 ∨ bits v 15 8 < 10 ∨ bits v 23 16 < 6 then s.setBit serStatus 0 true
  else s.wr (serCkdiv i) (v % 2 ^ 24)
def execCkdivWrite (i : Fin 6) (v : Word) (s : State) : Out := .next (s.ckdiv i v.toNat)

/-- The live part of SER_STAT (R506). -/
def State.serLevels (s : State) (i : Fin 6) : Nat :=
  let k := s.ser i
  b2n k.busy * 2 ^ 31 + b2n k.held * 2 ^ 30 + k.tx.length * 2 ^ 24 + k.rx.length * 2 ^ 16

/-! ## Management-die pins and safety channels (R502 to R504, R507) -/

/-- A write refused to its requester: WPERR (R503). The access gets an error response. -/
def State.mpinRefuse (s : State) : State := s.setBit mpinStatus 0 true
def State.mpinOutSet (s : State) (r : Requester) (v : Nat) : State :=
  if r = .island then s.wr mpinOut (v % 1024) else s.mpinRefuse
def execMpinOutWrite (r : Requester) (v : Word) (s : State) : Out := .next (s.mpinOutSet r v.toNat)

/-- The select of safety channel i that island software asserts: the lowest of MGP(4i) to MGP(4i + 3) with FUNC 1 whose MPIN_OUT bit
is 1 (R502). -/
def State.safeSelect (s : State) (i : Fin 2) : Option Nat :=
  (List.range 4).find? fun k => s.bit mpinOut (4 * i + k) && s.fld (mpinPcfg (4 * i + k)) 1 0 == 1
/-- A write of MPIN_STX starts a word; while one runs it is discarded with OVR (R504). -/
def State.safeStart (s : State) (r : Requester) (i : Fin 2) (v : Word) : State :=
  if r ≠ .island then s.mpinRefuse
  else if s.bit (mpinSstat i) 31 then s.setBit (mpinSstat i) 1 true
  else
    let s := s.setBit (mpinSstat i) 31 true
    { s with io := { s.io with safeSel := s.io.safeSel.set i (s.safeSelect i), safeTx := s.io.safeTx.set i v } }
def execSafetyWordStart (r : Requester) (i : Fin 2) (v : Word) (s : State) : Out := .next (s.safeStart r i v)
/-- LEN of safety channel i in bits; values 0 to 2 of the field act as 3 (R507). -/
def State.safeLen (s : State) (i : Fin 2) : Nat := Nat.max (s.fld (mpinScfg i) 12 8) 3 + 1
/-- The levels of SCiCK and SCiDO (R502, R504), by MODE: how many edges of a word in progress have passed, and the level of SCiDO between words, are
open and read from the free value f. -/
def State.safePads (s : State) (i : Fin 2) (f : Nat) : Bool × Bool :=
  let cfg := s.rd (mpinScfg i)
  if s.bit (mpinSstat i) 31 then
    let e := f / 2 % (2 * s.safeLen i + 1)
    (sckLevel (cfg.testBit 13) e, dataLevel (cfg.testBit 14) (cfg.testBit 15) (s.safeLen i) s.io.safeTx[i].toNat e (f % 2 == 1))
  else (cfg.testBit 13, f % 2 == 1)
/-- The word completes into MPIN_SRX and sets DONE (R504); the island takes it as the reading of the sensor selected (R281). `rx` holds the levels of
SCiDI at the edges that sample it, the first on top. -/
def execSafetyWordDone (i : Fin 2) (rx : Word) (atMark : Bool) (s : State) : Out :=
  if !s.bit (mpinSstat i) 31 then .next s
  else
    let v := bitOrder (s.bit (mpinScfg i) 15) (s.safeLen i) rx.toNat
    let s := ((s.setBit (mpinSstat i) 31 false).setBit (mpinSstat i) 0 true).wr (mpinSrx i) v
    match s.io.safeSel[i] with
    | some k => .next (s.safSample i k v atMark)
    | none => .next s

end Sys2Proof.Machine
end

