-- ==== Sys2Proof/Machine/Power.lean ====
section
/-!
DEFINITION. Resets of the compute die and of its blocks (R12, R62, R340, R455), clock gates (R454), pace and governor (R449, R450,
R458, R459), clock monitors (R451), trimming (R448), supplies (R456, R457), power states and wake (R460 to R463).
-/
namespace Sys2Proof.Machine

def State.setClk (s : State) (k : Clk) : State := { s with clk := k }
def Pins.fresh (p : Pins) : Pins := { ext := p.ext, extOn := p.extOn, bridge := p.bridge }

/-! ## Resets -/

def blkBase : Blk → Nat
  | .srch => srchBase | .chrt => chrtBase | .cell => cellBase | .cap => capBase | .chn => chnBase
  | .evt => evtBase | .plt => pltBase | .ser => serBase | .mem => memBase | .per => perBase

/-- An address on the page of block b. -/
def onBlock (b : Blk) (a : Nat) : Bool := decide (blkBase b ≤ a ∧ a < blkBase b + 0x10000)

def lenReset (pace : Fin 3) : Nat := if pace = 0 then 37500 else if pace = 1 then 27500 else 17500
/-- The period scheduler after a reset at a pace: lengths and deadlines at their reset values (R59). -/
def perReset (pace : Fin 3) : Per := { pace, len := lenReset pace }
/-- PER_STATUS.PACE and PWR_STATUS.PACE show the pace in force. -/
def State.showPace (s : State) : State := (s.setFld perStatus 17 16 s.per.pace).setFld pwrStatus 31 30 s.per.pace
/-- The pace that the compute die starts at (R409): BOOT_CFG.PACE, whose unused code 3 acts as 2. -/
def State.bootPace (s : State) : Fin 3 := toFin 3 (Nat.min (s.fld bootCfg 3 2) 2)

/-- Requests to addresses that `hit` names are outstanding when what they address is reset: they get error responses (R27, R338, R455). -/
def State.loseAccesses (s : State) (hit : Nat → Bool) : State :=
  { s with port := { s.port with reads := s.port.reads.map fun x => if hit x.addr then { x with lost := true } else x },
           cores := s.cores.map fun k => { k with pend := k.pend.map fun x => if hit x.addr then { x with lost := true } else x } }
/-- The capture ring is empty. -/
def State.ringEmpty (s : State) : State :=
  let s := ((((s.wr capWptr 0).wr capOldest 0).wr capLastkey 0).wr capTrigptr 0).wr capTrigpcnt 0
  s.setCap { s.cap with any := false, prev := none, keyNext := true }
/-- The content of block b after its reset: registers at their reset values, and what it holds besides them (R12, R455). Without retention a
reset of MEM leaves no chart and no record (R261). After a reset of PER, PER_STATUS.PACE is the boot pace until the next switch (R59, log entry
97). -/
def State.blockFresh (s : State) (b : Blk) : State :=
  let r := s.resetRegs (blkBase b) (blkBase b + 0x10000)
  match b with
  | .srch => State.untime r.srchRestart 0xFFFF
  | .chrt => r.chartRestart
  | .cell => { r with cell := {}, lanes := Vector.replicate 64 {} }
  | .cap => r.capRestart (r.gmem.selfRefresh && r.gmem.retained)
  | .chn => s.chnRestart
  | .evt =>
    let p := r.pins
    { r with pins := { ext := p.ext, extOn := p.extOn, kept := p.kept, bridge := p.bridge } }
  | .plt => { r with io := { r.io with plot := Vector.replicate 64 {}, slot := Vector.replicate 4 0 } }
  | .ser => { r with io := { r.io with ser := Vector.replicate 6 {} } }
  | .mem =>
    let t := s.memRestart
    if t.gmem.retained then t else t.chartRestart.ringEmpty
  | .per => ({ r with per := perReset r.per.pace }).setFld perStatus 17 16 r.bootPace

/-- A reset of the whole compute die: period SRAM, scratch and local memories are cleared, every page returns to its reset values but
for what the Binnacle holds (R62, R340, R465), GDDR6 keeps its content only if the sequence of R259 ended with the latch holding. CLK_TRIM is
not among what R465 names, so that it reads 0 until the next interval, though the Binnacle goes on from its trim code: DESIGN CHOICE, log
entry 119. -/
def State.cdReset (s : State) : State :=
  let keep := [pwrIdletmo, pwrStbytmo, pwrWakecfg, pwrWakesrc].map fun a => (a, s.rd a)
  let st := s.rd clkStatus &&& 0xC0000006
  let s := s.setMem { s.gmem with retained := s.gmem.selfRefresh && s.gmem.retained }
  let s := (s.resetRegs sysBase memBase).resetRegs hlmBase (serBase + 0x10000)
  let s := ((s.clearMem 0x1000000000 0x1004000000).clearMem 0x2000000000 0x2002000000).clearMem 0x3000000000 0x3000100000
  let s := s.loseAccesses fun a => decide (a < 0x5000000000)
  let s := (keep.foldl (fun (s : State) (r : Nat × Nat) => s.wr r.1 r.2) s).wr clkStatus st
  let k := s.clk
  let s := s.setClk { k with target := none, voltOk := true, lockOk := false, lowering := false, streaks := (0, 0),
                             idlePend := false, runPend := false, idlePeriods := 0 }
  let s := { s with per := perReset s.bootPace, cell := {}, lanes := Vector.replicate 64 {}, pins := s.pins.fresh,
                    io := { safeSel := s.io.safeSel, safeTx := s.io.safeTx },
                    cores := Vector.ofFn fun n : CoreN => if n.val < 8 then {} else s.cores[n] }
  let s := (s.wr pwrPace (s.fld bootCfg 3 2)).showPace
  let s := s.memRestart
  let keepRing := s.gmem.retained
  let s := { s.srchRestart with probs := Vector.replicate 4 {} }
  (((s.untime 0xFFFF).chartRestart).capRestart keepRing).chnRestart
/-- CLK_STATUS.HANG tells whether the reset of the compute die that begins followed a hang (R450). -/
def State.hangShown (s : State) : State := (s.setBit clkStatus 1 s.clk.hang).setClk { s.clk with hang := false }
/-- The compute die is powered and its reset released: its clocks run, and its supply stands unless the 48 V input is lost (R271, log entry
103). -/
def State.cdStart (s : State) : State :=
  let s := if s.clk.cdUp then s.hangShown else s
  let s := State.cdReset (s.setClk { s.clk with cdUp := true, held := false })
  let s := s.endCause 8
  if s.clk.mainLost then s else s.endCause 9
/-- The compute die goes into reset, powered or not, after the sequence of R259 (R260); MPT_PCOUNT holds the last PER_COUNT (R337). -/
def State.cdDown (s : State) (held : Bool) : State :=
  let s := if s.clk.cdUp then (s.toSelfRefresh.wr mptPcount (s.rd perCount)).hangShown else s
  (State.cdReset (s.setClk { s.clk with cdUp := false, held })).peerCheck
/-- GDDR6 loses power, and with it all it holds. -/
def State.gddrOff (s : State) : State := s.setMem { s.gmem with retained := false, selfRefresh := true, waiting := [] }
/-- The compute die loses power. -/
def State.cdOff (s : State) : State := State.cdDown (s.setClk { s.clk with cdRstReq := false }) false
/-- The module leaves Run: cause NORUN lasts until it is in Run again (R282). -/
def State.leaveRun (s : State) : State := if s.saf.active.testBit 18 then s else s.holdCause 18 0 0

/-- The reset of the powered compute die begins (R62, R260): the sequence of R259 runs, of which `ok` tells whether self-refresh was entered on
every channel in use and the latch holds; then the die is held in reset, with no access to it (R27), until the warm restart that follows
releases it (R411). -/
def execComputeDieReset (ok : Bool) (s : State) : Out :=
  if s.clk.cdUp then
    let s := if s.gmem.selfRefresh then s else s.enterSelfRefresh (ok && s.bit memStatus 31)
    let s := State.leaveRun { s.setClk { s.clk with power := .starting, cdRstReq := true } with boot := { s.boot with active := false } }
    .next (s.cdDown true)
  else .next s

/-! ## Block resets (R455) -/

/-- A block reset begins: outstanding requests to the block get error responses, and a reset of MEM first runs R259. -/
def State.blockResetStart (s : State) (b : Blk) : State :=
  if s.inReset b || !s.clk.cdUp then s
  else
    let s := if b = .mem then s.toSelfRefresh else s
    let s := s.loseAccesses fun a => onBlock b a || decide (b = .mem ∧ a < gddrEnd)
    (s.keepBlock b).setBit pwrBrstat (blkIdx b) true
def execBlockReset (b : Blk) (s : State) : Out := .next (s.blockResetStart b)
def execBlockResetRelease (b : Blk) (s : State) : Out :=
  if s.clk.cdUp && s.inReset b then .next ((s.setBit pwrBrstat (blkIdx b) false).blockFresh b) else .next s

/-! ## Clock gates (R454) -/

def gateable (b : Blk) : Bool := decide (blkIdx b < 8)
/-- Outstanding requests to block b: how each stands to the block's gate becomes what f makes of it. -/
def State.gateRequests (s : State) (b : Blk) (f : Gate → Gate) : State :=
  { s with
    port := { s.port with reads := s.port.reads.map fun x => if onBlock b x.addr then { x with gate := f x.gate } else x },
    cores := s.cores.map fun k =>
      { k with pend := k.pend.map fun x => if onBlock b x.addr then { x with gate := f x.gate } else x,
               stores := k.stores.map fun x => if onBlock b x.addr then { x with gate := f x.gate } else x } }
/-- Some request to block b is in flight. -/
def State.inFlight (s : State) (b : Blk) : Bool :=
  (s.port.reads.any fun x => onBlock b x.addr && x.gate != .forced) ||
  s.cores.toList.any fun k => (k.pend.any fun x => onBlock b x.addr && x.gate != .forced) || k.stores.any fun x => onBlock b x.addr && x.gate != .forced
/-- The gate bit is set: the block accepts no new access, and what is in flight may still finish. -/
def State.gateClose (s : State) (b : Blk) : State :=
  if gateable b && s.clk.cdUp && !s.bit clkGate (blkIdx b) then
    (s.setBit clkGate (blkIdx b) true).gateRequests b fun g => if g = .free then .closing else g
  else s
/-- The gate is closed; an access still in flight, of the model's own or one told, is forced. -/
def State.gateShut (s : State) (b : Blk) (forced : Bool) : State :=
  let forced := forced || s.inFlight b
  let s := (s.keepBlock b).setBit clkGstat (blkIdx b) true
  (if forced then s.setBit clkGstat (16 + blkIdx b) true else s).gateRequests b fun _ => .forced
def State.gateOpen (s : State) (b : Blk) : State :=
  if gateable b && s.clk.cdUp then
    let s := (s.setBit clkGate (blkIdx b) false).gateRequests b fun g => if g = .closing then .free else g
    if s.clk.power = .idle ∧ b ≠ .chn then s else (s.setBit clkGstat (blkIdx b) false).setBit clkGstat (16 + blkIdx b) false
  else s
def execGateClose (b : Blk) (s : State) : Out := .next (s.gateClose b)
def execGateClosed (b : Blk) (forced : Bool) (s : State) : Out :=
  if gateable b && s.clk.cdUp && s.bit clkGate (blkIdx b) && !s.gated b then .next (s.gateShut b forced) else .next s
def execGateOpen (b : Blk) (s : State) : Out := .next (s.gateOpen b)
def gateBlks : List Blk := [.srch, .chrt, .cell, .cap, .chn, .evt, .plt, .ser]

/-! ## Pace (R449, R450) -/

def State.paceReq (s : State) : Nat := Nat.min (s.fld pwrPace 1 0) 2
def State.paceCap (s : State) : Nat := s.fld pwrStatus 29 28
def State.paceWanted (s : State) : Fin 3 := toFin 3 (Nat.min (Nat.max s.paceReq s.paceCap) 2)
def State.changing (s : State) (b : Bool) : State := s.setBit pwrStatus 26 b
def State.showCapped (s : State) : State := s.setBit pwrStatus 27 (decide (s.paceReq < s.paceCap))

/-- The pace to be in force is compared with that in force and with the change in progress (R449): a new target starts steps 1 and 2. -/
def State.paceCheck (s : State) : State :=
  let s := s.showCapped
  let w := s.paceWanted
  if w = s.per.pace then
    if s.clk.target.isSome then (s.setClk { s.clk with target := none }).changing s.clk.lowering else s
  else if s.clk.target = some w then s
  else
    let s := s.setClk { s.clk with target := some w, voltOk := decide (s.per.pace < w), lockOk := false, lowering := false }
    (s.setBit clkStatus 28 false).changing true
def State.setPace (s : State) (v : Nat) : State := if s.clk.cdUp then (s.wr pwrPace (v % 4)).paceCheck else s
def execPaceRequest (v : Fin 4) (s : State) : Out := .next (s.setPace v)
/-- The change is abandoned with LOCKFAIL. -/
def State.lockFail (s : State) : State := ((s.setClk { s.clk with target := none }).setBit clkStatus 3 true).changing false
def execPllLock (ok : Bool) (s : State) : Out :=
  if s.clk.cdUp && s.clk.target.isSome && !s.clk.lockOk then
    .next (if ok then (s.setClk { s.clk with lockOk := true }).setBit clkStatus 28 true else s.lockFail)
  else .next s
def execVoltageSettled (s : State) : Out :=
  if s.clk.target.isSome && !s.clk.voltOk then .next (s.setClk { s.clk with voltOk := true })
  else if s.clk.lowering then .next ((s.setClk { s.clk with lowering := false }).changing s.clk.target.isSome)
  else .next s
/-- Steps 1 and 2 have completed: the next mark switches. -/
def State.switchDue (s : State) : Bool := s.clk.target.isSome && s.clk.voltOk && s.clk.lockOk
/-- The switch at a mark (R35, R449). -/
def State.paceSwitch (s : State) : State :=
  match s.clk.target with
  | some t =>
    if s.switchDue then
      let lower := decide (s.per.pace < t)
      let s := { s with per := { s.per with pace := t } }
      let s := s.setClk { s.clk with target := none, lockOk := false, lowering := lower }
      let s := (s.setBit clkStatus 29 (!s.bit clkStatus 29)).changing lower
      s.showPace.fire 0x2A
    else s
  | none => s

/-! ## The governor (R458, R459), in units of 0.1 mW -/

/-- P_env at a coldplate temperature in 1/16 °C. -/
def envelope (t : Int) : Int := if t ≤ 1120 then 7000000 else if t ≤ 1680 then 7000000 - (t - 1120) * 7750 else 2660000
/-- f × E of a lane at each pace. -/
def lanePower (q : Nat) : Int := if q = 0 then 1020 else if q = 1 then 539 else 252
def pEst (pMeas : Int) (lanes : Int) (pace q : Nat) : Int := pMeas - lanes * lanePower pace + lanes * lanePower q

/-- Evaluations in a row, to at most 10, in which the estimate was within the limit less the hysteresis. -/
def longer (streak : Nat) (est limit hyst : Int) : Nat := if est ≤ limit - hyst then Nat.min (streak + 1) 10 else 0
/-- CAP after an evaluation, with the counts of evaluations in a row that would allow Sprint and Cruise, and whether no pace qualifies. -/
def nextCap (cap : Nat) (streaks : Nat × Nat) (est : Nat → Int) (limit hyst : Int) : Nat × (Nat × Nat) × Bool :=
  let q := if est 0 ≤ limit then 0 else if est 1 ≤ limit then 1 else 2
  let beyond := decide (limit < est 0 ∧ limit < est 1 ∧ limit < est 2)
  let st := (longer streaks.1 (est 0) limit hyst, longer streaks.2 (est 1) limit hyst)
  (if cap ≤ q then q else if 10 ≤ (if cap = 1 then st.1 else st.2) then cap - 1 else cap, st, beyond)
/-- Above a coldplate of 105 °C CAP is Economy and ENVOVR is set (R464). -/
def hotCap (coldplate : Int) (r : Nat × (Nat × Nat) × Bool) : Nat × (Nat × Nat) × Bool := if 1680 < coldplate then (2, r.2.1, true) else r
/-- The 1 ms evaluation: 48 V input power in 0.1 mW, busy lanes, coldplate in 1/16 °C. It also ages the broadcasts of R296 and the
self-test passes of R286. -/
def execGovernorEvaluation (pMeas lanes : Nat) (coldplate : Int) (s : State) : Out :=
  let s := s.castTick.passTick
  let s := s.setClk { s.clk with ms := s.clk.ms + 1, coldplate }
  if !s.clk.cdUp || !s.bit pwrGovcfg 31 then .next s
  else
    let env := envelope coldplate
    let limit := env - s.fld pwrGovcfg 7 0 * 10000
    let (cap, streaks, beyond) :=
      hotCap coldplate (nextCap s.paceCap s.clk.streaks (pEst pMeas lanes s.per.pace) limit (s.fld pwrGovcfg 15 8 * 10000))
    let evt := decide (s.paceCap < cap ∧ s.per.pace < cap)
    let changed := cap != s.paceCap
    let s := (s.setClk { s.clk with streaks }).setFld pwrStatus 29 28 cap
    let s := s.wr pwrGovest (Nat.min (pMeas / 1000) 65535 * 65536 + (env / 1000).toNat)
    let s := if beyond then s.setBit pwrStatus 7 true else s
    let s := if evt then s.setBit pwrStatus 6 true else s
    .next (if changed then s.paceCheck else s)
/-- A write of PWR_GOVCFG: with EN at 0, CAP is Sprint. -/
def State.govConfig (s : State) (v : Nat) : State :=
  if s.bit clkCtrl 31 then s
  else
    let s := s.wr pwrGovcfg (v &&& 0x8000FFFF)
    if v.testBit 31 then s else ((s.setClk { s.clk with streaks := (0, 0) }).setFld pwrStatus 29 28 0).paceCheck

/-! ## Clock monitors, stretching, trimming (R448, R451, R452) -/

/-- The compute die is to be reset with retention and restarted (R411). -/
def State.restartDue (s : State) : State := s.setClk { s.clk with cdRstReq := true }
/-- A clock failure: cause CLOCK, and, where the compute die runs, its reset and restart. -/
def State.clockFailure (s : State) : State :=
  let s := s.holdCause 8 0 0
  if s.clk.cdUp then s.restartDue else s
/-- A monitor window ends: edges counted at the clock and, for the fabric clock, at the far end of its tree with whether 4 nominal
cycles passed without an edge. A fabric clock that is judged good ends the cause CLOCK. -/
def execClockMonitorWindow (c : Clock) (count nominal : Nat) (farEnd : Option (Nat × Bool)) (s : State) : Out :=
  let bad := decide (count * 100 < nominal * 88 ∨ nominal * 112 < count * 100)
  let treeBad := match farEnd with
    | some (n, gap) => gap || decide (n * 100 < nominal * 45)
    | none => false
  match c with
  | .fabric =>
    if s.clk.cdUp && (bad || treeBad) then
      let hang := decide (count = 0) && s.switchDue
      .next (State.clockFailure (s.setClk { s.clk with hang := s.clk.hang || hang }))
    else .next (if s.clk.cdUp then s.endCause 8 else s)
  | .refclk =>
    if bad && !s.bit clkStatus 31 then .next (State.clockFailure ((s.setBit clkStatus 31 true).setBit clkStatus 2 true)) else .next s
  | .binnacle => if bad then .next s.islandFault else .next s
  | .idlePll => if bad && s.clk.target.isSome && s.clk.voltOk then .next s.lockFail else .next s

def execDroop (cycles : Nat) (s : State) : Out := if s.clk.cdUp then .next (s.count clkStrcnt 31 0 cycles) else .next s

/-- A trim mark on the pilot lane of port p, `cycles` reference cycles after the last: it is forwarded on the other pilot lane (R313);
without REFCLK the trim code moves by one step toward zero error (R448). The first mark since the Binnacle's reset ends no interval. -/
def execTrimMark (p : ChPort) (cycles : Nat) (s : State) : Out :=
  if !s.laneIn p .pl then .next s
  else
    let s := s.showPilot p
    let c := s.chain
    let s := s.setChain (match p with
      | .up => { c with trimDn := c.trimDn + 1 }
      | .dn => { c with trimUp := c.trimUp + 1 })
    if !s.bit clkStatus 31 || !s.bit clkCtrl 1 then .next s
    else
      if !s.clk.trimSeen then .next (s.setClk { s.clk with trimSeen := true })
      else
      let err : Int := ((cycles : Int) - 25000) * 40
      let code := s.clk.trimCode
      let code' := if 0 < err then max (code - 1) (-2048) else if err < 0 then min (code + 1) 2047 else code
      let e := max (-32768) (min 32767 err)
      let s := s.wr clkTrim (2 ^ 31 + wrapN 12 code' * 65536 + wrapN 16 e)
      let n := if err.natAbs ≤ 20 then Nat.min (s.clk.trimStreak + 1) 8 else 0
      let s := s.setClk { s.clk with trimStreak := n, trimCode := code' }
      .next (if n = 8 then s.setBit clkStatus 30 true else s)

/-! ## Power states (R460 to R463) -/

def State.cmdErrPwr (s : State) : State := if s.clk.cdUp then s.setBit pwrStatus 0 true else s
/-- The module enters Run. -/
def State.enterRun (s : State) : State := State.endCause (s.setClk { s.clk with power := .run }) 18
/-- The entry window ends (R462): pulses that came before are lost, an active level source stays. -/
def State.armWake (s : State) : State :=
  let lvl := s.bit pwrWakecfg 2 && s.bit pwrWakecfg 3 && s.clk.pinLevel && (List.range 10).any (fun n => s.fld (mpinPcfg n) 1 0 == 2)
  s.setClk { s.clk with wakes := if lvl then 8 else 0 }
def State.lowPower (s : State) : Bool := decide (s.clk.power = .idle ∨ s.clk.power = .standby ∨ s.clk.power = .dormant)

/-- PWR_CMD IDLE: Idle begins at the next mark. -/
def State.cmdIdle (s : State) : State :=
  if s.clk.power = .run then s.setClk { s.clk with idlePend := true } else s.cmdErrPwr
def execIdle (s : State) : Out := .next s.cmdIdle
/-- Idle begins: every gate but that of CHN closes. -/
def State.idleEnter (s : State) : State :=
  let s := s.each (gateBlks.filter fun b => decide (b ≠ .chn) && !s.gated b) fun (s : State) b => s.gateShut b false
  State.armWake (State.leaveRun (s.setClk { s.clk with power := .idle, idlePend := false, idlePeriods := 0 }))
/-- Idle ends at a mark: the gates reopen but for those that CLK_GATE holds closed. -/
def State.idleLeave (s : State) : State :=
  let s := s.wr clkGstat (s.rd clkGstat &&& (s.fld clkGate 7 0 * 0x10001))
  State.enterRun (s.setClk { s.clk with runPend := false })

/-- To Standby: the sequence of R259, then the compute die is powered down. The entry is one step: a wake source that arrives during the
sequence and is taken at once when it is over (R464) is one that arrives after it. -/
def State.enterStandby (s : State) : State :=
  let s := s.leaveRun
  let s := if s.clk.cdUp then s.toSelfRefresh else s
  State.armWake (State.cdOff (s.setClk { s.clk with power := .standby }))
/-- To Dormant: GDDR6 power is removed and its content lost. -/
def State.enterDormant (s : State) : State :=
  State.armWake (State.cdOff (s.leaveRun.gddrOff.setClk { s.clk with power := .dormant }))
def State.runOrIdle (s : State) : Bool := decide (s.clk.power = .run ∨ s.clk.power = .idle)
def State.cmdStby (s : State) : State := if s.runOrIdle then s.enterStandby else s.cmdErrPwr
def State.cmdDorm (s : State) : State := if s.runOrIdle then s.enterDormant else s.cmdErrPwr
def execStby (s : State) : Out := .next s.cmdStby
def execDorm (s : State) : Out := .next s.cmdDorm

/-- The idle timer (R460): N periods in a row without an enabled slot, a verification or a build. -/
def execIdleTimeout (s : State) : Out :=
  let n := s.fld pwrIdletmo 23 0
  if s.clk.power = .run ∧ n ≠ 0 ∧ n ≤ s.clk.idlePeriods then .next (s.setClk { s.clk with idlePend := true }) else .next s
def execStandbyTimeout (s : State) : Out :=
  if s.clk.power = .idle ∧ s.fld pwrStbytmo 15 0 ≠ 0 then .next s.enterStandby else .next s
def execDormantTimeout (s : State) : Out :=
  if s.clk.power = .standby ∧ s.fld pwrStbytmo 31 16 ≠ 0 then .next s.enterDormant else .next s

/-- A wake source arrives (R461): it counts in Idle, Standby and Dormant. -/
def State.wakeSource (s : State) (code : Nat) : State :=
  if s.lowPower then s.setClk { s.clk with wakes := s.clk.wakes ||| 2 ^ code } else s
def State.portWake (s : State) : State := if s.bit pwrWakecfg 0 then s.wakeSource 1 else s
def execPortWake (s : State) : Out := .next s.portWake
/-- A WAKE frame addressed to the module is handled (R319). -/
def execWake (s : State) : Out :=
  match s.takeFrame 0x15 none with
  | (some (_, true, _), s) => .next (if s.bit chnPilot 0 then s.wakeSource 2 else s)
  | (_, s) => .next s
/-- The wake pins: the OR of those with FUNC 2 after INV, and whether it has just risen (R502). With no pin of FUNC 2 it is 0. -/
def execWakePin (level edge : Bool) (s : State) : Out :=
  if !(List.range 10).any (fun n => s.fld (mpinPcfg n) 1 0 == 2) then .next (s.setClk { s.clk with pinLevel := false })
  else
    let s := s.setClk { s.clk with pinLevel := level }
    .next (if s.bit pwrWakecfg 2 && (if s.bit pwrWakecfg 3 then level else edge) then s.wakeSource 3 else s)
def execWakeTimer (s : State) : Out := if s.fld pwrWakecfg 31 16 ≠ 0 then .next (s.wakeSource 4) else .next s
def State.cmdRun (s : State) : State := if s.clk.power = .idle then s.wakeSource 5 else s.cmdErrPwr
def execRun (s : State) : Out := .next s.cmdRun

/-! ## Supplies (R456, R457) -/

def warnBit : Supply → Nat
  | .main48 => 5 | .standby12 => 4 | .computeCore => 3 | .binnacleCore => 2
def execSupplyWarning (u : Supply) (s : State) : Out :=
  if s.clk.power = .off then .next s
  else
    let s := (s.setBit pwrStatus (warnBit u) true).evLog 4 (warnBit u) 0
    match u with
    | .standby12 | .binnacleCore => .next s.flashWarn
    | _ => .next s

/-- The external boot memory. -/
def extBase : Nat := 0x10000000000
/-- Where memory survives a Binnacle reset: flash array, record store, external boot memory. -/
def nonVolatile (a : Nat) : Bool :=
  decide (flashBase ≤ a ∧ a < flashBase + 0x400000 ∨ nvrBaseAddr ≤ a ∧ a < nvrBaseAddr + 0x40000 ∨ extBase ≤ a ∧ a < extBase + 2 ^ 32)
/-- The module under a Binnacle reset: everything at reset but what is non-volatile, outside the module, or has left it. A 48 V input that is
lost stays so, and with it its cause (R522). -/
def State.binnacleFresh (s : State) : State :=
  let c := s.chain
  { State.reset with
    mem := s.mem.filter (fun x => nonVolatile x.1), flaws := s.flaws.filter (fun f => nonVolatile (4 * f)), hubs := s.hubs,
    freeCtr := s.freeCtr, pending := s.pending, pins := { ext := s.pins.ext, extOn := s.pins.extOn },
    clk := { mainLost := s.clk.mainLost }, saf := { active := 0x40000 + 512 * b2n s.clk.mainLost },
    chain := { sent := c.sent, marksOut := c.marksOut, dreqOut := c.dreqOut, dechoOut := c.dechoOut, trimUp := c.trimUp, trimDn := c.trimDn } }
/-- The Binnacle is held in reset, or loses its supply: the compute die is off with it (R22), the SAFE outputs are low, a transaction of the
port is lost (R338), the island stands still, and nothing runs until the Binnacle reset is released. -/
def State.binnacleDown (s : State) : State :=
  { s.binnacleFresh with
    clk := { power := .off, mainLost := s.clk.mainLost, refSel := s.bit clkCtrl 0 }, boot := { active := false }, saf := { islandFault := true, keepalive := false } }

/-- A supply falls below its reset level. Without 48 V the module is then in Standby, unless the compute die is off for another reason already
(Standby, Dormant, Recovery), and a boot in progress is over (R457). -/
def execSupplyResetCrossing (u : Supply) (s : State) : Out :=
  if s.clk.power = .off then .next s
  else match u with
    | .main48 =>
      let s := s.setClk { s.clk with mainLost := true, wasRun := s.runOrIdle || s.clk.mainLost && s.clk.wasRun }
      let s := s.holdCause 9 0 0
      .next (if s.runOrIdle || s.clk.power == .starting then { s.enterStandby with boot := { s.boot with active := false, retry := false } } else s)
    | .computeCore => if s.clk.cdUp then .next (State.restartDue (s.holdCause 9 0 0)) else .next s
    | .standby12 | .binnacleCore => .next s.binnacleDown
/-- The 48 V input has stayed above 41.0 V for 100 ms. -/
def execMainInputRestored (s : State) : Out :=
  if s.clk.mainLost then
    let was := s.clk.wasRun && decide (s.clk.power = .standby)
    let s := (s.setClk { s.clk with mainLost := false, wasRun := false }).endCause 9
    .next (if was then s.wakeSource 6 else s)
  else .next s

/-- The lowest wake source that has arrived is recorded and wakes the module (R462, R463). Standby and Dormant cannot be left without the 48 V
input (R522). -/
def execWakeTaken (s : State) : Out :=
  match (List.range 7).find? fun c => s.clk.wakes.testBit c with
  | some c =>
    if s.lowPower && (!s.clk.mainLost || s.clk.power == .idle) then
      let p := s.clk.power
      let s := s.writeWake c (powerCode p)
      let s := s.setClk { s.clk with wakes := 0 }
      match p with
      | .idle => .next (s.setClk { s.clk with runPend := true })
      | .standby => .next (State.restartDue (s.setClk { s.clk with power := .starting }))
      | _ => .next s.binnacleDown
    else .next s
  | none => .next s

/-- What a mark does to pace and power state: the multiplexer switches, Idle begins or ends, the idle timer counts (R35, R460). -/
def State.powerMark (s : State) : State :=
  let s := s.paceSwitch
  let busy := (allSlots.any fun p => (slotTable s p).enable) || s.bufState .bufA == 2 || s.bufState .bufB == 2 || s.chart.build.isSome ||
    s.chart.bg.isSome
  let s := s.setClk { s.clk with idlePeriods := if busy then 0 else s.clk.idlePeriods + 1 }
  if s.clk.power = .run ∧ s.clk.idlePend then s.idleEnter
  else if s.clk.power = .idle ∧ s.clk.runPend then s.idleLeave
  else s

end Sys2Proof.Machine
end

