-- ==== Sys2Proof/Machine/Boot.lean ====
section
/-!
DEFINITION. Boot and secure start: the image and its checks (R395 to R400), the choice of the slot (R401, R402), the steps and their
failures (R404 to R408), warm restart (R411), the operations of BOOT_CMD (R403, R413), the boot block and its swap (R428 to R432), the
microcode block (R388), the Binnacle reset.
-/
namespace Sys2Proof.Machine

def State.setBoot (s : State) (b : Boot) : State := { s with boot := b }
/-- The local memories of the Binnacle's cores (instruction SRAM, then data SRAM). -/
def mgmtLocal : Nat := 0x10100000000
def islandLocal : Nat := 0x10100100000
/-- The staging area (R400). -/
def stageBase : Nat := 0x1001000000

/-- An operation of BOOT_CMD ends, or is refused, with a code; BUSY shows whether an erase or a program runs (R413). -/
def State.cmdEnd (s : State) (code : Nat) : State :=
  let s := (s.setBit bootCmdst 31 s.boot.op.isSome).setFld bootCmdst 3 0 code
  if code = 0 then s else s.setBit bootCmdst 8 true
/-- In Off the Binnacle does nothing. -/
def State.powered (s : State) (t : State) : State := if s.clk.power = .off then s else t

/-! ## The boot memory and its port (R392 to R394) -/

/-- The place of a read mode, the widest data path last. -/
def modeRank : ReadMode → Nat
  | .m111 => 0 | .m114 => 1 | .m144 => 2 | .m118 => 3 | .m188 => 4
/-- The widest mode that BOOT_CFG.WIDTH allows, whose unused code 3 acts as 2; under PORTSAFE it is 1-1-1 (R406). -/
def State.portRank (s : State) : Nat :=
  if s.bit bootStatus 27 then 0 else match s.fld bootCfg 5 4 with
    | 0 => 4
    | 1 => 2
    | _ => 0
/-- The divider that BOOT_CFG.DIV selects; under PORTSAFE the port runs at 25 MHz. -/
def State.portDiv (s : State) : Nat := if s.bit bootStatus 27 then 16 else [3, 4, 8, 16].getD (s.fld bootCfg 1 0) 16
/-- Above 16 MB the 4-byte codes are used, when the memory has them; else it counts as one of 16 MB (R394). -/
def sfdpLong (f : Sfdp) : Bool := decide (16 * 2 ^ 20 < f.density) && f.fourByte
def sfdpSize (f : Sfdp) : Nat := if f.fourByte then f.density else Nat.min f.density (16 * 2 ^ 20)
/-- A mode can be used: its enable bit, which the loader does not write, is set, and it has a command for the addresses. -/
def sfdpUsable (f : Sfdp) (m : SfdpMode) : Bool := (m.mode == .m111 || m.enabled) && (!sfdpLong f || m.code4.isSome)
/-- The widest mode up to `rank` that can be used. Where SFDP names none, mode 1-1-1 with the read command 0x03, or 0x13 with 4-byte addresses:
PRESUMED, log entry 119. -/
def sfdpPick (f : Sfdp) (rank : Nat) : SfdpMode :=
  (f.modes.filter fun m => sfdpUsable f m && decide (modeRank m.mode ≤ rank)).foldl
    (fun (b m : SfdpMode) => if modeRank b.mode ≤ modeRank m.mode then m else b)
    { mode := .m111, code := 0x03, code4 := some 0x13, dummy := 0, enabled := true }
/-- The port as the loader sets it for everything after SFDP. -/
def State.readPort (s : State) (f : Sfdp) : ReadPort :=
  let m := sfdpPick f s.portRank
  { mode := m.mode, code := if sfdpLong f then m.code4.getD m.code else m.code, dummy := m.dummy, div := s.portDiv, long := sfdpLong f }
/-- The largest erase type of at most 64 KB (R413). Where SFDP names none, 4 KB by 0x20: PRESUMED, log entry 119. -/
def sfdpErase (f : Sfdp) : SfdpWrite :=
  match (f.erases.filter fun e => decide (e.log ≤ 16)) with
  | [] => { log := 12, code := 0x20, code4 := some 0x21 }
  | e :: es => es.foldl (fun (b x : SfdpWrite) => if b.log < x.log then x else b) e
def writeCode (w : SfdpWrite) (long : Bool) : Byte := if long then w.code4.getD w.code else w.code
def State.eraseUnit (s : State) : Nat := match s.boot.sfdp with
  | some f => 2 ^ (sfdpErase f).log
  | none => 0x1000
/-- What ERASE (2) and PROGRAM (3) send beside status reads: write enable and the command, a PROGRAM once for each page (R413). -/
def State.opCodes (s : State) (op : Nat) : List Byte := match s.boot.sfdp with
  | some f =>
    if op = 2 then [0x06, writeCode (sfdpErase f) (sfdpLong f)]
    else (List.replicate (Nat.max 1 (256 / 2 ^ f.page.log)) [0x06, writeCode f.page (sfdpLong f)]).flatten
  | none => []

/-! ## The boot block (R428 to R432) -/

def bbBase (c : Fin 2) : Nat := sectorBase (32 * c)
def State.bbValid (s : State) (c : Fin 2) : Bool :=
  s.word (bbBase c) == 0x42420001 && s.word (bbBase c + 0x70) == crc32 (s.bytes (bbBase c) 0x70)
/-- The generation: programmed GEN lines up to the first that is not (R429). -/
def genFrom (s : State) (c : Fin 2) : Nat → Nat → Nat
  | 0, k => k
  | n + 1, k => if s.bytes (bbBase c + 0xF000 + 16 * k) 16 = List.replicate 16 0 then genFrom s c n (k + 1) else k
def State.bbGenOf (s : State) (c : Fin 2) : Nat := genFrom s c 256 0
/-- The half-programmed GEN lines are programmed again, before g is counted (R430). -/
def State.completeGen (s : State) (half : List (Fin 2 × Fin 256)) : State :=
  half.foldl (fun (s : State) x => s.store (bbBase x.1 + 0xF000 + 16 * x.2.val) (List.replicate 16 0)) s
def State.bbChoice (s : State) : Option (Fin 2) :=
  match s.bbValid 0, s.bbValid 1 with
  | true, true => some (if s.bbGenOf 0 < s.bbGenOf 1 then 1 else 0)
  | true, false => some 0
  | false, true => some 1
  | false, false => none

/-- A swap with MINVER `m` (R431): none when the generations are used up. -/
def State.bbSwap (s : State) (m : Nat) : Option State :=
  if 256 ≤ s.boot.bbGen then none
  else
    let old := s.bytes (bbBase s.boot.bbCopy) 0x70
    let c : Fin 2 := if s.boot.bbCopy = 0 then 1 else 0
    let body := old.take 4 ++ toLE 2 m ++ old.drop 6
    let s := s.eraseSector (32 * c)
    let s := s.store (bbBase c) (withCrc body)
    let s := s.store (bbBase c + 0xF000) (List.replicate (16 * (s.boot.bbGen + 1)) 0)
    let s := s.setFld bootVer 31 16 m
    some (s.setBoot { s.boot with bbCopy := c, bbGen := s.boot.bbGen + 1 })

/-! ## The image (R395 to R398) -/

def State.slotOfs (s : State) (n : Fin 2) : Nat := extBase + n * (s.boot.density / 2)
def State.slotSize (s : State) : Nat := Nat.min (s.boot.density / 2) (48 * 2 ^ 20)

/-- A segment entry (R397), with the CORES word of a microcode block. -/
structure Seg where
  ofs : Nat
  size : Nat
  dest : Nat
  kind : Nat
  digest : List Byte
  cores : Nat := 0
deriving DecidableEq, Repr

def segAt (h : List Byte) (i : Nat) : Seg :=
  let e := h.drop (0x40 + 64 * i)
  { ofs := leAt e 0 4, size := leAt e 4 4, dest := leAt e 8 5, kind := leAt e 12 2 / 256 % 16, digest := (e.drop 16).take 48 }
def nsegOf (h : List Byte) : Nat := leAt h 6 2
/-- The segments of a header, with the CORES words read for them. -/
def segsOf (h : List Byte) (cores : List Nat) : List Seg :=
  (List.range (nsegOf h)).map fun i => { segAt h i with cores := cores.getD i 0 }
/-- The CORES words of the microcode blocks that slot n's header lists. -/
def State.peekCores (s : State) (n : Fin 2) (h : List Byte) : List Nat :=
  (List.range (Nat.min (nsegOf h) 32)).map fun i => if (segAt h i).kind = 5 then s.word (s.slotOfs n + (segAt h i).ofs + 4) else 0

/-- DEST lies within the range of its kind. -/
def Seg.destOk (g : Seg) : Bool :=
  let lo := g.dest
  let hi := g.dest + g.size
  match g.kind with
  | 1 | 2 | 3 | 4 => decide (hi ≤ 0x10000)
  | 5 => g.dest == 0
  | 6 => decide (0x1000000000 ≤ lo ∧ hi ≤ 0x1001000000 ∨ 0x3000000000 ≤ lo ∧ hi ≤ 0x3000100000)
  | 7 => decide (0x0300000000 ≤ lo ∧ hi ≤ retainBase)
  | _ => false
/-- Where a segment ends up, as intervals of a space of its own for each kind; a microcode block goes to the table of each core of its CORES. -/
def Seg.extent (g : Seg) : List (Nat × Nat) :=
  match g.kind with
  | 1 | 2 | 3 | 4 => [(g.kind * 2 ^ 48 + g.dest, g.size)]
  | 5 => (setBitsOf g.cores 9).map fun n => (5 * 2 ^ 48 + n, 1)
  | _ => [(g.dest, g.size)]
def Seg.shapeOk (len : Nat) (g : Seg) : Bool :=
  g.ofs % 64 == 0 && decide (0x1000 ≤ g.ofs ∧ g.ofs + g.size ≤ len ∧ g.size ≠ 0) && g.size % 4 == 0 && g.destOk

def layoutOk (h : List Byte) (cores : List Nat) (slotSize : Nat) : Bool :=
  let len := leAt h 0x10 4
  let gs := segsOf h cores
  decide (0x1000 ≤ len ∧ len ≤ 0x3000000 ∧ len ≤ slotSize) && leAt h 8 4 != 0 && gs.all (Seg.shapeOk len)
    && disjoint (gs.map fun g => (g.ofs, g.size)) && disjoint (gs.flatMap Seg.extent)

/-- A signature r, s at the start of `sig` over `msg` with the root key of the boot block (R398). -/
def State.sigOk (s : State) (msg sig : List Byte) : Bool :=
  let key := bbBase s.boot.bbCopy + 0x10
  ecdsaOk (ofBE (s.bytes key 48)) (ofBE (s.bytes (key + 48) 48)) (ofBE (sig.take 48)) (ofBE ((sig.drop 48).take 48)) (ofBE (sha384 msg))

/-- The REASON of BOOT_SLOTST for the header conditions of R398; 0 when they hold. -/
def State.headerReason (s : State) (h : List Byte) (cores : List Nat) : Nat :=
  if leAt h 0 4 ≠ 0x54494D47 ∨ leAt h 4 2 ≠ 1 ∨ nsegOf h = 0 ∨ 32 < nsegOf h then 1
  else if leAt h 0x16 2 ≠ 0x0700 ∨ byteAt h 0x14 ≠ 0xB1 then 2
  else if leAt h 0xC 2 < s.fld bootVer 31 16 then 3
  else if !layoutOk h cores s.slotSize then 4
  else if !s.sigOk (h.take 0x840) (h.drop 0x840) then 5 else 0
/-- The image hash, as 12 words. -/
def hashWords (h : List Byte) : List Nat :=
  let d := sha384 (h.take 0x840)
  (List.range 12).map fun i => leAt d (4 * i) 4

/-- A segment that is copied into the Binnacle's memories: kinds 1 to 4, and a microcode block for the management core (R388, R400). -/
def Seg.inBinnacle (g : Seg) : Bool := decide (1 ≤ g.kind ∧ g.kind ≤ 4) || g.kind == 5 && g.cores.testBit 8
def digestOk (d : List Byte) (g : Seg) : Bool := decide (sha384 d = g.digest)
/-- The Binnacle memory that holds the copy of a segment of kind 1 to 4. -/
def Seg.home (g : Seg) : Option Nat := match g.kind with
  | 1 => some (mgmtLocal + g.dest)
  | 2 => some (mgmtLocal + 0x10000 + g.dest)
  | 3 => some (islandLocal + g.dest)
  | 4 => some (islandLocal + 0x10000 + g.dest)
  | _ => none

/-! ## The choice of the slot (R401, R402) -/

def State.hdrOf (s : State) (n : Fin 2) : List Byte := s.boot.hdr.getD n []
def State.coresOf (s : State) (n : Fin 2) : List Nat := s.boot.cores.getD n []
def State.segs (s : State) (n : Fin 2) : List Seg := segsOf (s.hdrOf n) (s.coresOf n)
/-- Slots whose header conditions hold, in the order to try; and whether SEQ tied. -/
def State.slotOrder (s : State) (ok : Fin 2 → Bool) : List (Fin 2) × Bool :=
  if ok 0 && ok 1 then
    let q := fun n => leAt (s.hdrOf n) 8 4
    let hash := fun n => hashWords (s.hdrOf n)
    let first : Fin 2 := if q 0 < q 1 then 1 else if q 1 < q 0 then 0
      else if hash 0 = s.boot.lastHash then 0 else if hash 1 = s.boot.lastHash then 1 else 0
    let first := if hash first = s.boot.failHash then (if first = 0 then 1 else 0) else first
    ([first, if first = 0 then 1 else 0], q 0 == q 1)
  else ((if ok 0 then [0] else []) ++ (if ok 1 then [1] else []), false)

/-! ## Placing segments (R388, R397, R409) -/

/-- The block's entries and microwords, when its magic, NUW and CRC hold: (entries, microwords). -/
def ucodeOf (d : List Byte) : Option (List Nat × List (Nat × Nat)) :=
  let nuw := leAt d 8 4
  if leAt d 0 4 = 0x4D430001 ∧ 1 ≤ nuw ∧ nuw ≤ 512 ∧ leAt d (80 + 8 * nuw) 4 = crc32 (d.take (80 + 8 * nuw)) then
    some ((List.range 16).map fun e => leAt d (16 + 4 * e) 4, (List.range nuw).map fun u => (leAt d (80 + 8 * u) 4, leAt d (84 + 8 * u) 4))
  else none
/-- Write a table of entries and microwords at a register block base. -/
def State.loadTable (s : State) (base : Nat) (t : List Nat × List (Nat × Nat)) : State :=
  let s := s.each t.1.zipIdx fun (s : State) (x : Nat × Nat) => s.wr (base + 4 * x.2) x.1
  s.each t.2.zipIdx fun (s : State) (x : (Nat × Nat) × Nat) => (s.wr (base + 0x400 + 8 * x.2) x.1.1).wr (base + 0x404 + 8 * x.2) x.1.2

def State.bootEvent (s : State) (i : Nat) : State := (s.setBit bootEvt i true).evLog 1 i (s.fld bootStatus 0 0)

/-- A Binnacle segment is copied (R400): kinds 1 to 4 where they belong, the microcode block into the loader's memory. -/
def State.copySeg (s : State) (n : Fin 2) (g : Seg) : State :=
  let d := s.bytes (s.slotOfs n + g.ofs) g.size
  match g.home with
  | some a => s.store a d
  | none => s.setBoot { s.boot with ucode := d }
def State.segCopy (s : State) (g : Seg) : List Byte := match g.home with
  | some a => s.bytes a g.size
  | none => s.boot.ucode
/-- The Binnacle segments of slot n are copied, and the copies checked (R401). -/
def State.trySlot (s : State) (n : Fin 2) : State × Bool :=
  let gs := (s.segs n).filter Seg.inBinnacle
  let s := (s.setBoot { s.boot with ucode := [] }).each gs fun (s : State) g => s.copySeg n g
  (s, gs.all fun g => digestOk (s.segCopy g) g)
/-- The management core's table from the copy of its block (R388): an image without one, or with one that is not loaded, leaves every entry
invalid. -/
def State.loadMgmt (s : State) : State :=
  let s := s.resetRegs mgmtDtBase (mgmtDtBase + 0x1400)
  if s.boot.ucode = [] then s else match ucodeOf s.boot.ucode with
    | some t => s.loadTable mgmtDtBase t
    | none => s.bootEvent 2
/-- A microcode block goes into the tables of the compute-die cores that its CORES names (R409). -/
def State.loadTables (s : State) (d : List Byte) : State := match ucodeOf d with
  | some t => s.each (setBitsOf (leAt d 4 4) 8) fun (s : State) c => s.loadTable (hlmDt c 0) t
  | none => s
/-- A staged segment, its copy at address a, is placed: kind 6 at its address, kind 5 in the tables. The loader's store of a kind 6 segment over
the words of a slot that the module writes (R63) is performed: DESIGN CHOICE, log entry 119. -/
def State.placeStaged (s : State) (g : Seg) (a : Nat) : State :=
  let d := s.bytes a g.size
  if g.kind = 6 then s.store g.dest d else if g.kind = 5 then s.loadTables d else s
/-- The staged segments of the chosen slot with their offsets in the staging area (log entry 34: packed in the order of the header). -/
def packSegs : Nat → List Seg → List (Seg × Nat)
  | _, [] => []
  | o, g :: gs => (g, o) :: packSegs (o + g.size) gs
def State.staged (s : State) (n : Fin 2) : List (Seg × Nat) :=
  packSegs 0 ((s.segs n).filter fun g => !g.inBinnacle)

/-! ## Steps, failure and Recovery (R404 to R408) -/

def State.bootFails (s : State) : Nat := s.fld bootStatus 19 16
/-- Step k starts. -/
def State.startStep (s : State) (k : Nat) : State :=
  let s := (s.setFld bootStatus 11 8 k).setBoot { s.boot with step := k, active := true, retry := false }
  let s := if 3 ≤ k then s.setFld bootProg (4 * (k - 3) + 3) (4 * (k - 3)) (Nat.min (s.fld bootProg (4 * (k - 3) + 3) (4 * (k - 3)) + 1) 15) else s
  s.saveProg
/-- The step in progress passes and the next starts; Run begins with step 10. -/
def State.passStep (s : State) : State :=
  let k := s.boot.step + 1
  let s := State.startStep s.saveProg k
  if k = 10 then s.enterRun else s
/-- The step in progress is k. -/
def State.inStep (s : State) (k : Nat) : Bool := s.boot.active && s.boot.step == k && s.clk.power != .off

/-- Recovery (R408): the compute die is off by then, and so is GDDR6. -/
def State.enterRecovery (s : State) : State :=
  let s := s.setClk { s.clk with power := .recovery }
  let s := (s.setBit bootStatus 31 true).setBoot { s.boot with active := false, retry := false }
  let s := s.setCore 8 { s.core 8 with running := false }
  s.alert 5
/-- The alternative that a failure of step k sets for the next boot (R406). -/
def State.setAlternative (s : State) (k : Nat) : State :=
  if k = 2 then s.setBit bootStatus 27 true
  else if k = 3 ∨ k = 5 ∨ k = 10 then s.setBoot { s.boot with failHash := s.boot.chosenHash }
  else if k = 7 then s.orReg bootDeg (s.fld srchClavail 31 16 * 65536)
  else if k = 8 then s.setBit bootStatus 29 true
  else if k = 9 then s.setBit bootStatus 28 true
  else s
/-- The step in progress fails (R407): a failure of step 1, the third failed boot in a row, and a boot that was started in Recovery lead to
Recovery (R408). -/
def State.bootFail (s : State) : State :=
  let k := s.boot.step
  let n := Nat.min (s.bootFails + 1) 3
  let again := decide (n < 3 ∧ k ≠ 1) && !s.boot.fromRecovery
  let s := ((s.setAlternative k).setFld bootStatus 23 20 k).setFld bootStatus 19 16 n
  let s := State.leaveRun (s.setClk { s.clk with power := .starting })
  let s := State.cdOff (if again then s else s.gddrOff)
  let s := State.saveProg (s.setBoot { s.boot with active := false, retry := again, warm := false })
  if again then s else s.enterRecovery

/-- A boot starts at step 2, with the alternatives in force and no slot chosen yet. -/
def State.bootFrom2 (s : State) : State :=
  let s := s.setClk { s.clk with power := .starting }
  let s := s.setBoot { s.boot with warm := false, fromRecovery := s.bit bootStatus 31, slot := none, chosenHash := s.boot.failHash }
  let s := ((s.setBit bootStatus 31 false).setBit bootStatus 30 false).setFld bootStatus 1 0 0
  let s := s.setBit chnPilot 1 (s.bit bootStatus 29)
  State.startStep s 2

/-! ## The steps -/

/-- The loader's margin check of the chosen boot-block copy finds `lines` that differ; if any do, the copy is repaired by a swap, which a
generation of 256 refuses (R431, R432). -/
def State.checkBlock (s : State) (lines : Nat) : State :=
  let n := 32 * s.boot.bbCopy.val
  let s := (s.wr flsMargin (2 ^ 31 + n * 2 ^ 24 + lines)).setBit flsStatus 8 true
  if lines = 0 then s
  else
    let s := s.flsFlag 9 n
    match s.bbSwap (s.fld bootVer 31 16) with
    | some t => t
    | none => s.cmdEnd 6
/-- RECALL: half-programmed GEN lines are completed, the boot block is chosen, checked and repaired, and the progress record read. -/
def execBootRecall (half : List (Fin 2 × Fin 256)) (lines : Nat) (s : State) : Out :=
  if !s.inStep 1 || !s.bit nvrStatus 31 then .next s
  else
    let ws := recRead s 1 27
    let s := (s.setFld bootStatus 29 16 (ws.getD 0 0 >>> 16)).wr bootProg (ws.getD 1 0)
    let s := (s.wr bootDeg (ws.getD 2 0)).setBoot { s.boot with
      recalled := true, lastHash := (ws.drop 3).take 12, failHash := (ws.drop 15).take 12, lastSlot := ws.getD 0 0 % 2 }
    let s := s.completeGen half
    match s.bbChoice with
    | none => .next s.bootFail
    | some c =>
      let s := s.setBoot { s.boot with bbCopy := c, bbGen := s.bbGenOf c }
      let s := (s.wr bootVer (s.le (bbBase c + 4) 2 * 65536)).wr bootCfg (s.le (bbBase c + 8) 2 &&& 0xFF3F)
      .next (s.checkBlock (Nat.min lines 4096)).saveProg.bootFrom2

/-- PORT: the memory is reset and its SFDP read in mode 1-1-1 at 25 MHz; then the port is set (R393). `sfdp` is what SFDP gives, none without a
valid signature. -/
def execBootPort (sfdp : Option Sfdp) (s : State) : Out :=
  if !s.inStep 2 then .next s
  else
    let s := s.setBoot { s.boot with sent := [0x66, 0x99, 0x5A], port := {} }
    match sfdp with
    | none => .next s.bootFail
    | some f => .next (State.passStep (s.setBoot { s.boot with density := sfdpSize f, sfdp := some f, port := s.readPort f }))

/-- A core of the Binnacle starts at offset 0 of its instruction SRAM. -/
def State.startBinnacleCore (s : State) (n : CoreN) : State := s.setCore n { running := true }
/-- What BOOT_SLOTST shows of slot n. -/
def State.showSlot (s : State) (n : Fin 2) (reason : Nat) : State :=
  s.setFld bootSlotst (8 * n + 7) (8 * n) (if reason = 0 then 0x80 else reason)

/-- The slots are tried in order; one whose Binnacle segments do not match their digests is passed over (R401). -/
def State.pickSlot : List (Fin 2) → State → State × Option (Fin 2)
  | [], s => (s, none)
  | n :: ns, s => match s.trySlot n with
    | (s, true) => (s, some n)
    | (s, false) => State.pickSlot ns (s.showSlot n 6)
/-- SLOT: both headers are copied and checked, the slot is chosen by its Binnacle segments, which are in place then, sectors 0 and 32 are
protected, and the Binnacle's cores start (R401, R409, R427). -/
def execBootSlot (s : State) : Out :=
  if !s.inStep 3 then .next s
  else
    let s := s.setBoot { s.boot with hdr := [s.bytes (s.slotOfs 0) 0x1000, s.bytes (s.slotOfs 1) 0x1000] }
    let s := s.setBoot { s.boot with cores := [s.peekCores 0 (s.hdrOf 0), s.peekCores 1 (s.hdrOf 1)] }
    let r0 := s.headerReason (s.hdrOf 0) (s.coresOf 0)
    let r1 := s.headerReason (s.hdrOf 1) (s.coresOf 1)
    let s := (s.wr (bootSeq 0) (leAt (s.hdrOf 0) 8 4)).wr (bootSeq 1) (leAt (s.hdrOf 1) 8 4)
    let s := (s.showSlot 0 r0).showSlot 1 r1
    let (order, tie) := s.slotOrder fun n => if n = 0 then r0 == 0 else r1 == 0
    let s := if tie then s.bootEvent 0 else s
    match s.pickSlot order with
    | (s, none) =>
      match order with
      | n :: _ => .next (State.bootFail (s.setBoot { s.boot with chosenHash := hashWords (s.hdrOf n) }))
      | [] => .next s.bootFail
    | (s, some n) =>
      let s := s.setBoot { s.boot with slot := some n, chosenHash := hashWords (s.hdrOf n) }
      let s := ((s.setFld bootStatus 1 0 (2 + n)).setFld bootVer 15 0 (leAt (s.hdrOf n) 0xC 2)).saveProg
      let s := (s.loadMgmt.setBit (flsWp 0) 0 true).setBit (flsWp 1) 0 true
      let s := (s.startBinnacleCore 8).startBinnacleCore 9
      .next (State.passStep { s with saf := { s.saf with wdogRun := true } })

/-- MEM_TRCTL from the progress record (R250). -/
def State.setTrctl (s : State) : State :=
  let pick := fun f : Nat → Bool => sumN ((allChans.filter fun c => f (s.gcnt c)).map fun c => 2 ^ c.val)
  State.setExcl (s.setFld memTrctl 15 8 (pick fun n => n == 1)) (pick fun n => decide (2 ≤ n))
/-- CDPWR: the compute die is powered and its reset released, which takes the 48 V input (R522). -/
def execBootCdpwr (ok : Bool) (s : State) : Out :=
  if !s.inStep 4 then .next s
  else if !ok || s.clk.mainLost then .next s.bootFail
  else .next s.cdStart.setTrctl.passStep

/-- The staged segments are copied to the staging area from `src`; whether every digest holds. -/
def State.stageFrom (s : State) (gs : List (Seg × Nat)) (src : Seg × Nat → Nat) : State × Bool :=
  let s' := s.each gs fun (s : State) (x : Seg × Nat) => s.store (stageBase + x.2) (s.bytes (src x) x.1.size)
  (s', gs.all fun x => digestOk (s'.bytes (stageBase + x.2) x.1.size) x.1)
/-- The staged segments are placed, and the compute-die tables that the management core's block names are loaded from its copy. -/
def State.placeAll (s : State) (gs : List (Seg × Nat)) : State :=
  (s.each gs fun (s : State) (x : Seg × Nat) => s.placeStaged x.1 (stageBase + x.2)).loadTables s.boot.ucode
/-- The bytes of the staged segments (R409: the retained copy holds them in the order of the staging area). -/
def stagedLen (gs : List (Seg × Nat)) : Nat := sumN (gs.map fun x => x.1.size)
/-- The retained copy is read into the staging area: a read of it that gets an error response fails as a digest does (log entry 117). -/
def State.stageRetained (s : State) (gs : List (Seg × Nat)) (met : Met) : State × Bool :=
  let (s, readOk) := s.longRead retainBase (stagedLen gs) met
  let (s, ok) := s.stageFrom gs fun x => retainBase + x.2
  (s, readOk && ok)
/-- STAGE (R400, R411): from the retained copy after a warm restart with GDDR6 retained, else from the boot memory. Training of a
cold GDDR6 starts after it. -/
def execBootStage (met : Met) (s : State) : Out :=
  match s.inStep 5, s.boot.slot with
  | true, some n =>
    let gs := s.staged n
    let warm := s.boot.warm && s.gmem.retained
    if warm && (!s.memReady || s.anyRetrain) then .next s
    else
      let (w, okW) := if warm then s.stageRetained gs met else (s, false)
      if okW then .next (w.placeAll gs).passStep
      else
        let s := if warm then w.bootEvent 3 else s
        let (s, ok) := s.stageFrom gs fun x => s.slotOfs n + x.1.ofs
        if ok then
          let s := s.placeAll gs
          .next (State.passStep (if s.gmem.retained then s else s.startTraining))
        else .next s.bootFail
  | _, _ => .next s

/-- The loader writes to GDDR6, burst by burst from the first boundary on (R243, R251, R252). -/
def State.loadTo (s : State) (a : Nat) (bs : List Byte) (met : Met) : State :=
  let n := 64 - a % 64
  (((s.unitPut a (bs.take n)).unitPuts (a + n) (bs.drop n))).meetWrites a (a + bs.length) met
/-- GDDR6: passes when every channel in use is READY; fails when training has ended without (R250). Then kind 7 segments are placed
and the retained copy is written (R409), and CLEXCL is handed to the array (R405). -/
def execBootGddr6 (met : Met) (s : State) : Out :=
  match s.inStep 6, s.boot.slot with
  | true, some n =>
    if s.bit memStatus 31 then
      if s.anyRetrain then .next s
      else
        let gs := s.staged n
        let s := s.each gs fun (s : State) (x : Seg × Nat) =>
          if x.1.kind = 7 then s.loadTo x.1.dest (s.bytes (stageBase + x.2) x.1.size) met else s
        let s := s.loadTo retainBase (s.bytes stageBase (stagedLen gs)) met
        .next (State.passStep (s.wr srchClexcl (s.fld bootDeg 31 16)))
    else if s.gmem.training || s.gmem.retraining.toList.any (· == true) || s.gmem.selfRefresh then .next s
    else .next s.bootFail
  | _, _ => .next s

def execBootSelftest (s : State) : Out :=
  if s.inStep 7 && s.rot.powerupDone then .next (if s.fld srchClavail 15 0 = 0 then s.bootFail else s.passStep) else .next s

/-- CHAIN, judged when it passes or its 50 ms are over (R319). -/
def execBootChain (s : State) : Out :=
  if !s.inStep 8 then .next s
  else
    let portOk := fun p => !s.portLock p 6 || s.portState p == 3
    let noPilot := !s.portLock .up 6 && !s.portLock .dn 6
    if noPilot || s.bit chnPilot 1 || s.hasAddr && portOk .up && portOk .dn then .next s.passStep else .next s.bootFail

/-- CHART: passes with an active chart or under CHARTLESS, fails with VERFAIL, else waits. -/
def execBootChart (s : State) : Out :=
  if !s.inStep 9 then .next s
  else if s.actBuf.isSome || s.bit bootStatus 28 then .next s.passStep
  else if s.bit chrtStatus 0 then .next s.bootFail
  else .next s
def State.chartSkip (s : State) : State := if s.inStep 9 then s.passStep else s
def execChartskip (s : State) : Out := .next s.chartSkip
def State.chartFailed (s : State) : State := if s.inStep 9 then s.bootFail else s
def execChartfail (s : State) : Out := .next s.chartFailed
def execBootTimeout (s : State) : Out := if s.boot.active && s.clk.power != .off then .next s.bootFail else .next s
def execBootRetry (s : State) : Out := if s.boot.retry && s.clk.power != .off then .next s.bootFrom2 else .next s

/-- DONE in step 10: the record of failures is cleared, slot and hash are recorded (R407). -/
def State.bootDone (s : State) : State :=
  if s.inStep 10 then
    let s := ((s.setFld bootStatus 29 27 0).setFld bootStatus 19 16 0).wr bootProg 0
    let k := s.fld bootStatus 0 0
    State.saveProg (s.setBoot { s.boot with active := false, lastSlot := k, lastHash := s.boot.chosenHash })
  else s
def execDone (s : State) : Out := .next s.bootDone

/-! ## Warm restart (R411) -/

/-- MPT_CMD.CDRST with RSTEN at 1, once step 10 has started. -/
def State.cdrst (s : State) : State := if s.bit mptCtrl 1 && s.boot.step == 10 && s.clk.cdUp then s.restartDue else s
def execCdrst (s : State) : Out := .next s.cdrst
/-- A restart that is due resets the compute die alone and restages it from step 5 on, which takes the 48 V input (R522) and does not happen in
Recovery (R408). `ok`: the sequence of R259 entered self-refresh on every channel in use in time. -/
def execWarmRestart (ok : Bool) (s : State) : Out :=
  if !s.clk.cdRstReq || s.boot.slot.isNone || s.clk.mainLost || s.clk.power = .off || s.clk.power = .recovery then .next s
  else
    let s := if s.gmem.selfRefresh || !s.clk.cdUp then s else s.enterSelfRefresh (ok && s.bit memStatus 31)
    let s := State.leaveRun (s.setClk { s.clk with cdRstReq := false, power := .starting })
    let s := s.cdStart.setTrctl
    let s := (s.setBit bootStatus 30 true).setBoot { s.boot with warm := true }
    .next (s.startStep 5)

/-! ## Operations of BOOT_CMD (R403, R413) -/

/-- The compute die is powered down and a boot starts at step 2. -/
def State.reboot (s : State) : State :=
  State.bootFrom2 (State.cdOff (State.leaveRun (s.setClk { s.clk with power := .starting })))
def execReboot (s : State) : Out := if s.clk.power = .off then .next s else .next (s.cmdEnd 0).reboot

/-- No slot counts as booted in Recovery. -/
def State.bootedSlot (s : State) : Option (Fin 2) := if s.bit bootStatus 31 then none else s.boot.slot
/-- The refusal code of an ERASE or PROGRAM of n bytes, aligned to n. -/
def State.opRefusal (s : State) (slot : Fin 2) (n : Nat) : Option Nat :=
  let o := s.rd bootUpofs
  if s.bit bootCtrl 31 then some 1
  else if s.bootedSlot = some slot then some 2
  else if s.boot.op.isSome then some 7
  else if o % n ≠ 0 ∨ s.slotSize < o + n then some 3
  else none
def State.bootOp (s : State) (op n : Nat) (slot : Fin 2) (data : List Byte) : State :=
  match s.opRefusal slot n with
  | some c => s.cmdEnd c
  | none => (s.setBit bootCmdst 31 true).setBoot
    { s.boot with op := some (op, s.slotOfs slot + s.rd bootUpofs, data), sent := s.opCodes op }
def State.bootBuf (s : State) : List Byte := (List.range 64).flatMap fun w => toLE 4 (s.rd (bootBufw w))
def execBootErase (slot : Fin 2) (s : State) : Out := .next (s.powered (s.bootOp 2 s.eraseUnit slot []))
def execBootProgram (slot : Fin 2) (s : State) : Out := .next (s.powered (s.bootOp 3 256 slot s.bootBuf))

/-- The running operation ends; after a time-out the bytes it was to change are open. Programming can only clear bits (log entry 35). -/
def execBootOperationDone (timedOut : Bool) (s : State) : Out :=
  match s.boot.op with
  | none => .next s
  | some (op, a, data) =>
    let n := if op = 2 then s.eraseUnit else 256
    let s := s.setBoot { s.boot with op := none }
    if timedOut then
      let (bs, s) := s.freeBytes n
      .next ((s.setBytes a bs).cmdEnd 4)
    else if op = 2 then .next ((s.dropMem a (a + n)).cmdEnd 0)
    else .next ((s.setBytes a ((data.zip (s.bytes a n)).map fun x => x.1 &&& x.2)).cmdEnd 0)

/-- RAISE (R403): the signed block in BOOT_BUF raises MINVER by a swap of the boot block. -/
def State.raiseMin (s : State) : State :=
  let b := s.bootBuf
  let m := leAt b 4 2
  if s.bit bootCtrl 31 then s.cmdEnd 1
  else if s.boot.op.isSome then s.cmdEnd 7
  else if leAt b 0 4 ≠ 0x4D560001 ∨ leAt b 8 8 ≠ 0 ∨ !s.sigOk (b.take 16) (b.drop 16) then s.cmdEnd 5
  else if m ≤ s.fld bootVer 31 16 ∨ s.fld bootVer 15 0 < m then s.cmdEnd 6
  else match s.bbSwap m with
    | some s => s.cmdEnd 0
    | none => s.cmdEnd 6
def execRaise (s : State) : Out := .next (s.powered s.raiseMin)
def State.clrdeg (s : State) : State := ((s.wr bootDeg 0).saveProg).cmdEnd 0
def execClrdeg (s : State) : Out := .next (s.powered s.clrdeg)
def State.bootRead (s : State) (slot : Fin 2) : State :=
  let o := s.rd bootUpofs
  if s.boot.op.isSome then s.cmdEnd 7
  else if s.slotSize < o + 256 then s.cmdEnd 3
  else
    let a := s.slotOfs slot + o
    State.cmdEnd (s.each (List.range 64) fun (s : State) w => s.wr (bootBufw w) (s.word (a + 4 * w))) 0
def execBootRead (slot : Fin 2) (s : State) : Out := .next (s.powered (s.bootRead slot))
/-- A write of BOOT_CMD: OP and SLOT. Other OP values have no effect. -/
def State.bootCommand (s : State) (v : Nat) : State :=
  let slot := toFin 2 (bits v 8 8)
  s.powered <| match v % 16 with
  | 1 => (s.cmdEnd 0).reboot
  | 2 => s.bootOp 2 s.eraseUnit slot []
  | 3 => s.bootOp 3 256 slot s.bootBuf
  | 4 => s.raiseMin
  | 5 => s.clrdeg
  | 6 => s.bootRead slot
  | _ => s

/-! ## The Binnacle reset (R447) -/

/-- The Binnacle reset is released: the reference is chosen and a cold boot starts (R404, R447). -/
def State.binnacleReset (s : State) (refToggling : Bool) : State :=
  let int := s.clk.refSel || s.bit clkCtrl 0 || !refToggling
  s.binnacleFresh.setBit clkStatus 31 int
def execBinnacleReset (refToggling : Bool) (s : State) : Out := .next (s.binnacleReset refToggling)

end Sys2Proof.Machine
end

