-- ==== Sys2Proof/Machine/Events.lean ====
section
/-!
DEFINITION. The event matrix: tasks (R475), delivery and merging (R477, R478), the storm detector (R479), output lines (R480),
producers and subscriptions (R473, R474), event inputs (R477), and the events that cross the die-to-die bridge.
-/
namespace Sys2Proof.Machine

/-! ## Tasks (R475) -/

/-- EN of general timer n is set or cleared; setting it starts the interval of MODE 1 (R59). -/
def State.timerEn (s : State) (n : Fin 4) (en : Bool) : State :=
  let s := if en && !s.bit (perTmrCtrl n) 0 then { s with per := { s.per with tmrCur := s.per.tmrCur.set n (s.rd (perTmrCmp n)) } } else s
  s.setBit (perTmrCtrl n) 0 en

/-- The pins of event output line i keep the level it has driven them to, where they have a keeper (R466). -/
def State.keepLine (s : State) (i : Nat) : State := s.keepDriven fun n => s.pinFunc n == 4 && n % 32 == i
/-- Event output line i acts as its MODE sets (R480). -/
def State.outTask (s : State) (i : Nat) : State :=
  let s := s.keepLine i
  let m := s.fld (evtOutcfg i) 9 8
  let v := if m = 0 then true else if m = 1 then !s.pins.lines.testBit i else m == 2
  let p := if m = 0 then putBits s.pins.pulses i i 1 else s.pins.pulses
  { s with pins := { s.pins with lines := putBits s.pins.lines i i (b2n v), pulses := p } }

/-- The action of task k, the same as the register write it names; a gated target drops it (R14, R482). -/
def State.task (s : State) (k : Nat) : State :=
  let p := toFin 4 (k % 4)
  if k < 12 then
    if !s.live .srch then s else if k < 4 then s.launchReq p else if k < 8 then s.fixReadyReq p else s.closeReq p
  else if k = 12 then s.capTrig 1
  else if k = 13 then (if s.live .cap then s.capFreeze else s)
  else if k < 16 then s
  else if k < 24 then (if s.live .per then s.timerEn p (decide (k < 20)) else s)
  else if k < 30 then s.serGo (toFin 6 (k - 24))
  else if k < 32 then s
  else if k < 64 then s.outTask (k - 32)
  else if k < 128 then s.plotEvent (toFin 64 (k - 64))
  else if k < 256 then s.raiseLine (toFin 10 ((k - 128) / 16)) ((k - 128) % 16)
  else if k < 272 then s.toBridge (k - 256)
  else s.fire (0xA0 + (k - 272))

/-! ## Subscriptions and producers (R473, R474, R481) -/

/-- The channels that a TSUB word subscribes to, one per enabled slot. -/
def subSlots (w : Nat) : List Nat :=
  (if w.testBit 7 then [bits w 4 0] else []) ++ (if w.testBit 15 then [bits w 12 8] else [])
/-- The tasks with a subscription, in ascending order, with their channels. -/
def State.subs (s : State) : List (Nat × List Nat) := (s.listed (evtTsub 0) 4 280).map fun r => (r.1, subSlots r.2)
/-- NCONS: the subscribed slots of channel c. -/
def State.ncons (s : State) (c : Nat) : Nat := sumN (s.subs.map fun r => r.2.count c)

def State.evtErr (s : State) : State := s.setBit evtStatus 0 true
def tsubMask : Nat := 0x9F9F
def State.subscribe (s : State) (k : Nat) (v : Nat) : State :=
  if !s.live .evt || s.bit evtCtrl 31 then s
  else
    let old := subSlots (s.rd (evtTsub k))
    let new := subSlots (v &&& tsubMask)
    let tooMany := fun c : Nat =>
      let n := s.ncons c - old.count c + new.count c
      decide (s.ncons c < n) && decide ((if s.bit (evtChcfg c) 30 then 1 else 8) < n)
    if new.any tooMany then s.evtErr else s.wr (evtTsub k) (v &&& tsubMask)
def execSubscriptionWrite (k : Fin 280) (v : Word) (s : State) : Out := .next (s.subscribe k v.toNat)

/-- A write of EVT_CHCFGc: SOLO 1 with more than one subscribed slot is discarded (R473). -/
def State.chanConfig (s : State) (c : Nat) (v : Nat) : State :=
  if !s.live .evt || s.bit evtCtrl 31 then s
  else if v.testBit 30 && decide (1 < s.ncons c) then s.evtErr
  else s.wr (evtChcfg c) (v &&& 0xC0000000)

/-- The producer codes of R474, and 0 for none. -/
def producerCode (x : Nat) : Bool :=
  decide (x ≤ 0x06 ∨ 0x08 ≤ x ∧ x ≤ 0x0D ∨ 0x10 ≤ x ∧ x ≤ 0x1C ∨ 0x20 ≤ x ∧ x ≤ 0x2C ∨ 0x30 ≤ x ∧ x ≤ 0x35 ∨
    0x40 ≤ x ∧ x ≤ 0xA7)
def State.setProducers (s : State) (c : Nat) (v : Nat) : State :=
  if !s.live .evt || s.bit evtCtrl 31 then s
  else if [bits v 7 0, bits v 15 8, bits v 23 16, bits v 31 24].all producerCode then s.wr (evtChprod c) v
  else s.evtErr
def execProducerWrite (c : Fin 32) (v : Word) (s : State) : Out := .next (s.setProducers c v.toNat)

/-! ## Delivery (R477 to R479) -/

/-- 1 µs of the pace in force in fc (R479). -/
def stormSpan (pace : Fin 3) : Nat := if pace = 0 then 1500 else if pace = 1 then 1100 else 700
def State.setPins (s : State) (p : Pins) : State := { s with pins := p }

/-- Task k receives n events of channel c in one cycle. It acts once; the rest count in EVT_TMRG (R478). `others` are the further
channels whose events of this cycle reach it. -/
def State.deliver (s : State) (c n : Nat) (others : List Nat) (k : Nat) (chs : List Nat) : State :=
  if !chs.contains c then s
  else
    let already := s.pins.served.contains (k, c)
    let extra := n * chs.count c - (if already then 0 else 1)
    let s := s.count (evtTmrg k) 15 0 extra
    if already then s
    else
      let also := (others.filter fun d => chs.contains d).map fun d => (k, d)
      let s := s.setPins { s.pins with served := s.pins.served ++ also }
      if s.pins.wrote.contains k then s else State.task s k

/-- After a carry: once no enabled channel has an event left in this cycle, the events of the tasks' actions are next. -/
def State.nextCycle (s : State) : State :=
  if (List.finRange 32).any fun c => s.chanOn c && decide (0 < s.pins.evts[c]) then s
  else s.setPins { s.pins with evts := s.pins.late, late := Vector.replicate 32 0, served := [] }

/-- Channel c carries its events, `dt` fc after the last it carried. -/
def State.carry (s : State) (c : Fin 32) (dt : Nat) : State :=
  let n := s.pins.evts[c]
  let s := s.setPins { s.pins with evts := s.pins.evts.set c 0 }
  if !s.chanOn c then s
  else
    let ages := (s.pins.storm[c].map fun a => a + dt).filter fun a => decide (a < stormSpan s.per.pace)
    if 64 ≤ ages.length then s.setBit evtStorm c true
    else
      let held := s.pins.evts
      let others := ((List.finRange 32).filter fun d : Fin 32 => s.chanOn d && decide (0 < held[d])).map Fin.val
      let s := s.setPins { s.pins with storm := s.pins.storm.set c (0 :: ages), evts := Vector.replicate 32 0 }
      let s := s.subs.foldl (fun (s : State) (r : Nat × List Nat) => s.deliver c n others r.1 r.2) s
      let late := Vector.ofFn fun d : Fin 32 => s.pins.late[d] + s.pins.evts[d]
      s.setPins { s.pins with evts := held, late, served := s.pins.served.filter fun x => x.2 != c.val }
/-- `now` is the fabric cycle of the period; `sameCycle` says that the latest register writes that did a task's action fell in this cycle: an action
both do is done once (R476). -/
def execEventChannel (c : Fin 32) (dt now : Nat) (sameCycle : Bool) (s : State) : Out :=
  let s := s.tellNow now
  let s := if sameCycle then s else s.setPins { s.pins with wrote := [] }
  if s.live .evt && decide (0 < s.pins.evts[c]) then .next (s.carry c dt).nextCycle else .next s

def execEventOutputPulseEnd (i : Fin 32) (s : State) : Out :=
  if s.live .evt && s.pins.pulses.testBit i then
    let s := s.keepLine i
    .next (s.setPins { s.pins with lines := putBits s.pins.lines i i 0, pulses := putBits s.pins.pulses i i 0 })
  else .next s

/-! ## Producers -/

/-- A pad edge from outside (R477). It fires the event input line of a pin of FUNC 3 whose EDGE it matches after INV, unless the line
is in conflict or the pin sleeps with a driven level (R471, R472). -/
def execEventInputEdge (n : Fin 96) (rising : Bool) (s : State) : Out :=
  let isEdge := !(s.pins.extOn.testBit n && s.pins.ext.testBit n == rising)
  let s := s.setPins { s.pins with ext := putBits s.pins.ext n n (b2n rising), extOn := putBits s.pins.extOn n n 1 }
  let cfg := s.rd (pinCfg n)
  let up := rising != cfg.testBit 23
  let e := bits cfg 25 24
  let hit := if e = 0 then up else if e = 1 then !up else e == 2
  if isEdge && hit && s.clk.cdUp && s.pinFunc n == 3 && (s.pinDrive n fun _ => 0).isNone && s.inputPin (3, n % 32) == some n.val then
    .next (s.fire (0x40 + n % 32))
  else .next s

def execBridgeEvent (code : Byte) (s : State) : Out :=
  let c := code.toNat
  if s.pins.bridge.contains c then
    let s := s.setPins { s.pins with bridge := s.pins.bridge.erase c }
    .next (if c < 16 then s.raiseLine 8 c else s.fire c)
  else .next s

def State.swEvents (s : State) (mask : Nat) : State := (s.did ((setBitsOf mask 8).map (272 + ·))).each (setBitsOf mask 8) fun (s : State) j => s.fire (0xA0 + j)
def execSoftwareEvent (mask : Byte) (s : State) : Out := .next (s.swEvents mask.toNat)

/-- Writing 1 to a bit of EVT_STORM re-enables its channel (R479); the events it carried in the last 1 µs still count. -/
def State.stormClear (s : State) (mask : Nat) : State :=
  if s.live .evt then s.clrReg evtStorm mask else s
def execStormReenable (mask : Word) (s : State) : Out := .next (s.stormClear mask.toNat)

end Sys2Proof.Machine
end

