-- ==== Sys2Proof/Machine/Period.lean ====
section
/-!
DEFINITION. The period scheduler: marks and their sources (R30 to R35, R309, R311), what every unit does at a mark, the five
deadlines (R36, R37, R45 to R52, R58), the general timers, and the writes of the PER page (R59).
-/
namespace Sys2Proof.Machine

def State.setPer (s : State) (p : Per) : State := { s with per := p }

/-! ## Carrying a problem over a mark (R39, R40, R80 to R82) -/

/-- The observed state and the levels applied since, seen from the next mark: a state observed in the period is its base. -/
def Problem.history (q : Problem) (u : Leg) : Option (List Int) × List Leg :=
  match q.fixObs with
  | some x => (some x, [u])
  | none => if 3 ≤ q.since.length then (none, []) else (q.obs, q.since ++ [u])
/-- A slot at a mark: what lasts from period to period, and the table as the mark sees it. -/
def State.carryOver (s : State) (p : Slot) : Problem :=
  let q := s.prob p
  let t := slotTable s p
  let (obs, since) := q.history (if q.u.isEmpty then s.levelsNow q.tbl false else q.u)
  let prev := if q.decided && !q.missed then q.inc.map fun i => (q.tbl.h, q.tbl.nu, i.course) else none
  { tbl := t, wasEnabled := q.wasEnabled && t.enable, lastFmt := q.lastFmt, obs, since, prev, enabled := t.enable }
/-- The clusters of the period that ends are free (R89). -/
def State.freeClusters (s : State) : State :=
  s.each allCls fun (s : State) c => if (s.cl c).owner.isSome then s.setCl c { (s.cl c).cleared with owner := none } else s
/-- A slot's live registers at the mark. -/
def State.freshStat (s : State) (p : Slot) : State := (((s.wr (srchPstat p) 0).wr (srchPincl p) 0).wr (srchPinch p) 0).setPhase p 0
/-- The launch at the mark (R38), or RAFB when dead reckoning does not reach (R40); before the power-up
test has ended nothing is launched (R126). -/
def State.launchAtMark (s : State) (p : Slot) : State :=
  let q := s.prob p
  if !q.enabled || !q.tbl.runahead || !s.live .srch then s
  else if q.wasEnabled && q.tbl.fmt == q.lastFmt && q.obs.isSome then (if s.rot.powerupDone then s.startLatch p true 0 else s)
  else s.setBit (srchPstat p) 3 true

/-! ## The commit deadline (R52, R55, R58) -/

/-- A miss notice (R274). -/
def State.missNotice (s : State) (p : Slot) : State :=
  s.notice (toLE 1 3 ++ toLE 1 p ++ toLE 4 (s.rd perCount) ++ toLE 1 (s.prob p).reason)
/-- The commit deadline for one problem: selection late, or never launched; then its miss notice. -/
def State.commitDeadlineOf (s : State) (p : Slot) : State :=
  let q := s.prob p
  let s := if q.enabled && !q.reported && !q.missed then s.miss p (if !q.launched then 0 else if q.code ≠ 0 then 1 else 5) else s
  if (s.prob p).enabled && (s.prob p).missed then s.missNotice p else s
/-- Everything that ends at the commit deadline. -/
def State.commitEnd (s : State) : State :=
  let s := s.each allSlots State.commitDeadlineOf
  let s := s.setPer { s.per with commitPassed := true }
  (s.linkCommitDeadline.capSnapshot).hbSend

/-! ## Lengths and deadline sets (R32, R34, R36, R37) -/

/-- The deadline fields as the registers show them: FIXDL, PROVT, SRCHDL, CHKDL, COMMITDL. -/
def State.dlRegs (s : State) : Vector Nat 5 :=
  #v[s.fld (perDl 0) 9 0, s.fld (perDl 0) 25 16, s.fld (perDl 1) 9 0, s.fld (perDl 1) 25 16, s.fld (perDl 2) 9 0]
/-- R37 for a set at a length. -/
def dlSetOk (d : Vector Nat 5) (len : Nat) : Bool :=
  decide (0 < d[0] ∧ d[0] ≤ d[1] ∧ d[1] < d[2] ∧ d[2] < d[3] ∧ d[3] < d[4] ∧ d[4] ≤ 990 ∧
          d[0] * len / 1000 + 64 ≤ d[2] * len / 1000)
/-- PER_DL0 to PER_DL2 read a set. -/
def State.showDl (s : State) (d : Vector Nat 5) : State :=
  ((s.wr (perDl 0) (d[0] + 65536 * d[1])).wr (perDl 1) (d[2] + 65536 * d[3])).wr (perDl 2) d[4]
/-- Lengths and deadlines written before take effect at a mark. R37 is checked on what is about to take effect: a set written since the
last mark, or the set in force at a new length; a set that fails is discarded, and that in force stays. -/
def State.takeSettings (s : State) : State :=
  let lens : Vector Nat 3 := #v[s.fld (perLen 0) 20 0, s.fld (perLen 1) 20 0, s.fld (perLen 2) 20 0]
  let len := lens[s.per.pace]
  let due := s.per.dlNew || len != s.per.len
  let s := s.setPer { s.per with lens, len, dlNew := false }
  let d := s.dlRegs
  if !due then s
  else if dlSetOk d len then s.setPer { s.per with dls := d }
  else (s.setBit perStatus 0 true).showDl s.per.dls

/-! ## Marks -/

/-- Length of a period in whole ns (R274). -/
def lenNs (pace : Fin 3) (len : Nat) : Nat := if pace = 0 then len * 2 / 3 else if pace = 1 then len * 10 / 11 else len * 10 / 7
/-- The mark notice (R274). -/
def State.markNotice (s : State) : State :=
  let mask := sumN (allSlots.map fun p => 2 ^ p.val * b2n (s.prob p).enabled)
  s.notice (toLE 1 1 ++ toLE 4 (s.rd perCount) ++ toLE 4 (lenNs s.per.pace s.per.len) ++ toLE 1 mask)
/-- What the units do at the mark, once the new period's settings are in force. -/
def State.markUnits (s : State) (carried : List (Slot × Problem)) : State :=
  let s := if s.live .srch then s.rotMark else s
  let s := (s.islandExcl s.rot.excl).releaseAtMark
  let s := s.freeClusters
  let s := s.each carried fun (s : State) x => (s.setProb x.1 x.2).freshStat x.1
  let s := s.chartMark.each allSlots State.launchAtMark
  let s := if s.live .cell then s.linkMark else s
  let s := (s.chainAtMark).plotMark
  s.setSaf { s.saf with yPrev := s.saf.yMark, yMark := Vector.replicate 4 none }
/-- A period mark with its count: the period that ends is finished, settings take effect, and every unit sees the mark. -/
def State.mark (s : State) (count : Nat) : State :=
  let s := if s.per.running && !s.per.commitPassed then s.commitEnd else s
  let carried := allSlots.map fun p => (p, s.carryOver p)
  let s := State.capMark (if s.live .cell then s.cellMark else s.cellAge)
  let s := (s.powerMark).wr perCount count
  let s := s.setPer { s.per with running := true, stopPending := false, firstPending := false, chainSrc := s.bit perCtrl 1, now := 0,
                                 fixPassed := false, provPassed := false, srchPassed := false, chkPassed := false, commitPassed := false }
  ((s.takeSettings.markUnits carried).fire 0x01).markNotice
/-- A period whose stop was asked ends without a mark (R59). -/
def State.periodStop (s : State) : State :=
  let s := if s.per.running && !s.per.commitPassed then s.commitEnd else s
  s.setPer { s.per with running := false, stopPending := false }

/-- Marks are raised by the local count, or follow the chain (R35, R309). -/
def State.perActs (s : State) : Bool := s.live .per && (s.per.running || s.per.firstPending)
/-- The count at a local mark: 0 at the first mark after EN, one more at each later mark. -/
def State.nextCount (s : State) : Nat := if s.per.firstPending then 0 else s.rd perCount + 1

/-- The local count ends the period (R32), or 16 fc have passed since EN (R59). -/
def execPeriodMark (s : State) : Out :=
  if s.perActs && !s.per.chainSrc then .next (if s.per.stopPending then s.periodStop else s.mark s.nextCount) else .next s
/-- A chain mark (R309, R58): the count that R310 forms. -/
def execChainMark (now : Nat) (s : State) : Out :=
  if s.perActs && s.per.chainSrc && s.live .chn then
    match s.chainCount now with
    | (some c, t) => .next (if s.per.stopPending then t.periodStop else t.mark c)
    | (none, t) => .next t
  else .next s
/-- The flywheel mark at L + FLY fc without a CMARK (R311). -/
def execFlywheelMark (s : State) : Out :=
  if s.perActs && s.per.running && s.per.chainSrc && s.chain.pendMark.isNone then
    if s.per.stopPending then .next s.periodStop
    else
      let n := s.nextCount
      let s := (s.count chnMkstat 23 16).setBit chnStatus 4 true
      .next ((State.mark (s.setChain { s.chain with flyMark := some (n % 2 ^ 32) }) n).fire 0x2B)
  else .next s

/-! ## Deadlines (R36) -/

/-- The fix deadline (R46, R218). While CELL is gated no uplink comes, and lanes are declared lost all the same (R464). -/
def State.fixDeadlineOf (s : State) (p : Slot) : State :=
  let q := s.prob p
  if q.launched && q.byMark && !q.fixRdy then (s.setProb p { q with drOnly := true }).setBit perStatus (8 + p) true else s
def execFixDeadline (s : State) : Out :=
  if s.live .per && s.per.running && !s.per.fixPassed then
    let s := s.setPer { s.per with fixPassed := true, now := Nat.max s.per.now (s.dlFc 0) }
    let s := s.each allSlots State.fixDeadlineOf
    .next ((if s.clk.cdUp && !s.inReset .cell then s.linkFixDeadline else s).fire 0x02)
  else .next s
/-- The provisional send time (R49); in the safe state, frames with STATE 2 for every cell of every enabled problem (R266). -/
def execProvisionalSend (s : State) : Out :=
  if s.live .per && s.per.running && s.per.fixPassed && !s.per.provPassed then
    let s := s.setPer { s.per with provPassed := true, now := Nat.max s.per.now (s.dlFc 1) }
    let s := if s.safe then
        (if s.live .cell && !s.cell.stopAll then s.each (allSlots.filter fun p => (s.prob p).enabled) State.blockFrames else s)
      else if s.live .srch then s.each allSlots State.provSendTime else s
    .next (s.fire 0x03)
  else .next s
/-- The search deadline (R47). -/
def execSearchDeadline (s : State) : Out :=
  if s.live .per && s.per.running && s.per.provPassed && !s.per.srchPassed then
    let s := s.setPer { s.per with srchPassed := true, now := Nat.max s.per.now (s.dlFc 2) }
    .next ((if s.live .srch then s.each allSlots State.searchDeadlineOf else s).fire 0x04)
  else .next s
/-- The check deadline (R50). -/
def execCheckDeadline (s : State) : Out :=
  if s.live .per && s.per.running && s.per.srchPassed && !s.per.chkPassed then
    let s := s.setPer { s.per with chkPassed := true, now := Nat.max s.per.now (s.dlFc 3) }
    .next ((if s.live .srch then s.each allSlots State.checkDeadlineOf else s).fire 0x05)
  else .next s
/-- The commit deadline (R52, R55, R58). -/
def execCommitDeadline (s : State) : Out :=
  if s.live .per && s.per.running && s.per.chkPassed && !s.per.commitPassed then
    let s := s.setPer { s.per with now := Nat.max s.per.now (s.dlFc 4) }
    .next (s.commitEnd.fire 0x06)
  else .next s

/-! ## General timers (R59) -/

/-- General timer n fires: in MODE 0 only when CMP is less than the period length, in MODE 1 unless the interval is 0; a new CMP is then
in force. -/
def execGeneralTimerFire (n : Fin 4) (s : State) : Out :=
  let cmp := s.rd (perTmrCmp n)
  if !s.live .per || !s.bit (perTmrCtrl n) 0 then .next s
  else if s.bit (perTmrCtrl n) 1 then
    if s.per.tmrCur[n] = 0 then .next s
    else .next (State.fire (s.setPer { s.per with tmrCur := s.per.tmrCur.set n cmp }) (0x08 + n))
  else if s.per.running ∧ cmp < s.per.len then .next (s.fire (0x08 + n))
  else .next s
/-- A write of PER_TMRn_CMP. -/
def State.timerCompare (s : State) (n : Fin 4) (v : Nat) : State :=
  let v := v % 2 ^ 24
  let old := s.rd (perTmrCmp n)
  let s := s.wr (perTmrCmp n) v
  if s.bit (perTmrCtrl n) 1 && s.bit (perTmrCtrl n) 0 && (v == 0 || old == 0) then
    s.setPer { s.per with tmrCur := s.per.tmrCur.set n v }
  else s
def execTimerCompareWrite (n : Fin 4) (v : Word) (s : State) : Out :=
  if s.live .per then .next (s.timerCompare n v.toNat) else .next s
/-- A write of PER_TMRn_CTRL. MODE set with EN at 1 takes CMP as the interval in force (DESIGN CHOICE, log entry 97). -/
def State.timerControl (s : State) (n : Fin 4) (v : Nat) : State :=
  let was := s.bit (perTmrCtrl n) 1
  let s := s.setBit (perTmrCtrl n) 1 (v.testBit 1)
  let s := s.timerEn n (v.testBit 0)
  if v.testBit 0 && v.testBit 1 && !was then s.setPer { s.per with tmrCur := s.per.tmrCur.set n (s.rd (perTmrCmp n)) } else s

/-! ## Writes of the PER page (R32, R34, R59) -/

/-- EN is set or cleared; cleared before the first mark, it cancels that mark (DESIGN CHOICE, log entry 97). -/
def State.marksOn (s : State) : State :=
  let s := s.setBit perCtrl 0 true
  if s.per.running then s.setPer { s.per with stopPending := false }
  else if s.per.firstPending then s
  else State.wr (s.setPer { s.per with firstPending := true, chainSrc := s.bit perCtrl 1 }) perCount 0
def State.marksOff (s : State) : State :=
  State.setBit (s.setPer { s.per with firstPending := false, stopPending := s.per.running }) perCtrl 0 false
def execMarksEnable (s : State) : Out := if s.live .per then .next s.marksOn else .next s
def execMarksDisable (s : State) : Out := if s.live .per then .next s.marksOff else .next s
/-- MARKSRC takes effect at the next mark; while no mark is due, at once (DEDUCED, log entry 36). -/
def State.markSource (s : State) (chain : Bool) : State :=
  let s := s.setBit perCtrl 1 chain
  if s.per.running then s else s.setPer { s.per with chainSrc := chain }
def execMarkSourceWrite (chain : Bool) (s : State) : Out := if s.live .per then .next (s.markSource chain) else .next s
def State.perLocked (s : State) : Bool := s.bit perCtrl 31
/-- Least and greatest length at a pace (R32). -/
def lenRange (pace : Fin 3) : Nat × Nat := if pace = 0 then (15000, 1500000) else if pace = 1 then (11000, 1100000) else (7000, 700000)
def State.periodLength (s : State) (pace : Fin 3) (v : Nat) : State :=
  let v := v % 2 ^ 21
  if s.perLocked then s
  else if (lenRange pace).1 ≤ v ∧ v ≤ (lenRange pace).2 then s.wr (perLen pace) v else s.setBit perStatus 0 true
def execPeriodLengthWrite (pace : Fin 3) (v : Word) (s : State) : Out :=
  if s.live .per then .next (s.periodLength pace v.toNat) else .next s
def State.deadlineReg (s : State) (r : Fin 3) (v : Nat) : State :=
  if s.perLocked then s
  else State.setPer (s.wr (perDl r) (v &&& (if r = 2 then 0x3FF else 0x03FF03FF))) { s.per with dlNew := true }
def execDeadlineWrite (reg : Fin 3) (v : Word) (s : State) : Out :=
  if s.live .per then .next (s.deadlineReg reg v.toNat) else .next s
/-- A write of PER_CTRL. -/
def State.perControl (s : State) (v : Nat) : State :=
  let s := s.markSource (v.testBit 1)
  let s := if v.testBit 0 then s.marksOn else s.marksOff
  if v.testBit 31 then s.setBit perCtrl 31 true else s

end Sys2Proof.Machine
end

