-- ==== Sys2Proof/Machine/Cores.lean ====
section
/-!
DEFINITION. What starts, stops and resets a Helm core, as far as it needs no access of its own: power, running and waiting (R368,
R369), the reset values (R370), double faults (R365), interrupt lines (R366), the decode tables (R389), and what the HLM page shows.
-/
namespace Sys2Proof.Machine

def computeCores : List CoreN := (List.finRange 10).filter fun n => decide (n.val < 8)
/-- The core is powered and clocked: a compute-die core in Run and in the states on its way there; a Binnacle core while the Binnacle
runs and is not Dormant (R460). -/
def State.coreOn (s : State) (n : CoreN) : Bool :=
  if n.val < 8 then s.clk.cdUp && decide (s.clk.power ≠ .idle) else decide (s.clk.power ≠ .off ∧ s.clk.power ≠ .dormant)
/-- WFI stops issue (R368). -/
def Core.waiting (k : Core) : Bool := k.wfi && k.due == 0
/-- The core stands at an instruction boundary and issues: it runs, no stop is due, no load and no WFI holds it. -/
def Core.atBoundary (k : Core) : Bool := k.running && !k.stopping && k.pend.isNone && !k.waiting
/-- An interrupt is to be taken at the boundary (R367). -/
def Core.interruptDue (k : Core) : Bool := k.inten && k.due != 0

/-- Bytes of a load kind: 0 word, 1 and 2 halfword signed and unsigned, 3 and 4 byte signed and unsigned. -/
def loadSize (kind : Nat) : Nat := if kind = 0 then 4 else if kind ≤ 2 then 2 else 1
/-- The core waits for as long as the manual leaves open (R343, R346, R347, R368): a free number of cycles (log entry 108). -/
def State.stallFree (s : State) (n : CoreN) : State :=
  let (w, s) := s.freeWord
  s.setCore n ((s.core n).tick w.toNat)

/-! ## Running and halting (R369) -/

/-- A halted core runs on; its cycle count has gone on while it was halted (R343). -/
def State.coreRun (s : State) (n : CoreN) : State :=
  let k := s.core n
  if k.stopping then s.setCore n { k with runAgain := true }
  else if k.running then s
  else State.stallFree (s.setCore n { k with running := true }) n
def State.coreHalt (s : State) (n : CoreN) : State :=
  let k := s.core n
  if k.running then s.setCore n { k with stopping := true } else s
/-- A core after its own reset: halted at its reset vector. Posted stores that are still outstanding complete, their replies are
discarded. -/
def State.freshCore (s : State) (n : CoreN) : Core :=
  let k := s.core n
  { stores := k.stores, orphan := k.stores.length, pc := if n.val < 8 then BitVec.ofNat 32 (s.fld (hlmRvec n) 15 2 * 4) else 0 }
/-- A core of the compute die halts on a double fault; the management core restarts; the pair is an island fault (R365). -/
def State.doubleFault (s : State) (n : CoreN) (cause epc : Word) : State :=
  if n.val < 8 then
    let s := s.setCore n { s.core n with running := false, stopping := false, runAgain := false }
    let s := ((s.setBit hlmFault n true).wr (hlmFcause n) cause.toNat).wr (hlmFepc n) epc.toNat
    s.fire (0x20 + n)
  else if n.val = 8 then
    let t := s.bootEvent 1
    t.setCore 8 { t.freshCore 8 with running := true }
  else State.islandFault (s.setCore 9 (Core.puts 9 { s.core 9 with running := false } .doubleFault))

/-! ## What the HLM page shows (R375) -/

def State.coreMask (s : State) (f : Core → Bool) : Nat := sumN (computeCores.map fun n => 2 ^ n.val * b2n (f (s.core n)))
def State.hlmRunning (s : State) : Nat := s.coreMask (·.running)
def State.hlmWaiting (s : State) : Nat := s.coreMask fun k => k.running && k.waiting

/-! ## Interrupt lines (R366) -/

/-- Line 17 is the doorbell line of the management core and is raised on no other core. -/
def State.raiseIrq (s : State) (n : CoreN) (l : Nat) : State :=
  if (n.val < 8 && !s.clk.cdUp) || (l == 17 && n.val != 8) then s else s.raiseLine n l
def execInterruptRaise (n : CoreN) (line : Fin 18) (s : State) : Out := .next (s.raiseIrq n line)
/-- CYCLEL meets TCMP: the core's clock has come to that cycle, and line 16 is raised (R343). -/
def execTcmpMatch (n : CoreN) (s : State) : Out :=
  let k := s.core n
  let d := (k.tcmp - k.cycle.setWidth 32).toNat
  if s.coreOn n then .next (s.setCore n (k.tick (if d = 0 then 2 ^ 32 else d))) else .next s
/-- The oldest MP write in flight lands at the end of its fourth cycle (R356): the core's clock is past it. -/
def execMpWriteLand (n : CoreN) (s : State) : Out :=
  let k := s.core n
  match k.flight with
  | x :: _ => if s.coreOn n then .next (s.setCore n (Core.landDue (k.tick (4 - k.age x)))) else .next s
  | [] => .next s

/-! ## Decode tables (R388, R389, R391) -/

/-- Offset o within core n's table block holds an entry or a half of a microword. -/
def tableOffset (o : Nat) : Bool := decide (o % 4 = 0 ∧ (o < 0x40 ∨ 0x400 ≤ o ∧ o < 0x1400))
/-- A write of a compute-die core's table: true when it gets an error response (WREF). -/
def State.tableWrite (s : State) (n : Nat) (o v : Nat) : Bool × State :=
  if s.bit hlmCtrl 31 || !tableOffset o then (false, s)
  else if (s.core (toFin 10 n)).running then (true, s.setBit hlmDtstat n true)
  else (false, s.wr (hlmDt n 0 + o) v)
def execDecodeTableWrite (n : Fin 8) (off : BitVec 13) (v : Word) (s : State) : Out :=
  if s.clk.cdUp then .next (s.tableWrite n off.toNat v.toNat).2 else .next s

/-- A write of HLM_RUN, HLM_HALT (R369). -/
def execCoreRun (n : Fin 8) (s : State) : Out := if s.clk.cdUp then .next (s.coreRun (toFin 10 n)) else .next s
def execCoreHalt (n : Fin 8) (s : State) : Out := if s.clk.cdUp then .next (s.coreHalt (toFin 10 n)) else .next s

end Sys2Proof.Machine
end

