-- ==== Sys2Proof/Machine/Port.lean ====
section
/-!
DEFINITION. The register file of the management port, on the port side and on the mirror side (R328, R337), and its doorbells.
-/
namespace Sys2Proof.Machine

/-- The PWRGD output is released: the Binnacle has left reset and recalled the record store; it is low otherwise, and in Off (R514). -/
def State.pwrgd (s : State) : Bool := decide (s.clk.power ≠ .off) && s.bit nvrStatus 31
/-- The port answers: the Binnacle runs and has recalled the record store (R324). -/
def State.portAnswers (s : State) : Bool := s.pwrgd
def State.mptFlag (s : State) (i : Nat) : State := s.setBit mptStatus i true

/-- SAF_STATUS as read: RELOK and the readback of SAFE0 to SAFE3 are live (R271, R290). -/
def State.safStat (s : State) : Nat := s.rd safStatus + 2 ^ 29 * b2n s.relOk + s.safeRead
/-- MPT_STATUS as read: DBOUT follows MPT_DBOUT. -/
def State.mptStat (s : State) : Nat := s.rd mptStatus + 64 * b2n (s.rd mptDbout != 0)
/-- A measured half word, low 16 bits: 0 until the first measurement, then free (log entry 104). -/
def State.measured (s : State) : Nat × State :=
  if s.clk.ms = 0 then (0, s)
  else
    let (w, s) := s.freeWord
    (w.toNat, s)
/-- A read of port register i, with its state after. MPT_TEMP.HI is the coldplate of the latest evaluation of the governor, the other
temperatures and voltages are free values; MPT_CMD and the reserved indices read 0 (R11, R329). -/
def State.mptRead (s : State) (i : Nat) : Nat × State :=
  match i with
  | 0x01 => (s.mptStat, s)
  | 0x07 => (s.fld pwrWakesrc 7 0 * 256 + 8 * b2n s.clk.cdUp + powerCode s.clk.power, s)
  | 0x08 => (s.rd bootStatus &&& 0x800F0F01, s)
  | 0x09 => (s.safStat, s)
  | 0x0A => (s.rd safCause, s)
  | 0x0B => (s.rd chnAddr, s)
  | 0x0C => let (v, s) := s.measured; (wrapN 16 s.clk.coldplate * 65536 + v % 65536, s)
  | 0x0D => s.measured
  | 0x0E => (16 * b2n (s.bit pwrStatus 27) + 4 * s.paceReq + s.per.pace.val, s)
  | 0x0F => (s.upTime, s)
  | 0x10 => (if s.clk.cdUp then s.rd perCount else s.rd mptPcount, s)
  | 0x11 => (0, s)
  | _ => (if i < 0x14 ∨ 0x20 ≤ i ∧ i < 0x62 then s.rd (mptReg i) else 0, s)

/-- Doorbells to firmware: the bits are set and the management core is interrupted on line 17 (R337, R366). -/
def State.ringIn (s : State) (bells : Nat) : State :=
  let s := s.orReg mptDbin bells
  if bells % 2 ^ 32 = 0 then s else s.raiseIrq 8 17
/-- MPT_CMD: CDRST and WAKE. -/
def State.mptCommand (s : State) (v : Nat) : State :=
  let s := if v.testBit 1 then s.cdrst else s
  if v.testBit 0 then s.portWake else s
/-- A write of port register i; `port` tells the side, which decides over mailboxes and doorbells. -/
def State.mptWrite (s : State) (port : Bool) (i v : Nat) : State :=
  if i = 0x01 then s.clrReg mptStatus (v &&& 0xBF)
  else if i = 0x02 then
    let s' := if s.bit mptCtrl 31 then s else s.wr mptCtrl (v &&& 0x303)
    if v.testBit 31 then s'.setBit mptCtrl 31 true else s'
  else if i = 0x03 then s.wr mptWadrl (v &&& 0xFFFFFFFC)
  else if i = 0x04 then s.wr mptWadrh (v % 256)
  else if i = 0x11 then s.mptCommand v
  else if i = 0x12 then s.wr mptScratch v
  else if 0x20 ≤ i ∧ i < 0x40 then (if port then s.wr (mptReg i) v else s)
  else if 0x40 ≤ i ∧ i < 0x60 then (if port then s else s.wr (mptReg i) v)
  else if i = 0x60 then (if port then s.ringIn v else s.clrReg mptDbin v)
  else if i = 0x61 then (if port then s.clrReg mptDbout v else s.orReg mptDbout v)
  else s

def execDoorbellIn (bells : Word) (s : State) : Out := if s.portAnswers then .next (s.ringIn bells.toNat) else .next s
def execDoorbellOut (bells : Word) (s : State) : Out :=
  if s.clk.power ≠ .off then .next (s.orReg mptDbout bells.toNat) else .next s

end Sys2Proof.Machine
end

