-- ==== Sys2Proof/Machine/Bus.lean ====
section
/-!
DEFINITION. Accesses: the address map (R23 to R29, R523), what a read and a write of each register page and memory region do for
each requester (R9 to R14), and the commands REGISTER_WRITE and REGISTER_READ_CLEAR.
-/
namespace Sys2Proof.Machine

/-! ## Pages -/

def pageBase (a : Nat) : Nat := a / 0x10000 * 0x10000
/-- The block of a page that a clock gate or a partial reset covers (R454, R455). -/
def pageBlk (b : Nat) : Option Blk :=
  if b = srchBase then some .srch else if b = chrtBase then some .chrt else if b = cellBase then some .cell
  else if b = capBase then some .cap else if b = chnBase then some .chn else if b = evtBase then some .evt
  else if b = pltBase then some .plt else if b = serBase then some .ser else if b = memBase then some .mem
  else if b = perBase then some .per else none
/-- The page's block is gated: its gate is closed, or closes and the access is new (R14, R454). -/
def State.pageGated (s : State) (b : Nat) (early : Bool := false) : Bool := match pageBlk b with
  | some k => s.gated k || (!early && decide (blkIdx k < 8) && s.bit clkGate (blkIdx k))
  | none => false
/-- How a request made now to address a stands to the gate of its block. -/
def State.gateOf (s : State) (a : Nat) : Gate := if s.pageGated (pageBase a) then .forced else .free
/-- An access to page b that stands to the gate as g tells is answered with zeros, or dropped (R454). -/
def State.gateBars (s : State) (b : Nat) (g : Gate) : Bool := decide (g = .forced) || s.pageGated b (g == .closing)
def State.pageReset (s : State) (b : Nat) : Bool := match pageBlk b with
  | some k => s.inReset k
  | none => false
/-- The address lies on the compute die: GDDR6, its memories, its pages (R23, R24). -/
def onCompute (a : Nat) : Bool := decide (a < 0x5000000000)
/-- Die and power let the access through (R27). -/
def State.dieOk (s : State) (a : Nat) : Bool := !onCompute a || s.clk.cdUp
def isPage (a : Nat) : Bool := (regPages.any fun p => p.1 == pageBase a) && decide (pageBase a ≠ mgmtDtBase)

/-! ## Registers: access codes (R13, R14) -/

/-- The register that holds the lock bit for address a (R13, R178). -/
def lockReg (a : Nat) : Nat :=
  let b := pageBase a
  if b = cellBase then (if a < cellBase + 0x1000 then cellCtrl else cellSelctrl) else if b = mptBase then mptCtrl else b
/-- A write by the access codes alone. Reserved bits and bits of no mask are ignored; the lock applies from the next access. -/
def State.genWrite (s : State) (a v : Nat) : State :=
  match regDesc a with
  | none => s
  | some (r, _) =>
    let m := r.rw ||| (if s.bit (lockReg a) 31 then 0 else r.rwl)
    let old := s.rd a
    s.wr a ((((old &&& (allBits ^^^ m)) ||| (v &&& m)) ||| (v &&& r.w1s)) &&& (allBits ^^^ (v &&& r.w1c)))
/-- A read by the access codes alone: RC fields are cleared. -/
def State.genRead (s : State) (a : Nat) : Nat × State :=
  match regDesc a with
  | none => (0, s)
  | some (r, _) => if r.rc = 0 then (s.rd a, s) else (s.rd a, s.clrReg a r.rc)

/-! ## Reads of registers -/

/-- MPIN_IN (R507): the level of an output pin is the one MPIN_OUT gives; the level that reaches an input pin is free. -/
def State.mpinIn (s : State) : Nat × State :=
  let (w, s) := s.freeWord
  (sumN ((List.range 10).map fun n => 2 ^ n * b2n (if s.fld (mpinPcfg n) 1 0 = 1 then s.bit mpinOut n else w.toNat.testBit n)), s)
/-- PLT registers that are live: RUN, HALT, CSTAT, TXQ, RXQ, SR, A, B (R505). -/
def State.pltRead (s : State) (o : Nat) : Nat × State :=
  if 0x10 ≤ o ∧ o < 0x50 then (if o % 16 = 0 then (s.plotRunning ((o - 0x10) / 16), s) else if o % 16 = 4 then (0, s) else s.genRead (pltBase + o))
  else if 0x100 ≤ o ∧ o < 0x900 then
    let k := toFin 64 ((o - 0x100) / 32)
    let q := s.plot k
    match (o - 0x100) % 32 with
    | 0x04 => (s.plotStat k, s)
    | 0x08 => (0, s)
    | 0x0C => let (w, s) := s.rxqPop k; (w.toNat, s)
    | 0x10 => (q.sr.toNat, s)
    | 0x14 => (q.a.toNat, s)
    | 0x18 => (q.b.toNat, s)
    | _ => s.genRead (pltBase + o)
  else s.genRead (pltBase + o)
def State.serRead (s : State) (o : Nat) : Nat × State :=
  if 0x100 ≤ o ∧ o < 0x1C0 then
    let i := toFin 6 ((o - 0x100) / 32)
    match (o - 0x100) % 32 with
    | 0x10 => let (w, s) := s.rxPop i; (w.toNat, s)
    | 0x14 => (s.rd (serStat i) + s.serLevels i, s)
    | _ => s.genRead (serBase + o)
  else s.genRead (serBase + o)
def State.hlmRead (s : State) (o : Nat) : Nat × State :=
  if o = 0x04 then (s.hlmRunning, s)
  else if o = 0x10 then (s.hlmWaiting * 256 + s.hlmRunning, s)
  else if 0x100 ≤ o ∧ o < 0x180 ∧ o % 16 = 4 then
    let k := s.core (toFin 10 ((o - 0x100) / 16))
    (if k.running then 0 else k.pc.toNat, s)
  else s.genRead (hlmBase + o)
/-- A read of the register at offset o of page b, past every test of the page. -/
def State.regRead (s : State) (b o : Nat) : Nat × State :=
  if b = perBase then (if o = 0x24 then (s.per.now, s) else s.genRead (b + o))
  else if b = chrtBase then (if o = 0x0C ∨ o = 0x10 then s.bufWord (b + o) else s.genRead (b + o))
  else if b = hlmBase then s.hlmRead o
  else if b = pinBase then (if 0x20 ≤ o ∧ o < 0x2C ∧ o % 4 = 0 then s.pinInWord ((o - 0x20) / 4) else s.genRead (b + o))
  else if b = evtBase then
    (if 0x100 ≤ o ∧ o < 0x200 ∧ o % 8 = 4 then (s.rd (b + o) + 65536 * s.ncons ((o - 0x100) / 8), s) else s.genRead (b + o))
  else if b = pltBase then s.pltRead o
  else if b = serBase then s.serRead o
  else if b = flsBase then (if o = 0x40 then (s.word (eraseCount (s.fld flsPesel 5 0)), s) else s.genRead (b + o))
  else if b = nvrBase then
    (if 0x40 ≤ o ∧ o < 0xC0 ∧ o % 16 = 4 then s.cntLo ((o - 0x40) / 16) else s.genRead (b + o))
  else if b = safBase then
    (if o = 0x04 then (s.safStat, s)
     else if o = 0x24 then s.clAge else s.genRead (b + o))
  else if b = mpinBase then (if o = 0x0C then s.mpinIn else s.genRead (b + o))
  else if b = mptBase then s.mptRead (o / 4)
  else s.genRead (b + o)

/-! ## Writes of registers -/

/-- The state after a command that goes on. -/
def after (s : State) : Out → State
  | .next t => t
  | _ => s
/-- Run f for each set bit of a mask below n. -/
def State.eachBit (s : State) (mask n : Nat) (f : State → Nat → State) : State := s.each (setBitsOf mask n) f

def State.perWrite (s : State) (o v : Nat) : State :=
  if o = 0 then s.perControl v
  else if 0x08 ≤ o ∧ o < 0x14 ∧ o % 4 = 0 then s.periodLength (toFin 3 ((o - 0x08) / 4)) v
  else if 0x14 ≤ o ∧ o < 0x20 ∧ o % 4 = 0 then s.deadlineReg (toFin 3 ((o - 0x14) / 4)) v
  else if 0x40 ≤ o ∧ o < 0x60 ∧ o % 4 = 0 then
    (if o % 8 = 0 then s.timerControl (toFin 4 ((o - 0x40) / 8)) v else s.timerCompare (toFin 4 ((o - 0x40) / 8)) v)
  else s.genWrite (perBase + o) v
/-- SRCH_CTRL, the request registers (R116), SRCH_STCFG with its least value 6 (R130). -/
def State.srchWrite (s : State) (o v : Nat) : State :=
  if o = 0 then
    let s := if s.bit srchCtrl 31 then s else s.setSten (v.testBit 0)
    if v.testBit 31 then s.setBit srchCtrl 31 true else s
  else if o = 0x08 then (s.did (setBitsOf v 4)).eachBit v 4 fun s p => s.launchReq (toFin 4 p)
  else if o = 0x0C then (s.did ((setBitsOf v 4).map (4 + ·))).eachBit v 4 fun s p => s.fixReadyReq (toFin 4 p)
  else if o = 0x10 then (s.did ((setBitsOf v 4).map (8 + ·))).eachBit v 4 fun s p => s.closeReq (toFin 4 p)
  else if o = 0x20 ∧ v % 65536 < 6 then s
  else s.genWrite (srchBase + o) v
/-- CHRT_CMD (R147). -/
def State.chartCommand (s : State) (v : Nat) : State :=
  let b := if v.testBit 8 then Buf.bufB else Buf.bufA
  after s (match v % 16 with
    | 1 => execBegin b s
    | 2 => execVerify b s
    | 3 => execActivate b s
    | 4 => execDeactivate s
    | 5 => execAbort b s
    | 6 => execBuild b [] s
    | _ => .next s)
/-- CELL_HCDL, CELL_UPOFS, lane enables, arm enables (a new enable starts its decay windows anew), CNTCLR. -/
def State.cellWrite (s : State) (o v : Nat) : State :=
  if o = 0x08 then s.hcdlSet false v
  else if o = 0x0C then s.hcdlSet true v
  else if 0x100 ≤ o ∧ o < 0x500 ∧ o % 16 = 0 then
    let l : LaneN := toFin 64 ((o - 0x100) / 16)
    let was := s.laneEn l
    let s := s.genWrite (cellBase + o) v
    if v.testBit 31 && !was then s.laneOn l else if !v.testBit 31 && was then s.laneOff l else s.dupHubs
  else if 0x1000 ≤ o ∧ o < 0x1800 ∧ o % 32 = 0 then
    let a := (ofsFrom 0x1000 o) / 32
    let was := s.bit (cellBase + o) 31
    let s := s.genWrite (cellBase + o) v
    if s.bit (cellBase + o) 31 && !was then { s with cell := { s.cell with win := s.cell.win.filter (·.1 != a) } } else s
  else if o = 0x1800 then
    let s := s.genWrite (cellBase + o) v
    if v.testBit 0 then { s with cell := { s.cell with clrPending := true } } else s
  else s.genWrite (cellBase + o) v
/-- CAP_CTRL.EN rising starts a new sequence of records (R225, R241); CAP_CMD. -/
def State.capWrite (s : State) (o v : Nat) : State :=
  if o = 0 then
    let was := s.bit capCtrl 0
    let s := s.genWrite capBase v
    if v.testBit 0 && !was then
      State.wr (s.setCap { s.cap with keyNext := true }) capReccnt 0
    else s
  else if o = 0x08 then
    let s := s.did ((setBitsOf v 2).map (12 + ·))
    let trig (s : State) : State := if v.testBit 0 then s.capTrig 0 else s
    let freeze (s : State) : State := if v.testBit 1 then s.capFreeze else s
    let s := if v.testBit 2 then trig (freeze s).capResume else freeze (trig s)
    if v.testBit 3 then s.capClear else s
  else s.genWrite (capBase + o) v
/-- MEM_TRCTL: EXCL, the training settings, START (R249, R250). MEM_CFG: a SCRUBH outside 1 to 168 is discarded (R263). -/
def State.memWrite (s : State) (o v : Nat) : State :=
  if o = 0x08 then
    let s := if s.bit memCtrl 31 then s else s.setFld memTrctl 15 8 (bits v 15 8)
    let s := s.setExcl (bits v 23 16)
    if v.testBit 0 then s.startTraining else s
  else if o = 0x0C ∧ !s.bit memCtrl 31 ∧ (bits v 23 8 = 0 ∨ 168 < bits v 23 8) then
    (s.setFld memCfg 2 0 v).setBit memStatus 4 true
  else s.genWrite (memBase + o) v
/-- CHN_CTRL.UPEN and DNEN run their ports (R302); CHN_PAIR starts and ends the pair's handshake (R314); the Binnacle
keeps CHN_MKCFG.MASTER (R313). -/
def State.chnWrite (s : State) (o v : Nat) : State :=
  if o = 0 then
    let (up, dn) := (s.bit chnCtrl 0, s.bit chnCtrl 1)
    let s := s.genWrite chnBase v
    let s := if v.testBit 0 = up then s else s.portEnable .up (v.testBit 0)
    if v.testBit 1 = dn then s else s.portEnable .dn (v.testBit 1)
  else if o = 0x24 then
    let was := s.pairOn
    let s := s.genWrite (chnBase + o) v
    let s := s.setBit chnPairstat 5 s.peerLane
    if s.pairOn = was then s
    else State.pairState (s.setChain { s.chain with hbs := 0, paired := false }) (b2n s.pairOn)
  else if o = 0x18 then
    let s := s.genWrite (chnBase + o) v
    s.setChain { s.chain with trimMaster := s.bit chnMkcfg 31 }
  else s.genWrite (chnBase + o) v
/-- CLK_GATE: each block's bit closes or opens its gate (R454); pace, governor, power commands, block resets. -/
def State.clkWrite (s : State) (o v : Nat) : State :=
  if o = 0x10 then
    s.each gateBlks fun (s : State) b =>
      let on := v.testBit (blkIdx b)
      if on = s.bit clkGate (blkIdx b) then s else if on then s.gateClose b else s.gateOpen b
  else if o = 0x100 then s.setPace v
  else if o = 0x108 then s.govConfig v
  else if o = 0x110 then
    match v % 8 with
    | 1 => s.cmdIdle
    | 2 => s.cmdRun
    | 3 => s.cmdStby
    | 4 => s.cmdDorm
    | _ => s
  else if o = 0x124 then s.each ((gateBlks ++ [Blk.mem, Blk.per]).filter fun b => v.testBit (blkIdx b)) State.blockResetStart
  else s.genWrite (clkBase + o) v
def State.pinWrite (s : State) (o v : Nat) : State :=
  if 0x100 ≤ o ∧ o < 0x280 ∧ o % 4 = 0 then s.pinConfig ((o - 0x100) / 4) v
  else (s.keepDriven fun n => s.pinFunc n == 0).genWrite (pinBase + o) v
def State.evtWrite (s : State) (o v : Nat) : State :=
  if o = 0x08 then s.stormClear v
  else if o = 0x0C then s.swEvents v
  else if 0x100 ≤ o ∧ o < 0x200 ∧ o % 4 = 0 then
    (if o % 8 = 0 then s.setProducers ((o - 0x100) / 8) v else s.chanConfig ((o - 0x100) / 8) v)
  else if 0x1000 ≤ o ∧ o < 0x1460 ∧ o % 4 = 0 then s.subscribe ((ofsFrom 0x1000 o) / 4) v
  else s.genWrite (evtBase + o) v
/-- PLT_CCFG writes the wrap range and JOIN; PC is the only field of PLT_CSTAT that is written (R488, R492, R493). -/
def State.pltWrite (s : State) (o v : Nat) : State :=
  if 0x10 ≤ o ∧ o < 0x50 ∧ o % 4 = 0 ∧ o % 16 < 8 then
    s.each (engineChans (toFin 4 ((o - 0x10) / 16)) v) (if o % 16 = 0 then State.plotRunOne else State.plotHaltOne)
  else if 0x100 ≤ o ∧ o < 0x900 ∧ o % 4 = 0 then
    let k := toFin 64 ((o - 0x100) / 32)
    let r := (o - 0x100) % 32
    if r = 0 then
      let s := if s.bit pltCtrl 31 then s else (s.setFld (pltChan k 0) 6 0 v).setFld (pltChan k 0) 14 8 (v >>> 8)
      s.setJoin k (bits v 17 16)
    else if r = 0x08 then s.txqAppend k (BitVec.ofNat 32 v)
    else if r = 0x04 ∨ r = 0x10 ∨ r = 0x14 ∨ r = 0x18 then s.plotRegWrite k r (BitVec.ofNat 32 v)
    else s.genWrite (pltBase + o) v
  else s.genWrite (pltBase + o) v
def State.serWrite (s : State) (o v : Nat) : State :=
  if 0x100 ≤ o ∧ o < 0x1C0 ∧ o % 4 = 0 then
    let i := toFin 6 ((o - 0x100) / 32)
    let r := (o - 0x100) % 32
    if r = 0x04 then s.ckdiv i v
    else if r = 0x0C then s.txAppend i (BitVec.ofNat 32 v)
    else if r = 0x18 then
      if v.testBit 1 then s.serAbort i else if v.testBit 0 then (s.did [24 + i.val]).serGo i else s
    else s.genWrite (serBase + o) v
  else s.genWrite (serBase + o) v
def State.bootWrite (s : State) (o v : Nat) : State :=
  if o = 0 then
    let s := if v.testBit 31 then s.setBit bootCtrl 31 true else s
    let s := if v.testBit 2 then s.chartSkip else s
    let s := if v.testBit 1 then s.chartFailed else s
    if v.testBit 0 then s.bootDone else s
  else if o = 0x08 then s.bootCommand v
  else s.genWrite (bootBase + o) v
def State.flsWrite (s : State) (r : Requester) (o v : Nat) : State :=
  if o = 0x08 then
    match v % 8 with
    | 1 => s.flashCmd 1 r
    | 2 => s.flashCmd 2 r
    | 3 => s.flashSuspend
    | 4 => s.flashResume
    | 5 => s.flashCmd 5 r
    | 6 => s.flashCmd 6 r
    | _ => s
  else s.genWrite (flsBase + o) v
def State.nvrWrite (s : State) (o v : Nat) : State :=
  if o = 0x10 then s.cntInc (v % 256)
  else if 0x40 ≤ o ∧ o < 0xC0 ∧ o % 16 = 0 then s.cntConfig ((o - 0x40) / 16) v
  else s.genWrite (nvrBase + o) v
/-- The SAF page, for the island (R28). A cause bit that is still active is set again after a write clears it (R290). -/
def State.safWrite (s : State) (o v : Nat) : State :=
  if o = 0 then
    let s := if v.testBit 31 then s.setBit safCtrl 31 true else s
    let s := if v.testBit 0 then s.stoReq else s
    let s := if v.testBit 1 then s.ss1Start else s
    if v.testBit 2 then s.relReq else s
  else if o = 0x08 then
    let old := s.rd safCause
    let s := s.genWrite safCause v
    s.orReg safCause (old &&& s.saf.active)
  else if o = 0x28 then s.wdogWrite v
  else s.genWrite (safBase + o) v
/-- The MPIN page: its writers (R503), the least DIV (R507). -/
def State.mpinWrite (s : State) (r : Requester) (o v : Nat) : Bool × State :=
  let island := decide (r = .island)
  let both := decide (r = .island ∨ r = .mgmt)
  if o = 0x08 then (island, s.mpinOutSet r v)
  else if (o = 0x40 ∨ o = 0x50) then
    if !island then (false, s.mpinRefuse)
    else if v % 256 < 3 then (true, s.mpinRefuse) else (true, s.genWrite (mpinBase + o) v)
  else if (o = 0x44 ∨ o = 0x54) then (island, s.safeStart r (toFin 2 ((o - 0x44) / 16)) (BitVec.ofNat 32 v))
  else if o = 0 ∨ 0x10 ≤ o ∧ o < 0x38 then
    if both then (true, s.genWrite (mpinBase + o) v) else (false, s.mpinRefuse)
  else (true, s.genWrite (mpinBase + o) v)

/-! ## Memory regions -/

def aligned (a n : Nat) (sizes : List Nat) : Bool := sizes.contains n && a % n == 0
def inRange (a lo hi : Nat) : Bool := decide (lo ≤ a ∧ a < hi)
def isPeriodSram (a : Nat) : Bool := inRange a 0x1000000000 0x1004000000
def isScratch (a : Nat) : Bool := inRange a 0x2000000000 0x2002000000
def isHelmLocal (a : Nat) : Bool := inRange a 0x3000000000 0x3000100000
def isFlash (a : Nat) : Bool := inRange a flashBase 0x5010400000
def isRecStore (a : Nat) : Bool := inRange a nvrBaseAddr 0x5020040000
/-- The slot that a period SRAM address lies in, and a word of it that only the module writes (R60, R63). -/
def slotAt (a : Nat) : Option Slot := if inRange a 0x1000000000 0x1000040000 then some (toFin 4 ((ofsFrom 0x1000000000 a) / 0x10000)) else none
def moduleByte (a : Nat) : Bool := (slotAt a).isSome && inRange (a % 0x10000) 0x1040 0x1124
/-- Size and alignment that period SRAM and scratch accept (R523). -/
def sramForm (r : Requester) (a n : Nat) : Bool := aligned a n [1, 2, 4, 8] || decide (r = .dma) && aligned a n [64]
/-- The slot of address a is being latched: a write to it is stalled (R86). -/
def State.latching (s : State) (a : Nat) : Bool := match slotAt a with
  | some p => s.phase p == 1
  | none => false
/-- A requester's write of bytes to period SRAM: the module's words are left alone (R63); during the latch of the slot it is stalled
(R86). -/
def State.sramWrite (s : State) (a : Nat) (bs : List Byte) : State :=
  let cells := bs.zipIdx.map fun b => (a + b.2, b.1)
  let mine := cells.filter fun c => !moduleByte c.1
  let ws := if mine.length = cells.length then [(a, bs)] else mine.map fun c => (c.1, [c.2])
  match slotAt a with
  | some p =>
    if s.latching a then s.setProb p { s.prob p with stalled := (s.prob p).stalled ++ ws } else s.each ws fun (s : State) w => s.sramPut w
  | none => s.sramPut (a, bs)
/-- The problem of slot p is searched or checked, with no verdict yet that a fault could not change. -/
def State.faultable (s : State) (p : Slot) : Bool := decide (2 ≤ s.phase p ∧ s.phase p ≤ 4) && !(s.prob p).recDue
/-- A read of period SRAM meets an uncorrectable error: in a problem's data it is a decision-path fault of that problem (R282). -/
def State.sramFault (s : State) (a : Nat) : State := match slotAt a with
  | some p => if a % 0x10000 < 0x1124 && s.faultable p then s.dataFault p else s
  | none => s
/-- A read of cluster scratch meets an uncorrectable error: the search of the cluster's problem stops (R131), or its self-test segment
fails (R128). -/
def State.scratchFault (s : State) (a : Nat) : State :=
  let c : Cl := toFin 16 ((ofsFrom 0x2000000000 a) / 0x200000)
  if s.rot.segRunning && s.rot.cur == c.val then s.selfFail c
  else match (s.cl c).owner with
    | some p => if s.faultable p then s.stopFault p c (12 + p) else s
    | none => s

/-- A record store write outside the area that is free for use is refused (R437). -/
def recSystem (a : Nat) : Bool := decide (a < nvrBaseAddr + 0x18000)

/-! ## Accesses -/

/-- A read of n bytes at a by requester r, with what the checks of its words find; none is an error response. `g` tells how an outstanding
read stands to the gate of its block. -/
def State.busRead (s : State) (r : Requester) (a n : Nat) (k : Check) (g : Gate := .free) : Option (List Byte) × State :=
  if !s.dieOk a then (none, s)
  else if a < gddrEnd then
    let (t, d) := s.gddrAccess (.req r) a n none k
    (d, t)
  else if isPeriodSram a then
    if !sramForm r a n then (none, s)
    else match s.findEcc a n k.ecc with
      | ((_, true), t) => (some (t.bytes a n), t)
      | (_, t) => (none, t.sramFault a)
  else if isScratch a then
    if !sramForm r a n then (none, s)
    else match s.findEcc a n k.ecc with
      | ((c, true), t) =>
        let (bs, t) := State.freeBytes (if c = 0 then t else t.count srchEcccnt 15 0 c) n
        (some bs, t)
      | (_, t) => (none, t.scratchFault a)
  else if isHelmLocal a then
    if !aligned a n [1, 2, 4, 8] then (none, s)
    else match s.findEcc a n k.ecc with
      | ((c, true), t) => (some (t.bytes a n), if c = 0 then t else t.count hlmEcccnt 15 0 c)
      | (_, t) => (none, t)
  else if isFlash a then (if aligned a n [1, 2, 4] then s.flashRead a n (k.ecc.headD .clean) else (none, s))
  else if isRecStore a then (if aligned a n [1, 2, 4] && s.bit nvrStatus 31 then (some (s.bytes a n), s) else (none, s))
  else if isPage a then
    if n ≠ 4 ∨ a % 4 ≠ 0 then (none, s)
    else
      let b := pageBase a
      if s.pageReset b then (none, s)
      else if s.gateBars b g then (some (toLE 4 0), s)
      else
        let (v, s) := s.regRead b (a - b)
        (some (toLE 4 v), s)
  else (none, s)

/-- The reply to an outstanding load: an error response when what it addresses has been reset meanwhile (R455). -/
def State.loadReply (s : State) (r : Requester) (q : PendLoad) (k : Check) : Option (List Byte) × State :=
  if q.lost then (none, s) else s.busRead r q.addr (loadSize q.kind) k q.gate
/-- A core reset (R370): its outstanding load completes and is discarded; MP writes have landed and are cleared with it. -/
def State.coreReset (s : State) (n : CoreN) : State :=
  let s := match (s.core n).pend with
    | some q => (s.loadReply (coreReq n) q {}).2
    | none => s
  s.setCore n (s.freshCore n)
def execCoreReset (n : Fin 8) (s : State) : Out := if s.clk.cdUp then .next (s.coreReset (toFin 10 n)) else .next s

/-- The HLM page: RUN, HALT, RST and the decode tables. -/
def State.hlmWrite (s : State) (o v : Nat) : Bool × State :=
  if o = 0x04 then (true, s.eachBit v 8 fun s n => s.coreRun (toFin 10 n))
  else if o = 0x08 then (true, s.eachBit v 8 fun s n => s.coreHalt (toFin 10 n))
  else if o = 0x0C then (true, s.eachBit v 8 fun s n => s.coreReset (toFin 10 n))
  else if 0x1000 ≤ o ∧ o < 0xB000 then
    let (err, s) := s.tableWrite ((ofsFrom 0x1000 o) / 0x1400) ((ofsFrom 0x1000 o) % 0x1400) v
    (!err, s)
  else (true, s.genWrite (hlmBase + o) v)

/-- A write of the register at offset o of page b by requester r, past every test of the page: false is an error response. -/
def State.regWrite (s : State) (r : Requester) (b o v : Nat) : Bool × State :=
  if b = perBase then (true, s.perWrite o v)
  else if b = srchBase then (true, s.srchWrite o v)
  else if b = chrtBase then (true, if o = 0x08 then s.chartCommand v else s.genWrite (b + o) v)
  else if b = cellBase then (true, s.cellWrite o v)
  else if b = capBase then (true, s.capWrite o v)
  else if b = memBase then (true, s.memWrite o v)
  else if b = chnBase then (true, s.chnWrite o v)
  else if b = hlmBase then s.hlmWrite o v
  else if b = clkBase then (true, s.clkWrite o v)
  else if b = pinBase then (true, s.pinWrite o v)
  else if b = evtBase then (true, s.evtWrite o v)
  else if b = pltBase then (true, s.pltWrite o v)
  else if b = serBase then (true, s.serWrite o v)
  else if b = bootBase then (true, s.bootWrite o v)
  else if b = flsBase then (true, s.flsWrite r o v)
  else if b = nvrBase then (true, s.nvrWrite o v)
  else if b = safBase then (if r = .island then (true, s.safWrite o v) else (false, s))
  else if b = mpinBase then s.mpinWrite r o v
  else if b = mptBase then (true, s.mptWrite false (o / 4) v)
  else (true, s.genWrite (b + o) v)

/-- A write of bytes at a by requester r, with what the checks of a word that it is merged into find: false is an error response. A word in
error takes no part of a write (log entry 102). -/
def State.busWrite (s : State) (r : Requester) (a : Nat) (bs : List Byte) (k : Check) (g : Gate := .free) : Bool × State :=
  let n := bs.length
  if !s.dieOk a then (false, s)
  else if a < gddrEnd then
    let (t, d) := s.gddrAccess (.req r) a n (some bs) k
    (d.isSome, t)
  else if isPeriodSram a then
    if !sramForm r a n then (false, s)
    else if 8 ≤ n then (true, s.sramWrite a bs)
    else match s.findEcc a n k.ecc with
      | ((_, true), t) => (true, t.sramWrite a bs)
      | (_, t) => (false, t.sramFault a)
  else if isScratch a then (true, s)
  else if isHelmLocal a then (if aligned a n [1, 2, 4, 8] then (true, s.store a bs) else (false, s))
  else if isFlash a then (false, s)
  else if isRecStore a then
    if !aligned a n [1, 2, 4] || !s.bit nvrStatus 31 then (false, s)
    else if recSystem a then (false, (s.setBit nvrStatus 1 true).evLog 3 1 0)
    else (true, s.setBytes a bs)
  else if isPage a then
    if n ≠ 4 ∨ a % 4 ≠ 0 then (false, s)
    else
      let b := pageBase a
      if s.pageReset b then (false, s)
      else if s.gateBars b g then (true, s)
      else s.regWrite r b (a - b) (ofLE bs)
  else (false, s)

/-! ## Accesses of one cycle (R14, R29) -/

/-- What the hardware does to the register at a in the cycle of a write of v: a W1C bit that it sets is 1 afterwards, and so is a W1S bit that
it clears while v writes a 1 to it (R14). The W1S bits that hardware clears are those of HLM_RUN, PLT_RUN and, on the mirror side,
MPT_DBOUT; MPT_DBIN is W1C there (R337, R338). No hardware clears a lock bit or FLS_WP but a reset. -/
def State.sameCycle (s : State) (a v set clr : Nat) : State :=
  if a = hlmRun then s.eachBit clr 8 fun (s : State) n =>
    let c : CoreN := toFin 10 n
    if (s.core c).running then s.setCore c { s.core c with running := v.testBit n, stopping := false, runAgain := false } else s
  else if pageBase a = pltBase ∧ a % 16 = 0 ∧ 0x10 ≤ a % 0x10000 ∧ a % 0x10000 < 0x50 then
    s.each (engineChans (toFin 4 (a / 16 % 16 - 1)) clr) fun (s : State) k => if v.testBit (k.val % 16) then s else s.plotHaltOne k
  else if a = mptDbin then s.ringIn set
  else if a = mptDbout then s.clrReg mptDbout (clr &&& (allBits ^^^ v % 2 ^ 32))
  else match regDesc a with
    | none => s
    | some (r, _) => s.orReg a (set &&& r.w1c)

/-- The order in which a page serves requesters. -/
def reqRank : Requester → Nat
  | .island => 0 | .mgmt => 1 | .port => 2 | .chain _ => 3 | .dma => 4 | .core n => 5 + n
def inOrder (xs : List Access) : List Access := (List.range 13).flatMap fun k => xs.filter fun x => reqRank x.r == k
def State.access (s : State) (x : Access) : State := match x.v with
  | some v => (s.busWrite x.r x.addr.toNat (toLE 4 v.toNat) x.chk).2
  | none => (s.busRead x.r x.addr.toNat 4 x.chk).2
/-- An access waits: its GDDR6 channel retrains (R258), or it writes to a slot that is being latched (R86). -/
def State.accessWaits (s : State) (x : Access) : Bool := s.memWaits x.addr.toNat || x.v.isSome && s.latching x.addr.toNat
/-- The register at a is served: its die and page act. -/
def State.pageActs (s : State) (a : Nat) : Bool := s.dieOk a && isPage a && !s.pageReset (pageBase a) && !s.pageGated (pageBase a)

/-- A read of the word at a register, for a command: the value is delivered to the requester, the state keeps its effects (R13). An RC bit that
the hardware sets in the same cycle is 1 afterwards (R14). An access to GDDR6 waits while its channel retrains (R258). -/
def execRegisterReadClear (r : Requester) (addr : BitVec 40) (set : Word) (chk : Check) (s : State) : Out :=
  let a := addr.toNat
  if s.clk.power = .off || s.memWaits a then .next s
  else
    let t := s.access { r, addr, v := none, chk }
    .next (match regDesc a with
      | some (d, _) => if s.pageActs a then t.orReg a (set.toNat &&& d.rc) else t
      | none => t)
/-- A write of a register that does the action of a task (R476). -/
def taskWrite (x : Access) : Bool :=
  let a := x.addr.toNat
  x.v.isSome && (decide (a ∈ [srchBase + 0x08, srchBase + 0x0C, srchBase + 0x10, capBase + 0x08, evtBase + 0x0C]) ||
    decide (serBase + 0x100 ≤ a ∧ a < serBase + 0x1C0 ∧ a % 32 = 0x18))
/-- One of several accesses of a cycle: the tasks whose actions it did join those of the others. -/
def State.accessOf (s : State) (x : Access) : State :=
  let t := State.access { s with pins := { s.pins with wrote := [] } } x
  { t with pins := { t.pins with wrote := s.pins.wrote ++ t.pins.wrote } }
/-- The accesses of a cycle, in the order of R29. -/
def State.accesses (s : State) (xs : List Access) : State :=
  if 1 < xs.length ∧ xs.any taskWrite then (inOrder xs).foldl State.accessOf { s with pins := { s.pins with wrote := [] } }
  else (inOrder xs).foldl State.access s
/-- A write of a word (R13, R14), and the accesses that reach a page in the same cycle, in the order of R29. -/
def execRegisterWrite (r : Requester) (addr : BitVec 40) (v set clr : Word) (same : List Access) (chk : Check) (s : State) : Out :=
  let a := addr.toNat
  let xs := { r, addr, v := some v, chk } :: same
  if s.clk.power = .off || xs.any s.accessWaits then .next s
  else
    let t := s.accesses xs
    .next (if s.pageActs a then t.sameCycle a v.toNat set.toNat clr.toNat else t)

end Sys2Proof.Machine
end

