-- ==== Sys2Proof/Machine/ChainReq.lean ====
section
/-!
DEFINITION. Requests that arrive over the chain: register access (R303, R304), bulk writes (R305), bulk reads (R306). The frame that
brought the request leaves the inbox when the request is performed.
-/
namespace Sys2Proof.Machine

/-- The lane the frame came on works (R299). -/
def State.chnUp (s : State) (pilot : Bool) : Bool := if pilot then s.pilotOn else s.chnData
/-- The access rules refuse the request of a source (R304). -/
def State.aclWrite (s : State) (src : Nat) : Bool := !s.bit chnCtrl (if src = 0 then 4 else 5)
def State.aclRead (s : State) (src : Nat) : Bool := src != 0 && !s.bit chnCtrl 6
def State.aclErr (s : State) : State := if s.clk.cdUp then s.setBit chnStatus 1 true else s
/-- NW and ADDR are such as R295 and R303 allow: 1 to 64 words on a data lane, 1 or 2 on a pilot lane, aligned (log entry 38). -/
def wordsOk (pilot : Bool) (a nw : Nat) : Bool := decide (1 ≤ nw ∧ nw ≤ (if pilot then 2 else 64)) && a % 4 == 0

/-- A word of [a, a + n) lies on a GDDR6 channel that retrains: the request waits (R258). -/
def State.rangeWaits (s : State) (a n : Nat) : Bool := (wordsOf a n).any s.memWaits
/-- NW word reads in ascending order, each with what its checks find: the words read before the first error response. -/
def State.readWords (s : State) (r : Requester) (a : Nat) : Nat → List Check → List (List Byte) × State
  | 0, _ => ([], s)
  | n + 1, ks =>
    match s.busRead r a 4 (ks.headD {}) with
    | (some w, t) =>
      let (ws, t) := State.readWords t r (a + 4) n ks.tail
      (w :: ws, t)
    | (none, t) => ([], t)
/-- Word writes in ascending order: how many were made before the first error response. -/
def State.writeWords (s : State) (r : Requester) (a : Nat) : List Word → List Check → Nat × State
  | [], _ => (0, s)
  | w :: ws, ks =>
    match s.busWrite r a (toLE 4 w.toNat) (ks.headD {}) with
    | (true, t) =>
      let (n, t) := State.writeWords t r (a + 4) ws ks.tail
      (n + 1, t)
    | (false, t) => (0, t)
/-- STATUS and index of a request of n words of which k were done. -/
def wordStatus (n k : Nat) : List Byte := if k = n then toLE 4 0 else toLE 1 1 ++ toLE 1 k ++ toLE 2 0

def execRdreq (_p : ChPort) (pilot : Bool) (src : Fin 64) (tag : BitVec 16) (addr : BitVec 40) (nw : Byte) (chks : List Check)
    (s : State) : Out :=
  let n := nw.toNat
  if !s.chnUp pilot || s.rangeWaits addr.toNat (4 * n) then .next s
  else
    let s := (s.takeFrame 1 (some src.val)).2
    if !wordsOk pilot addr.toNat n then .next (s.respond pilot 2 src tag.toNat (rdrspNone pilot 3 n))
    else if s.aclRead src then .next (s.aclErr.respond pilot 2 src tag.toNat (rdrspNone pilot 2 n))
    else
      let (ws, s) := s.readWords (.chain src) addr.toNat n chks
      .next (s.respond pilot 2 src tag.toNat (wordStatus n ws.length ++ ws.flatten ++ List.replicate (4 * (n - ws.length)) 0))
/-- A write to the SAF page gets an error response whatever HOSTWR and PEERWR say (R304). -/
def execWrreq (_p : ChPort) (pilot : Bool) (src : Fin 64) (tag : BitVec 16) (addr : BitVec 40) (ws : List Word) (chks : List Check)
    (s : State) : Out :=
  if !s.chnUp pilot || s.rangeWaits addr.toNat (4 * ws.length) then .next s
  else
    let s := (s.takeFrame 3 (some src.val)).2
    let n := ws.length
    if !wordsOk pilot addr.toNat n then .next (s.respond pilot 4 src tag.toNat (toLE 4 3))
    else if s.aclWrite src && pageBase addr.toNat != safBase then .next (s.aclErr.respond pilot 4 src tag.toNat (toLE 4 2))
    else
      let (k, s) := s.writeWords (.chain src) addr.toNat ws chks
      .next (s.respond pilot 4 src tag.toNat (wordStatus n k))

/-! ## Bulk writes (R305) -/

/-- 64-byte writes in ascending order. A frame of which some write would get an error response is not written. -/
def State.writeBlocks (s : State) (a : Nat) : Nat → List Byte → List Check → State
  | 0, _, _ => s
  | n + 1, bs, ks => State.writeBlocks (s.gddrAccess .bulk a 64 (some (bs.take 64)) (ks.headD {})).1 (a + 64) n (bs.drop 64) ks.tail
/-- A 64-byte write at a would get an error response; what such a response records. -/
def State.blockRefused (s : State) (a : Nat) : Bool := s.memDown a 64 || s.bufRefuses .bulk a
def State.blocksRefused (s : State) (a n : Nat) : Option Nat := ((List.range n).map fun i => a + 64 * i).find? s.blockRefused
/-- [a, a + n) lies in one GDDR6 region. -/
def oneRegion (a n : Nat) : Bool := decide (a + n ≤ gddrEnd ∧ 0 < n) && regionOf a == regionOf (a + n - 1)
def execBlkwr (src : Fin 64) (tag : BitVec 16) (addr : BitVec 40) (start : Bool) (bseq : BitVec 16) (data : List Byte) (chks : List Check)
    (s : State) : Out :=
  if !s.chnData || s.rangeWaits addr.toNat data.length then .next s
  else
    let s := (s.takeFrame 5 (some src.val)).2
    let a := addr.toNat
    let n := data.length
    if !(decide (64 ≤ n ∧ n ≤ 2040) && n % 64 == 0 && a % 64 == 0) then .next (s.blkack src tag.toNat 3)
    else if !s.bit chnCtrl 8 || s.aclWrite src then .next (s.aclErr.blkack src tag.toNat 2)
    else
      let s := if start then
          (State.setFld (s.setBit chnBulkstat 31 true) chnBulkstat 29 24 src).setBseq src (bseq.toNat, (s.bseqOf src).2)
        else s
      let next := (s.bseqOf src).1
      if bseq.toNat ≠ next then .next (s.blkack src tag.toNat 0)
      else if !oneRegion a n || decide (retainBase < a + n) then .next (s.blkack src tag.toNat 1)
      else
        match s.blocksRefused a (n / 64) with
        | some b => .next (State.blkack (s.gddrAccess .bulk b 64 (some []) {}).1 src tag.toNat 1)
        | none => .next (((s.writeBlocks a (n / 64) data chks).setBseq src ((next + 1) % 65536, some next)).blkack src tag.toNat 0)

/-! ## Bulk reads (R306) -/

/-- A BLKDATA that carries a status and no data (R306). -/
def State.blkReject (s : State) (src : Fin 64) (tag a st : Nat) : State :=
  s.respond false 8 src tag (toLE 5 a ++ toLE 1 st ++ toLE 2 0)
def execBlkrd (src : Fin 64) (tag : BitVec 16) (addr : BitVec 40) (len : BitVec 16) (s : State) : Out :=
  if !s.chnData then .next s
  else
    let s := (s.takeFrame 7 (some src.val)).2
    let a := addr.toNat
    if !(decide (1 ≤ len.toNat ∧ len.toNat ≤ 1024) && a % 64 == 0) then .next (s.blkReject src tag.toNat a 3)
    else if !s.bit chnCtrl 8 || s.aclRead src then .next (s.aclErr.blkReject src tag.toNat a 2)
    else
      let b : BulkRead := { src, tag := tag.toNat, addr := a, left := 64 * len.toNat }
      .next (s.setChain { s.chain with streams := (s.chain.streams.filter fun x => x.src != src.val) ++ [b] })
/-- Reads of 8 bytes in ascending order until the first that fails: the data of the words before it. -/
def State.readEights (s : State) (a : Nat) : Nat → List Check → List Byte × State
  | 0, _ => ([], s)
  | n + 1, ks =>
    match s.busRead .dma a 8 (ks.headD {}) with
    | (some w, t) =>
      let (ws, t) := State.readEights t (a + 8) n ks.tail
      (w ++ ws, t)
    | (none, t) => ([], t)
/-- The next frame of the oldest bulk read; `chks` is what the checks of its 8-byte words find. -/
def execBlkdataSend (chks : List Check) (s : State) : Out :=
  match s.chain.streams with
  | q :: rest =>
    let n := Nat.min 2040 q.left
    if !s.chnData || s.rangeWaits q.addr n then .next s
    else
      let (d, s) := s.readEights q.addr (n / 8) chks
      let s := s.respond false 8 q.src q.tag (toLE 5 q.addr ++ toLE 1 (b2n (d.length != n)) ++ toLE 2 0 ++ d ++ List.replicate (n - d.length) 0)
      let q' : BulkRead := { q with addr := q.addr + n, left := q.left - n }
      .next (s.setChain { s.chain with streams := if q'.left = 0 then rest else q' :: rest })
  | [] => .next s

end Sys2Proof.Machine
end

