-- ==== Sys2Proof/Machine/Helm.lean ====
section
/-!
DEFINITION. The Helm cores: posted stores (R346, R364), exceptions and interrupts (R362 to R368), the issue of an instruction, and the
instructions that touch registers only (R352 to R355, R358). A command names the instruction (its word is in Machine/HelmWord.lean); it issues when the core stands at a
boundary with nothing more urgent to take. Loads, stores, frames and atomics are in Machine/HelmMem.lean.
-/
namespace Sys2Proof.Machine

/-! ## The store buffer (R346, R364) -/

/-- The oldest posted store is performed. An error is kept for the next boundary, the first in program order; a reply to a store
issued before a core reset is discarded (R370). One that must wait is put among the accesses that wait (`State.held`). -/
def State.storeOne (s : State) (n : CoreN) (chk : Check := {}) : State :=
  let k := s.core n
  match k.stores with
  | [] => s
  | p :: rest =>
    let (ok, s) := State.busWrite (s.setCore n { k with stores := rest, orphan := k.orphan - 1 }) (coreReq n) p.addr (toLE p.size p.val.toNat) chk p.gate
    if ok || decide (0 < k.orphan) then s
    else
      let k := s.core n
      s.setCore n { k with posted := some (k.posted.getD p.ea) }
def State.drainN (s : State) (n : CoreN) : Nat → State
  | 0 => s
  | i + 1 => State.drainN (s.storeOne n) n i
/-- The store buffer empties. -/
def State.drainStores (s : State) (n : CoreN) : State := s.drainN n (s.core n).stores.length
/-- The core waits until its store buffer is empty; how long is open (R346, R352, log entry 108). -/
def State.waitStores (s : State) (n : CoreN) : State := if (s.core n).stores.isEmpty then s else (s.drainStores n).stallFree n
/-- A store to a waits: its GDDR6 channel retrains (R258), or its slot is being latched (R86, R347). -/
def State.storeWaits (s : State) (a : Nat) : Bool := s.memWaits a || s.latching a
/-- Some posted store of core n waits. -/
def State.storesWait (s : State) (n : CoreN) : Bool := (s.core n).stores.any fun p => s.storeWaits p.addr
/-- On the way from s to t an access was made that has to wait (R86, R258). -/
def State.held (s t : State) : Bool :=
  decide (s.gmem.waiting.length < t.gmem.waiting.length) || allSlots.any fun p => decide ((s.prob p).stalled.length < (t.prob p).stalled.length)
/-- A core whose step needs an access that has to wait stalls: the step is taken once the access can be made (R346, R347). -/
def State.unlessHeld (s t : State) : Out := .next (if s.held t then s else t)
/-- The store buffer empties and every MP write lands (R358, R363). -/
def State.quiesce (s : State) (n : CoreN) : State :=
  let s := s.waitStores n
  s.setCore n (s.core n).landAll
/-- The core goes on, unless one of its own stores has reset it. -/
def State.finish (s : State) (n : CoreN) (f : Core → Core) : State := if (s.core n).running then s.setCore n (f (s.core n)) else s

/-! ## Exceptions and interrupts (R362 to R368) -/

/-- Entry of a handler: the registers of R363. It takes 6 cycles. -/
def Core.enter (k : Core) (cause ret eval vec : Word) : Core :=
  Core.tick { k with epc := (ret &&& 0xFFFFFFFC) ||| ofBool k.inten, status := statusOf false true, ecause := cause, eval := eval, pc := vec,
                     wfi := false, loaded := none } 6
/-- An exception of a code. An error of a posted store that the wait of R363 finds is raised in its place (log entry 39); while HDL is
1 it is a double fault (R365). -/
def State.exception (s : State) (n : CoreN) (code : Nat) (epc eval : Word) : State :=
  let s := s.quiesce n
  let k := s.core n
  if !k.running then s
  else
    let x : Nat × Word × Word := match k.posted with
      | some ea => (6, k.pc, ea)
      | none => (code, epc, eval)
    let k := { k with posted := none }
    let cause : Word := BitVec.ofNat 32 x.1
    if k.hdl then State.doubleFault (s.setCore n k) n cause ((x.2.1 &&& 0xFFFFFFFC) ||| ofBool k.inten)
    else s.setCore n (k.enter cause x.2.1 x.2.2 k.evec)
/-- A wait in WFI ends: the cycles waited are open (R368, log entry 108). -/
def State.wake (s : State) (n : CoreN) : State :=
  if (s.core n).wfi then State.stallFree (s.setCore n { s.core n with wfi := false }) n else s
/-- The interrupt of the lowest line pending and enabled is taken. EVAL is written, with no value stated: a free value. -/
def State.takeInterrupt (s : State) (n : CoreN) : State :=
  let s := s.quiesce n
  let k := s.core n
  if !k.running then s
  else if k.posted.isSome then s.exception n 6 k.pc 0
  else
    let (w, s) := s.freeWord
    s.setCore n (k.enter (BitVec.ofNat 32 (2 ^ 31 + k.lowestDue)) k.pc w (k.evec + 0x40))

/-! ## Issue -/

/-- A read of a core's local memory: the bytes, none on an uncorrectable error (R340), which in the island's memory is an island fault
(R272). -/
def State.localRead (s : State) (n : CoreN) (ea : Word) (size : Nat) (ecc : Ecc) : Option (List Byte) × State :=
  let a := localBase n + ea.toNat
  match s.findEcc a size [ecc] with
  | ((c, true), t) => (some (t.bytes a size), if c ≠ 0 ∧ n.val < 8 then t.count hlmEcccnt 15 0 else t)
  | (_, t) => (none, if n.val < 8 then t.setBit hlmFault (8 + n) true else if n.val = 9 then t.islandFault else t)
/-- The fetch at PC: none, or the code of the exception it raises (R339, R340, R362). An instruction SRAM word found uncorrectable gives
0x07, and an error response of the flash array 0x02. -/
def State.fetch (s : State) (n : CoreN) (ecc : Ecc := .clean) : Option Nat × State :=
  let k := s.core n
  if isLocal k.pc then
    let (d, s) := s.localRead n k.pc 4 ecc
    (if d.isSome then none else some 7, s)
  else
    let (d, s) := s.flashRead (k.segAddr k.pc) 4 ecc
    (if d.isSome then none else some 2, s)
/-- A core at a boundary with nothing more urgent to take fetches (R362, R364, R367). -/
def State.fetchDue (s : State) (n : CoreN) : Bool :=
  let k := (s.wake n).core n
  s.coreOn n && (s.core n).atBoundary && k.posted.isNone && !k.interruptDue && Core.fetchable n k
/-- The check of the word that core n is about to fetch finds ecc: a single-bit error is corrected and counted, and a word found
uncorrectable stays so (R340, R417). -/
def State.fetchMeets (s : State) (n : CoreN) (ecc : Ecc) : State :=
  let k := s.core n
  if !s.fetchDue n || (s.fetch n).1.isSome then s
  else match ecc with
    | .clean => s
    | .corrected => (s.fetch n .corrected).2
    | .uncorrectable => s.setBad (if isLocal k.pc then localBase n + k.pc.toNat else k.segAddr k.pc) 4
/-- The next instruction of core n, which reads the registers `srcs`, issues and does f. Before it come, at the boundary, the
exception of a failed posted store (R364), an interrupt (R367) and a fetch fault (code 2). A wait in WFI is over. -/
def State.issue (s : State) (n : CoreN) (srcs : List RegN) (f : State → State) : Out :=
  if !s.coreOn n || !(s.core n).atBoundary then .next s
  else
  let s0 := s
  let s := s.wake n
  let k := s.core n
  if k.posted.isSome then s0.unlessHeld (s.exception n 6 k.pc 0)
  else if k.interruptDue then s0.unlessHeld (s.takeInterrupt n)
  else if !Core.fetchable n k then s0.unlessHeld (s.exception n 2 k.pc k.pc)
  else
    let (bad, s) := s.fetch n
    match bad with
    | some code => s0.unlessHeld (s.exception n code k.pc k.pc)
    | none =>
      let k := s.core n
      let k := match k.loaded with
        | some r => if srcs.contains r then k.tick 1 else k
        | none => k
      s0.unlessHeld (f (s.setCore n (Core.landDue (Core.puts n { k with loaded := none } (.fetch k.pc)))))
/-- An instruction that changes its core alone and takes c cycles. -/
def State.issueCore (s : State) (n : CoreN) (srcs : List RegN) (c : Nat) (f : Core → Core) : Out :=
  s.issue n srcs fun (s : State) => s.setCore n ((f (s.core n)).tick c)

/-! ## The ALU group (R353) and immediates (R352) -/

def State.aluOp (s : State) (n : CoreN) (rd ra rb : RegN) (fn : Nat) : Out :=
  s.issueCore n [ra, rb] 1 fun k => Core.next (k.setR rd (alu fn (k.r ra) (k.r rb)))
def State.aluImm (s : State) (n : CoreN) (rd ra : RegN) (fn : Nat) (v : Word) : Out :=
  s.issueCore n [ra] 1 fun k => Core.next (k.setR rd (alu fn (k.r ra) v))

def execAdd (n : CoreN) (rd ra rb : RegN) (s : State) : Out := s.aluOp n rd ra rb 0x00
def execSub (n : CoreN) (rd ra rb : RegN) (s : State) : Out := s.aluOp n rd ra rb 0x01
def execAnd (n : CoreN) (rd ra rb : RegN) (s : State) : Out := s.aluOp n rd ra rb 0x02
def execOr (n : CoreN) (rd ra rb : RegN) (s : State) : Out := s.aluOp n rd ra rb 0x03
def execXor (n : CoreN) (rd ra rb : RegN) (s : State) : Out := s.aluOp n rd ra rb 0x04
def execSll (n : CoreN) (rd ra rb : RegN) (s : State) : Out := s.aluOp n rd ra rb 0x05
def execSrl (n : CoreN) (rd ra rb : RegN) (s : State) : Out := s.aluOp n rd ra rb 0x06
def execSra (n : CoreN) (rd ra rb : RegN) (s : State) : Out := s.aluOp n rd ra rb 0x07
def execSlt (n : CoreN) (rd ra rb : RegN) (s : State) : Out := s.aluOp n rd ra rb 0x08
def execSltu (n : CoreN) (rd ra rb : RegN) (s : State) : Out := s.aluOp n rd ra rb 0x09
def execMin (n : CoreN) (rd ra rb : RegN) (s : State) : Out := s.aluOp n rd ra rb 0x0A
def execMax (n : CoreN) (rd ra rb : RegN) (s : State) : Out := s.aluOp n rd ra rb 0x0B
def execMinu (n : CoreN) (rd ra rb : RegN) (s : State) : Out := s.aluOp n rd ra rb 0x0C
def execMaxu (n : CoreN) (rd ra rb : RegN) (s : State) : Out := s.aluOp n rd ra rb 0x0D
def execAdds (n : CoreN) (rd ra rb : RegN) (s : State) : Out := s.aluOp n rd ra rb 0x0E
def execSubs (n : CoreN) (rd ra rb : RegN) (s : State) : Out := s.aluOp n rd ra rb 0x0F
def execClz (n : CoreN) (rd ra : RegN) (s : State) : Out := s.aluImm n rd ra 0x10 0
def execAbs (n : CoreN) (rd ra : RegN) (s : State) : Out := s.aluImm n rd ra 0x11 0

def execAddi (n : CoreN) (rd ra : RegN) (imm : BitVec 16) (s : State) : Out := s.aluImm n rd ra 0x00 (sext16 imm)
def execAndi (n : CoreN) (rd ra : RegN) (imm : BitVec 16) (s : State) : Out := s.aluImm n rd ra 0x02 (zext16 imm)
def execOri (n : CoreN) (rd ra : RegN) (imm : BitVec 16) (s : State) : Out := s.aluImm n rd ra 0x03 (zext16 imm)
def execXori (n : CoreN) (rd ra : RegN) (imm : BitVec 16) (s : State) : Out := s.aluImm n rd ra 0x04 (zext16 imm)
def execSlti (n : CoreN) (rd ra : RegN) (imm : BitVec 16) (s : State) : Out := s.aluImm n rd ra 0x08 (sext16 imm)
def execSltiu (n : CoreN) (rd ra : RegN) (imm : BitVec 16) (s : State) : Out := s.aluImm n rd ra 0x09 (sext16 imm)
def execShi (n : CoreN) (rd ra : RegN) (k : Fin 4) (amt : Fin 32) (s : State) : Out :=
  s.issueCore n [ra] 1 fun c => Core.next (c.setR rd (shiftImm k amt.val (c.r ra)))
def execLui (n : CoreN) (rd : RegN) (imm : BitVec 16) (s : State) : Out :=
  s.issueCore n [] 1 fun c => Core.next (c.setR rd (zext16 imm <<< 16))

/-! ## Branches and jumps (R352) -/

/-- A branch takes 2 cycles when it is taken, else 1. -/
def State.branchOp (s : State) (n : CoreN) (ra rb : RegN) (off : BitVec 16) (cond : Word → Word → Bool) : Out :=
  s.issueCore n [ra, rb] 1 fun k => if cond (k.r ra) (k.r rb) then (k.goto (k.target16 off)).tick 1 else k.next
def execBeq (n : CoreN) (ra rb : RegN) (off : BitVec 16) (s : State) : Out := s.branchOp n ra rb off fun a b => a == b
def execBne (n : CoreN) (ra rb : RegN) (off : BitVec 16) (s : State) : Out := s.branchOp n ra rb off fun a b => a != b
def execBlt (n : CoreN) (ra rb : RegN) (off : BitVec 16) (s : State) : Out := s.branchOp n ra rb off fun a b => a.slt b
def execBge (n : CoreN) (ra rb : RegN) (off : BitVec 16) (s : State) : Out := s.branchOp n ra rb off fun a b => !a.slt b
def execBltu (n : CoreN) (ra rb : RegN) (off : BitVec 16) (s : State) : Out := s.branchOp n ra rb off fun a b => a.ult b
def execBgeu (n : CoreN) (ra rb : RegN) (off : BitVec 16) (s : State) : Out := s.branchOp n ra rb off fun a b => !a.ult b
def execJ (n : CoreN) (off : BitVec 26) (s : State) : Out := s.issueCore n [] 2 fun k => k.goto (k.target26 off)
def execJr (n : CoreN) (ra : RegN) (s : State) : Out := s.issueCore n [ra] 2 fun k => k.goto (k.r ra)
def execJalr (n : CoreN) (rd ra : RegN) (s : State) : Out :=
  s.issueCore n [ra] 2 fun k => Core.goto (k.setR rd (k.pc + 4)) (k.r ra)

/-! ## The multiplier and division (R352 to R357) -/

def State.mpOp (s : State) (n : CoreN) (m : Fin 4) (ra rb : RegN) (fn : Nat) : Out :=
  s.issueCore n [ra, rb] 1 fun k => Core.next (k.mpIssue m fn (k.r ra) (k.r rb))
def execMul (n : CoreN) (m : Fin 4) (ra rb : RegN) (s : State) : Out := s.mpOp n m ra rb 0
def execMulu (n : CoreN) (m : Fin 4) (ra rb : RegN) (s : State) : Out := s.mpOp n m ra rb 1
def execMac (n : CoreN) (m : Fin 4) (ra rb : RegN) (s : State) : Out := s.mpOp n m ra rb 2
def execMacu (n : CoreN) (m : Fin 4) (ra rb : RegN) (s : State) : Out := s.mpOp n m ra rb 3
def execMsu (n : CoreN) (m : Fin 4) (ra rb : RegN) (s : State) : Out := s.mpOp n m ra rb 4
def execMacs (n : CoreN) (m : Fin 4) (ra rb : RegN) (s : State) : Out := s.mpOp n m ra rb 5
def execMtmp (n : CoreN) (m : Fin 4) (ra : RegN) (s : State) : Out :=
  s.issueCore n [ra] 1 fun k => Core.next (k.mpIssue m 6 (k.r ra) 0)
def execMtmp2 (n : CoreN) (m : Fin 4) (ra rb : RegN) (s : State) : Out := s.mpOp n m ra rb 7
/-- An SH above 32 is an illegal instruction (R355). -/
def execMfmp (n : CoreN) (rd : RegN) (m : Fin 4) (sh : Fin 64) (rnd sat : Bool) (s : State) : Out :=
  s.issue n [] fun (s : State) =>
    let k := s.core n
    if 32 < sh.val then s.exception n 1 k.pc (mfmpWord rd m sh rnd sat)
    else s.setCore n (Core.tick (Core.next (k.setR rd (mfmpValue k.mp[m] sh rnd sat))) 1)
def State.divOp (s : State) (n : CoreN) (rd ra rb : RegN) (f : Word → Word → Word) : Out :=
  s.issueCore n [ra, rb] 34 fun k => Core.next (k.setR rd (f (k.r ra) (k.r rb)))
def execDiv (n : CoreN) (rd ra rb : RegN) (s : State) : Out := s.divOp n rd ra rb divS
def execDivu (n : CoreN) (rd ra rb : RegN) (s : State) : Out := s.divOp n rd ra rb divU
def execRem (n : CoreN) (rd ra rb : RegN) (s : State) : Out := s.divOp n rd ra rb remS
def execRemu (n : CoreN) (rd ra rb : RegN) (s : State) : Out := s.divOp n rd ra rb remU

/-! ## Special registers and system instructions (R343, R352, R363, R368, R373) -/

def execMfs (n : CoreN) (rd : RegN) (idx : Byte) (s : State) : Out :=
  s.issue n [] fun (s : State) =>
    let k := s.core n
    match k.readSpecial n idx.toNat with
    | some (v, k) => s.setCore n (Core.tick (Core.next (k.setR rd v)) 1)
    | none => s.exception n 1 k.pc (mfsWord rd idx.toNat)
/-- LSTEST is honoured while SAFE is 1 and SAF_CTRL.LOCK is 0 (R373). -/
def State.lstestOk (s : State) : Bool := s.safe && !s.bit safCtrl 31
def execMts (n : CoreN) (ra : RegN) (idx : Byte) (s : State) : Out :=
  s.issue n [ra] fun (s : State) =>
    let k := s.core n
    let v := k.r ra
    let k := k.puts n (.special idx.toNat v)
    if n.val = 9 ∧ idx = 0x21 then
      let k := if v.getLsbD 0 && s.lstestOk then { k with lsArm := some true } else k
      s.setCore n (k.next.tick 1)
    else match k.writeSpecial idx.toNat v with
      | some k => s.setCore n (k.next.tick (if idx = 0 ∨ idx = 4 ∨ 0x11 ≤ idx.toNat then 3 else 1))
      | none => s.exception n 1 k.pc (mtsWord ra idx.toNat)
/-- A write of LSTEST bit 0 by the island; `hit` tells whether its comparator will see the forced mismatch at the next store (R373). -/
def execLstest (hit : Bool) (s : State) : Out :=
  s.issue 9 [] fun (s : State) =>
    let k := Core.puts 9 (s.core 9) (.special 0x21 1)
    let k := if s.lstestOk then { k with lsArm := some hit } else k
    s.setCore 9 (k.next.tick 1)
def execHret (n : CoreN) (s : State) : Out :=
  s.issue n [] fun (s : State) => State.finish (s.quiesce n) n fun k =>
    Core.tick { k with pc := k.epc &&& 0xFFFFFFFC, status := statusOf (k.epc.getLsbD 0) false } 3
def execWfi (n : CoreN) (s : State) : Out := s.issueCore n [] 1 fun k => { k.next with wfi := true }
def execFence (n : CoreN) (s : State) : Out :=
  s.issue n [] fun (s : State) => State.finish (s.waitStores n) n fun k => k.next.tick 1
def execFenceI (n : CoreN) (s : State) : Out :=
  s.issue n [] fun (s : State) => State.finish (s.waitStores n) n fun k => k.next.tick 4
def execBreakI (n : CoreN) (s : State) : Out :=
  s.issue n [] fun (s : State) => State.exception (s.setCore n ((s.core n).tick 1)) n 9 (s.core n).pc 0
def execTrap (n : CoreN) (code : Fin 32) (s : State) : Out :=
  s.issue n [] fun (s : State) =>
    State.exception (s.setCore n ((s.core n).tick 1)) n 8 ((s.core n).pc + 4) (BitVec.ofNat 32 code.val)

/-! ## Boundaries without an instruction (R364, R367, R369) -/

def execInterruptTake (n : CoreN) (s : State) : Out :=
  if !s.coreOn n || !(s.core n).atBoundary then .next s
  else
  let s0 := s
  let s := s.wake n
  let k := s.core n
  if k.posted.isSome then s0.unlessHeld (s.exception n 6 k.pc 0)
  else if k.interruptDue then s0.unlessHeld (s.takeInterrupt n)
  else .next s
/-- A posted store completes at its target. -/
def execPostedStoreComplete (n : CoreN) (chk : Check) (s : State) : Out :=
  match (s.core n).stores with
  | p :: _ => if s.storeWaits p.addr then .next s else .next (s.storeOne n chk)
  | [] => .next s
/-- A stop is complete: the instruction has completed, its MP writes have landed, its store buffer has emptied. A RUN written
meanwhile takes effect (R369). A core that waits in WFI stops when the wait ends (log entry 40). -/
def execHaltComplete (n : Fin 8) (s : State) : Out :=
  let c : CoreN := toFin 10 n
  let k := s.core c
  if s.coreOn c && k.stopping && k.pend.isNone && !k.waiting then
    s.unlessHeld (State.finish (s.quiesce c) c fun k => { k with stopping := false, running := k.runAgain, runAgain := false })
  else .next s

end Sys2Proof.Machine
end

