-- ==== Sys2Proof/Machine/HelmMem.lean ====
section
/-!
DEFINITION. Loads, stores, CALL and RET frames and atomics of the Helm cores (R344 to R348, R359 to R361).
-/
namespace Sys2Proof.Machine

/-! ## Loads (R344 to R346) -/

def loadValue (kind : Nat) (bs : List Byte) : Word :=
  let x := ofLE bs
  if kind = 0 ∨ kind = 2 ∨ kind = 4 then BitVec.ofNat 32 x
  else if kind = 1 then (BitVec.ofNat 16 x).signExtend 32 else (BitVec.ofNat 8 x).signExtend 32
/-- A load. A non-local one waits for the store buffer and then for its reply. -/
def State.loadOp (s : State) (n : CoreN) (rd ra : RegN) (imm : BitVec 16) (kind : Nat) (ecc : Ecc) : Out :=
  s.issue n [ra] fun (s : State) =>
    let k := s.core n
    let ea := k.r ra + sext16 imm
    let s := s.setCore n (k.puts n (.load ea (loadSize kind)))
    if ea.toNat % loadSize kind ≠ 0 then s.exception n 3 k.pc ea
    else if localHole ea then s.exception n 4 k.pc ea
    else if isLocal ea then
      match s.localRead n ea (loadSize kind) ecc with
      | (some bs, s) =>
        let k := Core.tick (Core.next ((s.core n).setR rd (loadValue kind bs))) 1
        s.setCore n { k with loaded := if rd = 0 then none else some rd }
      | (none, s) => s.exception n 7 k.pc ea
    else State.finish (s.drainStores n) n fun k => { k with pend := some { rd, addr := k.segAddr ea, ea, kind, gate := s.gateOf (k.segAddr ea) } }
def execLw (n : CoreN) (rd ra : RegN) (imm : BitVec 16) (ecc : Ecc) (s : State) : Out := s.loadOp n rd ra imm 0 ecc
def execLh (n : CoreN) (rd ra : RegN) (imm : BitVec 16) (ecc : Ecc) (s : State) : Out := s.loadOp n rd ra imm 1 ecc
def execLhu (n : CoreN) (rd ra : RegN) (imm : BitVec 16) (ecc : Ecc) (s : State) : Out := s.loadOp n rd ra imm 2 ecc
def execLb (n : CoreN) (rd ra : RegN) (imm : BitVec 16) (ecc : Ecc) (s : State) : Out := s.loadOp n rd ra imm 3 ecc
def execLbu (n : CoreN) (rd ra : RegN) (imm : BitVec 16) (ecc : Ecc) (s : State) : Out := s.loadOp n rd ra imm 4 ecc
/-- The reply to a non-local load, after `stall` cycles of waiting: the access is made, and the core goes on. -/
def execLoadReply (n : CoreN) (chk : Check) (stall : Nat) (s : State) : Out :=
  let s0 := s
  let k := s.core n
  match k.pend with
  | some q =>
    if !s.coreOn n || s.memWaits q.addr && !q.lost then .next s
    else
      let (d, s) := State.loadReply (s.setCore n { k with pend := none }) (coreReq n) q chk
      match d with
      | some bs =>
        let k := Core.tick (Core.next ((s.core n).setR q.rd (loadValue q.kind bs))) (1 + stall)
        .next (s.setCore n { k with loaded := if q.rd = 0 then none else some q.rd })
      | none => s0.unlessHeld (State.exception (s.setCore n ((s.core n).tick stall)) n 4 (s.core n).pc q.ea)
  | none => .next s

/-! ## Stores (R344 to R346) -/

/-- A store of `size` bytes at ea: the code of the exception it raises, or the state after it. A non-local one is posted; one that
finds four in the buffer first waits for the oldest. `nonloc` allows non-local addresses (R384). -/
def State.coreStore (s : State) (n : CoreN) (ea v : Word) (size : Nat) (nonloc : Bool) : Option Nat × State :=
  if ea.toNat % size ≠ 0 then (some 3, s)
  else if localHole ea then (some 5, s)
  else if isLocal ea then (none, State.setCore (s.store (localBase n + ea.toNat) (toLE size v.toNat)) n ((s.core n).putsStore n ea v size))
  else if !nonloc then (some 5, s)
  else
    let s := s.setCore n ((s.core n).putsStore n ea v size)
    let s := if 4 ≤ (s.core n).stores.length then (s.storeOne n).stallFree n else s
    (none, s.finish n fun k => { k with stores := k.stores ++ [{ addr := k.segAddr ea, ea, size, val := v, gate := s.gateOf (k.segAddr ea) }] })
def State.storeOp (s : State) (n : CoreN) (rs ra : RegN) (imm : BitVec 16) (size : Nat) : Out :=
  s.issue n [rs, ra] fun (s : State) =>
    let k := s.core n
    let ea := k.r ra + sext16 imm
    match s.coreStore n ea (k.r rs) size true with
    | (some code, s) => s.exception n code k.pc ea
    | (none, s) => s.finish n fun k => k.next.tick 1
def execSw (n : CoreN) (rs ra : RegN) (imm : BitVec 16) (s : State) : Out := s.storeOp n rs ra imm 4
def execSh (n : CoreN) (rs ra : RegN) (imm : BitVec 16) (s : State) : Out := s.storeOp n rs ra imm 2
def execSb (n : CoreN) (rs ra : RegN) (imm : BitVec 16) (s : State) : Out := s.storeOp n rs ra imm 1

/-! ## CALL and RET (R359 to R361) -/

/-- Stores of a frame, word by word: the EA that faults, if one does. Non-local stores are not posted. -/
def State.frameStore (s : State) (n : CoreN) (ea : Word) : List Word → Option Word × State
  | [] => (none, s)
  | v :: vs =>
    if localHole ea then (some ea, s)
    else
    let s := s.setCore n ((s.core n).putsStore n ea v 4)
    if isLocal ea then State.frameStore (s.store (localBase n + ea.toNat) (toLE 4 v.toNat)) n (ea + 4) vs
    else
      let s := (s.waitStores n).stallFree n
      match s.busWrite (coreReq n) ((s.core n).segAddr ea) (toLE 4 v.toNat) {} with
      | (true, t) => State.frameStore t n (ea + 4) vs
      | (false, t) => (some ea, t)
/-- Loads of a frame, each word with what its check finds: the words, or the code and the EA of the fault. -/
def State.frameLoad (s : State) (n : CoreN) (ea : Word) : Nat → List Ecc → (List Word × Option (Nat × Word)) × State
  | 0, _ => (([], none), s)
  | i + 1, eccs =>
    if localHole ea then (([], some (4, ea)), s)
    else
      let s := s.setCore n ((s.core n).puts n (.load ea 4))
      let x : Option (List Byte) × State :=
        if isLocal ea then s.localRead n ea 4 (eccs.headD .clean)
        else
          let s := (s.waitStores n).stallFree n
          s.busRead (coreReq n) ((s.core n).segAddr ea) 4 { ecc := eccs.take 1 }
      match x with
      | (some bs, t) =>
        let ((ws, f), t) := State.frameLoad t n (ea + 4) i eccs.tail
        ((loadValue 0 bs :: ws, f), t)
      | (none, t) => (([], some (if isLocal ea then 7 else 4, ea)), t)
def State.callOp (s : State) (n : CoreN) (mask : BitVec 10) (srcs : List RegN) (target : Core → Word) : Out :=
  s.issue n ([1, 2] ++ maskRegs mask ++ srcs) fun (s : State) =>
    let k := s.core n
    let rs := maskRegs mask
    let sp := k.r 2 - BitVec.ofNat 32 (4 * (rs.length + 1))
    if (k.r 2).toNat % 4 ≠ 0 then s.exception n 3 k.pc sp
    else
      let dest := target k
      match s.frameStore n sp (k.r 1 :: rs.map k.r) with
      | (some ea, s) => s.exception n 5 k.pc ea
      | (none, s) => s.finish n fun k => Core.tick (Core.goto ((k.setR 2 sp).setR 1 (k.pc + 4)) dest) (rs.length + 2)
def execCall (n : CoreN) (mask : BitVec 10) (off : BitVec 16) (s : State) : Out := s.callOp n mask [] fun k => k.target16 off
def execCallr (n : CoreN) (mask : BitVec 10) (ra : RegN) (s : State) : Out := s.callOp n mask [ra] fun k => k.r ra
def execRet (n : CoreN) (mask : BitVec 10) (eccs : List Ecc) (s : State) : Out :=
  s.issue n [1, 2] fun (s : State) =>
    let k := s.core n
    let rs := maskRegs mask
    let sp := k.r 2
    if sp.toNat % 4 ≠ 0 then s.exception n 3 k.pc sp
    else
      match s.frameLoad n sp (rs.length + 1) eccs with
      | ((link :: vs, none), s) => s.finish n fun k =>
          let back := k.r 1
          let k := (rs.zip vs).foldl (fun (k : Core) x => k.setR x.1 x.2) (k.setR 1 link)
          Core.tick (Core.goto (k.setR 2 (sp + BitVec.ofNat 32 (4 * (rs.length + 1)))) back) (rs.length + 3)
      | ((_, some (code, ea)), s) => s.exception n code k.pc ea
      | (([], none), s) => s

/-! ## Atomics (R348) -/

/-- An atomic; one of a Binnacle core reaches period SRAM only while the compute die is in Run. A word in error gives an error response. Its
write is stalled while its slot is latched (R86), and the instruction with it. -/
def State.atomicOp (s : State) (n : CoreN) (rd ra rb : RegN) (f : Word → Word → Word) : Out :=
  s.issue n [ra, rb] fun (s : State) =>
    let k := s.core n
    let ea := k.r ra
    let a := k.segAddr ea
    if ea.toNat % 4 ≠ 0 then s.exception n 3 k.pc ea
    else if isLocal ea || !isPeriodSram a || !s.dieOk a || (decide (8 ≤ n.val) && s.clk.power != .run) then s.exception n 4 k.pc ea
    else if s.bad a 4 then State.exception (s.sramFault a) n 4 k.pc ea
    else
      let s := (s.drainStores n).stallFree n
      let old := BitVec.ofNat 32 (s.le a 4)
      let v := f old (k.r rb)
      let s := State.setCore (s.sramWrite a (toLE 4 v.toNat)) n (Core.putsStore n ((s.core n).puts n (.load ea 4)) ea v 4)
      s.finish n fun k => Core.tick (Core.next (k.setR rd old)) 16
def execAtxch (n : CoreN) (rd ra rb : RegN) (s : State) : Out := s.atomicOp n rd ra rb fun _ b => b
def execAtadd (n : CoreN) (rd ra rb : RegN) (s : State) : Out := s.atomicOp n rd ra rb fun a b => a + b
def execAtand (n : CoreN) (rd ra rb : RegN) (s : State) : Out := s.atomicOp n rd ra rb fun a b => a &&& b
def execAtorr (n : CoreN) (rd ra rb : RegN) (s : State) : Out := s.atomicOp n rd ra rb fun a b => a ||| b

end Sys2Proof.Machine
end

