-- ==== Sys2Proof/Machine/Hubs.lean ====
section
/-!
DEFINITION. A cell hub: resolution and hold policy (R189 to R192), marks (R200, R201), uplinks (R206), downlink frames (R210 to
R217), dual uplinks (R220, R221), configuration (R204, R525).
-/
namespace Sys2Proof.Machine

/-! ## Downlink frames as received -/

/-- The frame with the RTX bits of CTL taken as 0, without its CRC (R526). -/
def baseCrcOf (bs : List Byte) : Nat :=
  let body := bs.take (bs.length - 4)
  crc32 (body.take 4 ++ [(bs.getD 4 0) &&& 0xF3#8] ++ body.drop 5)

/-- The fields of a downlink frame whose length is that of its NC (R210). -/
def parseFrame (bs : List Byte) : Option DFrame :=
  let kind := byteAt bs 0
  let nc := byteAt bs 6
  let w := if kind = 0x21 then 4 else 2
  if bs.length = 16 + w * nc then
    some { kind, hub := byteAt bs 1 % 64, pcnt := leAt bs 2 2, prob := byteAt bs 4 % 4, rtx := byteAt bs 4 / 4 % 4,
           role := (byteAt bs 4).testBit 4, seq := byteAt bs 5, pseq := byteAt bs 7, cmask := leAt bs 8 2, pchk := leAt bs 10 2,
           words := (List.range nc).map fun i => leAt bs (12 + w * i) w }
  else none

/-- Well formed (R211); a KIND of no row is not. -/
def DFrame.wellFormed (f : DFrame) : Bool :=
  let nc := f.words.length
  if f.kind = 0x11 ∨ f.kind = 0x12 ∨ f.kind = 0x14 then nc == popcount f.cmask 16
  else if f.kind = 0x13 then nc == 0
  else if f.kind = 0x21 then
    decide (1 ≤ nc ∧ nc ≤ 16) && f.cmask == 0 && f.pseq == 0 && f.pchk == 0 && f.words.all fun w => decide (w % 256 ≤ 3)
  else false

def Hub.ack (k : Hub) (portB : Bool) (seq hub result : Nat) : Hub :=
  { k with out := (portB, toLE 1 0x2D ++ toLE 1 seq ++ toLE 1 hub ++ toLE 1 result) :: k.out }
def Hub.countDl (k : Hub) : Hub := { k with dlCnt := satInc k.dlCnt 255 }

/-- The parameters of an HPAR frame wait for the next mark (R204). -/
def Hub.takeHpar (k : Hub) (portB : Bool) (f : DFrame) : Hub :=
  { k with pendPar := k.pendPar ++ f.words.map fun w => (w % 256, w / 256, portB) }

/-- Apply one parameter (R204): HUB, DLY of the port, HCDL, UPOFS. -/
def Hub.applyPar (k : Hub) (e : Nat × Nat × Bool) : Hub :=
  if e.1 = 0 then { k with num := some (e.2.1 % 64) }
  else if e.1 = 1 then
    if e.2.2 then { k with dlyB := some (e.2.1 % 2 ^ 17) } else { k with dlyA := some (e.2.1 % 2 ^ 17) }
  else if e.1 = 2 then { k with hcdl := some (e.2.1 % 2 ^ 17) }
  else { k with upofs := some (e.2.1 % 2 ^ 10) }

/-- Commands of a frame for the positions of its mask. -/
def frameCmds (cmask : Nat) (words : List Nat) : List (Nat × Nat) := (setBitsOf cmask 16).zip words
def Hub.resolve (k : Hub) (cmds : List (Nat × Nat)) : Hub :=
  { k with cells := Vector.ofFn fun i : Fin 16 => match look cmds i with
      | some w => { k.cells[i] with next := some w }
      | none => k.cells[i] }

/-- The provisional frame of the same port that a commit or cancel matches (R211, R221). -/
def Hub.matchProv (k : Hub) (portB : Bool) (f : DFrame) : Option HubRx :=
  k.rx.find? fun r => r.portB == portB && r.frame.kind == 0x11 && r.frame.prob == f.prob && r.frame.pcnt == f.pcnt &&
    r.frame.seq == f.pseq && r.base % 65536 == f.pchk && (f.kind != 0x13 || r.frame.cmask == f.cmask)

/-- A command, commit or cancel frame received in time: the hub's state and the result (R189, R217, R221). A commit without matching
provisional commands resolves nothing, so it is no second resolving frame. -/
def Hub.accept (k : Hub) (portB : Bool) (f : DFrame) : Hub × Nat :=
  let other := f.role && k.rx.any fun r => r.portB != portB && r.frame.role && r.frame.kind != 0x21 && r.frame.prob == f.prob
  let k := if other then { k with roleC := true } else k
  let cmds := if f.kind = 0x13 then (k.matchProv portB f).map fun r => frameCmds r.frame.cmask r.frame.words
    else some (frameCmds f.cmask f.words)
  if f.kind = 0x11 ∨ k.dual && !f.role then (k, 0)
  else match cmds with
    | none => (k, 2)
    | some c =>
      if k.solved.any fun x => x.1 == f.prob then ({ k with dupErr := true }, 3)
      else ({ k.resolve c with solved := (f.prob, portB) :: k.solved }, 0)

/-- A configured hub receives a frame whose last bit arrives tNs after its hub mark. -/
def Hub.receive (k : Hub) (portB : Bool) (bs : List Byte) (tNs : Nat) : Hub :=
  match (if crcOk bs then parseFrame bs else none).filter DFrame.wellFormed with
  | none => { k.countDl with dlErr := true }
  | some f =>
    if k.num ≠ some f.hub then k
    else
      let k := { k with lastSeq := f.seq }
      let base := baseCrcOf bs
      match k.rx.find? fun r => r.portB == portB && r.frame.seq == f.seq && r.frame.kind == f.kind && r.base == base with
        | some r => k.ack portB f.seq f.hub r.result
        | none =>
          if f.kind = 0x21 then
            Hub.ack { k.takeHpar portB f with rx := k.rx ++ [{ portB, frame := f, base, result := 0 }] } portB f.seq f.hub 0
          else if (f.pcnt + 1) % 65536 ≠ (k.pcnt + 1) % 65536 ∨ tNs > 10 * k.hcdl.getD 0 then
            ({ k.countDl with late := true }).ack portB f.seq f.hub 1
          else
            let (k, res) := k.accept portB f
            Hub.ack { k with rx := k.rx ++ [{ portB, frame := f, base, result := res }] } portB f.seq f.hub res

/-- An unconfigured hub takes intact, well-formed HPAR frames only, each once (R217, R525); LASTSEQ follows every intact frame (R206). -/
def Hub.receiveUnconfigured (k : Hub) (portB : Bool) (bs : List Byte) : Hub :=
  match (if crcOk bs then parseFrame bs else none).filter DFrame.wellFormed with
  | some f =>
    let k := { k with lastSeq := f.seq }
    let base := baseCrcOf bs
    if f.kind ≠ 0x21 then k
    else if k.rx.any fun r => r.portB == portB && r.frame.seq == f.seq && r.base == base then k.ack portB f.seq f.hub 0
    else Hub.ack { k.takeHpar portB f with rx := k.rx ++ [{ portB, frame := f, base, result := 0 }] } portB f.seq f.hub 0
  | none => k

def execHubDownlinkFrame (h : HubN) (portB : Bool) (bytes : List Byte) (tNs : Nat) (s : State) : Out :=
  let k := s.hub h
  if portB && !k.dual then .next s
  else .next (s.setHub h (if k.configured then k.receive portB bytes tNs else k.receiveUnconfigured portB bytes))

/-! ## Marks -/

/-- A MARK block on a port: its ROLE counts for the timing port of the next mark; on the timing port it gives the mark's count and
the length of the period (R200, R220). Before the hub has timed a mark, the port whose block carries ROLE 1 alone is the timing port. A block
that comes after its mark has been counted as having none changes nothing of that count (R201). -/
def execHubMarkBlock (h : HubN) (portB : Bool) (pcnt : BitVec 16) (_ofs : BitVec 7) (role : Bool) (len : BitVec 24) (s : State) :
    Out :=
  let k := s.hub h
  if portB && !k.dual then .next s else
  let k := if portB then { k with roleB := role } else { k with roleA := role }
  let k := { k with timingB := if k.timed || k.roleA == k.roleB then k.timingB else k.roleB }
  if portB = k.timingB ∧ ¬ (k.gotBlock = true ∧ k.absent ≠ 0) then
    .next (s.setHub h { k with timed := true, gotBlock := true, pcnt := pcnt.toNat, len := len.toNat, absent := 0, blockAll := false })
  else .next (s.setHub h k)

/-- No MARK block for the mark by its time and margin (R201). -/
def execHubMarkAbsent (h : HubN) (s : State) : Out :=
  let k := s.hub h
  if k.timed && !k.gotBlock then .next (s.setHub h { k with absent := k.absent + 1, markLost := true, gotBlock := true })
  else .next s

/-- A cell at a hub mark (R189, R191). -/
def HubCell.atMark (c : HubCell) (resolve : Bool) : HubCell :=
  match resolve, c.next with
  | true, some w => { state := if w % 4 = 3 then 2 else w % 4, hold := 0 }
  | _, _ => let n := Nat.min (c.hold + 1) 3; { state := if n = 3 then 2 else c.state, hold := n }

/-- The hub mark: samples are taken, then parameters and resolved states apply, or the hold policy (R30, R189 to R192, R201). -/
def Hub.atMark (k : Hub) (samples : List Sample) : Hub :=
  let before := k.cells.toList.map fun c => c.state
  let lost := k.absent ≥ 3
  let block : HubCell → HubCell := fun c => { c.atMark false with state := 2 }
  let cells := if !k.configured then Vector.replicate 16 {} else if lost then k.cells.map block
    else k.cells.map fun c => c.atMark (!k.blockAll)
  let k := k.pendPar.foldl Hub.applyPar k
  { k with
    pendPar := [], pcnt := (k.pcnt + 1) % 65536, gotBlock := false, cells, before, samples := samples.take 16, rx := [], solved := [],
    blockAll := k.blockAll || lost, upstat := none, out := [],
    timingB := if k.roleA = k.roleB || !k.dual then k.timingB else k.roleB,
    configured := k.configured || (k.num.isSome && (k.dlyA.isSome || k.dlyB.isSome) && k.hcdl.isSome && k.upofs.isSome) }
def execHubMark (h : HubN) (samples : List Sample) (s : State) : Out :=
  let k := s.hub h
  if k.timed then .next (s.setHub h (k.atMark samples)) else .next s

/-! ## Uplinks and delay measurement -/

/-- One cell's record (R206): PSTATE is the state before the mark's switching, HOLD the count at the uplink (DEDUCED, log entry 42). -/
def sampleRec (x : Sample) (pstate hold : Nat) : List Byte :=
  toLE 2 x.vcap.toNat ++ toLE 2 x.icell.toNat ++ toLE 2 x.temp.toNat ++
  toLE 1 (pstate + 4 * hold + 16 * b2n x.svc + 32 * b2n x.perm + 64 * b2n x.gdf) ++ [x.fcode] ++
  toLE 2 x.sofs.toNat ++ toLE 2 x.aux.toNat

/-- The uplink frame of the last mark (R206). -/
def Hub.uplink (k : Hub) (portB : Bool) (hstat : Nat) : List Byte :=
  withCrc (toLE 1 1 ++ toLE 1 (k.num.getD 0 + 64 * b2n portB) ++ toLE 2 k.pcnt ++ toLE 1 k.samples.length ++ toLE 1 hstat ++
    toLE 1 k.lastSeq ++ toLE 1 k.dlCnt ++ (k.samples.zip (k.before.zip k.cells.toList)).flatMap fun x => sampleRec x.1 x.2.1 x.2.2.hold)

/-- A configured hub sends its uplink on a port, once it has marks; both ports of a mark carry the same HSTAT (R206, R220). -/
def execHubUplink (h : HubN) (portB : Bool) (supply : Bool) (s : State) : Out :=
  let k := s.hub h
  if k.configured && (k.dual || !portB) then
    let st := k.upstat.getD (b2n k.markLost + 2 * b2n k.dlErr + 4 * b2n k.late + 8 * b2n k.dupErr + 16 * b2n k.roleC + 32 * b2n supply)
    let k := if k.upstat.isSome then k else
      { k with upstat := some st, markLost := false, dlErr := false, late := false, dupErr := false, roleC := false }
    .next (s.setHub h { k with out := (portB, k.uplink portB st) :: k.out })
  else .next s

/-- A DREQ block is answered with a DECHO block (R202, R525); a control block of another type is discarded (R197). -/
def execHubDreq (h : HubN) (portB : Bool) (typ token : Byte) (turn : BitVec 16) (s : State) : Out :=
  let k := s.hub h
  if typ = 0x4B ∧ (k.dual || !portB) then
    .next (s.setHub h { k with out := (portB, toLE 1 0x55 ++ [token] ++ toLE 2 turn.toNat) :: k.out })
  else .next s

/-- Ten milliseconds without downlink block lock on any port (R525): every cell blocked with its count at 3 (R191). -/
def execHubUnconfigure (h : HubN) (s : State) : Out :=
  let k := s.hub h
  .next (s.setHub h { k with configured := false, num := none, dlyA := none, dlyB := none, hcdl := none, upofs := none, pendPar := [],
                             cells := Vector.replicate 16 {}, rx := [], solved := [] })
/-- Power-up of a hub with one uplink or two (R191, R220, R525). -/
def execHubPowerUp (h : HubN) (dual : Bool) (s : State) : Out := .next (s.setHub h { dual })

end Sys2Proof.Machine
end

