-- ==== Sys2Proof/Machine/HelmWord.lean ====
section
/-!
DEFINITION. The instruction words of the Helm cores (R350 to R353, R355): the decoder, which refuses every word that R351 calls illegal, and
the encoder. A load, and the frame of a RET, decode with clean checks. Custom opcodes are in Machine/Micro.lean.
-/
namespace Sys2Proof.Machine

/-! ## Fields of R350 -/

def wOp (x : Nat) : Nat := bits x 31 26
def wRd (x : Nat) : RegN := toFin 32 (bits x 25 21)
def wRa (x : Nat) : RegN := toFin 32 (bits x 20 16)
def wRb (x : Nat) : RegN := toFin 32 (bits x 15 11)
def wFn (x : Nat) : Nat := bits x 10 0
def wImm (x : Nat) : BitVec 16 := BitVec.ofNat 16 x
def wMask (x : Nat) : BitVec 10 := BitVec.ofNat 10 (bits x 25 16)
/-- The MP index of opcodes 0x1C and 0x1E, in rd, and of MFMP, in ra; what those fields hold besides must be 0. -/
def wMd (x : Nat) : Fin 4 := toFin 4 (bits x 22 21)
def wMa (x : Nat) : Fin 4 := toFin 4 (bits x 17 16)
def legal (ok : Bool) (i : Instr) : Option Instr := if ok then some i else none

/-! ## The decoder -/

/-- The ALU group (R353). -/
def decodeAlu (n : CoreN) (x : Nat) : Option Instr :=
  let d := wRd x
  let a := wRa x
  let b := wRb x
  match wFn x with
  | 0x00 => some (.add n d a b) | 0x01 => some (.sub n d a b) | 0x02 => some (.and n d a b) | 0x03 => some (.or n d a b)
  | 0x04 => some (.xor n d a b) | 0x05 => some (.sll n d a b) | 0x06 => some (.srl n d a b) | 0x07 => some (.sra n d a b)
  | 0x08 => some (.slt n d a b) | 0x09 => some (.sltu n d a b) | 0x0A => some (.min n d a b) | 0x0B => some (.max n d a b)
  | 0x0C => some (.minu n d a b) | 0x0D => some (.maxu n d a b) | 0x0E => some (.adds n d a b) | 0x0F => some (.subs n d a b)
  | 0x10 => legal (b == 0) (.clz n d a)
  | 0x11 => legal (b == 0) (.abs n d a)
  | _ => none
/-- Opcode 0x1C: the multiplier. -/
def decodeMul (n : CoreN) (x : Nat) : Option Instr :=
  let m := wMd x
  let a := wRa x
  let b := wRb x
  if bits x 25 23 ≠ 0 then none
  else match wFn x with
    | 0 => some (.mul n m a b) | 1 => some (.mulu n m a b) | 2 => some (.mac n m a b)
    | 3 => some (.macu n m a b) | 4 => some (.msu n m a b) | 5 => some (.macs n m a b)
    | _ => none
/-- Opcode 0x22: system instructions. TRAP takes its number from ra; every other field is 0. -/
def decodeSys (n : CoreN) (x : Nat) : Option Instr :=
  let bare := bits x 25 11 == 0
  match wFn x with
  | 0 => legal bare (.hret n) | 1 => legal bare (.wfi n) | 2 => legal bare (.fence n) | 3 => legal bare (.fenceI n)
  | 4 => legal bare (.breakI n)
  | 5 => legal (bits x 25 21 == 0 && bits x 15 11 == 0) (.trap n (toFin 32 (bits x 20 16)))
  | _ => none
/-- The instruction that a word spells for core n; none for an illegal word and for a custom opcode. -/
def decodeHelm (n : CoreN) (w : Word) : Option Instr :=
  let x := w.toNat
  let d := wRd x
  let a := wRa x
  let b := wRb x
  let i := wImm x
  match wOp x with
  | 0x00 => decodeAlu n x
  | 0x01 => some (.addi n d a i) | 0x02 => some (.andi n d a i) | 0x03 => some (.ori n d a i) | 0x04 => some (.xori n d a i)
  | 0x05 => some (.slti n d a i) | 0x06 => some (.sltiu n d a i)
  | 0x07 => legal (bits x 15 7 == 0) (.shi n d a (toFin 4 (bits x 6 5)) (toFin 32 (bits x 4 0)))
  | 0x08 => legal (a == 0) (.lui n d i)
  | 0x09 => some (.lw n d a i .clean) | 0x0A => some (.lh n d a i .clean) | 0x0B => some (.lhu n d a i .clean)
  | 0x0C => some (.lb n d a i .clean) | 0x0D => some (.lbu n d a i .clean)
  | 0x0E => some (.sw n d a i) | 0x0F => some (.sh n d a i) | 0x10 => some (.sb n d a i)
  | 0x11 => some (.beq n d a i) | 0x12 => some (.bne n d a i) | 0x13 => some (.blt n d a i) | 0x14 => some (.bge n d a i)
  | 0x15 => some (.bltu n d a i) | 0x16 => some (.bgeu n d a i)
  | 0x17 => some (.j n (BitVec.ofNat 26 x))
  | 0x18 => match wFn x with
    | 0 => legal (d == 0 && b == 0) (.jr n a)
    | 1 => legal (b == 0) (.jalr n d a)
    | _ => none
  | 0x19 => some (.call n (wMask x) i)
  | 0x1A => legal (wFn x == 0) (.callr n (wMask x) b)
  | 0x1B => legal (i == 0) (.ret n (wMask x) [])
  | 0x1C => decodeMul n x
  | 0x1D => legal (bits x 20 18 == 0 && bits x 15 8 == 0 && decide (bits x 5 0 ≤ 32))
      (.mfmp n d (wMa x) (toFin 64 (bits x 5 0)) (x.testBit 6) (x.testBit 7))
  | 0x1E => if bits x 25 23 ≠ 0 then none else match wFn x with
    | 0 => legal (b == 0) (.mtmp n (wMd x) a)
    | 1 => some (.mtmp2 n (wMd x) a b)
    | _ => none
  | 0x1F => match wFn x with
    | 0 => some (.div n d a b) | 1 => some (.divu n d a b) | 2 => some (.rem n d a b) | 3 => some (.remu n d a b)
    | _ => none
  | 0x20 => legal (a == 0 && bits x 15 8 == 0) (.mfs n d (BitVec.ofNat 8 x))
  | 0x21 => legal (d == 0 && bits x 15 8 == 0) (.mts n a (BitVec.ofNat 8 x))
  | 0x22 => decodeSys n x
  | 0x23 => match wFn x with
    | 0 => some (.atxch n d a b) | 1 => some (.atadd n d a b) | 2 => some (.atand n d a b) | 3 => some (.atorr n d a b)
    | _ => none
  | _ => none

/-! ## The encoder -/

def wordR (op : Nat) (d a b : RegN) (fn : Nat) : Option Word := some (BitVec.ofNat 32 (op * 2 ^ 26 + d.val * 2 ^ 21 + a.val * 2 ^ 16 + b.val * 2 ^ 11 + fn))
def wordI (op : Nat) (d a : RegN) (imm : Nat) : Option Word := some (BitVec.ofNat 32 (op * 2 ^ 26 + d.val * 2 ^ 21 + a.val * 2 ^ 16 + imm))
def wordC (op : Nat) (mask : BitVec 10) (low : Nat) : Option Word := some (BitVec.ofNat 32 (op * 2 ^ 26 + mask.toNat * 2 ^ 16 + low))
def mpReg (m : Fin 4) : RegN := toFin 32 m.val
/-- The word of a command that is an instruction of R352, for the core that it names. -/
def encodeHelm : Instr → Option Word
  | .add _ d a b => wordR 0 d a b 0x00 | .sub _ d a b => wordR 0 d a b 0x01 | .and _ d a b => wordR 0 d a b 0x02
  | .or _ d a b => wordR 0 d a b 0x03 | .xor _ d a b => wordR 0 d a b 0x04 | .sll _ d a b => wordR 0 d a b 0x05
  | .srl _ d a b => wordR 0 d a b 0x06 | .sra _ d a b => wordR 0 d a b 0x07 | .slt _ d a b => wordR 0 d a b 0x08
  | .sltu _ d a b => wordR 0 d a b 0x09 | .min _ d a b => wordR 0 d a b 0x0A | .max _ d a b => wordR 0 d a b 0x0B
  | .minu _ d a b => wordR 0 d a b 0x0C | .maxu _ d a b => wordR 0 d a b 0x0D | .adds _ d a b => wordR 0 d a b 0x0E
  | .subs _ d a b => wordR 0 d a b 0x0F | .clz _ d a => wordR 0 d a 0 0x10 | .abs _ d a => wordR 0 d a 0 0x11
  | .addi _ d a i => wordI 0x01 d a i.toNat | .andi _ d a i => wordI 0x02 d a i.toNat | .ori _ d a i => wordI 0x03 d a i.toNat
  | .xori _ d a i => wordI 0x04 d a i.toNat | .slti _ d a i => wordI 0x05 d a i.toNat | .sltiu _ d a i => wordI 0x06 d a i.toNat
  | .shi _ d a k m => wordI 0x07 d a (k.val * 32 + m.val)
  | .lui _ d i => wordI 0x08 d 0 i.toNat
  | .lw _ d a i _ => wordI 0x09 d a i.toNat | .lh _ d a i _ => wordI 0x0A d a i.toNat | .lhu _ d a i _ => wordI 0x0B d a i.toNat
  | .lb _ d a i _ => wordI 0x0C d a i.toNat | .lbu _ d a i _ => wordI 0x0D d a i.toNat
  | .sw _ d a i => wordI 0x0E d a i.toNat | .sh _ d a i => wordI 0x0F d a i.toNat | .sb _ d a i => wordI 0x10 d a i.toNat
  | .beq _ a b i => wordI 0x11 a b i.toNat | .bne _ a b i => wordI 0x12 a b i.toNat | .blt _ a b i => wordI 0x13 a b i.toNat
  | .bge _ a b i => wordI 0x14 a b i.toNat | .bltu _ a b i => wordI 0x15 a b i.toNat | .bgeu _ a b i => wordI 0x16 a b i.toNat
  | .j _ off => some (BitVec.ofNat 32 (0x17 * 2 ^ 26 + off.toNat))
  | .jr _ a => wordR 0x18 0 a 0 0 | .jalr _ d a => wordR 0x18 d a 0 1
  | .call _ m off => wordC 0x19 m off.toNat | .callr _ m a => wordC 0x1A m (a.val * 2 ^ 11) | .ret _ m _ => wordC 0x1B m 0
  | .mul _ m a b => wordR 0x1C (mpReg m) a b 0 | .mulu _ m a b => wordR 0x1C (mpReg m) a b 1 | .mac _ m a b => wordR 0x1C (mpReg m) a b 2
  | .macu _ m a b => wordR 0x1C (mpReg m) a b 3 | .msu _ m a b => wordR 0x1C (mpReg m) a b 4 | .macs _ m a b => wordR 0x1C (mpReg m) a b 5
  | .mfmp _ d m sh rnd sat => some (mfmpWord d m sh rnd sat)
  | .mtmp _ m a => wordR 0x1E (mpReg m) a 0 0 | .mtmp2 _ m a b => wordR 0x1E (mpReg m) a b 1
  | .div _ d a b => wordR 0x1F d a b 0 | .divu _ d a b => wordR 0x1F d a b 1 | .rem _ d a b => wordR 0x1F d a b 2
  | .remu _ d a b => wordR 0x1F d a b 3
  | .mfs _ d k => some (mfsWord d k.toNat) | .mts _ a k => some (mtsWord a k.toNat)
  | .hret _ => wordR 0x22 0 0 0 0 | .wfi _ => wordR 0x22 0 0 0 1 | .fence _ => wordR 0x22 0 0 0 2 | .fenceI _ => wordR 0x22 0 0 0 3
  | .breakI _ => wordR 0x22 0 0 0 4 | .trap _ c => wordR 0x22 0 c 0 5
  | .atxch _ d a b => wordR 0x23 d a b 0 | .atadd _ d a b => wordR 0x23 d a b 1 | .atand _ d a b => wordR 0x23 d a b 2
  | .atorr _ d a b => wordR 0x23 d a b 3
  | _ => none

end Sys2Proof.Machine
end

