-- ==== Sys2Proof/Machine/Micro.lean ====
section
/-!
DEFINITION. The writable decode table: decode entries (R376 to R378), microwords (R379 to R381), the execution of a custom instruction
(R382 to R387).
-/
namespace Sys2Proof.Machine

/-- The word at offset o of the decode table of core n (R376). -/
def State.tableWord (s : State) (n : CoreN) (o : Nat) : Nat := s.rd ((if n.val < 8 then hlmDt n.val 0 else mgmtDtBase) + o)
/-- The operands that the class gives (R378): RD, RA, RB, RC and IIMM. -/
structure Operands where
  rd : RegN
  ra : RegN
  rb : RegN
  rc : RegN
  iimm : Word
deriving DecidableEq, Repr
def operandsOf (cls : Nat) (ops : BitVec 26) : Operands :=
  let x := ops.toNat
  let rd := toFin 32 (bits x 25 21)
  let ra := toFin 32 (bits x 20 16)
  let rb := toFin 32 (bits x 15 11)
  if cls = 0 then { rd, ra, rb, rc := toFin 32 (bits x 10 6), iimm := BitVec.ofNat 32 (bits x 5 0) }
  else if cls = 1 then { rd, ra, rb := 0, rc := 0, iimm := sext16 (BitVec.ofNat 16 x) }
  else if cls = 2 then { rd, ra, rb := 0, rc := 0, iimm := BitVec.ofNat 32 (bits x 15 0) }
  else { rd, ra, rb, rc := 0, iimm := BitVec.ofNat 32 (bits x 10 0) }

/-- The micro-engine in a custom instruction: the operands' decode-cycle values (RD, RA, RB, RC), IIMM, T0 to T3, LC, Z and N (R380,
R381), the writes to RD, RA and RB held for END (R383), the DST of a LOAD just executed (R382), and what the checks of the LOADs still to come find
(R340, R386). -/
structure Micro where
  op : Operands
  src : List Word
  t : Vector Word 4
  lc : Word
  z : Bool
  n : Bool
  held : List (RegN × Word) := []
  load : Nat := 0
  chks : List Check := []
deriving DecidableEq, Repr
/-- The value a selector names (R380, R383). -/
def Micro.sel (m : Micro) (imm : BitVec 16) (k : Nat) : Word :=
  if k = 0 then 0
  else if k ≤ 4 then m.src.getD (k - 1) 0
  else if k ≤ 8 then m.t[toFin 4 (k - 5)]
  else if k = 9 then sext16 imm
  else if k = 10 then zext16 imm
  else if k = 11 then m.op.iimm
  else m.lc
/-- A write of DST (R380, R383). -/
def Micro.put (m : Micro) (d : Nat) (v : Word) : Micro :=
  if d = 1 then { m with held := m.held ++ [(m.op.rd, v)] }
  else if d = 2 then { m with held := m.held ++ [(m.op.ra, v)] }
  else if d = 3 then { m with held := m.held ++ [(m.op.rb, v)] }
  else if 5 ≤ d ∧ d ≤ 8 then { m with t := m.t.set (toFin 4 (d - 5)) v }
  else if d = 12 then { m with lc := v }
  else m
def Micro.flags (m : Micro) (v : Word) : Micro := { m with z := v == 0, n := v.msb }

/-- A microword (R379). -/
structure UWord where
  fin : Bool
  seq : Nat
  tgt : Nat
  unit : Nat
  fn : Nat
  dst : Nat
  a : Nat
  b : Nat
  mpi : Fin 4
  imm : BitVec 16
deriving DecidableEq, Repr
def uwordOf (x : Nat) : UWord :=
  { fin := x.testBit 63, seq := bits x 62 60, tgt := bits x 59 51, unit := bits x 50 48, fn := bits x 47 43, dst := bits x 42 39,
    a := bits x 38 35, b := bits x 34 31, mpi := toFin 4 (bits x 30 29), imm := BitVec.ofNat 16 x }
/-- No reserved UNIT, SEQ or selector, a DST that suits the unit, a FN of the unit (R381); an SH that R355 allows. SEQ is ignored on
an END microword (R390). -/
def UWord.legal (u : UWord) : Bool :=
  decide (u.unit ≤ 5 ∧ u.a ≤ 12 ∧ u.b ≤ 12) && (u.fin || decide (u.seq ≤ 5)) && [0, 1, 2, 3, 5, 6, 7, 8, 12].contains u.dst &&
  (match u.unit with
   | 0 => decide (u.fn ≤ 0x11)
   | 1 => decide (u.fn ≤ 7 ∧ u.dst = 0)
   | 2 => decide (bits u.imm.toNat 5 0 ≤ 32)
   | 3 => decide (u.fn ≤ 4)
   | 4 => decide (u.fn ≤ 2 ∧ u.dst = 0)
   | _ => true)
/-- The microword reads the selector k: its unit, or SEQ 5, which reads LC. -/
def UWord.reads (u : UWord) (k : Nat) : Bool :=
  (k == 12 && u.seq == 5 && !u.fin) ||
  (decide (u.unit ≠ 2 ∧ u.unit ≠ 5) && u.a == k) ||
  (u.b == k && match u.unit with
   | 0 => decide (u.fn < 0x10)
   | 1 => decide (u.fn ≠ 6)
   | 3 | 4 => true
   | _ => false)

/-- What a microword leads to: the next one, the end, or a fault with its code and EVAL. -/
inductive UStep where
  | next (u : Nat) (m : Micro) (s : State)
  | done (m : Micro) (s : State)
  | fault (code : Nat) (eval : Word) (s : State)

/-- The unit of a microword acts (R381, R384, R386): the engine after it, or the fault. -/
def State.unitOp (s : State) (n : CoreN) (nonloc : Bool) (u : UWord) (m : Micro) : (Micro × State) ⊕ (Nat × Word × State) :=
  let a := m.sel u.imm u.a
  let b := m.sel u.imm u.b
  match u.unit with
  | 0 =>
    let v := alu u.fn a b
    .inl (Micro.put (m.flags v) u.dst v, s)
  | 1 => .inl (m, s.setCore n ((s.core n).mpIssue u.mpi u.fn a b true))
  | 2 =>
    let i := u.imm.toNat
    let v := mfmpValue (s.core n).mp[u.mpi] (bits i 5 0) (i.testBit 6) (i.testBit 7)
    .inl (Micro.put (m.flags v) u.dst v, s)
  | 3 =>
    let ea := a + b
    let size := loadSize u.fn
    let chk := m.chks.headD {}
    let m := { m with chks := m.chks.tail }
    if ea.toNat % size ≠ 0 then .inr (3, ea, s)
    else if localHole ea || !isLocal ea && !nonloc then .inr (4, ea, s)
    else if isLocal ea then
      match s.localRead n ea size (chk.ecc.headD .clean) with
      | (some bs, s) => .inl (m.put u.dst (loadValue u.fn bs), s)
      | (none, s) => .inr (7, ea, s)
    else
      let s := (s.waitStores n).stallFree n
      match s.busRead (coreReq n) ((s.core n).segAddr ea) size chk with
      | (some bs, s) => .inl (m.put u.dst (loadValue u.fn bs), s)
      | (none, s) => .inr (4, ea, s)
  | 4 =>
    let ea := a + sext16 u.imm
    match s.coreStore n ea b (if u.fn = 0 then 4 else if u.fn = 1 then 2 else 1) nonloc with
    | (some code, s) => .inr (code, ea, s)
    | (none, s) => .inl (m, s)
  | _ => .inl (m, s)

/-- SEQ: the next microword, after the unit has acted; SEQ 5 counts LC down. None past address 511 (R385). -/
def UWord.after (u : UWord) (at_ : Nat) (m : Micro) : Option Nat × Micro :=
  let m := if u.seq = 5 then { m with lc := m.lc - 1 } else m
  let jump := match u.seq with
    | 1 => m.z
    | 2 => !m.z
    | 3 => m.n
    | 4 => true
    | 5 => m.lc != 0
    | _ => false
  (if jump then some u.tgt else if at_ < 511 then some (at_ + 1) else none, m)

/-- One microword at address i: one cycle, and one more when it reads the DST of a LOAD just before it (R382). The cycles that it waits are
no microword cycles (R384). `ecc` is the offset of a table word with an uncorrectable error. -/
def State.microword (s : State) (n : CoreN) (nonloc : Bool) (ecc : Option Nat) (word : Word) (i : Nat) (m : Micro) : UStep :=
  let o := 0x400 + 8 * i
  if ecc = some o then .fault 7 (BitVec.ofNat 32 (2 ^ 31 + o)) s
  else
    let u := uwordOf (s.tableWord n o + 2 ^ 32 * s.tableWord n (o + 4))
    if !u.legal then .fault 1 word s
    else
      let k := s.core n
      let s := s.setCore n (Core.landDue (if m.load ≠ 0 ∧ u.reads m.load then (k.tick 1).microDelay 1 else k))
      let begun := (s.core n).cycle
      match s.unitOp n nonloc u { m with load := if u.unit = 3 then u.dst else 0 } with
      | .inr (code, ea, s) => .fault code ea s
      | .inl (m, s) =>
        let waited := ((s.core n).cycle - begun).toNat
        let s := s.setCore n (((s.core n).microDelay waited).tick 1)
        if u.fin then .done m s
        else match u.after i m with
          | (some j, m) => .next j m s
          | (none, _) => .fault 1 word s

/-- Microwords from address i, as many as MAXC allows (R385). -/
def State.microrun (s : State) (n : CoreN) (nonloc : Bool) (ecc : Option Nat) (word : Word) : Nat → Nat → Micro → UStep
  | 0, _, _ => .fault 1 word s
  | f + 1, i, m =>
    match s.microword n nonloc ecc word i m with
    | .next j m t => State.microrun t n nonloc ecc word f j m
    | r => r

/-- The micro-engine at the start: T0 to T3 and LC are undefined, and so are Z and N: free values (R380). -/
def State.microStart (s : State) (n : CoreN) (op : Operands) (chks : List Check) : Micro × State :=
  let k := s.core n
  let (t0, s) := s.freeWord
  let (t1, s) := s.freeWord
  let (t2, s) := s.freeWord
  let (t3, s) := s.freeWord
  let (lc, s) := s.freeWord
  let (z, s) := s.freeBit
  let (nf, s) := s.freeBit
  ({ op, src := [k.r op.rd, k.r op.ra, k.r op.rb, k.r op.rc], t := #v[t0, t1, t2, t3], lc, z, n := nf, chks }, s)
/-- An uncorrectable error in core n's table is recorded (R386, R391). -/
def State.tableUe (s : State) (n : CoreN) : State := if n.val < 8 then s.setBit hlmDtstat (8 + n) true else s

/-- A custom instruction word w, of opcode 0x30 + e (R376 to R387); `ecc` is the offset within the table block of a word in which an
uncorrectable error is met, and `chks` what the checks of its LOADs find. On an island core the opcode is illegal (R339). One that meets an
access which has to wait runs once it can be made (log entry 117). -/
def State.customOp (s : State) (n : CoreN) (word : Word) (ecc : Option Nat) (chks : List Check) : Out :=
  let e := ofsFrom 0x30 (bits word.toNat 31 26)
  let d := s.tableWord n (4 * e)
  let op := operandsOf (bits d 29 28) (word.setWidth 26)
  s.issue n (if n.val = 9 then [] else [op.rd, op.ra, op.rb, op.rc]) fun (s : State) =>
    let pc := (s.core n).pc
    if n.val = 9 then s.exception n 1 pc word
    else if ecc = some (4 * e) then (s.tableUe n).exception n 7 pc (BitVec.ofNat 32 (2 ^ 31 + 4 * e))
    else if !d.testBit 31 || bits d 7 0 == 0 then s.exception n 1 pc word
    else
      let (m, s) := State.microStart (s.setCore n ((s.core n).tick 1)) n op chks
      match s.microrun n (d.testBit 30) ecc word (bits d 7 0) (bits d 24 16) m with
      | .done m s => s.finish n fun k => Core.microOver (Core.next (m.held.foldl (fun (k : Core) x => k.setR x.1 x.2) k))
      | .next _ _ s => s
      | .fault code eval s =>
        -- 0x07 is a table word with EVAL bit 31 set, or a word of local memory
        State.exception (if code = 7 ∧ eval.msb then s.tableUe n else s) n code pc eval

/-! ## The instruction of a word (R350 to R353) -/

/-- A command that is an instruction of R352 runs; `eccs` is what the checks of the local words that it loads find. -/
def runHelm (eccs : List Ecc) (s : State) : Instr → Out
  | .add n d a b => execAdd n d a b s | .sub n d a b => execSub n d a b s | .and n d a b => execAnd n d a b s
  | .or n d a b => execOr n d a b s | .xor n d a b => execXor n d a b s | .sll n d a b => execSll n d a b s
  | .srl n d a b => execSrl n d a b s | .sra n d a b => execSra n d a b s | .slt n d a b => execSlt n d a b s
  | .sltu n d a b => execSltu n d a b s | .min n d a b => execMin n d a b s | .max n d a b => execMax n d a b s
  | .minu n d a b => execMinu n d a b s | .maxu n d a b => execMaxu n d a b s | .adds n d a b => execAdds n d a b s
  | .subs n d a b => execSubs n d a b s | .clz n d a => execClz n d a s | .abs n d a => execAbs n d a s
  | .addi n d a i => execAddi n d a i s | .andi n d a i => execAndi n d a i s | .ori n d a i => execOri n d a i s
  | .xori n d a i => execXori n d a i s | .slti n d a i => execSlti n d a i s | .sltiu n d a i => execSltiu n d a i s
  | .shi n d a k m => execShi n d a k m s | .lui n d i => execLui n d i s
  | .lw n d a i _ => execLw n d a i (eccs.headD .clean) s | .lh n d a i _ => execLh n d a i (eccs.headD .clean) s
  | .lhu n d a i _ => execLhu n d a i (eccs.headD .clean) s | .lb n d a i _ => execLb n d a i (eccs.headD .clean) s
  | .lbu n d a i _ => execLbu n d a i (eccs.headD .clean) s
  | .sw n d a i => execSw n d a i s | .sh n d a i => execSh n d a i s | .sb n d a i => execSb n d a i s
  | .beq n a b i => execBeq n a b i s | .bne n a b i => execBne n a b i s | .blt n a b i => execBlt n a b i s
  | .bge n a b i => execBge n a b i s | .bltu n a b i => execBltu n a b i s | .bgeu n a b i => execBgeu n a b i s
  | .j n off => execJ n off s | .jr n a => execJr n a s | .jalr n d a => execJalr n d a s
  | .call n m off => execCall n m off s | .callr n m a => execCallr n m a s | .ret n m _ => execRet n m eccs s
  | .mul n m a b => execMul n m a b s | .mulu n m a b => execMulu n m a b s | .mac n m a b => execMac n m a b s
  | .macu n m a b => execMacu n m a b s | .msu n m a b => execMsu n m a b s | .macs n m a b => execMacs n m a b s
  | .mfmp n d m sh r t => execMfmp n d m sh r t s | .mtmp n m a => execMtmp n m a s | .mtmp2 n m a b => execMtmp2 n m a b s
  | .div n d a b => execDiv n d a b s | .divu n d a b => execDivu n d a b s | .rem n d a b => execRem n d a b s
  | .remu n d a b => execRemu n d a b s
  | .mfs n d k => execMfs n d k s | .mts n a k => execMts n a k s
  | .hret n => execHret n s | .wfi n => execWfi n s | .fence n => execFence n s | .fenceI n => execFenceI n s
  | .breakI n => execBreakI n s | .trap n c => execTrap n c s
  | .atxch n d a b => execAtxch n d a b s | .atadd n d a b => execAtadd n d a b s | .atand n d a b => execAtand n d a b s
  | .atorr n d a b => execAtorr n d a b s
  | _ => .next s
/-- Core n comes to the instruction word w: a custom one runs its microprogram (R382), one that R352 names runs as that instruction, and
every other is illegal (R351). `fetch` is what the check of the fetch finds, `chks` what those of the loads find, and `ecc` a word of the
decode table with an uncorrectable error. -/
def execCustomInstruction (n : CoreN) (w : Word) (ecc : Option Nat) (fetch : Ecc) (chks : List Check) (s : State) : Out :=
  let s := s.fetchMeets n fetch
  if 0x30 ≤ bits w.toNat 31 26 then s.customOp n w ecc chks
  else match decodeHelm n w with
    | some i => runHelm (chks.map fun c => c.ecc.headD .clean) s i
    | none => s.issue n [] fun (s : State) => s.exception n 1 (s.core n).pc w

end Sys2Proof.Machine
end

