-- ==== Sys2Proof/Machine/PortCmd.lean ====
section
/-!
DEFINITION. Transactions of the management port (R322 to R336): command word, status word, port register words, the window, broken
clocking, MPT_TCRC. Nothing happens before the port answers (R324) and outside a transaction (R322).
-/
namespace Sys2Proof.Machine

def State.setPort (s : State) (q : Port) : State := { s with port := q }
/-- The status word (R327). -/
def State.statusWord (s : State) : Word :=
  BitVec.ofNat 32 (0xA * 2 ^ 28 + powerCode s.clk.power * 2 ^ 25 + 2 ^ 24 * b2n s.safe + 2 ^ 23 * b2n s.clk.cdUp +
    2 ^ 22 * b2n (!s.port.queue.isEmpty) + s.mptStat % 256)
/-- MSEL is asserted. -/
def execTransactionStart (s : State) : Out :=
  if s.portAnswers && decide (s.port.phase = .idle) then
    let w := s.statusWord
    .next (s.setPort { s.port with phase := .command, index := 0, inc := false, words := [], status := w, mdo := [w], word := none, data := [] })
  else .next s
/-- What a command word selects (R325, R326). -/
def commandPhase (w : Word) : Phase :=
  if bits w.toNat 28 7 ≠ 0 then .dead
  else if w.getLsbD 30 then (if bits w.toNat 6 0 ≠ 0 then .dead else if w.getLsbD 31 then .winRead else .winWrite)
  else if w.getLsbD 31 then .regRead else .regWrite
/-- A complete word on MDI: the command word. After a discarded one the port ignores MDI and drives zeros (R326). -/
def execCommandWord (w : Word) (s : State) : Out :=
  if s.port.phase = .dead then .next (s.setPort { s.port with mdo := s.port.mdo ++ [0] })
  else if s.port.phase ≠ .command then .next s
  else
    let ph := commandPhase w
    let s := if ph = .dead then s.mptFlag 5 else s
    .next (s.setPort { s.port with phase := ph, index := bits w.toNat 6 0, inc := w.getLsbD 29, words := [w] })

/-! ## Port registers (R328, R329) -/

/-- The register index after a word. -/
def State.portAdvance (s : State) : State := s.setPort { s.port with index := s.port.index + b2n s.port.inc }
/-- A data word is written; beyond index 0x7F it is discarded. -/
def State.portStore (s : State) (w : Word) : State :=
  State.portAdvance (if s.port.index < 0x80 then s.mptWrite true s.port.index w.toNat else s.mptFlag 1)
def execPortRegisterWrite (w : Word) (s : State) : Out :=
  if s.port.phase ≠ .regWrite then .next s
  else .next (State.portStore (s.setPort { s.port with words := s.port.words ++ [w], mdo := s.port.mdo ++ [0] }) w)
/-- A register is read for the next data word, of which `edges` edges arrive. No port register has an RC field. -/
def execPortRegisterRead (edges : Fin 33) (mdi : Word) (s : State) : Out :=
  if s.port.phase ≠ .regRead then .next s
  else
    let (v, s) := if s.port.index < 0x80 then s.mptRead s.port.index else (0, s.mptFlag 1)
    let full := edges.val == 32
    let s := s.setPort { s.port with mdo := s.port.mdo ++ [BitVec.ofNat 32 v], words := s.port.words ++ if full then [mdi] else [] }
    .next (if full then s.portAdvance else s)

/-! ## The window (R330 to R333) -/

/-- The address of the next access to be started. -/
def State.windowAddr (s : State) : Nat := s.fld mptWadrh 7 0 * 2 ^ 32 + s.rd mptWadrl
def State.windowAdvance (s : State) : State :=
  if s.port.inc then
    let a := (s.windowAddr + 4) % 2 ^ 40
    (s.wr mptWadrl (a % 2 ^ 32)).wr mptWadrh (a / 2 ^ 32)
  else s
/-- WERR and its record. -/
def State.windowError (s : State) (a : Nat) (write acl : Bool) : State :=
  ((s.wr mptWerrl (a % 2 ^ 32)).wr mptWerrh (2 ^ 31 + 2 ^ 30 * b2n write + 2 ^ 29 * b2n acl + a / 2 ^ 32)).mptFlag 2
/-- A window write word: refused, discarded, or queued with its address (log entry 37). -/
def State.windowStore (s : State) (w : Word) : State :=
  let a := s.windowAddr
  if !s.bit mptCtrl 0 then (s.windowError a true true).windowAdvance
  else if 8 ≤ s.port.queue.length then s.mptFlag 4
  else (s.setPort { s.port with queue := s.port.queue ++ [(a, w)] }).windowAdvance
def execWindowWrite (w : Word) (s : State) : Out :=
  if s.port.phase ≠ .winWrite then .next s
  else .next (State.windowStore (s.setPort { s.port with words := s.port.words ++ [w], mdo := s.port.mdo ++ [0] }) w)
/-- The oldest queued write is performed, after the transaction too. -/
def execWindowWritePerform (chk : Check) (s : State) : Out :=
  match s.port.queue with
  | (a, w) :: rest =>
    if s.memWaits a then .next s else
    let (ok, s) := State.busWrite (s.setPort { s.port with queue := rest }) .port a (toLE 4 w.toNat) chk
    .next (if ok then s else s.windowError a true false)
  | [] => .next s
/-- The words of the stream that have completed, when the word in progress has. -/
def Port.closeWord (q : Port) : Port := { q with words := q.words ++ q.word.toList, word := none }
/-- The first edge of word k + 1 starts access k and shifts out the data of access k − F, 0 when it has not completed. -/
def execWindowRead (mdi : Word) (s : State) : Out :=
  if s.port.phase ≠ .winRead then .next s
  else
    let k := s.port.index
    let f := s.fld mptCtrl 9 8 + 1
    let a := s.windowAddr
    let q := s.port.closeWord
    let q := { q with index := k + 1, word := some mdi, reads := q.reads ++ [{ addr := a, want := some k, gate := s.gateOf a }] }
    let s := State.windowAdvance (s.setPort q)
    if k < f then .next (s.setPort { s.port with mdo := s.port.mdo ++ [0] })
    else match s.port.data.find? fun x => x.1 == k - f with
      | some x => .next (s.setPort { s.port with mdo := s.port.mdo ++ [x.2] })
      | none =>
        let reads := s.port.reads.map fun x => if x.want = some (k - f) then { x with want := none } else x
        .next (State.mptFlag (s.setPort { s.port with mdo := s.port.mdo ++ [0], reads }) 3)
/-- The oldest access started completes, once every queued write has: with an error response when what it addresses has been reset (R338). -/
def execWindowAccessDone (inTime : Bool) (chk : Check) (s : State) : Out :=
  match s.port.reads, s.port.queue with
  | q :: rest, [] =>
    if s.memWaits q.addr && !q.lost then .next s else
    let s := s.setPort { s.port with reads := rest }
    let (d, s) := if q.lost then (none, s) else s.busRead .port q.addr 4 chk q.gate
    let s := if d.isSome then s else s.windowError q.addr false false
    match q.want with
    | some k =>
      let v : Word := if inTime then BitVec.ofNat 32 (ofLE (d.getD [])) else 0
      let s := if inTime then s else s.mptFlag 3
      .next (s.setPort { s.port with data := s.port.data ++ [(k, v)] })
    | none => .next s
  | _, _ => .next s

/-! ## The end of a transaction (R334, R336) -/

/-- The bits received of a word that broke off after `edges` edges. -/
def partialWord (edges : Fin 32) (v : Word) : Word := v &&& BitVec.ofNat 32 (2 ^ edges.val - 1)
/-- MPT_TCRC, when the transaction had a complete word. -/
def State.closeCrc (s : State) : State :=
  if s.port.words.isEmpty then s else s.wr mptTcrc (crc32 (s.port.words.flatMap fun w => toBE 4 w.toNat))
/-- Word N of a window read has had its 32nd edge and no further word follows: access N - F is late when it has not completed (R332). -/
def State.lastLate (s : State) : State :=
  let f := s.fld mptCtrl 9 8 + 1
  if s.port.phase = .winRead && s.port.word.isSome && decide (f ≤ s.port.index) && !s.port.data.any (fun x => x.1 == s.port.index - f)
  then s.mptFlag 3 else s
/-- MSEL is released after `edges` edges of a word, which hold `value`. -/
def execTransactionEnd (edges : Fin 32) (value : Word) (s : State) : Out :=
  if s.port.phase = .idle then .next s
  else
    let s := if edges = 0 then
        let s := s.lastLate
        s.setPort s.port.closeWord
      else
        let s := s.mptFlag 0
        let w := partialWord edges value
        if s.port.phase = .regWrite then s.portStore w
        else if s.port.phase = .winWrite then s.windowStore w
        else s
    let s := s.closeCrc
    .next (s.setPort { s.port with phase := .idle, words := [], word := none, data := [],
                                   reads := s.port.reads.map fun x => { x with want := none } })

end Sys2Proof.Machine
end

