-- ==== Sys2Proof/Machine/Dispatch.lean ====
section
/-!
DEFINITION. What each command does: one arm per constructor, each one direct call of its meaning.
-/
namespace Sys2Proof.Machine

def exec (i : Instr) (s : State) : Host.Outcome State Fault Refusal :=
  match i with
  | .periodMark => Sys2Proof.Machine.execPeriodMark s
  | .marksEnable => Sys2Proof.Machine.execMarksEnable s
  | .marksDisable => Sys2Proof.Machine.execMarksDisable s
  | .markSourceWrite chain => Sys2Proof.Machine.execMarkSourceWrite chain s
  | .periodLengthWrite pace v => Sys2Proof.Machine.execPeriodLengthWrite pace v s
  | .deadlineWrite reg v => Sys2Proof.Machine.execDeadlineWrite reg v s
  | .fixDeadline => Sys2Proof.Machine.execFixDeadline s
  | .provisionalSend => Sys2Proof.Machine.execProvisionalSend s
  | .provisionalGather p => Sys2Proof.Machine.execProvisionalGather p s
  | .searchDeadline => Sys2Proof.Machine.execSearchDeadline s
  | .checkDeadline => Sys2Proof.Machine.execCheckDeadline s
  | .commitDeadline => Sys2Proof.Machine.execCommitDeadline s
  | .generalTimerFire n => Sys2Proof.Machine.execGeneralTimerFire n s
  | .timerCompareWrite n v => Sys2Proof.Machine.execTimerCompareWrite n v s
  | .latch p ue => Sys2Proof.Machine.execLatch p ue s
  | .launch p now => Sys2Proof.Machine.execLaunch p now s
  | .fixReady p now ue => Sys2Proof.Machine.execFixReady p now ue s
  | .comparison p => Sys2Proof.Machine.execComparison p s
  | .correctionSetup p => Sys2Proof.Machine.execCorrectionSetup p s
  | .closeRequest p now => Sys2Proof.Machine.execCloseRequest p now s
  | .budgetExpiry p => Sys2Proof.Machine.execBudgetExpiry p s
  | .treeExhausted p now => Sys2Proof.Machine.execTreeExhausted p now s
  | .batchIssue c => Sys2Proof.Machine.execBatchIssue c s
  | .batchLanding c f => Sys2Proof.Machine.execBatchLanding c f s
  | .refinedBound c idx => Sys2Proof.Machine.execRefinedBound c idx s
  | .shiftedSeedOffer p => Sys2Proof.Machine.execShiftedSeedOffer p s
  | .chartSeedOffer p => Sys2Proof.Machine.execChartSeedOffer p s
  | .sharingPoint p => Sys2Proof.Machine.execSharingPoint p s
  | .sharingWrite p => Sys2Proof.Machine.execSharingWrite p s
  | .stealTransfer c => Sys2Proof.Machine.execStealTransfer c s
  | .deterministicDeal p => Sys2Proof.Machine.execDeterministicDeal p s
  | .chartStep p now => Sys2Proof.Machine.execChartStep p now s
  | .deterministicComparison p => Sys2Proof.Machine.execDeterministicComparison p s
  | .deterministicClose p => Sys2Proof.Machine.execDeterministicClose p s
  | .finalGather p => Sys2Proof.Machine.execFinalGather p s
  | .duplexVerdict p => Sys2Proof.Machine.execDuplexVerdict p s
  | .shadowEvaluation c => Sys2Proof.Machine.execShadowEvaluation c s
  | .shadowVerdict p copyOk => Sys2Proof.Machine.execShadowVerdict p copyOk s
  | .resultRecordWrite p => Sys2Proof.Machine.execResultRecordWrite p s
  | .selection p a => Sys2Proof.Machine.execSelection p a s
  | .downlinkFrameSend l => Sys2Proof.Machine.execDownlinkFrameSend l s
  | .switchCountDecay a => Sys2Proof.Machine.execSwitchCountDecay a s
  | .cntclr => Sys2Proof.Machine.execCntclr s
  | .laneEnable l => Sys2Proof.Machine.execLaneEnable l s
  | .laneDisable l => Sys2Proof.Machine.execLaneDisable l s
  | .blockLockAcquired k => Sys2Proof.Machine.execBlockLockAcquired k s
  | .blockLockLost k => Sys2Proof.Machine.execBlockLockLost k s
  | .decho l typ token turn rtt => Sys2Proof.Machine.execDecho l typ token turn rtt s
  | .ack l typ seq hub result => Sys2Proof.Machine.execAck l typ seq hub result s
  | .ackTimeout l seq => Sys2Proof.Machine.execAckTimeout l seq s
  | .uplinkFrame l bytes => Sys2Proof.Machine.execUplinkFrame l bytes s
  | .hcdlWrite upofs v => Sys2Proof.Machine.execHcdlWrite upofs v s
  | .roleWrite role => Sys2Proof.Machine.execRoleWrite role s
  | .hubMark h samples => Sys2Proof.Machine.execHubMark h samples s
  | .hubMarkBlock h portB pcnt ofs role len => Sys2Proof.Machine.execHubMarkBlock h portB pcnt ofs role len s
  | .hubMarkAbsent h => Sys2Proof.Machine.execHubMarkAbsent h s
  | .hubDownlinkFrame h portB bytes tNs => Sys2Proof.Machine.execHubDownlinkFrame h portB bytes tNs s
  | .hubDreq h portB typ token turn => Sys2Proof.Machine.execHubDreq h portB typ token turn s
  | .hubUplink h portB supply => Sys2Proof.Machine.execHubUplink h portB supply s
  | .hubUnconfigure h => Sys2Proof.Machine.execHubUnconfigure h s
  | .captureRecord withheld edc => Sys2Proof.Machine.execCaptureRecord withheld edc s
  | .captureTrigger src => Sys2Proof.Machine.execCaptureTrigger src s
  | .trig => Sys2Proof.Machine.execTrig s
  | .freeze => Sys2Proof.Machine.execFreeze s
  | .captureResume => Sys2Proof.Machine.execCaptureResume s
  | .clear => Sys2Proof.Machine.execClear s
  | .postTriggerEnd => Sys2Proof.Machine.execPostTriggerEnd s
  | .ringScan ue => Sys2Proof.Machine.execRingScan ue s
  | .begin_ b => Sys2Proof.Machine.execBegin b s
  | .verify b => Sys2Proof.Machine.execVerify b s
  | .verificationDone b ue => Sys2Proof.Machine.execVerificationDone b ue s
  | .activate b => Sys2Proof.Machine.execActivate b s
  | .deactivate => Sys2Proof.Machine.execDeactivate s
  | .abort b => Sys2Proof.Machine.execAbort b s
  | .build b met => Sys2Proof.Machine.execBuild b met s
  | .chartLookup p ue now => Sys2Proof.Machine.execChartLookup p ue now s
  | .buildEntry c met => Sys2Proof.Machine.execBuildEntry c met s
  | .chartReverify ue => Sys2Proof.Machine.execChartReverify ue s
  | .backgroundVerify ue => Sys2Proof.Machine.execBackgroundVerify ue s
  | .powerupSelftest pass => Sys2Proof.Machine.execPowerupSelftest pass s
  | .selftestSegmentStart => Sys2Proof.Machine.execSelftestSegmentStart s
  | .selftestSegmentEnd ok => Sys2Proof.Machine.execSelftestSegmentEnd ok s
  | .selftestSlotEnd => Sys2Proof.Machine.execSelftestSlotEnd s
  | .stenWrite en => Sys2Proof.Machine.execStenWrite en s
  | .clexclWrite v => Sys2Proof.Machine.execClexclWrite v s
  | .gddr6Access u addr size data chk => Sys2Proof.Machine.execGddr6Access u addr size data chk s
  | .trainingStart => Sys2Proof.Machine.execTrainingStart s
  | .trainingDone pass eye => Sys2Proof.Machine.execTrainingDone pass eye s
  | .shortRetrain c ok eye => Sys2Proof.Machine.execShortRetrain c ok eye s
  | .exclWrite v => Sys2Proof.Machine.execExclWrite v s
  | .perBankRefresh c bank => Sys2Proof.Machine.execPerBankRefresh c bank s
  | .temperatureReadout c t => Sys2Proof.Machine.execTemperatureReadout c t s
  | .scrub chk => Sys2Proof.Machine.execScrub chk s
  | .arbitrationWindow => Sys2Proof.Machine.execArbitrationWindow s
  | .selfRefreshEntry ok => Sys2Proof.Machine.execSelfRefreshEntry ok s
  | .selfRefreshExit => Sys2Proof.Machine.execSelfRefreshExit s
  | .safeinRequest lowNs => Sys2Proof.Machine.execSafeinRequest lowNs s
  | .safeinReleaseEdge lowMs => Sys2Proof.Machine.execSafeinReleaseEdge lowMs s
  | .ss1Timeout => Sys2Proof.Machine.execSs1Timeout s
  | .storeq => Sys2Proof.Machine.execStoreq s
  | .ss1req => Sys2Proof.Machine.execSs1req s
  | .release => Sys2Proof.Machine.execRelease s
  | .keepaliveStop => Sys2Proof.Machine.execKeepaliveStop s
  | .outputTest o step => Sys2Proof.Machine.execOutputTest o step s
  | .outputFault o high ns => Sys2Proof.Machine.execOutputFault o high ns s
  | .lockstepMismatch k b => Sys2Proof.Machine.execLockstepMismatch k b s
  | .islandSelftest ok => Sys2Proof.Machine.execIslandSelftest ok s
  | .watchdogService key => Sys2Proof.Machine.execWatchdogService key s
  | .watchdogTimeout => Sys2Proof.Machine.execWatchdogTimeout s
  | .markNotice bytes => Sys2Proof.Machine.execMarkNotice bytes s
  | .decisionReport bytes => Sys2Proof.Machine.execDecisionReport bytes s
  | .missNotice bytes => Sys2Proof.Machine.execMissNotice bytes s
  | .reportTimeout => Sys2Proof.Machine.execReportTimeout s
  | .dpfWindow => Sys2Proof.Machine.execDpfWindow s
  | .pairedSafeAtMark => Sys2Proof.Machine.execPairedSafeAtMark s
  | .selftestReport c pass => Sys2Proof.Machine.execSelftestReport c pass s
  | .latentTimeout c => Sys2Proof.Machine.execLatentTimeout c s
  | .junctionOvertemp above => Sys2Proof.Machine.execJunctionOvertemp above s
  | .chainFrameReceive p k bytes => Sys2Proof.Machine.execChainFrameReceive p k bytes s
  | .rdreq p pilot src tag addr nw chks => Sys2Proof.Machine.execRdreq p pilot src tag addr nw chks s
  | .wrreq p pilot src tag addr ws chks => Sys2Proof.Machine.execWrreq p pilot src tag addr ws chks s
  | .blkwr src tag addr start bseq data chks => Sys2Proof.Machine.execBlkwr src tag addr start bseq data chks s
  | .blkrd src tag addr len => Sys2Proof.Machine.execBlkrd src tag addr len s
  | .blkdataSend chks => Sys2Proof.Machine.execBlkdataSend chks s
  | .enum p next fresh => Sys2Proof.Machine.execEnum p next fresh s
  | .hb pilot src payload => Sys2Proof.Machine.execHb pilot src payload s
  | .pilotHb => Sys2Proof.Machine.execPilotHb s
  | .tkreq src ccount cause => Sys2Proof.Machine.execTkreq src ccount cause s
  | .tkconf src => Sys2Proof.Machine.execTkconf src s
  | .wake => Sys2Proof.Machine.execWake s
  | .cmark p typ ccl ofs hops hi skew now => Sys2Proof.Machine.execCmark p typ ccl ofs hops hi skew now s
  | .chainMark now => Sys2Proof.Machine.execChainMark now s
  | .flywheelMark => Sys2Proof.Machine.execFlywheelMark s
  | .trimMark p cycles => Sys2Proof.Machine.execTrimMark p cycles s
  | .portDown p => Sys2Proof.Machine.execPortDown p s
  | .pilotSyncLoss p => Sys2Proof.Machine.execPilotSyncLoss p s
  | .chainDecho p token turn rtt => Sys2Proof.Machine.execChainDecho p token turn rtt s
  | .chainDreq p token turn => Sys2Proof.Machine.execChainDreq p token turn s
  | .delayRemeasure p => Sys2Proof.Machine.execDelayRemeasure p s
  | .portRetry p => Sys2Proof.Machine.execPortRetry p s
  | .transactionStart => Sys2Proof.Machine.execTransactionStart s
  | .commandWord w => Sys2Proof.Machine.execCommandWord w s
  | .portRegisterWrite w => Sys2Proof.Machine.execPortRegisterWrite w s
  | .portRegisterRead edges mdi => Sys2Proof.Machine.execPortRegisterRead edges mdi s
  | .windowWrite w => Sys2Proof.Machine.execWindowWrite w s
  | .windowWritePerform chk => Sys2Proof.Machine.execWindowWritePerform chk s
  | .windowRead mdi => Sys2Proof.Machine.execWindowRead mdi s
  | .windowAccessDone inTime chk => Sys2Proof.Machine.execWindowAccessDone inTime chk s
  | .transactionEnd edges value => Sys2Proof.Machine.execTransactionEnd edges value s
  | .portWake => Sys2Proof.Machine.execPortWake s
  | .cdrst => Sys2Proof.Machine.execCdrst s
  | .doorbellIn bells => Sys2Proof.Machine.execDoorbellIn bells s
  | .doorbellOut bells => Sys2Proof.Machine.execDoorbellOut bells s
  | .add n rd ra rb => Sys2Proof.Machine.execAdd n rd ra rb s
  | .sub n rd ra rb => Sys2Proof.Machine.execSub n rd ra rb s
  | .and n rd ra rb => Sys2Proof.Machine.execAnd n rd ra rb s
  | .or n rd ra rb => Sys2Proof.Machine.execOr n rd ra rb s
  | .xor n rd ra rb => Sys2Proof.Machine.execXor n rd ra rb s
  | .sll n rd ra rb => Sys2Proof.Machine.execSll n rd ra rb s
  | .srl n rd ra rb => Sys2Proof.Machine.execSrl n rd ra rb s
  | .sra n rd ra rb => Sys2Proof.Machine.execSra n rd ra rb s
  | .slt n rd ra rb => Sys2Proof.Machine.execSlt n rd ra rb s
  | .sltu n rd ra rb => Sys2Proof.Machine.execSltu n rd ra rb s
  | .min n rd ra rb => Sys2Proof.Machine.execMin n rd ra rb s
  | .max n rd ra rb => Sys2Proof.Machine.execMax n rd ra rb s
  | .minu n rd ra rb => Sys2Proof.Machine.execMinu n rd ra rb s
  | .maxu n rd ra rb => Sys2Proof.Machine.execMaxu n rd ra rb s
  | .adds n rd ra rb => Sys2Proof.Machine.execAdds n rd ra rb s
  | .subs n rd ra rb => Sys2Proof.Machine.execSubs n rd ra rb s
  | .clz n rd ra => Sys2Proof.Machine.execClz n rd ra s
  | .abs n rd ra => Sys2Proof.Machine.execAbs n rd ra s
  | .addi n rd ra imm => Sys2Proof.Machine.execAddi n rd ra imm s
  | .andi n rd ra imm => Sys2Proof.Machine.execAndi n rd ra imm s
  | .ori n rd ra imm => Sys2Proof.Machine.execOri n rd ra imm s
  | .xori n rd ra imm => Sys2Proof.Machine.execXori n rd ra imm s
  | .slti n rd ra imm => Sys2Proof.Machine.execSlti n rd ra imm s
  | .sltiu n rd ra imm => Sys2Proof.Machine.execSltiu n rd ra imm s
  | .shi n rd ra k amt => Sys2Proof.Machine.execShi n rd ra k amt s
  | .lui n rd imm => Sys2Proof.Machine.execLui n rd imm s
  | .lw n rd ra imm ecc => Sys2Proof.Machine.execLw n rd ra imm ecc s
  | .lh n rd ra imm ecc => Sys2Proof.Machine.execLh n rd ra imm ecc s
  | .lhu n rd ra imm ecc => Sys2Proof.Machine.execLhu n rd ra imm ecc s
  | .lb n rd ra imm ecc => Sys2Proof.Machine.execLb n rd ra imm ecc s
  | .lbu n rd ra imm ecc => Sys2Proof.Machine.execLbu n rd ra imm ecc s
  | .loadReply n chk stall => Sys2Proof.Machine.execLoadReply n chk stall s
  | .sw n rs ra imm => Sys2Proof.Machine.execSw n rs ra imm s
  | .sh n rs ra imm => Sys2Proof.Machine.execSh n rs ra imm s
  | .sb n rs ra imm => Sys2Proof.Machine.execSb n rs ra imm s
  | .postedStoreComplete n chk => Sys2Proof.Machine.execPostedStoreComplete n chk s
  | .beq n ra rb off => Sys2Proof.Machine.execBeq n ra rb off s
  | .bne n ra rb off => Sys2Proof.Machine.execBne n ra rb off s
  | .blt n ra rb off => Sys2Proof.Machine.execBlt n ra rb off s
  | .bge n ra rb off => Sys2Proof.Machine.execBge n ra rb off s
  | .bltu n ra rb off => Sys2Proof.Machine.execBltu n ra rb off s
  | .bgeu n ra rb off => Sys2Proof.Machine.execBgeu n ra rb off s
  | .j n off => Sys2Proof.Machine.execJ n off s
  | .jr n ra => Sys2Proof.Machine.execJr n ra s
  | .jalr n rd ra => Sys2Proof.Machine.execJalr n rd ra s
  | .call n mask off => Sys2Proof.Machine.execCall n mask off s
  | .callr n mask ra => Sys2Proof.Machine.execCallr n mask ra s
  | .ret n mask eccs => Sys2Proof.Machine.execRet n mask eccs s
  | .mul n m ra rb => Sys2Proof.Machine.execMul n m ra rb s
  | .mulu n m ra rb => Sys2Proof.Machine.execMulu n m ra rb s
  | .mac n m ra rb => Sys2Proof.Machine.execMac n m ra rb s
  | .macu n m ra rb => Sys2Proof.Machine.execMacu n m ra rb s
  | .msu n m ra rb => Sys2Proof.Machine.execMsu n m ra rb s
  | .macs n m ra rb => Sys2Proof.Machine.execMacs n m ra rb s
  | .mpWriteLand n => Sys2Proof.Machine.execMpWriteLand n s
  | .mfmp n rd m sh rnd sat => Sys2Proof.Machine.execMfmp n rd m sh rnd sat s
  | .mtmp n m ra => Sys2Proof.Machine.execMtmp n m ra s
  | .mtmp2 n m ra rb => Sys2Proof.Machine.execMtmp2 n m ra rb s
  | .div n rd ra rb => Sys2Proof.Machine.execDiv n rd ra rb s
  | .divu n rd ra rb => Sys2Proof.Machine.execDivu n rd ra rb s
  | .rem n rd ra rb => Sys2Proof.Machine.execRem n rd ra rb s
  | .remu n rd ra rb => Sys2Proof.Machine.execRemu n rd ra rb s
  | .mfs n rd idx => Sys2Proof.Machine.execMfs n rd idx s
  | .mts n ra idx => Sys2Proof.Machine.execMts n ra idx s
  | .lstest hit => Sys2Proof.Machine.execLstest hit s
  | .hret n => Sys2Proof.Machine.execHret n s
  | .wfi n => Sys2Proof.Machine.execWfi n s
  | .fence n => Sys2Proof.Machine.execFence n s
  | .fenceI n => Sys2Proof.Machine.execFenceI n s
  | .breakI n => Sys2Proof.Machine.execBreakI n s
  | .trap n code => Sys2Proof.Machine.execTrap n code s
  | .atxch n rd ra rb => Sys2Proof.Machine.execAtxch n rd ra rb s
  | .atadd n rd ra rb => Sys2Proof.Machine.execAtadd n rd ra rb s
  | .atand n rd ra rb => Sys2Proof.Machine.execAtand n rd ra rb s
  | .atorr n rd ra rb => Sys2Proof.Machine.execAtorr n rd ra rb s
  | .interruptTake n => Sys2Proof.Machine.execInterruptTake n s
  | .interruptRaise n line => Sys2Proof.Machine.execInterruptRaise n line s
  | .tcmpMatch n => Sys2Proof.Machine.execTcmpMatch n s
  | .customInstruction n w ecc fetch chks => Sys2Proof.Machine.execCustomInstruction n w ecc fetch chks s
  | .decodeTableWrite n off v => Sys2Proof.Machine.execDecodeTableWrite n off v s
  | .coreRun n => Sys2Proof.Machine.execCoreRun n s
  | .coreHalt n => Sys2Proof.Machine.execCoreHalt n s
  | .haltComplete n => Sys2Proof.Machine.execHaltComplete n s
  | .coreReset n => Sys2Proof.Machine.execCoreReset n s
  | .bootRecall half lines => Sys2Proof.Machine.execBootRecall half lines s
  | .bootPort sfdp => Sys2Proof.Machine.execBootPort sfdp s
  | .bootSlot => Sys2Proof.Machine.execBootSlot s
  | .bootCdpwr ok => Sys2Proof.Machine.execBootCdpwr ok s
  | .bootStage met => Sys2Proof.Machine.execBootStage met s
  | .bootGddr6 met => Sys2Proof.Machine.execBootGddr6 met s
  | .bootSelftest => Sys2Proof.Machine.execBootSelftest s
  | .bootChain => Sys2Proof.Machine.execBootChain s
  | .bootChart => Sys2Proof.Machine.execBootChart s
  | .bootTimeout => Sys2Proof.Machine.execBootTimeout s
  | .bootRetry => Sys2Proof.Machine.execBootRetry s
  | .done => Sys2Proof.Machine.execDone s
  | .chartskip => Sys2Proof.Machine.execChartskip s
  | .chartfail => Sys2Proof.Machine.execChartfail s
  | .reboot => Sys2Proof.Machine.execReboot s
  | .bootErase slot => Sys2Proof.Machine.execBootErase slot s
  | .bootProgram slot => Sys2Proof.Machine.execBootProgram slot s
  | .bootOperationDone timedOut => Sys2Proof.Machine.execBootOperationDone timedOut s
  | .raise => Sys2Proof.Machine.execRaise s
  | .clrdeg => Sys2Proof.Machine.execClrdeg s
  | .bootRead slot => Sys2Proof.Machine.execBootRead slot s
  | .warmRestart ok => Sys2Proof.Machine.execWarmRestart ok s
  | .computeDieReset ok => Sys2Proof.Machine.execComputeDieReset ok s
  | .binnacleReset refToggling => Sys2Proof.Machine.execBinnacleReset refToggling s
  | .program r => Sys2Proof.Machine.execProgram r s
  | .erase r => Sys2Proof.Machine.execErase r s
  | .suspend => Sys2Proof.Machine.execSuspend s
  | .resume => Sys2Proof.Machine.execResume s
  | .mcheck => Sys2Proof.Machine.execMcheck s
  | .refresh r => Sys2Proof.Machine.execRefresh r s
  | .flashOperationDone linesDiffer => Sys2Proof.Machine.execFlashOperationDone linesDiffer s
  | .flashAutoResume => Sys2Proof.Machine.execFlashAutoResume s
  | .writeProtect hi v => Sys2Proof.Machine.execWriteProtect hi v s
  | .recordStoreRecall => Sys2Proof.Machine.execRecordStoreRecall s
  | .counterIncrement mask => Sys2Proof.Machine.execCounterIncrement mask s
  | .paceRequest v => Sys2Proof.Machine.execPaceRequest v s
  | .pllLock ok => Sys2Proof.Machine.execPllLock ok s
  | .voltageSettled => Sys2Proof.Machine.execVoltageSettled s
  | .clockMonitorWindow c count nominal farEnd => Sys2Proof.Machine.execClockMonitorWindow c count nominal farEnd s
  | .droop cycles => Sys2Proof.Machine.execDroop cycles s
  | .gateClose b => Sys2Proof.Machine.execGateClose b s
  | .gateClosed b forced => Sys2Proof.Machine.execGateClosed b forced s
  | .gateOpen b => Sys2Proof.Machine.execGateOpen b s
  | .blockReset b => Sys2Proof.Machine.execBlockReset b s
  | .blockResetRelease b => Sys2Proof.Machine.execBlockResetRelease b s
  | .supplyWarning u => Sys2Proof.Machine.execSupplyWarning u s
  | .supplyResetCrossing u => Sys2Proof.Machine.execSupplyResetCrossing u s
  | .mainInputRestored => Sys2Proof.Machine.execMainInputRestored s
  | .governorEvaluation pMeas lanes coldplate => Sys2Proof.Machine.execGovernorEvaluation pMeas lanes coldplate s
  | .idle => Sys2Proof.Machine.execIdle s
  | .run => Sys2Proof.Machine.execRun s
  | .stby => Sys2Proof.Machine.execStby s
  | .dorm => Sys2Proof.Machine.execDorm s
  | .idleTimeout => Sys2Proof.Machine.execIdleTimeout s
  | .standbyTimeout => Sys2Proof.Machine.execStandbyTimeout s
  | .dormantTimeout => Sys2Proof.Machine.execDormantTimeout s
  | .wakeTimer => Sys2Proof.Machine.execWakeTimer s
  | .wakePin level edge => Sys2Proof.Machine.execWakePin level edge s
  | .wakeTaken => Sys2Proof.Machine.execWakeTaken s
  | .pinConfigWrite n v => Sys2Proof.Machine.execPinConfigWrite n v s
  | .eventInputEdge n rising => Sys2Proof.Machine.execEventInputEdge n rising s
  | .eventChannel c dt now sameCycle => Sys2Proof.Machine.execEventChannel c dt now sameCycle s
  | .eventOutputPulseEnd idx => Sys2Proof.Machine.execEventOutputPulseEnd idx s
  | .bridgeEvent code => Sys2Proof.Machine.execBridgeEvent code s
  | .softwareEvent mask => Sys2Proof.Machine.execSoftwareEvent mask s
  | .stormReenable mask => Sys2Proof.Machine.execStormReenable mask s
  | .subscriptionWrite k v => Sys2Proof.Machine.execSubscriptionWrite k v s
  | .producerWrite c v => Sys2Proof.Machine.execProducerWrite c v s
  | .plotSlot e now => Sys2Proof.Machine.execPlotSlot e now s
  | .branch e c dly cond tgt => Sys2Proof.Machine.execBranch e c dly cond tgt s
  | .hold e c dly src pol idx => Sys2Proof.Machine.execHold e c dly src pol idx s
  | .drive e c dly oe val => Sys2Proof.Machine.execDrive e c dly oe val s
  | .shift e c dly dir lsb idx => Sys2Proof.Machine.execShift e c dly dir lsb idx s
  | .take e c dly nb len => Sys2Proof.Machine.execTake e c dly nb len s
  | .give e c dly nb => Sys2Proof.Machine.execGive e c dly nb s
  | .copy e c dly dst src now => Sys2Proof.Machine.execCopy e c dly dst src now s
  | .load e c dly regB imm => Sys2Proof.Machine.execLoad e c dly regB imm s
  | .signal e c dly kind => Sys2Proof.Machine.execSignal e c dly kind s
  | .plotRun e mask => Sys2Proof.Machine.execPlotRun e mask s
  | .plotHalt e mask => Sys2Proof.Machine.execPlotHalt e mask s
  | .txqWrite e c v => Sys2Proof.Machine.execTxqWrite e c v s
  | .rxqRead e c => Sys2Proof.Machine.execRxqRead e c s
  | .joinWrite e c join => Sys2Proof.Machine.execJoinWrite e c join s
  | .txEntryAppend idx v => Sys2Proof.Machine.execTxEntryAppend idx v s
  | .rxRead idx => Sys2Proof.Machine.execRxRead idx s
  | .go idx => Sys2Proof.Machine.execGo idx s
  | .serialAbort idx => Sys2Proof.Machine.execSerialAbort idx s
  | .serialWordDone idx rx => Sys2Proof.Machine.execSerialWordDone idx rx s
  | .serialTransferStart idx => Sys2Proof.Machine.execSerialTransferStart idx s
  | .ckdivWrite idx v => Sys2Proof.Machine.execCkdivWrite idx v s
  | .mpinOutWrite r v => Sys2Proof.Machine.execMpinOutWrite r v s
  | .safetyWordStart r idx v => Sys2Proof.Machine.execSafetyWordStart r idx v s
  | .safetyWordDone idx rx atMark => Sys2Proof.Machine.execSafetyWordDone idx rx atMark s
  | .registerReadClear r addr set chk => Sys2Proof.Machine.execRegisterReadClear r addr set chk s
  | .registerWrite r addr v set clr same chk => Sys2Proof.Machine.execRegisterWrite r addr v set clr same chk s
  | .pilotSyncAcquired p => Sys2Proof.Machine.execPilotSyncAcquired p s
  | .trimMarkSend => Sys2Proof.Machine.execTrimMarkSend s
  | .hubPowerUp h dual => Sys2Proof.Machine.execHubPowerUp h dual s

end Sys2Proof.Machine
end

