-- ==== Sys2Proof/WellFormed.lean ====
section
/-!
DEFINITION. What makes a command well formed: the bounds that the manual gives its operands and that their types do not hold.
A command is run whatever its operands; nothing in the machine rests on these checks.
-/
namespace Sys2Proof

/-- A count of fabric cycles since the mark: PER_NOW.NOW has 21 bits (02). -/
def fcOk (now : Nat) : Bool := decide (now < 2 ^ 21)
/-- A hub samples at most its 16 cells (R206). -/
def samplesOk (l : List Sample) : Bool := decide (l.length ≤ 16)
/-- A GDDR6 access moves at least one byte inside the 40-bit address space, and a write brings its bytes (R25, R246). -/
def accessOk (addr size : Nat) (data : Option (List Byte)) : Bool :=
  decide (0 < size ∧ addr + size ≤ 2 ^ 40) &&
  match data with
  | some d => d.length == size
  | none => true
/-- A received chain frame: a header of 8 bytes, at most 2,048 payload bytes, and its CRC (R294). -/
def chainFrameOk (bs : List Byte) : Bool := decide (12 ≤ bs.length ∧ bs.length ≤ 2060)
/-- A WRREQ carries 1 to 64 words on a data lane, 1 or 2 on a pilot lane (R295). -/
def wrreqOk (pilot : Bool) (ws : List Word) : Bool := decide (1 ≤ ws.length ∧ ws.length ≤ if pilot then 2 else 64)
/-- The data of a BLKWR or BLKDATA: at most 2,040 bytes, in eights (R294, R295). -/
def bulkOk (d : List Byte) : Bool := decide (d.length ≤ 2040) && d.length % 8 == 0
/-- The payload of an HB: at most 2,048 bytes on a data lane, 16 on a pilot lane (R294). -/
def hbOk (pilot : Bool) (d : List Byte) : Bool := decide (d.length ≤ if pilot then 16 else 2048)
/-- A word of a core's decode table and microword store: offsets 0x0000 to 0x13FF of its part of the page (15). -/
def tableOfsOk (ofs : BitVec 13) : Bool := decide (ofs.toNat < 0x1400) && ofs.toNat % 4 == 0
/-- A register access names a word (R9). -/
def regAddrOk (a : BitVec 40) : Bool := a.toNat % 4 == 0
/-- A readout of a GDDR6 device, in 1/16 °C and 16 bits (the unit of the operand is the model's own: log entry 113). -/
def temperatureOk (t : Int) : Bool := decide (-32768 ≤ t ∧ t < 32768)

def wellFormed : Instr → Bool
  | .launch _ now | .fixReady _ now _ | .closeRequest _ now | .treeExhausted _ now | .chartStep _ now | .chartLookup _ _ now
  | .cmark _ _ _ _ _ _ _ now | .chainMark now | .eventChannel _ _ now _ | .plotSlot _ now | .copy _ _ _ _ _ now => fcOk now
  | .hubMark _ l => samplesOk l
  | .gddr6Access _ a n d _ => accessOk a n d
  | .temperatureReadout _ t => temperatureOk t
  | .chainFrameReceive _ _ bs => chainFrameOk bs
  | .wrreq _ pilot _ _ _ ws _ => wrreqOk pilot ws
  | .blkwr _ _ _ _ _ d _ => bulkOk d
  | .hb pilot _ d => hbOk pilot d
  | .decodeTableWrite _ ofs _ => tableOfsOk ofs
  | .registerWrite _ a _ _ _ same _ => regAddrOk a && same.all fun x => regAddrOk x.addr
  | .registerReadClear _ a _ _ => regAddrOk a
  | _ => true

end Sys2Proof
end

