-- ==== Sys2Proof/Safety.lean ====
section
/-!
DEFINITION. The terms in which claims about a run are stated: the canonical form of a state, the parts of a state, and what a
command leaves unchanged.
-/
namespace Sys2Proof.Machine

/-- Registers and memory are in their canonical form. -/
def State.canonical (s : State) : Bool := Memory.wf s.mem && Registers.wf s.regs

/-- The parts of a state beside its registers and its queue. -/
inductive Part where
  | mem | per | probs | cls | rot | chart | cell | lanes | hubs | cap | gmem | saf | chain | port | cores | boot | flash | clk | pins
  | io | notices | freeCtr | flaws
deriving DecidableEq, Repr

/-- A part is the same in two states; of memory, every byte reads the same. -/
def Part.same (s t : State) : Part → Prop
  | .mem => ∀ a, t.byte a = s.byte a
  | .per => t.per = s.per
  | .probs => t.probs = s.probs
  | .cls => t.cls = s.cls
  | .rot => t.rot = s.rot
  | .chart => t.chart = s.chart
  | .cell => t.cell = s.cell
  | .lanes => t.lanes = s.lanes
  | .hubs => t.hubs = s.hubs
  | .cap => t.cap = s.cap
  | .gmem => t.gmem = s.gmem
  | .saf => t.saf = s.saf
  | .chain => t.chain = s.chain
  | .port => t.port = s.port
  | .cores => t.cores = s.cores
  | .boot => t.boot = s.boot
  | .flash => t.flash = s.flash
  | .clk => t.clk = s.clk
  | .pins => t.pins = s.pins
  | .io => t.io = s.io
  | .notices => t.notices = s.notices
  | .freeCtr => t.freeCtr = s.freeCtr
  | .flaws => t.flaws = s.flaws

/-- Nothing but the parts `ps` and the registers of `rs` differs between s and t. -/
def Frame (ps : List Part) (rs : Nat → Prop) (s t : State) : Prop :=
  (∀ p, p ∉ ps → p.same s t) ∧ (∀ a, ¬ rs a → t.rd a = s.rd a) ∧ t.pending = s.pending

/-- No register. -/
def noReg : Nat → Prop := fun _ => False
/-- The registers of a list. -/
def regsOf (l : List Nat) : Nat → Prop := fun a => a ∈ l
/-- The registers of the pages whose bases are given: a page is the 64 KB at its base (R12). -/
def pagesOf (bases : List Nat) : Nat → Prop := fun a => ∃ b ∈ bases, b ≤ a ∧ a < b + 0x10000

/-- Core n's own parts are all that differs among the cores. -/
def onlyCore (n : CoreN) (s t : State) : Prop := ∀ m, m ≠ n → t.core m = s.core m
/-- Only the general registers `rs` of core n differ; w0 reads 0 (R341). -/
def onlyGpr (n : CoreN) (rs : List RegN) (s t : State) : Prop := ∀ r, r ∉ rs → (t.core n).w[r] = (s.core n).w[r]

/-- A period mark with this count has been raised: the period runs from fabric cycle 0 with no deadline passed, PER_COUNT shows the
count, and the mark notice is the last notice sent (R274). -/
def marked (count : Nat) (t : State) : Prop :=
  t.per.running = true ∧ t.per.stopPending = false ∧ t.per.now = 0 ∧
  t.per.fixPassed = false ∧ t.per.provPassed = false ∧ t.per.srchPassed = false ∧ t.per.chkPassed = false ∧ t.per.commitPassed = false ∧
  t.rd perCount = count % 2 ^ 32 ∧
  ∃ ns, t.notices = ns ++ [withCrc (toLE 1 1 ++ toLE 4 (t.rd perCount) ++ toLE 4 (lenNs t.per.pace t.per.len) ++
    toLE 1 (sumN (allSlots.map fun p => 2 ^ p.val * b2n (t.prob p).enabled)))]

/-- Cause c has been raised for a slot and a unit: its bit of SAF_CAUSE is set and no other bit of it changed, SAF_LASTFLT and
SAF_FLTPCNT record it, and a pending release is gone (R266, R271, R289). -/
def causeRaised (c slot unit : Nat) (s t : State) : Prop :=
  t.bit safCause c = true ∧ (∀ k, k ≠ c → t.bit safCause k = s.bit safCause k) ∧
  t.rd safLastflt = (0x80000000 + slot * 2 ^ 24 + unit * 2 ^ 16 + c) % 2 ^ 32 ∧ t.rd safFltpcnt = s.saf.pcnt.getD 0 % 2 ^ 32 ∧
  t.saf.relPending = false
/-- The safe state is held: every SAFE output is low (R265, R266). -/
def safeHeld (t : State) : Prop := t.safe = true ∧ ∀ i, t.safePin i = false
/-- The parts and registers that a cause can reach. -/
def causeFrame (s t : State) : Prop :=
  Frame [.mem, .cell, .lanes, .cap, .saf, .chain, .pins, .freeCtr] (pagesOf [cellBase, capBase, nvrBase, safBase]) s t

end Sys2Proof.Machine
end

