-- ==== Sys2Proof/Machine/CoreTerms.lean ====
section
/-!
DEFINITION. The terms in which claims about the Helm cores are stated: when an instruction issues, and what a completed one leaves.
-/
namespace Sys2Proof.Machine

/-- Core n stands at a boundary where its next instruction issues: it is on, it runs, it does not wait in WFI (R368), no posted store has
failed, no interrupt is due (R362, R364, R367), and its fetch answers (R339). -/
def State.ready (s : State) (n : CoreN) : Bool :=
  s.coreOn n && (s.core n).atBoundary && (s.core n).posted.isNone && !(s.core n).interruptDue && !(s.core n).wfi && Core.fetchable n (s.core n) &&
  (s.fetch n).1.isNone
/-- The cycle that an instruction reading the registers srcs waits for a load just before it (R352). -/
def Core.loadUse (k : Core) (srcs : List RegN) : Nat :=
  match k.loaded with
  | some r => b2n (srcs.contains r)
  | none => 0
/-- A core k has become k' by an instruction of c cycles that goes on at pc and writes no general register but those of rs: no exception
register, special register, segment register, pending load or posted store changes, and of IPEND at most bit 16 (R343, R363). What goes out to
the comparator is the lockstep pair's alone (R372). -/
def Core.went (n : CoreN) (rs : List RegN) (pc : Word) (c : Nat) (k k' : Core) : Prop :=
  k'.pc = pc ∧ k'.cycle = k.cycle + BitVec.ofNat 64 c ∧ (∀ r, r ∉ rs → k'.r r = k.r r) ∧
  (∀ i, i ≠ 16 → k'.ipend.getLsbD i = k.ipend.getLsbD i) ∧ (n.val ≠ 9 → k'.outs = k.outs) ∧
  k' = { k with w := k'.w, mp := k'.mp, flight := k'.flight, pc := k'.pc, cycle := k'.cycle, ipend := k'.ipend, wfi := k'.wfi,
                loaded := k'.loaded, outs := k'.outs }
/-- Nothing but core n differs, the counter of free values aside. -/
def State.alone (n : CoreN) (s t : State) : Prop := onlyCore n s t ∧ Frame [.cores, .freeCtr] noReg s t
/-- Core n has completed an instruction of c cycles that touches its own registers only. With no write of a multiplier register in
flight, none changes. -/
def State.ran (n : CoreN) (rs : List RegN) (pc : Word) (c : Nat) (s t : State) : Prop :=
  Core.went n rs pc c (s.core n) (t.core n) ∧ s.alone n t ∧
  ((s.core n).flight = [] → (t.core n).mp = (s.core n).mp ∧ (t.core n).flight = [])
/-- A core k has become k' by entering a handler (R363): EPC holds the return address with INTEN in bit 0, STATUS holds HDL alone, the
general and special registers stay, every MP write has landed, the store buffer is empty. -/
def Core.entered (n : CoreN) (cause ret eval vec : Word) (k k' : Core) : Prop :=
  k'.epc = (ret &&& 0xFFFFFFFC) ||| ofBool k.inten ∧ k'.status = 8 ∧ k'.ecause = cause ∧ k'.eval = eval ∧ k'.pc = vec ∧
  k'.w = k.w ∧ k'.flight = [] ∧ k'.stores = [] ∧ k'.running = true ∧ k'.wfi = false ∧
  (k'.evec = k.evec ∧ k'.imask = k.imask ∧ k'.seg = k.seg ∧ k'.scratch = k.scratch ∧ k'.tcmp = k.tcmp ∧ k'.cycleH = k.cycleH ∧
    k'.lsstat = k.lsstat ∧ k'.lsArm = k.lsArm) ∧ (n.val ≠ 9 → k'.outs = k.outs) ∧
  (∀ i, i ≠ 16 → k'.ipend.getLsbD i = k.ipend.getLsbD i)
/-- Core n has entered a handler and nothing else differs. -/
def State.trapped (n : CoreN) (cause ret eval vec : Word) (s t : State) : Prop :=
  Core.entered n cause ret eval vec (s.core n) (t.core n) ∧ s.alone n t

end Sys2Proof.Machine
end

