-- ==== Sys2Proof/Machine/LineCode.lean ====
section
/-!
DEFINITION. Line coding of the cell lanes and of the chain's data lanes: blocks of 64b/66b coding, their sync headers and the order of their
bits (R194, R195, R292), block lock (R196), control blocks and frames as blocks (R197, R198), and the self-synchronous scrambler; and the
characters of the chain's pilot lanes (R293). The commands bring and the lanes hold what the blocks carry, and which receivers are in lock;
the scrambler's register when a block begins depends on the IDLE blocks before it, which no command tells, so it is an argument here (log
entry 116).
-/
namespace Sys2Proof.Machine

/-- A block: its sync header, and its 64 payload bits, bit 0 sent first (R195). -/
structure Block66 where
  sync : BitVec 2
  pay : BitVec 64
deriving DecidableEq, Repr

/-- Byte i of a block occupies payload bits 8i to 8i + 7; the bytes not given are 0 (R195, R197, R198). -/
def payOf (bs : List Byte) : BitVec 64 := BitVec.ofNat 64 (ofLE (bs.take 8))
def dataBlock (bs : List Byte) : Block66 := { sync := 1, pay := payOf bs }
def ctrlBlock (bs : List Byte) : Block66 := { sync := 2, pay := payOf bs }
/-- What a block carries: whether it is a control block, and its bytes; none with an invalid sync header (R195, R196). -/
def Block66.read (b : Block66) : Option (Bool × List Byte) :=
  if b.sync = 1 then some (false, toLE 8 b.pay.toNat) else if b.sync = 2 then some (true, toLE 8 b.pay.toNat) else none

/-! ## The scrambler x^58 + x^39 + 1 (R194): the payload alone goes through it (R195) -/

/-- One bit through the scrambler: `r` holds the last 58 bits sent, the latest in bit 0. -/
def scrambleBit (r : BitVec 58) (b : Bool) : BitVec 58 × Bool :=
  let o := (b ^^ r.getLsbD 38) ^^ r.getLsbD 57
  ((r <<< 1) ||| (BitVec.ofBool o).setWidth 58, o)
/-- One bit through the descrambler: `r` holds the last 58 bits received. -/
def unscrambleBit (r : BitVec 58) (b : Bool) : BitVec 58 × Bool :=
  ((r <<< 1) ||| (BitVec.ofBool b).setWidth 58, (b ^^ r.getLsbD 38) ^^ r.getLsbD 57)
/-- Bits through one of the two, in the order in which they are sent. -/
def throughBits (f : BitVec 58 → Bool → BitVec 58 × Bool) (r : BitVec 58) : List Bool → BitVec 58 × List Bool
  | [] => (r, [])
  | b :: bs =>
    let (r, o) := f r b
    let (r, os) := throughBits f r bs
    (r, o :: os)
def lineBits (p : BitVec 64) : List Bool := (List.range 64).map p.getLsbD
def bitsPay (bs : List Bool) : BitVec 64 := BitVec.ofNat 64 (sumN (bs.zipIdx.map fun b => b2n b.1 * 2 ^ b.2))
/-- A block on the line, and the register after it. -/
def Block66.scramble (r : BitVec 58) (b : Block66) : BitVec 58 × Block66 :=
  let (r, os) := throughBits scrambleBit r (lineBits b.pay)
  (r, { b with pay := bitsPay os })
def Block66.unscramble (r : BitVec 58) (b : Block66) : BitVec 58 × Block66 :=
  let (r, os) := throughBits unscrambleBit r (lineBits b.pay)
  (r, { b with pay := bitsPay os })

/-! ## What the lanes send, as blocks -/

/-- A frame: one SOF block, then data blocks of 8 frame bytes (R198). -/
def frameBlocks (bs : List Byte) : List Block66 :=
  ctrlBlock [0x78] :: (List.range ((bs.length + 7) / 8)).map fun i => dataBlock ((bs.drop (8 * i)).take 8)
/-- The MARK block (R197, R199). -/
def LaneMark.block (m : LaneMark) : Block66 :=
  ctrlBlock (toLE 1 0x33 ++ toLE 2 m.pcnt ++ toLE 1 (m.ofs + 128 * b2n m.role) ++ toLE 3 m.len)
def idleBlock : Block66 := ctrlBlock [0x1E]
/-- The DREQ block of a lane in DELAY (R197, R202). -/
def Lane.dreqBlock (k : Lane) : Block66 := ctrlBlock (toLE 1 0x4B ++ toLE 1 k.token)
/-- What a hub has sent since its last mark, as blocks, newest first: control blocks, and uplink frames (R197, R198). -/
def Hub.outBlocks (k : Hub) : List (Bool × List Block66) :=
  k.out.map fun x => (x.1, if x.2.head? = some 1 then frameBlocks x.2 else [ctrlBlock x.2])
/-- The frames that have left on a lane in the period, as blocks, newest first. -/
def Lane.sentBlocks (k : Lane) : List (List Block66) := k.sent.map fun f => frameBlocks f.bytes

/-! ## What the chain sends (R292 to R294) -/

/-- The CMARK block. -/
def CMark.block (m : CMark) : Block66 := ctrlBlock (toLE 1 0x66 ++ toLE 3 m.ccl ++ toLE 3 m.ofs ++ toLE 1 (m.hops % 64 + 64 * b2n m.hi))
def CFrame.blocks (f : CFrame) : List Block66 := frameBlocks (frameBytes f)
/-- A character of a pilot lane: K28.5, K27.7, K29.7, K28.0, a data character, or none of the code. -/
inductive PilotChar where
  | idle | start | stop | trim | data (b : Byte) | invalid
deriving DecidableEq, Repr
def PilotChar.valid (c : PilotChar) : Bool := c != .invalid
def CFrame.chars (f : CFrame) : List PilotChar := .start :: (frameBytes f).map .data ++ [.stop]

/-! ## Block lock (R196) and pilot sync (R293) -/

/-- Whether a receiver is in lock, and which of its latest blocks or characters were valid, the latest first. -/
structure RxLock where
  locked : Bool := false
  seen : List Bool := []
deriving DecidableEq, Repr
/-- One more comes: n valid ones in a row bring the receiver into lock, and `bad` invalid ones of n take it out. -/
def RxLock.see (n bad : Nat) (k : RxLock) (ok : Bool) : RxLock :=
  let seen := (ok :: k.seen).take n
  { seen, locked := if k.locked then decide (seen.count false < bad) else decide (seen.length = n) && seen.all id }
def RxLock.blocks (k : RxLock) (bs : List Block66) : RxLock := bs.foldl (fun k b => k.see 64 16 b.read.isSome) k
def RxLock.chars (k : RxLock) (cs : List PilotChar) : RxLock := cs.foldl (fun k c => k.see 16 4 c.valid) k

/-! ## The line -/

/-- Blocks on the line from a scrambler register on. -/
def lineOf (r : BitVec 58) : List Block66 → List Block66
  | [] => []
  | b :: bs => (b.scramble r).2 :: lineOf (b.scramble r).1 bs
/-- The blocks that a receiver reads from the line. -/
def lineRead (r : BitVec 58) : List Block66 → List Block66
  | [] => []
  | b :: bs => (b.unscramble r).2 :: lineRead (b.unscramble r).1 bs

end Sys2Proof.Machine
end

