-- ==== Sys2Proof/Certificates/Slice0/Obligations.lean ====
section
/-!
DEFINITION. The statements about the model. Each names the rules of the manual it formalises; a clause that rests on a choice of the
model names the log entry.
-/
open Sys2Proof Sys2Proof.Machine

/-- A step takes the command at the front of the queue and runs it with the queue's rest (log entry 1). -/
def Obligations.StepRunsFront : Prop :=
  ∀ (c : Instr) (s : State) (q : List Instr), step { s with pending := c :: q } = exec c { s with pending := q }

/-- With no command waiting the block idles: the model's choice (log entry 1). -/
def Obligations.EmptyQueueIdles : Prop := ∀ s : State, s.pending = [] → step s = .next s

/-- No command stops the module: exec answers a next state for every command and state, leaves the queue, and keeps the canonical form
of registers and memory. -/
def Obligations.EveryCommandAnswers : Prop :=
  ∀ (c : Instr) (s : State), ∃ t, exec c s = .next t ∧ t.pending = s.pending ∧ (s.canonical = true → t.canonical = true)

/-- Equal register files and equal memories are equal data in every state that steps reach from a canonical one. -/
def Obligations.StepKeepsCanonical : Prop :=
  ∀ s t : State, s.canonical = true → step s = .next t → t.canonical = true

/-- The reset state meets the invariant of StepKeepsCanonical. -/
def Obligations.ResetCanonical : Prop := State.reset.canonical = true ∧ State.reset.pending = []

/-- First in, first out: each step takes the front command and no command adds or removes another. -/
def Obligations.StepTakesOne : Prop := ∀ s t : State, step s = .next t → t.pending = s.pending.tail

/-- MARKS_ENABLE, MARKS_DISABLE, MARK_SOURCE_WRITE, PERIOD_LENGTH_WRITE, DEADLINE_WRITE, TIMER_COMPARE_WRITE (R32, R34, R59). When MARKSRC
takes effect while no mark runs is log entry 36. -/
def Obligations.PeriodPageWrites : Prop :=
  ∀ s : State, s.live .per = true →
  (∃ t, exec .marksEnable s = .next t ∧ t.bit perCtrl 0 = true ∧
    (s.per.running = true → t.per = { s.per with stopPending := false } ∧ t.rd perCount = s.rd perCount) ∧
    (s.per.running = false → s.per.firstPending = false → t.per.firstPending = true ∧ t.rd perCount = 0) ∧
    Frame [.per] (regsOf [perCtrl, perCount]) s t) ∧
  (∃ t, exec .marksDisable s = .next t ∧ t.bit perCtrl 0 = false ∧
    t.per = { s.per with firstPending := false, stopPending := s.per.running } ∧ Frame [.per] (regsOf [perCtrl]) s t) ∧
  (∀ c, ∃ t, exec (.markSourceWrite c) s = .next t ∧ t.bit perCtrl 1 = c ∧ (s.per.running = true → t.per = s.per) ∧
    Frame [.per] (regsOf [perCtrl]) s t) ∧
  (∀ pace v, ∃ t, exec (.periodLengthWrite pace v) s = .next t ∧
    (s.bit perCtrl 31 = true → t = s) ∧
    (s.bit perCtrl 31 = false → (lenRange pace).1 ≤ v.toNat % 2 ^ 21 → v.toNat % 2 ^ 21 ≤ (lenRange pace).2 →
      t.rd (perLen pace) = v.toNat % 2 ^ 21 ∧ Frame [] (regsOf [perLen pace]) s t) ∧
    (s.bit perCtrl 31 = false → v.toNat % 2 ^ 21 < (lenRange pace).1 ∨ (lenRange pace).2 < v.toNat % 2 ^ 21 →
      t.bit perStatus 0 = true ∧ Frame [] (regsOf [perStatus]) s t)) ∧
  (∀ r v, ∃ t, exec (.deadlineWrite r v) s = .next t ∧ (s.bit perCtrl 31 = true → t = s) ∧
    (s.bit perCtrl 31 = false → t.rd (perDl r) = v.toNat &&& (if r = 2 then 0x3FF else 0x03FF03FF) ∧ t.per = { s.per with dlNew := true }) ∧
    Frame [.per] (regsOf [perDl r]) s t) ∧
  (∀ n v, ∃ t, exec (.timerCompareWrite n v) s = .next t ∧ t.rd (perTmrCmp n) = v.toNat % 2 ^ 24 ∧
    Frame [.per] (regsOf [perTmrCmp n]) s t)

/-- PERIOD_MARK, CHAIN_MARK, FLYWHEEL_MARK (R32, R35, R59, R274, R309, R311). A command that is not of the mark source in force does
nothing (log entry 36). -/
def Obligations.Marks : Prop :=
  ∀ s : State,
  let changed (t : State) : Prop :=
    Frame [.mem, .per, .probs, .cls, .rot, .chart, .cell, .lanes, .cap, .saf, .chain, .clk, .pins, .io, .notices, .freeCtr]
      (pagesOf [perBase, srchBase, chrtBase, cellBase, capBase, chnBase, clkBase, nvrBase, safBase]) s t
  let next := if s.per.firstPending then 0 else s.rd perCount + 1
  let ended (t : State) : Prop := t.per.running = false ∧ t.per.stopPending = false ∧ t.rd perCount = s.rd perCount ∧ changed t
  (s.live .per = true → s.per.running = true ∨ s.per.firstPending = true →
    (s.per.chainSrc = false →
      (s.per.stopPending = false → ∃ t, exec .periodMark s = .next t ∧ marked next t ∧ changed t) ∧
      (s.per.stopPending = true → ∃ t, exec .periodMark s = .next t ∧ ended t) ∧
      ∀ now, exec (.chainMark now) s = .next s ∧ exec .flywheelMark s = .next s) ∧
    (s.per.chainSrc = true → exec .periodMark s = .next s ∧
      (∀ now c h p, s.live .chn = true → s.chain.pendMark = some (c, h, p) →
        (s.per.stopPending = false → ∃ t, exec (.chainMark now) s = .next t ∧ marked c t ∧ changed t) ∧
        (s.per.stopPending = true → ∃ t, exec (.chainMark now) s = .next t ∧ ended t)) ∧
      (s.per.running = true → s.chain.pendMark = none →
        (s.per.stopPending = false → ∃ t, exec .flywheelMark s = .next t ∧ marked next t ∧ changed t) ∧
        (s.per.stopPending = true → ∃ t, exec .flywheelMark s = .next t ∧ ended t)))) ∧
  (s.live .per = false ∨ s.per.running = false ∧ s.per.firstPending = false →
    exec .periodMark s = .next s ∧ exec .flywheelMark s = .next s ∧ ∀ now, exec (.chainMark now) s = .next s)

/-- FIX_DEADLINE, PROVISIONAL_SEND, SEARCH_DEADLINE, CHECK_DEADLINE, COMMIT_DEADLINE, GENERAL_TIMER_FIRE (R36, R46 to R52, R58, R59). -/
def Obligations.Deadlines : Prop :=
  ∀ s : State, s.live .per = true →
  (s.per.running = true → s.per.fixPassed = false →
    ∃ t, exec .fixDeadline s = .next t ∧ t.per = { s.per with fixPassed := true, now := Nat.max s.per.now (s.dlFc 0) } ∧
      (∀ p : Slot, (s.prob p).launched = true → (s.prob p).byMark = true → (s.prob p).fixRdy = false → t.bit perStatus (8 + p) = true) ∧
      Frame [.mem, .per, .probs, .cell, .lanes, .cap, .saf, .chain, .pins, .notices, .freeCtr]
        (pagesOf [perBase, cellBase, capBase, nvrBase, safBase]) s t) ∧
  (s.per.running = true → s.per.fixPassed = true → s.per.provPassed = false →
    ∃ t, exec .provisionalSend s = .next t ∧ t.per = { s.per with provPassed := true, now := Nat.max s.per.now (s.dlFc 1) } ∧
      (∀ p : Slot, s.safe = false → s.live .srch = true → (s.prob p).launched = true → (s.prob p).byMark = true →
        s.phase p = 2 ∨ s.phase p = 4 → (s.prob p).decided = false → s.fixSettled (s.prob p) = true →
        (t.prob p).provGather = (s.bestOf p).bind fun i => i.course.head?) ∧
      (∀ p : Slot, s.safe = false → s.live .srch = true → (s.prob p).launched = true → (s.prob p).byMark = true →
        s.phase p = 1 ∨ s.phase p = 2 ∨ s.phase p = 4 → (s.prob p).decided = false → s.fixSettled (s.prob p) = false →
        (s.prob p).fixRdy = true → t.prob p = { s.prob p with provWait := true }) ∧
      Frame [.per, .probs, .lanes, .pins] noReg s t) ∧
  (s.per.running = true → s.per.provPassed = true → s.per.srchPassed = false →
    ∃ t, exec .searchDeadline s = .next t ∧ t.per = { s.per with srchPassed := true, now := Nat.max s.per.now (s.dlFc 2) } ∧
      (∀ p : Slot, s.live .srch = true → s.phase p = 2 ∨ s.phase p = 3 →
        let q := (s.prob p).unstallAt (s.dlFc 2)
        let lost := q.tbl.determ = true ∧ s.dlFc 2 < q.launchFc + s.sClose q + q.stall
        (lost → t.bit srchStatus (4 + p) = true) ∧ (t.prob p).stall = q.stall ∧ (t.prob p).provWait = q.provWait ∧
        (q.tbl.determ = true → q.tbl.budget ≠ 0 → ¬ lost → (t.prob p).close = 2) ∧
        (q.tbl.determ = false ∨ q.tbl.budget = 0 ∨ lost → (t.prob p).close = 3)) ∧
      Frame [.per, .probs, .cls, .cap, .pins] (pagesOf [perBase, srchBase, capBase]) s t) ∧
  (s.per.running = true → s.per.srchPassed = true → s.per.chkPassed = false →
    ∃ t, exec .checkDeadline s = .next t ∧ t.per = { s.per with chkPassed := true, now := Nat.max s.per.now (s.dlFc 3) } ∧
      (∀ p : Slot, s.live .srch = true → (s.prob p).launched = true → (s.prob p).recDue = false → (s.prob p).tbl.check ≠ 2 →
        s.phase p = 2 ∨ s.phase p = 3 ∨ s.phase p = 4 → (t.prob p).verdict = 3 ∧ (t.prob p).recDue = true ∧ (t.prob p).inc = none ∧
        t.bit srchFault p = true ∧ t.bit srchFaultcl 31 = true) ∧
      Frame [.per, .probs, .cap, .pins, .freeCtr] (pagesOf [perBase, srchBase, capBase]) s t) ∧
  (s.per.running = true → s.per.chkPassed = true → s.per.commitPassed = false →
    ∃ t, exec .commitDeadline s = .next t ∧ t.per = { s.per with commitPassed := true, now := Nat.max s.per.now (s.dlFc 4) } ∧
      (∀ p : Slot, (s.prob p).enabled = true → (s.prob p).reported = false → (s.prob p).missed = false → t.bit perStatus (4 + p) = true) ∧
      Frame [.per, .probs, .cell, .lanes, .cap, .chain, .pins, .notices] (pagesOf [perBase, cellBase, capBase]) s t) ∧
  (∀ n : Fin 4, s.bit (perTmrCtrl n) 0 = true →
    (if s.bit (perTmrCtrl n) 1 then s.per.tmrCur[n] ≠ 0 else s.per.running = true ∧ s.rd (perTmrCmp n) < s.per.len) →
    ∃ t, exec (.generalTimerFire n) s = .next t ∧
      (s.live .evt = true → ∀ c : Fin 32, s.chanOn c = true → t.pins.evts[c] = s.pins.evts[c] + producers s c (0x08 + n)) ∧
      t.per.tmrCur[n] = (if s.bit (perTmrCtrl n) 1 then s.rd (perTmrCmp n) else s.per.tmrCur[n]) ∧
      Frame [.per, .pins] noReg s t)

/-- LAUNCH and LATCH (R38, R83, R86, R113, R116, R282). What an uncorrectable word of the table does is log entry 102; that a launch with
ENABLE 0 sets LERR is log entry 99. -/
def Obligations.LaunchAndLatch : Prop :=
  ∀ (s : State) (p : Slot), s.live .srch = true →
  (∀ now, ((slotTable s p).runahead = false ∨ s.bit (srchPstat p) 3 = true) → (s.prob p).launched = false → s.per.srchPassed = false →
      s.rot.powerupDone = true → (slotTable s p).enable = true →
    ∃ t, exec (.launch p now) s = .next t ∧ t.phase p = 1 ∧ (t.prob p).launched = true ∧ (t.prob p).enabled = true ∧ (t.prob p).tbl = slotTable s p ∧
      (t.prob p).launchFc = Nat.max s.per.now now ∧ (∀ r, r ≠ p → t.prob r = s.prob r) ∧
      Frame [.per, .probs, .pins] (pagesOf [srchBase, cellBase]) s t) ∧
  (∀ now, ((slotTable s p).runahead = true ∧ s.bit (srchPstat p) 3 = false ∨ (s.prob p).launched = true ∨ s.per.srchPassed = true ∨
      s.rot.powerupDone = false) →
    ∃ t, exec (.launch p now) s = .next t ∧ t.bit srchStatus (12 + p) = true ∧ t.probs = s.probs ∧
      Frame [.per, .pins] (regsOf [srchStatus]) s t) ∧
  (∀ now, ((slotTable s p).runahead = false ∨ s.bit (srchPstat p) 3 = true) → (s.prob p).launched = false → s.per.srchPassed = false →
      s.rot.powerupDone = true → (slotTable s p).enable = false →
    ∃ t, exec (.launch p now) s = .next t ∧ t.bit srchStatus (12 + p) = true ∧ t.prob p = { s.prob p with wasEnabled := false } ∧
      (∀ r, r ≠ p → t.prob r = s.prob r) ∧ Frame [.per, .probs, .pins] (regsOf [srchStatus]) s t) ∧
  (∀ ue, s.phase p = 1 →
    let hurt := (s.noteSlot p ue).bad (slotBase p) tableBytes
    ∃ t, exec (.latch p ue) s = .next t ∧ (t.phase p = 2 ∨ t.phase p = 4 ∨ t.phase p = 5) ∧ (t.prob p).stalled = [] ∧
      (hurt = false → (s.prob p).code ≠ 0 → t.phase p = 5 ∧ (t.prob p).close = 6 ∧ (t.prob p).recDue = true ∧
        ((s.prob p).enabled = true → (t.prob p).missed = true)) ∧
      (hurt = true → t.phase p = 5 ∧ (t.prob p).close = 5 ∧ (t.prob p).verdict = 2 ∧ (t.prob p).recDue = true ∧ (t.prob p).inc = none) ∧
      Frame [.mem, .probs, .cls, .cap, .pins, .flaws] (pagesOf [perBase, srchBase, chrtBase, capBase]) s t)

/-- While the clusters are stalled for a lookup none of these acts (R107, R109).
BATCH_ISSUE, BATCH_LANDING, REFINED_BOUND, STEAL_TRANSFER, DETERMINISTIC_DEAL, SHARING_POINT, SHARING_WRITE, SHADOW_EVALUATION (R99, R101,
R103, R105, R108, R121, R122). -/
def Obligations.SearchLoop : Prop :=
  ∀ (s : State) (p : Slot), s.live .srch = true →
  let q := s.prob p
  (∀ c, (s.cl c).owner = some p → s.phase p = 2 → q.chWait = none → q.emask.testBit c = true → q.stage1 = false →
    (∀ n rest, (s.cl c).frontier = n :: rest → ∃ t, exec (.batchIssue c) s = .next t ∧
      ((q.prune (s.cl c).inc n.lb n.pfx).2 = true → (t.cl c).frontier = touchTop rest ∧ (t.cl c).flight = (s.cl c).flight) ∧
      ((q.prune (s.cl c).inc n.lb n.pfx).2 = false → (nextBatch q n).1 ≠ [] →
        (t.cl c).flight = (s.cl c).flight ++ [{ parent := n, kids := (nextBatch q n).1 }] ∧ (nextBatch q n).1.length ≤ batchWidth q.tbl.check ∧
        (t.prob p).legs = q.legs + (nextBatch q n).1.length) ∧
      (∀ d, d ≠ c → t.cl d = s.cl d) ∧ (∀ r, r ≠ p → t.prob r = s.prob r) ∧ Frame [.probs, .cls] noReg s t) ∧
    ((s.cl c).frontier = [] → q.tbl.determ = false → (∀ x ∈ q.steals, x.taker ≠ c) →
      ∃ t, exec (.batchIssue c) s = .next t ∧ (t.cl c).stealReq = true ∧ (∀ d, d ≠ c → t.cl d = s.cl d) ∧ Frame [.cls] noReg s t)) ∧
  (∀ c, s.serving c = some p → q.emask.testBit c = true → q.gathered = false → 1 ≤ s.phase p → s.phase p ≤ 4 →
    (s.phase p = 2 ∨ s.phase p = 4 → q.chWait = none → ∀ b bs, (s.cl c).flight = b :: bs →
      ∃ t, exec (.batchLanding c .none) s = .next t ∧ (t.cl c).flight = bs ∧ Frame [.probs, .cls] (pagesOf [srchBase]) s t) ∧
    -- the checks of every fabric cycle, in the latch and in a stall too
    (∀ f bit, f = LaneFault.duplex ∧ bit = 4 ∧ q.tbl.check ≠ 2 ∨ f = LaneFault.scratchUncorrectable ∧ bit = 12 →
      ∃ t, exec (.batchLanding c f) s = .next t ∧ t.bit srchFault (bit + p) = true ∧ (t.prob p).verdict = 2 ∧
        (t.prob p).recDue = true ∧ (t.prob p).close = 5 ∧ (t.prob p).inc = none ∧ t.phase p = 5 ∧
        (t.prob p).stall = (q.unstallAt s.per.now).stall ∧
        Frame [.mem, .probs, .cls, .cap, .pins, .flaws] (pagesOf [perBase, srchBase, capBase]) s t ∧
        (s.phase p ≠ 1 → Part.mem.same s t ∧ Part.flaws.same s t)) ∧
    (∃ t, exec (.batchLanding c .scratchCorrected) s = .next t ∧
      t.fld srchEcccnt 15 0 = Nat.min (s.fld srchEcccnt 15 0 + 1) 65535)) ∧
  (∀ c i n, (s.cl c).owner = some p → (s.cl c).frontier[i]? = some n → s.phase p = 2 → q.chWait = none → n.seen = true → n.refined = false → q.stage1 = false →
    ∃ t, exec (.refinedBound c i) s = .next t ∧
      (t.cl c).frontier[i]? = some { n with lb := Nat.max n.lb (refinedBound q.tbl q.umax n.x (n.levels q.u) n.d n.acc), refined := true } ∧
      (∀ j, j ≠ i → (t.cl c).frontier[j]? = (s.cl c).frontier[j]?) ∧ (∀ d, d ≠ c → t.cl d = s.cl d) ∧ Frame [.cls] noReg s t) ∧
  (∀ c x n ns, (s.cl c).owner = some p → s.phase p = 2 → q.steals.find? (fun x => x.taker == c) = some x → x.nodes = n :: ns →
    ∃ t, exec (.stealTransfer c) s = .next t ∧ (t.cl c).frontier = touchTop ((s.cl c).frontier ++ [n]) ∧ (t.prob p).nSteal = q.nSteal + 1 ∧
      (∀ d, d ≠ c → t.cl d = s.cl d) ∧ Frame [.probs, .cls] noReg s t) ∧
  (∀ low, (clsOf q.emask).head? = some low → s.phase p = 2 → q.chWait = none → q.stage1 = true → q.lvl = [] → (s.cl low).flight = [] →
    q.nxt = [] ∨ 4 * (clsOf q.emask).length ≤ q.nxt.length →
    ∃ t, exec (.deterministicDeal p) s = .next t ∧ (t.prob p).stage1 = false ∧ (t.prob p).nxt = [] ∧
      (∀ i c, (clsOf q.emask)[i]? = some c →
        (t.cl c).frontier = touchTop ((q.nxt.zipIdx.filter fun n => n.2 % (clsOf q.emask).length == i).map (·.1))) ∧
      Frame [.probs, .cls] noReg s t) ∧
  (s.phase p = 2 ∨ s.phase p = 3 → q.chWait = none → ∃ t, exec (.sharingPoint p) s = .next t ∧ (t.prob p).share = s.bestOf p ∧
    (∀ i, s.bestOf p = some i → t.rd (srchPincl p) = i.cost % 2 ^ 32 ∧ t.rd (srchPinch p) = (0x80000000 + i.cost / 2 ^ 32) % 2 ^ 32) ∧
    (s.bestOf p = none → t.rd (srchPincl p) = 0 ∧ t.rd (srchPinch p) = 0) ∧
    Frame [.probs, .cls] (regsOf [srchPincl p, srchPinch p]) s t) ∧
  (∀ i, q.share = some i → q.chWait = none → s.phase p = 2 ∨ s.phase p = 4 ∧ q.gathered = false →
    ∃ t, exec (.sharingWrite p) s = .next t ∧ (t.prob p).share = none ∧
      (∀ c, c ∈ clsOf q.emask → (t.cl c).inc = if better i.cost i.course (s.cl c).inc then some i else (s.cl c).inc) ∧
      (∀ c, c ∉ clsOf q.emask → t.cl c = s.cl c) ∧ Frame [.probs, .cls] noReg s t) ∧
  (∀ c i, (s.cl c).owner = some p → (s.cl c).inc = some i → q.tbl.check = 1 → s.phase p = 2 ∨ s.phase p = 4 →
    ∃ t, exec (.shadowEvaluation c) s = .next t ∧
      t.cl c = { s.cl c with shadow := some (i.course, shadowEval q.tbl q.umax q.x0 q.u i.course) } ∧
      (∀ d, d ≠ c → t.cl d = s.cl d) ∧ Frame [.cls] noReg s t)

/-- SHIFTED_SEED_OFFER, CHART_SEED_OFFER, CHART_STEP, FIX_READY, COMPARISON, DETERMINISTIC_COMPARISON, CORRECTION_SETUP (R41 to R46, R102, R109,
R110, R113, R114, R282). A lookup that waits from CHART_STEP is log entry 43, the wait after a correction log entry 21, an uncorrectable word
of the observed state log entry 102. -/
def Obligations.SeedsAndFix : Prop :=
  ∀ (s : State) (p : Slot), s.live .srch = true →
  let q := s.prob p
  let taken (c : Course) (src : Nat) (t : State) : Prop := ∀ k, k ∈ clsOf q.emask → ∀ cost, courseCost q.tbl q.umax q.x0 q.u c = some cost →
    (t.cl k).inc = if better cost c (s.cl k).inc then some { cost, course := c, src } else (s.cl k).inc
  let compared (t : State) : Prop :=
    (t.prob p).compared = true ∧ (t.prob p).resid = residual q.tbl (q.fixObs.getD []) q.xhat ∧
    (agrees q.tbl (q.fixObs.getD []) q.xhat = true → t.phase p = s.phase p ∧ (t.prob p).corr = q.corr) ∧
    (agrees q.tbl (q.fixObs.getD []) q.xhat = false → q.recDue = false → q.decided = false →
      (stepModel q.tbl (q.fixObs.getD []) q.u 0).2 = false →
      t.phase p = 3 ∧ (t.prob p).corr = true ∧ (t.prob p).x0n = (stepModel q.tbl (q.fixObs.getD []) q.u 0).1) ∧
    (agrees q.tbl (q.fixObs.getD []) q.xhat = false → q.recDue = false → q.decided = false →
      (stepModel q.tbl (q.fixObs.getD []) q.u 0).2 = true → t.phase p = 5 ∧ (t.prob p).close = 7 ∧ (t.prob p).recDue = true) ∧
    Frame [.probs, .cls, .cap, .pins] (pagesOf [perBase, srchBase, capBase]) s t
  (∀ c, q.shifted = some c → q.shiftPend = true → q.chWait = none → s.phase p = 2 ∨ s.phase p = 3 →
    ∃ t, exec (.shiftedSeedOffer p) s = .next t ∧ (t.prob p).shiftPend = false ∧ (t.prob p).legs = q.legs + q.tbl.h ∧ taken c 2 t ∧
      (courseCost q.tbl q.umax q.x0 q.u c = none → (t.prob p).shifted = none ∧ t.cls = s.cls) ∧
      Frame [.probs, .cls] (pagesOf [srchBase]) s t) ∧
  (∀ c, q.seedPend = some c → q.chWait = none → q.tbl.determ = false ∨ q.chStepped = true → s.phase p = 2 ∨ s.phase p = 3 →
    ∃ t, exec (.chartSeedOffer p) s = .next t ∧ (t.prob p).seedPend = none ∧ (t.prob p).legs = q.legs + q.tbl.h ∧ taken c 3 t ∧
      (courseCost q.tbl q.umax q.x0 q.u c = none → t.cls = s.cls) ∧
      (courseCost q.tbl q.umax q.x0 q.u c ≠ none → (t.prob p).chartSeed = true ∧ (t.prob p).seedChart = some c) ∧
      Frame [.probs, .cls] (pagesOf [srchBase]) s t) ∧
  (∀ now, s.phase p = 1 ∨ s.phase p = 2 ∨ s.phase p = 3 → q.tbl.determ = true → q.chStepped = false →
    ∃ t, exec (.chartStep p now) s = .next t ∧ (t.prob p).chStepped = true ∧ (t.prob p).chWait = (if q.lookup then some now else none) ∧
      Frame [.per, .probs] noReg s t) ∧
  (∀ now, q.byMark = true → q.fixRdy = false → s.obsBad p = false →
    let late := s.per.fixPassed || decide (Nat.max s.per.now now > s.dlFc 0)
    ∃ t, exec (.fixReady p now none) s = .next t ∧
      t.prob p = { q with fixRdy := true, fixLate := late, drOnly := q.drOnly || late, fixObs := some (readObs s p q.tbl.nx) } ∧
      Frame [.per, .probs, .pins] noReg s t) ∧
  (∀ now ue, q.byMark = true → q.fixRdy = false → (s.noteSlot p ue).obsBad p = true → q.recDue = false → q.decided = false →
    ∃ t, exec (.fixReady p now ue) s = .next t ∧ (t.prob p).fixRdy = true ∧ (t.prob p).fixObs = q.fixObs ∧ (t.prob p).verdict = 2 ∧
      (t.prob p).close = 5 ∧ (t.prob p).recDue = true ∧ t.phase p = 5 ∧
      Frame [.per, .probs, .cls, .cap, .pins, .flaws] (pagesOf [perBase, srchBase, capBase]) s t) ∧
  (∀ now, (q.byMark = true ∧ q.fixRdy = true ∨ q.byMark = false ∧ s.bit (srchPstat p) 3 = false) →
    ∃ t, exec (.fixReady p now none) s = .next t ∧ t.bit srchStatus (16 + p) = true ∧ Frame [.per, .pins] (regsOf [srchStatus]) s t) ∧
  (∀ now, q.byMark = false → s.bit (srchPstat p) 3 = true → ∃ t, exec (.fixReady p now none) s = .next t ∧ Frame [.per, .pins] noReg s t) ∧
  (s.comparable p = true → q.tbl.determ = false → ∃ t, exec (.comparison p) s = .next t ∧ compared t) ∧
  (s.comparable p = true → q.tbl.determ = true → q.chWait = none → s.per.fixPassed = true → ∃ t, exec (.deterministicComparison p) s = .next t ∧ compared t) ∧
  (s.phase p = 3 → q.chWait = none → ∃ t, exec (.correctionSetup p) s = .next t ∧ t.phase p = 2 ∧ (t.prob p).x0 = q.x0n ∧
    (t.prob p).chWait = (if q.tbl.determ ∧ q.chStepped ∧ q.chartBuf.isSome then some s.per.now else none) ∧ (t.prob p).shiftPend = false ∧ (t.prob p).lookup = q.chartBuf.isSome ∧ Frame [.probs, .cls] (pagesOf [srchBase, chrtBase]) s t)

/-- CLOSE_REQUEST, BUDGET_EXPIRY, TREE_EXHAUSTED, DETERMINISTIC_CLOSE (R47, R111, R115, R116). Code 3 under DETERM 1 with BUDGET 0 is log
entry 20. -/
def Obligations.Closing : Prop :=
  ∀ (s : State) (p : Slot), s.live .srch = true →
  let q := s.prob p
  let closed (code fc : Nat) (t : State) : Prop := (t.prob p).close = code ∧ (t.prob p).closeFc = fc ∧ t.phase p = 4 ∧
    t.fld (srchPstat p) 7 4 = code ∧ (∀ r, r ≠ p → t.prob r = s.prob r)
  (∀ now, s.phase p = 2 ∨ s.phase p = 3 → ∃ t, exec (.closeRequest p now) s = .next t ∧ closed 4 (Nat.max s.per.now now - q.launchFc) t ∧
    Frame [.per, .probs, .cls, .pins] (pagesOf [srchBase]) s t) ∧
  (∀ now, s.phase p = 1 → ∃ t, exec (.closeRequest p now) s = .next t ∧ (t.prob p).closeAtLatch = 4 ∧ Frame [.per, .probs, .pins] noReg s t) ∧
  (∀ now, s.phase p = 0 ∨ 4 ≤ s.phase p → ∃ t, exec (.closeRequest p now) s = .next t ∧ t.bit srchStatus (8 + p) = true ∧
    Frame [.per, .pins] (regsOf [srchStatus]) s t) ∧
  (s.phase p = 2 ∨ s.phase p = 3 → q.tbl.budget ≠ 0 → q.tbl.determ = false → q.launchFc + (q.tbl.budget + q.stall) < s.dlFc 2 →
    ∃ t, exec (.budgetExpiry p) s = .next t ∧ closed 2 (q.tbl.budget + q.stall) t ∧ Frame [.probs, .cls] (pagesOf [srchBase]) s t) ∧
  (∀ now, s.phase p = 2 → q.chWait = none → s.exhausted p = true → ∃ t, exec (.treeExhausted p now) s = .next t ∧
    closed 1 (Nat.max s.per.now now - q.launchFc) t ∧ Frame [.per, .probs, .cls] (pagesOf [srchBase]) s t) ∧
  (s.phase p = 2 ∨ s.phase p = 3 → q.tbl.determ = true → q.chWait = none → q.launchFc + (Nat.max (s.sClose q) 256 + q.stall) ≤ s.dlFc 2 →
    ∃ t, exec (.deterministicClose p) s = .next t ∧
      closed (if q.tbl.budget ≠ 0 then 2 else 3)
        (Nat.max (s.sClose q) 256 + q.stall) t ∧ Frame [.probs, .cls] (pagesOf [srchBase]) s t)

/-- PROVISIONAL_GATHER, FINAL_GATHER, DUPLEX_VERDICT, SHADOW_VERDICT, RESULT_RECORD_WRITE (R48 to R51, R104, R117 to R119, R121, R123). When the
fix of a period has settled is log entry 19. -/
def Obligations.GatherAndVerdict : Prop :=
  ∀ (s : State) (p : Slot), s.live .srch = true →
  let q := s.prob p
  let passed (t : State) : Prop := (t.prob p).decided = true ∧ (t.prob p).recDue = true ∧ t.phase p = 5
  (∀ leg, q.provGather = some leg → q.decided = false → q.recDue = false → s.per.srchPassed = false →
    ∃ t, exec (.provisionalGather p) s = .next t ∧ (t.prob p).provGather = none ∧
      -- the leg reaches the sorter, or a CELL block that does not act
      (s.live .cell = true → (∃ j, t.cell.sels[p].job = some j ∧ j.kind = 0x11 ∧ j.targets = (armsOf q.tbl).zip leg) ∧
        t.cell.order = s.cell.order.filter (· != p) ++ [p]) ∧ (s.live .cell = false → t.cell = s.cell) ∧
      Frame [.probs, .cell] (pagesOf [cellBase]) s t) ∧
  (s.phase p = 4 → q.gathered = false → s.fixSettled q = true → s.bestOf p = none → (∀ c, c ∈ clsOf q.emask → (s.cl c).flight = []) → q.tbl.chart ≠ 2 →
    ∃ t, exec (.finalGather p) s = .next t ∧ (t.prob p).recDue = true ∧ (t.prob p).close = q.close ∧ t.phase p = 5 ∧
      (q.enabled = true → (t.prob p).missed = true) ∧
      Frame [.probs, .cls, .cell, .lanes, .cap, .pins, .notices] (pagesOf [perBase, srchBase, cellBase, capBase]) s t) ∧
  (∀ i, s.phase p = 4 → q.gathered = false → s.fixSettled q = true → (s.drain p).bestOf p = some i →
    ∃ t, exec (.finalGather p) s = .next t ∧
      (((s.drain p).prob p).tbl.check ≠ 2 → (t.prob p).gathered = true ∧ (t.prob p).inc = some i) ∧
      (((s.drain p).prob p).tbl.check = 2 → passed t) ∧
      Frame [.probs, .cls, .cell, .lanes, .cap, .pins, .notices] (pagesOf [perBase, srchBase, cellBase, capBase]) s t) ∧
  (s.awaiting p 0 = true → ∃ t, exec (.duplexVerdict p) s = .next t ∧ (t.prob p).verdict = 1 ∧ passed t ∧
    Frame [.probs, .cell, .lanes, .notices] (pagesOf [srchBase, cellBase]) s t) ∧
  (∀ copyOk i, q.inc = some i → s.awaiting p 1 = true →
    let r := shadowEval q.tbl q.umax q.x0 q.u i.course
    ∃ t, exec (.shadowVerdict p copyOk) s = .next t ∧ (t.prob p).shDiff = sat32 (Machine.dist i.cost r.1) ∧
      (copyOk = true ∧ r.2 = true ∧ (Machine.dist i.cost r.1 ≤ q.tsh ∨ q.tshWide = true) → (t.prob p).verdict = 1 ∧ passed t) ∧
      (¬ (copyOk = true ∧ r.2 = true ∧ (Machine.dist i.cost r.1 ≤ q.tsh ∨ q.tshWide = true)) →
        (t.prob p).verdict = 2 ∧ (t.prob p).inc = none ∧ (t.prob p).recDue = true ∧ t.bit srchFault (8 + p) = true) ∧
      Frame [.probs, .cell, .lanes, .cap, .pins, .notices] (pagesOf [perBase, srchBase, cellBase, capBase]) s t) ∧
  (q.recDue = true → q.recDone = false →
    ∃ t, exec (.resultRecordWrite p) s = .next t ∧ (t.prob p).recDone = true ∧
      t.word (slotBase p + 0x1080) = q.launchCount % 2 ^ 32 ∧ t.word (slotBase p + 0x1120) = q.launchCount % 2 ^ 32 ∧
      t.bytes (slotBase p + 0x1084) 156 = recordBytes q ∧
      (∀ a, a < slotBase p + 0x1080 ∨ slotBase p + 0x1124 ≤ a → t.byte a = s.byte a) ∧ Frame [.mem, .probs, .pins] noReg s t)

/-- SELECTION, DOWNLINK_FRAME_SEND, SWITCH_COUNT_DECAY, CNTCLR (R52, R178, R181 to R187, R216). -/
def Obligations.SelectionAndFrames : Prop :=
  ∀ s : State, s.live .cell = true →
  (∀ (p : Slot) (a : ArmN) j ss k, s.cell.sels[p].job = some j → s.cell.sels[p].snap = some ss → ss.find? (fun k => k.arm == a.val) = some k →
    ((s.cell.order.flatMap fun q => match s.cell.sels[q].job with
      | some j => j.todo.map fun b => (q, b)
      | none => []).take 4).contains (p, a.val) = true →
    let r := s.select k (lookD 0 j.targets a)
    ∃ t, exec (.selection p a) s = .next t ∧
      t.rd (cellAstat a) = putBits (s.rd (cellAstat a)) 23 0 (r.1.ins.length * 65536 + r.1.swaps * 256 + b2n r.2) ∧
      (r.2 = true → t.bit cellSelstat 1 = true) ∧
      (j.todo.filter (· != a.val) ≠ [] → t.cell.sels[p].job = some { j with
        todo := j.todo.filter (· != a.val), words := j.words ++ s.armWords k r.1, realised := j.realised ++ [(a.val, r.1.ins.length)] }) ∧
      (j.todo.filter (· != a.val) = [] → t.cell.sels[p].job = none) ∧
      Frame [.probs, .cell, .lanes, .notices] (regsOf [cellAstat a, cellShortLo, cellShortHi, cellSelstat]) s t) ∧
  (∀ (l : LaneN) f rest, (s.lane l).queue = f :: rest → s.fld (cellLstat l) 2 0 = 4 ∨ s.fld (cellLstat l) 2 0 = 3 ∧ f.kind = 0x21 →
    f.kind = 0x21 ∨ s.per.commitPassed = false →
    ∃ t, exec (.downlinkFrameSend l) s = .next t ∧ (t.lane l).queue = rest ∧
      (f.rtx ≠ 0 → (t.lane l).await = (s.lane l).await ++ [f] ∧ t.fld (cellLerr l) 23 16 = Nat.min (s.fld (cellLerr l) 23 16 + 1) 255) ∧
      (∀ n, f.rtx = 0 → (s.lane l).seq = some n →
        (t.lane l).await = (s.lane l).await ++ [{ f with seq := n, role := s.role, pcnt := if f.kind = 0x21 then s.pcnt16 else f.pcnt }] ∧
        (t.lane l).seq = some ((n + 1) % 256)) ∧
      (∀ m, m ≠ l → t.lane m = s.lane m) ∧ Frame [.probs, .cell, .lanes, .notices, .freeCtr] (regsOf [cellLerr l]) s t) ∧
  (∀ a : ArmN, s.cell.due.contains a.val = true →
    ∃ t, exec (.switchCountDecay a) s = .next t ∧ t.cell = { s.cell with due := s.cell.due.filter (· != a.val) } ∧
      (∀ n, (s.armCells a).filter (fun m => m % 1024 == n % 1024) = [n] → t.fld (cellCst n) 31 16 = s.fld (cellCst n) 31 16 / 2 ∧
        t.fld (cellCst n) 15 0 = s.fld (cellCst n) 15 0) ∧
      Frame [.cell] (fun x => ∃ n ∈ s.armCells a, x = cellCst n) s t) ∧
  (∃ t, exec .cntclr s = .next t ∧ t.cell = { s.cell with clrPending := true } ∧ Frame [.cell] noReg s t)

/-- LANE_ENABLE, LANE_DISABLE, BLOCK_LOCK_ACQUIRED and BLOCK_LOCK_LOST on a cell lane, DECHO, ACK, ACK_TIMEOUT (R196, R197, R202, R216, R218,
R219, R222, R223). -/
def Obligations.LaneStates : Prop :=
  ∀ (s : State) (l : LaneN), s.live .cell = true →
  let k := s.lane l
  let st := s.laneState l
  let alone (t : State) : Prop := ∀ m, m ≠ l → t.lane m = s.lane m
  let failed (code : Nat) (t : State) : Prop := t.laneState l = 6 ∧ t.fld (cellLstat l) 11 8 = code ∧ (t.lane l).queue = [] ∧ (t.lane l).await = []
  let inCell (t : State) : Prop := Frame [.probs, .lanes, .notices] (pagesOf [cellBase]) s t
  -- a new HPAR frame waits behind q in a lane that has sent n of them since CONFIG began
  let hpar (q : List DFrame) (n : Nat) (t : State) : Prop := t.laneState l = 3 ∧ (t.lane l).hparSent = n ∧
    ∃ f, (t.lane l).queue = q ++ [f] ∧ f.kind = 0x21 ∧ f.rtx = 0 ∧ f.hub = s.laneHub l
  (s.laneEn l = false → s.canonical = true → ∃ t, exec (.laneEnable l) s = .next t ∧ t.laneEn l = true ∧ t.rd (cellLdly l) = 0 ∧
    ((∀ m : LaneN, m < l → ¬ (s.laneEn m = true ∧ s.laneHub m = s.laneHub l)) → t.rd (cellLstat l) = 1) ∧
    ((∃ m : LaneN, m < l ∧ s.laneEn m = true ∧ s.laneHub m = s.laneHub l) → failed 2 t ∧ t.bit cellStatus 3 = true) ∧ inCell t) ∧
  (s.laneEn l = true → exec (.laneEnable l) s = .next s ∧ ∃ t, exec (.laneDisable l) s = .next t ∧ t.laneEn l = false ∧ t.laneState l = 0 ∧
    t.laneBlock l = false ∧ (t.lane l).queue = [] ∧ (t.lane l).await = [] ∧ alone t ∧
    Frame [.probs, .lanes, .saf, .notices] (pagesOf [cellBase]) s t) ∧
  (s.laneEn l = false → exec (.laneDisable l) s = .next s ∧ exec (.blockLockAcquired (.cell l)) s = .next s ∧
    exec (.blockLockLost (.cell l)) s = .next s) ∧
  (s.laneEn l = true → (∃ t, exec (.blockLockAcquired (.cell l)) s = .next t ∧ t.laneBlock l = true ∧
      (st = 1 → t.laneState l = 2 ∧ (t.lane l).echoes = [] ∧ (t.lane l).attempts = 1) ∧ (st ≠ 1 → t.laneState l = st ∧ t.lanes = s.lanes) ∧
      alone t ∧ Frame [.lanes] (pagesOf [cellBase]) s t) ∧
    ∃ t, exec (.blockLockLost (.cell l)) s = .next t ∧ t.laneBlock l = false ∧
      (st = 2 ∨ st = 3 → t.laneState l = 1 ∧ alone t ∧ Frame [.lanes] (pagesOf [cellBase]) s t) ∧
      (st = 4 → t.bit cellStatus 0 = true ∧ t.laneBitOf cellLlostLo cellLlostHi l = true ∧
        t.laneState l = (if s.bit (cellLcfg l) 30 then 1 else 5) ∧
        Frame [.mem, .probs, .cell, .lanes, .cap, .saf, .chain, .pins, .notices, .freeCtr] (pagesOf [cellBase, capBase, nvrBase, safBase]) s t) ∧
      (st ∉ [2, 3, 4] → t.laneState l = st ∧ Frame [] (regsOf [cellLstat l]) s t)) ∧
  (∀ token turn rtt, s.laneRx l = true →
    let es := k.echoes ++ [(rtt - turn.toNat) / 2]
    let i := Instr.decho l 0x55 token turn rtt
    (st ≠ 2 ∨ token.toNat ≠ k.token → exec i s = .next s) ∧
    (st = 2 → token.toNat = k.token → ∃ t, exec i s = .next t ∧ alone t ∧ inCell t ∧ (t.lane l).token = (k.token + 1) % 256 ∧
      (es.length < 8 → t.lane l = { k with echoes := es, token := (k.token + 1) % 256 } ∧ t.regs = s.regs) ∧
      (8 ≤ es.length → maxN es - minN es ≤ 4 →
        (minN es ≤ 100000 → t.rd (cellLdly l) = 2 ^ 31 + minN es ∧ hpar k.queue 1 t) ∧ (100000 < minN es → failed 1 t)) ∧
      (8 ≤ es.length → 4 < maxN es - minN es →
        (k.attempts < 4 → t.laneState l = 2 ∧ (t.lane l).echoes = [] ∧ (t.lane l).attempts = k.attempts + 1) ∧ (4 ≤ k.attempts → failed 1 t)))) ∧
  (∀ typ token turn rtt, s.laneRx l = true → knownBlock typ.toNat = false →
    ∃ t, exec (.decho l typ token turn rtt) s = .next t ∧ t.fld (cellLerr l) 15 0 = Nat.min (s.fld (cellLerr l) 15 0 + 1) 65535 ∧
      Frame [] (regsOf [cellLerr l]) s t) ∧
  (∀ seq hub result, s.laneRx l = true →
    let i := Instr.ack l 0x2D seq hub result
    let await := k.await.filter fun g => g.seq != seq.toNat
    let queue := k.queue.filter fun g => g.rtx == 0 || g.seq != seq.toNat
    let named := (k.await ++ k.queue.filter fun f => f.rtx != 0).find? fun f => f.seq == seq.toNat
    ∃ t, exec i s = .next t ∧ alone t ∧ inCell t ∧ t.bit cellStatus 5 = (decide (result = 1) || s.bit cellStatus 5) ∧
      (named = none → t.lanes = s.lanes) ∧
      (∀ f, named = some f →
        (f.kind ≠ 0x21 ∨ st ≠ 3 → t.lane l = { k with await, queue }) ∧
        (f.kind = 0x21 → st = 3 → result = 0 → t.lane l = { k with await, queue, hparMark := some 0 }) ∧
        (f.kind = 0x21 → st = 3 → result ≠ 0 → k.hparSent < 4 → (t.lane l).await = await ∧ hpar queue (k.hparSent + 1) t) ∧
        (f.kind = 0x21 → st = 3 → result ≠ 0 → 4 ≤ k.hparSent → failed 3 t))) ∧
  (∀ seq, k.await.find? (fun f => f.seq == seq.toNat) = none → exec (.ackTimeout l seq) s = .next s) ∧
  (∀ seq f, k.await.find? (fun f => f.seq == seq.toNat) = some f →
    let await := k.await.filter fun g => g.seq != seq.toNat
    let queue := { f with rtx := f.rtx + 1 } :: k.queue
    let again : Prop := f.rtx < s.rtxMax ∧ (f.kind = 0x21 ∨ f.pcnt = s.pcnt16 ∧ s.per.commitPassed = false) ∧ s.mayResend f = true
    ∃ t, exec (.ackTimeout l seq) s = .next t ∧ alone t ∧ inCell t ∧
      (f.kind ≠ 0x21 ∨ st ≠ 3 →
        (again → t.lane l = { k with await, queue } ∧ t.regs = s.regs) ∧
        (¬ again → t.lane l = { k with await } ∧ t.fld (cellLerr l) 31 24 = Nat.min (s.fld (cellLerr l) 31 24 + 1) 255 ∧ t.bit cellStatus 2 = true)) ∧
      (f.kind = 0x21 → st = 3 →
        (4 ≤ k.hparSent → failed 3 t) ∧
        (k.hparSent < 4 → f.rtx < 2 → t.lane l = { k with await, queue, hparSent := k.hparSent + 1 } ∧ t.regs = s.regs) ∧
        (k.hparSent < 4 → 2 ≤ f.rtx → (t.lane l).await = await ∧ hpar k.queue (k.hparSent + 1) t)))

/-- UPLINK_FRAME, HCDL_WRITE, ROLE_WRITE, and the blocks of a lane on the line (R194, R195, R198, R203, R205 to R208, R222, R223). -/
def Obligations.CellTraffic : Prop :=
  (∀ (s : State), s.live .cell = true →
  (∀ l bytes, s.laneRx l = true → s.uplinkOk l bytes = true → s.laneState l = 4 ∨ s.laneState l = 3 ∧ (s.lane l).hparMark = some 1 →
    let n := byteAt bytes 4 % 32
    let h := byteAt bytes 1 % 64
    (1 ≤ n → n ≤ 16 → ∃ t, exec (.uplinkFrame l bytes) s = .next t ∧ t.laneState l = 4 ∧ t.laneBitOf cellUprxLo cellUprxHi l = true ∧
      (∀ i k, i < n → k < 12 → t.byte (uplinkRec (16 * h + i) + k) = bytes.getD (8 + 12 * i + k) 0) ∧
      (∀ a, a < uplinkRec (16 * h) ∨ uplinkRec (16 * h + n) ≤ a → t.byte a = s.byte a) ∧
      (t.lane l).gotUplink = true ∧ t.hubStat h = n + 128 ∧ (∀ m, m ≠ l → t.lane m = s.lane m) ∧
      Frame [.mem, .probs, .cell, .lanes, .saf, .pins, .notices] (pagesOf [cellBase]) s t) ∧
    (n = 0 ∨ 16 < n → ∃ t, exec (.uplinkFrame l bytes) s = .next t ∧ t.laneState l = 6 ∧ t.fld (cellLstat l) 11 8 = 4 ∧
      Frame [.probs, .lanes, .notices] (pagesOf [cellBase]) s t)) ∧
  (∀ l bytes, s.laneRx l = true → s.laneState l = 4 → s.uplinkOk l bytes = false →
    ∃ t, exec (.uplinkFrame l bytes) s = .next t ∧ t.fld (cellLerr l) 15 0 = Nat.min (s.fld (cellLerr l) 15 0 + 1) 65535 ∧
      t.bit cellStatus 1 = true ∧ Frame [] (regsOf [cellLerr l, cellStatus]) s t) ∧
  (∀ upofs v, let r := if upofs then cellUpofs else cellHcdl
    let x := v.toNat % (if upofs then 2 ^ 10 else 2 ^ 17)
    (s.bit cellCtrl 31 = true ∨ s.rd r = x → exec (.hcdlWrite upofs v) s = .next s) ∧
    (s.bit cellCtrl 31 = false → s.rd r ≠ x → ∃ t, exec (.hcdlWrite upofs v) s = .next t ∧ t.rd r = x ∧
      (∀ l, s.laneState l = 4 → (t.lane l).queue = (s.lane l).queue ++ [s.hparFrame l [(if upofs then 3 else 2, x)]]) ∧
      (∀ l, s.laneState l ≠ 4 → t.lane l = s.lane l) ∧ Frame [.lanes] (regsOf [r]) s t)) ∧
  (∀ role, ∃ t, exec (.roleWrite role) s = .next t ∧ t.bit cellRole 0 = role ∧ Frame [] (fun a => a = cellRole) s t ∧
    ∀ i, i ≠ 0 → t.bit cellRole i = s.bit cellRole i)) ∧
  -- blocks: the sync header tells data from control, and byte i is payload bits 8i to 8i + 7 (R195)
  (∀ bytes : List Byte, let p := payOf bytes
    (dataBlock bytes).sync = 1 ∧ (ctrlBlock bytes).sync = 2 ∧ (dataBlock bytes).pay = p ∧ (ctrlBlock bytes).pay = p ∧
    (∀ i j, i < 8 → j < 8 → p.getLsbD (8 * i + j) = (bytes.getD i 0).getLsbD j) ∧
    (bytes.length = 8 → (dataBlock bytes).read = some (false, bytes) ∧ (ctrlBlock bytes).read = some (true, bytes))) ∧
  (∀ b : Block66, b.sync = 0 ∨ b.sync = 3 → b.read = none) ∧
  -- 64 valid headers in a row bring block lock, 16 invalid ones among 64 end it (R196)
  (∀ (k : RxLock) (bs : List Block66), (bs.length = 64 → (∀ b ∈ bs, b.sync = 1 ∨ b.sync = 2) → (k.blocks bs).locked = true) ∧
    (bs.length ≤ 64 → 16 ≤ (bs.filter fun b => b.sync == 0 || b.sync == 3).length → (k.blocks bs).locked = false) ∧
    ∀ b, k.locked = true → k.seen = [] → bs.length < 64 → (bs.filter fun b => b.sync == 0 || b.sync == 3).length < 15 →
      ((k.blocks bs).blocks [b]).locked = true) ∧
  -- a frame is an SOF block and its bytes, 8 to a data block, filled up with 0 (R198)
  (∀ bytes : List Byte, let fb := frameBlocks bytes
    fb.head? = some (ctrlBlock [0x78]) ∧ fb.length = 1 + (bytes.length + 7) / 8 ∧
    ∀ i b, 0 < i → fb[i]? = some b → b.sync = 1 ∧ ∀ j < 8, ∀ k < 8, b.pay.getLsbD (8 * j + k) = (bytes.getD (8 * (i - 1) + j) 0).getLsbD k) ∧
  -- the scrambler: each bit of the payload sent is the block's, with the bits sent 39 and 58 bits earlier added to it, and the receiver takes
  -- them off again; the sync headers pass as they are (R194, R195)
  (∀ (r : BitVec 58) (b : Block66), let o := (b.scramble r).2
    let before (i d : Nat) : Bool := if d ≤ i then o.pay.getLsbD (i - d) else r.getLsbD (d - 1 - i)
    o.sync = b.sync ∧ ∀ i < 64, o.pay.getLsbD i = ((b.pay.getLsbD i ^^ before i 39) ^^ before i 58)) ∧
  ∀ (r : BitVec 58) (bs : List Block66), (lineOf r bs).map (·.sync) = bs.map (·.sync) ∧ lineRead r (lineOf r bs) = bs

/-- HUB_POWER_UP, HUB_UNCONFIGURE, HUB_MARK, HUB_MARK_BLOCK, HUB_MARK_ABSENT, HUB_DREQ, HUB_UPLINK, HUB_DOWNLINK_FRAME (R189 to R192, R200 to
R206, R211 to R217, R525). -/
def Obligations.Hubs : Prop :=
  ∀ (s : State) (h : HubN),
  let k := s.hub h
  let kept (t : State) : Prop := (∀ m, m ≠ h → t.hub m = s.hub m) ∧ Frame [.hubs] noReg s t
  let blocked (k : Hub) : Prop := ∀ i : Fin 16, k.cells[i].state = 2 ∧ k.cells[i].hold = 3
  (∀ dual, ∃ t, exec (.hubPowerUp h dual) s = .next t ∧ (t.hub h).dual = dual ∧ (t.hub h).configured = false ∧ blocked (t.hub h) ∧ kept t) ∧
  (∃ t, exec (.hubUnconfigure h) s = .next t ∧ (t.hub h).configured = false ∧ (t.hub h).num = none ∧ blocked (t.hub h) ∧ kept t) ∧
  (∀ samples, k.timed = true → ∃ t, exec (.hubMark h samples) s = .next t ∧ (t.hub h).pcnt = (k.pcnt + 1) % 65536 ∧ (t.hub h).samples = samples.take 16 ∧
    (k.configured = true → k.absent ≥ 3 → ∀ i : Fin 16, (t.hub h).cells[i].state = 2) ∧
    (k.configured = true → k.absent < 3 → k.blockAll = false → ∀ i : Fin 16,
      (∀ w, k.cells[i].next = some w → (t.hub h).cells[i].state = (if w % 4 = 3 then 2 else w % 4) ∧ (t.hub h).cells[i].hold = 0) ∧
      (k.cells[i].next = none → (t.hub h).cells[i].hold = Nat.min (k.cells[i].hold + 1) 3 ∧
        (t.hub h).cells[i].state = if k.cells[i].hold < 2 then k.cells[i].state else 2)) ∧ kept t) ∧
  (∀ samples, k.timed = false → exec (.hubMark h samples) s = .next s) ∧
  (∀ portB pcnt ofs role len, portB = false ∨ k.dual = true → ∃ t, exec (.hubMarkBlock h portB pcnt ofs role len) s = .next t ∧
    let a := if portB then k.roleA else role
    let b := if portB then role else k.roleB
    -- before a hub has timed a mark, the port whose block alone carries ROLE 1 is its timing port
    let timing := if k.timed = true ∨ a = b then k.timingB else b
    (t.hub h).roleA = a ∧ (t.hub h).roleB = b ∧ (t.hub h).timingB = timing ∧
    -- the mark of this block has been counted as having none
    let counted := k.gotBlock = true ∧ k.absent ≠ 0
    (portB = timing → ¬ counted →
      (t.hub h).timed = true ∧ (t.hub h).pcnt = pcnt.toNat ∧ (t.hub h).len = len.toNat ∧ (t.hub h).absent = 0) ∧
    (portB ≠ timing ∨ counted → (t.hub h).timed = k.timed ∧ (t.hub h).pcnt = k.pcnt ∧ (t.hub h).absent = k.absent) ∧ kept t) ∧
  (k.timed = true → k.gotBlock = false → ∃ t, exec (.hubMarkAbsent h) s = .next t ∧ (t.hub h).absent = k.absent + 1 ∧ (t.hub h).markLost = true ∧ kept t) ∧
  (∀ portB token turn, portB = false ∨ k.dual = true → ∃ t, exec (.hubDreq h portB 0x4B token turn) s = .next t ∧
    (t.hub h).out = (portB, [0x55, token] ++ toLE 2 turn.toNat) :: k.out ∧ kept t) ∧
  (∀ portB typ token turn, typ ≠ 0x4B → exec (.hubDreq h portB typ token turn) s = .next s) ∧
  (∀ portB supply, k.configured = true → portB = false ∨ k.dual = true → ∃ t f, exec (.hubUplink h portB supply) s = .next t ∧
    (t.hub h).out = (portB, f) :: k.out ∧ f.take 2 = toLE 1 1 ++ toLE 1 (k.num.getD 0 + 64 * b2n portB) ∧
    (k.upstat = none → (t.hub h).markLost = false ∧ (t.hub h).dlErr = false ∧ (t.hub h).late = false ∧ (t.hub h).upstat.isSome = true) ∧ kept t) ∧
  (∀ portB bytes tNs, portB = false ∨ k.dual = true → k.configured = true →
    (crcOk bytes = false → ∃ t, exec (.hubDownlinkFrame h portB bytes tNs) s = .next t ∧ (t.hub h).dlErr = true ∧
      (t.hub h).dlCnt = satInc k.dlCnt 255 ∧ (t.hub h).out = k.out ∧ (t.hub h).cells = k.cells ∧ kept t) ∧
    (∀ f, crcOk bytes = true → parseFrame bytes = some f → f.wellFormed = true →
      (k.num ≠ some f.hub → ∃ t, exec (.hubDownlinkFrame h portB bytes tNs) s = .next t ∧ t.hub h = k ∧ kept t) ∧
      (k.num = some f.hub → f.kind ≠ 0x21 → (∀ r, r ∈ k.rx → r.frame.seq ≠ f.seq) →
        (f.pcnt % 65536 ≠ k.pcnt % 65536 ∨ tNs > 10 * k.hcdl.getD 0 → ∃ t, exec (.hubDownlinkFrame h portB bytes tNs) s = .next t ∧
          (t.hub h).late = true ∧ (t.hub h).cells = k.cells ∧
          (t.hub h).out = (portB, toLE 1 0x2D ++ toLE 1 f.seq ++ toLE 1 f.hub ++ toLE 1 1) :: k.out ∧ kept t) ∧
        (f.pcnt % 65536 = k.pcnt % 65536 → tNs ≤ 10 * k.hcdl.getD 0 → f.kind = 0x12 ∨ f.kind = 0x14 → k.dual = false → k.solved = [] → k.rx = [] →
          ∃ t, exec (.hubDownlinkFrame h portB bytes tNs) s = .next t ∧
          (∀ i : Fin 16, (t.hub h).cells[i].next = match look (frameCmds f.cmask f.words) i with | some w => some w | none => k.cells[i].next) ∧
          (t.hub h).solved = [(f.prob, portB)] ∧
          (t.hub h).out = (portB, toLE 1 0x2D ++ toLE 1 f.seq ++ toLE 1 f.hub ++ toLE 1 0) :: k.out ∧ kept t))))

/-- CAPTURE_RECORD, CAPTURE_TRIGGER, TRIG, FREEZE, CAPTURE_RESUME, CLEAR, POST_TRIGGER_END, RING_SCAN (R227, R232 to R238). -/
def Obligations.CaptureRing : Prop :=
  ∀ (s : State), s.live .cap = true →
  let frozen := s.bit capStatus 31
  (∀ src : Fin 6, s.bit capTrigen src = false → exec (.captureTrigger src) s = .next s) ∧
  (∀ src : Fin 6, s.bit capTrigen src = true → frozen = true → s.cap.resume = false →
    ∃ t, exec (.captureTrigger src) s = .next t ∧ t.bit capStatus 2 = true ∧ t.cap = { s.cap with lost := s.cap.lost ||| 2 ^ src.val } ∧
      Frame [.cap] (regsOf [capStatus]) s t) ∧
  (∀ src : Fin 6, s.bit capTrigen src = true → frozen = false ∨ s.cap.resume = true →
    ∃ t, exec (.captureTrigger src) s = .next t ∧ t.cap = { s.cap with trigs := s.cap.trigs ||| 2 ^ src.val } ∧
      (frozen = false → s.cap.trigged = false → t.bit capStatus 27 = true) ∧ Frame [.cap, .pins] (regsOf [capStatus]) s t) ∧
  (s.bit capTrigen 0 = true → frozen = false → ∃ t, exec .trig s = .next t ∧ t.cap = { s.cap with trigs := s.cap.trigs ||| 1 } ∧
    Frame [.cap, .pins] (regsOf [capStatus]) s t) ∧
  (∀ x, s.cap.snap = some x →
    (∀ withheld edcs, withheld = true ∨ s.capWithheld x = true → ∃ t, exec (.captureRecord withheld edcs) s = .next t ∧
      t.cap = { s.cap with snap := none, wrote := 0, gap := true, dropped := true } ∧ t.bit capStatus 1 = true ∧
      t.fld capDropcnt 15 0 = Nat.min (s.fld capDropcnt 15 0 + 1) 65535 ∧ Frame [.cap] (regsOf [capStatus, capDropcnt]) s t) ∧
    (∀ edcs, s.capWithheld x = false → s.capLeft = 0 → s.cap.wrote < (s.recWrites x).length →
      exec (.captureRecord false edcs) s = .next s) ∧
    (∀ edcs, s.capWithheld x = false →
      let all := s.recWrites x
      let sent := (s.capSend (((all.drop s.cap.wrote).take s.capLeft).zipIdx.map fun a => (a.1, edcs.getD a.2 0))).2
      ∃ t, exec (.captureRecord false edcs) s = .next t ∧ t.gmem.capUsed = s.gmem.capUsed + sent ∧
        ((∀ e ∈ edcs, e = 0) → sent = Nat.min s.capLeft (all.length - s.cap.wrote)) ∧
        (s.cap.wrote + sent < all.length → t.cap = { s.cap with wrote := s.cap.wrote + sent } ∧ Frame [.cap, .gmem] (pagesOf [memBase]) s t) ∧
        (all.length ≤ s.cap.wrote + sent →
          t.cap.snap = none ∧ t.cap.any = true ∧ t.cap.gap = false ∧ t.cap.dropped = false ∧ t.cap.wrote = 0 ∧
          t.rd capReccnt = (s.rd capReccnt + 1) % 2 ^ 32 ∧
          (ringSize - s.rd capWptr ≥ recMax → s.rd capWptr < ringSize →
            t.le (ringBase + s.rd capWptr) 2 = 0x4352 ∧ t.word (ringBase + s.rd capWptr + 8) = x.pcnt % 2 ^ 32 ∧
            ∀ a, a < ringBase + s.rd capWptr → t.byte a = s.byte a)) ∧
        Frame [.mem, .cap, .gmem, .flaws] (pagesOf [capBase, memBase]) s t)) ∧
  (frozen = false → ∃ t, exec .freeze s = .next t ∧ t.fld capStatus 31 27 = 20 ∧ t.cap = { s.cap with snap := none, wrote := 0, trigs := 0, resume := false } ∧
    Frame [.mem, .cap, .pins] (regsOf [capStatus]) s t) ∧
  (frozen = true → ∃ t, exec .freeze s = .next t ∧ t.cap = { s.cap with resume := false, trigs := 0 } ∧ Frame [.cap, .pins] noReg s t) ∧
  (frozen = true → ∃ t, exec .captureResume s = .next t ∧
    t.cap = { s.cap with resume := true, trigs := s.cap.trigs ||| s.cap.lost, lost := 0 } ∧ Frame [.cap] noReg s t) ∧
  (frozen = false → exec .captureResume s = .next s ∧ exec .clear s = .next s) ∧
  (frozen = true → ∃ t, exec .clear s = .next t ∧ t.rd capOldest = s.rd capWptr ∧ t.rd capTrigptr = 0 ∧ t.rd capTrigpcnt = 0 ∧
    t.cap = { s.cap with any := false } ∧ Frame [.cap] (regsOf [capOldest, capTrigptr, capTrigpcnt]) s t) ∧
  (s.cap.trigged = true → s.cap.post = 0 → s.cap.snap = none → frozen = false →
    ∃ t, exec .postTriggerEnd s = .next t ∧ t.fld capStatus 31 27 = 18 ∧ Frame [.mem, .cap, .pins] (regsOf [capStatus]) s t) ∧
  (s.cap.scan = false ∨ s.memReady = false ∨ s.anyRetrain = true ∨ s.capLeft = 0 → ∀ met, exec (.ringScan met) s = .next s) ∧
  (s.cap.scan = true → s.memReady = true → s.anyRetrain = false → s.capLeft ≠ 0 → ∀ met,
    let r := s.meetReads ringBase (ringBase + ringSize) met
    let e := (r.1.without r.2).scanRing (Nat.max 1 (s.fld capKeyint 15 0)) (s.rd capWptr) (s.word (ringBase + s.rd capLastkey + 8)) 0
    let n := Nat.min s.capLeft (e.bursts - s.cap.scanned)
    ∃ t, exec (.ringScan met) s = .next t ∧ t.gmem.capUsed = s.gmem.capUsed + n ∧ Frame [.cap, .gmem, .saf, .flaws] (pagesOf [capBase, memBase]) s t ∧
      (s.cap.scanned + n < e.bursts → t.cap = { s.cap with scanned := s.cap.scanned + n } ∧ t.rd capWptr = s.rd capWptr) ∧
      (e.bursts ≤ s.cap.scanned + n → t.cap = { s.cap with scan := false, scanned := 0, any := s.cap.any || e.ofs != s.rd capWptr } ∧
        t.rd capWptr = e.ofs % 2 ^ 32 ∧
        ∀ u, e.ue = some u → u / 64 * 64 ∉ r.2 → t.bit memStatus 1 = true ∧ t.rd memUeaddr = 2 ^ 31 + u / 64 % 2 ^ 28)) ∧
  (s.cap.scan = true → s.memReady = true → s.anyRetrain = false → 144 ≤ s.capLeft →
    s.le (ringBase + s.rd capWptr) 2 ≠ 0x4352 → s.le (ringBase + s.rd capWptr) 2 ≠ 0x4357 →
    ∃ t, exec (.ringScan []) s = .next t ∧ t.cap = { s.cap with scan := false, scanned := 0 } ∧ t.rd capWptr = s.rd capWptr)

/-- BEGIN, VERIFY, VERIFICATION_DONE, ACTIVATE, DEACTIVATE, ABORT of the chart unit (R145, R147, R161, R162, R249, R258). That a read which
only gets an error response fails as code 9 is log entry 94. -/
def Obligations.ChartBuffers : Prop :=
  ∀ (s : State) (b : Buf), s.live .chrt = true →
  let r := chrtBuf (bufIdx b)
  let err (c : Instr) : Prop := ∃ t, exec c s = .next t ∧ t.bit chrtStatus 2 = true ∧ Frame [] (regsOf [chrtStatus]) s t
  let free (t : State) : Prop := t.bufPend b = false ∧ t.chart.reverBuf ≠ some b ∧ t.chart.bg ≠ some b ∧
    (∀ k, t.chart.build = some k ∨ t.chart.nextBuild = some k → k.buf ≠ b) ∧
    (s.chart.nextBuild = none → t.rd chrtBldprog = s.rd chrtBldprog)
  -- what the reads of a long check may change beside the registers of l
  let readBy (l : List Nat) : Nat → Prop := fun a => a ∈ l ∨ pagesOf [memBase] a
  (s.bufState b = 0 ∨ s.bufState b = 3 ∨ s.bufState b = 6 → ∃ t, exec (.begin_ b) s = .next t ∧ t.bufState b = 1 ∧ free t ∧
    Frame [.chart] (regsOf [r, chrtStatus, chrtBldprog]) s t) ∧
  (¬ (s.bufState b = 0 ∨ s.bufState b = 3 ∨ s.bufState b = 6) → err (.begin_ b)) ∧
  (s.bufState b = 1 → ∃ t, exec (.verify b) s = .next t ∧ t.bufState b = 2 ∧ Frame [] (regsOf [r]) s t) ∧
  (s.bufState b ≠ 1 → err (.verify b)) ∧
  (s.bufState b ≠ 2 ∨ s.chart.reverBuf = some b ∨ s.anyRetrain = true → ∀ met, exec (.verificationDone b met) s = .next s) ∧
  (s.bufState b = 2 → s.chart.reverBuf ≠ some b → s.anyRetrain = false → ∀ met,
    let bad (f : VFail) (t : State) : Prop := t.bufState b = 6 ∧ t.bufPend b = false ∧ t.bit chrtStatus 0 = true ∧
      t.rd chrtVerr = (0x80000000 + bufIdx b * 2 ^ 30 + f.sec % 4 * 2 ^ 28 + f.code * 2 ^ 24 +
        (if f.code = 6 ∨ f.code = 7 ∨ f.code = 9 then f.blk % 2 ^ 24 else 0)) % 2 ^ 32
    (s.memReady = false → ∃ t, exec (.verificationDone b met) s = .next t ∧ bad { code := 9, sec := 0, blk := 0 } t ∧
      Frame [] (regsOf [r, chrtStatus, chrtVerr]) s t) ∧
    (s.memReady = true → let run := s.checkRun b met fun s => checkChart s b (s.fld chrtIlen 26 0)
      (run.2 = none → ∃ t, exec (.verificationDone b met) s = .next t ∧ t.bufState b = 3 ∧ t.fld r 25 16 = 1000 ∧
        Frame [.gmem, .flaws] (readBy [r]) s t) ∧
      ∀ f, run.2 = some f → ∃ t, exec (.verificationDone b met) s = .next t ∧ bad f t ∧
        (∀ a, f.ue = some a → t.bit memStatus 1 = true ∧ t.rd memUeaddr = 2 ^ 31 + a / 64 % 2 ^ 28) ∧
        Frame [.gmem, .saf, .flaws] (readBy [r, chrtStatus, chrtVerr]) s t)) ∧
  (s.bufState b = 3 → s.bufPend .bufA = false → s.bufPend .bufB = false →
    ∃ t, exec (.activate b) s = .next t ∧ t.bufPend b = true ∧ t.bit chrtStatus 7 = false ∧ Frame [] (regsOf [r, chrtStatus]) s t) ∧
  (¬ (s.bufState b = 3 ∧ s.bufPend .bufA = false ∧ s.bufPend .bufB = false) → err (.activate b)) ∧
  (s.actBuf.isSome = true → s.bufPend .bufA = false → s.bufPend .bufB = false → s.bit chrtStatus 7 = false →
    ∃ t, exec .deactivate s = .next t ∧ t.bit chrtStatus 7 = true ∧ Frame [] (regsOf [chrtStatus]) s t) ∧
  (¬ (s.actBuf.isSome = true ∧ s.bufPend .bufA = false ∧ s.bufPend .bufB = false ∧ s.bit chrtStatus 7 = false) → err .deactivate) ∧
  (s.bufState b ≠ 4 → ∃ t, exec (.abort b) s = .next t ∧ t.bufState b = 0 ∧ free t ∧ Frame [.chart] (regsOf [r, chrtStatus, chrtBldprog]) s t) ∧
  (s.bufState b = 4 → err (.abort b))

/-- BUILD, CHART_LOOKUP, BUILD_ENTRY, CHART_REVERIFY, BACKGROUND_VERIFY (R147, R157 to R160, R166 to R170). The order of an entry's search is
log entry 7; a lookup that an error response ends is log entry 95. -/
def Obligations.ChartEngines : Prop :=
  ∀ (s : State), s.live .chrt = true →
  -- what the reads of a long check may change beside the registers of l
  let readBy (l : List Nat) : Nat → Prop := fun a => a ∈ l ∨ pagesOf [memBase] a
  (∀ p chks now, let q := s.prob p
    let i := Instr.chartLookup p chks now
    (q.lookup = false ∧ q.lookOld = none ∨ s.lookWaits p = true → exec i s = .next s) ∧
    (q.lookup = true ∨ q.lookOld.isSome = true → s.lookWaits p = false →
      let xu := q.lookOld.getD (q.x0, q.u)
      -- the time is told first
      let u := s.tellNow now
      let found := (u.lookSect p).map fun c => chartLook u c xu.1 xu.2
      -- the bursts of this window's allotment are read
      let bs := u.lookNow p
      let r := (u.unitReads true (bs.zipIdx.map fun b => (b.1, chks.getD b.2 {}))).2
      let more := r = none ∧ q.lookPos + bs.length < (u.lookupReads p).length
      ∃ t, exec i s = .next t ∧ (∀ k, k ≠ p → t.prob k = s.prob k) ∧ t.gmem.lkUsed = s.gmem.lkUsed + bs.length ∧
        Frame [.per, .probs, .chart, .gmem, .saf, .flaws] (pagesOf [chrtBase, memBase]) s t ∧
        (more → t.prob p = { q with lookPos := q.lookPos + bs.length } ∧ t.chart = s.chart) ∧
        (¬ more → (t.prob p).lookOld = none ∧ (t.prob p).lookup = (q.lookup && q.lookOld.isSome) ∧ (t.prob p).lookPos = 0 ∧
          ((q.lookup && q.lookOld.isSome) = false → (t.prob p).chWait = none ∧ (t.prob p).stall = (q.unstallAt now).stall) ∧
          let missed : Prop := t.fld chrtLkcnt 31 16 = Nat.min (s.fld chrtLkcnt 31 16 + 1) 65535
          (∀ a, r = some (a, true) → missed ∧ t.bit chrtStatus 4 = true ∧ t.chart = { s.chart with withdraw := true }) ∧
          (∀ a, r = some (a, false) → missed ∧ t.chart = s.chart) ∧
          (r = none → found = none ∨ found = some .miss → missed ∧ t.chart = s.chart) ∧
          (r = none → found = some .decodeError → missed ∧ t.bit chrtStatus 5 = true ∧ t.chart = { s.chart with withdraw := true }) ∧
          (∀ k, r = none → found = some (.course k) → s.phase p = 2 ∨ s.phase p = 3 →
            (t.prob p).seedPend = some k ∧ (t.prob p).lastLookup = some k ∧ t.chart = s.chart)))) ∧
  (∀ b met, let i := Instr.build b met
    let waits := (burstsOf (bufBase b) 0x500).any s.memWaits = true
    let read := s.longRead (bufBase b) 0x500 met
    let cs := (sections read.1 b).map (·.2)
    let ok := read.2 = true ∧ headOk read.1 b = true
    (s.bufState b ≠ 1 → ∃ t, exec i s = .next t ∧ t.bit chrtStatus 2 = true ∧ Frame [] (regsOf [chrtStatus]) s t) ∧
    (s.bufState b = 1 → waits → exec i s = .next s) ∧
    (s.bufState b = 1 → ¬ waits → ¬ ok → ∃ t, exec i s = .next t ∧ t.bit chrtStatus 2 = true ∧
      Frame [.gmem, .saf, .flaws] (readBy [chrtStatus]) s t) ∧
    (s.bufState b = 1 → ¬ waits → ok → read.1.buildRefused cs = true → ∃ t, exec i s = .next t ∧ t.bit chrtStatus 1 = true ∧
      Frame [.gmem, .saf, .flaws] (readBy [chrtStatus]) s t) ∧
    (s.bufState b = 1 → ¬ waits → ok → read.1.buildRefused cs = false →
      let k : Build := { buf := b, tables := cs.map fun c => slotTable read.1 (toFin 4 c.slot), sec := 0, done := [], out := [] }
      ∃ t, exec i s = .next t ∧ t.bufState b = 5 ∧
      (s.chart.build = none → t.chart = { s.chart with build := some k } ∧ t.rd chrtBldprog = 0) ∧
      (s.chart.build.isSome = true → t.chart = { s.chart with nextBuild := some k } ∧ t.rd chrtBldprog = s.rd chrtBldprog) ∧
      Frame [.chart, .gmem, .saf, .flaws] (readBy [chrtBuf (bufIdx b), chrtBldprog]) s t)) ∧
  (∀ c k met, s.chart.build = some k → s.live .srch = true → s.buildFree c = true → s.memReady = true → s.anyRetrain = false →
    let sec := sectAt s k.buf k.sec
    let st := sec.start k.out.length
    let out := k.out ++ [entrySearch (k.tables.getD k.sec {}) st.1 st.2 (s.fld chrtBldbud 23 0)]
    (out.length < sec.product → ∃ t, exec (.buildEntry c met) s = .next t ∧ t.chart.build = some { k with out } ∧
      t.rd chrtBldprog = (k.sec * 2 ^ 30 + out.length) % 2 ^ 32 ∧ Frame [.chart] (regsOf [chrtBldprog, chrtBuf (bufIdx k.buf)]) s t) ∧
    (sec.product ≤ out.length → k.sec + 1 < nsec s k.buf → ∃ t, exec (.buildEntry c met) s = .next t ∧
      t.chart.build = some { k with sec := k.sec + 1, done := k.done ++ [out], out := [] } ∧
      Frame [.chart] (regsOf [chrtBldprog, chrtBuf (bufIdx k.buf)]) s t) ∧
    (sec.product ≤ out.length → nsec s k.buf ≤ k.sec + 1 → ∃ t, exec (.buildEntry c met) s = .next t ∧ t.bufState k.buf = 2 ∧
      t.chart = { s.chart with build := s.chart.nextBuild, nextBuild := none } ∧
      Frame [.mem, .chart, .gmem, .flaws] (pagesOf [chrtBase, memBase]) s t)) ∧
  (∀ b met, s.chart.reverBuf = some b → s.bit chrtStatus 27 = true → s.memReady = true → s.anyRetrain = false →
    let run := (s.setBit chrtStatus 27 false).checkRun b met fun s => checkForm s b (bufSize / 64)
    ∃ t, exec (.chartReverify met) s = .next t ∧ t.bit chrtStatus 27 = false ∧
    (run.2.isSome = true → t.bufState b = 6 ∧ t.bit chrtStatus 0 = true) ∧
    (t.bufState b = 3 ∧ t.chart.pendRever = true ∧ t.chart.bg = (if s.bit chrtCtrl 1 then some b else none) ∨
      t.bufState b = 6 ∧ t.bufPend b = false ∧ t.bit chrtStatus 0 = true ∧ t.chart.reverBuf = none) ∧
    Frame [.chart, .gmem, .saf, .flaws] (pagesOf [chrtBase, memBase]) s t) ∧
  (∀ b met, s.chart.bg = some b → s.memReady = true → s.anyRetrain = false →
    let run := State.checkRun { s with chart := { s.chart with bg := none } } b met fun s => (checkCrcs s b).orElse fun _ => checkDigest s b
    let stands := s.actBuf = some b ∨ s.chart.pendRever = true ∧ s.chart.reverBuf = some b
    (run.2 = none → ∃ t, exec (.backgroundVerify met) s = .next t ∧ t.chart = { s.chart with bg := none } ∧
      Frame [.chart, .gmem, .flaws] (pagesOf [memBase]) s t) ∧
    (run.2.isSome = true → ∃ t, exec (.backgroundVerify met) s = .next t ∧ t.bit chrtStatus 6 = true ∧
      (stands → t.chart = { s.chart with bg := none, withdraw := true }) ∧
      (¬ stands → t.bufState b = 6 ∧ t.bufPend b = false ∧ t.chart = { s.chart with bg := none }) ∧
      Frame [.chart, .gmem, .saf, .flaws] (pagesOf [chrtBase, memBase]) s t))

/-- POWERUP_SELFTEST, SELFTEST_SEGMENT_START, SELFTEST_SEGMENT_END, SELFTEST_SLOT_END, STEN_WRITE, CLEXCL_WRITE (R126 to R129). That clusters which
fail the power-up test also enter BOOT_DEG follows R406. A declared pass or failure starts its report to the island. -/
def Obligations.ClusterSelfTest : Prop :=
  ∀ (s : State), s.live .srch = true →
  let c := s.rot.cur
  let due : Prop := s.rotating = true ∧ s.per.running = true ∧ s.per.srchPassed = true ∧ s.dlFc 2 + 320 + 528 ≤ s.per.len ∧ s.rot.tested = false ∧
    s.rot.segRunning = false ∧ s.rot.ran = false ∧ s.testable c = true
  (∀ pass, s.rot.powerupDone = false → ∃ t, exec (.powerupSelftest pass) s = .next t ∧ t.rd srchClavail = (65535 - pass.toNat) * 65536 + pass.toNat ∧
    t.rot.powerupDone = true ∧ t.saf.reports = s.saf.reports ++ (setBitsOf pass.toNat 16).map (fun k => (toFin 16 k, true)) ∧
    (pass = 0xFFFF → Frame [.rot, .saf] (regsOf [srchClavail]) s t) ∧
    (pass ≠ 0xFFFF → t.rd bootDeg = s.rd bootDeg ||| (65535 - pass.toNat) * 65536) ∧ Frame [.mem, .rot, .saf] (regsOf [srchClavail, bootDeg]) s t) ∧
  (∀ pass, s.rot.powerupDone = true → exec (.powerupSelftest pass) s = .next s) ∧
  -- one segment in a period, 320 fc after the search deadline, with 528 fc left
  ((due → ∃ t, exec .selftestSegmentStart s = .next t ∧ t.rot = { s.rot with segRunning := true, ran := true } ∧ Frame [.rot] noReg s t) ∧
    (¬ due → exec .selftestSegmentStart s = .next s)) ∧
  (s.rot.segRunning = true → c < 16 → let n := s.fld srchStstat 6 4
    (n < 5 → ∃ t, exec (.selftestSegmentEnd true) s = .next t ∧ t.fld srchStstat 6 4 = n + 1 ∧ t.rot = { s.rot with segRunning := false } ∧
      Frame [.rot] (regsOf [srchStstat]) s t) ∧
    (n = 5 → ∃ t, exec (.selftestSegmentEnd true) s = .next t ∧ t.fld srchStstat 6 4 = 6 ∧ t.bit srchStstat (16 + c) = true ∧ t.rot.tested = true ∧
      t.saf = { s.saf with reports := s.saf.reports ++ [(toFin 16 c, true)] } ∧
      (t.cl (toFin 16 c)).needsPass = false ∧ (∀ d, d ≠ toFin 16 c → t.cl d = s.cl d) ∧ Frame [.cls, .rot, .saf] (regsOf [srchStstat]) s t) ∧
    ∃ t, exec (.selftestSegmentEnd false) s = .next t ∧ t.bit srchFault (16 + c) = true ∧ t.bit srchClavail (16 + c) = true ∧ t.bit srchClavail c = false ∧
      t.rd srchFaultcl = 0x80000000 + c ∧ t.rot = { s.rot with segRunning := false, tested := true } ∧
      t.saf = { s.saf with reports := s.saf.reports ++ [(toFin 16 c, false)] } ∧ Frame [.rot, .saf] (regsOf [srchStstat, srchFault, srchClavail, srchFaultcl]) s t) ∧
  (s.rotating = true → s.rot.left = 0 → let stood := s.rot.resumeAt.getD c
    (∀ d rest, s.rot.first = d :: rest → ∃ t, exec .selftestSlotEnd s = .next t ∧ t.fld srchStstat 11 8 = d % 16 ∧ t.fld srchStstat 6 4 = 0 ∧
      t.rot.cur = d ∧ t.rot.left = s.fld srchStcfg 15 0 ∧ t.rot.first = rest ∧ t.rot.resumeAt = some stood ∧ Frame [.rot] (regsOf [srchStstat]) s t) ∧
    (∀ d, s.rot.first = [] → s.nextTest stood = some d → ∃ t, exec .selftestSlotEnd s = .next t ∧ t.fld srchStstat 11 8 = d % 16 ∧
      t.fld srchStstat 6 4 = 0 ∧ t.rot.cur = d ∧ t.rot.left = s.fld srchStcfg 15 0 ∧ t.rot.tested = false ∧
      (d ≤ stood → t.fld srchStstat 31 16 = 0) ∧ (stood < d → t.fld srchStstat 31 16 = s.fld srchStstat 31 16) ∧ Frame [.rot] (regsOf [srchStstat]) s t)) ∧
  (s.rot.left ≠ 0 → exec .selftestSlotEnd s = .next s) ∧
  (s.bit srchCtrl 31 = false →
    (∃ t, exec (.stenWrite true) s = .next t ∧ t.bit srchCtrl 0 = true ∧ Frame [] (regsOf [srchCtrl]) s t) ∧
    (s.bit srchCtrl 0 = true → s.rot.stopped = false → ∃ t, exec (.stenWrite false) s = .next t ∧ t.bit srchCtrl 0 = false ∧ t.rot.stopped = true ∧
      t.rot.segRunning = false ∧ t.fld srchStstat 6 4 = 0 ∧ Frame [.rot] (regsOf [srchCtrl, srchStstat]) s t) ∧
    ∀ v, ∃ t, exec (.clexclWrite v) s = .next t ∧ t.rd srchClexcl = v.toNat ∧ Frame [] (regsOf [srchClexcl]) s t) ∧
  (s.bit srchCtrl 31 = true → ∀ en v, exec (.stenWrite en) s = .next s ∧ exec (.clexclWrite v) s = .next s)

/-- GDDR6_ACCESS, ARBITRATION_WINDOW, PER_BANK_REFRESH, TEMPERATURE_READOUT, SCRUB (R246, R247, R252 to R258). No request waits that could be
served, as ARBITRATION_WINDOW and the end of a retrain leave it. -/
def Obligations.Gddr6Access : Prop :=
  ∀ (s : State), s.memReady = true → (∀ w ∈ s.gmem.waiting, s.serve? w = false) →
  (∀ (x : MemUser) (a n : Nat) (data : Option (List Byte)) (chk : Check), let q : MemReq := { u := x, addr := a, size := n, data, chk }
    let i := Instr.gddr6Access x a n data chk
    let burst := match x with
      | .req r => r == .dma
      | _ => true
    let k := s.memClass q
    let m := { s.gmem with lkUsed := s.gmem.lkUsed + b2n (k == 1), capUsed := s.gmem.capUsed + b2n (k == 2), last := s.gmem.last.set k (userIdx x) }
    -- the request is served with these effects
    let does (m' : Mem) (ps : List Part) (rs : List Nat) (p : State → Prop) : Prop :=
      ∃ t, exec i s = .next t ∧ t.gmem = m' ∧ p t ∧ Frame (.gmem :: ps) (regsOf rs) s t
    let c := s.chanOf a
    (s.serve? q = false → does { s.gmem with waiting := s.gmem.waiting ++ [q] } [] [] fun _ => True) ∧
    (s.serve? q = true →
      (memSizeOk burst a n = false ∨ gddrEnd ≤ a → does m [] [] fun _ => True) ∧
      (memSizeOk burst a n = true → a < gddrEnd →
        (s.exclMask ≠ 0 → inHole a = true → does m [] [memStatus] fun t => t.bit memStatus 3 = true) ∧
        (s.exclMask = 0 ∨ inHole a = false →
          (data.isSome = true → s.bufRefuses x a = true → does m [] [chrtStatus] fun t => t.bit chrtStatus 3 = true) ∧
          -- the retained copy of the staged segments is the loader's alone
          (data.isSome = true → s.bufRefuses x a = false → retainBase ≤ a → does m [] [] fun _ => True) ∧
          (data = none ∨ s.bufRefuses x a = false ∧ a < retainBase →
            (s.gmem.dead[c] = true → does m [] [] fun _ => True) ∧
            (s.gmem.dead[c] = false →
              let limit := s.retryLimit (x == .lookup)
              -- a read of the scrub
              let scrub := x = .scrub ∧ data = none
              let counted (t : State) : Prop := t.fld (memChstat c) 7 0 = Nat.min (s.fld (memChstat c) 7 0 + Nat.min chk.edc limit) 255
              let failing := (s.eccsAt a n chk.ecc).find? fun e => e.2 == .uncorrectable
              (limit < chk.edc → does { m with retraining := s.gmem.retraining.set c true, tries := s.gmem.tries.set c 0,
                                               poisonDue := s.gmem.poisonDue ++ if data.isSome then [a / 64] else [] }
                [] [memChstat c, memStatus] fun t => counted t ∧ t.bit memStatus (16 + c) = true) ∧
              (chk.edc ≤ limit →
                (∀ bs, data = some bs → bs.length = n → 8 ≤ n ∨ failing = none →
                  does m [.mem, .flaws] [memChstat c, memCecnt, memStatus] fun t => counted t ∧ t.bytes a n = bs ∧
                    ∀ y, y < a ∨ a + n ≤ y → t.byte y = s.byte y) ∧
                (data = none → failing = none → does m [] [memChstat c, memCecnt, memStatus] counted) ∧
                (∀ e, data = none ∨ n < 8 → failing = some e →
                  does m (if scrub then [.saf, .flaws, .chart] else [.saf, .flaws]) [memChstat c, memCecnt, memUecnt, memStatus, memUeaddr] fun t =>
                    counted t ∧ t.bit memStatus 1 = true ∧
                    (scrub → t.bit memStatus 2 = true ∧ ∀ b, bufAt a = some b → s.actBuf = some b → t.chart.withdraw = true) ∧
                    t.rd memUeaddr = 2 ^ 31 + (if scrub then 2 ^ 30 else 0) + e.1 / 64 % 2 ^ 28 ∧
                    t.saf = { s.saf with memRegions := s.saf.memRegions ||| 2 ^ regionOf e.1 })))))))) ∧
  (s.gmem.waiting = [] → ∃ t, exec .arbitrationWindow s = .next t ∧ t.gmem = { s.gmem with lkUsed := 0, capUsed := 0 } ∧ Frame [.gmem] noReg s t) ∧
  (∀ c bank, s.gmem.selfRefresh = false → s.clk.cdUp = true → ∃ t, exec (.perBankRefresh c bank) s = .next t ∧
    t.gmem = { s.gmem with refreshed := s.gmem.refreshed.set c (some bank.val) } ∧ Frame [.gmem] noReg s t) ∧
  (∀ c v, s.gmem.selfRefresh = false → s.clk.cdUp = true → ∃ t, exec (.temperatureReadout c v) s = .next t ∧
    (16 * 85 < v → t.gmem.double[c] = true) ∧ (v < 16 * 80 → t.gmem.double[c] = false) ∧ (16 * 80 ≤ v → v ≤ 16 * 85 → t.gmem.double[c] = s.gmem.double[c]) ∧
    (∀ d, d ≠ c → t.gmem.double[d] = s.gmem.double[d]) ∧ Frame [.gmem] noReg s t) ∧
  (let b := s.scrubAt (s.fld memScrubpos 27 0)
    let c := s.chanOf (64 * b)
    (s.bit memCtrl 1 = false ∨ s.memWaits (64 * b) = true → ∀ chk, exec (.scrub chk) s = .next s) ∧
    (s.bit memCtrl 1 = true → s.memWaits (64 * b) = false → ∀ chk : Check,
      let failing := (s.eccsAt (64 * b) 64 chk.ecc).find? fun e => e.2 == .uncorrectable
      ∃ t, exec (.scrub chk) s = .next t ∧ t.rd memScrubpos = s.scrubAt (b + 1) ∧ (s.exclMask = 0 → b + 1 < gddrEnd / 64 → t.rd memScrubpos = b + 1) ∧
        Frame [.chart, .gmem, .saf, .flaws] (regsOf [memScrubpos, memChstat c, memCecnt, memUecnt, memStatus, memUeaddr]) s t ∧
        (s.gmem.dead[c] = false → s.fld memCfg 2 0 < chk.edc → t.bit memStatus (16 + c) = true ∧ t.gmem.retraining[c] = true) ∧
        (s.gmem.dead[c] = false → chk.edc ≤ s.fld memCfg 2 0 → t.gmem = s.gmem ∧
          (failing = none → Frame [] (regsOf [memScrubpos, memChstat c, memCecnt, memStatus]) s t) ∧
          (∀ e, failing = some e → t.bit memStatus 1 = true ∧ t.bit memStatus 2 = true ∧ t.rd memUeaddr = 2 ^ 31 + 2 ^ 30 + e.1 / 64 % 2 ^ 28 ∧
            ∀ x, bufAt (64 * b) = some x → s.actBuf = some x → t.chart.withdraw = true))))

/-- TRAINING_START, TRAINING_DONE, SHORT_RETRAIN, EXCL_WRITE, SELF_REFRESH_ENTRY, SELF_REFRESH_EXIT (R249 to R251, R254, R259 to R262). -/
def Obligations.Gddr6Training : Prop :=
  ∀ (s : State), s.clk.cdUp = true → s.inReset .mem = false →
  (s.bit memStatus 31 = true → ∃ t, exec .trainingStart s = .next t ∧ t.bit memStatus 4 = true ∧ Frame [] (regsOf [memStatus]) s t) ∧
  (s.bit memStatus 31 = false → s.gmem.selfRefresh = false → ∃ t, exec .trainingStart s = .next t ∧ t.gmem = { s.gmem with training := true } ∧
    Frame [.gmem] noReg s t) ∧
  (∀ pass eye, s.gmem.training = true →
    let good (c : ChanN) : Bool := pass.getLsbD c && decide ((if s.bit memTrctl (8 + c) then 28 else 24) ≤ eye[c].toNat)
    ∃ t, exec (.trainingDone pass eye) s = .next t ∧ t.gmem.training = false ∧ (∀ c, s.inUse c = true → t.gmem.passed[c] = good c) ∧
      ((∀ c, s.inUse c = true → good c = true) → t.bit memStatus 31 = true) ∧ Frame [.mem, .gmem, .freeCtr] (pagesOf [memBase, bootBase]) s t) ∧
  (∀ c ok eye, s.gmem.retraining[c] = true → s.gmem.waiting = [] →
    (ok = true → 24 ≤ eye.toNat → ∃ t, exec (.shortRetrain c ok eye) s = .next t ∧ t.gmem.retraining[c] = false ∧ t.gmem.passed[c] = true ∧
      t.bit memStatus (8 + c) = false ∧ t.fld (memChstat c) 23 16 = Nat.min (s.fld (memChstat c) 23 16 + 1) 255 ∧ t.fld (memChstat c) 15 8 = eye.toNat ∧
      (∀ b ∈ s.gmem.poisonDue, s.chanOf (64 * b) = c → t.bad (64 * b) 64 = true) ∧ Frame [.gmem, .flaws] (regsOf [memChstat c, memStatus]) s t) ∧
    (ok = false ∨ eye.toNat < 24 → s.gmem.tries[c] = 0 → ∃ t, exec (.shortRetrain c ok eye) s = .next t ∧ t.gmem = { s.gmem with tries := s.gmem.tries.set c 1 } ∧
      t.fld (memChstat c) 23 16 = Nat.min (s.fld (memChstat c) 23 16 + 1) 255 ∧ Frame [.gmem] (regsOf [memChstat c]) s t) ∧
    (ok = false ∨ eye.toNat < 24 → s.gmem.tries[c] ≠ 0 → ∃ t, exec (.shortRetrain c ok eye) s = .next t ∧ t.gmem.retraining[c] = false ∧
      t.gmem.dead[c] = true ∧ t.gmem.passed[c] = false ∧ t.bit memStatus (8 + c) = true ∧ t.fld (memChstat c) 31 30 = 3 ∧
      t.saf = { s.saf with memChans := s.saf.memChans ||| 2 ^ c.val } ∧ Frame [.mem, .gmem, .saf] (regsOf [memChstat c, memStatus, bootDeg]) s t)) ∧
  (∀ v, (s.bit memCtrl 31 = true → exec (.exclWrite v) s = .next s) ∧
    (s.bit memCtrl 31 = false → 1 < popcount v.toNat 8 → ∃ t, exec (.exclWrite v) s = .next t ∧ t.bit memStatus 4 = true ∧ Frame [] (regsOf [memStatus]) s t) ∧
    (s.bit memCtrl 31 = false → popcount v.toNat 8 ≤ 1 → ∃ t, exec (.exclWrite v) s = .next t ∧ t.fld memTrctl 23 16 = v.toNat ∧
      (∀ c : ChanN, let mode (x : State) := x.fld (memChstat c) 31 30
        (v.getLsbD c = true → mode t = 3) ∧
        (v.getLsbD c = false → mode t = if s.inUse c then mode s else if s.bit memStatus (8 + c) then 3 else 0)) ∧
      Frame [] (fun a => a = memTrctl ∨ ∃ c : ChanN, a = memChstat c) s t)) ∧
  (s.gmem.selfRefresh = false → ∀ ok, ∃ t, exec (.selfRefreshEntry ok) s = .next t ∧ t.bit memStatus 31 = false ∧ t.bit memStatus 30 = ok ∧
    t.gmem.selfRefresh = true ∧ t.gmem.retained = ok ∧ t.gmem.waiting = [] ∧
    ((∀ w ∈ s.gmem.waiting, w.data = none) → t.gmem = { s.gmem with selfRefresh := true, retained := ok, waiting := [] } ∧
      Frame [.gmem] (regsOf [memStatus]) s t) ∧
    Frame [.mem, .gmem, .saf, .flaws] (pagesOf [chrtBase, memBase]) s t) ∧
  (s.gmem.selfRefresh = true → s.gmem.retained = true → ∃ t, exec .selfRefreshExit s = .next t ∧ t.gmem.selfRefresh = false ∧
    (∀ c : ChanN, t.gmem.retraining[c] = s.inUse c ∧ t.gmem.passed[c] = false) ∧ Frame [.gmem] noReg s t)

/-- SAFEIN_REQUEST, SS1_TIMEOUT, STOREQ, OUTPUT_FAULT, LOCKSTEP_MISMATCH, WATCHDOG_TIMEOUT, REPORT_TIMEOUT, LATENT_TIMEOUT, JUNCTION_OVERTEMP
(R266 to R272, R275, R284, R286, R289). -/
def Obligations.SafeStateCauses : Prop :=
  ∀ (s : State), s.islandOn = true →
  let atOnce (c unit : Nat) (i : Instr) : Prop := ∃ t, exec i s = .next t ∧ causeRaised c 0 unit s t ∧ safeHeld t ∧ causeFrame s t
  -- the readback of output o, which SAF_STATUS.PIN shows
  let seen (s : State) (o : Fin 4) (high : Bool) := s.saf.readback.set o (if s.safePin o = high then none else some high)
  let paired (c unit : Nat) (i : Instr) : Prop := ∃ t, exec i s = .next t ∧ causeRaised c 0 unit s t ∧ causeFrame s t ∧
    (s.safe = true ∨ s.saf.pairWait = none ∧ (s.bit safCfg 31 = false ∨ s.role = false) → safeHeld t) ∧
    (s.safe = false → s.saf.pairWait = none → s.bit safCfg 31 = true → s.role = true →
      t.safe = false ∧ t.saf.pairWait = some c ∧ t.bit safStatus 28 = true ∧ t.role = false ∧ t.safePin 3 = false)
  atOnce 1 0 .storeq ∧
  (s.bit safStatus 30 = true → atOnce 2 0 .ss1Timeout) ∧
  (∀ lowNs, s.bit safCfg 28 = true → 3000 ≤ lowNs →
    (s.bit safCfg 29 = false → s.safe = false → atOnce 0 0 (.safeinRequest lowNs) ∧
      ∃ t, exec (.safeinRequest lowNs) s = .next t ∧ t.saf.active = s.saf.active ||| 1) ∧
    -- in the safe state the low's condition lasts, and it latches no cause anew (log entry 103)
    (s.bit safCfg 29 = false → s.safe = true → ∃ t, exec (.safeinRequest lowNs) s = .next t ∧
      t.saf = { s.saf with active := s.saf.active ||| 1, relPending := false } ∧ Frame [.saf] noReg s t) ∧
    (s.bit safCfg 29 = true → s.safe = true ∨ s.bit safStatus 30 = true → exec (.safeinRequest lowNs) s = .next s) ∧
    (s.bit safCfg 29 = true → s.safe = false → s.bit safStatus 30 = false → ∃ t, exec (.safeinRequest lowNs) s = .next t ∧ t.bit safStatus 30 = true ∧
      t.safePin 2 = false ∧ Frame [.pins] (regsOf [safStatus]) s t)) ∧
  (∀ lowNs, s.bit safCfg 28 = false ∨ lowNs < 2000 → exec (.safeinRequest lowNs) s = .next s) ∧
  (∀ o high ns, s.outputBad o high ns = true → atOnce 17 o.val (.outputFault o high ns) ∧ ∃ t, exec (.outputFault o high ns) s = .next t ∧
    t.saf.active = s.saf.active ||| 2 ^ 17 ∧ t.saf.outBad = s.saf.outBad ||| 2 ^ o.val ∧ t.saf.test = none ∧ t.saf.readback = seen s o high) ∧
  (∀ o high ns, s.outputBad o high ns = false → let bad := s.saf.outBad &&& (0xF ^^^ 2 ^ o.val)
    ∃ t, exec (.outputFault o high ns) s = .next t ∧ Frame [.saf] noReg s t ∧
      t.saf = { s.saf with readback := seen s o high, outBad := bad, active := if bad = 0 then s.saf.active &&& (allBits ^^^ 2 ^ 17) else s.saf.active }) ∧
  -- core B's output against that of core A two cycles before
  (∀ i b, let due := ((s.core 9).outs.map (·.2))[i]?
    (due = some b → exec (.lockstepMismatch i b) s = .next s) ∧
    (due ≠ some b → atOnce 16 0 (.lockstepMismatch i b) ∧
      ∃ t, exec (.lockstepMismatch i b) s = .next t ∧ t.saf.islandFault = true ∧ t.saf.keepalive = false)) ∧
  (s.saf.wdogRun = true → atOnce 16 0 .watchdogTimeout) ∧
  (s.saf.armed = true → paired 15 0 .reportTimeout) ∧
  (∀ c : Cl, s.saf.timed.testBit c = true → s.saf.excl.testBit c = false → s.bit srchClavail c = true → paired 11 c.val (.latentTimeout c)) ∧
  paired 10 0 (.junctionOvertemp true) ∧
  (∃ t, exec (.junctionOvertemp false) s = .next t ∧ t.saf = { s.saf with active := s.saf.active &&& (allBits ^^^ 2 ^ 10) } ∧ Frame [.saf] noReg s t) ∧
  (∀ u : State, u.islandOn = false → exec .storeq u = .next u ∧ (∀ b, exec (.junctionOvertemp b) u = .next u) ∧
    (∀ i b, exec (.lockstepMismatch i b) u = .next u) ∧
    ∀ o high ns, ∃ t, exec (.outputFault o high ns) u = .next t ∧ t.saf = { u.saf with readback := seen u o high } ∧ Frame [.saf] noReg u t)

/-- RELEASE, SAFEIN_RELEASE_EDGE, SS1REQ, KEEPALIVE_STOP, OUTPUT_TEST, ISLAND_SELFTEST, WATCHDOG_SERVICE, PAIRED_SAFE_AT_MARK,
SELFTEST_REPORT, DPF_WINDOW (R267 to R273, R283, R284, R286). -/
def Obligations.SafeRelease : Prop :=
  ∀ (s : State),
  let gives (i : Instr) (f : Saf) : Prop := ∃ t, exec i s = .next t ∧ t.saf = f ∧ Frame [.saf] noReg s t
  (∀ lowMs, let f := { s.saf with active := s.saf.active &&& (allBits ^^^ 1) }
    -- RELOK with the input's own condition over
    let ok := { s with saf := f }.relOk
    (s.bit safCfg 28 = true → s.bit safCfg 30 = false → 10 ≤ lowMs → s.safe = true → ok = true →
      gives (.safeinReleaseEdge lowMs) { f with relPending := true }) ∧
    (s.bit safCfg 28 = false ∨ s.bit safCfg 30 = true ∨ lowMs < 10 ∨ s.safe = false ∨ ok = false → gives (.safeinReleaseEdge lowMs) f)) ∧
  (s.bit safCfg 30 = true → s.safe = true → s.relOk = true → gives .release { s.saf with relPending := true }) ∧
  (s.bit safCfg 30 = false ∨ s.safe = false ∨ s.relOk = false → exec .release s = .next s) ∧
  (s.islandOn = true → s.safe = false → s.bit safStatus 30 = false → ∃ t, exec .ss1req s = .next t ∧ t.bit safStatus 30 = true ∧
    t.safePin 2 = false ∧ (∀ i, i ≠ 2 → t.safePin i = s.safePin i) ∧ Frame [.pins] (regsOf [safStatus]) s t) ∧
  (s.islandOn = false ∨ s.safe = true ∨ s.bit safStatus 30 = true → exec .ss1req s = .next s) ∧
  (∃ t, exec .keepaliveStop s = .next t ∧ (∀ i, t.safePin i = false) ∧ t.saf = { s.saf with keepalive := false } ∧ Frame [.saf] noReg s t) ∧
  -- the steps of a test, one output at a time and outside the safe state (R268)
  (∀ (o : Fin 4) (k : Fin 5), let due := s.islandOn = true ∧ s.safe = false ∧ s.saf.test = if k = 0 then none else some (o, k.val - 1)
    (due → ∃ t, exec (.outputTest o k) s = .next t ∧ t.saf = { s.saf with test := if k = 4 then none else some (o, k.val) } ∧
      (k = 0 ∨ k = 2 → t.safePin o = false) ∧ (∀ j, j ≠ o → t.safePin j = s.safePin j) ∧ Frame [.saf] noReg s t) ∧
    (¬ due → exec (.outputTest o k) s = .next s)) ∧
  -- a forced mismatch that left TESTDONE without TESTHIT in LSSTAT fails the test
  (∀ ok, gives (.islandSelftest ok) { s.saf with selftest := ok && (s.core 9).lsstat != 1#32 }) ∧
  (exec (.watchdogService 0xA5C3) s = .next s) ∧
  (∀ key : Word, s.islandOn = true → key ≠ 0xA5C3 → ∃ t, exec (.watchdogService key) s = .next t ∧ causeRaised 16 0 0 s t ∧
    safeHeld t ∧ t.saf.islandFault = true ∧ t.saf.keepalive = false ∧ causeFrame s t) ∧
  (s.saf.pairWait = none → exec .pairedSafeAtMark s = .next s) ∧
  (s.saf.pairWait.isSome = true → s.safe = false → ∃ t, exec .pairedSafeAtMark s = .next t ∧ safeHeld t ∧ t.saf.pairWait = none ∧ t.saf.test = none ∧
    (∀ a, a ≠ safStatus → a ≠ capStatus → t.rd a = s.rd a) ∧ Frame [.cell, .lanes, .cap, .saf, .chain, .pins, .freeCtr] (pagesOf [capBase, safBase]) s t) ∧
  gives .dpfWindow { s.saf with window := 0 } ∧
  (∀ (c : Cl) (pass : Bool), s.saf.reports.contains (c, pass) = false → exec (.selftestReport c pass) s = .next s) ∧
  (∀ c : Cl, s.islandOn = true →
    let told (pass : Bool) (t : State) : Prop := t.saf.reports = s.saf.reports.erase (c, pass) ∧ t.saf.late.testBit c = false ∧
      (t.saf.late = 0 → t.saf.active.testBit 11 = false)
    (s.saf.reports.contains (c, true) = true → ∃ t, exec (.selftestReport c true) s = .next t ∧ told true t ∧ t.saf.timed.testBit c = true ∧
      (c, 0) ∈ t.saf.passes ∧ t.cl c = { s.cl c with servedSimplex := false } ∧ (∀ d, d ≠ c → t.cl d = s.cl d) ∧ Frame [.cls, .saf] noReg s t) ∧
    (s.saf.reports.contains (c, false) = true → (s.cl c).servedSimplex = false → ∃ t, exec (.selftestReport c false) s = .next t ∧ told false t ∧
      t.saf.timed.testBit c = false ∧ Frame [.saf] noReg s t) ∧
    (s.saf.reports.contains (c, false) = true → (s.cl c).servedSimplex = true → ∃ t, exec (.selftestReport c false) s = .next t ∧
      causeRaised 12 0 c s t ∧ causeFrame s t ∧ t.saf.timed.testBit c = false ∧
      (s.safe = true ∨ s.saf.pairWait = none ∧ (s.bit safCfg 31 = false ∨ s.role = false) → safeHeld t)))

/-- MARK_NOTICE, DECISION_REPORT, MISS_NOTICE (R274 to R279, R283). -/
def Obligations.IslandNotices : Prop :=
  ∀ (s : State) (bs : List Byte), s.islandOn = true →
  let dropped (i : Instr) : Prop := ∃ t, exec i s = .next t ∧ t.notices = s.notices.drop 1 ∧ Frame [.notices] noReg s t
  let held (c slot : Nat) (t : State) : Prop := causeRaised c slot 0 s t ∧
    (s.safe = true ∨ s.saf.pairWait = none ∧ (s.bit safCfg 31 = false ∨ s.role = false) → safeHeld t)
  let wide := Frame [.mem, .cell, .lanes, .cap, .saf, .chain, .pins, .notices, .freeCtr] (pagesOf [cellBase, capBase, nvrBase, safBase]) s
  let lack := s.saf.enmask &&& (0xF ^^^ (s.saf.got % 16))
  -- the run of misses of a slot without a miss notice in the period that ended is over (R283)
  let mark := { s.saf with pcnt := some (leAt bs 1 4), enmask := byteAt bs 9 % 16, got := 0, armed := true, missed := 0,
                           misses := Vector.ofFn fun p : Slot => if s.saf.missed.testBit p then s.saf.misses[p] else 0 }
  (crcOk bs = false ∨ byteAt bs 0 ≠ 1 ∨ bs.length ≠ 14 → dropped (.markNotice bs)) ∧
  (crcOk bs = true → byteAt bs 0 = 1 → bs.length = 14 →
    (s.saf.pcnt = none ∨ lack = 0 → ∃ t, exec (.markNotice bs) s = .next t ∧ t.saf = mark ∧ t.notices = s.notices.drop 1 ∧
      Frame [.saf, .notices] noReg s t) ∧
    (s.saf.pcnt.isSome = true → lack ≠ 0 → ∃ t, exec (.markNotice bs) s = .next t ∧ held 15 (lowSlot lack) t ∧
      t.saf.pcnt = some (leAt bs 1 4) ∧ t.saf.got = 0 ∧ t.notices = s.notices.drop 1 ∧ wide t)) ∧
  (s.noticeOk bs 3 7 2 = false → dropped (.missNotice bs)) ∧
  (s.noticeOk bs 3 7 2 = true →
    let p : Slot := toFin 4 (byteAt bs 1)
    let n := s.saf.misses[p] + 1
    let mx := if 1 ≤ s.fld safCfg 23 20 ∧ s.fld safCfg 23 20 ≤ 3 then s.fld safCfg 23 20 else 3
    let dpf := byteAt bs 6 = 3
    let w := if dpf then s.saf.window + 1 else s.saf.window
    let many := dpf ∧ s.fld safCfg 19 16 < w
    (¬ many → n ≠ mx → ∃ t, exec (.missNotice bs) s = .next t ∧ t.notices = s.notices.drop 1 ∧
      t.fld safDpfcnt 31 16 = Nat.min (s.fld safDpfcnt 31 16 + 1) 65535 ∧
      t.fld safDpfcnt 15 0 = (if dpf then Nat.min (s.fld safDpfcnt 15 0 + 1) 65535 else s.fld safDpfcnt 15 0) ∧
      t.saf = { s.saf with got := s.saf.got ||| 2 ^ p.val, misses := s.saf.misses.set p n, missed := s.saf.missed ||| 2 ^ p.val, window := w } ∧
      Frame [.saf, .notices] (regsOf [safDpfcnt]) s t) ∧
    (¬ many → n = mx → ∃ t, exec (.missNotice bs) s = .next t ∧ held 14 p t ∧ wide t) ∧
    (many → n ≠ mx → ∃ t, exec (.missNotice bs) s = .next t ∧ held 13 p t ∧ wide t) ∧
    -- both are set, and SAF_LASTFLT keeps the lower (R289)
    (many → n = mx → ∃ t, exec (.missNotice bs) s = .next t ∧ t.bit safCause 13 = true ∧ t.bit safCause 14 = true ∧
      t.rd safLastflt = 0x80000000 + p * 2 ^ 24 + 13 ∧ wide t)) ∧
  (s.noticeOk bs 2 100 2 = false → dropped (.decisionReport bs)) ∧
  (s.noticeOk bs 2 100 2 = true → let r := readReport bs
    let uPrev := match s.saf.lastU[r.p] with
      | some (pc, u) => if (pc + 1) % 2 ^ 32 = r.pcnt then u else r.uk
      | none => r.uk
    let limits (j : Nat) : Prop := s.bit (safLim r.p j) 31 = true ∧ s.fld (safLim r.p j) 29 24 = r.arm.getD j 0 ∧
      s.fld (safLim r.p j) 6 0 ≤ r.u.getD j 0 ∧ r.u.getD j 0 ≤ s.fld (safLim r.p j) 14 8 ∧
      Machine.dist (r.u.getD j 0) (r.uk.getD j 0) ≤ s.fld (safLim r.p j) 22 16
    ((∀ j < Nat.min r.nu 8, limits j) → (∀ m, s.bit (safYcfg m) 31 = false ∨ s.fld (safYcfg m) 29 28 ≠ r.p.val) →
      ∃ t, exec (.decisionReport bs) s = .next t ∧ t.notices = s.notices.drop 1 ∧
        t.saf = { s.saf with got := s.saf.got ||| 2 ^ r.p.val, misses := s.saf.misses.set r.p 0,
                             lastU := s.saf.lastU.set r.p (some (r.pcnt, r.u)) } ∧ Frame [.saf, .notices] noReg s t) ∧
    ((∃ j < Nat.min r.nu 8, ¬ limits j) → ∃ t, exec (.decisionReport bs) s = .next t ∧ t.bit safCause 3 = true ∧ safeHeld t ∧ wide t) ∧
    (∀ (m : Fin 4) (y : Int), s.bit (safYcfg m) 31 = true → s.fld (safYcfg m) 29 28 = r.p.val → 
      -- the sample of the report's own period
      (if r.pcnt = s.rd perCount then s.saf.yMark[m] else s.saf.yPrev[m]) = some y →
      let c := floorSh (r.x.getD (s.fld (safYcfg m) 19 16) 0 * (s.fld (safYcfg m) 15 0 : Int)) 16
      let y1 := s.coarse m y uPrev
      ∃ t, exec (.decisionReport bs) s = .next t ∧ t.saf.y1[m] = some (r.pcnt, y1) ∧ wide t ∧
        (r.srStat.testBit 13 = false → s.fld (safYtol m) 15 0 < (c - y).natAbs → t.bit safCause 4 = true ∧ safeHeld t) ∧
        (s.fld (safYlim m) 15 0 < (s.coarse m y1 r.u).natAbs → t.bit safCause 3 = true ∧ safeHeld t) ∧
        (∀ v, s.saf.y1[m] = some ((r.pcnt + 2 ^ 32 - 1) % 2 ^ 32, v) → s.fld (safYtol m) 31 16 < (y - v).natAbs →
          t.bit safCause 5 = true ∧ safeHeld t)))

/-- CHAIN_FRAME_RECEIVE, and frames and blocks of the chain on the line (R292 to R297, R299, R301, R303). The NW words of a refused RDRSP are log
entry 38. -/
def Obligations.ChainFrames : Prop :=
  (∀ (s : State) (p : ChPort) (k : ChLane) (bs : List Byte),
  let pilot := decide (k = .pl)
  let f := readFrame bs
  let got := Instr.chainFrameReceive p k bs
  let g := { f with hops := f.hops + 1 }
  let o := otherPort p
  let requests := (s.chain.inbox.filter fun x => isRequest x.2.2.typ).length
  -- a frame leaves on a pilot lane, or on the data lane of its type while the port's data lanes work
  let out (q : ChPort) (h : CFrame) : List (ChPort × ChLane × CFrame) :=
    if pilot = true then [(q, .pl, h)] else if s.dataOn q = true then [(q, s.dataLane q h.typ, h)] else []
  -- what arrives on a pilot lane shows its sync (log entry 106)
  let shown (a : Nat) : Prop := pilot = true ∧ a = chnPortstat
  let dropped (hi lo : Nat) : Prop := ∃ t, exec got s = .next t ∧ t.fld chnErrcnt hi lo = Nat.min (s.fld chnErrcnt hi lo + 1) 65535 ∧
    t.bit chnStatus 0 = true ∧ t.chain = s.chain ∧ Frame [] (fun a => shown a ∨ a = chnErrcnt ∨ a = chnStatus) s t
  let took (inbox : List (ChPort × Bool × CFrame)) (sent : List (ChPort × ChLane × CFrame)) : Prop := ∃ t, exec got s = .next t ∧
    t.chain = { s.chain with inbox := s.chain.inbox ++ inbox, sent := s.chain.sent ++ sent } ∧
    (pilot = true → s.clk.cdUp = true → t.bit chnPortstat (8 * portIdx p + 6) = true) ∧ Frame [.chain] shown s t
  (s.laneIn p k = false → exec got s = .next s) ∧
  (s.laneIn p k = true → frameOk pilot bs = false → dropped 15 0) ∧
  (s.laneIn p k = true → frameOk pilot bs = true → 40 ≤ f.hops → dropped 31 16) ∧
  (s.laneIn p k = true → frameOk pilot bs = true → f.hops < 40 →
    (f.typ = 0x10 → pilot = true → took [(p, pilot, f)] []) ∧
    (f.typ = 0x10 → pilot = false → dropped 15 0) ∧
    (f.typ ≠ 0x10 → f.dst ≠ 63 → s.hasAddr = true → f.dst = s.myAddr →
      (knownType f.typ = false → dropped 15 0) ∧
      (knownType f.typ = true → isRequest f.typ = false ∨ requests < 8 → took [(p, pilot, f)] []) ∧
      (f.typ = 1 ∨ f.typ = 3 → 8 ≤ requests → let q := s.portToward f.src
        took [] (out (if s.portDead q pilot then otherPort q else q)
          { typ := f.typ + 1, dst := f.src, src := s.myAddr, hops := 0, wrap := s.portDead q pilot, tag := f.tag,
            pay := if f.typ = 1 then rdrspNone pilot 4 (byteAt f.pay 5) else [4, 0, 0, 0] }))) ∧
    (f.typ ≠ 0x10 → f.dst ≠ 63 → s.hasAddr = false ∨ f.dst ≠ s.myAddr →
      (s.portDead o pilot = false → took [] (out o g)) ∧
      (s.portDead o pilot = true → f.wrap = false → took [] (out p { g with wrap := true })) ∧
      (s.portDead o pilot = true → f.wrap = true → dropped 31 16)) ∧
    (f.typ ≠ 0x10 → f.dst = 63 →
      ((∃ c ∈ s.chain.casts, c.1 = f.src ∧ c.2.1 = f.tag ∧ c.2.2 = 0) → (∀ c ∈ s.chain.casts, c.2.2 = 0) → took [] []) ∧
      ((∀ c ∈ s.chain.casts, c.1 ≠ f.src ∨ c.2.1 ≠ f.tag) → knownType f.typ = true → isRequest f.typ = false → s.portDead o pilot = false →
        ∃ t, exec got s = .next t ∧ t.chain = { s.chain with inbox := s.chain.inbox ++ [(p, pilot, f)], sent := s.chain.sent ++ out o g,
                                                             casts := s.chain.casts ++ [(f.src, f.tag, 0)] } ∧ Frame [.chain] shown s t)))) ∧
  -- the CMARK block's bytes (R292)
  (∀ m : CMark, m.ccl < 2 ^ 24 → m.ofs < 2 ^ 24 → m.hops < 64 → let w := m.block.pay
    m.block.sync = 2 ∧ w.toNat % 2 ^ 8 = 0x66 ∧ w.toNat / 2 ^ 8 % 2 ^ 24 = m.ccl ∧ w.toNat / 2 ^ 32 % 2 ^ 24 = m.ofs ∧ w.toNat / 2 ^ 56 % 2 ^ 6 = m.hops ∧
      w.getLsbD 62 = m.hi ∧ w.getLsbD 63 = false) ∧
  -- a frame that is sent is read as what it is (R294); on a pilot lane it stands between its two characters (R293)
  (∀ f : CFrame, f.typ < 256 → f.dst < 64 → f.src < 64 → f.hops < 64 → f.tag < 2 ^ 16 → f.pay.length ≤ 2048 →
    readFrame (frameBytes f) = f ∧ frameOk false (frameBytes f) = true ∧ (f.pay.length ≤ 16 → frameOk true (frameBytes f) = true) ∧
    f.chars.length = f.pay.length + 14 ∧ f.chars.head? = some .start ∧ f.chars.getLast? = some .stop ∧
    ∀ i b, (frameBytes f)[i]? = some b → f.chars[i + 1]? = some (.data b)) ∧
  -- 16 valid characters in a row bring pilot sync, 4 invalid ones among 16 end it (R293)
  ∀ (k : RxLock) (cs : List PilotChar), (cs.length = 16 → (∀ c ∈ cs, c ≠ .invalid) → (k.chars cs).locked = true) ∧
    (cs.length ≤ 16 → 4 ≤ cs.count .invalid → (k.chars cs).locked = false)

/-- RDREQ, WRREQ, BLKWR, BLKRD, BLKDATA_SEND (R258, R293, R297, R303 to R306). The zeros of a refused RDRSP are log entry 38. -/
def Obligations.ChainRequests : Prop :=
  ∀ (s : State) (p : ChPort) (src : Fin 64) (tag : BitVec 16) (addr : BitVec 40) (nw : Byte) (ws : List Word) (bs : List Byte),
  let a := addr.toNat
  let q := s.portToward src
  -- the frame that answers and where it leaves, and the inbox without the request
  let answer (pilot : Bool) (typ : Nat) (pay : List Byte) : List (ChPort × ChLane × CFrame) :=
    let wrap := s.portDead q pilot
    let r := if wrap then otherPort q else q
    let f : CFrame := { typ, dst := src, src := s.myAddr, hops := 0, wrap, tag := tag.toNat, pay }
    if pilot = true then [(r, .pl, f)] else if s.dataOn r = true then [(r, s.dataLane r typ, f)] else []
  let left (typ : Nat) : List (ChPort × Bool × CFrame) := (s.takeFrame typ (some src.val)).2.chain.inbox
  let answers (i : Instr) (pilot : Bool) (req typ : Nat) (pay : List Byte) (rs : List Nat) : Prop := ∃ t, exec i s = .next t ∧
    t.chain = { s.chain with inbox := left req, sent := s.chain.sent ++ answer pilot typ pay } ∧ Frame [.chain] (regsOf rs) s t
  -- period SRAM past the slots, with no word in error
  let plain (n : Nat) : Prop := s.clk.cdUp = true ∧ 0x1000040000 ≤ a ∧ a + n ≤ 0x1004000000 ∧ s.bad a n = false
  let shut : Prop := s.clk.cdUp = false ∧ a + 4 * nw.toNat ≤ 0x5000000000
  (∀ (pilot : Bool) (chks : List Check), s.chnUp pilot = true →
    let rd := Instr.rdreq p pilot src tag addr nw chks
    let wr := Instr.wrreq p pilot src tag addr ws chks
    (s.rangeWaits a (4 * nw.toNat) = true → exec rd s = .next s) ∧
    (s.rangeWaits a (4 * nw.toNat) = false →
      (wordsOk pilot a nw.toNat = false → answers rd pilot 1 2 (rdrspNone pilot 3 nw.toNat) []) ∧
      (wordsOk pilot a nw.toNat = true → s.aclRead src = true → answers rd pilot 1 2 (rdrspNone pilot 2 nw.toNat) [chnStatus] ∧
        (s.clk.cdUp = true → ∃ t, exec rd s = .next t ∧ t.bit chnStatus 1 = true)) ∧
      (wordsOk pilot a nw.toNat = true → s.aclRead src = false →
        (chks = [] → plain (4 * nw.toNat) → answers rd pilot 1 2 ([0, 0, 0, 0] ++ s.bytes a (4 * nw.toNat)) []) ∧
        (shut → answers rd pilot 1 2 ([1, 0, 0, 0] ++ List.replicate (4 * nw.toNat) 0) []))) ∧
    (s.rangeWaits a (4 * ws.length) = true → exec wr s = .next s) ∧
    (s.rangeWaits a (4 * ws.length) = false →
      (wordsOk pilot a ws.length = false → answers wr pilot 3 4 [3, 0, 0, 0] []) ∧
      (wordsOk pilot a ws.length = true → pageBase a = safBase → answers wr pilot 3 4 [1, 0, 0, 0] []) ∧
      (wordsOk pilot a ws.length = true → pageBase a ≠ safBase → s.aclWrite src = true → answers wr pilot 3 4 [2, 0, 0, 0] [chnStatus]) ∧
      (wordsOk pilot a ws.length = true → s.aclWrite src = false → chks = [] → plain (4 * ws.length) →
        ∃ t, exec wr s = .next t ∧
          t.chain = { s.chain with inbox := left 3, sent := s.chain.sent ++ answer pilot 4 [0, 0, 0, 0] } ∧
          (∀ i (h : i < ws.length), t.word (a + 4 * i) = ws[i].toNat) ∧
          (∀ x, ¬ (a ≤ x ∧ x < a + 4 * ws.length) → t.byte x = s.byte x) ∧ Frame [.mem, .chain] noReg s t))) ∧
  (∀ (pilot : Bool) chks, s.chnUp pilot = false →
    exec (.rdreq p pilot src tag addr nw chks) s = .next s ∧ exec (.wrreq p pilot src tag addr ws chks) s = .next s) ∧
  (s.chnData = false → (∀ st bq chks, exec (.blkwr src tag addr st bq bs chks) s = .next s) ∧ (∀ n, exec (.blkrd src tag addr n) s = .next s) ∧
    ∀ chks, exec (.blkdataSend chks) s = .next s) ∧
  (s.chnData = true →
    (∀ st bq chks, s.rangeWaits a bs.length = true → exec (.blkwr src tag addr st bq bs chks) s = .next s) ∧
    (∀ bq last, s.rangeWaits a bs.length = false → (s.bseqOf src).2 = some last →
      let i := Instr.blkwr src tag addr false bq bs []
      let form : Prop := 64 ≤ bs.length ∧ bs.length ≤ 2040 ∧ bs.length % 64 = 0 ∧ a % 64 = 0
      let ack (b st : Nat) : List Byte := toLE 2 b ++ [BitVec.ofNat 8 st, BitVec.ofNat 8 s.bulkWin]
      (¬ form → answers i false 5 6 (ack last 3) []) ∧
      (form → s.bit chnCtrl 8 = false ∨ s.aclWrite src = true → answers i false 5 6 (ack last 2) [chnStatus]) ∧
      (form → s.bit chnCtrl 8 = true → s.aclWrite src = false →
        (bq.toNat ≠ (s.bseqOf src).1 → answers i false 5 6 (ack last 0) []) ∧
        (bq.toNat = (s.bseqOf src).1 → oneRegion a bs.length = false ∨ retainBase < a + bs.length → answers i false 5 6 (ack last 1) []) ∧
        -- a frame of which some write would get an error response is not written
        (bq.toNat = (s.bseqOf src).1 → oneRegion a bs.length = true → a + bs.length ≤ retainBase →
          (s.blocksRefused a (bs.length / 64)).isSome = true → ∃ t, exec i s = .next t ∧ t.mem = s.mem ∧ t.bseqOf src = s.bseqOf src ∧
            t.chain = { s.chain with inbox := left 5, sent := s.chain.sent ++ answer false 6 (ack last 1) }) ∧
        (bq.toNat = (s.bseqOf src).1 → bs.length = 64 → a + 64 ≤ retainBase → oneRegion a 64 = true → s.memReady = true →
          s.exclMask = 0 → bufAt a = none → s.gmem.dead[s.chanOf a] = false →
          ∃ t, exec i s = .next t ∧ t.bytes a 64 = bs ∧ t.bad a 64 = false ∧ (∀ x, x < a ∨ a + 64 ≤ x → t.byte x = s.byte x) ∧
            t.bseqOf src = ((bq.toNat + 1) % 65536, some bq.toNat) ∧
            t.chain.sent = s.chain.sent ++ answer false 6 (ack bq.toNat 0) ∧ t.chain.inbox = left 5 ∧
            Frame [.mem, .gmem, .chain, .flaws] (regsOf [memChstat (s.chanOf a), chnBulkstat]) s t))) ∧
    (∀ n : BitVec 16, let form : Prop := 1 ≤ n.toNat ∧ n.toNat ≤ 1024 ∧ a % 64 = 0
      (¬ form → answers (.blkrd src tag addr n) false 7 8 (toLE 5 a ++ [3, 0, 0]) []) ∧
      (form → s.bit chnCtrl 8 = false ∨ s.aclRead src = true → answers (.blkrd src tag addr n) false 7 8 (toLE 5 a ++ [2, 0, 0]) [chnStatus]) ∧
      (form → s.bit chnCtrl 8 = true → s.aclRead src = false → ∃ t, exec (.blkrd src tag addr n) s = .next t ∧
        t.chain = { s.chain with inbox := left 7, streams := s.chain.streams.filter (fun x => x.src != src.val) ++
          [{ src := src, tag := tag.toNat, addr := a, left := 64 * n.toNat }] } ∧ Frame [.chain] noReg s t)) ∧
    (s.chain.streams = [] → ∀ chks, exec (.blkdataSend chks) s = .next s) ∧
    (∀ r rest, s.chain.streams = { src := src, tag := tag.toNat, addr := a, left := r } :: rest → 0 < r → r % 8 = 0 → a % 8 = 0 →
      let n := Nat.min 2040 r
      plain n → let next := if r = n then rest else { src := src, tag := tag.toNat, addr := a + n, left := r - n } :: rest
      (∃ t, exec (.blkdataSend []) s = .next t ∧
        t.chain = { s.chain with streams := next, sent := s.chain.sent ++ answer false 8 (toLE 5 a ++ [0, 0, 0] ++ s.bytes a n) } ∧
        Frame [.chain] noReg s t) ∧
      -- word i is found uncorrectable: the data of the words before it
      ∀ i, i < n / 8 → ∃ t, exec (.blkdataSend (List.replicate i ({ ecc := [] } : Check) ++ [{ ecc := [.uncorrectable] }])) s = .next t ∧
        t.chain = { s.chain with streams := next,
                                 sent := s.chain.sent ++ answer false 8 (toLE 5 a ++ [1, 0, 0] ++ s.bytes a (8 * i) ++ List.replicate (n - 8 * i) 0) } ∧
        Frame [.chain, .flaws] noReg s t))

/-- ENUM, HB, PILOT_HB, TKREQ, TKCONF, WAKE (R297, R300, R301, R314 to R317, R319). -/
def Obligations.ChainPairAndEnum : Prop :=
  ∀ (s : State),
  (∀ (p : ChPort) (next : Byte) (fresh : Bool),
    (s.laneIn p .pl = false → exec (.enum p next fresh) s = .next s) ∧
    (s.laneIn p .pl = true →
      let came : CFrame := match (s.takeFrame 0x10 none).1 with
        | some x => x.2.2
        | none => { typ := 0x10, dst := 63, src := 0, hops := 0, wrap := false, tag := 0, pay := [next, BitVec.ofNat 8 (b2n fresh), 0, 0] }
      -- the frame goes on as it came, but for HOPS and NEXT
      let passed (n : Nat) (t : State) : Prop := t.chain = { s.chain with inbox := (s.takeFrame 0x10 none).2.chain.inbox, sent := s.chain.sent ++
        [(otherPort p, .pl, { came with hops := came.hops + 1, pay := BitVec.ofNat 8 n :: came.pay.drop 1 })] }
      (s.hasAddr = true → fresh = false → ∃ t, exec (.enum p next fresh) s = .next t ∧ passed next.toNat t ∧ Frame [.chain] noReg s t) ∧
      (s.hasAddr = false ∨ fresh = true →
        (next.toNat ≤ 32 → ∃ t, exec (.enum p next fresh) s = .next t ∧ passed (next.toNat + 1) t ∧ t.hasAddr = true ∧
          t.myAddr = next.toNat ∧ t.hostPort = p ∧ t.bit chnStatus 8 = false ∧ Frame [.chain] (regsOf [chnAddr, chnStatus]) s t) ∧
        (32 < next.toNat → ∃ t, exec (.enum p next fresh) s = .next t ∧ passed next.toNat t ∧ t.hasAddr = false ∧ t.bit chnStatus 8 = true ∧
          Frame [.chain] (regsOf [chnAddr, chnStatus]) s t)))) ∧
  (∀ (src : Fin 64) (pay : List Byte) (pilot : Bool), src.val ≠ s.fld chnPair 5 0 ∨ s.pairOn = false ∨ s.live .chn = false ∨ pay.length < 8 →
    exec (.hb pilot src pay) s = .next s) ∧
  (∀ (src : Fin 64) (pay : List Byte) (pilot : Bool), s.pairOn = true → s.live .chn = true → src.val = s.fld chnPair 5 0 → 8 ≤ pay.length →
    let role := (byteAt pay 4).testBit 0
    -- consecutive heartbeats of the peer on its data lane, one a period (log entry 69)
    let n := if role = s.role then 0 else if pilot = true ∨ s.chain.hbNow = true then s.chain.hbs else s.chain.hbs + 1
    let c := { s.chain with hbNow := s.chain.hbNow || !pilot, hbs := n }
    let differ (e : Slot × Nat) : Prop := s.hbDiffers e.1 (leAt pay 0 4) ((pay.drop e.2).take 24) = true
    ∃ t, exec (.hb pilot src pay) s = .next t ∧ t.bit chnPairstat 7 = role ∧
      (role = s.role → t.fld chnPairstat 2 0 = 3 ∧ t.chain = { c with paired := false }) ∧
      (role ≠ s.role → 8 ≤ n → t.fld chnPairstat 2 0 = 2 ∧ t.chain = { c with paired := true }) ∧
      (role ≠ s.role → n < 8 → t.chain = c ∧
        t.fld chnPairstat 2 0 = if s.chain.paired = true ∨ s.fld chnPairstat 2 0 = 5 then s.fld chnPairstat 2 0 else 1) ∧
      (pilot = false → (∃ e ∈ hbSlots pay, differ e) → t.bit chnStatus 5 = true) ∧
      (pilot = true ∨ (∀ e ∈ hbSlots pay, ¬ differ e) → Frame [.chain] (regsOf [chnPairstat]) s t) ∧
      Frame [.chain] (regsOf [chnPairstat, chnXmiscnt, chnStatus]) s t) ∧
  (s.clk.power ≠ .off → s.pilotOnly = true →
    let q := if s.pairOn then portOf (s.bit chnPair 30) else s.hostPort
    let wrap := s.portDead q true
    ∃ t, exec .pilotHb s = .next t ∧ Frame [.chain] noReg s t ∧ t.chain = { s.chain with sent := s.chain.sent ++
      [(if wrap then otherPort q else q, .pl, { typ := 0x11, dst := if s.pairOn then s.fld chnPair 5 0 else 0, src := s.myAddr, hops := 0,
                                                wrap, tag := 0, pay := s.hbHead [] })] }) ∧
  (s.clk.power = .off ∨ s.pilotOnly = false → exec .pilotHb s = .next s) ∧
  (∀ (src : Fin 64) cc cause,
    (s.pairOn = true → s.chain.paired = true → s.role = false → s.safe = false → src.val = s.fld chnPair 5 0 →
      ∃ t, exec (.tkreq src cc cause) s = .next t ∧ t.role = true ∧ t.bit chnStatus 7 = true ∧ t.fld chnPairstat 2 0 = 5 ∧
        t.chain.paired = false ∧ t.chain.hbs = 0 ∧ (s.per.commitPassed = true → t.lanes = s.lanes) ∧
        Frame [.lanes, .chain, .pins, .freeCtr] (regsOf [cellRole, chnStatus, chnPairstat]) s t) ∧
    (s.pairOn = false ∨ s.chain.paired = false ∨ s.role = true ∨ s.safe = true ∨ src.val ≠ s.fld chnPair 5 0 →
      exec (.tkreq src cc cause) s = .next s)) ∧
  -- ROLELOST is set by any TKCONF, the wait of R284 ended by that of the peer
  (∀ src : Fin 64, let ends : Prop := s.pairOn = true ∧ src.val = s.fld chnPair 5 0 ∧ s.saf.pairWait.isSome = true ∧ s.safe = false
    (¬ ends → (s.clk.cdUp = true → ∃ t, exec (.tkconf src) s = .next t ∧ t.bit chnStatus 6 = true ∧ Frame [] (regsOf [chnStatus]) s t) ∧
      (s.clk.cdUp = false → exec (.tkconf src) s = .next s)) ∧
    (ends → ∃ t, exec (.tkconf src) s = .next t ∧ (s.clk.cdUp = true → t.bit chnStatus 6 = true) ∧ safeHeld t ∧
        t.saf.pairWait = none ∧ Frame [.cell, .lanes, .cap, .saf, .chain, .pins, .freeCtr] (regsOf [chnStatus, safStatus, capStatus]) s t)) ∧
  ((∀ x ∈ s.chain.inbox, x.2.2.typ ≠ 0x15) → exec .wake s = .next s) ∧
  (∀ p pilot f rest, s.chain.inbox = (p, pilot, f) :: rest → f.typ = 0x15 → ∃ t, exec .wake s = .next t ∧
    t.chain = { s.chain with inbox := rest } ∧ Frame [.chain, .clk] noReg s t ∧
    t.clk = if pilot && s.bit chnPilot 0 && s.lowPower then { s.clk with wakes := s.clk.wakes ||| 4 } else s.clk)

/-- PORT_DOWN, PILOT_SYNC_LOSS, PILOT_SYNC_ACQUIRED, CHAIN_DECHO, CHAIN_DREQ, DELAY_REMEASURE, PORT_RETRY (R298, R302). -/
def Obligations.ChainPorts : Prop :=
  ∀ (s : State) (p : ChPort),
  let i := portIdx p
  let k := s.cport p
  let st := s.portState p
  let o := otherPort p
  let wide := Frame [.lanes, .chain, .pins, .freeCtr] (pagesOf [cellBase, chnBase]) s
  -- port p is down: its ALERT goes on the other port, or from p with WRAP when the other is down too (R297)
  let al (wrap : Bool) : CFrame := { typ := 0x14, dst := 0, src := s.myAddr, hops := 0, wrap, tag := 0, pay := toLE 4 1 ++ toLE 4 i }
  let told : List (ChPort × ChLane × CFrame) :=
    if s.portState o = 3 then (if s.dataOn o = true then [(o, s.dataLane o 0x14, al false)] else [])
    else if s.portLock o 6 = true then [(o, .pl, al false)] else [(p, .pl, al true)]
  -- PEERLN shows the lanes of CHN_PAIR.PORT that are left, and the loss of the last is a takeover or leaves the peer lost (R314, R316)
  let peerLost (t : State) : Prop := s.bit chnPairstat 5 = true ∧ t.peerLane = false
  let pair (t : State) : Prop := t.bit chnPairstat 5 = t.peerLane ∧
    (¬ peerLost t → t.fld chnPairstat 2 0 = s.fld chnPairstat 2 0 ∧ t.role = s.role ∧ t.chain.paired = s.chain.paired) ∧
    (peerLost t → s.canTake = true → t.role = true ∧ t.bit chnStatus 7 = true ∧ t.fld chnPairstat 2 0 = 5 ∧ t.chain.paired = false) ∧
    (peerLost t → s.canTake = false → s.pairOn = true → t.fld chnPairstat 2 0 = 4 ∧ t.role = s.role ∧ t.chain.paired = false ∧ t.chain.hbs = 0)
  let switches : Prop := s.bit chnMkstat 30 = true ∧ s.bit chnMkstat 31 = decide (i = 1) ∧ s.portState o = 3
  let down (n : Nat) (c : CPort) (t : State) : Prop := t.portState p = n ∧ t.portState o = s.portState o ∧ t.bit chnStatus 2 = true ∧
    t.bit (chnDly i) 31 = false ∧ t.cport p = { c with echoes := [], measuring := false, newDly := none, streak := 0 } ∧ t.cport o = s.cport o ∧
    (∃ more, t.chain.sent = s.chain.sent ++ told ++ more ∧ (¬ switches → ¬ peerLost t → more = [])) ∧
    (switches → t.bit chnMkstat 31 = decide (portIdx o = 1) ∧ t.bit chnStatus 3 = true) ∧ pair t ∧ wide t
  (s.chnData = true → st = 2 ∨ st = 3 → ∃ t, exec (.portDown p) s = .next t ∧ t.portLock p 4 = false ∧ t.portLock p 5 = false ∧ down 4 k t ∧
    (¬ switches → ¬ peerLost t → Frame [.chain] (regsOf [chnPortstat, chnStatus, chnDly i, chnPairstat]) s t)) ∧
  (s.chnData = false ∨ ¬ (st = 2 ∨ st = 3) → exec (.portDown p) s = .next s) ∧
  (s.clk.power ≠ .off → (∃ t, exec (.pilotSyncLoss p) s = .next t ∧ t.portLock p 6 = false ∧ t.portState p = st ∧ t.cport o = s.cport o ∧ pair t ∧ wide t ∧
      (¬ peerLost t → t.chain.sent = s.chain.sent ∧ Frame [.chain] (regsOf [chnPortstat, chnPairstat]) s t)) ∧
    ∃ t, exec (.pilotSyncAcquired p) s = .next t ∧ t.portLock p 6 = true ∧ t.portState p = st ∧ t.cport o = s.cport o ∧ pair t ∧ wide t ∧
      (¬ peerLost t → t.chain.sent = s.chain.sent ∧ Frame [.chain] (regsOf [chnPortstat, chnPairstat]) s t)) ∧
  (s.clk.power = .off → exec (.pilotSyncLoss p) s = .next s ∧ exec (.pilotSyncAcquired p) s = .next s) ∧
  (∀ (token : Byte) (turn : BitVec 16) (rtt : Nat), let d := (rtt - turn.toNat) / 2
    let es := k.echoes ++ [d]
    let next := (k.token + 1) % 256
    let i' := Instr.chainDecho p token turn rtt
    (s.chnData = true → k.measuring = true → token.toNat = k.token → st = 2 ∨ st = 3 →
      (es.length < 8 → ∃ t, exec i' s = .next t ∧ t.cport p = { k with echoes := es, token := next } ∧
        t.chain.dreqOut = s.chain.dreqOut ++ [(p, s.blockLane p, next)] ∧ t.cport o = s.cport o ∧ Frame [.chain] noReg s t) ∧
      (8 ≤ es.length → maxN es ≤ minN es + 8 → maxN es ≤ 300000 →
        (st = 2 → ∃ t, exec i' s = .next t ∧ t.portState p = 3 ∧ t.rd (chnDly i) = 2 ^ 31 + minN es ∧
          t.cport p = { k with echoes := [], token := next, measuring := false } ∧ Frame [.chain] (regsOf [chnDly i, chnPortstat]) s t) ∧
        (st = 3 → ∃ t, exec i' s = .next t ∧
          t.cport p = { k with echoes := [], token := next, measuring := false, newDly := some (minN es) } ∧ Frame [.chain] noReg s t)) ∧
      (8 ≤ es.length → minN es + 8 < maxN es ∨ 300000 < maxN es →
        (st = 3 → ∃ t, exec i' s = .next t ∧ t.bit chnStatus 9 = true ∧
          t.cport p = { k with echoes := [], token := next, measuring := false } ∧ Frame [.chain] (regsOf [chnStatus]) s t) ∧
        (st = 2 → k.attempts < 4 → ∃ t, exec i' s = .next t ∧
          t.cport p = { k with echoes := [], token := next, measuring := true, attempts := k.attempts + 1 } ∧
          t.chain.dreqOut = s.chain.dreqOut ++ [(p, s.blockLane p, next)] ∧ Frame [.chain] noReg s t) ∧
        (st = 2 → 4 ≤ k.attempts → ∃ t, exec i' s = .next t ∧ t.bit chnStatus 9 = true ∧
          down 5 { k with token := next } t))) ∧
    (s.chnData = false ∨ k.measuring = false ∨ token.toNat ≠ k.token ∨ ¬ (st = 2 ∨ st = 3) → exec i' s = .next s) ∧
    (s.chnData = true → s.portLock p 4 = true ∨ s.portLock p 5 = true → ∃ t, exec (.chainDreq p token turn) s = .next t ∧
      t.chain = { s.chain with dechoOut := s.chain.dechoOut ++ [(p, s.blockLane p, token.toNat, turn.toNat)] } ∧ Frame [.chain] noReg s t) ∧
    (s.chnData = false ∨ s.portLock p 4 = false ∧ s.portLock p 5 = false → exec (.chainDreq p token turn) s = .next s)) ∧
  -- what an earlier measurement still waits for is given up
  (s.chnData = true → st = 3 → ∃ t, exec (.delayRemeasure p) s = .next t ∧
    t.cport p = { k with echoes := [], attempts := 1, measuring := true } ∧ t.cport o = s.cport o ∧
    t.chain.dreqOut = s.chain.dreqOut ++ [(p, s.blockLane p, k.token)] ∧ Frame [.chain] noReg s t) ∧
  (s.chnData = false ∨ st ≠ 3 → exec (.delayRemeasure p) s = .next s) ∧
  (s.chnData = true → st = 5 →
    (s.portLock p 4 = false → s.portLock p 5 = false → ∃ t, exec (.portRetry p) s = .next t ∧ t.portState p = 1 ∧ t.chain = s.chain ∧
      Frame [] (regsOf [chnPortstat]) s t) ∧
    (s.portLock p 4 = true ∨ s.portLock p 5 = true → ∃ t, exec (.portRetry p) s = .next t ∧ t.portState p = 2 ∧
      t.cport p = { k with echoes := [], attempts := 1, measuring := true } ∧ t.cport o = s.cport o ∧
      t.chain.dreqOut = s.chain.dreqOut ++ [(p, s.blockLane p, k.token)] ∧ Frame [.chain] (regsOf [chnPortstat]) s t)) ∧
  (s.chnData = false ∨ st ≠ 5 → exec (.portRetry p) s = .next s)

/-- CMARK, TRIM_MARK, TRIM_MARK_SEND (R308 to R313, R448). -/
def Obligations.ChainMarks : Prop :=
  ∀ (s : State) (p : ChPort),
  let o := otherPort p
  (∀ (typ : Byte) (ccl ofs : BitVec 24) (hops : BitVec 6) (hi : Bool) (skew now : Nat), let i := Instr.cmark p typ ccl ofs hops hi skew now
    (s.laneIn p .d0 = false → s.laneIn p .d1 = false → exec i s = .next s) ∧
    (s.laneIn p .d0 = true ∨ s.laneIn p .d1 = true →
      (typ.toNat ∈ [0x1E, 0x78, 0x4B, 0x55] → exec i s = .next s) ∧
      (typ.toNat ∉ [0x1E, 0x78, 0x4B, 0x55, 0x66] → ∃ t, exec i s = .next t ∧
        t.fld chnErrcnt 15 0 = Nat.min (s.fld chnErrcnt 15 0 + 1) 65535 ∧ t.bit chnStatus 0 = true ∧
        Frame [] (regsOf [chnErrcnt, chnStatus]) s t) ∧
      (typ = 0x66 → s.portState p ≠ 3 → exec i s = .next s) ∧
      (typ = 0x66 → s.portState p = 3 → s.portState o = 3 → ∃ t m, exec i s = .next t ∧ t.chain.marksOut = s.chain.marksOut ++ [m] ∧
        m.port = o ∧ m.lane = s.blockLane o ∧ m.ccl = ccl.toNat ∧ m.hi = hi ∧ m.hops = (hops.toNat + 1) % 64 ∧ m.ofs < 2 ^ 24 ∧
        Frame [.chain, .freeCtr] (regsOf [chnMkstat, chnCcount, chnStatus]) s t) ∧
      (typ = 0x66 → s.portState p = 3 → s.portState o ≠ 3 → s.markPort = p → (s.cport o).seenMark = none → ∃ t, exec i s = .next t ∧
        (hi = true → t.rd chnCcount = ccl.toNat * 256 ∧ t.bit chnStatus 10 = true) ∧
        (hi = false → t.rd chnCcount % 2 ^ 24 = ccl.toNat) ∧
        t.fld chnMkstat 29 24 = hops.toNat ∧ t.bit chnMkstat 31 = decide (portIdx p = 1) ∧ t.bit chnMkstat 30 = true ∧
        t.cport p = { s.cport p with seenMark := some (t.rd chnCcount, hops.toNat), streak := (s.cport p).streak + 1 } ∧
        -- a CMARK that comes 2 × FLY fc or less after its mark was raised by the flywheel raises none (R311)
        (¬ (s.chain.flyMark = some (t.rd chnCcount) ∧ now ≤ 2 * s.fld chnMkcfg 15 0) → t.chain.pendMark = some (t.rd chnCcount, hops.toNat, p)) ∧
        (s.chain.flyMark = some (t.rd chnCcount) → now ≤ 2 * s.fld chnMkcfg 15 0 → t.chain.pendMark = s.chain.pendMark) ∧
        Frame [.chain] (regsOf [chnMkstat, chnCcount, chnStatus]) s t) ∧
      -- the port in use is more than 64 fc behind the other: the other is used (R312)
      (∀ h, typ = 0x66 → s.portState p = 3 → s.markPort = p → (s.cport o).seenMark = some (s.formCount hi ccl.toNat, h) → 64 < skew →
        ∃ t, exec i s = .next t ∧ t.bit chnMkstat 31 = decide (portIdx o = 1) ∧ t.bit chnStatus 3 = true ∧ t.fld chnMkstat 29 24 = h % 64 ∧
          (t.cport p).streak = 0 ∧ Frame [.chain, .freeCtr] (regsOf [chnMkstat, chnCcount, chnStatus]) s t))) ∧
  (s.clk.power ≠ .off → s.chain.trimMaster = true → ∃ t, exec .trimMarkSend s = .next t ∧
    t.chain = { s.chain with trimUp := s.chain.trimUp + 1, trimDn := s.chain.trimDn + 1 } ∧ Frame [.chain] noReg s t) ∧
  (s.clk.power = .off ∨ s.chain.trimMaster = false → exec .trimMarkSend s = .next s) ∧
  (∀ cycles : Nat, let chain := match p with
      | .up => { s.chain with trimDn := s.chain.trimDn + 1 }
      | .dn => { s.chain with trimUp := s.chain.trimUp + 1 }
    -- the trim code that the Binnacle keeps; the first mark since its reset ends no interval
    let code := s.clk.trimCode
    (s.laneIn p .pl = false → exec (.trimMark p cycles) s = .next s) ∧
    (s.laneIn p .pl = true → s.bit clkStatus 31 = false ∨ s.bit clkCtrl 1 = false → ∃ t, exec (.trimMark p cycles) s = .next t ∧
      t.chain = chain ∧ Frame [.chain] (regsOf [chnPortstat]) s t) ∧
    (s.laneIn p .pl = true → s.bit clkStatus 31 = true → s.bit clkCtrl 1 = true → s.clk.trimSeen = false →
      ∃ t, exec (.trimMark p cycles) s = .next t ∧ t.chain = chain ∧ t.clk = { s.clk with trimSeen := true } ∧
        Frame [.chain, .clk] (regsOf [chnPortstat]) s t) ∧
    (s.laneIn p .pl = true → s.bit clkStatus 31 = true → s.bit clkCtrl 1 = true → s.clk.trimSeen = true →
      ∃ t, exec (.trimMark p cycles) s = .next t ∧ t.chain = chain ∧ t.bit clkTrim 31 = true ∧
      (25000 < cycles → t.clk.trimCode = max (code - 1) (-2048)) ∧ (cycles < 25000 → t.clk.trimCode = min (code + 1) 2047) ∧
      (-2048 ≤ code → code ≤ 2047 → sgn 12 (t.fld clkTrim 27 16) = t.clk.trimCode) ∧
      (cycles = 25000 → t.clk = { s.clk with trimStreak := Nat.min (s.clk.trimStreak + 1) 8 }) ∧
      (cycles ≠ 25000 → t.clk = { s.clk with trimStreak := 0, trimCode := t.clk.trimCode }) ∧ (t.clk.trimStreak = 8 → t.bit clkStatus 30 = true) ∧
      Frame [.chain, .clk] (regsOf [chnPortstat, clkTrim, clkStatus]) s t))

/-- ADD to SUBS, CLZ and ABS (R341, R352, R353). -/
def Obligations.HelmAlu : Prop :=
  ∀ (s : State) (n : CoreN) (rd ra rb : RegN), s.ready n = true →
  let k := s.core n
  let a := k.r ra
  let b := k.r rb
  let sh := b.toNat % 32
  let gives (i : Instr) (srcs : List RegN) (v : Word) : Prop :=
    ∃ t, exec i s = .next t ∧ (t.core n).r rd = (if rd = 0 then 0 else v) ∧ s.ran n [rd] (k.pc + 4) (k.loadUse srcs + 1) t
  gives (.add n rd ra rb) [ra, rb] (a + b) ∧ gives (.sub n rd ra rb) [ra, rb] (a - b) ∧
  gives (.and n rd ra rb) [ra, rb] (a &&& b) ∧ gives (.or n rd ra rb) [ra, rb] (a ||| b) ∧ gives (.xor n rd ra rb) [ra, rb] (a ^^^ b) ∧
  gives (.sll n rd ra rb) [ra, rb] (a <<< sh) ∧ gives (.srl n rd ra rb) [ra, rb] (a >>> sh) ∧ gives (.sra n rd ra rb) [ra, rb] (a.sshiftRight sh) ∧
  gives (.slt n rd ra rb) [ra, rb] (if a.toInt < b.toInt then 1 else 0) ∧ gives (.sltu n rd ra rb) [ra, rb] (if a.toNat < b.toNat then 1 else 0) ∧
  gives (.min n rd ra rb) [ra, rb] (if a.toInt < b.toInt then a else b) ∧ gives (.max n rd ra rb) [ra, rb] (if a.toInt < b.toInt then b else a) ∧
  gives (.minu n rd ra rb) [ra, rb] (if a.toNat < b.toNat then a else b) ∧ gives (.maxu n rd ra rb) [ra, rb] (if a.toNat < b.toNat then b else a) ∧
  gives (.adds n rd ra rb) [ra, rb] (BitVec.ofInt 32 (max (-(2 ^ 31)) (min (a.toInt + b.toInt) (2 ^ 31 - 1)))) ∧
  gives (.subs n rd ra rb) [ra, rb] (BitVec.ofInt 32 (max (-(2 ^ 31)) (min (a.toInt - b.toInt) (2 ^ 31 - 1)))) ∧
  gives (.clz n rd ra) [ra] (if a = 0 then 32 else BitVec.ofNat 32 (31 - a.toNat.log2)) ∧
  gives (.abs n rd ra) [ra] (if a = BitVec.intMin 32 then BitVec.ofNat 32 (2 ^ 31 - 1) else if a.toInt < 0 then -a else a)

/-- ADDI to SLTIU, SHI, LUI (R341, R350, R352). -/
def Obligations.HelmImmediates : Prop :=
  ∀ (s : State) (n : CoreN) (rd ra : RegN) (imm : BitVec 16), s.ready n = true →
  let k := s.core n
  let a := k.r ra
  let sx : Word := imm.signExtend 32
  let zx : Word := imm.zeroExtend 32
  let gives (i : Instr) (srcs : List RegN) (c : Nat) (v : Word) : Prop :=
    ∃ t, exec i s = .next t ∧ (t.core n).r rd = (if rd = 0 then 0 else v) ∧ s.ran n [rd] (k.pc + 4) (k.loadUse srcs + c) t
  gives (.addi n rd ra imm) [ra] 1 (a + sx) ∧ gives (.andi n rd ra imm) [ra] 1 (a &&& zx) ∧ gives (.ori n rd ra imm) [ra] 1 (a ||| zx) ∧
  gives (.xori n rd ra imm) [ra] 1 (a ^^^ zx) ∧ gives (.slti n rd ra imm) [ra] 1 (if a.toInt < sx.toInt then 1 else 0) ∧
  gives (.sltiu n rd ra imm) [ra] 1 (if a.toNat < sx.toNat then 1 else 0) ∧
  (∀ amt : Fin 32, gives (.shi n rd ra 0 amt) [ra] 1 (a <<< amt.val) ∧ gives (.shi n rd ra 1 amt) [ra] 1 (a >>> amt.val) ∧
    gives (.shi n rd ra 2 amt) [ra] 1 (a.sshiftRight amt.val) ∧ gives (.shi n rd ra 3 amt) [ra] 1 (a.rotateRight amt.val)) ∧
  gives (.lui n rd imm) [] 1 (BitVec.ofNat 32 (imm.toNat * 65536))

/-- LW to LBU, SW, SH, SB, ATXCH to ATORR (R24, R340, R344 to R346, R348, R352). -/
def Obligations.HelmLocalAccess : Prop :=
  ∀ (s : State) (n : CoreN) (rd ra rb : RegN) (imm : BitVec 16), s.ready n = true →
  let k := s.core n
  let ea := k.r ra + imm.signExtend 32
  let base := localBase n + ea.toNat
  let dest (v : Word) : Word := if rd = 0 then 0 else v
  let loads (i : Ecc → Instr) (v : Word) : Prop :=
    (s.bad base 1 = false →
      (∃ t, exec (i .clean) s = .next t ∧ (t.core n).r rd = dest v ∧ s.ran n [rd] (k.pc + 4) (k.loadUse [ra] + 1) t ∧
        (t.core n).loaded = if rd = 0 then none else some rd) ∧
      ∃ t, exec (i .corrected) s = .next t ∧ (t.core n).r rd = dest v ∧ Core.went n [rd] (k.pc + 4) (k.loadUse [ra] + 1) k (t.core n) ∧
        (n.val < 8 → t.fld hlmEcccnt 15 0 = Nat.min (s.fld hlmEcccnt 15 0 + 1) 0xFFFF) ∧
        onlyCore n s t ∧ Frame [.cores, .freeCtr] (regsOf [hlmEcccnt]) s t) ∧
    -- an uncorrectable word; in the memory of the island it is an island fault besides (R272)
    (k.stores = [] → k.status.getLsbD 3 = false → ∃ t, exec (i .uncorrectable) s = .next t ∧ Core.entered n 7 k.pc ea k.evec k (t.core n) ∧
      t.bad base 1 = true ∧ (n.val < 8 → t.bit hlmFault (8 + n) = true) ∧ onlyCore n s t ∧ (n.val = 9 → t.saf.islandFault = true) ∧
      (n.val ≠ 9 → Frame [.cores, .freeCtr, .flaws] (regsOf [hlmFault]) s t))
  let stores (i : Instr) (size : Nat) : Prop :=
    ∃ t, exec i s = .next t ∧ Core.went n [] (k.pc + 4) (k.loadUse [rd, ra] + 1) k.lsStore (t.core n) ∧
      (∀ j < size, t.byte (base + j) = BitVec.ofNat 8 ((k.r rd).toNat / 256 ^ j)) ∧ (∀ a, ¬ (base ≤ a ∧ a < base + size) → t.byte a = s.byte a) ∧
      onlyCore n s t ∧ Frame [.mem, .cores, .freeCtr, .flaws] noReg s t
  let atomic (i : Instr) (f : Word → Word → Word) : Prop :=
    let a := k.segAddr (k.r ra)
    let old := BitVec.ofNat 32 (s.le a 4)
    -- 16 cycles and the stall
    ∃ t stall, exec i s = .next t ∧ (t.core n).r rd = dest old ∧ Core.went n [rd] (k.pc + 4) (k.loadUse [ra, rb] + stall + 16) k.lsStore (t.core n) ∧
      t.le a 4 = (f old (k.r rb)).toNat ∧ (∀ x, ¬ (a ≤ x ∧ x < a + 4) → t.byte x = s.byte x) ∧ onlyCore n s t ∧ Frame [.mem, .cores, .freeCtr] noReg s t
  (ea.toNat < 0x20000 →
    (ea.toNat % 4 = 0 → loads (fun e => .lw n rd ra imm e) (BitVec.ofNat 32 (s.le base 4)) ∧ stores (.sw n rd ra imm) 4) ∧
    (ea.toNat % 2 = 0 → loads (fun e => .lh n rd ra imm e) ((BitVec.ofNat 16 (s.le base 2)).signExtend 32) ∧
      loads (fun e => .lhu n rd ra imm e) (BitVec.ofNat 32 (s.le base 2)) ∧ stores (.sh n rd ra imm) 2) ∧
    loads (fun e => .lb n rd ra imm e) ((s.byte base).signExtend 32) ∧ loads (fun e => .lbu n rd ra imm e) ((s.byte base).zeroExtend 32) ∧
    stores (.sb n rd ra imm) 1) ∧
  (2 ^ 28 ≤ ea.toNat → ea.toNat % 4 = 0 → k.stores = [] →
    (∀ ecc, ∃ t, exec (.lw n rd ra imm ecc) s = .next t ∧ (t.core n).pend = some { rd, addr := k.segAddr ea, ea, kind := 0, gate := s.gateOf (k.segAddr ea) } ∧
      (t.core n).pc = k.pc ∧ (∀ r, (t.core n).r r = k.r r) ∧ s.alone n t) ∧
    ∃ t, exec (.sw n rd ra imm) s = .next t ∧
      (t.core n).stores = [{ addr := k.segAddr ea, ea, size := 4, val := k.r rd, gate := s.gateOf (k.segAddr ea) }] ∧
      (t.core n).pc = k.pc + 4 ∧ (∀ r, (t.core n).r r = k.r r) ∧ (t.core n).lsstat = k.lsStore.lsstat ∧ s.alone n t) ∧
  ((k.r ra).toNat % 4 = 0 → 2 ^ 28 ≤ (k.r ra).toNat → isPeriodSram (k.segAddr (k.r ra)) = true → s.clk.cdUp = true → k.stores = [] →
    n.val < 8 ∨ s.clk.power = .run → s.bad (k.segAddr (k.r ra)) 4 = false →
    (∀ i < 4, moduleByte (k.segAddr (k.r ra) + i) = false) → (∀ p, slotAt (k.segAddr (k.r ra)) = some p → s.phase p ≠ 1 ∧ (s.prob p).stalled = []) →
    atomic (.atxch n rd ra rb) (fun _ b => b) ∧ atomic (.atadd n rd ra rb) (fun a b => a + b) ∧
    atomic (.atand n rd ra rb) (fun a b => a &&& b) ∧ atomic (.atorr n rd ra rb) (fun a b => a ||| b)) ∧
  -- the slot is being latched: the core stalls (R86, R347)
  ((k.r ra).toNat % 4 = 0 → 2 ^ 28 ≤ (k.r ra).toNat → isPeriodSram (k.segAddr (k.r ra)) = true → s.clk.cdUp = true → k.stores = [] →
    n.val < 8 ∨ s.clk.power = .run → s.bad (k.segAddr (k.r ra)) 4 = false → (∀ i < 4, moduleByte (k.segAddr (k.r ra) + i) = false) →
    s.latching (k.segAddr (k.r ra)) = true → ∀ i ∈ [Instr.atxch n rd ra rb, .atadd n rd ra rb, .atand n rd ra rb, .atorr n rd ra rb], exec i s = .next s)

/-- MFS, MTS, LSTEST, HRET, WFI, FENCE, FENCE.I (R343, R344, R352, R363, R368, R373). -/
def Obligations.HelmSpecial : Prop :=
  ∀ (s : State) (n : CoreN) (rd ra : RegN), s.ready n = true →
  let k := s.core n
  let v := k.r ra
  let c := k.loadUse []
  let reads (idx : Byte) (x : Word) : Prop :=
    ∃ t, exec (.mfs n rd idx) s = .next t ∧ (t.core n).r rd = (if rd = 0 then 0 else x) ∧ s.ran n [rd] (k.pc + 4) (c + 1) t
  let writes (idx : Byte) (cost : Nat) (f : Core → Core) : Prop :=
    ∃ t, exec (.mts n ra idx) s = .next t ∧ (t.core n).pc = k.pc + 4 ∧ (t.core n).cycle = k.cycle + BitVec.ofNat 64 (k.loadUse [ra] + cost) ∧
      (let k' := t.core n
       k' = f { k with pc := k'.pc, cycle := k'.cycle, mp := k'.mp, flight := k'.flight, ipend := (f { k with ipend := k'.ipend }).ipend, wfi := false,
                       loaded := none, outs := k'.outs } ∧ (n.val ≠ 9 → k'.outs = k.outs)) ∧
      s.alone n t
  reads 0 k.status ∧ reads 1 k.epc ∧ reads 2 k.ecause ∧ reads 3 k.eval ∧ reads 4 k.evec ∧ reads 5 k.imask ∧ reads 7 (BitVec.ofNat 32 n.val) ∧
  reads 9 k.cycleH ∧ reads 10 k.tcmp ∧ reads 11 k.scratch ∧ (∀ i : Fin 16, reads (BitVec.ofNat 8 (0x10 + i)) k.seg[i]) ∧
  (n.val = 9 → reads 0x20 k.lsstat ∧ reads 0x21 0) ∧
  (∃ t, exec (.mfs n rd 6) s = .next t ∧ (rd = 0 → (t.core n).r rd = 0) ∧
    (rd ≠ 0 → ∀ i, i ≠ 16 → ((t.core n).r rd).getLsbD i = k.ipend.getLsbD i) ∧ s.ran n [rd] (k.pc + 4) (c + 1) t) ∧
  (∃ t, exec (.mfs n rd 8) s = .next t ∧ (t.core n).r rd = (if rd = 0 then 0 else (k.cycle + BitVec.ofNat 64 c).setWidth 32) ∧
    (t.core n).cycleH = ((k.cycle + BitVec.ofNat 64 c) >>> 32).setWidth 32 ∧ (t.core n).pc = k.pc + 4 ∧ s.alone n t) ∧
  writes 0 3 (fun q => { q with status := v &&& 9 }) ∧ writes 1 1 (fun q => { q with epc := v &&& 0xFFFFFFFD }) ∧
  writes 4 3 (fun q => { q with evec := v &&& 0xFFFFFF80 }) ∧ writes 5 1 (fun q => { q with imask := v &&& 0x3FFFF }) ∧
  (∃ t, exec (.mts n ra 6) s = .next t ∧ (∀ i, i ≠ 16 → (t.core n).ipend.getLsbD i = (k.ipend.getLsbD i && !v.getLsbD i)) ∧
    Core.went n [] (k.pc + 4) (k.loadUse [ra] + 1) { k with ipend := (t.core n).ipend } (t.core n) ∧ s.alone n t) ∧
  (∃ t, exec (.mts n ra 10) s = .next t ∧ (t.core n).tcmp = v ∧ Core.went n [] (k.pc + 4) (k.loadUse [ra] + 1) { k with tcmp := v } (t.core n) ∧ s.alone n t) ∧
  writes 11 1 (fun q => { q with scratch := v }) ∧
  (∀ i : Fin 16, i ≠ 0 → writes (BitVec.ofNat 8 (0x10 + i)) 3 (fun q => { q with seg := q.seg.set i (v &&& 0xFFF) })) ∧
  (∃ t, exec (.wfi n) s = .next t ∧ (t.core n).wfi = true ∧ s.ran n [] (k.pc + 4) (c + 1) t) ∧
  -- issue stops in WFI until a line is pending and enabled, and goes on after a wait that CYCLE counts (R368, log entry 108)
  (∀ u : State, u.coreOn n = true → (u.core n).wfi = true → (u.core n).stores = [] → ∀ i ∈ [Instr.wfi n, .mfs n rd 7, .addi n rd ra 0, .jr n ra],
    ((u.core n).due = 0 → exec i u = .next u) ∧ ((u.core n).atBoundary = true → exec i u = exec i (u.wake n) ∧ ((u.wake n).core n).wfi = false)) ∧
  (k.stores = [] → (∃ t, exec (.fence n) s = .next t ∧ s.ran n [] (k.pc + 4) (c + 1) t) ∧ (∃ t, exec (.fenceI n) s = .next t ∧ s.ran n [] (k.pc + 4) (c + 4) t) ∧
    ∃ t, exec (.hret n) s = .next t ∧ (t.core n).pc = k.epc &&& 0xFFFFFFFC ∧ (t.core n).status = (if k.epc.getLsbD 0 then 1 else 0) ∧
      (t.core n).flight = [] ∧ (∀ r, (t.core n).r r = k.r r) ∧ (t.core n).epc = k.epc ∧ (t.core n).ecause = k.ecause ∧ (t.core n).evec = k.evec ∧
      (t.core n).seg = k.seg ∧ s.alone n t) ∧
  -- the forced mismatch comes with the next store of the pair, which writes LSSTAT (R373)
  (n.val = 9 → let allowed : Prop := s.safe = true ∧ s.bit safCtrl 31 = false
    (∀ hit : Bool, ∃ t, exec (.lstest hit) s = .next t ∧ (t.core n).lsArm = (if allowed then some hit else k.lsArm) ∧ (t.core n).lsstat = k.lsstat ∧
      (t.core n).pc = k.pc + 4 ∧ (∀ r, (t.core n).r r = k.r r) ∧ s.alone n t) ∧
    (∃ t, exec (.mts n ra 0x21) s = .next t ∧ (t.core n).lsArm = (if v.getLsbD 0 = true ∧ allowed then some true else k.lsArm) ∧
      (t.core n).lsstat = k.lsstat ∧ (t.core n).pc = k.pc + 4 ∧ (∀ r, (t.core n).r r = k.r r) ∧ s.alone n t)) ∧
  (k.lsStore.lsArm = none ∧ (∀ hit, k.lsArm = some hit → k.lsStore = { k with lsstat := if hit then 3 else 1, lsArm := none }) ∧
    (k.lsArm = none → k.lsStore = k))

/-- BEQ to BGEU, J, JR, JALR (R350, R352). -/
def Obligations.HelmBranches : Prop :=
  ∀ (s : State) (n : CoreN) (rd ra rb : RegN) (off : BitVec 16) (off26 : BitVec 26), s.ready n = true →
  let k := s.core n
  let a := k.r ra
  let b := k.r rb
  let branch (i : Instr) (c : Bool) : Prop := ∃ t, exec i s = .next t ∧
    s.ran n [] (if c then k.pc + BitVec.ofInt 32 (4 * off.toInt) else k.pc + 4) (k.loadUse [ra, rb] + if c then 2 else 1) t
  branch (.beq n ra rb off) (decide (a = b)) ∧ branch (.bne n ra rb off) (decide (a ≠ b)) ∧
  branch (.blt n ra rb off) (decide (a.toInt < b.toInt)) ∧ branch (.bge n ra rb off) (decide (b.toInt ≤ a.toInt)) ∧
  branch (.bltu n ra rb off) (decide (a.toNat < b.toNat)) ∧ branch (.bgeu n ra rb off) (decide (b.toNat ≤ a.toNat)) ∧
  (∃ t, exec (.j n off26) s = .next t ∧ s.ran n [] (k.pc + BitVec.ofInt 32 (4 * off26.toInt)) (k.loadUse [] + 2) t) ∧
  (∃ t, exec (.jr n ra) s = .next t ∧ s.ran n [] a (k.loadUse [ra] + 2) t) ∧
  (∃ t, exec (.jalr n rd ra) s = .next t ∧ (t.core n).r rd = (if rd = 0 then 0 else k.pc + 4) ∧ s.ran n [rd] a (k.loadUse [ra] + 2) t)

/-- CALL, CALLR and RET on local memory (R359 to R361). The EVAL of a misaligned CALL, the address of its frame, is the model's reading
of 'the EA' (log entry 86). -/
def Obligations.HelmCallReturn : Prop :=
  ∀ (s : State) (n : CoreN) (mask : BitVec 10) (off : BitVec 16) (ra : RegN), s.ready n = true →
  let k := s.core n
  let rs := maskRegs mask
  let m := rs.length + 1
  let sp := k.r 2 - BitVec.ofNat 32 (4 * m)
  let frame := localBase n + sp.toNat
  let base := localBase n + (k.r 2).toNat
  let calls (i : Instr) (srcs : List RegN) (target : Word) : Prop :=
    ∃ t, exec i s = .next t ∧ (t.core n).r 2 = sp ∧ (t.core n).r 1 = k.pc + 4 ∧
      Core.went n [1, 2] target (k.loadUse ([1, 2] ++ rs ++ srcs) + m + 1) k.lsStore (t.core n) ∧
      t.le frame 4 = (k.r 1).toNat ∧ (∀ j (h : j < rs.length), t.le (frame + 4 * (j + 1)) 4 = (k.r rs[j]).toNat) ∧
      (∀ a, ¬ (frame ≤ a ∧ a < frame + 4 * m) → t.byte a = s.byte a) ∧ onlyCore n s t ∧ Frame [.mem, .cores, .freeCtr, .flaws] noReg s t
  ((k.r 2).toNat % 4 = 0 → 4 * m ≤ (k.r 2).toNat → (k.r 2).toNat ≤ 0x20000 →
    calls (.call n mask off) [] (k.pc + BitVec.ofInt 32 (4 * off.toInt)) ∧ calls (.callr n mask ra) [ra] (k.r ra)) ∧
  ((k.r 2).toNat % 4 = 0 → (k.r 2).toNat + 4 * m ≤ 0x20000 → s.bad base (4 * m) = false →
    (∃ t, exec (.ret n mask []) s = .next t ∧ (t.core n).r 2 = k.r 2 + BitVec.ofNat 32 (4 * m) ∧
      (t.core n).r 1 = BitVec.ofNat 32 (s.le base 4) ∧
      (∀ j (h : j < rs.length), (t.core n).r rs[j] = BitVec.ofNat 32 (s.le (base + 4 * (j + 1)) 4)) ∧
      s.ran n ([1, 2] ++ rs) (k.r 1) (k.loadUse [1, 2] + m + 2) t) ∧
    -- word j of the frame is found uncorrectable
    (k.stores = [] → k.status.getLsbD 3 = false → ∀ j < m, ∃ t, exec (.ret n mask (List.replicate j .clean ++ [.uncorrectable])) s = .next t ∧
      Core.entered n 7 k.pc (k.r 2 + BitVec.ofNat 32 (4 * j)) k.evec k (t.core n) ∧ (n.val < 8 → t.bit hlmFault (8 + n) = true) ∧ onlyCore n s t ∧
      (n.val ≠ 9 → Frame [.cores, .freeCtr, .flaws] (regsOf [hlmFault]) s t))) ∧
  -- a frame on a channel that retrains waits (R258)
  (let inGddr (ea : Word) : Prop := (k.r 2).toNat % 4 = 0 ∧ 2 ^ 28 ≤ ea.toNat ∧ ea.toNat % 2 ^ 28 + 4 * m ≤ 2 ^ 28 ∧ k.segAddr ea + 4 * m ≤ gddrEnd ∧
      k.stores = [] ∧ s.memWaits (k.segAddr ea) = true
   (inGddr sp → exec (.call n mask off) s = .next s ∧ exec (.callr n mask ra) s = .next s) ∧
   (inGddr (k.r 2) → ∀ eccs, exec (.ret n mask eccs) s = .next s)) ∧
  (k.stores = [] → k.status.getLsbD 3 = false →
    ((k.r 2).toNat % 4 ≠ 0 → (∃ t, exec (.call n mask off) s = .next t ∧ s.trapped n 3 k.pc sp k.evec t) ∧
      (∃ t, exec (.callr n mask ra) s = .next t ∧ s.trapped n 3 k.pc sp k.evec t) ∧
      ∀ eccs, ∃ t, exec (.ret n mask eccs) s = .next t ∧ s.trapped n 3 k.pc (k.r 2) k.evec t) ∧
    ((k.r 2).toNat % 4 = 0 → 0x20000 ≤ sp.toNat → sp.toNat < 2 ^ 28 →
      (∃ t, exec (.call n mask off) s = .next t ∧ s.trapped n 5 k.pc sp k.evec t) ∧
      ∃ t, exec (.callr n mask ra) s = .next t ∧ s.trapped n 5 k.pc sp k.evec t) ∧
    ((k.r 2).toNat % 4 = 0 → 0x20000 ≤ (k.r 2).toNat → (k.r 2).toNat < 2 ^ 28 → ∀ eccs,
      ∃ t, exec (.ret n mask eccs) s = .next t ∧ s.trapped n 4 k.pc (k.r 2) k.evec t))

/-- MUL to MACS, MTMP, MTMP2, MP_WRITE_LAND, MFMP (R342, R352, R355 to R357). -/
def Obligations.HelmMultiplier : Prop :=
  ∀ (s : State) (n : CoreN) (rd ra rb : RegN) (m : Fin 4), s.ready n = true →
  let k := s.core n
  let a := k.r ra
  let b := k.r rb
  let old := k.mp[m]
  let writes (i : Instr) (srcs : List RegN) (v : BitVec 64) : Prop :=
    ∃ t, exec i s = .next t ∧ Core.went n [] (k.pc + 4) (k.loadUse srcs + 1) k (t.core n) ∧ s.alone n t ∧
      (k.flight = [] → (t.core n).mp = k.mp ∧ ∃ u, exec (.mpWriteLand n) t = .next u ∧ (u.core n).mp = k.mp.set m v ∧ (u.core n).flight = [] ∧
        Core.went n [] (k.pc + 4) (k.loadUse srcs + 4) k (u.core n) ∧ s.alone n u)
  writes (.mul n m ra rb) [ra, rb] (BitVec.ofInt 64 (a.toInt * b.toInt)) ∧
  writes (.mulu n m ra rb) [ra, rb] (BitVec.ofNat 64 (a.toNat * b.toNat)) ∧
  writes (.mac n m ra rb) [ra, rb] (old + BitVec.ofInt 64 (a.toInt * b.toInt)) ∧
  writes (.macu n m ra rb) [ra, rb] (old + BitVec.ofNat 64 (a.toNat * b.toNat)) ∧
  writes (.msu n m ra rb) [ra, rb] (old - BitVec.ofInt 64 (a.toInt * b.toInt)) ∧
  writes (.macs n m ra rb) [ra, rb] (BitVec.ofInt 64 (max (-(2 ^ 63)) (min (old.toInt + a.toInt * b.toInt) (2 ^ 63 - 1)))) ∧
  writes (.mtmp n m ra) [ra] (a.signExtend 64) ∧
  writes (.mtmp2 n m ra rb) [ra, rb] (BitVec.ofNat 64 (b.toNat * 2 ^ 32 + a.toNat)) ∧
  (∀ (sh : Fin 64) (rnd sat : Bool), sh.val ≤ 32 → k.flight = [] →
    let x : Int := if rnd = true ∧ 0 < sh.val then min (old.toInt + 2 ^ (sh.val - 1)) (2 ^ 63 - 1) else old.toInt
    let y : Int := x / 2 ^ sh.val
    ∃ t, exec (.mfmp n rd m sh rnd sat) s = .next t ∧ s.ran n [rd] (k.pc + 4) (k.loadUse [] + 1) t ∧
      (t.core n).r rd = if rd = 0 then 0 else BitVec.ofInt 32 (if sat then max (-(2 ^ 31)) (min y (2 ^ 31 - 1)) else y))

/-- DIV, DIVU, REM, REMU (R354). -/
def Obligations.HelmDivision : Prop :=
  ∀ (s : State) (n : CoreN) (rd ra rb : RegN), s.ready n = true →
  let k := s.core n
  let a := k.r ra
  let b := k.r rb
  let gives (i : Instr) (srcs : List RegN) (c : Nat) (v : Word) : Prop :=
    ∃ t, exec i s = .next t ∧ (t.core n).r rd = (if rd = 0 then 0 else v) ∧ s.ran n [rd] (k.pc + 4) (k.loadUse srcs + c) t
  gives (.div n rd ra rb) [ra, rb] 34 (if b = 0 then BitVec.allOnes 32 else BitVec.ofInt 32 (a.toInt.tdiv b.toInt)) ∧
  gives (.divu n rd ra rb) [ra, rb] 34 (if b = 0 then BitVec.allOnes 32 else BitVec.ofNat 32 (a.toNat / b.toNat)) ∧
  gives (.rem n rd ra rb) [ra, rb] 34 (if b = 0 then a else BitVec.ofInt 32 (a.toInt.tmod b.toInt)) ∧
  gives (.remu n rd ra rb) [ra, rb] 34 (if b = 0 then a else BitVec.ofNat 32 (a.toNat % b.toNat)) ∧
  (a = BitVec.intMin 32 → b = BitVec.allOnes 32 → gives (.div n rd ra rb) [ra, rb] 34 a ∧ gives (.rem n rd ra rb) [ra, rb] 34 0)

/-- TRAP, BREAK, the exceptions of R343, R345, R355 and R362, a fetch of a word in error (R340), INTERRUPT_TAKE (R363, R367), double faults
(R365). -/
def Obligations.HelmExceptions : Prop :=
  ∀ (s : State) (n : CoreN), (s.core n).stores = [] →
  let k := s.core n
  (s.ready n = true → k.status.getLsbD 3 = false →
    (∀ code : Fin 32, ∃ t, exec (.trap n code) s = .next t ∧ s.trapped n 8 (k.pc + 4) (BitVec.ofNat 32 code) k.evec t) ∧
    (∃ t, exec (.breakI n) s = .next t ∧ s.trapped n 9 k.pc 0 k.evec t) ∧
    (∀ (rd : RegN) (idx : Byte), ¬ (idx.toNat ≤ 0x0B ∨ (0x10 ≤ idx.toNat ∧ idx.toNat ≤ 0x1F) ∨ (n.val = 9 ∧ (idx = 0x20 ∨ idx = 0x21))) →
      ∃ t, exec (.mfs n rd idx) s = .next t ∧ s.trapped n 1 k.pc (BitVec.ofNat 32 (0x20 * 2 ^ 26 + rd * 2 ^ 21 + idx.toNat)) k.evec t) ∧
    (∀ (ra : RegN) (idx : Byte), ¬ (idx.toNat ∈ [0, 1, 4, 5, 6, 0x0A, 0x0B] ∨ (0x11 ≤ idx.toNat ∧ idx.toNat ≤ 0x1F) ∨ (n.val = 9 ∧ idx = 0x21)) →
      ∃ t, exec (.mts n ra idx) s = .next t ∧ s.trapped n 1 k.pc (BitVec.ofNat 32 (0x21 * 2 ^ 26 + ra * 2 ^ 16 + idx.toNat)) k.evec t) ∧
    (∀ (rd : RegN) (m : Fin 4) (sh : Fin 64) (rnd sat : Bool), 32 < sh.val → ∃ t, exec (.mfmp n rd m sh rnd sat) s = .next t ∧
      s.trapped n 1 k.pc (BitVec.ofNat 32 (0x1D * 2 ^ 26 + rd * 2 ^ 21 + m * 2 ^ 16 + sh + 64 * b2n rnd + 128 * b2n sat)) k.evec t) ∧
    (∀ (r ra rb : RegN) (imm : BitVec 16) (ecc : Ecc),
      let ea := k.r ra + imm.signExtend 32
      (ea.toNat % 4 ≠ 0 → (∃ t, exec (.lw n r ra imm ecc) s = .next t ∧ s.trapped n 3 k.pc ea k.evec t) ∧
        ∃ t, exec (.sw n r ra imm) s = .next t ∧ s.trapped n 3 k.pc ea k.evec t) ∧
      (ea.toNat % 2 ≠ 0 → (∃ t, exec (.lh n r ra imm ecc) s = .next t ∧ s.trapped n 3 k.pc ea k.evec t) ∧
        (∃ t, exec (.lhu n r ra imm ecc) s = .next t ∧ s.trapped n 3 k.pc ea k.evec t) ∧
        ∃ t, exec (.sh n r ra imm) s = .next t ∧ s.trapped n 3 k.pc ea k.evec t) ∧
      (0x20000 ≤ ea.toNat → ea.toNat < 2 ^ 28 → (∃ t, exec (.lb n r ra imm ecc) s = .next t ∧ s.trapped n 4 k.pc ea k.evec t) ∧
        (∃ t, exec (.lbu n r ra imm ecc) s = .next t ∧ s.trapped n 4 k.pc ea k.evec t) ∧
        (∃ t, exec (.sb n r ra imm) s = .next t ∧ s.trapped n 5 k.pc ea k.evec t) ∧
        (ea.toNat % 4 = 0 → (∃ t, exec (.lw n r ra imm ecc) s = .next t ∧ s.trapped n 4 k.pc ea k.evec t) ∧
          ∃ t, exec (.sw n r ra imm) s = .next t ∧ s.trapped n 5 k.pc ea k.evec t)) ∧
      ((k.r ra).toNat % 4 ≠ 0 → ∃ t, exec (.atadd n r ra rb) s = .next t ∧ s.trapped n 3 k.pc (k.r ra) k.evec t) ∧
      ((k.r ra).toNat % 4 = 0 → (k.r ra).toNat < 2 ^ 28 → ∃ t, exec (.atxch n r ra rb) s = .next t ∧ s.trapped n 4 k.pc (k.r ra) k.evec t))) ∧
  (s.coreOn n = true → k.atBoundary = true → k.posted = none → k.status.getLsbD 0 = true →
    ∀ i < 18, (i = 17 → k.flight = [] ∧ k.wfi = false) → (∀ j < i, (k.ipend &&& k.imask).getLsbD j = false) → (k.ipend &&& k.imask).getLsbD i = true →
      ∃ t ev, exec (.interruptTake n) s = .next t ∧ s.trapped n (BitVec.ofNat 32 (2 ^ 31 + i)) k.pc ev (k.evec + 0x40) t) ∧
  -- the word at PC is one in error
  (n.val < 8 → s.coreOn n = true → k.atBoundary = true → k.wfi = false → k.posted = none → k.interruptDue = false → k.pc.toNat % 4 = 0 →
    k.pc.toNat < 0x10000 → s.bad (localBase n + k.pc.toNat) 4 = true → k.status.getLsbD 3 = false →
    ∃ t, exec (.breakI n) s = .next t ∧ Core.entered n 7 k.pc k.pc k.evec k (t.core n) ∧ t.bit hlmFault (8 + n) = true ∧ onlyCore n s t ∧
      Frame [.cores, .freeCtr, .flaws] (regsOf [hlmFault]) s t) ∧
  (s.ready n = true → k.status.getLsbD 3 = true → n.val < 8 → ∃ t, exec (.breakI n) s = .next t ∧ (t.core n).running = false ∧
    t.bit hlmFault n = true ∧ t.rd (hlmFcause n) = 9 ∧ t.rd (hlmFepc n) = ((k.pc &&& 0xFFFFFFFC) ||| ofBool (k.status.getLsbD 0)).toNat ∧
    onlyCore n s t ∧ Frame [.cores, .pins, .freeCtr] (regsOf [hlmFault, hlmFcause n, hlmFepc n]) s t)

/-- LOAD_REPLY and POSTED_STORE_COMPLETE (R86, R258, R345 to R347, R364, R370, R455). -/
def Obligations.HelmReplies : Prop :=
  ∀ (s : State) (n : CoreN) (chk : Check) (stall : Nat),
  let k := s.core n
  (∀ q : PendLoad, s.coreOn n = true → k.pend = some q →
    (s.clk.cdUp = true → isPeriodSram q.addr = true → q.addr % loadSize q.kind = 0 → q.lost = false → s.bad q.addr (loadSize q.kind) = false →
      (chk.ecc = [] → ∃ t, exec (.loadReply n chk stall) s = .next t ∧ (t.core n).pend = none ∧ (t.core n).pc = k.pc + 4 ∧
        (t.core n).r q.rd = (if q.rd = 0 then 0 else loadValue q.kind (s.bytes q.addr (loadSize q.kind))) ∧
        (∀ r, r ≠ q.rd → (t.core n).r r = k.r r) ∧ (t.core n).cycle = k.cycle + BitVec.ofNat 64 (1 + stall) ∧
        (t.core n).loaded = (if q.rd = 0 then none else some q.rd) ∧ s.alone n t) ∧
      (chk.ecc = [.uncorrectable] → slotAt q.addr = none → k.running = true → k.stores = [] → k.posted = none → k.status.getLsbD 3 = false →
        ∃ t, exec (.loadReply n chk stall) s = .next t ∧ (t.core n).pend = none ∧ Core.entered n 4 k.pc q.ea k.evec k (t.core n) ∧
          (k.flight = [] → (t.core n).cycle = k.cycle + BitVec.ofNat 64 (stall + 6)) ∧ t.bad q.addr (loadSize q.kind) = true ∧ onlyCore n s t ∧ Frame [.cores, .freeCtr, .flaws] noReg s t)) ∧
    -- what it addresses has been reset: an error response
    (q.lost = true → k.running = true → k.stores = [] → k.posted = none → k.status.getLsbD 3 = false →
      ∃ t, exec (.loadReply n chk stall) s = .next t ∧ (t.core n).pend = none ∧ s.trapped n 4 k.pc q.ea k.evec t) ∧
    (q.lost = false → s.memWaits q.addr = true → exec (.loadReply n chk stall) s = .next s)) ∧
  (s.coreOn n = false ∨ k.pend = none → exec (.loadReply n chk stall) s = .next s) ∧
  (k.stores = [] → exec (.postedStoreComplete n chk) s = .next s) ∧
  (∀ p rest, k.stores = p :: rest →
    (s.memWaits p.addr = true ∨ s.latching p.addr = true → exec (.postedStoreComplete n chk) s = .next s) ∧
    (s.clk.cdUp = true → isPeriodSram p.addr = true → slotAt p.addr = none → p.size ∈ [1, 2, 4] → p.addr % p.size = 0 →
      chk.ecc = [] → s.bad p.addr p.size = false →
      ∃ t, exec (.postedStoreComplete n chk) s = .next t ∧ t.core n = { k with stores := rest, orphan := k.orphan - 1 } ∧
        (∀ j < p.size, t.byte (p.addr + j) = BitVec.ofNat 8 (p.val.toNat / 256 ^ j)) ∧
        (∀ a, ¬ (p.addr ≤ a ∧ a < p.addr + p.size) → t.byte a = s.byte a) ∧ onlyCore n s t ∧ Frame [.mem, .cores] noReg s t) ∧
    (s.clk.cdUp = false → p.addr < 0x5000000000 → ∃ t, exec (.postedStoreComplete n chk) s = .next t ∧
      t.core n = { k with stores := rest, orphan := k.orphan - 1, posted := if k.orphan = 0 then some (k.posted.getD p.ea) else k.posted } ∧
      onlyCore n s t ∧ Frame [.cores] noReg s t))

/-- CORE_RUN, CORE_HALT, HALT_COMPLETE, CORE_RESET, INTERRUPT_RAISE, TCMP_MATCH, DECODE_TABLE_WRITE (R343, R366, R369, R370, R389). -/
def Obligations.HelmControl : Prop :=
  ∀ (s : State),
  (∀ c : Fin 8, let n : CoreN := toFin 10 c
    let k := s.core n
    let gives (i : Instr) (k' : Core) : Prop := ∃ t, exec i s = .next t ∧ t.core n = k' ∧ onlyCore n s t ∧ Frame [.cores] noReg s t
    (s.clk.cdUp = true →
      -- the cycles that passed while the core was halted are counted (R343, log entry 108)
      (k.stopping = false → k.running = false → ∃ t, exec (.coreRun c) s = .next t ∧
        t.core n = { k with running := true, cycle := (t.core n).cycle, ipend := (t.core n).ipend } ∧
        (∀ i, i ≠ 16 → (t.core n).ipend.getLsbD i = k.ipend.getLsbD i) ∧ s.alone n t) ∧
      (k.stopping = false → k.running = true → exec (.coreRun c) s = .next s) ∧ (k.stopping = true → gives (.coreRun c) { k with runAgain := true }) ∧
      (k.running = true → gives (.coreHalt c) { k with stopping := true }) ∧ (k.running = false → exec (.coreHalt c) s = .next s) ∧
      (k.pend = none → gives (.coreReset c)
        { stores := k.stores, orphan := k.stores.length, pc := BitVec.ofNat 32 (4 * s.fld (hlmRvec n) 15 2) }) ∧
      (s.clk.power ≠ .idle → k.running = true → k.stopping = true → k.pend = none → k.waiting = false → k.stores = [] →
        (∃ t, exec (.haltComplete c) s = .next t ∧ (t.core n).running = k.runAgain ∧ (t.core n).stopping = false ∧
          (t.core n).runAgain = false ∧ (t.core n).flight = [] ∧ (t.core n).w = k.w ∧ (t.core n).pc = k.pc ∧ (t.core n).status = k.status ∧
          onlyCore n s t ∧ Frame [.cores] noReg s t) ∧
        (k.flight = [] → gives (.haltComplete c) { k with running := k.runAgain, stopping := false, runAgain := false })) ∧
      (∀ (off : BitVec 13) (v : Word), tableOffset off.toNat = true → s.bit hlmCtrl 31 = false →
        (k.running = false → ∃ t, exec (.decodeTableWrite c off v) s = .next t ∧ t.rd (hlmDt c 0 + off.toNat) = v.toNat ∧
          Frame [] (regsOf [hlmDt c 0 + off.toNat]) s t) ∧
        (k.running = true → ∃ t, exec (.decodeTableWrite c off v) s = .next t ∧ t.bit hlmDtstat c = true ∧ Frame [] (regsOf [hlmDtstat]) s t)) ∧
      (∀ (off : BitVec 13) (v : Word), tableOffset off.toNat = false ∨ s.bit hlmCtrl 31 = true → exec (.decodeTableWrite c off v) s = .next s)) ∧
    (k.stopping = false → exec (.haltComplete c) s = .next s) ∧
    (s.clk.cdUp = false → exec (.coreRun c) s = .next s ∧ exec (.coreHalt c) s = .next s ∧ exec (.coreReset c) s = .next s ∧
      exec (.haltComplete c) s = .next s ∧ ∀ off v, exec (.decodeTableWrite c off v) s = .next s)) ∧
  (∀ (n : CoreN), let k := s.core n
    (∀ line : Fin 18, (n.val < 8 → s.clk.cdUp = true) → (line = 17 → n = 8) → ∃ t, exec (.interruptRaise n line) s = .next t ∧
      t.core n = { k with ipend := k.ipend ||| BitVec.ofNat 32 (2 ^ line.val) } ∧ onlyCore n s t ∧ Frame [.cores] noReg s t) ∧
    (n ≠ 8 → exec (.interruptRaise n 17) s = .next s) ∧
    (s.coreOn n = true → ∃ t, exec (.tcmpMatch n) s = .next t ∧
      t.core n = { k with ipend := k.ipend ||| 0x10000, cycle := (t.core n).cycle } ∧ (t.core n).cycle.setWidth 32 = k.tcmp ∧
      onlyCore n s t ∧ Frame [.cores] noReg s t) ∧
    (s.coreOn n = false → exec (.tcmpMatch n) s = .next s))

/-- CUSTOM_INSTRUCTION (R339, R340, R350 to R353, R376 to R386): microprograms of one word of each unit and of two words, what ends one
with an exception, the words of R352 and those that R351 calls illegal. That the command tells of a fetch is log entry 29. -/
def Obligations.HelmCustom : Prop :=
  (∀ (s : State) (n : CoreN) (e : Fin 16) (ops : BitVec 26), s.ready n = true →
    let k := s.core n
    let d := s.tableWord n (4 * e)
    let op := operandsOf (bits d 29 28) ops
    let uw (i : Nat) : UWord := uwordOf (s.tableWord n (0x400 + 8 * i) + 2 ^ 32 * s.tableWord n (0x404 + 8 * i))
    let start := bits d 24 16
    let maxc := bits d 7 0
    let u := uw start
    let word := BitVec.ofNat 32 ((0x30 + e) * 2 ^ 26 + ops.toNat)
    let runs (chks : List Check) := exec (.customInstruction n word none .clean chks) s
    let legal : Prop := n.val ≠ 9 ∧ d.testBit 31 = true
    -- the selectors other than T0 to T3 and LC, and the register of a DST
    let given (i : Nat) : Prop := i ≤ 4 ∨ 9 ≤ i ∧ i ≤ 11
    let src (u : UWord) (i : Nat) : Word := if i = 0 then 0 else if i = 1 then k.r op.rd else if i = 2 then k.r op.ra else if i = 3 then k.r op.rb
      else if i = 4 then k.r op.rc else if i = 9 then u.imm.signExtend 32 else if i = 10 then u.imm.zeroExtend 32 else op.iimm
    let dreg (u : UWord) : RegN := if u.dst = 1 then op.rd else if u.dst = 2 then op.ra else op.rb
    let writesReg (u : UWord) : Prop := 1 ≤ u.dst ∧ u.dst ≤ 3
    let cost (c : Nat) := k.loadUse [op.rd, op.ra, op.rb, op.rc] + 1 + c
    let gives (chks : List Check) (u : UWord) (c : Nat) (v : Word) : Prop := ∃ t, runs chks = .next t ∧
      (t.core n).r (dreg u) = (if dreg u = 0 then 0 else v) ∧ s.ran n [dreg u] (k.pc + 4) (cost c) t
    let one : Prop := legal ∧ 1 ≤ maxc ∧ u.legal = true ∧ u.fin = true ∧ given u.a ∧ given u.b
    let ea := src u u.a + src u u.b
    let size := loadSize u.fn
    let base := localBase n + ea.toNat
    let sea := src u u.a + u.imm.signExtend 32
    let ssize := if u.fn = 0 then 4 else if u.fn = 1 then 2 else 1
    let calm : Prop := k.stores = [] ∧ k.status.getLsbD 3 = false
    let traps (code eval : Word) : Prop := ∃ t, runs [] = .next t ∧ s.trapped n code k.pc eval k.evec t
    (one → writesReg u → u.unit = 0 → gives [] u 1 (alu u.fn (src u u.a) (src u u.b))) ∧
    (one → u.unit = 1 → ∃ t, runs [] = .next t ∧ Core.went n [] (k.pc + 4) (cost 1) k (t.core n) ∧ s.alone n t ∧
      (k.flight = [] → (t.core n).mp = k.mp ∧ ∃ v, exec (.mpWriteLand n) t = .next v ∧ (v.core n).flight = [] ∧
        (v.core n).mp = k.mp.set u.mpi (mpValue k.mp[u.mpi] u.fn (src u u.a) (src u u.b)) ∧
        Core.went n [] (k.pc + 4) (cost 4) k (v.core n) ∧ s.alone n v)) ∧
    (one → writesReg u → u.unit = 2 → k.flight = [] → gives [] u 1
      (mfmpValue k.mp[u.mpi] (bits u.imm.toNat 5 0) (u.imm.toNat.testBit 6) (u.imm.toNat.testBit 7))) ∧
    -- loads and stores (R384, R386): of local memory, and with NL set of the rest
    (one → writesReg u → u.unit = 3 → ea.toNat % size = 0 →
      (ea.toNat < 0x20000 → s.bad base 1 = false → gives [] u 1 (loadValue u.fn (s.bytes base size)) ∧
        (n.val < 8 → calm → ∃ t, runs [{ ecc := [.uncorrectable] }] = .next t ∧ Core.entered n 7 k.pc ea k.evec k (t.core n) ∧
          t.bit hlmFault (8 + n) = true ∧ onlyCore n s t ∧ Frame [.cores, .freeCtr, .flaws] (regsOf [hlmFault]) s t)) ∧
      (2 ^ 28 ≤ ea.toNat → d.testBit 30 = false → calm → traps 4 ea) ∧
      (2 ^ 28 ≤ ea.toNat → d.testBit 30 = true → calm → s.clk.cdUp = true → isPeriodSram (k.segAddr ea) = true → slotAt (k.segAddr ea) = none →
        s.bad (k.segAddr ea) size = false →
        (∃ t stall, runs [] = .next t ∧ (t.core n).r (dreg u) = (if dreg u = 0 then 0 else loadValue u.fn (s.bytes (k.segAddr ea) size)) ∧
          Core.went n [dreg u] (k.pc + 4) (cost 1 + stall) k (t.core n) ∧ s.alone n t) ∧
        ∃ t, runs [{ ecc := [.uncorrectable] }] = .next t ∧ Core.entered n 4 k.pc ea k.evec k (t.core n) ∧ onlyCore n s t ∧
          Frame [.cores, .freeCtr, .flaws] noReg s t)) ∧
    (one → u.unit = 4 → sea.toNat % ssize = 0 →
      (sea.toNat < 0x20000 → let a := localBase n + sea.toNat
        ∃ t, runs [] = .next t ∧ Core.went n [] (k.pc + 4) (cost 1) k.lsStore (t.core n) ∧
          (∀ j < ssize, t.byte (a + j) = BitVec.ofNat 8 ((src u u.b).toNat / 256 ^ j)) ∧ (∀ x, ¬ (a ≤ x ∧ x < a + ssize) → t.byte x = s.byte x) ∧
          onlyCore n s t ∧ Frame [.mem, .cores, .freeCtr, .flaws] noReg s t) ∧
      (2 ^ 28 ≤ sea.toNat → d.testBit 30 = false → calm → traps 5 sea) ∧
      (2 ^ 28 ≤ sea.toNat → d.testBit 30 = true → k.stores = [] → ∃ t, runs [] = .next t ∧ (t.core n).pc = k.pc + 4 ∧
        (t.core n).stores = [{ addr := k.segAddr sea, ea := sea, size := ssize, val := src u u.b, gate := s.gateOf (k.segAddr sea) }] ∧
        (∀ r, (t.core n).r r = k.r r) ∧ s.alone n t)) ∧
    (one → calm → (u.unit = 3 → ea.toNat % size ≠ 0 → traps 3 ea) ∧ (u.unit = 4 → sea.toNat % ssize ≠ 0 → traps 3 sea)) ∧
    -- two microwords: the first writes a temporary, or LC, and SEQ names the second, which reads it
    (legal → 2 ≤ maxc → u.legal = true → u.fin = false → given u.a → given u.b → u.dst ∈ [5, 6, 7, 8, 12] →
      let loads : Prop := u.unit = 3 ∧ ea.toNat % size = 0 ∧ ea.toNat < 0x20000 ∧ s.bad base 1 = false
      u.unit = 0 ∨ loads → (u.seq = 5 → u.dst = 12) → (1 ≤ u.seq → u.seq ≤ 3 → u.unit = 0) →
      let v := if u.unit = 0 then alu u.fn (src u u.a) (src u u.b) else loadValue u.fn (s.bytes base size)
      let jump : Bool := (u.seq = 1 ∧ v = 0) ∨ (u.seq = 2 ∧ v ≠ 0) ∨ (u.seq = 3 ∧ v.msb = true) ∨ u.seq = 4 ∨ (u.seq = 5 ∧ v ≠ 1)
      jump = true ∨ start < 511 →
      let x := uw (if jump = true then u.tgt else start + 1)
      let val (i : Nat) : Word := if i = u.dst then (if u.seq = 5 then v - 1 else v) else src x i
      x.legal = true → x.fin = true → x.unit = 0 → writesReg x → (given x.a ∨ x.a = u.dst) → (given x.b ∨ x.b = u.dst) →
      gives [] x (2 + b2n (decide (u.unit = 3) && x.reads u.dst)) (alu x.fn (val x.a) (val x.b))) ∧
    (calm →
      (n.val ≠ 9 → d.testBit 31 = false ∨ maxc = 0 → traps 1 word) ∧
      (legal → 1 ≤ maxc → u.legal = false → traps 1 word) ∧
      -- MAXC microwords without an END, and a step past address 511 (R385)
      (legal → 1 ≤ maxc → u.legal = true → u.fin = false → u.unit = 0 ∨ u.unit = 5 →
        (u.seq = 4 → u.tgt = start → traps 1 word) ∧ (maxc = 1 → traps 1 word) ∧ (start = 511 → u.seq = 0 → traps 1 word)) ∧
      (n.val = 9 → ∀ ecc chks, ∃ t, exec (.customInstruction n word ecc .clean chks) s = .next t ∧ s.trapped n 1 k.pc word k.evec t) ∧
      (n.val < 8 → ∀ chks, ∃ t, exec (.customInstruction n word (some (4 * e)) .clean chks) s = .next t ∧
        Core.entered n 7 k.pc (BitVec.ofNat 32 (2 ^ 31 + 4 * e)) k.evec k (t.core n) ∧ t.bit hlmDtstat (8 + n) = true ∧ onlyCore n s t ∧
        Frame [.cores, .freeCtr] (regsOf [hlmDtstat]) s t))) ∧
  (∀ (s : State) (n : CoreN) (w : Word) ecc,
    let k := s.core n
    (bits w.toNat 31 26 < 0x30 →
      (decodeHelm n w = none → s.ready n = true → k.stores = [] → k.status.getLsbD 3 = false → ∀ chks,
        ∃ t, exec (.customInstruction n w ecc .clean chks) s = .next t ∧ s.trapped n 1 k.pc w k.evec t) ∧
      -- a word of R352 runs as the instruction that it spells, each word that it loads with the check told for it
      (∀ i, decodeHelm n w = some i → exec (.customInstruction n w ecc .clean []) s = exec i s) ∧
      (∀ rd ra imm e, decodeHelm n w = some (.lw n rd ra imm .clean) →
        exec (.customInstruction n w ecc .clean [{ ecc := [e] }]) s = exec (.lw n rd ra imm e) s) ∧
      ∀ m eccs, decodeHelm n w = some (.ret n m []) →
        exec (.customInstruction n w ecc .clean (eccs.map fun e => { ecc := [e] })) s = exec (.ret n m eccs) s) ∧
    -- the word itself is fetched with an error (R340)
    (n.val < 8 → s.ready n = true → ∀ chks,
      (∃ u, u.fld hlmEcccnt 15 0 = Nat.min (s.fld hlmEcccnt 15 0 + 1) 0xFFFF ∧ Frame [] (regsOf [hlmEcccnt]) s u ∧
        exec (.customInstruction n w ecc .corrected chks) s = exec (.customInstruction n w ecc .clean chks) u) ∧
      (k.stores = [] → k.status.getLsbD 3 = false → ∃ t, exec (.customInstruction n w ecc .uncorrectable chks) s = .next t ∧
        Core.entered n 7 k.pc k.pc k.evec k (t.core n) ∧ t.bit hlmFault (8 + n) = true ∧ onlyCore n s t ∧
        Frame [.cores, .freeCtr, .flaws] (regsOf [hlmFault]) s t))) ∧
  -- an instruction is the one its word spells, and no other
  ∀ (n : CoreN) (w : Word) i, decodeHelm n w = some i → encodeHelm i = some w

/-- PORT_REGISTER_READ and PORT_REGISTER_WRITE at and past index 0x7F (R329). -/
def Obligations.PortOverrun : Prop :=
  ∀ (s : State) (w : Word) (edges : Fin 33),
  let q := s.port
  let ovrn (t : State) : Prop := t.bit mptStatus 1 = true ∧ (∀ i, i ≠ 1 → t.bit mptStatus i = s.bit mptStatus i) ∧
    Frame [.port] (regsOf [mptStatus]) s t
  (q.phase = .regWrite → 0x80 ≤ q.index → ∃ t, exec (.portRegisterWrite w) s = .next t ∧ t.port.index = q.index + b2n q.inc ∧ ovrn t) ∧
  (q.phase = .regRead → 0x80 ≤ q.index → ∃ t, exec (.portRegisterRead edges w) s = .next t ∧ t.port.mdo = q.mdo ++ [0] ∧
    t.port.index = q.index + (if edges = 32 then b2n q.inc else 0) ∧ ovrn t) ∧
  (q.phase = .regRead → q.index = 0x7F → ∃ t, exec (.portRegisterRead edges w) s = .next t ∧ t.port.mdo = q.mdo ++ [0] ∧
    t.port.index = 0x7F + (if edges = 32 then b2n q.inc else 0) ∧ Frame [.port] noReg s t)

/-- TRANSACTION_START, COMMAND_WORD, PORT_REGISTER_WRITE, PORT_REGISTER_READ, TRANSACTION_END, DOORBELL_IN, DOORBELL_OUT, PORT_WAKE,
CDRST (R325 to R337, R411, R461). -/
def Obligations.ManagementPort : Prop :=
  ∀ (s : State) (w : Word),
  let q := s.port
  let x := w.toNat
  (q.phase = .idle → s.clk.power ≠ .off → s.bit nvrStatus 31 = true → ∃ t, exec .transactionStart s = .next t ∧ Frame [.port] noReg s t ∧
    (t.port = { q with phase := .command, index := 0, inc := false, words := [], word := none, data := [], status := t.port.status,
                       mdo := [t.port.status] }) ∧
    let st := t.port.status.toNat;
    bits st 31 28 = 10 ∧ bits st 27 25 = powerCode s.clk.power ∧ st.testBit 24 = s.safe ∧ st.testBit 23 = s.clk.cdUp ∧
      st.testBit 22 = !q.queue.isEmpty ∧ bits st 21 8 = 0 ∧ bits st 7 0 = s.mptStat % 256) ∧
  (q.phase ≠ .idle → exec .transactionStart s = .next s) ∧
  (q.phase = .command →
    let bad := bits x 28 7 ≠ 0 ∨ (x.testBit 30 = true ∧ bits x 6 0 ≠ 0)
    (bad → ∃ t, exec (.commandWord w) s = .next t ∧ t.port.phase = .dead ∧ t.bit mptStatus 5 = true ∧
      Frame [.port] (regsOf [mptStatus]) s t) ∧
    (¬ bad → ∃ t, exec (.commandWord w) s = .next t ∧ t.port.index = bits x 6 0 ∧ t.port.inc = x.testBit 29 ∧ t.port.words = [w] ∧
      t.port.phase = (if x.testBit 30 then if x.testBit 31 then .winRead else .winWrite else if x.testBit 31 then .regRead else .regWrite) ∧
      Frame [.port] noReg s t)) ∧
  -- after a discarded command word the port drives zeros
  (q.phase = .dead → (∃ t, exec (.commandWord w) s = .next t ∧ t.port = { q with mdo := q.mdo ++ [0] } ∧ Frame [.port] noReg s t) ∧
    exec (.portRegisterWrite w) s = .next s ∧
    (∀ e, exec (.portRegisterRead e w) s = .next s) ∧ exec (.windowWrite w) s = .next s ∧ exec (.windowRead w) s = .next s) ∧
  (q.phase = .regWrite →
    let store (i : Nat) (rs : List Nat) (p : State → Prop) : Prop := q.index = i → ∃ t, exec (.portRegisterWrite w) s = .next t ∧ p t ∧
      t.port = { q with words := q.words ++ [w], mdo := q.mdo ++ [0], index := i + b2n q.inc } ∧ Frame [.port] (regsOf rs) s t
    store 1 [mptStatus] (fun t => t.rd mptStatus = s.rd mptStatus &&& (allBits ^^^ (x &&& 0xBF))) ∧
    (s.bit mptCtrl 31 = false → store 2 [mptCtrl] fun t => t.fld mptCtrl 9 8 = bits x 9 8 ∧ t.fld mptCtrl 1 0 = bits x 1 0 ∧
      t.bit mptCtrl 31 = x.testBit 31) ∧
    store 3 [mptWadrl] (fun t => t.rd mptWadrl = x &&& 0xFFFFFFFC) ∧ store 4 [mptWadrh] (fun t => t.rd mptWadrh = x % 256) ∧
    store 0x12 [mptScratch] (fun t => t.rd mptScratch = x) ∧ (∀ j < 32, store (0x20 + j) [mptMbin j] fun t => t.rd (mptMbin j) = x) ∧
    store 0x61 [mptDbout] (fun t => t.rd mptDbout = s.rd mptDbout &&& (allBits ^^^ x)) ∧
    ∀ i < 0x80, i ∉ [1, 2, 3, 4, 0x11, 0x12, 0x60, 0x61] → ¬ (0x20 ≤ i ∧ i < 0x40) → store i [] fun _ => True) ∧
  (q.phase = .regRead → ∀ edges : Fin 33,
    let load (i v : Nat) : Prop := q.index = i → ∃ t, exec (.portRegisterRead edges w) s = .next t ∧
      (t.port = { q with mdo := q.mdo ++ [BitVec.ofNat 32 v], words := q.words ++ (if edges = 32 then [w] else []),
                         index := i + (if edges = 32 then b2n q.inc else 0) }) ∧ Frame [.port] noReg s t
    (∀ i, i ∈ [0, 2, 3, 4, 5, 6, 0x12, 0x13] ∨ (0x20 ≤ i ∧ i < 0x62) → load i (s.rd (mptReg i))) ∧ load 9 s.safStat ∧
      load 0x0A (s.rd safCause) ∧ load 0x0B (s.rd chnAddr) ∧ load 0x0F s.upTime ∧ load 0x11 0 ∧
      -- nothing is measured before the first 1 ms tick (log entry 104)
      (s.clk.ms = 0 → load 0x0C (wrapN 16 s.clk.coldplate * 65536) ∧ load 0x0D 0)) ∧
  (s.clk.power ≠ .off → s.bit nvrStatus 31 = true → ∃ t, exec (.doorbellIn w) s = .next t ∧ t.rd mptDbin = s.rd mptDbin ||| x ∧
    onlyCore 8 s t ∧ t.core 8 = (if w = 0 then s.core 8 else { s.core 8 with ipend := (s.core 8).ipend ||| 0x20000 }) ∧
    Frame [.cores] (regsOf [mptDbin]) s t) ∧
  (s.clk.power ≠ .off → ∃ t, exec (.doorbellOut w) s = .next t ∧ t.rd mptDbout = s.rd mptDbout ||| x ∧ Frame [] (regsOf [mptDbout]) s t) ∧
  (s.clk.power = .off → exec (.doorbellIn w) s = .next s ∧ exec (.doorbellOut w) s = .next s) ∧
  (s.bit pwrWakecfg 0 = true → s.lowPower = true → ∃ t, exec .portWake s = .next t ∧ t.clk = { s.clk with wakes := s.clk.wakes ||| 2 } ∧
    Frame [.clk] noReg s t) ∧
  (s.bit pwrWakecfg 0 = false ∨ s.lowPower = false → exec .portWake s = .next s) ∧
  (s.bit mptCtrl 1 = true → s.boot.step = 10 → s.clk.cdUp = true → ∃ t, exec .cdrst s = .next t ∧
    t.clk = { s.clk with cdRstReq := true } ∧ Frame [.clk] noReg s t) ∧
  (s.bit mptCtrl 1 = false → exec .cdrst s = .next s) ∧
  (q.phase = .idle → ∀ e, exec (.transactionEnd e w) s = .next s) ∧
  (q.phase ≠ .idle → ∀ e : Fin 32,
    let all := q.words ++ if e = 0 then q.word.toList else []
    let crc (t : State) : Prop := t.rd mptTcrc = if all = [] then s.rd mptTcrc else crc32 (all.flatMap fun v => toBE 4 v.toNat) % 2 ^ 32
    let ended (t : State) : Prop := t.port.phase = .idle ∧ t.port.words = [] ∧ t.port.word = none ∧ t.port.data = [] ∧
      t.port.reads = q.reads.map fun r => { r with want := none }
    -- the last word of a window read has had its 32nd edge, and access N - F has not completed (R332)
    let late : Prop := q.phase = .winRead ∧ q.word.isSome = true ∧ s.fld mptCtrl 9 8 + 1 ≤ q.index ∧
      ∀ d ∈ q.data, d.1 ≠ q.index - (s.fld mptCtrl 9 8 + 1)
    (e = 0 → ∃ t, exec (.transactionEnd e w) s = .next t ∧ ended t ∧ crc t ∧ t.port.queue = q.queue ∧
      (late → t.bit mptStatus 3 = true ∧ Frame [.port] (regsOf [mptStatus, mptTcrc]) s t) ∧ (¬ late → Frame [.port] (regsOf [mptTcrc]) s t)) ∧
    (e ≠ 0 → q.phase ≠ .regWrite → q.phase ≠ .winWrite → ∃ t, exec (.transactionEnd e w) s = .next t ∧ ended t ∧ crc t ∧
      t.bit mptStatus 0 = true ∧ t.port.queue = q.queue ∧ Frame [.port] (regsOf [mptStatus, mptTcrc]) s t) ∧
    (e ≠ 0 → q.phase = .regWrite → q.index = 0x12 → ∃ t, exec (.transactionEnd e w) s = .next t ∧ ended t ∧ crc t ∧
      t.bit mptStatus 0 = true ∧ t.rd mptScratch = x % 2 ^ e.val ∧ Frame [.port] (regsOf [mptStatus, mptTcrc, mptScratch]) s t) ∧
    (e ≠ 0 → q.phase = .winWrite → s.bit mptCtrl 0 = true → q.queue.length < 8 → ∃ t, exec (.transactionEnd e w) s = .next t ∧ ended t ∧
      crc t ∧ t.bit mptStatus 0 = true ∧ t.port.queue = q.queue ++ [(s.windowAddr, BitVec.ofNat 32 (x % 2 ^ e.val))] ∧
      Frame [.port] (regsOf [mptStatus, mptTcrc, mptWadrl, mptWadrh]) s t))

/-- WINDOW_WRITE, WINDOW_WRITE_PERFORM, WINDOW_READ, WINDOW_ACCESS_DONE (R247, R258, R330 to R333, R338). That a discarded word
leaves the address is the model's reading (log entry 37). -/
def Obligations.ManagementWindow : Prop :=
  ∀ (s : State) (w : Word) (chk : Check),
  let q := s.port
  let a := s.windowAddr
  let moved (t : State) : Prop := t.windowAddr = if q.inc then (a + 4) % 2 ^ 40 else a
  let werr (addr kind : Nat) (t : State) : Prop := t.bit mptStatus 2 = true ∧ t.rd mptWerrl = addr % 2 ^ 32 ∧
    t.rd mptWerrh = 2 ^ 31 + kind * 2 ^ 29 + addr / 2 ^ 32
  let sram (addr : Nat) : Prop := s.clk.cdUp = true ∧ isPeriodSram addr = true ∧ slotAt addr = none ∧ addr % 4 = 0
  let open_ (addr : Nat) : Prop := sram addr ∧ s.bad addr 4 = false ∧ chk.ecc = []
  let shut (addr : Nat) : Prop := s.clk.cdUp = false ∧ addr < 0x5000000000
  (q.phase = .winWrite →
    (s.bit mptCtrl 0 = false → ∃ t, exec (.windowWrite w) s = .next t ∧ werr a 3 t ∧ moved t ∧ t.port.queue = q.queue ∧
      Frame [.port] (regsOf [mptStatus, mptWerrl, mptWerrh, mptWadrl, mptWadrh]) s t) ∧
    (s.bit mptCtrl 0 = true → 8 ≤ q.queue.length → ∃ t, exec (.windowWrite w) s = .next t ∧ t.bit mptStatus 4 = true ∧
      t.port.queue = q.queue ∧ Frame [.port] (regsOf [mptStatus]) s t) ∧
    (s.bit mptCtrl 0 = true → q.queue.length < 8 → ∃ t, exec (.windowWrite w) s = .next t ∧ moved t ∧ t.port.queue = q.queue ++ [(a, w)] ∧
      Frame [.port] (regsOf [mptWadrl, mptWadrh]) s t)) ∧
  (q.queue = [] → exec (.windowWritePerform chk) s = .next s) ∧
  (∀ addr v rest, q.queue = (addr, v) :: rest →
    (s.memWaits addr = true → exec (.windowWritePerform chk) s = .next s) ∧
    (open_ addr → ∃ t, exec (.windowWritePerform chk) s = .next t ∧ t.port = { q with queue := rest } ∧ t.word addr = v.toNat ∧
      (∀ b, ¬ (addr ≤ b ∧ b < addr + 4) → t.byte b = s.byte b) ∧ Frame [.mem, .port] noReg s t) ∧
    (shut addr → ∃ t, exec (.windowWritePerform chk) s = .next t ∧ t.port = { q with queue := rest } ∧ werr addr 2 t ∧
      Frame [.port] (regsOf [mptStatus, mptWerrl, mptWerrh]) s t)) ∧
  (q.phase = .winRead → let k := q.index
    let f := s.fld mptCtrl 9 8 + 1
    let started (t : State) : Prop := moved t ∧ t.port.index = k + 1 ∧ t.port.word = some w ∧ t.port.words = q.words ++ q.word.toList ∧
      t.port.data = q.data
    (k < f → ∃ t, exec (.windowRead w) s = .next t ∧ started t ∧ t.port.mdo = q.mdo ++ [0] ∧ t.port.reads = q.reads ++ [{ addr := a, want := some k, gate := s.gateOf a }] ∧
      Frame [.port] (regsOf [mptWadrl, mptWadrh]) s t) ∧
    (f ≤ k → ∀ v, q.data.find? (fun d => d.1 == k - f) = some (k - f, v) → ∃ t, exec (.windowRead w) s = .next t ∧ started t ∧
      t.port.mdo = q.mdo ++ [v] ∧ t.port.reads = q.reads ++ [{ addr := a, want := some k, gate := s.gateOf a }] ∧ Frame [.port] (regsOf [mptWadrl, mptWadrh]) s t) ∧
    (f ≤ k → q.data.find? (fun d => d.1 == k - f) = none → ∃ t, exec (.windowRead w) s = .next t ∧ started t ∧
      t.port.mdo = q.mdo ++ [0] ∧ t.bit mptStatus 3 = true ∧ Frame [.port] (regsOf [mptStatus, mptWadrl, mptWadrh]) s t)) ∧
  (q.reads = [] ∨ q.queue ≠ [] → ∀ b, exec (.windowAccessDone b chk) s = .next s) ∧
  (∀ addr j g rest, q.reads = { addr, want := some j, gate := g } :: rest → q.queue = [] →
    (s.memWaits addr = true → ∀ b, exec (.windowAccessDone b chk) s = .next s) ∧
    (open_ addr → (∃ t, exec (.windowAccessDone true chk) s = .next t ∧
        t.port = { q with reads := rest, data := q.data ++ [(j, BitVec.ofNat 32 (s.word addr))] } ∧ Frame [.port] noReg s t) ∧
      ∃ t, exec (.windowAccessDone false chk) s = .next t ∧ t.port = { q with reads := rest, data := q.data ++ [(j, 0)] } ∧
        t.bit mptStatus 3 = true ∧ Frame [.port] (regsOf [mptStatus]) s t) ∧
    -- the word is found uncorrectable
    (sram addr → chk.ecc = [.uncorrectable] → ∃ t, exec (.windowAccessDone true chk) s = .next t ∧
      t.port = { q with reads := rest, data := q.data ++ [(j, 0)] } ∧ werr addr 0 t ∧ t.bad addr 4 = true ∧
      Frame [.port, .flaws] (regsOf [mptStatus, mptWerrl, mptWerrh]) s t) ∧
    (shut addr → ∃ t, exec (.windowAccessDone true chk) s = .next t ∧ t.port = { q with reads := rest, data := q.data ++ [(j, 0)] } ∧
      werr addr 0 t ∧ Frame [.port] (regsOf [mptStatus, mptWerrl, mptWerrh]) s t)) ∧
  -- what an outstanding access addresses has been reset
  (∀ addr j g rest, q.reads = { addr, want := some j, lost := true, gate := g } :: rest → q.queue = [] →
    ∃ t, exec (.windowAccessDone true chk) s = .next t ∧ t.port = { q with reads := rest, data := q.data ++ [(j, 0)] } ∧ werr addr 0 t ∧
      Frame [.port] (regsOf [mptStatus, mptWerrl, mptWerrh]) s t) ∧
  (∀ addr g rest, q.reads = { addr, want := none, gate := g } :: rest → q.queue = [] → open_ addr → ∀ b, ∃ t, exec (.windowAccessDone b chk) s = .next t ∧
    t.port = { q with reads := rest } ∧ Frame [.port] noReg s t)

/-- BOOT_RECALL to BOOT_CHART, BOOT_TIMEOUT, BOOT_RETRY, DONE, CHARTSKIP, CHARTFAIL (R393, R394, R401, R404 to R409, R431, R432, R522). -/
def Obligations.BootSteps : Prop :=
  ∀ (s : State),
  let fails := s.fld bootStatus 19 16
  let started (k : Nat) (t : State) : Prop := t.boot.step = k ∧ t.boot.active = true ∧ t.boot.retry = false ∧ t.fld bootStatus 11 8 = k
  let failed (k : Nat) (t : State) : Prop := t.fld bootStatus 23 20 = k % 16 ∧ t.fld bootStatus 19 16 = Nat.min (fails + 1) 3 ∧
    t.boot.active = false ∧ t.clk.cdUp = false ∧
    (fails + 1 < 3 → k ≠ 1 → s.boot.fromRecovery = false → t.boot.retry = true ∧ t.clk.power = .starting) ∧
    (3 ≤ fails + 1 ∨ k = 1 ∨ s.boot.fromRecovery = true → t.boot.retry = false ∧ t.clk.power = .recovery ∧ t.bit bootStatus 31 = true ∧ (t.core 8).running = false)
  let passes (i : Instr) (k : Nat) (rs : List Nat) : Prop := ∃ t, exec i s = .next t ∧ started k t ∧
    (s.boot.lastHash.length = 12 → s.boot.failHash.length = 12 → ∀ a, ¬ (nvrBaseAddr ≤ a ∧ a < nvrBaseAddr + 0x400) → t.byte a = s.byte a) ∧
    Frame [.mem, .boot] (regsOf (bootStatus :: bootProg :: rs)) s t
  let runs (i : Instr) : Prop := ∃ t, exec i s = .next t ∧ started 10 t ∧ t.clk = { s.clk with power := .run } ∧
    t.saf = { s.saf with active := s.saf.active &&& (allBits ^^^ 2 ^ 18) } ∧ Frame [.mem, .saf, .boot, .clk] (regsOf [bootStatus, bootProg]) s t
  let fails_ (i : Instr) (k : Nat) : Prop := ∃ t, exec i s = .next t ∧ failed k t
  -- the half-programmed GEN lines are completed before a copy is chosen (R430)
  (s.inStep 1 = true → s.bit nvrStatus 31 = true → ∀ half lines, let g := s.completeGen half
    (g.bbChoice = none → ∃ t, exec (.bootRecall half lines) s = .next t ∧ t.fld bootStatus 23 20 = 1 ∧ t.boot.active = false ∧ t.boot.retry = false ∧
      t.clk.cdUp = false ∧ t.clk.power = .recovery ∧ t.bit bootStatus 31 = true ∧ (t.core 8).running = false) ∧
    (∀ c, g.bbChoice = some c → ∃ t, exec (.bootRecall half lines) s = .next t ∧ started 2 t ∧ t.clk.power = .starting ∧
      t.boot.slot = none ∧ t.fld bootVer 31 16 = g.le (bbBase c + 4) 2 ∧
      -- the margin check of the copy, and its repair by a swap, which generation 256 refuses (R431, R432)
      t.rd flsMargin = 2 ^ 31 + 32 * c.val * 2 ^ 24 + Nat.min lines 4096 ∧ t.bit flsStatus 8 = true ∧ (lines ≠ 0 → t.bit flsStatus 9 = true) ∧
      (lines = 0 ∨ 256 ≤ g.bbGenOf c → t.boot.bbCopy = c ∧ t.boot.bbGen = g.bbGenOf c) ∧
      (lines ≠ 0 → 256 ≤ g.bbGenOf c → t.fld bootCmdst 3 0 = 6 ∧ t.bit bootCmdst 8 = true) ∧
      (lines ≠ 0 → g.bbGenOf c < 256 → t.boot.bbCopy ≠ c ∧ t.boot.bbGen = g.bbGenOf c + 1))) ∧
  (s.inStep 1 = false ∨ s.bit nvrStatus 31 = false → ∀ half lines, exec (.bootRecall half lines) s = .next s) ∧
  (s.inStep 2 = true → fails_ (.bootPort none) 2 ∧ ∀ f : Sfdp, passes (.bootPort (some f)) 3 [] ∧
    -- the widest mode up to BOOT_CFG.WIDTH whose enable bit is set; 1-1-1 at 25 MHz under PORTSAFE (R393, R394, R406)
    ∃ t, exec (.bootPort (some f)) s = .next t ∧ t.boot.sfdp = some f ∧
      t.boot.density = (if 0x1000000 < f.density ∧ f.fourByte = false then 0x1000000 else f.density) ∧
      t.boot.port.long = decide (0x1000000 < f.density ∧ f.fourByte = true) ∧ modeRank t.boot.port.mode ≤ s.portRank ∧
      (∀ m ∈ f.modes, sfdpUsable f m = true → modeRank m.mode ≤ s.portRank → modeRank m.mode ≤ modeRank t.boot.port.mode) ∧
      (t.boot.port.mode = .m111 ∨ ∃ m ∈ f.modes, m.mode = t.boot.port.mode ∧ m.enabled = true ∧
        (t.boot.port.long = false → t.boot.port.code = m.code) ∧ (t.boot.port.long = true → m.code4 = some t.boot.port.code)) ∧
      (s.bit bootStatus 27 = true → t.boot.port.mode = .m111 ∧ t.boot.port.div = 16) ∧
      (s.bit bootStatus 27 = false → [3, 4, 8, 16][s.fld bootCfg 1 0]? = some t.boot.port.div)) ∧
  (s.inStep 3 = true → ∃ t, exec .bootSlot s = .next t ∧
    t.boot.hdr = [s.bytes (s.slotOfs 0) 0x1000, s.bytes (s.slotOfs 1) 0x1000] ∧
    t.rd (bootSeq 0) = s.le (s.slotOfs 0 + 8) 4 ∧ t.rd (bootSeq 1) = s.le (s.slotOfs 1 + 8) 4 ∧
    (t.boot.slot = none → failed 3 t) ∧
    (∀ n, t.boot.slot = some n → started 4 t ∧ t.fld bootStatus 1 0 = 2 + n.val ∧ t.bit (flsWp 0) 0 = true ∧ t.bit (flsWp 1) 0 = true ∧
      t.core 8 = { running := true } ∧ t.core 9 = { running := true } ∧ t.saf.wdogRun = true ∧ t.fld bootSlotst (8 * n + 7) (8 * n) = 0x80)) ∧
  (s.inStep 4 = true → fails_ (.bootCdpwr false) 4 ∧ (s.clk.mainLost = true → fails_ (.bootCdpwr true) 4) ∧
    (s.clk.mainLost = false → ∃ t, exec (.bootCdpwr true) s = .next t ∧ started 5 t ∧ t.clk.cdUp = true ∧
    t.per.running = false ∧ (∀ a, 0x1000000000 ≤ a → a < 0x1004000000 → t.byte a = 0) ∧ ∀ n : CoreN, n.val < 8 → t.core n = {})) ∧
  (∀ n, s.inStep 5 = true → s.boot.slot = some n → s.boot.warm = false ∨ s.gmem.retained = false →
    ((s.stageFrom (s.staged n) fun x => s.slotOfs n + x.1.ofs).2 = true → ∀ met, ∃ t, exec (.bootStage met) s = .next t ∧ started 6 t) ∧
    ((s.stageFrom (s.staged n) fun x => s.slotOfs n + x.1.ofs).2 = false → ∀ met, fails_ (.bootStage met) 5)) ∧
  -- after a warm restart with GDDR6 retained, from the retained copy when its digests hold
  (∀ n, s.inStep 5 = true → s.boot.slot = some n → s.boot.warm = true → s.gmem.retained = true →
    (s.memReady = false ∨ s.anyRetrain = true → ∀ met, exec (.bootStage met) s = .next s) ∧
    (s.memReady = true → s.anyRetrain = false → ∀ met, (s.stageRetained (s.staged n) met).2 = true →
      ∃ t, exec (.bootStage met) s = .next t ∧ started 6 t)) ∧
  (s.boot.slot = none → ∀ met, exec (.bootStage met) s = .next s ∧ exec (.bootGddr6 met) s = .next s) ∧
  (∀ n, s.inStep 6 = true → s.boot.slot = some n →
    (s.bit memStatus 31 = true → s.anyRetrain = true → ∀ met, exec (.bootGddr6 met) s = .next s) ∧
    (s.bit memStatus 31 = true → s.anyRetrain = false →
      (∀ met, ∃ t, exec (.bootGddr6 met) s = .next t ∧ started 7 t ∧ t.rd srchClexcl = s.fld bootDeg 31 16) ∧
      -- no burst meets an error
      ∃ t, exec (.bootGddr6 []) s = .next t ∧ started 7 t ∧ (∀ i, i ≠ 3 → t.bit memStatus i = s.bit memStatus i) ∧
        Frame [.mem, .boot, .flaws] (regsOf [srchClexcl, bootStatus, bootProg, memStatus]) s t) ∧
    (s.bit memStatus 31 = false → s.gmem.training = true ∨ s.gmem.selfRefresh = true → ∀ met, exec (.bootGddr6 met) s = .next s) ∧
    (s.bit memStatus 31 = false → s.gmem.training = false → s.gmem.selfRefresh = false → (∀ c : ChanN, s.gmem.retraining[c] = false) →
      ∀ met, fails_ (.bootGddr6 met) 6)) ∧
  (s.inStep 7 = true → s.rot.powerupDone = true →
    (s.fld srchClavail 15 0 ≠ 0 → passes .bootSelftest 8 []) ∧ (s.fld srchClavail 15 0 = 0 → fails_ .bootSelftest 7)) ∧
  (s.rot.powerupDone = false → exec .bootSelftest s = .next s) ∧
  (s.inStep 8 = true →
    let lost := s.portLock .up 6 = false ∧ s.portLock .dn 6 = false
    let up (p : ChPort) : Prop := s.portLock p 6 = false ∨ s.portState p = 3
    (lost ∨ s.bit chnPilot 1 = true ∨ (s.hasAddr = true ∧ up .up ∧ up .dn) → passes .bootChain 9 []) ∧
    (¬ (lost ∨ s.bit chnPilot 1 = true ∨ (s.hasAddr = true ∧ up .up ∧ up .dn)) → ∃ t, exec .bootChain s = .next t ∧ failed 8 t ∧
      t.bit bootStatus 29 = true)) ∧
  (s.inStep 9 = true →
    (s.actBuf.isSome = true ∨ s.bit bootStatus 28 = true → runs .bootChart) ∧
    (s.actBuf = none → s.bit bootStatus 28 = false → s.bit chrtStatus 0 = true → ∃ t, exec .bootChart s = .next t ∧ failed 9 t ∧
      t.bit bootStatus 28 = true) ∧
    (s.actBuf = none → s.bit bootStatus 28 = false → s.bit chrtStatus 0 = false → exec .bootChart s = .next s) ∧
    runs .chartskip ∧ fails_ .chartfail 9) ∧
  (s.inStep 9 = false → exec .chartskip s = .next s ∧ exec .chartfail s = .next s) ∧
  (s.inStep 10 = true → ∃ t, exec .done s = .next t ∧ t.fld bootStatus 19 16 = 0 ∧ t.fld bootStatus 29 27 = 0 ∧ t.rd bootProg = 0 ∧
    t.boot = { s.boot with active := false, lastSlot := s.fld bootStatus 0 0, lastHash := s.boot.chosenHash } ∧
    Frame [.mem, .boot] (regsOf [bootStatus, bootProg]) s t) ∧
  (s.boot.active = true → s.clk.power ≠ .off → fails_ .bootTimeout s.boot.step) ∧
  (s.boot.active = false → exec .bootTimeout s = .next s ∧ exec .done s = .next s) ∧
  (s.boot.retry = true → s.clk.power ≠ .off → ∃ t, exec .bootRetry s = .next t ∧ started 2 t ∧ t.clk = { s.clk with power := .starting } ∧
    t.boot.slot = none ∧ t.fld bootStatus 1 0 = 0 ∧
    t.bit chnPilot 1 = s.bit bootStatus 29 ∧ t.bit bootStatus 31 = false ∧ Frame [.mem, .boot, .clk] (regsOf [bootStatus, bootProg, chnPilot]) s t) ∧
  (s.boot.retry = false ∨ s.clk.power = .off → exec .bootRetry s = .next s)

/-- REBOOT, BOOT_ERASE, BOOT_PROGRAM, BOOT_OPERATION_DONE, RAISE, CLRDEG, BOOT_READ, WARM_RESTART, COMPUTE_DIE_RESET, BINNACLE_RESET
(R259, R403, R411, R413, R431, R447, R450, R522). The order in which refusals are judged and what CLK_TRIM reads after a compute-die reset are
the model's choices (log entries 84, 119). -/
def Obligations.BootCommands : Prop :=
  ∀ (s : State) (slot : Fin 2),
  let o := s.rd bootUpofs
  -- the largest erase type of at most 64 KB
  let unit := s.eraseUnit
  let buf := (List.range 64).flatMap fun w => toLE 4 (s.rd (bootBufw w))
  let on : Prop := s.clk.power ≠ .off
  -- BUSY shows whether an erase or a program runs
  let ended (c : Nat) (t : State) : Prop := t.bit bootCmdst 31 = t.boot.op.isSome ∧ t.fld bootCmdst 3 0 = c ∧ (c ≠ 0 → t.bit bootCmdst 8 = true)
  let refused (i : Instr) (c : Nat) : Prop := ∃ t, exec i s = .next t ∧ ended c t ∧ Frame [] (regsOf [bootCmdst]) s t
  let busy (i : Instr) : Prop := s.boot.op.isSome = true → refused i 7
  let writes (i : Instr) (op n : Nat) (data : List Byte) : Prop := on →
    (s.bit bootCtrl 31 = true → refused i 1) ∧
    (s.bit bootCtrl 31 = false → s.bootedSlot = some slot → refused i 2) ∧
    (s.bit bootCtrl 31 = false → s.bootedSlot ≠ some slot → busy i ∧ (s.boot.op = none →
      (o % n ≠ 0 ∨ s.slotSize < o + n → refused i 3) ∧
      (o % n = 0 → o + n ≤ s.slotSize → ∃ t, exec i s = .next t ∧ t.bit bootCmdst 31 = true ∧
        t.boot = { s.boot with op := some (op, s.slotOfs slot + o, data), sent := t.boot.sent } ∧
        (∀ f, s.boot.sfdp = some f → t.boot.sent.head? = some 0x06) ∧ Frame [.boot] (regsOf [bootCmdst]) s t)))
  (∀ f, s.boot.sfdp = some f → ∀ e ∈ f.erases, e.log ≤ 16 → 2 ^ e.log ≤ unit) ∧ unit ≤ 0x10000 ∧
  (s.clk.power = .off → ∀ i ∈ [Instr.bootErase slot, .bootProgram slot, .raise, .clrdeg, .bootRead slot], exec i s = .next s) ∧
  writes (.bootErase slot) 2 unit [] ∧ writes (.bootProgram slot) 3 256 buf ∧
  (s.boot.op = none → ∀ b, exec (.bootOperationDone b) s = .next s) ∧
  (∀ op a data, s.boot.op = some (op, a, data) → let n := if op = 2 then unit else 256
    let idle := { s.boot with op := none }
    (op = 2 → ∃ t, exec (.bootOperationDone false) s = .next t ∧ ended 0 t ∧ t.boot = idle ∧
      (∀ x, a ≤ x → x < a + unit → t.byte x = memReset x) ∧ (∀ x, ¬ (a ≤ x ∧ x < a + unit) → t.byte x = s.byte x) ∧
      Frame [.mem, .boot] (regsOf [bootCmdst]) s t) ∧
    (op ≠ 2 → data.length = 256 → ∃ t, exec (.bootOperationDone false) s = .next t ∧ ended 0 t ∧ t.boot = idle ∧
      (∀ i (h : i < data.length), t.byte (a + i) = data[i] &&& s.byte (a + i)) ∧ (∀ x, ¬ (a ≤ x ∧ x < a + 256) → t.byte x = s.byte x) ∧
      Frame [.mem, .boot] (regsOf [bootCmdst]) s t) ∧
    (∃ t, exec (.bootOperationDone true) s = .next t ∧ ended 4 t ∧ t.boot = idle ∧ (∀ x, ¬ (a ≤ x ∧ x < a + n) → t.byte x = s.byte x) ∧
      Frame [.mem, .boot, .freeCtr] (regsOf [bootCmdst]) s t)) ∧
  (on → let m := leAt buf 4 2
    let old := s.bytes (bbBase s.boot.bbCopy) 0x70
    (s.bit bootCtrl 31 = true → refused .raise 1) ∧
    (s.bit bootCtrl 31 = false → busy .raise) ∧
    (s.bit bootCtrl 31 = false → s.boot.op = none → ∃ t, exec .raise s = .next t ∧ t.bit bootCmdst 31 = false ∧
      Frame [.mem, .boot, .flaws] (regsOf [bootVer, bootCmdst]) s t ∧
      (leAt buf 0 4 ≠ 0x4D560001 ∨ leAt buf 8 8 ≠ 0 ∨ s.sigOk (buf.take 16) (buf.drop 16) = false →
        ended 5 t ∧ t.boot = s.boot ∧ ∀ a, t.byte a = s.byte a) ∧
      (leAt buf 0 4 = 0x4D560001 → leAt buf 8 8 = 0 → s.sigOk (buf.take 16) (buf.drop 16) = true →
        (m ≤ s.fld bootVer 31 16 ∨ s.fld bootVer 15 0 < m ∨ 256 ≤ s.boot.bbGen → ended 6 t ∧ t.boot = s.boot ∧ ∀ a, t.byte a = s.byte a) ∧
        (s.fld bootVer 31 16 < m → m ≤ s.fld bootVer 15 0 → s.boot.bbGen < 256 → ended 0 t ∧ t.fld bootVer 31 16 = m ∧
          t.boot = { s.boot with bbCopy := if s.boot.bbCopy = 0 then 1 else 0, bbGen := s.boot.bbGen + 1 } ∧
          t.bytes (bbBase t.boot.bbCopy) 0x70 = old.take 4 ++ toLE 2 m ++ old.drop 6)))) ∧
  -- the progress record is written once the loader has read it
  (on → ∃ t, exec .clrdeg s = .next t ∧ ended 0 t ∧ t.rd bootDeg = 0 ∧ (s.boot.recalled = false → ∀ a, t.byte a = s.byte a) ∧
    Frame [.mem] (regsOf [bootDeg, bootCmdst]) s t) ∧
  (on → busy (.bootRead slot)) ∧
  (on → s.boot.op = none → s.slotSize < o + 256 → refused (.bootRead slot) 3) ∧
  (on → s.boot.op = none → o + 256 ≤ s.slotSize → ∃ t, exec (.bootRead slot) s = .next t ∧ ended 0 t ∧
    (∀ w < 64, t.rd (bootBufw w) = s.word (s.slotOfs slot + o + 4 * w)) ∧
    Frame [] (fun a => a = bootCmdst ∨ ∃ w < 64, a = bootBufw w) s t) ∧
  (s.clk.power = .off → exec .reboot s = .next s) ∧
  (s.clk.power ≠ .off → ∃ t, exec .reboot s = .next t ∧ ended 0 t ∧ t.boot.step = 2 ∧ t.boot.active = true ∧ t.boot.slot = none ∧
    t.boot.fromRecovery = s.bit bootStatus 31 ∧ t.fld bootStatus 1 0 = 0 ∧ t.clk.cdUp = false ∧
    t.clk.power = .starting) ∧
  (∀ ok, s.clk.cdRstReq = true → s.boot.slot.isSome = true → s.clk.mainLost = false → s.clk.power ≠ .off → s.clk.power ≠ .recovery →
    ∃ t, exec (.warmRestart ok) s = .next t ∧ t.bit clkStatus 1 = (if s.clk.cdUp then s.clk.hang else s.bit clkStatus 1) ∧
    t.boot.step = 5 ∧ t.boot.active = true ∧ t.boot.warm = true ∧ t.boot.slot = s.boot.slot ∧ t.clk.cdUp = true ∧ t.clk.held = false ∧
    t.clk.cdRstReq = false ∧
    t.clk.power = .starting ∧ t.bit bootStatus 30 = true) ∧
  (∀ ok, s.clk.cdRstReq = false ∨ s.boot.slot = none ∨ s.clk.mainLost = true ∨ s.clk.power = .off ∨ s.clk.power = .recovery →
    exec (.warmRestart ok) s = .next s) ∧
  -- the powered die is held in reset after the sequence of R259, what was outstanding to it is lost, and a warm restart is due
  (s.clk.cdUp = true → ∀ ok, let lost (a : Nat) : Bool := decide (a < 0x5000000000)
    ∃ t, exec (.computeDieReset ok) s = .next t ∧
    t.gmem.retained = (if s.gmem.selfRefresh then s.gmem.retained else ok && s.bit memStatus 31) ∧
    t.bit clkStatus 1 = s.clk.hang ∧ t.clk.hang = false ∧ t.rd clkTrim = 0 ∧ t.clk.trimCode = s.clk.trimCode ∧ t.clk.cdUp = false ∧ t.clk.held = true ∧ t.clk.cdRstReq = true ∧ t.clk.power = .starting ∧
    t.boot = { s.boot with active := false } ∧
    t.port = { s.port with reads := s.port.reads.map fun x => if lost x.addr then { x with lost := true } else x } ∧
    (∀ n : CoreN, n.val < 8 → t.core n = {}) ∧
    (∀ n : CoreN, 8 ≤ n.val → t.core n = { s.core n with pend := (s.core n).pend.map fun x => if lost x.addr then { x with lost := true } else x }) ∧
    (∀ a, 0x1000000000 ≤ a ∧ a < 0x1004000000 ∨ 0x2000000000 ≤ a ∧ a < 0x2002000000 ∨ 0x3000000000 ≤ a ∧ a < 0x3000100000 → t.byte a = 0) ∧
    t.per = perReset s.bootPace ∧ (∀ p, t.prob p = {}) ∧ (∀ c, t.cl c = {}) ∧ (∀ l, t.lane l = {}) ∧
    t.rd cellRole = (regReset cellRole).toNat ∧ t.rd perCount = (regReset perCount).toNat ∧ t.rd mptPcount = s.rd perCount ∧
    t.saf.active.testBit 18 = true ∧ t.flash = s.flash ∧ t.hubs = s.hubs) ∧
  (s.clk.cdUp = false → ∀ ok, exec (.computeDieReset ok) s = .next s) ∧
  (∀ b, ∃ t, exec (.binnacleReset b) s = .next t ∧ (∀ a, t.byte a = if nonVolatile a then s.byte a else memReset a) ∧
    (∀ a, a ≠ clkStatus → t.rd a = (regReset a).toNat) ∧ t.bit clkStatus 31 = (s.clk.refSel || s.bit clkCtrl 0 || !b) ∧
    t.boot = {} ∧ t.clk = { mainLost := s.clk.mainLost } ∧ t.saf = { active := 2 ^ 18 + 2 ^ 9 * b2n s.clk.mainLost } ∧ t.flash = {} ∧ t.port = {} ∧ (∀ n, t.core n = {}) ∧ t.hubs = s.hubs ∧ t.pending = s.pending)

/-- PROGRAM, ERASE, MCHECK, REFRESH, SUSPEND, RESUME, FLASH_OPERATION_DONE, FLASH_AUTO_RESUME, WRITE_PROTECT (R419 to R427, R432 to
R435). -/
def Obligations.FlashOperations : Prop :=
  ∀ (s : State) (r : Requester),
  let a := s.flsTarget
  let n := a / 0x10000
  let array (x : Nat) : Prop := flashBase ≤ x ∧ x < flashBase + 0x400000
  let refused (i : Instr) (f : Nat) : Prop := ∃ t, exec i s = .next t ∧ t.bit flsStatus f = true ∧
    (∀ x, ¬ (nvrBaseAddr + 0x2000 ≤ x ∧ x < nvrBaseAddr + 0x3000) → t.byte x = s.byte x) ∧
    Frame [.mem, .freeCtr] (regsOf [flsStatus, nvrEvhead]) s t
  let begun (i : Instr) (op : Nat) : Prop := ∃ t, exec i s = .next t ∧ (∀ x, array x → t.byte x = s.byte x) ∧
    t.flash = { s.flash with op := some { op, sector := n, line := if op = 6 then 0 else a / 16 % 4096,
                                          data := (List.range 4).flatMap fun i => toLE 4 (s.rd (flsData i)) } } ∧
    -- a supply warning holds up a PROGRAM and an ERASE; a REFRESH starts with its copy (R435, R444)
    t.bit flsStatus 31 = !(s.flash.warn && op != 5 && op != 6) ∧ t.bit flsStatus 30 = false ∧
    t.bit flsStatus 29 = (s.flash.warn && op != 5 && op != 6) ∧
    Frame [.mem, .flash] (regsOf [flsStatus]) s t
  let command (i : Instr) (op : Nat) (bank : Option Nat) : Prop :=
    let prot := op ≠ 5 ∧ s.protected? n = true
    let dirty := op ≠ 2 ∧ s.dirty n = true
    let full := op = 1 ∧ s.bytes (flashBase + a) 16 ≠ List.replicate 16 0xFF
    let same := op ≠ 5 ∧ bank = some (bankOf n)
    (s.flash.op.isSome = true → refused i 0) ∧
    (s.flash.op = none → (prot → refused i 2) ∧ (¬ prot → full → refused i 3) ∧ (¬ prot → ¬ full → dirty → refused i 0) ∧
      (¬ prot → ¬ dirty → ¬ full → same → refused i 1) ∧ (¬ prot → ¬ dirty → ¬ full → ¬ same → begun i op))
  command (.program r) 1 (s.requesterBank r) ∧ command (.erase r) 2 (s.requesterBank r) ∧ command .mcheck 5 none ∧
  command (.refresh r) 6 (s.requesterBank r) ∧
  (s.eraseOp = true → s.bit flsStatus 30 = false → ∃ t, exec .suspend s = .next t ∧ t.bit flsStatus 30 = true ∧ t.bit flsStatus 31 = false ∧
    t.bit flsStatus 29 = s.bit flsStatus 29 ∧ Frame [] (regsOf [flsStatus]) s t) ∧
  (s.eraseOp = false ∨ s.bit flsStatus 30 = true → refused .suspend 0) ∧
  (s.bit flsStatus 30 = true → s.flash.warn = false → ∃ t, exec .resume s = .next t ∧ t.bit flsStatus 30 = false ∧
    t.bit flsStatus 31 = (s.flash.op.isSome && !s.bit flsStatus 29) ∧ Frame [] (regsOf [flsStatus]) s t) ∧
  (s.bit flsStatus 30 = false ∨ s.flash.warn = true → refused .resume 0) ∧
  (s.flash.op = none ∨ s.bit flsStatus 31 = false → ∀ d, exec (.flashOperationDone d) s = .next s) ∧
  (∀ f d, s.flash.op = some f → s.bit flsStatus 31 = true → f.sector < 64 →
    let at_ := sectorBase f.sector
    let done (t : State) : Prop := t.flash = { s.flash with op := none } ∧ t.bit flsStatus 31 = false ∧ t.bit flsStatus 8 = true
    (f.op = 1 → f.data.length = 16 → f.line < 4096 → ∃ t, exec (.flashOperationDone d) s = .next t ∧ done t ∧ t.bytes (at_ + 16 * f.line) 16 = f.data ∧
      (∀ x, array x → ¬ (at_ + 16 * f.line ≤ x ∧ x < at_ + 16 * f.line + 16) → t.byte x = s.byte x) ∧ t.bad (at_ + 16 * f.line) 16 = false ∧
      Frame [.mem, .flash, .flaws] (regsOf [flsStatus]) s t) ∧
    (f.op = 2 → ∃ t, exec (.flashOperationDone d) s = .next t ∧ done t ∧ t.dirty f.sector = false ∧
      t.word (eraseCount f.sector) = (s.word (eraseCount f.sector) + 1) % 2 ^ 32 ∧
      (∀ x, array x → t.byte x = if at_ ≤ x ∧ x < at_ + 0x10000 then 0xFF else s.byte x) ∧ t.bad at_ 0x10000 = false ∧
      Frame [.mem, .flash, .flaws] (regsOf [flsStatus, flsDirty 0, flsDirty 1]) s t) ∧
    (f.op = 5 → ∃ t, exec (.flashOperationDone d) s = .next t ∧ done t ∧ t.rd flsMargin = 2 ^ 31 + f.sector * 2 ^ 24 + Nat.min d 4096 ∧
      (d ≠ 0 → t.bit flsStatus 9 = true) ∧ (∀ x, array x → t.byte x = s.byte x) ∧
      Frame [.mem, .flash, .freeCtr] (regsOf [flsStatus, flsMargin, nvrEvhead]) s t) ∧
    -- a REFRESH copies the sector to the buffer, erases it and programs it back, as far as d tells (R433)
    (f.op = 6 → f.phase = 0 → ∃ t, exec (.flashOperationDone d) s = .next t ∧
      t.flash = { s.flash with op := some { f with phase := if s.flash.warn then 1 else 2 } } ∧
      (∀ x, x < 0x10000 → t.byte (refreshBuf + x) = s.byte (at_ + x)) ∧ (∀ x, array x → t.byte x = s.byte x) ∧
      t.bit flsStatus 31 = !s.flash.warn ∧ t.bit flsStatus 29 = s.flash.warn ∧ Frame [.mem, .flash] (regsOf [flsStatus]) s t) ∧
    (f.op = 6 → f.phase = 2 → ∃ t, exec (.flashOperationDone d) s = .next t ∧
      t.flash = { s.flash with op := some { f with phase := 3, line := 0 } } ∧
      (∀ x, array x → t.byte x = if at_ ≤ x ∧ x < at_ + 0x10000 then 0xFF else s.byte x) ∧ t.bad at_ 0x10000 = false ∧
      t.word (eraseCount f.sector) = (s.word (eraseCount f.sector) + 1) % 2 ^ 32 ∧ Frame [.mem, .flash, .flaws] noReg s t) ∧
    (f.op = 6 → f.phase = 3 → f.line ≤ 4096 → let m := Nat.max f.line (Nat.min d 4096)
      ∃ t, exec (.flashOperationDone d) s = .next t ∧
      (∀ x, array x → t.byte x = if at_ + 16 * f.line ≤ x ∧ x < at_ + 16 * m then s.byte (refreshBuf + (x - at_)) else s.byte x) ∧
      (m < 4096 → t.flash = { s.flash with op := some { f with line := m } } ∧ Frame [.mem, .flash, .flaws] noReg s t) ∧
      (m = 4096 → done t ∧ t.rd flsRedir = 0 ∧ Frame [.mem, .flash, .flaws] (regsOf [flsStatus, flsRedir]) s t))) ∧
  (s.flash.warn = true → ∃ t, exec .flashAutoResume s = .next t ∧
    t.flash = { s.flash with warn := false, op := s.flash.op.map fun f => if f.phase = 1 then { f with phase := 2 } else f } ∧
    t.bit flsStatus 29 = false ∧
    t.bit flsStatus 31 = (s.flash.op.isSome && !s.bit flsStatus 30) ∧ Frame [.flash] (regsOf [flsStatus]) s t) ∧
  (s.flash.warn = false → exec .flashAutoResume s = .next s) ∧
  (∀ hi v, ∃ t, exec (.writeProtect hi v) s = .next t ∧ t.rd (flsWp (b2n hi)) = s.rd (flsWp (b2n hi)) ||| v.toNat ∧
    Frame [] (regsOf [flsWp (b2n hi)]) s t)

/-- RECORD_STORE_RECALL, COUNTER_INCREMENT (R425, R438 to R442). -/
def Obligations.RecordStore : Prop :=
  ∀ (s : State),
  (s.bit nvrStatus 31 = true ∨ s.clk.power = .off → exec .recordStoreRecall s = .next s) ∧
  (s.bit nvrStatus 31 = false → s.clk.power ≠ .off → ∃ t, exec .recordStoreRecall s = .next t ∧ t.bit nvrStatus 31 = true ∧
    (∀ i, 1 ≤ i → i ≤ 6 → t.bit nvrRecbad i = (recNewest s i).isNone) ∧
    Frame [.mem, .flash, .freeCtr] (regsOf [nvrStatus, nvrRecbad, nvrEvhead, flsDirty 0, flsDirty 1, flsRedir, flsStatus, pwrWakesrc]) s t ∧
    ((∀ i, 1 ≤ i → i ≤ 6 → (recNewest s i).isSome = true) →
      let w := s.flashRec.getD 0 0
      (∀ k q, newestEntry s = some (k, q) → t.rd nvrEvhead = (q + 1) % 65536 * 65536 + (k + 1) % 256) ∧
      (newestEntry s = none → t.rd nvrEvhead = 0) ∧
      (w.testBit 31 = false → t.rd (flsDirty 0) = s.flashRec.getD 1 0 % 2 ^ 32 ∧ t.rd (flsDirty 1) = s.flashRec.getD 2 0 % 2 ^ 32 ∧
        t.rd pwrWakesrc = (recRead s 6 1).getD 0 0 % 2 ^ 32 ∧ t.flash = s.flash ∧ ∀ a, t.byte a = s.byte a) ∧
      (w.testBit 31 = true → bits w 25 24 = 3 → w.testBit 23 = true → t.rd flsRedir = 2 ^ 31 + bits w 21 16 ∧
        t.flash.op = some { op := 6, sector := bits w 21 16, line := 0, data := [], phase := 2 }) ∧
      (w.testBit 31 = true → bits w 25 24 ≠ 3 → t.dirty (bits w 21 16) = true ∧ t.flash = s.flash))) ∧
  (exec (.counterIncrement 0) s = .next s) ∧
  (∀ k : Fin 8, let mask : Byte := BitVec.ofNat 8 (2 ^ k.val)
    let base := s.cntBase k
    let n := s.cntN k
    let h := s.word (nvrWord base)
    let cell := nvrWord (base + 1 + h % n)
    let next := nvrWord (base + 1 + (h + 1) % n)
    let c := s.word cell % 2 ^ 24
    (s.bit (nvrCntcfg k) 31 = false ∨ s.bit nvrStatus 31 = false → ∃ t, exec (.counterIncrement mask) s = .next t ∧ t.bit nvrStatus 2 = true ∧
      (∀ x, ¬ (nvrBaseAddr + 0x2000 ≤ x ∧ x < nvrBaseAddr + 0x3000) → t.byte x = s.byte x) ∧
      Frame [.mem, .freeCtr] (regsOf [nvrStatus, nvrEvhead]) s t) ∧
    (s.bit (nvrCntcfg k) 31 = true → s.bit nvrStatus 31 = true → s.carryPending base n h = false →
      (c < 2 ^ 24 - 1 → ∃ t, exec (.counterIncrement mask) s = .next t ∧ t.word cell = c + 1 ∧
        (∀ x, ¬ (cell ≤ x ∧ x < cell + 4) → t.byte x = s.byte x) ∧ Frame [.mem] noReg s t) ∧
      (c = 2 ^ 24 - 1 → ∃ t, exec (.counterIncrement mask) s = .next t ∧ t.word next = 2 ^ 31 + (h + 1) % 2 * 2 ^ 30 ∧
        t.word (nvrWord base) = Nat.min (h + 1) 0xFFFFFFFF ∧
        (∀ x, ¬ (next ≤ x ∧ x < next + 4) → ¬ (nvrWord base ≤ x ∧ x < nvrWord base + 4) → t.byte x = s.byte x) ∧ Frame [.mem] noReg s t)))

/-- PACE_REQUEST, PLL_LOCK, VOLTAGE_SETTLED, GOVERNOR_EVALUATION, CLOCK_MONITOR_WINDOW, DROOP (R449 to R452, R458, R459, R464), powers in
0.1 mW and the coldplate in 1/16 °C. -/
def Obligations.PaceAndClocks : Prop :=
  ∀ (s : State),
  let k := s.clk
  let cap := s.fld pwrStatus 29 28
  let gives (i : Instr) (k' : Clk) (rs : List Nat) (p : State → Prop) : Prop := ∃ t, exec i s = .next t ∧ t.clk = k' ∧ p t ∧ Frame [.clk] (regsOf rs) s t
  (∀ v : Fin 4, let w : Fin 3 := toFin 3 (Nat.min (Nat.max (Nat.min v 2) cap) 2)
    let shown (t : State) : Prop := t.fld pwrPace 1 0 = v.val ∧ t.bit pwrStatus 27 = decide (Nat.min v 2 < cap)
    (s.clk.cdUp = false → exec (.paceRequest v) s = .next s) ∧
    (s.clk.cdUp = true → w = s.per.pace → k.target = none → gives (.paceRequest v) k [pwrPace, pwrStatus] shown) ∧
    (s.clk.cdUp = true → w = s.per.pace → k.target.isSome = true → gives (.paceRequest v) { k with target := none } [pwrPace, pwrStatus] fun t =>
      shown t ∧ t.bit pwrStatus 26 = k.lowering) ∧
    (s.clk.cdUp = true → w ≠ s.per.pace → k.target = some w → gives (.paceRequest v) k [pwrPace, pwrStatus] shown) ∧
    (s.clk.cdUp = true → w ≠ s.per.pace → k.target ≠ some w →
      gives (.paceRequest v) { k with target := some w, voltOk := decide (s.per.pace < w), lockOk := false, lowering := false }
        [pwrPace, pwrStatus, clkStatus] fun t => shown t ∧ t.bit pwrStatus 26 = true ∧ t.bit clkStatus 28 = false)) ∧
  (k.cdUp = true → k.target.isSome = true → k.lockOk = false →
    gives (.pllLock true) { k with lockOk := true } [clkStatus] (fun t => t.bit clkStatus 28 = true) ∧
    gives (.pllLock false) { k with target := none } [clkStatus, pwrStatus] fun t => t.bit clkStatus 3 = true ∧ t.bit pwrStatus 26 = false) ∧
  (k.target = none ∨ k.lockOk = true → ∀ ok, exec (.pllLock ok) s = .next s) ∧
  (k.target.isSome = true → k.voltOk = false → gives .voltageSettled { k with voltOk := true } [] fun _ => True) ∧
  (k.target = none ∨ k.voltOk = true → k.lowering = true → gives .voltageSettled { k with lowering := false } [pwrStatus] fun t =>
    t.bit pwrStatus 26 = k.target.isSome) ∧
  (k.target = none ∨ k.voltOk = true → k.lowering = false → exec .voltageSettled s = .next s) ∧
  (∀ (pMeas lanes : Nat) (cold : Int),
    (k.cdUp = false ∨ s.bit pwrGovcfg 31 = false → ∃ t, exec (.governorEvaluation pMeas lanes cold) s = .next t ∧
      t.clk = { k with ms := k.ms + 1, coldplate := cold } ∧ t.saf = { s.saf with passes := s.saf.passes.map fun x => (x.1, x.2 + 1) } ∧
      Frame [.chain, .saf, .clk] noReg s t) ∧
    (k.cdUp = true → s.bit pwrGovcfg 31 = true →
      let lane (q : Nat) : Int := if q = 0 then 1020 else if q = 1 then 539 else 252
      let est (q : Nat) : Int := pMeas - lanes * lane s.per.pace + lanes * lane q
      let env : Int := if cold ≤ 70 * 16 then 7000000 else if cold ≤ 105 * 16 then 7000000 - (cold - 70 * 16) * 7750 else 2660000
      let limit : Int := env - s.fld pwrGovcfg 7 0 * 10000
      let q := if est 0 ≤ limit then 0 else if est 1 ≤ limit then 1 else 2
      -- evaluations in a row that would allow Sprint, and Cruise; above 105 °C the cap is Economy (R464)
      let longer (old p : Nat) : Nat := if est p ≤ limit - s.fld pwrGovcfg 15 8 * 10000 then Nat.min (old + 1) 10 else 0
      let streaks := (longer k.streaks.1 0, longer k.streaks.2 1)
      let hot : Prop := 105 * 16 < cold
      let cap' := if hot then 2 else if cap ≤ q then q else if 10 ≤ (if cap = 1 then streaks.1 else streaks.2) then cap - 1 else cap
      ∃ t, exec (.governorEvaluation pMeas lanes cold) s = .next t ∧ t.fld pwrStatus 29 28 = cap' ∧
        t.clk.streaks = streaks ∧
        t.rd pwrGovest = Nat.min (pMeas / 1000) 65535 * 65536 + (env / 1000).toNat ∧
        (hot ∨ (limit < est 0 ∧ limit < est 1 ∧ limit < est 2) → t.bit pwrStatus 7 = true) ∧
        (cap < cap' ∧ s.per.pace.val < cap' → t.bit pwrStatus 6 = true) ∧ (¬ (cap < cap' ∧ s.per.pace.val < cap') → t.bit pwrStatus 6 = s.bit pwrStatus 6) ∧
        t.clk.ms = k.ms + 1 ∧ t.clk.coldplate = cold ∧ Frame [.chain, .saf, .clk] (regsOf [pwrStatus, pwrGovest, clkStatus]) s t)) ∧
  (∀ count nominal, let bad := count * 100 < nominal * 88 ∨ nominal * 112 < count * 100
    (¬ bad → ∀ c, c ≠ .fabric ∨ k.cdUp = false → exec (.clockMonitorWindow c count nominal none) s = .next s) ∧
    (¬ bad → k.cdUp = true → ∃ t, exec (.clockMonitorWindow .fabric count nominal none) s = .next t ∧
      t.saf = { s.saf with active := s.saf.active &&& (allBits ^^^ 2 ^ 8) } ∧ Frame [.saf] noReg s t) ∧
    (s.saf.islandFault = false →
      (∀ far n gap, far = some (n, gap) → gap = true ∨ n * 100 < nominal * 45 → k.cdUp = true →
        ∃ t, exec (.clockMonitorWindow .fabric count nominal far) s = .next t ∧ causeRaised 8 0 0 s t ∧ t.saf.active.testBit 8 = true ∧ t.clk.cdRstReq = true) ∧
      (bad → k.cdUp = true → ∃ t, exec (.clockMonitorWindow .fabric count nominal none) s = .next t ∧ causeRaised 8 0 0 s t ∧
        t.clk = { k with cdRstReq := true, hang := k.hang || (decide (count = 0) && s.switchDue) } ∧
        Frame [.mem, .cell, .lanes, .cap, .saf, .chain, .clk, .pins, .freeCtr] (pagesOf [cellBase, capBase, nvrBase, safBase]) s t) ∧
      (bad → s.bit clkStatus 31 = false → ∃ t, exec (.clockMonitorWindow .refclk count nominal none) s = .next t ∧ causeRaised 8 0 0 s t ∧
        t.bit clkStatus 31 = true ∧ t.bit clkStatus 2 = true ∧
        -- a compute die that is off is not reset
        t.clk = { k with cdRstReq := k.cdUp || k.cdRstReq }) ∧
      (bad → ∃ t, exec (.clockMonitorWindow .binnacle count nominal none) s = .next t ∧ causeRaised 16 0 0 s t ∧ safeHeld t ∧
        t.saf.islandFault = true ∧ t.saf.keepalive = false ∧ causeFrame s t)) ∧
    (bad → k.target = none ∨ k.voltOk = false → exec (.clockMonitorWindow .idlePll count nominal none) s = .next s) ∧
    (bad → k.target.isSome = true → k.voltOk = true → gives (.clockMonitorWindow .idlePll count nominal none) { k with target := none } [clkStatus, pwrStatus] fun t =>
      t.bit clkStatus 3 = true ∧ t.bit pwrStatus 26 = false)) ∧
  (∀ c, k.cdUp = true → ∃ t, exec (.droop c) s = .next t ∧ t.rd clkStrcnt = Nat.min (s.rd clkStrcnt + c) (2 ^ 32 - 1) ∧
    Frame [] (regsOf [clkStrcnt]) s t) ∧
  (∀ c, k.cdUp = false → exec (.droop c) s = .next s)

/-- GATE_CLOSE, GATE_CLOSED, GATE_OPEN, BLOCK_RESET, BLOCK_RESET_RELEASE (R454, R455). -/
def Obligations.GatesAndBlockResets : Prop :=
  ∀ (s : State) (b : Blk),
  let i := blkIdx b
  let page (a : Nat) : Prop := a = pwrBrstat ∨ (blkBase b ≤ a ∧ a < blkBase b + 0x10000)
  -- the requests to the block that are outstanding: new ones are barred, those in flight may finish until 16 fc are over
  let on (a : Nat) : Bool := decide (blkBase b ≤ a ∧ a < blkBase b + 0x10000)
  let gates (f : Gate → Gate) (t : State) : Prop :=
    t.port = { s.port with reads := s.port.reads.map fun x => if on x.addr then { x with gate := f x.gate } else x } ∧
    ∀ n, t.core n = { s.core n with pend := (s.core n).pend.map fun x => if on x.addr then { x with gate := f x.gate } else x
                                    stores := (s.core n).stores.map fun x => if on x.addr then { x with gate := f x.gate } else x }
  (s.clk.cdUp = false → exec (.gateClose b) s = .next s ∧ (∀ f, exec (.gateClosed b f) s = .next s) ∧ exec (.gateOpen b) s = .next s ∧
    exec (.blockReset b) s = .next s ∧ exec (.blockResetRelease b) s = .next s) ∧
  (b = .mem ∨ b = .per → exec (.gateClose b) s = .next s ∧ (∀ f, exec (.gateClosed b f) s = .next s) ∧ exec (.gateOpen b) s = .next s) ∧
  (s.clk.cdUp = true → b ≠ .mem → b ≠ .per →
    (s.bit clkGate i = true → exec (.gateClose b) s = .next s) ∧
    (s.bit clkGate i = false → ∃ t, exec (.gateClose b) s = .next t ∧ t.bit clkGate i = true ∧ (∀ j, j ≠ i → t.bit clkGate j = s.bit clkGate j) ∧
      gates (fun g => if g = .free then .closing else g) t ∧ Frame [.port, .cores] (regsOf [clkGate]) s t) ∧
    (∀ f, s.bit clkGate i = true → s.gated b = false → ∃ t, exec (.gateClosed b f) s = .next t ∧ t.gated b = true ∧
      t.bit clkGstat (16 + i) = (f || s.inFlight b || s.bit clkGstat (16 + i)) ∧ (∀ j, j ≠ i → j ≠ 16 + i → t.bit clkGstat j = s.bit clkGstat j) ∧
      gates (fun _ => .forced) t ∧ Frame [.port, .cores, .pins, .freeCtr] (regsOf [clkGstat]) s t) ∧
    (∀ f, s.bit clkGate i = false ∨ s.gated b = true → exec (.gateClosed b f) s = .next s) ∧
    (s.clk.power ≠ .idle ∨ b = .chn → ∃ t, exec (.gateOpen b) s = .next t ∧ t.bit clkGate i = false ∧ t.gated b = false ∧
      t.bit clkGstat (16 + i) = false ∧ gates (fun g => if g = .closing then .free else g) t ∧ Frame [.port, .cores] (regsOf [clkGate, clkGstat]) s t) ∧
    (s.clk.power = .idle → b ≠ .chn → ∃ t, exec (.gateOpen b) s = .next t ∧ t.bit clkGate i = false ∧
      gates (fun g => if g = .closing then .free else g) t ∧ Frame [.port, .cores] (regsOf [clkGate]) s t)) ∧
  -- an access that is out to the block, or to GDDR6 with MEM, ends in an error response
  let hit (a : Nat) : Bool := decide (blkBase b ≤ a ∧ a < blkBase b + 0x10000 ∨ b = .mem ∧ a < gddrEnd)
  let errs (t : State) : Prop := t.port = { s.port with reads := s.port.reads.map fun x => if hit x.addr then { x with lost := true } else x } ∧
    ∀ n, t.core n = { s.core n with pend := (s.core n).pend.map fun x => if hit x.addr then { x with lost := true } else x }
  (s.clk.cdUp = true → s.inReset b = false →
    (b ≠ .mem → ∃ t, exec (.blockReset b) s = .next t ∧ t.inReset b = true ∧ errs t ∧
      Frame [.port, .cores, .pins, .freeCtr] (regsOf [pwrBrstat]) s t) ∧
    (b = .mem → s.gmem.selfRefresh = false → ∃ t, exec (.blockReset b) s = .next t ∧ t.inReset b = true ∧ errs t ∧
      -- channels that have not all passed their training retain nothing
      t.gmem.selfRefresh = true ∧ t.gmem.waiting = [] ∧ t.bit memStatus 31 = false ∧
      ((∀ q ∈ s.gmem.waiting, q.data = none) → t.bit memStatus 30 = s.bit memStatus 31 ∧
        t.gmem = { s.gmem with selfRefresh := true, retained := s.bit memStatus 31, waiting := [] } ∧
        Frame [.gmem, .port, .cores] (regsOf [pwrBrstat, memStatus]) s t) ∧
      Frame [.mem, .gmem, .saf, .port, .cores, .flaws] (pagesOf [clkBase, chrtBase, memBase]) s t) ∧
    (b = .mem → s.gmem.selfRefresh = true → ∃ t, exec (.blockReset b) s = .next t ∧ t.inReset b = true ∧ errs t ∧
      Frame [.port, .cores] (regsOf [pwrBrstat]) s t)) ∧
  (s.inReset b = true → exec (.blockReset b) s = .next s) ∧
  (s.inReset b = false → exec (.blockResetRelease b) s = .next s) ∧
  (s.clk.cdUp = true → s.inReset b = true → ∃ t, exec (.blockResetRelease b) s = .next t ∧ t.inReset b = false ∧
    (b ∈ [Blk.srch, .cell, .evt, .plt, .ser] → ∀ a, blkBase b ≤ a → a < blkBase b + 0x10000 → t.rd a = (regReset a).toNat) ∧
    -- what the period owes a problem stays: its decision, and its report or its miss notice (R55, R58, log entry 112)
    (b = .srch → (∀ p, let q := s.prob p
        t.prob p = { tbl := q.tbl, u := q.u, enabled := q.enabled, launched := q.launched, code := q.code, fixObs := q.fixObs, inc := q.inc,
                     close := q.close, verdict := q.verdict, corr := q.corr, drOnly := q.drOnly, detLost := q.detLost, epsCut := q.epsCut,
                     drop := q.drop, chartSeed := q.chartSeed, provSent := q.provSent, provLeg := q.provLeg, provEq := q.provEq,
                     decided := q.decided, reported := q.reported, missed := q.missed, reason := q.reason }) ∧
      (∀ c, t.cl c = {}) ∧ t.rot = {} ∧ t.saf.late = 0 ∧ t.saf.passes = [] ∧ t.saf.timed = 0 ∧ t.saf.active.testBit 11 = false ∧
      Frame [.probs, .cls, .rot, .saf] page s t) ∧
    (b = .chrt → t.chart = { reverBuf := t.chart.reverBuf } ∧
      (s.gmem.retained = false → t.chart = {} ∧ t.rd chrtGen = 0 ∧ t.bufState .bufA = 0 ∧ t.bufState .bufB = 0) ∧ Frame [.chart] page s t) ∧
    (b = .cell → (∀ l, t.lane l = {}) ∧ t.cell = {} ∧ Frame [.cell, .lanes] page s t) ∧
    (b = .cap → (s.gmem.selfRefresh = false ∨ s.gmem.retained = false → t.cap = {} ∧
        ∀ a, capBase ≤ a → a < capBase + 0x10000 → t.rd a = (regReset a).toNat) ∧
      -- the ring that self-refresh has kept stands frozen, FCAUSE 3, until the scan has found its end (R238)
      (s.gmem.selfRefresh = true → s.gmem.retained = true → t.bit capStatus 31 = true ∧ t.fld capStatus 30 28 = 3 ∧ t.cap.scan = true) ∧
      Frame [.cap] page s t) ∧
    (b = .chn → t.rd chnAddr = s.rd chnAddr ∧ t.rd chnPilot = s.rd chnPilot ∧ Frame [.lanes, .chain, .pins, .freeCtr] page s t) ∧
    (b = .evt → t.pins = { ext := s.pins.ext, extOn := s.pins.extOn, kept := s.pins.kept, bridge := s.pins.bridge } ∧ Frame [.pins] page s t) ∧
    (b = .plt → (∀ c, t.plot c = {}) ∧ t.io.ser = s.io.ser ∧ Frame [.io] page s t) ∧
    (b = .ser → (∀ c : Fin 6, t.io.ser[c] = {}) ∧ t.io.plot = s.io.plot ∧ Frame [.io] page s t) ∧
    (b = .mem → t.gmem.retained = s.gmem.retained ∧ t.gmem.selfRefresh = s.gmem.retained ∧ t.bit memStatus 31 = false ∧
      t.bit memStatus 30 = s.gmem.retained ∧
      (s.gmem.retained = true → (∀ a, t.byte a = s.byte a) ∧ Frame [.gmem] page s t) ∧
      -- what was not retained is lost: no chart, no record (R261)
      (s.gmem.retained = false → (∀ a, t.byte a = if a < gddrEnd then 0 else s.byte a) ∧ t.bufState .bufA = 0 ∧ t.bufState .bufB = 0 ∧
        t.rd chrtGen = 0 ∧ t.rd capWptr = 0 ∧ t.rd capOldest = 0 ∧ t.cap.any = false ∧
        Frame [.mem, .chart, .cap, .gmem, .flaws] (fun a => page a ∨ pagesOf [chrtBase, capBase] a) s t)) ∧
    -- PER_STATUS.PACE reads the boot pace until the next switch (R59, log entry 97)
    (b = .per → t.per = perReset s.per.pace ∧ t.fld perStatus 17 16 = Nat.min (s.fld bootCfg 3 2) 2 ∧ Frame [.per] page s t))

/-- SUPPLY_WARNING, SUPPLY_RESET_CROSSING, MAIN_INPUT_RESTORED, IDLE, RUN, STBY, DORM, IDLE_TIMEOUT, STANDBY_TIMEOUT, DORMANT_TIMEOUT,
WAKE_TIMER, WAKE_PIN, WAKE_TAKEN (R435, R456, R457, R460 to R464, R522). -/
def Obligations.SuppliesAndPower : Prop :=
  ∀ (s : State),
  let k := s.clk
  let gives (i : Instr) (k' : Clk) : Prop := ∃ t, exec i s = .next t ∧ t.clk = k' ∧ Frame [.clk] noReg s t
  let wrong (i : Instr) : Prop := (k.cdUp = true → ∃ t, exec i s = .next t ∧ t.bit pwrStatus 0 = true ∧ Frame [] (regsOf [pwrStatus]) s t) ∧
    (k.cdUp = false → exec i s = .next s)
  let armed := if s.bit pwrWakecfg 2 ∧ s.bit pwrWakecfg 3 ∧ k.pinLevel ∧ (List.range 10).any (fun n => s.fld (mpinPcfg n) 1 0 == 2) = true then 8 else 0
  let sleeps (i : Instr) (p : Power) : Prop := ∃ t, exec i s = .next t ∧ t.clk.power = p ∧ t.clk.cdUp = false ∧ t.clk.wakes = armed ∧
    t.saf.active.testBit 18 = true ∧ (∀ n : CoreN, n.val < 8 → t.core n = {}) ∧
    (∀ n : CoreN, 8 ≤ n.val → t.core n = { s.core n with
      pend := (s.core n).pend.map fun x => if x.addr < 0x5000000000 then { x with lost := true } else x }) ∧ (∀ a, 0x1000000000 ≤ a → a < 0x1004000000 → t.byte a = 0) ∧
    (p = .standby → t.gmem.retained = (if s.gmem.selfRefresh then s.gmem.retained else k.cdUp && s.bit memStatus 31)) ∧
    (p = .dormant → t.gmem.retained = false ∧ ∀ a, a < gddrEnd → t.byte a = 0)
  (k.power = .off → ∀ u, exec (.supplyWarning u) s = .next s ∧ exec (.supplyResetCrossing u) s = .next s) ∧
  (k.power ≠ .off →
    (∀ u, u = .main48 ∨ u = .computeCore → ∃ t, exec (.supplyWarning u) s = .next t ∧ t.bit pwrStatus (if u = .main48 then 5 else 3) = true ∧
      Frame [.mem, .freeCtr] (regsOf [pwrStatus, nvrEvhead]) s t) ∧
    (∀ u, u = .standby12 ∨ u = .binnacleCore → ∃ t, exec (.supplyWarning u) s = .next t ∧ t.bit pwrStatus (if u = .standby12 then 4 else 2) = true ∧
      t.bit flsStatus 10 = true ∧ t.flash = { s.flash with warn := true } ∧
      (∀ f, s.flash.op = some f → f.op ≠ 5 → ¬ (f.op = 6 ∧ f.phase = 0) → t.bit flsStatus 29 = true ∧ t.bit flsStatus 31 = false) ∧
      Frame [.mem, .flash, .freeCtr] (regsOf [pwrStatus, nvrEvhead, flsStatus]) s t) ∧
    (s.saf.islandFault = false → ∃ t, exec (.supplyResetCrossing .main48) s = .next t ∧ t.bit safCause 9 = true ∧ t.clk.mainLost = true ∧
      t.saf.active.testBit 9 = true ∧ t.clk.wasRun = (decide (k.power = .run ∨ k.power = .idle) || k.mainLost && k.wasRun) ∧
      (k.power = .run ∨ k.power = .idle ∨ k.power = .starting → t.clk.power = .standby ∧ t.clk.cdUp = false ∧ t.boot.active = false ∧
        t.boot.retry = false) ∧
      (k.power = .standby ∨ k.power = .dormant ∨ k.power = .recovery → t.clk.power = k.power ∧ causeRaised 9 0 0 s t)) ∧
    (s.saf.islandFault = false → k.cdUp = true → ∃ t, exec (.supplyResetCrossing .computeCore) s = .next t ∧ causeRaised 9 0 0 s t ∧ t.saf.active.testBit 9 = true ∧
      t.clk = { k with cdRstReq := true }) ∧
    (k.cdUp = false → exec (.supplyResetCrossing .computeCore) s = .next s) ∧
    (∀ u, u = .standby12 ∨ u = .binnacleCore → ∃ t, exec (.supplyResetCrossing u) s = .next t ∧
      -- REFSEL is kept for the choice at the release of the reset (R447)
      t.clk = { power := .off, mainLost := k.mainLost, refSel := s.bit clkCtrl 0 } ∧ t.saf = { islandFault := true, keepalive := false } ∧ t.flash = {} ∧ t.port = {} ∧ t.boot.active = false ∧ t.notices = [] ∧ t.gmem.retained = false ∧
      (∀ n, t.core n = {}) ∧ (∀ a, t.rd a = (regReset a).toNat) ∧ ∀ a, t.byte a = if nonVolatile a then s.byte a else memReset a)) ∧
  (k.mainLost = true → ∃ t, exec .mainInputRestored s = .next t ∧ t.clk =
      { k with mainLost := false, wasRun := false, wakes := if k.wasRun ∧ k.power = .standby then k.wakes ||| 64 else k.wakes } ∧
    t.saf = { s.saf with active := s.saf.active &&& (allBits ^^^ 2 ^ 9) } ∧ Frame [.saf, .clk] noReg s t) ∧
  (k.mainLost = false → exec .mainInputRestored s = .next s) ∧
  (k.power = .run → gives .idle { k with idlePend := true }) ∧ (k.power ≠ .run → wrong .idle) ∧
  (k.power = .idle → gives .run { k with wakes := k.wakes ||| 32 }) ∧ (k.power ≠ .idle → wrong .run) ∧
  (k.power = .run ∨ k.power = .idle → sleeps .stby .standby ∧ sleeps .dorm .dormant) ∧
  (k.power ≠ .run → k.power ≠ .idle → wrong .stby ∧ wrong .dorm) ∧
  (let n := s.fld pwrIdletmo 23 0;
    (k.power = .run → n ≠ 0 → n ≤ k.idlePeriods → gives .idleTimeout { k with idlePend := true }) ∧
    (k.power ≠ .run ∨ n = 0 ∨ k.idlePeriods < n → exec .idleTimeout s = .next s)) ∧
  (k.power = .idle → s.fld pwrStbytmo 15 0 ≠ 0 → sleeps .standbyTimeout .standby) ∧
  (k.power ≠ .idle ∨ s.fld pwrStbytmo 15 0 = 0 → exec .standbyTimeout s = .next s) ∧
  (k.power = .standby → s.fld pwrStbytmo 31 16 ≠ 0 → sleeps .dormantTimeout .dormant) ∧
  (k.power ≠ .standby ∨ s.fld pwrStbytmo 31 16 = 0 → exec .dormantTimeout s = .next s) ∧
  (s.fld pwrWakecfg 31 16 ≠ 0 → s.lowPower = true → gives .wakeTimer { k with wakes := k.wakes ||| 16 }) ∧
  (s.fld pwrWakecfg 31 16 = 0 ∨ s.lowPower = false → exec .wakeTimer s = .next s) ∧
  (∀ level edge, ((List.range 10).any (fun n => s.fld (mpinPcfg n) 1 0 == 2) = true →
      gives (.wakePin level edge) { k with
        pinLevel := level
        wakes := if s.lowPower ∧ s.bit pwrWakecfg 2 ∧ (if s.bit pwrWakecfg 3 then level else edge) then k.wakes ||| 8 else k.wakes }) ∧
    ((∀ n < 10, s.fld (mpinPcfg n) 1 0 ≠ 2) → gives (.wakePin level edge) { k with pinLevel := false })) ∧
  -- Standby and Dormant cannot be left without the 48 V input (R522)
  (s.lowPower = false ∨ (k.mainLost = true ∧ k.power ≠ .idle) ∨ (∀ c < 7, k.wakes.testBit c = false) → exec .wakeTaken s = .next s) ∧
  (∀ c < 7, k.wakes.testBit c = true → (∀ d < c, k.wakes.testBit d = false) → ∀ p, k.power = p → s.lowPower = true →
    k.mainLost = false ∨ p = .idle → ∃ t, exec .wakeTaken s = .next t ∧ t.clk.wakes = 0 ∧ (p ≠ .dormant → t.rd pwrWakesrc = c + 256 * powerCode p) ∧
      (p = .idle → t.clk = { k with wakes := 0, runPend := true } ∧ Frame [.mem, .clk] (regsOf [pwrWakesrc]) s t) ∧
      (p = .standby → t.clk = { k with wakes := 0, power := .starting, cdRstReq := true } ∧ Frame [.mem, .clk] (regsOf [pwrWakesrc]) s t) ∧
      -- the Binnacle goes through its reset: the record that R463 has written is in the record store, with all that is non-volatile
      (p = .dormant → t.clk.power = .off ∧ t.clk.cdUp = false ∧ (∀ a, t.rd a = (regReset a).toNat) ∧
        ∀ a, t.byte a = if nonVolatile a then (s.writeWake c (powerCode p)).byte a else memReset a))

/-- What the bus refuses (R10, R27, R28, R523), and REGISTER_WRITE under it. -/
def Obligations.AccessRefusals : Prop :=
  ∀ (s : State) (r : Requester) (a : Nat),
  (∀ n k bs, isPage a = true → n ≠ 4 ∨ a % 4 ≠ 0 → bs.length = n → s.busRead r a n k = (none, s) ∧ s.busWrite r a bs k = (false, s)) ∧
  (∀ n k bs, a < 0x5000000000 → s.clk.cdUp = false → s.busRead r a n k = (none, s) ∧ s.busWrite r a bs k = (false, s)) ∧
  -- period SRAM and cluster scratch take aligned accesses of 1, 2, 4 and 8 bytes, and of 64 from the DMA paths
  (∀ n k bs, s.clk.cdUp = true → isPeriodSram a = true ∨ isScratch a = true → bs.length = n →
    let good : Prop := a % n = 0 ∧ (n = 1 ∨ n = 2 ∨ n = 4 ∨ n = 8 ∨ n = 64 ∧ r = .dma)
    (¬ good → s.busRead r a n k = (none, s) ∧ (isPeriodSram a = true → s.busWrite r a bs k = (false, s))) ∧
    (good → k = {} → s.bad a n = false → (s.busRead r a n k).1.isSome = true) ∧ (isScratch a = true → s.busWrite r a bs k = (true, s))) ∧
  (∀ bs k, pageBase a = safBase → r ≠ .island → s.busWrite r a bs k = (false, s)) ∧
  (∀ k, pageBase a = safBase → a % 4 = 0 → (s.busRead r a 4 k).1.isSome = true) ∧
  (∀ (addr : BitVec 40) (v set clr : Word) (chk : Check), let p := addr.toNat
    let write := exec (.registerWrite r addr v set clr [] chk) s
    let read := exec (.registerReadClear r addr set chk) s
    (s.clk.power = .off ∨ (p < 0x5000000000 ∧ s.clk.cdUp = false) → write = .next s ∧ read = .next s) ∧
    -- a channel of GDDR6 that retrains holds its accesses back, and the latch of a slot holds writes to it back
    (s.memReady = true → s.gmem.retraining[s.chanOf p] = true → p < 0x0380000000 → write = .next s ∧ read = .next s) ∧
    (∀ q : Slot, s.phase q = 1 → 0x1000000000 + 0x10000 * q.val ≤ p → p < 0x1000010000 + 0x10000 * q.val → write = .next s) ∧
    -- nothing but what the hardware does in the same cycle reaches the register
    (s.clk.power ≠ .off → (isPage p = true ∧ p % 4 ≠ 0) ∨ (pageBase p = safBase ∧ r ≠ .island) →
      ∃ t, write = .next t ∧ (∀ d k, regDesc p = some (d, k) → t.rd p = s.rd p ||| (set.toNat &&& d.w1c)) ∧
        (regDesc p = none → t = s) ∧ Frame [] (regsOf [p]) s t))

/-- REGISTER_WRITE and REGISTER_READ_CLEAR by the access codes, and the accesses of one cycle (R9, R11, R13, R14, R29). -/
def Obligations.RegisterAccess : Prop :=
  ∀ (s : State) (r : Requester) (addr : BitVec 40) (v set clr : Word) (chk : Check), s.clk.power ≠ .off → s.clk.cdUp = true → addr.toNat % 4 = 0 →
  let a := addr.toNat
  let b := pageBase a
  let write (set clr : Word) := exec (.registerWrite r addr v set clr [] chk) s
  s.pageReset b = false → s.pageGated b = false →
  (b = sysBase ∨ (b = chrtBase ∧ a ≠ chrtBase + 8) →
    (∀ d k, regDesc a = some (d, k) →
      let m := d.rw ||| (if s.bit (lockReg a) 31 then 0 else d.rwl)
      let wrote := (((s.rd a &&& (allBits ^^^ m)) ||| (v.toNat &&& m)) ||| (v.toNat &&& d.w1s)) &&& (allBits ^^^ (v.toNat &&& d.w1c))
      -- a W1C bit that the hardware sets meanwhile is 1; none of these pages has a W1S bit that the hardware clears
      ∃ t, write set clr = .next t ∧ t.rd a = (wrote ||| (set.toNat &&& d.w1c)) % 2 ^ 32 ∧ Frame [] (regsOf [a]) s t) ∧
    (regDesc a = none → write set clr = .next s) ∧
    -- two writes of one cycle: the island, the management sequencer, the port, the chain, the DMA paths, then the cores in ascending number
    (∀ (r' : Requester) (v' : Word) (chk' : Check),
      let rank : Requester → Nat := fun | .island => 0 | .mgmt => 1 | .port => 2 | .chain _ => 3 | .dma => 4 | .core n => 5 + n
      let both (x y : Requester) (vx vy : Word) : Prop := ∃ w t u,
        exec (.registerWrite r addr v 0 0 [{ r := r', addr, v := some v', chk := chk' }] chk) s = .next w ∧
        exec (.registerWrite x addr vx 0 0 [] chk) s = .next t ∧ exec (.registerWrite y addr vy 0 0 [] chk') t = .next u ∧ (∀ x, w.rd x = u.rd x) ∧
        Frame [] (regsOf [a]) s w
      (rank r ≤ rank r' → both r r' v v') ∧ (rank r' < rank r → both r' r v' v))) ∧
  -- a W1S bit that the hardware clears meanwhile is 1 when the write sets it: the RUN bits of the cores and of the Plot channels
  (a = hlmRun → ∀ n : Fin 8, let m : CoreN := toFin 10 n
    clr.getLsbD n = true → (s.core m).running = true → ∃ t, write set clr = .next t ∧ (t.core m).running = v.getLsbD n) ∧
  (∀ (e : Fin 4) (c : Fin 16), a = pltBase + 0x10 + 16 * e.val → ∃ t, write set clr = .next t ∧ Frame [.io] noReg s t ∧
    (t.plot (chanIdx e c)).run = if clr.getLsbD c ∧ v.getLsbD c = false then false else (s.plot (chanIdx e c)).run || v.getLsbD c) ∧
  (b ∈ [sysBase, srchBase, cellBase, capBase, memBase, chnBase, clkBase, bootBase] → let read := exec (.registerReadClear r addr set chk) s
    (∀ d k, regDesc a = some (d, k) → ∃ t, read = .next t ∧
      t.rd a = (if d.rc = 0 then s.rd a else (s.rd a &&& (allBits ^^^ (d.rc % 2 ^ 32))) ||| (set.toNat &&& d.rc) % 2 ^ 32) ∧ Frame [] (regsOf [a]) s t) ∧
    (regDesc a = none → read = .next s))

/-- PIN_CONFIG_WRITE, EVENT_INPUT_EDGE, EVENT_CHANNEL, EVENT_OUTPUT_PULSE_END, BRIDGE_EVENT, SOFTWARE_EVENT, STORM_REENABLE,
SUBSCRIPTION_WRITE, PRODUCER_WRITE (R468, R470, R471, R473 to R475, R477 to R481, R484). -/
def Obligations.PinsAndEvents : Prop :=
  ∀ (s : State),
  -- producer `code` has fired
  let fired (code : Nat) (t : State) : Prop := ∀ c : Fin 32, t.pins.evts[c] = s.pins.evts[c] + if s.chanOn c then producers s c code else 0
  -- two pins select one input signal
  let clash (u : State) (g : Nat × Nat) : Prop := ∃ m < 96, ∃ n < 96, m ≠ n ∧ u.pinSel m = some g ∧ u.pinSel n = some g
  -- the pin has a keeper and is driven
  let held (n : Nat) : Prop := n < 96 ∧ s.fld (pinCfg n) 21 20 = 3 ∧ (s.pinDrive n fun _ => 0).isSome = true
  -- before event output line i changes, the keepers of its pins take the level it has driven them to
  let keepers (i : Nat) (t : State) : Prop := ∀ n : Nat,
    (held n → s.pinFunc n = 4 → n % 32 = i → t.pins.kept.testBit n = s.padLevel n fun _ => 0) ∧
    (¬ (held n ∧ s.pinFunc n = 4 ∧ n % 32 = i) → t.pins.kept.testBit n = s.pins.kept.testBit n)
  (∀ (n : Fin 96) (v : Word), let x := v.toNat
    let i := Instr.pinConfigWrite n v
    (s.clk.cdUp = false ∨ s.bit pinCtrl 31 = true → exec i s = .next s) ∧
    (s.clk.cdUp = true → s.bit pinCtrl 31 = false →
      (6 ≤ x % 16 → ∃ t, exec i s = .next t ∧ t.bit pinStatus 0 = true ∧ Frame [] (regsOf [pinStatus]) s t) ∧
      (x % 16 < 6 → ∃ t, exec i s = .next t ∧ t.rd (pinCfg n) = x &&& 0x0FFF000F ∧
        (x % 16 = s.pinFunc n → ¬ held n → t.pins = s.pins ∧ t.freeCtr = s.freeCtr) ∧
        -- a change of FUNC, and one of the signal of a driven pin with a keeper, keeps the pad's level
        (x % 16 ≠ s.pinFunc n ∨ held n → ∃ f : Nat → Nat, t.pins.kept.testBit n = s.padLevel n f) ∧ t.pins = { s.pins with kept := t.pins.kept } ∧
        (∀ m : Nat, m ≠ n → t.pins.kept.testBit m = s.pins.kept.testBit m) ∧
        (t.bit pinConflict 30 = true ↔ ∃ g, clash t g) ∧ (∀ g, clash t g → ¬ clash s g → t.bit pinConflict 31 = true) ∧
        Frame [.pins, .freeCtr] (regsOf [pinCfg n, pinConflict]) s t))) ∧
  (∀ (n : Fin 96) (rising : Bool), ∃ t, exec (.eventInputEdge n rising) s = .next t ∧
    let isEdge : Prop := s.pins.extOn.testBit n = false ∨ s.pins.ext.testBit n ≠ rising
    let up := rising != s.bit (pinCfg n) 23
    let e := s.fld (pinCfg n) 25 24
    let fits : Prop := (e = 0 ∧ up = true) ∨ (e = 1 ∧ up = false) ∨ e = 2
    let sole : Prop := ∀ m < 96, m ≠ n.val → m % 32 = n.val % 32 → s.pinFunc m ≠ 3
    t.pins.ext.testBit n = rising ∧ t.pins.extOn.testBit n = true ∧
    (∀ m : Nat, m ≠ n → t.pins.ext.testBit m = s.pins.ext.testBit m ∧ t.pins.extOn.testBit m = s.pins.extOn.testBit m) ∧
    (s.live .evt = true → s.pinFunc n = 3 → sole → isEdge → fits → fired (0x40 + n.val % 32) t) ∧
    (s.pinFunc n ≠ 3 ∨ ¬ sole ∨ ¬ isEdge ∨ ¬ fits → t.pins.evts = s.pins.evts) ∧ Frame [.pins] noReg s t) ∧
  (∀ i : Fin 32, (s.live .evt = true → s.pins.pulses.testBit i = true → ∃ t, exec (.eventOutputPulseEnd i) s = .next t ∧
      t.pins.lines.testBit i = false ∧ t.pins.pulses.testBit i = false ∧
      (∀ j : Nat, j ≠ i → t.pins.lines.testBit j = s.pins.lines.testBit j ∧ t.pins.pulses.testBit j = s.pins.pulses.testBit j) ∧
      keepers i t ∧ Frame [.pins, .freeCtr] noReg s t) ∧
    (s.live .evt = false ∨ s.pins.pulses.testBit i = false → exec (.eventOutputPulseEnd i) s = .next s)) ∧
  (∀ code : Byte, let c := code.toNat
    (c ∉ s.pins.bridge → exec (.bridgeEvent code) s = .next s) ∧
    (c ∈ s.pins.bridge → c < 16 → ∃ t, exec (.bridgeEvent code) s = .next t ∧ t.pins = { s.pins with bridge := s.pins.bridge.erase c } ∧
      t.core 8 = { s.core 8 with ipend := (s.core 8).ipend ||| BitVec.ofNat 32 (2 ^ c) } ∧ onlyCore 8 s t ∧ Frame [.cores, .pins] noReg s t) ∧
    (c ∈ s.pins.bridge → 16 ≤ c → ∃ t, exec (.bridgeEvent code) s = .next t ∧ t.pins.bridge = s.pins.bridge.erase c ∧
      (s.live .evt = true → fired c t) ∧ (s.live .evt = false → t.pins.evts = s.pins.evts) ∧ Frame [.pins] noReg s t)) ∧
  (∀ mask : Byte, ∃ t, exec (.softwareEvent mask) s = .next t ∧
      (s.live .evt = true → ∀ c : Fin 32, t.pins.evts[c] = s.pins.evts[c] +
        if s.chanOn c then sumN ((List.range 8).map fun j => if mask.getLsbD j then producers s c (0xA0 + j) else 0) else 0) ∧
      (s.live .evt = false → t.pins.evts = s.pins.evts) ∧
      -- it did the actions of tasks 272 + j
      t.pins = { s.pins with evts := t.pins.evts, wrote :=
        if mask = 0 then s.pins.wrote else ((List.range 8).filter fun j => mask.getLsbD j).map (272 + ·) } ∧ Frame [.pins] noReg s t) ∧
  (∀ mask : Word, (s.live .evt = true → ∃ t, exec (.stormReenable mask) s = .next t ∧
      t.rd evtStorm = s.rd evtStorm &&& (allBits ^^^ mask.toNat) ∧
      -- the events it carried in the last 1 us still count
      Frame [] (regsOf [evtStorm]) s t) ∧
    (s.live .evt = false → exec (.stormReenable mask) s = .next s)) ∧
  (∀ (k : Fin 280) (v : Word), let i := Instr.subscriptionWrite k v
    let new := subSlots (v.toNat &&& 0x9F9F)
    let n (c : Nat) : Nat := s.ncons c - (subSlots (s.rd (evtTsub k))).count c + new.count c
    let fits (c : Nat) : Prop := n c ≤ s.ncons c ∨ n c ≤ if s.bit (evtChcfg c) 30 then 1 else 8
    (s.live .evt = false ∨ s.bit evtCtrl 31 = true → exec i s = .next s) ∧
    (s.live .evt = true → s.bit evtCtrl 31 = false →
      ((∀ c ∈ new, fits c) → ∃ t, exec i s = .next t ∧ t.rd (evtTsub k) = v.toNat &&& 0x9F9F ∧ Frame [] (regsOf [evtTsub k]) s t) ∧
      ((∃ c ∈ new, ¬ fits c) → ∃ t, exec i s = .next t ∧ t.bit evtStatus 0 = true ∧ Frame [] (regsOf [evtStatus]) s t))) ∧
  (∀ (c : Fin 32) (v : Word), let i := Instr.producerWrite c v
    let listed (x : Nat) : Prop := x ≤ 0x06 ∨ (0x08 ≤ x ∧ x ≤ 0x0B) ∨ x = 0x0C ∨ x = 0x0D ∨ (0x10 ≤ x ∧ x ≤ 0x13) ∨ (0x14 ≤ x ∧ x ≤ 0x17) ∨
      (0x18 ≤ x ∧ x ≤ 0x1C) ∨ (0x20 ≤ x ∧ x ≤ 0x27) ∨ (0x28 ≤ x ∧ x ≤ 0x2C) ∨ (0x30 ≤ x ∧ x ≤ 0x35) ∨ (0x40 ≤ x ∧ x ≤ 0x5F) ∨
      (0x60 ≤ x ∧ x ≤ 0x9F) ∨ (0xA0 ≤ x ∧ x ≤ 0xA7)
    let good : Prop := ∀ j < 4, listed (v.toNat / 256 ^ j % 256)
    (s.live .evt = false ∨ s.bit evtCtrl 31 = true → exec i s = .next s) ∧
    (s.live .evt = true → s.bit evtCtrl 31 = false →
      (good → ∃ t, exec i s = .next t ∧ t.rd (evtChprod c) = v.toNat ∧ Frame [] (regsOf [evtChprod c]) s t) ∧
      (¬ good → ∃ t, exec i s = .next t ∧ t.bit evtStatus 0 = true ∧ Frame [] (regsOf [evtStatus]) s t))) ∧
  (∀ (c : Fin 32) (dt now : Nat) (same : Bool), let i := Instr.eventChannel c dt now same
    let n := s.pins.evts[c]
    let told := { s.per with now := Nat.max s.per.now now }
    let wrote := if same then s.pins.wrote else []
    let span := if s.per.pace = 0 then 1500 else if s.per.pace = 1 then 1100 else 700
    let recent := s.pins.storm[c].filter fun a => decide (a + dt < span)
    (s.live .evt = false ∨ n = 0 → ∃ t, exec i s = .next t ∧ t.per = told ∧ t.pins = { s.pins with wrote } ∧ Frame [.per, .pins] noReg s t) ∧
    (s.live .evt = true → 0 < n →
      (s.chanOn c = false → ∃ t, exec i s = .next t ∧ t.per = told ∧ Frame [.per, .pins] noReg s t) ∧
      (s.chanOn c = true → 64 ≤ recent.length → ∃ t, exec i s = .next t ∧ t.per = told ∧ t.bit evtStorm c = true ∧
        (∀ d, d ≠ c.val → t.bit evtStorm d = s.bit evtStorm d) ∧ t.pins.storm = s.pins.storm ∧ Frame [.per, .pins] (regsOf [evtStorm]) s t) ∧
      (s.chanOn c = true → recent.length < 64 → ∃ t, exec i s = .next t ∧
        Frame [.mem, .per, .probs, .cls, .cap, .cores, .pins, .io, .freeCtr] (pagesOf [perBase, srchBase, cellBase, capBase, evtBase, pltBase]) s t ∧
        ((∀ r ∈ s.subs, c.val ∉ r.2) → t.per = told ∧ Frame [.per, .pins] noReg s t ∧
          t.pins.storm[c] = 0 :: recent.map fun a => a + dt) ∧
        -- one task alone is subscribed, and has not acted in this cycle
        (∀ k chs, s.subs.filter (fun r => r.2.contains c.val) = [(k, chs)] → (k, c.val) ∉ s.pins.served → k ∉ wrote →
          let merged : Prop := t.fld (evtTmrg k) 15 0 = Nat.min (s.fld (evtTmrg k) 15 0 + (n * chs.count c.val - 1)) 65535
          (128 ≤ k → k < 256 → let m : CoreN := toFin 10 ((k - 128) / 16)
            t.core m = { s.core m with ipend := (s.core m).ipend ||| BitVec.ofNat 32 (2 ^ ((k - 128) % 16)) } ∧ onlyCore m s t ∧ merged ∧
            Frame [.per, .cores, .pins] (regsOf [evtTmrg k]) s t) ∧
          (32 ≤ k → k < 64 → let m := s.fld (evtOutcfg (k - 32)) 9 8
            t.pins.lines.testBit (k - 32) = (if m = 0 ∨ m = 2 then true else if m = 1 then !s.pins.lines.testBit (k - 32) else false) ∧
            t.pins.pulses.testBit (k - 32) = (if m = 0 then true else s.pins.pulses.testBit (k - 32)) ∧
            (∀ j, j ≠ k - 32 → t.pins.lines.testBit j = s.pins.lines.testBit j) ∧ keepers (k - 32) t ∧ merged ∧
            Frame [.per, .pins, .freeCtr] (regsOf [evtTmrg k]) s t)))))

/-- BRANCH to SIGNAL of the Plot engines, and PLOT_SLOT (R466, R485 to R489, R492, R495). -/
def Obligations.PlotInstructions : Prop :=
  ∀ (s : State) (e : Fin 4) (c : Fin 16) (dly : Fin 16) (now : Nat),
  let k := chanIdx e c
  let q := s.plot k
  let inp := s.plotInput k
  let other (j : Fin 16) : Fin 64 := chanIdx e j
  let pc := if q.pc = s.fld (pltChan k 0) 14 8 then s.fld (pltChan k 0) 6 0 else (q.pc + 1) % 128
  let told := { s.per with now := Nat.max s.per.now now }
  -- nothing else of the Plot engines or the serial channels changes
  let alone (t : State) : Prop := (∀ j, j ≠ k → t.plot j = s.plot j) ∧ t.io = { s.io with plot := t.io.plot }
  let leaves (i : Instr) (q' : PlotCh) : Prop := ∃ t, exec i s = .next t ∧ t.plot k = q' ∧ alone t ∧ Frame [.io] noReg s t
  -- the instruction completes with q', and its DLY slots follow; or it stalls; or it is illegal and halts the channel
  let ends (q' : PlotCh) : PlotCh := { q' with pc, wait := 0, markSeen := none, dly }
  let does (i : Instr) (q' : PlotCh) : Prop := leaves i (ends q')
  let stalls (i : Instr) (w : Nat) (seen : Option Bool) : Prop := leaves i { q with wait := w, markSeen := seen }
  let halted : PlotCh := { q with run := false, wait := 0, markSeen := none }
  let illegal (i : Instr) : Prop := ∃ t, exec i s = .next t ∧ t.plot k = halted ∧ t.bit (pltChan k 0x1C) 4 = true ∧ t.bit pltStatus 1 = true ∧
    alone t ∧ Frame [.io] (regsOf [pltChan k 0x1C, pltStatus]) s t
  -- before the channel's signal changes, the keepers of its pins take the level it has driven them to
  let keepers (t : State) : Prop := t.pins = { s.pins with kept := t.pins.kept } ∧ ∀ n : Nat,
    let held : Prop := n < 96 ∧ s.fld (pinCfg n) 21 20 = 3 ∧ s.pinSel n = some (1, k.val) ∧ (s.pinDrive n fun _ => 0).isSome = true
    (held → t.pins.kept.testBit n = s.padLevel n fun _ => 0) ∧ (¬ held → t.pins.kept.testBit n = s.pins.kept.testBit n)
  let drives (i : Instr) (q' : PlotCh) : Prop := ∃ t, exec i s = .next t ∧ t.plot k = ends q' ∧ alone t ∧ keepers t ∧
    Frame [.pins, .io, .freeCtr] noReg s t
  let issues : Prop := s.live .plt = true ∧ q.run = true ∧ q.dly = 0
  let join := s.fld (pltChan k 0) 17 16
  let room := if join = 1 then 0 else if join = 2 then 8 else 4
  (¬ issues → (∀ cond tgt, exec (.branch e c dly cond tgt) s = .next s) ∧ (∀ src pol j, exec (.hold e c dly src pol j) s = .next s) ∧
    (∀ oe v, exec (.drive e c dly oe v) s = .next s) ∧ (∀ d l j, exec (.shift e c dly d l j) s = .next s) ∧
    (∀ nb l, exec (.take e c dly nb l) s = .next s) ∧ (∀ nb, exec (.give e c dly nb) s = .next s) ∧
    (∀ d r, exec (.copy e c dly d r now) s = .next { s with per := told }) ∧ (∀ b i, exec (.load e c dly b i) s = .next s) ∧
    ∀ kind, exec (.signal e c dly kind) s = .next s) ∧
  (issues →
    (∀ tgt : BitVec 7, let jump (cond : Fin 8) (q' : PlotCh) : Prop := leaves (.branch e c dly cond tgt) { ends q' with pc := tgt.toNat }
      let test (cond : Fin 8) (b : Bool) : Prop := (b = true → jump cond q) ∧ (b = false → does (.branch e c dly cond tgt) q)
      jump 0 q ∧ (q.a ≠ 0 → jump 1 { q with a := q.a - 1 }) ∧ (q.a = 0 → does (.branch e c dly 1 tgt) q) ∧
      (q.b ≠ 0 → jump 2 { q with b := q.b - 1 }) ∧ (q.b = 0 → does (.branch e c dly 2 tgt) q) ∧
      test 3 inp ∧ test 4 (!inp) ∧ test 5 (decide (q.sc ≠ 0)) ∧ test 6 (decide (q.txq ≠ [])) ∧ test 7 (decide (q.a ≠ q.b))) ∧
    (∀ (pol : Bool) (j : Fin 16),
      (s.plotInput (other j) = pol → does (.hold e c dly 0 pol j) q) ∧ (s.plotInput (other j) ≠ pol → stalls (.hold e c dly 0 pol j) 1 none) ∧
      ((s.plot (other j)).fl = pol → does (.hold e c dly 2 pol j) q) ∧ ((s.plot (other j)).fl ≠ pol → stalls (.hold e c dly 2 pol j) 1 none) ∧
      -- a HOLD on EP or on the mark has no POL and no IDX
      (pol = true ∨ j ≠ 0 → illegal (.hold e c dly 1 pol j) ∧ illegal (.hold e c dly 3 pol j))) ∧
    (q.ep = true → does (.hold e c dly 1 false 0) { q with ep := false }) ∧ (q.ep = false → stalls (.hold e c dly 1 false 0) 1 none) ∧
    (q.markSeen = some true → does (.hold e c dly 3 false 0) q) ∧ (q.markSeen ≠ some true → stalls (.hold e c dly 3 false 0) 1 (some false)) ∧
    (∀ oe v, drives (.drive e c dly oe v) { q with oe, out := v }) ∧
    -- a SHIFT out has no IDX
    drives (.shift e c dly false false 0) { q with out := q.sr.getLsbD 31, sr := q.sr <<< 1, sc := q.sc - 1 } ∧
    drives (.shift e c dly false true 0) { q with out := q.sr.getLsbD 0, sr := q.sr >>> 1, sc := q.sc - 1 } ∧
    (∀ j : Fin 16, let b : Word := if s.plotInput (other j) then 1 else 0
      (j ≠ 0 → ∀ lsb, illegal (.shift e c dly false lsb j)) ∧
      does (.shift e c dly true false j) { q with sr := q.sr <<< 1 ||| b, sc := q.sc - 1 } ∧
      does (.shift e c dly true true j) { q with sr := q.sr >>> 1 ||| b <<< 31, sc := q.sc - 1 }) ∧
    (∀ len : Fin 32, (∀ nb w rest, q.txq = w :: rest → does (.take e c dly nb len) { q with sr := w, txq := rest, sc := len + 1 }) ∧
      (q.txq = [] → does (.take e c dly true len) { q with sr := q.a, sc := len + 1 } ∧ stalls (.take e c dly false len) 2 none)) ∧
    ((∀ nb, q.rxq.length < room → does (.give e c dly nb) { q with rxq := q.rxq ++ [q.sr] }) ∧
      (room ≤ q.rxq.length → stalls (.give e c dly false) 3 none ∧ ∃ t, exec (.give e c dly true) s = .next t ∧
        t.plot k = ends q ∧ t.bit (pltChan k 0x1C) 2 = true ∧ alone t ∧ Frame [.io] (regsOf [pltChan k 0x1C]) s t)) ∧
    (∀ src : Fin 7, let x : Word := if src = 0 then q.a else if src = 1 then q.b else if src = 2 then q.sr else
        if src = 3 then BitVec.ofNat 32 q.sc else if src = 4 then (if inp then 1 else 0) else if src = 5 then 0 else BitVec.ofNat 32 told.now
      let copies (dst : Fin 4) (q' : PlotCh) : Prop := ∃ t, exec (.copy e c dly dst src now) s = .next t ∧ t.plot k = ends q' ∧ alone t ∧
        t.per = told ∧ Frame [.per, .io] noReg s t
      copies 0 { q with a := x } ∧ copies 1 { q with b := x } ∧ copies 2 { q with sr := x } ∧ copies 3 { q with sc := Nat.min x.toNat 32 }) ∧
    (∀ imm : BitVec 16, does (.load e c dly false imm) { q with a := imm.zeroExtend 32 } ∧ does (.load e c dly true imm) { q with b := imm.zeroExtend 32 }) ∧
    (∃ t, exec (.signal e c dly 0) s = .next t ∧ t.plot k = ends q ∧ alone t ∧ Frame [.pins, .io] noReg s t ∧
      t.pins = { s.pins with evts := t.pins.evts } ∧
      (s.live .evt = true → ∀ d : Fin 32, t.pins.evts[d] = s.pins.evts[d] + if s.chanOn d then producers s d (0x60 + (16 * e.val + c.val)) else 0) ∧
      (s.live .evt = false → t.pins.evts = s.pins.evts)) ∧
    does (.signal e c dly 1) { q with fl := true } ∧ does (.signal e c dly 2) { q with fl := false } ∧
    leaves (.signal e c dly 3) { q with pc, run := false, wait := 0, markSeen := none }) ∧
  -- a slot of engine e that names channel c
  (s.slotChan e = k →
    let i := Instr.plotSlot e now
    let w := s.rd (pltImem e q.pc)
    let moved (t : State) : Prop := (∀ j, j ≠ k → t.plot j = s.plot j) ∧ t.per = told ∧
      t.io = { s.io with plot := t.io.plot, slot := s.io.slot.set e ((s.io.slot[e] + 1) % 16) }
    let serves (q' : PlotCh) : Prop := ∃ t, exec i s = .next t ∧ t.plot k = q' ∧ moved t ∧ Frame [.per, .io] noReg s t
    -- the instruction word is none of R487
    let bad : Prop := let op := w / 2 ^ 28
      9 ≤ op ∨ (op = 0 ∧ bits w 20 7 ≠ 0) ∨
      (op = 1 ∧ (w.testBit 20 ∨ bits w 15 0 ≠ 0 ∨ (w.testBit 22 ∧ (w.testBit 21 ∨ bits w 19 16 ≠ 0)))) ∨
      (op = 2 ∧ (bits w 23 18 ≠ 0 ∨ bits w 15 0 ≠ 0)) ∨
      (op = 3 ∧ (bits w 21 20 ≠ 0 ∨ bits w 15 0 ≠ 0 ∨ (w.testBit 23 = false ∧ bits w 19 16 ≠ 0))) ∨ (op = 4 ∧ bits w 22 5 ≠ 0) ∨
      (op = 5 ∧ bits w 22 0 ≠ 0) ∨ (op = 6 ∧ (3 < bits w 23 20 ∨ 6 < bits w 19 16 ∨ bits w 15 0 ≠ 0)) ∨ (op = 7 ∧ bits w 22 16 ≠ 0) ∨
      (op = 8 ∧ bits w 21 0 ≠ 0)
    (s.live .plt = false → exec i s = .next { s with per := told }) ∧
    (s.live .plt = true → (q.run = false → serves q) ∧ (q.run = true → 0 < q.dly → serves { q with dly := q.dly - 1 }) ∧
      (issues →
        (bad → ∃ t, exec i s = .next t ∧ t.plot k = halted ∧ t.bit (pltChan k 0x1C) 4 = true ∧
            t.bit pltStatus 1 = true ∧ moved t ∧ Frame [.per, .io] (regsOf [pltChan k 0x1C, pltStatus]) s t) ∧
        (∀ tgt : BitVec 7, w = dly * 2 ^ 24 + tgt.toNat → serves { ends q with pc := tgt.toNat }) ∧
        (∀ oe v : Bool, w = 2 * 2 ^ 28 + dly * 2 ^ 24 + b2n oe * 2 ^ 17 + b2n v * 2 ^ 16 →
          ∃ t, exec i s = .next t ∧ t.plot k = ends { q with oe, out := v } ∧ moved t ∧ keepers t ∧ Frame [.per, .pins, .io, .freeCtr] noReg s t) ∧
        (∀ imm : BitVec 16, w = 7 * 2 ^ 28 + dly * 2 ^ 24 + 2 ^ 23 + imm.toNat → serves (ends { q with b := imm.zeroExtend 32 })) ∧
        (w = 6 * 2 ^ 28 + dly * 2 ^ 24 + 6 * 2 ^ 16 → serves (ends { q with a := BitVec.ofNat 32 told.now })) ∧
        (∀ len : Fin 32, w = 4 * 2 ^ 28 + dly * 2 ^ 24 + len → q.txq = [] → serves { q with wait := 2, markSeen := none }))))

/-- PLOT_RUN, PLOT_HALT, TXQ_WRITE, RXQ_READ, JOIN_WRITE (R492, R493, R495). -/
def Obligations.PlotChannels : Prop :=
  ∀ (s : State) (e : Fin 4) (c : Fin 16),
  let k := chanIdx e c
  let q := s.plot k
  let alone (t : State) : Prop := (∀ j, j ≠ k → t.plot j = s.plot j) ∧ t.io = { s.io with plot := t.io.plot }
  let leaves (i : Instr) (q' : PlotCh) (rs : List Nat) (p : State → Prop) : Prop :=
    ∃ t, exec i s = .next t ∧ t.plot k = q' ∧ alone t ∧ p t ∧ Frame [.io] (regsOf rs) s t
  let join := s.fld (pltChan k 0) 17 16
  let txRoom := if join = 1 then 8 else if join = 2 then 0 else 4
  let each (i : Instr) (mask : BitVec 16) (f : PlotCh → PlotCh) : Prop := ∃ t, exec i s = .next t ∧
    (∀ j : Fin 16, t.plot (chanIdx e j) = if mask.getLsbD j then f (s.plot (chanIdx e j)) else s.plot (chanIdx e j)) ∧
    (∀ (e' : Fin 4) (j : Fin 16), e' ≠ e → t.plot (chanIdx e' j) = s.plot (chanIdx e' j)) ∧
    t.io = { s.io with plot := t.io.plot } ∧ Frame [.io] noReg s t
  (s.live .plt = false → (∀ m, exec (.plotRun e m) s = .next s ∧ exec (.plotHalt e m) s = .next s) ∧ (∀ v, exec (.txqWrite e c v) s = .next s) ∧
    exec (.rxqRead e c) s = .next s ∧ ∀ j, exec (.joinWrite e c j) s = .next s) ∧
  (s.live .plt = true →
    (∀ m, each (.plotRun e m) m (fun q => { q with run := true }) ∧
      each (.plotHalt e m) m fun q => { q with run := false, dly := 0, wait := 0, markSeen := none }) ∧
    (∀ v, (q.txq.length < txRoom → leaves (.txqWrite e c v) { q with txq := q.txq ++ [v] } [] fun _ => True) ∧
      (txRoom ≤ q.txq.length → leaves (.txqWrite e c v) q [pltChan k 0x1C] fun t => t.bit (pltChan k 0x1C) 0 = true)) ∧
    (∀ w rest, q.rxq = w :: rest → leaves (.rxqRead e c) { q with rxq := rest } [] fun _ => True) ∧
    (q.rxq = [] → leaves (.rxqRead e c) q [pltChan k 0x1C] fun t => t.bit (pltChan k 0x1C) 1 = true) ∧
    (∀ j : Fin 4, (q.run = true ∨ s.bit pltCtrl 31 = true → exec (.joinWrite e c j) s = .next s) ∧
      (q.run = false → s.bit pltCtrl 31 = false → leaves (.joinWrite e c j) { q with txq := [], rxq := [] } [pltChan k 0] fun t =>
        t.fld (pltChan k 0) 17 16 = j ∧ t.fld (pltChan k 0) 14 8 = s.fld (pltChan k 0) 14 8 ∧ t.fld (pltChan k 0) 6 0 = s.fld (pltChan k 0) 6 0)))

/-- TX_ENTRY_APPEND, RX_READ, GO, SERIAL_ABORT, SERIAL_WORD_DONE, SERIAL_TRANSFER_START, CKDIV_WRITE, MPIN_OUT_WRITE, SAFETY_WORD_START,
SAFETY_WORD_DONE (R466, R469, R496 to R504). -/
def Obligations.SerialChannels : Prop :=
  ∀ (s : State),
  -- the bit of a word that is sent or sampled m-th, the most significant first unless LSB is 1
  let nth (lsb : Bool) (len m : Nat) : Nat := if lsb then m else len - 1 - m
  -- the levels `rx`, the first on top, give the word `got`
  let takes (lsb : Bool) (len : Nat) (rx got : Word) : Prop :=
    (∀ m < len, got.getLsbD (nth lsb len m) = rx.getLsbD (len - 1 - m)) ∧ ∀ j : Nat, len ≤ j → got.getLsbD j = false
  (∀ (i : Fin 6) (v : Word),
    let k := s.ser i
    let rest (x : Instr) (k' : SerCh) (t : State) : Prop := exec x s = .next t ∧ t.ser i = k' ∧ (∀ j, j ≠ i → t.ser j = s.ser j) ∧
      t.io = { s.io with ser := t.io.ser }
    let leaves (x : Instr) (k' : SerCh) (rs : List Nat) (p : State → Prop) : Prop := ∃ t, rest x k' t ∧ p t ∧ Frame [.io] (regsOf rs) s t
    -- before the channel's signals change, the keepers of its pins take a level it has driven them to
    let held (n : Nat) : Prop := n < 96 ∧ s.fld (pinCfg n) 21 20 = 3 ∧ s.pinFunc n = 2 ∧ n % 48 / 8 = i.val ∧ (s.pinDrive n fun _ => 0).isSome = true
    let keepers (t : State) : Prop := (∀ n, held n → ∃ f : Nat → Nat, t.pins.kept.testBit n = s.padLevel n f) ∧
      (∀ n : Nat, ¬ held n → t.pins.kept.testBit n = s.pins.kept.testBit n) ∧ ((∀ n, ¬ held n) → t.freeCtr = s.freeCtr)
    let moves (x : Instr) (k' : SerCh) (rs : List Nat) (p : State → Prop) : Prop := ∃ t, rest x k' t ∧ p t ∧ keepers t ∧
      t.pins = { s.pins with kept := t.pins.kept } ∧ Frame [.pins, .io, .freeCtr] (regsOf rs) s t
    let entry := (v, s.fld (serTxc i) 7 0)
    let went := { s with pins := { s.pins with wrote := [24 + i.val] } }
    -- a running transfer waits between two words
    let between : Prop := k.busy = true ∧ k.cur = none
    (s.live .ser = false → exec (.txEntryAppend i v) s = .next s ∧ exec (.rxRead i) s = .next s ∧ exec (.go i) s = .next went ∧
      exec (.serialAbort i) s = .next s ∧ exec (.serialWordDone i v) s = .next s ∧ exec (.serialTransferStart i) s = .next s ∧
      exec (.ckdivWrite i v) s = .next s) ∧
    -- the levels of SCK, MOSI and the selects; how many edges of a word have passed is in the free value f
    (let cpol := s.bit (serCfg i) 0
      let cpha := b2n (s.bit (serCfg i) 1)
      (∀ f, k.cur = none → s.serOut i 0 f = some cpol) ∧
      (∀ f, ∀ n < 4, s.serOut i (3 + n) f = some (if k.sel = some n then s.bit (serCfg i) (4 + n) else !s.bit (serCfg i) (4 + n))) ∧
      ∀ w ctl, k.cur = some (w, ctl) → let len := Nat.max (ctl % 32) 3 + 1
        (∀ edges ≤ 2 * len, s.serOut i 0 (2 * edges) = some (if edges % 2 = 1 then !cpol else cpol)) ∧
        ∀ m < len, ∀ e < 2, s.serOut i 1 (2 * (2 * m + e + cpha)) = some (w.getLsbD (nth (s.bit (serCfg i) 2) len m))) ∧
    (s.live .ser = true →
      (8 ≤ k.tx.length → leaves (.txEntryAppend i v) k [serStat i] fun t => t.bit (serStat i) 0 = true) ∧
      (k.tx.length < 8 → (¬ between ∨ 8 ≤ k.rx.length → moves (.txEntryAppend i v) { k with tx := k.tx ++ [entry] } [] fun _ => True) ∧
        (between → k.rx.length < 8 → k.tx = [] → moves (.txEntryAppend i v) { k with cur := some entry } [] fun _ => True)) ∧
      (k.rx = [] → leaves (.rxRead i) k [serStat i] fun t => t.bit (serStat i) 1 = true) ∧
      (∀ w rest, k.rx = w :: rest → (¬ between ∨ k.tx = [] → moves (.rxRead i) { k with rx := rest } [] fun _ => True) ∧
        (∀ x xs, between → k.tx = x :: xs → rest.length < 8 → moves (.rxRead i) { k with rx := rest, cur := some x, tx := xs } [] fun _ => True)) ∧
      -- a start request is held, and task 24 + i has acted
      (∃ t, rest (.go i) { k with goPend := true } t ∧ t.pins = went.pins ∧ Frame [.pins, .io] noReg s t) ∧
      moves (.serialAbort i) { k with tx := [], cur := none, busy := false, held := false, sel := none } [serStat i]
        (fun t => t.bit (serStat i) 2 = true) ∧
      (k.tx = [] ∨ k.busy = true ∨ (k.goPend = false ∧ s.bit (serCfg i) 3 = false) → exec (.serialTransferStart i) s = .next s) ∧
      (∀ x xs, k.tx = x :: xs → k.busy = false → k.goPend = true ∨ s.bit (serCfg i) 3 = true → k.cur = none →
        let k' := { k with busy := true, goPend := false, held := false, sel := some (bits x.2 6 5) }
        (k.rx.length < 8 → moves (.serialTransferStart i) { k' with cur := some x, tx := xs } [] fun _ => True) ∧
        (8 ≤ k.rx.length → moves (.serialTransferStart i) k' [] fun _ => True)) ∧
      (k.cur = none → exec (.serialWordDone i v) s = .next s) ∧
      (∀ w ctl, k.cur = some (w, ctl) → ∀ got : Word,
        ((∃ n, s.inputPin (2, i.val) = some n) → takes (s.bit (serCfg i) 2) (Nat.max (ctl % 32) 3 + 1) v got) →
        (s.inputPin (2, i.val) = none → got = 0) →
        (ctl.testBit 7 = true → k.tx = [] ∨ 7 ≤ k.rx.length →
          moves (.serialWordDone i v) { k with cur := none, rx := k.rx ++ [got], held := true } [] fun _ => True) ∧
        (∀ x xs, ctl.testBit 7 = true → k.busy = true → k.tx = x :: xs → k.rx.length < 7 →
          moves (.serialWordDone i v) { k with cur := some x, tx := xs, rx := k.rx ++ [got], held := true } [] fun _ => True) ∧
        (ctl.testBit 7 = false → ∃ t, rest (.serialWordDone i v) { k with cur := none, rx := k.rx ++ [got], busy := false, held := false, sel := none } t ∧
          keepers t ∧ t.pins = { s.pins with kept := t.pins.kept, evts := t.pins.evts } ∧
          (s.live .evt = true → ∀ d : Fin 32, t.pins.evts[d] = s.pins.evts[d] + if s.chanOn d then producers s d (0x30 + i) else 0) ∧
          Frame [.pins, .io, .freeCtr] noReg s t)) ∧
      (s.bit serCtrl 31 = true → exec (.ckdivWrite i v) s = .next s) ∧
      (s.bit serCtrl 31 = false → let x := v.toNat
        -- SCK is f / (2 x (DIV + 1)) with f 1,500, 1,100 and 700 MHz, and is at most 50 MHz
        let slow : Prop := 1500 ≤ 50 * (2 * (bits x 7 0 + 1)) ∧ 1100 ≤ 50 * (2 * (bits x 15 8 + 1)) ∧ 700 ≤ 50 * (2 * (bits x 23 16 + 1))
        (slow → leaves (.ckdivWrite i v) k [serCkdiv i] fun t => t.rd (serCkdiv i) = x % 2 ^ 24) ∧
        (¬ slow → leaves (.ckdivWrite i v) k [serStatus] fun t => t.bit serStatus 0 = true)))) ∧
  (∀ (r : Requester) (v : Word),
    let refused (x : Instr) : Prop := ∃ t, exec x s = .next t ∧ t.bit mpinStatus 0 = true ∧ Frame [] (regsOf [mpinStatus]) s t
    (r ≠ .island → refused (.mpinOutWrite r v) ∧ ∀ i, refused (.safetyWordStart r i v)) ∧
    (r = .island → (∃ t, exec (.mpinOutWrite r v) s = .next t ∧ t.rd mpinOut = v.toNat % 1024 ∧ Frame [] (regsOf [mpinOut]) s t) ∧
      ∀ i : Fin 2,
        (s.bit (mpinSstat i) 31 = true → ∃ t, exec (.safetyWordStart r i v) s = .next t ∧ t.bit (mpinSstat i) 1 = true ∧
          t.bit (mpinSstat i) 31 = true ∧ Frame [] (regsOf [mpinSstat i]) s t) ∧
        (s.bit (mpinSstat i) 31 = false → ∃ t, exec (.safetyWordStart r i v) s = .next t ∧ t.bit (mpinSstat i) 31 = true ∧
          t.io = { s.io with safeSel := s.io.safeSel.set i (s.safeSelect i), safeTx := s.io.safeTx.set i v } ∧
          Frame [.io] (regsOf [mpinSstat i]) s t))) ∧
  (∀ (i : Fin 2) (rx : Word) (atMark : Bool),
    let len := Nat.max (s.fld (mpinScfg i) 12 8) 3 + 1
    let lsb := s.bit (mpinScfg i) 15
    let cpol := s.bit (mpinScfg i) 13
    let done (t : State) : Prop := t.bit (mpinSstat i) 31 = false ∧ t.bit (mpinSstat i) 0 = true ∧
      takes lsb len rx (BitVec.ofNat 32 (t.rd (mpinSrx i)))
    -- SCiCK and SCiDO, by MODE
    (s.bit (mpinSstat i) 31 = false → ∀ f, (s.safePads i f).1 = cpol) ∧
    (s.bit (mpinSstat i) 31 = true → (∀ edges ≤ 2 * len, (s.safePads i (2 * edges)).1 = if edges % 2 = 1 then !cpol else cpol) ∧
      ∀ m < len, ∀ e < 2, (s.safePads i (2 * (2 * m + e + b2n (s.bit (mpinScfg i) 14)))).2 = s.io.safeTx[i].getLsbD (nth lsb len m)) ∧
    (s.bit (mpinSstat i) 31 = false → exec (.safetyWordDone i rx atMark) s = .next s) ∧
    (s.bit (mpinSstat i) 31 = true → (∃ t, exec (.safetyWordDone i rx atMark) s = .next t ∧ done t ∧ t.io = s.io ∧
        Frame [.mem, .cell, .lanes, .cap, .saf, .chain, .pins, .freeCtr] (pagesOf [cellBase, capBase, nvrBase, safBase, mpinBase]) s t) ∧
      (s.io.safeSel[i] = none → ∃ t, exec (.safetyWordDone i rx atMark) s = .next t ∧ done t ∧
        Frame [] (regsOf [mpinSstat i, mpinSrx i]) s t)))
end

