-- ==== Sys2Proof/Laws/Sparse.lean ====
section
/-!
SUPPORT. Laws of the sparse maps that hold the registers and the memory: a read after a write, and the canonical form.
-/
namespace Sys2Proof.Machine

set_option linter.unusedSectionVars false
set_option linter.unusedSimpArgs false

variable {β : Type} [DecidableEq β] {d : Nat → β}

theorem find?_filter_ne {m : List (Nat × β)} {a b : Nat} (h : b ≠ a) :
    (m.filter fun c => c.1 != a).find? (fun c => c.1 == b) = m.find? fun c => c.1 == b := by
  induction m with
  | nil => rfl
  | cons c m ih =>
    by_cases hc : c.1 = a
    · have : ¬ c.1 = b := fun e => h (e.symm.trans hc)
      simp [List.filter_cons, List.find?_cons, hc, ih, Ne.symm h]
    · by_cases hb : c.1 = b <;> simp [List.filter_cons, List.find?_cons, hc, hb, ih, h]

theorem find?_filter_self {m : List (Nat × β)} {a : Nat} :
    (m.filter fun c => c.1 != a).find? (fun c => c.1 == a) = none := by
  simp [List.find?_eq_none]

theorem find?_sins_self {a : Nat} {v : β} {m : List (Nat × β)} (h : m.find? (fun c => c.1 == a) = none) :
    (sins a v m).find? (fun c => c.1 == a) = some (a, v) := by
  induction m with
  | nil => simp [sins]
  | cons c m ih =>
    have hc : ¬ c.1 = a := by intro e; simp [e] at h
    have hm : m.find? (fun c => c.1 == a) = none := by simpa [List.find?_cons, hc] using h
    by_cases hl : c.1 < a <;> simp [sins, hl, hc, ih hm]

theorem find?_sins_ne {a b : Nat} {v : β} (h : b ≠ a) (m : List (Nat × β)) :
    (sins a v m).find? (fun c => c.1 == b) = m.find? fun c => c.1 == b := by
  induction m with
  | nil => simp [sins, Ne.symm h]
  | cons c m ih => by_cases hl : c.1 < a <;> simp [sins, hl, List.find?_cons, ih, Ne.symm h]

/-- A read after a write of the same key gives the value written. -/
@[simp] theorem sget_sput_self (m : List (Nat × β)) (a : Nat) (v : β) : sget d (sput d m a v) a = v := by
  unfold sget sput
  by_cases hv : v = d a
  · simp only [hv, if_true, find?_filter_self]
  · simp only [hv, if_false, find?_sins_self find?_filter_self]

/-- A write leaves every other key alone. -/
theorem sget_sput_ne {a b : Nat} (h : b ≠ a) (m : List (Nat × β)) (v : β) : sget d (sput d m a v) b = sget d m b := by
  unfold sget sput
  by_cases hv : v = d a
  · simp only [hv, if_true, find?_filter_ne h]
  · simp only [hv, if_false, find?_sins_ne h, find?_filter_ne h]

theorem find?_filter_keep {m : List (Nat × β)} {a : Nat} {f : Nat × β → Bool} (h : ∀ c, c.1 = a → f c = true) :
    (m.filter f).find? (fun c => c.1 == a) = m.find? fun c => c.1 == a := by
  induction m with
  | nil => rfl
  | cons c m ih =>
    by_cases hc : c.1 = a
    · simp [List.filter_cons, List.find?_cons, h c hc, hc]
    · by_cases hf : f c = true <;> simp [List.filter_cons, List.find?_cons, hf, hc, ih]

/-- After a range is dropped, its keys read as the default and the others as before. -/
theorem sget_sdrop (lo hi a : Nat) (m : List (Nat × β)) :
    sget d (sdrop lo hi m) a = if lo ≤ a ∧ a < hi then d a else sget d m a := by
  unfold sget sdrop
  by_cases h : lo ≤ a ∧ a < hi
  · have : (m.filter fun c => decide (c.1 < lo ∨ hi ≤ c.1)).find? (fun c => c.1 == a) = none := by
      rw [List.find?_eq_none]
      intro c hc
      have := (List.mem_filter.1 hc).2
      simp only [decide_eq_true_eq] at this
      simp only [beq_iff_eq]; omega
    simp only [h, this, and_self, if_true]
  · rw [if_neg h, find?_filter_keep]
    intro c hc
    simp only [decide_eq_true_eq]; omega

/-! ## The canonical form -/

/-- The canonical form, said with `Pairwise`. -/
theorem swf_iff (m : List (Nat × β)) :
    swf d m = true ↔ m.Pairwise (fun c c' => c.1 < c'.1) ∧ ∀ c ∈ m, c.2 ≠ d c.1 := by
  induction m with
  | nil => simp [swf]
  | cons c m ih =>
    cases m with
    | nil => simp [swf]
    | cons c' m =>
      simp only [swf, Bool.and_eq_true, decide_eq_true_eq, ih, List.pairwise_cons, List.mem_cons, forall_eq_or_imp]
      constructor
      · rintro ⟨⟨h1, h2⟩, ⟨h3, h4⟩, h5, h6⟩
        exact ⟨⟨⟨h1, fun x hx => lt_trans h1 (h3 x hx)⟩, h3, h4⟩, h2, h5, h6⟩
      · rintro ⟨⟨⟨h1, _⟩, h3, h4⟩, h2, h5, h6⟩
        exact ⟨⟨h1, h2⟩, ⟨h3, h4⟩, h5, h6⟩

theorem mem_sins {a : Nat} {v : β} {m : List (Nat × β)} {x : Nat × β} : x ∈ sins a v m ↔ x = (a, v) ∨ x ∈ m := by
  induction m with
  | nil => simp [sins]
  | cons c m ih =>
    by_cases hl : c.1 < a
    · simp only [sins, hl, if_true, List.mem_cons, ih]; tauto
    · simp [sins, hl]

theorem pairwise_sins {a : Nat} {v : β} {m : List (Nat × β)} (h : m.Pairwise fun c c' => c.1 < c'.1)
    (hn : ∀ c ∈ m, c.1 ≠ a) : (sins a v m).Pairwise fun c c' => c.1 < c'.1 := by
  induction m with
  | nil => simp [sins]
  | cons c m ih =>
    rw [List.pairwise_cons] at h
    by_cases hl : c.1 < a
    · simp only [sins, hl, if_true, List.pairwise_cons]
      refine ⟨fun x hx => ?_, ih h.2 fun x hx => hn x (List.mem_cons_of_mem _ hx)⟩
      rcases mem_sins.1 hx with rfl | hx
      · exact hl
      · exact h.1 x hx
    · have hc : a < c.1 := lt_of_le_of_ne (not_lt.1 hl) (Ne.symm (hn c (List.mem_cons_self ..)))
      simp only [sins, hl, if_false, List.pairwise_cons, List.mem_cons, forall_eq_or_imp]
      exact ⟨⟨hc, fun x hx => lt_trans hc (h.1 x hx)⟩, h.1, h.2⟩

/-- A write keeps the canonical form. -/
theorem swf_sput {m : List (Nat × β)} (h : swf d m = true) (a : Nat) (v : β) : swf d (sput d m a v) = true := by
  rw [swf_iff] at h ⊢
  have hf : (m.filter fun c => c.1 != a).Pairwise fun c c' => c.1 < c'.1 := h.1.filter _
  have hd : ∀ c ∈ m.filter fun c => c.1 != a, c.2 ≠ d c.1 := fun c hc => h.2 c (List.mem_of_mem_filter hc)
  unfold sput
  by_cases hv : v = d a
  · simp only [hv, if_true]; exact ⟨hf, hd⟩
  · simp only [hv, if_false]
    refine ⟨pairwise_sins hf fun c hc => by simpa using (List.mem_filter.1 hc).2, fun c hc => ?_⟩
    rcases mem_sins.1 hc with rfl | hc
    · exact hv
    · exact hd c hc

/-- Dropping a range keeps the canonical form. -/
theorem swf_sdrop {m : List (Nat × β)} (h : swf d m = true) (lo hi : Nat) : swf d (sdrop lo hi m) = true := by
  rw [swf_iff] at h ⊢
  exact ⟨h.1.filter _, fun c hc => h.2 c (List.mem_of_mem_filter hc)⟩


theorem swf_filter {m : List (Nat × β)} (h : swf d m = true) (q : Nat × β → Bool) : swf d (m.filter q) = true := by
  rw [swf_iff] at h ⊢
  exact ⟨h.1.filter _, fun c hc => h.2 c (List.mem_of_mem_filter hc)⟩

end Sys2Proof.Machine
end

