-- ==== Sys2Proof/Laws/State.lean ====
section
/-!
SUPPORT. One lemma per field of State and per update of it, all true by computation, so that no proof unfolds a record update;
and the reads that an update of another part leaves alone.
-/
namespace Sys2Proof.Machine
variable (s : State)
set_option linter.unusedVariables false

/-! ### wr -/

@[simp] theorem State.wr_mem (a v : Nat) : (s.wr a v).mem = s.mem := rfl
@[simp] theorem State.wr_per (a v : Nat) : (s.wr a v).per = s.per := rfl
@[simp] theorem State.wr_probs (a v : Nat) : (s.wr a v).probs = s.probs := rfl
@[simp] theorem State.wr_cls (a v : Nat) : (s.wr a v).cls = s.cls := rfl
@[simp] theorem State.wr_rot (a v : Nat) : (s.wr a v).rot = s.rot := rfl
@[simp] theorem State.wr_chart (a v : Nat) : (s.wr a v).chart = s.chart := rfl
@[simp] theorem State.wr_cell (a v : Nat) : (s.wr a v).cell = s.cell := rfl
@[simp] theorem State.wr_lanes (a v : Nat) : (s.wr a v).lanes = s.lanes := rfl
@[simp] theorem State.wr_hubs (a v : Nat) : (s.wr a v).hubs = s.hubs := rfl
@[simp] theorem State.wr_cap (a v : Nat) : (s.wr a v).cap = s.cap := rfl
@[simp] theorem State.wr_gmem (a v : Nat) : (s.wr a v).gmem = s.gmem := rfl
@[simp] theorem State.wr_saf (a v : Nat) : (s.wr a v).saf = s.saf := rfl
@[simp] theorem State.wr_chain (a v : Nat) : (s.wr a v).chain = s.chain := rfl
@[simp] theorem State.wr_port (a v : Nat) : (s.wr a v).port = s.port := rfl
@[simp] theorem State.wr_cores (a v : Nat) : (s.wr a v).cores = s.cores := rfl
@[simp] theorem State.wr_boot (a v : Nat) : (s.wr a v).boot = s.boot := rfl
@[simp] theorem State.wr_flash (a v : Nat) : (s.wr a v).flash = s.flash := rfl
@[simp] theorem State.wr_clk (a v : Nat) : (s.wr a v).clk = s.clk := rfl
@[simp] theorem State.wr_pins (a v : Nat) : (s.wr a v).pins = s.pins := rfl
@[simp] theorem State.wr_io (a v : Nat) : (s.wr a v).io = s.io := rfl
@[simp] theorem State.wr_notices (a v : Nat) : (s.wr a v).notices = s.notices := rfl
@[simp] theorem State.wr_freeCtr (a v : Nat) : (s.wr a v).freeCtr = s.freeCtr := rfl
@[simp] theorem State.wr_pending (a v : Nat) : (s.wr a v).pending = s.pending := rfl
@[simp] theorem State.wr_flaws (a v : Nat) : (s.wr a v).flaws = s.flaws := rfl
@[simp] theorem State.wr_byte (a v : Nat) (ad : Nat) : (s.wr a v).byte ad = s.byte ad := rfl
@[simp] theorem State.wr_prob (a v : Nat) (y : Slot) : (s.wr a v).prob y = s.prob y := rfl
@[simp] theorem State.wr_cl (a v : Nat) (y : Cl) : (s.wr a v).cl y = s.cl y := rfl
@[simp] theorem State.wr_lane (a v : Nat) (y : LaneN) : (s.wr a v).lane y = s.lane y := rfl
@[simp] theorem State.wr_hub (a v : Nat) (y : HubN) : (s.wr a v).hub y = s.hub y := rfl
@[simp] theorem State.wr_core (a v : Nat) (y : CoreN) : (s.wr a v).core y = s.core y := rfl
/-! ### setByte -/

@[simp] theorem State.setByte_regs (a : Nat) (b : Byte) : (s.setByte a b).regs = s.regs := rfl
@[simp] theorem State.setByte_per (a : Nat) (b : Byte) : (s.setByte a b).per = s.per := rfl
@[simp] theorem State.setByte_probs (a : Nat) (b : Byte) : (s.setByte a b).probs = s.probs := rfl
@[simp] theorem State.setByte_cls (a : Nat) (b : Byte) : (s.setByte a b).cls = s.cls := rfl
@[simp] theorem State.setByte_rot (a : Nat) (b : Byte) : (s.setByte a b).rot = s.rot := rfl
@[simp] theorem State.setByte_chart (a : Nat) (b : Byte) : (s.setByte a b).chart = s.chart := rfl
@[simp] theorem State.setByte_cell (a : Nat) (b : Byte) : (s.setByte a b).cell = s.cell := rfl
@[simp] theorem State.setByte_lanes (a : Nat) (b : Byte) : (s.setByte a b).lanes = s.lanes := rfl
@[simp] theorem State.setByte_hubs (a : Nat) (b : Byte) : (s.setByte a b).hubs = s.hubs := rfl
@[simp] theorem State.setByte_cap (a : Nat) (b : Byte) : (s.setByte a b).cap = s.cap := rfl
@[simp] theorem State.setByte_gmem (a : Nat) (b : Byte) : (s.setByte a b).gmem = s.gmem := rfl
@[simp] theorem State.setByte_saf (a : Nat) (b : Byte) : (s.setByte a b).saf = s.saf := rfl
@[simp] theorem State.setByte_chain (a : Nat) (b : Byte) : (s.setByte a b).chain = s.chain := rfl
@[simp] theorem State.setByte_port (a : Nat) (b : Byte) : (s.setByte a b).port = s.port := rfl
@[simp] theorem State.setByte_cores (a : Nat) (b : Byte) : (s.setByte a b).cores = s.cores := rfl
@[simp] theorem State.setByte_boot (a : Nat) (b : Byte) : (s.setByte a b).boot = s.boot := rfl
@[simp] theorem State.setByte_flash (a : Nat) (b : Byte) : (s.setByte a b).flash = s.flash := rfl
@[simp] theorem State.setByte_clk (a : Nat) (b : Byte) : (s.setByte a b).clk = s.clk := rfl
@[simp] theorem State.setByte_pins (a : Nat) (b : Byte) : (s.setByte a b).pins = s.pins := rfl
@[simp] theorem State.setByte_io (a : Nat) (b : Byte) : (s.setByte a b).io = s.io := rfl
@[simp] theorem State.setByte_notices (a : Nat) (b : Byte) : (s.setByte a b).notices = s.notices := rfl
@[simp] theorem State.setByte_freeCtr (a : Nat) (b : Byte) : (s.setByte a b).freeCtr = s.freeCtr := rfl
@[simp] theorem State.setByte_pending (a : Nat) (b : Byte) : (s.setByte a b).pending = s.pending := rfl
@[simp] theorem State.setByte_flaws (a : Nat) (b : Byte) : (s.setByte a b).flaws = s.flaws := rfl
@[simp] theorem State.setByte_rd (a : Nat) (b : Byte) (ad : Nat) : (s.setByte a b).rd ad = s.rd ad := rfl
@[simp] theorem State.setByte_fld (a : Nat) (b : Byte) (ad hb lb : Nat) : (s.setByte a b).fld ad hb lb = s.fld ad hb lb := rfl
@[simp] theorem State.setByte_bit (a : Nat) (b : Byte) (ad ib : Nat) : (s.setByte a b).bit ad ib = s.bit ad ib := rfl
@[simp] theorem State.setByte_prob (a : Nat) (b : Byte) (y : Slot) : (s.setByte a b).prob y = s.prob y := rfl
@[simp] theorem State.setByte_cl (a : Nat) (b : Byte) (y : Cl) : (s.setByte a b).cl y = s.cl y := rfl
@[simp] theorem State.setByte_lane (a : Nat) (b : Byte) (y : LaneN) : (s.setByte a b).lane y = s.lane y := rfl
@[simp] theorem State.setByte_hub (a : Nat) (b : Byte) (y : HubN) : (s.setByte a b).hub y = s.hub y := rfl
@[simp] theorem State.setByte_core (a : Nat) (b : Byte) (y : CoreN) : (s.setByte a b).core y = s.core y := rfl
/-! ### resetRegs -/

@[simp] theorem State.resetRegs_mem (lo hi : Nat) : (s.resetRegs lo hi).mem = s.mem := rfl
@[simp] theorem State.resetRegs_per (lo hi : Nat) : (s.resetRegs lo hi).per = s.per := rfl
@[simp] theorem State.resetRegs_probs (lo hi : Nat) : (s.resetRegs lo hi).probs = s.probs := rfl
@[simp] theorem State.resetRegs_cls (lo hi : Nat) : (s.resetRegs lo hi).cls = s.cls := rfl
@[simp] theorem State.resetRegs_rot (lo hi : Nat) : (s.resetRegs lo hi).rot = s.rot := rfl
@[simp] theorem State.resetRegs_chart (lo hi : Nat) : (s.resetRegs lo hi).chart = s.chart := rfl
@[simp] theorem State.resetRegs_cell (lo hi : Nat) : (s.resetRegs lo hi).cell = s.cell := rfl
@[simp] theorem State.resetRegs_lanes (lo hi : Nat) : (s.resetRegs lo hi).lanes = s.lanes := rfl
@[simp] theorem State.resetRegs_hubs (lo hi : Nat) : (s.resetRegs lo hi).hubs = s.hubs := rfl
@[simp] theorem State.resetRegs_cap (lo hi : Nat) : (s.resetRegs lo hi).cap = s.cap := rfl
@[simp] theorem State.resetRegs_gmem (lo hi : Nat) : (s.resetRegs lo hi).gmem = s.gmem := rfl
@[simp] theorem State.resetRegs_saf (lo hi : Nat) : (s.resetRegs lo hi).saf = s.saf := rfl
@[simp] theorem State.resetRegs_chain (lo hi : Nat) : (s.resetRegs lo hi).chain = s.chain := rfl
@[simp] theorem State.resetRegs_port (lo hi : Nat) : (s.resetRegs lo hi).port = s.port := rfl
@[simp] theorem State.resetRegs_cores (lo hi : Nat) : (s.resetRegs lo hi).cores = s.cores := rfl
@[simp] theorem State.resetRegs_boot (lo hi : Nat) : (s.resetRegs lo hi).boot = s.boot := rfl
@[simp] theorem State.resetRegs_flash (lo hi : Nat) : (s.resetRegs lo hi).flash = s.flash := rfl
@[simp] theorem State.resetRegs_clk (lo hi : Nat) : (s.resetRegs lo hi).clk = s.clk := rfl
@[simp] theorem State.resetRegs_pins (lo hi : Nat) : (s.resetRegs lo hi).pins = s.pins := rfl
@[simp] theorem State.resetRegs_io (lo hi : Nat) : (s.resetRegs lo hi).io = s.io := rfl
@[simp] theorem State.resetRegs_notices (lo hi : Nat) : (s.resetRegs lo hi).notices = s.notices := rfl
@[simp] theorem State.resetRegs_freeCtr (lo hi : Nat) : (s.resetRegs lo hi).freeCtr = s.freeCtr := rfl
@[simp] theorem State.resetRegs_pending (lo hi : Nat) : (s.resetRegs lo hi).pending = s.pending := rfl
@[simp] theorem State.resetRegs_flaws (lo hi : Nat) : (s.resetRegs lo hi).flaws = s.flaws := rfl
@[simp] theorem State.resetRegs_byte (lo hi : Nat) (ad : Nat) : (s.resetRegs lo hi).byte ad = s.byte ad := rfl
@[simp] theorem State.resetRegs_prob (lo hi : Nat) (y : Slot) : (s.resetRegs lo hi).prob y = s.prob y := rfl
@[simp] theorem State.resetRegs_cl (lo hi : Nat) (y : Cl) : (s.resetRegs lo hi).cl y = s.cl y := rfl
@[simp] theorem State.resetRegs_lane (lo hi : Nat) (y : LaneN) : (s.resetRegs lo hi).lane y = s.lane y := rfl
@[simp] theorem State.resetRegs_hub (lo hi : Nat) (y : HubN) : (s.resetRegs lo hi).hub y = s.hub y := rfl
@[simp] theorem State.resetRegs_core (lo hi : Nat) (y : CoreN) : (s.resetRegs lo hi).core y = s.core y := rfl
/-! ### dropMem -/

@[simp] theorem State.dropMem_regs (lo hi : Nat) : (s.dropMem lo hi).regs = s.regs := rfl
@[simp] theorem State.dropMem_per (lo hi : Nat) : (s.dropMem lo hi).per = s.per := rfl
@[simp] theorem State.dropMem_probs (lo hi : Nat) : (s.dropMem lo hi).probs = s.probs := rfl
@[simp] theorem State.dropMem_cls (lo hi : Nat) : (s.dropMem lo hi).cls = s.cls := rfl
@[simp] theorem State.dropMem_rot (lo hi : Nat) : (s.dropMem lo hi).rot = s.rot := rfl
@[simp] theorem State.dropMem_chart (lo hi : Nat) : (s.dropMem lo hi).chart = s.chart := rfl
@[simp] theorem State.dropMem_cell (lo hi : Nat) : (s.dropMem lo hi).cell = s.cell := rfl
@[simp] theorem State.dropMem_lanes (lo hi : Nat) : (s.dropMem lo hi).lanes = s.lanes := rfl
@[simp] theorem State.dropMem_hubs (lo hi : Nat) : (s.dropMem lo hi).hubs = s.hubs := rfl
@[simp] theorem State.dropMem_cap (lo hi : Nat) : (s.dropMem lo hi).cap = s.cap := rfl
@[simp] theorem State.dropMem_gmem (lo hi : Nat) : (s.dropMem lo hi).gmem = s.gmem := rfl
@[simp] theorem State.dropMem_saf (lo hi : Nat) : (s.dropMem lo hi).saf = s.saf := rfl
@[simp] theorem State.dropMem_chain (lo hi : Nat) : (s.dropMem lo hi).chain = s.chain := rfl
@[simp] theorem State.dropMem_port (lo hi : Nat) : (s.dropMem lo hi).port = s.port := rfl
@[simp] theorem State.dropMem_cores (lo hi : Nat) : (s.dropMem lo hi).cores = s.cores := rfl
@[simp] theorem State.dropMem_boot (lo hi : Nat) : (s.dropMem lo hi).boot = s.boot := rfl
@[simp] theorem State.dropMem_flash (lo hi : Nat) : (s.dropMem lo hi).flash = s.flash := rfl
@[simp] theorem State.dropMem_clk (lo hi : Nat) : (s.dropMem lo hi).clk = s.clk := rfl
@[simp] theorem State.dropMem_pins (lo hi : Nat) : (s.dropMem lo hi).pins = s.pins := rfl
@[simp] theorem State.dropMem_io (lo hi : Nat) : (s.dropMem lo hi).io = s.io := rfl
@[simp] theorem State.dropMem_notices (lo hi : Nat) : (s.dropMem lo hi).notices = s.notices := rfl
@[simp] theorem State.dropMem_freeCtr (lo hi : Nat) : (s.dropMem lo hi).freeCtr = s.freeCtr := rfl
@[simp] theorem State.dropMem_pending (lo hi : Nat) : (s.dropMem lo hi).pending = s.pending := rfl
@[simp] theorem State.dropMem_flaws (lo hi : Nat) : (s.dropMem lo hi).flaws = s.flaws := rfl
@[simp] theorem State.dropMem_rd (lo hi : Nat) (ad : Nat) : (s.dropMem lo hi).rd ad = s.rd ad := rfl
@[simp] theorem State.dropMem_fld (lo hi : Nat) (ad hb lb : Nat) : (s.dropMem lo hi).fld ad hb lb = s.fld ad hb lb := rfl
@[simp] theorem State.dropMem_bit (lo hi : Nat) (ad ib : Nat) : (s.dropMem lo hi).bit ad ib = s.bit ad ib := rfl
@[simp] theorem State.dropMem_prob (lo hi : Nat) (y : Slot) : (s.dropMem lo hi).prob y = s.prob y := rfl
@[simp] theorem State.dropMem_cl (lo hi : Nat) (y : Cl) : (s.dropMem lo hi).cl y = s.cl y := rfl
@[simp] theorem State.dropMem_lane (lo hi : Nat) (y : LaneN) : (s.dropMem lo hi).lane y = s.lane y := rfl
@[simp] theorem State.dropMem_hub (lo hi : Nat) (y : HubN) : (s.dropMem lo hi).hub y = s.hub y := rfl
@[simp] theorem State.dropMem_core (lo hi : Nat) (y : CoreN) : (s.dropMem lo hi).core y = s.core y := rfl
/-! ### setBad -/

@[simp] theorem State.setBad_mem (a n : Nat) : (s.setBad a n).mem = s.mem := rfl
@[simp] theorem State.setBad_regs (a n : Nat) : (s.setBad a n).regs = s.regs := rfl
@[simp] theorem State.setBad_per (a n : Nat) : (s.setBad a n).per = s.per := rfl
@[simp] theorem State.setBad_probs (a n : Nat) : (s.setBad a n).probs = s.probs := rfl
@[simp] theorem State.setBad_cls (a n : Nat) : (s.setBad a n).cls = s.cls := rfl
@[simp] theorem State.setBad_rot (a n : Nat) : (s.setBad a n).rot = s.rot := rfl
@[simp] theorem State.setBad_chart (a n : Nat) : (s.setBad a n).chart = s.chart := rfl
@[simp] theorem State.setBad_cell (a n : Nat) : (s.setBad a n).cell = s.cell := rfl
@[simp] theorem State.setBad_lanes (a n : Nat) : (s.setBad a n).lanes = s.lanes := rfl
@[simp] theorem State.setBad_hubs (a n : Nat) : (s.setBad a n).hubs = s.hubs := rfl
@[simp] theorem State.setBad_cap (a n : Nat) : (s.setBad a n).cap = s.cap := rfl
@[simp] theorem State.setBad_gmem (a n : Nat) : (s.setBad a n).gmem = s.gmem := rfl
@[simp] theorem State.setBad_saf (a n : Nat) : (s.setBad a n).saf = s.saf := rfl
@[simp] theorem State.setBad_chain (a n : Nat) : (s.setBad a n).chain = s.chain := rfl
@[simp] theorem State.setBad_port (a n : Nat) : (s.setBad a n).port = s.port := rfl
@[simp] theorem State.setBad_cores (a n : Nat) : (s.setBad a n).cores = s.cores := rfl
@[simp] theorem State.setBad_boot (a n : Nat) : (s.setBad a n).boot = s.boot := rfl
@[simp] theorem State.setBad_flash (a n : Nat) : (s.setBad a n).flash = s.flash := rfl
@[simp] theorem State.setBad_clk (a n : Nat) : (s.setBad a n).clk = s.clk := rfl
@[simp] theorem State.setBad_pins (a n : Nat) : (s.setBad a n).pins = s.pins := rfl
@[simp] theorem State.setBad_io (a n : Nat) : (s.setBad a n).io = s.io := rfl
@[simp] theorem State.setBad_notices (a n : Nat) : (s.setBad a n).notices = s.notices := rfl
@[simp] theorem State.setBad_freeCtr (a n : Nat) : (s.setBad a n).freeCtr = s.freeCtr := rfl
@[simp] theorem State.setBad_pending (a n : Nat) : (s.setBad a n).pending = s.pending := rfl
@[simp] theorem State.setBad_rd (a n : Nat) (ad : Nat) : (s.setBad a n).rd ad = s.rd ad := rfl
@[simp] theorem State.setBad_fld (a n : Nat) (ad hb lb : Nat) : (s.setBad a n).fld ad hb lb = s.fld ad hb lb := rfl
@[simp] theorem State.setBad_bit (a n : Nat) (ad ib : Nat) : (s.setBad a n).bit ad ib = s.bit ad ib := rfl
@[simp] theorem State.setBad_prob (a n : Nat) (y : Slot) : (s.setBad a n).prob y = s.prob y := rfl
@[simp] theorem State.setBad_cl (a n : Nat) (y : Cl) : (s.setBad a n).cl y = s.cl y := rfl
@[simp] theorem State.setBad_lane (a n : Nat) (y : LaneN) : (s.setBad a n).lane y = s.lane y := rfl
@[simp] theorem State.setBad_hub (a n : Nat) (y : HubN) : (s.setBad a n).hub y = s.hub y := rfl
@[simp] theorem State.setBad_core (a n : Nat) (y : CoreN) : (s.setBad a n).core y = s.core y := rfl
@[simp] theorem State.setBad_byte (a n : Nat) (ad : Nat) : (s.setBad a n).byte ad = s.byte ad := rfl
/-! ### mend -/

@[simp] theorem State.mend_mem (a n : Nat) : (s.mend a n).mem = s.mem := rfl
@[simp] theorem State.mend_regs (a n : Nat) : (s.mend a n).regs = s.regs := rfl
@[simp] theorem State.mend_per (a n : Nat) : (s.mend a n).per = s.per := rfl
@[simp] theorem State.mend_probs (a n : Nat) : (s.mend a n).probs = s.probs := rfl
@[simp] theorem State.mend_cls (a n : Nat) : (s.mend a n).cls = s.cls := rfl
@[simp] theorem State.mend_rot (a n : Nat) : (s.mend a n).rot = s.rot := rfl
@[simp] theorem State.mend_chart (a n : Nat) : (s.mend a n).chart = s.chart := rfl
@[simp] theorem State.mend_cell (a n : Nat) : (s.mend a n).cell = s.cell := rfl
@[simp] theorem State.mend_lanes (a n : Nat) : (s.mend a n).lanes = s.lanes := rfl
@[simp] theorem State.mend_hubs (a n : Nat) : (s.mend a n).hubs = s.hubs := rfl
@[simp] theorem State.mend_cap (a n : Nat) : (s.mend a n).cap = s.cap := rfl
@[simp] theorem State.mend_gmem (a n : Nat) : (s.mend a n).gmem = s.gmem := rfl
@[simp] theorem State.mend_saf (a n : Nat) : (s.mend a n).saf = s.saf := rfl
@[simp] theorem State.mend_chain (a n : Nat) : (s.mend a n).chain = s.chain := rfl
@[simp] theorem State.mend_port (a n : Nat) : (s.mend a n).port = s.port := rfl
@[simp] theorem State.mend_cores (a n : Nat) : (s.mend a n).cores = s.cores := rfl
@[simp] theorem State.mend_boot (a n : Nat) : (s.mend a n).boot = s.boot := rfl
@[simp] theorem State.mend_flash (a n : Nat) : (s.mend a n).flash = s.flash := rfl
@[simp] theorem State.mend_clk (a n : Nat) : (s.mend a n).clk = s.clk := rfl
@[simp] theorem State.mend_pins (a n : Nat) : (s.mend a n).pins = s.pins := rfl
@[simp] theorem State.mend_io (a n : Nat) : (s.mend a n).io = s.io := rfl
@[simp] theorem State.mend_notices (a n : Nat) : (s.mend a n).notices = s.notices := rfl
@[simp] theorem State.mend_freeCtr (a n : Nat) : (s.mend a n).freeCtr = s.freeCtr := rfl
@[simp] theorem State.mend_pending (a n : Nat) : (s.mend a n).pending = s.pending := rfl
@[simp] theorem State.mend_rd (a n : Nat) (ad : Nat) : (s.mend a n).rd ad = s.rd ad := rfl
@[simp] theorem State.mend_fld (a n : Nat) (ad hb lb : Nat) : (s.mend a n).fld ad hb lb = s.fld ad hb lb := rfl
@[simp] theorem State.mend_bit (a n : Nat) (ad ib : Nat) : (s.mend a n).bit ad ib = s.bit ad ib := rfl
@[simp] theorem State.mend_prob (a n : Nat) (y : Slot) : (s.mend a n).prob y = s.prob y := rfl
@[simp] theorem State.mend_cl (a n : Nat) (y : Cl) : (s.mend a n).cl y = s.cl y := rfl
@[simp] theorem State.mend_lane (a n : Nat) (y : LaneN) : (s.mend a n).lane y = s.lane y := rfl
@[simp] theorem State.mend_hub (a n : Nat) (y : HubN) : (s.mend a n).hub y = s.hub y := rfl
@[simp] theorem State.mend_core (a n : Nat) (y : CoreN) : (s.mend a n).core y = s.core y := rfl
@[simp] theorem State.mend_byte (a n : Nat) (ad : Nat) : (s.mend a n).byte ad = s.byte ad := rfl
/-! ### clearMem -/

@[simp] theorem State.clearMem_regs (lo hi : Nat) : (s.clearMem lo hi).regs = s.regs := rfl
@[simp] theorem State.clearMem_per (lo hi : Nat) : (s.clearMem lo hi).per = s.per := rfl
@[simp] theorem State.clearMem_probs (lo hi : Nat) : (s.clearMem lo hi).probs = s.probs := rfl
@[simp] theorem State.clearMem_cls (lo hi : Nat) : (s.clearMem lo hi).cls = s.cls := rfl
@[simp] theorem State.clearMem_rot (lo hi : Nat) : (s.clearMem lo hi).rot = s.rot := rfl
@[simp] theorem State.clearMem_chart (lo hi : Nat) : (s.clearMem lo hi).chart = s.chart := rfl
@[simp] theorem State.clearMem_cell (lo hi : Nat) : (s.clearMem lo hi).cell = s.cell := rfl
@[simp] theorem State.clearMem_lanes (lo hi : Nat) : (s.clearMem lo hi).lanes = s.lanes := rfl
@[simp] theorem State.clearMem_hubs (lo hi : Nat) : (s.clearMem lo hi).hubs = s.hubs := rfl
@[simp] theorem State.clearMem_cap (lo hi : Nat) : (s.clearMem lo hi).cap = s.cap := rfl
@[simp] theorem State.clearMem_gmem (lo hi : Nat) : (s.clearMem lo hi).gmem = s.gmem := rfl
@[simp] theorem State.clearMem_saf (lo hi : Nat) : (s.clearMem lo hi).saf = s.saf := rfl
@[simp] theorem State.clearMem_chain (lo hi : Nat) : (s.clearMem lo hi).chain = s.chain := rfl
@[simp] theorem State.clearMem_port (lo hi : Nat) : (s.clearMem lo hi).port = s.port := rfl
@[simp] theorem State.clearMem_cores (lo hi : Nat) : (s.clearMem lo hi).cores = s.cores := rfl
@[simp] theorem State.clearMem_boot (lo hi : Nat) : (s.clearMem lo hi).boot = s.boot := rfl
@[simp] theorem State.clearMem_flash (lo hi : Nat) : (s.clearMem lo hi).flash = s.flash := rfl
@[simp] theorem State.clearMem_clk (lo hi : Nat) : (s.clearMem lo hi).clk = s.clk := rfl
@[simp] theorem State.clearMem_pins (lo hi : Nat) : (s.clearMem lo hi).pins = s.pins := rfl
@[simp] theorem State.clearMem_io (lo hi : Nat) : (s.clearMem lo hi).io = s.io := rfl
@[simp] theorem State.clearMem_notices (lo hi : Nat) : (s.clearMem lo hi).notices = s.notices := rfl
@[simp] theorem State.clearMem_freeCtr (lo hi : Nat) : (s.clearMem lo hi).freeCtr = s.freeCtr := rfl
@[simp] theorem State.clearMem_pending (lo hi : Nat) : (s.clearMem lo hi).pending = s.pending := rfl
@[simp] theorem State.clearMem_rd (lo hi : Nat) (ad : Nat) : (s.clearMem lo hi).rd ad = s.rd ad := rfl
@[simp] theorem State.clearMem_fld (lo hi : Nat) (ad hb lb : Nat) : (s.clearMem lo hi).fld ad hb lb = s.fld ad hb lb := rfl
@[simp] theorem State.clearMem_bit (lo hi : Nat) (ad ib : Nat) : (s.clearMem lo hi).bit ad ib = s.bit ad ib := rfl
@[simp] theorem State.clearMem_prob (lo hi : Nat) (y : Slot) : (s.clearMem lo hi).prob y = s.prob y := rfl
@[simp] theorem State.clearMem_cl (lo hi : Nat) (y : Cl) : (s.clearMem lo hi).cl y = s.cl y := rfl
@[simp] theorem State.clearMem_lane (lo hi : Nat) (y : LaneN) : (s.clearMem lo hi).lane y = s.lane y := rfl
@[simp] theorem State.clearMem_hub (lo hi : Nat) (y : HubN) : (s.clearMem lo hi).hub y = s.hub y := rfl
@[simp] theorem State.clearMem_core (lo hi : Nat) (y : CoreN) : (s.clearMem lo hi).core y = s.core y := rfl
/-! ### setProb -/

@[simp] theorem State.setProb_mem (p : Slot) (q : Problem) : (s.setProb p q).mem = s.mem := rfl
@[simp] theorem State.setProb_regs (p : Slot) (q : Problem) : (s.setProb p q).regs = s.regs := rfl
@[simp] theorem State.setProb_per (p : Slot) (q : Problem) : (s.setProb p q).per = s.per := rfl
@[simp] theorem State.setProb_cls (p : Slot) (q : Problem) : (s.setProb p q).cls = s.cls := rfl
@[simp] theorem State.setProb_rot (p : Slot) (q : Problem) : (s.setProb p q).rot = s.rot := rfl
@[simp] theorem State.setProb_chart (p : Slot) (q : Problem) : (s.setProb p q).chart = s.chart := rfl
@[simp] theorem State.setProb_cell (p : Slot) (q : Problem) : (s.setProb p q).cell = s.cell := rfl
@[simp] theorem State.setProb_lanes (p : Slot) (q : Problem) : (s.setProb p q).lanes = s.lanes := rfl
@[simp] theorem State.setProb_hubs (p : Slot) (q : Problem) : (s.setProb p q).hubs = s.hubs := rfl
@[simp] theorem State.setProb_cap (p : Slot) (q : Problem) : (s.setProb p q).cap = s.cap := rfl
@[simp] theorem State.setProb_gmem (p : Slot) (q : Problem) : (s.setProb p q).gmem = s.gmem := rfl
@[simp] theorem State.setProb_saf (p : Slot) (q : Problem) : (s.setProb p q).saf = s.saf := rfl
@[simp] theorem State.setProb_chain (p : Slot) (q : Problem) : (s.setProb p q).chain = s.chain := rfl
@[simp] theorem State.setProb_port (p : Slot) (q : Problem) : (s.setProb p q).port = s.port := rfl
@[simp] theorem State.setProb_cores (p : Slot) (q : Problem) : (s.setProb p q).cores = s.cores := rfl
@[simp] theorem State.setProb_boot (p : Slot) (q : Problem) : (s.setProb p q).boot = s.boot := rfl
@[simp] theorem State.setProb_flash (p : Slot) (q : Problem) : (s.setProb p q).flash = s.flash := rfl
@[simp] theorem State.setProb_clk (p : Slot) (q : Problem) : (s.setProb p q).clk = s.clk := rfl
@[simp] theorem State.setProb_pins (p : Slot) (q : Problem) : (s.setProb p q).pins = s.pins := rfl
@[simp] theorem State.setProb_io (p : Slot) (q : Problem) : (s.setProb p q).io = s.io := rfl
@[simp] theorem State.setProb_notices (p : Slot) (q : Problem) : (s.setProb p q).notices = s.notices := rfl
@[simp] theorem State.setProb_freeCtr (p : Slot) (q : Problem) : (s.setProb p q).freeCtr = s.freeCtr := rfl
@[simp] theorem State.setProb_pending (p : Slot) (q : Problem) : (s.setProb p q).pending = s.pending := rfl
@[simp] theorem State.setProb_flaws (p : Slot) (q : Problem) : (s.setProb p q).flaws = s.flaws := rfl
@[simp] theorem State.setProb_rd (p : Slot) (q : Problem) (ad : Nat) : (s.setProb p q).rd ad = s.rd ad := rfl
@[simp] theorem State.setProb_fld (p : Slot) (q : Problem) (ad hb lb : Nat) : (s.setProb p q).fld ad hb lb = s.fld ad hb lb := rfl
@[simp] theorem State.setProb_bit (p : Slot) (q : Problem) (ad ib : Nat) : (s.setProb p q).bit ad ib = s.bit ad ib := rfl
@[simp] theorem State.setProb_byte (p : Slot) (q : Problem) (ad : Nat) : (s.setProb p q).byte ad = s.byte ad := rfl
@[simp] theorem State.setProb_cl (p : Slot) (q : Problem) (y : Cl) : (s.setProb p q).cl y = s.cl y := rfl
@[simp] theorem State.setProb_lane (p : Slot) (q : Problem) (y : LaneN) : (s.setProb p q).lane y = s.lane y := rfl
@[simp] theorem State.setProb_hub (p : Slot) (q : Problem) (y : HubN) : (s.setProb p q).hub y = s.hub y := rfl
@[simp] theorem State.setProb_core (p : Slot) (q : Problem) (y : CoreN) : (s.setProb p q).core y = s.core y := rfl
/-! ### setCl -/

@[simp] theorem State.setCl_mem (c : Cl) (q : Cluster) : (s.setCl c q).mem = s.mem := rfl
@[simp] theorem State.setCl_regs (c : Cl) (q : Cluster) : (s.setCl c q).regs = s.regs := rfl
@[simp] theorem State.setCl_per (c : Cl) (q : Cluster) : (s.setCl c q).per = s.per := rfl
@[simp] theorem State.setCl_probs (c : Cl) (q : Cluster) : (s.setCl c q).probs = s.probs := rfl
@[simp] theorem State.setCl_rot (c : Cl) (q : Cluster) : (s.setCl c q).rot = s.rot := rfl
@[simp] theorem State.setCl_chart (c : Cl) (q : Cluster) : (s.setCl c q).chart = s.chart := rfl
@[simp] theorem State.setCl_cell (c : Cl) (q : Cluster) : (s.setCl c q).cell = s.cell := rfl
@[simp] theorem State.setCl_lanes (c : Cl) (q : Cluster) : (s.setCl c q).lanes = s.lanes := rfl
@[simp] theorem State.setCl_hubs (c : Cl) (q : Cluster) : (s.setCl c q).hubs = s.hubs := rfl
@[simp] theorem State.setCl_cap (c : Cl) (q : Cluster) : (s.setCl c q).cap = s.cap := rfl
@[simp] theorem State.setCl_gmem (c : Cl) (q : Cluster) : (s.setCl c q).gmem = s.gmem := rfl
@[simp] theorem State.setCl_saf (c : Cl) (q : Cluster) : (s.setCl c q).saf = s.saf := rfl
@[simp] theorem State.setCl_chain (c : Cl) (q : Cluster) : (s.setCl c q).chain = s.chain := rfl
@[simp] theorem State.setCl_port (c : Cl) (q : Cluster) : (s.setCl c q).port = s.port := rfl
@[simp] theorem State.setCl_cores (c : Cl) (q : Cluster) : (s.setCl c q).cores = s.cores := rfl
@[simp] theorem State.setCl_boot (c : Cl) (q : Cluster) : (s.setCl c q).boot = s.boot := rfl
@[simp] theorem State.setCl_flash (c : Cl) (q : Cluster) : (s.setCl c q).flash = s.flash := rfl
@[simp] theorem State.setCl_clk (c : Cl) (q : Cluster) : (s.setCl c q).clk = s.clk := rfl
@[simp] theorem State.setCl_pins (c : Cl) (q : Cluster) : (s.setCl c q).pins = s.pins := rfl
@[simp] theorem State.setCl_io (c : Cl) (q : Cluster) : (s.setCl c q).io = s.io := rfl
@[simp] theorem State.setCl_notices (c : Cl) (q : Cluster) : (s.setCl c q).notices = s.notices := rfl
@[simp] theorem State.setCl_freeCtr (c : Cl) (q : Cluster) : (s.setCl c q).freeCtr = s.freeCtr := rfl
@[simp] theorem State.setCl_pending (c : Cl) (q : Cluster) : (s.setCl c q).pending = s.pending := rfl
@[simp] theorem State.setCl_flaws (c : Cl) (q : Cluster) : (s.setCl c q).flaws = s.flaws := rfl
@[simp] theorem State.setCl_rd (c : Cl) (q : Cluster) (ad : Nat) : (s.setCl c q).rd ad = s.rd ad := rfl
@[simp] theorem State.setCl_fld (c : Cl) (q : Cluster) (ad hb lb : Nat) : (s.setCl c q).fld ad hb lb = s.fld ad hb lb := rfl
@[simp] theorem State.setCl_bit (c : Cl) (q : Cluster) (ad ib : Nat) : (s.setCl c q).bit ad ib = s.bit ad ib := rfl
@[simp] theorem State.setCl_byte (c : Cl) (q : Cluster) (ad : Nat) : (s.setCl c q).byte ad = s.byte ad := rfl
@[simp] theorem State.setCl_prob (c : Cl) (q : Cluster) (y : Slot) : (s.setCl c q).prob y = s.prob y := rfl
@[simp] theorem State.setCl_lane (c : Cl) (q : Cluster) (y : LaneN) : (s.setCl c q).lane y = s.lane y := rfl
@[simp] theorem State.setCl_hub (c : Cl) (q : Cluster) (y : HubN) : (s.setCl c q).hub y = s.hub y := rfl
@[simp] theorem State.setCl_core (c : Cl) (q : Cluster) (y : CoreN) : (s.setCl c q).core y = s.core y := rfl
/-! ### setLane -/

@[simp] theorem State.setLane_mem (l : LaneN) (q : Lane) : (s.setLane l q).mem = s.mem := rfl
@[simp] theorem State.setLane_regs (l : LaneN) (q : Lane) : (s.setLane l q).regs = s.regs := rfl
@[simp] theorem State.setLane_per (l : LaneN) (q : Lane) : (s.setLane l q).per = s.per := rfl
@[simp] theorem State.setLane_probs (l : LaneN) (q : Lane) : (s.setLane l q).probs = s.probs := rfl
@[simp] theorem State.setLane_cls (l : LaneN) (q : Lane) : (s.setLane l q).cls = s.cls := rfl
@[simp] theorem State.setLane_rot (l : LaneN) (q : Lane) : (s.setLane l q).rot = s.rot := rfl
@[simp] theorem State.setLane_chart (l : LaneN) (q : Lane) : (s.setLane l q).chart = s.chart := rfl
@[simp] theorem State.setLane_cell (l : LaneN) (q : Lane) : (s.setLane l q).cell = s.cell := rfl
@[simp] theorem State.setLane_hubs (l : LaneN) (q : Lane) : (s.setLane l q).hubs = s.hubs := rfl
@[simp] theorem State.setLane_cap (l : LaneN) (q : Lane) : (s.setLane l q).cap = s.cap := rfl
@[simp] theorem State.setLane_gmem (l : LaneN) (q : Lane) : (s.setLane l q).gmem = s.gmem := rfl
@[simp] theorem State.setLane_saf (l : LaneN) (q : Lane) : (s.setLane l q).saf = s.saf := rfl
@[simp] theorem State.setLane_chain (l : LaneN) (q : Lane) : (s.setLane l q).chain = s.chain := rfl
@[simp] theorem State.setLane_port (l : LaneN) (q : Lane) : (s.setLane l q).port = s.port := rfl
@[simp] theorem State.setLane_cores (l : LaneN) (q : Lane) : (s.setLane l q).cores = s.cores := rfl
@[simp] theorem State.setLane_boot (l : LaneN) (q : Lane) : (s.setLane l q).boot = s.boot := rfl
@[simp] theorem State.setLane_flash (l : LaneN) (q : Lane) : (s.setLane l q).flash = s.flash := rfl
@[simp] theorem State.setLane_clk (l : LaneN) (q : Lane) : (s.setLane l q).clk = s.clk := rfl
@[simp] theorem State.setLane_pins (l : LaneN) (q : Lane) : (s.setLane l q).pins = s.pins := rfl
@[simp] theorem State.setLane_io (l : LaneN) (q : Lane) : (s.setLane l q).io = s.io := rfl
@[simp] theorem State.setLane_notices (l : LaneN) (q : Lane) : (s.setLane l q).notices = s.notices := rfl
@[simp] theorem State.setLane_freeCtr (l : LaneN) (q : Lane) : (s.setLane l q).freeCtr = s.freeCtr := rfl
@[simp] theorem State.setLane_pending (l : LaneN) (q : Lane) : (s.setLane l q).pending = s.pending := rfl
@[simp] theorem State.setLane_flaws (l : LaneN) (q : Lane) : (s.setLane l q).flaws = s.flaws := rfl
@[simp] theorem State.setLane_rd (l : LaneN) (q : Lane) (ad : Nat) : (s.setLane l q).rd ad = s.rd ad := rfl
@[simp] theorem State.setLane_fld (l : LaneN) (q : Lane) (ad hb lb : Nat) : (s.setLane l q).fld ad hb lb = s.fld ad hb lb := rfl
@[simp] theorem State.setLane_bit (l : LaneN) (q : Lane) (ad ib : Nat) : (s.setLane l q).bit ad ib = s.bit ad ib := rfl
@[simp] theorem State.setLane_byte (l : LaneN) (q : Lane) (ad : Nat) : (s.setLane l q).byte ad = s.byte ad := rfl
@[simp] theorem State.setLane_prob (l : LaneN) (q : Lane) (y : Slot) : (s.setLane l q).prob y = s.prob y := rfl
@[simp] theorem State.setLane_cl (l : LaneN) (q : Lane) (y : Cl) : (s.setLane l q).cl y = s.cl y := rfl
@[simp] theorem State.setLane_hub (l : LaneN) (q : Lane) (y : HubN) : (s.setLane l q).hub y = s.hub y := rfl
@[simp] theorem State.setLane_core (l : LaneN) (q : Lane) (y : CoreN) : (s.setLane l q).core y = s.core y := rfl
/-! ### setHub -/

@[simp] theorem State.setHub_mem (h : HubN) (q : Hub) : (s.setHub h q).mem = s.mem := rfl
@[simp] theorem State.setHub_regs (h : HubN) (q : Hub) : (s.setHub h q).regs = s.regs := rfl
@[simp] theorem State.setHub_per (h : HubN) (q : Hub) : (s.setHub h q).per = s.per := rfl
@[simp] theorem State.setHub_probs (h : HubN) (q : Hub) : (s.setHub h q).probs = s.probs := rfl
@[simp] theorem State.setHub_cls (h : HubN) (q : Hub) : (s.setHub h q).cls = s.cls := rfl
@[simp] theorem State.setHub_rot (h : HubN) (q : Hub) : (s.setHub h q).rot = s.rot := rfl
@[simp] theorem State.setHub_chart (h : HubN) (q : Hub) : (s.setHub h q).chart = s.chart := rfl
@[simp] theorem State.setHub_cell (h : HubN) (q : Hub) : (s.setHub h q).cell = s.cell := rfl
@[simp] theorem State.setHub_lanes (h : HubN) (q : Hub) : (s.setHub h q).lanes = s.lanes := rfl
@[simp] theorem State.setHub_cap (h : HubN) (q : Hub) : (s.setHub h q).cap = s.cap := rfl
@[simp] theorem State.setHub_gmem (h : HubN) (q : Hub) : (s.setHub h q).gmem = s.gmem := rfl
@[simp] theorem State.setHub_saf (h : HubN) (q : Hub) : (s.setHub h q).saf = s.saf := rfl
@[simp] theorem State.setHub_chain (h : HubN) (q : Hub) : (s.setHub h q).chain = s.chain := rfl
@[simp] theorem State.setHub_port (h : HubN) (q : Hub) : (s.setHub h q).port = s.port := rfl
@[simp] theorem State.setHub_cores (h : HubN) (q : Hub) : (s.setHub h q).cores = s.cores := rfl
@[simp] theorem State.setHub_boot (h : HubN) (q : Hub) : (s.setHub h q).boot = s.boot := rfl
@[simp] theorem State.setHub_flash (h : HubN) (q : Hub) : (s.setHub h q).flash = s.flash := rfl
@[simp] theorem State.setHub_clk (h : HubN) (q : Hub) : (s.setHub h q).clk = s.clk := rfl
@[simp] theorem State.setHub_pins (h : HubN) (q : Hub) : (s.setHub h q).pins = s.pins := rfl
@[simp] theorem State.setHub_io (h : HubN) (q : Hub) : (s.setHub h q).io = s.io := rfl
@[simp] theorem State.setHub_notices (h : HubN) (q : Hub) : (s.setHub h q).notices = s.notices := rfl
@[simp] theorem State.setHub_freeCtr (h : HubN) (q : Hub) : (s.setHub h q).freeCtr = s.freeCtr := rfl
@[simp] theorem State.setHub_pending (h : HubN) (q : Hub) : (s.setHub h q).pending = s.pending := rfl
@[simp] theorem State.setHub_flaws (h : HubN) (q : Hub) : (s.setHub h q).flaws = s.flaws := rfl
@[simp] theorem State.setHub_rd (h : HubN) (q : Hub) (ad : Nat) : (s.setHub h q).rd ad = s.rd ad := rfl
@[simp] theorem State.setHub_fld (h : HubN) (q : Hub) (ad hb lb : Nat) : (s.setHub h q).fld ad hb lb = s.fld ad hb lb := rfl
@[simp] theorem State.setHub_bit (h : HubN) (q : Hub) (ad ib : Nat) : (s.setHub h q).bit ad ib = s.bit ad ib := rfl
@[simp] theorem State.setHub_byte (h : HubN) (q : Hub) (ad : Nat) : (s.setHub h q).byte ad = s.byte ad := rfl
@[simp] theorem State.setHub_prob (h : HubN) (q : Hub) (y : Slot) : (s.setHub h q).prob y = s.prob y := rfl
@[simp] theorem State.setHub_cl (h : HubN) (q : Hub) (y : Cl) : (s.setHub h q).cl y = s.cl y := rfl
@[simp] theorem State.setHub_lane (h : HubN) (q : Hub) (y : LaneN) : (s.setHub h q).lane y = s.lane y := rfl
@[simp] theorem State.setHub_core (h : HubN) (q : Hub) (y : CoreN) : (s.setHub h q).core y = s.core y := rfl
/-! ### setCore -/

@[simp] theorem State.setCore_mem (n : CoreN) (q : Core) : (s.setCore n q).mem = s.mem := rfl
@[simp] theorem State.setCore_regs (n : CoreN) (q : Core) : (s.setCore n q).regs = s.regs := rfl
@[simp] theorem State.setCore_per (n : CoreN) (q : Core) : (s.setCore n q).per = s.per := rfl
@[simp] theorem State.setCore_probs (n : CoreN) (q : Core) : (s.setCore n q).probs = s.probs := rfl
@[simp] theorem State.setCore_cls (n : CoreN) (q : Core) : (s.setCore n q).cls = s.cls := rfl
@[simp] theorem State.setCore_rot (n : CoreN) (q : Core) : (s.setCore n q).rot = s.rot := rfl
@[simp] theorem State.setCore_chart (n : CoreN) (q : Core) : (s.setCore n q).chart = s.chart := rfl
@[simp] theorem State.setCore_cell (n : CoreN) (q : Core) : (s.setCore n q).cell = s.cell := rfl
@[simp] theorem State.setCore_lanes (n : CoreN) (q : Core) : (s.setCore n q).lanes = s.lanes := rfl
@[simp] theorem State.setCore_hubs (n : CoreN) (q : Core) : (s.setCore n q).hubs = s.hubs := rfl
@[simp] theorem State.setCore_cap (n : CoreN) (q : Core) : (s.setCore n q).cap = s.cap := rfl
@[simp] theorem State.setCore_gmem (n : CoreN) (q : Core) : (s.setCore n q).gmem = s.gmem := rfl
@[simp] theorem State.setCore_saf (n : CoreN) (q : Core) : (s.setCore n q).saf = s.saf := rfl
@[simp] theorem State.setCore_chain (n : CoreN) (q : Core) : (s.setCore n q).chain = s.chain := rfl
@[simp] theorem State.setCore_port (n : CoreN) (q : Core) : (s.setCore n q).port = s.port := rfl
@[simp] theorem State.setCore_boot (n : CoreN) (q : Core) : (s.setCore n q).boot = s.boot := rfl
@[simp] theorem State.setCore_flash (n : CoreN) (q : Core) : (s.setCore n q).flash = s.flash := rfl
@[simp] theorem State.setCore_clk (n : CoreN) (q : Core) : (s.setCore n q).clk = s.clk := rfl
@[simp] theorem State.setCore_pins (n : CoreN) (q : Core) : (s.setCore n q).pins = s.pins := rfl
@[simp] theorem State.setCore_io (n : CoreN) (q : Core) : (s.setCore n q).io = s.io := rfl
@[simp] theorem State.setCore_notices (n : CoreN) (q : Core) : (s.setCore n q).notices = s.notices := rfl
@[simp] theorem State.setCore_freeCtr (n : CoreN) (q : Core) : (s.setCore n q).freeCtr = s.freeCtr := rfl
@[simp] theorem State.setCore_pending (n : CoreN) (q : Core) : (s.setCore n q).pending = s.pending := rfl
@[simp] theorem State.setCore_flaws (n : CoreN) (q : Core) : (s.setCore n q).flaws = s.flaws := rfl
@[simp] theorem State.setCore_rd (n : CoreN) (q : Core) (ad : Nat) : (s.setCore n q).rd ad = s.rd ad := rfl
@[simp] theorem State.setCore_fld (n : CoreN) (q : Core) (ad hb lb : Nat) : (s.setCore n q).fld ad hb lb = s.fld ad hb lb := rfl
@[simp] theorem State.setCore_bit (n : CoreN) (q : Core) (ad ib : Nat) : (s.setCore n q).bit ad ib = s.bit ad ib := rfl
@[simp] theorem State.setCore_byte (n : CoreN) (q : Core) (ad : Nat) : (s.setCore n q).byte ad = s.byte ad := rfl
@[simp] theorem State.setCore_prob (n : CoreN) (q : Core) (y : Slot) : (s.setCore n q).prob y = s.prob y := rfl
@[simp] theorem State.setCore_cl (n : CoreN) (q : Core) (y : Cl) : (s.setCore n q).cl y = s.cl y := rfl
@[simp] theorem State.setCore_lane (n : CoreN) (q : Core) (y : LaneN) : (s.setCore n q).lane y = s.lane y := rfl
@[simp] theorem State.setCore_hub (n : CoreN) (q : Core) (y : HubN) : (s.setCore n q).hub y = s.hub y := rfl
/-! ### setPer -/

@[simp] theorem State.setPer_mem (q : Per) : (s.setPer q).mem = s.mem := rfl
@[simp] theorem State.setPer_regs (q : Per) : (s.setPer q).regs = s.regs := rfl
@[simp] theorem State.setPer_per (q : Per) : (s.setPer q).per = q := rfl
@[simp] theorem State.setPer_probs (q : Per) : (s.setPer q).probs = s.probs := rfl
@[simp] theorem State.setPer_cls (q : Per) : (s.setPer q).cls = s.cls := rfl
@[simp] theorem State.setPer_rot (q : Per) : (s.setPer q).rot = s.rot := rfl
@[simp] theorem State.setPer_chart (q : Per) : (s.setPer q).chart = s.chart := rfl
@[simp] theorem State.setPer_cell (q : Per) : (s.setPer q).cell = s.cell := rfl
@[simp] theorem State.setPer_lanes (q : Per) : (s.setPer q).lanes = s.lanes := rfl
@[simp] theorem State.setPer_hubs (q : Per) : (s.setPer q).hubs = s.hubs := rfl
@[simp] theorem State.setPer_cap (q : Per) : (s.setPer q).cap = s.cap := rfl
@[simp] theorem State.setPer_gmem (q : Per) : (s.setPer q).gmem = s.gmem := rfl
@[simp] theorem State.setPer_saf (q : Per) : (s.setPer q).saf = s.saf := rfl
@[simp] theorem State.setPer_chain (q : Per) : (s.setPer q).chain = s.chain := rfl
@[simp] theorem State.setPer_port (q : Per) : (s.setPer q).port = s.port := rfl
@[simp] theorem State.setPer_cores (q : Per) : (s.setPer q).cores = s.cores := rfl
@[simp] theorem State.setPer_boot (q : Per) : (s.setPer q).boot = s.boot := rfl
@[simp] theorem State.setPer_flash (q : Per) : (s.setPer q).flash = s.flash := rfl
@[simp] theorem State.setPer_clk (q : Per) : (s.setPer q).clk = s.clk := rfl
@[simp] theorem State.setPer_pins (q : Per) : (s.setPer q).pins = s.pins := rfl
@[simp] theorem State.setPer_io (q : Per) : (s.setPer q).io = s.io := rfl
@[simp] theorem State.setPer_notices (q : Per) : (s.setPer q).notices = s.notices := rfl
@[simp] theorem State.setPer_freeCtr (q : Per) : (s.setPer q).freeCtr = s.freeCtr := rfl
@[simp] theorem State.setPer_pending (q : Per) : (s.setPer q).pending = s.pending := rfl
@[simp] theorem State.setPer_flaws (q : Per) : (s.setPer q).flaws = s.flaws := rfl
@[simp] theorem State.setPer_rd (q : Per) (ad : Nat) : (s.setPer q).rd ad = s.rd ad := rfl
@[simp] theorem State.setPer_fld (q : Per) (ad hb lb : Nat) : (s.setPer q).fld ad hb lb = s.fld ad hb lb := rfl
@[simp] theorem State.setPer_bit (q : Per) (ad ib : Nat) : (s.setPer q).bit ad ib = s.bit ad ib := rfl
@[simp] theorem State.setPer_byte (q : Per) (ad : Nat) : (s.setPer q).byte ad = s.byte ad := rfl
@[simp] theorem State.setPer_prob (q : Per) (y : Slot) : (s.setPer q).prob y = s.prob y := rfl
@[simp] theorem State.setPer_cl (q : Per) (y : Cl) : (s.setPer q).cl y = s.cl y := rfl
@[simp] theorem State.setPer_lane (q : Per) (y : LaneN) : (s.setPer q).lane y = s.lane y := rfl
@[simp] theorem State.setPer_hub (q : Per) (y : HubN) : (s.setPer q).hub y = s.hub y := rfl
@[simp] theorem State.setPer_core (q : Per) (y : CoreN) : (s.setPer q).core y = s.core y := rfl
/-! ### setRot -/

@[simp] theorem State.setRot_mem (q : Rotation) : (s.setRot q).mem = s.mem := rfl
@[simp] theorem State.setRot_regs (q : Rotation) : (s.setRot q).regs = s.regs := rfl
@[simp] theorem State.setRot_per (q : Rotation) : (s.setRot q).per = s.per := rfl
@[simp] theorem State.setRot_probs (q : Rotation) : (s.setRot q).probs = s.probs := rfl
@[simp] theorem State.setRot_cls (q : Rotation) : (s.setRot q).cls = s.cls := rfl
@[simp] theorem State.setRot_rot (q : Rotation) : (s.setRot q).rot = q := rfl
@[simp] theorem State.setRot_chart (q : Rotation) : (s.setRot q).chart = s.chart := rfl
@[simp] theorem State.setRot_cell (q : Rotation) : (s.setRot q).cell = s.cell := rfl
@[simp] theorem State.setRot_lanes (q : Rotation) : (s.setRot q).lanes = s.lanes := rfl
@[simp] theorem State.setRot_hubs (q : Rotation) : (s.setRot q).hubs = s.hubs := rfl
@[simp] theorem State.setRot_cap (q : Rotation) : (s.setRot q).cap = s.cap := rfl
@[simp] theorem State.setRot_gmem (q : Rotation) : (s.setRot q).gmem = s.gmem := rfl
@[simp] theorem State.setRot_saf (q : Rotation) : (s.setRot q).saf = s.saf := rfl
@[simp] theorem State.setRot_chain (q : Rotation) : (s.setRot q).chain = s.chain := rfl
@[simp] theorem State.setRot_port (q : Rotation) : (s.setRot q).port = s.port := rfl
@[simp] theorem State.setRot_cores (q : Rotation) : (s.setRot q).cores = s.cores := rfl
@[simp] theorem State.setRot_boot (q : Rotation) : (s.setRot q).boot = s.boot := rfl
@[simp] theorem State.setRot_flash (q : Rotation) : (s.setRot q).flash = s.flash := rfl
@[simp] theorem State.setRot_clk (q : Rotation) : (s.setRot q).clk = s.clk := rfl
@[simp] theorem State.setRot_pins (q : Rotation) : (s.setRot q).pins = s.pins := rfl
@[simp] theorem State.setRot_io (q : Rotation) : (s.setRot q).io = s.io := rfl
@[simp] theorem State.setRot_notices (q : Rotation) : (s.setRot q).notices = s.notices := rfl
@[simp] theorem State.setRot_freeCtr (q : Rotation) : (s.setRot q).freeCtr = s.freeCtr := rfl
@[simp] theorem State.setRot_pending (q : Rotation) : (s.setRot q).pending = s.pending := rfl
@[simp] theorem State.setRot_flaws (q : Rotation) : (s.setRot q).flaws = s.flaws := rfl
@[simp] theorem State.setRot_rd (q : Rotation) (ad : Nat) : (s.setRot q).rd ad = s.rd ad := rfl
@[simp] theorem State.setRot_fld (q : Rotation) (ad hb lb : Nat) : (s.setRot q).fld ad hb lb = s.fld ad hb lb := rfl
@[simp] theorem State.setRot_bit (q : Rotation) (ad ib : Nat) : (s.setRot q).bit ad ib = s.bit ad ib := rfl
@[simp] theorem State.setRot_byte (q : Rotation) (ad : Nat) : (s.setRot q).byte ad = s.byte ad := rfl
@[simp] theorem State.setRot_prob (q : Rotation) (y : Slot) : (s.setRot q).prob y = s.prob y := rfl
@[simp] theorem State.setRot_cl (q : Rotation) (y : Cl) : (s.setRot q).cl y = s.cl y := rfl
@[simp] theorem State.setRot_lane (q : Rotation) (y : LaneN) : (s.setRot q).lane y = s.lane y := rfl
@[simp] theorem State.setRot_hub (q : Rotation) (y : HubN) : (s.setRot q).hub y = s.hub y := rfl
@[simp] theorem State.setRot_core (q : Rotation) (y : CoreN) : (s.setRot q).core y = s.core y := rfl
/-! ### setCap -/

@[simp] theorem State.setCap_mem (q : Cap) : (s.setCap q).mem = s.mem := rfl
@[simp] theorem State.setCap_regs (q : Cap) : (s.setCap q).regs = s.regs := rfl
@[simp] theorem State.setCap_per (q : Cap) : (s.setCap q).per = s.per := rfl
@[simp] theorem State.setCap_probs (q : Cap) : (s.setCap q).probs = s.probs := rfl
@[simp] theorem State.setCap_cls (q : Cap) : (s.setCap q).cls = s.cls := rfl
@[simp] theorem State.setCap_rot (q : Cap) : (s.setCap q).rot = s.rot := rfl
@[simp] theorem State.setCap_chart (q : Cap) : (s.setCap q).chart = s.chart := rfl
@[simp] theorem State.setCap_cell (q : Cap) : (s.setCap q).cell = s.cell := rfl
@[simp] theorem State.setCap_lanes (q : Cap) : (s.setCap q).lanes = s.lanes := rfl
@[simp] theorem State.setCap_hubs (q : Cap) : (s.setCap q).hubs = s.hubs := rfl
@[simp] theorem State.setCap_cap (q : Cap) : (s.setCap q).cap = q := rfl
@[simp] theorem State.setCap_gmem (q : Cap) : (s.setCap q).gmem = s.gmem := rfl
@[simp] theorem State.setCap_saf (q : Cap) : (s.setCap q).saf = s.saf := rfl
@[simp] theorem State.setCap_chain (q : Cap) : (s.setCap q).chain = s.chain := rfl
@[simp] theorem State.setCap_port (q : Cap) : (s.setCap q).port = s.port := rfl
@[simp] theorem State.setCap_cores (q : Cap) : (s.setCap q).cores = s.cores := rfl
@[simp] theorem State.setCap_boot (q : Cap) : (s.setCap q).boot = s.boot := rfl
@[simp] theorem State.setCap_flash (q : Cap) : (s.setCap q).flash = s.flash := rfl
@[simp] theorem State.setCap_clk (q : Cap) : (s.setCap q).clk = s.clk := rfl
@[simp] theorem State.setCap_pins (q : Cap) : (s.setCap q).pins = s.pins := rfl
@[simp] theorem State.setCap_io (q : Cap) : (s.setCap q).io = s.io := rfl
@[simp] theorem State.setCap_notices (q : Cap) : (s.setCap q).notices = s.notices := rfl
@[simp] theorem State.setCap_freeCtr (q : Cap) : (s.setCap q).freeCtr = s.freeCtr := rfl
@[simp] theorem State.setCap_pending (q : Cap) : (s.setCap q).pending = s.pending := rfl
@[simp] theorem State.setCap_flaws (q : Cap) : (s.setCap q).flaws = s.flaws := rfl
@[simp] theorem State.setCap_rd (q : Cap) (ad : Nat) : (s.setCap q).rd ad = s.rd ad := rfl
@[simp] theorem State.setCap_fld (q : Cap) (ad hb lb : Nat) : (s.setCap q).fld ad hb lb = s.fld ad hb lb := rfl
@[simp] theorem State.setCap_bit (q : Cap) (ad ib : Nat) : (s.setCap q).bit ad ib = s.bit ad ib := rfl
@[simp] theorem State.setCap_byte (q : Cap) (ad : Nat) : (s.setCap q).byte ad = s.byte ad := rfl
@[simp] theorem State.setCap_prob (q : Cap) (y : Slot) : (s.setCap q).prob y = s.prob y := rfl
@[simp] theorem State.setCap_cl (q : Cap) (y : Cl) : (s.setCap q).cl y = s.cl y := rfl
@[simp] theorem State.setCap_lane (q : Cap) (y : LaneN) : (s.setCap q).lane y = s.lane y := rfl
@[simp] theorem State.setCap_hub (q : Cap) (y : HubN) : (s.setCap q).hub y = s.hub y := rfl
@[simp] theorem State.setCap_core (q : Cap) (y : CoreN) : (s.setCap q).core y = s.core y := rfl
/-! ### setMem -/

@[simp] theorem State.setMem_mem (q : Mem) : (s.setMem q).mem = s.mem := rfl
@[simp] theorem State.setMem_regs (q : Mem) : (s.setMem q).regs = s.regs := rfl
@[simp] theorem State.setMem_per (q : Mem) : (s.setMem q).per = s.per := rfl
@[simp] theorem State.setMem_probs (q : Mem) : (s.setMem q).probs = s.probs := rfl
@[simp] theorem State.setMem_cls (q : Mem) : (s.setMem q).cls = s.cls := rfl
@[simp] theorem State.setMem_rot (q : Mem) : (s.setMem q).rot = s.rot := rfl
@[simp] theorem State.setMem_chart (q : Mem) : (s.setMem q).chart = s.chart := rfl
@[simp] theorem State.setMem_cell (q : Mem) : (s.setMem q).cell = s.cell := rfl
@[simp] theorem State.setMem_lanes (q : Mem) : (s.setMem q).lanes = s.lanes := rfl
@[simp] theorem State.setMem_hubs (q : Mem) : (s.setMem q).hubs = s.hubs := rfl
@[simp] theorem State.setMem_cap (q : Mem) : (s.setMem q).cap = s.cap := rfl
@[simp] theorem State.setMem_gmem (q : Mem) : (s.setMem q).gmem = q := rfl
@[simp] theorem State.setMem_saf (q : Mem) : (s.setMem q).saf = s.saf := rfl
@[simp] theorem State.setMem_chain (q : Mem) : (s.setMem q).chain = s.chain := rfl
@[simp] theorem State.setMem_port (q : Mem) : (s.setMem q).port = s.port := rfl
@[simp] theorem State.setMem_cores (q : Mem) : (s.setMem q).cores = s.cores := rfl
@[simp] theorem State.setMem_boot (q : Mem) : (s.setMem q).boot = s.boot := rfl
@[simp] theorem State.setMem_flash (q : Mem) : (s.setMem q).flash = s.flash := rfl
@[simp] theorem State.setMem_clk (q : Mem) : (s.setMem q).clk = s.clk := rfl
@[simp] theorem State.setMem_pins (q : Mem) : (s.setMem q).pins = s.pins := rfl
@[simp] theorem State.setMem_io (q : Mem) : (s.setMem q).io = s.io := rfl
@[simp] theorem State.setMem_notices (q : Mem) : (s.setMem q).notices = s.notices := rfl
@[simp] theorem State.setMem_freeCtr (q : Mem) : (s.setMem q).freeCtr = s.freeCtr := rfl
@[simp] theorem State.setMem_pending (q : Mem) : (s.setMem q).pending = s.pending := rfl
@[simp] theorem State.setMem_flaws (q : Mem) : (s.setMem q).flaws = s.flaws := rfl
@[simp] theorem State.setMem_rd (q : Mem) (ad : Nat) : (s.setMem q).rd ad = s.rd ad := rfl
@[simp] theorem State.setMem_fld (q : Mem) (ad hb lb : Nat) : (s.setMem q).fld ad hb lb = s.fld ad hb lb := rfl
@[simp] theorem State.setMem_bit (q : Mem) (ad ib : Nat) : (s.setMem q).bit ad ib = s.bit ad ib := rfl
@[simp] theorem State.setMem_byte (q : Mem) (ad : Nat) : (s.setMem q).byte ad = s.byte ad := rfl
@[simp] theorem State.setMem_prob (q : Mem) (y : Slot) : (s.setMem q).prob y = s.prob y := rfl
@[simp] theorem State.setMem_cl (q : Mem) (y : Cl) : (s.setMem q).cl y = s.cl y := rfl
@[simp] theorem State.setMem_lane (q : Mem) (y : LaneN) : (s.setMem q).lane y = s.lane y := rfl
@[simp] theorem State.setMem_hub (q : Mem) (y : HubN) : (s.setMem q).hub y = s.hub y := rfl
@[simp] theorem State.setMem_core (q : Mem) (y : CoreN) : (s.setMem q).core y = s.core y := rfl
/-! ### setSaf -/

@[simp] theorem State.setSaf_mem (q : Saf) : (s.setSaf q).mem = s.mem := rfl
@[simp] theorem State.setSaf_regs (q : Saf) : (s.setSaf q).regs = s.regs := rfl
@[simp] theorem State.setSaf_per (q : Saf) : (s.setSaf q).per = s.per := rfl
@[simp] theorem State.setSaf_probs (q : Saf) : (s.setSaf q).probs = s.probs := rfl
@[simp] theorem State.setSaf_cls (q : Saf) : (s.setSaf q).cls = s.cls := rfl
@[simp] theorem State.setSaf_rot (q : Saf) : (s.setSaf q).rot = s.rot := rfl
@[simp] theorem State.setSaf_chart (q : Saf) : (s.setSaf q).chart = s.chart := rfl
@[simp] theorem State.setSaf_cell (q : Saf) : (s.setSaf q).cell = s.cell := rfl
@[simp] theorem State.setSaf_lanes (q : Saf) : (s.setSaf q).lanes = s.lanes := rfl
@[simp] theorem State.setSaf_hubs (q : Saf) : (s.setSaf q).hubs = s.hubs := rfl
@[simp] theorem State.setSaf_cap (q : Saf) : (s.setSaf q).cap = s.cap := rfl
@[simp] theorem State.setSaf_gmem (q : Saf) : (s.setSaf q).gmem = s.gmem := rfl
@[simp] theorem State.setSaf_saf (q : Saf) : (s.setSaf q).saf = q := rfl
@[simp] theorem State.setSaf_chain (q : Saf) : (s.setSaf q).chain = s.chain := rfl
@[simp] theorem State.setSaf_port (q : Saf) : (s.setSaf q).port = s.port := rfl
@[simp] theorem State.setSaf_cores (q : Saf) : (s.setSaf q).cores = s.cores := rfl
@[simp] theorem State.setSaf_boot (q : Saf) : (s.setSaf q).boot = s.boot := rfl
@[simp] theorem State.setSaf_flash (q : Saf) : (s.setSaf q).flash = s.flash := rfl
@[simp] theorem State.setSaf_clk (q : Saf) : (s.setSaf q).clk = s.clk := rfl
@[simp] theorem State.setSaf_pins (q : Saf) : (s.setSaf q).pins = s.pins := rfl
@[simp] theorem State.setSaf_io (q : Saf) : (s.setSaf q).io = s.io := rfl
@[simp] theorem State.setSaf_notices (q : Saf) : (s.setSaf q).notices = s.notices := rfl
@[simp] theorem State.setSaf_freeCtr (q : Saf) : (s.setSaf q).freeCtr = s.freeCtr := rfl
@[simp] theorem State.setSaf_pending (q : Saf) : (s.setSaf q).pending = s.pending := rfl
@[simp] theorem State.setSaf_flaws (q : Saf) : (s.setSaf q).flaws = s.flaws := rfl
@[simp] theorem State.setSaf_rd (q : Saf) (ad : Nat) : (s.setSaf q).rd ad = s.rd ad := rfl
@[simp] theorem State.setSaf_fld (q : Saf) (ad hb lb : Nat) : (s.setSaf q).fld ad hb lb = s.fld ad hb lb := rfl
@[simp] theorem State.setSaf_bit (q : Saf) (ad ib : Nat) : (s.setSaf q).bit ad ib = s.bit ad ib := rfl
@[simp] theorem State.setSaf_byte (q : Saf) (ad : Nat) : (s.setSaf q).byte ad = s.byte ad := rfl
@[simp] theorem State.setSaf_prob (q : Saf) (y : Slot) : (s.setSaf q).prob y = s.prob y := rfl
@[simp] theorem State.setSaf_cl (q : Saf) (y : Cl) : (s.setSaf q).cl y = s.cl y := rfl
@[simp] theorem State.setSaf_lane (q : Saf) (y : LaneN) : (s.setSaf q).lane y = s.lane y := rfl
@[simp] theorem State.setSaf_hub (q : Saf) (y : HubN) : (s.setSaf q).hub y = s.hub y := rfl
@[simp] theorem State.setSaf_core (q : Saf) (y : CoreN) : (s.setSaf q).core y = s.core y := rfl
/-! ### setChain -/

@[simp] theorem State.setChain_mem (q : Chain) : (s.setChain q).mem = s.mem := rfl
@[simp] theorem State.setChain_regs (q : Chain) : (s.setChain q).regs = s.regs := rfl
@[simp] theorem State.setChain_per (q : Chain) : (s.setChain q).per = s.per := rfl
@[simp] theorem State.setChain_probs (q : Chain) : (s.setChain q).probs = s.probs := rfl
@[simp] theorem State.setChain_cls (q : Chain) : (s.setChain q).cls = s.cls := rfl
@[simp] theorem State.setChain_rot (q : Chain) : (s.setChain q).rot = s.rot := rfl
@[simp] theorem State.setChain_chart (q : Chain) : (s.setChain q).chart = s.chart := rfl
@[simp] theorem State.setChain_cell (q : Chain) : (s.setChain q).cell = s.cell := rfl
@[simp] theorem State.setChain_lanes (q : Chain) : (s.setChain q).lanes = s.lanes := rfl
@[simp] theorem State.setChain_hubs (q : Chain) : (s.setChain q).hubs = s.hubs := rfl
@[simp] theorem State.setChain_cap (q : Chain) : (s.setChain q).cap = s.cap := rfl
@[simp] theorem State.setChain_gmem (q : Chain) : (s.setChain q).gmem = s.gmem := rfl
@[simp] theorem State.setChain_saf (q : Chain) : (s.setChain q).saf = s.saf := rfl
@[simp] theorem State.setChain_chain (q : Chain) : (s.setChain q).chain = q := rfl
@[simp] theorem State.setChain_port (q : Chain) : (s.setChain q).port = s.port := rfl
@[simp] theorem State.setChain_cores (q : Chain) : (s.setChain q).cores = s.cores := rfl
@[simp] theorem State.setChain_boot (q : Chain) : (s.setChain q).boot = s.boot := rfl
@[simp] theorem State.setChain_flash (q : Chain) : (s.setChain q).flash = s.flash := rfl
@[simp] theorem State.setChain_clk (q : Chain) : (s.setChain q).clk = s.clk := rfl
@[simp] theorem State.setChain_pins (q : Chain) : (s.setChain q).pins = s.pins := rfl
@[simp] theorem State.setChain_io (q : Chain) : (s.setChain q).io = s.io := rfl
@[simp] theorem State.setChain_notices (q : Chain) : (s.setChain q).notices = s.notices := rfl
@[simp] theorem State.setChain_freeCtr (q : Chain) : (s.setChain q).freeCtr = s.freeCtr := rfl
@[simp] theorem State.setChain_pending (q : Chain) : (s.setChain q).pending = s.pending := rfl
@[simp] theorem State.setChain_flaws (q : Chain) : (s.setChain q).flaws = s.flaws := rfl
@[simp] theorem State.setChain_rd (q : Chain) (ad : Nat) : (s.setChain q).rd ad = s.rd ad := rfl
@[simp] theorem State.setChain_fld (q : Chain) (ad hb lb : Nat) : (s.setChain q).fld ad hb lb = s.fld ad hb lb := rfl
@[simp] theorem State.setChain_bit (q : Chain) (ad ib : Nat) : (s.setChain q).bit ad ib = s.bit ad ib := rfl
@[simp] theorem State.setChain_byte (q : Chain) (ad : Nat) : (s.setChain q).byte ad = s.byte ad := rfl
@[simp] theorem State.setChain_prob (q : Chain) (y : Slot) : (s.setChain q).prob y = s.prob y := rfl
@[simp] theorem State.setChain_cl (q : Chain) (y : Cl) : (s.setChain q).cl y = s.cl y := rfl
@[simp] theorem State.setChain_lane (q : Chain) (y : LaneN) : (s.setChain q).lane y = s.lane y := rfl
@[simp] theorem State.setChain_hub (q : Chain) (y : HubN) : (s.setChain q).hub y = s.hub y := rfl
@[simp] theorem State.setChain_core (q : Chain) (y : CoreN) : (s.setChain q).core y = s.core y := rfl
/-! ### setPort -/

@[simp] theorem State.setPort_mem (q : Port) : (s.setPort q).mem = s.mem := rfl
@[simp] theorem State.setPort_regs (q : Port) : (s.setPort q).regs = s.regs := rfl
@[simp] theorem State.setPort_per (q : Port) : (s.setPort q).per = s.per := rfl
@[simp] theorem State.setPort_probs (q : Port) : (s.setPort q).probs = s.probs := rfl
@[simp] theorem State.setPort_cls (q : Port) : (s.setPort q).cls = s.cls := rfl
@[simp] theorem State.setPort_rot (q : Port) : (s.setPort q).rot = s.rot := rfl
@[simp] theorem State.setPort_chart (q : Port) : (s.setPort q).chart = s.chart := rfl
@[simp] theorem State.setPort_cell (q : Port) : (s.setPort q).cell = s.cell := rfl
@[simp] theorem State.setPort_lanes (q : Port) : (s.setPort q).lanes = s.lanes := rfl
@[simp] theorem State.setPort_hubs (q : Port) : (s.setPort q).hubs = s.hubs := rfl
@[simp] theorem State.setPort_cap (q : Port) : (s.setPort q).cap = s.cap := rfl
@[simp] theorem State.setPort_gmem (q : Port) : (s.setPort q).gmem = s.gmem := rfl
@[simp] theorem State.setPort_saf (q : Port) : (s.setPort q).saf = s.saf := rfl
@[simp] theorem State.setPort_chain (q : Port) : (s.setPort q).chain = s.chain := rfl
@[simp] theorem State.setPort_port (q : Port) : (s.setPort q).port = q := rfl
@[simp] theorem State.setPort_cores (q : Port) : (s.setPort q).cores = s.cores := rfl
@[simp] theorem State.setPort_boot (q : Port) : (s.setPort q).boot = s.boot := rfl
@[simp] theorem State.setPort_flash (q : Port) : (s.setPort q).flash = s.flash := rfl
@[simp] theorem State.setPort_clk (q : Port) : (s.setPort q).clk = s.clk := rfl
@[simp] theorem State.setPort_pins (q : Port) : (s.setPort q).pins = s.pins := rfl
@[simp] theorem State.setPort_io (q : Port) : (s.setPort q).io = s.io := rfl
@[simp] theorem State.setPort_notices (q : Port) : (s.setPort q).notices = s.notices := rfl
@[simp] theorem State.setPort_freeCtr (q : Port) : (s.setPort q).freeCtr = s.freeCtr := rfl
@[simp] theorem State.setPort_pending (q : Port) : (s.setPort q).pending = s.pending := rfl
@[simp] theorem State.setPort_flaws (q : Port) : (s.setPort q).flaws = s.flaws := rfl
@[simp] theorem State.setPort_rd (q : Port) (ad : Nat) : (s.setPort q).rd ad = s.rd ad := rfl
@[simp] theorem State.setPort_fld (q : Port) (ad hb lb : Nat) : (s.setPort q).fld ad hb lb = s.fld ad hb lb := rfl
@[simp] theorem State.setPort_bit (q : Port) (ad ib : Nat) : (s.setPort q).bit ad ib = s.bit ad ib := rfl
@[simp] theorem State.setPort_byte (q : Port) (ad : Nat) : (s.setPort q).byte ad = s.byte ad := rfl
@[simp] theorem State.setPort_prob (q : Port) (y : Slot) : (s.setPort q).prob y = s.prob y := rfl
@[simp] theorem State.setPort_cl (q : Port) (y : Cl) : (s.setPort q).cl y = s.cl y := rfl
@[simp] theorem State.setPort_lane (q : Port) (y : LaneN) : (s.setPort q).lane y = s.lane y := rfl
@[simp] theorem State.setPort_hub (q : Port) (y : HubN) : (s.setPort q).hub y = s.hub y := rfl
@[simp] theorem State.setPort_core (q : Port) (y : CoreN) : (s.setPort q).core y = s.core y := rfl
/-! ### setBoot -/

@[simp] theorem State.setBoot_mem (q : Boot) : (s.setBoot q).mem = s.mem := rfl
@[simp] theorem State.setBoot_regs (q : Boot) : (s.setBoot q).regs = s.regs := rfl
@[simp] theorem State.setBoot_per (q : Boot) : (s.setBoot q).per = s.per := rfl
@[simp] theorem State.setBoot_probs (q : Boot) : (s.setBoot q).probs = s.probs := rfl
@[simp] theorem State.setBoot_cls (q : Boot) : (s.setBoot q).cls = s.cls := rfl
@[simp] theorem State.setBoot_rot (q : Boot) : (s.setBoot q).rot = s.rot := rfl
@[simp] theorem State.setBoot_chart (q : Boot) : (s.setBoot q).chart = s.chart := rfl
@[simp] theorem State.setBoot_cell (q : Boot) : (s.setBoot q).cell = s.cell := rfl
@[simp] theorem State.setBoot_lanes (q : Boot) : (s.setBoot q).lanes = s.lanes := rfl
@[simp] theorem State.setBoot_hubs (q : Boot) : (s.setBoot q).hubs = s.hubs := rfl
@[simp] theorem State.setBoot_cap (q : Boot) : (s.setBoot q).cap = s.cap := rfl
@[simp] theorem State.setBoot_gmem (q : Boot) : (s.setBoot q).gmem = s.gmem := rfl
@[simp] theorem State.setBoot_saf (q : Boot) : (s.setBoot q).saf = s.saf := rfl
@[simp] theorem State.setBoot_chain (q : Boot) : (s.setBoot q).chain = s.chain := rfl
@[simp] theorem State.setBoot_port (q : Boot) : (s.setBoot q).port = s.port := rfl
@[simp] theorem State.setBoot_cores (q : Boot) : (s.setBoot q).cores = s.cores := rfl
@[simp] theorem State.setBoot_boot (q : Boot) : (s.setBoot q).boot = q := rfl
@[simp] theorem State.setBoot_flash (q : Boot) : (s.setBoot q).flash = s.flash := rfl
@[simp] theorem State.setBoot_clk (q : Boot) : (s.setBoot q).clk = s.clk := rfl
@[simp] theorem State.setBoot_pins (q : Boot) : (s.setBoot q).pins = s.pins := rfl
@[simp] theorem State.setBoot_io (q : Boot) : (s.setBoot q).io = s.io := rfl
@[simp] theorem State.setBoot_notices (q : Boot) : (s.setBoot q).notices = s.notices := rfl
@[simp] theorem State.setBoot_freeCtr (q : Boot) : (s.setBoot q).freeCtr = s.freeCtr := rfl
@[simp] theorem State.setBoot_pending (q : Boot) : (s.setBoot q).pending = s.pending := rfl
@[simp] theorem State.setBoot_flaws (q : Boot) : (s.setBoot q).flaws = s.flaws := rfl
@[simp] theorem State.setBoot_rd (q : Boot) (ad : Nat) : (s.setBoot q).rd ad = s.rd ad := rfl
@[simp] theorem State.setBoot_fld (q : Boot) (ad hb lb : Nat) : (s.setBoot q).fld ad hb lb = s.fld ad hb lb := rfl
@[simp] theorem State.setBoot_bit (q : Boot) (ad ib : Nat) : (s.setBoot q).bit ad ib = s.bit ad ib := rfl
@[simp] theorem State.setBoot_byte (q : Boot) (ad : Nat) : (s.setBoot q).byte ad = s.byte ad := rfl
@[simp] theorem State.setBoot_prob (q : Boot) (y : Slot) : (s.setBoot q).prob y = s.prob y := rfl
@[simp] theorem State.setBoot_cl (q : Boot) (y : Cl) : (s.setBoot q).cl y = s.cl y := rfl
@[simp] theorem State.setBoot_lane (q : Boot) (y : LaneN) : (s.setBoot q).lane y = s.lane y := rfl
@[simp] theorem State.setBoot_hub (q : Boot) (y : HubN) : (s.setBoot q).hub y = s.hub y := rfl
@[simp] theorem State.setBoot_core (q : Boot) (y : CoreN) : (s.setBoot q).core y = s.core y := rfl
/-! ### setFlash -/

@[simp] theorem State.setFlash_mem (q : Flash) : (s.setFlash q).mem = s.mem := rfl
@[simp] theorem State.setFlash_regs (q : Flash) : (s.setFlash q).regs = s.regs := rfl
@[simp] theorem State.setFlash_per (q : Flash) : (s.setFlash q).per = s.per := rfl
@[simp] theorem State.setFlash_probs (q : Flash) : (s.setFlash q).probs = s.probs := rfl
@[simp] theorem State.setFlash_cls (q : Flash) : (s.setFlash q).cls = s.cls := rfl
@[simp] theorem State.setFlash_rot (q : Flash) : (s.setFlash q).rot = s.rot := rfl
@[simp] theorem State.setFlash_chart (q : Flash) : (s.setFlash q).chart = s.chart := rfl
@[simp] theorem State.setFlash_cell (q : Flash) : (s.setFlash q).cell = s.cell := rfl
@[simp] theorem State.setFlash_lanes (q : Flash) : (s.setFlash q).lanes = s.lanes := rfl
@[simp] theorem State.setFlash_hubs (q : Flash) : (s.setFlash q).hubs = s.hubs := rfl
@[simp] theorem State.setFlash_cap (q : Flash) : (s.setFlash q).cap = s.cap := rfl
@[simp] theorem State.setFlash_gmem (q : Flash) : (s.setFlash q).gmem = s.gmem := rfl
@[simp] theorem State.setFlash_saf (q : Flash) : (s.setFlash q).saf = s.saf := rfl
@[simp] theorem State.setFlash_chain (q : Flash) : (s.setFlash q).chain = s.chain := rfl
@[simp] theorem State.setFlash_port (q : Flash) : (s.setFlash q).port = s.port := rfl
@[simp] theorem State.setFlash_cores (q : Flash) : (s.setFlash q).cores = s.cores := rfl
@[simp] theorem State.setFlash_boot (q : Flash) : (s.setFlash q).boot = s.boot := rfl
@[simp] theorem State.setFlash_flash (q : Flash) : (s.setFlash q).flash = q := rfl
@[simp] theorem State.setFlash_clk (q : Flash) : (s.setFlash q).clk = s.clk := rfl
@[simp] theorem State.setFlash_pins (q : Flash) : (s.setFlash q).pins = s.pins := rfl
@[simp] theorem State.setFlash_io (q : Flash) : (s.setFlash q).io = s.io := rfl
@[simp] theorem State.setFlash_notices (q : Flash) : (s.setFlash q).notices = s.notices := rfl
@[simp] theorem State.setFlash_freeCtr (q : Flash) : (s.setFlash q).freeCtr = s.freeCtr := rfl
@[simp] theorem State.setFlash_pending (q : Flash) : (s.setFlash q).pending = s.pending := rfl
@[simp] theorem State.setFlash_flaws (q : Flash) : (s.setFlash q).flaws = s.flaws := rfl
@[simp] theorem State.setFlash_rd (q : Flash) (ad : Nat) : (s.setFlash q).rd ad = s.rd ad := rfl
@[simp] theorem State.setFlash_fld (q : Flash) (ad hb lb : Nat) : (s.setFlash q).fld ad hb lb = s.fld ad hb lb := rfl
@[simp] theorem State.setFlash_bit (q : Flash) (ad ib : Nat) : (s.setFlash q).bit ad ib = s.bit ad ib := rfl
@[simp] theorem State.setFlash_byte (q : Flash) (ad : Nat) : (s.setFlash q).byte ad = s.byte ad := rfl
@[simp] theorem State.setFlash_prob (q : Flash) (y : Slot) : (s.setFlash q).prob y = s.prob y := rfl
@[simp] theorem State.setFlash_cl (q : Flash) (y : Cl) : (s.setFlash q).cl y = s.cl y := rfl
@[simp] theorem State.setFlash_lane (q : Flash) (y : LaneN) : (s.setFlash q).lane y = s.lane y := rfl
@[simp] theorem State.setFlash_hub (q : Flash) (y : HubN) : (s.setFlash q).hub y = s.hub y := rfl
@[simp] theorem State.setFlash_core (q : Flash) (y : CoreN) : (s.setFlash q).core y = s.core y := rfl
/-! ### setClk -/

@[simp] theorem State.setClk_mem (q : Clk) : (s.setClk q).mem = s.mem := rfl
@[simp] theorem State.setClk_regs (q : Clk) : (s.setClk q).regs = s.regs := rfl
@[simp] theorem State.setClk_per (q : Clk) : (s.setClk q).per = s.per := rfl
@[simp] theorem State.setClk_probs (q : Clk) : (s.setClk q).probs = s.probs := rfl
@[simp] theorem State.setClk_cls (q : Clk) : (s.setClk q).cls = s.cls := rfl
@[simp] theorem State.setClk_rot (q : Clk) : (s.setClk q).rot = s.rot := rfl
@[simp] theorem State.setClk_chart (q : Clk) : (s.setClk q).chart = s.chart := rfl
@[simp] theorem State.setClk_cell (q : Clk) : (s.setClk q).cell = s.cell := rfl
@[simp] theorem State.setClk_lanes (q : Clk) : (s.setClk q).lanes = s.lanes := rfl
@[simp] theorem State.setClk_hubs (q : Clk) : (s.setClk q).hubs = s.hubs := rfl
@[simp] theorem State.setClk_cap (q : Clk) : (s.setClk q).cap = s.cap := rfl
@[simp] theorem State.setClk_gmem (q : Clk) : (s.setClk q).gmem = s.gmem := rfl
@[simp] theorem State.setClk_saf (q : Clk) : (s.setClk q).saf = s.saf := rfl
@[simp] theorem State.setClk_chain (q : Clk) : (s.setClk q).chain = s.chain := rfl
@[simp] theorem State.setClk_port (q : Clk) : (s.setClk q).port = s.port := rfl
@[simp] theorem State.setClk_cores (q : Clk) : (s.setClk q).cores = s.cores := rfl
@[simp] theorem State.setClk_boot (q : Clk) : (s.setClk q).boot = s.boot := rfl
@[simp] theorem State.setClk_flash (q : Clk) : (s.setClk q).flash = s.flash := rfl
@[simp] theorem State.setClk_clk (q : Clk) : (s.setClk q).clk = q := rfl
@[simp] theorem State.setClk_pins (q : Clk) : (s.setClk q).pins = s.pins := rfl
@[simp] theorem State.setClk_io (q : Clk) : (s.setClk q).io = s.io := rfl
@[simp] theorem State.setClk_notices (q : Clk) : (s.setClk q).notices = s.notices := rfl
@[simp] theorem State.setClk_freeCtr (q : Clk) : (s.setClk q).freeCtr = s.freeCtr := rfl
@[simp] theorem State.setClk_pending (q : Clk) : (s.setClk q).pending = s.pending := rfl
@[simp] theorem State.setClk_flaws (q : Clk) : (s.setClk q).flaws = s.flaws := rfl
@[simp] theorem State.setClk_rd (q : Clk) (ad : Nat) : (s.setClk q).rd ad = s.rd ad := rfl
@[simp] theorem State.setClk_fld (q : Clk) (ad hb lb : Nat) : (s.setClk q).fld ad hb lb = s.fld ad hb lb := rfl
@[simp] theorem State.setClk_bit (q : Clk) (ad ib : Nat) : (s.setClk q).bit ad ib = s.bit ad ib := rfl
@[simp] theorem State.setClk_byte (q : Clk) (ad : Nat) : (s.setClk q).byte ad = s.byte ad := rfl
@[simp] theorem State.setClk_prob (q : Clk) (y : Slot) : (s.setClk q).prob y = s.prob y := rfl
@[simp] theorem State.setClk_cl (q : Clk) (y : Cl) : (s.setClk q).cl y = s.cl y := rfl
@[simp] theorem State.setClk_lane (q : Clk) (y : LaneN) : (s.setClk q).lane y = s.lane y := rfl
@[simp] theorem State.setClk_hub (q : Clk) (y : HubN) : (s.setClk q).hub y = s.hub y := rfl
@[simp] theorem State.setClk_core (q : Clk) (y : CoreN) : (s.setClk q).core y = s.core y := rfl
/-! ### setPins -/

@[simp] theorem State.setPins_mem (q : Pins) : (s.setPins q).mem = s.mem := rfl
@[simp] theorem State.setPins_regs (q : Pins) : (s.setPins q).regs = s.regs := rfl
@[simp] theorem State.setPins_per (q : Pins) : (s.setPins q).per = s.per := rfl
@[simp] theorem State.setPins_probs (q : Pins) : (s.setPins q).probs = s.probs := rfl
@[simp] theorem State.setPins_cls (q : Pins) : (s.setPins q).cls = s.cls := rfl
@[simp] theorem State.setPins_rot (q : Pins) : (s.setPins q).rot = s.rot := rfl
@[simp] theorem State.setPins_chart (q : Pins) : (s.setPins q).chart = s.chart := rfl
@[simp] theorem State.setPins_cell (q : Pins) : (s.setPins q).cell = s.cell := rfl
@[simp] theorem State.setPins_lanes (q : Pins) : (s.setPins q).lanes = s.lanes := rfl
@[simp] theorem State.setPins_hubs (q : Pins) : (s.setPins q).hubs = s.hubs := rfl
@[simp] theorem State.setPins_cap (q : Pins) : (s.setPins q).cap = s.cap := rfl
@[simp] theorem State.setPins_gmem (q : Pins) : (s.setPins q).gmem = s.gmem := rfl
@[simp] theorem State.setPins_saf (q : Pins) : (s.setPins q).saf = s.saf := rfl
@[simp] theorem State.setPins_chain (q : Pins) : (s.setPins q).chain = s.chain := rfl
@[simp] theorem State.setPins_port (q : Pins) : (s.setPins q).port = s.port := rfl
@[simp] theorem State.setPins_cores (q : Pins) : (s.setPins q).cores = s.cores := rfl
@[simp] theorem State.setPins_boot (q : Pins) : (s.setPins q).boot = s.boot := rfl
@[simp] theorem State.setPins_flash (q : Pins) : (s.setPins q).flash = s.flash := rfl
@[simp] theorem State.setPins_clk (q : Pins) : (s.setPins q).clk = s.clk := rfl
@[simp] theorem State.setPins_pins (q : Pins) : (s.setPins q).pins = q := rfl
@[simp] theorem State.setPins_io (q : Pins) : (s.setPins q).io = s.io := rfl
@[simp] theorem State.setPins_notices (q : Pins) : (s.setPins q).notices = s.notices := rfl
@[simp] theorem State.setPins_freeCtr (q : Pins) : (s.setPins q).freeCtr = s.freeCtr := rfl
@[simp] theorem State.setPins_pending (q : Pins) : (s.setPins q).pending = s.pending := rfl
@[simp] theorem State.setPins_flaws (q : Pins) : (s.setPins q).flaws = s.flaws := rfl
@[simp] theorem State.setPins_rd (q : Pins) (ad : Nat) : (s.setPins q).rd ad = s.rd ad := rfl
@[simp] theorem State.setPins_fld (q : Pins) (ad hb lb : Nat) : (s.setPins q).fld ad hb lb = s.fld ad hb lb := rfl
@[simp] theorem State.setPins_bit (q : Pins) (ad ib : Nat) : (s.setPins q).bit ad ib = s.bit ad ib := rfl
@[simp] theorem State.setPins_byte (q : Pins) (ad : Nat) : (s.setPins q).byte ad = s.byte ad := rfl
@[simp] theorem State.setPins_prob (q : Pins) (y : Slot) : (s.setPins q).prob y = s.prob y := rfl
@[simp] theorem State.setPins_cl (q : Pins) (y : Cl) : (s.setPins q).cl y = s.cl y := rfl
@[simp] theorem State.setPins_lane (q : Pins) (y : LaneN) : (s.setPins q).lane y = s.lane y := rfl
@[simp] theorem State.setPins_hub (q : Pins) (y : HubN) : (s.setPins q).hub y = s.hub y := rfl
@[simp] theorem State.setPins_core (q : Pins) (y : CoreN) : (s.setPins q).core y = s.core y := rfl
/-! ### setPlot -/

@[simp] theorem State.setPlot_mem (k : Fin 64) (q : PlotCh) : (s.setPlot k q).mem = s.mem := rfl
@[simp] theorem State.setPlot_regs (k : Fin 64) (q : PlotCh) : (s.setPlot k q).regs = s.regs := rfl
@[simp] theorem State.setPlot_per (k : Fin 64) (q : PlotCh) : (s.setPlot k q).per = s.per := rfl
@[simp] theorem State.setPlot_probs (k : Fin 64) (q : PlotCh) : (s.setPlot k q).probs = s.probs := rfl
@[simp] theorem State.setPlot_cls (k : Fin 64) (q : PlotCh) : (s.setPlot k q).cls = s.cls := rfl
@[simp] theorem State.setPlot_rot (k : Fin 64) (q : PlotCh) : (s.setPlot k q).rot = s.rot := rfl
@[simp] theorem State.setPlot_chart (k : Fin 64) (q : PlotCh) : (s.setPlot k q).chart = s.chart := rfl
@[simp] theorem State.setPlot_cell (k : Fin 64) (q : PlotCh) : (s.setPlot k q).cell = s.cell := rfl
@[simp] theorem State.setPlot_lanes (k : Fin 64) (q : PlotCh) : (s.setPlot k q).lanes = s.lanes := rfl
@[simp] theorem State.setPlot_hubs (k : Fin 64) (q : PlotCh) : (s.setPlot k q).hubs = s.hubs := rfl
@[simp] theorem State.setPlot_cap (k : Fin 64) (q : PlotCh) : (s.setPlot k q).cap = s.cap := rfl
@[simp] theorem State.setPlot_gmem (k : Fin 64) (q : PlotCh) : (s.setPlot k q).gmem = s.gmem := rfl
@[simp] theorem State.setPlot_saf (k : Fin 64) (q : PlotCh) : (s.setPlot k q).saf = s.saf := rfl
@[simp] theorem State.setPlot_chain (k : Fin 64) (q : PlotCh) : (s.setPlot k q).chain = s.chain := rfl
@[simp] theorem State.setPlot_port (k : Fin 64) (q : PlotCh) : (s.setPlot k q).port = s.port := rfl
@[simp] theorem State.setPlot_cores (k : Fin 64) (q : PlotCh) : (s.setPlot k q).cores = s.cores := rfl
@[simp] theorem State.setPlot_boot (k : Fin 64) (q : PlotCh) : (s.setPlot k q).boot = s.boot := rfl
@[simp] theorem State.setPlot_flash (k : Fin 64) (q : PlotCh) : (s.setPlot k q).flash = s.flash := rfl
@[simp] theorem State.setPlot_clk (k : Fin 64) (q : PlotCh) : (s.setPlot k q).clk = s.clk := rfl
@[simp] theorem State.setPlot_pins (k : Fin 64) (q : PlotCh) : (s.setPlot k q).pins = s.pins := rfl
@[simp] theorem State.setPlot_notices (k : Fin 64) (q : PlotCh) : (s.setPlot k q).notices = s.notices := rfl
@[simp] theorem State.setPlot_freeCtr (k : Fin 64) (q : PlotCh) : (s.setPlot k q).freeCtr = s.freeCtr := rfl
@[simp] theorem State.setPlot_pending (k : Fin 64) (q : PlotCh) : (s.setPlot k q).pending = s.pending := rfl
@[simp] theorem State.setPlot_flaws (k : Fin 64) (q : PlotCh) : (s.setPlot k q).flaws = s.flaws := rfl
@[simp] theorem State.setPlot_rd (k : Fin 64) (q : PlotCh) (ad : Nat) : (s.setPlot k q).rd ad = s.rd ad := rfl
@[simp] theorem State.setPlot_fld (k : Fin 64) (q : PlotCh) (ad hb lb : Nat) : (s.setPlot k q).fld ad hb lb = s.fld ad hb lb := rfl
@[simp] theorem State.setPlot_bit (k : Fin 64) (q : PlotCh) (ad ib : Nat) : (s.setPlot k q).bit ad ib = s.bit ad ib := rfl
@[simp] theorem State.setPlot_byte (k : Fin 64) (q : PlotCh) (ad : Nat) : (s.setPlot k q).byte ad = s.byte ad := rfl
@[simp] theorem State.setPlot_prob (k : Fin 64) (q : PlotCh) (y : Slot) : (s.setPlot k q).prob y = s.prob y := rfl
@[simp] theorem State.setPlot_cl (k : Fin 64) (q : PlotCh) (y : Cl) : (s.setPlot k q).cl y = s.cl y := rfl
@[simp] theorem State.setPlot_lane (k : Fin 64) (q : PlotCh) (y : LaneN) : (s.setPlot k q).lane y = s.lane y := rfl
@[simp] theorem State.setPlot_hub (k : Fin 64) (q : PlotCh) (y : HubN) : (s.setPlot k q).hub y = s.hub y := rfl
@[simp] theorem State.setPlot_core (k : Fin 64) (q : PlotCh) (y : CoreN) : (s.setPlot k q).core y = s.core y := rfl
/-! ### setSer -/

@[simp] theorem State.setSer_mem (i : Fin 6) (q : SerCh) : (s.setSer i q).mem = s.mem := rfl
@[simp] theorem State.setSer_regs (i : Fin 6) (q : SerCh) : (s.setSer i q).regs = s.regs := rfl
@[simp] theorem State.setSer_per (i : Fin 6) (q : SerCh) : (s.setSer i q).per = s.per := rfl
@[simp] theorem State.setSer_probs (i : Fin 6) (q : SerCh) : (s.setSer i q).probs = s.probs := rfl
@[simp] theorem State.setSer_cls (i : Fin 6) (q : SerCh) : (s.setSer i q).cls = s.cls := rfl
@[simp] theorem State.setSer_rot (i : Fin 6) (q : SerCh) : (s.setSer i q).rot = s.rot := rfl
@[simp] theorem State.setSer_chart (i : Fin 6) (q : SerCh) : (s.setSer i q).chart = s.chart := rfl
@[simp] theorem State.setSer_cell (i : Fin 6) (q : SerCh) : (s.setSer i q).cell = s.cell := rfl
@[simp] theorem State.setSer_lanes (i : Fin 6) (q : SerCh) : (s.setSer i q).lanes = s.lanes := rfl
@[simp] theorem State.setSer_hubs (i : Fin 6) (q : SerCh) : (s.setSer i q).hubs = s.hubs := rfl
@[simp] theorem State.setSer_cap (i : Fin 6) (q : SerCh) : (s.setSer i q).cap = s.cap := rfl
@[simp] theorem State.setSer_gmem (i : Fin 6) (q : SerCh) : (s.setSer i q).gmem = s.gmem := rfl
@[simp] theorem State.setSer_saf (i : Fin 6) (q : SerCh) : (s.setSer i q).saf = s.saf := rfl
@[simp] theorem State.setSer_chain (i : Fin 6) (q : SerCh) : (s.setSer i q).chain = s.chain := rfl
@[simp] theorem State.setSer_port (i : Fin 6) (q : SerCh) : (s.setSer i q).port = s.port := rfl
@[simp] theorem State.setSer_cores (i : Fin 6) (q : SerCh) : (s.setSer i q).cores = s.cores := rfl
@[simp] theorem State.setSer_boot (i : Fin 6) (q : SerCh) : (s.setSer i q).boot = s.boot := rfl
@[simp] theorem State.setSer_flash (i : Fin 6) (q : SerCh) : (s.setSer i q).flash = s.flash := rfl
@[simp] theorem State.setSer_clk (i : Fin 6) (q : SerCh) : (s.setSer i q).clk = s.clk := rfl
@[simp] theorem State.setSer_pins (i : Fin 6) (q : SerCh) : (s.setSer i q).pins = s.pins := rfl
@[simp] theorem State.setSer_notices (i : Fin 6) (q : SerCh) : (s.setSer i q).notices = s.notices := rfl
@[simp] theorem State.setSer_freeCtr (i : Fin 6) (q : SerCh) : (s.setSer i q).freeCtr = s.freeCtr := rfl
@[simp] theorem State.setSer_pending (i : Fin 6) (q : SerCh) : (s.setSer i q).pending = s.pending := rfl
@[simp] theorem State.setSer_flaws (i : Fin 6) (q : SerCh) : (s.setSer i q).flaws = s.flaws := rfl
@[simp] theorem State.setSer_rd (i : Fin 6) (q : SerCh) (ad : Nat) : (s.setSer i q).rd ad = s.rd ad := rfl
@[simp] theorem State.setSer_fld (i : Fin 6) (q : SerCh) (ad hb lb : Nat) : (s.setSer i q).fld ad hb lb = s.fld ad hb lb := rfl
@[simp] theorem State.setSer_bit (i : Fin 6) (q : SerCh) (ad ib : Nat) : (s.setSer i q).bit ad ib = s.bit ad ib := rfl
@[simp] theorem State.setSer_byte (i : Fin 6) (q : SerCh) (ad : Nat) : (s.setSer i q).byte ad = s.byte ad := rfl
@[simp] theorem State.setSer_prob (i : Fin 6) (q : SerCh) (y : Slot) : (s.setSer i q).prob y = s.prob y := rfl
@[simp] theorem State.setSer_cl (i : Fin 6) (q : SerCh) (y : Cl) : (s.setSer i q).cl y = s.cl y := rfl
@[simp] theorem State.setSer_lane (i : Fin 6) (q : SerCh) (y : LaneN) : (s.setSer i q).lane y = s.lane y := rfl
@[simp] theorem State.setSer_hub (i : Fin 6) (q : SerCh) (y : HubN) : (s.setSer i q).hub y = s.hub y := rfl
@[simp] theorem State.setSer_core (i : Fin 6) (q : SerCh) (y : CoreN) : (s.setSer i q).core y = s.core y := rfl
/-! ### setSel -/

@[simp] theorem State.setSel_mem (p : Slot) (x : Sel) : (s.setSel p x).mem = s.mem := rfl
@[simp] theorem State.setSel_regs (p : Slot) (x : Sel) : (s.setSel p x).regs = s.regs := rfl
@[simp] theorem State.setSel_per (p : Slot) (x : Sel) : (s.setSel p x).per = s.per := rfl
@[simp] theorem State.setSel_probs (p : Slot) (x : Sel) : (s.setSel p x).probs = s.probs := rfl
@[simp] theorem State.setSel_cls (p : Slot) (x : Sel) : (s.setSel p x).cls = s.cls := rfl
@[simp] theorem State.setSel_rot (p : Slot) (x : Sel) : (s.setSel p x).rot = s.rot := rfl
@[simp] theorem State.setSel_chart (p : Slot) (x : Sel) : (s.setSel p x).chart = s.chart := rfl
@[simp] theorem State.setSel_lanes (p : Slot) (x : Sel) : (s.setSel p x).lanes = s.lanes := rfl
@[simp] theorem State.setSel_hubs (p : Slot) (x : Sel) : (s.setSel p x).hubs = s.hubs := rfl
@[simp] theorem State.setSel_cap (p : Slot) (x : Sel) : (s.setSel p x).cap = s.cap := rfl
@[simp] theorem State.setSel_gmem (p : Slot) (x : Sel) : (s.setSel p x).gmem = s.gmem := rfl
@[simp] theorem State.setSel_saf (p : Slot) (x : Sel) : (s.setSel p x).saf = s.saf := rfl
@[simp] theorem State.setSel_chain (p : Slot) (x : Sel) : (s.setSel p x).chain = s.chain := rfl
@[simp] theorem State.setSel_port (p : Slot) (x : Sel) : (s.setSel p x).port = s.port := rfl
@[simp] theorem State.setSel_cores (p : Slot) (x : Sel) : (s.setSel p x).cores = s.cores := rfl
@[simp] theorem State.setSel_boot (p : Slot) (x : Sel) : (s.setSel p x).boot = s.boot := rfl
@[simp] theorem State.setSel_flash (p : Slot) (x : Sel) : (s.setSel p x).flash = s.flash := rfl
@[simp] theorem State.setSel_clk (p : Slot) (x : Sel) : (s.setSel p x).clk = s.clk := rfl
@[simp] theorem State.setSel_pins (p : Slot) (x : Sel) : (s.setSel p x).pins = s.pins := rfl
@[simp] theorem State.setSel_io (p : Slot) (x : Sel) : (s.setSel p x).io = s.io := rfl
@[simp] theorem State.setSel_notices (p : Slot) (x : Sel) : (s.setSel p x).notices = s.notices := rfl
@[simp] theorem State.setSel_freeCtr (p : Slot) (x : Sel) : (s.setSel p x).freeCtr = s.freeCtr := rfl
@[simp] theorem State.setSel_pending (p : Slot) (x : Sel) : (s.setSel p x).pending = s.pending := rfl
@[simp] theorem State.setSel_flaws (p : Slot) (x : Sel) : (s.setSel p x).flaws = s.flaws := rfl
@[simp] theorem State.setSel_rd (p : Slot) (x : Sel) (ad : Nat) : (s.setSel p x).rd ad = s.rd ad := rfl
@[simp] theorem State.setSel_fld (p : Slot) (x : Sel) (ad hb lb : Nat) : (s.setSel p x).fld ad hb lb = s.fld ad hb lb := rfl
@[simp] theorem State.setSel_bit (p : Slot) (x : Sel) (ad ib : Nat) : (s.setSel p x).bit ad ib = s.bit ad ib := rfl
@[simp] theorem State.setSel_byte (p : Slot) (x : Sel) (ad : Nat) : (s.setSel p x).byte ad = s.byte ad := rfl
@[simp] theorem State.setSel_prob (p : Slot) (x : Sel) (y : Slot) : (s.setSel p x).prob y = s.prob y := rfl
@[simp] theorem State.setSel_cl (p : Slot) (x : Sel) (y : Cl) : (s.setSel p x).cl y = s.cl y := rfl
@[simp] theorem State.setSel_lane (p : Slot) (x : Sel) (y : LaneN) : (s.setSel p x).lane y = s.lane y := rfl
@[simp] theorem State.setSel_hub (p : Slot) (x : Sel) (y : HubN) : (s.setSel p x).hub y = s.hub y := rfl
@[simp] theorem State.setSel_core (p : Slot) (x : Sel) (y : CoreN) : (s.setSel p x).core y = s.core y := rfl
/-! ### setCport -/

@[simp] theorem State.setCport_mem (p : ChPort) (k : CPort) : (s.setCport p k).mem = s.mem := by cases p <;> rfl
@[simp] theorem State.setCport_regs (p : ChPort) (k : CPort) : (s.setCport p k).regs = s.regs := by cases p <;> rfl
@[simp] theorem State.setCport_per (p : ChPort) (k : CPort) : (s.setCport p k).per = s.per := by cases p <;> rfl
@[simp] theorem State.setCport_probs (p : ChPort) (k : CPort) : (s.setCport p k).probs = s.probs := by cases p <;> rfl
@[simp] theorem State.setCport_cls (p : ChPort) (k : CPort) : (s.setCport p k).cls = s.cls := by cases p <;> rfl
@[simp] theorem State.setCport_rot (p : ChPort) (k : CPort) : (s.setCport p k).rot = s.rot := by cases p <;> rfl
@[simp] theorem State.setCport_chart (p : ChPort) (k : CPort) : (s.setCport p k).chart = s.chart := by cases p <;> rfl
@[simp] theorem State.setCport_cell (p : ChPort) (k : CPort) : (s.setCport p k).cell = s.cell := by cases p <;> rfl
@[simp] theorem State.setCport_lanes (p : ChPort) (k : CPort) : (s.setCport p k).lanes = s.lanes := by cases p <;> rfl
@[simp] theorem State.setCport_hubs (p : ChPort) (k : CPort) : (s.setCport p k).hubs = s.hubs := by cases p <;> rfl
@[simp] theorem State.setCport_cap (p : ChPort) (k : CPort) : (s.setCport p k).cap = s.cap := by cases p <;> rfl
@[simp] theorem State.setCport_gmem (p : ChPort) (k : CPort) : (s.setCport p k).gmem = s.gmem := by cases p <;> rfl
@[simp] theorem State.setCport_saf (p : ChPort) (k : CPort) : (s.setCport p k).saf = s.saf := by cases p <;> rfl
@[simp] theorem State.setCport_port (p : ChPort) (k : CPort) : (s.setCport p k).port = s.port := by cases p <;> rfl
@[simp] theorem State.setCport_cores (p : ChPort) (k : CPort) : (s.setCport p k).cores = s.cores := by cases p <;> rfl
@[simp] theorem State.setCport_boot (p : ChPort) (k : CPort) : (s.setCport p k).boot = s.boot := by cases p <;> rfl
@[simp] theorem State.setCport_flash (p : ChPort) (k : CPort) : (s.setCport p k).flash = s.flash := by cases p <;> rfl
@[simp] theorem State.setCport_clk (p : ChPort) (k : CPort) : (s.setCport p k).clk = s.clk := by cases p <;> rfl
@[simp] theorem State.setCport_pins (p : ChPort) (k : CPort) : (s.setCport p k).pins = s.pins := by cases p <;> rfl
@[simp] theorem State.setCport_io (p : ChPort) (k : CPort) : (s.setCport p k).io = s.io := by cases p <;> rfl
@[simp] theorem State.setCport_notices (p : ChPort) (k : CPort) : (s.setCport p k).notices = s.notices := by cases p <;> rfl
@[simp] theorem State.setCport_freeCtr (p : ChPort) (k : CPort) : (s.setCport p k).freeCtr = s.freeCtr := by cases p <;> rfl
@[simp] theorem State.setCport_pending (p : ChPort) (k : CPort) : (s.setCport p k).pending = s.pending := by cases p <;> rfl
@[simp] theorem State.setCport_flaws (p : ChPort) (k : CPort) : (s.setCport p k).flaws = s.flaws := by cases p <;> rfl
@[simp] theorem State.setCport_rd (p : ChPort) (k : CPort) (ad : Nat) : (s.setCport p k).rd ad = s.rd ad := by cases p <;> rfl
@[simp] theorem State.setCport_fld (p : ChPort) (k : CPort) (ad hb lb : Nat) : (s.setCport p k).fld ad hb lb = s.fld ad hb lb := by cases p <;> rfl
@[simp] theorem State.setCport_bit (p : ChPort) (k : CPort) (ad ib : Nat) : (s.setCport p k).bit ad ib = s.bit ad ib := by cases p <;> rfl
@[simp] theorem State.setCport_byte (p : ChPort) (k : CPort) (ad : Nat) : (s.setCport p k).byte ad = s.byte ad := by cases p <;> rfl
@[simp] theorem State.setCport_prob (p : ChPort) (k : CPort) (y : Slot) : (s.setCport p k).prob y = s.prob y := by cases p <;> rfl
@[simp] theorem State.setCport_cl (p : ChPort) (k : CPort) (y : Cl) : (s.setCport p k).cl y = s.cl y := by cases p <;> rfl
@[simp] theorem State.setCport_lane (p : ChPort) (k : CPort) (y : LaneN) : (s.setCport p k).lane y = s.lane y := by cases p <;> rfl
@[simp] theorem State.setCport_hub (p : ChPort) (k : CPort) (y : HubN) : (s.setCport p k).hub y = s.hub y := by cases p <;> rfl
@[simp] theorem State.setCport_core (p : ChPort) (k : CPort) (y : CoreN) : (s.setCport p k).core y = s.core y := by cases p <;> rfl
/-! ### tellNow -/

@[simp] theorem State.tellNow_mem (now : Nat) : (s.tellNow now).mem = s.mem := rfl
@[simp] theorem State.tellNow_regs (now : Nat) : (s.tellNow now).regs = s.regs := rfl
@[simp] theorem State.tellNow_probs (now : Nat) : (s.tellNow now).probs = s.probs := rfl
@[simp] theorem State.tellNow_cls (now : Nat) : (s.tellNow now).cls = s.cls := rfl
@[simp] theorem State.tellNow_rot (now : Nat) : (s.tellNow now).rot = s.rot := rfl
@[simp] theorem State.tellNow_chart (now : Nat) : (s.tellNow now).chart = s.chart := rfl
@[simp] theorem State.tellNow_cell (now : Nat) : (s.tellNow now).cell = s.cell := rfl
@[simp] theorem State.tellNow_lanes (now : Nat) : (s.tellNow now).lanes = s.lanes := rfl
@[simp] theorem State.tellNow_hubs (now : Nat) : (s.tellNow now).hubs = s.hubs := rfl
@[simp] theorem State.tellNow_cap (now : Nat) : (s.tellNow now).cap = s.cap := rfl
@[simp] theorem State.tellNow_gmem (now : Nat) : (s.tellNow now).gmem = s.gmem := rfl
@[simp] theorem State.tellNow_saf (now : Nat) : (s.tellNow now).saf = s.saf := rfl
@[simp] theorem State.tellNow_chain (now : Nat) : (s.tellNow now).chain = s.chain := rfl
@[simp] theorem State.tellNow_port (now : Nat) : (s.tellNow now).port = s.port := rfl
@[simp] theorem State.tellNow_cores (now : Nat) : (s.tellNow now).cores = s.cores := rfl
@[simp] theorem State.tellNow_boot (now : Nat) : (s.tellNow now).boot = s.boot := rfl
@[simp] theorem State.tellNow_flash (now : Nat) : (s.tellNow now).flash = s.flash := rfl
@[simp] theorem State.tellNow_clk (now : Nat) : (s.tellNow now).clk = s.clk := rfl
@[simp] theorem State.tellNow_pins (now : Nat) : (s.tellNow now).pins = s.pins := rfl
@[simp] theorem State.tellNow_io (now : Nat) : (s.tellNow now).io = s.io := rfl
@[simp] theorem State.tellNow_notices (now : Nat) : (s.tellNow now).notices = s.notices := rfl
@[simp] theorem State.tellNow_freeCtr (now : Nat) : (s.tellNow now).freeCtr = s.freeCtr := rfl
@[simp] theorem State.tellNow_pending (now : Nat) : (s.tellNow now).pending = s.pending := rfl
@[simp] theorem State.tellNow_flaws (now : Nat) : (s.tellNow now).flaws = s.flaws := rfl
@[simp] theorem State.tellNow_rd (now : Nat) (ad : Nat) : (s.tellNow now).rd ad = s.rd ad := rfl
@[simp] theorem State.tellNow_fld (now : Nat) (ad hb lb : Nat) : (s.tellNow now).fld ad hb lb = s.fld ad hb lb := rfl
@[simp] theorem State.tellNow_bit (now : Nat) (ad ib : Nat) : (s.tellNow now).bit ad ib = s.bit ad ib := rfl
@[simp] theorem State.tellNow_byte (now : Nat) (ad : Nat) : (s.tellNow now).byte ad = s.byte ad := rfl
@[simp] theorem State.tellNow_prob (now : Nat) (y : Slot) : (s.tellNow now).prob y = s.prob y := rfl
@[simp] theorem State.tellNow_cl (now : Nat) (y : Cl) : (s.tellNow now).cl y = s.cl y := rfl
@[simp] theorem State.tellNow_lane (now : Nat) (y : LaneN) : (s.tellNow now).lane y = s.lane y := rfl
@[simp] theorem State.tellNow_hub (now : Nat) (y : HubN) : (s.tellNow now).hub y = s.hub y := rfl
@[simp] theorem State.tellNow_core (now : Nat) (y : CoreN) : (s.tellNow now).core y = s.core y := rfl
/-! ### did -/

@[simp] theorem State.did_mem (ks : List Nat) : (s.did ks).mem = s.mem := rfl
@[simp] theorem State.did_regs (ks : List Nat) : (s.did ks).regs = s.regs := rfl
@[simp] theorem State.did_per (ks : List Nat) : (s.did ks).per = s.per := rfl
@[simp] theorem State.did_probs (ks : List Nat) : (s.did ks).probs = s.probs := rfl
@[simp] theorem State.did_cls (ks : List Nat) : (s.did ks).cls = s.cls := rfl
@[simp] theorem State.did_rot (ks : List Nat) : (s.did ks).rot = s.rot := rfl
@[simp] theorem State.did_chart (ks : List Nat) : (s.did ks).chart = s.chart := rfl
@[simp] theorem State.did_cell (ks : List Nat) : (s.did ks).cell = s.cell := rfl
@[simp] theorem State.did_lanes (ks : List Nat) : (s.did ks).lanes = s.lanes := rfl
@[simp] theorem State.did_hubs (ks : List Nat) : (s.did ks).hubs = s.hubs := rfl
@[simp] theorem State.did_cap (ks : List Nat) : (s.did ks).cap = s.cap := rfl
@[simp] theorem State.did_gmem (ks : List Nat) : (s.did ks).gmem = s.gmem := rfl
@[simp] theorem State.did_saf (ks : List Nat) : (s.did ks).saf = s.saf := rfl
@[simp] theorem State.did_chain (ks : List Nat) : (s.did ks).chain = s.chain := rfl
@[simp] theorem State.did_port (ks : List Nat) : (s.did ks).port = s.port := rfl
@[simp] theorem State.did_cores (ks : List Nat) : (s.did ks).cores = s.cores := rfl
@[simp] theorem State.did_boot (ks : List Nat) : (s.did ks).boot = s.boot := rfl
@[simp] theorem State.did_flash (ks : List Nat) : (s.did ks).flash = s.flash := rfl
@[simp] theorem State.did_clk (ks : List Nat) : (s.did ks).clk = s.clk := rfl
@[simp] theorem State.did_io (ks : List Nat) : (s.did ks).io = s.io := rfl
@[simp] theorem State.did_notices (ks : List Nat) : (s.did ks).notices = s.notices := rfl
@[simp] theorem State.did_freeCtr (ks : List Nat) : (s.did ks).freeCtr = s.freeCtr := rfl
@[simp] theorem State.did_pending (ks : List Nat) : (s.did ks).pending = s.pending := rfl
@[simp] theorem State.did_flaws (ks : List Nat) : (s.did ks).flaws = s.flaws := rfl
@[simp] theorem State.did_rd (ks : List Nat) (ad : Nat) : (s.did ks).rd ad = s.rd ad := rfl
@[simp] theorem State.did_fld (ks : List Nat) (ad hb lb : Nat) : (s.did ks).fld ad hb lb = s.fld ad hb lb := rfl
@[simp] theorem State.did_bit (ks : List Nat) (ad ib : Nat) : (s.did ks).bit ad ib = s.bit ad ib := rfl
@[simp] theorem State.did_byte (ks : List Nat) (ad : Nat) : (s.did ks).byte ad = s.byte ad := rfl
@[simp] theorem State.did_prob (ks : List Nat) (y : Slot) : (s.did ks).prob y = s.prob y := rfl
@[simp] theorem State.did_cl (ks : List Nat) (y : Cl) : (s.did ks).cl y = s.cl y := rfl
@[simp] theorem State.did_lane (ks : List Nat) (y : LaneN) : (s.did ks).lane y = s.lane y := rfl
@[simp] theorem State.did_hub (ks : List Nat) (y : HubN) : (s.did ks).hub y = s.hub y := rfl
@[simp] theorem State.did_core (ks : List Nat) (y : CoreN) : (s.did ks).core y = s.core y := rfl
/-! ### toBridge -/

@[simp] theorem State.toBridge_mem (code : Nat) : (s.toBridge code).mem = s.mem := rfl
@[simp] theorem State.toBridge_regs (code : Nat) : (s.toBridge code).regs = s.regs := rfl
@[simp] theorem State.toBridge_per (code : Nat) : (s.toBridge code).per = s.per := rfl
@[simp] theorem State.toBridge_probs (code : Nat) : (s.toBridge code).probs = s.probs := rfl
@[simp] theorem State.toBridge_cls (code : Nat) : (s.toBridge code).cls = s.cls := rfl
@[simp] theorem State.toBridge_rot (code : Nat) : (s.toBridge code).rot = s.rot := rfl
@[simp] theorem State.toBridge_chart (code : Nat) : (s.toBridge code).chart = s.chart := rfl
@[simp] theorem State.toBridge_cell (code : Nat) : (s.toBridge code).cell = s.cell := rfl
@[simp] theorem State.toBridge_lanes (code : Nat) : (s.toBridge code).lanes = s.lanes := rfl
@[simp] theorem State.toBridge_hubs (code : Nat) : (s.toBridge code).hubs = s.hubs := rfl
@[simp] theorem State.toBridge_cap (code : Nat) : (s.toBridge code).cap = s.cap := rfl
@[simp] theorem State.toBridge_gmem (code : Nat) : (s.toBridge code).gmem = s.gmem := rfl
@[simp] theorem State.toBridge_saf (code : Nat) : (s.toBridge code).saf = s.saf := rfl
@[simp] theorem State.toBridge_chain (code : Nat) : (s.toBridge code).chain = s.chain := rfl
@[simp] theorem State.toBridge_port (code : Nat) : (s.toBridge code).port = s.port := rfl
@[simp] theorem State.toBridge_cores (code : Nat) : (s.toBridge code).cores = s.cores := rfl
@[simp] theorem State.toBridge_boot (code : Nat) : (s.toBridge code).boot = s.boot := rfl
@[simp] theorem State.toBridge_flash (code : Nat) : (s.toBridge code).flash = s.flash := rfl
@[simp] theorem State.toBridge_clk (code : Nat) : (s.toBridge code).clk = s.clk := rfl
@[simp] theorem State.toBridge_io (code : Nat) : (s.toBridge code).io = s.io := rfl
@[simp] theorem State.toBridge_notices (code : Nat) : (s.toBridge code).notices = s.notices := rfl
@[simp] theorem State.toBridge_freeCtr (code : Nat) : (s.toBridge code).freeCtr = s.freeCtr := rfl
@[simp] theorem State.toBridge_pending (code : Nat) : (s.toBridge code).pending = s.pending := rfl
@[simp] theorem State.toBridge_flaws (code : Nat) : (s.toBridge code).flaws = s.flaws := rfl
@[simp] theorem State.toBridge_rd (code : Nat) (ad : Nat) : (s.toBridge code).rd ad = s.rd ad := rfl
@[simp] theorem State.toBridge_fld (code : Nat) (ad hb lb : Nat) : (s.toBridge code).fld ad hb lb = s.fld ad hb lb := rfl
@[simp] theorem State.toBridge_bit (code : Nat) (ad ib : Nat) : (s.toBridge code).bit ad ib = s.bit ad ib := rfl
@[simp] theorem State.toBridge_byte (code : Nat) (ad : Nat) : (s.toBridge code).byte ad = s.byte ad := rfl
@[simp] theorem State.toBridge_prob (code : Nat) (y : Slot) : (s.toBridge code).prob y = s.prob y := rfl
@[simp] theorem State.toBridge_cl (code : Nat) (y : Cl) : (s.toBridge code).cl y = s.cl y := rfl
@[simp] theorem State.toBridge_lane (code : Nat) (y : LaneN) : (s.toBridge code).lane y = s.lane y := rfl
@[simp] theorem State.toBridge_hub (code : Nat) (y : HubN) : (s.toBridge code).hub y = s.hub y := rfl
@[simp] theorem State.toBridge_core (code : Nat) (y : CoreN) : (s.toBridge code).core y = s.core y := rfl
/-! ### setFld -/

@[simp] theorem State.setFld_mem (a hi lo v : Nat) : (s.setFld a hi lo v).mem = s.mem := rfl
@[simp] theorem State.setFld_per (a hi lo v : Nat) : (s.setFld a hi lo v).per = s.per := rfl
@[simp] theorem State.setFld_probs (a hi lo v : Nat) : (s.setFld a hi lo v).probs = s.probs := rfl
@[simp] theorem State.setFld_cls (a hi lo v : Nat) : (s.setFld a hi lo v).cls = s.cls := rfl
@[simp] theorem State.setFld_rot (a hi lo v : Nat) : (s.setFld a hi lo v).rot = s.rot := rfl
@[simp] theorem State.setFld_chart (a hi lo v : Nat) : (s.setFld a hi lo v).chart = s.chart := rfl
@[simp] theorem State.setFld_cell (a hi lo v : Nat) : (s.setFld a hi lo v).cell = s.cell := rfl
@[simp] theorem State.setFld_lanes (a hi lo v : Nat) : (s.setFld a hi lo v).lanes = s.lanes := rfl
@[simp] theorem State.setFld_hubs (a hi lo v : Nat) : (s.setFld a hi lo v).hubs = s.hubs := rfl
@[simp] theorem State.setFld_cap (a hi lo v : Nat) : (s.setFld a hi lo v).cap = s.cap := rfl
@[simp] theorem State.setFld_gmem (a hi lo v : Nat) : (s.setFld a hi lo v).gmem = s.gmem := rfl
@[simp] theorem State.setFld_saf (a hi lo v : Nat) : (s.setFld a hi lo v).saf = s.saf := rfl
@[simp] theorem State.setFld_chain (a hi lo v : Nat) : (s.setFld a hi lo v).chain = s.chain := rfl
@[simp] theorem State.setFld_port (a hi lo v : Nat) : (s.setFld a hi lo v).port = s.port := rfl
@[simp] theorem State.setFld_cores (a hi lo v : Nat) : (s.setFld a hi lo v).cores = s.cores := rfl
@[simp] theorem State.setFld_boot (a hi lo v : Nat) : (s.setFld a hi lo v).boot = s.boot := rfl
@[simp] theorem State.setFld_flash (a hi lo v : Nat) : (s.setFld a hi lo v).flash = s.flash := rfl
@[simp] theorem State.setFld_clk (a hi lo v : Nat) : (s.setFld a hi lo v).clk = s.clk := rfl
@[simp] theorem State.setFld_pins (a hi lo v : Nat) : (s.setFld a hi lo v).pins = s.pins := rfl
@[simp] theorem State.setFld_io (a hi lo v : Nat) : (s.setFld a hi lo v).io = s.io := rfl
@[simp] theorem State.setFld_notices (a hi lo v : Nat) : (s.setFld a hi lo v).notices = s.notices := rfl
@[simp] theorem State.setFld_freeCtr (a hi lo v : Nat) : (s.setFld a hi lo v).freeCtr = s.freeCtr := rfl
@[simp] theorem State.setFld_pending (a hi lo v : Nat) : (s.setFld a hi lo v).pending = s.pending := rfl
@[simp] theorem State.setFld_flaws (a hi lo v : Nat) : (s.setFld a hi lo v).flaws = s.flaws := rfl
@[simp] theorem State.setFld_byte (a hi lo v : Nat) (ad : Nat) : (s.setFld a hi lo v).byte ad = s.byte ad := rfl
@[simp] theorem State.setFld_prob (a hi lo v : Nat) (y : Slot) : (s.setFld a hi lo v).prob y = s.prob y := rfl
@[simp] theorem State.setFld_cl (a hi lo v : Nat) (y : Cl) : (s.setFld a hi lo v).cl y = s.cl y := rfl
@[simp] theorem State.setFld_lane (a hi lo v : Nat) (y : LaneN) : (s.setFld a hi lo v).lane y = s.lane y := rfl
@[simp] theorem State.setFld_hub (a hi lo v : Nat) (y : HubN) : (s.setFld a hi lo v).hub y = s.hub y := rfl
@[simp] theorem State.setFld_core (a hi lo v : Nat) (y : CoreN) : (s.setFld a hi lo v).core y = s.core y := rfl
/-! ### setBit -/

@[simp] theorem State.setBit_mem (a i : Nat) (b : Bool) : (s.setBit a i b).mem = s.mem := rfl
@[simp] theorem State.setBit_per (a i : Nat) (b : Bool) : (s.setBit a i b).per = s.per := rfl
@[simp] theorem State.setBit_probs (a i : Nat) (b : Bool) : (s.setBit a i b).probs = s.probs := rfl
@[simp] theorem State.setBit_cls (a i : Nat) (b : Bool) : (s.setBit a i b).cls = s.cls := rfl
@[simp] theorem State.setBit_rot (a i : Nat) (b : Bool) : (s.setBit a i b).rot = s.rot := rfl
@[simp] theorem State.setBit_chart (a i : Nat) (b : Bool) : (s.setBit a i b).chart = s.chart := rfl
@[simp] theorem State.setBit_cell (a i : Nat) (b : Bool) : (s.setBit a i b).cell = s.cell := rfl
@[simp] theorem State.setBit_lanes (a i : Nat) (b : Bool) : (s.setBit a i b).lanes = s.lanes := rfl
@[simp] theorem State.setBit_hubs (a i : Nat) (b : Bool) : (s.setBit a i b).hubs = s.hubs := rfl
@[simp] theorem State.setBit_cap (a i : Nat) (b : Bool) : (s.setBit a i b).cap = s.cap := rfl
@[simp] theorem State.setBit_gmem (a i : Nat) (b : Bool) : (s.setBit a i b).gmem = s.gmem := rfl
@[simp] theorem State.setBit_saf (a i : Nat) (b : Bool) : (s.setBit a i b).saf = s.saf := rfl
@[simp] theorem State.setBit_chain (a i : Nat) (b : Bool) : (s.setBit a i b).chain = s.chain := rfl
@[simp] theorem State.setBit_port (a i : Nat) (b : Bool) : (s.setBit a i b).port = s.port := rfl
@[simp] theorem State.setBit_cores (a i : Nat) (b : Bool) : (s.setBit a i b).cores = s.cores := rfl
@[simp] theorem State.setBit_boot (a i : Nat) (b : Bool) : (s.setBit a i b).boot = s.boot := rfl
@[simp] theorem State.setBit_flash (a i : Nat) (b : Bool) : (s.setBit a i b).flash = s.flash := rfl
@[simp] theorem State.setBit_clk (a i : Nat) (b : Bool) : (s.setBit a i b).clk = s.clk := rfl
@[simp] theorem State.setBit_pins (a i : Nat) (b : Bool) : (s.setBit a i b).pins = s.pins := rfl
@[simp] theorem State.setBit_io (a i : Nat) (b : Bool) : (s.setBit a i b).io = s.io := rfl
@[simp] theorem State.setBit_notices (a i : Nat) (b : Bool) : (s.setBit a i b).notices = s.notices := rfl
@[simp] theorem State.setBit_freeCtr (a i : Nat) (b : Bool) : (s.setBit a i b).freeCtr = s.freeCtr := rfl
@[simp] theorem State.setBit_pending (a i : Nat) (b : Bool) : (s.setBit a i b).pending = s.pending := rfl
@[simp] theorem State.setBit_flaws (a i : Nat) (b : Bool) : (s.setBit a i b).flaws = s.flaws := rfl
@[simp] theorem State.setBit_byte (a i : Nat) (b : Bool) (ad : Nat) : (s.setBit a i b).byte ad = s.byte ad := rfl
@[simp] theorem State.setBit_prob (a i : Nat) (b : Bool) (y : Slot) : (s.setBit a i b).prob y = s.prob y := rfl
@[simp] theorem State.setBit_cl (a i : Nat) (b : Bool) (y : Cl) : (s.setBit a i b).cl y = s.cl y := rfl
@[simp] theorem State.setBit_lane (a i : Nat) (b : Bool) (y : LaneN) : (s.setBit a i b).lane y = s.lane y := rfl
@[simp] theorem State.setBit_hub (a i : Nat) (b : Bool) (y : HubN) : (s.setBit a i b).hub y = s.hub y := rfl
@[simp] theorem State.setBit_core (a i : Nat) (b : Bool) (y : CoreN) : (s.setBit a i b).core y = s.core y := rfl
/-! ### orReg -/

@[simp] theorem State.orReg_mem (a m : Nat) : (s.orReg a m).mem = s.mem := rfl
@[simp] theorem State.orReg_per (a m : Nat) : (s.orReg a m).per = s.per := rfl
@[simp] theorem State.orReg_probs (a m : Nat) : (s.orReg a m).probs = s.probs := rfl
@[simp] theorem State.orReg_cls (a m : Nat) : (s.orReg a m).cls = s.cls := rfl
@[simp] theorem State.orReg_rot (a m : Nat) : (s.orReg a m).rot = s.rot := rfl
@[simp] theorem State.orReg_chart (a m : Nat) : (s.orReg a m).chart = s.chart := rfl
@[simp] theorem State.orReg_cell (a m : Nat) : (s.orReg a m).cell = s.cell := rfl
@[simp] theorem State.orReg_lanes (a m : Nat) : (s.orReg a m).lanes = s.lanes := rfl
@[simp] theorem State.orReg_hubs (a m : Nat) : (s.orReg a m).hubs = s.hubs := rfl
@[simp] theorem State.orReg_cap (a m : Nat) : (s.orReg a m).cap = s.cap := rfl
@[simp] theorem State.orReg_gmem (a m : Nat) : (s.orReg a m).gmem = s.gmem := rfl
@[simp] theorem State.orReg_saf (a m : Nat) : (s.orReg a m).saf = s.saf := rfl
@[simp] theorem State.orReg_chain (a m : Nat) : (s.orReg a m).chain = s.chain := rfl
@[simp] theorem State.orReg_port (a m : Nat) : (s.orReg a m).port = s.port := rfl
@[simp] theorem State.orReg_cores (a m : Nat) : (s.orReg a m).cores = s.cores := rfl
@[simp] theorem State.orReg_boot (a m : Nat) : (s.orReg a m).boot = s.boot := rfl
@[simp] theorem State.orReg_flash (a m : Nat) : (s.orReg a m).flash = s.flash := rfl
@[simp] theorem State.orReg_clk (a m : Nat) : (s.orReg a m).clk = s.clk := rfl
@[simp] theorem State.orReg_pins (a m : Nat) : (s.orReg a m).pins = s.pins := rfl
@[simp] theorem State.orReg_io (a m : Nat) : (s.orReg a m).io = s.io := rfl
@[simp] theorem State.orReg_notices (a m : Nat) : (s.orReg a m).notices = s.notices := rfl
@[simp] theorem State.orReg_freeCtr (a m : Nat) : (s.orReg a m).freeCtr = s.freeCtr := rfl
@[simp] theorem State.orReg_pending (a m : Nat) : (s.orReg a m).pending = s.pending := rfl
@[simp] theorem State.orReg_flaws (a m : Nat) : (s.orReg a m).flaws = s.flaws := rfl
@[simp] theorem State.orReg_byte (a m : Nat) (ad : Nat) : (s.orReg a m).byte ad = s.byte ad := rfl
@[simp] theorem State.orReg_prob (a m : Nat) (y : Slot) : (s.orReg a m).prob y = s.prob y := rfl
@[simp] theorem State.orReg_cl (a m : Nat) (y : Cl) : (s.orReg a m).cl y = s.cl y := rfl
@[simp] theorem State.orReg_lane (a m : Nat) (y : LaneN) : (s.orReg a m).lane y = s.lane y := rfl
@[simp] theorem State.orReg_hub (a m : Nat) (y : HubN) : (s.orReg a m).hub y = s.hub y := rfl
@[simp] theorem State.orReg_core (a m : Nat) (y : CoreN) : (s.orReg a m).core y = s.core y := rfl
/-! ### clrReg -/

@[simp] theorem State.clrReg_mem (a m : Nat) : (s.clrReg a m).mem = s.mem := rfl
@[simp] theorem State.clrReg_per (a m : Nat) : (s.clrReg a m).per = s.per := rfl
@[simp] theorem State.clrReg_probs (a m : Nat) : (s.clrReg a m).probs = s.probs := rfl
@[simp] theorem State.clrReg_cls (a m : Nat) : (s.clrReg a m).cls = s.cls := rfl
@[simp] theorem State.clrReg_rot (a m : Nat) : (s.clrReg a m).rot = s.rot := rfl
@[simp] theorem State.clrReg_chart (a m : Nat) : (s.clrReg a m).chart = s.chart := rfl
@[simp] theorem State.clrReg_cell (a m : Nat) : (s.clrReg a m).cell = s.cell := rfl
@[simp] theorem State.clrReg_lanes (a m : Nat) : (s.clrReg a m).lanes = s.lanes := rfl
@[simp] theorem State.clrReg_hubs (a m : Nat) : (s.clrReg a m).hubs = s.hubs := rfl
@[simp] theorem State.clrReg_cap (a m : Nat) : (s.clrReg a m).cap = s.cap := rfl
@[simp] theorem State.clrReg_gmem (a m : Nat) : (s.clrReg a m).gmem = s.gmem := rfl
@[simp] theorem State.clrReg_saf (a m : Nat) : (s.clrReg a m).saf = s.saf := rfl
@[simp] theorem State.clrReg_chain (a m : Nat) : (s.clrReg a m).chain = s.chain := rfl
@[simp] theorem State.clrReg_port (a m : Nat) : (s.clrReg a m).port = s.port := rfl
@[simp] theorem State.clrReg_cores (a m : Nat) : (s.clrReg a m).cores = s.cores := rfl
@[simp] theorem State.clrReg_boot (a m : Nat) : (s.clrReg a m).boot = s.boot := rfl
@[simp] theorem State.clrReg_flash (a m : Nat) : (s.clrReg a m).flash = s.flash := rfl
@[simp] theorem State.clrReg_clk (a m : Nat) : (s.clrReg a m).clk = s.clk := rfl
@[simp] theorem State.clrReg_pins (a m : Nat) : (s.clrReg a m).pins = s.pins := rfl
@[simp] theorem State.clrReg_io (a m : Nat) : (s.clrReg a m).io = s.io := rfl
@[simp] theorem State.clrReg_notices (a m : Nat) : (s.clrReg a m).notices = s.notices := rfl
@[simp] theorem State.clrReg_freeCtr (a m : Nat) : (s.clrReg a m).freeCtr = s.freeCtr := rfl
@[simp] theorem State.clrReg_pending (a m : Nat) : (s.clrReg a m).pending = s.pending := rfl
@[simp] theorem State.clrReg_flaws (a m : Nat) : (s.clrReg a m).flaws = s.flaws := rfl
@[simp] theorem State.clrReg_byte (a m : Nat) (ad : Nat) : (s.clrReg a m).byte ad = s.byte ad := rfl
@[simp] theorem State.clrReg_prob (a m : Nat) (y : Slot) : (s.clrReg a m).prob y = s.prob y := rfl
@[simp] theorem State.clrReg_cl (a m : Nat) (y : Cl) : (s.clrReg a m).cl y = s.cl y := rfl
@[simp] theorem State.clrReg_lane (a m : Nat) (y : LaneN) : (s.clrReg a m).lane y = s.lane y := rfl
@[simp] theorem State.clrReg_hub (a m : Nat) (y : HubN) : (s.clrReg a m).hub y = s.hub y := rfl
@[simp] theorem State.clrReg_core (a m : Nat) (y : CoreN) : (s.clrReg a m).core y = s.core y := rfl
/-! ### count -/

@[simp] theorem State.count_mem (a hi lo n : Nat) : (s.count a hi lo n).mem = s.mem := rfl
@[simp] theorem State.count_per (a hi lo n : Nat) : (s.count a hi lo n).per = s.per := rfl
@[simp] theorem State.count_probs (a hi lo n : Nat) : (s.count a hi lo n).probs = s.probs := rfl
@[simp] theorem State.count_cls (a hi lo n : Nat) : (s.count a hi lo n).cls = s.cls := rfl
@[simp] theorem State.count_rot (a hi lo n : Nat) : (s.count a hi lo n).rot = s.rot := rfl
@[simp] theorem State.count_chart (a hi lo n : Nat) : (s.count a hi lo n).chart = s.chart := rfl
@[simp] theorem State.count_cell (a hi lo n : Nat) : (s.count a hi lo n).cell = s.cell := rfl
@[simp] theorem State.count_lanes (a hi lo n : Nat) : (s.count a hi lo n).lanes = s.lanes := rfl
@[simp] theorem State.count_hubs (a hi lo n : Nat) : (s.count a hi lo n).hubs = s.hubs := rfl
@[simp] theorem State.count_cap (a hi lo n : Nat) : (s.count a hi lo n).cap = s.cap := rfl
@[simp] theorem State.count_gmem (a hi lo n : Nat) : (s.count a hi lo n).gmem = s.gmem := rfl
@[simp] theorem State.count_saf (a hi lo n : Nat) : (s.count a hi lo n).saf = s.saf := rfl
@[simp] theorem State.count_chain (a hi lo n : Nat) : (s.count a hi lo n).chain = s.chain := rfl
@[simp] theorem State.count_port (a hi lo n : Nat) : (s.count a hi lo n).port = s.port := rfl
@[simp] theorem State.count_cores (a hi lo n : Nat) : (s.count a hi lo n).cores = s.cores := rfl
@[simp] theorem State.count_boot (a hi lo n : Nat) : (s.count a hi lo n).boot = s.boot := rfl
@[simp] theorem State.count_flash (a hi lo n : Nat) : (s.count a hi lo n).flash = s.flash := rfl
@[simp] theorem State.count_clk (a hi lo n : Nat) : (s.count a hi lo n).clk = s.clk := rfl
@[simp] theorem State.count_pins (a hi lo n : Nat) : (s.count a hi lo n).pins = s.pins := rfl
@[simp] theorem State.count_io (a hi lo n : Nat) : (s.count a hi lo n).io = s.io := rfl
@[simp] theorem State.count_notices (a hi lo n : Nat) : (s.count a hi lo n).notices = s.notices := rfl
@[simp] theorem State.count_freeCtr (a hi lo n : Nat) : (s.count a hi lo n).freeCtr = s.freeCtr := rfl
@[simp] theorem State.count_pending (a hi lo n : Nat) : (s.count a hi lo n).pending = s.pending := rfl
@[simp] theorem State.count_flaws (a hi lo n : Nat) : (s.count a hi lo n).flaws = s.flaws := rfl
@[simp] theorem State.count_byte (a hi lo n : Nat) (ad : Nat) : (s.count a hi lo n).byte ad = s.byte ad := rfl
@[simp] theorem State.count_prob (a hi lo n : Nat) (y : Slot) : (s.count a hi lo n).prob y = s.prob y := rfl
@[simp] theorem State.count_cl (a hi lo n : Nat) (y : Cl) : (s.count a hi lo n).cl y = s.cl y := rfl
@[simp] theorem State.count_lane (a hi lo n : Nat) (y : LaneN) : (s.count a hi lo n).lane y = s.lane y := rfl
@[simp] theorem State.count_hub (a hi lo n : Nat) (y : HubN) : (s.count a hi lo n).hub y = s.hub y := rfl
@[simp] theorem State.count_core (a hi lo n : Nat) (y : CoreN) : (s.count a hi lo n).core y = s.core y := rfl

/-! ### What the indexed parts read after an update of one of them -/

@[simp] theorem State.prob_setProb_self (p : Slot) (q : Problem) : (s.setProb p q).prob p = q := by simp [State.prob, State.setProb]
@[simp] theorem State.cl_setCl_self (c : Cl) (q : Cluster) : (s.setCl c q).cl c = q := by simp [State.cl, State.setCl]
@[simp] theorem State.lane_setLane_self (l : LaneN) (q : Lane) : (s.setLane l q).lane l = q := by simp [State.lane, State.setLane]
@[simp] theorem State.hub_setHub_self (h : HubN) (q : Hub) : (s.setHub h q).hub h = q := by simp [State.hub, State.setHub]
@[simp] theorem State.core_setCore_self (n : CoreN) (q : Core) : (s.setCore n q).core n = q := by simp [State.core, State.setCore]
theorem State.prob_setProb_ne {p r : Slot} (h : r ≠ p) (q : Problem) : (s.setProb p q).prob r = s.prob r := by
  have : p.val ≠ r.val := fun e => h (Fin.ext e.symm)
  simp [State.prob, State.setProb, this]
theorem State.cl_setCl_ne {c r : Cl} (h : r ≠ c) (q : Cluster) : (s.setCl c q).cl r = s.cl r := by
  have : c.val ≠ r.val := fun e => h (Fin.ext e.symm)
  simp [State.cl, State.setCl, this]
theorem State.lane_setLane_ne {l r : LaneN} (h : r ≠ l) (q : Lane) : (s.setLane l q).lane r = s.lane r := by
  have : l.val ≠ r.val := fun e => h (Fin.ext e.symm)
  simp [State.lane, State.setLane, this]
theorem State.hub_setHub_ne {h r : HubN} (e : r ≠ h) (q : Hub) : (s.setHub h q).hub r = s.hub r := by
  have : h.val ≠ r.val := fun e' => e (Fin.ext e'.symm)
  simp [State.hub, State.setHub, this]
theorem State.core_setCore_ne {n r : CoreN} (h : r ≠ n) (q : Core) : (s.setCore n q).core r = s.core r := by
  have : n.val ≠ r.val := fun e => h (Fin.ext e.symm)
  simp [State.core, State.setCore, this]

/-! ### freeWord -/

@[simp] theorem State.freeWord_mem : s.freeWord.2.mem = s.mem := rfl
@[simp] theorem State.freeWord_regs : s.freeWord.2.regs = s.regs := rfl
@[simp] theorem State.freeWord_per : s.freeWord.2.per = s.per := rfl
@[simp] theorem State.freeWord_probs : s.freeWord.2.probs = s.probs := rfl
@[simp] theorem State.freeWord_cls : s.freeWord.2.cls = s.cls := rfl
@[simp] theorem State.freeWord_rot : s.freeWord.2.rot = s.rot := rfl
@[simp] theorem State.freeWord_chart : s.freeWord.2.chart = s.chart := rfl
@[simp] theorem State.freeWord_cell : s.freeWord.2.cell = s.cell := rfl
@[simp] theorem State.freeWord_lanes : s.freeWord.2.lanes = s.lanes := rfl
@[simp] theorem State.freeWord_hubs : s.freeWord.2.hubs = s.hubs := rfl
@[simp] theorem State.freeWord_cap : s.freeWord.2.cap = s.cap := rfl
@[simp] theorem State.freeWord_gmem : s.freeWord.2.gmem = s.gmem := rfl
@[simp] theorem State.freeWord_saf : s.freeWord.2.saf = s.saf := rfl
@[simp] theorem State.freeWord_chain : s.freeWord.2.chain = s.chain := rfl
@[simp] theorem State.freeWord_port : s.freeWord.2.port = s.port := rfl
@[simp] theorem State.freeWord_cores : s.freeWord.2.cores = s.cores := rfl
@[simp] theorem State.freeWord_boot : s.freeWord.2.boot = s.boot := rfl
@[simp] theorem State.freeWord_flash : s.freeWord.2.flash = s.flash := rfl
@[simp] theorem State.freeWord_clk : s.freeWord.2.clk = s.clk := rfl
@[simp] theorem State.freeWord_pins : s.freeWord.2.pins = s.pins := rfl
@[simp] theorem State.freeWord_io : s.freeWord.2.io = s.io := rfl
@[simp] theorem State.freeWord_notices : s.freeWord.2.notices = s.notices := rfl
@[simp] theorem State.freeWord_freeCtr : s.freeWord.2.freeCtr = s.freeCtr + 1 := rfl
@[simp] theorem State.freeWord_pending : s.freeWord.2.pending = s.pending := rfl
@[simp] theorem State.freeWord_flaws : s.freeWord.2.flaws = s.flaws := rfl
@[simp] theorem State.freeWord_rd (x : Nat) : s.freeWord.2.rd x = s.rd x := rfl
@[simp] theorem State.freeWord_byte (x : Nat) : s.freeWord.2.byte x = s.byte x := rfl
/-! ### freeBit -/

@[simp] theorem State.freeBit_mem : s.freeBit.2.mem = s.mem := rfl
@[simp] theorem State.freeBit_regs : s.freeBit.2.regs = s.regs := rfl
@[simp] theorem State.freeBit_per : s.freeBit.2.per = s.per := rfl
@[simp] theorem State.freeBit_probs : s.freeBit.2.probs = s.probs := rfl
@[simp] theorem State.freeBit_cls : s.freeBit.2.cls = s.cls := rfl
@[simp] theorem State.freeBit_rot : s.freeBit.2.rot = s.rot := rfl
@[simp] theorem State.freeBit_chart : s.freeBit.2.chart = s.chart := rfl
@[simp] theorem State.freeBit_cell : s.freeBit.2.cell = s.cell := rfl
@[simp] theorem State.freeBit_lanes : s.freeBit.2.lanes = s.lanes := rfl
@[simp] theorem State.freeBit_hubs : s.freeBit.2.hubs = s.hubs := rfl
@[simp] theorem State.freeBit_cap : s.freeBit.2.cap = s.cap := rfl
@[simp] theorem State.freeBit_gmem : s.freeBit.2.gmem = s.gmem := rfl
@[simp] theorem State.freeBit_saf : s.freeBit.2.saf = s.saf := rfl
@[simp] theorem State.freeBit_chain : s.freeBit.2.chain = s.chain := rfl
@[simp] theorem State.freeBit_port : s.freeBit.2.port = s.port := rfl
@[simp] theorem State.freeBit_cores : s.freeBit.2.cores = s.cores := rfl
@[simp] theorem State.freeBit_boot : s.freeBit.2.boot = s.boot := rfl
@[simp] theorem State.freeBit_flash : s.freeBit.2.flash = s.flash := rfl
@[simp] theorem State.freeBit_clk : s.freeBit.2.clk = s.clk := rfl
@[simp] theorem State.freeBit_pins : s.freeBit.2.pins = s.pins := rfl
@[simp] theorem State.freeBit_io : s.freeBit.2.io = s.io := rfl
@[simp] theorem State.freeBit_notices : s.freeBit.2.notices = s.notices := rfl
@[simp] theorem State.freeBit_freeCtr : s.freeBit.2.freeCtr = s.freeCtr + 1 := rfl
@[simp] theorem State.freeBit_pending : s.freeBit.2.pending = s.pending := rfl
@[simp] theorem State.freeBit_flaws : s.freeBit.2.flaws = s.flaws := rfl
@[simp] theorem State.freeBit_rd (x : Nat) : s.freeBit.2.rd x = s.rd x := rfl
@[simp] theorem State.freeBit_byte (x : Nat) : s.freeBit.2.byte x = s.byte x := rfl

end Sys2Proof.Machine
end

