-- ==== Sys2Proof/Laws/Regs.lean ====
section
/-!
SUPPORT. Reads after writes of registers, of their fields and of memory.
-/
namespace Sys2Proof.Machine
variable (s : State)

/-! ## Fields of a number -/

theorem putBits_eq {x hi lo v : Nat} (h : lo ≤ hi) :
    putBits x hi lo v = 2 ^ lo * (2 ^ (hi - lo + 1) * (x / 2 ^ (hi + 1)) + v % 2 ^ (hi - lo + 1)) + x % 2 ^ lo := by
  have e : 2 ^ (hi + 1) = 2 ^ lo * 2 ^ (hi - lo + 1) := by rw [← pow_add]; congr 1; omega
  have h1 : x / 2 ^ (hi + 1) = x / 2 ^ lo / 2 ^ (hi - lo + 1) := by rw [e, Nat.div_div_eq_div_mul]
  have h2 := Nat.div_add_mod (x / 2 ^ lo) (2 ^ (hi - lo + 1))
  have h3 := Nat.div_add_mod x (2 ^ lo)
  unfold putBits bits
  simp only [Nat.shiftLeft_eq, Nat.shiftRight_eq_div_pow, h1]
  have h4 : x - x / 2 ^ lo % 2 ^ (hi - lo + 1) * 2 ^ lo
      = 2 ^ lo * (2 ^ (hi - lo + 1) * (x / 2 ^ lo / 2 ^ (hi - lo + 1))) + x % 2 ^ lo := by
    have : x = 2 ^ lo * (2 ^ (hi - lo + 1) * (x / 2 ^ lo / 2 ^ (hi - lo + 1))) + x / 2 ^ lo % 2 ^ (hi - lo + 1) * 2 ^ lo
        + x % 2 ^ lo := by
      calc x = 2 ^ lo * (x / 2 ^ lo) + x % 2 ^ lo := h3.symm
        _ = 2 ^ lo * (2 ^ (hi - lo + 1) * (x / 2 ^ lo / 2 ^ (hi - lo + 1)) + x / 2 ^ lo % 2 ^ (hi - lo + 1)) + x % 2 ^ lo := by
          rw [h2]
        _ = _ := by ring
    omega
  rw [h4]; ring

/-- Bit i of a number whose field hi:lo is replaced. -/
theorem testBit_putBits {x hi lo v : Nat} (h : lo ≤ hi) (i : Nat) :
    (putBits x hi lo v).testBit i = if lo ≤ i ∧ i ≤ hi then v.testBit (i - lo) else x.testBit i := by
  have hm : x % 2 ^ lo < 2 ^ lo := Nat.mod_lt _ (by positivity)
  have hv : v % 2 ^ (hi - lo + 1) < 2 ^ (hi - lo + 1) := Nat.mod_lt _ (by positivity)
  rw [putBits_eq h, Nat.testBit_two_pow_mul_add _ hm]
  by_cases h1 : i < lo
  · have : ¬ (lo ≤ i ∧ i ≤ hi) := by omega
    simp [h1, this, Nat.testBit_mod_two_pow]
  · rw [if_neg h1, Nat.testBit_two_pow_mul_add _ hv]
    by_cases h2 : i ≤ hi
    · have h3 : i - lo < hi - lo + 1 := by omega
      have h4 : lo ≤ i ∧ i ≤ hi := by omega
      simp [h3, h4, Nat.testBit_mod_two_pow]
    · have h3 : ¬ i - lo < hi - lo + 1 := by omega
      have h4 : ¬ (lo ≤ i ∧ i ≤ hi) := by omega
      have h5 : i - lo - (hi - lo + 1) + (hi + 1) = i := by omega
      simp [h3, h4, Nat.testBit_div_two_pow, h5]

/-- Bit i of a field. -/
theorem testBit_bits (x hi lo i : Nat) : (bits x hi lo).testBit i = (decide (i < hi - lo + 1) && x.testBit (i + lo)) := by
  simp [bits, Nat.testBit_mod_two_pow, Nat.testBit_shiftRight, Nat.add_comm]

theorem bits_lt (x hi lo : Nat) : bits x hi lo < 2 ^ (hi - lo + 1) := Nat.mod_lt _ (by positivity)

theorem bits_putBits_self {x hi lo v : Nat} (h : lo ≤ hi) : bits (putBits x hi lo v) hi lo = v % 2 ^ (hi - lo + 1) := by
  apply Nat.eq_of_testBit_eq; intro i
  rw [testBit_bits, testBit_putBits h, Nat.testBit_mod_two_pow]
  by_cases h1 : i < hi - lo + 1
  · have : lo ≤ i + lo ∧ i + lo ≤ hi := by omega
    simp [h1, this]
  · simp [h1]

theorem bits_putBits_ne {x hi lo v hi' lo' : Nat} (h : lo ≤ hi) (hd : hi < lo' ∨ hi' < lo) (h' : lo' ≤ hi') :
    bits (putBits x hi lo v) hi' lo' = bits x hi' lo' := by
  apply Nat.eq_of_testBit_eq; intro i
  rw [testBit_bits, testBit_bits, testBit_putBits h]
  by_cases h1 : i < hi' - lo' + 1
  · have : ¬ (lo ≤ i + lo' ∧ i + lo' ≤ hi) := by omega
    simp [this]
  · simp [h1]

theorem putBits_lt {x hi lo v n : Nat} (h : lo ≤ hi) (hn : hi < n) (hx : x < 2 ^ n) : putBits x hi lo v < 2 ^ n := by
  apply Nat.lt_pow_two_of_testBit; intro i hi'
  rw [testBit_putBits h, if_neg (by omega)]
  exact Nat.testBit_lt_two_pow (lt_of_lt_of_le hx (Nat.pow_le_pow_right (by norm_num) hi'))

/-! ## Registers -/

theorem State.rd_lt (a : Nat) : s.rd a < 2 ^ 32 := (sget regReset s.regs a).isLt

@[simp] theorem State.rd_wr_self (a v : Nat) : (s.wr a v).rd a = v % 2 ^ 32 := by simp [State.rd, State.wr]

theorem State.rd_wr_ne {a b : Nat} (h : b ≠ a) (v : Nat) : (s.wr a v).rd b = s.rd b := by
  simp [State.rd, State.wr, sget_sput_ne h]

/-- A register after a write of one. -/
theorem State.rd_wr (a b v : Nat) : (s.wr a v).rd b = if b = a then v % 2 ^ 32 else s.rd b := by
  by_cases h : b = a
  · subst h; simp
  · simp [h, State.rd_wr_ne]

theorem State.rd_setFld {a hi lo v : Nat} (b : Nat) (h : lo ≤ hi) (h32 : hi < 32) :
    (s.setFld a hi lo v).rd b = if b = a then putBits (s.rd a) hi lo v else s.rd b := by
  rw [State.setFld, State.rd_wr]
  by_cases e : b = a
  · simp only [e, if_true, Nat.mod_eq_of_lt (putBits_lt h h32 (s.rd_lt a))]
  · simp [e]

theorem State.rd_setFld_ne {a b : Nat} (e : b ≠ a) (hi lo v : Nat) : (s.setFld a hi lo v).rd b = s.rd b :=
  State.rd_wr_ne s e _

theorem State.rd_setBit_ne {a b : Nat} (e : b ≠ a) (i : Nat) (v : Bool) : (s.setBit a i v).rd b = s.rd b :=
  State.rd_wr_ne s e _

theorem State.fld_setFld_self {a hi lo v : Nat} (h : lo ≤ hi) (h32 : hi < 32) :
    (s.setFld a hi lo v).fld a hi lo = v % 2 ^ (hi - lo + 1) := by
  rw [State.fld, State.rd_setFld s a h h32, if_pos rfl, bits_putBits_self h]

theorem State.bit_setFld {a hi lo v : Nat} (b i : Nat) (h : lo ≤ hi) (h32 : hi < 32) :
    (s.setFld a hi lo v).bit b i = if b = a ∧ lo ≤ i ∧ i ≤ hi then v.testBit (i - lo) else s.bit b i := by
  rw [State.bit, State.rd_setFld s b h h32, State.bit]
  by_cases e : b = a
  · subst e; simp [testBit_putBits h]
  · simp [e]

/-- A bit after a write of one bit. -/
theorem State.bit_setBit {a i : Nat} (b j : Nat) (v : Bool) (h : i < 32) :
    (s.setBit a i v).bit b j = if b = a ∧ j = i then v else s.bit b j := by
  rw [State.setBit, State.bit_setFld s b j (le_refl i) h]
  by_cases e : b = a ∧ j = i
  · obtain ⟨rfl, rfl⟩ := e
    cases v <;> simp [b2n]
  · have : ¬ (b = a ∧ i ≤ j ∧ j ≤ i) := by rintro ⟨h1, h2, h3⟩; exact e ⟨h1, le_antisymm h3 h2⟩
    simp [e, this]

theorem State.bit_setBit_self {a i : Nat} (v : Bool) (h : i < 32) : (s.setBit a i v).bit a i = v := by
  simp [State.bit_setBit s a i v h]

theorem State.fld_setFld_ne {a hi lo v hi' lo' : Nat} (h : lo ≤ hi) (h32 : hi < 32) (hd : hi < lo' ∨ hi' < lo) (h' : lo' ≤ hi') :
    (s.setFld a hi lo v).fld a hi' lo' = s.fld a hi' lo' := by
  rw [State.fld, State.rd_setFld s a h h32, if_pos rfl, bits_putBits_ne h hd h', State.fld]

theorem State.bit_wr_ne {a b : Nat} (h : b ≠ a) (v i : Nat) : (s.wr a v).bit b i = s.bit b i := by
  rw [State.bit, State.rd_wr_ne s h, State.bit]

theorem State.fld_wr_ne {a b : Nat} (h : b ≠ a) (v hi lo : Nat) : (s.wr a v).fld b hi lo = s.fld b hi lo := by
  rw [State.fld, State.rd_wr_ne s h, State.fld]

theorem State.fld_wr_self (a v hi lo : Nat) : (s.wr a v).fld a hi lo = bits (v % 2 ^ 32) hi lo := by
  rw [State.fld, State.rd_wr_self]

theorem State.bit_wr_self (a v i : Nat) : (s.wr a v).bit a i = (decide (i < 32) && v.testBit i) := by
  rw [State.bit, State.rd_wr_self, Nat.testBit_mod_two_pow]

theorem State.rd_resetRegs (lo hi a : Nat) :
    (s.resetRegs lo hi).rd a = if lo ≤ a ∧ a < hi then (regReset a).toNat else s.rd a := by
  simp only [State.rd, State.resetRegs, sget_sdrop]
  split <;> rfl

/-! ## Memory -/

@[simp] theorem State.byte_setByte_self (a : Nat) (b : Byte) : (s.setByte a b).byte a = b := by simp [State.byte, State.setByte]

theorem State.byte_setByte_ne {a x : Nat} (h : x ≠ a) (b : Byte) : (s.setByte a b).byte x = s.byte x := by
  simp [State.byte, State.setByte, sget_sput_ne h]

/-- A byte after a write of a run of bytes. -/
theorem State.byte_setBytes (bs : List Byte) (a x : Nat) :
    (s.setBytes a bs).byte x = if h : a ≤ x ∧ x < a + bs.length then bs[x - a]'(by omega) else s.byte x := by
  induction bs generalizing s a with
  | nil =>
    have : ¬ (a ≤ x ∧ x < a + ([] : List Byte).length) := by simp
    rw [dif_neg this]; rfl
  | cons b bs ih =>
    rw [State.setBytes, ih]
    by_cases h1 : x = a
    · subst h1
      have h2 : ¬ (x + 1 ≤ x ∧ x < x + 1 + bs.length) := by omega
      rw [dif_neg h2]; simp
    · by_cases h2 : a + 1 ≤ x ∧ x < a + 1 + bs.length
      · have h3 : a ≤ x ∧ x < a + (b :: bs).length := by simp only [List.length_cons]; omega
        have h4 : x - a = x - (a + 1) + 1 := by omega
        rw [dif_pos h2, dif_pos h3]
        simp only [h4, List.getElem_cons_succ]
      · have h3 : ¬ (a ≤ x ∧ x < a + (b :: bs).length) := by simp only [List.length_cons]; omega
        rw [dif_neg h2, dif_neg h3, State.byte_setByte_ne s h1]

/-- A write of a run of bytes leaves every byte outside it alone. -/
theorem State.byte_setBytes_ne {bs : List Byte} {a x : Nat} (h : x < a ∨ a + bs.length ≤ x) :
    (s.setBytes a bs).byte x = s.byte x := by
  rw [State.byte_setBytes, dif_neg (by omega)]

theorem State.setBytes_same (bs : List Byte) (a : Nat) (P : State → State → Prop) (hr : ∀ t, P t t)
    (ht : ∀ t u x b, P t u → P t (u.setByte x b)) : P s (s.setBytes a bs) := by
  suffices h : ∀ (u : State) (a : Nat), P s u → P s (u.setBytes a bs) from h s a (hr s)
  induction bs with
  | nil => intro u a h; exact h
  | cons b bs ih => intro u a h; exact ih _ _ (ht _ _ _ _ h)

/-- A run of bytes written changes nothing but the memory. -/
theorem State.setBytes_eq (bs : List Byte) (a : Nat) : s.setBytes a bs = { s with mem := (s.setBytes a bs).mem } := by
  apply State.setBytes_same s bs a (fun s t => t = { s with mem := t.mem })
  · intro t; rfl
  · intro t u x b h; rw [h]; rfl

@[simp] theorem length_toLE (n x : Nat) : (toLE n x).length = n := by
  induction n generalizing x with
  | zero => rfl
  | succ n ih => simp [toLE, ih]

theorem ofLE_toLE (n x : Nat) : ofLE (toLE n x) = x % 256 ^ n := by
  induction n generalizing x with
  | zero => simp [toLE, ofLE, Nat.mod_one]
  | succ n ih =>
    have : (BitVec.ofNat 8 x).toNat = x % 256 := by simp
    rw [toLE, ofLE, ih, this, pow_succ', Nat.mod_mul]

@[simp] theorem State.length_bytes (a n : Nat) : (s.bytes a n).length = n := by
  induction n generalizing a with
  | zero => rfl
  | succ n ih => simp [State.bytes, ih]

/-- A run of bytes is the run of its first m and that of the rest. -/
theorem State.bytes_append (m n a : Nat) : s.bytes a (m + n) = s.bytes a m ++ s.bytes (a + m) n := by
  induction m generalizing a with
  | zero => simp [State.bytes]
  | succ m ih =>
    rw [show m + 1 + n = (m + n) + 1 by omega]
    simp only [State.bytes, List.cons_append, ih]
    rw [show a + 1 + m = a + (m + 1) by omega]
/-- Bytes of addresses that memory does not list are those of reset. -/
theorem State.bytes_unlisted (b : Byte) (n a : Nat) (out : ∀ c ∈ s.mem, c.1 < a ∨ a + n ≤ c.1) (same : ∀ x, a ≤ x → x < a + n → memReset x = b) :
    s.bytes a n = List.replicate n b := by
  induction n generalizing a with
  | zero => rfl
  | succ n ih =>
    have none : s.mem.find? (fun c => c.1 == a) = none := by
      rw [List.find?_eq_none]
      intro c hc
      have := out c hc
      simp only [beq_iff_eq]
      omega
    have first : s.byte a = b := by
      simp only [State.byte, sget, none]
      exact same a (Nat.le_refl a) (by omega)
    simp only [State.bytes, List.replicate_succ, first]
    rw [ih (a + 1) (fun c hc => by have := out c hc; omega) fun x h1 h2 => same x (by omega) (by omega)]
/-- A run of bytes reads back as written. -/
theorem State.bytes_setBytes_self (bs : List Byte) (a : Nat) : (s.setBytes a bs).bytes a bs.length = bs := by
  induction bs generalizing s a with
  | nil => rfl
  | cons b bs ih =>
    simp only [State.setBytes, List.length_cons, State.bytes, ih]
    congr 1
    rw [State.byte_setBytes_ne _ (by omega), State.byte_setByte_self]

theorem State.word_setWord_self (a v : Nat) : (s.setWord a v).word a = v % 2 ^ 32 := by
  have h := State.bytes_setBytes_self s (toLE 4 v) a
  rw [length_toLE] at h
  rw [State.word, State.le, State.setWord, State.setLe, h, ofLE_toLE]; norm_num

/-! ## Memory with its check bits -/

/-- A write with check bits changes nothing but the memory and the words in error. -/
theorem State.store_eq (a : Nat) (bs : List Byte) :
    s.store a bs = { s with mem := (s.setBytes a bs).mem, flaws := (s.mend a bs.length).flaws } := by
  rw [State.store, State.setBytes_eq]; rfl
theorem State.bytes_of_mem {t u : State} (h : t.mem = u.mem) (n a : Nat) : t.bytes a n = u.bytes a n := by
  induction n generalizing a with
  | zero => rfl
  | succ n ih => simp only [State.bytes, State.byte, h, ih]
theorem State.bytes_store_self (bs : List Byte) (a : Nat) : (s.store a bs).bytes a bs.length = bs := by
  rw [State.bytes_of_mem (t := s.store a bs) (u := s.setBytes a bs) rfl, State.bytes_setBytes_self]
theorem State.byte_store_ne {bs : List Byte} {a x : Nat} (h : x < a ∨ a + bs.length ≤ x) : (s.store a bs).byte x = s.byte x :=
  State.byte_setBytes_ne s h
/-- No word in error lies in what has been mended whole. -/
theorem State.bad_mend {a n x m : Nat} (lo : a ≤ 4 * (eccUnits x m).1) (hi : 4 * (eccUnits x m).2 ≤ a + n) : (s.mend a n).bad x m = false := by
  simp only [State.bad, State.mend, List.any_eq_false, List.mem_filter, Bool.not_eq_true', decide_eq_false_iff_not, decide_eq_true_eq]
  intro f hf h
  exact hf.2 ⟨by omega, by omega⟩

theorem ofsFrom_eq (b a : Nat) : ofsFrom b a = a - b := by cases a <;> simp [ofsFrom]

end Sys2Proof.Machine
end

