-- ==== Sys2Proof/Laws/Does.lean ====
section
/-!
SUPPORT. What an operation can do, said once for each: `Does m s t` says that t keeps the canonical form of s and its queue, and
differs from s at most in the parts and register pages that the footprint m names. Bits 0 to 21 of m are the parts of `Part`, bits
22 to 35 the compute-die pages in address order, bits 36 to 41 the Binnacle pages, bit 42 every other register, bit 43 the words known to
be uncorrectable.
-/
namespace Sys2Proof.Machine

def Part.idx : Part → Nat
  | .mem => 0 | .per => 1 | .probs => 2 | .cls => 3 | .rot => 4 | .chart => 5 | .cell => 6 | .lanes => 7 | .hubs => 8 | .cap => 9
  | .gmem => 10 | .saf => 11 | .chain => 12 | .port => 13 | .cores => 14 | .boot => 15 | .flash => 16 | .clk => 17 | .pins => 18
  | .io => 19 | .notices => 20 | .freeCtr => 21 | .flaws => 43
/-- The footprint bit of the page that holds register a. -/
def pageBit (a : Nat) : Nat :=
  if 0x4000000000 ≤ a ∧ a < 0x40000E0000 then 22 + (a - 0x4000000000) / 0x10000
  else if 0x5000000000 ≤ a ∧ a < 0x5000060000 then 36 + (a - 0x5000000000) / 0x10000
  else 42

structure Does (m : Nat) (s t : State) : Prop where
  canon : s.canonical = true → t.canonical = true
  pending : t.pending = s.pending
  part : ∀ p : Part, m.testBit p.idx = false → p.same s t
  reg : ∀ a, m.testBit (pageBit a) = false → t.rd a = s.rd a

variable {m n : Nat} {s t u : State}

theorem Part.same_refl (p : Part) (s : State) : p.same s s := by cases p <;> simp [Part.same]
theorem Part.same_trans {p : Part} (h : p.same s t) (k : p.same t u) : p.same s u := by
  cases p <;> simp_all [Part.same]

theorem Does.refl (m : Nat) (s : State) : Does m s s := ⟨id, rfl, fun p _ => p.same_refl s, fun _ _ => rfl⟩
theorem Does.trans (h : Does m s t) (k : Does n t u) (e : n &&& m = n) : Does m s u := by
  have hb : ∀ i, m.testBit i = false → n.testBit i = false := by
    intro i hi; rw [← e, Nat.testBit_and, hi, Bool.and_false]
  exact ⟨fun c => k.canon (h.canon c), k.pending.trans h.pending, fun p hp => Part.same_trans (h.part p hp) (k.part p (hb _ hp)),
    fun a ha => (k.reg a (hb _ ha)).trans (h.reg a ha)⟩
theorem Does.andThen (k : Does n t u) (h : Does m s t) (e : n &&& m = n) : Does m s u := h.trans k e
theorem Does.mono (h : Does n s t) (e : n &&& m = n) : Does m s t := (Does.refl m s).trans h e
theorem Does.ite {c : Prop} [Decidable c] (h : Does m s t) (k : Does m s u) : Does m s (if c then t else u) := by
  split <;> assumption
theorem Does.iteSnd {α : Type} {c : Prop} [Decidable c] {p q : α × State} (h : Does m s p.2) (k : Does m s q.2) :
    Does m s (if c then p else q).2 := by split <;> assumption
theorem Does.iteFst {α : Type} {c : Prop} [Decidable c] {p q : State × α} (h : Does m s p.1) (k : Does m s q.1) :
    Does m s (if c then p else q).1 := by split <;> assumption
theorem Does.here (h : Does m s t) : Does m s t := h
/-- A fact about an intermediate state, put beside the claim about the final one. -/
theorem Does.cutAt (u : State) (h : Does m s u) (k : Does m s u → Does m s t) : Does m s t := k h
theorem Does.cutSnd {α : Type} {p : α × State} {a : α} (e : p = (a, u)) (h : Does m s p.2) (k : Does m s u → Does m s t) :
    Does m s t := k (by rw [e] at h; exact h)
theorem Does.cutFst {α : Type} {p : State × α} {a : α} (e : p = (u, a)) (h : Does m s p.1) (k : Does m s u → Does m s t) :
    Does m s t := k (by rw [e] at h; exact h)
theorem Does.foldl {α : Type} {f : State → α → State} {l : List α} (h : Does m s t)
    (k : ∀ u x, Does m s u → Does m s (f u x)) : Does m s (l.foldl f t) := by
  induction l generalizing t with
  | nil => exact h
  | cons x l ih => exact ih (k t x h)
theorem Does.foldlFst {α β : Type} {f : State × β → α → State × β} {l : List α} {q : State × β} (h : Does m s q.1)
    (k : ∀ u x, Does m s u.1 → Does m s (f u x).1) : Does m s (l.foldl f q).1 := by
  induction l generalizing q with
  | nil => exact h
  | cons x l ih => exact ih (k q x h)
theorem Does.foldlSnd {α β : Type} {f : β × State → α → β × State} {l : List α} {q : β × State} (h : Does m s q.2)
    (k : ∀ u x, Does m s u.2 → Does m s (f u x).2) : Does m s (l.foldl f q).2 := by
  induction l generalizing q with
  | nil => exact h
  | cons x l ih => exact ih (k q x h)
theorem Does.each {α : Type} {f : State → α → State} {l : List α} (h : Does m s t)
    (k : ∀ u x, Does m s u → Does m s (f u x)) : Does m s (t.each l f) := Does.foldl h k

/-- A register write. -/
theorem Does.wr {a v : Nat} (h : Does m s t) (ha : m.testBit (pageBit a) = true) : Does m s (t.wr a v) where
  canon := fun c => by
    have := h.canon c
    simp only [State.canonical, Bool.and_eq_true, State.wr_mem] at *
    exact ⟨this.1, swf_sput this.2 _ _⟩
  pending := h.pending
  part := fun p hp => Part.same_trans (h.part p hp) (by cases p <;> first | rfl | (intro a; rfl))
  reg := fun b hb => by
    rw [State.rd_wr_ne]; exact h.reg b hb
    rintro rfl; simp [ha] at hb
theorem Does.setFld {a hi lo v : Nat} (h : Does m s t) (ha : m.testBit (pageBit a) = true) : Does m s (t.setFld a hi lo v) := h.wr ha
theorem Does.setBit {a i : Nat} {b : Bool} (h : Does m s t) (ha : m.testBit (pageBit a) = true) : Does m s (t.setBit a i b) := h.wr ha
theorem Does.orReg {a k : Nat} (h : Does m s t) (ha : m.testBit (pageBit a) = true) : Does m s (t.orReg a k) := h.wr ha
theorem Does.clrReg {a k : Nat} (h : Does m s t) (ha : m.testBit (pageBit a) = true) : Does m s (t.clrReg a k) := h.wr ha
theorem Does.count {a hi lo k : Nat} (h : Does m s t) (ha : m.testBit (pageBit a) = true) : Does m s (t.count a hi lo k) := h.wr ha

theorem foot_sub {x y z : Nat} (h : x &&& y = x) (e : y &&& z = y) : x &&& z = x := by
  rw [← h, Nat.and_assoc, e]

/-- Every page may change. -/
def anyReg : Nat := 0x7FFFFC00000
theorem pageBit_range (a : Nat) : 22 ≤ pageBit a ∧ pageBit a ≤ 42 := by
  unfold pageBit; split
  · omega
  · split <;> omega
theorem anyReg_page (a : Nat) (h : anyReg &&& m = anyReg) : m.testBit (pageBit a) = true := by
  have h1 := pageBit_range a
  have h2 : anyReg.testBit (pageBit a) = true := by
    generalize pageBit a = i at h1
    obtain ⟨h3, h4⟩ := h1
    interval_cases i <;> decide
  rw [← h, Nat.testBit_and, Bool.and_eq_true] at h2
  exact h2.2

theorem Does.resetRegs {lo hi : Nat} : Does 0x7FFFFC00000 s (s.resetRegs lo hi) where
  canon := fun c => by
    simp only [State.canonical, Bool.and_eq_true, State.resetRegs_mem] at *
    exact ⟨c.1, swf_sdrop c.2 _ _⟩
  pending := rfl
  part := fun p _ => by cases p <;> first | rfl | (intro a; rfl)
  reg := fun a ha => by
    have := anyReg_page (m := 0x7FFFFC00000) a (by decide)
    simp [this] at ha

/-! ## Memory -/

theorem Does.ofMem {k : List Host.Cell} (hk : Memory.wf s.mem = true → Memory.wf k = true) : Does 1 s { s with mem := k } where
  canon := fun c => by
    simp only [State.canonical, Bool.and_eq_true] at *
    exact ⟨hk c.1, c.2⟩
  pending := rfl
  part := fun p hp => by cases p <;> first | rfl | (exact absurd hp (by decide))
  reg := fun a _ => rfl
theorem Does.setByte {a : Nat} {b : Byte} : Does 1 s (s.setByte a b) := Does.ofMem fun h => swf_sput h _ _
theorem Does.setBytes {a : Nat} {bs : List Byte} : Does 1 s (s.setBytes a bs) := by
  apply State.setBytes_same s bs a (Does 1) (fun t => Does.refl 1 t)
  intro t u x b h; exact h.trans Does.setByte rfl
theorem Does.setLe {a k v : Nat} : Does 1 s (s.setLe a k v) := Does.setBytes
theorem Does.setWord {a v : Nat} : Does 1 s (s.setWord a v) := Does.setBytes
theorem Does.zeroBytes {a k : Nat} : Does 1 s (s.zeroBytes a k) := Does.setBytes
theorem Does.dropMem {lo hi : Nat} : Does 1 s (s.dropMem lo hi) := Does.ofMem fun h => swf_sdrop h _ _

/-! ## The other parts -/

theorem Does.upd_per {x : Per} : Does 0x2 s { s with per := x } :=
  ⟨id, rfl, fun p hp => by cases p <;> first | rfl | (intro a; rfl) | (exact absurd hp (by decide)), fun _ _ => rfl⟩

theorem Does.upd_probs {x : Vector Problem 4} : Does 0x4 s { s with probs := x } :=
  ⟨id, rfl, fun p hp => by cases p <;> first | rfl | (intro a; rfl) | (exact absurd hp (by decide)), fun _ _ => rfl⟩

theorem Does.upd_cls {x : Vector Cluster 16} : Does 0x8 s { s with cls := x } :=
  ⟨id, rfl, fun p hp => by cases p <;> first | rfl | (intro a; rfl) | (exact absurd hp (by decide)), fun _ _ => rfl⟩

theorem Does.upd_rot {x : Rotation} : Does 0x10 s { s with rot := x } :=
  ⟨id, rfl, fun p hp => by cases p <;> first | rfl | (intro a; rfl) | (exact absurd hp (by decide)), fun _ _ => rfl⟩

theorem Does.upd_chart {x : Chart} : Does 0x20 s { s with chart := x } :=
  ⟨id, rfl, fun p hp => by cases p <;> first | rfl | (intro a; rfl) | (exact absurd hp (by decide)), fun _ _ => rfl⟩

theorem Does.upd_cell {x : CellUnit} : Does 0x40 s { s with cell := x } :=
  ⟨id, rfl, fun p hp => by cases p <;> first | rfl | (intro a; rfl) | (exact absurd hp (by decide)), fun _ _ => rfl⟩

theorem Does.upd_lanes {x : Vector Lane 64} : Does 0x80 s { s with lanes := x } :=
  ⟨id, rfl, fun p hp => by cases p <;> first | rfl | (intro a; rfl) | (exact absurd hp (by decide)), fun _ _ => rfl⟩

theorem Does.upd_hubs {x : Vector Hub 64} : Does 0x100 s { s with hubs := x } :=
  ⟨id, rfl, fun p hp => by cases p <;> first | rfl | (intro a; rfl) | (exact absurd hp (by decide)), fun _ _ => rfl⟩

theorem Does.upd_cap {x : Cap} : Does 0x200 s { s with cap := x } :=
  ⟨id, rfl, fun p hp => by cases p <;> first | rfl | (intro a; rfl) | (exact absurd hp (by decide)), fun _ _ => rfl⟩

theorem Does.upd_gmem {x : Mem} : Does 0x400 s { s with gmem := x } :=
  ⟨id, rfl, fun p hp => by cases p <;> first | rfl | (intro a; rfl) | (exact absurd hp (by decide)), fun _ _ => rfl⟩

theorem Does.upd_saf {x : Saf} : Does 0x800 s { s with saf := x } :=
  ⟨id, rfl, fun p hp => by cases p <;> first | rfl | (intro a; rfl) | (exact absurd hp (by decide)), fun _ _ => rfl⟩

theorem Does.upd_chain {x : Chain} : Does 0x1000 s { s with chain := x } :=
  ⟨id, rfl, fun p hp => by cases p <;> first | rfl | (intro a; rfl) | (exact absurd hp (by decide)), fun _ _ => rfl⟩

theorem Does.upd_port {x : Port} : Does 0x2000 s { s with port := x } :=
  ⟨id, rfl, fun p hp => by cases p <;> first | rfl | (intro a; rfl) | (exact absurd hp (by decide)), fun _ _ => rfl⟩

theorem Does.upd_cores {x : Vector Core 10} : Does 0x4000 s { s with cores := x } :=
  ⟨id, rfl, fun p hp => by cases p <;> first | rfl | (intro a; rfl) | (exact absurd hp (by decide)), fun _ _ => rfl⟩

theorem Does.upd_boot {x : Boot} : Does 0x8000 s { s with boot := x } :=
  ⟨id, rfl, fun p hp => by cases p <;> first | rfl | (intro a; rfl) | (exact absurd hp (by decide)), fun _ _ => rfl⟩

theorem Does.upd_flash {x : Flash} : Does 0x10000 s { s with flash := x } :=
  ⟨id, rfl, fun p hp => by cases p <;> first | rfl | (intro a; rfl) | (exact absurd hp (by decide)), fun _ _ => rfl⟩

theorem Does.upd_clk {x : Clk} : Does 0x20000 s { s with clk := x } :=
  ⟨id, rfl, fun p hp => by cases p <;> first | rfl | (intro a; rfl) | (exact absurd hp (by decide)), fun _ _ => rfl⟩

theorem Does.upd_pins {x : Pins} : Does 0x40000 s { s with pins := x } :=
  ⟨id, rfl, fun p hp => by cases p <;> first | rfl | (intro a; rfl) | (exact absurd hp (by decide)), fun _ _ => rfl⟩

theorem Does.upd_io {x : Io} : Does 0x80000 s { s with io := x } :=
  ⟨id, rfl, fun p hp => by cases p <;> first | rfl | (intro a; rfl) | (exact absurd hp (by decide)), fun _ _ => rfl⟩

theorem Does.upd_notices {x : List (List Byte)} : Does 0x100000 s { s with notices := x } :=
  ⟨id, rfl, fun p hp => by cases p <;> first | rfl | (intro a; rfl) | (exact absurd hp (by decide)), fun _ _ => rfl⟩

theorem Does.upd_freeCtr {x : Nat} : Does 0x200000 s { s with freeCtr := x } :=
  ⟨id, rfl, fun p hp => by cases p <;> first | rfl | (intro a; rfl) | (exact absurd hp (by decide)), fun _ _ => rfl⟩

theorem Does.upd_flaws {x0 : List Nat} : Does 0x80000000000 s { s with flaws := x0 } :=
  ⟨id, rfl, fun p hp => by cases p <;> first | rfl | (intro a; rfl) | (exact absurd hp (by decide)), fun _ _ => rfl⟩

theorem Does.upd_cell_lanes {x0 : CellUnit} {x1 : Vector Lane 64} : Does 0xc0 s { s with cell := x0, lanes := x1 } :=
  ⟨id, rfl, fun p hp => by cases p <;> first | rfl | (intro a; rfl) | (exact absurd hp (by decide)), fun _ _ => rfl⟩

theorem Does.upd_cell_saf {x0 : CellUnit} {x1 : Saf} : Does 0x840 s { s with cell := x0, saf := x1 } :=
  ⟨id, rfl, fun p hp => by cases p <;> first | rfl | (intro a; rfl) | (exact absurd hp (by decide)), fun _ _ => rfl⟩

theorem Does.upd_saf_boot_clk {x0 : Saf} {x1 : Boot} {x2 : Clk} :
    Does 0x28800 s { s with saf := x0, boot := x1, clk := x2 } :=
  ⟨id, rfl, fun p hp => by cases p <;> first | rfl | (intro a; rfl) | (exact absurd hp (by decide)), fun _ _ => rfl⟩

theorem Does.upd_port_cores {x0 : Port} {x1 : Vector Core 10} : Does 0x6000 s { s with port := x0, cores := x1 } :=
  ⟨id, rfl, fun p hp => by cases p <;> first | rfl | (intro a; rfl) | (exact absurd hp (by decide)), fun _ _ => rfl⟩

theorem Does.upd_per_cell_lanes_cores_pins_io {x0 : Per} {x1 : CellUnit} {x2 : Vector Lane 64} {x3 : Vector Core 10} {x4 : Pins} {x5 : Io} : Does 0xc40c2 s { s with per := x0, cell := x1, lanes := x2, cores := x3, pins := x4, io := x5 } :=
  ⟨id, rfl, fun p hp => by cases p <;> first | rfl | (intro a; rfl) | (exact absurd hp (by decide)), fun _ _ => rfl⟩

theorem Does.setProb {p : Slot} {q : Problem} : Does 0x4 s (s.setProb p q) := Does.upd_probs
theorem Does.setCl {c : Cl} {q : Cluster} : Does 0x8 s (s.setCl c q) := Does.upd_cls
theorem Does.setLane {l : LaneN} {q : Lane} : Does 0x80 s (s.setLane l q) := Does.upd_lanes
theorem Does.setHub {h : HubN} {q : Hub} : Does 0x100 s (s.setHub h q) := Does.upd_hubs
theorem Does.setCore {c : CoreN} {q : Core} : Does 0x4000 s (s.setCore c q) := Does.upd_cores
theorem Does.freeWord : Does 0x200000 s s.freeWord.2 := Does.upd_freeCtr
theorem Does.freeBit : Does 0x200000 s s.freeBit.2 := Does.upd_freeCtr
theorem Does.freeBytes {k : Nat} : Does 0x200000 s (s.freeBytes k).2 := Does.upd_freeCtr

/-! ## Words in error -/

theorem Does.setBad {a k : Nat} : Does 0x80000000000 s (s.setBad a k) := Does.upd_flaws
theorem Does.mend {a k : Nat} : Does 0x80000000000 s (s.mend a k) := Does.upd_flaws
theorem Does.noteEcc {a k : Nat} {e : Ecc} : Does 0x80000000000 s (s.noteEcc a k e) := Does.ite Does.setBad (Does.refl _ _)
theorem Does.findEcc {a k : Nat} {l : List Ecc} : Does 0x80000000000 s (s.findEcc a k l).2 :=
  Does.foldl (Does.refl _ _) fun _ _ h => Does.andThen Does.setBad h rfl
theorem Does.store {a : Nat} {bs : List Byte} : Does 0x80000000001 s (s.store a bs) :=
  Does.andThen Does.mend (Does.setBytes.mono (by decide)) (by decide)
theorem Does.clearMem {lo hi : Nat} : Does 0x80000000001 s (s.clearMem lo hi) :=
  Does.andThen Does.mend (Does.dropMem.mono (by decide)) (by decide)
theorem Does.sramPut {w : Nat × List Byte} : Does 0x80000000001 s (s.sramPut w) := Does.ite (Does.setBytes.mono (by decide)) Does.store

/-- What an outcome can do: each next state. -/
def DoesOut (m : Nat) (s : State) (o : Out) : Prop := ∀ t, o = .next t → Does m s t
theorem DoesOut.next (h : Does m s t) : DoesOut m s (.next t) := by
  intro u e; cases e; exact h
theorem DoesOut.ite {c : Prop} [Decidable c] {o q : Out} (h : DoesOut m s o) (k : DoesOut m s q) : DoesOut m s (if c then o else q) := by
  split <;> assumption
theorem DoesOut.cutAt {o : Out} (u : State) (h : Does m s u) (k : Does m s u → DoesOut m s o) : DoesOut m s o := k h
theorem DoesOut.cutSnd {α : Type} {p : α × State} {a : α} {o : Out} (e : p = (a, u)) (h : Does m s p.2)
    (k : Does m s u → DoesOut m s o) : DoesOut m s o := k (by rw [e] at h; exact h)
theorem DoesOut.cutFst {α : Type} {p : State × α} {a : α} {o : Out} (e : p = (u, a)) (h : Does m s p.1)
    (k : Does m s u → DoesOut m s o) : DoesOut m s o := k (by rw [e] at h; exact h)
theorem DoesOut.mono {o : Out} (h : DoesOut n s o) (e : n &&& m = n) : DoesOut m s o := fun t ht => (h t ht).mono e

end Sys2Proof.Machine
end

