-- ==== Sys2Proof/Laws/DoesRegs.lean ====
section
/-!
SUPPORT. The page of each register that stands in a row of like registers.
-/
namespace Sys2Proof.Machine

theorem pageBit_compute {a k : Nat} (h : 0x4000000000 + 0x10000 * k ≤ a) (h' : a < 0x4000000000 + 0x10000 * (k + 1)) (hk : k < 14) :
    pageBit a = 22 + k := by
  unfold pageBit
  have q : 0x4000000000 ≤ a ∧ a < 0x40000E0000 := by omega
  rw [if_pos q]; omega
theorem pageBit_binnacle {a k : Nat} (h : 0x5000000000 + 0x10000 * k ≤ a) (h' : a < 0x5000000000 + 0x10000 * (k + 1)) (hk : k < 6) :
    pageBit a = 36 + k := by
  unfold pageBit
  have q : ¬ (0x4000000000 ≤ a ∧ a < 0x40000E0000) := by omega
  have r : 0x5000000000 ≤ a ∧ a < 0x5000060000 := by omega
  rw [if_neg q, if_pos r]; omega
theorem pageBit_other {a : Nat} (h : 0x5000060000 ≤ a) : pageBit a = 42 := by
  unfold pageBit
  have q : ¬ (0x4000000000 ≤ a ∧ a < 0x40000E0000) := by omega
  have r : ¬ (0x5000000000 ≤ a ∧ a < 0x5000060000) := by omega
  rw [if_neg q, if_neg r]

theorem pageBit_perLen {i : Nat} (h : i < 16382) : pageBit (perLen i) = 23 :=
  pageBit_compute (k := 1) (by simp only [perLen, perBase]; omega) (by simp only [perLen, perBase]; omega) (by decide)
theorem pageBit_perDl {i : Nat} (h : i < 16379) : pageBit (perDl i) = 23 :=
  pageBit_compute (k := 1) (by simp only [perDl, perBase]; omega) (by simp only [perDl, perBase]; omega) (by decide)
theorem pageBit_perTmrCtrl {i : Nat} (h : i < 8184) : pageBit (perTmrCtrl i) = 23 :=
  pageBit_compute (k := 1) (by simp only [perTmrCtrl, perBase]; omega) (by simp only [perTmrCtrl, perBase]; omega) (by decide)
theorem pageBit_perTmrCmp {i : Nat} (h : i < 8183) : pageBit (perTmrCmp i) = 23 :=
  pageBit_compute (k := 1) (by simp only [perTmrCmp, perBase]; omega) (by simp only [perTmrCmp, perBase]; omega) (by decide)
theorem pageBit_srchPstat {i : Nat} (h : i < 16368) : pageBit (srchPstat i) = 24 :=
  pageBit_compute (k := 2) (by simp only [srchPstat, srchBase]; omega) (by simp only [srchPstat, srchBase]; omega) (by decide)
theorem pageBit_srchPincl {i : Nat} (h : i < 16364) : pageBit (srchPincl i) = 24 :=
  pageBit_compute (k := 2) (by simp only [srchPincl, srchBase]; omega) (by simp only [srchPincl, srchBase]; omega) (by decide)
theorem pageBit_srchPinch {i : Nat} (h : i < 16360) : pageBit (srchPinch i) = 24 :=
  pageBit_compute (k := 2) (by simp only [srchPinch, srchBase]; omega) (by simp only [srchPinch, srchBase]; omega) (by decide)
theorem pageBit_chrtBuf {i : Nat} (h : i < 16381) : pageBit (chrtBuf i) = 25 :=
  pageBit_compute (k := 3) (by simp only [chrtBuf, chrtBase]; omega) (by simp only [chrtBuf, chrtBase]; omega) (by decide)
theorem pageBit_chrtTag {i : Nat} (h : i < 16368) : pageBit (chrtTag i) = 25 :=
  pageBit_compute (k := 3) (by simp only [chrtTag, chrtBase]; omega) (by simp only [chrtTag, chrtBase]; omega) (by decide)
theorem pageBit_cellLcfg {i : Nat} (h : i < 4080) : pageBit (cellLcfg i) = 26 :=
  pageBit_compute (k := 4) (by simp only [cellLcfg, cellBase]; omega) (by simp only [cellLcfg, cellBase]; omega) (by decide)
theorem pageBit_cellLstat {i : Nat} (h : i < 4079) : pageBit (cellLstat i) = 26 :=
  pageBit_compute (k := 4) (by simp only [cellLstat, cellBase]; omega) (by simp only [cellLstat, cellBase]; omega) (by decide)
theorem pageBit_cellLdly {i : Nat} (h : i < 4079) : pageBit (cellLdly i) = 26 :=
  pageBit_compute (k := 4) (by simp only [cellLdly, cellBase]; omega) (by simp only [cellLdly, cellBase]; omega) (by decide)
theorem pageBit_cellLerr {i : Nat} (h : i < 4079) : pageBit (cellLerr i) = 26 :=
  pageBit_compute (k := 4) (by simp only [cellLerr, cellBase]; omega) (by simp only [cellLerr, cellBase]; omega) (by decide)
theorem pageBit_cellAcfg {i : Nat} (h : i < 1920) : pageBit (cellAcfg i) = 26 :=
  pageBit_compute (k := 4) (by simp only [cellAcfg, cellBase]; omega) (by simp only [cellAcfg, cellBase]; omega) (by decide)
theorem pageBit_cellAstat {i : Nat} (_h : True) : pageBit (cellAstat i) = 26 :=
  pageBit_compute (k := 4) (by simp only [cellAstat, cellBase]; omega) (by simp only [cellAstat, cellBase]; omega) (by decide)
theorem pageBit_cellAdb {i : Nat} (h : i < 1919) : pageBit (cellAdb i) = 26 :=
  pageBit_compute (k := 4) (by simp only [cellAdb, cellBase]; omega) (by simp only [cellAdb, cellBase]; omega) (by decide)
theorem pageBit_cellCst {i : Nat} (_h : True) : pageBit (cellCst i) = 26 :=
  pageBit_compute (k := 4) (by simp only [cellCst, cellBase]; omega) (by simp only [cellCst, cellBase]; omega) (by decide)
theorem pageBit_memChstat {i : Nat} (h : i < 16368) : pageBit (memChstat i) = 28 :=
  pageBit_compute (k := 6) (by simp only [memChstat, memBase]; omega) (by simp only [memChstat, memBase]; omega) (by decide)
theorem pageBit_chnDly {i : Nat} (h : i < 16380) : pageBit (chnDly i) = 29 :=
  pageBit_compute (k := 7) (by simp only [chnDly, chnBase]; omega) (by simp only [chnDly, chnBase]; omega) (by decide)
theorem pageBit_hlmFcause {i : Nat} (h : i < 4079) : pageBit (hlmFcause i) = 30 :=
  pageBit_compute (k := 8) (by simp only [hlmFcause, hlmBase]; omega) (by simp only [hlmFcause, hlmBase]; omega) (by decide)
theorem pageBit_hlmFepc {i : Nat} (h : i < 4079) : pageBit (hlmFepc i) = 30 :=
  pageBit_compute (k := 8) (by simp only [hlmFepc, hlmBase]; omega) (by simp only [hlmFepc, hlmBase]; omega) (by decide)
theorem pageBit_pinCfg {i : Nat} (_h : True) : pageBit (pinCfg i) = 32 :=
  pageBit_compute (k := 10) (by simp only [pinCfg, pinBase]; omega) (by simp only [pinCfg, pinBase]; omega) (by decide)
theorem pageBit_evtChprod {i : Nat} (_h : True) : pageBit (evtChprod i) = 33 :=
  pageBit_compute (k := 11) (by simp only [evtChprod, evtBase]; omega) (by simp only [evtChprod, evtBase]; omega) (by decide)
theorem pageBit_evtChcfg {i : Nat} (_h : True) : pageBit (evtChcfg i) = 33 :=
  pageBit_compute (k := 11) (by simp only [evtChcfg, evtBase]; omega) (by simp only [evtChcfg, evtBase]; omega) (by decide)
theorem pageBit_evtOutcfg {i : Nat} (h : i < 16128) : pageBit (evtOutcfg i) = 33 :=
  pageBit_compute (k := 11) (by simp only [evtOutcfg, evtBase]; omega) (by simp only [evtOutcfg, evtBase]; omega) (by decide)
theorem pageBit_evtTsub {i : Nat} (_h : True) : pageBit (evtTsub i) = 33 :=
  pageBit_compute (k := 11) (by simp only [evtTsub, evtBase]; omega) (by simp only [evtTsub, evtBase]; omega) (by decide)
theorem pageBit_evtTmrg {i : Nat} (_h : True) : pageBit (evtTmrg i) = 33 :=
  pageBit_compute (k := 11) (by simp only [evtTmrg, evtBase]; omega) (by simp only [evtTmrg, evtBase]; omega) (by decide)
theorem pageBit_serCfg {i : Nat} (h : i < 2040) : pageBit (serCfg i) = 35 :=
  pageBit_compute (k := 13) (by simp only [serCfg, serBase]; omega) (by simp only [serCfg, serBase]; omega) (by decide)
theorem pageBit_serCkdiv {i : Nat} (h : i < 2039) : pageBit (serCkdiv i) = 35 :=
  pageBit_compute (k := 13) (by simp only [serCkdiv, serBase]; omega) (by simp only [serCkdiv, serBase]; omega) (by decide)
theorem pageBit_serTxc {i : Nat} (h : i < 2039) : pageBit (serTxc i) = 35 :=
  pageBit_compute (k := 13) (by simp only [serTxc, serBase]; omega) (by simp only [serTxc, serBase]; omega) (by decide)
theorem pageBit_serStat {i : Nat} (h : i < 2039) : pageBit (serStat i) = 35 :=
  pageBit_compute (k := 13) (by simp only [serStat, serBase]; omega) (by simp only [serStat, serBase]; omega) (by decide)
theorem pageBit_bootSeq {i : Nat} (h : i < 16375) : pageBit (bootSeq i) = 36 :=
  pageBit_binnacle (k := 0) (by simp only [bootSeq, bootBase]; omega) (by simp only [bootSeq, bootBase]; omega) (by decide)
theorem pageBit_bootBufw {i : Nat} (_h : True) : pageBit (bootBufw i) = 36 :=
  pageBit_binnacle (k := 0) (by simp only [bootBufw, bootBase]; omega) (by simp only [bootBufw, bootBase]; omega) (by decide)
theorem pageBit_flsData {i : Nat} (h : i < 16380) : pageBit (flsData i) = 37 :=
  pageBit_binnacle (k := 1) (by simp only [flsData, flsBase]; omega) (by simp only [flsData, flsBase]; omega) (by decide)
theorem pageBit_flsWp {i : Nat} (h : i < 16376) : pageBit (flsWp i) = 37 :=
  pageBit_binnacle (k := 1) (by simp only [flsWp, flsBase]; omega) (by simp only [flsWp, flsBase]; omega) (by decide)
theorem pageBit_flsDirty {i : Nat} (_h : True) : pageBit (flsDirty i) = 37 :=
  pageBit_binnacle (k := 1) (by simp only [flsDirty, flsBase]; omega) (by simp only [flsDirty, flsBase]; omega) (by decide)
theorem pageBit_nvrCntcfg {i : Nat} (_h : True) : pageBit (nvrCntcfg i) = 38 :=
  pageBit_binnacle (k := 2) (by simp only [nvrCntcfg, nvrBase]; omega) (by simp only [nvrCntcfg, nvrBase]; omega) (by decide)
theorem pageBit_nvrCnthi {i : Nat} (_h : True) : pageBit (nvrCnthi i) = 38 :=
  pageBit_binnacle (k := 2) (by simp only [nvrCnthi, nvrBase]; omega) (by simp only [nvrCnthi, nvrBase]; omega) (by decide)
theorem pageBit_safYcfg {i : Nat} (h : i < 2032) : pageBit (safYcfg i) = 39 :=
  pageBit_binnacle (k := 3) (by simp only [safYcfg, safBase]; omega) (by simp only [safYcfg, safBase]; omega) (by decide)
theorem pageBit_safYlim {i : Nat} (h : i < 2031) : pageBit (safYlim i) = 39 :=
  pageBit_binnacle (k := 3) (by simp only [safYlim, safBase]; omega) (by simp only [safYlim, safBase]; omega) (by decide)
theorem pageBit_safYtol {i : Nat} (h : i < 2031) : pageBit (safYtol i) = 39 :=
  pageBit_binnacle (k := 3) (by simp only [safYtol, safBase]; omega) (by simp only [safYtol, safBase]; omega) (by decide)
theorem pageBit_safYmeas {i : Nat} (h : i < 16224) : pageBit (safYmeas i) = 39 :=
  pageBit_binnacle (k := 3) (by simp only [safYmeas, safBase]; omega) (by simp only [safYmeas, safBase]; omega) (by decide)
theorem pageBit_mpinPcfg {i : Nat} (h : i < 16380) : pageBit (mpinPcfg i) = 40 :=
  pageBit_binnacle (k := 4) (by simp only [mpinPcfg, mpinBase]; omega) (by simp only [mpinPcfg, mpinBase]; omega) (by decide)
theorem pageBit_mpinScfg {i : Nat} (h : i < 4092) : pageBit (mpinScfg i) = 40 :=
  pageBit_binnacle (k := 4) (by simp only [mpinScfg, mpinBase]; omega) (by simp only [mpinScfg, mpinBase]; omega) (by decide)
theorem pageBit_mpinSrx {i : Nat} (h : i < 4091) : pageBit (mpinSrx i) = 40 :=
  pageBit_binnacle (k := 4) (by simp only [mpinSrx, mpinBase]; omega) (by simp only [mpinSrx, mpinBase]; omega) (by decide)
theorem pageBit_mpinSstat {i : Nat} (h : i < 4091) : pageBit (mpinSstat i) = 40 :=
  pageBit_binnacle (k := 4) (by simp only [mpinSstat, mpinBase]; omega) (by simp only [mpinSstat, mpinBase]; omega) (by decide)

theorem portIdx_lt (p : ChPort) : portIdx p < 2 := by cases p <;> decide
theorem bufIdx_lt (b : Buf) : bufIdx b < 2 := by cases b <;> decide
theorem b2n_lt (b : Bool) : b2n b < 2 := by cases b <;> decide

theorem pageBit_mptReg {i : Nat} (_h : True) : pageBit (mptReg i) = 41 :=
  pageBit_binnacle (k := 5) (by simp only [mptReg, mptBase]; omega) (by simp only [mptReg, mptBase]; omega) (by decide)
theorem pageBit_pltChan {k o : Nat} (h : o < 32) : pageBit (pltChan k o) = 34 :=
  pageBit_compute (k := 12) (by simp only [pltChan, pltBase]; omega) (by simp only [pltChan, pltBase]; omega) (by decide)

end Sys2Proof.Machine
end

