-- ==== Sys2Proof/Laws/DoesSignals.lean ====
section
/-!
SUPPORT. What each operation of Sys2Proof/Machine/Signals.lean can do (see Sys2Proof/Laws/Does.lean).
-/
namespace Sys2Proof.Machine
set_option linter.all false
set_option linter.tactic.unusedName false
theorem State.fire_does (s : State) (code : Nat) : Does 0x40000 s (State.fire s code) := by
  unfold State.fire
  repeat' first
    | with_reducible assumption
    | with_reducible exact Does.refl _ _
    | with_reducible rfl
    | decide
    | (extract_lets +onlyGivenNames u; (with_reducible refine Does.cutAt u ?_ (fun _ => ?_); revert u; with_reducible refine Does.here ?_; rotate_left); revert u; intro _ _; rotate_right)
    | (extract_lets +onlyGivenNames u; clear_value u; revert u; intro _)
    | with_reducible apply Does.ite
    | split
    | with_reducible apply Does.andThen Does.upd_pins

theorem State.toBridge_does (s : State) (code : Nat) : Does 0x40000 s (State.toBridge s code) := by
  unfold State.toBridge
  repeat' first
    | with_reducible assumption
    | with_reducible exact Does.refl _ _
    | with_reducible rfl
    | decide
    | (extract_lets +onlyGivenNames u; (with_reducible refine Does.cutAt u ?_ (fun _ => ?_); revert u; with_reducible refine Does.here ?_; rotate_left); revert u; intro _ _; rotate_right)
    | (extract_lets +onlyGivenNames u; clear_value u; revert u; intro _)
    | split
    | with_reducible apply Does.andThen Does.upd_pins

theorem State.raiseLine_does (s : State) (n : CoreN) (l : Nat) : Does 0x4000 s (State.raiseLine s n l) := by
  unfold State.raiseLine
  repeat' first
    | with_reducible assumption
    | with_reducible exact Does.refl _ _
    | with_reducible rfl
    | decide
    | (extract_lets +onlyGivenNames u; (with_reducible refine Does.cutAt u ?_ (fun _ => ?_); revert u; with_reducible refine Does.here ?_; rotate_left); revert u; intro _ _; rotate_right)
    | (extract_lets +onlyGivenNames u; clear_value u; revert u; intro _)
    | with_reducible apply Does.andThen Does.setCore
    | split

theorem State.tellNow_does (s : State) (now : Nat) : Does 0x2 s (State.tellNow s now) := by
  unfold State.tellNow
  repeat' first
    | with_reducible assumption
    | with_reducible exact Does.refl _ _
    | with_reducible rfl
    | decide
    | (extract_lets +onlyGivenNames u; (with_reducible refine Does.cutAt u ?_ (fun _ => ?_); revert u; with_reducible refine Does.here ?_; rotate_left); revert u; intro _ _; rotate_right)
    | (extract_lets +onlyGivenNames u; clear_value u; revert u; intro _)
    | split
    | with_reducible apply Does.andThen Does.upd_per

theorem State.did_does (s : State) (ks : List Nat) : Does 0x40000 s (State.did s ks) := by
  unfold State.did
  repeat' first
    | with_reducible assumption
    | with_reducible exact Does.refl _ _
    | with_reducible rfl
    | decide
    | (extract_lets +onlyGivenNames u; (with_reducible refine Does.cutAt u ?_ (fun _ => ?_); revert u; with_reducible refine Does.here ?_; rotate_left); revert u; intro _ _; rotate_right)
    | (extract_lets +onlyGivenNames u; clear_value u; revert u; intro _)
    | with_reducible apply Does.ite
    | split
    | with_reducible apply Does.andThen Does.upd_pins

theorem State.capTrig_does (s : State) (src : Nat) : Does 0x8040200 s (State.capTrig s src) := by
  unfold State.capTrig
  repeat' first
    | with_reducible assumption
    | with_reducible exact Does.refl _ _
    | with_reducible rfl
    | decide
    | (extract_lets +onlyGivenNames u; (with_reducible refine Does.cutAt u ?_ (fun _ => ?_); revert u; with_reducible refine Does.here ?_; rotate_left); revert u; intro _ _; rotate_right)
    | (extract_lets +onlyGivenNames u; clear_value u; revert u; intro _)
    | with_reducible apply Does.ite
    | with_reducible apply Does.andThen (State.fire_does _ _)
    | with_reducible apply Does.setBit
    | split
    | with_reducible apply Does.andThen Does.upd_cap

theorem State.evLog_does (s : State) (src : Nat) (bitNo : Nat) (param : Nat) : Does 0x4000000001 s (State.evLog s src bitNo param) := by
  unfold State.evLog
  repeat' first
    | with_reducible assumption
    | with_reducible exact Does.refl _ _
    | with_reducible rfl
    | decide
    | (extract_lets +onlyGivenNames u; (with_reducible refine Does.cutAt u ?_ (fun _ => ?_); revert u; with_reducible refine Does.here ?_; rotate_left); revert u; intro _ _; rotate_right)
    | (extract_lets +onlyGivenNames u; clear_value u; revert u; intro _)
    | with_reducible apply Does.ite
    | with_reducible apply Does.andThen Does.setBytes
    | with_reducible apply Does.setFld
    | split

theorem State.recWrite_does (s : State) (r : Nat) (ws : List Nat) : Does 0x1 s (State.recWrite s r ws) := by
  unfold State.recWrite
  repeat' first
    | with_reducible assumption
    | with_reducible exact Does.refl _ _
    | with_reducible rfl
    | decide
    | (extract_lets +onlyGivenNames u; (with_reducible refine Does.cutAt u ?_ (fun _ => ?_); revert u; with_reducible refine Does.here ?_; rotate_left); revert u; intro _ _; rotate_right)
    | (extract_lets +onlyGivenNames u; clear_value u; revert u; intro _)
    | with_reducible apply Does.andThen Does.setBytes
    | split

theorem State.saveProg_does (s : State) : Does 0x1 s (State.saveProg s) := by
  unfold State.saveProg
  repeat' first
    | with_reducible assumption
    | with_reducible exact Does.refl _ _
    | with_reducible rfl
    | decide
    | (extract_lets +onlyGivenNames u; (with_reducible refine Does.cutAt u ?_ (fun _ => ?_); revert u; with_reducible refine Does.here ?_; rotate_left); revert u; intro _ _; rotate_right)
    | (extract_lets +onlyGivenNames u; clear_value u; revert u; intro _)
    | with_reducible apply Does.ite
    | with_reducible apply Does.andThen (State.recWrite_does _ _ _)
    | split

theorem State.setGcnt_does (s : State) (c : ChanN) (v : Nat) : Does 0x1000000001 s (State.setGcnt s c v) := by
  unfold State.setGcnt
  repeat' first
    | with_reducible assumption
    | with_reducible exact Does.refl _ _
    | with_reducible rfl
    | decide
    | (extract_lets +onlyGivenNames u; (with_reducible refine Does.cutAt u ?_ (fun _ => ?_); revert u; with_reducible refine Does.here ?_; rotate_left); revert u; intro _ _; rotate_right)
    | (extract_lets +onlyGivenNames u; clear_value u; revert u; intro _)
    | with_reducible apply Does.andThen (State.saveProg_does _)
    | with_reducible apply Does.setFld
    | split

theorem State.setPortState_does (s : State) (p : ChPort) (v : Nat) : Does 0x20000000 s (State.setPortState s p v) := by
  unfold State.setPortState
  repeat' first
    | with_reducible assumption
    | with_reducible exact Does.refl _ _
    | with_reducible rfl
    | decide
    | (extract_lets +onlyGivenNames u; (with_reducible refine Does.cutAt u ?_ (fun _ => ?_); revert u; with_reducible refine Does.here ?_; rotate_left); revert u; intro _ _; rotate_right)
    | (extract_lets +onlyGivenNames u; clear_value u; revert u; intro _)
    | with_reducible apply Does.setFld
    | split

theorem State.emit_does (s : State) (p : ChPort) (pilot : Bool) (f : CFrame) : Does 0x1000 s (State.emit s p pilot f) := by
  unfold State.emit
  repeat' first
    | with_reducible assumption
    | with_reducible exact Does.refl _ _
    | with_reducible rfl
    | decide
    | (extract_lets +onlyGivenNames u; (with_reducible refine Does.cutAt u ?_ (fun _ => ?_); revert u; with_reducible refine Does.here ?_; rotate_left); revert u; intro _ _; rotate_right)
    | (extract_lets +onlyGivenNames u; clear_value u; revert u; intro _)
    | with_reducible apply Does.ite
    | split
    | with_reducible apply Does.andThen Does.upd_chain

theorem State.route_does (s : State) (p : ChPort) (pilot : Bool) (f : CFrame) : Does 0x1000 s (State.route s p pilot f) := by
  unfold State.route
  repeat' first
    | with_reducible assumption
    | with_reducible exact Does.refl _ _
    | with_reducible rfl
    | decide
    | (extract_lets +onlyGivenNames u; (with_reducible refine Does.cutAt u ?_ (fun _ => ?_); revert u; with_reducible refine Does.here ?_; rotate_left); revert u; intro _ _; rotate_right)
    | (extract_lets +onlyGivenNames u; clear_value u; revert u; intro _)
    | with_reducible apply Does.ite
    | with_reducible apply Does.andThen (State.emit_does _ _ _ _)
    | split

theorem State.chainSend_does (s : State) (pilot : Bool) (typ : Nat) (dst : Nat) (tag : Nat) (pay : List Byte) : Does 0x1000 s (State.chainSend s pilot typ dst tag pay) := by
  unfold State.chainSend
  repeat' first
    | with_reducible assumption
    | with_reducible exact Does.refl _ _
    | with_reducible rfl
    | decide
    | (extract_lets +onlyGivenNames u; (with_reducible refine Does.cutAt u ?_ (fun _ => ?_); revert u; with_reducible refine Does.here ?_; rotate_left); revert u; intro _ _; rotate_right)
    | (extract_lets +onlyGivenNames u; clear_value u; revert u; intro _)
    | with_reducible apply Does.andThen (State.route_does _ _ _ _)
    | split

theorem State.alertOn_does (s : State) (p : ChPort) (code : Nat) (param : List Byte) : Does 0x1000 s (State.alertOn s p code param) := by
  unfold State.alertOn
  repeat' first
    | with_reducible assumption
    | with_reducible exact Does.refl _ _
    | with_reducible rfl
    | decide
    | (extract_lets +onlyGivenNames u; (with_reducible refine Does.cutAt u ?_ (fun _ => ?_); revert u; with_reducible refine Does.here ?_; rotate_left); revert u; intro _ _; rotate_right)
    | (extract_lets +onlyGivenNames u; clear_value u; revert u; intro _)
    | with_reducible apply Does.andThen (State.route_does _ _ _ _)
    | split

theorem State.alert_does (s : State) (code : Nat) : Does 0x201000 s (State.alert s code) := by
  unfold State.alert
  repeat' first
    | with_reducible assumption
    | with_reducible exact Does.refl _ _
    | with_reducible rfl
    | decide
    | (extract_lets +onlyGivenNames u; (with_reducible refine Does.cutAt u ?_ (fun _ => ?_); revert u; with_reducible refine Does.here ?_; rotate_left); revert u; intro _ _; rotate_right)
    | (extract_lets +onlyGivenNames u; clear_value u; revert u; intro _)
    | with_reducible apply Does.iteSnd
    | with_reducible apply Does.iteFst
    | with_reducible apply Does.andThen Does.freeWord
    | with_reducible apply Does.andThen (State.alertOn_does _ _ _ _)
    | (split <;> (rename_i h; refine Does.cutSnd h ?_ (fun _ => ?_) <;> clear h))
    | (split <;> (rename_i h; refine Does.cutFst h ?_ (fun _ => ?_) <;> clear h))
    | split

theorem State.peerSend_does (s : State) (pilot : Bool) (typ : Nat) (pay : List Byte) : Does 0x1000 s (State.peerSend s pilot typ pay) := by
  unfold State.peerSend
  repeat' first
    | with_reducible assumption
    | with_reducible exact Does.refl _ _
    | with_reducible rfl
    | decide
    | (extract_lets +onlyGivenNames u; (with_reducible refine Does.cutAt u ?_ (fun _ => ?_); revert u; with_reducible refine Does.here ?_; rotate_left); revert u; intro _ _; rotate_right)
    | (extract_lets +onlyGivenNames u; clear_value u; revert u; intro _)
    | with_reducible apply Does.andThen (State.route_does _ _ _ _)
    | split

theorem State.notice_does (s : State) (body : List Byte) : Does 0x100000 s (State.notice s body) := by
  unfold State.notice
  repeat' first
    | with_reducible assumption
    | with_reducible exact Does.refl _ _
    | with_reducible rfl
    | decide
    | (extract_lets +onlyGivenNames u; (with_reducible refine Does.cutAt u ?_ (fun _ => ?_); revert u; with_reducible refine Does.here ?_; rotate_left); revert u; intro _ _; rotate_right)
    | (extract_lets +onlyGivenNames u; clear_value u; revert u; intro _)
    | split
    | with_reducible apply Does.andThen Does.upd_notices

theorem State.stopWaiting_does (s : State) : Does 0xc0 s (State.stopWaiting s) := by
  unfold State.stopWaiting
  repeat' first
    | with_reducible assumption
    | with_reducible exact Does.refl _ _
    | with_reducible rfl
    | decide
    | (extract_lets +onlyGivenNames u; (with_reducible refine Does.cutAt u ?_ (fun _ => ?_); revert u; with_reducible refine Does.here ?_; rotate_left); revert u; intro _ _; rotate_right)
    | (extract_lets +onlyGivenNames u; clear_value u; revert u; intro _)
    | with_reducible apply Does.ite
    | split
    | with_reducible apply Does.andThen Does.upd_cell_lanes

theorem State.enterSafe_does (s : State) : Does 0x8008241ac0 s (State.enterSafe s) := by
  unfold State.enterSafe
  repeat' first
    | with_reducible assumption
    | with_reducible exact Does.refl _ _
    | with_reducible rfl
    | decide
    | (extract_lets +onlyGivenNames u; (with_reducible refine Does.cutAt u ?_ (fun _ => ?_); revert u; with_reducible refine Does.here ?_; rotate_left); revert u; intro _ _; rotate_right)
    | (extract_lets +onlyGivenNames u; clear_value u; revert u; intro _)
    | with_reducible apply Does.ite
    | with_reducible apply Does.andThen (State.alert_does _ _)
    | with_reducible apply Does.andThen (State.capTrig_does _ _)
    | with_reducible apply Does.andThen (State.toBridge_does _ _)
    | with_reducible apply Does.andThen (State.stopWaiting_does _)
    | with_reducible apply Does.setBit
    | split
    | with_reducible apply Does.andThen Does.upd_cell_saf

theorem State.raiseCause_does (s : State) (cause : Nat) (slot : Nat) (unit : Nat) : Does 0xc00c241ac1 s (State.raiseCause s cause slot unit) := by
  unfold State.raiseCause
  repeat' first
    | with_reducible assumption
    | with_reducible exact Does.refl _ _
    | with_reducible rfl
    | decide
    | (extract_lets +onlyGivenNames u; (with_reducible refine Does.cutAt u ?_ (fun _ => ?_); revert u; with_reducible refine Does.here ?_; rotate_left); revert u; intro _ _; rotate_right)
    | (extract_lets +onlyGivenNames u; clear_value u; revert u; intro _)
    | with_reducible apply Does.ite
    | with_reducible apply Does.andThen (State.evLog_does _ _ _ _)
    | with_reducible apply Does.andThen (State.peerSend_does _ _ _ _)
    | with_reducible apply Does.andThen (State.stopWaiting_does _)
    | with_reducible apply Does.andThen (State.enterSafe_does _)
    | with_reducible apply Does.wr
    | with_reducible apply Does.setBit
    | with_reducible apply Does.orReg
    | split
    | with_reducible apply Does.andThen Does.upd_cell_saf
    | with_reducible apply Does.andThen Does.upd_saf

theorem State.holdCause_does (s : State) (cause : Nat) (slot : Nat) (unit : Nat) : Does 0xc00c241ac1 s (State.holdCause s cause slot unit) := by
  unfold State.holdCause
  repeat' first
    | with_reducible assumption
    | with_reducible exact Does.refl _ _
    | with_reducible rfl
    | decide
    | (extract_lets +onlyGivenNames u; (with_reducible refine Does.cutAt u ?_ (fun _ => ?_); revert u; with_reducible refine Does.here ?_; rotate_left); revert u; intro _ _; rotate_right)
    | (extract_lets +onlyGivenNames u; clear_value u; revert u; intro _)
    | with_reducible apply Does.andThen (State.raiseCause_does _ _ _ _)
    | split
    | with_reducible apply Does.andThen Does.upd_saf

theorem State.endCause_does (s : State) (cause : Nat) : Does 0x800 s (State.endCause s cause) := by
  unfold State.endCause
  repeat' first
    | with_reducible assumption
    | with_reducible exact Does.refl _ _
    | with_reducible rfl
    | decide
    | (extract_lets +onlyGivenNames u; (with_reducible refine Does.cutAt u ?_ (fun _ => ?_); revert u; with_reducible refine Does.here ?_; rotate_left); revert u; intro _ _; rotate_right)
    | (extract_lets +onlyGivenNames u; clear_value u; revert u; intro _)
    | split
    | with_reducible apply Does.andThen Does.upd_saf

theorem State.islandFault_does (s : State) : Does 0xc00c241ac1 s (State.islandFault s) := by
  unfold State.islandFault
  repeat' first
    | with_reducible assumption
    | with_reducible exact Does.refl _ _
    | with_reducible rfl
    | decide
    | (extract_lets +onlyGivenNames u; (with_reducible refine Does.cutAt u ?_ (fun _ => ?_); revert u; with_reducible refine Does.here ?_; rotate_left); revert u; intro _ _; rotate_right)
    | (extract_lets +onlyGivenNames u; clear_value u; revert u; intro _)
    | with_reducible apply Does.andThen (State.holdCause_does _ _ _ _)
    | split
    | with_reducible apply Does.andThen Does.upd_saf

theorem State.miss_does (s : State) (p : Slot) (reason : Nat) : Does 0x8840204 s (State.miss s p reason) := by
  unfold State.miss
  repeat' first
    | with_reducible assumption
    | with_reducible exact Does.refl _ _
    | with_reducible rfl
    | decide
    | (extract_lets +onlyGivenNames u; (with_reducible refine Does.cutAt u ?_ (fun _ => ?_); revert u; with_reducible refine Does.here ?_; rotate_left); revert u; intro _ _; rotate_right)
    | (extract_lets +onlyGivenNames u; clear_value u; revert u; intro _)
    | with_reducible apply Does.ite
    | with_reducible apply Does.andThen Does.setProb
    | with_reducible apply Does.andThen (State.capTrig_does _ _)
    | with_reducible apply Does.andThen (State.fire_does _ _)
    | with_reducible apply Does.setBit
    | with_reducible apply Does.count
    | split

end Sys2Proof.Machine
end

