-- ==== Sys2Proof/Laws/DoesFlash.lean ====
section
/-!
SUPPORT. What each operation of Sys2Proof/Machine/Flash.lean can do (see Sys2Proof/Laws/Does.lean).
-/
namespace Sys2Proof.Machine
set_option linter.all false
set_option linter.tactic.unusedName false
theorem State.setFlash_does (s : State) (f : Flash) : Does 0x10000 s (State.setFlash s f) := by
  unfold State.setFlash
  repeat' first
    | with_reducible assumption
    | with_reducible exact Does.refl _ _
    | with_reducible rfl
    | decide
    | (extract_lets +onlyGivenNames u; (with_reducible refine Does.cutAt u ?_ (fun _ => ?_); revert u; with_reducible refine Does.here ?_; rotate_left); revert u; intro _ _; rotate_right)
    | (extract_lets +onlyGivenNames u; clear_value u; revert u; intro _)
    | split
    | with_reducible apply Does.andThen Does.upd_flash

theorem State.flsFlag_does (s : State) (i : Nat) (param : Nat) : Does 0x6000000001 s (State.flsFlag s i param) := by
  unfold State.flsFlag
  repeat' first
    | with_reducible assumption
    | with_reducible exact Does.refl _ _
    | with_reducible rfl
    | decide
    | (extract_lets +onlyGivenNames u; (with_reducible refine Does.cutAt u ?_ (fun _ => ?_); revert u; with_reducible refine Does.here ?_; rotate_left); revert u; intro _ _; rotate_right)
    | (extract_lets +onlyGivenNames u; clear_value u; revert u; intro _)
    | with_reducible apply Does.andThen (State.evLog_does _ _ _ _)
    | with_reducible apply Does.setBit
    | split

theorem State.setIntent_does (s : State) (w : Nat) : Does 0x1 s (State.setIntent s w) := by
  unfold State.setIntent
  repeat' first
    | with_reducible assumption
    | with_reducible exact Does.refl _ _
    | with_reducible rfl
    | decide
    | (extract_lets +onlyGivenNames u; (with_reducible refine Does.cutAt u ?_ (fun _ => ?_); revert u; with_reducible refine Does.here ?_; rotate_left); revert u; intro _ _; rotate_right)
    | (extract_lets +onlyGivenNames u; clear_value u; revert u; intro _)
    | with_reducible apply Does.andThen (State.recWrite_does _ _ _)
    | split

theorem State.setDirty_does (s : State) (n : Nat) (b : Bool) : Does 0x2000000001 s (State.setDirty s n b) := by
  unfold State.setDirty
  repeat' first
    | with_reducible assumption
    | with_reducible exact Does.refl _ _
    | with_reducible rfl
    | decide
    | (extract_lets +onlyGivenNames u; (with_reducible refine Does.cutAt u ?_ (fun _ => ?_); revert u; with_reducible refine Does.here ?_; rotate_left); revert u; intro _ _; rotate_right)
    | (extract_lets +onlyGivenNames u; clear_value u; revert u; intro _)
    | with_reducible apply Does.andThen (State.recWrite_does _ _ _)
    | with_reducible apply Does.setBit
    | (rw [pageBit_flsDirty trivial]; decide)
    | split

theorem State.flashBusy_does (s : State) (susp : Bool) (wsusp : Bool) : Does 0x2000000000 s (State.flashBusy s susp wsusp) := by
  unfold State.flashBusy
  repeat' first
    | with_reducible assumption
    | with_reducible exact Does.refl _ _
    | with_reducible rfl
    | decide
    | (extract_lets +onlyGivenNames u; (with_reducible refine Does.cutAt u ?_ (fun _ => ?_); revert u; with_reducible refine Does.here ?_; rotate_left); revert u; intro _ _; rotate_right)
    | (extract_lets +onlyGivenNames u; clear_value u; revert u; intro _)
    | with_reducible apply Does.setBit
    | split

theorem State.flashBegin_does (s : State) (op : Nat) (sector : Nat) (line : Nat) (data : List Byte) : Does 0x2000010001 s (State.flashBegin s op sector line data) := by
  unfold State.flashBegin
  repeat' first
    | with_reducible assumption
    | with_reducible exact Does.refl _ _
    | with_reducible rfl
    | decide
    | (extract_lets +onlyGivenNames u; (with_reducible refine Does.cutAt u ?_ (fun _ => ?_); revert u; with_reducible refine Does.here ?_; rotate_left); revert u; intro _ _; rotate_right)
    | (extract_lets +onlyGivenNames u; clear_value u; revert u; intro _)
    | with_reducible apply Does.ite
    | with_reducible apply Does.andThen (State.setIntent_does _ _)
    | with_reducible apply Does.andThen (State.setFlash_does _ _)
    | with_reducible apply Does.andThen (State.flashBusy_does _ _ _)
    | split

theorem State.flashCmd_does (s : State) (op : Nat) (r : Requester) : Does 0x6000010001 s (State.flashCmd s op r) := by
  unfold State.flashCmd
  repeat' first
    | with_reducible assumption
    | with_reducible exact Does.refl _ _
    | with_reducible rfl
    | decide
    | (extract_lets +onlyGivenNames u; (with_reducible refine Does.cutAt u ?_ (fun _ => ?_); revert u; with_reducible refine Does.here ?_; rotate_left); revert u; intro _ _; rotate_right)
    | (extract_lets +onlyGivenNames u; clear_value u; revert u; intro _)
    | with_reducible apply Does.andThen (State.flsFlag_does _ _ _)
    | with_reducible apply Does.andThen (State.flashBegin_does _ _ _ _ _)
    | split

theorem execProgram_does (r : Requester) (s : State) : DoesOut 0x6000010001 s (execProgram r s) := by
  unfold execProgram
  repeat' first
    | with_reducible assumption
    | with_reducible exact Does.refl _ _
    | with_reducible rfl
    | decide
    | (extract_lets +onlyGivenNames u; (with_reducible refine DoesOut.cutAt u ?_ (fun _ => ?_); revert u; with_reducible refine Does.here ?_; rotate_left); revert u; intro _ _; rotate_right)
    | (extract_lets +onlyGivenNames u; (with_reducible refine Does.cutAt u ?_ (fun _ => ?_); revert u; with_reducible refine Does.here ?_; rotate_left); revert u; intro _ _; rotate_right)
    | (extract_lets +onlyGivenNames u; clear_value u; revert u; intro _)
    | with_reducible apply DoesOut.next
    | with_reducible apply DoesOut.ite
    | with_reducible apply Does.ite
    | with_reducible apply Does.andThen (State.flashCmd_does _ _ _)
    | split

theorem execErase_does (r : Requester) (s : State) : DoesOut 0x6000010001 s (execErase r s) := by
  unfold execErase
  repeat' first
    | with_reducible assumption
    | with_reducible exact Does.refl _ _
    | with_reducible rfl
    | decide
    | (extract_lets +onlyGivenNames u; (with_reducible refine DoesOut.cutAt u ?_ (fun _ => ?_); revert u; with_reducible refine Does.here ?_; rotate_left); revert u; intro _ _; rotate_right)
    | (extract_lets +onlyGivenNames u; (with_reducible refine Does.cutAt u ?_ (fun _ => ?_); revert u; with_reducible refine Does.here ?_; rotate_left); revert u; intro _ _; rotate_right)
    | (extract_lets +onlyGivenNames u; clear_value u; revert u; intro _)
    | with_reducible apply DoesOut.next
    | with_reducible apply DoesOut.ite
    | with_reducible apply Does.ite
    | with_reducible apply Does.andThen (State.flashCmd_does _ _ _)
    | split

theorem execMcheck_does (s : State) : DoesOut 0x6000010001 s (execMcheck s) := by
  unfold execMcheck
  repeat' first
    | with_reducible assumption
    | with_reducible exact Does.refl _ _
    | with_reducible rfl
    | decide
    | (extract_lets +onlyGivenNames u; (with_reducible refine DoesOut.cutAt u ?_ (fun _ => ?_); revert u; with_reducible refine Does.here ?_; rotate_left); revert u; intro _ _; rotate_right)
    | (extract_lets +onlyGivenNames u; (with_reducible refine Does.cutAt u ?_ (fun _ => ?_); revert u; with_reducible refine Does.here ?_; rotate_left); revert u; intro _ _; rotate_right)
    | (extract_lets +onlyGivenNames u; clear_value u; revert u; intro _)
    | with_reducible apply DoesOut.next
    | with_reducible apply DoesOut.ite
    | with_reducible apply Does.ite
    | with_reducible apply Does.andThen (State.flashCmd_does _ _ _)
    | split

theorem execRefresh_does (r : Requester) (s : State) : DoesOut 0x6000010001 s (execRefresh r s) := by
  unfold execRefresh
  repeat' first
    | with_reducible assumption
    | with_reducible exact Does.refl _ _
    | with_reducible rfl
    | decide
    | (extract_lets +onlyGivenNames u; (with_reducible refine DoesOut.cutAt u ?_ (fun _ => ?_); revert u; with_reducible refine Does.here ?_; rotate_left); revert u; intro _ _; rotate_right)
    | (extract_lets +onlyGivenNames u; (with_reducible refine Does.cutAt u ?_ (fun _ => ?_); revert u; with_reducible refine Does.here ?_; rotate_left); revert u; intro _ _; rotate_right)
    | (extract_lets +onlyGivenNames u; clear_value u; revert u; intro _)
    | with_reducible apply DoesOut.next
    | with_reducible apply DoesOut.ite
    | with_reducible apply Does.ite
    | with_reducible apply Does.andThen (State.flashCmd_does _ _ _)
    | split

theorem State.flashSuspend_does (s : State) : Does 0x6000000001 s (State.flashSuspend s) := by
  unfold State.flashSuspend
  repeat' first
    | with_reducible assumption
    | with_reducible exact Does.refl _ _
    | with_reducible rfl
    | decide
    | (extract_lets +onlyGivenNames u; (with_reducible refine Does.cutAt u ?_ (fun _ => ?_); revert u; with_reducible refine Does.here ?_; rotate_left); revert u; intro _ _; rotate_right)
    | (extract_lets +onlyGivenNames u; clear_value u; revert u; intro _)
    | with_reducible apply Does.ite
    | with_reducible apply Does.andThen (State.flashBusy_does _ _ _)
    | with_reducible apply Does.andThen (State.flsFlag_does _ _ _)
    | split

theorem execSuspend_does (s : State) : DoesOut 0x6000000001 s (execSuspend s) := by
  unfold execSuspend
  repeat' first
    | with_reducible assumption
    | with_reducible exact Does.refl _ _
    | with_reducible rfl
    | decide
    | (extract_lets +onlyGivenNames u; (with_reducible refine DoesOut.cutAt u ?_ (fun _ => ?_); revert u; with_reducible refine Does.here ?_; rotate_left); revert u; intro _ _; rotate_right)
    | (extract_lets +onlyGivenNames u; (with_reducible refine Does.cutAt u ?_ (fun _ => ?_); revert u; with_reducible refine Does.here ?_; rotate_left); revert u; intro _ _; rotate_right)
    | (extract_lets +onlyGivenNames u; clear_value u; revert u; intro _)
    | with_reducible apply DoesOut.next
    | with_reducible apply DoesOut.ite
    | with_reducible apply Does.ite
    | with_reducible apply Does.andThen (State.flashSuspend_does _)
    | split

theorem State.flashResume_does (s : State) : Does 0x6000000001 s (State.flashResume s) := by
  unfold State.flashResume
  repeat' first
    | with_reducible assumption
    | with_reducible exact Does.refl _ _
    | with_reducible rfl
    | decide
    | (extract_lets +onlyGivenNames u; (with_reducible refine Does.cutAt u ?_ (fun _ => ?_); revert u; with_reducible refine Does.here ?_; rotate_left); revert u; intro _ _; rotate_right)
    | (extract_lets +onlyGivenNames u; clear_value u; revert u; intro _)
    | with_reducible apply Does.ite
    | with_reducible apply Does.andThen (State.flashBusy_does _ _ _)
    | with_reducible apply Does.andThen (State.flsFlag_does _ _ _)
    | split

theorem execResume_does (s : State) : DoesOut 0x6000000001 s (execResume s) := by
  unfold execResume
  repeat' first
    | with_reducible assumption
    | with_reducible exact Does.refl _ _
    | with_reducible rfl
    | decide
    | (extract_lets +onlyGivenNames u; (with_reducible refine DoesOut.cutAt u ?_ (fun _ => ?_); revert u; with_reducible refine Does.here ?_; rotate_left); revert u; intro _ _; rotate_right)
    | (extract_lets +onlyGivenNames u; (with_reducible refine Does.cutAt u ?_ (fun _ => ?_); revert u; with_reducible refine Does.here ?_; rotate_left); revert u; intro _ _; rotate_right)
    | (extract_lets +onlyGivenNames u; clear_value u; revert u; intro _)
    | with_reducible apply DoesOut.next
    | with_reducible apply DoesOut.ite
    | with_reducible apply Does.ite
    | with_reducible apply Does.andThen (State.flashResume_does _)
    | split

theorem State.eraseSector_does (s : State) (n : Nat) : Does 0x80000000001 s (State.eraseSector s n) := by
  unfold State.eraseSector
  repeat' first
    | with_reducible assumption
    | with_reducible exact Does.refl _ _
    | with_reducible rfl
    | decide
    | (extract_lets +onlyGivenNames u; (with_reducible refine Does.cutAt u ?_ (fun _ => ?_); revert u; with_reducible refine Does.here ?_; rotate_left); revert u; intro _ _; rotate_right)
    | (extract_lets +onlyGivenNames u; clear_value u; revert u; intro _)
    | with_reducible apply Does.andThen Does.clearMem
    | with_reducible apply Does.andThen Does.setWord
    | split

theorem State.flashOver_does (s : State) : Does 0x2000010000 s (State.flashOver s) := by
  unfold State.flashOver
  repeat' first
    | with_reducible assumption
    | with_reducible exact Does.refl _ _
    | with_reducible rfl
    | decide
    | (extract_lets +onlyGivenNames u; (with_reducible refine Does.cutAt u ?_ (fun _ => ?_); revert u; with_reducible refine Does.here ?_; rotate_left); revert u; intro _ _; rotate_right)
    | (extract_lets +onlyGivenNames u; clear_value u; revert u; intro _)
    | with_reducible apply Does.andThen (State.flashBusy_does _ _ _)
    | with_reducible apply Does.andThen (State.setFlash_does _ _)
    | with_reducible apply Does.setBit
    | split

theorem State.flashGoOn_does (s : State) (f : FOp) : Does 0x10000 s (State.flashGoOn s f) := by
  unfold State.flashGoOn
  repeat' first
    | with_reducible assumption
    | with_reducible exact Does.refl _ _
    | with_reducible rfl
    | decide
    | (extract_lets +onlyGivenNames u; (with_reducible refine Does.cutAt u ?_ (fun _ => ?_); revert u; with_reducible refine Does.here ?_; rotate_left); revert u; intro _ _; rotate_right)
    | (extract_lets +onlyGivenNames u; clear_value u; revert u; intro _)
    | with_reducible apply Does.andThen (State.setFlash_does _ _)
    | split

theorem State.refreshStep_does (s : State) (f : FOp) (lines : Nat) : Does 0x82000010001 s (State.refreshStep s f lines) := by
  unfold State.refreshStep
  repeat' first
    | with_reducible assumption
    | with_reducible exact Does.refl _ _
    | with_reducible rfl
    | decide
    | (extract_lets +onlyGivenNames u; (with_reducible refine Does.cutAt u ?_ (fun _ => ?_); revert u; with_reducible refine Does.here ?_; rotate_left); revert u; intro _ _; rotate_right)
    | (extract_lets +onlyGivenNames u; clear_value u; revert u; intro _)
    | with_reducible apply Does.ite
    | with_reducible apply Does.andThen Does.setBytes
    | with_reducible apply Does.andThen (State.flashBusy_does _ _ _)
    | with_reducible apply Does.andThen (State.eraseSector_does _ _)
    | with_reducible apply Does.andThen Does.store
    | with_reducible apply Does.andThen (State.flashGoOn_does _ _)
    | with_reducible apply Does.andThen (State.flashOver_does _)
    | with_reducible apply Does.andThen (State.setIntent_does _ _)
    | with_reducible apply Does.wr
    | split

theorem State.flashFinish_does (s : State) (f : FOp) (lines : Nat) : Does 0x86000010001 s (State.flashFinish s f lines) := by
  unfold State.flashFinish
  repeat' first
    | with_reducible assumption
    | with_reducible exact Does.refl _ _
    | with_reducible rfl
    | decide
    | (extract_lets +onlyGivenNames u; (with_reducible refine Does.cutAt u ?_ (fun _ => ?_); revert u; with_reducible refine Does.here ?_; rotate_left); revert u; intro _ _; rotate_right)
    | (extract_lets +onlyGivenNames u; clear_value u; revert u; intro _)
    | with_reducible apply Does.ite
    | with_reducible apply Does.andThen Does.store
    | with_reducible apply Does.andThen (State.setIntent_does _ _)
    | with_reducible apply Does.andThen (State.setDirty_does _ _ _)
    | with_reducible apply Does.andThen (State.eraseSector_does _ _)
    | with_reducible apply Does.andThen (State.flashOver_does _)
    | with_reducible apply Does.andThen (State.flsFlag_does _ _ _)
    | with_reducible apply Does.andThen (State.refreshStep_does _ _ _)
    | with_reducible apply Does.wr
    | split

theorem execFlashOperationDone_does (lines : Nat) (s : State) : DoesOut 0x86000010001 s (execFlashOperationDone lines s) := by
  unfold execFlashOperationDone
  repeat' first
    | with_reducible assumption
    | with_reducible exact Does.refl _ _
    | with_reducible rfl
    | decide
    | (extract_lets +onlyGivenNames u; (with_reducible refine DoesOut.cutAt u ?_ (fun _ => ?_); revert u; with_reducible refine Does.here ?_; rotate_left); revert u; intro _ _; rotate_right)
    | (extract_lets +onlyGivenNames u; (with_reducible refine Does.cutAt u ?_ (fun _ => ?_); revert u; with_reducible refine Does.here ?_; rotate_left); revert u; intro _ _; rotate_right)
    | (extract_lets +onlyGivenNames u; clear_value u; revert u; intro _)
    | with_reducible apply DoesOut.next
    | with_reducible apply DoesOut.ite
    | with_reducible apply Does.ite
    | with_reducible apply Does.andThen (State.flashFinish_does _ _ _)
    | split

theorem State.flashWarn_does (s : State) : Does 0x6000010001 s (State.flashWarn s) := by
  unfold State.flashWarn
  repeat' first
    | with_reducible assumption
    | with_reducible exact Does.refl _ _
    | with_reducible rfl
    | decide
    | (extract_lets +onlyGivenNames u; (with_reducible refine Does.cutAt u ?_ (fun _ => ?_); revert u; with_reducible refine Does.here ?_; rotate_left); revert u; intro _ _; rotate_right)
    | (extract_lets +onlyGivenNames u; clear_value u; revert u; intro _)
    | with_reducible apply Does.ite
    | with_reducible apply Does.andThen (State.flsFlag_does _ _ _)
    | with_reducible apply Does.andThen (State.setFlash_does _ _)
    | with_reducible apply Does.andThen (State.flashBusy_does _ _ _)
    | split

theorem execFlashAutoResume_does (s : State) : DoesOut 0x2000010000 s (execFlashAutoResume s) := by
  unfold execFlashAutoResume
  repeat' first
    | with_reducible assumption
    | with_reducible exact Does.refl _ _
    | with_reducible rfl
    | decide
    | (extract_lets +onlyGivenNames u; (with_reducible refine DoesOut.cutAt u ?_ (fun _ => ?_); revert u; with_reducible refine Does.here ?_; rotate_left); revert u; intro _ _; rotate_right)
    | (extract_lets +onlyGivenNames u; (with_reducible refine Does.cutAt u ?_ (fun _ => ?_); revert u; with_reducible refine Does.here ?_; rotate_left); revert u; intro _ _; rotate_right)
    | (extract_lets +onlyGivenNames u; clear_value u; revert u; intro _)
    | with_reducible apply DoesOut.next
    | with_reducible apply DoesOut.ite
    | with_reducible apply Does.ite
    | with_reducible apply Does.andThen (State.setFlash_does _ _)
    | with_reducible apply Does.andThen (State.flashBusy_does _ _ _)
    | split

theorem execWriteProtect_does (hi : Bool) (v : Word) (s : State) : DoesOut 0x2000000000 s (execWriteProtect hi v s) := by
  unfold execWriteProtect
  repeat' first
    | with_reducible assumption
    | with_reducible exact Does.refl _ _
    | with_reducible rfl
    | decide
    | (extract_lets +onlyGivenNames u; (with_reducible refine DoesOut.cutAt u ?_ (fun _ => ?_); revert u; with_reducible refine Does.here ?_; rotate_left); revert u; intro _ _; rotate_right)
    | (extract_lets +onlyGivenNames u; (with_reducible refine Does.cutAt u ?_ (fun _ => ?_); revert u; with_reducible refine Does.here ?_; rotate_left); revert u; intro _ _; rotate_right)
    | (extract_lets +onlyGivenNames u; clear_value u; revert u; intro _)
    | with_reducible apply DoesOut.next
    | with_reducible apply DoesOut.ite
    | with_reducible apply Does.ite
    | with_reducible apply Does.orReg
    | (rw [pageBit_flsWp (by first | omega | decide | exact Nat.lt_of_lt_of_le (portIdx_lt _) (by decide) | exact Nat.lt_of_lt_of_le (bufIdx_lt _) (by decide) | exact Nat.lt_of_lt_of_le (b2n_lt _) (by decide) | exact Nat.lt_of_lt_of_le (Fin.isLt _) (by decide))]; decide)
    | split

theorem State.flashUnder_does (s : State) (f : FOp) (a : Nat) (n : Nat) : Does 0x200001 s (State.flashUnder s f a n).2 := by
  unfold State.flashUnder
  repeat' first
    | with_reducible assumption
    | with_reducible exact Does.refl _ _
    | with_reducible rfl
    | decide
    | (extract_lets +onlyGivenNames u; (with_reducible refine Does.cutAt u ?_ (fun _ => ?_); revert u; with_reducible refine Does.here ?_; rotate_left); revert u; intro _ _; rotate_right)
    | (extract_lets +onlyGivenNames u; clear_value u; revert u; intro _)
    | with_reducible apply Does.ite
    | with_reducible apply Does.iteSnd
    | with_reducible apply Does.iteFst
    | with_reducible apply Does.andThen Does.setBytes
    | with_reducible apply Does.andThen Does.freeWord
    | (split <;> (rename_i h; refine Does.cutSnd h ?_ (fun _ => ?_) <;> clear h))
    | (split <;> (rename_i h; refine Does.cutFst h ?_ (fun _ => ?_) <;> clear h))
    | split

theorem State.flashRead_does (s : State) (a : Nat) (n : Nat) (ecc : Ecc) : Does 0x86000200001 s (State.flashRead s a n ecc).2 := by
  unfold State.flashRead
  repeat' first
    | with_reducible assumption
    | with_reducible exact Does.refl _ _
    | with_reducible rfl
    | decide
    | (extract_lets +onlyGivenNames u; (with_reducible refine Does.cutAt u ?_ (fun _ => ?_); revert u; with_reducible refine Does.here ?_; rotate_left); revert u; intro _ _; rotate_right)
    | (extract_lets +onlyGivenNames u; clear_value u; revert u; intro _)
    | with_reducible apply Does.ite
    | with_reducible apply Does.iteSnd
    | with_reducible apply Does.iteFst
    | with_reducible apply Does.andThen (State.flsFlag_does _ _ _)
    | with_reducible apply Does.andThen Does.setBad
    | with_reducible apply Does.andThen (State.flashUnder_does _ _ _ _)
    | with_reducible apply Does.wr
    | with_reducible apply Does.setBit
    | with_reducible apply Does.count
    | (split <;> (rename_i h; refine Does.cutSnd h ?_ (fun _ => ?_) <;> clear h))
    | (split <;> (rename_i h; refine Does.cutFst h ?_ (fun _ => ?_) <;> clear h))
    | split

theorem State.recallIntent_does (s : State) : Does 0x2000010001 s (State.recallIntent s) := by
  unfold State.recallIntent
  repeat' first
    | with_reducible assumption
    | with_reducible exact Does.refl _ _
    | with_reducible rfl
    | decide
    | (extract_lets +onlyGivenNames u; (with_reducible refine Does.cutAt u ?_ (fun _ => ?_); revert u; with_reducible refine Does.here ?_; rotate_left); revert u; intro _ _; rotate_right)
    | (extract_lets +onlyGivenNames u; clear_value u; revert u; intro _)
    | with_reducible apply Does.ite
    | with_reducible apply Does.andThen (State.setFlash_does _ _)
    | with_reducible apply Does.andThen (State.flashBusy_does _ _ _)
    | with_reducible apply Does.andThen (State.setIntent_does _ _)
    | with_reducible apply Does.andThen (State.setDirty_does _ _ _)
    | with_reducible apply Does.wr
    | (rw [pageBit_flsDirty trivial]; decide)
    | split

theorem State.writeWake_does (s : State) (code : Nat) (from_ : Nat) : Does 0x80000001 s (State.writeWake s code from_) := by
  unfold State.writeWake
  repeat' first
    | with_reducible assumption
    | with_reducible exact Does.refl _ _
    | with_reducible rfl
    | decide
    | (extract_lets +onlyGivenNames u; (with_reducible refine Does.cutAt u ?_ (fun _ => ?_); revert u; with_reducible refine Does.here ?_; rotate_left); revert u; intro _ _; rotate_right)
    | (extract_lets +onlyGivenNames u; clear_value u; revert u; intro _)
    | with_reducible apply Does.andThen (State.recWrite_does _ _ _)
    | with_reducible apply Does.wr
    | split

theorem execRecordStoreRecall_does (s : State) : DoesOut 0x6080010001 s (execRecordStoreRecall s) := by
  unfold execRecordStoreRecall
  repeat' first
    | with_reducible assumption
    | with_reducible exact Does.refl _ _
    | with_reducible rfl
    | decide
    | (extract_lets +onlyGivenNames u; (with_reducible refine DoesOut.cutAt u ?_ (fun _ => ?_); revert u; with_reducible refine Does.here ?_; rotate_left); revert u; intro _ _; rotate_right)
    | (extract_lets +onlyGivenNames u; (with_reducible refine Does.cutAt u ?_ (fun _ => ?_); revert u; with_reducible refine Does.here ?_; rotate_left); revert u; intro _ _; rotate_right)
    | (extract_lets +onlyGivenNames u; clear_value u; revert u; intro _)
    | with_reducible apply DoesOut.next
    | with_reducible apply DoesOut.ite
    | with_reducible apply Does.ite
    | with_reducible apply Does.foldl
    | with_reducible apply Does.foldlFst
    | with_reducible apply Does.foldlSnd
    | with_reducible apply Does.andThen (State.evLog_does _ _ _ _)
    | with_reducible apply Does.andThen (State.recallIntent_does _)
    | with_reducible apply Does.andThen (State.writeWake_does _ _ _)
    | with_reducible apply Does.wr
    | with_reducible apply Does.setBit
    | intro _ _ _
    | split

theorem State.spreadInc_does (s : State) (base : Nat) (n : Nat) : Does 0x1 s (State.spreadInc s base n) := by
  unfold State.spreadInc
  repeat' first
    | with_reducible assumption
    | with_reducible exact Does.refl _ _
    | with_reducible rfl
    | decide
    | (extract_lets +onlyGivenNames u; (with_reducible refine Does.cutAt u ?_ (fun _ => ?_); revert u; with_reducible refine Does.here ?_; rotate_left); revert u; intro _ _; rotate_right)
    | (extract_lets +onlyGivenNames u; clear_value u; revert u; intro _)
    | with_reducible apply Does.ite
    | with_reducible apply Does.andThen Does.setWord
    | split

theorem State.cntErr_does (s : State) : Does 0x4000000001 s (State.cntErr s) := by
  unfold State.cntErr
  repeat' first
    | with_reducible assumption
    | with_reducible exact Does.refl _ _
    | with_reducible rfl
    | decide
    | (extract_lets +onlyGivenNames u; (with_reducible refine Does.cutAt u ?_ (fun _ => ?_); revert u; with_reducible refine Does.here ?_; rotate_left); revert u; intro _ _; rotate_right)
    | (extract_lets +onlyGivenNames u; clear_value u; revert u; intro _)
    | with_reducible apply Does.andThen (State.evLog_does _ _ _ _)
    | with_reducible apply Does.setBit
    | split

theorem State.cntInc_does (s : State) (mask : Nat) : Does 0x4000000001 s (State.cntInc s mask) := by
  unfold State.cntInc
  repeat' first
    | with_reducible assumption
    | with_reducible exact Does.refl _ _
    | with_reducible rfl
    | decide
    | (extract_lets +onlyGivenNames u; (with_reducible refine Does.cutAt u ?_ (fun _ => ?_); revert u; with_reducible refine Does.here ?_; rotate_left); revert u; intro _ _; rotate_right)
    | (extract_lets +onlyGivenNames u; clear_value u; revert u; intro _)
    | with_reducible apply Does.ite
    | with_reducible apply Does.each
    | with_reducible apply Does.andThen (State.spreadInc_does _ _ _)
    | with_reducible apply Does.andThen (State.cntErr_does _)
    | intro _ _ _
    | split

theorem execCounterIncrement_does (mask : Byte) (s : State) : DoesOut 0x4000000001 s (execCounterIncrement mask s) := by
  unfold execCounterIncrement
  repeat' first
    | with_reducible assumption
    | with_reducible exact Does.refl _ _
    | with_reducible rfl
    | decide
    | (extract_lets +onlyGivenNames u; (with_reducible refine DoesOut.cutAt u ?_ (fun _ => ?_); revert u; with_reducible refine Does.here ?_; rotate_left); revert u; intro _ _; rotate_right)
    | (extract_lets +onlyGivenNames u; (with_reducible refine Does.cutAt u ?_ (fun _ => ?_); revert u; with_reducible refine Does.here ?_; rotate_left); revert u; intro _ _; rotate_right)
    | (extract_lets +onlyGivenNames u; clear_value u; revert u; intro _)
    | with_reducible apply DoesOut.next
    | with_reducible apply DoesOut.ite
    | with_reducible apply Does.ite
    | with_reducible apply Does.andThen (State.cntInc_does _ _)
    | split

theorem State.cntConfig_does (s : State) (k : Nat) (v : Nat) : Does 0x4000000001 s (State.cntConfig s k v) := by
  unfold State.cntConfig
  repeat' first
    | with_reducible assumption
    | with_reducible exact Does.refl _ _
    | with_reducible rfl
    | decide
    | (extract_lets +onlyGivenNames u; (with_reducible refine Does.cutAt u ?_ (fun _ => ?_); revert u; with_reducible refine Does.here ?_; rotate_left); revert u; intro _ _; rotate_right)
    | (extract_lets +onlyGivenNames u; clear_value u; revert u; intro _)
    | with_reducible apply Does.ite
    | with_reducible apply Does.andThen (State.cntErr_does _)
    | with_reducible apply Does.wr
    | (rw [pageBit_nvrCntcfg trivial]; decide)
    | split

theorem State.cntLo_does (s : State) (k : Nat) : Does 0x4000000000 s (State.cntLo s k).2 := by
  unfold State.cntLo
  repeat' first
    | with_reducible assumption
    | with_reducible exact Does.refl _ _
    | with_reducible rfl
    | decide
    | (extract_lets +onlyGivenNames u; (with_reducible refine Does.cutAt u ?_ (fun _ => ?_); revert u; with_reducible refine Does.here ?_; rotate_left); revert u; intro _ _; rotate_right)
    | (extract_lets +onlyGivenNames u; clear_value u; revert u; intro _)
    | with_reducible apply Does.iteSnd
    | with_reducible apply Does.iteFst
    | with_reducible apply Does.wr
    | (rw [pageBit_nvrCnthi trivial]; decide)
    | (split <;> (rename_i h; refine Does.cutSnd h ?_ (fun _ => ?_) <;> clear h))
    | (split <;> (rename_i h; refine Does.cutFst h ?_ (fun _ => ?_) <;> clear h))
    | split

end Sys2Proof.Machine
end

