-- ==== Sys2Proof/Laws/DoesMemory.lean ====
section
/-!
SUPPORT. What each operation of Sys2Proof/Machine/Memory.lean can do (see Sys2Proof/Laws/Does.lean).
-/
namespace Sys2Proof.Machine
set_option linter.all false
set_option linter.tactic.unusedName false
theorem State.setMem_does (s : State) (m0 : Mem) : Does 0x400 s (State.setMem s m0) := by
  unfold State.setMem
  repeat' first
    | with_reducible assumption
    | with_reducible exact Does.refl _ _
    | with_reducible rfl
    | decide
    | (extract_lets +onlyGivenNames u; (with_reducible refine Does.cutAt u ?_ (fun _ => ?_); revert u; with_reducible refine Does.here ?_; rotate_left); revert u; intro _ _; rotate_right)
    | (extract_lets +onlyGivenNames u; clear_value u; revert u; intro _)
    | split
    | with_reducible apply Does.andThen Does.upd_gmem

theorem State.memCorrected_does (s : State) (n : Nat) : Does 0x10000000 s (State.memCorrected s n) := by
  unfold State.memCorrected
  repeat' first
    | with_reducible assumption
    | with_reducible exact Does.refl _ _
    | with_reducible rfl
    | decide
    | (extract_lets +onlyGivenNames u; (with_reducible refine Does.cutAt u ?_ (fun _ => ?_); revert u; with_reducible refine Does.here ?_; rotate_left); revert u; intro _ _; rotate_right)
    | (extract_lets +onlyGivenNames u; clear_value u; revert u; intro _)
    | with_reducible apply Does.ite
    | with_reducible apply Does.setBit
    | with_reducible apply Does.count
    | split

theorem State.memUe_does (s : State) (a : Nat) (scrub : Bool) : Does 0x80010000800 s (State.memUe s a scrub) := by
  unfold State.memUe
  repeat' first
    | with_reducible assumption
    | with_reducible exact Does.refl _ _
    | with_reducible rfl
    | decide
    | (extract_lets +onlyGivenNames u; (with_reducible refine Does.cutAt u ?_ (fun _ => ?_); revert u; with_reducible refine Does.here ?_; rotate_left); revert u; intro _ _; rotate_right)
    | (extract_lets +onlyGivenNames u; clear_value u; revert u; intro _)
    | with_reducible apply Does.andThen Does.setBad
    | with_reducible apply Does.wr
    | with_reducible apply Does.setBit
    | with_reducible apply Does.count
    | split
    | with_reducible apply Does.andThen Does.upd_saf

theorem State.linkFail_does (s : State) (c : ChanN) : Does 0x10000400 s (State.linkFail s c) := by
  unfold State.linkFail
  repeat' first
    | with_reducible assumption
    | with_reducible exact Does.refl _ _
    | with_reducible rfl
    | decide
    | (extract_lets +onlyGivenNames u; (with_reducible refine Does.cutAt u ?_ (fun _ => ?_); revert u; with_reducible refine Does.here ?_; rotate_left); revert u; intro _ _; rotate_right)
    | (extract_lets +onlyGivenNames u; clear_value u; revert u; intro _)
    | with_reducible apply Does.andThen (State.setMem_does _ _)
    | with_reducible apply Does.setBit
    | split

theorem State.memRetry_does (s : State) (c : ChanN) (edc : Nat) (limit : Nat) : Does 0x10000400 s (State.memRetry s c edc limit).1 := by
  unfold State.memRetry
  repeat' first
    | with_reducible assumption
    | with_reducible exact Does.refl _ _
    | with_reducible rfl
    | decide
    | (extract_lets +onlyGivenNames u; (with_reducible refine Does.cutAt u ?_ (fun _ => ?_); revert u; with_reducible refine Does.here ?_; rotate_left); revert u; intro _ _; rotate_right)
    | (extract_lets +onlyGivenNames u; clear_value u; revert u; intro _)
    | with_reducible apply Does.ite
    | with_reducible apply Does.iteSnd
    | with_reducible apply Does.iteFst
    | with_reducible apply Does.andThen (State.linkFail_does _ _)
    | with_reducible apply Does.count
    | (rw [pageBit_memChstat (by first | omega | decide | exact Nat.lt_of_lt_of_le (portIdx_lt _) (by decide) | exact Nat.lt_of_lt_of_le (bufIdx_lt _) (by decide) | exact Nat.lt_of_lt_of_le (b2n_lt _) (by decide) | exact Nat.lt_of_lt_of_le (Fin.isLt _) (by decide))]; decide)
    | (split <;> (rename_i h; refine Does.cutSnd h ?_ (fun _ => ?_) <;> clear h))
    | (split <;> (rename_i h; refine Does.cutFst h ?_ (fun _ => ?_) <;> clear h))
    | split

theorem State.poisonLater_does (s : State) (a : Nat) : Does 0x400 s (State.poisonLater s a) := by
  unfold State.poisonLater
  repeat' first
    | with_reducible assumption
    | with_reducible exact Does.refl _ _
    | with_reducible rfl
    | decide
    | (extract_lets +onlyGivenNames u; (with_reducible refine Does.cutAt u ?_ (fun _ => ?_); revert u; with_reducible refine Does.here ?_; rotate_left); revert u; intro _ _; rotate_right)
    | (extract_lets +onlyGivenNames u; clear_value u; revert u; intro _)
    | with_reducible apply Does.andThen (State.setMem_does _ _)
    | split

theorem State.holeSeen_does (s : State) (a : Nat) : Does 0x10000000 s (State.holeSeen s a) := by
  unfold State.holeSeen
  repeat' first
    | with_reducible assumption
    | with_reducible exact Does.refl _ _
    | with_reducible rfl
    | decide
    | (extract_lets +onlyGivenNames u; (with_reducible refine Does.cutAt u ?_ (fun _ => ?_); revert u; with_reducible refine Does.here ?_; rotate_left); revert u; intro _ _; rotate_right)
    | (extract_lets +onlyGivenNames u; clear_value u; revert u; intro _)
    | with_reducible apply Does.ite
    | with_reducible apply Does.setBit
    | split

theorem State.checkWords_does (s : State) (a : Nat) (n : Nat) (told : List Ecc) (scrub : Bool) : Does 0x80010000800 s (State.checkWords s a n told scrub).1 := by
  unfold State.checkWords
  repeat' first
    | with_reducible assumption
    | with_reducible exact Does.refl _ _
    | with_reducible rfl
    | decide
    | (extract_lets +onlyGivenNames u; (with_reducible refine Does.cutAt u ?_ (fun _ => ?_); revert u; with_reducible refine Does.here ?_; rotate_left); revert u; intro _ _; rotate_right)
    | (extract_lets +onlyGivenNames u; clear_value u; revert u; intro _)
    | with_reducible apply Does.iteSnd
    | with_reducible apply Does.iteFst
    | with_reducible apply Does.foldl
    | with_reducible apply Does.foldlFst
    | with_reducible apply Does.foldlSnd
    | with_reducible apply Does.andThen (State.memCorrected_does _ _)
    | with_reducible apply Does.andThen (State.memUe_does _ _ _)
    | with_reducible apply Does.andThen Does.setBad
    | (split <;> (rename_i h; refine Does.cutSnd h ?_ (fun _ => ?_) <;> clear h))
    | (split <;> (rename_i h; refine Does.cutFst h ?_ (fun _ => ?_) <;> clear h))
    | intro _ _ _
    | split

theorem State.scrubUe_does (s : State) (a : Nat) : Does 0x10000020 s (State.scrubUe s a) := by
  unfold State.scrubUe
  repeat' first
    | with_reducible assumption
    | with_reducible exact Does.refl _ _
    | with_reducible rfl
    | decide
    | (extract_lets +onlyGivenNames u; (with_reducible refine Does.cutAt u ?_ (fun _ => ?_); revert u; with_reducible refine Does.here ?_; rotate_left); revert u; intro _ _; rotate_right)
    | (extract_lets +onlyGivenNames u; clear_value u; revert u; intro _)
    | with_reducible apply Does.ite
    | with_reducible apply Does.setBit
    | split
    | with_reducible apply Does.andThen Does.upd_chart

theorem State.gddrFetch_does (s : State) (u : MemUser) (a : Nat) (n : Nat) (told : List Ecc) : Does 0x80010000820 s (State.gddrFetch s u a n told).1 := by
  unfold State.gddrFetch
  repeat' first
    | with_reducible assumption
    | with_reducible exact Does.refl _ _
    | with_reducible rfl
    | decide
    | (extract_lets +onlyGivenNames u; (with_reducible refine Does.cutAt u ?_ (fun _ => ?_); revert u; with_reducible refine Does.here ?_; rotate_left); revert u; intro _ _; rotate_right)
    | (extract_lets +onlyGivenNames u; clear_value u; revert u; intro _)
    | with_reducible apply Does.ite
    | with_reducible apply Does.iteSnd
    | with_reducible apply Does.iteFst
    | with_reducible apply Does.andThen (State.checkWords_does _ _ _ _ _)
    | with_reducible apply Does.andThen (State.scrubUe_does _ _)
    | (split <;> (rename_i h; refine Does.cutSnd h ?_ (fun _ => ?_) <;> clear h))
    | (split <;> (rename_i h; refine Does.cutFst h ?_ (fun _ => ?_) <;> clear h))
    | split

theorem State.gddrStore_does (s : State) (a : Nat) (bs : List Byte) (told : List Ecc) : Does 0x80010000801 s (State.gddrStore s a bs told).1 := by
  unfold State.gddrStore
  repeat' first
    | with_reducible assumption
    | with_reducible exact Does.refl _ _
    | with_reducible rfl
    | decide
    | (extract_lets +onlyGivenNames u; (with_reducible refine Does.cutAt u ?_ (fun _ => ?_); revert u; with_reducible refine Does.here ?_; rotate_left); revert u; intro _ _; rotate_right)
    | (extract_lets +onlyGivenNames u; clear_value u; revert u; intro _)
    | with_reducible apply Does.ite
    | with_reducible apply Does.iteSnd
    | with_reducible apply Does.iteFst
    | with_reducible apply Does.andThen (State.checkWords_does _ _ _ _ _)
    | with_reducible apply Does.andThen Does.setBytes
    | with_reducible apply Does.andThen Does.store
    | (split <;> (rename_i h; refine Does.cutSnd h ?_ (fun _ => ?_) <;> clear h))
    | (split <;> (rename_i h; refine Does.cutFst h ?_ (fun _ => ?_) <;> clear h))
    | split

theorem State.gddrServe_does (s : State) (u : MemUser) (a : Nat) (n : Nat) (data : Option (List Byte)) (k : Check) : Does 0x80012000c21 s (State.gddrServe s u a n data k).1 := by
  unfold State.gddrServe
  refine Does.iteFst (Does.refl _ _) (Does.iteFst ?_ (Does.iteFst ?_ (Does.iteFst (Does.refl _ _) ?_)))
  · exact Does.setBit (Does.refl _ _) (by decide)
  · exact Does.setBit (Does.refl _ _) (by decide)
  · dsimp only
    refine Does.iteFst (Does.refl _ _) ?_
    have hr := (State.memRetry_does s (s.chanOf a) k.edc (s.retryLimit (u == .lookup))).mono (m := 0x80012000c21) (by decide)
    generalize s.memRetry (s.chanOf a) k.edc (s.retryLimit (u == .lookup)) = q at hr
    obtain ⟨t, gone⟩ := q
    cases data with
    | none => exact Does.iteFst hr (Does.andThen (State.gddrFetch_does _ _ _ _ _) hr (by decide))
    | some bs =>
      refine Does.iteFst (Does.andThen (State.poisonLater_does _ _) hr (by decide)) ?_
      exact Does.andThen (State.gddrStore_does _ _ _ _) hr (by decide)

theorem State.gddrAccess_does (s : State) (u : MemUser) (a : Nat) (n : Nat) (data : Option (List Byte)) (k : Check) : Does 0x80012000c21 s (State.gddrAccess s u a n data k).1 := by
  unfold State.gddrAccess
  repeat' first
    | with_reducible assumption
    | with_reducible exact Does.refl _ _
    | with_reducible rfl
    | decide
    | (extract_lets +onlyGivenNames u; (with_reducible refine Does.cutAt u ?_ (fun _ => ?_); revert u; with_reducible refine Does.here ?_; rotate_left); revert u; intro _ _; rotate_right)
    | (extract_lets +onlyGivenNames u; revert u; intro _)
    | with_reducible apply Does.ite
    | with_reducible apply Does.iteSnd
    | with_reducible apply Does.iteFst
    | with_reducible apply Does.andThen (State.setMem_does _ _)
    | with_reducible apply Does.andThen (State.gddrServe_does _ _ _ _ _ _)
    | (split <;> (rename_i h; refine Does.cutSnd h ?_ (fun _ => ?_) <;> clear h))
    | (split <;> (rename_i h; refine Does.cutFst h ?_ (fun _ => ?_) <;> clear h))
    | split

theorem State.unitReads_does (s : State) (lookup : Bool) (l : List (Nat × Check)) : Does 0x80010000c00 s (State.unitReads s lookup l).1 := by
  induction l generalizing s with
  | nil => exact Does.refl _ _
  | cons x l ih =>
    unfold State.unitReads
    split
    · exact (State.holeSeen_does _ _).mono (by decide)
    have hr := (State.memRetry_does s (s.chanOf x.1) x.2.edc (s.retryLimit lookup)).mono (m := 0x80010000c00) (by decide)
    generalize hq : s.memRetry (s.chanOf x.1) x.2.edc (s.retryLimit lookup) = q at hr
    dsimp only
    split
    · exact hr
    · split <;> rename_i h
      · exact Does.cutFst h (Does.andThen (State.checkWords_does _ _ _ _ _) hr (by decide)) fun p => Does.andThen (ih _) p (by decide)
      · exact Does.cutFst h (Does.andThen (State.checkWords_does _ _ _ _ _) hr (by decide)) fun p => p

theorem State.meetBurst_does (s : State) (a : Nat) (k : Check) : Does 0x80010000400 s (State.meetBurst s a k).1 := by
  unfold State.meetBurst
  repeat' first
    | with_reducible assumption
    | with_reducible exact Does.refl _ _
    | with_reducible rfl
    | decide
    | (extract_lets +onlyGivenNames u; (with_reducible refine Does.cutAt u ?_ (fun _ => ?_); revert u; with_reducible refine Does.here ?_; rotate_left); revert u; intro _ _; rotate_right)
    | (extract_lets +onlyGivenNames u; clear_value u; revert u; intro _)
    | with_reducible apply Does.ite
    | with_reducible apply Does.iteSnd
    | with_reducible apply Does.iteFst
    | with_reducible apply Does.foldl
    | with_reducible apply Does.foldlFst
    | with_reducible apply Does.foldlSnd
    | with_reducible apply Does.andThen (State.memRetry_does _ _ _ _)
    | with_reducible apply Does.andThen (State.memCorrected_does _ _)
    | with_reducible apply Does.andThen Does.setBad
    | (split <;> (rename_i h; refine Does.cutSnd h ?_ (fun _ => ?_) <;> clear h))
    | (split <;> (rename_i h; refine Does.cutFst h ?_ (fun _ => ?_) <;> clear h))
    | intro _ _ _
    | split

theorem State.meetReads_does (s : State) (lo hi : Nat) (met : Met) : Does 0x80010000400 s (State.meetReads s lo hi met).1 := by
  induction met generalizing s with
  | nil => exact Does.refl _ _
  | cons x l ih =>
    unfold State.meetReads
    dsimp only
    split
    · exact Does.andThen (ih _) ((State.meetBurst_does _ _ _).mono (by decide)) (by decide)
    · exact ih s

theorem State.meetWrites_does (s : State) (lo : Nat) (hi : Nat) (met : Met) : Does 0x10000400 s (State.meetWrites s lo hi met) := by
  unfold State.meetWrites
  repeat' first
    | with_reducible assumption
    | with_reducible exact Does.refl _ _
    | with_reducible rfl
    | decide
    | (extract_lets +onlyGivenNames u; (with_reducible refine Does.cutAt u ?_ (fun _ => ?_); revert u; with_reducible refine Does.here ?_; rotate_left); revert u; intro _ _; rotate_right)
    | (extract_lets +onlyGivenNames u; clear_value u; revert u; intro _)
    | with_reducible apply Does.ite
    | with_reducible apply Does.iteSnd
    | with_reducible apply Does.iteFst
    | with_reducible apply Does.foldl
    | with_reducible apply Does.foldlFst
    | with_reducible apply Does.foldlSnd
    | with_reducible apply Does.andThen (State.memRetry_does _ _ _ _)
    | with_reducible apply Does.andThen (State.poisonLater_does _ _)
    | (split <;> (rename_i h; refine Does.cutSnd h ?_ (fun _ => ?_) <;> clear h))
    | (split <;> (rename_i h; refine Does.cutFst h ?_ (fun _ => ?_) <;> clear h))
    | intro _ _ _
    | split

theorem State.without_does (s : State) (lost : List Nat) : Does 0x80000000000 s (State.without s lost) := by
  unfold State.without
  repeat' first
    | with_reducible assumption
    | with_reducible exact Does.refl _ _
    | with_reducible rfl
    | decide
    | (extract_lets +onlyGivenNames u; (with_reducible refine Does.cutAt u ?_ (fun _ => ?_); revert u; with_reducible refine Does.here ?_; rotate_left); revert u; intro _ _; rotate_right)
    | (extract_lets +onlyGivenNames u; clear_value u; revert u; intro _)
    | with_reducible apply Does.foldl
    | with_reducible apply Does.foldlFst
    | with_reducible apply Does.foldlSnd
    | with_reducible apply Does.andThen Does.setBad
    | intro _ _ _
    | split

theorem State.longRead_does (s : State) (a : Nat) (n : Nat) (met : Met) : Does 0x80010000c00 s (State.longRead s a n met).1 := by
  unfold State.longRead
  repeat' first
    | with_reducible assumption
    | with_reducible exact Does.refl _ _
    | with_reducible rfl
    | decide
    | (extract_lets +onlyGivenNames u; (with_reducible refine Does.cutAt u ?_ (fun _ => ?_); revert u; with_reducible refine Does.here ?_; rotate_left); revert u; intro _ _; rotate_right)
    | (extract_lets +onlyGivenNames u; clear_value u; revert u; intro _)
    | with_reducible apply Does.ite
    | with_reducible apply Does.iteSnd
    | with_reducible apply Does.iteFst
    | with_reducible apply Does.andThen (State.meetReads_does _ _ _ _)
    | with_reducible apply Does.andThen (State.without_does _ _)
    | with_reducible apply Does.andThen (State.memUe_does _ _ _)
    | (split <;> (rename_i h; refine Does.cutSnd h ?_ (fun _ => ?_) <;> clear h))
    | (split <;> (rename_i h; refine Does.cutFst h ?_ (fun _ => ?_) <;> clear h))
    | split

theorem State.unitPut_does (s : State) (a : Nat) (bs : List Byte) : Does 0x80010000001 s (State.unitPut s a bs) := by
  unfold State.unitPut
  repeat' first
    | with_reducible assumption
    | with_reducible exact Does.refl _ _
    | with_reducible rfl
    | decide
    | (extract_lets +onlyGivenNames u; (with_reducible refine Does.cutAt u ?_ (fun _ => ?_); revert u; with_reducible refine Does.here ?_; rotate_left); revert u; intro _ _; rotate_right)
    | (extract_lets +onlyGivenNames u; clear_value u; revert u; intro _)
    | with_reducible apply Does.ite
    | with_reducible apply Does.andThen (State.holeSeen_does _ _)
    | with_reducible apply Does.andThen Does.setBytes
    | with_reducible apply Does.andThen Does.store
    | split

theorem State.unitPuts_does (s : State) (a : Nat) (bs : List Byte) : Does 0x80010000001 s (State.unitPuts s a bs) := by
  unfold State.unitPuts
  repeat' first
    | with_reducible assumption
    | with_reducible exact Does.refl _ _
    | with_reducible rfl
    | decide
    | (extract_lets +onlyGivenNames u; (with_reducible refine Does.cutAt u ?_ (fun _ => ?_); revert u; with_reducible refine Does.here ?_; rotate_left); revert u; intro _ _; rotate_right)
    | (extract_lets +onlyGivenNames u; clear_value u; revert u; intro _)
    | with_reducible apply Does.foldl
    | with_reducible apply Does.foldlFst
    | with_reducible apply Does.foldlSnd
    | with_reducible apply Does.andThen (State.unitPut_does _ _ _)
    | intro _ _ _
    | split

theorem State.serveNow_does (s : State) (q : MemReq) : Does 0x80012000c21 s (State.serveNow s q) := by
  unfold State.serveNow
  repeat' first
    | with_reducible assumption
    | with_reducible exact Does.refl _ _
    | with_reducible rfl
    | decide
    | (extract_lets +onlyGivenNames u; (with_reducible refine Does.cutAt u ?_ (fun _ => ?_); revert u; with_reducible refine Does.here ?_; rotate_left); revert u; intro _ _; rotate_right)
    | (extract_lets +onlyGivenNames u; clear_value u; revert u; intro _)
    | with_reducible apply Does.iteSnd
    | with_reducible apply Does.iteFst
    | with_reducible apply Does.andThen (State.setMem_does _ _)
    | with_reducible apply Does.andThen (State.gddrServe_does _ _ _ _ _ _)
    | (split <;> (rename_i h; refine Does.cutSnd h ?_ (fun _ => ?_) <;> clear h))
    | (split <;> (rename_i h; refine Does.cutFst h ?_ (fun _ => ?_) <;> clear h))
    | split

theorem State.serveLoop_does (k : Nat) (s : State) : Does 0x80012000c21 s (State.serveLoop k s) := by
  induction k generalizing s with
  | zero => exact Does.refl _ _
  | succ n ih =>
    unfold State.serveLoop
    split
    · exact Does.refl _ _
    · split
      · exact Does.andThen (ih _) (Does.andThen (State.serveNow_does _ _) ((State.setMem_does _ _).mono (by decide)) (by decide)) (by decide)
      · exact Does.refl _ _

theorem State.serveWaiting_does (s : State) : Does 0x80012000c21 s (State.serveWaiting s) := by
  unfold State.serveWaiting
  repeat' first
    | with_reducible assumption
    | with_reducible exact Does.refl _ _
    | with_reducible rfl
    | decide
    | (extract_lets +onlyGivenNames u; (with_reducible refine Does.cutAt u ?_ (fun _ => ?_); revert u; with_reducible refine Does.here ?_; rotate_left); revert u; intro _ _; rotate_right)
    | (extract_lets +onlyGivenNames u; clear_value u; revert u; intro _)
    | with_reducible apply Does.andThen (State.serveLoop_does _ _)
    | split

theorem State.offerReq_does (s : State) (q : MemReq) : Does 0x80012000c21 s (State.offerReq s q) := by
  unfold State.offerReq
  repeat' first
    | with_reducible assumption
    | with_reducible exact Does.refl _ _
    | with_reducible rfl
    | decide
    | (extract_lets +onlyGivenNames u; (with_reducible refine Does.cutAt u ?_ (fun _ => ?_); revert u; with_reducible refine Does.here ?_; rotate_left); revert u; intro _ _; rotate_right)
    | (extract_lets +onlyGivenNames u; clear_value u; revert u; intro _)
    | with_reducible apply Does.andThen (State.serveWaiting_does _)
    | with_reducible apply Does.andThen (State.setMem_does _ _)
    | split

end Sys2Proof.Machine
end

