-- ==== Sys2Proof/Laws/DoesCells.lean ====
section
/-!
SUPPORT. What each operation of Sys2Proof/Machine/Cells.lean can do (see Sys2Proof/Laws/Does.lean).
-/
namespace Sys2Proof.Machine
set_option linter.all false
set_option linter.tactic.unusedName false
theorem State.pushFrame_does (s : State) (l : LaneN) (f : DFrame) : Does 0x80 s (State.pushFrame s l f) := by
  unfold State.pushFrame
  repeat' first
    | with_reducible assumption
    | with_reducible exact Does.refl _ _
    | with_reducible rfl
    | decide
    | (extract_lets +onlyGivenNames u; (with_reducible refine Does.cutAt u ?_ (fun _ => ?_); revert u; with_reducible refine Does.here ?_; rotate_left); revert u; intro _ _; rotate_right)
    | (extract_lets +onlyGivenNames u; clear_value u; revert u; intro _)
    | with_reducible apply Does.andThen Does.setLane
    | split

theorem State.queueHub_does (s : State) (p : Slot) (kind : Nat) (words : List (Nat × Nat)) (h : Nat) : Does 0x80 s (State.queueHub s p kind words h) := by
  unfold State.queueHub
  repeat' first
    | with_reducible assumption
    | with_reducible exact Does.refl _ _
    | with_reducible rfl
    | decide
    | (extract_lets +onlyGivenNames u; (with_reducible refine Does.cutAt u ?_ (fun _ => ?_); revert u; with_reducible refine Does.here ?_; rotate_left); revert u; intro _ _; rotate_right)
    | (extract_lets +onlyGivenNames u; clear_value u; revert u; intro _)
    | with_reducible apply Does.ite
    | with_reducible apply Does.andThen (State.pushFrame_does _ _ _)
    | split

theorem State.queueFrames_does (s : State) (p : Slot) (kind : Nat) (words : List (Nat × Nat)) : Does 0x80 s (State.queueFrames s p kind words) := by
  unfold State.queueFrames
  repeat' first
    | with_reducible assumption
    | with_reducible exact Does.refl _ _
    | with_reducible rfl
    | decide
    | (extract_lets +onlyGivenNames u; (with_reducible refine Does.cutAt u ?_ (fun _ => ?_); revert u; with_reducible refine Does.here ?_; rotate_left); revert u; intro _ _; rotate_right)
    | (extract_lets +onlyGivenNames u; clear_value u; revert u; intro _)
    | with_reducible apply Does.each
    | with_reducible apply Does.andThen (State.queueHub_does _ _ _ _ _)
    | intro _ _ _
    | split

theorem State.dropFrames_does (s : State) (p : Slot) (kinds : Nat → Bool) : Does 0x80 s (State.dropFrames s p kinds) := by
  unfold State.dropFrames
  repeat' first
    | with_reducible assumption
    | with_reducible exact Does.refl _ _
    | with_reducible rfl
    | decide
    | (extract_lets +onlyGivenNames u; (with_reducible refine Does.cutAt u ?_ (fun _ => ?_); revert u; with_reducible refine Does.here ?_; rotate_left); revert u; intro _ _; rotate_right)
    | (extract_lets +onlyGivenNames u; clear_value u; revert u; intro _)
    | with_reducible apply Does.ite
    | split
    | with_reducible apply Does.andThen Does.upd_lanes

theorem State.checkReport_does (s : State) (p : Slot) : Does 0x100004 s (State.checkReport s p) := by
  unfold State.checkReport
  repeat' first
    | with_reducible assumption
    | with_reducible exact Does.refl _ _
    | with_reducible rfl
    | decide
    | (extract_lets +onlyGivenNames u; (with_reducible refine Does.cutAt u ?_ (fun _ => ?_); revert u; with_reducible refine Does.here ?_; rotate_left); revert u; intro _ _; rotate_right)
    | (extract_lets +onlyGivenNames u; clear_value u; revert u; intro _)
    | with_reducible apply Does.ite
    | with_reducible apply Does.andThen (State.notice_does _ _)
    | with_reducible apply Does.andThen Does.setProb
    | split

theorem State.setSel_does (s : State) (p : Slot) (x : Sel) : Does 0x40 s (State.setSel s p x) := by
  unfold State.setSel
  repeat' first
    | with_reducible assumption
    | with_reducible exact Does.refl _ _
    | with_reducible rfl
    | decide
    | (extract_lets +onlyGivenNames u; (with_reducible refine Does.cutAt u ?_ (fun _ => ?_); revert u; with_reducible refine Does.here ?_; rotate_left); revert u; intro _ _; rotate_right)
    | (extract_lets +onlyGivenNames u; clear_value u; revert u; intro _)
    | split
    | with_reducible apply Does.andThen Does.upd_cell

theorem State.sorterPass_does (s : State) (p : Slot) (kind : Nat) (leg : Leg) : Does 0x4000040 s (State.sorterPass s p kind leg) := by
  unfold State.sorterPass
  repeat' first
    | with_reducible assumption
    | with_reducible exact Does.refl _ _
    | with_reducible rfl
    | decide
    | (extract_lets +onlyGivenNames u; (with_reducible refine Does.cutAt u ?_ (fun _ => ?_); revert u; with_reducible refine Does.here ?_; rotate_left); revert u; intro _ _; rotate_right)
    | (extract_lets +onlyGivenNames u; clear_value u; revert u; intro _)
    | with_reducible apply Does.ite
    | with_reducible apply Does.iteSnd
    | with_reducible apply Does.iteFst
    | with_reducible apply Does.each
    | with_reducible apply Does.andThen (State.setSel_does _ _ _)
    | with_reducible apply Does.setBit
    | (rw [pageBit_cellCst trivial]; decide)
    | (split <;> (rename_i h; refine Does.cutSnd h ?_ (fun _ => ?_) <;> clear h))
    | (split <;> (rename_i h; refine Does.cutFst h ?_ (fun _ => ?_) <;> clear h))
    | intro _ _ _
    | split
    | with_reducible apply Does.andThen Does.upd_cell

theorem State.finishJob_does (s : State) (p : Slot) (j : SelJob) : Does 0x1000c4 s (State.finishJob s p j) := by
  unfold State.finishJob
  repeat' first
    | with_reducible assumption
    | with_reducible exact Does.refl _ _
    | with_reducible rfl
    | decide
    | (extract_lets +onlyGivenNames u; (with_reducible refine Does.cutAt u ?_ (fun _ => ?_); revert u; with_reducible refine Does.here ?_; rotate_left); revert u; intro _ _; rotate_right)
    | (extract_lets +onlyGivenNames u; clear_value u; revert u; intro _)
    | with_reducible apply Does.ite
    | with_reducible apply Does.andThen (State.checkReport_does _ _)
    | with_reducible apply Does.andThen (State.queueFrames_does _ _ _ _)
    | with_reducible apply Does.andThen (State.setSel_does _ _ _)
    | split
    | with_reducible apply Does.andThen Does.upd_cell

theorem State.settle_does (s : State) (p : Slot) (leg : Leg) : Does 0x41000c4 s (State.settle s p leg) := by
  unfold State.settle
  repeat' first
    | with_reducible assumption
    | with_reducible exact Does.refl _ _
    | with_reducible rfl
    | decide
    | (extract_lets +onlyGivenNames u; (with_reducible refine Does.cutAt u ?_ (fun _ => ?_); revert u; with_reducible refine Does.here ?_; rotate_left); revert u; intro _ _; rotate_right)
    | (extract_lets +onlyGivenNames u; clear_value u; revert u; intro _)
    | with_reducible apply Does.ite
    | with_reducible apply Does.andThen Does.setProb
    | with_reducible apply Does.andThen (State.checkReport_does _ _)
    | with_reducible apply Does.andThen (State.queueFrames_does _ _ _ _)
    | with_reducible apply Does.andThen (State.setSel_does _ _ _)
    | with_reducible apply Does.andThen (State.sorterPass_does _ _ _ _)
    | with_reducible apply Does.andThen (State.dropFrames_does _ _ _)
    | split

theorem State.blockFrames_does (s : State) (p : Slot) : Does 0x80 s (State.blockFrames s p) := by
  unfold State.blockFrames
  repeat' first
    | with_reducible assumption
    | with_reducible exact Does.refl _ _
    | with_reducible rfl
    | decide
    | (extract_lets +onlyGivenNames u; (with_reducible refine Does.cutAt u ?_ (fun _ => ?_); revert u; with_reducible refine Does.here ?_; rotate_left); revert u; intro _ _; rotate_right)
    | (extract_lets +onlyGivenNames u; clear_value u; revert u; intro _)
    | with_reducible apply Does.andThen (State.queueFrames_does _ _ _ _)
    | split

theorem State.shortfall_does (s : State) (a : Nat) : Does 0x4000000 s (State.shortfall s a) := by
  unfold State.shortfall
  repeat' first
    | with_reducible assumption
    | with_reducible exact Does.refl _ _
    | with_reducible rfl
    | decide
    | (extract_lets +onlyGivenNames u; (with_reducible refine Does.cutAt u ?_ (fun _ => ?_); revert u; with_reducible refine Does.here ?_; rotate_left); revert u; intro _ _; rotate_right)
    | (extract_lets +onlyGivenNames u; clear_value u; revert u; intro _)
    | with_reducible apply Does.ite
    | with_reducible apply Does.setBit
    | with_reducible apply Does.orReg
    | split

theorem execSelection_does (p : Slot) (a : ArmN) (s : State) : DoesOut 0x41000c4 s (execSelection p a s) := by
  unfold execSelection
  repeat' first
    | with_reducible assumption
    | with_reducible exact Does.refl _ _
    | with_reducible rfl
    | decide
    | (extract_lets +onlyGivenNames u; (with_reducible refine DoesOut.cutAt u ?_ (fun _ => ?_); revert u; with_reducible refine Does.here ?_; rotate_left); revert u; intro _ _; rotate_right)
    | (extract_lets +onlyGivenNames u; (with_reducible refine Does.cutAt u ?_ (fun _ => ?_); revert u; with_reducible refine Does.here ?_; rotate_left); revert u; intro _ _; rotate_right)
    | (extract_lets +onlyGivenNames u; clear_value u; revert u; intro _)
    | with_reducible apply DoesOut.next
    | with_reducible apply DoesOut.ite
    | with_reducible apply Does.ite
    | with_reducible apply Does.andThen (State.shortfall_does _ _)
    | with_reducible apply Does.andThen (State.finishJob_does _ _ _)
    | with_reducible apply Does.andThen (State.setSel_does _ _ _)
    | with_reducible apply Does.wr
    | (rw [pageBit_cellAstat trivial]; decide)
    | split

theorem State.tellStates_does (s : State) (l : LaneN) (f : DFrame) : Does 0x40 s (State.tellStates s l f) := by
  unfold State.tellStates
  repeat' first
    | with_reducible assumption
    | with_reducible exact Does.refl _ _
    | with_reducible rfl
    | decide
    | (extract_lets +onlyGivenNames u; (with_reducible refine Does.cutAt u ?_ (fun _ => ?_); revert u; with_reducible refine Does.here ?_; rotate_left); revert u; intro _ _; rotate_right)
    | (extract_lets +onlyGivenNames u; clear_value u; revert u; intro _)
    | with_reducible apply Does.ite
    | split
    | with_reducible apply Does.andThen Does.upd_cell

theorem State.frameLeft_does (s : State) (l : LaneN) (f : DFrame) (rest : List DFrame) (seq : Option Nat) : Does 0x80 s (State.frameLeft s l f rest seq) := by
  unfold State.frameLeft
  repeat' first
    | with_reducible assumption
    | with_reducible exact Does.refl _ _
    | with_reducible rfl
    | decide
    | (extract_lets +onlyGivenNames u; (with_reducible refine Does.cutAt u ?_ (fun _ => ?_); revert u; with_reducible refine Does.here ?_; rotate_left); revert u; intro _ _; rotate_right)
    | (extract_lets +onlyGivenNames u; clear_value u; revert u; intro _)
    | with_reducible apply Does.andThen Does.setLane
    | split

theorem State.afterFrame_does (s : State) (f : DFrame) : Does 0x100004 s (State.afterFrame s f) := by
  unfold State.afterFrame
  repeat' first
    | with_reducible assumption
    | with_reducible exact Does.refl _ _
    | with_reducible rfl
    | decide
    | (extract_lets +onlyGivenNames u; (with_reducible refine Does.cutAt u ?_ (fun _ => ?_); revert u; with_reducible refine Does.here ?_; rotate_left); revert u; intro _ _; rotate_right)
    | (extract_lets +onlyGivenNames u; clear_value u; revert u; intro _)
    | with_reducible apply Does.ite
    | with_reducible apply Does.andThen Does.setProb
    | with_reducible apply Does.andThen (State.checkReport_does _ _)
    | split

theorem State.sendNew_does (s : State) (l : LaneN) (f : DFrame) (rest : List DFrame) (sq : Nat) : Does 0x1000c4 s (State.sendNew s l f rest sq) := by
  unfold State.sendNew
  repeat' first
    | with_reducible assumption
    | with_reducible exact Does.refl _ _
    | with_reducible rfl
    | decide
    | (extract_lets +onlyGivenNames u; (with_reducible refine Does.cutAt u ?_ (fun _ => ?_); revert u; with_reducible refine Does.here ?_; rotate_left); revert u; intro _ _; rotate_right)
    | (extract_lets +onlyGivenNames u; clear_value u; revert u; intro _)
    | with_reducible apply Does.ite
    | with_reducible apply Does.andThen (State.afterFrame_does _ _)
    | with_reducible apply Does.andThen (State.frameLeft_does _ _ _ _ _)
    | with_reducible apply Does.andThen (State.tellStates_does _ _ _)
    | split

theorem execDownlinkFrameSend_does (l : LaneN) (s : State) : DoesOut 0x43000c4 s (execDownlinkFrameSend l s) := by
  unfold execDownlinkFrameSend
  repeat' first
    | with_reducible assumption
    | with_reducible exact Does.refl _ _
    | with_reducible rfl
    | decide
    | (extract_lets +onlyGivenNames u; (with_reducible refine DoesOut.cutAt u ?_ (fun _ => ?_); revert u; with_reducible refine Does.here ?_; rotate_left); revert u; intro _ _; rotate_right)
    | (extract_lets +onlyGivenNames u; (with_reducible refine Does.cutAt u ?_ (fun _ => ?_); revert u; with_reducible refine Does.here ?_; rotate_left); revert u; intro _ _; rotate_right)
    | (extract_lets +onlyGivenNames u; clear_value u; revert u; intro _)
    | with_reducible apply DoesOut.next
    | with_reducible apply DoesOut.ite
    | with_reducible apply Does.ite
    | with_reducible apply Does.iteSnd
    | with_reducible apply Does.iteFst
    | with_reducible apply Does.andThen (State.frameLeft_does _ _ _ _ _)
    | with_reducible apply Does.andThen (State.tellStates_does _ _ _)
    | with_reducible apply Does.andThen Does.freeWord
    | with_reducible apply Does.andThen (State.sendNew_does _ _ _ _ _)
    | with_reducible apply Does.count
    | (rw [pageBit_cellLerr (by first | omega | decide | exact Nat.lt_of_lt_of_le (portIdx_lt _) (by decide) | exact Nat.lt_of_lt_of_le (bufIdx_lt _) (by decide) | exact Nat.lt_of_lt_of_le (b2n_lt _) (by decide) | exact Nat.lt_of_lt_of_le (Fin.isLt _) (by decide))]; decide)
    | (split <;> (rename_i h; refine DoesOut.cutSnd h ?_ (fun _ => ?_) <;> clear h))
    | (split <;> (rename_i h; refine DoesOut.cutFst h ?_ (fun _ => ?_) <;> clear h))
    | (split <;> (rename_i h; refine Does.cutSnd h ?_ (fun _ => ?_) <;> clear h))
    | (split <;> (rename_i h; refine Does.cutFst h ?_ (fun _ => ?_) <;> clear h))
    | split

theorem State.recMark_does (s : State) (left : List (Nat × Nat)) (n : Nat) : Does 0x4000000 s (State.recMark s left n) := by
  unfold State.recMark
  repeat' first
    | with_reducible assumption
    | with_reducible exact Does.refl _ _
    | with_reducible rfl
    | decide
    | (extract_lets +onlyGivenNames u; (with_reducible refine Does.cutAt u ?_ (fun _ => ?_); revert u; with_reducible refine Does.here ?_; rotate_left); revert u; intro _ _; rotate_right)
    | (extract_lets +onlyGivenNames u; clear_value u; revert u; intro _)
    | with_reducible apply Does.ite
    | with_reducible apply Does.wr
    | (rw [pageBit_cellCst trivial]; decide)
    | split

theorem State.cellAge_does (s : State) : Does 0xc0 s (State.cellAge s) := by
  unfold State.cellAge
  repeat' first
    | with_reducible assumption
    | with_reducible exact Does.refl _ _
    | with_reducible rfl
    | decide
    | (extract_lets +onlyGivenNames u; (with_reducible refine Does.cutAt u ?_ (fun _ => ?_); revert u; with_reducible refine Does.here ?_; rotate_left); revert u; intro _ _; rotate_right)
    | (extract_lets +onlyGivenNames u; clear_value u; revert u; intro _)
    | with_reducible apply Does.ite
    | split
    | with_reducible apply Does.andThen Does.upd_cell_lanes

theorem State.cellMark_does (s : State) : Does 0x4000040 s (State.cellMark s) := by
  unfold State.cellMark
  repeat' first
    | with_reducible assumption
    | with_reducible exact Does.refl _ _
    | with_reducible rfl
    | decide
    | (extract_lets +onlyGivenNames u; (with_reducible refine Does.cutAt u ?_ (fun _ => ?_); revert u; with_reducible refine Does.here ?_; rotate_left); revert u; intro _ _; rotate_right)
    | (extract_lets +onlyGivenNames u; clear_value u; revert u; intro _)
    | with_reducible apply Does.ite
    | with_reducible apply Does.each
    | with_reducible apply Does.andThen (State.recMark_does _ _ _)
    | with_reducible apply Does.setFld
    | (rw [pageBit_cellCst trivial]; decide)
    | intro _ _ _
    | split
    | with_reducible apply Does.andThen Does.upd_cell

theorem State.recReport_does (s : State) (n : Nat) (st : Nat) : Does 0x4000040 s (State.recReport s n st) := by
  unfold State.recReport
  repeat' first
    | with_reducible assumption
    | with_reducible exact Does.refl _ _
    | with_reducible rfl
    | decide
    | (extract_lets +onlyGivenNames u; (with_reducible refine Does.cutAt u ?_ (fun _ => ?_); revert u; with_reducible refine Does.here ?_; rotate_left); revert u; intro _ _; rotate_right)
    | (extract_lets +onlyGivenNames u; clear_value u; revert u; intro _)
    | with_reducible apply Does.ite
    | with_reducible apply Does.setFld
    | with_reducible apply Does.setBit
    | with_reducible apply Does.count
    | (rw [pageBit_cellCst trivial]; decide)
    | split
    | with_reducible apply Does.andThen Does.upd_cell

theorem execSwitchCountDecay_does (a : ArmN) (s : State) : DoesOut 0x4000040 s (execSwitchCountDecay a s) := by
  unfold execSwitchCountDecay
  repeat' first
    | with_reducible assumption
    | with_reducible exact Does.refl _ _
    | with_reducible rfl
    | decide
    | (extract_lets +onlyGivenNames u; (with_reducible refine DoesOut.cutAt u ?_ (fun _ => ?_); revert u; with_reducible refine Does.here ?_; rotate_left); revert u; intro _ _; rotate_right)
    | (extract_lets +onlyGivenNames u; (with_reducible refine Does.cutAt u ?_ (fun _ => ?_); revert u; with_reducible refine Does.here ?_; rotate_left); revert u; intro _ _; rotate_right)
    | (extract_lets +onlyGivenNames u; clear_value u; revert u; intro _)
    | with_reducible apply DoesOut.next
    | with_reducible apply DoesOut.ite
    | with_reducible apply Does.ite
    | with_reducible apply Does.each
    | with_reducible apply Does.setFld
    | (rw [pageBit_cellCst trivial]; decide)
    | intro _ _ _
    | split
    | with_reducible apply Does.andThen Does.upd_cell

theorem execCntclr_does (s : State) : DoesOut 0x40 s (execCntclr s) := by
  unfold execCntclr
  repeat' first
    | with_reducible assumption
    | with_reducible exact Does.refl _ _
    | with_reducible rfl
    | decide
    | (extract_lets +onlyGivenNames u; (with_reducible refine DoesOut.cutAt u ?_ (fun _ => ?_); revert u; with_reducible refine Does.here ?_; rotate_left); revert u; intro _ _; rotate_right)
    | (extract_lets +onlyGivenNames u; (with_reducible refine Does.cutAt u ?_ (fun _ => ?_); revert u; with_reducible refine Does.here ?_; rotate_left); revert u; intro _ _; rotate_right)
    | (extract_lets +onlyGivenNames u; clear_value u; revert u; intro _)
    | with_reducible apply DoesOut.next
    | with_reducible apply DoesOut.ite
    | with_reducible apply Does.ite
    | split
    | with_reducible apply Does.andThen Does.upd_cell

end Sys2Proof.Machine
end

