-- ==== Sys2Proof/Laws/DoesLinks.lean ====
section
/-!
SUPPORT. What each operation of Sys2Proof/Machine/Links.lean can do (see Sys2Proof/Laws/Does.lean).
-/
namespace Sys2Proof.Machine
set_option linter.all false
set_option linter.tactic.unusedName false
theorem State.laneBit_does (s : State) (lo hi : Nat) (l : LaneN) (b : Bool) (h : pageBit lo = 26) (k : pageBit hi = 26) :
    Does 0x4000000 s (State.laneBit s lo hi l b) := by
  unfold State.laneBit
  exact Does.ite (Does.setBit (Does.refl _ _) (by rw [h]; decide)) (Does.setBit (Does.refl _ _) (by rw [k]; decide))

theorem State.setLaneState_does (s : State) (l : LaneN) (st : Nat) : Does 0x4000080 s (State.setLaneState s l st) := by
  unfold State.setLaneState
  repeat' first
    | with_reducible assumption
    | with_reducible exact Does.refl _ _
    | with_reducible rfl
    | decide
    | (extract_lets +onlyGivenNames u; (with_reducible refine Does.cutAt u ?_ (fun _ => ?_); revert u; with_reducible refine Does.here ?_; rotate_left); revert u; intro _ _; rotate_right)
    | (extract_lets +onlyGivenNames u; clear_value u; revert u; intro _)
    | with_reducible apply Does.ite
    | with_reducible apply Does.andThen (State.laneBit_does _ _ _ _ _ (by decide) (by decide))
    | with_reducible apply Does.andThen Does.setLane
    | with_reducible apply Does.setFld
    | (rw [pageBit_cellLstat (by first | omega | decide | exact Nat.lt_of_lt_of_le (portIdx_lt _) (by decide) | exact Nat.lt_of_lt_of_le (bufIdx_lt _) (by decide) | exact Nat.lt_of_lt_of_le (b2n_lt _) (by decide) | exact Nat.lt_of_lt_of_le (Fin.isLt _) (by decide))]; decide)
    | split

theorem State.reportsDue_does (s : State) : Does 0x100004 s (State.reportsDue s) := by
  unfold State.reportsDue
  repeat' first
    | with_reducible assumption
    | with_reducible exact Does.refl _ _
    | with_reducible rfl
    | decide
    | (extract_lets +onlyGivenNames u; (with_reducible refine Does.cutAt u ?_ (fun _ => ?_); revert u; with_reducible refine Does.here ?_; rotate_left); revert u; intro _ _; rotate_right)
    | (extract_lets +onlyGivenNames u; clear_value u; revert u; intro _)
    | with_reducible apply Does.each
    | with_reducible apply Does.andThen (State.checkReport_does _ _)
    | intro _ _ _
    | split

theorem State.laneFail_does (s : State) (l : LaneN) (code : Nat) : Does 0x4100084 s (State.laneFail s l code) := by
  unfold State.laneFail
  repeat' first
    | with_reducible assumption
    | with_reducible exact Does.refl _ _
    | with_reducible rfl
    | decide
    | (extract_lets +onlyGivenNames u; (with_reducible refine Does.cutAt u ?_ (fun _ => ?_); revert u; with_reducible refine Does.here ?_; rotate_left); revert u; intro _ _; rotate_right)
    | (extract_lets +onlyGivenNames u; clear_value u; revert u; intro _)
    | with_reducible apply Does.ite
    | with_reducible apply Does.andThen (State.setLaneState_does _ _ _)
    | with_reducible apply Does.andThen (State.reportsDue_does _)
    | with_reducible apply Does.setFld
    | with_reducible apply Does.setBit
    | (rw [pageBit_cellLstat (by first | omega | decide | exact Nat.lt_of_lt_of_le (portIdx_lt _) (by decide) | exact Nat.lt_of_lt_of_le (bufIdx_lt _) (by decide) | exact Nat.lt_of_lt_of_le (b2n_lt _) (by decide) | exact Nat.lt_of_lt_of_le (Fin.isLt _) (by decide))]; decide)
    | split

theorem State.sendHpar_does (s : State) (l : LaneN) : Does 0x80 s (State.sendHpar s l) := by
  unfold State.sendHpar
  repeat' first
    | with_reducible assumption
    | with_reducible exact Does.refl _ _
    | with_reducible rfl
    | decide
    | (extract_lets +onlyGivenNames u; (with_reducible refine Does.cutAt u ?_ (fun _ => ?_); revert u; with_reducible refine Does.here ?_; rotate_left); revert u; intro _ _; rotate_right)
    | (extract_lets +onlyGivenNames u; clear_value u; revert u; intro _)
    | with_reducible apply Does.andThen Does.setLane
    | split

theorem State.startDelay_does (s : State) (l : LaneN) (attempt : Nat) : Does 0x4000080 s (State.startDelay s l attempt) := by
  unfold State.startDelay
  repeat' first
    | with_reducible assumption
    | with_reducible exact Does.refl _ _
    | with_reducible rfl
    | decide
    | (extract_lets +onlyGivenNames u; (with_reducible refine Does.cutAt u ?_ (fun _ => ?_); revert u; with_reducible refine Does.here ?_; rotate_left); revert u; intro _ _; rotate_right)
    | (extract_lets +onlyGivenNames u; clear_value u; revert u; intro _)
    | with_reducible apply Does.andThen (State.setLaneState_does _ _ _)
    | with_reducible apply Does.andThen Does.setLane
    | split

theorem State.startLocking_does (s : State) (l : LaneN) : Does 0x4000080 s (State.startLocking s l) := by
  unfold State.startLocking
  repeat' first
    | with_reducible assumption
    | with_reducible exact Does.refl _ _
    | with_reducible rfl
    | decide
    | (extract_lets +onlyGivenNames u; (with_reducible refine Does.cutAt u ?_ (fun _ => ?_); revert u; with_reducible refine Does.here ?_; rotate_left); revert u; intro _ _; rotate_right)
    | (extract_lets +onlyGivenNames u; clear_value u; revert u; intro _)
    | with_reducible apply Does.ite
    | with_reducible apply Does.andThen (State.setLaneState_does _ _ _)
    | with_reducible apply Does.andThen (State.startDelay_does _ _ _)
    | split

theorem State.dupHubs_does (s : State) : Does 0x4100084 s (State.dupHubs s) := by
  unfold State.dupHubs
  repeat' first
    | with_reducible assumption
    | with_reducible exact Does.refl _ _
    | with_reducible rfl
    | decide
    | (extract_lets +onlyGivenNames u; (with_reducible refine Does.cutAt u ?_ (fun _ => ?_); revert u; with_reducible refine Does.here ?_; rotate_left); revert u; intro _ _; rotate_right)
    | (extract_lets +onlyGivenNames u; clear_value u; revert u; intro _)
    | with_reducible apply Does.ite
    | with_reducible apply Does.each
    | with_reducible apply Does.andThen (State.laneFail_does _ _ _)
    | intro _ _ _
    | split

theorem State.laneOn_does (s : State) (l : LaneN) : Does 0x4100084 s (State.laneOn s l) := by
  unfold State.laneOn
  repeat' first
    | with_reducible assumption
    | with_reducible exact Does.refl _ _
    | with_reducible rfl
    | decide
    | (extract_lets +onlyGivenNames u; (with_reducible refine Does.cutAt u ?_ (fun _ => ?_); revert u; with_reducible refine Does.here ?_; rotate_left); revert u; intro _ _; rotate_right)
    | (extract_lets +onlyGivenNames u; clear_value u; revert u; intro _)
    | with_reducible apply Does.andThen Does.setLane
    | with_reducible apply Does.andThen (State.dupHubs_does _)
    | with_reducible apply Does.andThen (State.startLocking_does _ _)
    | with_reducible apply Does.wr
    | with_reducible apply Does.setBit
    | (rw [pageBit_cellLcfg (by first | omega | decide | exact Nat.lt_of_lt_of_le (portIdx_lt _) (by decide) | exact Nat.lt_of_lt_of_le (bufIdx_lt _) (by decide) | exact Nat.lt_of_lt_of_le (b2n_lt _) (by decide) | exact Nat.lt_of_lt_of_le (Fin.isLt _) (by decide))]; decide)
    | (rw [pageBit_cellLdly (by first | omega | decide | exact Nat.lt_of_lt_of_le (portIdx_lt _) (by decide) | exact Nat.lt_of_lt_of_le (bufIdx_lt _) (by decide) | exact Nat.lt_of_lt_of_le (b2n_lt _) (by decide) | exact Nat.lt_of_lt_of_le (Fin.isLt _) (by decide))]; decide)
    | (rw [pageBit_cellLstat (by first | omega | decide | exact Nat.lt_of_lt_of_le (portIdx_lt _) (by decide) | exact Nat.lt_of_lt_of_le (bufIdx_lt _) (by decide) | exact Nat.lt_of_lt_of_le (b2n_lt _) (by decide) | exact Nat.lt_of_lt_of_le (Fin.isLt _) (by decide))]; decide)
    | split

theorem State.laneBack_does (s : State) (l : LaneN) : Does 0x800 s (State.laneBack s l) := by
  unfold State.laneBack
  repeat' first
    | with_reducible assumption
    | with_reducible exact Does.refl _ _
    | with_reducible rfl
    | decide
    | (extract_lets +onlyGivenNames u; (with_reducible refine Does.cutAt u ?_ (fun _ => ?_); revert u; with_reducible refine Does.here ?_; rotate_left); revert u; intro _ _; rotate_right)
    | (extract_lets +onlyGivenNames u; clear_value u; revert u; intro _)
    | with_reducible apply Does.ite
    | with_reducible apply Does.andThen (State.endCause_does _ _)
    | split
    | with_reducible apply Does.andThen Does.upd_saf

theorem State.laneOff_does (s : State) (l : LaneN) : Does 0x4100884 s (State.laneOff s l) := by
  unfold State.laneOff
  repeat' first
    | with_reducible assumption
    | with_reducible exact Does.refl _ _
    | with_reducible rfl
    | decide
    | (extract_lets +onlyGivenNames u; (with_reducible refine Does.cutAt u ?_ (fun _ => ?_); revert u; with_reducible refine Does.here ?_; rotate_left); revert u; intro _ _; rotate_right)
    | (extract_lets +onlyGivenNames u; clear_value u; revert u; intro _)
    | with_reducible apply Does.andThen (State.reportsDue_does _)
    | with_reducible apply Does.andThen (State.laneBack_does _ _)
    | with_reducible apply Does.andThen (State.setLaneState_does _ _ _)
    | with_reducible apply Does.setBit
    | (rw [pageBit_cellLcfg (by first | omega | decide | exact Nat.lt_of_lt_of_le (portIdx_lt _) (by decide) | exact Nat.lt_of_lt_of_le (bufIdx_lt _) (by decide) | exact Nat.lt_of_lt_of_le (b2n_lt _) (by decide) | exact Nat.lt_of_lt_of_le (Fin.isLt _) (by decide))]; decide)
    | (rw [pageBit_cellLstat (by first | omega | decide | exact Nat.lt_of_lt_of_le (portIdx_lt _) (by decide) | exact Nat.lt_of_lt_of_le (bufIdx_lt _) (by decide) | exact Nat.lt_of_lt_of_le (b2n_lt _) (by decide) | exact Nat.lt_of_lt_of_le (Fin.isLt _) (by decide))]; decide)
    | split

theorem execLaneEnable_does (l : LaneN) (s : State) : DoesOut 0x4100084 s (execLaneEnable l s) := by
  unfold execLaneEnable
  repeat' first
    | with_reducible assumption
    | with_reducible exact Does.refl _ _
    | with_reducible rfl
    | decide
    | (extract_lets +onlyGivenNames u; (with_reducible refine DoesOut.cutAt u ?_ (fun _ => ?_); revert u; with_reducible refine Does.here ?_; rotate_left); revert u; intro _ _; rotate_right)
    | (extract_lets +onlyGivenNames u; (with_reducible refine Does.cutAt u ?_ (fun _ => ?_); revert u; with_reducible refine Does.here ?_; rotate_left); revert u; intro _ _; rotate_right)
    | (extract_lets +onlyGivenNames u; clear_value u; revert u; intro _)
    | with_reducible apply DoesOut.next
    | with_reducible apply DoesOut.ite
    | with_reducible apply Does.ite
    | with_reducible apply Does.andThen (State.laneOn_does _ _)
    | split

theorem execLaneDisable_does (l : LaneN) (s : State) : DoesOut 0x4100884 s (execLaneDisable l s) := by
  unfold execLaneDisable
  repeat' first
    | with_reducible assumption
    | with_reducible exact Does.refl _ _
    | with_reducible rfl
    | decide
    | (extract_lets +onlyGivenNames u; (with_reducible refine DoesOut.cutAt u ?_ (fun _ => ?_); revert u; with_reducible refine Does.here ?_; rotate_left); revert u; intro _ _; rotate_right)
    | (extract_lets +onlyGivenNames u; (with_reducible refine Does.cutAt u ?_ (fun _ => ?_); revert u; with_reducible refine Does.here ?_; rotate_left); revert u; intro _ _; rotate_right)
    | (extract_lets +onlyGivenNames u; clear_value u; revert u; intro _)
    | with_reducible apply DoesOut.next
    | with_reducible apply DoesOut.ite
    | with_reducible apply Does.ite
    | with_reducible apply Does.andThen (State.laneOff_does _ _)
    | split

theorem State.laneLost_does (s : State) (l : LaneN) : Does 0xc00c341ac5 s (State.laneLost s l) := by
  unfold State.laneLost
  repeat' first
    | with_reducible assumption
    | with_reducible exact Does.refl _ _
    | with_reducible rfl
    | decide
    | (extract_lets +onlyGivenNames u; (with_reducible refine Does.cutAt u ?_ (fun _ => ?_); revert u; with_reducible refine Does.here ?_; rotate_left); revert u; intro _ _; rotate_right)
    | (extract_lets +onlyGivenNames u; clear_value u; revert u; intro _)
    | with_reducible apply Does.ite
    | with_reducible apply Does.andThen (State.setLaneState_does _ _ _)
    | with_reducible apply Does.andThen (State.laneBit_does _ _ _ _ _ (by decide) (by decide))
    | with_reducible apply Does.andThen Does.setLane
    | with_reducible apply Does.andThen (State.capTrig_does _ _)
    | with_reducible apply Does.andThen (State.fire_does _ _)
    | with_reducible apply Does.andThen (State.holdCause_does _ _ _ _)
    | with_reducible apply Does.andThen (State.startLocking_does _ _)
    | with_reducible apply Does.andThen (State.reportsDue_does _)
    | with_reducible apply Does.setBit
    | split
    | with_reducible apply Does.andThen Does.upd_saf

theorem State.laneLocked_does (s : State) (l : LaneN) : Does 0x4000080 s (State.laneLocked s l) := by
  unfold State.laneLocked
  repeat' first
    | with_reducible assumption
    | with_reducible exact Does.refl _ _
    | with_reducible rfl
    | decide
    | (extract_lets +onlyGivenNames u; (with_reducible refine Does.cutAt u ?_ (fun _ => ?_); revert u; with_reducible refine Does.here ?_; rotate_left); revert u; intro _ _; rotate_right)
    | (extract_lets +onlyGivenNames u; clear_value u; revert u; intro _)
    | with_reducible apply Does.ite
    | with_reducible apply Does.andThen (State.startDelay_does _ _ _)
    | with_reducible apply Does.setBit
    | (rw [pageBit_cellLstat (by first | omega | decide | exact Nat.lt_of_lt_of_le (portIdx_lt _) (by decide) | exact Nat.lt_of_lt_of_le (bufIdx_lt _) (by decide) | exact Nat.lt_of_lt_of_le (b2n_lt _) (by decide) | exact Nat.lt_of_lt_of_le (Fin.isLt _) (by decide))]; decide)
    | split

theorem State.laneUnlocked_does (s : State) (l : LaneN) : Does 0xc00c341ac5 s (State.laneUnlocked s l) := by
  unfold State.laneUnlocked
  repeat' first
    | with_reducible assumption
    | with_reducible exact Does.refl _ _
    | with_reducible rfl
    | decide
    | (extract_lets +onlyGivenNames u; (with_reducible refine Does.cutAt u ?_ (fun _ => ?_); revert u; with_reducible refine Does.here ?_; rotate_left); revert u; intro _ _; rotate_right)
    | (extract_lets +onlyGivenNames u; clear_value u; revert u; intro _)
    | with_reducible apply Does.ite
    | with_reducible apply Does.andThen (State.laneLost_does _ _)
    | with_reducible apply Does.andThen (State.startLocking_does _ _)
    | with_reducible apply Does.setBit
    | (rw [pageBit_cellLstat (by first | omega | decide | exact Nat.lt_of_lt_of_le (portIdx_lt _) (by decide) | exact Nat.lt_of_lt_of_le (bufIdx_lt _) (by decide) | exact Nat.lt_of_lt_of_le (b2n_lt _) (by decide) | exact Nat.lt_of_lt_of_le (Fin.isLt _) (by decide))]; decide)
    | split

theorem State.badBlock_does (s : State) (l : LaneN) (t : Nat) : Does 0x4000000 s (State.badBlock s l t) := by
  unfold State.badBlock
  repeat' first
    | with_reducible assumption
    | with_reducible exact Does.refl _ _
    | with_reducible rfl
    | decide
    | (extract_lets +onlyGivenNames u; (with_reducible refine Does.cutAt u ?_ (fun _ => ?_); revert u; with_reducible refine Does.here ?_; rotate_left); revert u; intro _ _; rotate_right)
    | (extract_lets +onlyGivenNames u; clear_value u; revert u; intro _)
    | with_reducible apply Does.ite
    | with_reducible apply Does.count
    | (rw [pageBit_cellLerr (by first | omega | decide | exact Nat.lt_of_lt_of_le (portIdx_lt _) (by decide) | exact Nat.lt_of_lt_of_le (bufIdx_lt _) (by decide) | exact Nat.lt_of_lt_of_le (b2n_lt _) (by decide) | exact Nat.lt_of_lt_of_le (Fin.isLt _) (by decide))]; decide)
    | split

theorem execDecho_does (l : LaneN) (typ : Byte) (token : Byte) (turn : BitVec 16) (rtt : Nat) (s : State) : DoesOut 0x4100084 s (execDecho l typ token turn rtt s) := by
  unfold execDecho
  repeat' first
    | with_reducible assumption
    | with_reducible exact Does.refl _ _
    | with_reducible rfl
    | decide
    | (extract_lets +onlyGivenNames u; (with_reducible refine DoesOut.cutAt u ?_ (fun _ => ?_); revert u; with_reducible refine Does.here ?_; rotate_left); revert u; intro _ _; rotate_right)
    | (extract_lets +onlyGivenNames u; (with_reducible refine Does.cutAt u ?_ (fun _ => ?_); revert u; with_reducible refine Does.here ?_; rotate_left); revert u; intro _ _; rotate_right)
    | (extract_lets +onlyGivenNames u; clear_value u; revert u; intro _)
    | with_reducible apply DoesOut.next
    | with_reducible apply DoesOut.ite
    | with_reducible apply Does.ite
    | with_reducible apply Does.andThen (State.badBlock_does _ _ _)
    | with_reducible apply Does.andThen (State.setLaneState_does _ _ _)
    | with_reducible apply Does.andThen (State.sendHpar_does _ _)
    | with_reducible apply Does.andThen Does.setLane
    | with_reducible apply Does.andThen (State.startDelay_does _ _ _)
    | with_reducible apply Does.andThen (State.laneFail_does _ _ _)
    | with_reducible apply Does.wr
    | (rw [pageBit_cellLdly (by first | omega | decide | exact Nat.lt_of_lt_of_le (portIdx_lt _) (by decide) | exact Nat.lt_of_lt_of_le (bufIdx_lt _) (by decide) | exact Nat.lt_of_lt_of_le (b2n_lt _) (by decide) | exact Nat.lt_of_lt_of_le (Fin.isLt _) (by decide))]; decide)
    | split

theorem execAck_does (l : LaneN) (typ : Byte) (seq : Byte) (_hub : HubN) (result : Byte) (s : State) : DoesOut 0x4100084 s (execAck l typ seq _hub result s) := by
  unfold execAck
  repeat' first
    | with_reducible assumption
    | with_reducible exact Does.refl _ _
    | with_reducible rfl
    | decide
    | (extract_lets +onlyGivenNames u; (with_reducible refine DoesOut.cutAt u ?_ (fun _ => ?_); revert u; with_reducible refine Does.here ?_; rotate_left); revert u; intro _ _; rotate_right)
    | (extract_lets +onlyGivenNames u; (with_reducible refine Does.cutAt u ?_ (fun _ => ?_); revert u; with_reducible refine Does.here ?_; rotate_left); revert u; intro _ _; rotate_right)
    | (extract_lets +onlyGivenNames u; clear_value u; revert u; intro _)
    | with_reducible apply DoesOut.next
    | with_reducible apply DoesOut.ite
    | with_reducible apply Does.ite
    | with_reducible apply Does.andThen (State.badBlock_does _ _ _)
    | with_reducible apply Does.andThen Does.setLane
    | with_reducible apply Does.andThen (State.sendHpar_does _ _)
    | with_reducible apply Does.andThen (State.laneFail_does _ _ _)
    | with_reducible apply Does.setBit
    | split

theorem State.abandon_does (s : State) (l : LaneN) : Does 0x4000000 s (State.abandon s l) := by
  unfold State.abandon
  repeat' first
    | with_reducible assumption
    | with_reducible exact Does.refl _ _
    | with_reducible rfl
    | decide
    | (extract_lets +onlyGivenNames u; (with_reducible refine Does.cutAt u ?_ (fun _ => ?_); revert u; with_reducible refine Does.here ?_; rotate_left); revert u; intro _ _; rotate_right)
    | (extract_lets +onlyGivenNames u; clear_value u; revert u; intro _)
    | with_reducible apply Does.setBit
    | with_reducible apply Does.count
    | (rw [pageBit_cellLerr (by first | omega | decide | exact Nat.lt_of_lt_of_le (portIdx_lt _) (by decide) | exact Nat.lt_of_lt_of_le (bufIdx_lt _) (by decide) | exact Nat.lt_of_lt_of_le (b2n_lt _) (by decide) | exact Nat.lt_of_lt_of_le (Fin.isLt _) (by decide))]; decide)
    | split

theorem execAckTimeout_does (l : LaneN) (seq : Byte) (s : State) : DoesOut 0x4100084 s (execAckTimeout l seq s) := by
  unfold execAckTimeout
  repeat' first
    | with_reducible assumption
    | with_reducible exact Does.refl _ _
    | with_reducible rfl
    | decide
    | (extract_lets +onlyGivenNames u; (with_reducible refine DoesOut.cutAt u ?_ (fun _ => ?_); revert u; with_reducible refine Does.here ?_; rotate_left); revert u; intro _ _; rotate_right)
    | (extract_lets +onlyGivenNames u; (with_reducible refine Does.cutAt u ?_ (fun _ => ?_); revert u; with_reducible refine Does.here ?_; rotate_left); revert u; intro _ _; rotate_right)
    | (extract_lets +onlyGivenNames u; clear_value u; revert u; intro _)
    | with_reducible apply DoesOut.next
    | with_reducible apply DoesOut.ite
    | with_reducible apply Does.ite
    | with_reducible apply Does.andThen (State.laneFail_does _ _ _)
    | with_reducible apply Does.andThen Does.setLane
    | with_reducible apply Does.andThen (State.sendHpar_does _ _)
    | with_reducible apply Does.andThen (State.abandon_does _ _)
    | split

theorem State.storeUplink_does (s : State) (l : LaneN) (bs : List Byte) : Does 0x40400c1 s (State.storeUplink s l bs) := by
  unfold State.storeUplink
  repeat' first
    | with_reducible assumption
    | with_reducible exact Does.refl _ _
    | with_reducible rfl
    | decide
    | (extract_lets +onlyGivenNames u; (with_reducible refine Does.cutAt u ?_ (fun _ => ?_); revert u; with_reducible refine Does.here ?_; rotate_left); revert u; intro _ _; rotate_right)
    | (extract_lets +onlyGivenNames u; clear_value u; revert u; intro _)
    | with_reducible apply Does.ite
    | with_reducible apply Does.each
    | with_reducible apply Does.andThen Does.setBytes
    | with_reducible apply Does.andThen (State.recReport_does _ _ _)
    | with_reducible apply Does.andThen (State.laneBit_does _ _ _ _ _ (by decide) (by decide))
    | with_reducible apply Does.andThen Does.setLane
    | with_reducible apply Does.andThen (State.fire_does _ _)
    | with_reducible apply Does.setFld
    | with_reducible apply Does.setBit
    | (rw [pageBit_cellLstat (by first | omega | decide | exact Nat.lt_of_lt_of_le (portIdx_lt _) (by decide) | exact Nat.lt_of_lt_of_le (bufIdx_lt _) (by decide) | exact Nat.lt_of_lt_of_le (b2n_lt _) (by decide) | exact Nat.lt_of_lt_of_le (Fin.isLt _) (by decide))]; decide)
    | intro _ _ _
    | split
    | with_reducible apply Does.andThen Does.upd_cell

theorem execUplinkFrame_does (l : LaneN) (bytes : List Byte) (s : State) : DoesOut 0x41408c5 s (execUplinkFrame l bytes s) := by
  unfold execUplinkFrame
  repeat' first
    | with_reducible assumption
    | with_reducible exact Does.refl _ _
    | with_reducible rfl
    | decide
    | (extract_lets +onlyGivenNames u; (with_reducible refine DoesOut.cutAt u ?_ (fun _ => ?_); revert u; with_reducible refine Does.here ?_; rotate_left); revert u; intro _ _; rotate_right)
    | (extract_lets +onlyGivenNames u; (with_reducible refine Does.cutAt u ?_ (fun _ => ?_); revert u; with_reducible refine Does.here ?_; rotate_left); revert u; intro _ _; rotate_right)
    | (extract_lets +onlyGivenNames u; clear_value u; revert u; intro _)
    | with_reducible apply DoesOut.next
    | with_reducible apply DoesOut.ite
    | with_reducible apply Does.ite
    | with_reducible apply Does.andThen (State.laneFail_does _ _ _)
    | with_reducible apply Does.andThen (State.storeUplink_does _ _ _)
    | with_reducible apply Does.andThen (State.laneBack_does _ _)
    | with_reducible apply Does.andThen (State.setLaneState_does _ _ _)
    | with_reducible apply Does.setBit
    | with_reducible apply Does.count
    | (rw [pageBit_cellLerr (by first | omega | decide | exact Nat.lt_of_lt_of_le (portIdx_lt _) (by decide) | exact Nat.lt_of_lt_of_le (bufIdx_lt _) (by decide) | exact Nat.lt_of_lt_of_le (b2n_lt _) (by decide) | exact Nat.lt_of_lt_of_le (Fin.isLt _) (by decide))]; decide)
    | split

theorem State.hcdlSet_does (s : State) (upofs : Bool) (v : Nat) : Does 0x4000080 s (State.hcdlSet s upofs v) := by
  unfold State.hcdlSet
  repeat' first
    | with_reducible assumption
    | with_reducible exact Does.refl _ _
    | with_reducible rfl
    | decide
    | (extract_lets +onlyGivenNames u; (with_reducible refine Does.cutAt u ?_ (fun _ => ?_); revert u; with_reducible refine Does.here ?_; rotate_left); revert u; intro _ _; rotate_right)
    | (extract_lets +onlyGivenNames u; clear_value u; revert u; intro _)
    | with_reducible apply Does.ite
    | with_reducible apply Does.each
    | with_reducible apply Does.andThen Does.setLane
    | with_reducible apply Does.wr
    | intro _ _ _
    | split

theorem execHcdlWrite_does (upofs : Bool) (v : Word) (s : State) : DoesOut 0x4000080 s (execHcdlWrite upofs v s) := by
  unfold execHcdlWrite
  repeat' first
    | with_reducible assumption
    | with_reducible exact Does.refl _ _
    | with_reducible rfl
    | decide
    | (extract_lets +onlyGivenNames u; (with_reducible refine DoesOut.cutAt u ?_ (fun _ => ?_); revert u; with_reducible refine Does.here ?_; rotate_left); revert u; intro _ _; rotate_right)
    | (extract_lets +onlyGivenNames u; (with_reducible refine Does.cutAt u ?_ (fun _ => ?_); revert u; with_reducible refine Does.here ?_; rotate_left); revert u; intro _ _; rotate_right)
    | (extract_lets +onlyGivenNames u; clear_value u; revert u; intro _)
    | with_reducible apply DoesOut.next
    | with_reducible apply DoesOut.ite
    | with_reducible apply Does.ite
    | with_reducible apply Does.andThen (State.hcdlSet_does _ _ _)
    | split

theorem execRoleWrite_does (role : Bool) (s : State) : DoesOut 0x4000000 s (execRoleWrite role s) := by
  unfold execRoleWrite
  repeat' first
    | with_reducible assumption
    | with_reducible exact Does.refl _ _
    | with_reducible rfl
    | decide
    | (extract_lets +onlyGivenNames u; (with_reducible refine DoesOut.cutAt u ?_ (fun _ => ?_); revert u; with_reducible refine Does.here ?_; rotate_left); revert u; intro _ _; rotate_right)
    | (extract_lets +onlyGivenNames u; (with_reducible refine Does.cutAt u ?_ (fun _ => ?_); revert u; with_reducible refine Does.here ?_; rotate_left); revert u; intro _ _; rotate_right)
    | (extract_lets +onlyGivenNames u; clear_value u; revert u; intro _)
    | with_reducible apply DoesOut.next
    | with_reducible apply DoesOut.ite
    | with_reducible apply Does.ite
    | with_reducible apply Does.setBit
    | split

theorem State.laneMark_does (s : State) (l : LaneN) : Does 0x200080 s (State.laneMark s l) := by
  unfold State.laneMark
  repeat' first
    | with_reducible assumption
    | with_reducible exact Does.refl _ _
    | with_reducible rfl
    | decide
    | (extract_lets +onlyGivenNames u; (with_reducible refine Does.cutAt u ?_ (fun _ => ?_); revert u; with_reducible refine Does.here ?_; rotate_left); revert u; intro _ _; rotate_right)
    | (extract_lets +onlyGivenNames u; clear_value u; revert u; intro _)
    | with_reducible apply Does.ite
    | with_reducible apply Does.iteSnd
    | with_reducible apply Does.iteFst
    | with_reducible apply Does.andThen Does.freeWord
    | with_reducible apply Does.andThen Does.setLane
    | (split <;> (rename_i h; refine Does.cutSnd h ?_ (fun _ => ?_) <;> clear h))
    | (split <;> (rename_i h; refine Does.cutFst h ?_ (fun _ => ?_) <;> clear h))
    | split

theorem State.linkMark_does (s : State) : Does 0x4200080 s (State.linkMark s) := by
  unfold State.linkMark
  repeat' first
    | with_reducible assumption
    | with_reducible exact Does.refl _ _
    | with_reducible rfl
    | decide
    | (extract_lets +onlyGivenNames u; (with_reducible refine Does.cutAt u ?_ (fun _ => ?_); revert u; with_reducible refine Does.here ?_; rotate_left); revert u; intro _ _; rotate_right)
    | (extract_lets +onlyGivenNames u; clear_value u; revert u; intro _)
    | with_reducible apply Does.each
    | with_reducible apply Does.andThen (State.laneMark_does _ _)
    | with_reducible apply Does.wr
    | intro _ _ _
    | split

theorem State.linkFixDeadline_does (s : State) : Does 0xc00c341ac5 s (State.linkFixDeadline s) := by
  unfold State.linkFixDeadline
  repeat' first
    | with_reducible assumption
    | with_reducible exact Does.refl _ _
    | with_reducible rfl
    | decide
    | (extract_lets +onlyGivenNames u; (with_reducible refine Does.cutAt u ?_ (fun _ => ?_); revert u; with_reducible refine Does.here ?_; rotate_left); revert u; intro _ _; rotate_right)
    | (extract_lets +onlyGivenNames u; clear_value u; revert u; intro _)
    | with_reducible apply Does.ite
    | with_reducible apply Does.each
    | with_reducible apply Does.andThen Does.setLane
    | with_reducible apply Does.andThen (State.laneLost_does _ _)
    | intro _ _ _
    | split

theorem State.linkCommitDeadline_does (s : State) : Does 0x40000c0 s (State.linkCommitDeadline s) := by
  unfold State.linkCommitDeadline
  repeat' first
    | with_reducible assumption
    | with_reducible exact Does.refl _ _
    | with_reducible rfl
    | decide
    | (extract_lets +onlyGivenNames u; (with_reducible refine Does.cutAt u ?_ (fun _ => ?_); revert u; with_reducible refine Does.here ?_; rotate_left); revert u; intro _ _; rotate_right)
    | (extract_lets +onlyGivenNames u; clear_value u; revert u; intro _)
    | with_reducible apply Does.ite
    | with_reducible apply Does.each
    | with_reducible apply Does.andThen Does.setLane
    | with_reducible apply Does.andThen (State.abandon_does _ _)
    | with_reducible apply Does.setBit
    | intro _ _ _
    | split
    | with_reducible apply Does.andThen Does.upd_cell

end Sys2Proof.Machine
end

