-- ==== Sys2Proof/Laws/DoesHubs.lean ====
section
/-!
SUPPORT. What each operation of Sys2Proof/Machine/Hubs.lean can do (see Sys2Proof/Laws/Does.lean).
-/
namespace Sys2Proof.Machine
set_option linter.all false
set_option linter.tactic.unusedName false
theorem execHubDownlinkFrame_does (h : HubN) (portB : Bool) (bytes : List Byte) (tNs : Nat) (s : State) : DoesOut 0x100 s (execHubDownlinkFrame h portB bytes tNs s) := by
  unfold execHubDownlinkFrame
  repeat' first
    | with_reducible assumption
    | with_reducible exact Does.refl _ _
    | with_reducible rfl
    | decide
    | (extract_lets +onlyGivenNames u; (with_reducible refine DoesOut.cutAt u ?_ (fun _ => ?_); revert u; with_reducible refine Does.here ?_; rotate_left); revert u; intro _ _; rotate_right)
    | (extract_lets +onlyGivenNames u; (with_reducible refine Does.cutAt u ?_ (fun _ => ?_); revert u; with_reducible refine Does.here ?_; rotate_left); revert u; intro _ _; rotate_right)
    | (extract_lets +onlyGivenNames u; clear_value u; revert u; intro _)
    | with_reducible apply DoesOut.next
    | with_reducible apply DoesOut.ite
    | with_reducible apply Does.ite
    | with_reducible apply Does.andThen Does.setHub
    | split

theorem execHubMarkBlock_does (h : HubN) (portB : Bool) (pcnt : BitVec 16) (_ofs : BitVec 7) (role : Bool) (len : BitVec 24) (s : State) : DoesOut 0x100 s (execHubMarkBlock h portB pcnt _ofs role len s) := by
  unfold execHubMarkBlock
  repeat' first
    | with_reducible assumption
    | with_reducible exact Does.refl _ _
    | with_reducible rfl
    | decide
    | (extract_lets +onlyGivenNames u; (with_reducible refine DoesOut.cutAt u ?_ (fun _ => ?_); revert u; with_reducible refine Does.here ?_; rotate_left); revert u; intro _ _; rotate_right)
    | (extract_lets +onlyGivenNames u; (with_reducible refine Does.cutAt u ?_ (fun _ => ?_); revert u; with_reducible refine Does.here ?_; rotate_left); revert u; intro _ _; rotate_right)
    | (extract_lets +onlyGivenNames u; clear_value u; revert u; intro _)
    | with_reducible apply DoesOut.next
    | with_reducible apply DoesOut.ite
    | with_reducible apply Does.ite
    | with_reducible apply Does.andThen Does.setHub
    | split

theorem execHubMarkAbsent_does (h : HubN) (s : State) : DoesOut 0x100 s (execHubMarkAbsent h s) := by
  unfold execHubMarkAbsent
  repeat' first
    | with_reducible assumption
    | with_reducible exact Does.refl _ _
    | with_reducible rfl
    | decide
    | (extract_lets +onlyGivenNames u; (with_reducible refine DoesOut.cutAt u ?_ (fun _ => ?_); revert u; with_reducible refine Does.here ?_; rotate_left); revert u; intro _ _; rotate_right)
    | (extract_lets +onlyGivenNames u; (with_reducible refine Does.cutAt u ?_ (fun _ => ?_); revert u; with_reducible refine Does.here ?_; rotate_left); revert u; intro _ _; rotate_right)
    | (extract_lets +onlyGivenNames u; clear_value u; revert u; intro _)
    | with_reducible apply DoesOut.next
    | with_reducible apply DoesOut.ite
    | with_reducible apply Does.ite
    | with_reducible apply Does.andThen Does.setHub
    | split

theorem execHubMark_does (h : HubN) (samples : List Sample) (s : State) : DoesOut 0x100 s (execHubMark h samples s) := by
  unfold execHubMark
  repeat' first
    | with_reducible assumption
    | with_reducible exact Does.refl _ _
    | with_reducible rfl
    | decide
    | (extract_lets +onlyGivenNames u; (with_reducible refine DoesOut.cutAt u ?_ (fun _ => ?_); revert u; with_reducible refine Does.here ?_; rotate_left); revert u; intro _ _; rotate_right)
    | (extract_lets +onlyGivenNames u; (with_reducible refine Does.cutAt u ?_ (fun _ => ?_); revert u; with_reducible refine Does.here ?_; rotate_left); revert u; intro _ _; rotate_right)
    | (extract_lets +onlyGivenNames u; clear_value u; revert u; intro _)
    | with_reducible apply DoesOut.next
    | with_reducible apply DoesOut.ite
    | with_reducible apply Does.ite
    | with_reducible apply Does.andThen Does.setHub
    | split

theorem execHubUplink_does (h : HubN) (portB : Bool) (supply : Bool) (s : State) : DoesOut 0x100 s (execHubUplink h portB supply s) := by
  unfold execHubUplink
  repeat' first
    | with_reducible assumption
    | with_reducible exact Does.refl _ _
    | with_reducible rfl
    | decide
    | (extract_lets +onlyGivenNames u; (with_reducible refine DoesOut.cutAt u ?_ (fun _ => ?_); revert u; with_reducible refine Does.here ?_; rotate_left); revert u; intro _ _; rotate_right)
    | (extract_lets +onlyGivenNames u; (with_reducible refine Does.cutAt u ?_ (fun _ => ?_); revert u; with_reducible refine Does.here ?_; rotate_left); revert u; intro _ _; rotate_right)
    | (extract_lets +onlyGivenNames u; clear_value u; revert u; intro _)
    | with_reducible apply DoesOut.next
    | with_reducible apply DoesOut.ite
    | with_reducible apply Does.ite
    | with_reducible apply Does.andThen Does.setHub
    | split

theorem execHubDreq_does (h : HubN) (portB : Bool) (typ : Byte) (token : Byte) (turn : BitVec 16) (s : State) : DoesOut 0x100 s (execHubDreq h portB typ token turn s) := by
  unfold execHubDreq
  repeat' first
    | with_reducible assumption
    | with_reducible exact Does.refl _ _
    | with_reducible rfl
    | decide
    | (extract_lets +onlyGivenNames u; (with_reducible refine DoesOut.cutAt u ?_ (fun _ => ?_); revert u; with_reducible refine Does.here ?_; rotate_left); revert u; intro _ _; rotate_right)
    | (extract_lets +onlyGivenNames u; (with_reducible refine Does.cutAt u ?_ (fun _ => ?_); revert u; with_reducible refine Does.here ?_; rotate_left); revert u; intro _ _; rotate_right)
    | (extract_lets +onlyGivenNames u; clear_value u; revert u; intro _)
    | with_reducible apply DoesOut.next
    | with_reducible apply DoesOut.ite
    | with_reducible apply Does.ite
    | with_reducible apply Does.andThen Does.setHub
    | split

theorem execHubUnconfigure_does (h : HubN) (s : State) : DoesOut 0x100 s (execHubUnconfigure h s) := by
  unfold execHubUnconfigure
  repeat' first
    | with_reducible assumption
    | with_reducible exact Does.refl _ _
    | with_reducible rfl
    | decide
    | (extract_lets +onlyGivenNames u; (with_reducible refine DoesOut.cutAt u ?_ (fun _ => ?_); revert u; with_reducible refine Does.here ?_; rotate_left); revert u; intro _ _; rotate_right)
    | (extract_lets +onlyGivenNames u; (with_reducible refine Does.cutAt u ?_ (fun _ => ?_); revert u; with_reducible refine Does.here ?_; rotate_left); revert u; intro _ _; rotate_right)
    | (extract_lets +onlyGivenNames u; clear_value u; revert u; intro _)
    | with_reducible apply DoesOut.next
    | with_reducible apply DoesOut.ite
    | with_reducible apply Does.ite
    | with_reducible apply Does.andThen Does.setHub
    | split

theorem execHubPowerUp_does (h : HubN) (dual : Bool) (s : State) : DoesOut 0x100 s (execHubPowerUp h dual s) := by
  unfold execHubPowerUp
  repeat' first
    | with_reducible assumption
    | with_reducible exact Does.refl _ _
    | with_reducible rfl
    | decide
    | (extract_lets +onlyGivenNames u; (with_reducible refine DoesOut.cutAt u ?_ (fun _ => ?_); revert u; with_reducible refine Does.here ?_; rotate_left); revert u; intro _ _; rotate_right)
    | (extract_lets +onlyGivenNames u; (with_reducible refine Does.cutAt u ?_ (fun _ => ?_); revert u; with_reducible refine Does.here ?_; rotate_left); revert u; intro _ _; rotate_right)
    | (extract_lets +onlyGivenNames u; clear_value u; revert u; intro _)
    | with_reducible apply DoesOut.next
    | with_reducible apply DoesOut.ite
    | with_reducible apply Does.ite
    | with_reducible apply Does.andThen Does.setHub
    | split

end Sys2Proof.Machine
end

