-- ==== Sys2Proof/Laws/DoesArray.lean ====
section
/-!
SUPPORT. What each operation of Sys2Proof/Machine/Array.lean can do (see Sys2Proof/Laws/Does.lean).
-/
namespace Sys2Proof.Machine
set_option linter.all false
set_option linter.tactic.unusedName false
theorem State.setPhase_does (s : State) (p : Slot) (ph : Nat) : Does 0x1000000 s (State.setPhase s p ph) := by
  unfold State.setPhase
  repeat' first
    | with_reducible assumption
    | with_reducible exact Does.refl _ _
    | with_reducible rfl
    | decide
    | (extract_lets +onlyGivenNames u; (with_reducible refine Does.cutAt u ?_ (fun _ => ?_); revert u; with_reducible refine Does.here ?_; rotate_left); revert u; intro _ _; rotate_right)
    | (extract_lets +onlyGivenNames u; clear_value u; revert u; intro _)
    | with_reducible apply Does.setFld
    | with_reducible apply Does.setBit
    | (rw [pageBit_srchPstat (by first | omega | decide | exact Nat.lt_of_lt_of_le (portIdx_lt _) (by decide) | exact Nat.lt_of_lt_of_le (bufIdx_lt _) (by decide) | exact Nat.lt_of_lt_of_le (b2n_lt _) (by decide) | exact Nat.lt_of_lt_of_le (Fin.isLt _) (by decide))]; decide)
    | split

theorem State.syncInc_does (s : State) (p : Slot) : Does 0x1000000 s (State.syncInc s p) := by
  unfold State.syncInc
  repeat' first
    | with_reducible assumption
    | with_reducible exact Does.refl _ _
    | with_reducible rfl
    | decide
    | (extract_lets +onlyGivenNames u; (with_reducible refine Does.cutAt u ?_ (fun _ => ?_); revert u; with_reducible refine Does.here ?_; rotate_left); revert u; intro _ _; rotate_right)
    | (extract_lets +onlyGivenNames u; clear_value u; revert u; intro _)
    | with_reducible apply Does.setBit
    | (rw [pageBit_srchPstat (by first | omega | decide | exact Nat.lt_of_lt_of_le (portIdx_lt _) (by decide) | exact Nat.lt_of_lt_of_le (bufIdx_lt _) (by decide) | exact Nat.lt_of_lt_of_le (b2n_lt _) (by decide) | exact Nat.lt_of_lt_of_le (Fin.isLt _) (by decide))]; decide)
    | split

theorem State.writePt_does (s : State) (p : Slot) (vstat : Nat) (rho : Nat) (perr : Nat) (u : Leg) (age : Nat) : Does 0x1 s (State.writePt s p vstat rho perr u age) := by
  unfold State.writePt
  repeat' first
    | with_reducible assumption
    | with_reducible exact Does.refl _ _
    | with_reducible rfl
    | decide
    | (extract_lets +onlyGivenNames u; (with_reducible refine Does.cutAt u ?_ (fun _ => ?_); revert u; with_reducible refine Does.here ?_; rotate_left); revert u; intro _ _; rotate_right)
    | (extract_lets +onlyGivenNames u; clear_value u; revert u; intro _)
    | with_reducible apply Does.andThen Does.setWord
    | split

theorem State.showAvail_does (s : State) (t : Table) : Does 0x4000000 s (State.showAvail s t) := by
  unfold State.showAvail
  repeat' first
    | with_reducible assumption
    | with_reducible exact Does.refl _ _
    | with_reducible rfl
    | decide
    | (extract_lets +onlyGivenNames u; (with_reducible refine Does.cutAt u ?_ (fun _ => ?_); revert u; with_reducible refine Does.here ?_; rotate_left); revert u; intro _ _; rotate_right)
    | (extract_lets +onlyGivenNames u; clear_value u; revert u; intro _)
    | with_reducible apply Does.each
    | with_reducible apply Does.setFld
    | (rw [pageBit_cellAstat trivial]; decide)
    | intro _ _ _
    | split

theorem State.plantRoot_does (s : State) (p : Slot) (q : Problem) : Does 0xc s (State.plantRoot s p q) := by
  unfold State.plantRoot
  repeat' first
    | with_reducible assumption
    | with_reducible exact Does.refl _ _
    | with_reducible rfl
    | decide
    | (extract_lets +onlyGivenNames u; (with_reducible refine Does.cutAt u ?_ (fun _ => ?_); revert u; with_reducible refine Does.here ?_; rotate_left); revert u; intro _ _; rotate_right)
    | (extract_lets +onlyGivenNames u; clear_value u; revert u; intro _)
    | with_reducible apply Does.ite
    | with_reducible apply Does.each
    | with_reducible apply Does.andThen Does.setProb
    | with_reducible apply Does.andThen Does.setCl
    | intro _ _ _
    | split

theorem State.applyStalled_does (s : State) (p : Slot) : Does 0x80000000005 s (State.applyStalled s p) := by
  unfold State.applyStalled
  repeat' first
    | with_reducible assumption
    | with_reducible exact Does.refl _ _
    | with_reducible rfl
    | decide
    | (extract_lets +onlyGivenNames u; (with_reducible refine Does.cutAt u ?_ (fun _ => ?_); revert u; with_reducible refine Does.here ?_; rotate_left); revert u; intro _ _; rotate_right)
    | (extract_lets +onlyGivenNames u; clear_value u; revert u; intro _)
    | with_reducible apply Does.each
    | with_reducible apply Does.andThen Does.setProb
    | with_reducible apply Does.andThen Does.sramPut
    | intro _ _ _
    | split

theorem State.closeWith_does (s : State) (p : Slot) (code : Nat) (fc : Nat) : Does 0x1000004 s (State.closeWith s p code fc) := by
  unfold State.closeWith
  repeat' first
    | with_reducible assumption
    | with_reducible exact Does.refl _ _
    | with_reducible rfl
    | decide
    | (extract_lets +onlyGivenNames u; (with_reducible refine Does.cutAt u ?_ (fun _ => ?_); revert u; with_reducible refine Does.here ?_; rotate_left); revert u; intro _ _; rotate_right)
    | (extract_lets +onlyGivenNames u; clear_value u; revert u; intro _)
    | with_reducible apply Does.andThen Does.setProb
    | with_reducible apply Does.andThen (State.setPhase_does _ _ _)
    | with_reducible apply Does.setFld
    | (rw [pageBit_srchPstat (by first | omega | decide | exact Nat.lt_of_lt_of_le (portIdx_lt _) (by decide) | exact Nat.lt_of_lt_of_le (bufIdx_lt _) (by decide) | exact Nat.lt_of_lt_of_le (b2n_lt _) (by decide) | exact Nat.lt_of_lt_of_le (Fin.isLt _) (by decide))]; decide)
    | split

theorem State.endWithout_does (s : State) (p : Slot) (code : Nat) : Does 0x1000004 s (State.endWithout s p code) := by
  unfold State.endWithout
  repeat' first
    | with_reducible assumption
    | with_reducible exact Does.refl _ _
    | with_reducible rfl
    | decide
    | (extract_lets +onlyGivenNames u; (with_reducible refine Does.cutAt u ?_ (fun _ => ?_); revert u; with_reducible refine Does.here ?_; rotate_left); revert u; intro _ _; rotate_right)
    | (extract_lets +onlyGivenNames u; clear_value u; revert u; intro _)
    | with_reducible apply Does.andThen Does.setProb
    | with_reducible apply Does.andThen (State.setPhase_does _ _ _)
    | with_reducible apply Does.setFld
    | (rw [pageBit_srchPstat (by first | omega | decide | exact Nat.lt_of_lt_of_le (portIdx_lt _) (by decide) | exact Nat.lt_of_lt_of_le (bufIdx_lt _) (by decide) | exact Nat.lt_of_lt_of_le (b2n_lt _) (by decide) | exact Nat.lt_of_lt_of_le (Fin.isLt _) (by decide))]; decide)
    | split

theorem State.latchDone_does (s : State) (p : Slot) : Does 0x8000b84020d s (State.latchDone s p) := by
  unfold State.latchDone
  repeat' first
    | with_reducible assumption
    | with_reducible exact Does.refl _ _
    | with_reducible rfl
    | decide
    | (extract_lets +onlyGivenNames u; (with_reducible refine Does.cutAt u ?_ (fun _ => ?_); revert u; with_reducible refine Does.here ?_; rotate_left); revert u; intro _ _; rotate_right)
    | (extract_lets +onlyGivenNames u; clear_value u; revert u; intro _)
    | with_reducible apply Does.ite
    | with_reducible apply Does.each
    | with_reducible apply Does.andThen (State.writePt_does _ _ _ _ _ _ _)
    | with_reducible apply Does.andThen (State.miss_does _ _ _)
    | with_reducible apply Does.andThen (State.endWithout_does _ _ _)
    | with_reducible apply Does.andThen Does.setProb
    | with_reducible apply Does.andThen (State.plantRoot_does _ _ _)
    | with_reducible apply Does.andThen Does.setCl
    | with_reducible apply Does.andThen (State.setPhase_does _ _ _)
    | with_reducible apply Does.andThen (State.closeWith_does _ _ _ _)
    | with_reducible apply Does.andThen (State.applyStalled_does _ _)
    | with_reducible apply Does.count
    | intro _ _ _
    | split

theorem State.noteSlot_does (s : State) (p : Slot) (ue : Option (BitVec 16)) : Does 0x80000000000 s (State.noteSlot s p ue) := by
  unfold State.noteSlot
  repeat' first
    | with_reducible assumption
    | with_reducible exact Does.refl _ _
    | with_reducible rfl
    | decide
    | (extract_lets +onlyGivenNames u; (with_reducible refine Does.cutAt u ?_ (fun _ => ?_); revert u; with_reducible refine Does.here ?_; rotate_left); revert u; intro _ _; rotate_right)
    | (extract_lets +onlyGivenNames u; clear_value u; revert u; intro _)
    | with_reducible apply Does.andThen Does.setBad
    | split

theorem State.dataFault_does (s : State) (p : Slot) : Does 0x984020c s (State.dataFault s p) := by
  unfold State.dataFault
  repeat' first
    | with_reducible assumption
    | with_reducible exact Does.refl _ _
    | with_reducible rfl
    | decide
    | (extract_lets +onlyGivenNames u; (with_reducible refine Does.cutAt u ?_ (fun _ => ?_); revert u; with_reducible refine Does.here ?_; rotate_left); revert u; intro _ _; rotate_right)
    | (extract_lets +onlyGivenNames u; clear_value u; revert u; intro _)
    | with_reducible apply Does.ite
    | with_reducible apply Does.each
    | with_reducible apply Does.andThen Does.setProb
    | with_reducible apply Does.andThen Does.setCl
    | with_reducible apply Does.andThen (State.miss_does _ _ _)
    | with_reducible apply Does.andThen (State.capTrig_does _ _)
    | with_reducible apply Does.andThen (State.fire_does _ _)
    | with_reducible apply Does.andThen (State.syncInc_does _ _)
    | with_reducible apply Does.andThen (State.endWithout_does _ _ _)
    | intro _ _ _
    | split

theorem execLatch_does (p : Slot) (ue : Option (BitVec 16)) (s : State) : DoesOut 0x8000b84020d s (execLatch p ue s) := by
  unfold execLatch
  repeat' first
    | with_reducible assumption
    | with_reducible exact Does.refl _ _
    | with_reducible rfl
    | decide
    | (extract_lets +onlyGivenNames u; (with_reducible refine DoesOut.cutAt u ?_ (fun _ => ?_); revert u; with_reducible refine Does.here ?_; rotate_left); revert u; intro _ _; rotate_right)
    | (extract_lets +onlyGivenNames u; (with_reducible refine Does.cutAt u ?_ (fun _ => ?_); revert u; with_reducible refine Does.here ?_; rotate_left); revert u; intro _ _; rotate_right)
    | (extract_lets +onlyGivenNames u; clear_value u; revert u; intro _)
    | with_reducible apply DoesOut.next
    | with_reducible apply DoesOut.ite
    | with_reducible apply Does.ite
    | with_reducible apply Does.andThen (State.noteSlot_does _ _ _)
    | with_reducible apply Does.andThen (State.applyStalled_does _ _)
    | with_reducible apply Does.andThen (State.dataFault_does _ _)
    | with_reducible apply Does.andThen (State.latchDone_does _ _)
    | split

theorem State.startLatch_does (s : State) (p : Slot) (byMark : Bool) (now : Nat) : Does 0x5000004 s (State.startLatch s p byMark now) := by
  unfold State.startLatch
  repeat' first
    | with_reducible assumption
    | with_reducible exact Does.refl _ _
    | with_reducible rfl
    | decide
    | (extract_lets +onlyGivenNames u; (with_reducible refine Does.cutAt u ?_ (fun _ => ?_); revert u; with_reducible refine Does.here ?_; rotate_left); revert u; intro _ _; rotate_right)
    | (extract_lets +onlyGivenNames u; clear_value u; revert u; intro _)
    | with_reducible apply Does.ite
    | with_reducible apply Does.andThen Does.setProb
    | with_reducible apply Does.andThen (State.setPhase_does _ _ _)
    | with_reducible apply Does.andThen (State.showAvail_does _ _)
    | split

theorem State.launchReq_does (s : State) (p : Slot) : Does 0x5000004 s (State.launchReq s p) := by
  unfold State.launchReq
  repeat' first
    | with_reducible assumption
    | with_reducible exact Does.refl _ _
    | with_reducible rfl
    | decide
    | (extract_lets +onlyGivenNames u; (with_reducible refine Does.cutAt u ?_ (fun _ => ?_); revert u; with_reducible refine Does.here ?_; rotate_left); revert u; intro _ _; rotate_right)
    | (extract_lets +onlyGivenNames u; clear_value u; revert u; intro _)
    | with_reducible apply Does.ite
    | with_reducible apply Does.andThen Does.setProb
    | with_reducible apply Does.andThen (State.startLatch_does _ _ _ _)
    | with_reducible apply Does.setBit
    | split

theorem execLaunch_does (p : Slot) (now : Nat) (s : State) : DoesOut 0x5040006 s (execLaunch p now s) := by
  unfold execLaunch
  repeat' first
    | with_reducible assumption
    | with_reducible exact Does.refl _ _
    | with_reducible rfl
    | decide
    | (extract_lets +onlyGivenNames u; (with_reducible refine DoesOut.cutAt u ?_ (fun _ => ?_); revert u; with_reducible refine Does.here ?_; rotate_left); revert u; intro _ _; rotate_right)
    | (extract_lets +onlyGivenNames u; (with_reducible refine Does.cutAt u ?_ (fun _ => ?_); revert u; with_reducible refine Does.here ?_; rotate_left); revert u; intro _ _; rotate_right)
    | (extract_lets +onlyGivenNames u; clear_value u; revert u; intro _)
    | with_reducible apply DoesOut.next
    | with_reducible apply DoesOut.ite
    | with_reducible apply Does.ite
    | with_reducible apply Does.andThen (State.launchReq_does _ _)
    | with_reducible apply Does.andThen (State.did_does _ _)
    | with_reducible apply Does.andThen (State.tellNow_does _ _)
    | split

theorem State.stage1Next_does (s : State) (p : Slot) : Does 0x4 s (State.stage1Next s p) := by
  unfold State.stage1Next
  repeat' first
    | with_reducible assumption
    | with_reducible exact Does.refl _ _
    | with_reducible rfl
    | decide
    | (extract_lets +onlyGivenNames u; (with_reducible refine Does.cutAt u ?_ (fun _ => ?_); revert u; with_reducible refine Does.here ?_; rotate_left); revert u; intro _ _; rotate_right)
    | (extract_lets +onlyGivenNames u; clear_value u; revert u; intro _)
    | with_reducible apply Does.ite
    | with_reducible apply Does.andThen Does.setProb
    | split

theorem State.landBatch_does (s : State) (p : Slot) (c : Cl) (b : Batch) : Does 0x100000c s (State.landBatch s p c b) := by
  unfold State.landBatch
  repeat' first
    | with_reducible assumption
    | with_reducible exact Does.refl _ _
    | with_reducible rfl
    | decide
    | (extract_lets +onlyGivenNames u; (with_reducible refine Does.cutAt u ?_ (fun _ => ?_); revert u; with_reducible refine Does.here ?_; rotate_left); revert u; intro _ _; rotate_right)
    | (extract_lets +onlyGivenNames u; clear_value u; revert u; intro _)
    | with_reducible apply Does.ite
    | with_reducible apply Does.andThen Does.setCl
    | with_reducible apply Does.andThen Does.setProb
    | with_reducible apply Does.andThen (State.syncInc_does _ _)
    | with_reducible apply Does.andThen (State.stage1Next_does _ _)
    | with_reducible apply Does.setBit
    | split

theorem execBatchIssue_does (c : Cl) (s : State) : DoesOut 0xc s (execBatchIssue c s) := by
  unfold execBatchIssue
  repeat' first
    | with_reducible assumption
    | with_reducible exact Does.refl _ _
    | with_reducible rfl
    | decide
    | (extract_lets +onlyGivenNames u; (with_reducible refine DoesOut.cutAt u ?_ (fun _ => ?_); revert u; with_reducible refine Does.here ?_; rotate_left); revert u; intro _ _; rotate_right)
    | (extract_lets +onlyGivenNames u; (with_reducible refine Does.cutAt u ?_ (fun _ => ?_); revert u; with_reducible refine Does.here ?_; rotate_left); revert u; intro _ _; rotate_right)
    | (extract_lets +onlyGivenNames u; clear_value u; revert u; intro _)
    | with_reducible apply DoesOut.next
    | with_reducible apply DoesOut.ite
    | with_reducible apply Does.ite
    | with_reducible apply Does.andThen (State.stage1Next_does _ _)
    | with_reducible apply Does.andThen Does.setCl
    | with_reducible apply Does.andThen Does.setProb
    | split

theorem execRefinedBound_does (c : Cl) (i : Nat) (s : State) : DoesOut 0x8 s (execRefinedBound c i s) := by
  unfold execRefinedBound
  repeat' first
    | with_reducible assumption
    | with_reducible exact Does.refl _ _
    | with_reducible rfl
    | decide
    | (extract_lets +onlyGivenNames u; (with_reducible refine DoesOut.cutAt u ?_ (fun _ => ?_); revert u; with_reducible refine Does.here ?_; rotate_left); revert u; intro _ _; rotate_right)
    | (extract_lets +onlyGivenNames u; (with_reducible refine Does.cutAt u ?_ (fun _ => ?_); revert u; with_reducible refine Does.here ?_; rotate_left); revert u; intro _ _; rotate_right)
    | (extract_lets +onlyGivenNames u; clear_value u; revert u; intro _)
    | with_reducible apply DoesOut.next
    | with_reducible apply DoesOut.ite
    | with_reducible apply Does.ite
    | with_reducible apply Does.andThen Does.setCl
    | split

theorem State.offerSeed_does (s : State) (p : Slot) (c : Course) (src : Nat) : Does 0x100000c s (State.offerSeed s p c src).1 := by
  unfold State.offerSeed
  repeat' first
    | with_reducible assumption
    | with_reducible exact Does.refl _ _
    | with_reducible rfl
    | decide
    | (extract_lets +onlyGivenNames u; (with_reducible refine Does.cutAt u ?_ (fun _ => ?_); revert u; with_reducible refine Does.here ?_; rotate_left); revert u; intro _ _; rotate_right)
    | (extract_lets +onlyGivenNames u; clear_value u; revert u; intro _)
    | with_reducible apply Does.iteSnd
    | with_reducible apply Does.iteFst
    | with_reducible apply Does.each
    | with_reducible apply Does.andThen Does.setCl
    | with_reducible apply Does.andThen Does.setProb
    | with_reducible apply Does.andThen (State.syncInc_does _ _)
    | (split <;> (rename_i h; refine Does.cutSnd h ?_ (fun _ => ?_) <;> clear h))
    | (split <;> (rename_i h; refine Does.cutFst h ?_ (fun _ => ?_) <;> clear h))
    | intro _ _ _
    | split

theorem execShiftedSeedOffer_does (p : Slot) (s : State) : DoesOut 0x100000c s (execShiftedSeedOffer p s) := by
  unfold execShiftedSeedOffer
  repeat' first
    | with_reducible assumption
    | with_reducible exact Does.refl _ _
    | with_reducible rfl
    | decide
    | (extract_lets +onlyGivenNames u; (with_reducible refine DoesOut.cutAt u ?_ (fun _ => ?_); revert u; with_reducible refine Does.here ?_; rotate_left); revert u; intro _ _; rotate_right)
    | (extract_lets +onlyGivenNames u; (with_reducible refine Does.cutAt u ?_ (fun _ => ?_); revert u; with_reducible refine Does.here ?_; rotate_left); revert u; intro _ _; rotate_right)
    | (extract_lets +onlyGivenNames u; clear_value u; revert u; intro _)
    | with_reducible apply DoesOut.next
    | with_reducible apply DoesOut.ite
    | with_reducible apply Does.ite
    | with_reducible apply Does.iteSnd
    | with_reducible apply Does.iteFst
    | with_reducible apply Does.andThen (State.offerSeed_does _ _ _ _)
    | with_reducible apply Does.andThen Does.setProb
    | (split <;> (rename_i h; refine DoesOut.cutSnd h ?_ (fun _ => ?_) <;> clear h))
    | (split <;> (rename_i h; refine DoesOut.cutFst h ?_ (fun _ => ?_) <;> clear h))
    | (split <;> (rename_i h; refine Does.cutSnd h ?_ (fun _ => ?_) <;> clear h))
    | (split <;> (rename_i h; refine Does.cutFst h ?_ (fun _ => ?_) <;> clear h))
    | split

theorem execChartSeedOffer_does (p : Slot) (s : State) : DoesOut 0x100000c s (execChartSeedOffer p s) := by
  unfold execChartSeedOffer
  repeat' first
    | with_reducible assumption
    | with_reducible exact Does.refl _ _
    | with_reducible rfl
    | decide
    | (extract_lets +onlyGivenNames u; (with_reducible refine DoesOut.cutAt u ?_ (fun _ => ?_); revert u; with_reducible refine Does.here ?_; rotate_left); revert u; intro _ _; rotate_right)
    | (extract_lets +onlyGivenNames u; (with_reducible refine Does.cutAt u ?_ (fun _ => ?_); revert u; with_reducible refine Does.here ?_; rotate_left); revert u; intro _ _; rotate_right)
    | (extract_lets +onlyGivenNames u; clear_value u; revert u; intro _)
    | with_reducible apply DoesOut.next
    | with_reducible apply DoesOut.ite
    | with_reducible apply Does.ite
    | with_reducible apply Does.iteSnd
    | with_reducible apply Does.iteFst
    | with_reducible apply Does.andThen (State.offerSeed_does _ _ _ _)
    | with_reducible apply Does.andThen Does.setProb
    | (split <;> (rename_i h; refine DoesOut.cutSnd h ?_ (fun _ => ?_) <;> clear h))
    | (split <;> (rename_i h; refine DoesOut.cutFst h ?_ (fun _ => ?_) <;> clear h))
    | (split <;> (rename_i h; refine Does.cutSnd h ?_ (fun _ => ?_) <;> clear h))
    | (split <;> (rename_i h; refine Does.cutFst h ?_ (fun _ => ?_) <;> clear h))
    | split

theorem execChartStep_does (p : Slot) (now : Nat) (s : State) : DoesOut 0x6 s (execChartStep p now s) := by
  unfold execChartStep
  repeat' first
    | with_reducible assumption
    | with_reducible exact Does.refl _ _
    | with_reducible rfl
    | decide
    | (extract_lets +onlyGivenNames u; (with_reducible refine DoesOut.cutAt u ?_ (fun _ => ?_); revert u; with_reducible refine Does.here ?_; rotate_left); revert u; intro _ _; rotate_right)
    | (extract_lets +onlyGivenNames u; (with_reducible refine Does.cutAt u ?_ (fun _ => ?_); revert u; with_reducible refine Does.here ?_; rotate_left); revert u; intro _ _; rotate_right)
    | (extract_lets +onlyGivenNames u; clear_value u; revert u; intro _)
    | with_reducible apply DoesOut.next
    | with_reducible apply DoesOut.ite
    | with_reducible apply Does.ite
    | with_reducible apply Does.andThen Does.setProb
    | with_reducible apply Does.andThen (State.tellNow_does _ _)
    | split

theorem State.serveSteal_does (s : State) (p : Slot) (c : Cl) : Does 0xc s (State.serveSteal s p c) := by
  unfold State.serveSteal
  repeat' first
    | with_reducible assumption
    | with_reducible exact Does.refl _ _
    | with_reducible rfl
    | decide
    | (extract_lets +onlyGivenNames u; (with_reducible refine Does.cutAt u ?_ (fun _ => ?_); revert u; with_reducible refine Does.here ?_; rotate_left); revert u; intro _ _; rotate_right)
    | (extract_lets +onlyGivenNames u; clear_value u; revert u; intro _)
    | with_reducible apply Does.ite
    | with_reducible apply Does.andThen Does.setCl
    | with_reducible apply Does.andThen Does.setProb
    | split

theorem execSharingPoint_does (p : Slot) (s : State) : DoesOut 0x100000c s (execSharingPoint p s) := by
  unfold execSharingPoint
  repeat' first
    | with_reducible assumption
    | with_reducible exact Does.refl _ _
    | with_reducible rfl
    | decide
    | (extract_lets +onlyGivenNames u; (with_reducible refine DoesOut.cutAt u ?_ (fun _ => ?_); revert u; with_reducible refine Does.here ?_; rotate_left); revert u; intro _ _; rotate_right)
    | (extract_lets +onlyGivenNames u; (with_reducible refine Does.cutAt u ?_ (fun _ => ?_); revert u; with_reducible refine Does.here ?_; rotate_left); revert u; intro _ _; rotate_right)
    | (extract_lets +onlyGivenNames u; clear_value u; revert u; intro _)
    | with_reducible apply DoesOut.next
    | with_reducible apply DoesOut.ite
    | with_reducible apply Does.ite
    | with_reducible apply Does.each
    | with_reducible apply Does.andThen Does.setProb
    | with_reducible apply Does.andThen (State.serveSteal_does _ _ _)
    | with_reducible apply Does.wr
    | (rw [pageBit_srchPinch (by first | omega | decide | exact Nat.lt_of_lt_of_le (portIdx_lt _) (by decide) | exact Nat.lt_of_lt_of_le (bufIdx_lt _) (by decide) | exact Nat.lt_of_lt_of_le (b2n_lt _) (by decide) | exact Nat.lt_of_lt_of_le (Fin.isLt _) (by decide))]; decide)
    | (rw [pageBit_srchPincl (by first | omega | decide | exact Nat.lt_of_lt_of_le (portIdx_lt _) (by decide) | exact Nat.lt_of_lt_of_le (bufIdx_lt _) (by decide) | exact Nat.lt_of_lt_of_le (b2n_lt _) (by decide) | exact Nat.lt_of_lt_of_le (Fin.isLt _) (by decide))]; decide)
    | intro _ _ _
    | split

theorem execSharingWrite_does (p : Slot) (s : State) : DoesOut 0xc s (execSharingWrite p s) := by
  unfold execSharingWrite
  repeat' first
    | with_reducible assumption
    | with_reducible exact Does.refl _ _
    | with_reducible rfl
    | decide
    | (extract_lets +onlyGivenNames u; (with_reducible refine DoesOut.cutAt u ?_ (fun _ => ?_); revert u; with_reducible refine Does.here ?_; rotate_left); revert u; intro _ _; rotate_right)
    | (extract_lets +onlyGivenNames u; (with_reducible refine Does.cutAt u ?_ (fun _ => ?_); revert u; with_reducible refine Does.here ?_; rotate_left); revert u; intro _ _; rotate_right)
    | (extract_lets +onlyGivenNames u; clear_value u; revert u; intro _)
    | with_reducible apply DoesOut.next
    | with_reducible apply DoesOut.ite
    | with_reducible apply Does.ite
    | with_reducible apply Does.each
    | with_reducible apply Does.andThen Does.setCl
    | with_reducible apply Does.andThen Does.setProb
    | intro _ _ _
    | split

theorem execStealTransfer_does (c : Cl) (s : State) : DoesOut 0xc s (execStealTransfer c s) := by
  unfold execStealTransfer
  repeat' first
    | with_reducible assumption
    | with_reducible exact Does.refl _ _
    | with_reducible rfl
    | decide
    | (extract_lets +onlyGivenNames u; (with_reducible refine DoesOut.cutAt u ?_ (fun _ => ?_); revert u; with_reducible refine Does.here ?_; rotate_left); revert u; intro _ _; rotate_right)
    | (extract_lets +onlyGivenNames u; (with_reducible refine Does.cutAt u ?_ (fun _ => ?_); revert u; with_reducible refine Does.here ?_; rotate_left); revert u; intro _ _; rotate_right)
    | (extract_lets +onlyGivenNames u; clear_value u; revert u; intro _)
    | with_reducible apply DoesOut.next
    | with_reducible apply DoesOut.ite
    | with_reducible apply Does.ite
    | with_reducible apply Does.andThen Does.setCl
    | with_reducible apply Does.andThen Does.setProb
    | split

theorem execDeterministicDeal_does (p : Slot) (s : State) : DoesOut 0xc s (execDeterministicDeal p s) := by
  unfold execDeterministicDeal
  repeat' first
    | with_reducible assumption
    | with_reducible exact Does.refl _ _
    | with_reducible rfl
    | decide
    | (extract_lets +onlyGivenNames u; (with_reducible refine DoesOut.cutAt u ?_ (fun _ => ?_); revert u; with_reducible refine Does.here ?_; rotate_left); revert u; intro _ _; rotate_right)
    | (extract_lets +onlyGivenNames u; (with_reducible refine Does.cutAt u ?_ (fun _ => ?_); revert u; with_reducible refine Does.here ?_; rotate_left); revert u; intro _ _; rotate_right)
    | (extract_lets +onlyGivenNames u; clear_value u; revert u; intro _)
    | with_reducible apply DoesOut.next
    | with_reducible apply DoesOut.ite
    | with_reducible apply Does.ite
    | with_reducible apply Does.each
    | with_reducible apply Does.andThen Does.setProb
    | with_reducible apply Does.andThen Does.setCl
    | intro _ _ _
    | split

theorem State.provGather_does (s : State) (p : Slot) : Does 0x4 s (State.provGather s p) := by
  unfold State.provGather
  repeat' first
    | with_reducible assumption
    | with_reducible exact Does.refl _ _
    | with_reducible rfl
    | decide
    | (extract_lets +onlyGivenNames u; (with_reducible refine Does.cutAt u ?_ (fun _ => ?_); revert u; with_reducible refine Does.here ?_; rotate_left); revert u; intro _ _; rotate_right)
    | (extract_lets +onlyGivenNames u; clear_value u; revert u; intro _)
    | with_reducible apply Does.andThen Does.setProb
    | split

theorem State.provSendTime_does (s : State) (p : Slot) : Does 0x4 s (State.provSendTime s p) := by
  unfold State.provSendTime
  repeat' first
    | with_reducible assumption
    | with_reducible exact Does.refl _ _
    | with_reducible rfl
    | decide
    | (extract_lets +onlyGivenNames u; (with_reducible refine Does.cutAt u ?_ (fun _ => ?_); revert u; with_reducible refine Does.here ?_; rotate_left); revert u; intro _ _; rotate_right)
    | (extract_lets +onlyGivenNames u; clear_value u; revert u; intro _)
    | with_reducible apply Does.ite
    | with_reducible apply Does.andThen (State.provGather_does _ _)
    | with_reducible apply Does.andThen Does.setProb
    | split

theorem execProvisionalGather_does (p : Slot) (s : State) : DoesOut 0x4000044 s (execProvisionalGather p s) := by
  unfold execProvisionalGather
  repeat' first
    | with_reducible assumption
    | with_reducible exact Does.refl _ _
    | with_reducible rfl
    | decide
    | (extract_lets +onlyGivenNames u; (with_reducible refine DoesOut.cutAt u ?_ (fun _ => ?_); revert u; with_reducible refine Does.here ?_; rotate_left); revert u; intro _ _; rotate_right)
    | (extract_lets +onlyGivenNames u; (with_reducible refine Does.cutAt u ?_ (fun _ => ?_); revert u; with_reducible refine Does.here ?_; rotate_left); revert u; intro _ _; rotate_right)
    | (extract_lets +onlyGivenNames u; clear_value u; revert u; intro _)
    | with_reducible apply DoesOut.next
    | with_reducible apply DoesOut.ite
    | with_reducible apply Does.ite
    | with_reducible apply Does.andThen Does.setProb
    | with_reducible apply Does.andThen (State.sorterPass_does _ _ _ _)
    | split

theorem State.fixReadyReq_does (s : State) (p : Slot) : Does 0x984020c s (State.fixReadyReq s p) := by
  unfold State.fixReadyReq
  repeat' first
    | with_reducible assumption
    | with_reducible exact Does.refl _ _
    | with_reducible rfl
    | decide
    | (extract_lets +onlyGivenNames u; (with_reducible refine Does.cutAt u ?_ (fun _ => ?_); revert u; with_reducible refine Does.here ?_; rotate_left); revert u; intro _ _; rotate_right)
    | (extract_lets +onlyGivenNames u; clear_value u; revert u; intro _)
    | with_reducible apply Does.ite
    | with_reducible apply Does.andThen (State.dataFault_does _ _)
    | with_reducible apply Does.andThen Does.setProb
    | with_reducible apply Does.setBit
    | split

theorem execFixReady_does (p : Slot) (now : Nat) (ue : Option (BitVec 16)) (s : State) : DoesOut 0x8000984020e s (execFixReady p now ue s) := by
  unfold execFixReady
  repeat' first
    | with_reducible assumption
    | with_reducible exact Does.refl _ _
    | with_reducible rfl
    | decide
    | (extract_lets +onlyGivenNames u; (with_reducible refine DoesOut.cutAt u ?_ (fun _ => ?_); revert u; with_reducible refine Does.here ?_; rotate_left); revert u; intro _ _; rotate_right)
    | (extract_lets +onlyGivenNames u; (with_reducible refine Does.cutAt u ?_ (fun _ => ?_); revert u; with_reducible refine Does.here ?_; rotate_left); revert u; intro _ _; rotate_right)
    | (extract_lets +onlyGivenNames u; clear_value u; revert u; intro _)
    | with_reducible apply DoesOut.next
    | with_reducible apply DoesOut.ite
    | with_reducible apply Does.ite
    | with_reducible apply Does.andThen (State.fixReadyReq_does _ _)
    | with_reducible apply Does.andThen (State.did_does _ _)
    | with_reducible apply Does.andThen (State.tellNow_does _ _)
    | with_reducible apply Does.andThen (State.noteSlot_does _ _ _)
    | split

theorem State.compare_does (s : State) (p : Slot) : Does 0x984020c s (State.compare s p) := by
  unfold State.compare
  repeat' first
    | with_reducible assumption
    | with_reducible exact Does.refl _ _
    | with_reducible rfl
    | decide
    | (extract_lets +onlyGivenNames u; (with_reducible refine Does.cutAt u ?_ (fun _ => ?_); revert u; with_reducible refine Does.here ?_; rotate_left); revert u; intro _ _; rotate_right)
    | (extract_lets +onlyGivenNames u; clear_value u; revert u; intro _)
    | with_reducible apply Does.ite
    | with_reducible apply Does.each
    | with_reducible apply Does.andThen (State.provGather_does _ _)
    | with_reducible apply Does.andThen Does.setCl
    | with_reducible apply Does.andThen (State.miss_does _ _ _)
    | with_reducible apply Does.andThen (State.syncInc_does _ _)
    | with_reducible apply Does.andThen (State.endWithout_does _ _ _)
    | with_reducible apply Does.andThen Does.setProb
    | with_reducible apply Does.andThen (State.setPhase_does _ _ _)
    | with_reducible apply Does.setFld
    | (rw [pageBit_srchPstat (by first | omega | decide | exact Nat.lt_of_lt_of_le (portIdx_lt _) (by decide) | exact Nat.lt_of_lt_of_le (bufIdx_lt _) (by decide) | exact Nat.lt_of_lt_of_le (b2n_lt _) (by decide) | exact Nat.lt_of_lt_of_le (Fin.isLt _) (by decide))]; decide)
    | intro _ _ _
    | split

theorem execComparison_does (p : Slot) (s : State) : DoesOut 0x984020c s (execComparison p s) := by
  unfold execComparison
  repeat' first
    | with_reducible assumption
    | with_reducible exact Does.refl _ _
    | with_reducible rfl
    | decide
    | (extract_lets +onlyGivenNames u; (with_reducible refine DoesOut.cutAt u ?_ (fun _ => ?_); revert u; with_reducible refine Does.here ?_; rotate_left); revert u; intro _ _; rotate_right)
    | (extract_lets +onlyGivenNames u; (with_reducible refine Does.cutAt u ?_ (fun _ => ?_); revert u; with_reducible refine Does.here ?_; rotate_left); revert u; intro _ _; rotate_right)
    | (extract_lets +onlyGivenNames u; clear_value u; revert u; intro _)
    | with_reducible apply DoesOut.next
    | with_reducible apply DoesOut.ite
    | with_reducible apply Does.ite
    | with_reducible apply Does.andThen (State.compare_does _ _)
    | split

theorem execDeterministicComparison_does (p : Slot) (s : State) : DoesOut 0x984020c s (execDeterministicComparison p s) := by
  unfold execDeterministicComparison
  repeat' first
    | with_reducible assumption
    | with_reducible exact Does.refl _ _
    | with_reducible rfl
    | decide
    | (extract_lets +onlyGivenNames u; (with_reducible refine DoesOut.cutAt u ?_ (fun _ => ?_); revert u; with_reducible refine Does.here ?_; rotate_left); revert u; intro _ _; rotate_right)
    | (extract_lets +onlyGivenNames u; (with_reducible refine Does.cutAt u ?_ (fun _ => ?_); revert u; with_reducible refine Does.here ?_; rotate_left); revert u; intro _ _; rotate_right)
    | (extract_lets +onlyGivenNames u; clear_value u; revert u; intro _)
    | with_reducible apply DoesOut.next
    | with_reducible apply DoesOut.ite
    | with_reducible apply Does.ite
    | with_reducible apply Does.andThen (State.compare_does _ _)
    | split

theorem State.installCorrection_does (s : State) (p : Slot) : Does 0x100000c s (State.installCorrection s p) := by
  unfold State.installCorrection
  repeat' first
    | with_reducible assumption
    | with_reducible exact Does.refl _ _
    | with_reducible rfl
    | decide
    | (extract_lets +onlyGivenNames u; (with_reducible refine Does.cutAt u ?_ (fun _ => ?_); revert u; with_reducible refine Does.here ?_; rotate_left); revert u; intro _ _; rotate_right)
    | (extract_lets +onlyGivenNames u; clear_value u; revert u; intro _)
    | with_reducible apply Does.andThen (State.syncInc_does _ _)
    | with_reducible apply Does.andThen (State.plantRoot_does _ _ _)
    | split

theorem execCorrectionSetup_does (p : Slot) (s : State) : DoesOut 0x300000c s (execCorrectionSetup p s) := by
  unfold execCorrectionSetup
  repeat' first
    | with_reducible assumption
    | with_reducible exact Does.refl _ _
    | with_reducible rfl
    | decide
    | (extract_lets +onlyGivenNames u; (with_reducible refine DoesOut.cutAt u ?_ (fun _ => ?_); revert u; with_reducible refine Does.here ?_; rotate_left); revert u; intro _ _; rotate_right)
    | (extract_lets +onlyGivenNames u; (with_reducible refine Does.cutAt u ?_ (fun _ => ?_); revert u; with_reducible refine Does.here ?_; rotate_left); revert u; intro _ _; rotate_right)
    | (extract_lets +onlyGivenNames u; clear_value u; revert u; intro _)
    | with_reducible apply DoesOut.next
    | with_reducible apply DoesOut.ite
    | with_reducible apply Does.ite
    | with_reducible apply Does.iteSnd
    | with_reducible apply Does.iteFst
    | with_reducible apply Does.each
    | with_reducible apply Does.andThen (State.setPhase_does _ _ _)
    | with_reducible apply Does.andThen (State.installCorrection_does _ _)
    | with_reducible apply Does.andThen (State.syncInc_does _ _)
    | with_reducible apply Does.andThen Does.setCl
    | with_reducible apply Does.andThen (State.offerSeed_does _ _ _ _)
    | with_reducible apply Does.andThen Does.setProb
    | with_reducible apply Does.count
    | (split <;> (rename_i h; refine DoesOut.cutSnd h ?_ (fun _ => ?_) <;> clear h))
    | (split <;> (rename_i h; refine DoesOut.cutFst h ?_ (fun _ => ?_) <;> clear h))
    | (split <;> (rename_i h; refine Does.cutSnd h ?_ (fun _ => ?_) <;> clear h))
    | (split <;> (rename_i h; refine Does.cutFst h ?_ (fun _ => ?_) <;> clear h))
    | intro _ _ _
    | split

theorem State.closeSearch_does (s : State) (p : Slot) (code : Nat) (fc : Nat) : Does 0x100000c s (State.closeSearch s p code fc) := by
  unfold State.closeSearch
  repeat' first
    | with_reducible assumption
    | with_reducible exact Does.refl _ _
    | with_reducible rfl
    | decide
    | (extract_lets +onlyGivenNames u; (with_reducible refine Does.cutAt u ?_ (fun _ => ?_); revert u; with_reducible refine Does.here ?_; rotate_left); revert u; intro _ _; rotate_right)
    | (extract_lets +onlyGivenNames u; clear_value u; revert u; intro _)
    | with_reducible apply Does.ite
    | with_reducible apply Does.andThen Does.setProb
    | with_reducible apply Does.andThen (State.closeWith_does _ _ _ _)
    | with_reducible apply Does.andThen (State.installCorrection_does _ _)
    | split

theorem State.closeReq_does (s : State) (p : Slot) : Does 0x100000c s (State.closeReq s p) := by
  unfold State.closeReq
  repeat' first
    | with_reducible assumption
    | with_reducible exact Does.refl _ _
    | with_reducible rfl
    | decide
    | (extract_lets +onlyGivenNames u; (with_reducible refine Does.cutAt u ?_ (fun _ => ?_); revert u; with_reducible refine Does.here ?_; rotate_left); revert u; intro _ _; rotate_right)
    | (extract_lets +onlyGivenNames u; clear_value u; revert u; intro _)
    | with_reducible apply Does.ite
    | with_reducible apply Does.andThen (State.closeSearch_does _ _ _ _)
    | with_reducible apply Does.andThen Does.setProb
    | with_reducible apply Does.setBit
    | split

theorem execCloseRequest_does (p : Slot) (now : Nat) (s : State) : DoesOut 0x104000e s (execCloseRequest p now s) := by
  unfold execCloseRequest
  repeat' first
    | with_reducible assumption
    | with_reducible exact Does.refl _ _
    | with_reducible rfl
    | decide
    | (extract_lets +onlyGivenNames u; (with_reducible refine DoesOut.cutAt u ?_ (fun _ => ?_); revert u; with_reducible refine Does.here ?_; rotate_left); revert u; intro _ _; rotate_right)
    | (extract_lets +onlyGivenNames u; (with_reducible refine Does.cutAt u ?_ (fun _ => ?_); revert u; with_reducible refine Does.here ?_; rotate_left); revert u; intro _ _; rotate_right)
    | (extract_lets +onlyGivenNames u; clear_value u; revert u; intro _)
    | with_reducible apply DoesOut.next
    | with_reducible apply DoesOut.ite
    | with_reducible apply Does.ite
    | with_reducible apply Does.andThen (State.closeReq_does _ _)
    | with_reducible apply Does.andThen (State.did_does _ _)
    | with_reducible apply Does.andThen (State.tellNow_does _ _)
    | split

theorem execBudgetExpiry_does (p : Slot) (s : State) : DoesOut 0x100000c s (execBudgetExpiry p s) := by
  unfold execBudgetExpiry
  repeat' first
    | with_reducible assumption
    | with_reducible exact Does.refl _ _
    | with_reducible rfl
    | decide
    | (extract_lets +onlyGivenNames u; (with_reducible refine DoesOut.cutAt u ?_ (fun _ => ?_); revert u; with_reducible refine Does.here ?_; rotate_left); revert u; intro _ _; rotate_right)
    | (extract_lets +onlyGivenNames u; (with_reducible refine Does.cutAt u ?_ (fun _ => ?_); revert u; with_reducible refine Does.here ?_; rotate_left); revert u; intro _ _; rotate_right)
    | (extract_lets +onlyGivenNames u; clear_value u; revert u; intro _)
    | with_reducible apply DoesOut.next
    | with_reducible apply DoesOut.ite
    | with_reducible apply Does.ite
    | with_reducible apply Does.andThen (State.closeSearch_does _ _ _ _)
    | split

theorem execTreeExhausted_does (p : Slot) (now : Nat) (s : State) : DoesOut 0x100000e s (execTreeExhausted p now s) := by
  unfold execTreeExhausted
  repeat' first
    | with_reducible assumption
    | with_reducible exact Does.refl _ _
    | with_reducible rfl
    | decide
    | (extract_lets +onlyGivenNames u; (with_reducible refine DoesOut.cutAt u ?_ (fun _ => ?_); revert u; with_reducible refine Does.here ?_; rotate_left); revert u; intro _ _; rotate_right)
    | (extract_lets +onlyGivenNames u; (with_reducible refine Does.cutAt u ?_ (fun _ => ?_); revert u; with_reducible refine Does.here ?_; rotate_left); revert u; intro _ _; rotate_right)
    | (extract_lets +onlyGivenNames u; clear_value u; revert u; intro _)
    | with_reducible apply DoesOut.next
    | with_reducible apply DoesOut.ite
    | with_reducible apply Does.ite
    | with_reducible apply Does.andThen (State.tellNow_does _ _)
    | with_reducible apply Does.andThen (State.closeSearch_does _ _ _ _)
    | split

theorem execDeterministicClose_does (p : Slot) (s : State) : DoesOut 0x100000c s (execDeterministicClose p s) := by
  unfold execDeterministicClose
  repeat' first
    | with_reducible assumption
    | with_reducible exact Does.refl _ _
    | with_reducible rfl
    | decide
    | (extract_lets +onlyGivenNames u; (with_reducible refine DoesOut.cutAt u ?_ (fun _ => ?_); revert u; with_reducible refine Does.here ?_; rotate_left); revert u; intro _ _; rotate_right)
    | (extract_lets +onlyGivenNames u; (with_reducible refine Does.cutAt u ?_ (fun _ => ?_); revert u; with_reducible refine Does.here ?_; rotate_left); revert u; intro _ _; rotate_right)
    | (extract_lets +onlyGivenNames u; clear_value u; revert u; intro _)
    | with_reducible apply DoesOut.next
    | with_reducible apply DoesOut.ite
    | with_reducible apply Does.ite
    | with_reducible apply Does.andThen (State.closeSearch_does _ _ _ _)
    | split

theorem State.searchDeadlineOf_does (s : State) (p : Slot) : Does 0x984020c s (State.searchDeadlineOf s p) := by
  unfold State.searchDeadlineOf
  repeat' first
    | with_reducible assumption
    | with_reducible exact Does.refl _ _
    | with_reducible rfl
    | decide
    | (extract_lets +onlyGivenNames u; (with_reducible refine Does.cutAt u ?_ (fun _ => ?_); revert u; with_reducible refine Does.here ?_; rotate_left); revert u; intro _ _; rotate_right)
    | (extract_lets +onlyGivenNames u; clear_value u; revert u; intro _)
    | with_reducible apply Does.ite
    | with_reducible apply Does.andThen (State.closeSearch_does _ _ _ _)
    | with_reducible apply Does.andThen (State.miss_does _ _ _)
    | with_reducible apply Does.andThen (State.setPhase_does _ _ _)
    | with_reducible apply Does.andThen Does.setProb
    | with_reducible apply Does.setBit
    | split

theorem State.decisionFault_does (s : State) (p : Slot) (c : Nat) : Does 0x9840204 s (State.decisionFault s p c) := by
  unfold State.decisionFault
  repeat' first
    | with_reducible assumption
    | with_reducible exact Does.refl _ _
    | with_reducible rfl
    | decide
    | (extract_lets +onlyGivenNames u; (with_reducible refine Does.cutAt u ?_ (fun _ => ?_); revert u; with_reducible refine Does.here ?_; rotate_left); revert u; intro _ _; rotate_right)
    | (extract_lets +onlyGivenNames u; clear_value u; revert u; intro _)
    | with_reducible apply Does.andThen Does.setProb
    | with_reducible apply Does.andThen (State.miss_does _ _ _)
    | with_reducible apply Does.andThen (State.capTrig_does _ _)
    | with_reducible apply Does.andThen (State.fire_does _ _)
    | with_reducible apply Does.wr
    | split

theorem State.stopFault_does (s : State) (p : Slot) (c : Cl) (fbit : Nat) : Does 0x984020c s (State.stopFault s p c fbit) := by
  unfold State.stopFault
  repeat' first
    | with_reducible assumption
    | with_reducible exact Does.refl _ _
    | with_reducible rfl
    | decide
    | (extract_lets +onlyGivenNames u; (with_reducible refine Does.cutAt u ?_ (fun _ => ?_); revert u; with_reducible refine Does.here ?_; rotate_left); revert u; intro _ _; rotate_right)
    | (extract_lets +onlyGivenNames u; clear_value u; revert u; intro _)
    | with_reducible apply Does.ite
    | with_reducible apply Does.each
    | with_reducible apply Does.andThen Does.setProb
    | with_reducible apply Does.andThen Does.setCl
    | with_reducible apply Does.andThen (State.decisionFault_does _ _ _)
    | with_reducible apply Does.andThen (State.syncInc_does _ _)
    | with_reducible apply Does.andThen (State.endWithout_does _ _ _)
    | with_reducible apply Does.setBit
    | intro _ _ _
    | split

theorem State.checkFault_does (s : State) (p : Slot) (c : Cl) (fbit : Nat) : Does 0x8000984020d s (State.checkFault s p c fbit) := by
  unfold State.checkFault
  repeat' first
    | with_reducible assumption
    | with_reducible exact Does.refl _ _
    | with_reducible rfl
    | decide
    | (extract_lets +onlyGivenNames u; (with_reducible refine Does.cutAt u ?_ (fun _ => ?_); revert u; with_reducible refine Does.here ?_; rotate_left); revert u; intro _ _; rotate_right)
    | (extract_lets +onlyGivenNames u; clear_value u; revert u; intro _)
    | with_reducible apply Does.ite
    | with_reducible apply Does.andThen (State.applyStalled_does _ _)
    | with_reducible apply Does.andThen (State.stopFault_does _ _ _ _)
    | split

theorem execBatchLanding_does (c : Cl) (f : LaneFault) (s : State) : DoesOut 0x8000984020d s (execBatchLanding c f s) := by
  unfold execBatchLanding
  repeat' first
    | with_reducible assumption
    | with_reducible exact Does.refl _ _
    | with_reducible rfl
    | decide
    | (extract_lets +onlyGivenNames u; (with_reducible refine DoesOut.cutAt u ?_ (fun _ => ?_); revert u; with_reducible refine Does.here ?_; rotate_left); revert u; intro _ _; rotate_right)
    | (extract_lets +onlyGivenNames u; (with_reducible refine Does.cutAt u ?_ (fun _ => ?_); revert u; with_reducible refine Does.here ?_; rotate_left); revert u; intro _ _; rotate_right)
    | (extract_lets +onlyGivenNames u; clear_value u; revert u; intro _)
    | with_reducible apply DoesOut.next
    | with_reducible apply DoesOut.ite
    | with_reducible apply Does.ite
    | with_reducible apply Does.andThen (State.checkFault_does _ _ _ _)
    | with_reducible apply Does.andThen (State.landBatch_does _ _ _ _)
    | with_reducible apply Does.andThen Does.setCl
    | with_reducible apply Does.count
    | split

theorem State.drain_does (s : State) (p : Slot) : Does 0x100000c s (State.drain s p) := by
  unfold State.drain
  repeat' first
    | with_reducible assumption
    | with_reducible exact Does.refl _ _
    | with_reducible rfl
    | decide
    | (extract_lets +onlyGivenNames u; (with_reducible refine Does.cutAt u ?_ (fun _ => ?_); revert u; with_reducible refine Does.here ?_; rotate_left); revert u; intro _ _; rotate_right)
    | (extract_lets +onlyGivenNames u; clear_value u; revert u; intro _)
    | with_reducible apply Does.each
    | with_reducible apply Does.andThen Does.setCl
    | with_reducible apply Does.andThen (State.landBatch_does _ _ _ _)
    | intro _ _ _
    | split

theorem State.passResult_does (s : State) (p : Slot) : Does 0x51000c4 s (State.passResult s p) := by
  unfold State.passResult
  repeat' first
    | with_reducible assumption
    | with_reducible exact Does.refl _ _
    | with_reducible rfl
    | decide
    | (extract_lets +onlyGivenNames u; (with_reducible refine Does.cutAt u ?_ (fun _ => ?_); revert u; with_reducible refine Does.here ?_; rotate_left); revert u; intro _ _; rotate_right)
    | (extract_lets +onlyGivenNames u; clear_value u; revert u; intro _)
    | with_reducible apply Does.andThen Does.setProb
    | with_reducible apply Does.andThen (State.setPhase_does _ _ _)
    | with_reducible apply Does.andThen (State.settle_does _ _ _)
    | split

theorem execFinalGather_does (p : Slot) (s : State) : DoesOut 0xd9402cc s (execFinalGather p s) := by
  unfold execFinalGather
  repeat' first
    | with_reducible assumption
    | with_reducible exact Does.refl _ _
    | with_reducible rfl
    | decide
    | (extract_lets +onlyGivenNames u; (with_reducible refine DoesOut.cutAt u ?_ (fun _ => ?_); revert u; with_reducible refine Does.here ?_; rotate_left); revert u; intro _ _; rotate_right)
    | (extract_lets +onlyGivenNames u; (with_reducible refine Does.cutAt u ?_ (fun _ => ?_); revert u; with_reducible refine Does.here ?_; rotate_left); revert u; intro _ _; rotate_right)
    | (extract_lets +onlyGivenNames u; clear_value u; revert u; intro _)
    | with_reducible apply DoesOut.next
    | with_reducible apply DoesOut.ite
    | with_reducible apply Does.ite
    | with_reducible apply Does.andThen (State.drain_does _ _)
    | with_reducible apply Does.andThen (State.miss_does _ _ _)
    | with_reducible apply Does.andThen (State.endWithout_does _ _ _)
    | with_reducible apply Does.andThen Does.setProb
    | with_reducible apply Does.andThen (State.passResult_does _ _)
    | split

theorem execDuplexVerdict_does (p : Slot) (s : State) : DoesOut 0x51000c4 s (execDuplexVerdict p s) := by
  unfold execDuplexVerdict
  repeat' first
    | with_reducible assumption
    | with_reducible exact Does.refl _ _
    | with_reducible rfl
    | decide
    | (extract_lets +onlyGivenNames u; (with_reducible refine DoesOut.cutAt u ?_ (fun _ => ?_); revert u; with_reducible refine Does.here ?_; rotate_left); revert u; intro _ _; rotate_right)
    | (extract_lets +onlyGivenNames u; (with_reducible refine Does.cutAt u ?_ (fun _ => ?_); revert u; with_reducible refine Does.here ?_; rotate_left); revert u; intro _ _; rotate_right)
    | (extract_lets +onlyGivenNames u; clear_value u; revert u; intro _)
    | with_reducible apply DoesOut.next
    | with_reducible apply DoesOut.ite
    | with_reducible apply Does.ite
    | with_reducible apply Does.andThen (State.passResult_does _ _)
    | with_reducible apply Does.andThen Does.setProb
    | split

theorem execShadowEvaluation_does (c : Cl) (s : State) : DoesOut 0x8 s (execShadowEvaluation c s) := by
  unfold execShadowEvaluation
  repeat' first
    | with_reducible assumption
    | with_reducible exact Does.refl _ _
    | with_reducible rfl
    | decide
    | (extract_lets +onlyGivenNames u; (with_reducible refine DoesOut.cutAt u ?_ (fun _ => ?_); revert u; with_reducible refine Does.here ?_; rotate_left); revert u; intro _ _; rotate_right)
    | (extract_lets +onlyGivenNames u; (with_reducible refine Does.cutAt u ?_ (fun _ => ?_); revert u; with_reducible refine Does.here ?_; rotate_left); revert u; intro _ _; rotate_right)
    | (extract_lets +onlyGivenNames u; clear_value u; revert u; intro _)
    | with_reducible apply DoesOut.next
    | with_reducible apply DoesOut.ite
    | with_reducible apply Does.ite
    | with_reducible apply Does.andThen Does.setCl
    | split

theorem execShadowVerdict_does (p : Slot) (copyOk : Bool) (s : State) : DoesOut 0xd9402c4 s (execShadowVerdict p copyOk s) := by
  unfold execShadowVerdict
  repeat' first
    | with_reducible assumption
    | with_reducible exact Does.refl _ _
    | with_reducible rfl
    | decide
    | (extract_lets +onlyGivenNames u; (with_reducible refine DoesOut.cutAt u ?_ (fun _ => ?_); revert u; with_reducible refine Does.here ?_; rotate_left); revert u; intro _ _; rotate_right)
    | (extract_lets +onlyGivenNames u; (with_reducible refine Does.cutAt u ?_ (fun _ => ?_); revert u; with_reducible refine Does.here ?_; rotate_left); revert u; intro _ _; rotate_right)
    | (extract_lets +onlyGivenNames u; clear_value u; revert u; intro _)
    | with_reducible apply DoesOut.next
    | with_reducible apply DoesOut.ite
    | with_reducible apply Does.ite
    | with_reducible apply Does.andThen (State.passResult_does _ _)
    | with_reducible apply Does.andThen Does.setProb
    | with_reducible apply Does.andThen (State.decisionFault_does _ _ _)
    | with_reducible apply Does.andThen (State.endWithout_does _ _ _)
    | with_reducible apply Does.setBit
    | split

theorem State.checkDeadlineOf_does (s : State) (p : Slot) : Does 0x9a40204 s (State.checkDeadlineOf s p) := by
  unfold State.checkDeadlineOf
  repeat' first
    | with_reducible assumption
    | with_reducible exact Does.refl _ _
    | with_reducible rfl
    | decide
    | (extract_lets +onlyGivenNames u; (with_reducible refine Does.cutAt u ?_ (fun _ => ?_); revert u; with_reducible refine Does.here ?_; rotate_left); revert u; intro _ _; rotate_right)
    | (extract_lets +onlyGivenNames u; clear_value u; revert u; intro _)
    | with_reducible apply Does.ite
    | with_reducible apply Does.iteSnd
    | with_reducible apply Does.iteFst
    | with_reducible apply Does.andThen Does.setProb
    | with_reducible apply Does.andThen Does.freeWord
    | with_reducible apply Does.andThen (State.miss_does _ _ _)
    | with_reducible apply Does.andThen (State.endWithout_does _ _ _)
    | with_reducible apply Does.wr
    | with_reducible apply Does.setBit
    | (split <;> (rename_i h; refine Does.cutSnd h ?_ (fun _ => ?_) <;> clear h))
    | (split <;> (rename_i h; refine Does.cutFst h ?_ (fun _ => ?_) <;> clear h))
    | split

theorem execResultRecordWrite_does (p : Slot) (s : State) : DoesOut 0x40005 s (execResultRecordWrite p s) := by
  unfold execResultRecordWrite
  repeat' first
    | with_reducible assumption
    | with_reducible exact Does.refl _ _
    | with_reducible rfl
    | decide
    | (extract_lets +onlyGivenNames u; (with_reducible refine DoesOut.cutAt u ?_ (fun _ => ?_); revert u; with_reducible refine Does.here ?_; rotate_left); revert u; intro _ _; rotate_right)
    | (extract_lets +onlyGivenNames u; (with_reducible refine Does.cutAt u ?_ (fun _ => ?_); revert u; with_reducible refine Does.here ?_; rotate_left); revert u; intro _ _; rotate_right)
    | (extract_lets +onlyGivenNames u; clear_value u; revert u; intro _)
    | with_reducible apply DoesOut.next
    | with_reducible apply DoesOut.ite
    | with_reducible apply Does.ite
    | with_reducible apply Does.andThen Does.setBytes
    | with_reducible apply Does.andThen Does.setWord
    | with_reducible apply Does.andThen (State.fire_does _ _)
    | with_reducible apply Does.andThen Does.setProb
    | split

end Sys2Proof.Machine
end

