-- ==== Sys2Proof/Laws/DoesChart.lean ====
section
/-!
SUPPORT. What each operation of Sys2Proof/Machine/Chart.lean can do (see Sys2Proof/Laws/Does.lean).
-/
namespace Sys2Proof.Machine
set_option linter.all false
set_option linter.tactic.unusedName false
theorem State.setBufState_does (s : State) (b : Buf) (st : Nat) : Does 0x2000000 s (State.setBufState s b st) := by
  unfold State.setBufState
  repeat' first
    | with_reducible assumption
    | with_reducible exact Does.refl _ _
    | with_reducible rfl
    | decide
    | (extract_lets +onlyGivenNames u; (with_reducible refine Does.cutAt u ?_ (fun _ => ?_); revert u; with_reducible refine Does.here ?_; rotate_left); revert u; intro _ _; rotate_right)
    | (extract_lets +onlyGivenNames u; clear_value u; revert u; intro _)
    | with_reducible apply Does.ite
    | with_reducible apply Does.setFld
    | (rw [pageBit_chrtBuf (by first | omega | decide | exact Nat.lt_of_lt_of_le (portIdx_lt _) (by decide) | exact Nat.lt_of_lt_of_le (bufIdx_lt _) (by decide) | exact Nat.lt_of_lt_of_le (b2n_lt _) (by decide) | exact Nat.lt_of_lt_of_le (Fin.isLt _) (by decide))]; decide)
    | split

theorem State.bufWord_does (s : State) (a : Nat) : Does 0x200000 s (State.bufWord s a).2 := by
  unfold State.bufWord
  repeat' first
    | with_reducible assumption
    | with_reducible exact Does.refl _ _
    | with_reducible rfl
    | decide
    | (extract_lets +onlyGivenNames u; (with_reducible refine Does.cutAt u ?_ (fun _ => ?_); revert u; with_reducible refine Does.here ?_; rotate_left); revert u; intro _ _; rotate_right)
    | (extract_lets +onlyGivenNames u; clear_value u; revert u; intro _)
    | with_reducible apply Does.ite
    | with_reducible apply Does.iteSnd
    | with_reducible apply Does.iteFst
    | with_reducible apply Does.andThen Does.freeWord
    | (split <;> (rename_i h; refine Does.cutSnd h ?_ (fun _ => ?_) <;> clear h))
    | (split <;> (rename_i h; refine Does.cutFst h ?_ (fun _ => ?_) <;> clear h))
    | split

theorem State.setBufPend_does (s : State) (b : Buf) (v : Bool) : Does 0x2000000 s (State.setBufPend s b v) := by
  unfold State.setBufPend
  repeat' first
    | with_reducible assumption
    | with_reducible exact Does.refl _ _
    | with_reducible rfl
    | decide
    | (extract_lets +onlyGivenNames u; (with_reducible refine Does.cutAt u ?_ (fun _ => ?_); revert u; with_reducible refine Does.here ?_; rotate_left); revert u; intro _ _; rotate_right)
    | (extract_lets +onlyGivenNames u; clear_value u; revert u; intro _)
    | with_reducible apply Does.setBit
    | (rw [pageBit_chrtBuf (by first | omega | decide | exact Nat.lt_of_lt_of_le (portIdx_lt _) (by decide) | exact Nat.lt_of_lt_of_le (bufIdx_lt _) (by decide) | exact Nat.lt_of_lt_of_le (b2n_lt _) (by decide) | exact Nat.lt_of_lt_of_le (Fin.isLt _) (by decide))]; decide)
    | split

theorem State.setBad6_does (s : State) (b : Buf) : Does 0x2000000 s (State.setBad6 s b) := by
  unfold State.setBad6
  repeat' first
    | with_reducible assumption
    | with_reducible exact Does.refl _ _
    | with_reducible rfl
    | decide
    | (extract_lets +onlyGivenNames u; (with_reducible refine Does.cutAt u ?_ (fun _ => ?_); revert u; with_reducible refine Does.here ?_; rotate_left); revert u; intro _ _; rotate_right)
    | (extract_lets +onlyGivenNames u; clear_value u; revert u; intro _)
    | with_reducible apply Does.andThen (State.setBufPend_does _ _ _)
    | with_reducible apply Does.andThen (State.setBufState_does _ _ _)
    | split

theorem State.cmdErr_does (s : State) : Does 0x2000000 s (State.cmdErr s) := by
  unfold State.cmdErr
  repeat' first
    | with_reducible assumption
    | with_reducible exact Does.refl _ _
    | with_reducible rfl
    | decide
    | (extract_lets +onlyGivenNames u; (with_reducible refine Does.cutAt u ?_ (fun _ => ?_); revert u; with_reducible refine Does.here ?_; rotate_left); revert u; intro _ _; rotate_right)
    | (extract_lets +onlyGivenNames u; clear_value u; revert u; intro _)
    | with_reducible apply Does.setBit
    | split

theorem State.endBuild_does (s : State) : Does 0x2000020 s (State.endBuild s) := by
  unfold State.endBuild
  repeat' first
    | with_reducible assumption
    | with_reducible exact Does.refl _ _
    | with_reducible rfl
    | decide
    | (extract_lets +onlyGivenNames u; (with_reducible refine Does.cutAt u ?_ (fun _ => ?_); revert u; with_reducible refine Does.here ?_; rotate_left); revert u; intro _ _; rotate_right)
    | (extract_lets +onlyGivenNames u; clear_value u; revert u; intro _)
    | with_reducible apply Does.ite
    | with_reducible apply Does.wr
    | split
    | with_reducible apply Does.andThen Does.upd_chart

theorem State.stopBuf_does (s : State) (b : Buf) : Does 0x2000020 s (State.stopBuf s b) := by
  unfold State.stopBuf
  repeat' first
    | with_reducible assumption
    | with_reducible exact Does.refl _ _
    | with_reducible rfl
    | decide
    | (extract_lets +onlyGivenNames u; (with_reducible refine Does.cutAt u ?_ (fun _ => ?_); revert u; with_reducible refine Does.here ?_; rotate_left); revert u; intro _ _; rotate_right)
    | (extract_lets +onlyGivenNames u; clear_value u; revert u; intro _)
    | with_reducible apply Does.ite
    | with_reducible apply Does.andThen (State.setBufPend_does _ _ _)
    | with_reducible apply Does.andThen (State.endBuild_does _)
    | with_reducible apply Does.setBit
    | split
    | with_reducible apply Does.andThen Does.upd_chart

theorem execBegin_does (b : Buf) (s : State) : DoesOut 0x2000020 s (execBegin b s) := by
  unfold execBegin
  repeat' first
    | with_reducible assumption
    | with_reducible exact Does.refl _ _
    | with_reducible rfl
    | decide
    | (extract_lets +onlyGivenNames u; (with_reducible refine DoesOut.cutAt u ?_ (fun _ => ?_); revert u; with_reducible refine Does.here ?_; rotate_left); revert u; intro _ _; rotate_right)
    | (extract_lets +onlyGivenNames u; (with_reducible refine Does.cutAt u ?_ (fun _ => ?_); revert u; with_reducible refine Does.here ?_; rotate_left); revert u; intro _ _; rotate_right)
    | (extract_lets +onlyGivenNames u; clear_value u; revert u; intro _)
    | with_reducible apply DoesOut.next
    | with_reducible apply DoesOut.ite
    | with_reducible apply Does.ite
    | with_reducible apply Does.andThen (State.setBufState_does _ _ _)
    | with_reducible apply Does.andThen (State.stopBuf_does _ _)
    | with_reducible apply Does.andThen (State.cmdErr_does _)
    | split

theorem execVerify_does (b : Buf) (s : State) : DoesOut 0x2000000 s (execVerify b s) := by
  unfold execVerify
  repeat' first
    | with_reducible assumption
    | with_reducible exact Does.refl _ _
    | with_reducible rfl
    | decide
    | (extract_lets +onlyGivenNames u; (with_reducible refine DoesOut.cutAt u ?_ (fun _ => ?_); revert u; with_reducible refine Does.here ?_; rotate_left); revert u; intro _ _; rotate_right)
    | (extract_lets +onlyGivenNames u; (with_reducible refine Does.cutAt u ?_ (fun _ => ?_); revert u; with_reducible refine Does.here ?_; rotate_left); revert u; intro _ _; rotate_right)
    | (extract_lets +onlyGivenNames u; clear_value u; revert u; intro _)
    | with_reducible apply DoesOut.next
    | with_reducible apply DoesOut.ite
    | with_reducible apply Does.ite
    | with_reducible apply Does.andThen (State.setBufState_does _ _ _)
    | with_reducible apply Does.andThen (State.cmdErr_does _)
    | split

theorem execActivate_does (b : Buf) (s : State) : DoesOut 0x2000000 s (execActivate b s) := by
  unfold execActivate
  repeat' first
    | with_reducible assumption
    | with_reducible exact Does.refl _ _
    | with_reducible rfl
    | decide
    | (extract_lets +onlyGivenNames u; (with_reducible refine DoesOut.cutAt u ?_ (fun _ => ?_); revert u; with_reducible refine Does.here ?_; rotate_left); revert u; intro _ _; rotate_right)
    | (extract_lets +onlyGivenNames u; (with_reducible refine Does.cutAt u ?_ (fun _ => ?_); revert u; with_reducible refine Does.here ?_; rotate_left); revert u; intro _ _; rotate_right)
    | (extract_lets +onlyGivenNames u; clear_value u; revert u; intro _)
    | with_reducible apply DoesOut.next
    | with_reducible apply DoesOut.ite
    | with_reducible apply Does.ite
    | with_reducible apply Does.andThen (State.setBufPend_does _ _ _)
    | with_reducible apply Does.andThen (State.cmdErr_does _)
    | with_reducible apply Does.setBit
    | split

theorem execDeactivate_does (s : State) : DoesOut 0x2000000 s (execDeactivate s) := by
  unfold execDeactivate
  repeat' first
    | with_reducible assumption
    | with_reducible exact Does.refl _ _
    | with_reducible rfl
    | decide
    | (extract_lets +onlyGivenNames u; (with_reducible refine DoesOut.cutAt u ?_ (fun _ => ?_); revert u; with_reducible refine Does.here ?_; rotate_left); revert u; intro _ _; rotate_right)
    | (extract_lets +onlyGivenNames u; (with_reducible refine Does.cutAt u ?_ (fun _ => ?_); revert u; with_reducible refine Does.here ?_; rotate_left); revert u; intro _ _; rotate_right)
    | (extract_lets +onlyGivenNames u; clear_value u; revert u; intro _)
    | with_reducible apply DoesOut.next
    | with_reducible apply DoesOut.ite
    | with_reducible apply Does.ite
    | with_reducible apply Does.andThen (State.cmdErr_does _)
    | with_reducible apply Does.setBit
    | split

theorem execAbort_does (b : Buf) (s : State) : DoesOut 0x2000020 s (execAbort b s) := by
  unfold execAbort
  repeat' first
    | with_reducible assumption
    | with_reducible exact Does.refl _ _
    | with_reducible rfl
    | decide
    | (extract_lets +onlyGivenNames u; (with_reducible refine DoesOut.cutAt u ?_ (fun _ => ?_); revert u; with_reducible refine Does.here ?_; rotate_left); revert u; intro _ _; rotate_right)
    | (extract_lets +onlyGivenNames u; (with_reducible refine Does.cutAt u ?_ (fun _ => ?_); revert u; with_reducible refine Does.here ?_; rotate_left); revert u; intro _ _; rotate_right)
    | (extract_lets +onlyGivenNames u; clear_value u; revert u; intro _)
    | with_reducible apply DoesOut.next
    | with_reducible apply DoesOut.ite
    | with_reducible apply Does.ite
    | with_reducible apply Does.andThen (State.cmdErr_does _)
    | with_reducible apply Does.andThen (State.setBufState_does _ _ _)
    | with_reducible apply Does.andThen (State.stopBuf_does _ _)
    | split

theorem State.memUeAt_does (s : State) (ue : Option Nat) : Does 0x80010000800 s (State.memUeAt s ue) := by
  unfold State.memUeAt
  repeat' first
    | with_reducible assumption
    | with_reducible exact Does.refl _ _
    | with_reducible rfl
    | decide
    | (extract_lets +onlyGivenNames u; (with_reducible refine Does.cutAt u ?_ (fun _ => ?_); revert u; with_reducible refine Does.here ?_; rotate_left); revert u; intro _ _; rotate_right)
    | (extract_lets +onlyGivenNames u; clear_value u; revert u; intro _)
    | with_reducible apply Does.andThen (State.memUe_does _ _ _)
    | split

theorem State.verifyFail_does (s : State) (b : Buf) (f : VFail) : Does 0x80012000800 s (State.verifyFail s b f) := by
  unfold State.verifyFail
  repeat' first
    | with_reducible assumption
    | with_reducible exact Does.refl _ _
    | with_reducible rfl
    | decide
    | (extract_lets +onlyGivenNames u; (with_reducible refine Does.cutAt u ?_ (fun _ => ?_); revert u; with_reducible refine Does.here ?_; rotate_left); revert u; intro _ _; rotate_right)
    | (extract_lets +onlyGivenNames u; clear_value u; revert u; intro _)
    | with_reducible apply Does.ite
    | with_reducible apply Does.andThen (State.setBad6_does _ _)
    | with_reducible apply Does.andThen (State.memUeAt_does _ _)
    | with_reducible apply Does.wr
    | with_reducible apply Does.setBit
    | split

theorem State.checkRun_does (s : State) (b : Buf) (met : Met) (check : State → Option VFail) : Does 0x80010000400 s (State.checkRun s b met check).1 := by
  unfold State.checkRun
  repeat' first
    | with_reducible assumption
    | with_reducible exact Does.refl _ _
    | with_reducible rfl
    | decide
    | (extract_lets +onlyGivenNames u; (with_reducible refine Does.cutAt u ?_ (fun _ => ?_); revert u; with_reducible refine Does.here ?_; rotate_left); revert u; intro _ _; rotate_right)
    | (extract_lets +onlyGivenNames u; clear_value u; revert u; intro _)
    | with_reducible apply Does.iteSnd
    | with_reducible apply Does.iteFst
    | with_reducible apply Does.andThen (State.meetReads_does _ _ _ _)
    | with_reducible apply Does.andThen (State.without_does _ _)
    | (split <;> (rename_i h; refine Does.cutSnd h ?_ (fun _ => ?_) <;> clear h))
    | (split <;> (rename_i h; refine Does.cutFst h ?_ (fun _ => ?_) <;> clear h))
    | split

theorem execVerificationDone_does (b : Buf) (met : Met) (s : State) : DoesOut 0x80012000c00 s (execVerificationDone b met s) := by
  unfold execVerificationDone
  repeat' first
    | with_reducible assumption
    | with_reducible exact Does.refl _ _
    | with_reducible rfl
    | decide
    | (extract_lets +onlyGivenNames u; (with_reducible refine DoesOut.cutAt u ?_ (fun _ => ?_); revert u; with_reducible refine Does.here ?_; rotate_left); revert u; intro _ _; rotate_right)
    | (extract_lets +onlyGivenNames u; (with_reducible refine Does.cutAt u ?_ (fun _ => ?_); revert u; with_reducible refine Does.here ?_; rotate_left); revert u; intro _ _; rotate_right)
    | (extract_lets +onlyGivenNames u; clear_value u; revert u; intro _)
    | with_reducible apply DoesOut.next
    | with_reducible apply DoesOut.ite
    | with_reducible apply Does.ite
    | with_reducible apply Does.iteSnd
    | with_reducible apply Does.iteFst
    | with_reducible apply Does.andThen (State.checkRun_does _ _ _ _)
    | with_reducible apply Does.andThen (State.verifyFail_does _ _ _)
    | with_reducible apply Does.andThen (State.setBufState_does _ _ _)
    | (split <;> (rename_i h; refine DoesOut.cutSnd h ?_ (fun _ => ?_) <;> clear h))
    | (split <;> (rename_i h; refine DoesOut.cutFst h ?_ (fun _ => ?_) <;> clear h))
    | (split <;> (rename_i h; refine Does.cutSnd h ?_ (fun _ => ?_) <;> clear h))
    | (split <;> (rename_i h; refine Does.cutFst h ?_ (fun _ => ?_) <;> clear h))
    | split

theorem State.lookFail_does (s : State) (bitNo : Option Nat) : Does 0x2000020 s (State.lookFail s bitNo) := by
  unfold State.lookFail
  repeat' first
    | with_reducible assumption
    | with_reducible exact Does.refl _ _
    | with_reducible rfl
    | decide
    | (extract_lets +onlyGivenNames u; (with_reducible refine Does.cutAt u ?_ (fun _ => ?_); revert u; with_reducible refine Does.here ?_; rotate_left); revert u; intro _ _; rotate_right)
    | (extract_lets +onlyGivenNames u; clear_value u; revert u; intro _)
    | with_reducible apply Does.setBit
    | with_reducible apply Does.count
    | split
    | with_reducible apply Does.andThen Does.upd_chart

theorem execChartLookup_does (p : Slot) (chks : List Check) (now : Nat) (s : State) : DoesOut 0x80012000c26 s (execChartLookup p chks now s) := by
  unfold execChartLookup
  dsimp only
  refine DoesOut.ite (DoesOut.next (Does.refl _ _)) ?_
  have hn := (State.tellNow_does s now).mono (m := 0x80012000c26) (by decide)
  generalize s.tellNow now = r at hn ⊢
  have hu := Does.andThen (State.unitReads_does r true ((r.lookNow p).zipIdx.map fun b => (b.1, chks.getD b.2 {}))) hn (m := 0x80012000c26) (by decide)
  generalize r.unitReads true ((r.lookNow p).zipIdx.map fun b => (b.1, chks.getD b.2 {})) = q at hu
  have hm := Does.andThen (State.setMem_does q.1 { q.1.gmem with lkUsed := q.1.gmem.lkUsed + (r.lookNow p).length }) hu (by decide)
  generalize q.1.setMem { q.1.gmem with lkUsed := q.1.gmem.lkUsed + (r.lookNow p).length } = t at hm
  have hp : ∀ x, Does 0x80012000c26 s (t.setProb p x) := fun _ => Does.andThen Does.setProb hm (by decide)
  refine DoesOut.ite (DoesOut.next (hp _)) ?_
  split
  · exact DoesOut.next (Does.andThen (State.lookFail_does _ _) (hp _) (by decide))
  · split
    · exact DoesOut.next (Does.andThen (State.lookFail_does _ _) (hp _) (by decide))
    · exact DoesOut.next (Does.andThen (State.lookFail_does _ _) (hp _) (by decide))
    · exact DoesOut.ite (DoesOut.next (hp _)) (DoesOut.next (hp _))

theorem execBuild_does (b : Buf) (met : Met) (s : State) : DoesOut 0x80012000c20 s (execBuild b met s) := by
  unfold execBuild
  repeat' first
    | with_reducible assumption
    | with_reducible exact Does.refl _ _
    | with_reducible rfl
    | decide
    | (extract_lets +onlyGivenNames u; (with_reducible refine DoesOut.cutAt u ?_ (fun _ => ?_); revert u; with_reducible refine Does.here ?_; rotate_left); revert u; intro _ _; rotate_right)
    | (extract_lets +onlyGivenNames u; (with_reducible refine Does.cutAt u ?_ (fun _ => ?_); revert u; with_reducible refine Does.here ?_; rotate_left); revert u; intro _ _; rotate_right)
    | (extract_lets +onlyGivenNames u; clear_value u; revert u; intro _)
    | with_reducible apply DoesOut.next
    | with_reducible apply DoesOut.ite
    | with_reducible apply Does.ite
    | with_reducible apply Does.iteSnd
    | with_reducible apply Does.iteFst
    | with_reducible apply Does.andThen (State.longRead_does _ _ _ _)
    | with_reducible apply Does.andThen (State.cmdErr_does _)
    | with_reducible apply Does.andThen (State.setBufState_does _ _ _)
    | with_reducible apply Does.wr
    | with_reducible apply Does.setBit
    | (split <;> (rename_i h; refine DoesOut.cutSnd h ?_ (fun _ => ?_) <;> clear h))
    | (split <;> (rename_i h; refine DoesOut.cutFst h ?_ (fun _ => ?_) <;> clear h))
    | (split <;> (rename_i h; refine Does.cutSnd h ?_ (fun _ => ?_) <;> clear h))
    | (split <;> (rename_i h; refine Does.cutFst h ?_ (fun _ => ?_) <;> clear h))
    | split
    | with_reducible apply Does.andThen Does.upd_chart

theorem State.writeSect_does (s : State) (b : Buf) (i : Nat) (es : List (Option Course)) (ofs : Nat) : Does 0x80010000001 s (State.writeSect s b i es ofs).1 := by
  unfold State.writeSect
  repeat' first
    | with_reducible assumption
    | with_reducible exact Does.refl _ _
    | with_reducible rfl
    | decide
    | (extract_lets +onlyGivenNames u; (with_reducible refine Does.cutAt u ?_ (fun _ => ?_); revert u; with_reducible refine Does.here ?_; rotate_left); revert u; intro _ _; rotate_right)
    | (extract_lets +onlyGivenNames u; clear_value u; revert u; intro _)
    | with_reducible apply Does.iteSnd
    | with_reducible apply Does.iteFst
    | with_reducible apply Does.andThen (State.unitPut_does _ _ _)
    | with_reducible apply Does.andThen (State.unitPuts_does _ _ _)
    | (split <;> (rename_i h; refine Does.cutSnd h ?_ (fun _ => ?_) <;> clear h))
    | (split <;> (rename_i h; refine Does.cutFst h ?_ (fun _ => ?_) <;> clear h))
    | split

theorem State.finishBuild_does (s : State) (b : Buf) (secs : List (List (Option Course))) (met : Met) : Does 0x80012000421 s (State.finishBuild s b secs met) := by
  unfold State.finishBuild
  repeat' first
    | with_reducible assumption
    | with_reducible exact Does.refl _ _
    | with_reducible rfl
    | decide
    | (extract_lets +onlyGivenNames u; (with_reducible refine Does.cutAt u ?_ (fun _ => ?_); revert u; with_reducible refine Does.here ?_; rotate_left); revert u; intro _ _; rotate_right)
    | (extract_lets +onlyGivenNames u; clear_value u; revert u; intro _)
    | with_reducible apply Does.iteSnd
    | with_reducible apply Does.iteFst
    | with_reducible apply Does.foldl
    | with_reducible apply Does.foldlFst
    | with_reducible apply Does.foldlSnd
    | with_reducible apply Does.andThen (State.writeSect_does _ _ _ _ _)
    | with_reducible apply Does.andThen (State.unitPut_does _ _ _)
    | with_reducible apply Does.andThen (State.meetWrites_does _ _ _ _)
    | with_reducible apply Does.andThen (State.endBuild_does _)
    | with_reducible apply Does.andThen (State.setBufState_does _ _ _)
    | with_reducible apply Does.wr
    | (split <;> (rename_i h; refine Does.cutSnd h ?_ (fun _ => ?_) <;> clear h))
    | (split <;> (rename_i h; refine Does.cutFst h ?_ (fun _ => ?_) <;> clear h))
    | intro _ _ _
    | split

theorem execBuildEntry_does (c : Cl) (met : Met) (s : State) : DoesOut 0x80012000421 s (execBuildEntry c met s) := by
  unfold execBuildEntry
  repeat' first
    | with_reducible assumption
    | with_reducible exact Does.refl _ _
    | with_reducible rfl
    | decide
    | (extract_lets +onlyGivenNames u; (with_reducible refine DoesOut.cutAt u ?_ (fun _ => ?_); revert u; with_reducible refine Does.here ?_; rotate_left); revert u; intro _ _; rotate_right)
    | (extract_lets +onlyGivenNames u; (with_reducible refine Does.cutAt u ?_ (fun _ => ?_); revert u; with_reducible refine Does.here ?_; rotate_left); revert u; intro _ _; rotate_right)
    | (extract_lets +onlyGivenNames u; clear_value u; revert u; intro _)
    | with_reducible apply DoesOut.next
    | with_reducible apply DoesOut.ite
    | with_reducible apply Does.ite
    | with_reducible apply Does.andThen (State.finishBuild_does _ _ _ _)
    | with_reducible apply Does.wr
    | with_reducible apply Does.setFld
    | (rw [pageBit_chrtBuf (by first | omega | decide | exact Nat.lt_of_lt_of_le (portIdx_lt _) (by decide) | exact Nat.lt_of_lt_of_le (bufIdx_lt _) (by decide) | exact Nat.lt_of_lt_of_le (b2n_lt _) (by decide) | exact Nat.lt_of_lt_of_le (Fin.isLt _) (by decide))]; decide)
    | split
    | with_reducible apply Does.andThen Does.upd_chart

theorem State.setTags_does (s : State) (b : Option Buf) : Does 0x2000000 s (State.setTags s b) := by
  unfold State.setTags
  repeat' first
    | with_reducible assumption
    | with_reducible exact Does.refl _ _
    | with_reducible rfl
    | decide
    | (extract_lets +onlyGivenNames u; (with_reducible refine Does.cutAt u ?_ (fun _ => ?_); revert u; with_reducible refine Does.here ?_; rotate_left); revert u; intro _ _; rotate_right)
    | (extract_lets +onlyGivenNames u; clear_value u; revert u; intro _)
    | with_reducible apply Does.each
    | with_reducible apply Does.wr
    | with_reducible apply Does.setFld
    | with_reducible apply Does.setBit
    | (rw [pageBit_chrtTag (by first | omega | decide | exact Nat.lt_of_lt_of_le (portIdx_lt _) (by decide) | exact Nat.lt_of_lt_of_le (bufIdx_lt _) (by decide) | exact Nat.lt_of_lt_of_le (b2n_lt _) (by decide) | exact Nat.lt_of_lt_of_le (Fin.isLt _) (by decide))]; decide)
    | intro _ _ _
    | split

theorem State.setActive_does (s : State) (b : Option Buf) : Does 0x2000000 s (State.setActive s b) := by
  unfold State.setActive
  repeat' first
    | with_reducible assumption
    | with_reducible exact Does.refl _ _
    | with_reducible rfl
    | decide
    | (extract_lets +onlyGivenNames u; (with_reducible refine Does.cutAt u ?_ (fun _ => ?_); revert u; with_reducible refine Does.here ?_; rotate_left); revert u; intro _ _; rotate_right)
    | (extract_lets +onlyGivenNames u; clear_value u; revert u; intro _)
    | with_reducible apply Does.andThen (State.setBufPend_does _ _ _)
    | with_reducible apply Does.andThen (State.setBufState_does _ _ _)
    | with_reducible apply Does.andThen (State.setTags_does _ _)
    | with_reducible apply Does.setFld
    | split

theorem State.writeChartRec_does (s : State) (b : Buf) : Does 0x1 s (State.writeChartRec s b) := by
  unfold State.writeChartRec
  repeat' first
    | with_reducible assumption
    | with_reducible exact Does.refl _ _
    | with_reducible rfl
    | decide
    | (extract_lets +onlyGivenNames u; (with_reducible refine Does.cutAt u ?_ (fun _ => ?_); revert u; with_reducible refine Does.here ?_; rotate_left); revert u; intro _ _; rotate_right)
    | (extract_lets +onlyGivenNames u; clear_value u; revert u; intro _)
    | with_reducible apply Does.andThen (State.recWrite_does _ _ _)
    | split

theorem State.chartMark_does (s : State) : Does 0x2040021 s (State.chartMark s) := by
  unfold State.chartMark
  repeat' first
    | with_reducible assumption
    | with_reducible exact Does.refl _ _
    | with_reducible rfl
    | decide
    | (extract_lets +onlyGivenNames u; (with_reducible refine Does.cutAt u ?_ (fun _ => ?_); revert u; with_reducible refine Does.here ?_; rotate_left); revert u; intro _ _; rotate_right)
    | (extract_lets +onlyGivenNames u; clear_value u; revert u; intro _)
    | with_reducible apply Does.ite
    | with_reducible apply Does.foldl
    | with_reducible apply Does.foldlFst
    | with_reducible apply Does.foldlSnd
    | with_reducible apply Does.andThen (State.setBad6_does _ _)
    | with_reducible apply Does.andThen (State.fire_does _ _)
    | with_reducible apply Does.andThen (State.writeChartRec_does _ _)
    | with_reducible apply Does.andThen (State.setActive_does _ _)
    | with_reducible apply Does.andThen (State.setBufState_does _ _ _)
    | with_reducible apply Does.wr
    | with_reducible apply Does.setBit
    | intro _ _ _
    | split
    | with_reducible apply Does.andThen Does.upd_chart

theorem State.chartRestart_does (s : State) : Does 0x2000020 s (State.chartRestart s) := by
  unfold State.chartRestart
  repeat' first
    | with_reducible assumption
    | with_reducible exact Does.refl _ _
    | with_reducible rfl
    | decide
    | (extract_lets +onlyGivenNames u; (with_reducible refine Does.cutAt u ?_ (fun _ => ?_); revert u; with_reducible refine Does.here ?_; rotate_left); revert u; intro _ _; rotate_right)
    | (extract_lets +onlyGivenNames u; clear_value u; revert u; intro _)
    | with_reducible apply Does.ite
    | with_reducible apply Does.andThen (State.setActive_does _ _)
    | with_reducible apply Does.andThen (State.setBufPend_does _ _ _)
    | with_reducible apply Does.andThen (State.setBufState_does _ _ _)
    | with_reducible apply Does.wr
    | with_reducible apply Does.setBit
    | split
    | with_reducible apply Does.andThen Does.upd_chart

theorem execChartReverify_does (met : Met) (s : State) : DoesOut 0x80012000c20 s (execChartReverify met s) := by
  unfold execChartReverify
  repeat' first
    | with_reducible assumption
    | with_reducible exact Does.refl _ _
    | with_reducible rfl
    | decide
    | (extract_lets +onlyGivenNames u; (with_reducible refine DoesOut.cutAt u ?_ (fun _ => ?_); revert u; with_reducible refine Does.here ?_; rotate_left); revert u; intro _ _; rotate_right)
    | (extract_lets +onlyGivenNames u; (with_reducible refine Does.cutAt u ?_ (fun _ => ?_); revert u; with_reducible refine Does.here ?_; rotate_left); revert u; intro _ _; rotate_right)
    | (extract_lets +onlyGivenNames u; clear_value u; revert u; intro _)
    | with_reducible apply DoesOut.next
    | with_reducible apply DoesOut.ite
    | with_reducible apply Does.ite
    | with_reducible apply Does.iteSnd
    | with_reducible apply Does.iteFst
    | with_reducible apply Does.andThen (State.checkRun_does _ _ _ _)
    | with_reducible apply Does.andThen (State.memUeAt_does _ _)
    | with_reducible apply Does.andThen (State.setBufState_does _ _ _)
    | with_reducible apply Does.andThen (State.setBad6_does _ _)
    | with_reducible apply Does.setBit
    | (split <;> (rename_i h; refine DoesOut.cutSnd h ?_ (fun _ => ?_) <;> clear h))
    | (split <;> (rename_i h; refine DoesOut.cutFst h ?_ (fun _ => ?_) <;> clear h))
    | (split <;> (rename_i h; refine Does.cutSnd h ?_ (fun _ => ?_) <;> clear h))
    | (split <;> (rename_i h; refine Does.cutFst h ?_ (fun _ => ?_) <;> clear h))
    | split
    | with_reducible apply Does.andThen Does.upd_chart

theorem execBackgroundVerify_does (met : Met) (s : State) : DoesOut 0x80012000c20 s (execBackgroundVerify met s) := by
  unfold execBackgroundVerify
  repeat' first
    | with_reducible assumption
    | with_reducible exact Does.refl _ _
    | with_reducible rfl
    | decide
    | (extract_lets +onlyGivenNames u; (with_reducible refine DoesOut.cutAt u ?_ (fun _ => ?_); revert u; with_reducible refine Does.here ?_; rotate_left); revert u; intro _ _; rotate_right)
    | (extract_lets +onlyGivenNames u; (with_reducible refine Does.cutAt u ?_ (fun _ => ?_); revert u; with_reducible refine Does.here ?_; rotate_left); revert u; intro _ _; rotate_right)
    | (extract_lets +onlyGivenNames u; clear_value u; revert u; intro _)
    | with_reducible apply DoesOut.next
    | with_reducible apply DoesOut.ite
    | with_reducible apply Does.ite
    | with_reducible apply Does.iteSnd
    | with_reducible apply Does.iteFst
    | with_reducible apply Does.andThen (State.checkRun_does _ _ _ _)
    | with_reducible apply Does.andThen (State.memUeAt_does _ _)
    | with_reducible apply Does.andThen (State.setBad6_does _ _)
    | with_reducible apply Does.setBit
    | (split <;> (rename_i h; refine DoesOut.cutSnd h ?_ (fun _ => ?_) <;> clear h))
    | (split <;> (rename_i h; refine DoesOut.cutFst h ?_ (fun _ => ?_) <;> clear h))
    | (split <;> (rename_i h; refine Does.cutSnd h ?_ (fun _ => ?_) <;> clear h))
    | (split <;> (rename_i h; refine Does.cutFst h ?_ (fun _ => ?_) <;> clear h))
    | split
    | with_reducible apply Does.andThen Does.upd_chart

end Sys2Proof.Machine
end

