-- ==== Sys2Proof/Laws/DoesPlot.lean ====
section
/-!
SUPPORT. What each operation of Sys2Proof/Machine/Plot.lean can do (see Sys2Proof/Laws/Does.lean).
-/
namespace Sys2Proof.Machine
set_option linter.all false
set_option linter.tactic.unusedName false
theorem State.setPlot_does (s : State) (k : Fin 64) (q : PlotCh) : Does 0x80000 s (State.setPlot s k q) := by
  unfold State.setPlot
  repeat' first
    | with_reducible assumption
    | with_reducible exact Does.refl _ _
    | with_reducible rfl
    | decide
    | (extract_lets +onlyGivenNames u; (with_reducible refine Does.cutAt u ?_ (fun _ => ?_); revert u; with_reducible refine Does.here ?_; rotate_left); revert u; intro _ _; rotate_right)
    | (extract_lets +onlyGivenNames u; clear_value u; revert u; intro _)
    | split
    | with_reducible apply Does.andThen Does.upd_io

theorem State.plotFlag_does (s : State) (k : Fin 64) (i : Nat) : Does 0x400000000 s (State.plotFlag s k i) := by
  unfold State.plotFlag
  repeat' first
    | with_reducible assumption
    | with_reducible exact Does.refl _ _
    | with_reducible rfl
    | decide
    | (extract_lets +onlyGivenNames u; (with_reducible refine Does.cutAt u ?_ (fun _ => ?_); revert u; with_reducible refine Does.here ?_; rotate_left); revert u; intro _ _; rotate_right)
    | (extract_lets +onlyGivenNames u; clear_value u; revert u; intro _)
    | with_reducible apply Does.setBit
    | (rw [pageBit_pltChan (by first | omega | decide | exact Nat.lt_of_lt_of_le (portIdx_lt _) (by decide) | exact Nat.lt_of_lt_of_le (bufIdx_lt _) (by decide) | exact Nat.lt_of_lt_of_le (b2n_lt _) (by decide) | exact Nat.lt_of_lt_of_le (Fin.isLt _) (by decide))]; decide)
    | split

theorem State.plotDone_does (s : State) (k : Fin 64) (q : PlotCh) : Does 0x80000 s (State.plotDone s k q) := by
  unfold State.plotDone
  repeat' first
    | with_reducible assumption
    | with_reducible exact Does.refl _ _
    | with_reducible rfl
    | decide
    | (extract_lets +onlyGivenNames u; (with_reducible refine Does.cutAt u ?_ (fun _ => ?_); revert u; with_reducible refine Does.here ?_; rotate_left); revert u; intro _ _; rotate_right)
    | (extract_lets +onlyGivenNames u; clear_value u; revert u; intro _)
    | with_reducible apply Does.andThen (State.setPlot_does _ _ _)
    | split

theorem State.plotStall_does (s : State) (k : Fin 64) (w : Nat) (seen : Option Bool) : Does 0x80000 s (State.plotStall s k w seen) := by
  unfold State.plotStall
  repeat' first
    | with_reducible assumption
    | with_reducible exact Does.refl _ _
    | with_reducible rfl
    | decide
    | (extract_lets +onlyGivenNames u; (with_reducible refine Does.cutAt u ?_ (fun _ => ?_); revert u; with_reducible refine Does.here ?_; rotate_left); revert u; intro _ _; rotate_right)
    | (extract_lets +onlyGivenNames u; clear_value u; revert u; intro _)
    | with_reducible apply Does.andThen (State.setPlot_does _ _ _)
    | split

theorem State.plotBranch_does (s : State) (k : Fin 64) (cond : Nat) (tgt : Nat) : Does 0x80000 s (State.plotBranch s k cond tgt) := by
  unfold State.plotBranch
  repeat' first
    | with_reducible assumption
    | with_reducible exact Does.refl _ _
    | with_reducible rfl
    | decide
    | (extract_lets +onlyGivenNames u; (with_reducible refine Does.cutAt u ?_ (fun _ => ?_); revert u; with_reducible refine Does.here ?_; rotate_left); revert u; intro _ _; rotate_right)
    | (extract_lets +onlyGivenNames u; clear_value u; revert u; intro _)
    | with_reducible apply Does.ite
    | with_reducible apply Does.andThen (State.setPlot_does _ _ _)
    | with_reducible apply Does.andThen (State.plotDone_does _ _ _)
    | split

theorem State.plotHoldOn_does (s : State) (k : Fin 64) (src : Nat) (pol : Bool) (idx : Nat) : Does 0x80000 s (State.plotHoldOn s k src pol idx) := by
  unfold State.plotHoldOn
  repeat' first
    | with_reducible assumption
    | with_reducible exact Does.refl _ _
    | with_reducible rfl
    | decide
    | (extract_lets +onlyGivenNames u; (with_reducible refine Does.cutAt u ?_ (fun _ => ?_); revert u; with_reducible refine Does.here ?_; rotate_left); revert u; intro _ _; rotate_right)
    | (extract_lets +onlyGivenNames u; clear_value u; revert u; intro _)
    | with_reducible apply Does.ite
    | with_reducible apply Does.andThen (State.plotDone_does _ _ _)
    | with_reducible apply Does.andThen (State.plotStall_does _ _ _ _)
    | split

theorem State.plotHold_does (s : State) (k : Fin 64) (src : Nat) (pol : Bool) (idx : Nat) (t : State)
    (h : State.plotHold s k src pol idx = some t) : Does 0x80000 s t := by
  unfold State.plotHold at h
  split at h
  · cases h
  · cases h; exact (State.plotHoldOn_does _ _ _ _ _).mono (by decide)

theorem State.keepPlot_does (s : State) (k : Fin 64) : Does 0x240000 s (State.keepPlot s k) := by
  unfold State.keepPlot
  repeat' first
    | with_reducible assumption
    | with_reducible exact Does.refl _ _
    | with_reducible rfl
    | decide
    | (extract_lets +onlyGivenNames u; (with_reducible refine Does.cutAt u ?_ (fun _ => ?_); revert u; with_reducible refine Does.here ?_; rotate_left); revert u; intro _ _; rotate_right)
    | (extract_lets +onlyGivenNames u; clear_value u; revert u; intro _)
    | with_reducible apply Does.andThen (State.keepDriven_does _ _)
    | split

theorem State.plotDrive_does (s : State) (k : Fin 64) (oe : Bool) (val : Bool) : Does 0x2c0000 s (State.plotDrive s k oe val) := by
  unfold State.plotDrive
  repeat' first
    | with_reducible assumption
    | with_reducible exact Does.refl _ _
    | with_reducible rfl
    | decide
    | (extract_lets +onlyGivenNames u; (with_reducible refine Does.cutAt u ?_ (fun _ => ?_); revert u; with_reducible refine Does.here ?_; rotate_left); revert u; intro _ _; rotate_right)
    | (extract_lets +onlyGivenNames u; clear_value u; revert u; intro _)
    | with_reducible apply Does.andThen (State.plotDone_does _ _ _)
    | with_reducible apply Does.andThen (State.keepPlot_does _ _)
    | split

theorem State.plotShift_does (s : State) (k : Fin 64) (dir lsb : Bool) (idx : Nat) (t : State)
    (h : State.plotShift s k dir lsb idx = some t) : Does 0x2c0000 s t := by
  unfold State.plotShift at h
  dsimp only at h
  repeat' split at h
  all_goals first
    | cases h; exact (State.plotDone_does _ _ _).mono (by decide)
    | cases h; exact Does.andThen (State.plotDone_does _ _ _) ((State.keepPlot_does _ _).mono (by decide)) (by decide)
    | cases h

theorem State.plotTake_does (s : State) (k : Fin 64) (nb : Bool) (len : Nat) : Does 0x80000 s (State.plotTake s k nb len) := by
  unfold State.plotTake
  repeat' first
    | with_reducible assumption
    | with_reducible exact Does.refl _ _
    | with_reducible rfl
    | decide
    | (extract_lets +onlyGivenNames u; (with_reducible refine Does.cutAt u ?_ (fun _ => ?_); revert u; with_reducible refine Does.here ?_; rotate_left); revert u; intro _ _; rotate_right)
    | (extract_lets +onlyGivenNames u; clear_value u; revert u; intro _)
    | with_reducible apply Does.ite
    | with_reducible apply Does.andThen (State.plotDone_does _ _ _)
    | with_reducible apply Does.andThen (State.plotStall_does _ _ _ _)
    | split

theorem State.plotGive_does (s : State) (k : Fin 64) (nb : Bool) : Does 0x400080000 s (State.plotGive s k nb) := by
  unfold State.plotGive
  repeat' first
    | with_reducible assumption
    | with_reducible exact Does.refl _ _
    | with_reducible rfl
    | decide
    | (extract_lets +onlyGivenNames u; (with_reducible refine Does.cutAt u ?_ (fun _ => ?_); revert u; with_reducible refine Does.here ?_; rotate_left); revert u; intro _ _; rotate_right)
    | (extract_lets +onlyGivenNames u; clear_value u; revert u; intro _)
    | with_reducible apply Does.ite
    | with_reducible apply Does.andThen (State.plotDone_does _ _ _)
    | with_reducible apply Does.andThen (State.plotFlag_does _ _ _)
    | with_reducible apply Does.andThen (State.plotStall_does _ _ _ _)
    | split

theorem State.plotCopy_does (s : State) (k : Fin 64) (dst : Nat) (src : Nat) : Does 0x80000 s (State.plotCopy s k dst src) := by
  unfold State.plotCopy
  repeat' first
    | with_reducible assumption
    | with_reducible exact Does.refl _ _
    | with_reducible rfl
    | decide
    | (extract_lets +onlyGivenNames u; (with_reducible refine Does.cutAt u ?_ (fun _ => ?_); revert u; with_reducible refine Does.here ?_; rotate_left); revert u; intro _ _; rotate_right)
    | (extract_lets +onlyGivenNames u; clear_value u; revert u; intro _)
    | with_reducible apply Does.ite
    | with_reducible apply Does.andThen (State.plotDone_does _ _ _)
    | split

theorem State.plotLoad_does (s : State) (k : Fin 64) (regB : Bool) (imm : Nat) : Does 0x80000 s (State.plotLoad s k regB imm) := by
  unfold State.plotLoad
  repeat' first
    | with_reducible assumption
    | with_reducible exact Does.refl _ _
    | with_reducible rfl
    | decide
    | (extract_lets +onlyGivenNames u; (with_reducible refine Does.cutAt u ?_ (fun _ => ?_); revert u; with_reducible refine Does.here ?_; rotate_left); revert u; intro _ _; rotate_right)
    | (extract_lets +onlyGivenNames u; clear_value u; revert u; intro _)
    | with_reducible apply Does.ite
    | with_reducible apply Does.andThen (State.plotDone_does _ _ _)
    | split

theorem State.plotSignal_does (s : State) (k : Fin 64) (kind : Nat) : Does 0xc0000 s (State.plotSignal s k kind) := by
  unfold State.plotSignal
  repeat' first
    | with_reducible assumption
    | with_reducible exact Does.refl _ _
    | with_reducible rfl
    | decide
    | (extract_lets +onlyGivenNames u; (with_reducible refine Does.cutAt u ?_ (fun _ => ?_); revert u; with_reducible refine Does.here ?_; rotate_left); revert u; intro _ _; rotate_right)
    | (extract_lets +onlyGivenNames u; clear_value u; revert u; intro _)
    | with_reducible apply Does.ite
    | with_reducible apply Does.andThen (State.fire_does _ _)
    | with_reducible apply Does.andThen (State.plotDone_does _ _ _)
    | split

theorem State.plotAfter_does {m : Nat} (s : State) (k : Fin 64) (dly : Nat) (r : Option State) (e : 0x400080000 &&& m = 0x400080000)
    (h : ∀ t, r = some t → Does m s t) : Does m s (State.plotAfter s k dly r) := by
  cases r with
  | none =>
    exact Does.mono (n := 0x400080000) (Does.setBit (Does.andThen (State.plotFlag_does _ _ _) ((State.setPlot_does _ _ _).mono (by decide)) (by decide)) (by decide)) e
  | some t => exact Does.andThen (State.setPlot_does _ _ _) (h t rfl) (foot_sub (by decide) e)

theorem plotExec_does {m : Nat} (s : State) (k : Fin 64) (dly : Fin 16) (r : Option State) (e : 0x400080000 &&& m = 0x400080000)
    (h : ∀ t, r = some t → Does m s t) : DoesOut m s (plotExec s k dly r) :=
  DoesOut.next (Does.ite (State.plotAfter_does s k dly.val r e h) (Does.refl _ _))

theorem execBranch_does (e : Fin 4) (c : Fin 16) (dly : Fin 16) (cond : Fin 8) (tgt : BitVec 7) (s : State) : DoesOut 0x400080000 s (execBranch e c dly cond tgt s) := by
  unfold execBranch
  repeat' first
    | with_reducible assumption
    | with_reducible exact Does.refl _ _
    | with_reducible rfl
    | decide
    | (extract_lets +onlyGivenNames u; (with_reducible refine DoesOut.cutAt u ?_ (fun _ => ?_); revert u; with_reducible refine Does.here ?_; rotate_left); revert u; intro _ _; rotate_right)
    | (extract_lets +onlyGivenNames u; (with_reducible refine Does.cutAt u ?_ (fun _ => ?_); revert u; with_reducible refine Does.here ?_; rotate_left); revert u; intro _ _; rotate_right)
    | (extract_lets +onlyGivenNames u; clear_value u; revert u; intro _)
    | with_reducible apply DoesOut.next
    | with_reducible apply DoesOut.ite
    | with_reducible apply Does.ite
    | refine plotExec_does _ _ _ _ (by decide) (fun t e => ?_)
    | (cases e)
    | (exact Does.mono (State.plotHold_does _ _ _ _ _ _ e) (by decide))
    | (exact Does.mono (State.plotShift_does _ _ _ _ _ _ e) (by decide))
    | with_reducible apply Does.andThen (State.plotBranch_does _ _ _ _)
    | split

theorem execHold_does (e : Fin 4) (c : Fin 16) (dly : Fin 16) (src : Fin 4) (pol : Bool) (idx : Fin 16) (s : State) : DoesOut 0x400080000 s (execHold e c dly src pol idx s) := by
  unfold execHold
  repeat' first
    | with_reducible assumption
    | with_reducible exact Does.refl _ _
    | with_reducible rfl
    | decide
    | (extract_lets +onlyGivenNames u; (with_reducible refine DoesOut.cutAt u ?_ (fun _ => ?_); revert u; with_reducible refine Does.here ?_; rotate_left); revert u; intro _ _; rotate_right)
    | (extract_lets +onlyGivenNames u; (with_reducible refine Does.cutAt u ?_ (fun _ => ?_); revert u; with_reducible refine Does.here ?_; rotate_left); revert u; intro _ _; rotate_right)
    | (extract_lets +onlyGivenNames u; clear_value u; revert u; intro _)
    | with_reducible apply DoesOut.next
    | with_reducible apply DoesOut.ite
    | with_reducible apply Does.ite
    | refine plotExec_does _ _ _ _ (by decide) (fun t e => ?_)
    | (cases e)
    | (exact Does.mono (State.plotHold_does _ _ _ _ _ _ e) (by decide))
    | (exact Does.mono (State.plotShift_does _ _ _ _ _ _ e) (by decide))
    | split

theorem execDrive_does (e : Fin 4) (c : Fin 16) (dly : Fin 16) (oe : Bool) (val : Bool) (s : State) : DoesOut 0x4002c0000 s (execDrive e c dly oe val s) := by
  unfold execDrive
  repeat' first
    | with_reducible assumption
    | with_reducible exact Does.refl _ _
    | with_reducible rfl
    | decide
    | (extract_lets +onlyGivenNames u; (with_reducible refine DoesOut.cutAt u ?_ (fun _ => ?_); revert u; with_reducible refine Does.here ?_; rotate_left); revert u; intro _ _; rotate_right)
    | (extract_lets +onlyGivenNames u; (with_reducible refine Does.cutAt u ?_ (fun _ => ?_); revert u; with_reducible refine Does.here ?_; rotate_left); revert u; intro _ _; rotate_right)
    | (extract_lets +onlyGivenNames u; clear_value u; revert u; intro _)
    | with_reducible apply DoesOut.next
    | with_reducible apply DoesOut.ite
    | with_reducible apply Does.ite
    | refine plotExec_does _ _ _ _ (by decide) (fun t e => ?_)
    | (cases e)
    | (exact Does.mono (State.plotHold_does _ _ _ _ _ _ e) (by decide))
    | (exact Does.mono (State.plotShift_does _ _ _ _ _ _ e) (by decide))
    | with_reducible apply Does.andThen (State.plotDrive_does _ _ _ _)
    | split

theorem execShift_does (e : Fin 4) (c : Fin 16) (dly : Fin 16) (dir : Bool) (lsb : Bool) (idx : Fin 16) (s : State) : DoesOut 0x4002c0000 s (execShift e c dly dir lsb idx s) := by
  unfold execShift
  repeat' first
    | with_reducible assumption
    | with_reducible exact Does.refl _ _
    | with_reducible rfl
    | decide
    | (extract_lets +onlyGivenNames u; (with_reducible refine DoesOut.cutAt u ?_ (fun _ => ?_); revert u; with_reducible refine Does.here ?_; rotate_left); revert u; intro _ _; rotate_right)
    | (extract_lets +onlyGivenNames u; (with_reducible refine Does.cutAt u ?_ (fun _ => ?_); revert u; with_reducible refine Does.here ?_; rotate_left); revert u; intro _ _; rotate_right)
    | (extract_lets +onlyGivenNames u; clear_value u; revert u; intro _)
    | with_reducible apply DoesOut.next
    | with_reducible apply DoesOut.ite
    | with_reducible apply Does.ite
    | refine plotExec_does _ _ _ _ (by decide) (fun t e => ?_)
    | (cases e)
    | (exact Does.mono (State.plotHold_does _ _ _ _ _ _ e) (by decide))
    | (exact Does.mono (State.plotShift_does _ _ _ _ _ _ e) (by decide))
    | split

theorem execTake_does (e : Fin 4) (c : Fin 16) (dly : Fin 16) (nb : Bool) (len : Fin 32) (s : State) : DoesOut 0x400080000 s (execTake e c dly nb len s) := by
  unfold execTake
  repeat' first
    | with_reducible assumption
    | with_reducible exact Does.refl _ _
    | with_reducible rfl
    | decide
    | (extract_lets +onlyGivenNames u; (with_reducible refine DoesOut.cutAt u ?_ (fun _ => ?_); revert u; with_reducible refine Does.here ?_; rotate_left); revert u; intro _ _; rotate_right)
    | (extract_lets +onlyGivenNames u; (with_reducible refine Does.cutAt u ?_ (fun _ => ?_); revert u; with_reducible refine Does.here ?_; rotate_left); revert u; intro _ _; rotate_right)
    | (extract_lets +onlyGivenNames u; clear_value u; revert u; intro _)
    | with_reducible apply DoesOut.next
    | with_reducible apply DoesOut.ite
    | with_reducible apply Does.ite
    | refine plotExec_does _ _ _ _ (by decide) (fun t e => ?_)
    | (cases e)
    | (exact Does.mono (State.plotHold_does _ _ _ _ _ _ e) (by decide))
    | (exact Does.mono (State.plotShift_does _ _ _ _ _ _ e) (by decide))
    | with_reducible apply Does.andThen (State.plotTake_does _ _ _ _)
    | split

theorem execGive_does (e : Fin 4) (c : Fin 16) (dly : Fin 16) (nb : Bool) (s : State) : DoesOut 0x400080000 s (execGive e c dly nb s) := by
  unfold execGive
  repeat' first
    | with_reducible assumption
    | with_reducible exact Does.refl _ _
    | with_reducible rfl
    | decide
    | (extract_lets +onlyGivenNames u; (with_reducible refine DoesOut.cutAt u ?_ (fun _ => ?_); revert u; with_reducible refine Does.here ?_; rotate_left); revert u; intro _ _; rotate_right)
    | (extract_lets +onlyGivenNames u; (with_reducible refine Does.cutAt u ?_ (fun _ => ?_); revert u; with_reducible refine Does.here ?_; rotate_left); revert u; intro _ _; rotate_right)
    | (extract_lets +onlyGivenNames u; clear_value u; revert u; intro _)
    | with_reducible apply DoesOut.next
    | with_reducible apply DoesOut.ite
    | with_reducible apply Does.ite
    | refine plotExec_does _ _ _ _ (by decide) (fun t e => ?_)
    | (cases e)
    | (exact Does.mono (State.plotHold_does _ _ _ _ _ _ e) (by decide))
    | (exact Does.mono (State.plotShift_does _ _ _ _ _ _ e) (by decide))
    | with_reducible apply Does.andThen (State.plotGive_does _ _ _)
    | split

theorem execCopy_does (e : Fin 4) (c : Fin 16) (dly : Fin 16) (dst : Fin 4) (src : Fin 7) (now : Nat) (s : State) : DoesOut 0x400080002 s (execCopy e c dly dst src now s) := by
  unfold execCopy
  have hn := (State.tellNow_does s now).mono (m := 0x400080002) (by decide)
  generalize s.tellNow now = r at hn ⊢
  refine fun t e => Does.trans (n := 0x400080002) hn (plotExec_does r _ _ _ (by decide) (fun u h => ?_) t e) (by decide)
  cases h; exact (State.plotCopy_does _ _ _ _).mono (by decide)

theorem execLoad_does (e : Fin 4) (c : Fin 16) (dly : Fin 16) (regB : Bool) (imm : BitVec 16) (s : State) : DoesOut 0x400080000 s (execLoad e c dly regB imm s) := by
  unfold execLoad
  repeat' first
    | with_reducible assumption
    | with_reducible exact Does.refl _ _
    | with_reducible rfl
    | decide
    | (extract_lets +onlyGivenNames u; (with_reducible refine DoesOut.cutAt u ?_ (fun _ => ?_); revert u; with_reducible refine Does.here ?_; rotate_left); revert u; intro _ _; rotate_right)
    | (extract_lets +onlyGivenNames u; (with_reducible refine Does.cutAt u ?_ (fun _ => ?_); revert u; with_reducible refine Does.here ?_; rotate_left); revert u; intro _ _; rotate_right)
    | (extract_lets +onlyGivenNames u; clear_value u; revert u; intro _)
    | with_reducible apply DoesOut.next
    | with_reducible apply DoesOut.ite
    | with_reducible apply Does.ite
    | refine plotExec_does _ _ _ _ (by decide) (fun t e => ?_)
    | (cases e)
    | (exact Does.mono (State.plotHold_does _ _ _ _ _ _ e) (by decide))
    | (exact Does.mono (State.plotShift_does _ _ _ _ _ _ e) (by decide))
    | with_reducible apply Does.andThen (State.plotLoad_does _ _ _ _)
    | split

theorem execSignal_does (e : Fin 4) (c : Fin 16) (dly : Fin 16) (kind : Fin 4) (s : State) : DoesOut 0x4000c0000 s (execSignal e c dly kind s) := by
  unfold execSignal
  repeat' first
    | with_reducible assumption
    | with_reducible exact Does.refl _ _
    | with_reducible rfl
    | decide
    | (extract_lets +onlyGivenNames u; (with_reducible refine DoesOut.cutAt u ?_ (fun _ => ?_); revert u; with_reducible refine Does.here ?_; rotate_left); revert u; intro _ _; rotate_right)
    | (extract_lets +onlyGivenNames u; (with_reducible refine Does.cutAt u ?_ (fun _ => ?_); revert u; with_reducible refine Does.here ?_; rotate_left); revert u; intro _ _; rotate_right)
    | (extract_lets +onlyGivenNames u; clear_value u; revert u; intro _)
    | with_reducible apply DoesOut.next
    | with_reducible apply DoesOut.ite
    | with_reducible apply Does.ite
    | refine plotExec_does _ _ _ _ (by decide) (fun t e => ?_)
    | (cases e)
    | (exact Does.mono (State.plotHold_does _ _ _ _ _ _ e) (by decide))
    | (exact Does.mono (State.plotShift_does _ _ _ _ _ _ e) (by decide))
    | with_reducible apply Does.andThen (State.plotSignal_does _ _ _)
    | split

theorem State.plotInsn_does (s : State) (k : Fin 64) (w : Nat) (t : State) (h : State.plotInsn s k w = some t) : Does 0x4002c0000 s t := by
  unfold State.plotInsn at h
  dsimp only at h
  repeat' split at h
  all_goals first
    | cases h; first | exact (State.plotBranch_does _ _ _ _).mono (by decide) | exact (State.plotDrive_does _ _ _ _).mono (by decide) | exact (State.plotTake_does _ _ _ _).mono (by decide) | exact (State.plotGive_does _ _ _).mono (by decide) | exact (State.plotCopy_does _ _ _ _).mono (by decide) | exact (State.plotLoad_does _ _ _ _).mono (by decide) | exact (State.plotSignal_does _ _ _).mono (by decide)
    | exact (State.plotHold_does _ _ _ _ _ _ h).mono (by decide)
    | exact (State.plotShift_does _ _ _ _ _ _ h).mono (by decide)
    | cases h

theorem State.serveSlot_does (s : State) (k : Fin 64) : Does 0x4002c0000 s (State.serveSlot s k) := by
  unfold State.serveSlot
  dsimp only
  refine Does.ite ((State.setPlot_does _ _ _).mono (by decide)) ?_
  exact State.plotAfter_does _ _ _ _ (by decide) fun t h => (State.plotInsn_does _ _ _ _ h).mono (by decide)

theorem execPlotSlot_does (e : Fin 4) (now : Nat) (s : State) : DoesOut 0x4002c0002 s (execPlotSlot e now s) := by
  unfold execPlotSlot
  repeat' first
    | with_reducible assumption
    | with_reducible exact Does.refl _ _
    | with_reducible rfl
    | decide
    | (extract_lets +onlyGivenNames u; (with_reducible refine DoesOut.cutAt u ?_ (fun _ => ?_); revert u; with_reducible refine Does.here ?_; rotate_left); revert u; intro _ _; rotate_right)
    | (extract_lets +onlyGivenNames u; (with_reducible refine Does.cutAt u ?_ (fun _ => ?_); revert u; with_reducible refine Does.here ?_; rotate_left); revert u; intro _ _; rotate_right)
    | (extract_lets +onlyGivenNames u; clear_value u; revert u; intro _)
    | with_reducible apply DoesOut.next
    | with_reducible apply DoesOut.ite
    | with_reducible apply Does.ite
    | with_reducible apply Does.andThen (State.tellNow_does _ _)
    | with_reducible apply Does.andThen (State.serveSlot_does _ _)
    | split
    | with_reducible apply Does.andThen Does.upd_io

theorem State.plotMark_does (s : State) : Does 0x80000 s (State.plotMark s) := by
  unfold State.plotMark
  repeat' first
    | with_reducible assumption
    | with_reducible exact Does.refl _ _
    | with_reducible rfl
    | decide
    | (extract_lets +onlyGivenNames u; (with_reducible refine Does.cutAt u ?_ (fun _ => ?_); revert u; with_reducible refine Does.here ?_; rotate_left); revert u; intro _ _; rotate_right)
    | (extract_lets +onlyGivenNames u; clear_value u; revert u; intro _)
    | with_reducible apply Does.ite
    | split
    | with_reducible apply Does.andThen Does.upd_io

theorem State.plotRunOne_does (s : State) (k : Fin 64) : Does 0x80000 s (State.plotRunOne s k) := by
  unfold State.plotRunOne
  repeat' first
    | with_reducible assumption
    | with_reducible exact Does.refl _ _
    | with_reducible rfl
    | decide
    | (extract_lets +onlyGivenNames u; (with_reducible refine Does.cutAt u ?_ (fun _ => ?_); revert u; with_reducible refine Does.here ?_; rotate_left); revert u; intro _ _; rotate_right)
    | (extract_lets +onlyGivenNames u; clear_value u; revert u; intro _)
    | with_reducible apply Does.andThen (State.setPlot_does _ _ _)
    | split

theorem State.plotHaltOne_does (s : State) (k : Fin 64) : Does 0x80000 s (State.plotHaltOne s k) := by
  unfold State.plotHaltOne
  repeat' first
    | with_reducible assumption
    | with_reducible exact Does.refl _ _
    | with_reducible rfl
    | decide
    | (extract_lets +onlyGivenNames u; (with_reducible refine Does.cutAt u ?_ (fun _ => ?_); revert u; with_reducible refine Does.here ?_; rotate_left); revert u; intro _ _; rotate_right)
    | (extract_lets +onlyGivenNames u; clear_value u; revert u; intro _)
    | with_reducible apply Does.andThen (State.setPlot_does _ _ _)
    | split

theorem execPlotRun_does (e : Fin 4) (mask : BitVec 16) (s : State) : DoesOut 0x80000 s (execPlotRun e mask s) := by
  unfold execPlotRun
  repeat' first
    | with_reducible assumption
    | with_reducible exact Does.refl _ _
    | with_reducible rfl
    | decide
    | (extract_lets +onlyGivenNames u; (with_reducible refine DoesOut.cutAt u ?_ (fun _ => ?_); revert u; with_reducible refine Does.here ?_; rotate_left); revert u; intro _ _; rotate_right)
    | (extract_lets +onlyGivenNames u; (with_reducible refine Does.cutAt u ?_ (fun _ => ?_); revert u; with_reducible refine Does.here ?_; rotate_left); revert u; intro _ _; rotate_right)
    | (extract_lets +onlyGivenNames u; clear_value u; revert u; intro _)
    | with_reducible apply DoesOut.next
    | with_reducible apply DoesOut.ite
    | with_reducible apply Does.ite
    | with_reducible apply Does.each
    | with_reducible apply Does.andThen (State.plotRunOne_does _ _)
    | intro _ _ _
    | split

theorem execPlotHalt_does (e : Fin 4) (mask : BitVec 16) (s : State) : DoesOut 0x80000 s (execPlotHalt e mask s) := by
  unfold execPlotHalt
  repeat' first
    | with_reducible assumption
    | with_reducible exact Does.refl _ _
    | with_reducible rfl
    | decide
    | (extract_lets +onlyGivenNames u; (with_reducible refine DoesOut.cutAt u ?_ (fun _ => ?_); revert u; with_reducible refine Does.here ?_; rotate_left); revert u; intro _ _; rotate_right)
    | (extract_lets +onlyGivenNames u; (with_reducible refine Does.cutAt u ?_ (fun _ => ?_); revert u; with_reducible refine Does.here ?_; rotate_left); revert u; intro _ _; rotate_right)
    | (extract_lets +onlyGivenNames u; clear_value u; revert u; intro _)
    | with_reducible apply DoesOut.next
    | with_reducible apply DoesOut.ite
    | with_reducible apply Does.ite
    | with_reducible apply Does.each
    | with_reducible apply Does.andThen (State.plotHaltOne_does _ _)
    | intro _ _ _
    | split

theorem State.txqAppend_does (s : State) (k : Fin 64) (v : Word) : Does 0x400080000 s (State.txqAppend s k v) := by
  unfold State.txqAppend
  repeat' first
    | with_reducible assumption
    | with_reducible exact Does.refl _ _
    | with_reducible rfl
    | decide
    | (extract_lets +onlyGivenNames u; (with_reducible refine Does.cutAt u ?_ (fun _ => ?_); revert u; with_reducible refine Does.here ?_; rotate_left); revert u; intro _ _; rotate_right)
    | (extract_lets +onlyGivenNames u; clear_value u; revert u; intro _)
    | with_reducible apply Does.ite
    | with_reducible apply Does.andThen (State.setPlot_does _ _ _)
    | with_reducible apply Does.andThen (State.plotFlag_does _ _ _)
    | split

theorem execTxqWrite_does (e : Fin 4) (c : Fin 16) (v : Word) (s : State) : DoesOut 0x400080000 s (execTxqWrite e c v s) := by
  unfold execTxqWrite
  repeat' first
    | with_reducible assumption
    | with_reducible exact Does.refl _ _
    | with_reducible rfl
    | decide
    | (extract_lets +onlyGivenNames u; (with_reducible refine DoesOut.cutAt u ?_ (fun _ => ?_); revert u; with_reducible refine Does.here ?_; rotate_left); revert u; intro _ _; rotate_right)
    | (extract_lets +onlyGivenNames u; (with_reducible refine Does.cutAt u ?_ (fun _ => ?_); revert u; with_reducible refine Does.here ?_; rotate_left); revert u; intro _ _; rotate_right)
    | (extract_lets +onlyGivenNames u; clear_value u; revert u; intro _)
    | with_reducible apply DoesOut.next
    | with_reducible apply DoesOut.ite
    | with_reducible apply Does.ite
    | with_reducible apply Does.andThen (State.txqAppend_does _ _ _)
    | split

theorem State.rxqPop_does (s : State) (k : Fin 64) : Does 0x400080000 s (State.rxqPop s k).2 := by
  unfold State.rxqPop
  repeat' first
    | with_reducible assumption
    | with_reducible exact Does.refl _ _
    | with_reducible rfl
    | decide
    | (extract_lets +onlyGivenNames u; (with_reducible refine Does.cutAt u ?_ (fun _ => ?_); revert u; with_reducible refine Does.here ?_; rotate_left); revert u; intro _ _; rotate_right)
    | (extract_lets +onlyGivenNames u; clear_value u; revert u; intro _)
    | with_reducible apply Does.iteSnd
    | with_reducible apply Does.iteFst
    | with_reducible apply Does.andThen (State.setPlot_does _ _ _)
    | with_reducible apply Does.andThen (State.plotFlag_does _ _ _)
    | (split <;> (rename_i h; refine Does.cutSnd h ?_ (fun _ => ?_) <;> clear h))
    | (split <;> (rename_i h; refine Does.cutFst h ?_ (fun _ => ?_) <;> clear h))
    | split

theorem execRxqRead_does (e : Fin 4) (c : Fin 16) (s : State) : DoesOut 0x400080000 s (execRxqRead e c s) := by
  unfold execRxqRead
  repeat' first
    | with_reducible assumption
    | with_reducible exact Does.refl _ _
    | with_reducible rfl
    | decide
    | (extract_lets +onlyGivenNames u; (with_reducible refine DoesOut.cutAt u ?_ (fun _ => ?_); revert u; with_reducible refine Does.here ?_; rotate_left); revert u; intro _ _; rotate_right)
    | (extract_lets +onlyGivenNames u; (with_reducible refine Does.cutAt u ?_ (fun _ => ?_); revert u; with_reducible refine Does.here ?_; rotate_left); revert u; intro _ _; rotate_right)
    | (extract_lets +onlyGivenNames u; clear_value u; revert u; intro _)
    | with_reducible apply DoesOut.next
    | with_reducible apply DoesOut.ite
    | with_reducible apply Does.ite
    | with_reducible apply Does.iteSnd
    | with_reducible apply Does.iteFst
    | with_reducible apply Does.andThen (State.rxqPop_does _ _)
    | (split <;> (rename_i h; refine DoesOut.cutSnd h ?_ (fun _ => ?_) <;> clear h))
    | (split <;> (rename_i h; refine DoesOut.cutFst h ?_ (fun _ => ?_) <;> clear h))
    | (split <;> (rename_i h; refine Does.cutSnd h ?_ (fun _ => ?_) <;> clear h))
    | (split <;> (rename_i h; refine Does.cutFst h ?_ (fun _ => ?_) <;> clear h))
    | split

theorem State.setJoin_does (s : State) (k : Fin 64) (j : Nat) : Does 0x400080000 s (State.setJoin s k j) := by
  unfold State.setJoin
  repeat' first
    | with_reducible assumption
    | with_reducible exact Does.refl _ _
    | with_reducible rfl
    | decide
    | (extract_lets +onlyGivenNames u; (with_reducible refine Does.cutAt u ?_ (fun _ => ?_); revert u; with_reducible refine Does.here ?_; rotate_left); revert u; intro _ _; rotate_right)
    | (extract_lets +onlyGivenNames u; clear_value u; revert u; intro _)
    | with_reducible apply Does.ite
    | with_reducible apply Does.andThen (State.setPlot_does _ _ _)
    | with_reducible apply Does.setFld
    | (rw [pageBit_pltChan (by first | omega | decide | exact Nat.lt_of_lt_of_le (portIdx_lt _) (by decide) | exact Nat.lt_of_lt_of_le (bufIdx_lt _) (by decide) | exact Nat.lt_of_lt_of_le (b2n_lt _) (by decide) | exact Nat.lt_of_lt_of_le (Fin.isLt _) (by decide))]; decide)
    | split

theorem execJoinWrite_does (e : Fin 4) (c : Fin 16) (join : Fin 4) (s : State) : DoesOut 0x400080000 s (execJoinWrite e c join s) := by
  unfold execJoinWrite
  repeat' first
    | with_reducible assumption
    | with_reducible exact Does.refl _ _
    | with_reducible rfl
    | decide
    | (extract_lets +onlyGivenNames u; (with_reducible refine DoesOut.cutAt u ?_ (fun _ => ?_); revert u; with_reducible refine Does.here ?_; rotate_left); revert u; intro _ _; rotate_right)
    | (extract_lets +onlyGivenNames u; (with_reducible refine Does.cutAt u ?_ (fun _ => ?_); revert u; with_reducible refine Does.here ?_; rotate_left); revert u; intro _ _; rotate_right)
    | (extract_lets +onlyGivenNames u; clear_value u; revert u; intro _)
    | with_reducible apply DoesOut.next
    | with_reducible apply DoesOut.ite
    | with_reducible apply Does.ite
    | with_reducible apply Does.andThen (State.setJoin_does _ _ _)
    | split

theorem State.plotEvent_does (s : State) (k : Fin 64) : Does 0x400080000 s (State.plotEvent s k) := by
  unfold State.plotEvent
  repeat' first
    | with_reducible assumption
    | with_reducible exact Does.refl _ _
    | with_reducible rfl
    | decide
    | (extract_lets +onlyGivenNames u; (with_reducible refine Does.cutAt u ?_ (fun _ => ?_); revert u; with_reducible refine Does.here ?_; rotate_left); revert u; intro _ _; rotate_right)
    | (extract_lets +onlyGivenNames u; clear_value u; revert u; intro _)
    | with_reducible apply Does.ite
    | with_reducible apply Does.andThen (State.plotFlag_does _ _ _)
    | with_reducible apply Does.andThen (State.setPlot_does _ _ _)
    | split

theorem State.plotRegWrite_does (s : State) (k : Fin 64) (o : Nat) (v : Word) : Does 0x400080000 s (State.plotRegWrite s k o v) := by
  unfold State.plotRegWrite
  repeat' first
    | with_reducible assumption
    | with_reducible exact Does.refl _ _
    | with_reducible rfl
    | decide
    | (extract_lets +onlyGivenNames u; (with_reducible refine Does.cutAt u ?_ (fun _ => ?_); revert u; with_reducible refine Does.here ?_; rotate_left); revert u; intro _ _; rotate_right)
    | (extract_lets +onlyGivenNames u; clear_value u; revert u; intro _)
    | with_reducible apply Does.ite
    | with_reducible apply Does.andThen (State.setPlot_does _ _ _)
    | with_reducible apply Does.setBit
    | split

end Sys2Proof.Machine
end

