-- ==== Sys2Proof/Laws/DoesEvents.lean ====
section
/-!
SUPPORT. What each operation of Sys2Proof/Machine/Events.lean can do (see Sys2Proof/Laws/Does.lean).
-/
namespace Sys2Proof.Machine
set_option linter.all false
set_option linter.tactic.unusedName false
theorem State.timerEn_does (s : State) (n : Fin 4) (en : Bool) : Does 0x800002 s (State.timerEn s n en) := by
  unfold State.timerEn
  repeat' first
    | with_reducible assumption
    | with_reducible exact Does.refl _ _
    | with_reducible rfl
    | decide
    | (extract_lets +onlyGivenNames u; (with_reducible refine Does.cutAt u ?_ (fun _ => ?_); revert u; with_reducible refine Does.here ?_; rotate_left); revert u; intro _ _; rotate_right)
    | (extract_lets +onlyGivenNames u; clear_value u; revert u; intro _)
    | with_reducible apply Does.ite
    | with_reducible apply Does.setBit
    | (rw [pageBit_perTmrCtrl (by first | omega | decide | exact Nat.lt_of_lt_of_le (portIdx_lt _) (by decide) | exact Nat.lt_of_lt_of_le (bufIdx_lt _) (by decide) | exact Nat.lt_of_lt_of_le (b2n_lt _) (by decide) | exact Nat.lt_of_lt_of_le (Fin.isLt _) (by decide))]; decide)
    | split
    | with_reducible apply Does.andThen Does.upd_per

theorem State.keepLine_does (s : State) (i : Nat) : Does 0x240000 s (State.keepLine s i) := by
  unfold State.keepLine
  repeat' first
    | with_reducible assumption
    | with_reducible exact Does.refl _ _
    | with_reducible rfl
    | decide
    | (extract_lets +onlyGivenNames u; (with_reducible refine Does.cutAt u ?_ (fun _ => ?_); revert u; with_reducible refine Does.here ?_; rotate_left); revert u; intro _ _; rotate_right)
    | (extract_lets +onlyGivenNames u; clear_value u; revert u; intro _)
    | with_reducible apply Does.andThen (State.keepDriven_does _ _)
    | split

theorem State.outTask_does (s : State) (i : Nat) : Does 0x240000 s (State.outTask s i) := by
  unfold State.outTask
  repeat' first
    | with_reducible assumption
    | with_reducible exact Does.refl _ _
    | with_reducible rfl
    | decide
    | (extract_lets +onlyGivenNames u; (with_reducible refine Does.cutAt u ?_ (fun _ => ?_); revert u; with_reducible refine Does.here ?_; rotate_left); revert u; intro _ _; rotate_right)
    | (extract_lets +onlyGivenNames u; clear_value u; revert u; intro _)
    | with_reducible apply Does.ite
    | with_reducible apply Does.andThen (State.keepLine_does _ _)
    | split
    | with_reducible apply Does.andThen Does.upd_pins

theorem State.task_does (s : State) (k : Nat) : Does 0x40dac420f s (State.task s k) := by
  unfold State.task
  repeat' first
    | with_reducible assumption
    | with_reducible exact Does.refl _ _
    | with_reducible rfl
    | decide
    | (extract_lets +onlyGivenNames u; (with_reducible refine Does.cutAt u ?_ (fun _ => ?_); revert u; with_reducible refine Does.here ?_; rotate_left); revert u; intro _ _; rotate_right)
    | (extract_lets +onlyGivenNames u; clear_value u; revert u; intro _)
    | with_reducible apply Does.ite
    | with_reducible apply Does.andThen (State.launchReq_does _ _)
    | with_reducible apply Does.andThen (State.fixReadyReq_does _ _)
    | with_reducible apply Does.andThen (State.closeReq_does _ _)
    | with_reducible apply Does.andThen (State.capTrig_does _ _)
    | with_reducible apply Does.andThen (State.capFreeze_does _)
    | with_reducible apply Does.andThen (State.timerEn_does _ _ _)
    | with_reducible apply Does.andThen (State.serGo_does _ _)
    | with_reducible apply Does.andThen (State.outTask_does _ _)
    | with_reducible apply Does.andThen (State.plotEvent_does _ _)
    | with_reducible apply Does.andThen (State.raiseLine_does _ _ _)
    | with_reducible apply Does.andThen (State.toBridge_does _ _)
    | with_reducible apply Does.andThen (State.fire_does _ _)
    | split

theorem State.evtErr_does (s : State) : Does 0x200000000 s (State.evtErr s) := by
  unfold State.evtErr
  repeat' first
    | with_reducible assumption
    | with_reducible exact Does.refl _ _
    | with_reducible rfl
    | decide
    | (extract_lets +onlyGivenNames u; (with_reducible refine Does.cutAt u ?_ (fun _ => ?_); revert u; with_reducible refine Does.here ?_; rotate_left); revert u; intro _ _; rotate_right)
    | (extract_lets +onlyGivenNames u; clear_value u; revert u; intro _)
    | with_reducible apply Does.setBit
    | split

theorem State.subscribe_does (s : State) (k : Nat) (v : Nat) : Does 0x200000000 s (State.subscribe s k v) := by
  unfold State.subscribe
  repeat' first
    | with_reducible assumption
    | with_reducible exact Does.refl _ _
    | with_reducible rfl
    | decide
    | (extract_lets +onlyGivenNames u; (with_reducible refine Does.cutAt u ?_ (fun _ => ?_); revert u; with_reducible refine Does.here ?_; rotate_left); revert u; intro _ _; rotate_right)
    | (extract_lets +onlyGivenNames u; clear_value u; revert u; intro _)
    | with_reducible apply Does.ite
    | with_reducible apply Does.andThen (State.evtErr_does _)
    | with_reducible apply Does.wr
    | (rw [pageBit_evtTsub trivial]; decide)
    | split

theorem execSubscriptionWrite_does (k : Fin 280) (v : Word) (s : State) : DoesOut 0x200000000 s (execSubscriptionWrite k v s) := by
  unfold execSubscriptionWrite
  repeat' first
    | with_reducible assumption
    | with_reducible exact Does.refl _ _
    | with_reducible rfl
    | decide
    | (extract_lets +onlyGivenNames u; (with_reducible refine DoesOut.cutAt u ?_ (fun _ => ?_); revert u; with_reducible refine Does.here ?_; rotate_left); revert u; intro _ _; rotate_right)
    | (extract_lets +onlyGivenNames u; (with_reducible refine Does.cutAt u ?_ (fun _ => ?_); revert u; with_reducible refine Does.here ?_; rotate_left); revert u; intro _ _; rotate_right)
    | (extract_lets +onlyGivenNames u; clear_value u; revert u; intro _)
    | with_reducible apply DoesOut.next
    | with_reducible apply DoesOut.ite
    | with_reducible apply Does.ite
    | with_reducible apply Does.andThen (State.subscribe_does _ _ _)
    | split

theorem State.chanConfig_does (s : State) (c : Nat) (v : Nat) : Does 0x200000000 s (State.chanConfig s c v) := by
  unfold State.chanConfig
  repeat' first
    | with_reducible assumption
    | with_reducible exact Does.refl _ _
    | with_reducible rfl
    | decide
    | (extract_lets +onlyGivenNames u; (with_reducible refine Does.cutAt u ?_ (fun _ => ?_); revert u; with_reducible refine Does.here ?_; rotate_left); revert u; intro _ _; rotate_right)
    | (extract_lets +onlyGivenNames u; clear_value u; revert u; intro _)
    | with_reducible apply Does.ite
    | with_reducible apply Does.andThen (State.evtErr_does _)
    | with_reducible apply Does.wr
    | (rw [pageBit_evtChcfg trivial]; decide)
    | split

theorem State.setProducers_does (s : State) (c : Nat) (v : Nat) : Does 0x200000000 s (State.setProducers s c v) := by
  unfold State.setProducers
  repeat' first
    | with_reducible assumption
    | with_reducible exact Does.refl _ _
    | with_reducible rfl
    | decide
    | (extract_lets +onlyGivenNames u; (with_reducible refine Does.cutAt u ?_ (fun _ => ?_); revert u; with_reducible refine Does.here ?_; rotate_left); revert u; intro _ _; rotate_right)
    | (extract_lets +onlyGivenNames u; clear_value u; revert u; intro _)
    | with_reducible apply Does.ite
    | with_reducible apply Does.andThen (State.evtErr_does _)
    | with_reducible apply Does.wr
    | (rw [pageBit_evtChprod trivial]; decide)
    | split

theorem execProducerWrite_does (c : Fin 32) (v : Word) (s : State) : DoesOut 0x200000000 s (execProducerWrite c v s) := by
  unfold execProducerWrite
  repeat' first
    | with_reducible assumption
    | with_reducible exact Does.refl _ _
    | with_reducible rfl
    | decide
    | (extract_lets +onlyGivenNames u; (with_reducible refine DoesOut.cutAt u ?_ (fun _ => ?_); revert u; with_reducible refine Does.here ?_; rotate_left); revert u; intro _ _; rotate_right)
    | (extract_lets +onlyGivenNames u; (with_reducible refine Does.cutAt u ?_ (fun _ => ?_); revert u; with_reducible refine Does.here ?_; rotate_left); revert u; intro _ _; rotate_right)
    | (extract_lets +onlyGivenNames u; clear_value u; revert u; intro _)
    | with_reducible apply DoesOut.next
    | with_reducible apply DoesOut.ite
    | with_reducible apply Does.ite
    | with_reducible apply Does.andThen (State.setProducers_does _ _ _)
    | split

theorem State.setPins_does (s : State) (p : Pins) : Does 0x40000 s (State.setPins s p) := by
  unfold State.setPins
  repeat' first
    | with_reducible assumption
    | with_reducible exact Does.refl _ _
    | with_reducible rfl
    | decide
    | (extract_lets +onlyGivenNames u; (with_reducible refine Does.cutAt u ?_ (fun _ => ?_); revert u; with_reducible refine Does.here ?_; rotate_left); revert u; intro _ _; rotate_right)
    | (extract_lets +onlyGivenNames u; clear_value u; revert u; intro _)
    | split
    | with_reducible apply Does.andThen Does.upd_pins

theorem State.deliver_does (s : State) (c : Nat) (n : Nat) (others : List Nat) (k : Nat) (chs : List Nat) : Does 0x60dac420f s (State.deliver s c n others k chs) := by
  unfold State.deliver
  repeat' first
    | with_reducible assumption
    | with_reducible exact Does.refl _ _
    | with_reducible rfl
    | decide
    | (extract_lets +onlyGivenNames u; (with_reducible refine Does.cutAt u ?_ (fun _ => ?_); revert u; with_reducible refine Does.here ?_; rotate_left); revert u; intro _ _; rotate_right)
    | (extract_lets +onlyGivenNames u; clear_value u; revert u; intro _)
    | with_reducible apply Does.ite
    | with_reducible apply Does.andThen (State.setPins_does _ _)
    | with_reducible apply Does.andThen (State.task_does _ _)
    | with_reducible apply Does.count
    | (rw [pageBit_evtTmrg trivial]; decide)
    | split

theorem State.nextCycle_does (s : State) : Does 0x40000 s (State.nextCycle s) := by
  unfold State.nextCycle
  repeat' first
    | with_reducible assumption
    | with_reducible exact Does.refl _ _
    | with_reducible rfl
    | decide
    | (extract_lets +onlyGivenNames u; (with_reducible refine Does.cutAt u ?_ (fun _ => ?_); revert u; with_reducible refine Does.here ?_; rotate_left); revert u; intro _ _; rotate_right)
    | (extract_lets +onlyGivenNames u; clear_value u; revert u; intro _)
    | with_reducible apply Does.ite
    | with_reducible apply Does.andThen (State.setPins_does _ _)
    | split

theorem State.carry_does (s : State) (c : Fin 32) (dt : Nat) : Does 0x60dac420f s (State.carry s c dt) := by
  unfold State.carry
  repeat' first
    | with_reducible assumption
    | with_reducible exact Does.refl _ _
    | with_reducible rfl
    | decide
    | (extract_lets +onlyGivenNames u; (with_reducible refine Does.cutAt u ?_ (fun _ => ?_); revert u; with_reducible refine Does.here ?_; rotate_left); revert u; intro _ _; rotate_right)
    | (extract_lets +onlyGivenNames u; clear_value u; revert u; intro _)
    | with_reducible apply Does.ite
    | with_reducible apply Does.foldl
    | with_reducible apply Does.foldlFst
    | with_reducible apply Does.foldlSnd
    | with_reducible apply Does.andThen (State.deliver_does _ _ _ _ _ _)
    | with_reducible apply Does.andThen (State.setPins_does _ _)
    | with_reducible apply Does.setBit
    | intro _ _ _
    | split

theorem execEventChannel_does (c : Fin 32) (dt : Nat) (now : Nat) (sameCycle : Bool) (s : State) : DoesOut 0x60dac420f s (execEventChannel c dt now sameCycle s) := by
  unfold execEventChannel
  repeat' first
    | with_reducible assumption
    | with_reducible exact Does.refl _ _
    | with_reducible rfl
    | decide
    | (extract_lets +onlyGivenNames u; (with_reducible refine DoesOut.cutAt u ?_ (fun _ => ?_); revert u; with_reducible refine Does.here ?_; rotate_left); revert u; intro _ _; rotate_right)
    | (extract_lets +onlyGivenNames u; (with_reducible refine Does.cutAt u ?_ (fun _ => ?_); revert u; with_reducible refine Does.here ?_; rotate_left); revert u; intro _ _; rotate_right)
    | (extract_lets +onlyGivenNames u; clear_value u; revert u; intro _)
    | with_reducible apply DoesOut.next
    | with_reducible apply DoesOut.ite
    | with_reducible apply Does.ite
    | with_reducible apply Does.andThen (State.tellNow_does _ _)
    | with_reducible apply Does.andThen (State.setPins_does _ _)
    | with_reducible apply Does.andThen (State.nextCycle_does _)
    | with_reducible apply Does.andThen (State.carry_does _ _ _)
    | split

theorem execEventOutputPulseEnd_does (i : Fin 32) (s : State) : DoesOut 0x240000 s (execEventOutputPulseEnd i s) := by
  unfold execEventOutputPulseEnd
  repeat' first
    | with_reducible assumption
    | with_reducible exact Does.refl _ _
    | with_reducible rfl
    | decide
    | (extract_lets +onlyGivenNames u; (with_reducible refine DoesOut.cutAt u ?_ (fun _ => ?_); revert u; with_reducible refine Does.here ?_; rotate_left); revert u; intro _ _; rotate_right)
    | (extract_lets +onlyGivenNames u; (with_reducible refine Does.cutAt u ?_ (fun _ => ?_); revert u; with_reducible refine Does.here ?_; rotate_left); revert u; intro _ _; rotate_right)
    | (extract_lets +onlyGivenNames u; clear_value u; revert u; intro _)
    | with_reducible apply DoesOut.next
    | with_reducible apply DoesOut.ite
    | with_reducible apply Does.ite
    | with_reducible apply Does.andThen (State.keepLine_does _ _)
    | with_reducible apply Does.andThen (State.setPins_does _ _)
    | split

theorem execEventInputEdge_does (n : Fin 96) (rising : Bool) (s : State) : DoesOut 0x40000 s (execEventInputEdge n rising s) := by
  unfold execEventInputEdge
  repeat' first
    | with_reducible assumption
    | with_reducible exact Does.refl _ _
    | with_reducible rfl
    | decide
    | (extract_lets +onlyGivenNames u; (with_reducible refine DoesOut.cutAt u ?_ (fun _ => ?_); revert u; with_reducible refine Does.here ?_; rotate_left); revert u; intro _ _; rotate_right)
    | (extract_lets +onlyGivenNames u; (with_reducible refine Does.cutAt u ?_ (fun _ => ?_); revert u; with_reducible refine Does.here ?_; rotate_left); revert u; intro _ _; rotate_right)
    | (extract_lets +onlyGivenNames u; clear_value u; revert u; intro _)
    | with_reducible apply DoesOut.next
    | with_reducible apply DoesOut.ite
    | with_reducible apply Does.ite
    | with_reducible apply Does.andThen (State.setPins_does _ _)
    | with_reducible apply Does.andThen (State.fire_does _ _)
    | split

theorem execBridgeEvent_does (code : Byte) (s : State) : DoesOut 0x44000 s (execBridgeEvent code s) := by
  unfold execBridgeEvent
  repeat' first
    | with_reducible assumption
    | with_reducible exact Does.refl _ _
    | with_reducible rfl
    | decide
    | (extract_lets +onlyGivenNames u; (with_reducible refine DoesOut.cutAt u ?_ (fun _ => ?_); revert u; with_reducible refine Does.here ?_; rotate_left); revert u; intro _ _; rotate_right)
    | (extract_lets +onlyGivenNames u; (with_reducible refine Does.cutAt u ?_ (fun _ => ?_); revert u; with_reducible refine Does.here ?_; rotate_left); revert u; intro _ _; rotate_right)
    | (extract_lets +onlyGivenNames u; clear_value u; revert u; intro _)
    | with_reducible apply DoesOut.next
    | with_reducible apply DoesOut.ite
    | with_reducible apply Does.ite
    | with_reducible apply Does.andThen (State.setPins_does _ _)
    | with_reducible apply Does.andThen (State.raiseLine_does _ _ _)
    | with_reducible apply Does.andThen (State.fire_does _ _)
    | split

theorem State.swEvents_does (s : State) (mask : Nat) : Does 0x40000 s (State.swEvents s mask) := by
  unfold State.swEvents
  repeat' first
    | with_reducible assumption
    | with_reducible exact Does.refl _ _
    | with_reducible rfl
    | decide
    | (extract_lets +onlyGivenNames u; (with_reducible refine Does.cutAt u ?_ (fun _ => ?_); revert u; with_reducible refine Does.here ?_; rotate_left); revert u; intro _ _; rotate_right)
    | (extract_lets +onlyGivenNames u; clear_value u; revert u; intro _)
    | with_reducible apply Does.each
    | with_reducible apply Does.andThen (State.did_does _ _)
    | with_reducible apply Does.andThen (State.fire_does _ _)
    | intro _ _ _
    | split

theorem execSoftwareEvent_does (mask : Byte) (s : State) : DoesOut 0x40000 s (execSoftwareEvent mask s) := by
  unfold execSoftwareEvent
  repeat' first
    | with_reducible assumption
    | with_reducible exact Does.refl _ _
    | with_reducible rfl
    | decide
    | (extract_lets +onlyGivenNames u; (with_reducible refine DoesOut.cutAt u ?_ (fun _ => ?_); revert u; with_reducible refine Does.here ?_; rotate_left); revert u; intro _ _; rotate_right)
    | (extract_lets +onlyGivenNames u; (with_reducible refine Does.cutAt u ?_ (fun _ => ?_); revert u; with_reducible refine Does.here ?_; rotate_left); revert u; intro _ _; rotate_right)
    | (extract_lets +onlyGivenNames u; clear_value u; revert u; intro _)
    | with_reducible apply DoesOut.next
    | with_reducible apply DoesOut.ite
    | with_reducible apply Does.ite
    | with_reducible apply Does.andThen (State.swEvents_does _ _)
    | split

theorem State.stormClear_does (s : State) (mask : Nat) : Does 0x200000000 s (State.stormClear s mask) := by
  unfold State.stormClear
  repeat' first
    | with_reducible assumption
    | with_reducible exact Does.refl _ _
    | with_reducible rfl
    | decide
    | (extract_lets +onlyGivenNames u; (with_reducible refine Does.cutAt u ?_ (fun _ => ?_); revert u; with_reducible refine Does.here ?_; rotate_left); revert u; intro _ _; rotate_right)
    | (extract_lets +onlyGivenNames u; clear_value u; revert u; intro _)
    | with_reducible apply Does.ite
    | with_reducible apply Does.clrReg
    | split

theorem execStormReenable_does (mask : Word) (s : State) : DoesOut 0x200000000 s (execStormReenable mask s) := by
  unfold execStormReenable
  repeat' first
    | with_reducible assumption
    | with_reducible exact Does.refl _ _
    | with_reducible rfl
    | decide
    | (extract_lets +onlyGivenNames u; (with_reducible refine DoesOut.cutAt u ?_ (fun _ => ?_); revert u; with_reducible refine Does.here ?_; rotate_left); revert u; intro _ _; rotate_right)
    | (extract_lets +onlyGivenNames u; (with_reducible refine Does.cutAt u ?_ (fun _ => ?_); revert u; with_reducible refine Does.here ?_; rotate_left); revert u; intro _ _; rotate_right)
    | (extract_lets +onlyGivenNames u; clear_value u; revert u; intro _)
    | with_reducible apply DoesOut.next
    | with_reducible apply DoesOut.ite
    | with_reducible apply Does.ite
    | with_reducible apply Does.andThen (State.stormClear_does _ _)
    | split

end Sys2Proof.Machine
end

