-- ==== Sys2Proof/Laws/DoesPower.lean ====
section
/-!
SUPPORT. What each operation of Sys2Proof/Machine/Power.lean can do (see Sys2Proof/Laws/Does.lean).
-/
namespace Sys2Proof.Machine
set_option linter.all false
set_option linter.tactic.unusedName false
theorem State.setClk_does (s : State) (k : Clk) : Does 0x20000 s (State.setClk s k) := by
  unfold State.setClk
  repeat' first
    | with_reducible assumption
    | with_reducible exact Does.refl _ _
    | with_reducible rfl
    | decide
    | (extract_lets +onlyGivenNames u; (with_reducible refine Does.cutAt u ?_ (fun _ => ?_); revert u; with_reducible refine Does.here ?_; rotate_left); revert u; intro _ _; rotate_right)
    | (extract_lets +onlyGivenNames u; clear_value u; revert u; intro _)
    | split
    | with_reducible apply Does.andThen Does.upd_clk

theorem State.showPace_does (s : State) : Does 0x80800000 s (State.showPace s) := by
  unfold State.showPace
  repeat' first
    | with_reducible assumption
    | with_reducible exact Does.refl _ _
    | with_reducible rfl
    | decide
    | (extract_lets +onlyGivenNames u; (with_reducible refine Does.cutAt u ?_ (fun _ => ?_); revert u; with_reducible refine Does.here ?_; rotate_left); revert u; intro _ _; rotate_right)
    | (extract_lets +onlyGivenNames u; clear_value u; revert u; intro _)
    | with_reducible apply Does.setFld
    | split

theorem State.loseAccesses_does (s : State) (hit : Nat → Bool) : Does 0x6000 s (State.loseAccesses s hit) := by
  unfold State.loseAccesses
  repeat' first
    | with_reducible assumption
    | with_reducible exact Does.refl _ _
    | with_reducible rfl
    | decide
    | (extract_lets +onlyGivenNames u; (with_reducible refine Does.cutAt u ?_ (fun _ => ?_); revert u; with_reducible refine Does.here ?_; rotate_left); revert u; intro _ _; rotate_right)
    | (extract_lets +onlyGivenNames u; clear_value u; revert u; intro _)
    | with_reducible apply Does.ite
    | split
    | with_reducible apply Does.andThen Does.upd_port_cores

theorem State.ringEmpty_does (s : State) : Does 0x8000200 s (State.ringEmpty s) := by
  unfold State.ringEmpty
  repeat' first
    | with_reducible assumption
    | with_reducible exact Does.refl _ _
    | with_reducible rfl
    | decide
    | (extract_lets +onlyGivenNames u; (with_reducible refine Does.cutAt u ?_ (fun _ => ?_); revert u; with_reducible refine Does.here ?_; rotate_left); revert u; intro _ _; rotate_right)
    | (extract_lets +onlyGivenNames u; clear_value u; revert u; intro _)
    | with_reducible apply Does.andThen (State.setCap_does _ _)
    | with_reducible apply Does.wr
    | split

theorem State.blockFresh_does (s : State) (b : Blk) : Does 0xfffffec1eff s (State.blockFresh s b) := by
  unfold State.blockFresh
  repeat' first
    | with_reducible assumption
    | with_reducible exact Does.refl _ _
    | with_reducible rfl
    | decide
    | (extract_lets +onlyGivenNames u; (with_reducible refine Does.cutAt u ?_ (fun _ => ?_); revert u; with_reducible refine Does.here ?_; rotate_left); revert u; intro _ _; rotate_right)
    | (extract_lets +onlyGivenNames u; clear_value u; revert u; intro _)
    | with_reducible apply Does.ite
    | with_reducible apply Does.andThen Does.resetRegs
    | with_reducible apply Does.andThen (State.untime_does _ _)
    | with_reducible apply Does.andThen (State.srchRestart_does _)
    | with_reducible apply Does.andThen (State.capRestart_does _ _)
    | with_reducible apply Does.andThen (State.chnRestart_does _)
    | with_reducible apply Does.andThen (State.memRestart_does _)
    | with_reducible apply Does.andThen (State.ringEmpty_does _)
    | with_reducible apply Does.andThen (State.chartRestart_does _)
    | with_reducible apply Does.setFld
    | with_reducible exact anyReg_page _ (by decide)
    | split
    | with_reducible apply Does.andThen Does.upd_per
    | with_reducible apply Does.andThen Does.upd_io
    | with_reducible apply Does.andThen Does.upd_pins
    | with_reducible apply Does.andThen Does.upd_cell_lanes

theorem State.cdReset_does (s : State) : Does 0xfffffee7eff s (State.cdReset s) := by
  unfold State.cdReset
  repeat' first
    | with_reducible assumption
    | with_reducible exact Does.refl _ _
    | with_reducible rfl
    | decide
    | (extract_lets +onlyGivenNames u; (with_reducible refine Does.cutAt u ?_ (fun _ => ?_); revert u; with_reducible refine Does.here ?_; rotate_left); revert u; intro _ _; rotate_right)
    | (extract_lets +onlyGivenNames u; clear_value u; revert u; intro _)
    | with_reducible apply Does.ite
    | with_reducible apply Does.foldl
    | with_reducible apply Does.foldlFst
    | with_reducible apply Does.foldlSnd
    | with_reducible apply Does.andThen (State.setMem_does _ _)
    | with_reducible apply Does.andThen Does.resetRegs
    | with_reducible apply Does.andThen Does.clearMem
    | with_reducible apply Does.andThen (State.loseAccesses_does _ _)
    | with_reducible apply Does.andThen (State.setClk_does _ _)
    | with_reducible apply Does.andThen (State.showPace_does _)
    | with_reducible apply Does.andThen (State.memRestart_does _)
    | with_reducible apply Does.andThen (State.srchRestart_does _)
    | with_reducible apply Does.andThen (State.chnRestart_does _)
    | with_reducible apply Does.andThen (State.capRestart_does _ _)
    | with_reducible apply Does.andThen (State.chartRestart_does _)
    | with_reducible apply Does.andThen (State.untime_does _ _)
    | with_reducible apply Does.wr
    | with_reducible exact anyReg_page _ (by decide)
    | intro _ _ _
    | split
    | with_reducible apply Does.andThen Does.upd_probs
    | with_reducible apply Does.andThen Does.upd_per_cell_lanes_cores_pins_io

theorem State.hangShown_does (s : State) : Does 0x80020000 s (State.hangShown s) := by
  unfold State.hangShown
  repeat' first
    | with_reducible assumption
    | with_reducible exact Does.refl _ _
    | with_reducible rfl
    | decide
    | (extract_lets +onlyGivenNames u; (with_reducible refine Does.cutAt u ?_ (fun _ => ?_); revert u; with_reducible refine Does.here ?_; rotate_left); revert u; intro _ _; rotate_right)
    | (extract_lets +onlyGivenNames u; clear_value u; revert u; intro _)
    | with_reducible apply Does.andThen (State.setClk_does _ _)
    | with_reducible apply Does.setBit
    | split

theorem State.cdStart_does (s : State) : Does 0xfffffee7eff s (State.cdStart s) := by
  unfold State.cdStart
  repeat' first
    | with_reducible assumption
    | with_reducible exact Does.refl _ _
    | with_reducible rfl
    | decide
    | (extract_lets +onlyGivenNames u; (with_reducible refine Does.cutAt u ?_ (fun _ => ?_); revert u; with_reducible refine Does.here ?_; rotate_left); revert u; intro _ _; rotate_right)
    | (extract_lets +onlyGivenNames u; clear_value u; revert u; intro _)
    | with_reducible apply Does.ite
    | with_reducible apply Does.andThen (State.hangShown_does _)
    | with_reducible apply Does.andThen (State.cdReset_does _)
    | with_reducible apply Does.andThen (State.setClk_does _ _)
    | with_reducible apply Does.andThen (State.endCause_does _ _)
    | with_reducible exact anyReg_page _ (by decide)
    | split

theorem State.cdDown_does (s : State) (held : Bool) : Does 0xfffffee7eff s (State.cdDown s held) := by
  unfold State.cdDown
  repeat' first
    | with_reducible assumption
    | with_reducible exact Does.refl _ _
    | with_reducible rfl
    | decide
    | (extract_lets +onlyGivenNames u; (with_reducible refine Does.cutAt u ?_ (fun _ => ?_); revert u; with_reducible refine Does.here ?_; rotate_left); revert u; intro _ _; rotate_right)
    | (extract_lets +onlyGivenNames u; clear_value u; revert u; intro _)
    | with_reducible apply Does.ite
    | with_reducible apply Does.andThen (State.hangShown_does _)
    | with_reducible apply Does.andThen (State.toSelfRefresh_does _)
    | with_reducible apply Does.andThen (State.peerCheck_does _)
    | with_reducible apply Does.andThen (State.cdReset_does _)
    | with_reducible apply Does.andThen (State.setClk_does _ _)
    | with_reducible apply Does.wr
    | with_reducible exact anyReg_page _ (by decide)
    | split

theorem State.gddrOff_does (s : State) : Does 0x400 s (State.gddrOff s) := by
  unfold State.gddrOff
  repeat' first
    | with_reducible assumption
    | with_reducible exact Does.refl _ _
    | with_reducible rfl
    | decide
    | (extract_lets +onlyGivenNames u; (with_reducible refine Does.cutAt u ?_ (fun _ => ?_); revert u; with_reducible refine Does.here ?_; rotate_left); revert u; intro _ _; rotate_right)
    | (extract_lets +onlyGivenNames u; clear_value u; revert u; intro _)
    | with_reducible apply Does.andThen (State.setMem_does _ _)
    | split

theorem State.cdOff_does (s : State) : Does 0xfffffee7eff s (State.cdOff s) := by
  unfold State.cdOff
  repeat' first
    | with_reducible assumption
    | with_reducible exact Does.refl _ _
    | with_reducible rfl
    | decide
    | (extract_lets +onlyGivenNames u; (with_reducible refine Does.cutAt u ?_ (fun _ => ?_); revert u; with_reducible refine Does.here ?_; rotate_left); revert u; intro _ _; rotate_right)
    | (extract_lets +onlyGivenNames u; clear_value u; revert u; intro _)
    | with_reducible apply Does.andThen (State.cdDown_does _ _)
    | with_reducible apply Does.andThen (State.setClk_does _ _)
    | with_reducible exact anyReg_page _ (by decide)
    | split

theorem State.leaveRun_does (s : State) : Does 0xc00c241ac1 s (State.leaveRun s) := by
  unfold State.leaveRun
  repeat' first
    | with_reducible assumption
    | with_reducible exact Does.refl _ _
    | with_reducible rfl
    | decide
    | (extract_lets +onlyGivenNames u; (with_reducible refine Does.cutAt u ?_ (fun _ => ?_); revert u; with_reducible refine Does.here ?_; rotate_left); revert u; intro _ _; rotate_right)
    | (extract_lets +onlyGivenNames u; clear_value u; revert u; intro _)
    | with_reducible apply Does.ite
    | with_reducible apply Does.andThen (State.holdCause_does _ _ _ _)
    | split

theorem execComputeDieReset_does (ok : Bool) (s : State) : DoesOut 0xfffffeefeff s (execComputeDieReset ok s) := by
  unfold execComputeDieReset
  repeat' first
    | with_reducible assumption
    | with_reducible exact Does.refl _ _
    | with_reducible rfl
    | decide
    | (extract_lets +onlyGivenNames u; (with_reducible refine DoesOut.cutAt u ?_ (fun _ => ?_); revert u; with_reducible refine Does.here ?_; rotate_left); revert u; intro _ _; rotate_right)
    | (extract_lets +onlyGivenNames u; (with_reducible refine Does.cutAt u ?_ (fun _ => ?_); revert u; with_reducible refine Does.here ?_; rotate_left); revert u; intro _ _; rotate_right)
    | (extract_lets +onlyGivenNames u; clear_value u; revert u; intro _)
    | with_reducible apply DoesOut.next
    | with_reducible apply DoesOut.ite
    | with_reducible apply Does.ite
    | with_reducible apply Does.andThen (State.enterSelfRefresh_does _ _)
    | with_reducible apply Does.andThen (State.leaveRun_does _)
    | with_reducible apply Does.andThen (State.setClk_does _ _)
    | with_reducible apply Does.andThen (State.cdDown_does _ _)
    | with_reducible exact anyReg_page _ (by decide)
    | split
    | with_reducible apply Does.andThen Does.upd_boot

theorem State.blockResetStart_does (s : State) (b : Blk) : Does 0x80092246c21 s (State.blockResetStart s b) := by
  unfold State.blockResetStart
  repeat' first
    | with_reducible assumption
    | with_reducible exact Does.refl _ _
    | with_reducible rfl
    | decide
    | (extract_lets +onlyGivenNames u; (with_reducible refine Does.cutAt u ?_ (fun _ => ?_); revert u; with_reducible refine Does.here ?_; rotate_left); revert u; intro _ _; rotate_right)
    | (extract_lets +onlyGivenNames u; clear_value u; revert u; intro _)
    | with_reducible apply Does.ite
    | with_reducible apply Does.andThen (State.toSelfRefresh_does _)
    | with_reducible apply Does.andThen (State.loseAccesses_does _ _)
    | with_reducible apply Does.andThen (State.keepBlock_does _ _)
    | with_reducible apply Does.setBit
    | split

theorem execBlockReset_does (b : Blk) (s : State) : DoesOut 0x80092246c21 s (execBlockReset b s) := by
  unfold execBlockReset
  repeat' first
    | with_reducible assumption
    | with_reducible exact Does.refl _ _
    | with_reducible rfl
    | decide
    | (extract_lets +onlyGivenNames u; (with_reducible refine DoesOut.cutAt u ?_ (fun _ => ?_); revert u; with_reducible refine Does.here ?_; rotate_left); revert u; intro _ _; rotate_right)
    | (extract_lets +onlyGivenNames u; (with_reducible refine Does.cutAt u ?_ (fun _ => ?_); revert u; with_reducible refine Does.here ?_; rotate_left); revert u; intro _ _; rotate_right)
    | (extract_lets +onlyGivenNames u; clear_value u; revert u; intro _)
    | with_reducible apply DoesOut.next
    | with_reducible apply DoesOut.ite
    | with_reducible apply Does.ite
    | with_reducible apply Does.andThen (State.blockResetStart_does _ _)
    | split

theorem execBlockResetRelease_does (b : Blk) (s : State) : DoesOut 0xfffffec1eff s (execBlockResetRelease b s) := by
  unfold execBlockResetRelease
  repeat' first
    | with_reducible assumption
    | with_reducible exact Does.refl _ _
    | with_reducible rfl
    | decide
    | (extract_lets +onlyGivenNames u; (with_reducible refine DoesOut.cutAt u ?_ (fun _ => ?_); revert u; with_reducible refine Does.here ?_; rotate_left); revert u; intro _ _; rotate_right)
    | (extract_lets +onlyGivenNames u; (with_reducible refine Does.cutAt u ?_ (fun _ => ?_); revert u; with_reducible refine Does.here ?_; rotate_left); revert u; intro _ _; rotate_right)
    | (extract_lets +onlyGivenNames u; clear_value u; revert u; intro _)
    | with_reducible apply DoesOut.next
    | with_reducible apply DoesOut.ite
    | with_reducible apply Does.ite
    | with_reducible apply Does.andThen (State.blockFresh_does _ _)
    | with_reducible apply Does.setBit
    | with_reducible exact anyReg_page _ (by decide)
    | split

theorem State.gateRequests_does (s : State) (b : Blk) (f : Gate → Gate) : Does 0x6000 s (State.gateRequests s b f) := by
  unfold State.gateRequests
  repeat' first
    | with_reducible assumption
    | with_reducible exact Does.refl _ _
    | with_reducible rfl
    | decide
    | (extract_lets +onlyGivenNames u; (with_reducible refine Does.cutAt u ?_ (fun _ => ?_); revert u; with_reducible refine Does.here ?_; rotate_left); revert u; intro _ _; rotate_right)
    | (extract_lets +onlyGivenNames u; clear_value u; revert u; intro _)
    | with_reducible apply Does.ite
    | split
    | with_reducible apply Does.andThen Does.upd_port_cores

theorem State.gateClose_does (s : State) (b : Blk) : Does 0x80006000 s (State.gateClose s b) := by
  unfold State.gateClose
  repeat' first
    | with_reducible assumption
    | with_reducible exact Does.refl _ _
    | with_reducible rfl
    | decide
    | (extract_lets +onlyGivenNames u; (with_reducible refine Does.cutAt u ?_ (fun _ => ?_); revert u; with_reducible refine Does.here ?_; rotate_left); revert u; intro _ _; rotate_right)
    | (extract_lets +onlyGivenNames u; clear_value u; revert u; intro _)
    | with_reducible apply Does.ite
    | with_reducible apply Does.andThen (State.gateRequests_does _ _ _)
    | with_reducible apply Does.setBit
    | split

theorem State.gateShut_does (s : State) (b : Blk) (forced : Bool) : Does 0x80246000 s (State.gateShut s b forced) := by
  unfold State.gateShut
  repeat' first
    | with_reducible assumption
    | with_reducible exact Does.refl _ _
    | with_reducible rfl
    | decide
    | (extract_lets +onlyGivenNames u; (with_reducible refine Does.cutAt u ?_ (fun _ => ?_); revert u; with_reducible refine Does.here ?_; rotate_left); revert u; intro _ _; rotate_right)
    | (extract_lets +onlyGivenNames u; clear_value u; revert u; intro _)
    | with_reducible apply Does.ite
    | with_reducible apply Does.andThen (State.keepBlock_does _ _)
    | with_reducible apply Does.andThen (State.gateRequests_does _ _ _)
    | with_reducible apply Does.setBit
    | split

theorem State.gateOpen_does (s : State) (b : Blk) : Does 0x80006000 s (State.gateOpen s b) := by
  unfold State.gateOpen
  repeat' first
    | with_reducible assumption
    | with_reducible exact Does.refl _ _
    | with_reducible rfl
    | decide
    | (extract_lets +onlyGivenNames u; (with_reducible refine Does.cutAt u ?_ (fun _ => ?_); revert u; with_reducible refine Does.here ?_; rotate_left); revert u; intro _ _; rotate_right)
    | (extract_lets +onlyGivenNames u; clear_value u; revert u; intro _)
    | with_reducible apply Does.ite
    | with_reducible apply Does.andThen (State.gateRequests_does _ _ _)
    | with_reducible apply Does.setBit
    | split

theorem execGateClose_does (b : Blk) (s : State) : DoesOut 0x80006000 s (execGateClose b s) := by
  unfold execGateClose
  repeat' first
    | with_reducible assumption
    | with_reducible exact Does.refl _ _
    | with_reducible rfl
    | decide
    | (extract_lets +onlyGivenNames u; (with_reducible refine DoesOut.cutAt u ?_ (fun _ => ?_); revert u; with_reducible refine Does.here ?_; rotate_left); revert u; intro _ _; rotate_right)
    | (extract_lets +onlyGivenNames u; (with_reducible refine Does.cutAt u ?_ (fun _ => ?_); revert u; with_reducible refine Does.here ?_; rotate_left); revert u; intro _ _; rotate_right)
    | (extract_lets +onlyGivenNames u; clear_value u; revert u; intro _)
    | with_reducible apply DoesOut.next
    | with_reducible apply DoesOut.ite
    | with_reducible apply Does.ite
    | with_reducible apply Does.andThen (State.gateClose_does _ _)
    | split

theorem execGateClosed_does (b : Blk) (forced : Bool) (s : State) : DoesOut 0x80246000 s (execGateClosed b forced s) := by
  unfold execGateClosed
  repeat' first
    | with_reducible assumption
    | with_reducible exact Does.refl _ _
    | with_reducible rfl
    | decide
    | (extract_lets +onlyGivenNames u; (with_reducible refine DoesOut.cutAt u ?_ (fun _ => ?_); revert u; with_reducible refine Does.here ?_; rotate_left); revert u; intro _ _; rotate_right)
    | (extract_lets +onlyGivenNames u; (with_reducible refine Does.cutAt u ?_ (fun _ => ?_); revert u; with_reducible refine Does.here ?_; rotate_left); revert u; intro _ _; rotate_right)
    | (extract_lets +onlyGivenNames u; clear_value u; revert u; intro _)
    | with_reducible apply DoesOut.next
    | with_reducible apply DoesOut.ite
    | with_reducible apply Does.ite
    | with_reducible apply Does.andThen (State.gateShut_does _ _ _)
    | split

theorem execGateOpen_does (b : Blk) (s : State) : DoesOut 0x80006000 s (execGateOpen b s) := by
  unfold execGateOpen
  repeat' first
    | with_reducible assumption
    | with_reducible exact Does.refl _ _
    | with_reducible rfl
    | decide
    | (extract_lets +onlyGivenNames u; (with_reducible refine DoesOut.cutAt u ?_ (fun _ => ?_); revert u; with_reducible refine Does.here ?_; rotate_left); revert u; intro _ _; rotate_right)
    | (extract_lets +onlyGivenNames u; (with_reducible refine Does.cutAt u ?_ (fun _ => ?_); revert u; with_reducible refine Does.here ?_; rotate_left); revert u; intro _ _; rotate_right)
    | (extract_lets +onlyGivenNames u; clear_value u; revert u; intro _)
    | with_reducible apply DoesOut.next
    | with_reducible apply DoesOut.ite
    | with_reducible apply Does.ite
    | with_reducible apply Does.andThen (State.gateOpen_does _ _)
    | split

theorem State.changing_does (s : State) (b : Bool) : Does 0x80000000 s (State.changing s b) := by
  unfold State.changing
  repeat' first
    | with_reducible assumption
    | with_reducible exact Does.refl _ _
    | with_reducible rfl
    | decide
    | (extract_lets +onlyGivenNames u; (with_reducible refine Does.cutAt u ?_ (fun _ => ?_); revert u; with_reducible refine Does.here ?_; rotate_left); revert u; intro _ _; rotate_right)
    | (extract_lets +onlyGivenNames u; clear_value u; revert u; intro _)
    | with_reducible apply Does.setBit
    | split

theorem State.showCapped_does (s : State) : Does 0x80000000 s (State.showCapped s) := by
  unfold State.showCapped
  repeat' first
    | with_reducible assumption
    | with_reducible exact Does.refl _ _
    | with_reducible rfl
    | decide
    | (extract_lets +onlyGivenNames u; (with_reducible refine Does.cutAt u ?_ (fun _ => ?_); revert u; with_reducible refine Does.here ?_; rotate_left); revert u; intro _ _; rotate_right)
    | (extract_lets +onlyGivenNames u; clear_value u; revert u; intro _)
    | with_reducible apply Does.setBit
    | split

theorem State.paceCheck_does (s : State) : Does 0x80020000 s (State.paceCheck s) := by
  unfold State.paceCheck
  repeat' first
    | with_reducible assumption
    | with_reducible exact Does.refl _ _
    | with_reducible rfl
    | decide
    | (extract_lets +onlyGivenNames u; (with_reducible refine Does.cutAt u ?_ (fun _ => ?_); revert u; with_reducible refine Does.here ?_; rotate_left); revert u; intro _ _; rotate_right)
    | (extract_lets +onlyGivenNames u; clear_value u; revert u; intro _)
    | with_reducible apply Does.ite
    | with_reducible apply Does.andThen (State.showCapped_does _)
    | with_reducible apply Does.andThen (State.setClk_does _ _)
    | with_reducible apply Does.andThen (State.changing_does _ _)
    | with_reducible apply Does.setBit
    | split

theorem State.setPace_does (s : State) (v : Nat) : Does 0x80020000 s (State.setPace s v) := by
  unfold State.setPace
  repeat' first
    | with_reducible assumption
    | with_reducible exact Does.refl _ _
    | with_reducible rfl
    | decide
    | (extract_lets +onlyGivenNames u; (with_reducible refine Does.cutAt u ?_ (fun _ => ?_); revert u; with_reducible refine Does.here ?_; rotate_left); revert u; intro _ _; rotate_right)
    | (extract_lets +onlyGivenNames u; clear_value u; revert u; intro _)
    | with_reducible apply Does.ite
    | with_reducible apply Does.andThen (State.paceCheck_does _)
    | with_reducible apply Does.wr
    | split

theorem execPaceRequest_does (v : Fin 4) (s : State) : DoesOut 0x80020000 s (execPaceRequest v s) := by
  unfold execPaceRequest
  repeat' first
    | with_reducible assumption
    | with_reducible exact Does.refl _ _
    | with_reducible rfl
    | decide
    | (extract_lets +onlyGivenNames u; (with_reducible refine DoesOut.cutAt u ?_ (fun _ => ?_); revert u; with_reducible refine Does.here ?_; rotate_left); revert u; intro _ _; rotate_right)
    | (extract_lets +onlyGivenNames u; (with_reducible refine Does.cutAt u ?_ (fun _ => ?_); revert u; with_reducible refine Does.here ?_; rotate_left); revert u; intro _ _; rotate_right)
    | (extract_lets +onlyGivenNames u; clear_value u; revert u; intro _)
    | with_reducible apply DoesOut.next
    | with_reducible apply DoesOut.ite
    | with_reducible apply Does.ite
    | with_reducible apply Does.andThen (State.setPace_does _ _)
    | split

theorem State.lockFail_does (s : State) : Does 0x80020000 s (State.lockFail s) := by
  unfold State.lockFail
  repeat' first
    | with_reducible assumption
    | with_reducible exact Does.refl _ _
    | with_reducible rfl
    | decide
    | (extract_lets +onlyGivenNames u; (with_reducible refine Does.cutAt u ?_ (fun _ => ?_); revert u; with_reducible refine Does.here ?_; rotate_left); revert u; intro _ _; rotate_right)
    | (extract_lets +onlyGivenNames u; clear_value u; revert u; intro _)
    | with_reducible apply Does.andThen (State.changing_does _ _)
    | with_reducible apply Does.andThen (State.setClk_does _ _)
    | with_reducible apply Does.setBit
    | split

theorem execPllLock_does (ok : Bool) (s : State) : DoesOut 0x80020000 s (execPllLock ok s) := by
  unfold execPllLock
  repeat' first
    | with_reducible assumption
    | with_reducible exact Does.refl _ _
    | with_reducible rfl
    | decide
    | (extract_lets +onlyGivenNames u; (with_reducible refine DoesOut.cutAt u ?_ (fun _ => ?_); revert u; with_reducible refine Does.here ?_; rotate_left); revert u; intro _ _; rotate_right)
    | (extract_lets +onlyGivenNames u; (with_reducible refine Does.cutAt u ?_ (fun _ => ?_); revert u; with_reducible refine Does.here ?_; rotate_left); revert u; intro _ _; rotate_right)
    | (extract_lets +onlyGivenNames u; clear_value u; revert u; intro _)
    | with_reducible apply DoesOut.next
    | with_reducible apply DoesOut.ite
    | with_reducible apply Does.ite
    | with_reducible apply Does.andThen (State.setClk_does _ _)
    | with_reducible apply Does.andThen (State.lockFail_does _)
    | with_reducible apply Does.setBit
    | split

theorem execVoltageSettled_does (s : State) : DoesOut 0x80020000 s (execVoltageSettled s) := by
  unfold execVoltageSettled
  repeat' first
    | with_reducible assumption
    | with_reducible exact Does.refl _ _
    | with_reducible rfl
    | decide
    | (extract_lets +onlyGivenNames u; (with_reducible refine DoesOut.cutAt u ?_ (fun _ => ?_); revert u; with_reducible refine Does.here ?_; rotate_left); revert u; intro _ _; rotate_right)
    | (extract_lets +onlyGivenNames u; (with_reducible refine Does.cutAt u ?_ (fun _ => ?_); revert u; with_reducible refine Does.here ?_; rotate_left); revert u; intro _ _; rotate_right)
    | (extract_lets +onlyGivenNames u; clear_value u; revert u; intro _)
    | with_reducible apply DoesOut.next
    | with_reducible apply DoesOut.ite
    | with_reducible apply Does.ite
    | with_reducible apply Does.andThen (State.changing_does _ _)
    | with_reducible apply Does.andThen (State.setClk_does _ _)
    | split

theorem State.paceSwitch_does (s : State) : Does 0x80860002 s (State.paceSwitch s) := by
  unfold State.paceSwitch
  repeat' first
    | with_reducible assumption
    | with_reducible exact Does.refl _ _
    | with_reducible rfl
    | decide
    | (extract_lets +onlyGivenNames u; (with_reducible refine Does.cutAt u ?_ (fun _ => ?_); revert u; with_reducible refine Does.here ?_; rotate_left); revert u; intro _ _; rotate_right)
    | (extract_lets +onlyGivenNames u; clear_value u; revert u; intro _)
    | with_reducible apply Does.ite
    | with_reducible apply Does.andThen (State.setClk_does _ _)
    | with_reducible apply Does.andThen (State.changing_does _ _)
    | with_reducible apply Does.andThen (State.fire_does _ _)
    | with_reducible apply Does.andThen (State.showPace_does _)
    | with_reducible apply Does.setBit
    | split
    | with_reducible apply Does.andThen Does.upd_per

theorem execGovernorEvaluation_does (pMeas : Nat) (lanes : Nat) (coldplate : Int) (s : State) : DoesOut 0x80021800 s (execGovernorEvaluation pMeas lanes coldplate s) := by
  unfold execGovernorEvaluation
  repeat' first
    | with_reducible assumption
    | with_reducible exact Does.refl _ _
    | with_reducible rfl
    | decide
    | (extract_lets +onlyGivenNames u; (with_reducible refine DoesOut.cutAt u ?_ (fun _ => ?_); revert u; with_reducible refine Does.here ?_; rotate_left); revert u; intro _ _; rotate_right)
    | (extract_lets +onlyGivenNames u; (with_reducible refine Does.cutAt u ?_ (fun _ => ?_); revert u; with_reducible refine Does.here ?_; rotate_left); revert u; intro _ _; rotate_right)
    | (extract_lets +onlyGivenNames u; clear_value u; revert u; intro _)
    | with_reducible apply DoesOut.next
    | with_reducible apply DoesOut.ite
    | with_reducible apply Does.ite
    | with_reducible apply Does.andThen (State.passTick_does _)
    | with_reducible apply Does.andThen (State.castTick_does _)
    | with_reducible apply Does.andThen (State.setClk_does _ _)
    | with_reducible apply Does.andThen (State.paceCheck_does _)
    | with_reducible apply Does.wr
    | with_reducible apply Does.setFld
    | with_reducible apply Does.setBit
    | split

theorem State.govConfig_does (s : State) (v : Nat) : Does 0x80020000 s (State.govConfig s v) := by
  unfold State.govConfig
  repeat' first
    | with_reducible assumption
    | with_reducible exact Does.refl _ _
    | with_reducible rfl
    | decide
    | (extract_lets +onlyGivenNames u; (with_reducible refine Does.cutAt u ?_ (fun _ => ?_); revert u; with_reducible refine Does.here ?_; rotate_left); revert u; intro _ _; rotate_right)
    | (extract_lets +onlyGivenNames u; clear_value u; revert u; intro _)
    | with_reducible apply Does.ite
    | with_reducible apply Does.andThen (State.paceCheck_does _)
    | with_reducible apply Does.andThen (State.setClk_does _ _)
    | with_reducible apply Does.wr
    | with_reducible apply Does.setFld
    | split

theorem State.restartDue_does (s : State) : Does 0x20000 s (State.restartDue s) := by
  unfold State.restartDue
  repeat' first
    | with_reducible assumption
    | with_reducible exact Does.refl _ _
    | with_reducible rfl
    | decide
    | (extract_lets +onlyGivenNames u; (with_reducible refine Does.cutAt u ?_ (fun _ => ?_); revert u; with_reducible refine Does.here ?_; rotate_left); revert u; intro _ _; rotate_right)
    | (extract_lets +onlyGivenNames u; clear_value u; revert u; intro _)
    | with_reducible apply Does.andThen (State.setClk_does _ _)
    | split

theorem State.clockFailure_does (s : State) : Does 0xc00c261ac1 s (State.clockFailure s) := by
  unfold State.clockFailure
  repeat' first
    | with_reducible assumption
    | with_reducible exact Does.refl _ _
    | with_reducible rfl
    | decide
    | (extract_lets +onlyGivenNames u; (with_reducible refine Does.cutAt u ?_ (fun _ => ?_); revert u; with_reducible refine Does.here ?_; rotate_left); revert u; intro _ _; rotate_right)
    | (extract_lets +onlyGivenNames u; clear_value u; revert u; intro _)
    | with_reducible apply Does.ite
    | with_reducible apply Does.andThen (State.holdCause_does _ _ _ _)
    | with_reducible apply Does.andThen (State.restartDue_does _)
    | split

theorem execClockMonitorWindow_does (c : Clock) (count : Nat) (nominal : Nat) (farEnd : Option (Nat × Bool)) (s : State) : DoesOut 0xc08c261ac1 s (execClockMonitorWindow c count nominal farEnd s) := by
  unfold execClockMonitorWindow
  repeat' first
    | with_reducible assumption
    | with_reducible exact Does.refl _ _
    | with_reducible rfl
    | decide
    | (extract_lets +onlyGivenNames u; (with_reducible refine DoesOut.cutAt u ?_ (fun _ => ?_); revert u; with_reducible refine Does.here ?_; rotate_left); revert u; intro _ _; rotate_right)
    | (extract_lets +onlyGivenNames u; (with_reducible refine Does.cutAt u ?_ (fun _ => ?_); revert u; with_reducible refine Does.here ?_; rotate_left); revert u; intro _ _; rotate_right)
    | (extract_lets +onlyGivenNames u; clear_value u; revert u; intro _)
    | with_reducible apply DoesOut.next
    | with_reducible apply DoesOut.ite
    | with_reducible apply Does.ite
    | with_reducible apply Does.andThen (State.setClk_does _ _)
    | with_reducible apply Does.andThen (State.endCause_does _ _)
    | with_reducible apply Does.andThen (State.clockFailure_does _)
    | with_reducible apply Does.andThen (State.islandFault_does _)
    | with_reducible apply Does.andThen (State.lockFail_does _)
    | with_reducible apply Does.setBit
    | split

theorem execDroop_does (cycles : Nat) (s : State) : DoesOut 0x80000000 s (execDroop cycles s) := by
  unfold execDroop
  repeat' first
    | with_reducible assumption
    | with_reducible exact Does.refl _ _
    | with_reducible rfl
    | decide
    | (extract_lets +onlyGivenNames u; (with_reducible refine DoesOut.cutAt u ?_ (fun _ => ?_); revert u; with_reducible refine Does.here ?_; rotate_left); revert u; intro _ _; rotate_right)
    | (extract_lets +onlyGivenNames u; (with_reducible refine Does.cutAt u ?_ (fun _ => ?_); revert u; with_reducible refine Does.here ?_; rotate_left); revert u; intro _ _; rotate_right)
    | (extract_lets +onlyGivenNames u; clear_value u; revert u; intro _)
    | with_reducible apply DoesOut.next
    | with_reducible apply DoesOut.ite
    | with_reducible apply Does.ite
    | with_reducible apply Does.count
    | split

theorem execTrimMark_does (p : ChPort) (cycles : Nat) (s : State) : DoesOut 0xa0021000 s (execTrimMark p cycles s) := by
  unfold execTrimMark
  repeat' first
    | with_reducible assumption
    | with_reducible exact Does.refl _ _
    | with_reducible rfl
    | decide
    | (extract_lets +onlyGivenNames u; (with_reducible refine DoesOut.cutAt u ?_ (fun _ => ?_); revert u; with_reducible refine Does.here ?_; rotate_left); revert u; intro _ _; rotate_right)
    | (extract_lets +onlyGivenNames u; (with_reducible refine Does.cutAt u ?_ (fun _ => ?_); revert u; with_reducible refine Does.here ?_; rotate_left); revert u; intro _ _; rotate_right)
    | (extract_lets +onlyGivenNames u; clear_value u; revert u; intro _)
    | with_reducible apply DoesOut.next
    | with_reducible apply DoesOut.ite
    | with_reducible apply Does.ite
    | with_reducible apply Does.andThen (State.showPilot_does _ _)
    | with_reducible apply Does.andThen (State.setChain_does _ _)
    | with_reducible apply Does.andThen (State.setClk_does _ _)
    | with_reducible apply Does.wr
    | with_reducible apply Does.setBit
    | split

theorem State.cmdErrPwr_does (s : State) : Does 0x80000000 s (State.cmdErrPwr s) := by
  unfold State.cmdErrPwr
  repeat' first
    | with_reducible assumption
    | with_reducible exact Does.refl _ _
    | with_reducible rfl
    | decide
    | (extract_lets +onlyGivenNames u; (with_reducible refine Does.cutAt u ?_ (fun _ => ?_); revert u; with_reducible refine Does.here ?_; rotate_left); revert u; intro _ _; rotate_right)
    | (extract_lets +onlyGivenNames u; clear_value u; revert u; intro _)
    | with_reducible apply Does.ite
    | with_reducible apply Does.setBit
    | split

theorem State.enterRun_does (s : State) : Does 0x20800 s (State.enterRun s) := by
  unfold State.enterRun
  repeat' first
    | with_reducible assumption
    | with_reducible exact Does.refl _ _
    | with_reducible rfl
    | decide
    | (extract_lets +onlyGivenNames u; (with_reducible refine Does.cutAt u ?_ (fun _ => ?_); revert u; with_reducible refine Does.here ?_; rotate_left); revert u; intro _ _; rotate_right)
    | (extract_lets +onlyGivenNames u; clear_value u; revert u; intro _)
    | with_reducible apply Does.andThen (State.endCause_does _ _)
    | with_reducible apply Does.andThen (State.setClk_does _ _)
    | split

theorem State.armWake_does (s : State) : Does 0x20000 s (State.armWake s) := by
  unfold State.armWake
  repeat' first
    | with_reducible assumption
    | with_reducible exact Does.refl _ _
    | with_reducible rfl
    | decide
    | (extract_lets +onlyGivenNames u; (with_reducible refine Does.cutAt u ?_ (fun _ => ?_); revert u; with_reducible refine Does.here ?_; rotate_left); revert u; intro _ _; rotate_right)
    | (extract_lets +onlyGivenNames u; clear_value u; revert u; intro _)
    | with_reducible apply Does.ite
    | with_reducible apply Does.andThen (State.setClk_does _ _)
    | split

theorem State.cmdIdle_does (s : State) : Does 0x80020000 s (State.cmdIdle s) := by
  unfold State.cmdIdle
  repeat' first
    | with_reducible assumption
    | with_reducible exact Does.refl _ _
    | with_reducible rfl
    | decide
    | (extract_lets +onlyGivenNames u; (with_reducible refine Does.cutAt u ?_ (fun _ => ?_); revert u; with_reducible refine Does.here ?_; rotate_left); revert u; intro _ _; rotate_right)
    | (extract_lets +onlyGivenNames u; clear_value u; revert u; intro _)
    | with_reducible apply Does.ite
    | with_reducible apply Does.andThen (State.setClk_does _ _)
    | with_reducible apply Does.andThen (State.cmdErrPwr_does _)
    | split

theorem execIdle_does (s : State) : DoesOut 0x80020000 s (execIdle s) := by
  unfold execIdle
  repeat' first
    | with_reducible assumption
    | with_reducible exact Does.refl _ _
    | with_reducible rfl
    | decide
    | (extract_lets +onlyGivenNames u; (with_reducible refine DoesOut.cutAt u ?_ (fun _ => ?_); revert u; with_reducible refine Does.here ?_; rotate_left); revert u; intro _ _; rotate_right)
    | (extract_lets +onlyGivenNames u; (with_reducible refine Does.cutAt u ?_ (fun _ => ?_); revert u; with_reducible refine Does.here ?_; rotate_left); revert u; intro _ _; rotate_right)
    | (extract_lets +onlyGivenNames u; clear_value u; revert u; intro _)
    | with_reducible apply DoesOut.next
    | with_reducible apply DoesOut.ite
    | with_reducible apply Does.ite
    | with_reducible apply Does.andThen (State.cmdIdle_does _)
    | split

theorem State.idleEnter_does (s : State) : Does 0xc08c267ac1 s (State.idleEnter s) := by
  unfold State.idleEnter
  repeat' first
    | with_reducible assumption
    | with_reducible exact Does.refl _ _
    | with_reducible rfl
    | decide
    | (extract_lets +onlyGivenNames u; (with_reducible refine Does.cutAt u ?_ (fun _ => ?_); revert u; with_reducible refine Does.here ?_; rotate_left); revert u; intro _ _; rotate_right)
    | (extract_lets +onlyGivenNames u; clear_value u; revert u; intro _)
    | with_reducible apply Does.each
    | with_reducible apply Does.andThen (State.gateShut_does _ _ _)
    | with_reducible apply Does.andThen (State.armWake_does _)
    | with_reducible apply Does.andThen (State.leaveRun_does _)
    | with_reducible apply Does.andThen (State.setClk_does _ _)
    | intro _ _ _
    | split

theorem State.idleLeave_does (s : State) : Does 0x80020800 s (State.idleLeave s) := by
  unfold State.idleLeave
  repeat' first
    | with_reducible assumption
    | with_reducible exact Does.refl _ _
    | with_reducible rfl
    | decide
    | (extract_lets +onlyGivenNames u; (with_reducible refine Does.cutAt u ?_ (fun _ => ?_); revert u; with_reducible refine Does.here ?_; rotate_left); revert u; intro _ _; rotate_right)
    | (extract_lets +onlyGivenNames u; clear_value u; revert u; intro _)
    | with_reducible apply Does.andThen (State.enterRun_does _)
    | with_reducible apply Does.andThen (State.setClk_does _ _)
    | with_reducible apply Does.wr
    | split

theorem State.enterStandby_does (s : State) : Does 0xfffffee7eff s (State.enterStandby s) := by
  unfold State.enterStandby
  repeat' first
    | with_reducible assumption
    | with_reducible exact Does.refl _ _
    | with_reducible rfl
    | decide
    | (extract_lets +onlyGivenNames u; (with_reducible refine Does.cutAt u ?_ (fun _ => ?_); revert u; with_reducible refine Does.here ?_; rotate_left); revert u; intro _ _; rotate_right)
    | (extract_lets +onlyGivenNames u; clear_value u; revert u; intro _)
    | with_reducible apply Does.ite
    | with_reducible apply Does.andThen (State.leaveRun_does _)
    | with_reducible apply Does.andThen (State.toSelfRefresh_does _)
    | with_reducible apply Does.andThen (State.armWake_does _)
    | with_reducible apply Does.andThen (State.cdOff_does _)
    | with_reducible apply Does.andThen (State.setClk_does _ _)
    | with_reducible exact anyReg_page _ (by decide)
    | split

theorem State.enterDormant_does (s : State) : Does 0xfffffee7eff s (State.enterDormant s) := by
  unfold State.enterDormant
  repeat' first
    | with_reducible assumption
    | with_reducible exact Does.refl _ _
    | with_reducible rfl
    | decide
    | (extract_lets +onlyGivenNames u; (with_reducible refine Does.cutAt u ?_ (fun _ => ?_); revert u; with_reducible refine Does.here ?_; rotate_left); revert u; intro _ _; rotate_right)
    | (extract_lets +onlyGivenNames u; clear_value u; revert u; intro _)
    | with_reducible apply Does.andThen (State.armWake_does _)
    | with_reducible apply Does.andThen (State.cdOff_does _)
    | with_reducible apply Does.andThen (State.setClk_does _ _)
    | with_reducible apply Does.andThen (State.gddrOff_does _)
    | with_reducible apply Does.andThen (State.leaveRun_does _)
    | with_reducible exact anyReg_page _ (by decide)
    | split

theorem State.cmdStby_does (s : State) : Does 0xfffffee7eff s (State.cmdStby s) := by
  unfold State.cmdStby
  repeat' first
    | with_reducible assumption
    | with_reducible exact Does.refl _ _
    | with_reducible rfl
    | decide
    | (extract_lets +onlyGivenNames u; (with_reducible refine Does.cutAt u ?_ (fun _ => ?_); revert u; with_reducible refine Does.here ?_; rotate_left); revert u; intro _ _; rotate_right)
    | (extract_lets +onlyGivenNames u; clear_value u; revert u; intro _)
    | with_reducible apply Does.ite
    | with_reducible apply Does.andThen (State.enterStandby_does _)
    | with_reducible apply Does.andThen (State.cmdErrPwr_does _)
    | with_reducible exact anyReg_page _ (by decide)
    | split

theorem State.cmdDorm_does (s : State) : Does 0xfffffee7eff s (State.cmdDorm s) := by
  unfold State.cmdDorm
  repeat' first
    | with_reducible assumption
    | with_reducible exact Does.refl _ _
    | with_reducible rfl
    | decide
    | (extract_lets +onlyGivenNames u; (with_reducible refine Does.cutAt u ?_ (fun _ => ?_); revert u; with_reducible refine Does.here ?_; rotate_left); revert u; intro _ _; rotate_right)
    | (extract_lets +onlyGivenNames u; clear_value u; revert u; intro _)
    | with_reducible apply Does.ite
    | with_reducible apply Does.andThen (State.enterDormant_does _)
    | with_reducible apply Does.andThen (State.cmdErrPwr_does _)
    | with_reducible exact anyReg_page _ (by decide)
    | split

theorem execStby_does (s : State) : DoesOut 0xfffffee7eff s (execStby s) := by
  unfold execStby
  repeat' first
    | with_reducible assumption
    | with_reducible exact Does.refl _ _
    | with_reducible rfl
    | decide
    | (extract_lets +onlyGivenNames u; (with_reducible refine DoesOut.cutAt u ?_ (fun _ => ?_); revert u; with_reducible refine Does.here ?_; rotate_left); revert u; intro _ _; rotate_right)
    | (extract_lets +onlyGivenNames u; (with_reducible refine Does.cutAt u ?_ (fun _ => ?_); revert u; with_reducible refine Does.here ?_; rotate_left); revert u; intro _ _; rotate_right)
    | (extract_lets +onlyGivenNames u; clear_value u; revert u; intro _)
    | with_reducible apply DoesOut.next
    | with_reducible apply DoesOut.ite
    | with_reducible apply Does.ite
    | with_reducible apply Does.andThen (State.cmdStby_does _)
    | with_reducible exact anyReg_page _ (by decide)
    | split

theorem execDorm_does (s : State) : DoesOut 0xfffffee7eff s (execDorm s) := by
  unfold execDorm
  repeat' first
    | with_reducible assumption
    | with_reducible exact Does.refl _ _
    | with_reducible rfl
    | decide
    | (extract_lets +onlyGivenNames u; (with_reducible refine DoesOut.cutAt u ?_ (fun _ => ?_); revert u; with_reducible refine Does.here ?_; rotate_left); revert u; intro _ _; rotate_right)
    | (extract_lets +onlyGivenNames u; (with_reducible refine Does.cutAt u ?_ (fun _ => ?_); revert u; with_reducible refine Does.here ?_; rotate_left); revert u; intro _ _; rotate_right)
    | (extract_lets +onlyGivenNames u; clear_value u; revert u; intro _)
    | with_reducible apply DoesOut.next
    | with_reducible apply DoesOut.ite
    | with_reducible apply Does.ite
    | with_reducible apply Does.andThen (State.cmdDorm_does _)
    | with_reducible exact anyReg_page _ (by decide)
    | split

theorem execIdleTimeout_does (s : State) : DoesOut 0x20000 s (execIdleTimeout s) := by
  unfold execIdleTimeout
  repeat' first
    | with_reducible assumption
    | with_reducible exact Does.refl _ _
    | with_reducible rfl
    | decide
    | (extract_lets +onlyGivenNames u; (with_reducible refine DoesOut.cutAt u ?_ (fun _ => ?_); revert u; with_reducible refine Does.here ?_; rotate_left); revert u; intro _ _; rotate_right)
    | (extract_lets +onlyGivenNames u; (with_reducible refine Does.cutAt u ?_ (fun _ => ?_); revert u; with_reducible refine Does.here ?_; rotate_left); revert u; intro _ _; rotate_right)
    | (extract_lets +onlyGivenNames u; clear_value u; revert u; intro _)
    | with_reducible apply DoesOut.next
    | with_reducible apply DoesOut.ite
    | with_reducible apply Does.ite
    | with_reducible apply Does.andThen (State.setClk_does _ _)
    | split

theorem execStandbyTimeout_does (s : State) : DoesOut 0xfffffee7eff s (execStandbyTimeout s) := by
  unfold execStandbyTimeout
  repeat' first
    | with_reducible assumption
    | with_reducible exact Does.refl _ _
    | with_reducible rfl
    | decide
    | (extract_lets +onlyGivenNames u; (with_reducible refine DoesOut.cutAt u ?_ (fun _ => ?_); revert u; with_reducible refine Does.here ?_; rotate_left); revert u; intro _ _; rotate_right)
    | (extract_lets +onlyGivenNames u; (with_reducible refine Does.cutAt u ?_ (fun _ => ?_); revert u; with_reducible refine Does.here ?_; rotate_left); revert u; intro _ _; rotate_right)
    | (extract_lets +onlyGivenNames u; clear_value u; revert u; intro _)
    | with_reducible apply DoesOut.next
    | with_reducible apply DoesOut.ite
    | with_reducible apply Does.ite
    | with_reducible apply Does.andThen (State.enterStandby_does _)
    | with_reducible exact anyReg_page _ (by decide)
    | split

theorem execDormantTimeout_does (s : State) : DoesOut 0xfffffee7eff s (execDormantTimeout s) := by
  unfold execDormantTimeout
  repeat' first
    | with_reducible assumption
    | with_reducible exact Does.refl _ _
    | with_reducible rfl
    | decide
    | (extract_lets +onlyGivenNames u; (with_reducible refine DoesOut.cutAt u ?_ (fun _ => ?_); revert u; with_reducible refine Does.here ?_; rotate_left); revert u; intro _ _; rotate_right)
    | (extract_lets +onlyGivenNames u; (with_reducible refine Does.cutAt u ?_ (fun _ => ?_); revert u; with_reducible refine Does.here ?_; rotate_left); revert u; intro _ _; rotate_right)
    | (extract_lets +onlyGivenNames u; clear_value u; revert u; intro _)
    | with_reducible apply DoesOut.next
    | with_reducible apply DoesOut.ite
    | with_reducible apply Does.ite
    | with_reducible apply Does.andThen (State.enterDormant_does _)
    | with_reducible exact anyReg_page _ (by decide)
    | split

theorem State.wakeSource_does (s : State) (code : Nat) : Does 0x20000 s (State.wakeSource s code) := by
  unfold State.wakeSource
  repeat' first
    | with_reducible assumption
    | with_reducible exact Does.refl _ _
    | with_reducible rfl
    | decide
    | (extract_lets +onlyGivenNames u; (with_reducible refine Does.cutAt u ?_ (fun _ => ?_); revert u; with_reducible refine Does.here ?_; rotate_left); revert u; intro _ _; rotate_right)
    | (extract_lets +onlyGivenNames u; clear_value u; revert u; intro _)
    | with_reducible apply Does.ite
    | with_reducible apply Does.andThen (State.setClk_does _ _)
    | split

theorem State.portWake_does (s : State) : Does 0x20000 s (State.portWake s) := by
  unfold State.portWake
  repeat' first
    | with_reducible assumption
    | with_reducible exact Does.refl _ _
    | with_reducible rfl
    | decide
    | (extract_lets +onlyGivenNames u; (with_reducible refine Does.cutAt u ?_ (fun _ => ?_); revert u; with_reducible refine Does.here ?_; rotate_left); revert u; intro _ _; rotate_right)
    | (extract_lets +onlyGivenNames u; clear_value u; revert u; intro _)
    | with_reducible apply Does.ite
    | with_reducible apply Does.andThen (State.wakeSource_does _ _)
    | split

theorem execPortWake_does (s : State) : DoesOut 0x20000 s (execPortWake s) := by
  unfold execPortWake
  repeat' first
    | with_reducible assumption
    | with_reducible exact Does.refl _ _
    | with_reducible rfl
    | decide
    | (extract_lets +onlyGivenNames u; (with_reducible refine DoesOut.cutAt u ?_ (fun _ => ?_); revert u; with_reducible refine Does.here ?_; rotate_left); revert u; intro _ _; rotate_right)
    | (extract_lets +onlyGivenNames u; (with_reducible refine Does.cutAt u ?_ (fun _ => ?_); revert u; with_reducible refine Does.here ?_; rotate_left); revert u; intro _ _; rotate_right)
    | (extract_lets +onlyGivenNames u; clear_value u; revert u; intro _)
    | with_reducible apply DoesOut.next
    | with_reducible apply DoesOut.ite
    | with_reducible apply Does.ite
    | with_reducible apply Does.andThen (State.portWake_does _)
    | split

theorem execWake_does (s : State) : DoesOut 0x21000 s (execWake s) := by
  unfold execWake
  repeat' first
    | with_reducible assumption
    | with_reducible exact Does.refl _ _
    | with_reducible rfl
    | decide
    | (extract_lets +onlyGivenNames u; (with_reducible refine DoesOut.cutAt u ?_ (fun _ => ?_); revert u; with_reducible refine Does.here ?_; rotate_left); revert u; intro _ _; rotate_right)
    | (extract_lets +onlyGivenNames u; (with_reducible refine Does.cutAt u ?_ (fun _ => ?_); revert u; with_reducible refine Does.here ?_; rotate_left); revert u; intro _ _; rotate_right)
    | (extract_lets +onlyGivenNames u; clear_value u; revert u; intro _)
    | with_reducible apply DoesOut.next
    | with_reducible apply DoesOut.ite
    | with_reducible apply Does.ite
    | with_reducible apply Does.iteSnd
    | with_reducible apply Does.iteFst
    | with_reducible apply Does.andThen (State.takeFrame_does _ _ _)
    | with_reducible apply Does.andThen (State.wakeSource_does _ _)
    | (split <;> (rename_i h; refine DoesOut.cutSnd h ?_ (fun _ => ?_) <;> clear h))
    | (split <;> (rename_i h; refine DoesOut.cutFst h ?_ (fun _ => ?_) <;> clear h))
    | (split <;> (rename_i h; refine Does.cutSnd h ?_ (fun _ => ?_) <;> clear h))
    | (split <;> (rename_i h; refine Does.cutFst h ?_ (fun _ => ?_) <;> clear h))
    | split

theorem execWakePin_does (level : Bool) (edge : Bool) (s : State) : DoesOut 0x20000 s (execWakePin level edge s) := by
  unfold execWakePin
  repeat' first
    | with_reducible assumption
    | with_reducible exact Does.refl _ _
    | with_reducible rfl
    | decide
    | (extract_lets +onlyGivenNames u; (with_reducible refine DoesOut.cutAt u ?_ (fun _ => ?_); revert u; with_reducible refine Does.here ?_; rotate_left); revert u; intro _ _; rotate_right)
    | (extract_lets +onlyGivenNames u; (with_reducible refine Does.cutAt u ?_ (fun _ => ?_); revert u; with_reducible refine Does.here ?_; rotate_left); revert u; intro _ _; rotate_right)
    | (extract_lets +onlyGivenNames u; clear_value u; revert u; intro _)
    | with_reducible apply DoesOut.next
    | with_reducible apply DoesOut.ite
    | with_reducible apply Does.ite
    | with_reducible apply Does.andThen (State.setClk_does _ _)
    | with_reducible apply Does.andThen (State.wakeSource_does _ _)
    | split

theorem execWakeTimer_does (s : State) : DoesOut 0x20000 s (execWakeTimer s) := by
  unfold execWakeTimer
  repeat' first
    | with_reducible assumption
    | with_reducible exact Does.refl _ _
    | with_reducible rfl
    | decide
    | (extract_lets +onlyGivenNames u; (with_reducible refine DoesOut.cutAt u ?_ (fun _ => ?_); revert u; with_reducible refine Does.here ?_; rotate_left); revert u; intro _ _; rotate_right)
    | (extract_lets +onlyGivenNames u; (with_reducible refine Does.cutAt u ?_ (fun _ => ?_); revert u; with_reducible refine Does.here ?_; rotate_left); revert u; intro _ _; rotate_right)
    | (extract_lets +onlyGivenNames u; clear_value u; revert u; intro _)
    | with_reducible apply DoesOut.next
    | with_reducible apply DoesOut.ite
    | with_reducible apply Does.ite
    | with_reducible apply Does.andThen (State.wakeSource_does _ _)
    | split

theorem State.cmdRun_does (s : State) : Does 0x80020000 s (State.cmdRun s) := by
  unfold State.cmdRun
  repeat' first
    | with_reducible assumption
    | with_reducible exact Does.refl _ _
    | with_reducible rfl
    | decide
    | (extract_lets +onlyGivenNames u; (with_reducible refine Does.cutAt u ?_ (fun _ => ?_); revert u; with_reducible refine Does.here ?_; rotate_left); revert u; intro _ _; rotate_right)
    | (extract_lets +onlyGivenNames u; clear_value u; revert u; intro _)
    | with_reducible apply Does.ite
    | with_reducible apply Does.andThen (State.wakeSource_does _ _)
    | with_reducible apply Does.andThen (State.cmdErrPwr_does _)
    | split

theorem execRun_does (s : State) : DoesOut 0x80020000 s (execRun s) := by
  unfold execRun
  repeat' first
    | with_reducible assumption
    | with_reducible exact Does.refl _ _
    | with_reducible rfl
    | decide
    | (extract_lets +onlyGivenNames u; (with_reducible refine DoesOut.cutAt u ?_ (fun _ => ?_); revert u; with_reducible refine Does.here ?_; rotate_left); revert u; intro _ _; rotate_right)
    | (extract_lets +onlyGivenNames u; (with_reducible refine Does.cutAt u ?_ (fun _ => ?_); revert u; with_reducible refine Does.here ?_; rotate_left); revert u; intro _ _; rotate_right)
    | (extract_lets +onlyGivenNames u; clear_value u; revert u; intro _)
    | with_reducible apply DoesOut.next
    | with_reducible apply DoesOut.ite
    | with_reducible apply Does.ite
    | with_reducible apply Does.andThen (State.cmdRun_does _)
    | split

theorem execSupplyWarning_does (u : Supply) (s : State) : DoesOut 0x6080010001 s (execSupplyWarning u s) := by
  unfold execSupplyWarning
  repeat' first
    | with_reducible assumption
    | with_reducible exact Does.refl _ _
    | with_reducible rfl
    | decide
    | (extract_lets +onlyGivenNames u; (with_reducible refine DoesOut.cutAt u ?_ (fun _ => ?_); revert u; with_reducible refine Does.here ?_; rotate_left); revert u; intro _ _; rotate_right)
    | (extract_lets +onlyGivenNames u; (with_reducible refine Does.cutAt u ?_ (fun _ => ?_); revert u; with_reducible refine Does.here ?_; rotate_left); revert u; intro _ _; rotate_right)
    | (extract_lets +onlyGivenNames u; clear_value u; revert u; intro _)
    | with_reducible apply DoesOut.next
    | with_reducible apply DoesOut.ite
    | with_reducible apply Does.ite
    | with_reducible apply Does.andThen (State.evLog_does _ _ _ _)
    | with_reducible apply Does.andThen (State.flashWarn_does _)
    | with_reducible apply Does.setBit
    | split

theorem State.binnacleFresh_does (s : State) : Does 0xfffffdffeff s (State.binnacleFresh s) := by
  unfold State.binnacleFresh
  have hr : ∀ a, (0xfffffdffeff : Nat).testBit (pageBit a) = true := fun a => anyReg_page _ (by decide)
  refine ⟨fun c => ?_, rfl, fun p hp => ?_, fun a ha => ?_⟩
  · simp only [State.canonical, Bool.and_eq_true] at *
    exact ⟨swf_filter c.1 _, by decide⟩
  · cases p <;> first | rfl | exact absurd hp (by decide)
  · rw [hr a] at ha; cases ha

theorem State.binnacleDown_does (s : State) : Does 0xfffffdffeff s (State.binnacleDown s) := by
  unfold State.binnacleDown
  repeat' first
    | with_reducible assumption
    | with_reducible exact Does.refl _ _
    | with_reducible rfl
    | decide
    | (extract_lets +onlyGivenNames u; (with_reducible refine Does.cutAt u ?_ (fun _ => ?_); revert u; with_reducible refine Does.here ?_; rotate_left); revert u; intro _ _; rotate_right)
    | (extract_lets +onlyGivenNames u; clear_value u; revert u; intro _)
    | with_reducible apply Does.andThen (State.binnacleFresh_does _)
    | with_reducible exact anyReg_page _ (by decide)
    | split
    | with_reducible apply Does.andThen Does.upd_saf_boot_clk

theorem execSupplyResetCrossing_does (u : Supply) (s : State) : DoesOut 0xffffffffeff s (execSupplyResetCrossing u s) := by
  unfold execSupplyResetCrossing
  repeat' first
    | with_reducible assumption
    | with_reducible exact Does.refl _ _
    | with_reducible rfl
    | decide
    | (extract_lets +onlyGivenNames u; (with_reducible refine DoesOut.cutAt u ?_ (fun _ => ?_); revert u; with_reducible refine Does.here ?_; rotate_left); revert u; intro _ _; rotate_right)
    | (extract_lets +onlyGivenNames u; (with_reducible refine Does.cutAt u ?_ (fun _ => ?_); revert u; with_reducible refine Does.here ?_; rotate_left); revert u; intro _ _; rotate_right)
    | (extract_lets +onlyGivenNames u; clear_value u; revert u; intro _)
    | with_reducible apply DoesOut.next
    | with_reducible apply DoesOut.ite
    | with_reducible apply Does.ite
    | with_reducible apply Does.andThen (State.setClk_does _ _)
    | with_reducible apply Does.andThen (State.enterStandby_does _)
    | with_reducible apply Does.andThen (State.restartDue_does _)
    | with_reducible apply Does.andThen (State.holdCause_does _ _ _ _)
    | with_reducible apply Does.andThen (State.binnacleDown_does _)
    | with_reducible exact anyReg_page _ (by decide)
    | split
    | with_reducible apply Does.andThen Does.upd_boot

theorem execMainInputRestored_does (s : State) : DoesOut 0x20800 s (execMainInputRestored s) := by
  unfold execMainInputRestored
  repeat' first
    | with_reducible assumption
    | with_reducible exact Does.refl _ _
    | with_reducible rfl
    | decide
    | (extract_lets +onlyGivenNames u; (with_reducible refine DoesOut.cutAt u ?_ (fun _ => ?_); revert u; with_reducible refine Does.here ?_; rotate_left); revert u; intro _ _; rotate_right)
    | (extract_lets +onlyGivenNames u; (with_reducible refine Does.cutAt u ?_ (fun _ => ?_); revert u; with_reducible refine Does.here ?_; rotate_left); revert u; intro _ _; rotate_right)
    | (extract_lets +onlyGivenNames u; clear_value u; revert u; intro _)
    | with_reducible apply DoesOut.next
    | with_reducible apply DoesOut.ite
    | with_reducible apply Does.ite
    | with_reducible apply Does.andThen (State.endCause_does _ _)
    | with_reducible apply Does.andThen (State.setClk_does _ _)
    | with_reducible apply Does.andThen (State.wakeSource_does _ _)
    | split

theorem execWakeTaken_does (s : State) : DoesOut 0xfffffdffeff s (execWakeTaken s) := by
  unfold execWakeTaken
  repeat' first
    | with_reducible assumption
    | with_reducible exact Does.refl _ _
    | with_reducible rfl
    | decide
    | (extract_lets +onlyGivenNames u; (with_reducible refine DoesOut.cutAt u ?_ (fun _ => ?_); revert u; with_reducible refine Does.here ?_; rotate_left); revert u; intro _ _; rotate_right)
    | (extract_lets +onlyGivenNames u; (with_reducible refine Does.cutAt u ?_ (fun _ => ?_); revert u; with_reducible refine Does.here ?_; rotate_left); revert u; intro _ _; rotate_right)
    | (extract_lets +onlyGivenNames u; clear_value u; revert u; intro _)
    | with_reducible apply DoesOut.next
    | with_reducible apply DoesOut.ite
    | with_reducible apply Does.ite
    | with_reducible apply Does.andThen (State.writeWake_does _ _ _)
    | with_reducible apply Does.andThen (State.restartDue_does _)
    | with_reducible apply Does.andThen (State.setClk_does _ _)
    | with_reducible apply Does.andThen (State.binnacleDown_does _)
    | with_reducible exact anyReg_page _ (by decide)
    | split

theorem State.powerMark_does (s : State) : Does 0xc08ca67ac3 s (State.powerMark s) := by
  unfold State.powerMark
  repeat' first
    | with_reducible assumption
    | with_reducible exact Does.refl _ _
    | with_reducible rfl
    | decide
    | (extract_lets +onlyGivenNames u; (with_reducible refine Does.cutAt u ?_ (fun _ => ?_); revert u; with_reducible refine Does.here ?_; rotate_left); revert u; intro _ _; rotate_right)
    | (extract_lets +onlyGivenNames u; clear_value u; revert u; intro _)
    | with_reducible apply Does.ite
    | with_reducible apply Does.andThen (State.paceSwitch_does _)
    | with_reducible apply Does.andThen (State.setClk_does _ _)
    | with_reducible apply Does.andThen (State.idleEnter_does _)
    | with_reducible apply Does.andThen (State.idleLeave_does _)
    | split

end Sys2Proof.Machine
end

