-- ==== Sys2Proof/Laws/DoesBoot.lean ====
section
/-!
SUPPORT. What each operation of Sys2Proof/Machine/Boot.lean can do (see Sys2Proof/Laws/Does.lean).
-/
namespace Sys2Proof.Machine
set_option linter.all false
set_option linter.tactic.unusedName false
theorem State.setBoot_does (s : State) (b : Boot) : Does 0x8000 s (State.setBoot s b) := by
  unfold State.setBoot
  repeat' first
    | with_reducible assumption
    | with_reducible exact Does.refl _ _
    | with_reducible rfl
    | decide
    | (extract_lets +onlyGivenNames u; (with_reducible refine Does.cutAt u ?_ (fun _ => ?_); revert u; with_reducible refine Does.here ?_; rotate_left); revert u; intro _ _; rotate_right)
    | (extract_lets +onlyGivenNames u; clear_value u; revert u; intro _)
    | split
    | with_reducible apply Does.andThen Does.upd_boot

theorem State.cmdEnd_does (s : State) (code : Nat) : Does 0x1000000000 s (State.cmdEnd s code) := by
  unfold State.cmdEnd
  repeat' first
    | with_reducible assumption
    | with_reducible exact Does.refl _ _
    | with_reducible rfl
    | decide
    | (extract_lets +onlyGivenNames u; (with_reducible refine Does.cutAt u ?_ (fun _ => ?_); revert u; with_reducible refine Does.here ?_; rotate_left); revert u; intro _ _; rotate_right)
    | (extract_lets +onlyGivenNames u; clear_value u; revert u; intro _)
    | with_reducible apply Does.ite
    | with_reducible apply Does.setFld
    | with_reducible apply Does.setBit
    | split

theorem State.powered_does {m : Nat} {s t : State} (h : Does m s t) : Does m s (State.powered s t) := Does.ite (Does.refl _ _) h

theorem State.completeGen_does (s : State) (half : List (Fin 2 × Fin 256)) : Does 0x80000000001 s (State.completeGen s half) := by
  unfold State.completeGen
  repeat' first
    | with_reducible assumption
    | with_reducible exact Does.refl _ _
    | with_reducible rfl
    | decide
    | (extract_lets +onlyGivenNames u; (with_reducible refine Does.cutAt u ?_ (fun _ => ?_); revert u; with_reducible refine Does.here ?_; rotate_left); revert u; intro _ _; rotate_right)
    | (extract_lets +onlyGivenNames u; clear_value u; revert u; intro _)
    | with_reducible apply Does.foldl
    | with_reducible apply Does.foldlFst
    | with_reducible apply Does.foldlSnd
    | with_reducible apply Does.andThen Does.store
    | intro _ _ _
    | split

theorem State.bbSwap_does (s : State) (v : Nat) (t : State) (h : State.bbSwap s v = some t) : Does 0x81000008001 s t := by
  unfold State.bbSwap at h
  split at h
  · cases h
  · cases h
    with_reducible apply Does.andThen (State.setBoot_does _ _)
    · with_reducible apply Does.setFld
      · with_reducible apply Does.andThen Does.store
        · with_reducible apply Does.andThen Does.store
          · exact (State.eraseSector_does _ _).mono (by decide)
          · decide
        · decide
      · decide
    · decide

theorem State.loadTable_does (s : State) (base : Nat) (t : List Nat × List (Nat × Nat)) : Does 0x7ffffc00000 s (State.loadTable s base t) := by
  unfold State.loadTable
  repeat' first
    | with_reducible assumption
    | with_reducible exact Does.refl _ _
    | with_reducible rfl
    | decide
    | (extract_lets +onlyGivenNames u; (with_reducible refine Does.cutAt u ?_ (fun _ => ?_); revert u; with_reducible refine Does.here ?_; rotate_left); revert u; intro _ _; rotate_right)
    | (extract_lets +onlyGivenNames u; clear_value u; revert u; intro _)
    | with_reducible apply Does.each
    | with_reducible apply Does.wr
    | with_reducible exact anyReg_page _ (by decide)
    | intro _ _ _
    | split

theorem State.bootEvent_does (s : State) (i : Nat) : Does 0x5000000001 s (State.bootEvent s i) := by
  unfold State.bootEvent
  repeat' first
    | with_reducible assumption
    | with_reducible exact Does.refl _ _
    | with_reducible rfl
    | decide
    | (extract_lets +onlyGivenNames u; (with_reducible refine Does.cutAt u ?_ (fun _ => ?_); revert u; with_reducible refine Does.here ?_; rotate_left); revert u; intro _ _; rotate_right)
    | (extract_lets +onlyGivenNames u; clear_value u; revert u; intro _)
    | with_reducible apply Does.andThen (State.evLog_does _ _ _ _)
    | with_reducible apply Does.setBit
    | split

theorem State.copySeg_does (s : State) (n : Fin 2) (g : Seg) : Does 0x80000008001 s (State.copySeg s n g) := by
  unfold State.copySeg
  repeat' first
    | with_reducible assumption
    | with_reducible exact Does.refl _ _
    | with_reducible rfl
    | decide
    | (extract_lets +onlyGivenNames u; (with_reducible refine Does.cutAt u ?_ (fun _ => ?_); revert u; with_reducible refine Does.here ?_; rotate_left); revert u; intro _ _; rotate_right)
    | (extract_lets +onlyGivenNames u; clear_value u; revert u; intro _)
    | with_reducible apply Does.andThen Does.store
    | with_reducible apply Does.andThen (State.setBoot_does _ _)
    | split

theorem State.trySlot_does (s : State) (n : Fin 2) : Does 0x80000008001 s (State.trySlot s n).1 := by
  unfold State.trySlot
  repeat' first
    | with_reducible assumption
    | with_reducible exact Does.refl _ _
    | with_reducible rfl
    | decide
    | (extract_lets +onlyGivenNames u; (with_reducible refine Does.cutAt u ?_ (fun _ => ?_); revert u; with_reducible refine Does.here ?_; rotate_left); revert u; intro _ _; rotate_right)
    | (extract_lets +onlyGivenNames u; clear_value u; revert u; intro _)
    | with_reducible apply Does.iteSnd
    | with_reducible apply Does.iteFst
    | with_reducible apply Does.each
    | with_reducible apply Does.andThen (State.setBoot_does _ _)
    | with_reducible apply Does.andThen (State.copySeg_does _ _ _)
    | (split <;> (rename_i h; refine Does.cutSnd h ?_ (fun _ => ?_) <;> clear h))
    | (split <;> (rename_i h; refine Does.cutFst h ?_ (fun _ => ?_) <;> clear h))
    | intro _ _ _
    | split

theorem State.loadMgmt_does (s : State) : Does 0x7ffffc00001 s (State.loadMgmt s) := by
  unfold State.loadMgmt
  repeat' first
    | with_reducible assumption
    | with_reducible exact Does.refl _ _
    | with_reducible rfl
    | decide
    | (extract_lets +onlyGivenNames u; (with_reducible refine Does.cutAt u ?_ (fun _ => ?_); revert u; with_reducible refine Does.here ?_; rotate_left); revert u; intro _ _; rotate_right)
    | (extract_lets +onlyGivenNames u; clear_value u; revert u; intro _)
    | with_reducible apply Does.ite
    | with_reducible apply Does.andThen Does.resetRegs
    | with_reducible apply Does.andThen (State.loadTable_does _ _ _)
    | with_reducible apply Does.andThen (State.bootEvent_does _ _)
    | with_reducible exact anyReg_page _ (by decide)
    | split

theorem State.loadTables_does (s : State) (d : List Byte) : Does 0x7ffffc00000 s (State.loadTables s d) := by
  unfold State.loadTables
  repeat' first
    | with_reducible assumption
    | with_reducible exact Does.refl _ _
    | with_reducible rfl
    | decide
    | (extract_lets +onlyGivenNames u; (with_reducible refine Does.cutAt u ?_ (fun _ => ?_); revert u; with_reducible refine Does.here ?_; rotate_left); revert u; intro _ _; rotate_right)
    | (extract_lets +onlyGivenNames u; clear_value u; revert u; intro _)
    | with_reducible apply Does.each
    | with_reducible apply Does.andThen (State.loadTable_does _ _ _)
    | with_reducible exact anyReg_page _ (by decide)
    | intro _ _ _
    | split

theorem State.placeStaged_does (s : State) (g : Seg) (a : Nat) : Does 0xfffffc00001 s (State.placeStaged s g a) := by
  unfold State.placeStaged
  repeat' first
    | with_reducible assumption
    | with_reducible exact Does.refl _ _
    | with_reducible rfl
    | decide
    | (extract_lets +onlyGivenNames u; (with_reducible refine Does.cutAt u ?_ (fun _ => ?_); revert u; with_reducible refine Does.here ?_; rotate_left); revert u; intro _ _; rotate_right)
    | (extract_lets +onlyGivenNames u; clear_value u; revert u; intro _)
    | with_reducible apply Does.ite
    | with_reducible apply Does.andThen Does.store
    | with_reducible apply Does.andThen (State.loadTables_does _ _)
    | with_reducible exact anyReg_page _ (by decide)
    | split

theorem State.startStep_does (s : State) (k : Nat) : Does 0x1000008001 s (State.startStep s k) := by
  unfold State.startStep
  repeat' first
    | with_reducible assumption
    | with_reducible exact Does.refl _ _
    | with_reducible rfl
    | decide
    | (extract_lets +onlyGivenNames u; (with_reducible refine Does.cutAt u ?_ (fun _ => ?_); revert u; with_reducible refine Does.here ?_; rotate_left); revert u; intro _ _; rotate_right)
    | (extract_lets +onlyGivenNames u; clear_value u; revert u; intro _)
    | with_reducible apply Does.ite
    | with_reducible apply Does.andThen (State.setBoot_does _ _)
    | with_reducible apply Does.andThen (State.saveProg_does _)
    | with_reducible apply Does.setFld
    | split

theorem State.passStep_does (s : State) : Does 0x1000028801 s (State.passStep s) := by
  unfold State.passStep
  repeat' first
    | with_reducible assumption
    | with_reducible exact Does.refl _ _
    | with_reducible rfl
    | decide
    | (extract_lets +onlyGivenNames u; (with_reducible refine Does.cutAt u ?_ (fun _ => ?_); revert u; with_reducible refine Does.here ?_; rotate_left); revert u; intro _ _; rotate_right)
    | (extract_lets +onlyGivenNames u; clear_value u; revert u; intro _)
    | with_reducible apply Does.ite
    | with_reducible apply Does.andThen (State.startStep_does _ _)
    | with_reducible apply Does.andThen (State.saveProg_does _)
    | with_reducible apply Does.andThen (State.enterRun_does _)
    | split

theorem State.enterRecovery_does (s : State) : Does 0x100022d000 s (State.enterRecovery s) := by
  unfold State.enterRecovery
  repeat' first
    | with_reducible assumption
    | with_reducible exact Does.refl _ _
    | with_reducible rfl
    | decide
    | (extract_lets +onlyGivenNames u; (with_reducible refine Does.cutAt u ?_ (fun _ => ?_); revert u; with_reducible refine Does.here ?_; rotate_left); revert u; intro _ _; rotate_right)
    | (extract_lets +onlyGivenNames u; clear_value u; revert u; intro _)
    | with_reducible apply Does.andThen (State.setClk_does _ _)
    | with_reducible apply Does.andThen (State.setBoot_does _ _)
    | with_reducible apply Does.andThen Does.setCore
    | with_reducible apply Does.andThen (State.alert_does _ _)
    | with_reducible apply Does.setBit
    | split

theorem State.setAlternative_does (s : State) (k : Nat) : Does 0x1000008000 s (State.setAlternative s k) := by
  unfold State.setAlternative
  repeat' first
    | with_reducible assumption
    | with_reducible exact Does.refl _ _
    | with_reducible rfl
    | decide
    | (extract_lets +onlyGivenNames u; (with_reducible refine Does.cutAt u ?_ (fun _ => ?_); revert u; with_reducible refine Does.here ?_; rotate_left); revert u; intro _ _; rotate_right)
    | (extract_lets +onlyGivenNames u; clear_value u; revert u; intro _)
    | with_reducible apply Does.ite
    | with_reducible apply Does.andThen (State.setBoot_does _ _)
    | with_reducible apply Does.setBit
    | with_reducible apply Does.orReg
    | split

theorem State.bootFail_does (s : State) : Does 0xfffffeefeff s (State.bootFail s) := by
  unfold State.bootFail
  repeat' first
    | with_reducible assumption
    | with_reducible exact Does.refl _ _
    | with_reducible rfl
    | decide
    | (extract_lets +onlyGivenNames u; (with_reducible refine Does.cutAt u ?_ (fun _ => ?_); revert u; with_reducible refine Does.here ?_; rotate_left); revert u; intro _ _; rotate_right)
    | (extract_lets +onlyGivenNames u; clear_value u; revert u; intro _)
    | with_reducible apply Does.ite
    | with_reducible apply Does.andThen (State.setAlternative_does _ _)
    | with_reducible apply Does.andThen (State.leaveRun_does _)
    | with_reducible apply Does.andThen (State.setClk_does _ _)
    | with_reducible apply Does.andThen (State.cdOff_does _)
    | with_reducible apply Does.andThen (State.gddrOff_does _)
    | with_reducible apply Does.andThen (State.saveProg_does _)
    | with_reducible apply Does.andThen (State.setBoot_does _ _)
    | with_reducible apply Does.andThen (State.enterRecovery_does _)
    | with_reducible apply Does.setFld
    | with_reducible exact anyReg_page _ (by decide)
    | split

theorem State.bootFrom2_does (s : State) : Does 0x1020028001 s (State.bootFrom2 s) := by
  unfold State.bootFrom2
  repeat' first
    | with_reducible assumption
    | with_reducible exact Does.refl _ _
    | with_reducible rfl
    | decide
    | (extract_lets +onlyGivenNames u; (with_reducible refine Does.cutAt u ?_ (fun _ => ?_); revert u; with_reducible refine Does.here ?_; rotate_left); revert u; intro _ _; rotate_right)
    | (extract_lets +onlyGivenNames u; clear_value u; revert u; intro _)
    | with_reducible apply Does.andThen (State.setClk_does _ _)
    | with_reducible apply Does.andThen (State.setBoot_does _ _)
    | with_reducible apply Does.andThen (State.startStep_does _ _)
    | with_reducible apply Does.setFld
    | with_reducible apply Does.setBit
    | split

theorem State.checkBlock_does (s : State) (lines : Nat) : Does 0x87000008001 s (State.checkBlock s lines) := by
  unfold State.checkBlock
  extract_lets n r
  have ha : Does 0x87000008001 s r := by
    show Does 0x87000008001 s ((s.wr _ _).setBit _ _ _)
    exact Does.setBit (Does.wr (Does.refl _ _) (by decide)) (by decide)
  clear_value r n
  refine Does.ite ha ?_
  have hb : Does 0x87000008001 s (r.flsFlag 9 n) := Does.andThen (State.flsFlag_does r 9 n) ha (by decide)
  split
  · rename_i h; exact Does.trans hb (State.bbSwap_does _ _ _ h) (by decide)
  · exact Does.trans hb (State.cmdEnd_does _ _) (by decide)

theorem execBootRecall_does (half : List (Fin 2 × Fin 256)) (lines : Nat) (s : State) : DoesOut 0xfffffeefeff s (execBootRecall half lines s) := by
  unfold execBootRecall
  repeat' first
    | with_reducible assumption
    | with_reducible exact Does.refl _ _
    | with_reducible rfl
    | decide
    | (extract_lets +onlyGivenNames u; (with_reducible refine DoesOut.cutAt u ?_ (fun _ => ?_); revert u; with_reducible refine Does.here ?_; rotate_left); revert u; intro _ _; rotate_right)
    | (extract_lets +onlyGivenNames u; (with_reducible refine Does.cutAt u ?_ (fun _ => ?_); revert u; with_reducible refine Does.here ?_; rotate_left); revert u; intro _ _; rotate_right)
    | (extract_lets +onlyGivenNames u; clear_value u; revert u; intro _)
    | with_reducible apply DoesOut.next
    | with_reducible apply DoesOut.ite
    | with_reducible apply Does.ite
    | with_reducible apply Does.andThen (State.completeGen_does _ _)
    | with_reducible apply Does.andThen (State.bootFail_does _)
    | with_reducible apply Does.andThen (State.setBoot_does _ _)
    | with_reducible apply Does.andThen (State.bootFrom2_does _)
    | with_reducible apply Does.andThen (State.saveProg_does _)
    | with_reducible apply Does.andThen (State.checkBlock_does _ _)
    | with_reducible apply Does.wr
    | with_reducible apply Does.setFld
    | with_reducible exact anyReg_page _ (by decide)
    | split

theorem execBootPort_does (sfdp : Option Sfdp) (s : State) : DoesOut 0xfffffeefeff s (execBootPort sfdp s) := by
  unfold execBootPort
  repeat' first
    | with_reducible assumption
    | with_reducible exact Does.refl _ _
    | with_reducible rfl
    | decide
    | (extract_lets +onlyGivenNames u; (with_reducible refine DoesOut.cutAt u ?_ (fun _ => ?_); revert u; with_reducible refine Does.here ?_; rotate_left); revert u; intro _ _; rotate_right)
    | (extract_lets +onlyGivenNames u; (with_reducible refine Does.cutAt u ?_ (fun _ => ?_); revert u; with_reducible refine Does.here ?_; rotate_left); revert u; intro _ _; rotate_right)
    | (extract_lets +onlyGivenNames u; clear_value u; revert u; intro _)
    | with_reducible apply DoesOut.next
    | with_reducible apply DoesOut.ite
    | with_reducible apply Does.ite
    | with_reducible apply Does.andThen (State.bootFail_does _)
    | with_reducible apply Does.andThen (State.passStep_does _)
    | with_reducible apply Does.andThen (State.setBoot_does _ _)
    | with_reducible exact anyReg_page _ (by decide)
    | split

theorem State.startBinnacleCore_does (s : State) (n : CoreN) : Does 0x4000 s (State.startBinnacleCore s n) := by
  unfold State.startBinnacleCore
  repeat' first
    | with_reducible assumption
    | with_reducible exact Does.refl _ _
    | with_reducible rfl
    | decide
    | (extract_lets +onlyGivenNames u; (with_reducible refine Does.cutAt u ?_ (fun _ => ?_); revert u; with_reducible refine Does.here ?_; rotate_left); revert u; intro _ _; rotate_right)
    | (extract_lets +onlyGivenNames u; clear_value u; revert u; intro _)
    | with_reducible apply Does.andThen Does.setCore
    | split

theorem State.showSlot_does (s : State) (n : Fin 2) (reason : Nat) : Does 0x1000000000 s (State.showSlot s n reason) := by
  unfold State.showSlot
  repeat' first
    | with_reducible assumption
    | with_reducible exact Does.refl _ _
    | with_reducible rfl
    | decide
    | (extract_lets +onlyGivenNames u; (with_reducible refine Does.cutAt u ?_ (fun _ => ?_); revert u; with_reducible refine Does.here ?_; rotate_left); revert u; intro _ _; rotate_right)
    | (extract_lets +onlyGivenNames u; clear_value u; revert u; intro _)
    | with_reducible apply Does.ite
    | with_reducible apply Does.setFld
    | split

theorem State.pickSlot_does (l : List (Fin 2)) (s : State) : Does 0x81000008001 s (State.pickSlot l s).1 := by
  induction l generalizing s with
  | nil => exact Does.refl _ _
  | cons n l ih =>
    have h := (State.trySlot_does s n).mono (m := 0x81000008001) (by decide)
    unfold State.pickSlot
    split <;> rename_i e
    · rw [e] at h; exact h
    · rw [e] at h
      exact Does.andThen (ih _) (Does.andThen (State.showSlot_does _ _ _) h (by decide)) (by decide)

theorem execBootSlot_does (s : State) : DoesOut 0xfffffeefeff s (execBootSlot s) := by
  unfold execBootSlot
  repeat' first
    | with_reducible assumption
    | with_reducible exact Does.refl _ _
    | with_reducible rfl
    | decide
    | (extract_lets +onlyGivenNames u; (with_reducible refine DoesOut.cutAt u ?_ (fun _ => ?_); revert u; with_reducible refine Does.here ?_; rotate_left); revert u; intro _ _; rotate_right)
    | (extract_lets +onlyGivenNames u; (with_reducible refine Does.cutAt u ?_ (fun _ => ?_); revert u; with_reducible refine Does.here ?_; rotate_left); revert u; intro _ _; rotate_right)
    | (extract_lets +onlyGivenNames u; clear_value u; revert u; intro _)
    | with_reducible apply DoesOut.next
    | with_reducible apply DoesOut.ite
    | with_reducible apply Does.ite
    | with_reducible apply Does.iteSnd
    | with_reducible apply Does.iteFst
    | with_reducible apply Does.andThen (State.showSlot_does _ _ _)
    | with_reducible apply Does.andThen (State.bootEvent_does _ _)
    | with_reducible apply Does.andThen (State.pickSlot_does _ _)
    | with_reducible apply Does.andThen (State.bootFail_does _)
    | with_reducible apply Does.andThen (State.setBoot_does _ _)
    | with_reducible apply Does.andThen (State.saveProg_does _)
    | with_reducible apply Does.andThen (State.loadMgmt_does _)
    | with_reducible apply Does.andThen (State.startBinnacleCore_does _ _)
    | with_reducible apply Does.andThen (State.passStep_does _)
    | with_reducible apply Does.wr
    | with_reducible apply Does.setFld
    | with_reducible apply Does.setBit
    | with_reducible exact anyReg_page _ (by decide)
    | (rw [pageBit_bootSeq (by first | omega | decide | exact Nat.lt_of_lt_of_le (portIdx_lt _) (by decide) | exact Nat.lt_of_lt_of_le (bufIdx_lt _) (by decide) | exact Nat.lt_of_lt_of_le (b2n_lt _) (by decide) | exact Nat.lt_of_lt_of_le (Fin.isLt _) (by decide))]; decide)
    | (rw [pageBit_flsWp (by first | omega | decide | exact Nat.lt_of_lt_of_le (portIdx_lt _) (by decide) | exact Nat.lt_of_lt_of_le (bufIdx_lt _) (by decide) | exact Nat.lt_of_lt_of_le (b2n_lt _) (by decide) | exact Nat.lt_of_lt_of_le (Fin.isLt _) (by decide))]; decide)
    | (split <;> (rename_i h; refine DoesOut.cutSnd h ?_ (fun _ => ?_) <;> clear h))
    | (split <;> (rename_i h; refine DoesOut.cutFst h ?_ (fun _ => ?_) <;> clear h))
    | (split <;> (rename_i h; refine Does.cutSnd h ?_ (fun _ => ?_) <;> clear h))
    | (split <;> (rename_i h; refine Does.cutFst h ?_ (fun _ => ?_) <;> clear h))
    | split
    | with_reducible apply Does.andThen Does.upd_saf

theorem State.setTrctl_does (s : State) : Does 0x10000000 s (State.setTrctl s) := by
  unfold State.setTrctl
  repeat' first
    | with_reducible assumption
    | with_reducible exact Does.refl _ _
    | with_reducible rfl
    | decide
    | (extract_lets +onlyGivenNames u; (with_reducible refine Does.cutAt u ?_ (fun _ => ?_); revert u; with_reducible refine Does.here ?_; rotate_left); revert u; intro _ _; rotate_right)
    | (extract_lets +onlyGivenNames u; clear_value u; revert u; intro _)
    | with_reducible apply Does.andThen (State.setExcl_does _ _)
    | with_reducible apply Does.setFld
    | split

theorem execBootCdpwr_does (ok : Bool) (s : State) : DoesOut 0xfffffeefeff s (execBootCdpwr ok s) := by
  unfold execBootCdpwr
  repeat' first
    | with_reducible assumption
    | with_reducible exact Does.refl _ _
    | with_reducible rfl
    | decide
    | (extract_lets +onlyGivenNames u; (with_reducible refine DoesOut.cutAt u ?_ (fun _ => ?_); revert u; with_reducible refine Does.here ?_; rotate_left); revert u; intro _ _; rotate_right)
    | (extract_lets +onlyGivenNames u; (with_reducible refine Does.cutAt u ?_ (fun _ => ?_); revert u; with_reducible refine Does.here ?_; rotate_left); revert u; intro _ _; rotate_right)
    | (extract_lets +onlyGivenNames u; clear_value u; revert u; intro _)
    | with_reducible apply DoesOut.next
    | with_reducible apply DoesOut.ite
    | with_reducible apply Does.ite
    | with_reducible apply Does.andThen (State.bootFail_does _)
    | with_reducible apply Does.andThen (State.passStep_does _)
    | with_reducible apply Does.andThen (State.setTrctl_does _)
    | with_reducible apply Does.andThen (State.cdStart_does _)
    | with_reducible exact anyReg_page _ (by decide)
    | split

theorem State.stageFrom_does (s : State) (gs : List (Seg × Nat)) (src : Seg × Nat → Nat) : Does 0x80000000001 s (State.stageFrom s gs src).1 := by
  unfold State.stageFrom
  repeat' first
    | with_reducible assumption
    | with_reducible exact Does.refl _ _
    | with_reducible rfl
    | decide
    | (extract_lets +onlyGivenNames u; (with_reducible refine Does.cutAt u ?_ (fun _ => ?_); revert u; with_reducible refine Does.here ?_; rotate_left); revert u; intro _ _; rotate_right)
    | (extract_lets +onlyGivenNames u; clear_value u; revert u; intro _)
    | with_reducible apply Does.iteSnd
    | with_reducible apply Does.iteFst
    | with_reducible apply Does.each
    | with_reducible apply Does.andThen Does.store
    | (split <;> (rename_i h; refine Does.cutSnd h ?_ (fun _ => ?_) <;> clear h))
    | (split <;> (rename_i h; refine Does.cutFst h ?_ (fun _ => ?_) <;> clear h))
    | intro _ _ _
    | split

theorem State.placeAll_does (s : State) (gs : List (Seg × Nat)) : Does 0xfffffc00001 s (State.placeAll s gs) := by
  unfold State.placeAll
  repeat' first
    | with_reducible assumption
    | with_reducible exact Does.refl _ _
    | with_reducible rfl
    | decide
    | (extract_lets +onlyGivenNames u; (with_reducible refine Does.cutAt u ?_ (fun _ => ?_); revert u; with_reducible refine Does.here ?_; rotate_left); revert u; intro _ _; rotate_right)
    | (extract_lets +onlyGivenNames u; clear_value u; revert u; intro _)
    | with_reducible apply Does.each
    | with_reducible apply Does.andThen (State.loadTables_does _ _)
    | with_reducible apply Does.andThen (State.placeStaged_does _ _ _)
    | with_reducible exact anyReg_page _ (by decide)
    | intro _ _ _
    | split

theorem State.stageRetained_does (s : State) (gs : List (Seg × Nat)) (met : Met) : Does 0x80010000c01 s (State.stageRetained s gs met).1 := by
  unfold State.stageRetained
  repeat' first
    | with_reducible assumption
    | with_reducible exact Does.refl _ _
    | with_reducible rfl
    | decide
    | (extract_lets +onlyGivenNames u; (with_reducible refine Does.cutAt u ?_ (fun _ => ?_); revert u; with_reducible refine Does.here ?_; rotate_left); revert u; intro _ _; rotate_right)
    | (extract_lets +onlyGivenNames u; clear_value u; revert u; intro _)
    | with_reducible apply Does.iteSnd
    | with_reducible apply Does.iteFst
    | with_reducible apply Does.andThen (State.longRead_does _ _ _ _)
    | with_reducible apply Does.andThen (State.stageFrom_does _ _ _)
    | (split <;> (rename_i h; refine Does.cutSnd h ?_ (fun _ => ?_) <;> clear h))
    | (split <;> (rename_i h; refine Does.cutFst h ?_ (fun _ => ?_) <;> clear h))
    | split

theorem execBootStage_does (met : Met) (s : State) : DoesOut 0xfffffeefeff s (execBootStage met s) := by
  unfold execBootStage
  repeat' first
    | with_reducible assumption
    | with_reducible exact Does.refl _ _
    | with_reducible rfl
    | decide
    | (extract_lets +onlyGivenNames u; (with_reducible refine DoesOut.cutAt u ?_ (fun _ => ?_); revert u; with_reducible refine Does.here ?_; rotate_left); revert u; intro _ _; rotate_right)
    | (extract_lets +onlyGivenNames u; (with_reducible refine Does.cutAt u ?_ (fun _ => ?_); revert u; with_reducible refine Does.here ?_; rotate_left); revert u; intro _ _; rotate_right)
    | (extract_lets +onlyGivenNames u; clear_value u; revert u; intro _)
    | with_reducible apply DoesOut.next
    | with_reducible apply DoesOut.ite
    | with_reducible apply Does.ite
    | with_reducible apply Does.iteSnd
    | with_reducible apply Does.iteFst
    | with_reducible apply Does.andThen (State.stageRetained_does _ _ _)
    | with_reducible apply Does.andThen (State.bootEvent_does _ _)
    | with_reducible apply Does.andThen (State.stageFrom_does _ _ _)
    | with_reducible apply Does.andThen (State.placeAll_does _ _)
    | with_reducible apply Does.andThen (State.passStep_does _)
    | with_reducible apply Does.andThen (State.startTraining_does _)
    | with_reducible apply Does.andThen (State.bootFail_does _)
    | with_reducible exact anyReg_page _ (by decide)
    | (split <;> (rename_i h; refine DoesOut.cutSnd h ?_ (fun _ => ?_) <;> clear h))
    | (split <;> (rename_i h; refine DoesOut.cutFst h ?_ (fun _ => ?_) <;> clear h))
    | (split <;> (rename_i h; refine Does.cutSnd h ?_ (fun _ => ?_) <;> clear h))
    | (split <;> (rename_i h; refine Does.cutFst h ?_ (fun _ => ?_) <;> clear h))
    | split

theorem State.loadTo_does (s : State) (a : Nat) (bs : List Byte) (met : Met) : Does 0x80010000401 s (State.loadTo s a bs met) := by
  unfold State.loadTo
  repeat' first
    | with_reducible assumption
    | with_reducible exact Does.refl _ _
    | with_reducible rfl
    | decide
    | (extract_lets +onlyGivenNames u; (with_reducible refine Does.cutAt u ?_ (fun _ => ?_); revert u; with_reducible refine Does.here ?_; rotate_left); revert u; intro _ _; rotate_right)
    | (extract_lets +onlyGivenNames u; clear_value u; revert u; intro _)
    | with_reducible apply Does.andThen (State.meetWrites_does _ _ _ _)
    | with_reducible apply Does.andThen (State.unitPuts_does _ _ _)
    | with_reducible apply Does.andThen (State.unitPut_does _ _ _)
    | split

theorem execBootGddr6_does (met : Met) (s : State) : DoesOut 0xfffffeefeff s (execBootGddr6 met s) := by
  unfold execBootGddr6
  repeat' first
    | with_reducible assumption
    | with_reducible exact Does.refl _ _
    | with_reducible rfl
    | decide
    | (extract_lets +onlyGivenNames u; (with_reducible refine DoesOut.cutAt u ?_ (fun _ => ?_); revert u; with_reducible refine Does.here ?_; rotate_left); revert u; intro _ _; rotate_right)
    | (extract_lets +onlyGivenNames u; (with_reducible refine Does.cutAt u ?_ (fun _ => ?_); revert u; with_reducible refine Does.here ?_; rotate_left); revert u; intro _ _; rotate_right)
    | (extract_lets +onlyGivenNames u; clear_value u; revert u; intro _)
    | with_reducible apply DoesOut.next
    | with_reducible apply DoesOut.ite
    | with_reducible apply Does.ite
    | with_reducible apply Does.each
    | with_reducible apply Does.andThen (State.loadTo_does _ _ _ _)
    | with_reducible apply Does.andThen (State.passStep_does _)
    | with_reducible apply Does.andThen (State.bootFail_does _)
    | with_reducible apply Does.wr
    | with_reducible exact anyReg_page _ (by decide)
    | intro _ _ _
    | split

theorem execBootSelftest_does (s : State) : DoesOut 0xfffffeefeff s (execBootSelftest s) := by
  unfold execBootSelftest
  repeat' first
    | with_reducible assumption
    | with_reducible exact Does.refl _ _
    | with_reducible rfl
    | decide
    | (extract_lets +onlyGivenNames u; (with_reducible refine DoesOut.cutAt u ?_ (fun _ => ?_); revert u; with_reducible refine Does.here ?_; rotate_left); revert u; intro _ _; rotate_right)
    | (extract_lets +onlyGivenNames u; (with_reducible refine Does.cutAt u ?_ (fun _ => ?_); revert u; with_reducible refine Does.here ?_; rotate_left); revert u; intro _ _; rotate_right)
    | (extract_lets +onlyGivenNames u; clear_value u; revert u; intro _)
    | with_reducible apply DoesOut.next
    | with_reducible apply DoesOut.ite
    | with_reducible apply Does.ite
    | with_reducible apply Does.andThen (State.bootFail_does _)
    | with_reducible apply Does.andThen (State.passStep_does _)
    | with_reducible exact anyReg_page _ (by decide)
    | split

theorem execBootChain_does (s : State) : DoesOut 0xfffffeefeff s (execBootChain s) := by
  unfold execBootChain
  repeat' first
    | with_reducible assumption
    | with_reducible exact Does.refl _ _
    | with_reducible rfl
    | decide
    | (extract_lets +onlyGivenNames u; (with_reducible refine DoesOut.cutAt u ?_ (fun _ => ?_); revert u; with_reducible refine Does.here ?_; rotate_left); revert u; intro _ _; rotate_right)
    | (extract_lets +onlyGivenNames u; (with_reducible refine Does.cutAt u ?_ (fun _ => ?_); revert u; with_reducible refine Does.here ?_; rotate_left); revert u; intro _ _; rotate_right)
    | (extract_lets +onlyGivenNames u; clear_value u; revert u; intro _)
    | with_reducible apply DoesOut.next
    | with_reducible apply DoesOut.ite
    | with_reducible apply Does.ite
    | with_reducible apply Does.andThen (State.passStep_does _)
    | with_reducible apply Does.andThen (State.bootFail_does _)
    | with_reducible exact anyReg_page _ (by decide)
    | split

theorem execBootChart_does (s : State) : DoesOut 0xfffffeefeff s (execBootChart s) := by
  unfold execBootChart
  repeat' first
    | with_reducible assumption
    | with_reducible exact Does.refl _ _
    | with_reducible rfl
    | decide
    | (extract_lets +onlyGivenNames u; (with_reducible refine DoesOut.cutAt u ?_ (fun _ => ?_); revert u; with_reducible refine Does.here ?_; rotate_left); revert u; intro _ _; rotate_right)
    | (extract_lets +onlyGivenNames u; (with_reducible refine Does.cutAt u ?_ (fun _ => ?_); revert u; with_reducible refine Does.here ?_; rotate_left); revert u; intro _ _; rotate_right)
    | (extract_lets +onlyGivenNames u; clear_value u; revert u; intro _)
    | with_reducible apply DoesOut.next
    | with_reducible apply DoesOut.ite
    | with_reducible apply Does.ite
    | with_reducible apply Does.andThen (State.passStep_does _)
    | with_reducible apply Does.andThen (State.bootFail_does _)
    | with_reducible exact anyReg_page _ (by decide)
    | split

theorem State.chartSkip_does (s : State) : Does 0x1000028801 s (State.chartSkip s) := by
  unfold State.chartSkip
  repeat' first
    | with_reducible assumption
    | with_reducible exact Does.refl _ _
    | with_reducible rfl
    | decide
    | (extract_lets +onlyGivenNames u; (with_reducible refine Does.cutAt u ?_ (fun _ => ?_); revert u; with_reducible refine Does.here ?_; rotate_left); revert u; intro _ _; rotate_right)
    | (extract_lets +onlyGivenNames u; clear_value u; revert u; intro _)
    | with_reducible apply Does.ite
    | with_reducible apply Does.andThen (State.passStep_does _)
    | split

theorem execChartskip_does (s : State) : DoesOut 0x1000028801 s (execChartskip s) := by
  unfold execChartskip
  repeat' first
    | with_reducible assumption
    | with_reducible exact Does.refl _ _
    | with_reducible rfl
    | decide
    | (extract_lets +onlyGivenNames u; (with_reducible refine DoesOut.cutAt u ?_ (fun _ => ?_); revert u; with_reducible refine Does.here ?_; rotate_left); revert u; intro _ _; rotate_right)
    | (extract_lets +onlyGivenNames u; (with_reducible refine Does.cutAt u ?_ (fun _ => ?_); revert u; with_reducible refine Does.here ?_; rotate_left); revert u; intro _ _; rotate_right)
    | (extract_lets +onlyGivenNames u; clear_value u; revert u; intro _)
    | with_reducible apply DoesOut.next
    | with_reducible apply DoesOut.ite
    | with_reducible apply Does.ite
    | with_reducible apply Does.andThen (State.chartSkip_does _)
    | split

theorem State.chartFailed_does (s : State) : Does 0xfffffeefeff s (State.chartFailed s) := by
  unfold State.chartFailed
  repeat' first
    | with_reducible assumption
    | with_reducible exact Does.refl _ _
    | with_reducible rfl
    | decide
    | (extract_lets +onlyGivenNames u; (with_reducible refine Does.cutAt u ?_ (fun _ => ?_); revert u; with_reducible refine Does.here ?_; rotate_left); revert u; intro _ _; rotate_right)
    | (extract_lets +onlyGivenNames u; clear_value u; revert u; intro _)
    | with_reducible apply Does.ite
    | with_reducible apply Does.andThen (State.bootFail_does _)
    | with_reducible exact anyReg_page _ (by decide)
    | split

theorem execChartfail_does (s : State) : DoesOut 0xfffffeefeff s (execChartfail s) := by
  unfold execChartfail
  repeat' first
    | with_reducible assumption
    | with_reducible exact Does.refl _ _
    | with_reducible rfl
    | decide
    | (extract_lets +onlyGivenNames u; (with_reducible refine DoesOut.cutAt u ?_ (fun _ => ?_); revert u; with_reducible refine Does.here ?_; rotate_left); revert u; intro _ _; rotate_right)
    | (extract_lets +onlyGivenNames u; (with_reducible refine Does.cutAt u ?_ (fun _ => ?_); revert u; with_reducible refine Does.here ?_; rotate_left); revert u; intro _ _; rotate_right)
    | (extract_lets +onlyGivenNames u; clear_value u; revert u; intro _)
    | with_reducible apply DoesOut.next
    | with_reducible apply DoesOut.ite
    | with_reducible apply Does.ite
    | with_reducible apply Does.andThen (State.chartFailed_does _)
    | with_reducible exact anyReg_page _ (by decide)
    | split

theorem execBootTimeout_does (s : State) : DoesOut 0xfffffeefeff s (execBootTimeout s) := by
  unfold execBootTimeout
  repeat' first
    | with_reducible assumption
    | with_reducible exact Does.refl _ _
    | with_reducible rfl
    | decide
    | (extract_lets +onlyGivenNames u; (with_reducible refine DoesOut.cutAt u ?_ (fun _ => ?_); revert u; with_reducible refine Does.here ?_; rotate_left); revert u; intro _ _; rotate_right)
    | (extract_lets +onlyGivenNames u; (with_reducible refine Does.cutAt u ?_ (fun _ => ?_); revert u; with_reducible refine Does.here ?_; rotate_left); revert u; intro _ _; rotate_right)
    | (extract_lets +onlyGivenNames u; clear_value u; revert u; intro _)
    | with_reducible apply DoesOut.next
    | with_reducible apply DoesOut.ite
    | with_reducible apply Does.ite
    | with_reducible apply Does.andThen (State.bootFail_does _)
    | with_reducible exact anyReg_page _ (by decide)
    | split

theorem execBootRetry_does (s : State) : DoesOut 0x1020028001 s (execBootRetry s) := by
  unfold execBootRetry
  repeat' first
    | with_reducible assumption
    | with_reducible exact Does.refl _ _
    | with_reducible rfl
    | decide
    | (extract_lets +onlyGivenNames u; (with_reducible refine DoesOut.cutAt u ?_ (fun _ => ?_); revert u; with_reducible refine Does.here ?_; rotate_left); revert u; intro _ _; rotate_right)
    | (extract_lets +onlyGivenNames u; (with_reducible refine Does.cutAt u ?_ (fun _ => ?_); revert u; with_reducible refine Does.here ?_; rotate_left); revert u; intro _ _; rotate_right)
    | (extract_lets +onlyGivenNames u; clear_value u; revert u; intro _)
    | with_reducible apply DoesOut.next
    | with_reducible apply DoesOut.ite
    | with_reducible apply Does.ite
    | with_reducible apply Does.andThen (State.bootFrom2_does _)
    | split

theorem State.bootDone_does (s : State) : Does 0x1000008001 s (State.bootDone s) := by
  unfold State.bootDone
  repeat' first
    | with_reducible assumption
    | with_reducible exact Does.refl _ _
    | with_reducible rfl
    | decide
    | (extract_lets +onlyGivenNames u; (with_reducible refine Does.cutAt u ?_ (fun _ => ?_); revert u; with_reducible refine Does.here ?_; rotate_left); revert u; intro _ _; rotate_right)
    | (extract_lets +onlyGivenNames u; clear_value u; revert u; intro _)
    | with_reducible apply Does.ite
    | with_reducible apply Does.andThen (State.saveProg_does _)
    | with_reducible apply Does.andThen (State.setBoot_does _ _)
    | with_reducible apply Does.wr
    | with_reducible apply Does.setFld
    | split

theorem execDone_does (s : State) : DoesOut 0x1000008001 s (execDone s) := by
  unfold execDone
  repeat' first
    | with_reducible assumption
    | with_reducible exact Does.refl _ _
    | with_reducible rfl
    | decide
    | (extract_lets +onlyGivenNames u; (with_reducible refine DoesOut.cutAt u ?_ (fun _ => ?_); revert u; with_reducible refine Does.here ?_; rotate_left); revert u; intro _ _; rotate_right)
    | (extract_lets +onlyGivenNames u; (with_reducible refine Does.cutAt u ?_ (fun _ => ?_); revert u; with_reducible refine Does.here ?_; rotate_left); revert u; intro _ _; rotate_right)
    | (extract_lets +onlyGivenNames u; clear_value u; revert u; intro _)
    | with_reducible apply DoesOut.next
    | with_reducible apply DoesOut.ite
    | with_reducible apply Does.ite
    | with_reducible apply Does.andThen (State.bootDone_does _)
    | split

theorem State.cdrst_does (s : State) : Does 0x20000 s (State.cdrst s) := by
  unfold State.cdrst
  repeat' first
    | with_reducible assumption
    | with_reducible exact Does.refl _ _
    | with_reducible rfl
    | decide
    | (extract_lets +onlyGivenNames u; (with_reducible refine Does.cutAt u ?_ (fun _ => ?_); revert u; with_reducible refine Does.here ?_; rotate_left); revert u; intro _ _; rotate_right)
    | (extract_lets +onlyGivenNames u; clear_value u; revert u; intro _)
    | with_reducible apply Does.ite
    | with_reducible apply Does.andThen (State.restartDue_does _)
    | split

theorem execCdrst_does (s : State) : DoesOut 0x20000 s (execCdrst s) := by
  unfold execCdrst
  repeat' first
    | with_reducible assumption
    | with_reducible exact Does.refl _ _
    | with_reducible rfl
    | decide
    | (extract_lets +onlyGivenNames u; (with_reducible refine DoesOut.cutAt u ?_ (fun _ => ?_); revert u; with_reducible refine Does.here ?_; rotate_left); revert u; intro _ _; rotate_right)
    | (extract_lets +onlyGivenNames u; (with_reducible refine Does.cutAt u ?_ (fun _ => ?_); revert u; with_reducible refine Does.here ?_; rotate_left); revert u; intro _ _; rotate_right)
    | (extract_lets +onlyGivenNames u; clear_value u; revert u; intro _)
    | with_reducible apply DoesOut.next
    | with_reducible apply DoesOut.ite
    | with_reducible apply Does.ite
    | with_reducible apply Does.andThen (State.cdrst_does _)
    | split

theorem execWarmRestart_does (ok : Bool) (s : State) : DoesOut 0xfffffeefeff s (execWarmRestart ok s) := by
  unfold execWarmRestart
  repeat' first
    | with_reducible assumption
    | with_reducible exact Does.refl _ _
    | with_reducible rfl
    | decide
    | (extract_lets +onlyGivenNames u; (with_reducible refine DoesOut.cutAt u ?_ (fun _ => ?_); revert u; with_reducible refine Does.here ?_; rotate_left); revert u; intro _ _; rotate_right)
    | (extract_lets +onlyGivenNames u; (with_reducible refine Does.cutAt u ?_ (fun _ => ?_); revert u; with_reducible refine Does.here ?_; rotate_left); revert u; intro _ _; rotate_right)
    | (extract_lets +onlyGivenNames u; clear_value u; revert u; intro _)
    | with_reducible apply DoesOut.next
    | with_reducible apply DoesOut.ite
    | with_reducible apply Does.ite
    | with_reducible apply Does.andThen (State.enterSelfRefresh_does _ _)
    | with_reducible apply Does.andThen (State.leaveRun_does _)
    | with_reducible apply Does.andThen (State.setClk_does _ _)
    | with_reducible apply Does.andThen (State.setTrctl_does _)
    | with_reducible apply Does.andThen (State.cdStart_does _)
    | with_reducible apply Does.andThen (State.setBoot_does _ _)
    | with_reducible apply Does.andThen (State.startStep_does _ _)
    | with_reducible apply Does.setBit
    | with_reducible exact anyReg_page _ (by decide)
    | split

theorem State.reboot_does (s : State) : Does 0xfffffeefeff s (State.reboot s) := by
  unfold State.reboot
  repeat' first
    | with_reducible assumption
    | with_reducible exact Does.refl _ _
    | with_reducible rfl
    | decide
    | (extract_lets +onlyGivenNames u; (with_reducible refine Does.cutAt u ?_ (fun _ => ?_); revert u; with_reducible refine Does.here ?_; rotate_left); revert u; intro _ _; rotate_right)
    | (extract_lets +onlyGivenNames u; clear_value u; revert u; intro _)
    | with_reducible apply Does.andThen (State.bootFrom2_does _)
    | with_reducible apply Does.andThen (State.cdOff_does _)
    | with_reducible apply Does.andThen (State.leaveRun_does _)
    | with_reducible apply Does.andThen (State.setClk_does _ _)
    | with_reducible exact anyReg_page _ (by decide)
    | split

theorem execReboot_does (s : State) : DoesOut 0xfffffeefeff s (execReboot s) := by
  unfold execReboot
  repeat' first
    | with_reducible assumption
    | with_reducible exact Does.refl _ _
    | with_reducible rfl
    | decide
    | (extract_lets +onlyGivenNames u; (with_reducible refine DoesOut.cutAt u ?_ (fun _ => ?_); revert u; with_reducible refine Does.here ?_; rotate_left); revert u; intro _ _; rotate_right)
    | (extract_lets +onlyGivenNames u; (with_reducible refine Does.cutAt u ?_ (fun _ => ?_); revert u; with_reducible refine Does.here ?_; rotate_left); revert u; intro _ _; rotate_right)
    | (extract_lets +onlyGivenNames u; clear_value u; revert u; intro _)
    | with_reducible apply DoesOut.next
    | with_reducible apply DoesOut.ite
    | with_reducible apply Does.ite
    | with_reducible apply Does.andThen (State.reboot_does _)
    | with_reducible apply Does.andThen (State.cmdEnd_does _ _)
    | with_reducible exact anyReg_page _ (by decide)
    | split

theorem State.bootOp_does (s : State) (op : Nat) (n : Nat) (slot : Fin 2) (data : List Byte) : Does 0x1000008000 s (State.bootOp s op n slot data) := by
  unfold State.bootOp
  repeat' first
    | with_reducible assumption
    | with_reducible exact Does.refl _ _
    | with_reducible rfl
    | decide
    | (extract_lets +onlyGivenNames u; (with_reducible refine Does.cutAt u ?_ (fun _ => ?_); revert u; with_reducible refine Does.here ?_; rotate_left); revert u; intro _ _; rotate_right)
    | (extract_lets +onlyGivenNames u; clear_value u; revert u; intro _)
    | with_reducible apply Does.andThen (State.cmdEnd_does _ _)
    | with_reducible apply Does.andThen (State.setBoot_does _ _)
    | with_reducible apply Does.setBit
    | split

theorem execBootErase_does (slot : Fin 2) (s : State) : DoesOut 0x1000008000 s (execBootErase slot s) := by
  unfold execBootErase
  repeat' first
    | with_reducible assumption
    | with_reducible exact Does.refl _ _
    | with_reducible rfl
    | decide
    | (extract_lets +onlyGivenNames u; (with_reducible refine DoesOut.cutAt u ?_ (fun _ => ?_); revert u; with_reducible refine Does.here ?_; rotate_left); revert u; intro _ _; rotate_right)
    | (extract_lets +onlyGivenNames u; (with_reducible refine Does.cutAt u ?_ (fun _ => ?_); revert u; with_reducible refine Does.here ?_; rotate_left); revert u; intro _ _; rotate_right)
    | (extract_lets +onlyGivenNames u; clear_value u; revert u; intro _)
    | with_reducible apply DoesOut.next
    | with_reducible apply DoesOut.ite
    | with_reducible apply Does.ite
    | with_reducible apply State.powered_does
    | with_reducible apply Does.andThen (State.bootOp_does _ _ _ _ _)
    | split

theorem execBootProgram_does (slot : Fin 2) (s : State) : DoesOut 0x1000008000 s (execBootProgram slot s) := by
  unfold execBootProgram
  repeat' first
    | with_reducible assumption
    | with_reducible exact Does.refl _ _
    | with_reducible rfl
    | decide
    | (extract_lets +onlyGivenNames u; (with_reducible refine DoesOut.cutAt u ?_ (fun _ => ?_); revert u; with_reducible refine Does.here ?_; rotate_left); revert u; intro _ _; rotate_right)
    | (extract_lets +onlyGivenNames u; (with_reducible refine Does.cutAt u ?_ (fun _ => ?_); revert u; with_reducible refine Does.here ?_; rotate_left); revert u; intro _ _; rotate_right)
    | (extract_lets +onlyGivenNames u; clear_value u; revert u; intro _)
    | with_reducible apply DoesOut.next
    | with_reducible apply DoesOut.ite
    | with_reducible apply Does.ite
    | with_reducible apply State.powered_does
    | with_reducible apply Does.andThen (State.bootOp_does _ _ _ _ _)
    | split

theorem execBootOperationDone_does (timedOut : Bool) (s : State) : DoesOut 0x1000208001 s (execBootOperationDone timedOut s) := by
  unfold execBootOperationDone
  repeat' first
    | with_reducible assumption
    | with_reducible exact Does.refl _ _
    | with_reducible rfl
    | decide
    | (extract_lets +onlyGivenNames u; (with_reducible refine DoesOut.cutAt u ?_ (fun _ => ?_); revert u; with_reducible refine Does.here ?_; rotate_left); revert u; intro _ _; rotate_right)
    | (extract_lets +onlyGivenNames u; (with_reducible refine Does.cutAt u ?_ (fun _ => ?_); revert u; with_reducible refine Does.here ?_; rotate_left); revert u; intro _ _; rotate_right)
    | (extract_lets +onlyGivenNames u; clear_value u; revert u; intro _)
    | with_reducible apply DoesOut.next
    | with_reducible apply DoesOut.ite
    | with_reducible apply Does.ite
    | with_reducible apply Does.iteSnd
    | with_reducible apply Does.iteFst
    | with_reducible apply Does.andThen (State.setBoot_does _ _)
    | with_reducible apply Does.andThen Does.freeBytes
    | with_reducible apply Does.andThen Does.dropMem
    | with_reducible apply Does.andThen (State.cmdEnd_does _ _)
    | with_reducible apply Does.andThen Does.setBytes
    | (split <;> (rename_i h; refine DoesOut.cutSnd h ?_ (fun _ => ?_) <;> clear h))
    | (split <;> (rename_i h; refine DoesOut.cutFst h ?_ (fun _ => ?_) <;> clear h))
    | (split <;> (rename_i h; refine Does.cutSnd h ?_ (fun _ => ?_) <;> clear h))
    | (split <;> (rename_i h; refine Does.cutFst h ?_ (fun _ => ?_) <;> clear h))
    | split

theorem State.raiseMin_does (s : State) : Does 0x81000008001 s (State.raiseMin s) := by
  have hc : ∀ c, Does 0x81000008001 s (s.cmdEnd c) := fun c => (State.cmdEnd_does _ _).mono (by decide)
  unfold State.raiseMin
  dsimp only
  refine Does.ite (hc _) (Does.ite (hc _) (Does.ite (hc _) (Does.ite (hc _) ?_)))
  split
  · rename_i h
    exact Does.andThen (State.cmdEnd_does _ _) ((State.bbSwap_does _ _ _ h).mono (by decide)) (by decide)
  · exact hc _

theorem execRaise_does (s : State) : DoesOut 0x81000008001 s (execRaise s) := by
  unfold execRaise
  repeat' first
    | with_reducible assumption
    | with_reducible exact Does.refl _ _
    | with_reducible rfl
    | decide
    | (extract_lets +onlyGivenNames u; (with_reducible refine DoesOut.cutAt u ?_ (fun _ => ?_); revert u; with_reducible refine Does.here ?_; rotate_left); revert u; intro _ _; rotate_right)
    | (extract_lets +onlyGivenNames u; (with_reducible refine Does.cutAt u ?_ (fun _ => ?_); revert u; with_reducible refine Does.here ?_; rotate_left); revert u; intro _ _; rotate_right)
    | (extract_lets +onlyGivenNames u; clear_value u; revert u; intro _)
    | with_reducible apply DoesOut.next
    | with_reducible apply DoesOut.ite
    | with_reducible apply Does.ite
    | with_reducible apply State.powered_does
    | with_reducible apply Does.andThen (State.raiseMin_does _)
    | split

theorem State.clrdeg_does (s : State) : Does 0x1000000001 s (State.clrdeg s) := by
  unfold State.clrdeg
  repeat' first
    | with_reducible assumption
    | with_reducible exact Does.refl _ _
    | with_reducible rfl
    | decide
    | (extract_lets +onlyGivenNames u; (with_reducible refine Does.cutAt u ?_ (fun _ => ?_); revert u; with_reducible refine Does.here ?_; rotate_left); revert u; intro _ _; rotate_right)
    | (extract_lets +onlyGivenNames u; clear_value u; revert u; intro _)
    | with_reducible apply Does.andThen (State.cmdEnd_does _ _)
    | with_reducible apply Does.andThen (State.saveProg_does _)
    | with_reducible apply Does.wr
    | split

theorem execClrdeg_does (s : State) : DoesOut 0x1000000001 s (execClrdeg s) := by
  unfold execClrdeg
  repeat' first
    | with_reducible assumption
    | with_reducible exact Does.refl _ _
    | with_reducible rfl
    | decide
    | (extract_lets +onlyGivenNames u; (with_reducible refine DoesOut.cutAt u ?_ (fun _ => ?_); revert u; with_reducible refine Does.here ?_; rotate_left); revert u; intro _ _; rotate_right)
    | (extract_lets +onlyGivenNames u; (with_reducible refine Does.cutAt u ?_ (fun _ => ?_); revert u; with_reducible refine Does.here ?_; rotate_left); revert u; intro _ _; rotate_right)
    | (extract_lets +onlyGivenNames u; clear_value u; revert u; intro _)
    | with_reducible apply DoesOut.next
    | with_reducible apply DoesOut.ite
    | with_reducible apply Does.ite
    | with_reducible apply State.powered_does
    | with_reducible apply Does.andThen (State.clrdeg_does _)
    | split

theorem State.bootRead_does (s : State) (slot : Fin 2) : Does 0x1000000000 s (State.bootRead s slot) := by
  unfold State.bootRead
  repeat' first
    | with_reducible assumption
    | with_reducible exact Does.refl _ _
    | with_reducible rfl
    | decide
    | (extract_lets +onlyGivenNames u; (with_reducible refine Does.cutAt u ?_ (fun _ => ?_); revert u; with_reducible refine Does.here ?_; rotate_left); revert u; intro _ _; rotate_right)
    | (extract_lets +onlyGivenNames u; clear_value u; revert u; intro _)
    | with_reducible apply Does.ite
    | with_reducible apply Does.each
    | with_reducible apply Does.andThen (State.cmdEnd_does _ _)
    | with_reducible apply Does.wr
    | (rw [pageBit_bootBufw trivial]; decide)
    | intro _ _ _
    | split

theorem execBootRead_does (slot : Fin 2) (s : State) : DoesOut 0x1000000000 s (execBootRead slot s) := by
  unfold execBootRead
  repeat' first
    | with_reducible assumption
    | with_reducible exact Does.refl _ _
    | with_reducible rfl
    | decide
    | (extract_lets +onlyGivenNames u; (with_reducible refine DoesOut.cutAt u ?_ (fun _ => ?_); revert u; with_reducible refine Does.here ?_; rotate_left); revert u; intro _ _; rotate_right)
    | (extract_lets +onlyGivenNames u; (with_reducible refine Does.cutAt u ?_ (fun _ => ?_); revert u; with_reducible refine Does.here ?_; rotate_left); revert u; intro _ _; rotate_right)
    | (extract_lets +onlyGivenNames u; clear_value u; revert u; intro _)
    | with_reducible apply DoesOut.next
    | with_reducible apply DoesOut.ite
    | with_reducible apply Does.ite
    | with_reducible apply State.powered_does
    | with_reducible apply Does.andThen (State.bootRead_does _ _)
    | split

theorem State.bootCommand_does (s : State) (v : Nat) : Does 0xfffffeefeff s (State.bootCommand s v) := by
  unfold State.bootCommand
  repeat' first
    | with_reducible assumption
    | with_reducible exact Does.refl _ _
    | with_reducible rfl
    | decide
    | (extract_lets +onlyGivenNames u; (with_reducible refine Does.cutAt u ?_ (fun _ => ?_); revert u; with_reducible refine Does.here ?_; rotate_left); revert u; intro _ _; rotate_right)
    | (extract_lets +onlyGivenNames u; clear_value u; revert u; intro _)
    | with_reducible apply Does.ite
    | with_reducible apply State.powered_does
    | with_reducible apply Does.andThen (State.reboot_does _)
    | with_reducible apply Does.andThen (State.cmdEnd_does _ _)
    | with_reducible apply Does.andThen (State.bootOp_does _ _ _ _ _)
    | with_reducible apply Does.andThen (State.raiseMin_does _)
    | with_reducible apply Does.andThen (State.clrdeg_does _)
    | with_reducible apply Does.andThen (State.bootRead_does _ _)
    | with_reducible exact anyReg_page _ (by decide)
    | split

theorem State.binnacleReset_does (s : State) (refToggling : Bool) : Does 0xfffffdffeff s (State.binnacleReset s refToggling) := by
  unfold State.binnacleReset
  repeat' first
    | with_reducible assumption
    | with_reducible exact Does.refl _ _
    | with_reducible rfl
    | decide
    | (extract_lets +onlyGivenNames u; (with_reducible refine Does.cutAt u ?_ (fun _ => ?_); revert u; with_reducible refine Does.here ?_; rotate_left); revert u; intro _ _; rotate_right)
    | (extract_lets +onlyGivenNames u; clear_value u; revert u; intro _)
    | with_reducible apply Does.andThen (State.binnacleFresh_does _)
    | with_reducible apply Does.setBit
    | with_reducible exact anyReg_page _ (by decide)
    | split

theorem execBinnacleReset_does (refToggling : Bool) (s : State) : DoesOut 0xfffffdffeff s (execBinnacleReset refToggling s) := by
  unfold execBinnacleReset
  repeat' first
    | with_reducible assumption
    | with_reducible exact Does.refl _ _
    | with_reducible rfl
    | decide
    | (extract_lets +onlyGivenNames u; (with_reducible refine DoesOut.cutAt u ?_ (fun _ => ?_); revert u; with_reducible refine Does.here ?_; rotate_left); revert u; intro _ _; rotate_right)
    | (extract_lets +onlyGivenNames u; (with_reducible refine Does.cutAt u ?_ (fun _ => ?_); revert u; with_reducible refine Does.here ?_; rotate_left); revert u; intro _ _; rotate_right)
    | (extract_lets +onlyGivenNames u; clear_value u; revert u; intro _)
    | with_reducible apply DoesOut.next
    | with_reducible apply DoesOut.ite
    | with_reducible apply Does.ite
    | with_reducible apply Does.andThen (State.binnacleReset_does _ _)
    | with_reducible exact anyReg_page _ (by decide)
    | split

end Sys2Proof.Machine
end

