-- ==== Sys2Proof/Laws/DoesBus.lean ====
section
/-!
SUPPORT. What each operation of Sys2Proof/Machine/Bus.lean can do (see Sys2Proof/Laws/Does.lean).
-/
namespace Sys2Proof.Machine
set_option linter.all false
set_option linter.tactic.unusedName false
theorem State.genWrite_does (s : State) (a : Nat) (v : Nat) : Does 0x7ffffc00000 s (State.genWrite s a v) := by
  unfold State.genWrite
  repeat' first
    | with_reducible assumption
    | with_reducible exact Does.refl _ _
    | with_reducible rfl
    | decide
    | (extract_lets +onlyGivenNames u; (with_reducible refine Does.cutAt u ?_ (fun _ => ?_); revert u; with_reducible refine Does.here ?_; rotate_left); revert u; intro _ _; rotate_right)
    | (extract_lets +onlyGivenNames u; clear_value u; revert u; intro _)
    | with_reducible apply Does.ite
    | with_reducible apply Does.wr
    | with_reducible exact anyReg_page _ (by decide)
    | split

theorem State.genRead_does (s : State) (a : Nat) : Does 0x7ffffc00000 s (State.genRead s a).2 := by
  unfold State.genRead
  repeat' first
    | with_reducible assumption
    | with_reducible exact Does.refl _ _
    | with_reducible rfl
    | decide
    | (extract_lets +onlyGivenNames u; (with_reducible refine Does.cutAt u ?_ (fun _ => ?_); revert u; with_reducible refine Does.here ?_; rotate_left); revert u; intro _ _; rotate_right)
    | (extract_lets +onlyGivenNames u; clear_value u; revert u; intro _)
    | with_reducible apply Does.ite
    | with_reducible apply Does.iteSnd
    | with_reducible apply Does.iteFst
    | with_reducible apply Does.clrReg
    | with_reducible exact anyReg_page _ (by decide)
    | (split <;> (rename_i h; refine Does.cutSnd h ?_ (fun _ => ?_) <;> clear h))
    | (split <;> (rename_i h; refine Does.cutFst h ?_ (fun _ => ?_) <;> clear h))
    | split

theorem State.mpinIn_does (s : State) : Does 0x200000 s (State.mpinIn s).2 := by
  unfold State.mpinIn
  repeat' first
    | with_reducible assumption
    | with_reducible exact Does.refl _ _
    | with_reducible rfl
    | decide
    | (extract_lets +onlyGivenNames u; (with_reducible refine Does.cutAt u ?_ (fun _ => ?_); revert u; with_reducible refine Does.here ?_; rotate_left); revert u; intro _ _; rotate_right)
    | (extract_lets +onlyGivenNames u; clear_value u; revert u; intro _)
    | with_reducible apply Does.ite
    | with_reducible apply Does.iteSnd
    | with_reducible apply Does.iteFst
    | with_reducible apply Does.andThen Does.freeWord
    | (split <;> (rename_i h; refine Does.cutSnd h ?_ (fun _ => ?_) <;> clear h))
    | (split <;> (rename_i h; refine Does.cutFst h ?_ (fun _ => ?_) <;> clear h))
    | split

theorem State.pltRead_does (s : State) (o : Nat) : Does 0x7ffffc80000 s (State.pltRead s o).2 := by
  have hg := (State.genRead_does s (pltBase + o)).mono (m := 0x7ffffc80000) (by decide)
  unfold State.pltRead
  split
  · split
    · exact Does.refl _ _
    split
    · exact Does.refl _ _
    · exact hg
  split
  · extract_lets k q
    split
    · exact Does.refl _ _
    · exact Does.refl _ _
    · exact (State.rxqPop_does _ _).mono (by decide)
    · exact Does.refl _ _
    · exact Does.refl _ _
    · exact Does.refl _ _
    · exact hg
  · exact hg

theorem State.serRead_does (s : State) (o : Nat) : Does 0x7ffffec0000 s (State.serRead s o).2 := by
  have hg := (State.genRead_does s (serBase + o)).mono (m := 0x7ffffec0000) (by decide)
  unfold State.serRead
  split
  · extract_lets i
    split
    · exact (State.rxPop_does _ _).mono (by decide)
    · exact Does.refl _ _
    · exact hg
  · exact hg

theorem State.hlmRead_does (s : State) (o : Nat) : Does 0x7ffffc00000 s (State.hlmRead s o).2 := by
  unfold State.hlmRead
  repeat' first
    | with_reducible assumption
    | with_reducible exact Does.refl _ _
    | with_reducible rfl
    | decide
    | (extract_lets +onlyGivenNames u; (with_reducible refine Does.cutAt u ?_ (fun _ => ?_); revert u; with_reducible refine Does.here ?_; rotate_left); revert u; intro _ _; rotate_right)
    | (extract_lets +onlyGivenNames u; clear_value u; revert u; intro _)
    | with_reducible apply Does.ite
    | with_reducible apply Does.iteSnd
    | with_reducible apply Does.iteFst
    | with_reducible apply Does.andThen (State.genRead_does _ _)
    | with_reducible exact anyReg_page _ (by decide)
    | (split <;> (rename_i h; refine Does.cutSnd h ?_ (fun _ => ?_) <;> clear h))
    | (split <;> (rename_i h; refine Does.cutFst h ?_ (fun _ => ?_) <;> clear h))
    | split

theorem State.regRead_does (s : State) (b : Nat) (o : Nat) : Does 0x7ffffec0000 s (State.regRead s b o).2 := by
  unfold State.regRead
  repeat' first
    | with_reducible assumption
    | with_reducible exact Does.refl _ _
    | with_reducible rfl
    | decide
    | (extract_lets +onlyGivenNames u; (with_reducible refine Does.cutAt u ?_ (fun _ => ?_); revert u; with_reducible refine Does.here ?_; rotate_left); revert u; intro _ _; rotate_right)
    | (extract_lets +onlyGivenNames u; clear_value u; revert u; intro _)
    | with_reducible apply Does.ite
    | with_reducible apply Does.iteSnd
    | with_reducible apply Does.iteFst
    | with_reducible apply Does.andThen (State.bufWord_does _ _)
    | with_reducible apply Does.andThen (State.hlmRead_does _ _)
    | with_reducible apply Does.andThen (State.pinInWord_does _ _)
    | with_reducible apply Does.andThen (State.pltRead_does _ _)
    | with_reducible apply Does.andThen (State.serRead_does _ _)
    | with_reducible apply Does.andThen (State.cntLo_does _ _)
    | with_reducible apply Does.andThen (State.clAge_does _)
    | with_reducible apply Does.andThen (State.mpinIn_does _)
    | with_reducible apply Does.andThen (State.mptRead_does _ _)
    | with_reducible apply Does.andThen (State.genRead_does _ _)
    | with_reducible exact anyReg_page _ (by decide)
    | (split <;> (rename_i h; refine Does.cutSnd h ?_ (fun _ => ?_) <;> clear h))
    | (split <;> (rename_i h; refine Does.cutFst h ?_ (fun _ => ?_) <;> clear h))
    | split

theorem after_does {m : Nat} (s t : State) (o : Out) (hs : Does m s t) (h : DoesOut m s o) : Does m s (after t o) := by
  cases o
  · exact h _ rfl
  · exact hs
  · exact hs

theorem State.eachBit_does {m : Nat} {s t : State} {mask n : Nat} {f : State → Nat → State} (h : Does m s t)
    (k : ∀ u x, Does m s u → Does m s (f u x)) : Does m s (State.eachBit t mask n f) := Does.each h k

theorem State.perWrite_does (s : State) (o : Nat) (v : Nat) : Does 0x7ffffc00002 s (State.perWrite s o v) := by
  unfold State.perWrite
  repeat' first
    | with_reducible assumption
    | with_reducible exact Does.refl _ _
    | with_reducible rfl
    | decide
    | (extract_lets +onlyGivenNames u; (with_reducible refine Does.cutAt u ?_ (fun _ => ?_); revert u; with_reducible refine Does.here ?_; rotate_left); revert u; intro _ _; rotate_right)
    | (extract_lets +onlyGivenNames u; clear_value u; revert u; intro _)
    | with_reducible apply Does.ite
    | with_reducible apply Does.andThen (State.perControl_does _ _)
    | with_reducible apply Does.andThen (State.periodLength_does _ _ _)
    | with_reducible apply Does.andThen (State.deadlineReg_does _ _ _)
    | with_reducible apply Does.andThen (State.timerControl_does _ _ _)
    | with_reducible apply Does.andThen (State.timerCompare_does _ _ _)
    | with_reducible apply Does.andThen (State.genWrite_does _ _ _)
    | with_reducible exact anyReg_page _ (by decide)
    | split

theorem State.srchWrite_does (s : State) (o : Nat) (v : Nat) : Does 0x7ffffc4021c s (State.srchWrite s o v) := by
  unfold State.srchWrite
  repeat' first
    | with_reducible assumption
    | with_reducible exact Does.refl _ _
    | with_reducible rfl
    | decide
    | (extract_lets +onlyGivenNames u; (with_reducible refine Does.cutAt u ?_ (fun _ => ?_); revert u; with_reducible refine Does.here ?_; rotate_left); revert u; intro _ _; rotate_right)
    | (extract_lets +onlyGivenNames u; clear_value u; revert u; intro _)
    | with_reducible apply Does.ite
    | with_reducible apply Does.andThen (State.setSten_does _ _)
    | with_reducible apply Does.andThen (State.launchReq_does _ _)
    | with_reducible apply Does.andThen (State.fixReadyReq_does _ _)
    | with_reducible apply State.eachBit_does
    | with_reducible apply Does.andThen (State.did_does _ _)
    | with_reducible apply Does.andThen (State.closeReq_does _ _)
    | with_reducible apply Does.andThen (State.genWrite_does _ _ _)
    | with_reducible apply Does.setBit
    | with_reducible exact anyReg_page _ (by decide)
    | intro _ _ _
    | split

theorem State.chartCommand_does (s : State) (v : Nat) : Does 0x80012000c20 s (State.chartCommand s v) := by
  unfold State.chartCommand
  repeat' first
    | with_reducible assumption
    | with_reducible exact Does.refl _ _
    | with_reducible rfl
    | decide
    | (extract_lets +onlyGivenNames u; (with_reducible refine DoesOut.cutAt u ?_ (fun _ => ?_); revert u; with_reducible refine Does.here ?_; rotate_left); revert u; intro _ _; rotate_right)
    | (extract_lets +onlyGivenNames u; (with_reducible refine Does.cutAt u ?_ (fun _ => ?_); revert u; with_reducible refine Does.here ?_; rotate_left); revert u; intro _ _; rotate_right)
    | (extract_lets +onlyGivenNames u; clear_value u; revert u; intro _)
    | with_reducible apply DoesOut.next
    | with_reducible apply DoesOut.ite
    | with_reducible apply Does.ite
    | with_reducible apply after_does
    | with_reducible exact DoesOut.mono (execBegin_does _ _) rfl
    | with_reducible exact DoesOut.mono (execVerify_does _ _) rfl
    | with_reducible exact DoesOut.mono (execActivate_does _ _) rfl
    | with_reducible exact DoesOut.mono (execDeactivate_does _) rfl
    | with_reducible exact DoesOut.mono (execAbort_does _ _) rfl
    | with_reducible exact DoesOut.mono (execBuild_does _ _ _) rfl
    | split

theorem State.cellWrite_does (s : State) (o : Nat) (v : Nat) : Does 0x7ffffd008c4 s (State.cellWrite s o v) := by
  unfold State.cellWrite
  repeat' first
    | with_reducible assumption
    | with_reducible exact Does.refl _ _
    | with_reducible rfl
    | decide
    | (extract_lets +onlyGivenNames u; (with_reducible refine Does.cutAt u ?_ (fun _ => ?_); revert u; with_reducible refine Does.here ?_; rotate_left); revert u; intro _ _; rotate_right)
    | (extract_lets +onlyGivenNames u; clear_value u; revert u; intro _)
    | with_reducible apply Does.ite
    | with_reducible apply Does.andThen (State.hcdlSet_does _ _ _)
    | with_reducible apply Does.andThen (State.laneOn_does _ _)
    | with_reducible apply Does.andThen (State.laneOff_does _ _)
    | with_reducible apply Does.andThen (State.dupHubs_does _)
    | with_reducible apply Does.andThen (State.genWrite_does _ _ _)
    | with_reducible exact anyReg_page _ (by decide)
    | split
    | with_reducible apply Does.andThen Does.upd_cell

theorem State.capWrite_does (s : State) (o : Nat) (v : Nat) : Does 0x7ffffc40201 s (State.capWrite s o v) := by
  unfold State.capWrite
  split
  · extract_lets was t
    have ht : Does 0x7ffffc40201 s t := (State.genWrite_does _ _ _).mono (by decide)
    exact Does.ite (Does.wr (Does.andThen (State.setCap_does _ _) ht (by decide)) (by decide)) ht
  split
  · extract_lets s1 trig freeze u
    have h0 : Does 0x7ffffc40201 s s1 := (State.did_does _ _).mono (by decide)
    have h1 : ∀ t, Does 0x7ffffc40201 s t → Does 0x7ffffc40201 s (trig t) := fun t h =>
      Does.ite (Does.andThen (State.capTrig_does _ _) h (by decide)) h
    have h2 : ∀ t, Does 0x7ffffc40201 s t → Does 0x7ffffc40201 s (freeze t) := fun t h => Does.ite (Does.andThen (State.capFreeze_does _) h (by decide)) h
    have hu : Does 0x7ffffc40201 s u :=
      Does.ite (h1 _ (Does.andThen (State.capResume_does _) (h2 _ h0) (by decide))) (h2 _ (h1 _ h0))
    exact Does.ite (Does.andThen (State.capClear_does _) hu (by decide)) hu
  · exact (State.genWrite_does _ _ _).mono (by decide)

theorem State.memWrite_does (s : State) (o : Nat) (v : Nat) : Does 0x7ffffc00400 s (State.memWrite s o v) := by
  unfold State.memWrite
  repeat' first
    | with_reducible assumption
    | with_reducible exact Does.refl _ _
    | with_reducible rfl
    | decide
    | (extract_lets +onlyGivenNames u; (with_reducible refine Does.cutAt u ?_ (fun _ => ?_); revert u; with_reducible refine Does.here ?_; rotate_left); revert u; intro _ _; rotate_right)
    | (extract_lets +onlyGivenNames u; clear_value u; revert u; intro _)
    | with_reducible apply Does.ite
    | with_reducible apply Does.andThen (State.setExcl_does _ _)
    | with_reducible apply Does.andThen (State.startTraining_does _)
    | with_reducible apply Does.andThen (State.genWrite_does _ _ _)
    | with_reducible apply Does.setFld
    | with_reducible apply Does.setBit
    | with_reducible exact anyReg_page _ (by decide)
    | split

theorem State.chnWrite_does (s : State) (o : Nat) (v : Nat) : Does 0x7ffffe41080 s (State.chnWrite s o v) := by
  unfold State.chnWrite
  repeat' first
    | with_reducible assumption
    | with_reducible exact Does.refl _ _
    | with_reducible rfl
    | decide
    | (extract_lets +onlyGivenNames u; (with_reducible refine Does.cutAt u ?_ (fun _ => ?_); revert u; with_reducible refine Does.here ?_; rotate_left); revert u; intro _ _; rotate_right)
    | (extract_lets +onlyGivenNames u; clear_value u; revert u; intro _)
    | with_reducible apply Does.ite
    | with_reducible apply Does.andThen (State.portEnable_does _ _ _)
    | with_reducible apply Does.andThen (State.pairState_does _ _)
    | with_reducible apply Does.andThen (State.setChain_does _ _)
    | with_reducible apply Does.andThen (State.genWrite_does _ _ _)
    | with_reducible apply Does.setBit
    | with_reducible exact anyReg_page _ (by decide)
    | split

theorem State.clkWrite_does (s : State) (o : Nat) (v : Nat) : Does 0xfffffee7eff s (State.clkWrite s o v) := by
  unfold State.clkWrite
  repeat' first
    | with_reducible assumption
    | with_reducible exact Does.refl _ _
    | with_reducible rfl
    | decide
    | (extract_lets +onlyGivenNames u; (with_reducible refine Does.cutAt u ?_ (fun _ => ?_); revert u; with_reducible refine Does.here ?_; rotate_left); revert u; intro _ _; rotate_right)
    | (extract_lets +onlyGivenNames u; clear_value u; revert u; intro _)
    | with_reducible apply Does.ite
    | with_reducible apply Does.each
    | with_reducible apply Does.andThen (State.gateClose_does _ _)
    | with_reducible apply Does.andThen (State.gateOpen_does _ _)
    | with_reducible apply Does.andThen (State.setPace_does _ _)
    | with_reducible apply Does.andThen (State.govConfig_does _ _)
    | with_reducible apply Does.andThen (State.cmdIdle_does _)
    | with_reducible apply Does.andThen (State.cmdRun_does _)
    | with_reducible apply Does.andThen (State.cmdStby_does _)
    | with_reducible apply Does.andThen (State.cmdDorm_does _)
    | with_reducible apply Does.andThen (State.blockResetStart_does _ _)
    | with_reducible apply Does.andThen (State.genWrite_does _ _ _)
    | with_reducible exact anyReg_page _ (by decide)
    | intro _ _ _
    | split

theorem State.pinWrite_does (s : State) (o : Nat) (v : Nat) : Does 0x7ffffe40000 s (State.pinWrite s o v) := by
  unfold State.pinWrite
  repeat' first
    | with_reducible assumption
    | with_reducible exact Does.refl _ _
    | with_reducible rfl
    | decide
    | (extract_lets +onlyGivenNames u; (with_reducible refine Does.cutAt u ?_ (fun _ => ?_); revert u; with_reducible refine Does.here ?_; rotate_left); revert u; intro _ _; rotate_right)
    | (extract_lets +onlyGivenNames u; clear_value u; revert u; intro _)
    | with_reducible apply Does.ite
    | with_reducible apply Does.andThen (State.pinConfig_does _ _ _)
    | with_reducible apply Does.andThen (State.genWrite_does _ _ _)
    | with_reducible apply Does.andThen (State.keepDriven_does _ _)
    | with_reducible exact anyReg_page _ (by decide)
    | split

theorem State.evtWrite_does (s : State) (o : Nat) (v : Nat) : Does 0x7ffffc40000 s (State.evtWrite s o v) := by
  unfold State.evtWrite
  repeat' first
    | with_reducible assumption
    | with_reducible exact Does.refl _ _
    | with_reducible rfl
    | decide
    | (extract_lets +onlyGivenNames u; (with_reducible refine Does.cutAt u ?_ (fun _ => ?_); revert u; with_reducible refine Does.here ?_; rotate_left); revert u; intro _ _; rotate_right)
    | (extract_lets +onlyGivenNames u; clear_value u; revert u; intro _)
    | with_reducible apply Does.ite
    | with_reducible apply Does.andThen (State.stormClear_does _ _)
    | with_reducible apply Does.andThen (State.swEvents_does _ _)
    | with_reducible apply Does.andThen (State.setProducers_does _ _ _)
    | with_reducible apply Does.andThen (State.chanConfig_does _ _ _)
    | with_reducible apply Does.andThen (State.subscribe_does _ _ _)
    | with_reducible apply Does.andThen (State.genWrite_does _ _ _)
    | with_reducible exact anyReg_page _ (by decide)
    | split

theorem State.pltWrite_does (s : State) (o : Nat) (v : Nat) : Does 0x7ffffc80000 s (State.pltWrite s o v) := by
  unfold State.pltWrite
  repeat' first
    | with_reducible assumption
    | with_reducible exact Does.refl _ _
    | with_reducible rfl
    | decide
    | (extract_lets +onlyGivenNames u; (with_reducible refine Does.cutAt u ?_ (fun _ => ?_); revert u; with_reducible refine Does.here ?_; rotate_left); revert u; intro _ _; rotate_right)
    | (extract_lets +onlyGivenNames u; clear_value u; revert u; intro _)
    | with_reducible apply Does.ite
    | with_reducible apply Does.each
    | with_reducible apply Does.andThen (State.plotRunOne_does _ _)
    | with_reducible apply Does.andThen (State.plotHaltOne_does _ _)
    | with_reducible apply Does.andThen (State.setJoin_does _ _ _)
    | with_reducible apply Does.andThen (State.txqAppend_does _ _ _)
    | with_reducible apply Does.andThen (State.plotRegWrite_does _ _ _ _)
    | with_reducible apply Does.andThen (State.genWrite_does _ _ _)
    | with_reducible apply Does.setFld
    | with_reducible exact anyReg_page _ (by decide)
    | (rw [pageBit_pltChan (by first | omega | decide | exact Nat.lt_of_lt_of_le (portIdx_lt _) (by decide) | exact Nat.lt_of_lt_of_le (bufIdx_lt _) (by decide) | exact Nat.lt_of_lt_of_le (b2n_lt _) (by decide) | exact Nat.lt_of_lt_of_le (Fin.isLt _) (by decide))]; decide)
    | intro _ _ _
    | split

theorem State.serWrite_does (s : State) (o : Nat) (v : Nat) : Does 0x7ffffec0000 s (State.serWrite s o v) := by
  unfold State.serWrite
  repeat' first
    | with_reducible assumption
    | with_reducible exact Does.refl _ _
    | with_reducible rfl
    | decide
    | (extract_lets +onlyGivenNames u; (with_reducible refine Does.cutAt u ?_ (fun _ => ?_); revert u; with_reducible refine Does.here ?_; rotate_left); revert u; intro _ _; rotate_right)
    | (extract_lets +onlyGivenNames u; clear_value u; revert u; intro _)
    | with_reducible apply Does.ite
    | with_reducible apply Does.andThen (State.ckdiv_does _ _ _)
    | with_reducible apply Does.andThen (State.txAppend_does _ _ _)
    | with_reducible apply Does.andThen (State.serAbort_does _ _)
    | with_reducible apply Does.andThen (State.serGo_does _ _)
    | with_reducible apply Does.andThen (State.did_does _ _)
    | with_reducible apply Does.andThen (State.genWrite_does _ _ _)
    | with_reducible exact anyReg_page _ (by decide)
    | split

theorem State.bootWrite_does (s : State) (o : Nat) (v : Nat) : Does 0xfffffeefeff s (State.bootWrite s o v) := by
  unfold State.bootWrite
  repeat' first
    | with_reducible assumption
    | with_reducible exact Does.refl _ _
    | with_reducible rfl
    | decide
    | (extract_lets +onlyGivenNames u; (with_reducible refine Does.cutAt u ?_ (fun _ => ?_); revert u; with_reducible refine Does.here ?_; rotate_left); revert u; intro _ _; rotate_right)
    | (extract_lets +onlyGivenNames u; clear_value u; revert u; intro _)
    | with_reducible apply Does.ite
    | with_reducible apply Does.andThen (State.chartSkip_does _)
    | with_reducible apply Does.andThen (State.chartFailed_does _)
    | with_reducible apply Does.andThen (State.bootDone_does _)
    | with_reducible apply Does.andThen (State.bootCommand_does _ _)
    | with_reducible apply Does.andThen (State.genWrite_does _ _ _)
    | with_reducible apply Does.setBit
    | with_reducible exact anyReg_page _ (by decide)
    | split

theorem State.flsWrite_does (s : State) (r : Requester) (o : Nat) (v : Nat) : Does 0x7ffffc10001 s (State.flsWrite s r o v) := by
  unfold State.flsWrite
  repeat' first
    | with_reducible assumption
    | with_reducible exact Does.refl _ _
    | with_reducible rfl
    | decide
    | (extract_lets +onlyGivenNames u; (with_reducible refine Does.cutAt u ?_ (fun _ => ?_); revert u; with_reducible refine Does.here ?_; rotate_left); revert u; intro _ _; rotate_right)
    | (extract_lets +onlyGivenNames u; clear_value u; revert u; intro _)
    | with_reducible apply Does.ite
    | with_reducible apply Does.andThen (State.flashSuspend_does _)
    | with_reducible apply Does.andThen (State.flashResume_does _)
    | with_reducible apply Does.andThen (State.flashCmd_does _ _ _)
    | with_reducible apply Does.andThen (State.genWrite_does _ _ _)
    | with_reducible exact anyReg_page _ (by decide)
    | split

theorem State.nvrWrite_does (s : State) (o : Nat) (v : Nat) : Does 0x7ffffc00001 s (State.nvrWrite s o v) := by
  unfold State.nvrWrite
  repeat' first
    | with_reducible assumption
    | with_reducible exact Does.refl _ _
    | with_reducible rfl
    | decide
    | (extract_lets +onlyGivenNames u; (with_reducible refine Does.cutAt u ?_ (fun _ => ?_); revert u; with_reducible refine Does.here ?_; rotate_left); revert u; intro _ _; rotate_right)
    | (extract_lets +onlyGivenNames u; clear_value u; revert u; intro _)
    | with_reducible apply Does.ite
    | with_reducible apply Does.andThen (State.cntInc_does _ _)
    | with_reducible apply Does.andThen (State.cntConfig_does _ _ _)
    | with_reducible apply Does.andThen (State.genWrite_does _ _ _)
    | with_reducible exact anyReg_page _ (by decide)
    | split

theorem State.safWrite_does (s : State) (o : Nat) (v : Nat) : Does 0x7ffffe41ac1 s (State.safWrite s o v) := by
  unfold State.safWrite
  repeat' first
    | with_reducible assumption
    | with_reducible exact Does.refl _ _
    | with_reducible rfl
    | decide
    | (extract_lets +onlyGivenNames u; (with_reducible refine Does.cutAt u ?_ (fun _ => ?_); revert u; with_reducible refine Does.here ?_; rotate_left); revert u; intro _ _; rotate_right)
    | (extract_lets +onlyGivenNames u; clear_value u; revert u; intro _)
    | with_reducible apply Does.ite
    | with_reducible apply Does.andThen (State.stoReq_does _)
    | with_reducible apply Does.andThen (State.ss1Start_does _)
    | with_reducible apply Does.andThen (State.relReq_does _)
    | with_reducible apply Does.andThen (State.wdogWrite_does _ _)
    | with_reducible apply Does.andThen (State.genWrite_does _ _ _)
    | with_reducible apply Does.setBit
    | with_reducible apply Does.orReg
    | with_reducible exact anyReg_page _ (by decide)
    | split

theorem State.mpinWrite_does (s : State) (r : Requester) (o : Nat) (v : Nat) : Does 0x7ffffc80000 s (State.mpinWrite s r o v).2 := by
  unfold State.mpinWrite
  repeat' first
    | with_reducible assumption
    | with_reducible exact Does.refl _ _
    | with_reducible rfl
    | decide
    | (extract_lets +onlyGivenNames u; (with_reducible refine Does.cutAt u ?_ (fun _ => ?_); revert u; with_reducible refine Does.here ?_; rotate_left); revert u; intro _ _; rotate_right)
    | (extract_lets +onlyGivenNames u; clear_value u; revert u; intro _)
    | with_reducible apply Does.ite
    | with_reducible apply Does.iteSnd
    | with_reducible apply Does.iteFst
    | with_reducible apply Does.andThen (State.mpinOutSet_does _ _ _)
    | with_reducible apply Does.andThen (State.safeStart_does _ _ _ _)
    | with_reducible apply Does.andThen (State.mpinRefuse_does _)
    | with_reducible apply Does.andThen (State.genWrite_does _ _ _)
    | with_reducible exact anyReg_page _ (by decide)
    | (split <;> (rename_i h; refine Does.cutSnd h ?_ (fun _ => ?_) <;> clear h))
    | (split <;> (rename_i h; refine Does.cutFst h ?_ (fun _ => ?_) <;> clear h))
    | split

theorem State.sramWrite_does (s : State) (a : Nat) (bs : List Byte) : Does 0x80000000005 s (State.sramWrite s a bs) := by
  unfold State.sramWrite
  repeat' first
    | with_reducible assumption
    | with_reducible exact Does.refl _ _
    | with_reducible rfl
    | decide
    | (extract_lets +onlyGivenNames u; (with_reducible refine Does.cutAt u ?_ (fun _ => ?_); revert u; with_reducible refine Does.here ?_; rotate_left); revert u; intro _ _; rotate_right)
    | (extract_lets +onlyGivenNames u; clear_value u; revert u; intro _)
    | with_reducible apply Does.ite
    | with_reducible apply Does.each
    | with_reducible apply Does.andThen Does.setProb
    | with_reducible apply Does.andThen Does.sramPut
    | intro _ _ _
    | split

theorem State.sramFault_does (s : State) (a : Nat) : Does 0x984020c s (State.sramFault s a) := by
  unfold State.sramFault
  repeat' first
    | with_reducible assumption
    | with_reducible exact Does.refl _ _
    | with_reducible rfl
    | decide
    | (extract_lets +onlyGivenNames u; (with_reducible refine Does.cutAt u ?_ (fun _ => ?_); revert u; with_reducible refine Does.here ?_; rotate_left); revert u; intro _ _; rotate_right)
    | (extract_lets +onlyGivenNames u; clear_value u; revert u; intro _)
    | with_reducible apply Does.ite
    | with_reducible apply Does.andThen (State.dataFault_does _ _)
    | split

theorem State.scratchFault_does (s : State) (a : Nat) : Does 0x9840a1c s (State.scratchFault s a) := by
  unfold State.scratchFault
  repeat' first
    | with_reducible assumption
    | with_reducible exact Does.refl _ _
    | with_reducible rfl
    | decide
    | (extract_lets +onlyGivenNames u; (with_reducible refine Does.cutAt u ?_ (fun _ => ?_); revert u; with_reducible refine Does.here ?_; rotate_left); revert u; intro _ _; rotate_right)
    | (extract_lets +onlyGivenNames u; clear_value u; revert u; intro _)
    | with_reducible apply Does.ite
    | with_reducible apply Does.andThen (State.selfFail_does _ _)
    | with_reducible apply Does.andThen (State.stopFault_does _ _ _ _)
    | split

theorem State.busRead_does (s : State) (r : Requester) (a : Nat) (n : Nat) (k : Check) (g : optParam Gate Gate.free) : Does 0xfffffec0e3d s (State.busRead s r a n k g).2 := by
  unfold State.busRead
  repeat' first
    | with_reducible assumption
    | with_reducible exact Does.refl _ _
    | with_reducible rfl
    | decide
    | (extract_lets +onlyGivenNames u; (with_reducible refine Does.cutAt u ?_ (fun _ => ?_); revert u; with_reducible refine Does.here ?_; rotate_left); revert u; intro _ _; rotate_right)
    | (extract_lets +onlyGivenNames u; clear_value u; revert u; intro _)
    | with_reducible apply Does.ite
    | with_reducible apply Does.iteSnd
    | with_reducible apply Does.iteFst
    | with_reducible apply Does.andThen (State.gddrAccess_does _ _ _ _ _ _)
    | with_reducible apply Does.andThen (State.sramFault_does _ _)
    | with_reducible apply Does.andThen Does.freeBytes
    | with_reducible apply Does.andThen (State.scratchFault_does _ _)
    | with_reducible apply Does.andThen Does.findEcc
    | with_reducible apply Does.andThen (State.flashRead_does _ _ _ _)
    | with_reducible apply Does.andThen (State.regRead_does _ _ _)
    | with_reducible apply Does.count
    | with_reducible exact anyReg_page _ (by decide)
    | (split <;> (rename_i h; refine Does.cutSnd h ?_ (fun _ => ?_) <;> clear h))
    | (split <;> (rename_i h; refine Does.cutFst h ?_ (fun _ => ?_) <;> clear h))
    | split

theorem State.loadReply_does (s : State) (r : Requester) (q : PendLoad) (k : Check) : Does 0xfffffec0e3d s (State.loadReply s r q k).2 := by
  unfold State.loadReply
  repeat' first
    | with_reducible assumption
    | with_reducible exact Does.refl _ _
    | with_reducible rfl
    | decide
    | (extract_lets +onlyGivenNames u; (with_reducible refine Does.cutAt u ?_ (fun _ => ?_); revert u; with_reducible refine Does.here ?_; rotate_left); revert u; intro _ _; rotate_right)
    | (extract_lets +onlyGivenNames u; clear_value u; revert u; intro _)
    | with_reducible apply Does.ite
    | with_reducible apply Does.iteSnd
    | with_reducible apply Does.iteFst
    | with_reducible apply Does.andThen (State.busRead_does _ _ _ _ _ _)
    | with_reducible exact anyReg_page _ (by decide)
    | (split <;> (rename_i h; refine Does.cutSnd h ?_ (fun _ => ?_) <;> clear h))
    | (split <;> (rename_i h; refine Does.cutFst h ?_ (fun _ => ?_) <;> clear h))
    | split

theorem State.coreReset_does (s : State) (n : CoreN) : Does 0xfffffec4e3d s (State.coreReset s n) := by
  unfold State.coreReset
  repeat' first
    | with_reducible assumption
    | with_reducible exact Does.refl _ _
    | with_reducible rfl
    | decide
    | (extract_lets +onlyGivenNames u; (with_reducible refine Does.cutAt u ?_ (fun _ => ?_); revert u; with_reducible refine Does.here ?_; rotate_left); revert u; intro _ _; rotate_right)
    | (extract_lets +onlyGivenNames u; clear_value u; revert u; intro _)
    | with_reducible apply Does.iteSnd
    | with_reducible apply Does.iteFst
    | with_reducible apply Does.andThen (State.loadReply_does _ _ _ _)
    | with_reducible apply Does.andThen Does.setCore
    | with_reducible exact anyReg_page _ (by decide)
    | (split <;> (rename_i h; refine Does.cutSnd h ?_ (fun _ => ?_) <;> clear h))
    | (split <;> (rename_i h; refine Does.cutFst h ?_ (fun _ => ?_) <;> clear h))
    | split

theorem execCoreReset_does (n : Fin 8) (s : State) : DoesOut 0xfffffec4e3d s (execCoreReset n s) := by
  unfold execCoreReset
  repeat' first
    | with_reducible assumption
    | with_reducible exact Does.refl _ _
    | with_reducible rfl
    | decide
    | (extract_lets +onlyGivenNames u; (with_reducible refine DoesOut.cutAt u ?_ (fun _ => ?_); revert u; with_reducible refine Does.here ?_; rotate_left); revert u; intro _ _; rotate_right)
    | (extract_lets +onlyGivenNames u; (with_reducible refine Does.cutAt u ?_ (fun _ => ?_); revert u; with_reducible refine Does.here ?_; rotate_left); revert u; intro _ _; rotate_right)
    | (extract_lets +onlyGivenNames u; clear_value u; revert u; intro _)
    | with_reducible apply DoesOut.next
    | with_reducible apply DoesOut.ite
    | with_reducible apply Does.ite
    | with_reducible apply Does.andThen (State.coreReset_does _ _)
    | with_reducible exact anyReg_page _ (by decide)
    | split

theorem State.hlmWrite_does (s : State) (o : Nat) (v : Nat) : Does 0xfffffec4e3d s (State.hlmWrite s o v).2 := by
  unfold State.hlmWrite
  repeat' first
    | with_reducible assumption
    | with_reducible exact Does.refl _ _
    | with_reducible rfl
    | decide
    | (extract_lets +onlyGivenNames u; (with_reducible refine Does.cutAt u ?_ (fun _ => ?_); revert u; with_reducible refine Does.here ?_; rotate_left); revert u; intro _ _; rotate_right)
    | (extract_lets +onlyGivenNames u; clear_value u; revert u; intro _)
    | with_reducible apply Does.ite
    | with_reducible apply Does.iteSnd
    | with_reducible apply Does.iteFst
    | with_reducible apply Does.andThen (State.coreRun_does _ _)
    | with_reducible apply Does.andThen (State.coreHalt_does _ _)
    | with_reducible apply State.eachBit_does
    | with_reducible apply Does.andThen (State.coreReset_does _ _)
    | with_reducible apply Does.andThen (State.tableWrite_does _ _ _ _)
    | with_reducible apply Does.andThen (State.genWrite_does _ _ _)
    | with_reducible exact anyReg_page _ (by decide)
    | (split <;> (rename_i h; refine Does.cutSnd h ?_ (fun _ => ?_) <;> clear h))
    | (split <;> (rename_i h; refine Does.cutFst h ?_ (fun _ => ?_) <;> clear h))
    | intro _ _ _
    | split

theorem State.regWrite_does (s : State) (r : Requester) (b : Nat) (o : Nat) (v : Nat) : Does 0xffffffffeff s (State.regWrite s r b o v).2 := by
  unfold State.regWrite
  repeat' first
    | with_reducible assumption
    | with_reducible exact Does.refl _ _
    | with_reducible rfl
    | decide
    | (extract_lets +onlyGivenNames u; (with_reducible refine Does.cutAt u ?_ (fun _ => ?_); revert u; with_reducible refine Does.here ?_; rotate_left); revert u; intro _ _; rotate_right)
    | (extract_lets +onlyGivenNames u; clear_value u; revert u; intro _)
    | with_reducible apply Does.ite
    | with_reducible apply Does.iteSnd
    | with_reducible apply Does.iteFst
    | with_reducible apply Does.andThen (State.perWrite_does _ _ _)
    | with_reducible apply Does.andThen (State.srchWrite_does _ _ _)
    | with_reducible apply Does.andThen (State.chartCommand_does _ _)
    | with_reducible apply Does.andThen (State.cellWrite_does _ _ _)
    | with_reducible apply Does.andThen (State.capWrite_does _ _ _)
    | with_reducible apply Does.andThen (State.memWrite_does _ _ _)
    | with_reducible apply Does.andThen (State.chnWrite_does _ _ _)
    | with_reducible apply Does.andThen (State.hlmWrite_does _ _ _)
    | with_reducible apply Does.andThen (State.clkWrite_does _ _ _)
    | with_reducible apply Does.andThen (State.pinWrite_does _ _ _)
    | with_reducible apply Does.andThen (State.evtWrite_does _ _ _)
    | with_reducible apply Does.andThen (State.pltWrite_does _ _ _)
    | with_reducible apply Does.andThen (State.serWrite_does _ _ _)
    | with_reducible apply Does.andThen (State.bootWrite_does _ _ _)
    | with_reducible apply Does.andThen (State.flsWrite_does _ _ _ _)
    | with_reducible apply Does.andThen (State.nvrWrite_does _ _ _)
    | with_reducible apply Does.andThen (State.safWrite_does _ _ _)
    | with_reducible apply Does.andThen (State.mpinWrite_does _ _ _ _)
    | with_reducible apply Does.andThen (State.mptWrite_does _ _ _ _)
    | with_reducible apply Does.andThen (State.genWrite_does _ _ _)
    | with_reducible exact anyReg_page _ (by decide)
    | (split <;> (rename_i h; refine Does.cutSnd h ?_ (fun _ => ?_) <;> clear h))
    | (split <;> (rename_i h; refine Does.cutFst h ?_ (fun _ => ?_) <;> clear h))
    | split

theorem State.busWrite_does (s : State) (r : Requester) (a : Nat) (bs : List Byte) (k : Check) (g : optParam Gate Gate.free) : Does 0xffffffffeff s (State.busWrite s r a bs k g).2 := by
  unfold State.busWrite
  repeat' first
    | with_reducible assumption
    | with_reducible exact Does.refl _ _
    | with_reducible rfl
    | decide
    | (extract_lets +onlyGivenNames u; (with_reducible refine Does.cutAt u ?_ (fun _ => ?_); revert u; with_reducible refine Does.here ?_; rotate_left); revert u; intro _ _; rotate_right)
    | (extract_lets +onlyGivenNames u; clear_value u; revert u; intro _)
    | with_reducible apply Does.ite
    | with_reducible apply Does.iteSnd
    | with_reducible apply Does.iteFst
    | with_reducible apply Does.andThen (State.gddrAccess_does _ _ _ _ _ _)
    | with_reducible apply Does.andThen Does.findEcc
    | with_reducible apply Does.andThen (State.sramWrite_does _ _ _)
    | with_reducible apply Does.andThen (State.sramFault_does _ _)
    | with_reducible apply Does.andThen Does.store
    | with_reducible apply Does.andThen (State.evLog_does _ _ _ _)
    | with_reducible apply Does.andThen Does.setBytes
    | with_reducible apply Does.andThen (State.regWrite_does _ _ _ _ _)
    | with_reducible apply Does.setBit
    | with_reducible exact anyReg_page _ (by decide)
    | (split <;> (rename_i h; refine Does.cutSnd h ?_ (fun _ => ?_) <;> clear h))
    | (split <;> (rename_i h; refine Does.cutFst h ?_ (fun _ => ?_) <;> clear h))
    | split

theorem State.sameCycle_does (s : State) (a : Nat) (v : Nat) (set : Nat) (clr : Nat) : Does 0x7ffffc84000 s (State.sameCycle s a v set clr) := by
  unfold State.sameCycle
  repeat' first
    | with_reducible assumption
    | with_reducible exact Does.refl _ _
    | with_reducible rfl
    | decide
    | (extract_lets +onlyGivenNames u; (with_reducible refine Does.cutAt u ?_ (fun _ => ?_); revert u; with_reducible refine Does.here ?_; rotate_left); revert u; intro _ _; rotate_right)
    | (extract_lets +onlyGivenNames u; clear_value u; revert u; intro _)
    | with_reducible apply Does.ite
    | with_reducible apply Does.each
    | with_reducible apply State.eachBit_does
    | with_reducible apply Does.andThen Does.setCore
    | with_reducible apply Does.andThen (State.plotHaltOne_does _ _)
    | with_reducible apply Does.andThen (State.ringIn_does _ _)
    | with_reducible apply Does.orReg
    | with_reducible apply Does.clrReg
    | with_reducible exact anyReg_page _ (by decide)
    | intro _ _ _
    | split

theorem State.access_does (s : State) (x : Access) : Does 0xffffffffeff s (State.access s x) := by
  unfold State.access
  repeat' first
    | with_reducible assumption
    | with_reducible exact Does.refl _ _
    | with_reducible rfl
    | decide
    | (extract_lets +onlyGivenNames u; (with_reducible refine Does.cutAt u ?_ (fun _ => ?_); revert u; with_reducible refine Does.here ?_; rotate_left); revert u; intro _ _; rotate_right)
    | (extract_lets +onlyGivenNames u; clear_value u; revert u; intro _)
    | with_reducible apply Does.iteSnd
    | with_reducible apply Does.iteFst
    | with_reducible apply Does.andThen (State.busWrite_does _ _ _ _ _ _)
    | with_reducible apply Does.andThen (State.busRead_does _ _ _ _ _ _)
    | with_reducible exact anyReg_page _ (by decide)
    | (split <;> (rename_i h; refine Does.cutSnd h ?_ (fun _ => ?_) <;> clear h))
    | (split <;> (rename_i h; refine Does.cutFst h ?_ (fun _ => ?_) <;> clear h))
    | split

theorem execRegisterReadClear_does (r : Requester) (addr : BitVec 40) (set : Word) (chk : Check) (s : State) : DoesOut 0xffffffffeff s (execRegisterReadClear r addr set chk s) := by
  unfold execRegisterReadClear
  repeat' first
    | with_reducible assumption
    | with_reducible exact Does.refl _ _
    | with_reducible rfl
    | decide
    | (extract_lets +onlyGivenNames u; (with_reducible refine DoesOut.cutAt u ?_ (fun _ => ?_); revert u; with_reducible refine Does.here ?_; rotate_left); revert u; intro _ _; rotate_right)
    | (extract_lets +onlyGivenNames u; (with_reducible refine Does.cutAt u ?_ (fun _ => ?_); revert u; with_reducible refine Does.here ?_; rotate_left); revert u; intro _ _; rotate_right)
    | (extract_lets +onlyGivenNames u; clear_value u; revert u; intro _)
    | with_reducible apply DoesOut.next
    | with_reducible apply DoesOut.ite
    | with_reducible apply Does.ite
    | with_reducible apply Does.andThen (State.access_does _ _)
    | with_reducible apply Does.orReg
    | with_reducible exact anyReg_page _ (by decide)
    | split

theorem State.accessOf_does (s : State) (x : Access) : Does 0xffffffffeff s (State.accessOf s x) := by
  unfold State.accessOf
  repeat' first
    | with_reducible assumption
    | with_reducible exact Does.refl _ _
    | with_reducible rfl
    | decide
    | (extract_lets +onlyGivenNames u; (with_reducible refine Does.cutAt u ?_ (fun _ => ?_); revert u; with_reducible refine Does.here ?_; rotate_left); revert u; intro _ _; rotate_right)
    | (extract_lets +onlyGivenNames u; clear_value u; revert u; intro _)
    | with_reducible apply Does.andThen (State.access_does _ _)
    | with_reducible exact anyReg_page _ (by decide)
    | split
    | with_reducible apply Does.andThen Does.upd_pins

theorem State.accesses_does (s : State) (xs : List Access) : Does 0xffffffffeff s (State.accesses s xs) := by
  unfold State.accesses
  repeat' first
    | with_reducible assumption
    | with_reducible exact Does.refl _ _
    | with_reducible rfl
    | decide
    | (extract_lets +onlyGivenNames u; (with_reducible refine Does.cutAt u ?_ (fun _ => ?_); revert u; with_reducible refine Does.here ?_; rotate_left); revert u; intro _ _; rotate_right)
    | (extract_lets +onlyGivenNames u; clear_value u; revert u; intro _)
    | with_reducible apply Does.ite
    | with_reducible apply Does.foldl
    | with_reducible apply Does.foldlFst
    | with_reducible apply Does.foldlSnd
    | with_reducible apply Does.andThen (State.accessOf_does _ _)
    | with_reducible apply Does.andThen (State.access_does _ _)
    | with_reducible exact anyReg_page _ (by decide)
    | intro _ _ _
    | split
    | with_reducible apply Does.andThen Does.upd_pins

theorem execRegisterWrite_does (r : Requester) (addr : BitVec 40) (v : Word) (set : Word) (clr : Word) (same : List Access) (chk : Check) (s : State) : DoesOut 0xffffffffeff s (execRegisterWrite r addr v set clr same chk s) := by
  unfold execRegisterWrite
  repeat' first
    | with_reducible assumption
    | with_reducible exact Does.refl _ _
    | with_reducible rfl
    | decide
    | (extract_lets +onlyGivenNames u; (with_reducible refine DoesOut.cutAt u ?_ (fun _ => ?_); revert u; with_reducible refine Does.here ?_; rotate_left); revert u; intro _ _; rotate_right)
    | (extract_lets +onlyGivenNames u; (with_reducible refine Does.cutAt u ?_ (fun _ => ?_); revert u; with_reducible refine Does.here ?_; rotate_left); revert u; intro _ _; rotate_right)
    | (extract_lets +onlyGivenNames u; clear_value u; revert u; intro _)
    | with_reducible apply DoesOut.next
    | with_reducible apply DoesOut.ite
    | with_reducible apply Does.ite
    | with_reducible apply Does.andThen (State.accesses_does _ _)
    | with_reducible apply Does.andThen (State.sameCycle_does _ _ _ _ _)
    | with_reducible exact anyReg_page _ (by decide)
    | split

end Sys2Proof.Machine
end

