-- ==== Sys2Proof/Laws/DoesChainReq.lean ====
section
/-!
SUPPORT. What each operation of Sys2Proof/Machine/ChainReq.lean can do (see Sys2Proof/Laws/Does.lean).
-/
namespace Sys2Proof.Machine
set_option linter.all false
set_option linter.tactic.unusedName false
theorem State.aclErr_does (s : State) : Does 0x20000000 s (State.aclErr s) := by
  unfold State.aclErr
  repeat' first
    | with_reducible assumption
    | with_reducible exact Does.refl _ _
    | with_reducible rfl
    | decide
    | (extract_lets +onlyGivenNames u; (with_reducible refine Does.cutAt u ?_ (fun _ => ?_); revert u; with_reducible refine Does.here ?_; rotate_left); revert u; intro _ _; rotate_right)
    | (extract_lets +onlyGivenNames u; clear_value u; revert u; intro _)
    | with_reducible apply Does.ite
    | with_reducible apply Does.setBit
    | split

theorem State.readWords_does (s : State) (r : Requester) (a k : Nat) (ks : List Check) : Does 0xfffffec0e3d s (State.readWords s r a k ks).2 := by
  induction k generalizing s a ks with
  | zero => exact Does.refl _ _
  | succ n ih =>
    unfold State.readWords
    split <;> rename_i h
    · exact Does.cutSnd h (State.busRead_does _ _ _ _ _ _) fun q => Does.andThen (ih _ _ _) q (by decide)
    · exact Does.cutSnd h (State.busRead_does _ _ _ _ _ _) fun q => q

theorem State.writeWords_does (s : State) (r : Requester) (a : Nat) (ws : List Word) (ks : List Check) :
    Does 0xffffffffeff s (State.writeWords s r a ws ks).2 := by
  induction ws generalizing s a ks with
  | nil => exact Does.refl _ _
  | cons w ws ih =>
    unfold State.writeWords
    split <;> rename_i h
    · exact Does.cutSnd h (State.busWrite_does _ _ _ _ _ _) fun q => Does.andThen (ih _ _ _) q (by decide)
    · exact Does.cutSnd h (State.busWrite_does _ _ _ _ _ _) fun q => q

theorem execRdreq_does (_p : ChPort) (pilot : Bool) (src : Fin 64) (tag : BitVec 16) (addr : BitVec 40) (nw : Byte) (chks : List Check) (s : State) : DoesOut 0xfffffec1e3d s (execRdreq _p pilot src tag addr nw chks s) := by
  unfold execRdreq
  repeat' first
    | with_reducible assumption
    | with_reducible exact Does.refl _ _
    | with_reducible rfl
    | decide
    | (extract_lets +onlyGivenNames u; (with_reducible refine DoesOut.cutAt u ?_ (fun _ => ?_); revert u; with_reducible refine Does.here ?_; rotate_left); revert u; intro _ _; rotate_right)
    | (extract_lets +onlyGivenNames u; (with_reducible refine Does.cutAt u ?_ (fun _ => ?_); revert u; with_reducible refine Does.here ?_; rotate_left); revert u; intro _ _; rotate_right)
    | (extract_lets +onlyGivenNames u; clear_value u; revert u; intro _)
    | with_reducible apply DoesOut.next
    | with_reducible apply DoesOut.ite
    | with_reducible apply Does.ite
    | with_reducible apply Does.iteSnd
    | with_reducible apply Does.iteFst
    | with_reducible apply Does.andThen (State.takeFrame_does _ _ _)
    | with_reducible apply Does.andThen (State.aclErr_does _)
    | with_reducible apply Does.andThen (State.readWords_does _ _ _ _ _)
    | with_reducible apply Does.andThen (State.respond_does _ _ _ _ _ _)
    | with_reducible exact anyReg_page _ (by decide)
    | (split <;> (rename_i h; refine DoesOut.cutSnd h ?_ (fun _ => ?_) <;> clear h))
    | (split <;> (rename_i h; refine DoesOut.cutFst h ?_ (fun _ => ?_) <;> clear h))
    | (split <;> (rename_i h; refine Does.cutSnd h ?_ (fun _ => ?_) <;> clear h))
    | (split <;> (rename_i h; refine Does.cutFst h ?_ (fun _ => ?_) <;> clear h))
    | split

theorem execWrreq_does (_p : ChPort) (pilot : Bool) (src : Fin 64) (tag : BitVec 16) (addr : BitVec 40) (ws : List Word) (chks : List Check) (s : State) : DoesOut 0xffffffffeff s (execWrreq _p pilot src tag addr ws chks s) := by
  unfold execWrreq
  repeat' first
    | with_reducible assumption
    | with_reducible exact Does.refl _ _
    | with_reducible rfl
    | decide
    | (extract_lets +onlyGivenNames u; (with_reducible refine DoesOut.cutAt u ?_ (fun _ => ?_); revert u; with_reducible refine Does.here ?_; rotate_left); revert u; intro _ _; rotate_right)
    | (extract_lets +onlyGivenNames u; (with_reducible refine Does.cutAt u ?_ (fun _ => ?_); revert u; with_reducible refine Does.here ?_; rotate_left); revert u; intro _ _; rotate_right)
    | (extract_lets +onlyGivenNames u; clear_value u; revert u; intro _)
    | with_reducible apply DoesOut.next
    | with_reducible apply DoesOut.ite
    | with_reducible apply Does.ite
    | with_reducible apply Does.iteSnd
    | with_reducible apply Does.iteFst
    | with_reducible apply Does.andThen (State.takeFrame_does _ _ _)
    | with_reducible apply Does.andThen (State.aclErr_does _)
    | with_reducible apply Does.andThen (State.writeWords_does _ _ _ _ _)
    | with_reducible apply Does.andThen (State.respond_does _ _ _ _ _ _)
    | with_reducible exact anyReg_page _ (by decide)
    | (split <;> (rename_i h; refine DoesOut.cutSnd h ?_ (fun _ => ?_) <;> clear h))
    | (split <;> (rename_i h; refine DoesOut.cutFst h ?_ (fun _ => ?_) <;> clear h))
    | (split <;> (rename_i h; refine Does.cutSnd h ?_ (fun _ => ?_) <;> clear h))
    | (split <;> (rename_i h; refine Does.cutFst h ?_ (fun _ => ?_) <;> clear h))
    | split

theorem State.writeBlocks_does (s : State) (a k : Nat) (bs : List Byte) (ks : List Check) : Does 0x80012000c21 s (State.writeBlocks s a k bs ks) := by
  induction k generalizing s a bs ks with
  | zero => exact Does.refl _ _
  | succ n ih => exact Does.andThen (ih _ _ _ _) ((State.gddrAccess_does _ _ _ _ _ _).mono (by decide)) (by decide)

theorem execBlkwr_does (src : Fin 64) (tag : BitVec 16) (addr : BitVec 40) (start : Bool) (bseq : BitVec 16) (data : List Byte) (chks : List Check) (s : State) : DoesOut 0x80032201c21 s (execBlkwr src tag addr start bseq data chks s) := by
  unfold execBlkwr
  repeat' first
    | with_reducible assumption
    | with_reducible exact Does.refl _ _
    | with_reducible rfl
    | decide
    | (extract_lets +onlyGivenNames u; (with_reducible refine DoesOut.cutAt u ?_ (fun _ => ?_); revert u; with_reducible refine Does.here ?_; rotate_left); revert u; intro _ _; rotate_right)
    | (extract_lets +onlyGivenNames u; (with_reducible refine Does.cutAt u ?_ (fun _ => ?_); revert u; with_reducible refine Does.here ?_; rotate_left); revert u; intro _ _; rotate_right)
    | (extract_lets +onlyGivenNames u; clear_value u; revert u; intro _)
    | with_reducible apply DoesOut.next
    | with_reducible apply DoesOut.ite
    | with_reducible apply Does.ite
    | with_reducible apply Does.iteSnd
    | with_reducible apply Does.iteFst
    | with_reducible apply Does.andThen (State.takeFrame_does _ _ _)
    | with_reducible apply Does.andThen (State.aclErr_does _)
    | with_reducible apply Does.andThen (State.gddrAccess_does _ _ _ _ _ _)
    | with_reducible apply Does.andThen (State.blkack_does _ _ _ _)
    | with_reducible apply Does.andThen (State.setBseq_does _ _ _)
    | with_reducible apply Does.andThen (State.writeBlocks_does _ _ _ _ _)
    | with_reducible apply Does.setFld
    | with_reducible apply Does.setBit
    | (split <;> (rename_i h; refine DoesOut.cutSnd h ?_ (fun _ => ?_) <;> clear h))
    | (split <;> (rename_i h; refine DoesOut.cutFst h ?_ (fun _ => ?_) <;> clear h))
    | (split <;> (rename_i h; refine Does.cutSnd h ?_ (fun _ => ?_) <;> clear h))
    | (split <;> (rename_i h; refine Does.cutFst h ?_ (fun _ => ?_) <;> clear h))
    | split

theorem State.blkReject_does (s : State) (src : Fin 64) (tag : Nat) (a : Nat) (st : Nat) : Does 0x1000 s (State.blkReject s src tag a st) := by
  unfold State.blkReject
  repeat' first
    | with_reducible assumption
    | with_reducible exact Does.refl _ _
    | with_reducible rfl
    | decide
    | (extract_lets +onlyGivenNames u; (with_reducible refine Does.cutAt u ?_ (fun _ => ?_); revert u; with_reducible refine Does.here ?_; rotate_left); revert u; intro _ _; rotate_right)
    | (extract_lets +onlyGivenNames u; clear_value u; revert u; intro _)
    | with_reducible apply Does.andThen (State.respond_does _ _ _ _ _ _)
    | split

theorem execBlkrd_does (src : Fin 64) (tag : BitVec 16) (addr : BitVec 40) (len : BitVec 16) (s : State) : DoesOut 0x20001000 s (execBlkrd src tag addr len s) := by
  unfold execBlkrd
  repeat' first
    | with_reducible assumption
    | with_reducible exact Does.refl _ _
    | with_reducible rfl
    | decide
    | (extract_lets +onlyGivenNames u; (with_reducible refine DoesOut.cutAt u ?_ (fun _ => ?_); revert u; with_reducible refine Does.here ?_; rotate_left); revert u; intro _ _; rotate_right)
    | (extract_lets +onlyGivenNames u; (with_reducible refine Does.cutAt u ?_ (fun _ => ?_); revert u; with_reducible refine Does.here ?_; rotate_left); revert u; intro _ _; rotate_right)
    | (extract_lets +onlyGivenNames u; clear_value u; revert u; intro _)
    | with_reducible apply DoesOut.next
    | with_reducible apply DoesOut.ite
    | with_reducible apply Does.ite
    | with_reducible apply Does.iteSnd
    | with_reducible apply Does.iteFst
    | with_reducible apply Does.andThen (State.takeFrame_does _ _ _)
    | with_reducible apply Does.andThen (State.blkReject_does _ _ _ _ _)
    | with_reducible apply Does.andThen (State.aclErr_does _)
    | with_reducible apply Does.andThen (State.setChain_does _ _)
    | (split <;> (rename_i h; refine DoesOut.cutSnd h ?_ (fun _ => ?_) <;> clear h))
    | (split <;> (rename_i h; refine DoesOut.cutFst h ?_ (fun _ => ?_) <;> clear h))
    | (split <;> (rename_i h; refine Does.cutSnd h ?_ (fun _ => ?_) <;> clear h))
    | (split <;> (rename_i h; refine Does.cutFst h ?_ (fun _ => ?_) <;> clear h))
    | split

theorem State.readEights_does (s : State) (a k : Nat) (ks : List Check) : Does 0xfffffec0e3d s (State.readEights s a k ks).2 := by
  induction k generalizing s a ks with
  | zero => exact Does.refl _ _
  | succ n ih =>
    unfold State.readEights
    split <;> rename_i h
    · exact Does.cutSnd h (State.busRead_does _ _ _ _ _ _) fun q => Does.andThen (ih _ _ _) q (by decide)
    · exact Does.cutSnd h (State.busRead_does _ _ _ _ _ _) fun q => q

theorem execBlkdataSend_does (chks : List Check) (s : State) : DoesOut 0xfffffec1e3d s (execBlkdataSend chks s) := by
  unfold execBlkdataSend
  repeat' first
    | with_reducible assumption
    | with_reducible exact Does.refl _ _
    | with_reducible rfl
    | decide
    | (extract_lets +onlyGivenNames u; (with_reducible refine DoesOut.cutAt u ?_ (fun _ => ?_); revert u; with_reducible refine Does.here ?_; rotate_left); revert u; intro _ _; rotate_right)
    | (extract_lets +onlyGivenNames u; (with_reducible refine Does.cutAt u ?_ (fun _ => ?_); revert u; with_reducible refine Does.here ?_; rotate_left); revert u; intro _ _; rotate_right)
    | (extract_lets +onlyGivenNames u; clear_value u; revert u; intro _)
    | with_reducible apply DoesOut.next
    | with_reducible apply DoesOut.ite
    | with_reducible apply Does.ite
    | with_reducible apply Does.iteSnd
    | with_reducible apply Does.iteFst
    | with_reducible apply Does.andThen (State.readEights_does _ _ _ _)
    | with_reducible apply Does.andThen (State.respond_does _ _ _ _ _ _)
    | with_reducible apply Does.andThen (State.setChain_does _ _)
    | with_reducible exact anyReg_page _ (by decide)
    | (split <;> (rename_i h; refine DoesOut.cutSnd h ?_ (fun _ => ?_) <;> clear h))
    | (split <;> (rename_i h; refine DoesOut.cutFst h ?_ (fun _ => ?_) <;> clear h))
    | (split <;> (rename_i h; refine Does.cutSnd h ?_ (fun _ => ?_) <;> clear h))
    | (split <;> (rename_i h; refine Does.cutFst h ?_ (fun _ => ?_) <;> clear h))
    | split

end Sys2Proof.Machine
end

