-- ==== Sys2Proof/Laws/DoesHelm.lean ====
section
/-!
SUPPORT. What each operation of Sys2Proof/Machine/Helm.lean can do (see Sys2Proof/Laws/Does.lean).
-/
namespace Sys2Proof.Machine
set_option linter.all false
set_option linter.tactic.unusedName false
theorem State.storeOne_does (s : State) (n : CoreN) (chk : optParam Check { }) : Does 0xffffffffeff s (State.storeOne s n chk) := by
  unfold State.storeOne
  repeat' first
    | with_reducible assumption
    | with_reducible exact Does.refl _ _
    | with_reducible rfl
    | decide
    | (extract_lets +onlyGivenNames u; (with_reducible refine Does.cutAt u ?_ (fun _ => ?_); revert u; with_reducible refine Does.here ?_; rotate_left); revert u; intro _ _; rotate_right)
    | (extract_lets +onlyGivenNames u; clear_value u; revert u; intro _)
    | with_reducible apply Does.ite
    | with_reducible apply Does.iteSnd
    | with_reducible apply Does.iteFst
    | with_reducible apply Does.andThen (State.busWrite_does _ _ _ _ _ _)
    | with_reducible apply Does.andThen Does.setCore
    | with_reducible exact anyReg_page _ (by decide)
    | (split <;> (rename_i h; refine Does.cutSnd h ?_ (fun _ => ?_) <;> clear h))
    | (split <;> (rename_i h; refine Does.cutFst h ?_ (fun _ => ?_) <;> clear h))
    | split

theorem State.drainN_does (s : State) (n : CoreN) (k : Nat) : Does 0xffffffffeff s (State.drainN s n k) := by
  induction k generalizing s with
  | zero => exact Does.refl _ _
  | succ i ih => exact Does.andThen (ih _) (State.storeOne_does _ _ _) (by decide)

theorem State.drainStores_does (s : State) (n : CoreN) : Does 0xffffffffeff s (State.drainStores s n) := by
  unfold State.drainStores
  repeat' first
    | with_reducible assumption
    | with_reducible exact Does.refl _ _
    | with_reducible rfl
    | decide
    | (extract_lets +onlyGivenNames u; (with_reducible refine Does.cutAt u ?_ (fun _ => ?_); revert u; with_reducible refine Does.here ?_; rotate_left); revert u; intro _ _; rotate_right)
    | (extract_lets +onlyGivenNames u; clear_value u; revert u; intro _)
    | with_reducible apply Does.andThen (State.drainN_does _ _ _)
    | with_reducible exact anyReg_page _ (by decide)
    | split

theorem State.waitStores_does (s : State) (n : CoreN) : Does 0xffffffffeff s (State.waitStores s n) := by
  unfold State.waitStores
  repeat' first
    | with_reducible assumption
    | with_reducible exact Does.refl _ _
    | with_reducible rfl
    | decide
    | (extract_lets +onlyGivenNames u; (with_reducible refine Does.cutAt u ?_ (fun _ => ?_); revert u; with_reducible refine Does.here ?_; rotate_left); revert u; intro _ _; rotate_right)
    | (extract_lets +onlyGivenNames u; clear_value u; revert u; intro _)
    | with_reducible apply Does.ite
    | with_reducible apply Does.andThen (State.stallFree_does _ _)
    | with_reducible apply Does.andThen (State.drainStores_does _ _)
    | with_reducible exact anyReg_page _ (by decide)
    | split

theorem State.unlessHeld_does {m : Nat} {s t : State} (h : Does m s t) : DoesOut m s (State.unlessHeld s t) :=
  DoesOut.next (Does.ite (Does.refl _ _) h)

theorem State.quiesce_does (s : State) (n : CoreN) : Does 0xffffffffeff s (State.quiesce s n) := by
  unfold State.quiesce
  repeat' first
    | with_reducible assumption
    | with_reducible exact Does.refl _ _
    | with_reducible rfl
    | decide
    | (extract_lets +onlyGivenNames u; (with_reducible refine Does.cutAt u ?_ (fun _ => ?_); revert u; with_reducible refine Does.here ?_; rotate_left); revert u; intro _ _; rotate_right)
    | (extract_lets +onlyGivenNames u; clear_value u; revert u; intro _)
    | with_reducible apply Does.andThen (State.waitStores_does _ _)
    | with_reducible apply Does.andThen Does.setCore
    | with_reducible exact anyReg_page _ (by decide)
    | split

theorem State.finish_does (s : State) (n : CoreN) (f : Core → Core) : Does 0x4000 s (State.finish s n f) := by
  unfold State.finish
  repeat' first
    | with_reducible assumption
    | with_reducible exact Does.refl _ _
    | with_reducible rfl
    | decide
    | (extract_lets +onlyGivenNames u; (with_reducible refine Does.cutAt u ?_ (fun _ => ?_); revert u; with_reducible refine Does.here ?_; rotate_left); revert u; intro _ _; rotate_right)
    | (extract_lets +onlyGivenNames u; clear_value u; revert u; intro _)
    | with_reducible apply Does.ite
    | with_reducible apply Does.andThen Does.setCore
    | split

theorem State.exception_does (s : State) (n : CoreN) (code : Nat) (epc : Word) (eval : Word) : Does 0xffffffffeff s (State.exception s n code epc eval) := by
  unfold State.exception
  repeat' first
    | with_reducible assumption
    | with_reducible exact Does.refl _ _
    | with_reducible rfl
    | decide
    | (extract_lets +onlyGivenNames u; (with_reducible refine Does.cutAt u ?_ (fun _ => ?_); revert u; with_reducible refine Does.here ?_; rotate_left); revert u; intro _ _; rotate_right)
    | (extract_lets +onlyGivenNames u; clear_value u; revert u; intro _)
    | with_reducible apply Does.ite
    | with_reducible apply Does.andThen (State.quiesce_does _ _)
    | with_reducible apply Does.andThen (State.doubleFault_does _ _ _ _)
    | with_reducible apply Does.andThen Does.setCore
    | with_reducible exact anyReg_page _ (by decide)
    | split

theorem State.wake_does (s : State) (n : CoreN) : Does 0x204000 s (State.wake s n) := by
  unfold State.wake
  repeat' first
    | with_reducible assumption
    | with_reducible exact Does.refl _ _
    | with_reducible rfl
    | decide
    | (extract_lets +onlyGivenNames u; (with_reducible refine Does.cutAt u ?_ (fun _ => ?_); revert u; with_reducible refine Does.here ?_; rotate_left); revert u; intro _ _; rotate_right)
    | (extract_lets +onlyGivenNames u; clear_value u; revert u; intro _)
    | with_reducible apply Does.ite
    | with_reducible apply Does.andThen (State.stallFree_does _ _)
    | with_reducible apply Does.andThen Does.setCore
    | split

theorem State.takeInterrupt_does (s : State) (n : CoreN) : Does 0xffffffffeff s (State.takeInterrupt s n) := by
  unfold State.takeInterrupt
  repeat' first
    | with_reducible assumption
    | with_reducible exact Does.refl _ _
    | with_reducible rfl
    | decide
    | (extract_lets +onlyGivenNames u; (with_reducible refine Does.cutAt u ?_ (fun _ => ?_); revert u; with_reducible refine Does.here ?_; rotate_left); revert u; intro _ _; rotate_right)
    | (extract_lets +onlyGivenNames u; clear_value u; revert u; intro _)
    | with_reducible apply Does.ite
    | with_reducible apply Does.iteSnd
    | with_reducible apply Does.iteFst
    | with_reducible apply Does.andThen (State.quiesce_does _ _)
    | with_reducible apply Does.andThen (State.exception_does _ _ _ _ _)
    | with_reducible apply Does.andThen Does.freeWord
    | with_reducible apply Does.andThen Does.setCore
    | with_reducible exact anyReg_page _ (by decide)
    | (split <;> (rename_i h; refine Does.cutSnd h ?_ (fun _ => ?_) <;> clear h))
    | (split <;> (rename_i h; refine Does.cutFst h ?_ (fun _ => ?_) <;> clear h))
    | split

theorem State.localRead_does (s : State) (n : CoreN) (ea : Word) (size : Nat) (ecc : Ecc) : Does 0x8c04c241ac1 s (State.localRead s n ea size ecc).2 := by
  unfold State.localRead
  repeat' first
    | with_reducible assumption
    | with_reducible exact Does.refl _ _
    | with_reducible rfl
    | decide
    | (extract_lets +onlyGivenNames u; (with_reducible refine Does.cutAt u ?_ (fun _ => ?_); revert u; with_reducible refine Does.here ?_; rotate_left); revert u; intro _ _; rotate_right)
    | (extract_lets +onlyGivenNames u; clear_value u; revert u; intro _)
    | with_reducible apply Does.ite
    | with_reducible apply Does.iteSnd
    | with_reducible apply Does.iteFst
    | with_reducible apply Does.andThen Does.findEcc
    | with_reducible apply Does.andThen (State.islandFault_does _)
    | with_reducible apply Does.setBit
    | with_reducible apply Does.count
    | (split <;> (rename_i h; refine Does.cutSnd h ?_ (fun _ => ?_) <;> clear h))
    | (split <;> (rename_i h; refine Does.cutFst h ?_ (fun _ => ?_) <;> clear h))
    | split

theorem State.fetch_does (s : State) (n : CoreN) (ecc : optParam Ecc Ecc.clean) : Does 0x8e04c241ac1 s (State.fetch s n ecc).2 := by
  unfold State.fetch
  repeat' first
    | with_reducible assumption
    | with_reducible exact Does.refl _ _
    | with_reducible rfl
    | decide
    | (extract_lets +onlyGivenNames u; (with_reducible refine Does.cutAt u ?_ (fun _ => ?_); revert u; with_reducible refine Does.here ?_; rotate_left); revert u; intro _ _; rotate_right)
    | (extract_lets +onlyGivenNames u; clear_value u; revert u; intro _)
    | with_reducible apply Does.ite
    | with_reducible apply Does.iteSnd
    | with_reducible apply Does.iteFst
    | with_reducible apply Does.andThen (State.localRead_does _ _ _ _ _)
    | with_reducible apply Does.andThen (State.flashRead_does _ _ _ _)
    | (split <;> (rename_i h; refine Does.cutSnd h ?_ (fun _ => ?_) <;> clear h))
    | (split <;> (rename_i h; refine Does.cutFst h ?_ (fun _ => ?_) <;> clear h))
    | split

theorem State.fetchMeets_does (s : State) (n : CoreN) (ecc : Ecc) : Does 0x8e04c241ac1 s (State.fetchMeets s n ecc) := by
  unfold State.fetchMeets
  repeat' first
    | with_reducible assumption
    | with_reducible exact Does.refl _ _
    | with_reducible rfl
    | decide
    | (extract_lets +onlyGivenNames u; (with_reducible refine Does.cutAt u ?_ (fun _ => ?_); revert u; with_reducible refine Does.here ?_; rotate_left); revert u; intro _ _; rotate_right)
    | (extract_lets +onlyGivenNames u; clear_value u; revert u; intro _)
    | with_reducible apply Does.ite
    | with_reducible apply Does.iteSnd
    | with_reducible apply Does.iteFst
    | with_reducible apply Does.andThen (State.fetch_does _ _ _)
    | with_reducible apply Does.andThen Does.setBad
    | (split <;> (rename_i h; refine Does.cutSnd h ?_ (fun _ => ?_) <;> clear h))
    | (split <;> (rename_i h; refine Does.cutFst h ?_ (fun _ => ?_) <;> clear h))
    | split

theorem State.issue_does {m : Nat} (s : State) (n : CoreN) (srcs : List RegN) (f : State → State) (e : 0xffffffffeff &&& m = 0xffffffffeff)
    (h : ∀ t, Does m s t → Does m s (f t)) : DoesOut m s (State.issue s n srcs f) := by
  have hx : ∀ t c pc ev, Does m s t → Does m s (t.exception n c pc ev) := fun t c pc ev q => Does.andThen (State.exception_does _ _ _ _ _) q (foot_sub (by decide) e)
  have hw : Does m s (s.wake n) := (State.wake_does s n).mono (foot_sub (by decide) e)
  have hf : Does m s ((s.wake n).fetch n).2 := Does.andThen (State.fetch_does _ n _) hw (foot_sub (by decide) e)
  unfold State.issue
  dsimp only
  split
  · exact DoesOut.next (Does.refl _ _)
  split
  · exact State.unlessHeld_does (hx _ _ _ _ hw)
  split
  · exact State.unlessHeld_does (Does.andThen (State.takeInterrupt_does _ n) hw (foot_sub (by decide) e))
  split
  · exact State.unlessHeld_does (hx _ _ _ _ hw)
  split
  · exact State.unlessHeld_does (hx _ _ _ _ hf)
  · exact State.unlessHeld_does (h _ (Does.andThen Does.setCore hf (foot_sub (by decide) e)))

theorem State.issueCore_does (s : State) (n : CoreN) (srcs : List RegN) (c : Nat) (f : Core → Core) : DoesOut 0xffffffffeff s (State.issueCore s n srcs c f) := by
  unfold State.issueCore
  repeat' first
    | with_reducible assumption
    | with_reducible exact Does.refl _ _
    | with_reducible rfl
    | decide
    | (extract_lets +onlyGivenNames u; (with_reducible refine DoesOut.cutAt u ?_ (fun _ => ?_); revert u; with_reducible refine Does.here ?_; rotate_left); revert u; intro _ _; rotate_right)
    | (extract_lets +onlyGivenNames u; (with_reducible refine Does.cutAt u ?_ (fun _ => ?_); revert u; with_reducible refine Does.here ?_; rotate_left); revert u; intro _ _; rotate_right)
    | (extract_lets +onlyGivenNames u; clear_value u; revert u; intro _)
    | with_reducible apply DoesOut.next
    | with_reducible apply DoesOut.ite
    | with_reducible refine State.issue_does _ _ _ _ (by decide) ?_
    | with_reducible apply Does.andThen Does.setCore
    | with_reducible exact anyReg_page _ (by decide)
    | intro _ _ _
    | intro _ _
    | split

theorem State.aluOp_does (s : State) (n : CoreN) (rd : RegN) (ra : RegN) (rb : RegN) (fn : Nat) : DoesOut 0xffffffffeff s (State.aluOp s n rd ra rb fn) := by
  unfold State.aluOp
  repeat' first
    | with_reducible assumption
    | with_reducible exact Does.refl _ _
    | with_reducible rfl
    | decide
    | (extract_lets +onlyGivenNames u; (with_reducible refine DoesOut.cutAt u ?_ (fun _ => ?_); revert u; with_reducible refine Does.here ?_; rotate_left); revert u; intro _ _; rotate_right)
    | (extract_lets +onlyGivenNames u; (with_reducible refine Does.cutAt u ?_ (fun _ => ?_); revert u; with_reducible refine Does.here ?_; rotate_left); revert u; intro _ _; rotate_right)
    | (extract_lets +onlyGivenNames u; clear_value u; revert u; intro _)
    | with_reducible apply DoesOut.next
    | with_reducible apply DoesOut.ite
    | with_reducible exact DoesOut.mono (State.issueCore_does _ _ _ _ _) rfl
    | with_reducible exact anyReg_page _ (by decide)
    | intro _ _ _
    | intro _ _
    | split

theorem State.aluImm_does (s : State) (n : CoreN) (rd : RegN) (ra : RegN) (fn : Nat) (v : Word) : DoesOut 0xffffffffeff s (State.aluImm s n rd ra fn v) := by
  unfold State.aluImm
  repeat' first
    | with_reducible assumption
    | with_reducible exact Does.refl _ _
    | with_reducible rfl
    | decide
    | (extract_lets +onlyGivenNames u; (with_reducible refine DoesOut.cutAt u ?_ (fun _ => ?_); revert u; with_reducible refine Does.here ?_; rotate_left); revert u; intro _ _; rotate_right)
    | (extract_lets +onlyGivenNames u; (with_reducible refine Does.cutAt u ?_ (fun _ => ?_); revert u; with_reducible refine Does.here ?_; rotate_left); revert u; intro _ _; rotate_right)
    | (extract_lets +onlyGivenNames u; clear_value u; revert u; intro _)
    | with_reducible apply DoesOut.next
    | with_reducible apply DoesOut.ite
    | with_reducible exact DoesOut.mono (State.issueCore_does _ _ _ _ _) rfl
    | with_reducible exact anyReg_page _ (by decide)
    | intro _ _ _
    | intro _ _
    | split

theorem execAdd_does (n : CoreN) (rd : RegN) (ra : RegN) (rb : RegN) (s : State) : DoesOut 0xffffffffeff s (execAdd n rd ra rb s) := by
  unfold execAdd
  repeat' first
    | with_reducible assumption
    | with_reducible exact Does.refl _ _
    | with_reducible rfl
    | decide
    | (extract_lets +onlyGivenNames u; (with_reducible refine DoesOut.cutAt u ?_ (fun _ => ?_); revert u; with_reducible refine Does.here ?_; rotate_left); revert u; intro _ _; rotate_right)
    | (extract_lets +onlyGivenNames u; (with_reducible refine Does.cutAt u ?_ (fun _ => ?_); revert u; with_reducible refine Does.here ?_; rotate_left); revert u; intro _ _; rotate_right)
    | (extract_lets +onlyGivenNames u; clear_value u; revert u; intro _)
    | with_reducible apply DoesOut.next
    | with_reducible apply DoesOut.ite
    | with_reducible apply Does.ite
    | with_reducible exact DoesOut.mono (State.aluOp_does _ _ _ _ _ _) rfl
    | with_reducible exact anyReg_page _ (by decide)
    | split

theorem execSub_does (n : CoreN) (rd : RegN) (ra : RegN) (rb : RegN) (s : State) : DoesOut 0xffffffffeff s (execSub n rd ra rb s) := by
  unfold execSub
  repeat' first
    | with_reducible assumption
    | with_reducible exact Does.refl _ _
    | with_reducible rfl
    | decide
    | (extract_lets +onlyGivenNames u; (with_reducible refine DoesOut.cutAt u ?_ (fun _ => ?_); revert u; with_reducible refine Does.here ?_; rotate_left); revert u; intro _ _; rotate_right)
    | (extract_lets +onlyGivenNames u; (with_reducible refine Does.cutAt u ?_ (fun _ => ?_); revert u; with_reducible refine Does.here ?_; rotate_left); revert u; intro _ _; rotate_right)
    | (extract_lets +onlyGivenNames u; clear_value u; revert u; intro _)
    | with_reducible apply DoesOut.next
    | with_reducible apply DoesOut.ite
    | with_reducible apply Does.ite
    | with_reducible exact DoesOut.mono (State.aluOp_does _ _ _ _ _ _) rfl
    | with_reducible exact anyReg_page _ (by decide)
    | split

theorem execAnd_does (n : CoreN) (rd : RegN) (ra : RegN) (rb : RegN) (s : State) : DoesOut 0xffffffffeff s (execAnd n rd ra rb s) := by
  unfold execAnd
  repeat' first
    | with_reducible assumption
    | with_reducible exact Does.refl _ _
    | with_reducible rfl
    | decide
    | (extract_lets +onlyGivenNames u; (with_reducible refine DoesOut.cutAt u ?_ (fun _ => ?_); revert u; with_reducible refine Does.here ?_; rotate_left); revert u; intro _ _; rotate_right)
    | (extract_lets +onlyGivenNames u; (with_reducible refine Does.cutAt u ?_ (fun _ => ?_); revert u; with_reducible refine Does.here ?_; rotate_left); revert u; intro _ _; rotate_right)
    | (extract_lets +onlyGivenNames u; clear_value u; revert u; intro _)
    | with_reducible apply DoesOut.next
    | with_reducible apply DoesOut.ite
    | with_reducible apply Does.ite
    | with_reducible exact DoesOut.mono (State.aluOp_does _ _ _ _ _ _) rfl
    | with_reducible exact anyReg_page _ (by decide)
    | split

theorem execOr_does (n : CoreN) (rd : RegN) (ra : RegN) (rb : RegN) (s : State) : DoesOut 0xffffffffeff s (execOr n rd ra rb s) := by
  unfold execOr
  repeat' first
    | with_reducible assumption
    | with_reducible exact Does.refl _ _
    | with_reducible rfl
    | decide
    | (extract_lets +onlyGivenNames u; (with_reducible refine DoesOut.cutAt u ?_ (fun _ => ?_); revert u; with_reducible refine Does.here ?_; rotate_left); revert u; intro _ _; rotate_right)
    | (extract_lets +onlyGivenNames u; (with_reducible refine Does.cutAt u ?_ (fun _ => ?_); revert u; with_reducible refine Does.here ?_; rotate_left); revert u; intro _ _; rotate_right)
    | (extract_lets +onlyGivenNames u; clear_value u; revert u; intro _)
    | with_reducible apply DoesOut.next
    | with_reducible apply DoesOut.ite
    | with_reducible apply Does.ite
    | with_reducible exact DoesOut.mono (State.aluOp_does _ _ _ _ _ _) rfl
    | with_reducible exact anyReg_page _ (by decide)
    | split

theorem execXor_does (n : CoreN) (rd : RegN) (ra : RegN) (rb : RegN) (s : State) : DoesOut 0xffffffffeff s (execXor n rd ra rb s) := by
  unfold execXor
  repeat' first
    | with_reducible assumption
    | with_reducible exact Does.refl _ _
    | with_reducible rfl
    | decide
    | (extract_lets +onlyGivenNames u; (with_reducible refine DoesOut.cutAt u ?_ (fun _ => ?_); revert u; with_reducible refine Does.here ?_; rotate_left); revert u; intro _ _; rotate_right)
    | (extract_lets +onlyGivenNames u; (with_reducible refine Does.cutAt u ?_ (fun _ => ?_); revert u; with_reducible refine Does.here ?_; rotate_left); revert u; intro _ _; rotate_right)
    | (extract_lets +onlyGivenNames u; clear_value u; revert u; intro _)
    | with_reducible apply DoesOut.next
    | with_reducible apply DoesOut.ite
    | with_reducible apply Does.ite
    | with_reducible exact DoesOut.mono (State.aluOp_does _ _ _ _ _ _) rfl
    | with_reducible exact anyReg_page _ (by decide)
    | split

theorem execSll_does (n : CoreN) (rd : RegN) (ra : RegN) (rb : RegN) (s : State) : DoesOut 0xffffffffeff s (execSll n rd ra rb s) := by
  unfold execSll
  repeat' first
    | with_reducible assumption
    | with_reducible exact Does.refl _ _
    | with_reducible rfl
    | decide
    | (extract_lets +onlyGivenNames u; (with_reducible refine DoesOut.cutAt u ?_ (fun _ => ?_); revert u; with_reducible refine Does.here ?_; rotate_left); revert u; intro _ _; rotate_right)
    | (extract_lets +onlyGivenNames u; (with_reducible refine Does.cutAt u ?_ (fun _ => ?_); revert u; with_reducible refine Does.here ?_; rotate_left); revert u; intro _ _; rotate_right)
    | (extract_lets +onlyGivenNames u; clear_value u; revert u; intro _)
    | with_reducible apply DoesOut.next
    | with_reducible apply DoesOut.ite
    | with_reducible apply Does.ite
    | with_reducible exact DoesOut.mono (State.aluOp_does _ _ _ _ _ _) rfl
    | with_reducible exact anyReg_page _ (by decide)
    | split

theorem execSrl_does (n : CoreN) (rd : RegN) (ra : RegN) (rb : RegN) (s : State) : DoesOut 0xffffffffeff s (execSrl n rd ra rb s) := by
  unfold execSrl
  repeat' first
    | with_reducible assumption
    | with_reducible exact Does.refl _ _
    | with_reducible rfl
    | decide
    | (extract_lets +onlyGivenNames u; (with_reducible refine DoesOut.cutAt u ?_ (fun _ => ?_); revert u; with_reducible refine Does.here ?_; rotate_left); revert u; intro _ _; rotate_right)
    | (extract_lets +onlyGivenNames u; (with_reducible refine Does.cutAt u ?_ (fun _ => ?_); revert u; with_reducible refine Does.here ?_; rotate_left); revert u; intro _ _; rotate_right)
    | (extract_lets +onlyGivenNames u; clear_value u; revert u; intro _)
    | with_reducible apply DoesOut.next
    | with_reducible apply DoesOut.ite
    | with_reducible apply Does.ite
    | with_reducible exact DoesOut.mono (State.aluOp_does _ _ _ _ _ _) rfl
    | with_reducible exact anyReg_page _ (by decide)
    | split

theorem execSra_does (n : CoreN) (rd : RegN) (ra : RegN) (rb : RegN) (s : State) : DoesOut 0xffffffffeff s (execSra n rd ra rb s) := by
  unfold execSra
  repeat' first
    | with_reducible assumption
    | with_reducible exact Does.refl _ _
    | with_reducible rfl
    | decide
    | (extract_lets +onlyGivenNames u; (with_reducible refine DoesOut.cutAt u ?_ (fun _ => ?_); revert u; with_reducible refine Does.here ?_; rotate_left); revert u; intro _ _; rotate_right)
    | (extract_lets +onlyGivenNames u; (with_reducible refine Does.cutAt u ?_ (fun _ => ?_); revert u; with_reducible refine Does.here ?_; rotate_left); revert u; intro _ _; rotate_right)
    | (extract_lets +onlyGivenNames u; clear_value u; revert u; intro _)
    | with_reducible apply DoesOut.next
    | with_reducible apply DoesOut.ite
    | with_reducible apply Does.ite
    | with_reducible exact DoesOut.mono (State.aluOp_does _ _ _ _ _ _) rfl
    | with_reducible exact anyReg_page _ (by decide)
    | split

theorem execSlt_does (n : CoreN) (rd : RegN) (ra : RegN) (rb : RegN) (s : State) : DoesOut 0xffffffffeff s (execSlt n rd ra rb s) := by
  unfold execSlt
  repeat' first
    | with_reducible assumption
    | with_reducible exact Does.refl _ _
    | with_reducible rfl
    | decide
    | (extract_lets +onlyGivenNames u; (with_reducible refine DoesOut.cutAt u ?_ (fun _ => ?_); revert u; with_reducible refine Does.here ?_; rotate_left); revert u; intro _ _; rotate_right)
    | (extract_lets +onlyGivenNames u; (with_reducible refine Does.cutAt u ?_ (fun _ => ?_); revert u; with_reducible refine Does.here ?_; rotate_left); revert u; intro _ _; rotate_right)
    | (extract_lets +onlyGivenNames u; clear_value u; revert u; intro _)
    | with_reducible apply DoesOut.next
    | with_reducible apply DoesOut.ite
    | with_reducible apply Does.ite
    | with_reducible exact DoesOut.mono (State.aluOp_does _ _ _ _ _ _) rfl
    | with_reducible exact anyReg_page _ (by decide)
    | split

theorem execSltu_does (n : CoreN) (rd : RegN) (ra : RegN) (rb : RegN) (s : State) : DoesOut 0xffffffffeff s (execSltu n rd ra rb s) := by
  unfold execSltu
  repeat' first
    | with_reducible assumption
    | with_reducible exact Does.refl _ _
    | with_reducible rfl
    | decide
    | (extract_lets +onlyGivenNames u; (with_reducible refine DoesOut.cutAt u ?_ (fun _ => ?_); revert u; with_reducible refine Does.here ?_; rotate_left); revert u; intro _ _; rotate_right)
    | (extract_lets +onlyGivenNames u; (with_reducible refine Does.cutAt u ?_ (fun _ => ?_); revert u; with_reducible refine Does.here ?_; rotate_left); revert u; intro _ _; rotate_right)
    | (extract_lets +onlyGivenNames u; clear_value u; revert u; intro _)
    | with_reducible apply DoesOut.next
    | with_reducible apply DoesOut.ite
    | with_reducible apply Does.ite
    | with_reducible exact DoesOut.mono (State.aluOp_does _ _ _ _ _ _) rfl
    | with_reducible exact anyReg_page _ (by decide)
    | split

theorem execMin_does (n : CoreN) (rd : RegN) (ra : RegN) (rb : RegN) (s : State) : DoesOut 0xffffffffeff s (execMin n rd ra rb s) := by
  unfold execMin
  repeat' first
    | with_reducible assumption
    | with_reducible exact Does.refl _ _
    | with_reducible rfl
    | decide
    | (extract_lets +onlyGivenNames u; (with_reducible refine DoesOut.cutAt u ?_ (fun _ => ?_); revert u; with_reducible refine Does.here ?_; rotate_left); revert u; intro _ _; rotate_right)
    | (extract_lets +onlyGivenNames u; (with_reducible refine Does.cutAt u ?_ (fun _ => ?_); revert u; with_reducible refine Does.here ?_; rotate_left); revert u; intro _ _; rotate_right)
    | (extract_lets +onlyGivenNames u; clear_value u; revert u; intro _)
    | with_reducible apply DoesOut.next
    | with_reducible apply DoesOut.ite
    | with_reducible apply Does.ite
    | with_reducible exact DoesOut.mono (State.aluOp_does _ _ _ _ _ _) rfl
    | with_reducible exact anyReg_page _ (by decide)
    | split

theorem execMax_does (n : CoreN) (rd : RegN) (ra : RegN) (rb : RegN) (s : State) : DoesOut 0xffffffffeff s (execMax n rd ra rb s) := by
  unfold execMax
  repeat' first
    | with_reducible assumption
    | with_reducible exact Does.refl _ _
    | with_reducible rfl
    | decide
    | (extract_lets +onlyGivenNames u; (with_reducible refine DoesOut.cutAt u ?_ (fun _ => ?_); revert u; with_reducible refine Does.here ?_; rotate_left); revert u; intro _ _; rotate_right)
    | (extract_lets +onlyGivenNames u; (with_reducible refine Does.cutAt u ?_ (fun _ => ?_); revert u; with_reducible refine Does.here ?_; rotate_left); revert u; intro _ _; rotate_right)
    | (extract_lets +onlyGivenNames u; clear_value u; revert u; intro _)
    | with_reducible apply DoesOut.next
    | with_reducible apply DoesOut.ite
    | with_reducible apply Does.ite
    | with_reducible exact DoesOut.mono (State.aluOp_does _ _ _ _ _ _) rfl
    | with_reducible exact anyReg_page _ (by decide)
    | split

theorem execMinu_does (n : CoreN) (rd : RegN) (ra : RegN) (rb : RegN) (s : State) : DoesOut 0xffffffffeff s (execMinu n rd ra rb s) := by
  unfold execMinu
  repeat' first
    | with_reducible assumption
    | with_reducible exact Does.refl _ _
    | with_reducible rfl
    | decide
    | (extract_lets +onlyGivenNames u; (with_reducible refine DoesOut.cutAt u ?_ (fun _ => ?_); revert u; with_reducible refine Does.here ?_; rotate_left); revert u; intro _ _; rotate_right)
    | (extract_lets +onlyGivenNames u; (with_reducible refine Does.cutAt u ?_ (fun _ => ?_); revert u; with_reducible refine Does.here ?_; rotate_left); revert u; intro _ _; rotate_right)
    | (extract_lets +onlyGivenNames u; clear_value u; revert u; intro _)
    | with_reducible apply DoesOut.next
    | with_reducible apply DoesOut.ite
    | with_reducible apply Does.ite
    | with_reducible exact DoesOut.mono (State.aluOp_does _ _ _ _ _ _) rfl
    | with_reducible exact anyReg_page _ (by decide)
    | split

theorem execMaxu_does (n : CoreN) (rd : RegN) (ra : RegN) (rb : RegN) (s : State) : DoesOut 0xffffffffeff s (execMaxu n rd ra rb s) := by
  unfold execMaxu
  repeat' first
    | with_reducible assumption
    | with_reducible exact Does.refl _ _
    | with_reducible rfl
    | decide
    | (extract_lets +onlyGivenNames u; (with_reducible refine DoesOut.cutAt u ?_ (fun _ => ?_); revert u; with_reducible refine Does.here ?_; rotate_left); revert u; intro _ _; rotate_right)
    | (extract_lets +onlyGivenNames u; (with_reducible refine Does.cutAt u ?_ (fun _ => ?_); revert u; with_reducible refine Does.here ?_; rotate_left); revert u; intro _ _; rotate_right)
    | (extract_lets +onlyGivenNames u; clear_value u; revert u; intro _)
    | with_reducible apply DoesOut.next
    | with_reducible apply DoesOut.ite
    | with_reducible apply Does.ite
    | with_reducible exact DoesOut.mono (State.aluOp_does _ _ _ _ _ _) rfl
    | with_reducible exact anyReg_page _ (by decide)
    | split

theorem execAdds_does (n : CoreN) (rd : RegN) (ra : RegN) (rb : RegN) (s : State) : DoesOut 0xffffffffeff s (execAdds n rd ra rb s) := by
  unfold execAdds
  repeat' first
    | with_reducible assumption
    | with_reducible exact Does.refl _ _
    | with_reducible rfl
    | decide
    | (extract_lets +onlyGivenNames u; (with_reducible refine DoesOut.cutAt u ?_ (fun _ => ?_); revert u; with_reducible refine Does.here ?_; rotate_left); revert u; intro _ _; rotate_right)
    | (extract_lets +onlyGivenNames u; (with_reducible refine Does.cutAt u ?_ (fun _ => ?_); revert u; with_reducible refine Does.here ?_; rotate_left); revert u; intro _ _; rotate_right)
    | (extract_lets +onlyGivenNames u; clear_value u; revert u; intro _)
    | with_reducible apply DoesOut.next
    | with_reducible apply DoesOut.ite
    | with_reducible apply Does.ite
    | with_reducible exact DoesOut.mono (State.aluOp_does _ _ _ _ _ _) rfl
    | with_reducible exact anyReg_page _ (by decide)
    | split

theorem execSubs_does (n : CoreN) (rd : RegN) (ra : RegN) (rb : RegN) (s : State) : DoesOut 0xffffffffeff s (execSubs n rd ra rb s) := by
  unfold execSubs
  repeat' first
    | with_reducible assumption
    | with_reducible exact Does.refl _ _
    | with_reducible rfl
    | decide
    | (extract_lets +onlyGivenNames u; (with_reducible refine DoesOut.cutAt u ?_ (fun _ => ?_); revert u; with_reducible refine Does.here ?_; rotate_left); revert u; intro _ _; rotate_right)
    | (extract_lets +onlyGivenNames u; (with_reducible refine Does.cutAt u ?_ (fun _ => ?_); revert u; with_reducible refine Does.here ?_; rotate_left); revert u; intro _ _; rotate_right)
    | (extract_lets +onlyGivenNames u; clear_value u; revert u; intro _)
    | with_reducible apply DoesOut.next
    | with_reducible apply DoesOut.ite
    | with_reducible apply Does.ite
    | with_reducible exact DoesOut.mono (State.aluOp_does _ _ _ _ _ _) rfl
    | with_reducible exact anyReg_page _ (by decide)
    | split

theorem execClz_does (n : CoreN) (rd : RegN) (ra : RegN) (s : State) : DoesOut 0xffffffffeff s (execClz n rd ra s) := by
  unfold execClz
  repeat' first
    | with_reducible assumption
    | with_reducible exact Does.refl _ _
    | with_reducible rfl
    | decide
    | (extract_lets +onlyGivenNames u; (with_reducible refine DoesOut.cutAt u ?_ (fun _ => ?_); revert u; with_reducible refine Does.here ?_; rotate_left); revert u; intro _ _; rotate_right)
    | (extract_lets +onlyGivenNames u; (with_reducible refine Does.cutAt u ?_ (fun _ => ?_); revert u; with_reducible refine Does.here ?_; rotate_left); revert u; intro _ _; rotate_right)
    | (extract_lets +onlyGivenNames u; clear_value u; revert u; intro _)
    | with_reducible apply DoesOut.next
    | with_reducible apply DoesOut.ite
    | with_reducible apply Does.ite
    | with_reducible exact DoesOut.mono (State.aluImm_does _ _ _ _ _ _) rfl
    | with_reducible exact anyReg_page _ (by decide)
    | split

theorem execAbs_does (n : CoreN) (rd : RegN) (ra : RegN) (s : State) : DoesOut 0xffffffffeff s (execAbs n rd ra s) := by
  unfold execAbs
  repeat' first
    | with_reducible assumption
    | with_reducible exact Does.refl _ _
    | with_reducible rfl
    | decide
    | (extract_lets +onlyGivenNames u; (with_reducible refine DoesOut.cutAt u ?_ (fun _ => ?_); revert u; with_reducible refine Does.here ?_; rotate_left); revert u; intro _ _; rotate_right)
    | (extract_lets +onlyGivenNames u; (with_reducible refine Does.cutAt u ?_ (fun _ => ?_); revert u; with_reducible refine Does.here ?_; rotate_left); revert u; intro _ _; rotate_right)
    | (extract_lets +onlyGivenNames u; clear_value u; revert u; intro _)
    | with_reducible apply DoesOut.next
    | with_reducible apply DoesOut.ite
    | with_reducible apply Does.ite
    | with_reducible exact DoesOut.mono (State.aluImm_does _ _ _ _ _ _) rfl
    | with_reducible exact anyReg_page _ (by decide)
    | split

theorem execAddi_does (n : CoreN) (rd : RegN) (ra : RegN) (imm : BitVec 16) (s : State) : DoesOut 0xffffffffeff s (execAddi n rd ra imm s) := by
  unfold execAddi
  repeat' first
    | with_reducible assumption
    | with_reducible exact Does.refl _ _
    | with_reducible rfl
    | decide
    | (extract_lets +onlyGivenNames u; (with_reducible refine DoesOut.cutAt u ?_ (fun _ => ?_); revert u; with_reducible refine Does.here ?_; rotate_left); revert u; intro _ _; rotate_right)
    | (extract_lets +onlyGivenNames u; (with_reducible refine Does.cutAt u ?_ (fun _ => ?_); revert u; with_reducible refine Does.here ?_; rotate_left); revert u; intro _ _; rotate_right)
    | (extract_lets +onlyGivenNames u; clear_value u; revert u; intro _)
    | with_reducible apply DoesOut.next
    | with_reducible apply DoesOut.ite
    | with_reducible apply Does.ite
    | with_reducible exact DoesOut.mono (State.aluImm_does _ _ _ _ _ _) rfl
    | with_reducible exact anyReg_page _ (by decide)
    | split

theorem execAndi_does (n : CoreN) (rd : RegN) (ra : RegN) (imm : BitVec 16) (s : State) : DoesOut 0xffffffffeff s (execAndi n rd ra imm s) := by
  unfold execAndi
  repeat' first
    | with_reducible assumption
    | with_reducible exact Does.refl _ _
    | with_reducible rfl
    | decide
    | (extract_lets +onlyGivenNames u; (with_reducible refine DoesOut.cutAt u ?_ (fun _ => ?_); revert u; with_reducible refine Does.here ?_; rotate_left); revert u; intro _ _; rotate_right)
    | (extract_lets +onlyGivenNames u; (with_reducible refine Does.cutAt u ?_ (fun _ => ?_); revert u; with_reducible refine Does.here ?_; rotate_left); revert u; intro _ _; rotate_right)
    | (extract_lets +onlyGivenNames u; clear_value u; revert u; intro _)
    | with_reducible apply DoesOut.next
    | with_reducible apply DoesOut.ite
    | with_reducible apply Does.ite
    | with_reducible exact DoesOut.mono (State.aluImm_does _ _ _ _ _ _) rfl
    | with_reducible exact anyReg_page _ (by decide)
    | split

theorem execOri_does (n : CoreN) (rd : RegN) (ra : RegN) (imm : BitVec 16) (s : State) : DoesOut 0xffffffffeff s (execOri n rd ra imm s) := by
  unfold execOri
  repeat' first
    | with_reducible assumption
    | with_reducible exact Does.refl _ _
    | with_reducible rfl
    | decide
    | (extract_lets +onlyGivenNames u; (with_reducible refine DoesOut.cutAt u ?_ (fun _ => ?_); revert u; with_reducible refine Does.here ?_; rotate_left); revert u; intro _ _; rotate_right)
    | (extract_lets +onlyGivenNames u; (with_reducible refine Does.cutAt u ?_ (fun _ => ?_); revert u; with_reducible refine Does.here ?_; rotate_left); revert u; intro _ _; rotate_right)
    | (extract_lets +onlyGivenNames u; clear_value u; revert u; intro _)
    | with_reducible apply DoesOut.next
    | with_reducible apply DoesOut.ite
    | with_reducible apply Does.ite
    | with_reducible exact DoesOut.mono (State.aluImm_does _ _ _ _ _ _) rfl
    | with_reducible exact anyReg_page _ (by decide)
    | split

theorem execXori_does (n : CoreN) (rd : RegN) (ra : RegN) (imm : BitVec 16) (s : State) : DoesOut 0xffffffffeff s (execXori n rd ra imm s) := by
  unfold execXori
  repeat' first
    | with_reducible assumption
    | with_reducible exact Does.refl _ _
    | with_reducible rfl
    | decide
    | (extract_lets +onlyGivenNames u; (with_reducible refine DoesOut.cutAt u ?_ (fun _ => ?_); revert u; with_reducible refine Does.here ?_; rotate_left); revert u; intro _ _; rotate_right)
    | (extract_lets +onlyGivenNames u; (with_reducible refine Does.cutAt u ?_ (fun _ => ?_); revert u; with_reducible refine Does.here ?_; rotate_left); revert u; intro _ _; rotate_right)
    | (extract_lets +onlyGivenNames u; clear_value u; revert u; intro _)
    | with_reducible apply DoesOut.next
    | with_reducible apply DoesOut.ite
    | with_reducible apply Does.ite
    | with_reducible exact DoesOut.mono (State.aluImm_does _ _ _ _ _ _) rfl
    | with_reducible exact anyReg_page _ (by decide)
    | split

theorem execSlti_does (n : CoreN) (rd : RegN) (ra : RegN) (imm : BitVec 16) (s : State) : DoesOut 0xffffffffeff s (execSlti n rd ra imm s) := by
  unfold execSlti
  repeat' first
    | with_reducible assumption
    | with_reducible exact Does.refl _ _
    | with_reducible rfl
    | decide
    | (extract_lets +onlyGivenNames u; (with_reducible refine DoesOut.cutAt u ?_ (fun _ => ?_); revert u; with_reducible refine Does.here ?_; rotate_left); revert u; intro _ _; rotate_right)
    | (extract_lets +onlyGivenNames u; (with_reducible refine Does.cutAt u ?_ (fun _ => ?_); revert u; with_reducible refine Does.here ?_; rotate_left); revert u; intro _ _; rotate_right)
    | (extract_lets +onlyGivenNames u; clear_value u; revert u; intro _)
    | with_reducible apply DoesOut.next
    | with_reducible apply DoesOut.ite
    | with_reducible apply Does.ite
    | with_reducible exact DoesOut.mono (State.aluImm_does _ _ _ _ _ _) rfl
    | with_reducible exact anyReg_page _ (by decide)
    | split

theorem execSltiu_does (n : CoreN) (rd : RegN) (ra : RegN) (imm : BitVec 16) (s : State) : DoesOut 0xffffffffeff s (execSltiu n rd ra imm s) := by
  unfold execSltiu
  repeat' first
    | with_reducible assumption
    | with_reducible exact Does.refl _ _
    | with_reducible rfl
    | decide
    | (extract_lets +onlyGivenNames u; (with_reducible refine DoesOut.cutAt u ?_ (fun _ => ?_); revert u; with_reducible refine Does.here ?_; rotate_left); revert u; intro _ _; rotate_right)
    | (extract_lets +onlyGivenNames u; (with_reducible refine Does.cutAt u ?_ (fun _ => ?_); revert u; with_reducible refine Does.here ?_; rotate_left); revert u; intro _ _; rotate_right)
    | (extract_lets +onlyGivenNames u; clear_value u; revert u; intro _)
    | with_reducible apply DoesOut.next
    | with_reducible apply DoesOut.ite
    | with_reducible apply Does.ite
    | with_reducible exact DoesOut.mono (State.aluImm_does _ _ _ _ _ _) rfl
    | with_reducible exact anyReg_page _ (by decide)
    | split

theorem execShi_does (n : CoreN) (rd : RegN) (ra : RegN) (k : Fin 4) (amt : Fin 32) (s : State) : DoesOut 0xffffffffeff s (execShi n rd ra k amt s) := by
  unfold execShi
  repeat' first
    | with_reducible assumption
    | with_reducible exact Does.refl _ _
    | with_reducible rfl
    | decide
    | (extract_lets +onlyGivenNames u; (with_reducible refine DoesOut.cutAt u ?_ (fun _ => ?_); revert u; with_reducible refine Does.here ?_; rotate_left); revert u; intro _ _; rotate_right)
    | (extract_lets +onlyGivenNames u; (with_reducible refine Does.cutAt u ?_ (fun _ => ?_); revert u; with_reducible refine Does.here ?_; rotate_left); revert u; intro _ _; rotate_right)
    | (extract_lets +onlyGivenNames u; clear_value u; revert u; intro _)
    | with_reducible apply DoesOut.next
    | with_reducible apply DoesOut.ite
    | with_reducible apply Does.ite
    | with_reducible exact DoesOut.mono (State.issueCore_does _ _ _ _ _) rfl
    | with_reducible exact anyReg_page _ (by decide)
    | intro _ _ _
    | intro _ _
    | split

theorem execLui_does (n : CoreN) (rd : RegN) (imm : BitVec 16) (s : State) : DoesOut 0xffffffffeff s (execLui n rd imm s) := by
  unfold execLui
  repeat' first
    | with_reducible assumption
    | with_reducible exact Does.refl _ _
    | with_reducible rfl
    | decide
    | (extract_lets +onlyGivenNames u; (with_reducible refine DoesOut.cutAt u ?_ (fun _ => ?_); revert u; with_reducible refine Does.here ?_; rotate_left); revert u; intro _ _; rotate_right)
    | (extract_lets +onlyGivenNames u; (with_reducible refine Does.cutAt u ?_ (fun _ => ?_); revert u; with_reducible refine Does.here ?_; rotate_left); revert u; intro _ _; rotate_right)
    | (extract_lets +onlyGivenNames u; clear_value u; revert u; intro _)
    | with_reducible apply DoesOut.next
    | with_reducible apply DoesOut.ite
    | with_reducible apply Does.ite
    | with_reducible exact DoesOut.mono (State.issueCore_does _ _ _ _ _) rfl
    | with_reducible exact anyReg_page _ (by decide)
    | intro _ _ _
    | intro _ _
    | split

theorem State.branchOp_does (s : State) (n : CoreN) (ra : RegN) (rb : RegN) (off : BitVec 16) (cond : Word → Word → Bool) : DoesOut 0xffffffffeff s (State.branchOp s n ra rb off cond) := by
  unfold State.branchOp
  repeat' first
    | with_reducible assumption
    | with_reducible exact Does.refl _ _
    | with_reducible rfl
    | decide
    | (extract_lets +onlyGivenNames u; (with_reducible refine DoesOut.cutAt u ?_ (fun _ => ?_); revert u; with_reducible refine Does.here ?_; rotate_left); revert u; intro _ _; rotate_right)
    | (extract_lets +onlyGivenNames u; (with_reducible refine Does.cutAt u ?_ (fun _ => ?_); revert u; with_reducible refine Does.here ?_; rotate_left); revert u; intro _ _; rotate_right)
    | (extract_lets +onlyGivenNames u; clear_value u; revert u; intro _)
    | with_reducible apply DoesOut.next
    | with_reducible apply DoesOut.ite
    | with_reducible apply Does.ite
    | with_reducible exact DoesOut.mono (State.issueCore_does _ _ _ _ _) rfl
    | with_reducible exact anyReg_page _ (by decide)
    | intro _ _ _
    | intro _ _
    | split

theorem execBeq_does (n : CoreN) (ra : RegN) (rb : RegN) (off : BitVec 16) (s : State) : DoesOut 0xffffffffeff s (execBeq n ra rb off s) := by
  unfold execBeq
  repeat' first
    | with_reducible assumption
    | with_reducible exact Does.refl _ _
    | with_reducible rfl
    | decide
    | (extract_lets +onlyGivenNames u; (with_reducible refine DoesOut.cutAt u ?_ (fun _ => ?_); revert u; with_reducible refine Does.here ?_; rotate_left); revert u; intro _ _; rotate_right)
    | (extract_lets +onlyGivenNames u; (with_reducible refine Does.cutAt u ?_ (fun _ => ?_); revert u; with_reducible refine Does.here ?_; rotate_left); revert u; intro _ _; rotate_right)
    | (extract_lets +onlyGivenNames u; clear_value u; revert u; intro _)
    | with_reducible apply DoesOut.next
    | with_reducible apply DoesOut.ite
    | with_reducible apply Does.ite
    | with_reducible exact DoesOut.mono (State.branchOp_does _ _ _ _ _ _) rfl
    | with_reducible exact anyReg_page _ (by decide)
    | split

theorem execBne_does (n : CoreN) (ra : RegN) (rb : RegN) (off : BitVec 16) (s : State) : DoesOut 0xffffffffeff s (execBne n ra rb off s) := by
  unfold execBne
  repeat' first
    | with_reducible assumption
    | with_reducible exact Does.refl _ _
    | with_reducible rfl
    | decide
    | (extract_lets +onlyGivenNames u; (with_reducible refine DoesOut.cutAt u ?_ (fun _ => ?_); revert u; with_reducible refine Does.here ?_; rotate_left); revert u; intro _ _; rotate_right)
    | (extract_lets +onlyGivenNames u; (with_reducible refine Does.cutAt u ?_ (fun _ => ?_); revert u; with_reducible refine Does.here ?_; rotate_left); revert u; intro _ _; rotate_right)
    | (extract_lets +onlyGivenNames u; clear_value u; revert u; intro _)
    | with_reducible apply DoesOut.next
    | with_reducible apply DoesOut.ite
    | with_reducible apply Does.ite
    | with_reducible exact DoesOut.mono (State.branchOp_does _ _ _ _ _ _) rfl
    | with_reducible exact anyReg_page _ (by decide)
    | split

theorem execBlt_does (n : CoreN) (ra : RegN) (rb : RegN) (off : BitVec 16) (s : State) : DoesOut 0xffffffffeff s (execBlt n ra rb off s) := by
  unfold execBlt
  repeat' first
    | with_reducible assumption
    | with_reducible exact Does.refl _ _
    | with_reducible rfl
    | decide
    | (extract_lets +onlyGivenNames u; (with_reducible refine DoesOut.cutAt u ?_ (fun _ => ?_); revert u; with_reducible refine Does.here ?_; rotate_left); revert u; intro _ _; rotate_right)
    | (extract_lets +onlyGivenNames u; (with_reducible refine Does.cutAt u ?_ (fun _ => ?_); revert u; with_reducible refine Does.here ?_; rotate_left); revert u; intro _ _; rotate_right)
    | (extract_lets +onlyGivenNames u; clear_value u; revert u; intro _)
    | with_reducible apply DoesOut.next
    | with_reducible apply DoesOut.ite
    | with_reducible apply Does.ite
    | with_reducible exact DoesOut.mono (State.branchOp_does _ _ _ _ _ _) rfl
    | with_reducible exact anyReg_page _ (by decide)
    | split

theorem execBge_does (n : CoreN) (ra : RegN) (rb : RegN) (off : BitVec 16) (s : State) : DoesOut 0xffffffffeff s (execBge n ra rb off s) := by
  unfold execBge
  repeat' first
    | with_reducible assumption
    | with_reducible exact Does.refl _ _
    | with_reducible rfl
    | decide
    | (extract_lets +onlyGivenNames u; (with_reducible refine DoesOut.cutAt u ?_ (fun _ => ?_); revert u; with_reducible refine Does.here ?_; rotate_left); revert u; intro _ _; rotate_right)
    | (extract_lets +onlyGivenNames u; (with_reducible refine Does.cutAt u ?_ (fun _ => ?_); revert u; with_reducible refine Does.here ?_; rotate_left); revert u; intro _ _; rotate_right)
    | (extract_lets +onlyGivenNames u; clear_value u; revert u; intro _)
    | with_reducible apply DoesOut.next
    | with_reducible apply DoesOut.ite
    | with_reducible apply Does.ite
    | with_reducible exact DoesOut.mono (State.branchOp_does _ _ _ _ _ _) rfl
    | with_reducible exact anyReg_page _ (by decide)
    | split

theorem execBltu_does (n : CoreN) (ra : RegN) (rb : RegN) (off : BitVec 16) (s : State) : DoesOut 0xffffffffeff s (execBltu n ra rb off s) := by
  unfold execBltu
  repeat' first
    | with_reducible assumption
    | with_reducible exact Does.refl _ _
    | with_reducible rfl
    | decide
    | (extract_lets +onlyGivenNames u; (with_reducible refine DoesOut.cutAt u ?_ (fun _ => ?_); revert u; with_reducible refine Does.here ?_; rotate_left); revert u; intro _ _; rotate_right)
    | (extract_lets +onlyGivenNames u; (with_reducible refine Does.cutAt u ?_ (fun _ => ?_); revert u; with_reducible refine Does.here ?_; rotate_left); revert u; intro _ _; rotate_right)
    | (extract_lets +onlyGivenNames u; clear_value u; revert u; intro _)
    | with_reducible apply DoesOut.next
    | with_reducible apply DoesOut.ite
    | with_reducible apply Does.ite
    | with_reducible exact DoesOut.mono (State.branchOp_does _ _ _ _ _ _) rfl
    | with_reducible exact anyReg_page _ (by decide)
    | split

theorem execBgeu_does (n : CoreN) (ra : RegN) (rb : RegN) (off : BitVec 16) (s : State) : DoesOut 0xffffffffeff s (execBgeu n ra rb off s) := by
  unfold execBgeu
  repeat' first
    | with_reducible assumption
    | with_reducible exact Does.refl _ _
    | with_reducible rfl
    | decide
    | (extract_lets +onlyGivenNames u; (with_reducible refine DoesOut.cutAt u ?_ (fun _ => ?_); revert u; with_reducible refine Does.here ?_; rotate_left); revert u; intro _ _; rotate_right)
    | (extract_lets +onlyGivenNames u; (with_reducible refine Does.cutAt u ?_ (fun _ => ?_); revert u; with_reducible refine Does.here ?_; rotate_left); revert u; intro _ _; rotate_right)
    | (extract_lets +onlyGivenNames u; clear_value u; revert u; intro _)
    | with_reducible apply DoesOut.next
    | with_reducible apply DoesOut.ite
    | with_reducible apply Does.ite
    | with_reducible exact DoesOut.mono (State.branchOp_does _ _ _ _ _ _) rfl
    | with_reducible exact anyReg_page _ (by decide)
    | split

theorem execJ_does (n : CoreN) (off : BitVec 26) (s : State) : DoesOut 0xffffffffeff s (execJ n off s) := by
  unfold execJ
  repeat' first
    | with_reducible assumption
    | with_reducible exact Does.refl _ _
    | with_reducible rfl
    | decide
    | (extract_lets +onlyGivenNames u; (with_reducible refine DoesOut.cutAt u ?_ (fun _ => ?_); revert u; with_reducible refine Does.here ?_; rotate_left); revert u; intro _ _; rotate_right)
    | (extract_lets +onlyGivenNames u; (with_reducible refine Does.cutAt u ?_ (fun _ => ?_); revert u; with_reducible refine Does.here ?_; rotate_left); revert u; intro _ _; rotate_right)
    | (extract_lets +onlyGivenNames u; clear_value u; revert u; intro _)
    | with_reducible apply DoesOut.next
    | with_reducible apply DoesOut.ite
    | with_reducible apply Does.ite
    | with_reducible exact DoesOut.mono (State.issueCore_does _ _ _ _ _) rfl
    | with_reducible exact anyReg_page _ (by decide)
    | intro _ _ _
    | intro _ _
    | split

theorem execJr_does (n : CoreN) (ra : RegN) (s : State) : DoesOut 0xffffffffeff s (execJr n ra s) := by
  unfold execJr
  repeat' first
    | with_reducible assumption
    | with_reducible exact Does.refl _ _
    | with_reducible rfl
    | decide
    | (extract_lets +onlyGivenNames u; (with_reducible refine DoesOut.cutAt u ?_ (fun _ => ?_); revert u; with_reducible refine Does.here ?_; rotate_left); revert u; intro _ _; rotate_right)
    | (extract_lets +onlyGivenNames u; (with_reducible refine Does.cutAt u ?_ (fun _ => ?_); revert u; with_reducible refine Does.here ?_; rotate_left); revert u; intro _ _; rotate_right)
    | (extract_lets +onlyGivenNames u; clear_value u; revert u; intro _)
    | with_reducible apply DoesOut.next
    | with_reducible apply DoesOut.ite
    | with_reducible apply Does.ite
    | with_reducible exact DoesOut.mono (State.issueCore_does _ _ _ _ _) rfl
    | with_reducible exact anyReg_page _ (by decide)
    | intro _ _ _
    | intro _ _
    | split

theorem execJalr_does (n : CoreN) (rd : RegN) (ra : RegN) (s : State) : DoesOut 0xffffffffeff s (execJalr n rd ra s) := by
  unfold execJalr
  repeat' first
    | with_reducible assumption
    | with_reducible exact Does.refl _ _
    | with_reducible rfl
    | decide
    | (extract_lets +onlyGivenNames u; (with_reducible refine DoesOut.cutAt u ?_ (fun _ => ?_); revert u; with_reducible refine Does.here ?_; rotate_left); revert u; intro _ _; rotate_right)
    | (extract_lets +onlyGivenNames u; (with_reducible refine Does.cutAt u ?_ (fun _ => ?_); revert u; with_reducible refine Does.here ?_; rotate_left); revert u; intro _ _; rotate_right)
    | (extract_lets +onlyGivenNames u; clear_value u; revert u; intro _)
    | with_reducible apply DoesOut.next
    | with_reducible apply DoesOut.ite
    | with_reducible apply Does.ite
    | with_reducible exact DoesOut.mono (State.issueCore_does _ _ _ _ _) rfl
    | with_reducible exact anyReg_page _ (by decide)
    | intro _ _ _
    | intro _ _
    | split

theorem State.mpOp_does (s : State) (n : CoreN) (m0 : Fin 4) (ra : RegN) (rb : RegN) (fn : Nat) : DoesOut 0xffffffffeff s (State.mpOp s n m0 ra rb fn) := by
  unfold State.mpOp
  repeat' first
    | with_reducible assumption
    | with_reducible exact Does.refl _ _
    | with_reducible rfl
    | decide
    | (extract_lets +onlyGivenNames u; (with_reducible refine DoesOut.cutAt u ?_ (fun _ => ?_); revert u; with_reducible refine Does.here ?_; rotate_left); revert u; intro _ _; rotate_right)
    | (extract_lets +onlyGivenNames u; (with_reducible refine Does.cutAt u ?_ (fun _ => ?_); revert u; with_reducible refine Does.here ?_; rotate_left); revert u; intro _ _; rotate_right)
    | (extract_lets +onlyGivenNames u; clear_value u; revert u; intro _)
    | with_reducible apply DoesOut.next
    | with_reducible apply DoesOut.ite
    | with_reducible exact DoesOut.mono (State.issueCore_does _ _ _ _ _) rfl
    | with_reducible exact anyReg_page _ (by decide)
    | intro _ _ _
    | intro _ _
    | split

theorem execMul_does (n : CoreN) (m0 : Fin 4) (ra : RegN) (rb : RegN) (s : State) : DoesOut 0xffffffffeff s (execMul n m0 ra rb s) := by
  unfold execMul
  repeat' first
    | with_reducible assumption
    | with_reducible exact Does.refl _ _
    | with_reducible rfl
    | decide
    | (extract_lets +onlyGivenNames u; (with_reducible refine DoesOut.cutAt u ?_ (fun _ => ?_); revert u; with_reducible refine Does.here ?_; rotate_left); revert u; intro _ _; rotate_right)
    | (extract_lets +onlyGivenNames u; (with_reducible refine Does.cutAt u ?_ (fun _ => ?_); revert u; with_reducible refine Does.here ?_; rotate_left); revert u; intro _ _; rotate_right)
    | (extract_lets +onlyGivenNames u; clear_value u; revert u; intro _)
    | with_reducible apply DoesOut.next
    | with_reducible apply DoesOut.ite
    | with_reducible apply Does.ite
    | with_reducible exact DoesOut.mono (State.mpOp_does _ _ _ _ _ _) rfl
    | with_reducible exact anyReg_page _ (by decide)
    | split

theorem execMulu_does (n : CoreN) (m0 : Fin 4) (ra : RegN) (rb : RegN) (s : State) : DoesOut 0xffffffffeff s (execMulu n m0 ra rb s) := by
  unfold execMulu
  repeat' first
    | with_reducible assumption
    | with_reducible exact Does.refl _ _
    | with_reducible rfl
    | decide
    | (extract_lets +onlyGivenNames u; (with_reducible refine DoesOut.cutAt u ?_ (fun _ => ?_); revert u; with_reducible refine Does.here ?_; rotate_left); revert u; intro _ _; rotate_right)
    | (extract_lets +onlyGivenNames u; (with_reducible refine Does.cutAt u ?_ (fun _ => ?_); revert u; with_reducible refine Does.here ?_; rotate_left); revert u; intro _ _; rotate_right)
    | (extract_lets +onlyGivenNames u; clear_value u; revert u; intro _)
    | with_reducible apply DoesOut.next
    | with_reducible apply DoesOut.ite
    | with_reducible apply Does.ite
    | with_reducible exact DoesOut.mono (State.mpOp_does _ _ _ _ _ _) rfl
    | with_reducible exact anyReg_page _ (by decide)
    | split

theorem execMac_does (n : CoreN) (m0 : Fin 4) (ra : RegN) (rb : RegN) (s : State) : DoesOut 0xffffffffeff s (execMac n m0 ra rb s) := by
  unfold execMac
  repeat' first
    | with_reducible assumption
    | with_reducible exact Does.refl _ _
    | with_reducible rfl
    | decide
    | (extract_lets +onlyGivenNames u; (with_reducible refine DoesOut.cutAt u ?_ (fun _ => ?_); revert u; with_reducible refine Does.here ?_; rotate_left); revert u; intro _ _; rotate_right)
    | (extract_lets +onlyGivenNames u; (with_reducible refine Does.cutAt u ?_ (fun _ => ?_); revert u; with_reducible refine Does.here ?_; rotate_left); revert u; intro _ _; rotate_right)
    | (extract_lets +onlyGivenNames u; clear_value u; revert u; intro _)
    | with_reducible apply DoesOut.next
    | with_reducible apply DoesOut.ite
    | with_reducible apply Does.ite
    | with_reducible exact DoesOut.mono (State.mpOp_does _ _ _ _ _ _) rfl
    | with_reducible exact anyReg_page _ (by decide)
    | split

theorem execMacu_does (n : CoreN) (m0 : Fin 4) (ra : RegN) (rb : RegN) (s : State) : DoesOut 0xffffffffeff s (execMacu n m0 ra rb s) := by
  unfold execMacu
  repeat' first
    | with_reducible assumption
    | with_reducible exact Does.refl _ _
    | with_reducible rfl
    | decide
    | (extract_lets +onlyGivenNames u; (with_reducible refine DoesOut.cutAt u ?_ (fun _ => ?_); revert u; with_reducible refine Does.here ?_; rotate_left); revert u; intro _ _; rotate_right)
    | (extract_lets +onlyGivenNames u; (with_reducible refine Does.cutAt u ?_ (fun _ => ?_); revert u; with_reducible refine Does.here ?_; rotate_left); revert u; intro _ _; rotate_right)
    | (extract_lets +onlyGivenNames u; clear_value u; revert u; intro _)
    | with_reducible apply DoesOut.next
    | with_reducible apply DoesOut.ite
    | with_reducible apply Does.ite
    | with_reducible exact DoesOut.mono (State.mpOp_does _ _ _ _ _ _) rfl
    | with_reducible exact anyReg_page _ (by decide)
    | split

theorem execMsu_does (n : CoreN) (m0 : Fin 4) (ra : RegN) (rb : RegN) (s : State) : DoesOut 0xffffffffeff s (execMsu n m0 ra rb s) := by
  unfold execMsu
  repeat' first
    | with_reducible assumption
    | with_reducible exact Does.refl _ _
    | with_reducible rfl
    | decide
    | (extract_lets +onlyGivenNames u; (with_reducible refine DoesOut.cutAt u ?_ (fun _ => ?_); revert u; with_reducible refine Does.here ?_; rotate_left); revert u; intro _ _; rotate_right)
    | (extract_lets +onlyGivenNames u; (with_reducible refine Does.cutAt u ?_ (fun _ => ?_); revert u; with_reducible refine Does.here ?_; rotate_left); revert u; intro _ _; rotate_right)
    | (extract_lets +onlyGivenNames u; clear_value u; revert u; intro _)
    | with_reducible apply DoesOut.next
    | with_reducible apply DoesOut.ite
    | with_reducible apply Does.ite
    | with_reducible exact DoesOut.mono (State.mpOp_does _ _ _ _ _ _) rfl
    | with_reducible exact anyReg_page _ (by decide)
    | split

theorem execMacs_does (n : CoreN) (m0 : Fin 4) (ra : RegN) (rb : RegN) (s : State) : DoesOut 0xffffffffeff s (execMacs n m0 ra rb s) := by
  unfold execMacs
  repeat' first
    | with_reducible assumption
    | with_reducible exact Does.refl _ _
    | with_reducible rfl
    | decide
    | (extract_lets +onlyGivenNames u; (with_reducible refine DoesOut.cutAt u ?_ (fun _ => ?_); revert u; with_reducible refine Does.here ?_; rotate_left); revert u; intro _ _; rotate_right)
    | (extract_lets +onlyGivenNames u; (with_reducible refine Does.cutAt u ?_ (fun _ => ?_); revert u; with_reducible refine Does.here ?_; rotate_left); revert u; intro _ _; rotate_right)
    | (extract_lets +onlyGivenNames u; clear_value u; revert u; intro _)
    | with_reducible apply DoesOut.next
    | with_reducible apply DoesOut.ite
    | with_reducible apply Does.ite
    | with_reducible exact DoesOut.mono (State.mpOp_does _ _ _ _ _ _) rfl
    | with_reducible exact anyReg_page _ (by decide)
    | split

theorem execMtmp_does (n : CoreN) (m0 : Fin 4) (ra : RegN) (s : State) : DoesOut 0xffffffffeff s (execMtmp n m0 ra s) := by
  unfold execMtmp
  repeat' first
    | with_reducible assumption
    | with_reducible exact Does.refl _ _
    | with_reducible rfl
    | decide
    | (extract_lets +onlyGivenNames u; (with_reducible refine DoesOut.cutAt u ?_ (fun _ => ?_); revert u; with_reducible refine Does.here ?_; rotate_left); revert u; intro _ _; rotate_right)
    | (extract_lets +onlyGivenNames u; (with_reducible refine Does.cutAt u ?_ (fun _ => ?_); revert u; with_reducible refine Does.here ?_; rotate_left); revert u; intro _ _; rotate_right)
    | (extract_lets +onlyGivenNames u; clear_value u; revert u; intro _)
    | with_reducible apply DoesOut.next
    | with_reducible apply DoesOut.ite
    | with_reducible apply Does.ite
    | with_reducible exact DoesOut.mono (State.issueCore_does _ _ _ _ _) rfl
    | with_reducible exact anyReg_page _ (by decide)
    | intro _ _ _
    | intro _ _
    | split

theorem execMtmp2_does (n : CoreN) (m0 : Fin 4) (ra : RegN) (rb : RegN) (s : State) : DoesOut 0xffffffffeff s (execMtmp2 n m0 ra rb s) := by
  unfold execMtmp2
  repeat' first
    | with_reducible assumption
    | with_reducible exact Does.refl _ _
    | with_reducible rfl
    | decide
    | (extract_lets +onlyGivenNames u; (with_reducible refine DoesOut.cutAt u ?_ (fun _ => ?_); revert u; with_reducible refine Does.here ?_; rotate_left); revert u; intro _ _; rotate_right)
    | (extract_lets +onlyGivenNames u; (with_reducible refine Does.cutAt u ?_ (fun _ => ?_); revert u; with_reducible refine Does.here ?_; rotate_left); revert u; intro _ _; rotate_right)
    | (extract_lets +onlyGivenNames u; clear_value u; revert u; intro _)
    | with_reducible apply DoesOut.next
    | with_reducible apply DoesOut.ite
    | with_reducible apply Does.ite
    | with_reducible exact DoesOut.mono (State.mpOp_does _ _ _ _ _ _) rfl
    | with_reducible exact anyReg_page _ (by decide)
    | split

theorem execMfmp_does (n : CoreN) (rd : RegN) (m0 : Fin 4) (sh : Fin 64) (rnd : Bool) (sat : Bool) (s : State) : DoesOut 0xffffffffeff s (execMfmp n rd m0 sh rnd sat s) := by
  unfold execMfmp
  repeat' first
    | with_reducible assumption
    | with_reducible exact Does.refl _ _
    | with_reducible rfl
    | decide
    | (extract_lets +onlyGivenNames u; (with_reducible refine DoesOut.cutAt u ?_ (fun _ => ?_); revert u; with_reducible refine Does.here ?_; rotate_left); revert u; intro _ _; rotate_right)
    | (extract_lets +onlyGivenNames u; (with_reducible refine Does.cutAt u ?_ (fun _ => ?_); revert u; with_reducible refine Does.here ?_; rotate_left); revert u; intro _ _; rotate_right)
    | (extract_lets +onlyGivenNames u; clear_value u; revert u; intro _)
    | with_reducible apply DoesOut.next
    | with_reducible apply DoesOut.ite
    | with_reducible apply Does.ite
    | with_reducible refine State.issue_does _ _ _ _ (by decide) ?_
    | with_reducible apply Does.andThen (State.exception_does _ _ _ _ _)
    | with_reducible apply Does.andThen Does.setCore
    | with_reducible exact anyReg_page _ (by decide)
    | intro _ _ _
    | intro _ _
    | split

theorem State.divOp_does (s : State) (n : CoreN) (rd : RegN) (ra : RegN) (rb : RegN) (f : Word → Word → Word) : DoesOut 0xffffffffeff s (State.divOp s n rd ra rb f) := by
  unfold State.divOp
  repeat' first
    | with_reducible assumption
    | with_reducible exact Does.refl _ _
    | with_reducible rfl
    | decide
    | (extract_lets +onlyGivenNames u; (with_reducible refine DoesOut.cutAt u ?_ (fun _ => ?_); revert u; with_reducible refine Does.here ?_; rotate_left); revert u; intro _ _; rotate_right)
    | (extract_lets +onlyGivenNames u; (with_reducible refine Does.cutAt u ?_ (fun _ => ?_); revert u; with_reducible refine Does.here ?_; rotate_left); revert u; intro _ _; rotate_right)
    | (extract_lets +onlyGivenNames u; clear_value u; revert u; intro _)
    | with_reducible apply DoesOut.next
    | with_reducible apply DoesOut.ite
    | with_reducible exact DoesOut.mono (State.issueCore_does _ _ _ _ _) rfl
    | with_reducible exact anyReg_page _ (by decide)
    | intro _ _ _
    | intro _ _
    | split

theorem execDiv_does (n : CoreN) (rd : RegN) (ra : RegN) (rb : RegN) (s : State) : DoesOut 0xffffffffeff s (execDiv n rd ra rb s) := by
  unfold execDiv
  repeat' first
    | with_reducible assumption
    | with_reducible exact Does.refl _ _
    | with_reducible rfl
    | decide
    | (extract_lets +onlyGivenNames u; (with_reducible refine DoesOut.cutAt u ?_ (fun _ => ?_); revert u; with_reducible refine Does.here ?_; rotate_left); revert u; intro _ _; rotate_right)
    | (extract_lets +onlyGivenNames u; (with_reducible refine Does.cutAt u ?_ (fun _ => ?_); revert u; with_reducible refine Does.here ?_; rotate_left); revert u; intro _ _; rotate_right)
    | (extract_lets +onlyGivenNames u; clear_value u; revert u; intro _)
    | with_reducible apply DoesOut.next
    | with_reducible apply DoesOut.ite
    | with_reducible apply Does.ite
    | with_reducible exact DoesOut.mono (State.divOp_does _ _ _ _ _ _) rfl
    | with_reducible exact anyReg_page _ (by decide)
    | split

theorem execDivu_does (n : CoreN) (rd : RegN) (ra : RegN) (rb : RegN) (s : State) : DoesOut 0xffffffffeff s (execDivu n rd ra rb s) := by
  unfold execDivu
  repeat' first
    | with_reducible assumption
    | with_reducible exact Does.refl _ _
    | with_reducible rfl
    | decide
    | (extract_lets +onlyGivenNames u; (with_reducible refine DoesOut.cutAt u ?_ (fun _ => ?_); revert u; with_reducible refine Does.here ?_; rotate_left); revert u; intro _ _; rotate_right)
    | (extract_lets +onlyGivenNames u; (with_reducible refine Does.cutAt u ?_ (fun _ => ?_); revert u; with_reducible refine Does.here ?_; rotate_left); revert u; intro _ _; rotate_right)
    | (extract_lets +onlyGivenNames u; clear_value u; revert u; intro _)
    | with_reducible apply DoesOut.next
    | with_reducible apply DoesOut.ite
    | with_reducible apply Does.ite
    | with_reducible exact DoesOut.mono (State.divOp_does _ _ _ _ _ _) rfl
    | with_reducible exact anyReg_page _ (by decide)
    | split

theorem execRem_does (n : CoreN) (rd : RegN) (ra : RegN) (rb : RegN) (s : State) : DoesOut 0xffffffffeff s (execRem n rd ra rb s) := by
  unfold execRem
  repeat' first
    | with_reducible assumption
    | with_reducible exact Does.refl _ _
    | with_reducible rfl
    | decide
    | (extract_lets +onlyGivenNames u; (with_reducible refine DoesOut.cutAt u ?_ (fun _ => ?_); revert u; with_reducible refine Does.here ?_; rotate_left); revert u; intro _ _; rotate_right)
    | (extract_lets +onlyGivenNames u; (with_reducible refine Does.cutAt u ?_ (fun _ => ?_); revert u; with_reducible refine Does.here ?_; rotate_left); revert u; intro _ _; rotate_right)
    | (extract_lets +onlyGivenNames u; clear_value u; revert u; intro _)
    | with_reducible apply DoesOut.next
    | with_reducible apply DoesOut.ite
    | with_reducible apply Does.ite
    | with_reducible exact DoesOut.mono (State.divOp_does _ _ _ _ _ _) rfl
    | with_reducible exact anyReg_page _ (by decide)
    | split

theorem execRemu_does (n : CoreN) (rd : RegN) (ra : RegN) (rb : RegN) (s : State) : DoesOut 0xffffffffeff s (execRemu n rd ra rb s) := by
  unfold execRemu
  repeat' first
    | with_reducible assumption
    | with_reducible exact Does.refl _ _
    | with_reducible rfl
    | decide
    | (extract_lets +onlyGivenNames u; (with_reducible refine DoesOut.cutAt u ?_ (fun _ => ?_); revert u; with_reducible refine Does.here ?_; rotate_left); revert u; intro _ _; rotate_right)
    | (extract_lets +onlyGivenNames u; (with_reducible refine Does.cutAt u ?_ (fun _ => ?_); revert u; with_reducible refine Does.here ?_; rotate_left); revert u; intro _ _; rotate_right)
    | (extract_lets +onlyGivenNames u; clear_value u; revert u; intro _)
    | with_reducible apply DoesOut.next
    | with_reducible apply DoesOut.ite
    | with_reducible apply Does.ite
    | with_reducible exact DoesOut.mono (State.divOp_does _ _ _ _ _ _) rfl
    | with_reducible exact anyReg_page _ (by decide)
    | split

theorem execMfs_does (n : CoreN) (rd : RegN) (idx : Byte) (s : State) : DoesOut 0xffffffffeff s (execMfs n rd idx s) := by
  unfold execMfs
  repeat' first
    | with_reducible assumption
    | with_reducible exact Does.refl _ _
    | with_reducible rfl
    | decide
    | (extract_lets +onlyGivenNames u; (with_reducible refine DoesOut.cutAt u ?_ (fun _ => ?_); revert u; with_reducible refine Does.here ?_; rotate_left); revert u; intro _ _; rotate_right)
    | (extract_lets +onlyGivenNames u; (with_reducible refine Does.cutAt u ?_ (fun _ => ?_); revert u; with_reducible refine Does.here ?_; rotate_left); revert u; intro _ _; rotate_right)
    | (extract_lets +onlyGivenNames u; clear_value u; revert u; intro _)
    | with_reducible apply DoesOut.next
    | with_reducible apply DoesOut.ite
    | with_reducible apply Does.ite
    | with_reducible refine State.issue_does _ _ _ _ (by decide) ?_
    | with_reducible apply Does.andThen Does.setCore
    | with_reducible apply Does.andThen (State.exception_does _ _ _ _ _)
    | with_reducible exact anyReg_page _ (by decide)
    | intro _ _ _
    | intro _ _
    | split

theorem execMts_does (n : CoreN) (ra : RegN) (idx : Byte) (s : State) : DoesOut 0xffffffffeff s (execMts n ra idx s) := by
  unfold execMts
  repeat' first
    | with_reducible assumption
    | with_reducible exact Does.refl _ _
    | with_reducible rfl
    | decide
    | (extract_lets +onlyGivenNames u; (with_reducible refine DoesOut.cutAt u ?_ (fun _ => ?_); revert u; with_reducible refine Does.here ?_; rotate_left); revert u; intro _ _; rotate_right)
    | (extract_lets +onlyGivenNames u; (with_reducible refine Does.cutAt u ?_ (fun _ => ?_); revert u; with_reducible refine Does.here ?_; rotate_left); revert u; intro _ _; rotate_right)
    | (extract_lets +onlyGivenNames u; clear_value u; revert u; intro _)
    | with_reducible apply DoesOut.next
    | with_reducible apply DoesOut.ite
    | with_reducible apply Does.ite
    | with_reducible refine State.issue_does _ _ _ _ (by decide) ?_
    | with_reducible apply Does.andThen Does.setCore
    | with_reducible apply Does.andThen (State.exception_does _ _ _ _ _)
    | with_reducible exact anyReg_page _ (by decide)
    | intro _ _ _
    | intro _ _
    | split

theorem execLstest_does (hit : Bool) (s : State) : DoesOut 0xffffffffeff s (execLstest hit s) := by
  unfold execLstest
  repeat' first
    | with_reducible assumption
    | with_reducible exact Does.refl _ _
    | with_reducible rfl
    | decide
    | (extract_lets +onlyGivenNames u; (with_reducible refine DoesOut.cutAt u ?_ (fun _ => ?_); revert u; with_reducible refine Does.here ?_; rotate_left); revert u; intro _ _; rotate_right)
    | (extract_lets +onlyGivenNames u; (with_reducible refine Does.cutAt u ?_ (fun _ => ?_); revert u; with_reducible refine Does.here ?_; rotate_left); revert u; intro _ _; rotate_right)
    | (extract_lets +onlyGivenNames u; clear_value u; revert u; intro _)
    | with_reducible apply DoesOut.next
    | with_reducible apply DoesOut.ite
    | with_reducible apply Does.ite
    | with_reducible refine State.issue_does _ _ _ _ (by decide) ?_
    | with_reducible apply Does.andThen Does.setCore
    | with_reducible exact anyReg_page _ (by decide)
    | intro _ _ _
    | intro _ _
    | split

theorem execHret_does (n : CoreN) (s : State) : DoesOut 0xffffffffeff s (execHret n s) := by
  unfold execHret
  repeat' first
    | with_reducible assumption
    | with_reducible exact Does.refl _ _
    | with_reducible rfl
    | decide
    | (extract_lets +onlyGivenNames u; (with_reducible refine DoesOut.cutAt u ?_ (fun _ => ?_); revert u; with_reducible refine Does.here ?_; rotate_left); revert u; intro _ _; rotate_right)
    | (extract_lets +onlyGivenNames u; (with_reducible refine Does.cutAt u ?_ (fun _ => ?_); revert u; with_reducible refine Does.here ?_; rotate_left); revert u; intro _ _; rotate_right)
    | (extract_lets +onlyGivenNames u; clear_value u; revert u; intro _)
    | with_reducible apply DoesOut.next
    | with_reducible apply DoesOut.ite
    | with_reducible apply Does.ite
    | with_reducible refine State.issue_does _ _ _ _ (by decide) ?_
    | with_reducible apply Does.andThen (State.finish_does _ _ _)
    | with_reducible apply Does.andThen (State.quiesce_does _ _)
    | with_reducible exact anyReg_page _ (by decide)
    | intro _ _ _
    | intro _ _
    | split

theorem execWfi_does (n : CoreN) (s : State) : DoesOut 0xffffffffeff s (execWfi n s) := by
  unfold execWfi
  repeat' first
    | with_reducible assumption
    | with_reducible exact Does.refl _ _
    | with_reducible rfl
    | decide
    | (extract_lets +onlyGivenNames u; (with_reducible refine DoesOut.cutAt u ?_ (fun _ => ?_); revert u; with_reducible refine Does.here ?_; rotate_left); revert u; intro _ _; rotate_right)
    | (extract_lets +onlyGivenNames u; (with_reducible refine Does.cutAt u ?_ (fun _ => ?_); revert u; with_reducible refine Does.here ?_; rotate_left); revert u; intro _ _; rotate_right)
    | (extract_lets +onlyGivenNames u; clear_value u; revert u; intro _)
    | with_reducible apply DoesOut.next
    | with_reducible apply DoesOut.ite
    | with_reducible apply Does.ite
    | with_reducible exact DoesOut.mono (State.issueCore_does _ _ _ _ _) rfl
    | with_reducible exact anyReg_page _ (by decide)
    | intro _ _ _
    | intro _ _
    | split

theorem execFence_does (n : CoreN) (s : State) : DoesOut 0xffffffffeff s (execFence n s) := by
  unfold execFence
  repeat' first
    | with_reducible assumption
    | with_reducible exact Does.refl _ _
    | with_reducible rfl
    | decide
    | (extract_lets +onlyGivenNames u; (with_reducible refine DoesOut.cutAt u ?_ (fun _ => ?_); revert u; with_reducible refine Does.here ?_; rotate_left); revert u; intro _ _; rotate_right)
    | (extract_lets +onlyGivenNames u; (with_reducible refine Does.cutAt u ?_ (fun _ => ?_); revert u; with_reducible refine Does.here ?_; rotate_left); revert u; intro _ _; rotate_right)
    | (extract_lets +onlyGivenNames u; clear_value u; revert u; intro _)
    | with_reducible apply DoesOut.next
    | with_reducible apply DoesOut.ite
    | with_reducible apply Does.ite
    | with_reducible refine State.issue_does _ _ _ _ (by decide) ?_
    | with_reducible apply Does.andThen (State.finish_does _ _ _)
    | with_reducible apply Does.andThen (State.waitStores_does _ _)
    | with_reducible exact anyReg_page _ (by decide)
    | intro _ _ _
    | intro _ _
    | split

theorem execFenceI_does (n : CoreN) (s : State) : DoesOut 0xffffffffeff s (execFenceI n s) := by
  unfold execFenceI
  repeat' first
    | with_reducible assumption
    | with_reducible exact Does.refl _ _
    | with_reducible rfl
    | decide
    | (extract_lets +onlyGivenNames u; (with_reducible refine DoesOut.cutAt u ?_ (fun _ => ?_); revert u; with_reducible refine Does.here ?_; rotate_left); revert u; intro _ _; rotate_right)
    | (extract_lets +onlyGivenNames u; (with_reducible refine Does.cutAt u ?_ (fun _ => ?_); revert u; with_reducible refine Does.here ?_; rotate_left); revert u; intro _ _; rotate_right)
    | (extract_lets +onlyGivenNames u; clear_value u; revert u; intro _)
    | with_reducible apply DoesOut.next
    | with_reducible apply DoesOut.ite
    | with_reducible apply Does.ite
    | with_reducible refine State.issue_does _ _ _ _ (by decide) ?_
    | with_reducible apply Does.andThen (State.finish_does _ _ _)
    | with_reducible apply Does.andThen (State.waitStores_does _ _)
    | with_reducible exact anyReg_page _ (by decide)
    | intro _ _ _
    | intro _ _
    | split

theorem execBreakI_does (n : CoreN) (s : State) : DoesOut 0xffffffffeff s (execBreakI n s) := by
  unfold execBreakI
  repeat' first
    | with_reducible assumption
    | with_reducible exact Does.refl _ _
    | with_reducible rfl
    | decide
    | (extract_lets +onlyGivenNames u; (with_reducible refine DoesOut.cutAt u ?_ (fun _ => ?_); revert u; with_reducible refine Does.here ?_; rotate_left); revert u; intro _ _; rotate_right)
    | (extract_lets +onlyGivenNames u; (with_reducible refine Does.cutAt u ?_ (fun _ => ?_); revert u; with_reducible refine Does.here ?_; rotate_left); revert u; intro _ _; rotate_right)
    | (extract_lets +onlyGivenNames u; clear_value u; revert u; intro _)
    | with_reducible apply DoesOut.next
    | with_reducible apply DoesOut.ite
    | with_reducible apply Does.ite
    | with_reducible refine State.issue_does _ _ _ _ (by decide) ?_
    | with_reducible apply Does.andThen (State.exception_does _ _ _ _ _)
    | with_reducible apply Does.andThen Does.setCore
    | with_reducible exact anyReg_page _ (by decide)
    | intro _ _ _
    | intro _ _
    | split

theorem execTrap_does (n : CoreN) (code : Fin 32) (s : State) : DoesOut 0xffffffffeff s (execTrap n code s) := by
  unfold execTrap
  repeat' first
    | with_reducible assumption
    | with_reducible exact Does.refl _ _
    | with_reducible rfl
    | decide
    | (extract_lets +onlyGivenNames u; (with_reducible refine DoesOut.cutAt u ?_ (fun _ => ?_); revert u; with_reducible refine Does.here ?_; rotate_left); revert u; intro _ _; rotate_right)
    | (extract_lets +onlyGivenNames u; (with_reducible refine Does.cutAt u ?_ (fun _ => ?_); revert u; with_reducible refine Does.here ?_; rotate_left); revert u; intro _ _; rotate_right)
    | (extract_lets +onlyGivenNames u; clear_value u; revert u; intro _)
    | with_reducible apply DoesOut.next
    | with_reducible apply DoesOut.ite
    | with_reducible apply Does.ite
    | with_reducible refine State.issue_does _ _ _ _ (by decide) ?_
    | with_reducible apply Does.andThen (State.exception_does _ _ _ _ _)
    | with_reducible apply Does.andThen Does.setCore
    | with_reducible exact anyReg_page _ (by decide)
    | intro _ _ _
    | intro _ _
    | split

theorem execInterruptTake_does (n : CoreN) (s : State) : DoesOut 0xffffffffeff s (execInterruptTake n s) := by
  unfold execInterruptTake
  repeat' first
    | with_reducible assumption
    | with_reducible exact Does.refl _ _
    | with_reducible rfl
    | decide
    | (extract_lets +onlyGivenNames u; (with_reducible refine DoesOut.cutAt u ?_ (fun _ => ?_); revert u; with_reducible refine Does.here ?_; rotate_left); revert u; intro _ _; rotate_right)
    | (extract_lets +onlyGivenNames u; (with_reducible refine Does.cutAt u ?_ (fun _ => ?_); revert u; with_reducible refine Does.here ?_; rotate_left); revert u; intro _ _; rotate_right)
    | (extract_lets +onlyGivenNames u; clear_value u; revert u; intro _)
    | with_reducible apply DoesOut.next
    | with_reducible apply DoesOut.ite
    | with_reducible apply Does.ite
    | with_reducible apply Does.andThen (State.wake_does _ _)
    | with_reducible apply Does.andThen (State.exception_does _ _ _ _ _)
    | with_reducible apply State.unlessHeld_does
    | with_reducible apply Does.andThen (State.takeInterrupt_does _ _)
    | with_reducible exact anyReg_page _ (by decide)
    | split

theorem execPostedStoreComplete_does (n : CoreN) (chk : Check) (s : State) : DoesOut 0xffffffffeff s (execPostedStoreComplete n chk s) := by
  unfold execPostedStoreComplete
  repeat' first
    | with_reducible assumption
    | with_reducible exact Does.refl _ _
    | with_reducible rfl
    | decide
    | (extract_lets +onlyGivenNames u; (with_reducible refine DoesOut.cutAt u ?_ (fun _ => ?_); revert u; with_reducible refine Does.here ?_; rotate_left); revert u; intro _ _; rotate_right)
    | (extract_lets +onlyGivenNames u; (with_reducible refine Does.cutAt u ?_ (fun _ => ?_); revert u; with_reducible refine Does.here ?_; rotate_left); revert u; intro _ _; rotate_right)
    | (extract_lets +onlyGivenNames u; clear_value u; revert u; intro _)
    | with_reducible apply DoesOut.next
    | with_reducible apply DoesOut.ite
    | with_reducible apply Does.ite
    | with_reducible apply Does.andThen (State.storeOne_does _ _ _)
    | with_reducible exact anyReg_page _ (by decide)
    | split

theorem execHaltComplete_does (n : Fin 8) (s : State) : DoesOut 0xffffffffeff s (execHaltComplete n s) := by
  unfold execHaltComplete
  repeat' first
    | with_reducible assumption
    | with_reducible exact Does.refl _ _
    | with_reducible rfl
    | decide
    | (extract_lets +onlyGivenNames u; (with_reducible refine DoesOut.cutAt u ?_ (fun _ => ?_); revert u; with_reducible refine Does.here ?_; rotate_left); revert u; intro _ _; rotate_right)
    | (extract_lets +onlyGivenNames u; (with_reducible refine Does.cutAt u ?_ (fun _ => ?_); revert u; with_reducible refine Does.here ?_; rotate_left); revert u; intro _ _; rotate_right)
    | (extract_lets +onlyGivenNames u; clear_value u; revert u; intro _)
    | with_reducible apply DoesOut.next
    | with_reducible apply DoesOut.ite
    | with_reducible apply Does.ite
    | with_reducible apply State.unlessHeld_does
    | with_reducible apply Does.andThen (State.finish_does _ _ _)
    | with_reducible apply Does.andThen (State.quiesce_does _ _)
    | with_reducible exact anyReg_page _ (by decide)
    | split

end Sys2Proof.Machine
end

