-- ==== Sys2Proof/Laws/DoesHelmMem.lean ====
section
/-!
SUPPORT. What each operation of Sys2Proof/Machine/HelmMem.lean can do (see Sys2Proof/Laws/Does.lean).
-/
namespace Sys2Proof.Machine
set_option linter.all false
set_option linter.tactic.unusedName false
theorem State.loadOp_does (s : State) (n : CoreN) (rd : RegN) (ra : RegN) (imm : BitVec 16) (kind : Nat) (ecc : Ecc) : DoesOut 0xffffffffeff s (State.loadOp s n rd ra imm kind ecc) := by
  unfold State.loadOp
  repeat' first
    | with_reducible assumption
    | with_reducible exact Does.refl _ _
    | with_reducible rfl
    | decide
    | (extract_lets +onlyGivenNames u; (with_reducible refine DoesOut.cutAt u ?_ (fun _ => ?_); revert u; with_reducible refine Does.here ?_; rotate_left); revert u; intro _ _; rotate_right)
    | (extract_lets +onlyGivenNames u; (with_reducible refine Does.cutAt u ?_ (fun _ => ?_); revert u; with_reducible refine Does.here ?_; rotate_left); revert u; intro _ _; rotate_right)
    | (extract_lets +onlyGivenNames u; clear_value u; revert u; intro _)
    | with_reducible apply DoesOut.next
    | with_reducible apply DoesOut.ite
    | with_reducible apply Does.ite
    | with_reducible apply Does.iteSnd
    | with_reducible apply Does.iteFst
    | with_reducible refine State.issue_does _ _ _ _ (by decide) ?_
    | with_reducible apply Does.andThen (State.localRead_does _ _ _ _ _)
    | with_reducible apply Does.andThen Does.setCore
    | with_reducible apply Does.andThen (State.exception_does _ _ _ _ _)
    | with_reducible apply Does.andThen (State.finish_does _ _ _)
    | with_reducible apply Does.andThen (State.drainStores_does _ _)
    | with_reducible exact anyReg_page _ (by decide)
    | (split <;> (rename_i h; refine DoesOut.cutSnd h ?_ (fun _ => ?_) <;> clear h))
    | (split <;> (rename_i h; refine DoesOut.cutFst h ?_ (fun _ => ?_) <;> clear h))
    | (split <;> (rename_i h; refine Does.cutSnd h ?_ (fun _ => ?_) <;> clear h))
    | (split <;> (rename_i h; refine Does.cutFst h ?_ (fun _ => ?_) <;> clear h))
    | intro _ _ _
    | intro _ _
    | split

theorem execLw_does (n : CoreN) (rd : RegN) (ra : RegN) (imm : BitVec 16) (ecc : Ecc) (s : State) : DoesOut 0xffffffffeff s (execLw n rd ra imm ecc s) := by
  unfold execLw
  repeat' first
    | with_reducible assumption
    | with_reducible exact Does.refl _ _
    | with_reducible rfl
    | decide
    | (extract_lets +onlyGivenNames u; (with_reducible refine DoesOut.cutAt u ?_ (fun _ => ?_); revert u; with_reducible refine Does.here ?_; rotate_left); revert u; intro _ _; rotate_right)
    | (extract_lets +onlyGivenNames u; (with_reducible refine Does.cutAt u ?_ (fun _ => ?_); revert u; with_reducible refine Does.here ?_; rotate_left); revert u; intro _ _; rotate_right)
    | (extract_lets +onlyGivenNames u; clear_value u; revert u; intro _)
    | with_reducible apply DoesOut.next
    | with_reducible apply DoesOut.ite
    | with_reducible apply Does.ite
    | with_reducible exact DoesOut.mono (State.loadOp_does _ _ _ _ _ _ _) rfl
    | with_reducible exact anyReg_page _ (by decide)
    | split

theorem execLh_does (n : CoreN) (rd : RegN) (ra : RegN) (imm : BitVec 16) (ecc : Ecc) (s : State) : DoesOut 0xffffffffeff s (execLh n rd ra imm ecc s) := by
  unfold execLh
  repeat' first
    | with_reducible assumption
    | with_reducible exact Does.refl _ _
    | with_reducible rfl
    | decide
    | (extract_lets +onlyGivenNames u; (with_reducible refine DoesOut.cutAt u ?_ (fun _ => ?_); revert u; with_reducible refine Does.here ?_; rotate_left); revert u; intro _ _; rotate_right)
    | (extract_lets +onlyGivenNames u; (with_reducible refine Does.cutAt u ?_ (fun _ => ?_); revert u; with_reducible refine Does.here ?_; rotate_left); revert u; intro _ _; rotate_right)
    | (extract_lets +onlyGivenNames u; clear_value u; revert u; intro _)
    | with_reducible apply DoesOut.next
    | with_reducible apply DoesOut.ite
    | with_reducible apply Does.ite
    | with_reducible exact DoesOut.mono (State.loadOp_does _ _ _ _ _ _ _) rfl
    | with_reducible exact anyReg_page _ (by decide)
    | split

theorem execLhu_does (n : CoreN) (rd : RegN) (ra : RegN) (imm : BitVec 16) (ecc : Ecc) (s : State) : DoesOut 0xffffffffeff s (execLhu n rd ra imm ecc s) := by
  unfold execLhu
  repeat' first
    | with_reducible assumption
    | with_reducible exact Does.refl _ _
    | with_reducible rfl
    | decide
    | (extract_lets +onlyGivenNames u; (with_reducible refine DoesOut.cutAt u ?_ (fun _ => ?_); revert u; with_reducible refine Does.here ?_; rotate_left); revert u; intro _ _; rotate_right)
    | (extract_lets +onlyGivenNames u; (with_reducible refine Does.cutAt u ?_ (fun _ => ?_); revert u; with_reducible refine Does.here ?_; rotate_left); revert u; intro _ _; rotate_right)
    | (extract_lets +onlyGivenNames u; clear_value u; revert u; intro _)
    | with_reducible apply DoesOut.next
    | with_reducible apply DoesOut.ite
    | with_reducible apply Does.ite
    | with_reducible exact DoesOut.mono (State.loadOp_does _ _ _ _ _ _ _) rfl
    | with_reducible exact anyReg_page _ (by decide)
    | split

theorem execLb_does (n : CoreN) (rd : RegN) (ra : RegN) (imm : BitVec 16) (ecc : Ecc) (s : State) : DoesOut 0xffffffffeff s (execLb n rd ra imm ecc s) := by
  unfold execLb
  repeat' first
    | with_reducible assumption
    | with_reducible exact Does.refl _ _
    | with_reducible rfl
    | decide
    | (extract_lets +onlyGivenNames u; (with_reducible refine DoesOut.cutAt u ?_ (fun _ => ?_); revert u; with_reducible refine Does.here ?_; rotate_left); revert u; intro _ _; rotate_right)
    | (extract_lets +onlyGivenNames u; (with_reducible refine Does.cutAt u ?_ (fun _ => ?_); revert u; with_reducible refine Does.here ?_; rotate_left); revert u; intro _ _; rotate_right)
    | (extract_lets +onlyGivenNames u; clear_value u; revert u; intro _)
    | with_reducible apply DoesOut.next
    | with_reducible apply DoesOut.ite
    | with_reducible apply Does.ite
    | with_reducible exact DoesOut.mono (State.loadOp_does _ _ _ _ _ _ _) rfl
    | with_reducible exact anyReg_page _ (by decide)
    | split

theorem execLbu_does (n : CoreN) (rd : RegN) (ra : RegN) (imm : BitVec 16) (ecc : Ecc) (s : State) : DoesOut 0xffffffffeff s (execLbu n rd ra imm ecc s) := by
  unfold execLbu
  repeat' first
    | with_reducible assumption
    | with_reducible exact Does.refl _ _
    | with_reducible rfl
    | decide
    | (extract_lets +onlyGivenNames u; (with_reducible refine DoesOut.cutAt u ?_ (fun _ => ?_); revert u; with_reducible refine Does.here ?_; rotate_left); revert u; intro _ _; rotate_right)
    | (extract_lets +onlyGivenNames u; (with_reducible refine Does.cutAt u ?_ (fun _ => ?_); revert u; with_reducible refine Does.here ?_; rotate_left); revert u; intro _ _; rotate_right)
    | (extract_lets +onlyGivenNames u; clear_value u; revert u; intro _)
    | with_reducible apply DoesOut.next
    | with_reducible apply DoesOut.ite
    | with_reducible apply Does.ite
    | with_reducible exact DoesOut.mono (State.loadOp_does _ _ _ _ _ _ _) rfl
    | with_reducible exact anyReg_page _ (by decide)
    | split

theorem execLoadReply_does (n : CoreN) (chk : Check) (stall : Nat) (s : State) : DoesOut 0xffffffffeff s (execLoadReply n chk stall s) := by
  unfold execLoadReply
  repeat' first
    | with_reducible assumption
    | with_reducible exact Does.refl _ _
    | with_reducible rfl
    | decide
    | (extract_lets +onlyGivenNames u; (with_reducible refine DoesOut.cutAt u ?_ (fun _ => ?_); revert u; with_reducible refine Does.here ?_; rotate_left); revert u; intro _ _; rotate_right)
    | (extract_lets +onlyGivenNames u; (with_reducible refine Does.cutAt u ?_ (fun _ => ?_); revert u; with_reducible refine Does.here ?_; rotate_left); revert u; intro _ _; rotate_right)
    | (extract_lets +onlyGivenNames u; clear_value u; revert u; intro _)
    | with_reducible apply DoesOut.next
    | with_reducible apply DoesOut.ite
    | with_reducible apply Does.ite
    | with_reducible apply Does.iteSnd
    | with_reducible apply Does.iteFst
    | with_reducible apply Does.andThen (State.loadReply_does _ _ _ _)
    | with_reducible apply State.unlessHeld_does
    | with_reducible apply Does.andThen (State.exception_does _ _ _ _ _)
    | with_reducible apply Does.andThen Does.setCore
    | with_reducible exact anyReg_page _ (by decide)
    | (split <;> (rename_i h; refine DoesOut.cutSnd h ?_ (fun _ => ?_) <;> clear h))
    | (split <;> (rename_i h; refine DoesOut.cutFst h ?_ (fun _ => ?_) <;> clear h))
    | (split <;> (rename_i h; refine Does.cutSnd h ?_ (fun _ => ?_) <;> clear h))
    | (split <;> (rename_i h; refine Does.cutFst h ?_ (fun _ => ?_) <;> clear h))
    | split

theorem State.coreStore_does (s : State) (n : CoreN) (ea : Word) (v : Word) (size : Nat) (nonloc : Bool) : Does 0xffffffffeff s (State.coreStore s n ea v size nonloc).2 := by
  unfold State.coreStore
  repeat' first
    | with_reducible assumption
    | with_reducible exact Does.refl _ _
    | with_reducible rfl
    | decide
    | (extract_lets +onlyGivenNames u; (with_reducible refine Does.cutAt u ?_ (fun _ => ?_); revert u; with_reducible refine Does.here ?_; rotate_left); revert u; intro _ _; rotate_right)
    | (extract_lets +onlyGivenNames u; clear_value u; revert u; intro _)
    | with_reducible apply Does.ite
    | with_reducible apply Does.iteSnd
    | with_reducible apply Does.iteFst
    | with_reducible apply Does.andThen Does.store
    | with_reducible apply Does.andThen Does.setCore
    | with_reducible apply Does.andThen (State.stallFree_does _ _)
    | with_reducible apply Does.andThen (State.storeOne_does _ _ _)
    | with_reducible apply Does.andThen (State.finish_does _ _ _)
    | with_reducible exact anyReg_page _ (by decide)
    | (split <;> (rename_i h; refine Does.cutSnd h ?_ (fun _ => ?_) <;> clear h))
    | (split <;> (rename_i h; refine Does.cutFst h ?_ (fun _ => ?_) <;> clear h))
    | split

theorem State.storeOp_does (s : State) (n : CoreN) (rs : RegN) (ra : RegN) (imm : BitVec 16) (size : Nat) : DoesOut 0xffffffffeff s (State.storeOp s n rs ra imm size) := by
  unfold State.storeOp
  repeat' first
    | with_reducible assumption
    | with_reducible exact Does.refl _ _
    | with_reducible rfl
    | decide
    | (extract_lets +onlyGivenNames u; (with_reducible refine DoesOut.cutAt u ?_ (fun _ => ?_); revert u; with_reducible refine Does.here ?_; rotate_left); revert u; intro _ _; rotate_right)
    | (extract_lets +onlyGivenNames u; (with_reducible refine Does.cutAt u ?_ (fun _ => ?_); revert u; with_reducible refine Does.here ?_; rotate_left); revert u; intro _ _; rotate_right)
    | (extract_lets +onlyGivenNames u; clear_value u; revert u; intro _)
    | with_reducible apply DoesOut.next
    | with_reducible apply DoesOut.ite
    | with_reducible apply Does.iteSnd
    | with_reducible apply Does.iteFst
    | with_reducible refine State.issue_does _ _ _ _ (by decide) ?_
    | with_reducible apply Does.andThen (State.coreStore_does _ _ _ _ _ _)
    | with_reducible apply Does.andThen (State.exception_does _ _ _ _ _)
    | with_reducible apply Does.andThen (State.finish_does _ _ _)
    | with_reducible exact anyReg_page _ (by decide)
    | (split <;> (rename_i h; refine DoesOut.cutSnd h ?_ (fun _ => ?_) <;> clear h))
    | (split <;> (rename_i h; refine DoesOut.cutFst h ?_ (fun _ => ?_) <;> clear h))
    | (split <;> (rename_i h; refine Does.cutSnd h ?_ (fun _ => ?_) <;> clear h))
    | (split <;> (rename_i h; refine Does.cutFst h ?_ (fun _ => ?_) <;> clear h))
    | intro _ _ _
    | intro _ _
    | split

theorem execSw_does (n : CoreN) (rs : RegN) (ra : RegN) (imm : BitVec 16) (s : State) : DoesOut 0xffffffffeff s (execSw n rs ra imm s) := by
  unfold execSw
  repeat' first
    | with_reducible assumption
    | with_reducible exact Does.refl _ _
    | with_reducible rfl
    | decide
    | (extract_lets +onlyGivenNames u; (with_reducible refine DoesOut.cutAt u ?_ (fun _ => ?_); revert u; with_reducible refine Does.here ?_; rotate_left); revert u; intro _ _; rotate_right)
    | (extract_lets +onlyGivenNames u; (with_reducible refine Does.cutAt u ?_ (fun _ => ?_); revert u; with_reducible refine Does.here ?_; rotate_left); revert u; intro _ _; rotate_right)
    | (extract_lets +onlyGivenNames u; clear_value u; revert u; intro _)
    | with_reducible apply DoesOut.next
    | with_reducible apply DoesOut.ite
    | with_reducible apply Does.ite
    | with_reducible exact DoesOut.mono (State.storeOp_does _ _ _ _ _ _) rfl
    | with_reducible exact anyReg_page _ (by decide)
    | split

theorem execSh_does (n : CoreN) (rs : RegN) (ra : RegN) (imm : BitVec 16) (s : State) : DoesOut 0xffffffffeff s (execSh n rs ra imm s) := by
  unfold execSh
  repeat' first
    | with_reducible assumption
    | with_reducible exact Does.refl _ _
    | with_reducible rfl
    | decide
    | (extract_lets +onlyGivenNames u; (with_reducible refine DoesOut.cutAt u ?_ (fun _ => ?_); revert u; with_reducible refine Does.here ?_; rotate_left); revert u; intro _ _; rotate_right)
    | (extract_lets +onlyGivenNames u; (with_reducible refine Does.cutAt u ?_ (fun _ => ?_); revert u; with_reducible refine Does.here ?_; rotate_left); revert u; intro _ _; rotate_right)
    | (extract_lets +onlyGivenNames u; clear_value u; revert u; intro _)
    | with_reducible apply DoesOut.next
    | with_reducible apply DoesOut.ite
    | with_reducible apply Does.ite
    | with_reducible exact DoesOut.mono (State.storeOp_does _ _ _ _ _ _) rfl
    | with_reducible exact anyReg_page _ (by decide)
    | split

theorem execSb_does (n : CoreN) (rs : RegN) (ra : RegN) (imm : BitVec 16) (s : State) : DoesOut 0xffffffffeff s (execSb n rs ra imm s) := by
  unfold execSb
  repeat' first
    | with_reducible assumption
    | with_reducible exact Does.refl _ _
    | with_reducible rfl
    | decide
    | (extract_lets +onlyGivenNames u; (with_reducible refine DoesOut.cutAt u ?_ (fun _ => ?_); revert u; with_reducible refine Does.here ?_; rotate_left); revert u; intro _ _; rotate_right)
    | (extract_lets +onlyGivenNames u; (with_reducible refine Does.cutAt u ?_ (fun _ => ?_); revert u; with_reducible refine Does.here ?_; rotate_left); revert u; intro _ _; rotate_right)
    | (extract_lets +onlyGivenNames u; clear_value u; revert u; intro _)
    | with_reducible apply DoesOut.next
    | with_reducible apply DoesOut.ite
    | with_reducible apply Does.ite
    | with_reducible exact DoesOut.mono (State.storeOp_does _ _ _ _ _ _) rfl
    | with_reducible exact anyReg_page _ (by decide)
    | split

theorem State.frameStore_does (s : State) (n : CoreN) (ea : Word) (vs : List Word) : Does 0xffffffffeff s (State.frameStore s n ea vs).2 := by
  induction vs generalizing s ea with
  | nil => exact Does.refl _ _
  | cons v vs ih =>
    unfold State.frameStore
    split
    · exact Does.refl _ _
    · dsimp only
      have hp : Does 0xffffffffeff s (s.setCore n ((s.core n).putsStore n ea v 4)) := Does.setCore.mono (by decide)
      generalize s.setCore n ((s.core n).putsStore n ea v 4) = r at hp ⊢
      split
      · exact Does.andThen (ih _ _) (Does.andThen Does.store hp (by decide)) (by decide)
      · have hd : Does 0xffffffffeff s ((r.waitStores n).stallFree n) :=
          Does.andThen (State.stallFree_does _ _) (Does.andThen (State.waitStores_does r n) hp (by decide)) (by decide)
        split <;> rename_i h
        · exact Does.cutSnd h (Does.andThen (State.busWrite_does _ _ _ _ _ _) hd (by decide)) fun q => Does.andThen (ih _ _) q (by decide)
        · exact Does.cutSnd h (Does.andThen (State.busWrite_does _ _ _ _ _ _) hd (by decide)) fun q => q

theorem State.frameLoad_does (s : State) (n : CoreN) (ea : Word) (k : Nat) (eccs : List Ecc) : Does 0xffffffffeff s (State.frameLoad s n ea k eccs).2 := by
  induction k generalizing s ea eccs with
  | zero => exact Does.refl _ _
  | succ i ih =>
    unfold State.frameLoad
    split
    · exact Does.refl _ _
    · dsimp only
      have hp : Does 0xffffffffeff s (s.setCore n ((s.core n).puts n (.load ea 4))) := Does.setCore.mono (by decide)
      generalize s.setCore n ((s.core n).puts n (.load ea 4)) = r at hp ⊢
      have hx : Does 0xffffffffeff s (if isLocal ea = true then r.localRead n ea 4 (eccs.headD .clean) else ((r.waitStores n).stallFree n).busRead (coreReq n) ((((r.waitStores n).stallFree n).core n).segAddr ea) 4 { ecc := eccs.take 1 }).2 :=
        Does.iteSnd (Does.andThen (State.localRead_does _ _ _ _ _) hp (by decide))
          (Does.andThen (State.busRead_does _ _ _ _ _ _)
            (Does.andThen (State.stallFree_does _ _) (Does.andThen (State.waitStores_does r n) hp (by decide)) (by decide)) (by decide))
      split <;> rename_i h
      · exact Does.cutSnd h hx fun q => Does.andThen (ih _ _ _) q (by decide)
      · exact Does.cutSnd h hx fun q => q

theorem State.callOp_does (s : State) (n : CoreN) (mask : BitVec 10) (srcs : List RegN) (target : Core → Word) : DoesOut 0xffffffffeff s (State.callOp s n mask srcs target) := by
  unfold State.callOp
  repeat' first
    | with_reducible assumption
    | with_reducible exact Does.refl _ _
    | with_reducible rfl
    | decide
    | (extract_lets +onlyGivenNames u; (with_reducible refine DoesOut.cutAt u ?_ (fun _ => ?_); revert u; with_reducible refine Does.here ?_; rotate_left); revert u; intro _ _; rotate_right)
    | (extract_lets +onlyGivenNames u; (with_reducible refine Does.cutAt u ?_ (fun _ => ?_); revert u; with_reducible refine Does.here ?_; rotate_left); revert u; intro _ _; rotate_right)
    | (extract_lets +onlyGivenNames u; clear_value u; revert u; intro _)
    | with_reducible apply DoesOut.next
    | with_reducible apply DoesOut.ite
    | with_reducible apply Does.ite
    | with_reducible apply Does.iteSnd
    | with_reducible apply Does.iteFst
    | with_reducible refine State.issue_does _ _ _ _ (by decide) ?_
    | with_reducible apply Does.andThen (State.frameStore_does _ _ _ _)
    | with_reducible apply Does.andThen (State.exception_does _ _ _ _ _)
    | with_reducible apply Does.andThen (State.finish_does _ _ _)
    | with_reducible exact anyReg_page _ (by decide)
    | (split <;> (rename_i h; refine DoesOut.cutSnd h ?_ (fun _ => ?_) <;> clear h))
    | (split <;> (rename_i h; refine DoesOut.cutFst h ?_ (fun _ => ?_) <;> clear h))
    | (split <;> (rename_i h; refine Does.cutSnd h ?_ (fun _ => ?_) <;> clear h))
    | (split <;> (rename_i h; refine Does.cutFst h ?_ (fun _ => ?_) <;> clear h))
    | intro _ _ _
    | intro _ _
    | split

theorem execCall_does (n : CoreN) (mask : BitVec 10) (off : BitVec 16) (s : State) : DoesOut 0xffffffffeff s (execCall n mask off s) := by
  unfold execCall
  repeat' first
    | with_reducible assumption
    | with_reducible exact Does.refl _ _
    | with_reducible rfl
    | decide
    | (extract_lets +onlyGivenNames u; (with_reducible refine DoesOut.cutAt u ?_ (fun _ => ?_); revert u; with_reducible refine Does.here ?_; rotate_left); revert u; intro _ _; rotate_right)
    | (extract_lets +onlyGivenNames u; (with_reducible refine Does.cutAt u ?_ (fun _ => ?_); revert u; with_reducible refine Does.here ?_; rotate_left); revert u; intro _ _; rotate_right)
    | (extract_lets +onlyGivenNames u; clear_value u; revert u; intro _)
    | with_reducible apply DoesOut.next
    | with_reducible apply DoesOut.ite
    | with_reducible apply Does.ite
    | with_reducible exact DoesOut.mono (State.callOp_does _ _ _ _ _) rfl
    | with_reducible exact anyReg_page _ (by decide)
    | split

theorem execCallr_does (n : CoreN) (mask : BitVec 10) (ra : RegN) (s : State) : DoesOut 0xffffffffeff s (execCallr n mask ra s) := by
  unfold execCallr
  repeat' first
    | with_reducible assumption
    | with_reducible exact Does.refl _ _
    | with_reducible rfl
    | decide
    | (extract_lets +onlyGivenNames u; (with_reducible refine DoesOut.cutAt u ?_ (fun _ => ?_); revert u; with_reducible refine Does.here ?_; rotate_left); revert u; intro _ _; rotate_right)
    | (extract_lets +onlyGivenNames u; (with_reducible refine Does.cutAt u ?_ (fun _ => ?_); revert u; with_reducible refine Does.here ?_; rotate_left); revert u; intro _ _; rotate_right)
    | (extract_lets +onlyGivenNames u; clear_value u; revert u; intro _)
    | with_reducible apply DoesOut.next
    | with_reducible apply DoesOut.ite
    | with_reducible apply Does.ite
    | with_reducible exact DoesOut.mono (State.callOp_does _ _ _ _ _) rfl
    | with_reducible exact anyReg_page _ (by decide)
    | split

theorem execRet_does (n : CoreN) (mask : BitVec 10) (eccs : List Ecc) (s : State) : DoesOut 0xffffffffeff s (execRet n mask eccs s) := by
  unfold execRet
  repeat' first
    | with_reducible assumption
    | with_reducible exact Does.refl _ _
    | with_reducible rfl
    | decide
    | (extract_lets +onlyGivenNames u; (with_reducible refine DoesOut.cutAt u ?_ (fun _ => ?_); revert u; with_reducible refine Does.here ?_; rotate_left); revert u; intro _ _; rotate_right)
    | (extract_lets +onlyGivenNames u; (with_reducible refine Does.cutAt u ?_ (fun _ => ?_); revert u; with_reducible refine Does.here ?_; rotate_left); revert u; intro _ _; rotate_right)
    | (extract_lets +onlyGivenNames u; clear_value u; revert u; intro _)
    | with_reducible apply DoesOut.next
    | with_reducible apply DoesOut.ite
    | with_reducible apply Does.ite
    | with_reducible apply Does.iteSnd
    | with_reducible apply Does.iteFst
    | with_reducible apply Does.foldl
    | with_reducible apply Does.foldlFst
    | with_reducible apply Does.foldlSnd
    | with_reducible refine State.issue_does _ _ _ _ (by decide) ?_
    | with_reducible apply Does.andThen (State.frameLoad_does _ _ _ _ _)
    | with_reducible apply Does.andThen (State.finish_does _ _ _)
    | with_reducible apply Does.andThen (State.exception_does _ _ _ _ _)
    | with_reducible exact anyReg_page _ (by decide)
    | (split <;> (rename_i h; refine DoesOut.cutSnd h ?_ (fun _ => ?_) <;> clear h))
    | (split <;> (rename_i h; refine DoesOut.cutFst h ?_ (fun _ => ?_) <;> clear h))
    | (split <;> (rename_i h; refine Does.cutSnd h ?_ (fun _ => ?_) <;> clear h))
    | (split <;> (rename_i h; refine Does.cutFst h ?_ (fun _ => ?_) <;> clear h))
    | intro _ _ _
    | intro _ _
    | split

theorem State.atomicOp_does (s : State) (n : CoreN) (rd : RegN) (ra : RegN) (rb : RegN) (f : Word → Word → Word) : DoesOut 0xffffffffeff s (State.atomicOp s n rd ra rb f) := by
  unfold State.atomicOp
  repeat' first
    | with_reducible assumption
    | with_reducible exact Does.refl _ _
    | with_reducible rfl
    | decide
    | (extract_lets +onlyGivenNames u; (with_reducible refine DoesOut.cutAt u ?_ (fun _ => ?_); revert u; with_reducible refine Does.here ?_; rotate_left); revert u; intro _ _; rotate_right)
    | (extract_lets +onlyGivenNames u; (with_reducible refine Does.cutAt u ?_ (fun _ => ?_); revert u; with_reducible refine Does.here ?_; rotate_left); revert u; intro _ _; rotate_right)
    | (extract_lets +onlyGivenNames u; clear_value u; revert u; intro _)
    | with_reducible apply DoesOut.next
    | with_reducible apply DoesOut.ite
    | with_reducible apply Does.ite
    | with_reducible refine State.issue_does _ _ _ _ (by decide) ?_
    | with_reducible apply Does.andThen (State.exception_does _ _ _ _ _)
    | with_reducible apply Does.andThen (State.sramFault_does _ _)
    | with_reducible apply Does.andThen (State.stallFree_does _ _)
    | with_reducible apply Does.andThen (State.drainStores_does _ _)
    | with_reducible apply Does.andThen Does.setCore
    | with_reducible apply Does.andThen (State.sramWrite_does _ _ _)
    | with_reducible apply Does.andThen (State.finish_does _ _ _)
    | with_reducible exact anyReg_page _ (by decide)
    | intro _ _ _
    | intro _ _
    | split

theorem execAtxch_does (n : CoreN) (rd : RegN) (ra : RegN) (rb : RegN) (s : State) : DoesOut 0xffffffffeff s (execAtxch n rd ra rb s) := by
  unfold execAtxch
  repeat' first
    | with_reducible assumption
    | with_reducible exact Does.refl _ _
    | with_reducible rfl
    | decide
    | (extract_lets +onlyGivenNames u; (with_reducible refine DoesOut.cutAt u ?_ (fun _ => ?_); revert u; with_reducible refine Does.here ?_; rotate_left); revert u; intro _ _; rotate_right)
    | (extract_lets +onlyGivenNames u; (with_reducible refine Does.cutAt u ?_ (fun _ => ?_); revert u; with_reducible refine Does.here ?_; rotate_left); revert u; intro _ _; rotate_right)
    | (extract_lets +onlyGivenNames u; clear_value u; revert u; intro _)
    | with_reducible apply DoesOut.next
    | with_reducible apply DoesOut.ite
    | with_reducible apply Does.ite
    | with_reducible exact DoesOut.mono (State.atomicOp_does _ _ _ _ _ _) rfl
    | with_reducible exact anyReg_page _ (by decide)
    | split

theorem execAtadd_does (n : CoreN) (rd : RegN) (ra : RegN) (rb : RegN) (s : State) : DoesOut 0xffffffffeff s (execAtadd n rd ra rb s) := by
  unfold execAtadd
  repeat' first
    | with_reducible assumption
    | with_reducible exact Does.refl _ _
    | with_reducible rfl
    | decide
    | (extract_lets +onlyGivenNames u; (with_reducible refine DoesOut.cutAt u ?_ (fun _ => ?_); revert u; with_reducible refine Does.here ?_; rotate_left); revert u; intro _ _; rotate_right)
    | (extract_lets +onlyGivenNames u; (with_reducible refine Does.cutAt u ?_ (fun _ => ?_); revert u; with_reducible refine Does.here ?_; rotate_left); revert u; intro _ _; rotate_right)
    | (extract_lets +onlyGivenNames u; clear_value u; revert u; intro _)
    | with_reducible apply DoesOut.next
    | with_reducible apply DoesOut.ite
    | with_reducible apply Does.ite
    | with_reducible exact DoesOut.mono (State.atomicOp_does _ _ _ _ _ _) rfl
    | with_reducible exact anyReg_page _ (by decide)
    | split

theorem execAtand_does (n : CoreN) (rd : RegN) (ra : RegN) (rb : RegN) (s : State) : DoesOut 0xffffffffeff s (execAtand n rd ra rb s) := by
  unfold execAtand
  repeat' first
    | with_reducible assumption
    | with_reducible exact Does.refl _ _
    | with_reducible rfl
    | decide
    | (extract_lets +onlyGivenNames u; (with_reducible refine DoesOut.cutAt u ?_ (fun _ => ?_); revert u; with_reducible refine Does.here ?_; rotate_left); revert u; intro _ _; rotate_right)
    | (extract_lets +onlyGivenNames u; (with_reducible refine Does.cutAt u ?_ (fun _ => ?_); revert u; with_reducible refine Does.here ?_; rotate_left); revert u; intro _ _; rotate_right)
    | (extract_lets +onlyGivenNames u; clear_value u; revert u; intro _)
    | with_reducible apply DoesOut.next
    | with_reducible apply DoesOut.ite
    | with_reducible apply Does.ite
    | with_reducible exact DoesOut.mono (State.atomicOp_does _ _ _ _ _ _) rfl
    | with_reducible exact anyReg_page _ (by decide)
    | split

theorem execAtorr_does (n : CoreN) (rd : RegN) (ra : RegN) (rb : RegN) (s : State) : DoesOut 0xffffffffeff s (execAtorr n rd ra rb s) := by
  unfold execAtorr
  repeat' first
    | with_reducible assumption
    | with_reducible exact Does.refl _ _
    | with_reducible rfl
    | decide
    | (extract_lets +onlyGivenNames u; (with_reducible refine DoesOut.cutAt u ?_ (fun _ => ?_); revert u; with_reducible refine Does.here ?_; rotate_left); revert u; intro _ _; rotate_right)
    | (extract_lets +onlyGivenNames u; (with_reducible refine Does.cutAt u ?_ (fun _ => ?_); revert u; with_reducible refine Does.here ?_; rotate_left); revert u; intro _ _; rotate_right)
    | (extract_lets +onlyGivenNames u; clear_value u; revert u; intro _)
    | with_reducible apply DoesOut.next
    | with_reducible apply DoesOut.ite
    | with_reducible apply Does.ite
    | with_reducible exact DoesOut.mono (State.atomicOp_does _ _ _ _ _ _) rfl
    | with_reducible exact anyReg_page _ (by decide)
    | split

end Sys2Proof.Machine
end

