-- ==== Sys2Proof/Laws/DoesMicro.lean ====
section
/-!
SUPPORT. What each operation of Sys2Proof/Machine/Micro.lean can do (see Sys2Proof/Laws/Does.lean).
-/
namespace Sys2Proof.Machine
set_option linter.all false
set_option linter.tactic.unusedName false
/-- What a microword can do, whatever it leads to. -/
def UStepDoes (m : Nat) (s : State) : UStep → Prop
  | .next _ _ t => Does m s t
  | .done _ t => Does m s t
  | .fault _ _ t => Does m s t
/-- The same of a unit. -/
def UOpDoes (m : Nat) (s : State) : (Micro × State) ⊕ (Nat × Word × State) → Prop
  | .inl p => Does m s p.2
  | .inr q => Does m s q.2.2
theorem State.unitOp_does (s : State) (n : CoreN) (nonloc : Bool) (u : UWord) (x : Micro) :
    UOpDoes 0xffffffffeff s (State.unitOp s n nonloc u x) := by
  have hd : Does 0xffffffffeff s ((s.waitStores n).stallFree n) :=
    Does.andThen (State.stallFree_does _ _) ((State.waitStores_does s n).mono (by decide)) (by decide)
  unfold State.unitOp
  extract_lets a b
  split
  · exact Does.refl _ _
  · exact Does.mono (n := 0x4000) Does.setCore (by decide)
  · exact Does.refl _ _
  · try dsimp only
    split
    · exact Does.refl _ _
    split
    · exact Does.refl _ _
    split
    · split <;> rename_i h
      · exact Does.cutSnd h ((State.localRead_does _ _ _ _ _).mono (by decide)) fun q => q
      · exact Does.cutSnd h ((State.localRead_does _ _ _ _ _).mono (by decide)) fun q => q
    · split <;> rename_i h
      · exact Does.cutSnd h (Does.andThen (State.busRead_does _ _ _ _ _ _) hd (by decide)) fun q => q
      · exact Does.cutSnd h (Does.andThen (State.busRead_does _ _ _ _ _ _) hd (by decide)) fun q => q
  · try dsimp only
    split <;> rename_i h
    · exact Does.cutSnd h ((State.coreStore_does _ _ _ _ _ _).mono (by decide)) fun q => q
    · exact Does.cutSnd h ((State.coreStore_does _ _ _ _ _ _).mono (by decide)) fun q => q
  · exact Does.refl _ _

theorem State.microword_does (s : State) (n : CoreN) (nonloc : Bool) (ecc : Option Nat) (word : Word) (i : Nat) (x : Micro) :
    UStepDoes 0xffffffffeff s (State.microword s n nonloc ecc word i x) := by
  unfold State.microword
  extract_lets o u k t
  split
  · exact Does.refl _ _
  split
  · exact Does.refl _ _
  · have ht : Does 0xffffffffeff s t := Does.setCore.mono (by decide)
    have h := State.unitOp_does t n nonloc u { x with load := if u.unit = 3 then u.dst else 0 }
    split <;> rename_i e
    · rw [e] at h
      exact Does.andThen h ht (by decide)
    · rw [e] at h
      have h2 := fun q => Does.andThen (m := 0xffffffffeff) (Does.setCore (c := n) (q := q)) (Does.andThen (m := 0xffffffffeff) h ht (by decide)) (by decide)
      dsimp only
      split
      · exact h2 _
      · split
        · exact h2 _
        · exact h2 _

theorem State.microrun_does (s : State) (n : CoreN) (nonloc : Bool) (ecc : Option Nat) (word : Word) (k i : Nat) (x : Micro) :
    UStepDoes 0xffffffffeff s (State.microrun s n nonloc ecc word k i x) := by
  induction k generalizing s i x with
  | zero => exact Does.refl _ _
  | succ f ih =>
    have h := State.microword_does s n nonloc ecc word i x
    unfold State.microrun
    generalize State.microword s n nonloc ecc word i x = r at h
    cases r with
    | next j x t =>
      have h2 := ih t j x
      dsimp only
      generalize State.microrun t n nonloc ecc word f j x = r2 at h2
      cases r2 <;> exact Does.andThen h2 h (by decide)
    | done x t => exact h
    | fault c e t => exact h

theorem State.microStart_does (s : State) (n : CoreN) (op : Operands) (chks : List Check) : Does 0x200000 s (State.microStart s n op chks).2 := by
  unfold State.microStart
  repeat' first
    | with_reducible assumption
    | with_reducible exact Does.refl _ _
    | with_reducible rfl
    | decide
    | (extract_lets +onlyGivenNames u; (with_reducible refine Does.cutAt u ?_ (fun _ => ?_); revert u; with_reducible refine Does.here ?_; rotate_left); revert u; intro _ _; rotate_right)
    | (extract_lets +onlyGivenNames u; clear_value u; revert u; intro _)
    | with_reducible apply Does.iteSnd
    | with_reducible apply Does.iteFst
    | with_reducible apply Does.andThen Does.freeWord
    | with_reducible apply Does.andThen Does.freeBit
    | (split <;> (rename_i h; refine Does.cutSnd h ?_ (fun _ => ?_) <;> clear h))
    | (split <;> (rename_i h; refine Does.cutFst h ?_ (fun _ => ?_) <;> clear h))
    | split

theorem State.tableUe_does (s : State) (n : CoreN) : Does 0x40000000 s (State.tableUe s n) := by
  unfold State.tableUe
  repeat' first
    | with_reducible assumption
    | with_reducible exact Does.refl _ _
    | with_reducible rfl
    | decide
    | (extract_lets +onlyGivenNames u; (with_reducible refine Does.cutAt u ?_ (fun _ => ?_); revert u; with_reducible refine Does.here ?_; rotate_left); revert u; intro _ _; rotate_right)
    | (extract_lets +onlyGivenNames u; clear_value u; revert u; intro _)
    | with_reducible apply Does.ite
    | with_reducible apply Does.setBit
    | split

theorem State.customOp_does (s : State) (n : CoreN) (word : Word) (ecc : Option Nat) (chks : List Check) :
    DoesOut 0xffffffffeff s (State.customOp s n word ecc chks) := by
  have hx : ∀ u t c pc ev, Does 0xffffffffeff u t → Does 0xffffffffeff u (t.exception n c pc ev) :=
    fun u t c pc ev q => Does.andThen (State.exception_does _ _ _ _ _) q (by decide)
  unfold State.customOp
  extract_lets e d op
  refine State.issue_does _ _ _ _ (by decide) fun t ht => ?_
  extract_lets pc
  split
  · exact hx _ _ _ _ _ ht
  split
  · exact hx _ _ _ _ _ (Does.andThen (State.tableUe_does _ _) ht (by decide))
  split
  · exact hx _ _ _ _ _ ht
  · split; rename_i h
    refine Does.cutSnd h (Does.andThen (State.microStart_does _ _ _ _) (Does.andThen Does.setCore ht (by decide)) (by decide)) fun q => ?_
    rename_i p x u
    have hr := State.microrun_does u n (d.testBit 30) ecc word (bits d 7 0) (bits d 24 16) x
    split <;> rename_i e2
    · rw [e2] at hr
      exact Does.andThen (State.finish_does _ _ _) (Does.andThen hr q (by decide)) (by decide)
    · rw [e2] at hr
      exact Does.andThen hr q (by decide)
    · rw [e2] at hr
      exact hx _ _ _ _ _ (Does.ite (Does.andThen (State.tableUe_does _ _) (Does.andThen hr q (by decide)) (by decide)) (Does.andThen hr q (by decide)))

theorem runHelm_does (eccs : List Ecc) (s : State) (x2 : Instr) : DoesOut 0xffffffffeff s (runHelm eccs s x2) := by
  cases x2
  case add => exact DoesOut.mono (execAdd_does _ _ _ _ _) rfl
  case sub => exact DoesOut.mono (execSub_does _ _ _ _ _) rfl
  case and => exact DoesOut.mono (execAnd_does _ _ _ _ _) rfl
  case or => exact DoesOut.mono (execOr_does _ _ _ _ _) rfl
  case xor => exact DoesOut.mono (execXor_does _ _ _ _ _) rfl
  case sll => exact DoesOut.mono (execSll_does _ _ _ _ _) rfl
  case srl => exact DoesOut.mono (execSrl_does _ _ _ _ _) rfl
  case sra => exact DoesOut.mono (execSra_does _ _ _ _ _) rfl
  case slt => exact DoesOut.mono (execSlt_does _ _ _ _ _) rfl
  case sltu => exact DoesOut.mono (execSltu_does _ _ _ _ _) rfl
  case min => exact DoesOut.mono (execMin_does _ _ _ _ _) rfl
  case max => exact DoesOut.mono (execMax_does _ _ _ _ _) rfl
  case minu => exact DoesOut.mono (execMinu_does _ _ _ _ _) rfl
  case maxu => exact DoesOut.mono (execMaxu_does _ _ _ _ _) rfl
  case adds => exact DoesOut.mono (execAdds_does _ _ _ _ _) rfl
  case subs => exact DoesOut.mono (execSubs_does _ _ _ _ _) rfl
  case clz => exact DoesOut.mono (execClz_does _ _ _ _) rfl
  case abs => exact DoesOut.mono (execAbs_does _ _ _ _) rfl
  case addi => exact DoesOut.mono (execAddi_does _ _ _ _ _) rfl
  case andi => exact DoesOut.mono (execAndi_does _ _ _ _ _) rfl
  case ori => exact DoesOut.mono (execOri_does _ _ _ _ _) rfl
  case xori => exact DoesOut.mono (execXori_does _ _ _ _ _) rfl
  case slti => exact DoesOut.mono (execSlti_does _ _ _ _ _) rfl
  case sltiu => exact DoesOut.mono (execSltiu_does _ _ _ _ _) rfl
  case shi => exact DoesOut.mono (execShi_does _ _ _ _ _ _) rfl
  case lui => exact DoesOut.mono (execLui_does _ _ _ _) rfl
  case lw => exact DoesOut.mono (execLw_does _ _ _ _ _ _) rfl
  case lh => exact DoesOut.mono (execLh_does _ _ _ _ _ _) rfl
  case lhu => exact DoesOut.mono (execLhu_does _ _ _ _ _ _) rfl
  case lb => exact DoesOut.mono (execLb_does _ _ _ _ _ _) rfl
  case lbu => exact DoesOut.mono (execLbu_does _ _ _ _ _ _) rfl
  case sw => exact DoesOut.mono (execSw_does _ _ _ _ _) rfl
  case sh => exact DoesOut.mono (execSh_does _ _ _ _ _) rfl
  case sb => exact DoesOut.mono (execSb_does _ _ _ _ _) rfl
  case beq => exact DoesOut.mono (execBeq_does _ _ _ _ _) rfl
  case bne => exact DoesOut.mono (execBne_does _ _ _ _ _) rfl
  case blt => exact DoesOut.mono (execBlt_does _ _ _ _ _) rfl
  case bge => exact DoesOut.mono (execBge_does _ _ _ _ _) rfl
  case bltu => exact DoesOut.mono (execBltu_does _ _ _ _ _) rfl
  case bgeu => exact DoesOut.mono (execBgeu_does _ _ _ _ _) rfl
  case j => exact DoesOut.mono (execJ_does _ _ _) rfl
  case jr => exact DoesOut.mono (execJr_does _ _ _) rfl
  case jalr => exact DoesOut.mono (execJalr_does _ _ _ _) rfl
  case call => exact DoesOut.mono (execCall_does _ _ _ _) rfl
  case callr => exact DoesOut.mono (execCallr_does _ _ _ _) rfl
  case ret => exact DoesOut.mono (execRet_does _ _ _ _) rfl
  case mul => exact DoesOut.mono (execMul_does _ _ _ _ _) rfl
  case mulu => exact DoesOut.mono (execMulu_does _ _ _ _ _) rfl
  case mac => exact DoesOut.mono (execMac_does _ _ _ _ _) rfl
  case macu => exact DoesOut.mono (execMacu_does _ _ _ _ _) rfl
  case msu => exact DoesOut.mono (execMsu_does _ _ _ _ _) rfl
  case macs => exact DoesOut.mono (execMacs_does _ _ _ _ _) rfl
  case mfmp => exact DoesOut.mono (execMfmp_does _ _ _ _ _ _ _) rfl
  case mtmp => exact DoesOut.mono (execMtmp_does _ _ _ _) rfl
  case mtmp2 => exact DoesOut.mono (execMtmp2_does _ _ _ _ _) rfl
  case div => exact DoesOut.mono (execDiv_does _ _ _ _ _) rfl
  case divu => exact DoesOut.mono (execDivu_does _ _ _ _ _) rfl
  case rem => exact DoesOut.mono (execRem_does _ _ _ _ _) rfl
  case remu => exact DoesOut.mono (execRemu_does _ _ _ _ _) rfl
  case mfs => exact DoesOut.mono (execMfs_does _ _ _ _) rfl
  case mts => exact DoesOut.mono (execMts_does _ _ _ _) rfl
  case hret => exact DoesOut.mono (execHret_does _ _) rfl
  case wfi => exact DoesOut.mono (execWfi_does _ _) rfl
  case fence => exact DoesOut.mono (execFence_does _ _) rfl
  case fenceI => exact DoesOut.mono (execFenceI_does _ _) rfl
  case breakI => exact DoesOut.mono (execBreakI_does _ _) rfl
  case trap => exact DoesOut.mono (execTrap_does _ _ _) rfl
  case atxch => exact DoesOut.mono (execAtxch_does _ _ _ _ _) rfl
  case atadd => exact DoesOut.mono (execAtadd_does _ _ _ _ _) rfl
  case atand => exact DoesOut.mono (execAtand_does _ _ _ _ _) rfl
  case atorr => exact DoesOut.mono (execAtorr_does _ _ _ _ _) rfl
  all_goals exact DoesOut.next (Does.refl _ _)

theorem execCustomInstruction_does (n : CoreN) (w : Word) (ecc : Option Nat) (fetch : Ecc) (chks : List Check) (s : State) : DoesOut 0xffffffffeff s (execCustomInstruction n w ecc fetch chks s) := by
  unfold execCustomInstruction
  dsimp only
  have hf := (State.fetchMeets_does s n fetch).mono (m := 0xffffffffeff) (by decide)
  generalize s.fetchMeets n fetch = r at hf
  have k : ∀ {o : Out}, DoesOut 0xffffffffeff r o → DoesOut 0xffffffffeff s o := fun h t e => hf.trans (h t e) (by decide)
  refine k (DoesOut.ite (DoesOut.mono (State.customOp_does _ _ _ _ _) (by decide)) ?_)
  split
  · exact DoesOut.mono (runHelm_does _ _ _) (by decide)
  · exact State.issue_does _ _ _ _ (by decide) fun t ht => Does.andThen (State.exception_does _ _ _ _ _) ht (by decide)

end Sys2Proof.Machine
end

