-- ==== Sys2Proof/Laws/Exec.lean ====
section
/-!
SUPPORT. The meaning of each command, so that no proof unfolds `exec`.
-/
namespace Sys2Proof.Machine
variable (s : State)

@[simp] theorem exec_periodMark : exec .periodMark s = execPeriodMark s := rfl
@[simp] theorem exec_marksEnable : exec .marksEnable s = execMarksEnable s := rfl
@[simp] theorem exec_marksDisable : exec .marksDisable s = execMarksDisable s := rfl
@[simp] theorem exec_markSourceWrite (chain : Bool) : exec (.markSourceWrite chain) s = execMarkSourceWrite chain s := rfl
@[simp] theorem exec_periodLengthWrite (pace : Fin 3) (v : Word) : exec (.periodLengthWrite pace v) s = execPeriodLengthWrite pace v s := rfl
@[simp] theorem exec_deadlineWrite (reg : Fin 3) (v : Word) : exec (.deadlineWrite reg v) s = execDeadlineWrite reg v s := rfl
@[simp] theorem exec_fixDeadline : exec .fixDeadline s = execFixDeadline s := rfl
@[simp] theorem exec_provisionalSend : exec .provisionalSend s = execProvisionalSend s := rfl
@[simp] theorem exec_provisionalGather (p : Slot) : exec (.provisionalGather p) s = execProvisionalGather p s := rfl
@[simp] theorem exec_searchDeadline : exec .searchDeadline s = execSearchDeadline s := rfl
@[simp] theorem exec_checkDeadline : exec .checkDeadline s = execCheckDeadline s := rfl
@[simp] theorem exec_commitDeadline : exec .commitDeadline s = execCommitDeadline s := rfl
@[simp] theorem exec_generalTimerFire (n : Fin 4) : exec (.generalTimerFire n) s = execGeneralTimerFire n s := rfl
@[simp] theorem exec_timerCompareWrite (n : Fin 4) (v : Word) : exec (.timerCompareWrite n v) s = execTimerCompareWrite n v s := rfl
@[simp] theorem exec_latch (p : Slot) (ue : Option (BitVec 16)) : exec (.latch p ue) s = execLatch p ue s := rfl
@[simp] theorem exec_launch (p : Slot) (now : Nat) : exec (.launch p now) s = execLaunch p now s := rfl
@[simp] theorem exec_fixReady (p : Slot) (now : Nat) (ue : Option (BitVec 16)) : exec (.fixReady p now ue) s = execFixReady p now ue s := rfl
@[simp] theorem exec_comparison (p : Slot) : exec (.comparison p) s = execComparison p s := rfl
@[simp] theorem exec_correctionSetup (p : Slot) : exec (.correctionSetup p) s = execCorrectionSetup p s := rfl
@[simp] theorem exec_closeRequest (p : Slot) (now : Nat) : exec (.closeRequest p now) s = execCloseRequest p now s := rfl
@[simp] theorem exec_budgetExpiry (p : Slot) : exec (.budgetExpiry p) s = execBudgetExpiry p s := rfl
@[simp] theorem exec_treeExhausted (p : Slot) (now : Nat) : exec (.treeExhausted p now) s = execTreeExhausted p now s := rfl
@[simp] theorem exec_batchIssue (c : Cl) : exec (.batchIssue c) s = execBatchIssue c s := rfl
@[simp] theorem exec_batchLanding (c : Cl) (f : LaneFault) : exec (.batchLanding c f) s = execBatchLanding c f s := rfl
@[simp] theorem exec_refinedBound (c : Cl) (i : Nat) : exec (.refinedBound c i) s = execRefinedBound c i s := rfl
@[simp] theorem exec_shiftedSeedOffer (p : Slot) : exec (.shiftedSeedOffer p) s = execShiftedSeedOffer p s := rfl
@[simp] theorem exec_chartSeedOffer (p : Slot) : exec (.chartSeedOffer p) s = execChartSeedOffer p s := rfl
@[simp] theorem exec_sharingPoint (p : Slot) : exec (.sharingPoint p) s = execSharingPoint p s := rfl
@[simp] theorem exec_sharingWrite (p : Slot) : exec (.sharingWrite p) s = execSharingWrite p s := rfl
@[simp] theorem exec_stealTransfer (c : Cl) : exec (.stealTransfer c) s = execStealTransfer c s := rfl
@[simp] theorem exec_deterministicDeal (p : Slot) : exec (.deterministicDeal p) s = execDeterministicDeal p s := rfl
@[simp] theorem exec_chartStep (p : Slot) (now : Nat) : exec (.chartStep p now) s = execChartStep p now s := rfl
@[simp] theorem exec_deterministicComparison (p : Slot) : exec (.deterministicComparison p) s = execDeterministicComparison p s := rfl
@[simp] theorem exec_deterministicClose (p : Slot) : exec (.deterministicClose p) s = execDeterministicClose p s := rfl
@[simp] theorem exec_finalGather (p : Slot) : exec (.finalGather p) s = execFinalGather p s := rfl
@[simp] theorem exec_duplexVerdict (p : Slot) : exec (.duplexVerdict p) s = execDuplexVerdict p s := rfl
@[simp] theorem exec_shadowEvaluation (c : Cl) : exec (.shadowEvaluation c) s = execShadowEvaluation c s := rfl
@[simp] theorem exec_shadowVerdict (p : Slot) (copyOk : Bool) : exec (.shadowVerdict p copyOk) s = execShadowVerdict p copyOk s := rfl
@[simp] theorem exec_resultRecordWrite (p : Slot) : exec (.resultRecordWrite p) s = execResultRecordWrite p s := rfl
@[simp] theorem exec_selection (p : Slot) (a : ArmN) : exec (.selection p a) s = execSelection p a s := rfl
@[simp] theorem exec_downlinkFrameSend (l : LaneN) : exec (.downlinkFrameSend l) s = execDownlinkFrameSend l s := rfl
@[simp] theorem exec_switchCountDecay (a : ArmN) : exec (.switchCountDecay a) s = execSwitchCountDecay a s := rfl
@[simp] theorem exec_cntclr : exec .cntclr s = execCntclr s := rfl
@[simp] theorem exec_laneEnable (l : LaneN) : exec (.laneEnable l) s = execLaneEnable l s := rfl
@[simp] theorem exec_laneDisable (l : LaneN) : exec (.laneDisable l) s = execLaneDisable l s := rfl
@[simp] theorem exec_blockLockAcquired (k : Link) : exec (.blockLockAcquired k) s = execBlockLockAcquired k s := rfl
@[simp] theorem exec_blockLockLost (k : Link) : exec (.blockLockLost k) s = execBlockLockLost k s := rfl
@[simp] theorem exec_decho (l : LaneN) (typ token : Byte) (turn : BitVec 16) (rtt : Nat) : exec (.decho l typ token turn rtt) s = execDecho l typ token turn rtt s := rfl
@[simp] theorem exec_ack (l : LaneN) (typ seq : Byte) (hub : HubN) (result : Byte) : exec (.ack l typ seq hub result) s = execAck l typ seq hub result s := rfl
@[simp] theorem exec_ackTimeout (l : LaneN) (seq : Byte) : exec (.ackTimeout l seq) s = execAckTimeout l seq s := rfl
@[simp] theorem exec_uplinkFrame (l : LaneN) (bytes : List Byte) : exec (.uplinkFrame l bytes) s = execUplinkFrame l bytes s := rfl
@[simp] theorem exec_hcdlWrite (upofs : Bool) (v : Word) : exec (.hcdlWrite upofs v) s = execHcdlWrite upofs v s := rfl
@[simp] theorem exec_roleWrite (role : Bool) : exec (.roleWrite role) s = execRoleWrite role s := rfl
@[simp] theorem exec_hubMark (h : HubN) (samples : List Sample) : exec (.hubMark h samples) s = execHubMark h samples s := rfl
@[simp] theorem exec_hubMarkBlock (h : HubN) (portB : Bool) (pcnt : BitVec 16) (ofs : BitVec 7) (role : Bool) (len : BitVec 24) : exec (.hubMarkBlock h portB pcnt ofs role len) s = execHubMarkBlock h portB pcnt ofs role len s := rfl
@[simp] theorem exec_hubMarkAbsent (h : HubN) : exec (.hubMarkAbsent h) s = execHubMarkAbsent h s := rfl
@[simp] theorem exec_hubDownlinkFrame (h : HubN) (portB : Bool) (bytes : List Byte) (tNs : Nat) : exec (.hubDownlinkFrame h portB bytes tNs) s = execHubDownlinkFrame h portB bytes tNs s := rfl
@[simp] theorem exec_hubDreq (h : HubN) (portB : Bool) (typ token : Byte) (turn : BitVec 16) : exec (.hubDreq h portB typ token turn) s = execHubDreq h portB typ token turn s := rfl
@[simp] theorem exec_hubUplink (h : HubN) (portB : Bool) (supply : Bool) : exec (.hubUplink h portB supply) s = execHubUplink h portB supply s := rfl
@[simp] theorem exec_hubUnconfigure (h : HubN) : exec (.hubUnconfigure h) s = execHubUnconfigure h s := rfl
@[simp] theorem exec_captureRecord (withheld : Bool) (edcs : List Nat) : exec (.captureRecord withheld edcs) s = execCaptureRecord withheld edcs s := rfl
@[simp] theorem exec_captureTrigger (src : Fin 6) : exec (.captureTrigger src) s = execCaptureTrigger src s := rfl
@[simp] theorem exec_trig : exec .trig s = execTrig s := rfl
@[simp] theorem exec_freeze : exec .freeze s = execFreeze s := rfl
@[simp] theorem exec_captureResume : exec .captureResume s = execCaptureResume s := rfl
@[simp] theorem exec_clear : exec .clear s = execClear s := rfl
@[simp] theorem exec_postTriggerEnd : exec .postTriggerEnd s = execPostTriggerEnd s := rfl
@[simp] theorem exec_ringScan (met : Met) : exec (.ringScan met) s = execRingScan met s := rfl
@[simp] theorem exec_begin_ (b : Buf) : exec (.begin_ b) s = execBegin b s := rfl
@[simp] theorem exec_verify (b : Buf) : exec (.verify b) s = execVerify b s := rfl
@[simp] theorem exec_verificationDone (b : Buf) (met : Met) : exec (.verificationDone b met) s = execVerificationDone b met s := rfl
@[simp] theorem exec_activate (b : Buf) : exec (.activate b) s = execActivate b s := rfl
@[simp] theorem exec_deactivate : exec .deactivate s = execDeactivate s := rfl
@[simp] theorem exec_abort (b : Buf) : exec (.abort b) s = execAbort b s := rfl
@[simp] theorem exec_build (b : Buf) (met : Met) : exec (.build b met) s = execBuild b met s := rfl
@[simp] theorem exec_chartLookup (p : Slot) (chks : List Check) (now : Nat) : exec (.chartLookup p chks now) s = execChartLookup p chks now s := rfl
@[simp] theorem exec_buildEntry (c : Cl) (met : Met) : exec (.buildEntry c met) s = execBuildEntry c met s := rfl
@[simp] theorem exec_chartReverify (met : Met) : exec (.chartReverify met) s = execChartReverify met s := rfl
@[simp] theorem exec_backgroundVerify (met : Met) : exec (.backgroundVerify met) s = execBackgroundVerify met s := rfl
@[simp] theorem exec_powerupSelftest (pass : BitVec 16) : exec (.powerupSelftest pass) s = execPowerupSelftest pass s := rfl
@[simp] theorem exec_selftestSegmentStart : exec .selftestSegmentStart s = execSelftestSegmentStart s := rfl
@[simp] theorem exec_selftestSegmentEnd (ok : Bool) : exec (.selftestSegmentEnd ok) s = execSelftestSegmentEnd ok s := rfl
@[simp] theorem exec_selftestSlotEnd : exec .selftestSlotEnd s = execSelftestSlotEnd s := rfl
@[simp] theorem exec_stenWrite (en : Bool) : exec (.stenWrite en) s = execStenWrite en s := rfl
@[simp] theorem exec_clexclWrite (v : BitVec 16) : exec (.clexclWrite v) s = execClexclWrite v s := rfl
@[simp] theorem exec_gddr6Access (u : MemUser) (addr : Nat) (size : Nat) (data : Option (List Byte)) (chk : Check) : exec (.gddr6Access u addr size data chk) s = execGddr6Access u addr size data chk s := rfl
@[simp] theorem exec_trainingStart : exec .trainingStart s = execTrainingStart s := rfl
@[simp] theorem exec_trainingDone (pass : BitVec 8) (eye : Vector Byte 8) : exec (.trainingDone pass eye) s = execTrainingDone pass eye s := rfl
@[simp] theorem exec_shortRetrain (c : ChanN) (ok : Bool) (eye : Byte) : exec (.shortRetrain c ok eye) s = execShortRetrain c ok eye s := rfl
@[simp] theorem exec_exclWrite (v : BitVec 8) : exec (.exclWrite v) s = execExclWrite v s := rfl
@[simp] theorem exec_perBankRefresh (c : ChanN) (bank : Fin 16) : exec (.perBankRefresh c bank) s = execPerBankRefresh c bank s := rfl
@[simp] theorem exec_temperatureReadout (c : ChanN) (t : Int) : exec (.temperatureReadout c t) s = execTemperatureReadout c t s := rfl
@[simp] theorem exec_scrub (chk : Check) : exec (.scrub chk) s = execScrub chk s := rfl
@[simp] theorem exec_arbitrationWindow : exec .arbitrationWindow s = execArbitrationWindow s := rfl
@[simp] theorem exec_selfRefreshEntry (ok : Bool) : exec (.selfRefreshEntry ok) s = execSelfRefreshEntry ok s := rfl
@[simp] theorem exec_selfRefreshExit : exec .selfRefreshExit s = execSelfRefreshExit s := rfl
@[simp] theorem exec_safeinRequest (lowNs : Nat) : exec (.safeinRequest lowNs) s = execSafeinRequest lowNs s := rfl
@[simp] theorem exec_safeinReleaseEdge (lowMs : Nat) : exec (.safeinReleaseEdge lowMs) s = execSafeinReleaseEdge lowMs s := rfl
@[simp] theorem exec_ss1Timeout : exec .ss1Timeout s = execSs1Timeout s := rfl
@[simp] theorem exec_storeq : exec .storeq s = execStoreq s := rfl
@[simp] theorem exec_ss1req : exec .ss1req s = execSs1req s := rfl
@[simp] theorem exec_release : exec .release s = execRelease s := rfl
@[simp] theorem exec_keepaliveStop : exec .keepaliveStop s = execKeepaliveStop s := rfl
@[simp] theorem exec_outputTest (o : Fin 4) (step : Fin 5) : exec (.outputTest o step) s = execOutputTest o step s := rfl
@[simp] theorem exec_outputFault (o : Fin 4) (high : Bool) (ns : Nat) : exec (.outputFault o high ns) s = execOutputFault o high ns s := rfl
@[simp] theorem exec_lockstepMismatch (i : Nat) (b : LsOut) : exec (.lockstepMismatch i b) s = execLockstepMismatch i b s := rfl
@[simp] theorem exec_islandSelftest (ok : Bool) : exec (.islandSelftest ok) s = execIslandSelftest ok s := rfl
@[simp] theorem exec_watchdogService (key : Word) : exec (.watchdogService key) s = execWatchdogService key s := rfl
@[simp] theorem exec_watchdogTimeout : exec .watchdogTimeout s = execWatchdogTimeout s := rfl
@[simp] theorem exec_markNotice (bytes : List Byte) : exec (.markNotice bytes) s = execMarkNotice bytes s := rfl
@[simp] theorem exec_decisionReport (bytes : List Byte) : exec (.decisionReport bytes) s = execDecisionReport bytes s := rfl
@[simp] theorem exec_missNotice (bytes : List Byte) : exec (.missNotice bytes) s = execMissNotice bytes s := rfl
@[simp] theorem exec_reportTimeout : exec .reportTimeout s = execReportTimeout s := rfl
@[simp] theorem exec_dpfWindow : exec .dpfWindow s = execDpfWindow s := rfl
@[simp] theorem exec_pairedSafeAtMark : exec .pairedSafeAtMark s = execPairedSafeAtMark s := rfl
@[simp] theorem exec_selftestReport (c : Cl) (pass : Bool) : exec (.selftestReport c pass) s = execSelftestReport c pass s := rfl
@[simp] theorem exec_latentTimeout (c : Cl) : exec (.latentTimeout c) s = execLatentTimeout c s := rfl
@[simp] theorem exec_junctionOvertemp (above : Bool) : exec (.junctionOvertemp above) s = execJunctionOvertemp above s := rfl
@[simp] theorem exec_chainFrameReceive (p : ChPort) (k : ChLane) (bytes : List Byte) : exec (.chainFrameReceive p k bytes) s = execChainFrameReceive p k bytes s := rfl
@[simp] theorem exec_rdreq (p : ChPort) (pilot : Bool) (src : Fin 64) (tag : BitVec 16) (addr : BitVec 40) (nw : Byte) (chks : List Check) : exec (.rdreq p pilot src tag addr nw chks) s = execRdreq p pilot src tag addr nw chks s := rfl
@[simp] theorem exec_wrreq (p : ChPort) (pilot : Bool) (src : Fin 64) (tag : BitVec 16) (addr : BitVec 40) (ws : List Word) (chks : List Check) : exec (.wrreq p pilot src tag addr ws chks) s = execWrreq p pilot src tag addr ws chks s := rfl
@[simp] theorem exec_blkwr (src : Fin 64) (tag : BitVec 16) (addr : BitVec 40) (start : Bool) (bseq : BitVec 16) (data : List Byte) (chks : List Check) : exec (.blkwr src tag addr start bseq data chks) s = execBlkwr src tag addr start bseq data chks s := rfl
@[simp] theorem exec_blkrd (src : Fin 64) (tag : BitVec 16) (addr : BitVec 40) (len : BitVec 16) : exec (.blkrd src tag addr len) s = execBlkrd src tag addr len s := rfl
@[simp] theorem exec_blkdataSend (chks : List Check) : exec (.blkdataSend chks) s = execBlkdataSend chks s := rfl
@[simp] theorem exec_enum (p : ChPort) (next : Byte) (fresh : Bool) : exec (.enum p next fresh) s = execEnum p next fresh s := rfl
@[simp] theorem exec_hb (pilot : Bool) (src : Fin 64) (payload : List Byte) : exec (.hb pilot src payload) s = execHb pilot src payload s := rfl
@[simp] theorem exec_pilotHb : exec .pilotHb s = execPilotHb s := rfl
@[simp] theorem exec_tkreq (src : Fin 64) (ccount : Word) (cause : Byte) : exec (.tkreq src ccount cause) s = execTkreq src ccount cause s := rfl
@[simp] theorem exec_tkconf (src : Fin 64) : exec (.tkconf src) s = execTkconf src s := rfl
@[simp] theorem exec_wake : exec .wake s = execWake s := rfl
@[simp] theorem exec_cmark (p : ChPort) (typ : Byte) (ccl ofs : BitVec 24) (hops : BitVec 6) (hi : Bool) (skew now : Nat) : exec (.cmark p typ ccl ofs hops hi skew now) s = execCmark p typ ccl ofs hops hi skew now s := rfl
@[simp] theorem exec_chainMark (now : Nat) : exec (.chainMark now) s = execChainMark now s := rfl
@[simp] theorem exec_flywheelMark : exec .flywheelMark s = execFlywheelMark s := rfl
@[simp] theorem exec_trimMark (p : ChPort) (cycles : Nat) : exec (.trimMark p cycles) s = execTrimMark p cycles s := rfl
@[simp] theorem exec_portDown (p : ChPort) : exec (.portDown p) s = execPortDown p s := rfl
@[simp] theorem exec_pilotSyncLoss (p : ChPort) : exec (.pilotSyncLoss p) s = execPilotSyncLoss p s := rfl
@[simp] theorem exec_chainDecho (p : ChPort) (token : Byte) (turn : BitVec 16) (rtt : Nat) : exec (.chainDecho p token turn rtt) s = execChainDecho p token turn rtt s := rfl
@[simp] theorem exec_chainDreq (p : ChPort) (token : Byte) (turn : BitVec 16) : exec (.chainDreq p token turn) s = execChainDreq p token turn s := rfl
@[simp] theorem exec_delayRemeasure (p : ChPort) : exec (.delayRemeasure p) s = execDelayRemeasure p s := rfl
@[simp] theorem exec_portRetry (p : ChPort) : exec (.portRetry p) s = execPortRetry p s := rfl
@[simp] theorem exec_transactionStart : exec .transactionStart s = execTransactionStart s := rfl
@[simp] theorem exec_commandWord (w : Word) : exec (.commandWord w) s = execCommandWord w s := rfl
@[simp] theorem exec_portRegisterWrite (w : Word) : exec (.portRegisterWrite w) s = execPortRegisterWrite w s := rfl
@[simp] theorem exec_portRegisterRead (edges : Fin 33) (mdi : Word) : exec (.portRegisterRead edges mdi) s = execPortRegisterRead edges mdi s := rfl
@[simp] theorem exec_windowWrite (w : Word) : exec (.windowWrite w) s = execWindowWrite w s := rfl
@[simp] theorem exec_windowWritePerform (chk : Check) : exec (.windowWritePerform chk) s = execWindowWritePerform chk s := rfl
@[simp] theorem exec_windowRead (mdi : Word) : exec (.windowRead mdi) s = execWindowRead mdi s := rfl
@[simp] theorem exec_windowAccessDone (inTime : Bool) (chk : Check) : exec (.windowAccessDone inTime chk) s = execWindowAccessDone inTime chk s := rfl
@[simp] theorem exec_transactionEnd (edges : Fin 32) (value : Word) : exec (.transactionEnd edges value) s = execTransactionEnd edges value s := rfl
@[simp] theorem exec_portWake : exec .portWake s = execPortWake s := rfl
@[simp] theorem exec_cdrst : exec .cdrst s = execCdrst s := rfl
@[simp] theorem exec_doorbellIn (bells : Word) : exec (.doorbellIn bells) s = execDoorbellIn bells s := rfl
@[simp] theorem exec_doorbellOut (bells : Word) : exec (.doorbellOut bells) s = execDoorbellOut bells s := rfl
@[simp] theorem exec_add (n : CoreN) (rd ra rb : RegN) : exec (.add n rd ra rb) s = execAdd n rd ra rb s := rfl
@[simp] theorem exec_sub (n : CoreN) (rd ra rb : RegN) : exec (.sub n rd ra rb) s = execSub n rd ra rb s := rfl
@[simp] theorem exec_and (n : CoreN) (rd ra rb : RegN) : exec (.and n rd ra rb) s = execAnd n rd ra rb s := rfl
@[simp] theorem exec_or (n : CoreN) (rd ra rb : RegN) : exec (.or n rd ra rb) s = execOr n rd ra rb s := rfl
@[simp] theorem exec_xor (n : CoreN) (rd ra rb : RegN) : exec (.xor n rd ra rb) s = execXor n rd ra rb s := rfl
@[simp] theorem exec_sll (n : CoreN) (rd ra rb : RegN) : exec (.sll n rd ra rb) s = execSll n rd ra rb s := rfl
@[simp] theorem exec_srl (n : CoreN) (rd ra rb : RegN) : exec (.srl n rd ra rb) s = execSrl n rd ra rb s := rfl
@[simp] theorem exec_sra (n : CoreN) (rd ra rb : RegN) : exec (.sra n rd ra rb) s = execSra n rd ra rb s := rfl
@[simp] theorem exec_slt (n : CoreN) (rd ra rb : RegN) : exec (.slt n rd ra rb) s = execSlt n rd ra rb s := rfl
@[simp] theorem exec_sltu (n : CoreN) (rd ra rb : RegN) : exec (.sltu n rd ra rb) s = execSltu n rd ra rb s := rfl
@[simp] theorem exec_min (n : CoreN) (rd ra rb : RegN) : exec (.min n rd ra rb) s = execMin n rd ra rb s := rfl
@[simp] theorem exec_max (n : CoreN) (rd ra rb : RegN) : exec (.max n rd ra rb) s = execMax n rd ra rb s := rfl
@[simp] theorem exec_minu (n : CoreN) (rd ra rb : RegN) : exec (.minu n rd ra rb) s = execMinu n rd ra rb s := rfl
@[simp] theorem exec_maxu (n : CoreN) (rd ra rb : RegN) : exec (.maxu n rd ra rb) s = execMaxu n rd ra rb s := rfl
@[simp] theorem exec_adds (n : CoreN) (rd ra rb : RegN) : exec (.adds n rd ra rb) s = execAdds n rd ra rb s := rfl
@[simp] theorem exec_subs (n : CoreN) (rd ra rb : RegN) : exec (.subs n rd ra rb) s = execSubs n rd ra rb s := rfl
@[simp] theorem exec_clz (n : CoreN) (rd ra : RegN) : exec (.clz n rd ra) s = execClz n rd ra s := rfl
@[simp] theorem exec_abs (n : CoreN) (rd ra : RegN) : exec (.abs n rd ra) s = execAbs n rd ra s := rfl
@[simp] theorem exec_addi (n : CoreN) (rd ra : RegN) (imm : BitVec 16) : exec (.addi n rd ra imm) s = execAddi n rd ra imm s := rfl
@[simp] theorem exec_andi (n : CoreN) (rd ra : RegN) (imm : BitVec 16) : exec (.andi n rd ra imm) s = execAndi n rd ra imm s := rfl
@[simp] theorem exec_ori (n : CoreN) (rd ra : RegN) (imm : BitVec 16) : exec (.ori n rd ra imm) s = execOri n rd ra imm s := rfl
@[simp] theorem exec_xori (n : CoreN) (rd ra : RegN) (imm : BitVec 16) : exec (.xori n rd ra imm) s = execXori n rd ra imm s := rfl
@[simp] theorem exec_slti (n : CoreN) (rd ra : RegN) (imm : BitVec 16) : exec (.slti n rd ra imm) s = execSlti n rd ra imm s := rfl
@[simp] theorem exec_sltiu (n : CoreN) (rd ra : RegN) (imm : BitVec 16) : exec (.sltiu n rd ra imm) s = execSltiu n rd ra imm s := rfl
@[simp] theorem exec_shi (n : CoreN) (rd ra : RegN) (k : Fin 4) (amt : Fin 32) : exec (.shi n rd ra k amt) s = execShi n rd ra k amt s := rfl
@[simp] theorem exec_lui (n : CoreN) (rd : RegN) (imm : BitVec 16) : exec (.lui n rd imm) s = execLui n rd imm s := rfl
@[simp] theorem exec_lw (n : CoreN) (rd ra : RegN) (imm : BitVec 16) (ecc : Ecc) : exec (.lw n rd ra imm ecc) s = execLw n rd ra imm ecc s := rfl
@[simp] theorem exec_lh (n : CoreN) (rd ra : RegN) (imm : BitVec 16) (ecc : Ecc) : exec (.lh n rd ra imm ecc) s = execLh n rd ra imm ecc s := rfl
@[simp] theorem exec_lhu (n : CoreN) (rd ra : RegN) (imm : BitVec 16) (ecc : Ecc) : exec (.lhu n rd ra imm ecc) s = execLhu n rd ra imm ecc s := rfl
@[simp] theorem exec_lb (n : CoreN) (rd ra : RegN) (imm : BitVec 16) (ecc : Ecc) : exec (.lb n rd ra imm ecc) s = execLb n rd ra imm ecc s := rfl
@[simp] theorem exec_lbu (n : CoreN) (rd ra : RegN) (imm : BitVec 16) (ecc : Ecc) : exec (.lbu n rd ra imm ecc) s = execLbu n rd ra imm ecc s := rfl
@[simp] theorem exec_loadReply (n : CoreN) (chk : Check) (stall : Nat) : exec (.loadReply n chk stall) s = execLoadReply n chk stall s := rfl
@[simp] theorem exec_sw (n : CoreN) (rs ra : RegN) (imm : BitVec 16) : exec (.sw n rs ra imm) s = execSw n rs ra imm s := rfl
@[simp] theorem exec_sh (n : CoreN) (rs ra : RegN) (imm : BitVec 16) : exec (.sh n rs ra imm) s = execSh n rs ra imm s := rfl
@[simp] theorem exec_sb (n : CoreN) (rs ra : RegN) (imm : BitVec 16) : exec (.sb n rs ra imm) s = execSb n rs ra imm s := rfl
@[simp] theorem exec_postedStoreComplete (n : CoreN) (chk : Check) : exec (.postedStoreComplete n chk) s = execPostedStoreComplete n chk s := rfl
@[simp] theorem exec_beq (n : CoreN) (ra rb : RegN) (off : BitVec 16) : exec (.beq n ra rb off) s = execBeq n ra rb off s := rfl
@[simp] theorem exec_bne (n : CoreN) (ra rb : RegN) (off : BitVec 16) : exec (.bne n ra rb off) s = execBne n ra rb off s := rfl
@[simp] theorem exec_blt (n : CoreN) (ra rb : RegN) (off : BitVec 16) : exec (.blt n ra rb off) s = execBlt n ra rb off s := rfl
@[simp] theorem exec_bge (n : CoreN) (ra rb : RegN) (off : BitVec 16) : exec (.bge n ra rb off) s = execBge n ra rb off s := rfl
@[simp] theorem exec_bltu (n : CoreN) (ra rb : RegN) (off : BitVec 16) : exec (.bltu n ra rb off) s = execBltu n ra rb off s := rfl
@[simp] theorem exec_bgeu (n : CoreN) (ra rb : RegN) (off : BitVec 16) : exec (.bgeu n ra rb off) s = execBgeu n ra rb off s := rfl
@[simp] theorem exec_j (n : CoreN) (off : BitVec 26) : exec (.j n off) s = execJ n off s := rfl
@[simp] theorem exec_jr (n : CoreN) (ra : RegN) : exec (.jr n ra) s = execJr n ra s := rfl
@[simp] theorem exec_jalr (n : CoreN) (rd ra : RegN) : exec (.jalr n rd ra) s = execJalr n rd ra s := rfl
@[simp] theorem exec_call (n : CoreN) (mask : BitVec 10) (off : BitVec 16) : exec (.call n mask off) s = execCall n mask off s := rfl
@[simp] theorem exec_callr (n : CoreN) (mask : BitVec 10) (ra : RegN) : exec (.callr n mask ra) s = execCallr n mask ra s := rfl
@[simp] theorem exec_ret (n : CoreN) (mask : BitVec 10) (eccs : List Ecc) : exec (.ret n mask eccs) s = execRet n mask eccs s := rfl
@[simp] theorem exec_mul (n : CoreN) (m : Fin 4) (ra rb : RegN) : exec (.mul n m ra rb) s = execMul n m ra rb s := rfl
@[simp] theorem exec_mulu (n : CoreN) (m : Fin 4) (ra rb : RegN) : exec (.mulu n m ra rb) s = execMulu n m ra rb s := rfl
@[simp] theorem exec_mac (n : CoreN) (m : Fin 4) (ra rb : RegN) : exec (.mac n m ra rb) s = execMac n m ra rb s := rfl
@[simp] theorem exec_macu (n : CoreN) (m : Fin 4) (ra rb : RegN) : exec (.macu n m ra rb) s = execMacu n m ra rb s := rfl
@[simp] theorem exec_msu (n : CoreN) (m : Fin 4) (ra rb : RegN) : exec (.msu n m ra rb) s = execMsu n m ra rb s := rfl
@[simp] theorem exec_macs (n : CoreN) (m : Fin 4) (ra rb : RegN) : exec (.macs n m ra rb) s = execMacs n m ra rb s := rfl
@[simp] theorem exec_mpWriteLand (n : CoreN) : exec (.mpWriteLand n) s = execMpWriteLand n s := rfl
@[simp] theorem exec_mfmp (n : CoreN) (rd : RegN) (m : Fin 4) (sh : Fin 64) (rnd sat : Bool) : exec (.mfmp n rd m sh rnd sat) s = execMfmp n rd m sh rnd sat s := rfl
@[simp] theorem exec_mtmp (n : CoreN) (m : Fin 4) (ra : RegN) : exec (.mtmp n m ra) s = execMtmp n m ra s := rfl
@[simp] theorem exec_mtmp2 (n : CoreN) (m : Fin 4) (ra rb : RegN) : exec (.mtmp2 n m ra rb) s = execMtmp2 n m ra rb s := rfl
@[simp] theorem exec_div (n : CoreN) (rd ra rb : RegN) : exec (.div n rd ra rb) s = execDiv n rd ra rb s := rfl
@[simp] theorem exec_divu (n : CoreN) (rd ra rb : RegN) : exec (.divu n rd ra rb) s = execDivu n rd ra rb s := rfl
@[simp] theorem exec_rem (n : CoreN) (rd ra rb : RegN) : exec (.rem n rd ra rb) s = execRem n rd ra rb s := rfl
@[simp] theorem exec_remu (n : CoreN) (rd ra rb : RegN) : exec (.remu n rd ra rb) s = execRemu n rd ra rb s := rfl
@[simp] theorem exec_mfs (n : CoreN) (rd : RegN) (idx : Byte) : exec (.mfs n rd idx) s = execMfs n rd idx s := rfl
@[simp] theorem exec_mts (n : CoreN) (ra : RegN) (idx : Byte) : exec (.mts n ra idx) s = execMts n ra idx s := rfl
@[simp] theorem exec_lstest (hit : Bool) : exec (.lstest hit) s = execLstest hit s := rfl
@[simp] theorem exec_hret (n : CoreN) : exec (.hret n) s = execHret n s := rfl
@[simp] theorem exec_wfi (n : CoreN) : exec (.wfi n) s = execWfi n s := rfl
@[simp] theorem exec_fence (n : CoreN) : exec (.fence n) s = execFence n s := rfl
@[simp] theorem exec_fenceI (n : CoreN) : exec (.fenceI n) s = execFenceI n s := rfl
@[simp] theorem exec_breakI (n : CoreN) : exec (.breakI n) s = execBreakI n s := rfl
@[simp] theorem exec_trap (n : CoreN) (code : Fin 32) : exec (.trap n code) s = execTrap n code s := rfl
@[simp] theorem exec_atxch (n : CoreN) (rd ra rb : RegN) : exec (.atxch n rd ra rb) s = execAtxch n rd ra rb s := rfl
@[simp] theorem exec_atadd (n : CoreN) (rd ra rb : RegN) : exec (.atadd n rd ra rb) s = execAtadd n rd ra rb s := rfl
@[simp] theorem exec_atand (n : CoreN) (rd ra rb : RegN) : exec (.atand n rd ra rb) s = execAtand n rd ra rb s := rfl
@[simp] theorem exec_atorr (n : CoreN) (rd ra rb : RegN) : exec (.atorr n rd ra rb) s = execAtorr n rd ra rb s := rfl
@[simp] theorem exec_interruptTake (n : CoreN) : exec (.interruptTake n) s = execInterruptTake n s := rfl
@[simp] theorem exec_interruptRaise (n : CoreN) (line : Fin 18) : exec (.interruptRaise n line) s = execInterruptRaise n line s := rfl
@[simp] theorem exec_tcmpMatch (n : CoreN) : exec (.tcmpMatch n) s = execTcmpMatch n s := rfl
@[simp] theorem exec_customInstruction (n : CoreN) (w : Word) (ecc : Option Nat) (fetch : Ecc) (chks : List Check) : exec (.customInstruction n w ecc fetch chks) s = execCustomInstruction n w ecc fetch chks s := rfl
@[simp] theorem exec_decodeTableWrite (n : Fin 8) (off : BitVec 13) (v : Word) : exec (.decodeTableWrite n off v) s = execDecodeTableWrite n off v s := rfl
@[simp] theorem exec_coreRun (n : Fin 8) : exec (.coreRun n) s = execCoreRun n s := rfl
@[simp] theorem exec_coreHalt (n : Fin 8) : exec (.coreHalt n) s = execCoreHalt n s := rfl
@[simp] theorem exec_haltComplete (n : Fin 8) : exec (.haltComplete n) s = execHaltComplete n s := rfl
@[simp] theorem exec_coreReset (n : Fin 8) : exec (.coreReset n) s = execCoreReset n s := rfl
@[simp] theorem exec_bootRecall (half : List (Fin 2 × Fin 256)) (lines : Nat) : exec (.bootRecall half lines) s = execBootRecall half lines s := rfl
@[simp] theorem exec_bootPort (sfdp : Option Sfdp) : exec (.bootPort sfdp) s = execBootPort sfdp s := rfl
@[simp] theorem exec_bootSlot : exec .bootSlot s = execBootSlot s := rfl
@[simp] theorem exec_bootCdpwr (ok : Bool) : exec (.bootCdpwr ok) s = execBootCdpwr ok s := rfl
@[simp] theorem exec_bootStage (met : Met) : exec (.bootStage met) s = execBootStage met s := rfl
@[simp] theorem exec_bootGddr6 (met : Met) : exec (.bootGddr6 met) s = execBootGddr6 met s := rfl
@[simp] theorem exec_bootSelftest : exec .bootSelftest s = execBootSelftest s := rfl
@[simp] theorem exec_bootChain : exec .bootChain s = execBootChain s := rfl
@[simp] theorem exec_bootChart : exec .bootChart s = execBootChart s := rfl
@[simp] theorem exec_bootTimeout : exec .bootTimeout s = execBootTimeout s := rfl
@[simp] theorem exec_bootRetry : exec .bootRetry s = execBootRetry s := rfl
@[simp] theorem exec_done : exec .done s = execDone s := rfl
@[simp] theorem exec_chartskip : exec .chartskip s = execChartskip s := rfl
@[simp] theorem exec_chartfail : exec .chartfail s = execChartfail s := rfl
@[simp] theorem exec_reboot : exec .reboot s = execReboot s := rfl
@[simp] theorem exec_bootErase (slot : Fin 2) : exec (.bootErase slot) s = execBootErase slot s := rfl
@[simp] theorem exec_bootProgram (slot : Fin 2) : exec (.bootProgram slot) s = execBootProgram slot s := rfl
@[simp] theorem exec_bootOperationDone (timedOut : Bool) : exec (.bootOperationDone timedOut) s = execBootOperationDone timedOut s := rfl
@[simp] theorem exec_raise : exec .raise s = execRaise s := rfl
@[simp] theorem exec_clrdeg : exec .clrdeg s = execClrdeg s := rfl
@[simp] theorem exec_bootRead (slot : Fin 2) : exec (.bootRead slot) s = execBootRead slot s := rfl
@[simp] theorem exec_warmRestart (ok : Bool) : exec (.warmRestart ok) s = execWarmRestart ok s := rfl
@[simp] theorem exec_computeDieReset (ok : Bool) : exec (.computeDieReset ok) s = execComputeDieReset ok s := rfl
@[simp] theorem exec_binnacleReset (refToggling : Bool) : exec (.binnacleReset refToggling) s = execBinnacleReset refToggling s := rfl
@[simp] theorem exec_program (r : Requester) : exec (.program r) s = execProgram r s := rfl
@[simp] theorem exec_erase (r : Requester) : exec (.erase r) s = execErase r s := rfl
@[simp] theorem exec_suspend : exec .suspend s = execSuspend s := rfl
@[simp] theorem exec_resume : exec .resume s = execResume s := rfl
@[simp] theorem exec_mcheck : exec .mcheck s = execMcheck s := rfl
@[simp] theorem exec_refresh (r : Requester) : exec (.refresh r) s = execRefresh r s := rfl
@[simp] theorem exec_flashOperationDone (linesDiffer : Nat) : exec (.flashOperationDone linesDiffer) s = execFlashOperationDone linesDiffer s := rfl
@[simp] theorem exec_flashAutoResume : exec .flashAutoResume s = execFlashAutoResume s := rfl
@[simp] theorem exec_writeProtect (hi : Bool) (v : Word) : exec (.writeProtect hi v) s = execWriteProtect hi v s := rfl
@[simp] theorem exec_recordStoreRecall : exec .recordStoreRecall s = execRecordStoreRecall s := rfl
@[simp] theorem exec_counterIncrement (mask : Byte) : exec (.counterIncrement mask) s = execCounterIncrement mask s := rfl
@[simp] theorem exec_paceRequest (v : Fin 4) : exec (.paceRequest v) s = execPaceRequest v s := rfl
@[simp] theorem exec_pllLock (ok : Bool) : exec (.pllLock ok) s = execPllLock ok s := rfl
@[simp] theorem exec_voltageSettled : exec .voltageSettled s = execVoltageSettled s := rfl
@[simp] theorem exec_clockMonitorWindow (c : Clock) (count : Nat) (nominal : Nat) (farEnd : Option (Nat × Bool)) : exec (.clockMonitorWindow c count nominal farEnd) s = execClockMonitorWindow c count nominal farEnd s := rfl
@[simp] theorem exec_droop (cycles : Nat) : exec (.droop cycles) s = execDroop cycles s := rfl
@[simp] theorem exec_gateClose (b : Blk) : exec (.gateClose b) s = execGateClose b s := rfl
@[simp] theorem exec_gateClosed (b : Blk) (forced : Bool) : exec (.gateClosed b forced) s = execGateClosed b forced s := rfl
@[simp] theorem exec_gateOpen (b : Blk) : exec (.gateOpen b) s = execGateOpen b s := rfl
@[simp] theorem exec_blockReset (b : Blk) : exec (.blockReset b) s = execBlockReset b s := rfl
@[simp] theorem exec_blockResetRelease (b : Blk) : exec (.blockResetRelease b) s = execBlockResetRelease b s := rfl
@[simp] theorem exec_supplyWarning (u : Supply) : exec (.supplyWarning u) s = execSupplyWarning u s := rfl
@[simp] theorem exec_supplyResetCrossing (u : Supply) : exec (.supplyResetCrossing u) s = execSupplyResetCrossing u s := rfl
@[simp] theorem exec_mainInputRestored : exec .mainInputRestored s = execMainInputRestored s := rfl
@[simp] theorem exec_governorEvaluation (pMeas : Nat) (lanes : Nat) (coldplate : Int) : exec (.governorEvaluation pMeas lanes coldplate) s = execGovernorEvaluation pMeas lanes coldplate s := rfl
@[simp] theorem exec_idle : exec .idle s = execIdle s := rfl
@[simp] theorem exec_run : exec .run s = execRun s := rfl
@[simp] theorem exec_stby : exec .stby s = execStby s := rfl
@[simp] theorem exec_dorm : exec .dorm s = execDorm s := rfl
@[simp] theorem exec_idleTimeout : exec .idleTimeout s = execIdleTimeout s := rfl
@[simp] theorem exec_standbyTimeout : exec .standbyTimeout s = execStandbyTimeout s := rfl
@[simp] theorem exec_dormantTimeout : exec .dormantTimeout s = execDormantTimeout s := rfl
@[simp] theorem exec_wakeTimer : exec .wakeTimer s = execWakeTimer s := rfl
@[simp] theorem exec_wakePin (level : Bool) (edge : Bool) : exec (.wakePin level edge) s = execWakePin level edge s := rfl
@[simp] theorem exec_wakeTaken : exec .wakeTaken s = execWakeTaken s := rfl
@[simp] theorem exec_pinConfigWrite (n : Fin 96) (v : Word) : exec (.pinConfigWrite n v) s = execPinConfigWrite n v s := rfl
@[simp] theorem exec_eventInputEdge (n : Fin 96) (rising : Bool) : exec (.eventInputEdge n rising) s = execEventInputEdge n rising s := rfl
@[simp] theorem exec_eventChannel (c : Fin 32) (dt now : Nat) (sameCycle : Bool) : exec (.eventChannel c dt now sameCycle) s = execEventChannel c dt now sameCycle s := rfl
@[simp] theorem exec_eventOutputPulseEnd (i : Fin 32) : exec (.eventOutputPulseEnd i) s = execEventOutputPulseEnd i s := rfl
@[simp] theorem exec_bridgeEvent (code : Byte) : exec (.bridgeEvent code) s = execBridgeEvent code s := rfl
@[simp] theorem exec_softwareEvent (mask : Byte) : exec (.softwareEvent mask) s = execSoftwareEvent mask s := rfl
@[simp] theorem exec_stormReenable (mask : Word) : exec (.stormReenable mask) s = execStormReenable mask s := rfl
@[simp] theorem exec_subscriptionWrite (k : Fin 280) (v : Word) : exec (.subscriptionWrite k v) s = execSubscriptionWrite k v s := rfl
@[simp] theorem exec_producerWrite (c : Fin 32) (v : Word) : exec (.producerWrite c v) s = execProducerWrite c v s := rfl
@[simp] theorem exec_plotSlot (e : Fin 4) (now : Nat) : exec (.plotSlot e now) s = execPlotSlot e now s := rfl
@[simp] theorem exec_branch (e : Fin 4) (c : Fin 16) (dly : Fin 16) (cond : Fin 8) (tgt : BitVec 7) : exec (.branch e c dly cond tgt) s = execBranch e c dly cond tgt s := rfl
@[simp] theorem exec_hold (e : Fin 4) (c : Fin 16) (dly : Fin 16) (src : Fin 4) (pol : Bool) (idx : Fin 16) : exec (.hold e c dly src pol idx) s = execHold e c dly src pol idx s := rfl
@[simp] theorem exec_drive (e : Fin 4) (c : Fin 16) (dly : Fin 16) (oe val : Bool) : exec (.drive e c dly oe val) s = execDrive e c dly oe val s := rfl
@[simp] theorem exec_shift (e : Fin 4) (c : Fin 16) (dly : Fin 16) (dir lsb : Bool) (idx : Fin 16) : exec (.shift e c dly dir lsb idx) s = execShift e c dly dir lsb idx s := rfl
@[simp] theorem exec_take (e : Fin 4) (c : Fin 16) (dly : Fin 16) (nb : Bool) (len : Fin 32) : exec (.take e c dly nb len) s = execTake e c dly nb len s := rfl
@[simp] theorem exec_give (e : Fin 4) (c : Fin 16) (dly : Fin 16) (nb : Bool) : exec (.give e c dly nb) s = execGive e c dly nb s := rfl
@[simp] theorem exec_copy (e : Fin 4) (c : Fin 16) (dly : Fin 16) (dst : Fin 4) (src : Fin 7) (now : Nat) : exec (.copy e c dly dst src now) s = execCopy e c dly dst src now s := rfl
@[simp] theorem exec_load (e : Fin 4) (c : Fin 16) (dly : Fin 16) (regB : Bool) (imm : BitVec 16) : exec (.load e c dly regB imm) s = execLoad e c dly regB imm s := rfl
@[simp] theorem exec_signal (e : Fin 4) (c : Fin 16) (dly : Fin 16) (kind : Fin 4) : exec (.signal e c dly kind) s = execSignal e c dly kind s := rfl
@[simp] theorem exec_plotRun (e : Fin 4) (mask : BitVec 16) : exec (.plotRun e mask) s = execPlotRun e mask s := rfl
@[simp] theorem exec_plotHalt (e : Fin 4) (mask : BitVec 16) : exec (.plotHalt e mask) s = execPlotHalt e mask s := rfl
@[simp] theorem exec_txqWrite (e : Fin 4) (c : Fin 16) (v : Word) : exec (.txqWrite e c v) s = execTxqWrite e c v s := rfl
@[simp] theorem exec_rxqRead (e : Fin 4) (c : Fin 16) : exec (.rxqRead e c) s = execRxqRead e c s := rfl
@[simp] theorem exec_joinWrite (e : Fin 4) (c : Fin 16) (join : Fin 4) : exec (.joinWrite e c join) s = execJoinWrite e c join s := rfl
@[simp] theorem exec_txEntryAppend (i : Fin 6) (v : Word) : exec (.txEntryAppend i v) s = execTxEntryAppend i v s := rfl
@[simp] theorem exec_rxRead (i : Fin 6) : exec (.rxRead i) s = execRxRead i s := rfl
@[simp] theorem exec_go (i : Fin 6) : exec (.go i) s = execGo i s := rfl
@[simp] theorem exec_serialAbort (i : Fin 6) : exec (.serialAbort i) s = execSerialAbort i s := rfl
@[simp] theorem exec_serialWordDone (i : Fin 6) (rx : Word) : exec (.serialWordDone i rx) s = execSerialWordDone i rx s := rfl
@[simp] theorem exec_serialTransferStart (i : Fin 6) : exec (.serialTransferStart i) s = execSerialTransferStart i s := rfl
@[simp] theorem exec_ckdivWrite (i : Fin 6) (v : Word) : exec (.ckdivWrite i v) s = execCkdivWrite i v s := rfl
@[simp] theorem exec_mpinOutWrite (r : Requester) (v : Word) : exec (.mpinOutWrite r v) s = execMpinOutWrite r v s := rfl
@[simp] theorem exec_safetyWordStart (r : Requester) (i : Fin 2) (v : Word) : exec (.safetyWordStart r i v) s = execSafetyWordStart r i v s := rfl
@[simp] theorem exec_safetyWordDone (i : Fin 2) (rx : Word) (atMark : Bool) : exec (.safetyWordDone i rx atMark) s = execSafetyWordDone i rx atMark s := rfl
@[simp] theorem exec_registerReadClear (r : Requester) (addr : BitVec 40) (set : Word) (chk : Check) : exec (.registerReadClear r addr set chk) s = execRegisterReadClear r addr set chk s := rfl
@[simp] theorem exec_registerWrite (r : Requester) (addr : BitVec 40) (v set clr : Word) (same : List Access) (chk : Check) : exec (.registerWrite r addr v set clr same chk) s = execRegisterWrite r addr v set clr same chk s := rfl
@[simp] theorem exec_pilotSyncAcquired (p : ChPort) : exec (.pilotSyncAcquired p) s = execPilotSyncAcquired p s := rfl
@[simp] theorem exec_trimMarkSend : exec .trimMarkSend s = execTrimMarkSend s := rfl
@[simp] theorem exec_hubPowerUp (h : HubN) (dual : Bool) : exec (.hubPowerUp h dual) s = execHubPowerUp h dual s := rfl

end Sys2Proof.Machine
end

