-- ==== Sys2Proof/Laws/Frame.lean ====
section
/-!
SUPPORT. How a `Frame` is shown: one lemma per update, and from what an operation can do (`Does`).
-/
namespace Sys2Proof.Machine

variable {ps : List Part} {rs : Nat → Prop} {s t u : State}

theorem Frame.refl (ps : List Part) (rs : Nat → Prop) (s : State) : Frame ps rs s s :=
  ⟨fun p _ => p.same_refl s, fun _ _ => rfl, rfl⟩
theorem Frame.trans (h : Frame ps rs s t) (k : Frame ps rs t u) : Frame ps rs s u :=
  ⟨fun p hp => Part.same_trans (h.1 p hp) (k.1 p hp), fun a ha => (k.2.1 a ha).trans (h.2.1 a ha), k.2.2.trans h.2.2⟩
theorem Frame.wr {a v : Nat} (h : Frame ps rs s t) (ha : rs a) : Frame ps rs s (t.wr a v) :=
  h.trans ⟨fun p _ => by cases p <;> first | rfl | (intro a; rfl), fun b hb => by rw [State.rd_wr_ne]; rintro rfl; exact hb ha, rfl⟩
theorem Frame.setFld {a hi lo v : Nat} (h : Frame ps rs s t) (ha : rs a) : Frame ps rs s (t.setFld a hi lo v) := h.wr ha
theorem Frame.setBit {a i : Nat} {b : Bool} (h : Frame ps rs s t) (ha : rs a) : Frame ps rs s (t.setBit a i b) := h.wr ha
theorem Frame.orReg {a k : Nat} (h : Frame ps rs s t) (ha : rs a) : Frame ps rs s (t.orReg a k) := h.wr ha
theorem Frame.clrReg {a k : Nat} (h : Frame ps rs s t) (ha : rs a) : Frame ps rs s (t.clrReg a k) := h.wr ha
theorem Frame.count {a hi lo k : Nat} (h : Frame ps rs s t) (ha : rs a) : Frame ps rs s (t.count a hi lo k) := h.wr ha
theorem Frame.ite {c : Prop} [Decidable c] (h : Frame ps rs s t) (k : Frame ps rs s u) : Frame ps rs s (if c then t else u) := by
  split <;> assumption
theorem Frame.each {α : Type} {f : State → α → State} {l : List α} (h : Frame ps rs s t)
    (k : ∀ u x, Frame ps rs s u → Frame ps rs s (f u x)) : Frame ps rs s (t.each l f) := by
  unfold State.each
  induction l generalizing t with
  | nil => exact h
  | cons x l ih => exact ih (k t x h)

/-- The footprint m names no register but those of the pages at `bases`. -/
def footPages (m : Nat) (bases : List Nat) : Bool :=
  !m.testBit 42 &&
  (List.range 14).all (fun k => !m.testBit (22 + k) || bases.contains (0x4000000000 + 0x10000 * k)) &&
  (List.range 6).all (fun k => !m.testBit (36 + k) || bases.contains (0x5000000000 + 0x10000 * k))
/-- The footprint m names no part but those of `ps`. -/
def footParts (m : Nat) (ps : List Part) : Bool :=
  [Part.mem, .per, .probs, .cls, .rot, .chart, .cell, .lanes, .hubs, .cap, .gmem, .saf, .chain, .port, .cores, .boot, .flash, .clk,
    .pins, .io, .notices, .freeCtr, .flaws].all fun p => !m.testBit p.idx || ps.contains p

theorem footParts_testBit {m : Nat} {p : Part} (h : footParts m ps = true) (hp : p ∉ ps) : m.testBit p.idx = false := by
  have h2 : ∀ q : Part, (!m.testBit q.idx || ps.contains q) = true := by
    intro q
    simp only [footParts, List.all_cons, List.all_nil, Bool.and_eq_true, Bool.and_true] at h
    cases q <;> tauto
  have := h2 p
  simp [hp] at this
  exact this
theorem footPages_testBit {m a : Nat} {bases : List Nat} (h : footPages m bases = true) (ha : ¬ pagesOf bases a) :
    m.testBit (pageBit a) = false := by
  simp only [footPages, Bool.and_eq_true, List.all_eq_true, List.mem_range] at h
  obtain ⟨⟨h1, h2⟩, h3⟩ := h
  unfold pageBit
  split
  · rename_i hr
    have hk : (a - 0x4000000000) / 0x10000 < 14 := by omega
    have := h2 _ hk
    by_contra hc
    simp only [Bool.not_eq_false] at hc
    simp only [hc, Bool.not_true, Bool.false_or, List.contains_iff_mem] at this
    exact ha ⟨_, this, by omega, by omega⟩
  · split
    · rename_i hr
      have hk : (a - 0x5000000000) / 0x10000 < 6 := by omega
      have := h3 _ hk
      by_contra hc
      simp only [Bool.not_eq_false] at hc
      simp only [hc, Bool.not_true, Bool.false_or, List.contains_iff_mem] at this
      exact ha ⟨_, this, by omega, by omega⟩
    · simpa using h1

/-- An operation whose footprint lies in the frame. -/
theorem Frame.does {m : Nat} (k : Does m t u) (h : Frame ps rs s t) (hp : footParts m ps = true)
    (hr : ∀ a, ¬ rs a → m.testBit (pageBit a) = false) : Frame ps rs s u :=
  h.trans ⟨fun p hn => k.part p (footParts_testBit hp hn), fun a ha => k.reg a (hr a ha), k.pending⟩
theorem Frame.doesPages {m : Nat} {bases : List Nat} (k : Does m t u) (h : Frame ps (pagesOf bases) s t) (hp : footParts m ps = true)
    (hr : footPages m bases = true) : Frame ps (pagesOf bases) s u :=
  Frame.does k h hp fun _ => footPages_testBit hr
/-- An operation on no register. -/
theorem Frame.doesNone {m : Nat} (k : Does m t u) (h : Frame ps rs s t) (hp : footParts m ps = true)
    (hr : m < 0x400000) : Frame ps rs s u :=
  Frame.does k h hp fun a _ => Nat.testBit_lt_two_pow (Nat.lt_of_lt_of_le hr (by
    have := (pageBit_range a).1
    exact Nat.pow_le_pow_right (n := 2) (by decide) this))
/-- Any register may differ. -/
theorem Frame.doesAny {m : Nat} (k : Does m t u) (h : Frame ps (fun _ => True) s t) (hp : footParts m ps = true) :
    Frame ps (fun _ => True) s u := Frame.does k h hp fun _ ha => absurd trivial ha

theorem Frame.upd_per {x : Per} (h : Frame ps rs s t) (hp : Part.per ∈ ps) : Frame ps rs s { t with per := x } :=
  h.trans ⟨fun p hn => by cases p <;> first | rfl | (intro a; rfl) | exact absurd hp hn, fun _ _ => rfl, rfl⟩
theorem Frame.upd_probs {x : Vector Problem 4} (h : Frame ps rs s t) (hp : Part.probs ∈ ps) : Frame ps rs s { t with probs := x } :=
  h.trans ⟨fun p hn => by cases p <;> first | rfl | (intro a; rfl) | exact absurd hp hn, fun _ _ => rfl, rfl⟩
theorem Frame.upd_cls {x : Vector Cluster 16} (h : Frame ps rs s t) (hp : Part.cls ∈ ps) : Frame ps rs s { t with cls := x } :=
  h.trans ⟨fun p hn => by cases p <;> first | rfl | (intro a; rfl) | exact absurd hp hn, fun _ _ => rfl, rfl⟩
theorem Frame.upd_rot {x : Rotation} (h : Frame ps rs s t) (hp : Part.rot ∈ ps) : Frame ps rs s { t with rot := x } :=
  h.trans ⟨fun p hn => by cases p <;> first | rfl | (intro a; rfl) | exact absurd hp hn, fun _ _ => rfl, rfl⟩
theorem Frame.upd_chart {x : Chart} (h : Frame ps rs s t) (hp : Part.chart ∈ ps) : Frame ps rs s { t with chart := x } :=
  h.trans ⟨fun p hn => by cases p <;> first | rfl | (intro a; rfl) | exact absurd hp hn, fun _ _ => rfl, rfl⟩
theorem Frame.upd_cell {x : CellUnit} (h : Frame ps rs s t) (hp : Part.cell ∈ ps) : Frame ps rs s { t with cell := x } :=
  h.trans ⟨fun p hn => by cases p <;> first | rfl | (intro a; rfl) | exact absurd hp hn, fun _ _ => rfl, rfl⟩
theorem Frame.upd_lanes {x : Vector Lane 64} (h : Frame ps rs s t) (hp : Part.lanes ∈ ps) : Frame ps rs s { t with lanes := x } :=
  h.trans ⟨fun p hn => by cases p <;> first | rfl | (intro a; rfl) | exact absurd hp hn, fun _ _ => rfl, rfl⟩
theorem Frame.upd_hubs {x : Vector Hub 64} (h : Frame ps rs s t) (hp : Part.hubs ∈ ps) : Frame ps rs s { t with hubs := x } :=
  h.trans ⟨fun p hn => by cases p <;> first | rfl | (intro a; rfl) | exact absurd hp hn, fun _ _ => rfl, rfl⟩
theorem Frame.upd_cap {x : Cap} (h : Frame ps rs s t) (hp : Part.cap ∈ ps) : Frame ps rs s { t with cap := x } :=
  h.trans ⟨fun p hn => by cases p <;> first | rfl | (intro a; rfl) | exact absurd hp hn, fun _ _ => rfl, rfl⟩
theorem Frame.upd_gmem {x : Mem} (h : Frame ps rs s t) (hp : Part.gmem ∈ ps) : Frame ps rs s { t with gmem := x } :=
  h.trans ⟨fun p hn => by cases p <;> first | rfl | (intro a; rfl) | exact absurd hp hn, fun _ _ => rfl, rfl⟩
theorem Frame.upd_saf {x : Saf} (h : Frame ps rs s t) (hp : Part.saf ∈ ps) : Frame ps rs s { t with saf := x } :=
  h.trans ⟨fun p hn => by cases p <;> first | rfl | (intro a; rfl) | exact absurd hp hn, fun _ _ => rfl, rfl⟩
theorem Frame.upd_chain {x : Chain} (h : Frame ps rs s t) (hp : Part.chain ∈ ps) : Frame ps rs s { t with chain := x } :=
  h.trans ⟨fun p hn => by cases p <;> first | rfl | (intro a; rfl) | exact absurd hp hn, fun _ _ => rfl, rfl⟩
theorem Frame.upd_port {x : Port} (h : Frame ps rs s t) (hp : Part.port ∈ ps) : Frame ps rs s { t with port := x } :=
  h.trans ⟨fun p hn => by cases p <;> first | rfl | (intro a; rfl) | exact absurd hp hn, fun _ _ => rfl, rfl⟩
theorem Frame.upd_cores {x : Vector Core 10} (h : Frame ps rs s t) (hp : Part.cores ∈ ps) : Frame ps rs s { t with cores := x } :=
  h.trans ⟨fun p hn => by cases p <;> first | rfl | (intro a; rfl) | exact absurd hp hn, fun _ _ => rfl, rfl⟩
theorem Frame.upd_boot {x : Boot} (h : Frame ps rs s t) (hp : Part.boot ∈ ps) : Frame ps rs s { t with boot := x } :=
  h.trans ⟨fun p hn => by cases p <;> first | rfl | (intro a; rfl) | exact absurd hp hn, fun _ _ => rfl, rfl⟩
theorem Frame.upd_flash {x : Flash} (h : Frame ps rs s t) (hp : Part.flash ∈ ps) : Frame ps rs s { t with flash := x } :=
  h.trans ⟨fun p hn => by cases p <;> first | rfl | (intro a; rfl) | exact absurd hp hn, fun _ _ => rfl, rfl⟩
theorem Frame.upd_clk {x : Clk} (h : Frame ps rs s t) (hp : Part.clk ∈ ps) : Frame ps rs s { t with clk := x } :=
  h.trans ⟨fun p hn => by cases p <;> first | rfl | (intro a; rfl) | exact absurd hp hn, fun _ _ => rfl, rfl⟩
theorem Frame.upd_pins {x : Pins} (h : Frame ps rs s t) (hp : Part.pins ∈ ps) : Frame ps rs s { t with pins := x } :=
  h.trans ⟨fun p hn => by cases p <;> first | rfl | (intro a; rfl) | exact absurd hp hn, fun _ _ => rfl, rfl⟩
theorem Frame.upd_io {x : Io} (h : Frame ps rs s t) (hp : Part.io ∈ ps) : Frame ps rs s { t with io := x } :=
  h.trans ⟨fun p hn => by cases p <;> first | rfl | (intro a; rfl) | exact absurd hp hn, fun _ _ => rfl, rfl⟩
theorem Frame.upd_notices {x : List (List Byte)} (h : Frame ps rs s t) (hp : Part.notices ∈ ps) : Frame ps rs s { t with notices := x } :=
  h.trans ⟨fun p hn => by cases p <;> first | rfl | (intro a; rfl) | exact absurd hp hn, fun _ _ => rfl, rfl⟩
theorem Frame.upd_freeCtr {x : Nat} (h : Frame ps rs s t) (hp : Part.freeCtr ∈ ps) : Frame ps rs s { t with freeCtr := x } :=
  h.trans ⟨fun p hn => by cases p <;> first | rfl | (intro a; rfl) | exact absurd hp hn, fun _ _ => rfl, rfl⟩
theorem Frame.upd_flaws {x : List Nat} (h : Frame ps rs s t) (hp : Part.flaws ∈ ps) : Frame ps rs s { t with flaws := x } :=
  h.trans ⟨fun p hn => by cases p <;> first | rfl | (intro a; rfl) | exact absurd hp hn, fun _ _ => rfl, rfl⟩
theorem Frame.setByte {a : Nat} {b : Byte} (h : Frame ps rs s t) (hp : Part.mem ∈ ps) : Frame ps rs s (t.setByte a b) :=
  h.trans ⟨fun p hn => by cases p <;> first | rfl | exact absurd hp hn, fun _ _ => rfl, rfl⟩
theorem Frame.setProb {p : Slot} {q : Problem} (h : Frame ps rs s t) (hp : Part.probs ∈ ps) : Frame ps rs s (t.setProb p q) := h.upd_probs hp
theorem Frame.setCl {p : Cl} {q : Cluster} (h : Frame ps rs s t) (hp : Part.cls ∈ ps) : Frame ps rs s (t.setCl p q) := h.upd_cls hp
theorem Frame.setLane {p : LaneN} {q : Lane} (h : Frame ps rs s t) (hp : Part.lanes ∈ ps) : Frame ps rs s (t.setLane p q) := h.upd_lanes hp
theorem Frame.setHub {p : HubN} {q : Hub} (h : Frame ps rs s t) (hp : Part.hubs ∈ ps) : Frame ps rs s (t.setHub p q) := h.upd_hubs hp
theorem Frame.setCore {p : CoreN} {q : Core} (h : Frame ps rs s t) (hp : Part.cores ∈ ps) : Frame ps rs s (t.setCore p q) := h.upd_cores hp

/-- A command whose footprint lies in the frame. -/
theorem Frame.out {m : Nat} {o : Out} {bases : List Nat} (k : DoesOut m s o) (e : o = .next t) (hp : footParts m ps = true)
    (hr : footPages m bases = true) : Frame ps (pagesOf bases) s t := by
  exact Frame.doesPages (k t e) (Frame.refl _ _ _) hp hr
theorem Frame.outAny {m : Nat} {o : Out} (k : DoesOut m s o) (e : o = .next t) (hp : footParts m ps = true) :
    Frame ps (fun _ => True) s t := by
  exact Frame.doesAny (k t e) (Frame.refl _ _ _) hp
theorem Frame.outNone {m : Nat} {o : Out} (k : DoesOut m s o) (e : o = .next t) (hp : footParts m ps = true)
    (hr : m < 0x400000) : Frame ps rs s t := by
  exact Frame.doesNone (k t e) (Frame.refl _ _ _) hp hr

end Sys2Proof.Machine
end

