-- ==== Sys2Proof/Laws/LineCode.lean ====
section
/-!
SUPPORT. The descrambler undoes the scrambler (R194): bit by bit, over a list of bits, and over a block.
-/
namespace Sys2Proof.Machine

theorem unscrambleBit_scrambleBit (r : BitVec 58) (b : Bool) : unscrambleBit r (scrambleBit r b).2 = ((scrambleBit r b).1, b) := by
  simp only [unscrambleBit, scrambleBit, Prod.mk.injEq, true_and]
  cases b <;> cases r.getLsbD 38 <;> cases r.getLsbD 57 <;> rfl

theorem throughBits_undo (r : BitVec 58) (bs : List Bool) :
    throughBits unscrambleBit r (throughBits scrambleBit r bs).2 = ((throughBits scrambleBit r bs).1, bs) := by
  induction bs generalizing r with
  | nil => rfl
  | cons b bs ih => simp only [throughBits, unscrambleBit_scrambleBit, ih]

theorem throughBits_length (f : BitVec 58 → Bool → BitVec 58 × Bool) (r : BitVec 58) (bs : List Bool) :
    (throughBits f r bs).2.length = bs.length := by
  induction bs generalizing r with
  | nil => rfl
  | cons b bs ih => simp only [throughBits, List.length_cons, ih]

theorem Block66.sync_scramble (r : BitVec 58) (b : Block66) : (b.scramble r).2.sync = b.sync := by
  unfold Block66.scramble
  generalize throughBits scrambleBit r (lineBits b.pay) = x
  cases x; rfl

end Sys2Proof.Machine
end

