-- ==== Sys2Proof/Tests/Slice0.lean ====
section
/-!
SUPPORT. Small tests: an ill-formed term for each check of well-formedness, values that the manual works out, and for each statement a
state and operands that meet its hypotheses.
-/
namespace Sys2Proof.Tests
open Sys2Proof Sys2Proof.Machine
-- the tests are evaluated one after another: together they need too many threads at a time
set_option Elab.async false

/-- The module in Run: every block acts. -/
def live : State := { State.reset with clk := { State.reset.clk with power := .run, cdUp := true } }
/-- The state s in phase ph of slot 1, whose problem is q. -/
def slot1 (s : State) (ph : Nat) (q : Problem) : State := (s.setProb 1 q).setPhase 1 ph
/-- A problem of one cluster, 0, that a mark has launched. -/
def oneCl : Problem := { emask := 1, byMark := true, launched := true, enabled := true }
/-- An incumbent, a tree node, a batch. -/
def inc1 : Inc := { cost := 7, course := [[1]], src := 1 }
def node1 : Node := { d := 0, pfx := [], x := [], acc := 0, lb := 0, seen := true }
/-- Cluster 0 works for slot 1. -/
def owned (s : State) (k : Cluster) : State := s.setCl 0 { k with owner := some 1 }
/-- A period runs. -/
def ticking (s : State) (p : Per) : State := { s with per := { p with running := true } }


/-! ## Well-formedness: one ill-formed command for each check -/

theorem test_wf_cycle : wellFormed (.launch 0 (2 ^ 21)) = false ∧ wellFormed (.launch 0 (2 ^ 21 - 1)) = true := by decide
theorem test_wf_samples : wellFormed (.hubMark 0 (List.replicate 17 ⟨0, 0, 0, false, false, false, 0, 0, 0⟩)) = false := by decide
theorem test_wf_access : wellFormed (.gddr6Access (.req .dma) 0 64 (some [0]) {}) = false ∧ wellFormed (.gddr6Access (.req .dma) 0 0 none {}) = false ∧
    wellFormed (.gddr6Access .builder 0 64 none {}) = true := by decide
theorem test_wf_chain_frame : wellFormed (.chainFrameReceive .up .d0 [1, 2]) = false := by decide
theorem test_wf_wrreq : wellFormed (.wrreq .up true 0 0 0 [0, 0, 0] []) = false ∧ wellFormed (.wrreq .up false 0 0 0 [0, 0, 0] []) = true := by decide
theorem test_wf_bulk : wellFormed (.blkwr 0 0 0 true 0 [1, 2, 3] []) = false := by decide
theorem test_wf_hb : wellFormed (.hb true 0 (List.replicate 17 0)) = false := by decide
theorem test_wf_table_offset : wellFormed (.decodeTableWrite 0 0x1400 0) = false ∧ wellFormed (.decodeTableWrite 0 2 0) = false := by decide
theorem test_wf_register_address : wellFormed (.registerWrite .mgmt 2 0 0 0 [] {}) = false ∧
    wellFormed (.registerWrite .mgmt 4 0 0 0 [⟨.dma, 6, none, {}⟩] {}) = false ∧ wellFormed (.registerReadClear .mgmt 1 0 {}) = false := by decide
theorem test_wf_temperature : wellFormed (.temperatureReadout 0 32768) = false := by decide

/-! ## States that meet the hypotheses of the statements, clause by clause -/

theorem test_hyp_EveryCommandAnswers : State.reset.canonical = true := by decide
theorem test_hyp_StepKeepsCanonical : step { State.reset with pending := [.cntclr] } = .next State.reset := rfl
theorem test_hyp_EmptyQueueIdles : State.reset.pending = [] := by decide

theorem test_hyp_PeriodPageWrites : live.live .per = true ∧ (ticking live {}).live .per = true ∧ live.per.running = false ∧
    live.per.firstPending = false ∧ live.bit perCtrl 31 = false ∧ (live.setBit perCtrl 31 true).live .per = true ∧
    (live.setBit perCtrl 31 true).bit perCtrl 31 = true ∧ (lenRange 0).1 ≤ (lenRange 0).2 ∧ (lenRange 0).2 < 2 ^ 21 ∧ 0 < (lenRange 0).1 := by
  decide
theorem test_hyp_Marks : (ticking live {}).perActs = true ∧ (ticking live { stopPending := true }).perActs = true ∧
    (ticking live { chainSrc := true }).perActs = true ∧
    ({ ticking live { chainSrc := true } with chain := { pendMark := some (5, 0, .up) } }.chainCount 0).1 = some 5 ∧
    (ticking live { chainSrc := true }).chain.pendMark = none ∧ live.live .chn = true := by decide
theorem test_hyp_Deadlines : (ticking live {}).live .per = true ∧ (ticking live { fixPassed := true }).per.provPassed = false ∧
    (ticking live { provPassed := true }).per.srchPassed = false ∧ (ticking live { srchPassed := true }).per.chkPassed = false ∧
    (ticking live { chkPassed := true }).per.commitPassed = false ∧
    ((ticking live {}).wr (perTmrCtrl 0) 1).bit (perTmrCtrl 0) 0 = true ∧ ((ticking live {}).wr (perTmrCtrl 0) 1).rd (perTmrCmp 0) < live.per.len ∧
    ((ticking live { tmrCur := Vector.replicate 4 9 }).wr (perTmrCtrl 0) 3).bit (perTmrCtrl 0) 1 = true := by decide
theorem test_hyp_LaunchAndLatch : live.live .srch = true ∧ (slotTable live 0).enable = false ∧ (slotTable live 0).runahead = false ∧
    (live.prob 0).launched = false ∧ live.per.srchPassed = false ∧ { live with rot := { powerupDone := true } }.rot.powerupDone = true ∧
    (slotTable (live.setByte (slotBase 0 + 11) 0x80) 0).enable = true ∧ (slot1 live 1 {}).phase 1 = 1 ∧ (slot1 live 1 { code := 3, enabled := true }).phase 1 = 1 := by decide
theorem test_hyp_SearchLoop : let s := slot1 live 2 oneCl
    s.live .srch = true ∧ s.phase 1 = 2 ∧ ((owned s { frontier := [node1] }).cl 0).owner = some 1 ∧ oneCl.emask.testBit 0 = true ∧
    ((owned s {}).cl 0).frontier = [] ∧ oneCl.tbl.determ = false ∧ oneCl.stage1 = false ∧ oneCl.chWait = none ∧ oneCl.gathered = false ∧
    oneCl.tbl.check ≠ 2 ∧ ((owned s { flight := [⟨node1, []⟩] }).cl 0).flight = [⟨node1, []⟩] ∧
    ((owned s { frontier := [node1] }).cl 0).frontier[0]? = some node1 ∧ node1.seen = true ∧ node1.refined = false ∧
    ((slot1 live 2 { oneCl with steals := [⟨1, 0, [node1]⟩] }).prob 1).steals.find? (fun x => x.taker == 0) = some ⟨1, 0, [node1]⟩ ∧
    (clsOf oneCl.emask).head? = some 0 ∧ ((slot1 live 2 { oneCl with stage1 := true }).prob 1).stage1 = true ∧ oneCl.lvl = [] ∧ oneCl.nxt = [] ∧
    ((slot1 live 2 { oneCl with share := some inc1 }).prob 1).share = some inc1 ∧
    ((owned (slot1 live 2 { oneCl with tbl := { check := 1 } }) { inc := some inc1 }).cl 0).inc = some inc1 ∧
    ((slot1 live 2 { oneCl with tbl := { check := 1 } }).prob 1).tbl.check = 1 := by decide
theorem test_hyp_SeedsAndFix : (slot1 live 2 { oneCl with shifted := some [[1]], shiftPend := true }).phase 1 = 2 ∧
    (slot1 live 3 { oneCl with seedPend := some [[1]] }).phase 1 = 3 ∧ (slot1 live 1 { oneCl with tbl := { determ := true } }).phase 1 = 1 ∧
    oneCl.chStepped = false ∧ oneCl.byMark = true ∧ oneCl.fixRdy = false ∧
    ((slot1 live 2 { oneCl with byMark := false }).setBit (srchPstat 1) 3 true).bit (srchPstat 1) 3 = true ∧
    (slot1 live 2 { oneCl with byMark := false }).bit (srchPstat 1) 3 = false ∧
    (slot1 live 2 { oneCl with fixRdy := true }).comparable 1 = true ∧
    (slot1 (ticking live { fixPassed := true }) 2 { oneCl with fixRdy := true, tbl := { determ := true } }).comparable 1 = true ∧
    (slot1 live 3 oneCl).phase 1 = 3 := by decide
theorem test_hyp_Closing : (slot1 live 2 oneCl).phase 1 = 2 ∧ (slot1 live 1 oneCl).phase 1 = 1 ∧ live.phase 1 = 0 ∧ (slot1 live 4 oneCl).phase 1 = 4 ∧
    (slot1 live 3 { oneCl with tbl := { budget := 300 } }).phase 1 = 3 ∧ 0 + (300 + oneCl.stall) < (slot1 live 3 oneCl).dlFc 2 ∧
    (slot1 live 2 oneCl).exhausted 1 = true ∧ ({ oneCl with tbl := { determ := true, budget := 300 } } : Problem).chWait = none ∧
    0 + (Nat.max (live.sClose { oneCl with tbl := { determ := true, budget := 300 } }) 256 + 0) ≤ live.dlFc 2 := by decide
theorem test_hyp_GatherAndVerdict : ((slot1 live 2 { oneCl with provGather := some [1] }).prob 1).provGather = some [1] ∧
    oneCl.decided = false ∧ oneCl.recDue = false ∧ live.per.srchPassed = false ∧
    (slot1 live 4 { oneCl with compared := true }).phase 1 = 4 ∧ live.fixSettled { oneCl with compared := true } = true ∧
    (slot1 live 4 oneCl).bestOf 1 = none ∧ ((slot1 live 4 oneCl).cl 0).flight = [] ∧ oneCl.tbl.chart ≠ 2 ∧
    ((owned (slot1 live 4 { oneCl with compared := true }) { inc := some inc1 }).drain 1).bestOf 1 = some inc1 ∧
    (slot1 live 4 { oneCl with gathered := true }).awaiting 1 0 = true ∧
    (slot1 live 4 { oneCl with gathered := true, inc := some inc1, tbl := { check := 1 } }).awaiting 1 1 = true ∧
    ((slot1 live 5 { oneCl with recDue := true }).prob 1).recDue = true ∧ oneCl.recDone = false := by decide

/-- Slot 1 has a selection for arm 0 in the sorter. -/
def selecting : State :=
  { live with cell := { sels := Vector.replicate 4 { snap := some [⟨0, [], 0⟩], job := some { kind := 0x12, targets := [(0, 0)], todo := [0] } }, order := [1] } }
def frame1 : DFrame := { kind := 0x12, hub := 0, pcnt := 0, prob := 0, rtx := 0, seq := 3, words := [] }
/-- Cell lane 0 in state st, in block lock, with contents k. -/
def laned (st : Nat) (k : Lane) : State := ((live.setBit (cellLcfg 0) 31 true).setFld (cellLstat 0) 3 0 (8 + st)).setLane 0 k
/-- An uplink frame of n cells of hub 0 for period 0. -/
def uplink (n : Nat) : List Byte := withCrc ([1, 0, 0, 0, BitVec.ofNat 8 n, 0, 0, 0] ++ List.replicate (12 * n) 0)
/-- A frozen ring. -/
def frozen : State := live.setBit capStatus 31 true
def snap1 : Snap := ⟨5, 0, [], [], [], [], 0, 0, false⟩
theorem test_hyp_SelectionAndFrames : selecting.live .cell = true ∧ (selecting.cell.order.flatMap fun q => match selecting.cell.sels[q].job with
      | some j => j.todo.map fun b => (q, b)
      | none => []) = [(1, 0)] ∧
    ((laned 4 { queue := [frame1] }).lane 0).queue = [frame1] ∧ (laned 4 { queue := [frame1] }).fld (cellLstat 0) 2 0 = 4 ∧
    live.per.commitPassed = false ∧ (laned 3 {}).fld (cellLstat 0) 2 0 = 3 ∧ ({ live with cell := { due := [0] } } : State).cell.due.contains 0 = true := by
  decide
theorem test_hyp_LaneStates : live.live .cell = true ∧ live.laneEn 0 = false ∧ (laned 1 {}).laneEn 0 = true ∧ (laned 1 {}).laneState 0 = 1 ∧
    (laned 2 {}).laneRx 0 = true ∧ (laned 2 {}).laneState 0 = 2 ∧ (5 - (1 : BitVec 16).toNat) / 2 = 2 ∧
    dlyOf [20, 21, 22, 23, 24, 20, 20, 20] = some 20 ∧ dlyOf (List.replicate 8 100001) = some 100001 ∧ knownBlock 0x77 = false ∧
    ((laned 4 { await := [frame1] }).lane 0).await.find? (fun f => f.seq == 3) = some frame1 ∧ frame1.rtx < live.rtxMax ∧
    live.rtxMax ≤ ({ frame1 with rtx := 3 } : DFrame).rtx ∧ live.mayResend frame1 = true ∧
    (laned 3 { await := [{ frame1 with kind := 0x21 }] }).laneState 0 = 3 := by decide
theorem test_hyp_CellTraffic : (laned 4 {}).laneRx 0 = true ∧ (laned 4 {}).uplinkOk 0 (uplink 1) = true ∧ byteAt (uplink 1) 4 % 32 = 1 ∧
    (laned 4 {}).uplinkOk 0 (uplink 16) = true ∧ (laned 4 {}).uplinkOk 0 (uplink 0) = true ∧ (laned 4 {}).uplinkOk 0 [] = false ∧
    (laned 3 { hparMark := some 1 }).laneState 0 = 3 ∧ live.bit cellCtrl 31 = false ∧ live.rd cellHcdl ≠ 7 ∧
    (live.setBit cellCtrl 31 true).bit cellCtrl 31 = true := by decide +kernel
theorem test_hyp_Hubs : let k : Hub := { timed := true, configured := true, num := some 0, hcdl := some 9 }
    (live.setHub 0 k).hub 0 = k ∧ (live.hub 0).timed = false ∧ k.blockAll = false ∧ k.gotBlock = false ∧ ({ k with absent := 3 } : Hub).absent ≥ 3 ∧
    crcOk [] = false ∧ crcOk frame1.bytes = true ∧ parseFrame frame1.bytes = some frame1 ∧ frame1.wellFormed = true ∧ k.num = some frame1.hub ∧
    frame1.pcnt % 65536 = k.pcnt % 65536 ∧ ({ k with pcnt := 1 } : Hub).pcnt % 65536 ≠ frame1.pcnt ∧ ({ k with num := none } : Hub).num ≠ some frame1.hub := by decide +kernel
theorem test_hyp_CaptureRing : live.live .cap = true ∧ (live.wr capTrigen 0).bit capTrigen 1 = false ∧ (live.wr capTrigen 63).bit capTrigen 5 = true ∧
    frozen.bit capStatus 31 = true ∧ frozen.cap.resume = false ∧ live.bit capStatus 31 = false ∧ live.cap.trigged = false ∧
    ({ live with cap := { snap := some snap1 } } : State).cap.snap = some snap1 ∧ ringSize - live.rd capWptr ≥ recMax ∧ live.rd capWptr < ringSize ∧
    ({ live with cap := { trigged := true } } : State).cap.post = 0 ∧
    ({ live.setBit memStatus 31 true with cap := { scan := true } } : State).bit memStatus 31 = true ∧
    live.le (ringBase + live.rd capWptr) 2 ≠ 0x4352 := by decide
/-- Buffer A in state st. -/
def bufA (st : Nat) : State := live.setFld (chrtBuf 0) 2 0 st
/-- A chart in buffer A whose one section, for slot 0, has one entry of no legs. -/
def charted : State := (live.setByte 4 1).setByte 8 1
def building (k : Build) : State := { charted with chart := { build := some k } }
theorem test_hyp_ChartBuffers : live.live .chrt = true ∧ live.bufState .bufA = 0 ∧ (bufA 1).bufState .bufA = 1 ∧ (bufA 2).bufState .bufA = 2 ∧
    (bufA 2).bit chrtStatus 27 = false ∧ (checkChart (bufA 2) .bufA 0).isSome = true ∧ (bufA 3).bufPend .bufA = false ∧ (bufA 3).bufPend .bufB = false ∧
    (bufA 3).bufState .bufA = 3 ∧ (bufA 4).bufState .bufA = 4 ∧ (live.setFld chrtStatus 29 28 1).actBuf.isSome = true ∧
    (live.setFld chrtStatus 29 28 1).bit chrtStatus 7 = false ∧ live.actBuf = none := by decide
theorem test_hyp_ChartEngines : (charted.setProb 0 { lookup := true, chartBuf := some .bufA }).live .chrt = true ∧
    (matchSect charted .bufA 0 {}).isSome = true ∧ (matchSect charted .bufA 0 {}).map (fun c => chartLook charted c [] []) = some (.course []) ∧
    ((charted.setProb 0 {}).setPhase 0 2).phase 0 = 2 ∧ live.bufState .bufA ≠ 1 ∧
    (let s := (bufA 1).setWord 0 0x43480001; (s.setWord 4 1).word (bufBase .bufA) = 0x43480001 ∧ nsec (s.setWord 4 1) .bufA = 1 ∧
      (s.setWord 4 1).buildRefused ((sections (s.setWord 4 1) .bufA).map (·.2)) = true) ∧
    (((building ⟨.bufA, [{}], 0, [], []⟩).wr chrtBldmask 1).wr srchClavail 1).buildFree 0 = true ∧ (sectAt charted .bufA 0).product = 1 ∧ nsec charted .bufA = 1 ∧
    ({ (bufA 4).setBit chrtStatus 27 true with chart := { reverBuf := some .bufA } } : State).bit chrtStatus 27 = true ∧
    ({ live.setFld chrtStatus 29 28 1 with chart := { bg := some .bufA } } : State).actBuf = some .bufA ∧
    ((checkCrcs live .bufA).orElse fun _ => checkDigest live .bufA).isSome = true := by decide +kernel
theorem test_hyp_ClusterSelfTest : let r : Rotation := { powerupDone := true, left := 0 }
    let s := { (live.setBit srchCtrl 0 true).wr srchClavail 0xFFFF with rot := r }
    live.rot.powerupDone = false ∧ s.rotating = true ∧ s.testable 0 = true ∧ (ticking s { srchPassed := true }).per.srchPassed = true ∧
    ({ s with rot := { r with segRunning := true } } : State).fld srchStstat 6 4 = 0 ∧
    (({ s with rot := { r with segRunning := true } } : State).setFld srchStstat 6 4 5).fld srchStstat 6 4 = 5 ∧
    s.rot.first = [] ∧ s.nextTest 0 = some 1 ∧ s.nextTest 15 = some 0 ∧ ({ r with first := [3] } : Rotation).first = 3 :: [] ∧ live.rot.left ≠ 0 ∧
    live.bit srchCtrl 31 = false ∧ s.bit srchCtrl 0 = true ∧ (live.setBit srchCtrl 31 true).bit srchCtrl 31 = true := by decide

/-- GDDR6 is ready. -/
def ready6 : State := live.setBit memStatus 31 true
def mem1 (a n : Nat) (data : Option (List Byte)) : MemReq := { u := .req .mgmt, addr := a, size := n, data, chk := {} }
theorem test_hyp_Gddr6Access : ready6.memReady = true ∧ ready6.serve? (mem1 0x300000000 8 none) = true ∧
    ({ ready6 with gmem := { retraining := Vector.replicate 8 true } } : State).serve? (mem1 0 8 none) = false ∧ memSizeOk false 0x300000000 3 = false ∧
    memSizeOk false 0x300000004 4 = true ∧ memSizeOk true 0x300000000 64 = true ∧ memSizeOk false 0x37FFFFFFF8 8 = true ∧ gddrEnd ≤ 0x380000000 ∧
    ready6.exclMask = 0 ∧ (ready6.setFld memTrctl 23 16 1).exclMask ≠ 0 ∧ inHole 0x108000000 = true ∧ inHole 0x300000000 = false ∧
    bufAt 0 = some .bufA ∧ ready6.bufState .bufA ≠ 1 ∧ bufAt 0x280000000 = none ∧ ready6.gmem.dead[ready6.chanOf 0] = false ∧ ready6.gmem.poisonDue = [] ∧
    ready6.gmem.waiting = [] ∧ ready6.gmem.selfRefresh = false ∧ (ready6.setBit memCtrl 1 true).bit memCtrl 1 = true := by decide
theorem test_hyp_Gddr6Training : live.clk.cdUp = true ∧ live.inReset .mem = false ∧ ready6.bit memStatus 31 = true ∧ live.bit memStatus 31 = false ∧
    ({ live with gmem := { training := true } } : State).gmem.training = true ∧
    ({ live with gmem := { retraining := Vector.replicate 8 true } } : State).gmem.waiting = [] ∧ live.gmem.tries[(0 : ChanN)] = 0 ∧
    ({ live with gmem := { tries := Vector.replicate 8 1 } } : State).gmem.tries[(0 : ChanN)] ≠ 0 ∧ live.bit memCtrl 31 = false ∧ popcount 3 8 = 2 ∧
    popcount 128 8 ≤ 1 ∧ ({ live with gmem := { selfRefresh := true, retained := true } } : State).gmem.retained = true := by decide

/-- The island is in the operating state. -/
def calm : State := { live.setBit safStatus 31 false with saf := { active := 0 } }
theorem test_hyp_SafeStateCauses : calm.saf.islandFault = false ∧ calm.safe = false ∧ calm.saf.pairWait = none ∧ calm.bit safCfg 31 = false ∧
    (calm.setBit safStatus 30 true).bit safStatus 30 = true ∧ calm.bit safCfg 28 = true ∧ (calm.setBit safCfg 28 false).bit safCfg 28 = false ∧ calm.bit safCfg 29 = false ∧
    (calm.setBit safCfg 29 true).safe = false ∧ calm.bit safStatus 30 = false ∧ ({ calm with saf := { wdogRun := true } } : State).saf.wdogRun = true ∧
    ({ calm with saf := { armed := true } } : State).saf.armed = true ∧
    (calm.setBit safCfg 31 true).role = true ∧
    ({ calm.wr srchClavail 1 with saf := { timed := 1 } } : State).bit srchClavail 0 = true := by decide
theorem test_hyp_SafeRelease : let s := calm.setBit safStatus 31 true
    let t := (s.setBit safCtrl 31 true).setFld safCfg 30 28 1
    t.safe = true ∧ (t.wr safCause 0).relOk = true ∧ t.bit safCfg 28 = true ∧ t.bit safCfg 30 = false ∧ ((t.setBit safCfg 30 true).wr safCause 0).relOk = true ∧
    State.reset.relOk = false ∧ calm.bit safStatus 30 = false ∧ calm.saf.pairWait = none ∧
    ({ calm with saf := { pairWait := some 14 } } : State).saf.pairWait.isSome = true ∧ (calm.cl 0).servedSimplex = false ∧
    ((calm.setCl 0 { servedSimplex := true }).cl 0).servedSimplex = true ∧ (0x12345 : Word) ≠ 0xA5C3 := by decide
/-- A mark notice, a miss notice of slot 1 with REASON r, a report of slot 0 with NU 1. -/
def markBytes : List Byte := withCrc (toLE 1 1 ++ toLE 4 3 ++ toLE 4 25000 ++ toLE 1 0xF)
def missBytes (r : Byte) : List Byte := withCrc ([3, 1] ++ toLE 4 3 ++ [r])
def reportBytes (u : Byte) : List Byte := withCrc ([2, 0] ++ toLE 4 3 ++ toLE 4 0 ++ [1] ++ List.replicate 8 0 ++ (u :: List.replicate 80 0))
def noted (f : Saf) : State := { calm with saf := { f with active := 0, pcnt := some 3 } }
theorem test_hyp_IslandNotices : crcOk markBytes = true ∧ byteAt markBytes 0 = 1 ∧ markBytes.length = 14 ∧ crcOk [] = false ∧
    (noted { got := 1, enmask := 3 }).saf.enmask &&& (0xF ^^^ ((noted { got := 1, enmask := 3 }).saf.got % 16)) = 2 ∧
    (noted {}).noticeOk (missBytes 3) 3 7 2 = true ∧ byteAt (missBytes 3) 6 = 3 ∧ byteAt (missBytes 1) 6 ≠ 3 ∧ (noted {}).noticeOk [] 3 7 2 = false ∧
    (noted { misses := Vector.replicate 4 2 }).saf.misses[(1 : Slot)] + 1 = 3 ∧ (noted {}).saf.misses[(1 : Slot)] + 1 ≠ 3 ∧
    ((noted {}).setFld safCfg 19 16 4).saf.window + 1 ≤ ((noted {}).setFld safCfg 19 16 4).fld safCfg 19 16 ∧
    ((noted { window := 4 }).setFld safCfg 19 16 4).fld safCfg 19 16 < (noted { window := 4 }).saf.window + 1 ∧
    (noted {}).noticeOk (reportBytes 9) 2 100 2 = true ∧ (readReport (reportBytes 9)).nu = 1 ∧ (readReport (reportBytes 9)).u.getD 0 0 = 9 ∧
    (noted {}).bit (safLim 0 0) 31 = false ∧ (noted {}).bit (safYcfg 0) 31 = false ∧
    (((noted {}).wr (safLim 0 0) 0x80404000).bit (safLim 0 0) 31 = true ∧ ((noted {}).wr (safLim 0 0) 0x80404000).fld (safLim 0 0) 14 8 = 64 ∧
      ((noted {}).wr (safLim 0 0) 0x80404000).fld (safLim 0 0) 22 16 = 64 ∧ Machine.dist 9 0 ≤ 64) ∧
    ((noted { yMark := Vector.replicate 4 (some 0) }).wr (safYcfg 0) 0x80000000).fld (safYcfg 0) 29 28 = (readReport (reportBytes 9)).p.val ∧
    (noted { yMark := Vector.replicate 4 (some 0) }).saf.yMark[(0 : Fin 4)] = some 0 := by decide +kernel

/-- Chain address 3; port p in state st with D0 and the pilot lane locked. -/
def linked (st : Nat) : State :=
  { (live.wr chnAddr 0x80000003).wr chnPortstat ((0x50 + st) * 256 + 0x50 + st) with chain := { up := { pilot := true }, dn := { pilot := true } } }
def chained (f : Chain) : State := { linked 3 with chain := { f with up := { f.up with pilot := true }, dn := { f.dn with pilot := true } } }
def cframe (typ dst hops : Nat) : CFrame := { typ, dst, src := 5, hops, wrap := false, tag := 9, pay := [] }
theorem test_hyp_ChainFrames : let s := linked 3
    s.laneIn .up .d0 = true ∧ s.laneIn .up .pl = true ∧ live.laneIn .up .d0 = false ∧ frameOk false [] = false ∧
    frameOk false (frameBytes (cframe 2 3 0)) = true ∧ readFrame (frameBytes (cframe 2 3 0)) = cframe 2 3 0 ∧ s.hasAddr = true ∧ s.myAddr = 3 ∧
    frameOk true (frameBytes (cframe 0x10 3 0)) = true ∧ (readFrame (frameBytes (cframe 2 9 40))).hops = 40 ∧ frameOk false (frameBytes (cframe 2 9 40)) = true ∧
    knownType 2 = true ∧ isRequest 2 = false ∧ knownType 0x30 = false ∧
    ((chained { inbox := List.replicate 8 (.up, false, cframe 1 3 0) }).chain.inbox.filter fun x => isRequest x.2.2.typ).length = 8 ∧
    s.portDead .dn false = false ∧ (linked 1).portDead .dn false = true ∧ (readFrame (frameBytes { cframe 2 9 0 with wrap := true })).wrap = true ∧
    (readFrame (frameBytes (cframe 2 63 0))).dst = 63 ∧ s.chain.casts = [] ∧ (chained { casts := [(5, 9, 0)] }).chain.casts = [(5, 9, 0)] := by
  decide +kernel
theorem test_hyp_ChainRequests : let s := (linked 3).wr chnCtrl 0x170
    s.chnUp false = true ∧ s.chnUp true = true ∧ State.reset.chnData = false ∧ ({ State.reset with clk := { power := .off } } : State).chnUp true = false ∧
    wordsOk true 0x1000040000 3 = false ∧ wordsOk true 0x1000040000 2 = true ∧ wordsOk false 0x1000040000 64 = true ∧ wordsOk false 0x1000040000 65 = false ∧
    s.aclRead 5 = false ∧ (live.wr chnCtrl 0).aclRead 5 = true ∧ s.aclRead 0 = false ∧ s.aclWrite 5 = false ∧ live.aclWrite 5 = true ∧
    0x1000040000 + 4 * 64 ≤ 0x1004000000 ∧ ({ chained { bseqs := [(5, 1, some 0)] } with clk := live.clk } : State).bseqOf 5 = (1, some 0) ∧
    s.bit chnCtrl 8 = true ∧ (live.wr chnCtrl 0).bit chnCtrl 8 = false ∧ oneRegion 0x13FFFFFC0 128 = false ∧ retainBase < 0x37D000000 + 64 ∧ oneRegion 0x300000000 64 = true ∧
    memSizeOk true 0x300000000 64 = true ∧ bufAt 0x300000000 = none ∧ (s.setBit memStatus 31 true).memReady = true ∧ s.exclMask = 0 ∧
    (chained { streams := [⟨5, 9, 0x1000040000, 64⟩] }).chain.streams = [⟨5, 9, 0x1000040000, 64⟩] ∧ s.chain.streams = [] := by decide
def paired (f : Chain) : State := { (chained f).wr chnPair 0x80000005 with saf := { active := 0 } }
theorem test_hyp_ChainPairAndEnum : live.laneIn .up .pl = false ∧ (linked 3).laneIn .up .pl = true ∧ (linked 3).hasAddr = true ∧ live.hasAddr = false ∧
    live.pairOn = false ∧ (paired {}).pairOn = true ∧ (paired {}).live .chn = true ∧ (paired {}).fld chnPair 5 0 = 5 ∧ (paired {}).role = true ∧
    (byteAt [0, 0, 0, 0, 1, 0, 0, 0] 4).testBit 0 = true ∧ byteAt [0, 0, 0, 0, 1, 0, 0, 0] 5 % 16 = 0 ∧ (paired { hbs := 7 }).chain.hbs = 7 ∧
    (paired {}).chain.paired = false ∧ (paired {}).fld chnPairstat 2 0 ≠ 5 ∧ (live.setBit chnPilot 1 true).pilotOnly = true ∧ live.pilotOnly = false ∧
    ((paired { paired := true }).setBit cellRole 0 false).role = false ∧ (calm.setBit cellRole 0 false).safe = false ∧
    (paired {}).saf.pairWait = none ∧ ({ paired {} with saf := { pairWait := some 7 } } : State).saf.pairWait.isSome = true ∧ live.chain.inbox = [] ∧
    (chained { inbox := [(.up, true, cframe 0x15 63 0)] }).chain.inbox = [(.up, true, cframe 0x15 63 0)] := by decide
/-- Port UP measures, with these echoes, in state st of both ports. -/
def measuring (st : Nat) (es : List Nat) (attempts : Nat) : State := { linked st with chain := { up := { measuring := true, echoes := es, attempts, pilot := true } } }
theorem test_hyp_ChainPorts : (linked 2).chnData = true ∧ (linked 2).portState .up = 2 ∧ (linked 3).portState .up = 3 ∧ (linked 5).portState .dn = 5 ∧
    (linked 1).portState .up = 1 ∧ State.reset.chnData = false ∧ (measuring 2 [] 1).portState .up = 2 ∧ (((measuring 2 [] 1).cport .up).echoes ++ [2]).length < 8 ∧
    maxN (List.replicate 7 20 ++ [28]) ≤ minN (List.replicate 7 20 ++ [28]) + 8 ∧ minN (List.replicate 7 20 ++ [29]) + 8 < maxN (List.replicate 7 20 ++ [29]) ∧
    300000 < maxN (List.replicate 8 300001) ∧ ((measuring 2 [] 3).cport .up).attempts < 4 ∧ 4 ≤ ((measuring 2 [] 4).cport .up).attempts ∧
    ((measuring 2 [] 4).cport .up).token = 0 ∧ ((linked 3).cport .up).measuring = false ∧ (linked 5).portLock .up 4 = true ∧
    ((linked 5).wr chnPortstat 0x0505).portLock .up 5 = false ∧ ((linked 5).wr chnPortstat 0x0505).portState .up = 5 := by decide
theorem test_hyp_ChainMarks : (linked 3).laneIn .up .d0 = true ∧ live.laneIn .up .d0 = false ∧ live.laneIn .up .d1 = false ∧
    (0x1E : Byte).toNat ∈ [0x1E, 0x78, 0x4B, 0x55] ∧ (0x77 : Byte).toNat ∉ [0x1E, 0x78, 0x4B, 0x55, 0x66] ∧ (linked 2).portState .up ≠ 3 ∧
    (linked 3).portState .dn = 3 ∧ (((linked 3).wr chnPortstat 0x0153).laneIn .up .d0 = true ∧ ((linked 3).wr chnPortstat 0x0153).portState .up = 3 ∧
      ((linked 3).wr chnPortstat 0x0153).portState .dn ≠ 3) ∧ (linked 3).markPort = .up ∧ ((linked 3).cport .up).seenMark = none ∧
    (chained { trimMaster := true }).chain.trimMaster = true ∧ live.chain.trimMaster = false ∧ (linked 3).laneIn .up .pl = true ∧
    (linked 3).bit clkStatus 31 = false ∧ (((linked 3).setBit clkStatus 31 true).setBit clkCtrl 1 true).bit clkCtrl 1 = true := by decide

/-- Core 8 runs with contents k; core 9 likewise. -/
def core8 (k : Core) : State := live.setCore 8 { k with running := true }
def core9 (k : Core) : State := live.setCore 9 { k with running := true }
def core0 (k : Core) : State := live.setCore 0 { k with running := true }
def regsAre (f : RegN → Word) : Core := { w := Vector.ofFn f }
theorem test_hyp_HelmAlu : (core8 {}).ready 8 = true ∧ (core0 {}).ready 0 = true ∧ (core9 {}).ready 9 = true ∧
    (core0 { loaded := some 3 }).ready 0 = true := by decide
theorem test_hyp_HelmImmediates : (core0 (regsAre fun _ => 0x80000000)).ready 0 = true := by decide
theorem test_hyp_HelmLocalAccess : let k := regsAre fun r => if r = 1 then 0x10000000 else if r = 2 then 0x1FFFC else 0
    (core0 k).ready 0 = true ∧ (k.r 2 + (3 : BitVec 16).signExtend 32).toNat < 0x20000 ∧ (k.r 2).toNat % 4 = 0 ∧ k.stores = [] ∧
    k.status.getLsbD 3 = false ∧ 2 ^ 28 ≤ (k.r 1).toNat ∧ isPeriodSram (k.segAddr (k.r 1)) = true ∧ live.clk.cdUp = true ∧
    (∀ i : Fin 4, moduleByte (k.segAddr (k.r 1) + i) = false) ∧ slotAt (k.segAddr (k.r 1)) = some 0 ∧ live.phase 0 ≠ 1 ∧ (live.prob 0).stalled = [] := by decide
theorem test_hyp_HelmSpecial : (core9 {}).ready 9 = true ∧ (core8 {}).ready 8 = true ∧ ({} : Core).stores = [] := by decide
theorem test_hyp_HelmBranches : (core0 (regsAre fun r => BitVec.ofNat 32 r)).ready 0 = true := by decide
theorem test_hyp_HelmCallReturn : let k := regsAre fun r => if r = 2 then 0x1000 else 0
    (core0 k).ready 0 = true ∧ (k.r 2).toNat % 4 = 0 ∧ 4 * ((maskRegs 0x3FF).length + 1) ≤ (k.r 2).toNat ∧
    (k.r 2).toNat + 4 * ((maskRegs 0x3FF).length + 1) ≤ 0x20000 ∧ k.status.getLsbD 3 = false ∧
    ((regsAre fun _ => 0x1001).r 2).toNat % 4 ≠ 0 ∧ 0x20000 ≤ ((regsAre fun _ => 0x20004).r 2 - BitVec.ofNat 32 4).toNat ∧
    (core0 (regsAre fun _ => 0x20004)).ready 0 = true := by decide
theorem test_hyp_HelmMultiplier : (core0 {}).ready 0 = true ∧ ({} : Core).flight = [] ∧ (32 : Fin 64).val ≤ 32 := by decide
theorem test_hyp_HelmDivision : (core0 (regsAre fun r => if r = 1 then 0x80000000 else 0xFFFFFFFF)).ready 0 = true ∧
    (regsAre fun r => if r = 1 then 0x80000000 else 0xFFFFFFFF).r 1 = BitVec.intMin 32 ∧
    (regsAre fun r => if r = 1 then 0x80000000 else 0xFFFFFFFF).r 2 = BitVec.allOnes 32 := by decide
theorem test_hyp_HelmExceptions : (core0 {}).ready 0 = true ∧ ({} : Core).status.getLsbD 3 = false ∧ (core0 { status := 8 }).ready 0 = true ∧
    (({} : Core).r 1 + (2 : BitVec 16).signExtend 32).toNat % 4 ≠ 0 ∧ 0x20000 ≤ ((regsAre fun _ => 0x20000).r 1).toNat ∧
    (core0 (regsAre fun _ => 0x20000)).ready 0 = true ∧ ((regsAre fun _ => 0x20001).r 1).toNat % 4 ≠ 0 ∧
    (core0 { status := 1, ipend := 2, imask := 2 }).coreOn 0 = true ∧ ((core0 { status := 1, ipend := 2, imask := 2 }).core 0).atBoundary = true ∧
    (2 &&& 2 : Word).getLsbD 1 = true ∧ (2 &&& 2 : Word).getLsbD 0 = false ∧ ((core0 { status := 1, ipend := 0x20000, imask := 0x20000 }).core 0).flight = [] := by
  decide
/-- A load and a posted store of period SRAM. -/
def pend1 : PendLoad := { rd := 1, addr := 0x1000040000, ea := 0x10040000, kind := 0 }
def post1 : Posted := { addr := 0x1000040000, ea := 0x10040000, size := 4, val := 7 }
theorem test_hyp_HelmReplies : (core0 { pend := some pend1 }).coreOn 0 = true ∧ isPeriodSram pend1.addr = true ∧ pend1.addr % loadSize pend1.kind = 0 ∧
    ((core0 { pend := some pend1 }).core 0).running = true ∧ slotAt post1.addr = none ∧ State.reset.coreOn 0 = false ∧ State.reset.clk.cdUp = false ∧
    ((core0 { stores := [post1] }).core 0).stores = [post1] ∧ (core0 {}).clk.cdUp = true := by decide
theorem test_hyp_HelmControl : live.clk.cdUp = true ∧ ((core0 { stopping := true }).core 0).stopping = true ∧ (live.core 0).running = false ∧
    live.clk.power ≠ .idle ∧ ((core0 { stopping := true }).core 0).waiting = false ∧ tableOffset 0x13FC = true ∧ tableOffset 0x1400 = false ∧
    live.bit hlmCtrl 31 = false ∧ (live.setBit hlmCtrl 31 true).bit hlmCtrl 31 = true ∧ (core8 {}).coreOn 8 = true ∧ State.reset.coreOn 0 = false := by decide
/-- Core 0 with entry d in its table, and one microword, the last: ALU function 0 of w[RA] and w[RB] into w[RD] (R381). -/
def custom (d : Nat) : State := ((core0 {}).wr (hlmDt 0 0) d).wr (hlmDt 0 0 + 0x400) 0x80000000 |>.wr (hlmDt 0 0 + 0x404) 0x80000091
theorem test_hyp_HelmCustom : (custom 0x80000001).ready 0 = true ∧ ((custom 0x80000001).tableWord 0 0).testBit 31 = true ∧
    (let s := custom 0x80000001; let u := uwordOf (s.tableWord 0 0x400 + 2 ^ 32 * s.tableWord 0 0x404)
     u.legal = true ∧ u.fin = true ∧ u.unit = 0 ∧ u.dst = 1 ∧ u.a = 2 ∧ u.b = 3) ∧ bits ((custom 0x80000001).tableWord 0 0) 7 0 ≠ 0 ∧
    ((core0 {}).tableWord 0 0).testBit 31 = false ∧ bits ((custom 0x80000000).tableWord 0 0) 7 0 = 0 ∧ (core9 {}).ready 9 = true := by decide

/-- A transaction of the management port with contents q. -/
def porting (q : Port) : State := { live with port := q }
theorem test_hyp_PortOverrun : (porting { phase := .regWrite, index := 0x80 }).port.phase = .regWrite ∧
    0x80 ≤ (porting { phase := .regRead, index := 0x80 }).port.index ∧ (porting { phase := .regRead, index := 0x7F }).port.index = 0x7F := by decide
theorem test_hyp_ManagementPort : live.port.phase = .idle ∧ live.clk.power ≠ .off ∧ (live.setBit nvrStatus 31 true).bit nvrStatus 31 = true ∧
    (porting { phase := .command }).port.phase ≠ .idle ∧ (bits 0xFF 28 7 ≠ 0 ∧ bits 0x8000007F 28 7 = 0) ∧ (0x40000001 : Nat).testBit 30 = true ∧
    (porting { phase := .regWrite, index := 0x12 }).port.index = 0x12 ∧ live.bit mptCtrl 31 = false ∧
    ({ live.setBit pwrWakecfg 0 true with clk := { power := .dormant } } : State).lowPower = true ∧ live.lowPower = false ∧
    ({ live.setBit mptCtrl 1 true with boot := { step := 10 } } : State).bit mptCtrl 1 = true ∧ live.bit mptCtrl 1 = false ∧
    ((porting { phase := .winWrite }).setBit mptCtrl 0 true).bit mptCtrl 0 = true := by decide
theorem test_hyp_ManagementWindow : ((porting { phase := .winWrite }).setBit mptCtrl 0 false).bit mptCtrl 0 = false ∧
    ((porting { phase := .winWrite, queue := List.replicate 8 (0, 0) }).setBit mptCtrl 0 true).bit mptCtrl 0 = true ∧
    8 ≤ (porting { queue := List.replicate 8 (0, 0) }).port.queue.length ∧ live.port.queue = [] ∧
    (porting { queue := [(0x1000040000, 7)] }).port.queue = [(0x1000040000, 7)] ∧ isPeriodSram 0x1000040000 = true ∧ slotAt 0x1000040000 = none ∧
    State.reset.clk.cdUp = false ∧ (porting { phase := .winRead, index := 0 }).fld mptCtrl 9 8 + 1 = 1 ∧
    (porting { phase := .winRead, index := 1, data := [(0, 7)] }).port.data.find? (fun d => d.1 == 1 - 1) = some (0, 7) ∧
    (porting { phase := .winRead, index := 1 }).port.data.find? (fun d => d.1 == 1 - 1) = none ∧
    (porting { reads := [{ addr := 0x1000040000, want := some 0 }] }).port.reads = [{ addr := 0x1000040000, want := some 0 }] ∧
    (porting { reads := [{ addr := 0x1000040000, want := none }] }).port.reads = [{ addr := 0x1000040000, want := none }] ∧
    (porting { reads := [{ addr := 0x1000040000, want := some 0, lost := true }] }).port.queue = [] := by decide
/-- The boot in step k. -/
def booting (k : Nat) : State := { live with boot := { step := k } }
/-- A header that names one segment of kind 0 and no bytes. -/
def header1 : List Byte := toLE 6 0 ++ toLE 2 1
theorem test_hyp_BootSteps : State.reset.inStep 1 = true ∧ (State.reset.setBit nvrStatus 31 true).inStep 1 = true ∧ State.reset.bbChoice = none ∧
    (booting 2).inStep 2 = true ∧ (booting 3).inStep 3 = true ∧ (booting 4).inStep 4 = true ∧
    ({ booting 5 with boot := { step := 5, slot := some 0 } } : State).inStep 5 = true ∧ (booting 5).boot.warm = false ∧
    (booting 6).boot.slot = none ∧ (booting 6).inStep 6 = true ∧ ((booting 6).setBit memStatus 31 true).bit memStatus 31 = true ∧
    (booting 6).bit memStatus 31 = false ∧ (booting 6).gmem.training = false ∧ ({ booting 7 with rot := { powerupDone := true } } : State).inStep 7 = true ∧
    ((booting 7).wr srchClavail 1).fld srchClavail 15 0 ≠ 0 ∧ ((booting 7).wr srchClavail 0).fld srchClavail 15 0 = 0 ∧ (booting 7).rot.powerupDone = false ∧
    (booting 8).inStep 8 = true ∧ (booting 8).portLock .up 6 = false ∧ ((booting 8).setBit chnPortstat 6 true).hasAddr = false ∧
    (booting 9).inStep 9 = true ∧ (booting 9).actBuf = none ∧ (booting 9).bit bootStatus 28 = false ∧ (booting 9).bit chrtStatus 0 = false ∧
    ((booting 9).setFld chrtStatus 29 28 1).actBuf.isSome = true ∧ ((booting 9).setBit chrtStatus 0 true).bit chrtStatus 0 = true ∧
    (booting 10).inStep 10 = true ∧ (booting 10).boot.active = true ∧ ({ live with boot := { retry := true } } : State).boot.retry = true ∧
    (booting 10).boot.lastHash.length = 12 := by decide +kernel
theorem test_hyp_BootSteps_stage :
    (let s := { booting 5 with boot := { step := 5, slot := some 0 } }; (s.stageFrom (s.staged 0) fun x => s.slotOfs 0 + x.1.ofs).2 = true) ∧
    (let s := { booting 5 with boot := { step := 5, slot := some 0, hdr := [header1] } }; (s.stageFrom (s.staged 0) fun x => s.slotOfs 0 + x.1.ofs).2 = false) := by
  decide +kernel
/-- A boot-block copy with MINVER 0, valid. -/
def blocked : State := State.reset.setBytes (bbBase 1) (withCrc (toLE 4 0x42420001 ++ List.replicate 108 0))
theorem test_hyp_BootSteps_recall : blocked.bbChoice = some 1 := by decide +kernel
def operating (op : Nat × Nat × List Byte) : State := { live with boot := { op := some op, density := 2 ^ 20 } }
theorem test_hyp_BootCommands : (live.setBit bootCtrl 31 true).bit bootCtrl 31 = true ∧ live.bit bootCtrl 31 = false ∧
    ({ live.setBit bootStatus 31 false with boot := { slot := some 0 } } : State).bootedSlot = some 0 ∧ live.bootedSlot ≠ some 0 ∧
    (operating (2, 0, [])).boot.op.isSome = true ∧ live.boot.op = none ∧ live.rd bootUpofs % 256 = 0 ∧ (live.wr bootUpofs 1).rd bootUpofs % 256 ≠ 0 ∧
    live.slotSize < live.rd bootUpofs + 256 ∧ ({ live with boot := { density := 2 ^ 20 } } : State).rd bootUpofs + 256 ≤ ({ live with boot := { density := 2 ^ 20 } } : State).slotSize ∧
    (operating (3, 0x10000000000, List.replicate 256 1)).boot.op = some (3, 0x10000000000, List.replicate 256 1) ∧
    leAt (List.replicate 256 (0 : Byte)) 0 4 ≠ 0x4D560001 ∧ State.reset.clk.power ≠ .off ∧ ({ live with clk := { power := .off } } : State).clk.power = .off ∧
    ({ live with clk := { power := .run, cdUp := true, cdRstReq := true }, boot := { slot := some 0 } } : State).boot.slot.isSome = true ∧
    live.clk.cdRstReq = false := by decide +kernel
def flashing (f : FOp) : State := { live.setBit flsStatus 31 true with flash := { op := some f } }
theorem test_hyp_FlashOperations : live.flash.op = none ∧ (flashing ⟨2, 40, 0, [], 0⟩).flash.op.isSome = true ∧ live.protected? 0 = false ∧
    (live.wr (flsWp 0) 1).protected? 0 = true ∧ live.dirty 0 = false ∧ (live.setBit (flsDirty 0) 0 true).dirty 0 = true ∧
    live.bytes flashBase 16 = List.replicate 16 0xFF ∧ (live.setByte flashBase 0).bytes flashBase 16 ≠ List.replicate 16 0xFF ∧
    live.requesterBank .dma = none ∧ (core8 { pc := 0x50000000 }).requesterBank .mgmt = none ∧ (flashing ⟨2, 40, 0, [], 0⟩).eraseOp = true ∧
    (flashing ⟨2, 40, 0, [], 0⟩).bit flsStatus 30 = false ∧ live.eraseOp = false ∧ (live.setBit flsStatus 30 true).flash.warn = false ∧
    (flashing ⟨1, 63, 4095, List.replicate 16 0, 0⟩).bit flsStatus 31 = true ∧ ({ live with flash := { warn := true } } : State).flash.warn = true := by decide
/-- Copy 0 of record r, with one word w. -/
def recorded (s : State) (r w : Nat) : State := s.setBytes (nvrBaseAddr + 0x400 * (r - 1)) (withCrc (toLE 4 (r * 256 + 1) ++ toLE 4 w))
def records (w : Nat) : State := [1, 3, 4, 5, 6].foldl (fun s r => recorded s r 0) (recorded State.reset 2 w)
theorem test_hyp_RecordStore : State.reset.bit nvrStatus 31 = false ∧ State.reset.clk.power ≠ .off ∧
    (∀ i : Fin 6, (recNewest (records 0) (i + 1)).isSome = true) ∧ (records 0).flashRec.getD 0 0 = 0 ∧
    (∀ i : Fin 6, (recNewest (records 0x83850000) (i + 1)).isSome = true) ∧ bits 0x83850000 25 24 = 3 ∧ (0x83850000 : Nat).testBit 23 = true ∧
    (records 0x82050000).flashRec.getD 0 0 = 0x82050000 ∧ bits 0x82050000 25 24 ≠ 3 := by decide +kernel
theorem test_hyp_RecordStore_counter : live.bit (nvrCntcfg 0) 31 = false ∧
    (let s := (live.setBit nvrStatus 31 true).wr (nvrCntcfg 0) 0x80000C00; s.bit (nvrCntcfg 0) 31 = true ∧ s.cntN 0 = 1 ∧
      s.carryPending (s.cntBase 0) 1 (s.word (nvrWord (s.cntBase 0))) = false ∧ s.word (nvrWord (s.cntBase 0 + 1)) = 0) ∧
    (let s := ((live.setBit nvrStatus 31 true).wr (nvrCntcfg 0) 0x80000C00).setWord (nvrWord 0xC01) 0xFFFFFF
     s.word (nvrWord (s.cntBase 0 + 1)) % 2 ^ 24 = 2 ^ 24 - 1) := by decide
theorem test_hyp_PaceAndClocks : live.clk.cdUp = true ∧ live.per.pace = 0 ∧ live.clk.target = none ∧ live.fld pwrStatus 29 28 = 0 ∧
    ({ live with clk := { live.clk with target := some 1 } } : State).clk.target.isSome = true ∧ live.clk.lockOk = false ∧ live.clk.voltOk = true ∧
    ({ live with clk := { live.clk with target := some 1, voltOk := false } } : State).clk.voltOk = false ∧
    ({ live with clk := { live.clk with lowering := true } } : State).clk.lowering = true ∧ live.clk.lowering = false ∧
    live.bit pwrGovcfg 31 = true ∧ (live.setBit pwrGovcfg 31 false).bit pwrGovcfg 31 = false ∧ (87 * 100 < 100 * 88 ∧ 100 * 112 < 113 * 100) ∧
    ¬ (88 * 100 < 100 * 88 ∨ 100 * 112 < 88 * 100) ∧ live.saf.islandFault = false ∧ live.bit clkStatus 31 = false := by decide
theorem test_hyp_GatesAndBlockResets : live.clk.cdUp = true ∧ State.reset.clk.cdUp = false ∧ (live.setBit clkGate 3 true).bit clkGate (blkIdx .cap) = true ∧
    live.gated .cap = false ∧ live.bit clkGate (blkIdx .cap) = false ∧ ({ live with clk := { live.clk with power := .idle } } : State).clk.power = .idle ∧
    live.inReset .cap = false ∧ live.gmem.selfRefresh = false ∧ ({ live with gmem := { selfRefresh := true } } : State).gmem.selfRefresh = true ∧
    (live.setBit pwrBrstat (blkIdx .per) true).inReset .per = true := by decide
def powered (p : Power) : State := { live with clk := { live.clk with power := p } }
theorem test_hyp_SuppliesAndPower : (powered .off).clk.power = .off ∧ live.clk.power = .run ∧ live.saf.islandFault = false ∧ State.reset.clk.cdUp = false ∧
    ({ live with clk := { live.clk with mainLost := true } } : State).clk.mainLost = true ∧ live.clk.mainLost = false ∧ (powered .idle).clk.power = .idle ∧
    (live.wr pwrIdletmo 5).fld pwrIdletmo 23 0 ≠ 0 ∧ ({ live with clk := { live.clk with idlePeriods := 5 } } : State).clk.idlePeriods = 5 ∧
    ((powered .idle).wr pwrStbytmo 0x10001).fld pwrStbytmo 15 0 ≠ 0 ∧ ((powered .standby).wr pwrStbytmo 0x10001).fld pwrStbytmo 31 16 ≠ 0 ∧
    ((powered .dormant).wr pwrWakecfg 0x10000).fld pwrWakecfg 31 16 ≠ 0 ∧ (powered .dormant).lowPower = true ∧ (live.wr (mpinPcfg 9) 2).fld (mpinPcfg 9) 1 0 = 2 ∧
    (∀ n : Fin 10, live.fld (mpinPcfg n) 1 0 ≠ 2) ∧ live.lowPower = false ∧
    ({ powered .standby with clk := { (powered .standby).clk with wakes := 96 } } : State).clk.wakes.testBit 5 = true ∧ (96 : Nat).testBit 4 = false := by decide
theorem test_hyp_AccessRefusals : isPage safBase = true ∧ (safBase + 2) % 4 ≠ 0 ∧ isPage (safBase + 2) = true ∧ (0x4FFFFFFFFF < 0x5000000000 ∧ State.reset.clk.cdUp = false) ∧
    pageBase (safBase + 0xFFFC) = safBase ∧ Requester.mgmt ≠ .island ∧ (BitVec.ofNat 40 safBase).toNat = safBase := by decide
theorem test_hyp_RegisterAccess : live.clk.power ≠ .off ∧ live.clk.cdUp = true ∧ live.pageReset chrtBase = false ∧ live.pageGated chrtBase = false ∧
    pageBase sysBase = sysBase ∧ (regDesc sysBase).isSome = true ∧ regDesc (sysBase + 0xFFFC) = none ∧ chrtBase ≠ chrtBase + 8 ∧
    (regDesc clkBase).isSome = true ∧ live.pageGated sysBase = false := by decide

/-- Pin n has PIN_CFGn = v. -/
def pinned (n v : Nat) : State := live.wr (pinCfg n) v
/-- Channel 0 is on and carries n events. -/
def carrying (n : Nat) : State := { live.wr (evtChcfg 0) 0x80000000 with pins := { evts := (Vector.replicate 32 0).set 0 n } }
/-- Task k subscribes to channel 0, once. -/
def subscribed (k : Nat) : State := (carrying 2).wr (evtTsub k) 0x80
theorem test_hyp_PinsAndEvents : State.reset.clk.cdUp = false ∧ (live.setBit pinCtrl 31 true).bit pinCtrl 31 = true ∧ live.bit pinCtrl 31 = false ∧
    (0x6 % 16 = 6 ∧ 0x5 % 16 < 6) ∧ live.pinFunc 95 = 0 ∧ live.pinFunc 95 ≠ 2 ∧ ((pinned 0 3).wr (pinCfg 32) 3).pinSel 0 = ((pinned 0 3).wr (pinCfg 32) 3).pinSel 32 ∧
    live.live .evt = true ∧ (pinned 95 3).pinFunc 95 = 3 ∧ (pinned 95 3).pinFunc 63 ≠ 3 ∧ (pinned 95 3).pins.extOn.testBit 95 = false ∧
    (pinned 95 3).fld (pinCfg 95) 25 24 = 0 ∧ (pinned 95 0x01000003).fld (pinCfg 95) 25 24 = 1 ∧ (pinned 95 0x02000003).fld (pinCfg 95) 25 24 = 2 ∧
    ({ live with pins := { pulses := 1 } } : State).pins.pulses.testBit 0 = true ∧ State.reset.live .evt = false ∧
    15 ∈ ({ live with pins := { bridge := [15, 0x28] } } : State).pins.bridge ∧ 0x29 ∉ live.pins.bridge ∧ live.bit evtCtrl 31 = false ∧
    live.ncons 0 = 0 ∧ (subscribed 32).ncons 0 = 1 ∧ ((subscribed 32).setBit (evtChcfg 0) 30 true).bit (evtChcfg 0) 30 = true ∧ subSlots 0x8080 = [0, 0] ∧
    (carrying 1).pins.evts[(0 : Fin 32)] = 1 ∧ (carrying 1).chanOn 0 = true ∧ live.chanOn 0 = false ∧
    (({ carrying 1 with pins := { storm := Vector.replicate 32 (List.replicate 64 0) } } : State).pins.storm[(0 : Fin 32)].filter fun a => decide (a + 1499 < 1500)).length = 64 ∧
    (carrying 1).subs = [] ∧ (subscribed 255).subs.filter (fun r => r.2.contains 0) = [(255, [0])] ∧ (subscribed 128).subs.filter (fun r => r.2.contains 0) = [(128, [0])] ∧
    (subscribed 32).subs.filter (fun r => r.2.contains 0) = [(32, [0])] ∧ (subscribed 63).subs.filter (fun r => r.2.contains 0) = [(63, [0])] := by decide +kernel
/-- Plot channel 3 of engine 0 has contents q. -/
def plotting (q : PlotCh) : State := live.setPlot 3 q
/-- Engine 0's slots all name channel 3, which runs the word w at address 0. -/
def running3 (w : Nat) : State := ((plotting { run := true }).wr (pltSlotl 0) 0x33333333).wr (pltImem 0 0) w
theorem test_hyp_PlotInstructions : live.live .plt = true ∧ ((plotting { run := true }).plot 3).run = true ∧ (live.plot 3).run = false ∧
    ((plotting { run := true, dly := 15 }).plot 3).dly = 15 ∧ ((plotting { run := true, a := 1 }).plot 3).a ≠ 0 ∧ live.plotInput 3 = false ∧
    ((plotting { run := true, markSeen := some true }).plot 3).markSeen = some true ∧ ((plotting { rxq := List.replicate 4 0 }).plot 3).rxq.length = 4 ∧
    ((plotting { txq := [7] }).plot 3).txq = [7] ∧ (running3 0).slotChan 0 = 3 ∧ (running3 0x90000000).rd (pltImem 0 0) = 9 * 2 ^ 28 ∧
    (running3 0x20000001).rd (pltImem 0 0) / 2 ^ 28 = 2 ∧ bits 0x20000001 15 0 ≠ 0 ∧ 6 < bits 0x60070000 19 16 ∧
    (running3 0x0F00007F).rd (pltImem 0 0) = 15 * 2 ^ 24 + 0x7F ∧ (running3 0x20020000).rd (pltImem 0 0) = 2 * 2 ^ 28 + 2 ^ 17 ∧
    (running3 0x4000000F).rd (pltImem 0 0) = 4 * 2 ^ 28 + 15 ∧ ((running3 0).plot 3).txq = [] := by decide
theorem test_hyp_PlotChannels : live.live .plt = true ∧ State.reset.live .plt = false ∧ (live.plot 3).txq.length < 4 ∧
    ((plotting { txq := List.replicate 4 0 }).plot 3).txq.length = 4 ∧ ((plotting {}).setFld (pltChan 3 0) 17 16 2).fld (pltChan 3 0) 17 16 = 2 ∧
    ((plotting { rxq := [1] }).plot 3).rxq = [1] ∧ (live.plot 3).rxq = [] ∧ live.bit pltCtrl 31 = false ∧ (live.setBit pltCtrl 31 true).bit pltCtrl 31 = true := by
  decide
/-- Serial channel 2 has contents k. -/
def serialCh (k : SerCh) : State := live.setSer 2 k
theorem test_hyp_SerialChannels : live.live .ser = true ∧ State.reset.live .ser = false ∧ ((serialCh { tx := List.replicate 8 (0, 0) }).ser 2).tx.length = 8 ∧
    ((serialCh { busy := true }).ser 2).cur = none ∧ ((serialCh { rx := List.replicate 8 0 }).ser 2).rx.length = 8 ∧ (live.ser 2).rx = [] ∧ (live.ser 2).busy = false ∧
    ((serialCh { tx := [(0, 0x37)], goPend := true }).ser 2).goPend = true ∧ ((serialCh { busy := true, cur := some (0, 0x37) }).ser 2).cur = some (0, 0x37) ∧
    live.inputPin (2, 2) = none ∧ (live.wr (pinCfg 18) 2).inputPin (2, 2) = some 18 ∧ (0x37 : Nat).testBit 7 = false ∧ (0xB7 : Nat).testBit 7 = true ∧
    live.bit serCtrl 31 = false ∧ (live.setBit serCtrl 31 true).bit serCtrl 31 = true ∧
    (1500 ≤ 50 * (2 * (bits 0x060A0E 7 0 + 1)) ∧ 1100 ≤ 50 * (2 * (bits 0x060A0E 15 8 + 1)) ∧ 700 ≤ 50 * (2 * (bits 0x060A0E 23 16 + 1))) ∧
    ¬ 700 ≤ 50 * (2 * (bits 0x050A0E 23 16 + 1)) ∧ live.bit (mpinSstat 0) 31 = false ∧ (live.setBit (mpinSstat 1) 31 true).bit (mpinSstat 1) 31 = true ∧
    ({ live.setBit (mpinSstat 1) 31 true with io := { safeSel := Vector.replicate 2 (some 3) } } : State).io.safeSel[(1 : Fin 2)] = some 3 ∧
    live.io.safeSel[(1 : Fin 2)] = none := by decide +kernel

/-! ## Further clauses of the statements -/

/-- The state s in the operating state. -/
def operatingOf (s : State) : State := { s.setBit safStatus 31 false with saf := { active := 0 } }
/-- A table of one state, kept near 0, one dimension and one leg. -/
def table1 : Table :=
  { id := 0x50540001, nx := 1, nu := 1, h := 1, mask := 1, sts := [{ w := 1, slo := -1000, shi := 1000, tol := 4 }],
    acts := [{ umax := 4, step := 4 }], a := [[0x10000]], g := [[0]], d := [[0], [0]], ref := [[0]] }
def solving (q : Problem) : Problem := { q with emask := 1, byMark := true, launched := true, enabled := true, tbl := table1, umax := [4], u := [0], x0 := [5], xhat := [5] }
def full1 : Problem := solving {}
theorem test_hyp_Marks_ends : (ticking live { chainSrc := true, stopPending := true }).per.stopPending = true ∧
    ({ live with per := { firstPending := true } } : State).per.firstPending = true ∧ State.reset.live .per = false ∧ live.per.running = false ∧
    ({ ticking live { chainSrc := true, stopPending := true } with chain := { pendMark := some (0, 63, .dn) } } : State).chain.pendMark = some (0, 63, .dn) := by
  decide
theorem test_hyp_Deadlines_problems : (slot1 (ticking live {}) 2 oneCl).prob 1 = oneCl ∧ oneCl.launched = true ∧ oneCl.byMark = true ∧ oneCl.fixRdy = false ∧
    (let s := operatingOf (slot1 (ticking live { fixPassed := true }) 4 { oneCl with compared := true })
     s.safe = false ∧ s.live .srch = true ∧ s.phase 1 = 4 ∧ (s.prob 1).decided = false ∧ s.fixSettled (s.prob 1) = true) ∧
    oneCl.recDue = false ∧ oneCl.tbl.check ≠ 2 ∧ oneCl.reported = false ∧ oneCl.missed = false ∧ live.live .evt = true := by decide
theorem test_hyp_LaunchAndLatch_table : (let s := { live.setByte (slotBase 0 + 11) 0x80 with rot := { powerupDone := true } }
      (slotTable s 0).enable = true ∧ (slotTable s 0).runahead = false ∧ s.rot.powerupDone = true) ∧
    (let s := (live.setByte (slotBase 0 + 9) 1).setBit (srchPstat 0) 3 true; (slotTable s 0).runahead = true ∧ s.bit (srchPstat 0) 3 = true) ∧
    ((live.setByte (slotBase 0 + 9) 1).bit (srchPstat 0) 3 = false ∧ (slotTable (live.setByte (slotBase 0 + 9) 1) 0).runahead = true) ∧
    (({ slot1 live 1 { code := 3 } with flaws := [slotBase 1 / 4] } : State).noteSlot 1 none).bad (slotBase 1) tableBytes = true ∧
    ((slot1 live 1 {}).noteSlot 1 none).bad (slotBase 1) tableBytes = false ∧ ((slot1 live 1 {}).noteSlot 1 (some 0)).bad (slotBase 1) tableBytes = true ∧
    (ticking live { srchPassed := true }).per.srchPassed = true := by decide +kernel
theorem test_hyp_SearchLoop_nodes : let n : Node := { node1 with x := [5], lb := 7 }
    (full1.prune (some inc1) 8 []).2 = true ∧ (full1.prune none 7 []).2 = false ∧ (nextBatch full1 n).1 ≠ [] ∧ full1.tbl.determ = false ∧
    (∀ x ∈ full1.steals, x.taker ≠ 0) ∧ (slot1 live 4 { oneCl with share := some inc1 }).phase 1 = 4 ∧ (slot1 live 3 oneCl).phase 1 = 3 ∧
    (let s := owned (slot1 live 2 full1) { frontier := [n], inc := some inc1 }; s.bestOf 1 = some inc1 ∧ (s.cl 0).frontier = n :: []) ∧
    (slot1 live 2 oneCl).bestOf 1 = none ∧ 4 * (clsOf full1.emask).length ≤ ({ full1 with nxt := List.replicate 4 n } : Problem).nxt.length := by decide
theorem test_hyp_SeedsAndFix_courses : courseCost full1.tbl full1.umax full1.x0 full1.u [[1]] ≠ none ∧
    courseCost full1.tbl full1.umax full1.x0 full1.u [[9]] = none ∧
    agrees full1.tbl [9] full1.xhat = true ∧ agrees full1.tbl [10] full1.xhat = false ∧ (stepModel full1.tbl [10] full1.u 0).2 = false ∧
    (stepModel { full1.tbl with d := [[2 ^ 31 - 1], [0]] } [10] full1.u 0).2 = true ∧ full1.recDue = false ∧ full1.decided = false ∧
    (let s := slot1 live 2 full1; s.obsBad 1 = false ∧ (s.noteSlot 1 none).obsBad 1 = false ∧ (s.noteSlot 1 (some 0x58)).obsBad 1 = true) ∧
    (slot1 live 2 { full1 with chStepped := true, tbl := { table1 with determ := true }, chWait := none, seedPend := some [[1]] }).phase 1 = 2 ∧
    (slot1 live 4 { oneCl with fixRdy := true }).comparable 1 = true ∧ oneCl.lookup = false ∧ ({ oneCl with chartBuf := some .bufA } : Problem).chartBuf.isSome = true := by
  decide +kernel
theorem test_hyp_Closing_ends : (slot1 live 5 oneCl).phase 1 = 5 ∧ (slot1 live 6 oneCl).phase 1 = 6 ∧
    0 + (Nat.max (live.sClose { oneCl with tbl := { determ := true } }) 256 + 0) ≤ live.dlFc 2 ∧ ({ determ := true, budget := 300 } : Table).budget ≠ 0 := by decide
theorem test_hyp_GatherAndVerdict_ends : (let s := slot1 (ticking live { srchPassed := true }) 4 oneCl
      s.fixSettled oneCl = true ∧ oneCl.gathered = false ∧ s.bestOf 1 = none ∧ (s.cl 0).flight = []) ∧
    ((owned (slot1 live 4 { oneCl with compared := true, tbl := { check := 2 } }) { inc := some inc1 }).drain 1).bestOf 1 = some inc1 ∧
    (((owned (slot1 live 4 { oneCl with compared := true, tbl := { check := 2 } }) { inc := some inc1 }).drain 1).prob 1).tbl.check = 2 ∧
    (let q := { solving { gathered := true, inc := some { cost := (shadowEval table1 [4] [5] [0] [[0]]).1, course := [[0]], src := 1 } } with tbl := { table1 with check := 1 } }
     (slot1 live 4 q).awaiting 1 1 = true ∧ (shadowEval q.tbl q.umax q.x0 q.u [[0]]).2 = true ∧ Machine.dist (shadowEval table1 [4] [5] [0] [[0]]).1 (shadowEval q.tbl q.umax q.x0 q.u [[0]]).1 ≤ q.tsh) ∧
    (shadowEval table1 [4] [5] [0] [[9]]).2 = false := by decide +kernel
/-- A chart of one section for slot 0 with one entry, at address 0; its digest as SHA-384 gives it, its block's CRC as CRC-32 gives it. -/
def chartDig : List Byte :=
  [0x23, 0xBF, 0x96, 0x14, 0xE8, 0x50, 0xEE, 0x96, 0x5D, 0x9E, 0x4E, 0x6B, 0x5D, 0xDE, 0xD3, 0xAC,
   0x85, 0x2F, 0x08, 0x00, 0x38, 0x9C, 0xF3, 0xEF, 0x67, 0x8B, 0x2B, 0x02, 0x43, 0x67, 0xA7, 0x27,
   0xEF, 0xE5, 0x69, 0x3B, 0xB6, 0x0E, 0xA1, 0x44, 0xB0, 0xF2, 0x4A, 0x2D, 0xA7, 0x97, 0xF0, 0xF0]
def chartCells : List Host.Cell :=
  [(0, 1), (2, 0x48), (3, 0x43), (4, 1), (8, 0x44)] ++
  ((List.range 48).zip chartDig).filterMap (fun x => if x.2 = 0 then none else some (16 + x.1, x.2)) ++
  [(0x105, 1), (0x106, 1), (0x107, 0x81), (0x108, 1), (0x10C, 1), (0x110, 0x40), (0x114, 0x41), (0x1004, 0x91), (0x1040, 1), (0x1042, 0x42), (0x1043, 0x43),
   (0x1044, 0xF9), (0x1045, 0x42), (0x1046, 0xF3), (0x1047, 0x2B), (0x1048, 1)]
/-- Buffer A holds it in state st; GDDR6 is ready. -/
def chartA (st : Nat) : State := { ((live.setBit memStatus 31 true).setFld (chrtBuf 0) 2 0 st).wr chrtIlen 0x44 with mem := chartCells }
theorem test_chart_digest : sha384 (toLE 4 0x43480001 ++ toLE 4 1 ++ toLE 8 0x44 ++ List.replicate 0xC5 0 ++ [1, 1, 0x81, 1, 0, 0, 0, 1, 0, 0, 0, 0x40, 0, 0, 0, 0x41] ++
    List.replicate 0xEEF 0 ++ [0x91] ++ List.replicate 0x3B 0 ++ [1, 0, 0x42, 0x43, 0xF9, 0x42, 0xF3, 0x2B, 1] ++ List.replicate 0xB7 0) = chartDig := by decide +kernel
theorem chart_bytes (s : State) (h : s.mem = chartCells) : s.bytes 0 16 ++ s.bytes 0x40 0x10C0 =
    toLE 4 0x43480001 ++ toLE 4 1 ++ toLE 8 0x44 ++ List.replicate 0xC5 0 ++ [1, 1, 0x81, 1, 0, 0, 0, 1, 0, 0, 0, 0x40, 0, 0, 0, 0x41] ++
    List.replicate 0xEEF 0 ++ [0x91] ++ List.replicate 0x3B 0 ++ [1, 0, 0x42, 0x43, 0xF9, 0x42, 0xF3, 0x2B, 1] ++ List.replicate 0xB7 0 := by
  have zero (n a : Nat) (ok : ∀ c ∈ chartCells, c.1 < a ∨ a + n ≤ c.1) (low : a + n ≤ 0x2000) : s.bytes a n = List.replicate n 0 := by
    refine s.bytes_unlisted 0 n a (by rw [h]; exact ok) fun x h1 h2 => ?_
    unfold memReset; rw [if_neg (by omega)]
  have listed (n a : Nat) (bs : List Byte) (ok : ({ live with mem := chartCells } : State).bytes a n = bs) : s.bytes a n = bs :=
    (State.bytes_of_mem h n a).trans ok
  rw [show 0x10C0 = 0xC5 + (16 + (0xEEF + (1 + (0x3B + (9 + 0xB7))))) from rfl]
  simp only [State.bytes_append]
  rw [listed 16 0 (toLE 4 0x43480001 ++ toLE 4 1 ++ toLE 8 0x44) (by decide +kernel), zero 0xC5 _ (by decide +kernel) (by decide),
    listed 16 _ [1, 1, 0x81, 1, 0, 0, 0, 1, 0, 0, 0, 0x40, 0, 0, 0, 0x41] (by decide +kernel), zero 0xEEF _ (by decide +kernel) (by decide),
    listed 1 _ [0x91] (by decide +kernel), zero 0x3B _ (by decide +kernel) (by decide), listed 9 _ [1, 0, 0x42, 0x43, 0xF9, 0x42, 0xF3, 0x2B, 1] (by decide +kernel),
    zero 0xB7 _ (by decide +kernel) (by decide)]
  simp only [List.append_assoc]
theorem test_chart_valid : checkDigest (chartA 2) .bufA = none := by
  have len : chartLen (chartA 2) .bufA = 0x1100 := by decide +kernel
  have dig : (chartA 2).bytes 16 48 = chartDig := by decide +kernel
  have flaw : (chartA 2).firstFlaw 0 0x1100 = none ∧ (chartA 2).onDead 0 0x1100 = false := by decide +kernel
  have h := chart_bytes (chartA 2) rfl
  unfold checkDigest chartDigest
  rw [len]
  simp only [bufBase, Nat.zero_add, show 0x1100 - 0x40 = 0x10C0 from rfl]
  rw [dig, h, test_chart_digest]
  simp only [State.vtest, flaw.1, flaw.2, beq_self_eq_true, if_true, Bool.false_eq_true, if_false]
/-- A check whose reads meet nothing. -/
theorem checkRun_clean (s : State) (b : Buf) (f : State → Option VFail) (h : f s = none) : (s.checkRun b [] f).2 = none := by
  show (f s).map _ = none
  rw [h]; rfl
theorem test_hyp_ChartBuffers_valid : (chartA 2).bufState .bufA = 2 ∧ (chartA 2).chart.reverBuf ≠ some .bufA ∧ (chartA 2).anyRetrain = false ∧
    (chartA 2).memReady = true ∧ ((chartA 2).checkRun .bufA [] fun s => checkChart s .bufA (s.fld chrtIlen 26 0)).2 = none := by
  have h : (chartA 2).bufState .bufA = 2 ∧ (chartA 2).chart.reverBuf ≠ some .bufA ∧ (chartA 2).anyRetrain = false ∧ (chartA 2).memReady = true := by
    decide +kernel
  have f : checkForm (chartA 2) .bufA ((chartA 2).fld chrtIlen 26 0) = none ∧ checkCrcs (chartA 2) .bufA = none := by decide +kernel
  refine ⟨h.1, h.2.1, h.2.2.1, h.2.2.2, checkRun_clean _ _ _ ?_⟩
  show checkChart (chartA 2) .bufA ((chartA 2).fld chrtIlen 26 0) = none
  unfold checkChart
  rw [f.1, f.2, test_chart_valid]; rfl
def hpar1 (rtx : Nat) : DFrame := { frame1 with kind := 0x21, rtx }
theorem test_hyp_LaneStates_bring_up : live.canonical = true ∧ (laned 1 {}).canonical = true ∧ (laned 1 {}).laneEn 1 = false ∧
    (∃ m : LaneN, m < 1 ∧ ((laned 1 {}).wr (cellLcfg 1) 0).laneEn m = true ∧ ((laned 1 {}).wr (cellLcfg 1) 0).laneHub m = ((laned 1 {}).wr (cellLcfg 1) 0).laneHub 1) ∧
    (∀ m : LaneN, m < 0 → ¬ (live.laneEn m = true ∧ live.laneHub m = live.laneHub 0)) ∧
    maxN (List.replicate 7 20 ++ [24]) - minN (List.replicate 7 20 ++ [24]) = 4 ∧ maxN (List.replicate 7 20 ++ [25]) - minN (List.replicate 7 20 ++ [25]) = 5 ∧
    minN (List.replicate 8 100000) = 100000 ∧ minN (List.replicate 8 100001) = 100001 ∧ ((laned 2 { attempts := 3 }).lane 0).attempts = 3 ∧
    ((laned 2 { attempts := 4 }).lane 0).attempts = 4 ∧ ((laned 2 { token := 255 }).lane 0).token = 255 ∧ ((laned 4 {}).setBit (cellLcfg 0) 30 true).laneState 0 = 4 ∧
    ((laned 4 {}).setBit (cellLcfg 0) 30 true).bit (cellLcfg 0) 30 = true ∧ (laned 5 {}).laneState 0 = 5 ∧ (laned 5 {}).laneEn 0 = true := by decide +kernel
theorem test_hyp_LaneStates_frames : let s := laned 3 { await := [hpar1 1], hparSent := 3 }
    s.laneRx 0 = true ∧ s.laneState 0 = 3 ∧ (s.lane 0).hparSent = 3 ∧ ((laned 3 { await := [hpar1 2], hparSent := 4 }).lane 0).hparSent = 4 ∧
    ((s.lane 0).await ++ (s.lane 0).queue.filter fun f => f.rtx != 0).find? (fun f => f.seq == 3) = some (hpar1 1) ∧
    ((s.lane 0).await ++ (s.lane 0).queue.filter fun f => f.rtx != 0).find? (fun f => f.seq == 4) = none ∧ (hpar1 1).rtx < 2 ∧ ¬ (hpar1 2).rtx < 2 ∧
    (let t := laned 4 { queue := [{ frame1 with rtx := 1 }] }
     ((t.lane 0).await ++ (t.lane 0).queue.filter fun f => f.rtx != 0).find? (fun f => f.seq == 3) = some { frame1 with rtx := 1 }) ∧
    frame1.pcnt = live.pcnt16 ∧ live.per.commitPassed = false ∧ (ticking live { commitPassed := true }).per.commitPassed = true := by decide +kernel
theorem test_hyp_CellTraffic_hcdl : (live.wr cellUpofs 5).rd cellUpofs = 5 ∧ (laned 4 {}).uplinkOk 0 (uplink 17) = true ∧ byteAt (uplink 17) 4 % 32 = 17 := by decide +kernel
theorem test_hyp_Hubs_ports : let k : Hub := { configured := true, timed := true, num := some 0, hcdl := some 9, dual := true }
    k.dual = true ∧ ({ k with dual := false } : Hub).solved = [] ∧ ({ k with dual := false } : Hub).rx = [] ∧ (∀ r, r ∈ k.rx → r.frame.seq ≠ frame1.seq) ∧
    frame1.kind = 0x12 ∧ k.upstat = none ∧ ({ k with absent := 2 } : Hub).absent < 3 ∧ k.cells[(0 : Fin 16)].next = none ∧
    ({ k with cells := Vector.replicate 16 { next := some 3 } } : Hub).cells[(0 : Fin 16)].next = some 3 ∧ 90 ≤ 10 * k.hcdl.getD 0 ∧ 91 > 10 * k.hcdl.getD 0 := by decide +kernel
/-- GDDR6 is ready and a record waits. -/
def recording (used : Nat) : State := { live.setBit memStatus 31 true with cap := { snap := some snap1 }, gmem := { capUsed := used } }
theorem test_hyp_CaptureRing_withheld : ({ live with cap := { snap := some snap1 } } : State).capWithheld snap1 = true ∧ (recording 0).capWithheld snap1 = false ∧
    (recording 0).capLeft ≠ 0 ∧ (recording 0x10000).capLeft = 0 ∧ (recording 0).cap.snap = some snap1 ∧ ringSize - (recording 0).rd capWptr ≥ recMax ∧
    ({ frozen with cap := { resume := true } } : State).cap.resume = true ∧ (live.wr capTrigen 1).bit capTrigen 0 = true ∧
    (let s := { live.setBit memStatus 31 true with cap := { scan := true } }
     s.memReady = true ∧ s.anyRetrain = false ∧ s.le (ringBase + s.rd capWptr) 2 ≠ 0x4357) := by decide
theorem test_hyp_ChartBuffers_waits : let s := chartA 2
    ((s.checkRun .bufA [(4, { ecc := [.uncorrectable] })] fun s => checkForm s .bufA (s.fld chrtIlen 26 0)).2.bind (·.ue) = some 0x100) ∧ (bufA 2).memReady = false ∧
    ({ chartA 2 with gmem := { retraining := Vector.replicate 8 true } } : State).anyRetrain = true ∧ (bufA 6).bufState .bufA = 6 ∧
    ({ bufA 2 with chart := { reverBuf := some .bufA } } : State).chart.reverBuf = some .bufA := by decide +kernel
/-- Slot 0 holds a table that passes the checks, and its launch lookup is outstanding at state x. -/
def tabled (s : State) : State :=
  ((((s.setWord (slotBase 0) 0x50540001).setWord (slotBase 0 + 4) 0x010101).setWord (slotBase 0 + 0x10) 1).wr safPermit 1).wr srchClavail 1 |>.wr (cellAcfg 0) 0x80000000
def looking (s : State) (x : Int) : State := (s.setProb 0 { solving { lookup := true, chartBuf := some .bufA } with x0 := [x] }).setPhase 0 2
theorem test_hyp_ChartEngines_lookup : let s := looking (chartA 4) 5
    (s.prob 0).lookup = true ∧ s.lookWaits 0 = false ∧ (s.lookupReads 0).length = 3 ∧ s.phase 0 = 2 ∧
    (s.unitReads true ((s.lookupReads 0).zipIdx.map fun b => (b.1, [].getD b.2 {}))).2 = none ∧
    (s.lookSect 0).map (fun c => chartLook s c [5] [0]) = some (.course [[0]]) ∧
    ((s.setByte 0x10D0 1).lookSect 0).map (fun c => chartLook (s.setByte 0x10D0 1) c [5] [0]) = some .miss ∧
    ((s.setByte 0x1048 0).lookSect 0).map (fun c => chartLook (s.setByte 0x1048 0) c [5] [0]) = some .decodeError ∧
    (looking (chartA 1) 5).lookSect 0 = none ∧
    (s.unitReads true ((s.lookupReads 0).zipIdx.map fun b => (b.1, ([{ ecc := [.uncorrectable] }] : List Check).getD b.2 {}))).2 = some (0x1000, true) ∧
    (let t := looking ((chartA 4).setBit memStatus 31 false) 5
     t.lookWaits 0 = false ∧ (t.unitReads true ((t.lookupReads 0).zipIdx.map fun b => (b.1, {}))).2 = some (0x1000, false)) ∧
    ({ s with gmem := { retraining := Vector.replicate 8 true } } : State).lookWaits 0 = true := by decide +kernel
theorem test_hyp_ChartEngines_build : let s := tabled (chartA 1)
    s.bufState .bufA = 1 ∧ s.memDown (bufBase .bufA) 0x500 = false ∧ s.bad (bufBase .bufA) 0x500 = false ∧ s.word (bufBase .bufA) = 0x43480001 ∧
    nsec s .bufA = 1 ∧ s.chart.build = none ∧ s.buildRefused ((sections s .bufA).map (·.2)) = false ∧
    (chartA 1).buildRefused ((sections (chartA 1) .bufA).map (·.2)) = true ∧
    (let t := { s.wr chrtBldmask 1 with chart := { build := some ⟨.bufA, [table1], 0, [], []⟩ } }
     t.live .srch = true ∧ t.buildFree 0 = true ∧ t.memReady = true ∧ t.anyRetrain = false ∧ (sectAt t .bufA 0).product = 1 ∧ nsec t .bufA ≤ 0 + 1 ∧
     0 + 1 < nsec (t.setWord 4 2) .bufA ∧ (sectAt (t.setWord 0x120 0x10000) .bufA 0).product = 2) := by decide +kernel
theorem test_hyp_ChartEngines_verify : let s := { (chartA 2).setBit chrtStatus 27 true with chart := { reverBuf := some .bufA, bg := some .bufA } }
    s.chart.reverBuf = some .bufA ∧ s.bit chrtStatus 27 = true ∧ s.memReady = true ∧ s.anyRetrain = false ∧
    ((s.checkRun .bufA [(0, { ecc := [.uncorrectable] })] fun s => checkForm s .bufA (bufSize / 64)).2.isSome = true) ∧ s.chart.bg = some .bufA ∧
    ((s.checkRun .bufA [(0x41, { ecc := [.uncorrectable] })] fun s => (checkCrcs s .bufA).orElse fun _ => checkDigest s .bufA).2.isSome = true) ∧
    ((chartA 4).setFld chrtStatus 29 28 1).actBuf = some .bufA ∧ s.chart.pendRever = false ∧
    ({ s with chart := { s.chart with pendRever := true } } : State).chart.pendRever = true := by decide +kernel
/-- A background verification of the chart that finds nothing (R170). -/
theorem test_hyp_ChartEngines_background :
    ((chartA 2).checkRun .bufA [] fun s => (checkCrcs s .bufA).orElse fun _ => checkDigest s .bufA).2 = none := by
  refine checkRun_clean _ _ _ ?_
  have h : checkCrcs (chartA 2) .bufA = none := by decide +kernel
  show (checkCrcs (chartA 2) .bufA).orElse (fun _ => checkDigest (chartA 2) .bufA) = none
  rw [h, test_chart_valid]; rfl
theorem test_hyp_ClusterSelfTest_due : let r : Rotation := { powerupDone := true, left := 0 }
    let s := { ticking ((live.setBit srchCtrl 0 true).wr srchClavail 0xFFFF) { srchPassed := true } with rot := r }
    s.rotating = true ∧ s.per.running = true ∧ s.per.srchPassed = true ∧ s.dlFc 2 + 320 + 528 ≤ s.per.len ∧ s.rot.tested = false ∧ s.rot.segRunning = false ∧
    s.rot.ran = false ∧ s.testable s.rot.cur = true ∧ ¬ ({ s with rot := { r with ran := true } } : State).rot.ran = false ∧ r.cur < 16 ∧ r.stopped = false ∧
    (s.setFld srchStstat 6 4 4).fld srchStstat 6 4 = 4 ∧ s.rot.resumeAt.getD r.cur = 0 ∧ ({ r with resumeAt := some 15 } : Rotation).resumeAt.getD 0 = 15 ∧
    s.nextTest 15 = some 0 ∧ State.reset.rot.powerupDone = false := by decide
def withGmem (s : State) (m : Mem) : State := { s with gmem := m }
theorem test_hyp_Gddr6Access_errors : let a := 0x300000000
    (ready6.eccsAt a 8 [.uncorrectable]).find? (fun e => e.2 == .uncorrectable) = some (a, .uncorrectable) ∧
    (ready6.eccsAt a 8 []).find? (fun e => e.2 == .uncorrectable) = none ∧ (ready6.eccsAt a 4 [.uncorrectable]).find? (fun e => e.2 == .uncorrectable) = some (a, .uncorrectable) ∧
    ready6.fld memCfg 2 0 < 8 ∧ 0 ≤ ready6.fld memCfg 2 0 ∧ ((ready6.setFld (chrtBuf 0) 2 0 5).bufRefuses (.req .dma) 0 = true) ∧ (ready6.setFld (chrtBuf 0) 2 0 5).bufRefuses .builder 0 = false ∧
    (ready6.setFld (chrtBuf 0) 2 0 1).bufRefuses (.req .dma) 0 = false ∧
    ready6.bufRefuses (.req .dma) a = false ∧ a < retainBase ∧ ready6.bufRefuses (.req .dma) retainBase = false ∧ (withGmem ready6 { dead := Vector.replicate 8 true }).gmem.dead[ready6.chanOf a] = true ∧ a + 8 ≤ gddrEnd ∧
    (∀ w ∈ (withGmem ready6 { retraining := Vector.replicate 8 true, waiting := [mem1 0 8 none] }).gmem.waiting,
      (withGmem ready6 { retraining := Vector.replicate 8 true, waiting := [mem1 0 8 none] }).serve? w = false) ∧
    (ready6.setBit memCtrl 1 true).memWaits 0 = false ∧ (withGmem (ready6.setBit memCtrl 1 true) { retraining := Vector.replicate 8 true }).memWaits 0 = true ∧
    (ready6.setBit memCtrl 1 false).bit memCtrl 1 = false ∧ ((ready6.setFld memScrubpos 27 0 (gddrEnd / 64 - 1)).fld memScrubpos 27 0) + 1 = gddrEnd / 64 := by decide +kernel
theorem test_hyp_Gddr6Training_refresh : live.gmem.selfRefresh = false ∧ (∀ w ∈ live.gmem.waiting, w.data = none) ∧ 24 ≤ (24 : Byte).toNat ∧ (23 : Byte).toNat < 24 ∧
    (withGmem live { retraining := Vector.replicate 8 true, poisonDue := [0] }).gmem.poisonDue = [0] ∧ live.chanOf (64 * 0) = live.chanOf 0 ∧
    (live.setBit memCtrl 31 true).bit memCtrl 31 = true ∧ (withGmem live { training := true }).inUse 0 = true := by decide
theorem test_hyp_SafeStateCauses_outputs : calm.outputBad 0 true 1 = false ∧ calm.outputBad 0 false 1 = true ∧
    ({ calm with saf := { test := some (0, 0), active := 0 } } : State).outputBad 0 true 1000 = false ∧
    ({ calm with saf := { test := some (0, 0), active := 0 } } : State).outputBad 0 true 1001 = true ∧
    (let s := (calm.setBit safStatus 31 true).setFld safCfg 30 28 1
     s.bit safCfg 28 = true ∧ s.bit safCfg 29 = false ∧ s.safe = true ∧ s.saf.islandFault = false) ∧
    (let s := (calm.setBit safCfg 31 true).setBit cellRole 0 true; s.safe = false ∧ s.saf.pairWait = none ∧ s.bit safCfg 31 = true ∧ s.role = true) ∧
    ({ calm with saf := { timed := 1 } } : State).saf.excl.testBit 0 = false ∧ ({ calm with saf := { islandFault := true } } : State).saf.islandFault = true := by decide
theorem test_hyp_SafeRelease_tests : calm.saf.test = none ∧ ({ calm with saf := { test := some (3, 3) } } : State).saf.test = some (3, (4 : Fin 5).val - 1) ∧
    calm.saf.islandFault = false ∧ calm.safe = false ∧
    (let s : State := { calm with saf := { active := 0, reports := [(0, true), (1, false)], late := 1, timed := 3 } }
     s.saf.reports.contains (0, true) = true ∧ s.saf.reports.contains (1, false) = true ∧ s.saf.reports.contains (1, true) = false ∧ (s.cl 1).servedSimplex = false ∧
     ((s.setCl 1 { servedSimplex := true }).cl 1).servedSimplex = true) ∧
    (let s := { ((calm.setBit safStatus 31 true).setBit safCtrl 31 true).setFld safCfg 30 28 1 with saf := { active := 1 } }
     s.relOk = false ∧ ({ (s.wr safCause 0) with saf := { active := 1 &&& (allBits ^^^ 1) } } : State).relOk = true) := by decide
theorem test_hyp_IslandNotices_many : let s := (noted { window := 4, misses := Vector.replicate 4 2 }).setFld safCfg 19 16 4
    s.noticeOk (missBytes 3) 3 7 2 = true ∧ byteAt (missBytes 3) 6 = 3 ∧ s.fld safCfg 19 16 < s.saf.window + 1 ∧ s.saf.misses[(1 : Slot)] + 1 = 3 ∧
    ¬ (1 ≤ (s.setFld safCfg 23 20 0).fld safCfg 23 20) ∧ (s.setFld safCfg 23 20 1).fld safCfg 23 20 = 1 ∧ (noted {}).saf.enmask &&& (0xF ^^^ ((noted {}).saf.got % 16)) = 0 ∧
    (let t := (noted { yMark := Vector.replicate 4 (some 100), y1 := Vector.replicate 4 (some (2, -100)) }).wr (safYcfg 0) 0x80000000
     let r := readReport (reportBytes 9)
     r.srStat.testBit 13 = false ∧ t.fld (safYtol 0) 15 0 < ((floorSh (r.x.getD 0 0 * (t.fld (safYcfg 0) 15 0 : Int)) 16) - 100).natAbs ∧
     t.saf.y1[(0 : Fin 4)] = some ((r.pcnt + 2 ^ 32 - 1) % 2 ^ 32, -100) ∧ t.fld (safYtol 0) 31 16 < (100 - (-100) : Int).natAbs ∧
     (t.saf.yMark[(0 : Fin 4)] = some 100)) ∧
    (let t := ((noted { yMark := Vector.replicate 4 (some 100) }).wr (safYcfg 0) 0x80000000).wr (safYmod 0) 5
     t.fld (safYlim 0) 15 0 < (t.coarse 0 (t.coarse 0 100 [9]) [9]).natAbs) := by decide +kernel
theorem test_hyp_ChainFrames_pilot : let s := linked 3
    s.portDead .up true = false ∧ live.portDead .up true = true ∧ knownType 0x30 = false ∧ (readFrame (frameBytes (cframe 1 3 0))).typ = 1 ∧
    s.dataOn .up = true ∧ (s.setBit chnPilot 1 true).dataOn .up = false ∧ (readFrame (frameBytes (cframe 2 9 39))).hops = 39 ∧
    ((chained { inbox := List.replicate 7 (.up, false, cframe 1 3 0) }).chain.inbox.filter fun x => isRequest x.2.2.typ).length = 7 ∧
    (∀ c ∈ (chained { casts := [(5, 9, 0)] }).chain.casts, c.2.2 = 0) ∧ (∃ c ∈ (chained { casts := [(5, 9, 0)] }).chain.casts, c.1 = 5 ∧ c.2.1 = 9 ∧ c.2.2 = 0) ∧
    (live.hasAddr = false) ∧ (readFrame (frameBytes (cframe 2 9 0))).wrap = false := by decide +kernel
theorem test_hyp_ChainRequests_waits : let s := ((linked 3).wr chnCtrl 0x170).setBit memStatus 31 true
    s.rangeWaits 0 64 = false ∧ (withGmem s { retraining := Vector.replicate 8 true }).rangeWaits 0 64 = true ∧ s.bad 0x1000040000 64 = false ∧
    pageBase (safBase + 4) = safBase ∧ pageBase 0x1000040000 ≠ safBase ∧ (s.blocksRefused 0x200000000 1).isSome = true ∧ s.memReady = true ∧
    ((withGmem s { dead := Vector.replicate 8 true }).blocksRefused 0x300000000 2).isSome = true ∧ 0x300000000 + 128 ≤ retainBase ∧
    ({ s with chain := { bseqs := [(5, 65535, some 7)] } } : State).bseqOf 5 = (65535, some 7) ∧ ({ s with chain := { bseqs := [(5, 65535, none)] } } : State).chnData = true ∧
    s.clk.cdUp = true ∧ State.reset.chnUp true = true ∧ 0 + 4 * 64 ≤ 0x5000000000 ∧ (1024 : BitVec 16).toNat ≤ 1024 ∧ (2040 % 8 = 0 ∧ Nat.min 2040 2048 = 2040) := by decide +kernel
theorem test_hyp_ChainPairAndEnum_ends : (let s := { paired { paired := true } with saf := { active := 0, pairWait := some 7 } }
      s.pairOn = true ∧ (5 : Fin 64).val = s.fld chnPair 5 0 ∧ s.saf.pairWait.isSome = true ∧ (operatingOf s).safe = false) ∧
    (let s := operatingOf ((paired { paired := true }).setBit cellRole 0 false)
     s.pairOn = true ∧ s.chain.paired = true ∧ s.role = false ∧ s.safe = false) ∧
    ((paired { hbNow := true, hbs := 7 }).chain.hbNow = true) ∧ (hbSlots [0, 0, 0, 0, 0, 0, 0, 0]).length = 0 ∧
    (hbSlots ([0, 0, 0, 0, 0, 1, 0, 0] ++ List.replicate 24 0)).length = 1 ∧ (∀ e ∈ hbSlots [0, 0, 0, 0, 0, 0, 0, 0], ¬ live.hbDiffers e.1 0 [] = true) ∧
    (33 : Byte).toNat > 32 ∧ ({ live.setBit chnPilot 1 true with clk := { power := .standby } } : State).pilotOnly = true ∧ (paired {}).fld chnPairstat 2 0 = 0 := by decide
/-- The last result record of slot 0, deterministic, ends chain count 9; a heartbeat's entry of it has another cost. -/
theorem test_hyp_ChainPairAndEnum_differs : let s := (live.setWord (slotBase 0 + 0x1080) 9).setWord (slotBase 0 + 0x1084) 0x800
    s.hbDiffers 0 9 (toLE 4 0x800 ++ [1] ++ List.replicate 19 0) = true := by decide +kernel
theorem test_hyp_ChainMarks_flywheel : (chained { flyMark := some 7 }).chain.flyMark = some 7 ∧ 0 ≤ 2 * live.fld chnMkcfg 15 0 ∧
    ¬ (2 * live.fld chnMkcfg 15 0 + 1 ≤ 2 * live.fld chnMkcfg 15 0) ∧
    (let s := { chained {} with chain := { (chained {}).chain with dn := { seenMark := some ((linked 3).formCount true 9, 5), pilot := true } } }
     s.portState .up = 3 ∧ s.markPort = .up ∧ (s.cport (otherPort .up)).seenMark = some (s.formCount true 9, 5)) ∧
    (65 > 64) ∧ ({ linked 3 with clk := { power := .off } } : State).clk.power = .off ∧ ((linked 3).setBit clkCtrl 1 false).bit clkCtrl 1 = false := by decide
def badWord (s : State) (a : Nat) : State := { s with flaws := [a / 4] }
theorem test_hyp_HelmLocalAccess_checks : let k := regsAre fun r => if r = 1 then 0x10000000 else 0
    (core0 k).bad (localBase 0 + 0) 1 = false ∧ (core0 k).bad (k.segAddr (k.r 1)) 4 = false ∧ ({ core8 k with clk := { live.clk with power := .run } } : State).clk.power = .run ∧
    (core9 {}).ready 9 = true ∧ (∀ i < 4, moduleByte (k.segAddr (k.r 1) + i) = false) := by decide +kernel
theorem test_hyp_HelmSpecial_wait : let s := core0 { wfi := true }
    s.coreOn 0 = true ∧ (s.core 0).wfi = true ∧ (s.core 0).due = 0 ∧ ((core0 { wfi := true, ipend := 1, imask := 1 }).core 0).atBoundary = true ∧
    (core0 { wfi := true, ipend := 1, imask := 1 }).coreOn 0 = true := by decide
/-- Core 0 has its stack in GDDR6, whose channels retrain. -/
def held0 : State := withGmem ({ core0 { (regsAre fun _ => 0x20000100) with seg := (Vector.replicate 16 (0 : Word)) }
    with regs := ready6.regs }) { retraining := Vector.replicate 8 true }
theorem test_hyp_HelmCallReturn_waits : (held0.core 0).stores = [] ∧ ((held0.core 0).r 2).toNat % 4 = 0 ∧ (maskRegs 0).length + 1 = 1 ∧ held0.ready 0 = true ∧
    (2 ^ 28 ≤ ((held0.core 0).r 2 - 4).toNat ∧ ((held0.core 0).r 2 - 4).toNat % 2 ^ 28 + 4 ≤ 2 ^ 28 ∧
      (held0.core 0).segAddr ((held0.core 0).r 2 - 4) + 4 ≤ gddrEnd ∧ held0.memWaits ((held0.core 0).segAddr ((held0.core 0).r 2 - 4)) = true) ∧
    2 ^ 28 ≤ ((held0.core 0).r 2).toNat ∧ ((held0.core 0).r 2).toNat % 2 ^ 28 + 4 ≤ 2 ^ 28 ∧
      (held0.core 0).segAddr ((held0.core 0).r 2) + 4 ≤ gddrEnd ∧ held0.memWaits ((held0.core 0).segAddr ((held0.core 0).r 2)) = true := by decide +kernel
theorem test_hyp_HelmCallReturn_edges : (core0 (regsAre fun _ => 0x1000)).bad (localBase 0 + 0x1000) 4 = false ∧
    (core0 (regsAre fun _ => 0x20000)).ready 0 = true ∧ 0x20000 ≤ ((regsAre fun _ => 0x20000).r 2).toNat ∧
    0x20000 ≤ ((regsAre fun _ => 0x20004).r 2 - BitVec.ofNat 32 4).toNat ∧ ((regsAre fun _ => 0x20004).r 2 - BitVec.ofNat 32 4).toNat < 2 ^ 28 := by decide +kernel
theorem test_hyp_HelmExceptions_fetch : let s := badWord (core0 { pc := 0x400 }) (localBase 0 + 0x400)
    s.coreOn 0 = true ∧ (s.core 0).atBoundary = true ∧ (s.core 0).wfi = false ∧ (s.core 0).posted = none ∧ (s.core 0).interruptDue = false ∧
    (s.core 0).pc.toNat < 0x10000 ∧ s.bad (localBase 0 + (s.core 0).pc.toNat) 4 = true ∧ (s.core 0).stores = [] ∧
    (core8 { status := 1, ipend := 0x20000, imask := 0x20000 }).coreOn 8 = true ∧
    (∀ j < 17, ((0x20000 : Word) &&& 0x20000).getLsbD j = false) ∧ ((0x20000 : Word) &&& 0x20000).getLsbD 17 = true := by decide +kernel
theorem test_hyp_HelmReplies_lost : let s := core0 { pend := some pend1 }
    pend1.lost = false ∧ s.bad pend1.addr (loadSize pend1.kind) = false ∧ slotAt pend1.addr = none ∧ (s.core 0).running = true ∧ (s.core 0).posted = none ∧
    (core0 { pend := some { pend1 with lost := true } }).coreOn 0 = true ∧ (withGmem ready6 { retraining := Vector.replicate 8 true }).memWaits 0 = true ∧
    s.memWaits pend1.addr = false ∧ post1.size ∈ [1, 2, 4] ∧ post1.addr % post1.size = 0 ∧ (core8 { stores := [post1] }).clk.cdUp = true ∧
    ({ core8 { stores := [post1] } with clk := {} } : State).clk.cdUp = false ∧ post1.addr < 0x5000000000 := by decide +kernel
theorem test_hyp_HelmControl_stops : (live.core 0).stopping = false ∧ (core0 { stopping := true }).clk.power ≠ .idle ∧ ((core0 { stopping := true }).core 0).pend = none ∧
    ((core0 { stopping := true }).core 0).stores = [] ∧ ((core0 { stopping := true }).core 0).flight = [] ∧ (toFin 10 7 : CoreN).val < 8 ∧ (17 : Fin 18) = 17 := by decide
theorem test_hyp_HelmCustom_words : bits (0x2C000000 : Word).toNat 31 26 < 0x30 ∧ decodeHelm 8 0xA0000000 = none ∧ (decodeHelm 8 0x04A2FFF0).isSome = true ∧
    (core8 {}).ready 8 = true ∧ ((core8 {}).core 8).stores = [] ∧ ((core8 {}).core 8).status.getLsbD 3 = false ∧ (custom 0x80000001).storesWait 0 = false ∧
    bits (0xA0000000 : Word).toNat 31 26 < 0x30 := by decide
/-- Words by the formats of R350: ADDI w5, w2, −16 and ADD w1, w2, w3, from the opcodes of R352. A non-zero unused field is illegal (R351). -/
theorem test_decode_helm : decodeHelm 8 0x04A2FFF0 = some (.addi 8 5 2 0xFFF0) ∧ decodeHelm 8 0x00221800 = some (.add 8 1 2 3) ∧
    encodeHelm (.addi 8 5 2 0xFFF0) = some 0x04A2FFF0 ∧ decodeHelm 8 0x00221820 = none := by decide
theorem test_hyp_ManagementPort_words : (porting { phase := .dead }).port.phase = .dead ∧ (porting { phase := .regRead, index := 0x0C }).clk.ms = 0 ∧
    (porting { phase := .regRead, index := 0x61 }).port.index = 0x61 ∧ (porting { phase := .winWrite, queue := List.replicate 7 (0, 0) }).port.queue.length < 8 ∧
    ((live.setBit mptCtrl 1 true).bit mptCtrl 1 = true) ∧ ({ live with clk := { power := .off } } : State).clk.power = .off ∧ (31 : Fin 32) ≠ 0 := by decide
theorem test_hyp_ManagementWindow_waits : let s := porting { queue := [(0, 7)] }
    (withGmem { ready6 with port := s.port } { retraining := Vector.replicate 8 true }).memWaits 0 = true ∧ live.bad 0x1000040000 4 = false ∧
    (porting { phase := .winRead, index := 2 }).fld mptCtrl 9 8 + 1 ≤ 2 ∧ s.port.queue ≠ [] ∧ live.clk.cdUp = true := by decide
theorem test_hyp_BootSteps_warm : let s := { (booting 5).setBit memStatus 31 true with boot := { step := 5, slot := some 0, warm := true }, gmem := { retained := true } }
    s.inStep 5 = true ∧ s.boot.warm = true ∧ s.gmem.retained = true ∧ s.memReady = true ∧ (s.stageFrom (s.staged 0) fun x => retainBase + x.2).2 = true ∧
    ({ s with regs := live.regs } : State).memReady = false ∧ (State.reset.setBit nvrStatus 31 true).inStep 1 = true ∧
    ((State.reset.setBit nvrStatus 31 true).completeGen [(0, 3)]).bbChoice = none ∧ (blocked.completeGen [(1, 0)]).bbChoice = some 1 ∧
    (let t := { booting 6 with boot := { step := 6, slot := some 0 } }; t.inStep 6 = true ∧ t.boot.slot = some 0 ∧ ∀ c : ChanN, t.gmem.retraining[c] = false) ∧
    (let t := { booting 8 with chain := (linked 3).chain, regs := (linked 3).regs }
     t.inStep 8 = true ∧ t.portLock .up 6 = true ∧ t.portState .up = 3 ∧ t.portState .dn = 3 ∧ t.hasAddr = true ∧ (t.wr chnAddr 0).hasAddr = false ∧ t.bit chnPilot 1 = false) ∧
    (booting 10).bit bootStatus 28 = false ∧ ((booting 9).setBit bootStatus 28 true).bit bootStatus 28 = true ∧ ((booting 1).setFld bootStatus 19 16 2).fld bootStatus 19 16 + 1 = 3 := by
  decide +kernel
theorem test_hyp_BootCommands_resets : ({ live with boot := { slot := some 0 }, clk := { live.clk with cdRstReq := true } } : State).clk.power ≠ .off ∧ live.clk.cdUp = true ∧
    State.reset.clk.cdUp = false ∧ (let t := { operating (3, 0x10000000000, List.replicate 256 1) with boot := { density := 2 ^ 20 } }; t.boot.op = none) ∧
    (let s := live.wr (bootBufw 0) 0x4D560001; leAt ((List.range 64).flatMap fun w => toLE 4 (s.rd (bootBufw w))) 0 4 = 0x4D560001) ∧ live.boot.bbGen < 256 ∧
    ({ live with boot := { bbGen := 256 } } : State).boot.bbGen = 256 ∧ live.fld bootVer 31 16 < 1 ∧ 1 ≤ (live.wr bootVer 1).fld bootVer 15 0 := by decide +kernel
theorem test_hyp_GatesAndBlockResets_lost : let s := { live.setBit pwrBrstat (blkIdx .mem) true with gmem := { retained := true, selfRefresh := true } }
    s.inReset .mem = true ∧ s.gmem.retained = true ∧ live.gmem.retained = false ∧ (live.setBit pwrBrstat (blkIdx .cap) true).inReset .cap = true ∧
    (∀ q ∈ live.gmem.waiting, q.data = none) ∧ Blk.srch ∈ [Blk.srch, .cell, .evt, .plt, .ser] ∧ (live.setBit clkGate 3 true).gated .cap = false ∧
    ((live.setBit clkGate 3 true).setBit clkGstat 3 true).gated .cap = true ∧ live.clk.power ≠ .idle := by decide
theorem test_hyp_SuppliesAndPower_held : let s : State := { powered .starting with clk := { held := true } }
    s.clk.held = true ∧ s.clk.cdUp = false ∧ s.saf.islandFault = false ∧ s.clk.power ≠ .off ∧ State.reset.clk.held = false ∧
    ({ powered .dormant with clk := { (powered .dormant).clk with wakes := 8 } } : State).clk.wakes.testBit 3 = true ∧ (powered .dormant).clk.power = .dormant ∧
    ({ live with clk := { live.clk with mainLost := true, wasRun := true } } : State).clk.mainLost = true := by decide
theorem test_hyp_AccessRefusals_memory : isPeriodSram 0x1000040000 = true ∧ isScratch 0x2000000000 = true ∧ live.bad 0x1000040000 64 = false ∧
    0x1000040000 % 64 = 0 ∧ ¬ (0x1000040001 % 2 = 0) ∧ (BitVec.ofNat 40 (safBase + 2)).toNat % 4 ≠ 0 ∧ pageBase (BitVec.ofNat 40 safBase).toNat = safBase ∧
    (List.replicate 3 (0 : Byte)).length = 3 := by decide
theorem test_hyp_RegisterAccess_pages : (BitVec.ofNat 40 sysBase).toNat % 4 = 0 ∧ pageBase (BitVec.ofNat 40 (chrtBase + 4)).toNat = chrtBase ∧
    (regDesc (BitVec.ofNat 40 (chrtBase + 4)).toNat).isSome = true ∧ live.pageReset sysBase = false ∧ live.pageGated chrtBase = false ∧
    pageBase (BitVec.ofNat 40 capBase).toNat ∈ [sysBase, srchBase, cellBase, capBase, memBase, chnBase, clkBase, bootBase] ∧
    (∀ b ∈ [sysBase, srchBase, cellBase, capBase, memBase, chnBase, clkBase, bootBase], live.pageReset b = false ∧ live.pageGated b = false ∧ (regDesc b).isSome = true) := by
  decide +kernel
theorem test_hyp_PaceAndClocks_windows : ({ live with clk := { live.clk with target := some 1 } } : State).clk.target = some (toFin 3 (Nat.min (Nat.max (Nat.min 1 2) 0) 2)) ∧
    ({ live with clk := { live.clk with streaks := (9, 9) } } : State).clk.streaks = (9, 9) ∧ (105 * 16 : Int) < 105 * 16 + 1 ∧ 44 * 100 < 100 * 45 ∧ ({ live with clk := { live.clk with target := some 1, lockOk := true } } : State).clk.lockOk = true := by
  decide
theorem test_hyp_FlashOperations_done : (flashing ⟨1, 63, 4095, List.replicate 16 0, 0⟩).flash.op = some ⟨1, 63, 4095, List.replicate 16 0, 0⟩ ∧
    (flashing ⟨5, 0, 0, [], 0⟩).bit flsStatus 31 = true ∧ (flashing ⟨6, 63, 0, [], 0⟩).flash.op = some ⟨6, 63, 0, [], 0⟩ ∧ live.requesterBank .mgmt ≠ some (bankOf 40) := by decide +kernel

/-! ## Clauses on what waits, on checks, and on blocks that do not act -/

theorem test_hyp_Deadlines_waiting : let s := operatingOf (slot1 (ticking live { fixPassed := true }) 2 { oneCl with fixRdy := true })
    s.safe = false ∧ s.live .srch = true ∧ (s.prob 1).launched = true ∧ (s.prob 1).byMark = true ∧ s.phase 1 = 2 ∧ (s.prob 1).decided = false ∧
    s.fixSettled (s.prob 1) = false ∧ (s.prob 1).fixRdy = true ∧ s.per.provPassed = false ∧
    (let d : Problem := { oneCl with tbl := { determ := true, budget := 300 } }
     s.dlFc 2 < d.launchFc + s.sClose d + s.dlFc 2 ∧ (slot1 s 3 { d with launchFc := s.dlFc 2 }).dlFc 2 < s.dlFc 2 + s.sClose d + d.stall ∧
     d.tbl.determ = true ∧ d.tbl.budget ≠ 0 ∧ ¬ (ticking live { len := 25000, dls := Vector.replicate 5 900 }).dlFc 2 < d.launchFc + live.sClose d + d.stall) := by
  decide +kernel
theorem test_hyp_SearchLoop_checks : let s := owned (slot1 live 2 oneCl) { flight := [⟨node1, []⟩] }
    s.serving 0 = some 1 ∧ oneCl.emask.testBit 0 = true ∧ oneCl.gathered = false ∧ s.phase 1 = 2 ∧ oneCl.chWait = none ∧ (s.cl 0).flight = [⟨node1, []⟩] ∧
    oneCl.tbl.check ≠ 2 ∧ (slot1 live 1 oneCl).serving 0 = some 1 ∧ (slot1 live 1 oneCl).phase 1 = 1 ∧
    (owned (slot1 live 2 { oneCl with chWait := some 9 }) {}).serving 0 = some 1 := by decide
theorem test_hyp_GatherAndVerdict_gated : let s := (slot1 live 4 { oneCl with provGather := some [1] }).setBit clkGstat (blkIdx .cell) true
    s.live .cell = false ∧ s.live .srch = true ∧ (s.prob 1).provGather = some [1] ∧ live.live .cell = true ∧
    (slot1 live 4 { oneCl with gathered := true, inc := some inc1, tshWide := true, tbl := { check := 1 } }).awaiting 1 1 = true ∧
    ({ oneCl with tbl := { determ := true, budget := 0 } } : Problem).tbl.budget = 0 := by decide
theorem test_hyp_Hubs_counted : ({ gotBlock := true, absent := 1 } : Hub).gotBlock = true ∧ ({ gotBlock := true, absent := 1 } : Hub).absent ≠ 0 ∧
    ({ gotBlock := true } : Hub).absent = 0 := by decide
theorem test_hyp_CellTraffic_line : (List.replicate 8 (5 : Byte)).length = 8 ∧ ({ sync := 0, pay := 1 } : Block66).sync = 0 ∧
    (frameBlocks [1, 2])[1]? = some (dataBlock [1, 2]) ∧ (dataBlock [1, 2]).pay = 0x0201 ∧ 39 ≤ 39 ∧ ¬ 39 ≤ 38 := by decide
theorem test_hyp_Lines_lock : (({} : RxLock).blocks (List.replicate 64 (dataBlock [1]))).locked = true ∧
    (({} : RxLock).chars (List.replicate 16 .idle)).locked = true ∧ (({ locked := true } : RxLock).chars (List.replicate 4 .invalid)).locked = false ∧
    (({ locked := true } : RxLock).blocks (List.replicate 16 { sync := 0, pay := 0 })).locked = false ∧
    (({ locked := true } : RxLock).blocks (List.replicate 15 { sync := 0, pay := 0 })).locked = true ∧
    (let f : CFrame := { typ := 1, dst := 2, src := 3, hops := 4, wrap := true, tag := 5, pay := [6, 7] }
     readFrame (frameBytes f) = f ∧ f.chars.length = 16) ∧
    (CMark.block { port := .up, lane := .d0, ccl := 0x030201, ofs := 0x060504, hops := 7, hi := true }).pay = 0x4706050403020166 := by decide +kernel
theorem test_hyp_CaptureRing_allotment : (recording 0).capWithheld snap1 = false ∧ (recording 0x10000).capLeft = 0 ∧
    (recording 0x10000).cap.wrote < ((recording 0x10000).recWrites snap1).length ∧
    (let s := (recording 31).wr capWptr (ringSize - 64)
     s.capWithheld snap1 = false ∧ s.capLeft = 1 ∧ s.cap.wrote + 1 < (s.recWrites snap1).length) ∧
    ((recording 0).recWrites snap1).length ≤ (recording 0).capLeft ∧
    (let s := { (live.setBit memStatus 31 true).wr memAllot 0x00100090 with cap := { scan := true } }
     144 ≤ s.capLeft ∧ s.memReady = true ∧ s.anyRetrain = false ∧ s.le (ringBase + s.rd capWptr) 2 ≠ 0x4352) ∧
    ((live.setBad ringBase 8).scanRing 1 0 0 0).ue = some ringBase ∧
    (let u := live.scanRing 1 0 0 0; u.ue = none ∧ 0 + Nat.min 1 (u.bursts - 0) ≤ u.bursts) := by decide +kernel
theorem test_hyp_ChartEngines_met : let s := tabled (chartA 1)
    (burstsOf (bufBase .bufA) 0x500).any s.memWaits = false ∧ (burstsOf (bufBase .bufA) 0x500).any (withGmem s { retraining := Vector.replicate 8 true }).memWaits = true ∧
    (s.longRead (bufBase .bufA) 0x500 []).2 = true ∧ headOk (s.longRead (bufBase .bufA) 0x500 []).1 .bufA = true ∧
    (s.longRead (bufBase .bufA) 0x500 [(0, { ecc := [.uncorrectable] })]).2 = false ∧
    (s.longRead (bufBase .bufA) 0x500 []).1.buildRefused ((sections (s.longRead (bufBase .bufA) 0x500 []).1 .bufA).map (·.2)) = false ∧
    ({ s with chart := { build := some ⟨.bufB, [], 0, [], []⟩ } } : State).chart.build.isSome = true := by decide +kernel
theorem test_hyp_ChartEngines_allotment : let s := looking (chartA 4) 5
    let u := s.wr memAllot 0x10001
    (u.lookNow 0).length = 1 ∧ (u.lookNow 0).length < (u.lookupReads 0).length ∧ u.lookWaits 0 = false ∧
    (u.unitReads true ((u.lookNow 0).zipIdx.map fun b => (b.1, {}))).2 = none := by decide +kernel
theorem test_hyp_Gddr6Access_users : memSizeOk true 0 64 = true ∧ MemUser.scrub = .scrub ∧ (ready6.setFld chrtStatus 29 28 1).actBuf = some .bufA ∧ bufAt 0 = some .bufA ∧
    (ready6.eccsAt 0 64 [.uncorrectable]).find? (fun e => e.2 == .uncorrectable) = some (0, .uncorrectable) ∧ retainBase < gddrEnd ∧
    (ready6.bufRefuses (.req .dma) retainBase = false ∧ 16 * 85 < (1361 : Int) ∧ (1279 : Int) < 16 * 80) := by decide
theorem test_hyp_Gddr6Training_mode : (live.setBit memStatus 8 true).inUse 0 = true ∧ (ready6.setFld memTrctl 23 16 1).inUse 0 = false ∧
    ((ready6.setFld memTrctl 23 16 1).setBit memStatus 8 true).bit memStatus 8 = true ∧ (2 : Byte).getLsbD 1 = true ∧ (2 : Byte).getLsbD 0 = false := by decide
theorem test_hyp_SafeStateCauses_island : ({ calm with clk := live.clk } : State).islandOn = true ∧
    ({ calm with clk := { power := .dormant } } : State).islandOn = false ∧ calm.islandOn = true ∧
    (let s := calm.setCore 9 { outs := [(0, .fetch 4)] }
     ((s.core 9).outs.map (·.2))[0]? = some (.fetch 4) ∧ ((s.core 9).outs.map (·.2))[0]? ≠ some (.fetch 8)) := by decide
theorem test_hyp_SafeRelease_island : calm.islandOn = true ∧ ({ calm with saf := { islandFault := true } } : State).islandOn = false ∧
    ((calm.setCore 9 { lsstat := 1 }).core 9).lsstat = 1 ∧ (calm.core 9).lsstat ≠ 1 ∧
    ({ calm with saf := { pairWait := some 7 } } : State).saf.pairWait.isSome = true := by decide
theorem test_hyp_IslandNotices_prev : let r := readReport (reportBytes 9)
    (let s := (noted { yMark := Vector.replicate 4 (some 1) }).wr perCount r.pcnt
     r.pcnt = s.rd perCount ∧ s.saf.yMark[(0 : Fin 4)] = some 1) ∧
    (let s := (noted { yPrev := Vector.replicate 4 (some 2) }).wr perCount (r.pcnt + 1)
     r.pcnt ≠ s.rd perCount ∧ s.saf.yPrev[(0 : Fin 4)] = some 2) ∧ (noted {}).islandOn = true := by decide +kernel
theorem test_hyp_ChainPorts_peer : let s := (linked 3).wr chnMkstat 0x40000000
    s.chnData = true ∧ s.portState .up = 3 ∧ s.bit chnMkstat 30 = true ∧ s.bit chnMkstat 31 = false ∧ s.portState .dn = 3 ∧ (linked 3).bit chnMkstat 30 = false ∧
    (let t := ((paired { paired := true }).setBit cellRole 0 false).setBit chnPairstat 5 true
     t.pairPort = .up ∧ t.bit chnPairstat 5 = true ∧ (operatingOf t).canTake = true ∧ (t.setBit cellRole 0 true).canTake = false ∧ t.pairOn = true ∧
     (operatingOf t).portState .up = 3) ∧ (measuring 3 [] 1).portState .up = 3 ∧ ((measuring 3 [] 1).cport .up).measuring = true ∧
    (measuring 2 [] 1).dataOn .up = true ∧ ({ linked 3 with clk := { power := .standby } } : State).clk.power ≠ .off := by decide
theorem test_hyp_ChainMarks_trim : let s := ((linked 3).setBit clkStatus 31 true).setBit clkCtrl 1 true
    s.laneIn .up .pl = true ∧ s.clk.trimSeen = false ∧ ({ s with clk := { s.clk with trimSeen := true, trimCode := -2048 } } : State).clk.trimSeen = true ∧
    (-2048 : Int) ≤ -2048 ∧ (linked 3).blockLane .up = .d0 := by decide
theorem test_hyp_HelmLocalAccess_latching : let k := regsAre fun r => if r = 1 then 0x10000000 else 0
    let s := (core0 k).setPhase 0 1
    s.latching (k.segAddr (k.r 1)) = true ∧ s.ready 0 = true ∧ isPeriodSram (k.segAddr (k.r 1)) = true ∧ s.bad (k.segAddr (k.r 1)) 4 = false ∧
    (∀ i < 4, moduleByte (k.segAddr (k.r 1) + i) = false) ∧ s.latching { post1 with addr := 0x1000000000 }.addr = true := by decide
theorem test_hyp_HelmSpecial_force : let s := core9 {}
    let armed := ({ lsArm := some false } : Core)
    s.safe = true ∧ s.bit safCtrl 31 = false ∧ (calm.setBit safCtrl 31 true).safe = false ∧ armed.lsArm = some false ∧ ({} : Core).lsArm = none := by decide
/-- Core 0 with entry 0 of class 0, its first microword the two words lo and hi, and contents k. -/
def coded (d lo hi : Nat) (k : Core) : State := ((core0 k).wr (hlmDt 0 0) d).wr (hlmDt 0 0 + 0x400) lo |>.wr (hlmDt 0 0 + 0x404) hi
def word0 (s : State) : UWord := uwordOf (s.tableWord 0 0x400 + 2 ^ 32 * s.tableWord 0 0x404)
/-- The high word of a microword: fin, unit, fn, dst, selector a; the low word: selector b. -/
def uhi (fin : Bool) (seq unit fn dst a : Nat) : Nat := b2n fin * 2 ^ 31 + seq * 2 ^ 28 + unit * 2 ^ 16 + fn * 2 ^ 11 + dst * 2 ^ 7 + a * 2 ^ 3
theorem test_hyp_HelmCustom_units : ∀ unit < 5, let dst := if unit = 1 ∨ unit = 4 then 0 else 1
    let s := coded 0x80000001 0x80000000 (uhi true 0 unit 0 dst 2) {}
    let u := word0 s
    s.ready 0 = true ∧ (s.tableWord 0 0).testBit 31 = true ∧ u.legal = true ∧ u.fin = true ∧ u.unit = unit ∧ u.dst = dst ∧ u.a = 2 ∧ u.b = 1 ∧
    (s.core 0).flight = [] ∧ (s.core 0).stores = [] ∧ (s.core 0).status.getLsbD 3 = false := by decide
theorem test_hyp_HelmCustom_memory : let k := regsAre fun r => if r = 1 then 0x10040000 else 0
    (∀ d ∈ [0x80000001, 0xC0000001], (coded d 0 (uhi true 0 3 0 1 2) k).tableWord 0 0 = d) ∧ (0x80000001 : Nat).testBit 30 = false ∧ (0xC0000001 : Nat).testBit 30 = true ∧
    2 ^ 28 ≤ (k.r 1 + 0).toNat ∧ (k.r 1).toNat % 4 = 0 ∧ isPeriodSram (k.segAddr (k.r 1)) = true ∧ slotAt (k.segAddr (k.r 1)) = none ∧
    live.bad (k.segAddr (k.r 1)) 4 = false ∧ (k.r 2 + 0).toNat < 0x20000 ∧ live.bad (localBase 0) 1 = false ∧
    (operandsOf 0 (BitVec.ofNat 26 (1 * 2 ^ 16))).ra = 1 ∧ ((regsAre fun _ => 0x10040002).r 1).toNat % 4 ≠ 0 := by decide +kernel
theorem test_hyp_HelmCustom_two : ∀ c ∈ [(0, 0, 5), (4, 3, 6), (5, 0, 12), (1, 0, 7), (0, 5, 0)], let s := coded 0x80000002 0x80000000 (uhi false c.1 c.2.1 0 c.2.2 2) {}
    let u := word0 s
    u.legal = true ∧ u.fin = false ∧ u.seq = c.1 ∧ u.unit = c.2.1 ∧ u.dst = c.2.2 ∧ bits (s.tableWord 0 0) 7 0 = 2 ∧ bits (s.tableWord 0 0) 24 16 < 511 ∧ u.tgt = 0 := by
  decide
theorem test_hyp_HelmCustom_last : let s := coded 0x80000002 0x80000000 (uhi true 0 0 0 1 5) {}
    let u := word0 s
    u.legal = true ∧ u.fin = true ∧ u.unit = 0 ∧ u.dst = 1 ∧ u.a = 5 ∧ u.b = 1 ∧ bits 0x81FF0001 24 16 = 511 ∧
    (word0 (coded 0x80000001 0 (uhi true 0 7 0 1 0) {})).legal = false := by decide
theorem test_hyp_HelmCustom_words_run : (decodeHelm 0 0x04A2FFF0).isSome = true ∧ bits (0x04A2FFF0 : Word).toNat 31 26 < 0x30 ∧ (core0 {}).ready 0 = true ∧
    (∃ w, bits (w : Word).toNat 31 26 < 0x30 ∧ decodeHelm 0 w = some (.lw 0 5 2 0xFFF0 .clean)) ∧
    ∃ w, bits (w : Word).toNat 31 26 < 0x30 ∧ decodeHelm 0 w = some (.ret 0 7 []) :=
  ⟨by decide, by decide, by decide, ⟨(encodeHelm (.lw 0 5 2 0xFFF0 .clean)).getD 0, by decide, by decide⟩,
    ⟨(encodeHelm (.ret 0 7 [])).getD 0, by decide, by decide⟩⟩
theorem test_hyp_ManagementPort_late : let s := porting { phase := .winRead, index := 1, word := some 0 }
    s.port.phase = .winRead ∧ s.port.word.isSome = true ∧ s.fld mptCtrl 9 8 + 1 ≤ s.port.index ∧ (∀ d ∈ s.port.data, d.1 ≠ 0) ∧ s.port.phase ≠ .idle := by decide
theorem test_hyp_ManagementWindow_checks : live.clk.cdUp = true ∧ isPeriodSram 0x1000040000 = true ∧ slotAt 0x1000040000 = none ∧ 0x1000040000 % 4 = 0 ∧
    ({ ecc := [.uncorrectable] } : Check).ecc = [.uncorrectable] ∧
    (porting { reads := [{ addr := 0x1000040000, want := some 0, gate := .closing }] }).port.reads = [{ addr := 0x1000040000, want := some 0, gate := .closing }] := by decide
/-- SFDP of a memory of 32 MB with two read modes. -/
def sfdp1 : Sfdp :=
  { density := 0x2000000, fourByte := true, modes := [⟨.m114, 0x6B, some 0x6C, 8, true⟩, ⟨.m188, 0xCB, none, 16, false⟩],
    erases := [⟨12, 0x20, some 0x21⟩, ⟨16, 0xD8, some 0xDC⟩, ⟨18, 0xC7, none⟩], page := ⟨8, 0x02, some 0x12⟩ }
theorem test_hyp_BootSteps_port : (booting 2).inStep 2 = true ∧ 0x1000000 < sfdp1.density ∧ sfdpUsable sfdp1 ⟨.m114, 0x6B, some 0x6C, 8, true⟩ = true ∧
    ((booting 2).setBit bootStatus 27 true).bit bootStatus 27 = true ∧ (booting 2).bit bootStatus 27 = false ∧ (booting 2).boot.fromRecovery = false ∧
    ({ booting 2 with boot := { step := 2, fromRecovery := true } } : State).boot.fromRecovery = true ∧
    ({ booting 4 with clk := { live.clk with mainLost := true } } : State).clk.mainLost = true ∧
    (let s := { (booting 5).setBit memStatus 31 true with boot := { step := 5, slot := some 0, warm := true }, gmem := { retained := true } }
     (s.stageRetained (s.staged 0) []).2 = true) ∧
    (withGmem (booting 6) { training := true }).gmem.training = true := by decide +kernel
theorem bytes_before (s : State) {a : Nat} {bs : List Byte} : ∀ n x, x + n ≤ a → (s.setBytes a bs).bytes x n = s.bytes x n
  | 0, _, _ => rfl
  | n + 1, x, h => by
    rw [State.bytes, State.bytes, State.byte_setBytes_ne s (Or.inl (by omega)), bytes_before s n (x + 1) (by omega)]
theorem bytes_zero (s : State) : ∀ n a, (∀ x, a ≤ x → x < a + n → s.byte x = 0) → s.bytes a n = List.replicate n 0
  | 0, _, _ => rfl
  | n + 1, a, h => by
    rw [State.bytes, h a (Nat.le_refl _) (by omega), bytes_zero s n (a + 1) fun x h1 h2 => h x (by omega) (by omega)]; rfl
theorem genFrom_full (s : State) (c : Fin 2) (h : ∀ x, bbBase c + 0xF000 ≤ x → x < bbBase c + 0x10000 → s.byte x = 0) :
    ∀ n k, k + n ≤ 256 → genFrom s c n k = k + n
  | 0, _, _ => rfl
  | n + 1, k, hk => by
    rw [genFrom, if_pos (bytes_zero s 16 _ fun x h1 h2 => h x (by omega) (by omega)), genFrom_full s c h n (k + 1) (by omega)]; omega
theorem test_hyp_BootSteps_margin : (blocked.setBit nvrStatus 31 true).bbChoice = some 1 ∧ (blocked.setBit nvrStatus 31 true).bbGenOf 1 < 256 ∧
    blocked.inStep 1 = true := by decide +kernel
/-- Every GEN line of copy 1 is programmed: its generation is 256. -/
theorem spent_of (s : State) (bs : List Byte) (hl : bs.length = 4096) (hz : ∀ j (h : j < bs.length), bs[j] = 0)
    (h0 : s.bbValid 0 = false) (h1 : s.bbValid 1 = true) :
    (s.setBytes (bbBase 1 + 0xF000) bs).bbChoice = some 1 ∧ 256 ≤ (s.setBytes (bbBase 1 + 0xF000) bs).bbGenOf 1 := by
  have hv : ∀ c, (s.setBytes (bbBase 1 + 0xF000) bs).bbValid c = s.bbValid c := fun c => by
    have hb : bbBase c ≤ bbBase 1 := by revert c; decide
    have h (x n : Nat) (hx : x + n ≤ bbBase 1 + 0xF000) : (s.setBytes (bbBase 1 + 0xF000) bs).bytes x n = s.bytes x n :=
      bytes_before _ n x hx
    simp only [State.bbValid, State.word, State.le, h (bbBase c) 4 (by omega), h (bbBase c + 0x70) 4 (by omega), h (bbBase c) 0x70 (by omega)]
  refine ⟨by simp only [State.bbChoice, hv, h0, h1], ?_⟩
  rw [State.bbGenOf, genFrom_full _ 1 (fun x h1 h2 => ?_) 256 0 (by omega)]
  have : bbBase 1 + 0xF000 ≤ x ∧ x < bbBase 1 + 0xF000 + bs.length := by omega
  rw [State.byte_setBytes, dif_pos this, hz]
theorem test_hyp_BootSteps_spent : ∃ g : State, g.bbChoice = some 1 ∧ 256 ≤ g.bbGenOf 1 ∧ g.inStep 1 = true := by
  have h := spent_of (blocked.setBit nvrStatus 31 true) (List.replicate 4096 0) List.length_replicate (fun _ _ => List.getElem_replicate ..)
    (by decide +kernel) (by decide +kernel)
  refine ⟨_, h.1, h.2, ?_⟩
  rw [State.setBytes_eq]; decide +kernel
theorem test_hyp_BootCommands_dies : let s : State := { live with clk := { live.clk with cdRstReq := true, hang := true }, boot := { slot := some 0 } }
    s.clk.cdRstReq = true ∧ s.boot.slot.isSome = true ∧ s.clk.mainLost = false ∧ s.clk.power ≠ .off ∧ s.clk.power ≠ .recovery ∧ s.clk.cdUp = true ∧
    live.gmem.selfRefresh = false ∧ ({ live with boot := { sfdp := some sfdp1 } } : State).eraseUnit = 0x10000 ∧ live.boot.recalled = false ∧
    ({ live with clk := { refSel := true } } : State).clk.refSel = true := by decide
theorem test_hyp_FlashOperations_refresh : ∀ ph < 4, (flashing ⟨6, 40, 7, [], ph⟩).flash.op = some ⟨6, 40, 7, [], ph⟩ ∧ (flashing ⟨6, 40, 7, [], ph⟩).bit flsStatus 31 = true ∧
    ({ flashing ⟨6, 40, 7, [], ph⟩ with flash := { op := some ⟨6, 40, 7, [], ph⟩, warn := true } } : State).flash.warn = true ∧
    Nat.max 7 (Nat.min 4096 4096) = 4096 ∧ Nat.max 7 (Nat.min 9 4096) < 4096 := by decide
theorem test_hyp_PaceAndClocks_target : let s : State := { live with clk := { live.clk with target := some 1, voltOk := false } }
    s.clk.target.isSome = true ∧ s.clk.voltOk = false ∧ ({ s with clk := { s.clk with voltOk := true } } : State).clk.voltOk = true ∧
    State.reset.clk.cdUp = false ∧ State.reset.bit clkStatus 31 = false := by decide
theorem test_hyp_GatesAndBlockResets_flight : (live.setBit clkGate 3 true).bit clkGate (blkIdx .cap) = true ∧ (live.setBit clkGate 3 true).gated .cap = false ∧
    live.bit clkGate (blkIdx .cap) = false ∧ (withGmem live { selfRefresh := true, retained := false }).gmem.retained = false ∧
    (live.setBit pwrBrstat (blkIdx .srch) true).inReset .srch = true := by decide
theorem test_hyp_SuppliesAndPower_pins : (live.wr (mpinPcfg 9) 2).fld (mpinPcfg 9) 1 0 = 2 ∧ (List.range 10).any (fun n => (live.wr (mpinPcfg 9) 2).fld (mpinPcfg n) 1 0 == 2) = true ∧
    (∀ n < 10, live.fld (mpinPcfg n) 1 0 ≠ 2) ∧ (powered .recovery).clk.power = .recovery ∧ (powered .starting).clk.power = .starting ∧
    ({ powered .idle with clk := { (powered .idle).clk with mainLost := true, wakes := 1 } } : State).lowPower = true ∧
    (flashing ⟨6, 40, 0, [], 2⟩).flash.op = some ⟨6, 40, 0, [], 2⟩ ∧ ¬ ((6 = 6) ∧ (2 : Nat) = 0) := by decide
theorem test_hyp_AccessRefusals_waits : (withGmem ready6 { retraining := Vector.replicate 8 true }).memReady = true ∧
    (withGmem ready6 { retraining := Vector.replicate 8 true }).gmem.retraining[ready6.chanOf 0x300000000] = true ∧ 0x300000000 < 0x0380000000 ∧
    (live.setPhase 3 1).phase 3 = 1 ∧ live.clk.power ≠ .off ∧ (regDesc (safBase + 8)).isSome = true ∧ regDesc (safBase + 0xFFFC) = none ∧
    ({ live with clk := { power := .off } } : State).clk.power = .off := by decide
theorem test_hyp_RegisterAccess_run : (BitVec.ofNat 40 hlmRun).toNat = hlmRun ∧ hlmRun % 4 = 0 ∧ pageBase hlmRun = hlmBase ∧ live.pageReset hlmBase = false ∧
    live.pageGated hlmBase = false ∧ ((core0 {}).core 0).running = true ∧ (1 : Word).getLsbD 0 = true ∧ live.pageGated pltBase = false ∧ live.pageReset pltBase = false ∧
    pageBase (pltBase + 0x10 + 16 * 3) = pltBase ∧ ((plotting { run := true }).plot 3).run = true := by decide
/-- Pin 3 is Plot channel 3 with a keeper and drives 1. -/
def kept3 (k : PlotCh) : State := (pinned 3 0x00300001).setPlot 3 k
theorem test_hyp_PinsAndEvents_kept : (kept3 { oe := true, out := true }).fld (pinCfg 3) 21 20 = 3 ∧ ((kept3 { oe := true, out := true }).pinDrive 3 fun _ => 0).isSome = true ∧
    ((kept3 {}).pinDrive 3 fun _ => 0).isSome = false ∧ (kept3 {}).pinSel 3 = some (1, 3) ∧ ((pinned 3 0x00300004).pinDrive 3 fun _ => 0).isSome = true ∧
    (pinned 3 0x00300004).pinFunc 3 = 4 ∧ (pinned 18 0x00300002).pinFunc 18 = 2 ∧ ((pinned 18 0x00300002).pinDrive 18 fun _ => 0).isSome = false ∧
    ((pinned 16 0x00300002).pinDrive 16 fun _ => 0).isSome = true ∧ 16 % 48 / 8 = 2 ∧ (3 : Byte) ≠ 0 := by decide
theorem test_hyp_PlotInstructions_words : (∀ w ∈ [0x10100000, 0x10600000, 0x10410000, 0x30010000, 0x30100000, 0x40000020, 0x50000001, 0x60000001, 0x70010000, 0x80000001, 0x00000080],
      (running3 w).rd (pltImem 0 0) = w) ∧
    ((0x10600000 : Nat).testBit 22 = true ∧ (0x10600000 : Nat).testBit 21 = true) ∧ (bits 0x10410000 19 16 ≠ 0 ∧ (0x10410000 : Nat).testBit 22 = true) ∧
    (0x30010000 / 2 ^ 28 = 3 ∧ (0x30010000 : Nat).testBit 23 = false ∧ bits 0x30010000 19 16 ≠ 0) ∧ bits 0x40000020 22 5 ≠ 0 ∧ bits 0x50000001 22 0 ≠ 0 ∧
    bits 0x70010000 22 16 ≠ 0 ∧ bits 0x80000001 21 0 ≠ 0 ∧ bits 0x00000080 20 7 ≠ 0 ∧ 0x60060000 = 6 * 2 ^ 28 + 0 * 2 ^ 24 + 6 * 2 ^ 16 := by decide
theorem test_hyp_SerialChannels_words : (∀ got : Word, got = 0x5 → (∀ m < 4, got.getLsbD (4 - 1 - m) = (0x5 : Word).getLsbD (4 - 1 - m))) ∧
    (∀ m < 4, (0xA : Word).getLsbD m = (0x5 : Word).getLsbD (4 - 1 - m)) ∧ ((serialCh { cur := some (5, 0x23) }).ser 2).cur = some (5, 0x23) ∧
    (live.wr (serCfg 2) 4).bit (serCfg 2) 2 = true ∧ ((live.wr (serCfg 2) 4).serOut 2 0 0) = some false ∧
    ((serialCh { sel := some 1 }).ser 2).sel = some 1 := by
  refine ⟨by rintro _ rfl; decide, by decide, by decide, by decide, by decide, by decide⟩

/-! ## The manual's worked examples -/

/-- After R36: a deadline of 700 falls at 19,250 fc at Cruise and at 26,250 fc at Sprint; one of 333 at 9,157 fc at Cruise. -/
def deadline (d len : Nat) : State := { live with per := { live.per with len := len, dls := live.per.dls.set 0 d } }
theorem test_worked_deadline : (deadline 700 27500).dlFc 0 = 19250 ∧ (deadline 700 37500).dlFc 0 = 26250 ∧ (deadline 333 27500).dlFc 0 = 9157 := by
  decide +kernel
/-- After R358: the observer row, whose sum 6,499,909,000 gives 49,590; an MFMP too early gives 49,591. -/
theorem test_worked_observer : (∀ t, exec (.mfmp 0 5 0 17 true true) (core0 { mp := #v[6499909000, 0, 0, 0] }) = .next t → (t.core 0).r 5 = 49590) ∧
    (∀ t, exec (.mfmp 0 5 0 17 true true) (core0 { mp := #v[6500000000, 0, 0, 0] }) = .next t → (t.core 0).r 5 = 49591) := by
  constructor <;> (rintro t ⟨⟩; decide +kernel)
/-- After R361: the frame of CALL with mask 7 and offset 40, w2 = 0x1FF00. -/
def caller : Core := { regsAre (fun r => if r = 2 then 0x1FF00 else BitVec.ofNat 32 (100 + r)) with pc := 0x400 }
theorem test_worked_call : ∀ t, exec (.call 0 7 40) (core0 caller) = .next t → (t.core 0).r 2 = 0x1FEF0 ∧ (t.core 0).pc = 0x4A0 ∧
    (t.core 0).r 1 = 0x404 ∧ (t.core 0).cycle = 5 ∧ t.bytes (localBase 0 + 0x1FEF0) 16 = toLE 4 101 ++ toLE 4 122 ++ toLE 4 123 ++ toLE 4 124 := by
  rintro t ⟨⟩; decide +kernel
/-- The example before R482: PIN_CFG37 = 0x00100003 gives FUNC 3 and the rising edge. -/
theorem test_worked_pin : (live.wr (pinCfg 37) 0x00100003).pinFunc 37 = 3 ∧ (live.wr (pinCfg 37) 0x00100003).fld (pinCfg 37) 25 24 = 0 := by
  decide
/-- SHA-384 of "abc" as the standard FIPS 180-4 publishes it, named under DIGEST in 06_chart.md. -/
theorem test_sha384 : ofBE (sha384 [0x61, 0x62, 0x63]) =
    0xcb00753f45a35e8bb5a03d699ac65007272c32ab0eded1631a8b605a43ff5bed8086072ba1e7cc2358baeca134c825a7 := by decide +kernel

end Sys2Proof.Tests
end

section
/-!
PROOFS of O3, O4 and O5: every command answers a next state, which keeps the queue and the canonical form.
-/
namespace Sys2Proof.Machine

/-- The outcome is a next state. -/
def Answers (o : Out) : Prop := ∃ t, o = .next t
theorem Answers.next (t : State) : Answers (.next t) := ⟨t, rfl⟩
theorem Answers.ite {c : Prop} [Decidable c] {o q : Out} (h : Answers o) (k : Answers q) : Answers (if c then o else q) := by
  split <;> assumption

section
variable (s : State) (n : CoreN)

/-- An instruction of a Helm core answers whatever it does. -/
theorem State.issue_answers (srcs : List RegN) (f : State → State) : Answers (s.issue n srcs f) := by
  unfold State.issue
  refine .ite (.next _) (.ite (.next _) (.ite (.next _) (.ite (.next _) ?_)))
  dsimp only
  split
  · exact .next _
  · exact .next _
theorem State.issueCore_answers (srcs : List RegN) (c : Nat) (f : Core → Core) : Answers (s.issueCore n srcs c f) :=
  State.issue_answers _ _ _ _
theorem State.aluOp_answers (rd ra rb : RegN) (fn : Nat) : Answers (s.aluOp n rd ra rb fn) :=
  State.issueCore_answers _ _ _ _ _
theorem State.aluImm_answers (rd ra : RegN) (fn : Nat) (v : Word) : Answers (s.aluImm n rd ra fn v) :=
  State.issueCore_answers _ _ _ _ _
theorem State.branchOp_answers (ra rb : RegN) (off : BitVec 16) (cond : Word → Word → Bool) : Answers (s.branchOp n ra rb off cond) :=
  State.issueCore_answers _ _ _ _ _
theorem State.mpOp_answers (m : Fin 4) (ra rb : RegN) (fn : Nat) : Answers (s.mpOp n m ra rb fn) :=
  State.issueCore_answers _ _ _ _ _
theorem State.divOp_answers (rd ra rb : RegN) (f : Word → Word → Word) : Answers (s.divOp n rd ra rb f) :=
  State.issueCore_answers _ _ _ _ _
theorem State.loadOp_answers (rd ra : RegN) (imm : BitVec 16) (kind : Nat) (ecc : Ecc) : Answers (s.loadOp n rd ra imm kind ecc) :=
  State.issue_answers _ _ _ _
theorem State.storeOp_answers (rs ra : RegN) (imm : BitVec 16) (size : Nat) : Answers (s.storeOp n rs ra imm size) :=
  State.issue_answers _ _ _ _
theorem State.callOp_answers (mask : BitVec 10) (srcs : List RegN) (target : Core → Word) : Answers (s.callOp n mask srcs target) :=
  State.issue_answers _ _ _ _
theorem State.atomicOp_answers (rd ra rb : RegN) (f : Word → Word → Word) : Answers (s.atomicOp n rd ra rb f) :=
  State.issue_answers _ _ _ _
theorem State.customOp_answers (word : Word) (ecc : Option Nat) (chks : List Check) : Answers (s.customOp n word ecc chks) := by
  unfold State.customOp
  extract_lets
  exact State.issue_answers _ _ _ _

end

theorem runHelm_answers (eccs : List Ecc) (s : State) (i : Instr) : Answers (runHelm eccs s i) := by
  cases i with
  | add | sub | and | or | xor | sll | srl | sra | slt | sltu | min | max | minu | maxu | adds | subs =>
    dsimp only [runHelm]
    exact State.aluOp_answers ..
  | clz | abs | addi | andi | ori | xori | slti | sltiu =>
    dsimp only [runHelm]
    exact State.aluImm_answers ..
  | shi | lui | j | jr | jalr | mtmp | wfi =>
    dsimp only [runHelm]
    exact State.issueCore_answers ..
  | lw | lh | lhu | lb | lbu =>
    dsimp only [runHelm]
    exact State.loadOp_answers ..
  | sw | sh | sb =>
    dsimp only [runHelm]
    exact State.storeOp_answers ..
  | beq | bne | blt | bge | bltu | bgeu =>
    dsimp only [runHelm]
    exact State.branchOp_answers ..
  | call | callr =>
    dsimp only [runHelm]
    exact State.callOp_answers ..
  | ret | mfmp | mfs | mts | hret | fence | fenceI | breakI | trap =>
    dsimp only [runHelm]
    exact State.issue_answers ..
  | mul | mulu | mac | macu | msu | macs | mtmp2 =>
    dsimp only [runHelm]
    exact State.mpOp_answers ..
  | div | divu | rem | remu =>
    dsimp only [runHelm]
    exact State.divOp_answers ..
  | atxch | atadd | atand | atorr =>
    dsimp only [runHelm]
    exact State.atomicOp_answers ..
  | _ => exact .next _
theorem execCustomInstruction_answers (n : CoreN) (w : Word) (ecc : Option Nat) (fetch : Ecc) (chks : List Check) (s : State) :
    Answers (execCustomInstruction n w ecc fetch chks s) := by
  unfold execCustomInstruction
  refine .ite (State.customOp_answers _ _ _ _ _) ?_
  split
  · exact runHelm_answers _ _ _
  · exact State.issue_answers _ _ _ _
theorem execChartLookup_answers (p : Slot) (chks : List Check) (now : Nat) (s : State) : Answers (execChartLookup p chks now s) := by
  unfold execChartLookup
  refine .ite (.next _) ?_
  dsimp only
  refine .ite (.next _) ?_
  split
  · exact .next _
  · split
    · exact .next _
    · exact .next _
    · exact .ite (.next _) (.next _)

/-- The outcome is a next state that keeps the queue and the canonical form. -/
def Keeps (s : State) (o : Out) : Prop := ∃ t, o = .next t ∧ t.pending = s.pending ∧ (s.canonical = true → t.canonical = true)
theorem DoesOut.keeps {m : Nat} {s : State} {o : Out} (h : DoesOut m s o) (k : Answers o) : Keeps s o := by
  obtain ⟨t, rfl⟩ := k
  exact ⟨t, rfl, (h t rfl).pending, (h t rfl).canon⟩

/-- What each command can do keeps the queue and the canonical form; what is left of each case is that the command answers. The last
cases match on data of the state: every branch of theirs ends in a next state. -/
theorem exec_keeps (c : Instr) (s : State) : Keeps s (exec c s) := by
  cases c
  case periodMark => exact (execPeriodMark_does s).keeps (.ite (.next _) (.next _))
  case marksEnable => exact (execMarksEnable_does s).keeps (.ite (.next _) (.next _))
  case marksDisable => exact (execMarksDisable_does s).keeps (.ite (.next _) (.next _))
  case markSourceWrite chain => exact (execMarkSourceWrite_does chain s).keeps (.ite (.next _) (.next _))
  case periodLengthWrite pace v => exact (execPeriodLengthWrite_does pace v s).keeps (.ite (.next _) (.next _))
  case deadlineWrite reg v => exact (execDeadlineWrite_does reg v s).keeps (.ite (.next _) (.next _))
  case fixDeadline => exact (execFixDeadline_does s).keeps (.ite (.next _) (.next _))
  case provisionalSend => exact (execProvisionalSend_does s).keeps (.ite (.next _) (.next _))
  case' provisionalGather p =>
    refine (execProvisionalGather_does p s).keeps ?_
    unfold execProvisionalGather
  case searchDeadline => exact (execSearchDeadline_does s).keeps (.ite (.next _) (.next _))
  case checkDeadline => exact (execCheckDeadline_does s).keeps (.ite (.next _) (.next _))
  case commitDeadline => exact (execCommitDeadline_does s).keeps (.ite (.next _) (.next _))
  case' generalTimerFire n =>
    refine (execGeneralTimerFire_does n s).keeps ?_
    unfold execGeneralTimerFire
  case timerCompareWrite n v => exact (execTimerCompareWrite_does n v s).keeps (.ite (.next _) (.next _))
  case latch p ue => exact (execLatch_does p ue s).keeps (.ite (.next _) (.next _))
  case launch p now => exact (execLaunch_does p now s).keeps (.ite (.next _) (.next _))
  case fixReady p now ue => exact (execFixReady_does p now ue s).keeps (.ite (.next _) (.next _))
  case comparison p => exact (execComparison_does p s).keeps (.ite (.next _) (.next _))
  case correctionSetup p => exact (execCorrectionSetup_does p s).keeps (.ite (.next _) (.next _))
  case closeRequest p now => exact (execCloseRequest_does p now s).keeps (.ite (.next _) (.next _))
  case budgetExpiry p => exact (execBudgetExpiry_does p s).keeps (.ite (.next _) (.next _))
  case treeExhausted p now => exact (execTreeExhausted_does p now s).keeps (.ite (.next _) (.next _))
  case' batchIssue c =>
    refine (execBatchIssue_does c s).keeps ?_
    unfold execBatchIssue
  case' batchLanding c f =>
    refine (execBatchLanding_does c f s).keeps ?_
    unfold execBatchLanding
  case' refinedBound c idx =>
    refine (execRefinedBound_does c idx s).keeps ?_
    unfold execRefinedBound
  case' shiftedSeedOffer p =>
    refine (execShiftedSeedOffer_does p s).keeps ?_
    unfold execShiftedSeedOffer
  case' chartSeedOffer p =>
    refine (execChartSeedOffer_does p s).keeps ?_
    unfold execChartSeedOffer
  case sharingPoint p => exact (execSharingPoint_does p s).keeps (.ite (.next _) (.next _))
  case' sharingWrite p =>
    refine (execSharingWrite_does p s).keeps ?_
    unfold execSharingWrite
  case' stealTransfer c =>
    refine (execStealTransfer_does c s).keeps ?_
    unfold execStealTransfer
  case' deterministicDeal p =>
    refine (execDeterministicDeal_does p s).keeps ?_
    unfold execDeterministicDeal
  case chartStep p now => exact (execChartStep_does p now s).keeps (.ite (.next _) (.next _))
  case deterministicComparison p => exact (execDeterministicComparison_does p s).keeps (.ite (.next _) (.next _))
  case deterministicClose p => exact (execDeterministicClose_does p s).keeps (.ite (.next _) (.next _))
  case' finalGather p =>
    refine (execFinalGather_does p s).keeps ?_
    unfold execFinalGather
  case duplexVerdict p => exact (execDuplexVerdict_does p s).keeps (.ite (.next _) (.next _))
  case' shadowEvaluation c =>
    refine (execShadowEvaluation_does c s).keeps ?_
    unfold execShadowEvaluation
  case' shadowVerdict p copyOk =>
    refine (execShadowVerdict_does p copyOk s).keeps ?_
    unfold execShadowVerdict
  case resultRecordWrite p => exact (execResultRecordWrite_does p s).keeps (.ite (.next _) (.next _))
  case' selection p a =>
    refine (execSelection_does p a s).keeps ?_
    unfold execSelection
  case' downlinkFrameSend l =>
    refine (execDownlinkFrameSend_does l s).keeps ?_
    unfold execDownlinkFrameSend
  case switchCountDecay a => exact (execSwitchCountDecay_does a s).keeps (.ite (.next _) (.next _))
  case cntclr => exact (execCntclr_does s).keeps (.ite (.next _) (.next _))
  case laneEnable l => exact (execLaneEnable_does l s).keeps (.ite (.next _) (.next _))
  case laneDisable l => exact (execLaneDisable_does l s).keeps (.ite (.next _) (.next _))
  case' blockLockAcquired k =>
    refine (execBlockLockAcquired_does k s).keeps ?_
    unfold execBlockLockAcquired
  case' blockLockLost k =>
    refine (execBlockLockLost_does k s).keeps ?_
    unfold execBlockLockLost
  case' decho l typ token turn rtt =>
    refine (execDecho_does l typ token turn rtt s).keeps ?_
    unfold execDecho
  case' ack l typ seq hub result =>
    refine (execAck_does l typ seq hub result s).keeps ?_
    unfold execAck
  case' ackTimeout l seq =>
    refine (execAckTimeout_does l seq s).keeps ?_
    unfold execAckTimeout
  case' uplinkFrame l bytes =>
    refine (execUplinkFrame_does l bytes s).keeps ?_
    unfold execUplinkFrame
  case hcdlWrite upofs v => exact (execHcdlWrite_does upofs v s).keeps (.ite (.next _) (.next _))
  case roleWrite role => exact (execRoleWrite_does role s).keeps (.ite (.next _) (.next _))
  case hubMark h samples => exact (execHubMark_does h samples s).keeps (.ite (.next _) (.next _))
  case hubMarkBlock h portB pcnt ofs role len =>
    exact (execHubMarkBlock_does h portB pcnt ofs role len s).keeps (.ite (.next _) (.ite (.next _) (.next _)))
  case hubMarkAbsent h => exact (execHubMarkAbsent_does h s).keeps (.ite (.next _) (.next _))
  case hubDownlinkFrame h portB bytes tNs => exact (execHubDownlinkFrame_does h portB bytes tNs s).keeps (.ite (.next _) (.next _))
  case hubDreq h portB typ token turn => exact (execHubDreq_does h portB typ token turn s).keeps (.ite (.next _) (.next _))
  case hubUplink h portB supply => exact (execHubUplink_does h portB supply s).keeps (.ite (.next _) (.next _))
  case hubUnconfigure h => exact (execHubUnconfigure_does h s).keeps (.next _)
  case' captureRecord withheld edc =>
    refine (execCaptureRecord_does withheld edc s).keeps ?_
    unfold execCaptureRecord
  case captureTrigger src => exact (execCaptureTrigger_does src s).keeps (.next _)
  case trig => exact (execTrig_does s).keeps (.next _)
  case freeze => exact (execFreeze_does s).keeps (.ite (.next _) (.next _))
  case captureResume => exact (execCaptureResume_does s).keeps (.ite (.next _) (.next _))
  case clear => exact (execClear_does s).keeps (.ite (.next _) (.next _))
  case postTriggerEnd => exact (execPostTriggerEnd_does s).keeps (.ite (.next _) (.next _))
  case ringScan ue => exact (execRingScan_does ue s).keeps (.ite (.ite (.next _) (.next _)) (.next _))
  case begin_ b => exact (execBegin_does b s).keeps (.ite (.next _) (.ite (.next _) (.next _)))
  case verify b => exact (execVerify_does b s).keeps (.ite (.next _) (.ite (.next _) (.next _)))
  case' verificationDone b ue =>
    refine (execVerificationDone_does b ue s).keeps ?_
    unfold execVerificationDone
  case activate b => exact (execActivate_does b s).keeps (.ite (.next _) (.ite (.next _) (.next _)))
  case deactivate => exact (execDeactivate_does s).keeps (.ite (.next _) (.ite (.next _) (.next _)))
  case abort b => exact (execAbort_does b s).keeps (.ite (.next _) (.ite (.next _) (.next _)))
  case' build b met =>
    refine (execBuild_does b met s).keeps ?_
    unfold execBuild
  case chartLookup p ue now => exact (execChartLookup_does p ue now s).keeps (execChartLookup_answers p ue now s)
  case' buildEntry c met =>
    refine (execBuildEntry_does c met s).keeps ?_
    unfold execBuildEntry
  case' chartReverify ue =>
    refine (execChartReverify_does ue s).keeps ?_
    unfold execChartReverify
  case' backgroundVerify ue =>
    refine (execBackgroundVerify_does ue s).keeps ?_
    unfold execBackgroundVerify
  case powerupSelftest pass => exact (execPowerupSelftest_does pass s).keeps (.ite (.next _) (.next _))
  case selftestSegmentStart => exact (execSelftestSegmentStart_does s).keeps (.ite (.next _) (.next _))
  case' selftestSegmentEnd ok =>
    refine (execSelftestSegmentEnd_does ok s).keeps ?_
    unfold execSelftestSegmentEnd
  case selftestSlotEnd => exact (execSelftestSlotEnd_does s).keeps (.ite (.next _) (.next _))
  case stenWrite en => exact (execStenWrite_does en s).keeps (.ite (.next _) (.next _))
  case clexclWrite v => exact (execClexclWrite_does v s).keeps (.ite (.next _) (.next _))
  case gddr6Access u addr size data chk => exact (execGddr6Access_does u addr size data chk s).keeps (.ite (.next _) (.next _))
  case trainingStart => exact (execTrainingStart_does s).keeps (.ite (.next _) (.next _))
  case trainingDone pass eye => exact (execTrainingDone_does pass eye s).keeps (.ite (.next _) (.next _))
  case' shortRetrain c ok eye =>
    refine (execShortRetrain_does c ok eye s).keeps ?_
    unfold execShortRetrain
  case exclWrite v => exact (execExclWrite_does v s).keeps (.ite (.next _) (.next _))
  case perBankRefresh c bank => exact (execPerBankRefresh_does c bank s).keeps (.ite (.next _) (.next _))
  case temperatureReadout c t => exact (execTemperatureReadout_does c t s).keeps (.ite (.next _) (.next _))
  case scrub chk => exact (execScrub_does chk s).keeps (.ite (.next _) (.next _))
  case arbitrationWindow => exact (execArbitrationWindow_does s).keeps (.ite (.next _) (.next _))
  case selfRefreshEntry ok => exact (execSelfRefreshEntry_does ok s).keeps (.ite (.next _) (.next _))
  case selfRefreshExit => exact (execSelfRefreshExit_does s).keeps (.ite (.next _) (.next _))
  case safeinRequest lowNs => exact (execSafeinRequest_does lowNs s).keeps (.ite (.next _) (.ite (.next _) (.next _)))
  case safeinReleaseEdge lowMs => exact (execSafeinReleaseEdge_does lowMs s).keeps (.next _)
  case ss1Timeout => exact (execSs1Timeout_does s).keeps (.ite (.next _) (.next _))
  case storeq => exact (execStoreq_does s).keeps (.next _)
  case ss1req => exact (execSs1req_does s).keeps (.next _)
  case release => exact (execRelease_does s).keeps (.next _)
  case keepaliveStop => exact (execKeepaliveStop_does s).keeps (.next _)
  case outputTest o step => exact (execOutputTest_does o step s).keeps (.ite (.next _) (.next _))
  case outputFault o high ns => exact (execOutputFault_does o high ns s).keeps (.ite (.next _) (.ite (.next _) (.next _)))
  case lockstepMismatch k b => exact (execLockstepMismatch_does k b s).keeps (.next _)
  case islandSelftest ok => exact (execIslandSelftest_does ok s).keeps (.next _)
  case watchdogService key => exact (execWatchdogService_does key s).keeps (.next _)
  case watchdogTimeout => exact (execWatchdogTimeout_does s).keeps (.ite (.next _) (.next _))
  case markNotice bytes => exact (execMarkNotice_does bytes s).keeps (.ite (.next _) (.next _))
  case decisionReport bytes => exact (execDecisionReport_does bytes s).keeps (.ite (.next _) (.next _))
  case missNotice bytes => exact (execMissNotice_does bytes s).keeps (.ite (.next _) (.next _))
  case reportTimeout => exact (execReportTimeout_does s).keeps (.ite (.next _) (.next _))
  case dpfWindow => exact (execDpfWindow_does s).keeps (.next _)
  case pairedSafeAtMark => exact (execPairedSafeAtMark_does s).keeps (.ite (.next _) (.next _))
  case' selftestReport c pass =>
    refine (execSelftestReport_does c pass s).keeps ?_
    unfold execSelftestReport
  case latentTimeout c => exact (execLatentTimeout_does c s).keeps (.ite (.next _) (.next _))
  case junctionOvertemp above => exact (execJunctionOvertemp_does above s).keeps (.ite (.next _) (.next _))
  case' chainFrameReceive p k bytes =>
    refine (execChainFrameReceive_does p k bytes s).keeps ?_
    unfold execChainFrameReceive
  case' rdreq p pilot src tag addr nw chks =>
    refine (execRdreq_does p pilot src tag addr nw chks s).keeps ?_
    unfold execRdreq
  case' wrreq p pilot src tag addr ws chks =>
    refine (execWrreq_does p pilot src tag addr ws chks s).keeps ?_
    unfold execWrreq
  case' blkwr src tag addr start bseq data chks =>
    refine (execBlkwr_does src tag addr start bseq data chks s).keeps ?_
    unfold execBlkwr
  case' blkrd src tag addr len =>
    refine (execBlkrd_does src tag addr len s).keeps ?_
    unfold execBlkrd
  case' blkdataSend chks =>
    refine (execBlkdataSend_does chks s).keeps ?_
    unfold execBlkdataSend
  case' enum p next fresh =>
    refine (execEnum_does p next fresh s).keeps ?_
    unfold execEnum
  case hb pilot src payload => exact (execHb_does pilot src payload s).keeps (.ite (.next _) (.ite (.next _) (.next _)))
  case pilotHb => exact (execPilotHb_does s).keeps (.ite (.next _) (.next _))
  case tkreq src ccount cause => exact (execTkreq_does src ccount cause s).keeps (.ite (.next _) (.next _))
  case tkconf src => exact (execTkconf_does src s).keeps (.next _)
  case' wake =>
    refine (execWake_does s).keeps ?_
    unfold execWake
  case' cmark p typ ccl ofs hops hi skew now =>
    refine (execCmark_does p typ ccl ofs hops hi skew now s).keeps ?_
    unfold execCmark
  case' chainMark now =>
    refine (execChainMark_does now s).keeps ?_
    unfold execChainMark
  case flywheelMark => exact (execFlywheelMark_does s).keeps (.ite (.ite (.next _) (.next _)) (.next _))
  case' trimMark p cycles =>
    refine (execTrimMark_does p cycles s).keeps ?_
    unfold execTrimMark
  case portDown p => exact (execPortDown_does p s).keeps (.ite (.next _) (.next _))
  case pilotSyncLoss p => exact (execPilotSyncLoss_does p s).keeps (.ite (.next _) (.next _))
  case' chainDecho p token turn rtt =>
    refine (execChainDecho_does p token turn rtt s).keeps ?_
    unfold execChainDecho
  case chainDreq p token turn => exact (execChainDreq_does p token turn s).keeps (.ite (.next _) (.next _))
  case delayRemeasure p => exact (execDelayRemeasure_does p s).keeps (.ite (.next _) (.next _))
  case portRetry p => exact (execPortRetry_does p s).keeps (.ite (.next _) (.next _))
  case transactionStart => exact (execTransactionStart_does s).keeps (.ite (.next _) (.next _))
  case commandWord w => exact (execCommandWord_does w s).keeps (.ite (.next _) (.ite (.next _) (.next _)))
  case portRegisterWrite w => exact (execPortRegisterWrite_does w s).keeps (.ite (.next _) (.next _))
  case portRegisterRead edges mdi => exact (execPortRegisterRead_does edges mdi s).keeps (.ite (.next _) (.next _))
  case windowWrite w => exact (execWindowWrite_does w s).keeps (.ite (.next _) (.next _))
  case' windowWritePerform chk =>
    refine (execWindowWritePerform_does chk s).keeps ?_
    unfold execWindowWritePerform
  case' windowRead mdi =>
    refine (execWindowRead_does mdi s).keeps ?_
    unfold execWindowRead
  case' windowAccessDone inTime chk =>
    refine (execWindowAccessDone_does inTime chk s).keeps ?_
    unfold execWindowAccessDone
  case transactionEnd edges value => exact (execTransactionEnd_does edges value s).keeps (.ite (.next _) (.next _))
  case portWake => exact (execPortWake_does s).keeps (.next _)
  case cdrst => exact (execCdrst_does s).keeps (.next _)
  case doorbellIn bells => exact (execDoorbellIn_does bells s).keeps (.ite (.next _) (.next _))
  case doorbellOut bells => exact (execDoorbellOut_does bells s).keeps (.ite (.next _) (.next _))
  case add n rd ra rb => exact (execAdd_does n rd ra rb s).keeps (State.aluOp_answers ..)
  case sub n rd ra rb => exact (execSub_does n rd ra rb s).keeps (State.aluOp_answers ..)
  case and n rd ra rb => exact (execAnd_does n rd ra rb s).keeps (State.aluOp_answers ..)
  case or n rd ra rb => exact (execOr_does n rd ra rb s).keeps (State.aluOp_answers ..)
  case xor n rd ra rb => exact (execXor_does n rd ra rb s).keeps (State.aluOp_answers ..)
  case sll n rd ra rb => exact (execSll_does n rd ra rb s).keeps (State.aluOp_answers ..)
  case srl n rd ra rb => exact (execSrl_does n rd ra rb s).keeps (State.aluOp_answers ..)
  case sra n rd ra rb => exact (execSra_does n rd ra rb s).keeps (State.aluOp_answers ..)
  case slt n rd ra rb => exact (execSlt_does n rd ra rb s).keeps (State.aluOp_answers ..)
  case sltu n rd ra rb => exact (execSltu_does n rd ra rb s).keeps (State.aluOp_answers ..)
  case min n rd ra rb => exact (execMin_does n rd ra rb s).keeps (State.aluOp_answers ..)
  case max n rd ra rb => exact (execMax_does n rd ra rb s).keeps (State.aluOp_answers ..)
  case minu n rd ra rb => exact (execMinu_does n rd ra rb s).keeps (State.aluOp_answers ..)
  case maxu n rd ra rb => exact (execMaxu_does n rd ra rb s).keeps (State.aluOp_answers ..)
  case adds n rd ra rb => exact (execAdds_does n rd ra rb s).keeps (State.aluOp_answers ..)
  case subs n rd ra rb => exact (execSubs_does n rd ra rb s).keeps (State.aluOp_answers ..)
  case clz n rd ra => exact (execClz_does n rd ra s).keeps (State.aluImm_answers ..)
  case abs n rd ra => exact (execAbs_does n rd ra s).keeps (State.aluImm_answers ..)
  case addi n rd ra imm => exact (execAddi_does n rd ra imm s).keeps (State.aluImm_answers ..)
  case andi n rd ra imm => exact (execAndi_does n rd ra imm s).keeps (State.aluImm_answers ..)
  case ori n rd ra imm => exact (execOri_does n rd ra imm s).keeps (State.aluImm_answers ..)
  case xori n rd ra imm => exact (execXori_does n rd ra imm s).keeps (State.aluImm_answers ..)
  case slti n rd ra imm => exact (execSlti_does n rd ra imm s).keeps (State.aluImm_answers ..)
  case sltiu n rd ra imm => exact (execSltiu_does n rd ra imm s).keeps (State.aluImm_answers ..)
  case shi n rd ra k amt => exact (execShi_does n rd ra k amt s).keeps (State.issueCore_answers ..)
  case lui n rd imm => exact (execLui_does n rd imm s).keeps (State.issueCore_answers ..)
  case lw n rd ra imm ecc => exact (execLw_does n rd ra imm ecc s).keeps (State.loadOp_answers ..)
  case lh n rd ra imm ecc => exact (execLh_does n rd ra imm ecc s).keeps (State.loadOp_answers ..)
  case lhu n rd ra imm ecc => exact (execLhu_does n rd ra imm ecc s).keeps (State.loadOp_answers ..)
  case lb n rd ra imm ecc => exact (execLb_does n rd ra imm ecc s).keeps (State.loadOp_answers ..)
  case lbu n rd ra imm ecc => exact (execLbu_does n rd ra imm ecc s).keeps (State.loadOp_answers ..)
  case' loadReply n chk stall =>
    refine (execLoadReply_does n chk stall s).keeps ?_
    unfold execLoadReply State.unlessHeld
  case sw n rs ra imm => exact (execSw_does n rs ra imm s).keeps (State.storeOp_answers ..)
  case sh n rs ra imm => exact (execSh_does n rs ra imm s).keeps (State.storeOp_answers ..)
  case sb n rs ra imm => exact (execSb_does n rs ra imm s).keeps (State.storeOp_answers ..)
  case' postedStoreComplete n chk =>
    refine (execPostedStoreComplete_does n chk s).keeps ?_
    unfold execPostedStoreComplete
  case beq n ra rb off => exact (execBeq_does n ra rb off s).keeps (State.branchOp_answers ..)
  case bne n ra rb off => exact (execBne_does n ra rb off s).keeps (State.branchOp_answers ..)
  case blt n ra rb off => exact (execBlt_does n ra rb off s).keeps (State.branchOp_answers ..)
  case bge n ra rb off => exact (execBge_does n ra rb off s).keeps (State.branchOp_answers ..)
  case bltu n ra rb off => exact (execBltu_does n ra rb off s).keeps (State.branchOp_answers ..)
  case bgeu n ra rb off => exact (execBgeu_does n ra rb off s).keeps (State.branchOp_answers ..)
  case j n off => exact (execJ_does n off s).keeps (State.issueCore_answers ..)
  case jr n ra => exact (execJr_does n ra s).keeps (State.issueCore_answers ..)
  case jalr n rd ra => exact (execJalr_does n rd ra s).keeps (State.issueCore_answers ..)
  case call n mask off => exact (execCall_does n mask off s).keeps (State.callOp_answers ..)
  case callr n mask ra => exact (execCallr_does n mask ra s).keeps (State.callOp_answers ..)
  case ret n mask eccs => exact (execRet_does n mask eccs s).keeps (State.issue_answers ..)
  case mul n m ra rb => exact (execMul_does n m ra rb s).keeps (State.mpOp_answers ..)
  case mulu n m ra rb => exact (execMulu_does n m ra rb s).keeps (State.mpOp_answers ..)
  case mac n m ra rb => exact (execMac_does n m ra rb s).keeps (State.mpOp_answers ..)
  case macu n m ra rb => exact (execMacu_does n m ra rb s).keeps (State.mpOp_answers ..)
  case msu n m ra rb => exact (execMsu_does n m ra rb s).keeps (State.mpOp_answers ..)
  case macs n m ra rb => exact (execMacs_does n m ra rb s).keeps (State.mpOp_answers ..)
  case' mpWriteLand n =>
    refine (execMpWriteLand_does n s).keeps ?_
    unfold execMpWriteLand
  case mfmp n rd m sh rnd sat => exact (execMfmp_does n rd m sh rnd sat s).keeps (State.issue_answers ..)
  case mtmp n m ra => exact (execMtmp_does n m ra s).keeps (State.issueCore_answers ..)
  case mtmp2 n m ra rb => exact (execMtmp2_does n m ra rb s).keeps (State.mpOp_answers ..)
  case div n rd ra rb => exact (execDiv_does n rd ra rb s).keeps (State.divOp_answers ..)
  case divu n rd ra rb => exact (execDivu_does n rd ra rb s).keeps (State.divOp_answers ..)
  case rem n rd ra rb => exact (execRem_does n rd ra rb s).keeps (State.divOp_answers ..)
  case remu n rd ra rb => exact (execRemu_does n rd ra rb s).keeps (State.divOp_answers ..)
  case mfs n rd idx => exact (execMfs_does n rd idx s).keeps (State.issue_answers ..)
  case mts n ra idx => exact (execMts_does n ra idx s).keeps (State.issue_answers ..)
  case lstest hit => exact (execLstest_does hit s).keeps (State.issue_answers ..)
  case hret n => exact (execHret_does n s).keeps (State.issue_answers ..)
  case wfi n => exact (execWfi_does n s).keeps (State.issueCore_answers ..)
  case fence n => exact (execFence_does n s).keeps (State.issue_answers ..)
  case fenceI n => exact (execFenceI_does n s).keeps (State.issue_answers ..)
  case breakI n => exact (execBreakI_does n s).keeps (State.issue_answers ..)
  case trap n code => exact (execTrap_does n code s).keeps (State.issue_answers ..)
  case atxch n rd ra rb => exact (execAtxch_does n rd ra rb s).keeps (State.atomicOp_answers ..)
  case atadd n rd ra rb => exact (execAtadd_does n rd ra rb s).keeps (State.atomicOp_answers ..)
  case atand n rd ra rb => exact (execAtand_does n rd ra rb s).keeps (State.atomicOp_answers ..)
  case atorr n rd ra rb => exact (execAtorr_does n rd ra rb s).keeps (State.atomicOp_answers ..)
  case interruptTake n => exact (execInterruptTake_does n s).keeps (.ite (.next _) (.ite (.next _) (.ite (.next _) (.next _))))
  case interruptRaise n line => exact (execInterruptRaise_does n line s).keeps (.next _)
  case tcmpMatch n => exact (execTcmpMatch_does n s).keeps (.ite (.next _) (.next _))
  case customInstruction n w ecc fetch chks =>
    exact (execCustomInstruction_does n w ecc fetch chks s).keeps (execCustomInstruction_answers n w ecc fetch chks s)
  case decodeTableWrite n off v => exact (execDecodeTableWrite_does n off v s).keeps (.ite (.next _) (.next _))
  case coreRun n => exact (execCoreRun_does n s).keeps (.ite (.next _) (.next _))
  case coreHalt n => exact (execCoreHalt_does n s).keeps (.ite (.next _) (.next _))
  case haltComplete n => exact (execHaltComplete_does n s).keeps (.ite (.next _) (.next _))
  case coreReset n => exact (execCoreReset_does n s).keeps (.ite (.next _) (.next _))
  case' bootRecall half lines =>
    refine (execBootRecall_does half lines s).keeps ?_
    unfold execBootRecall
  case' bootPort sfdp =>
    refine (execBootPort_does sfdp s).keeps ?_
    unfold execBootPort
  case' bootSlot =>
    refine (execBootSlot_does s).keeps ?_
    unfold execBootSlot
  case bootCdpwr ok => exact (execBootCdpwr_does ok s).keeps (.ite (.next _) (.ite (.next _) (.next _)))
  case' bootStage met =>
    refine (execBootStage_does met s).keeps ?_
    unfold execBootStage
  case' bootGddr6 met =>
    refine (execBootGddr6_does met s).keeps ?_
    unfold execBootGddr6
  case bootSelftest => exact (execBootSelftest_does s).keeps (.ite (.next _) (.next _))
  case bootChain => exact (execBootChain_does s).keeps (.ite (.next _) (.ite (.next _) (.next _)))
  case' bootChart =>
    refine (execBootChart_does s).keeps ?_
    unfold execBootChart
  case bootTimeout => exact (execBootTimeout_does s).keeps (.ite (.next _) (.next _))
  case bootRetry => exact (execBootRetry_does s).keeps (.ite (.next _) (.next _))
  case done => exact (execDone_does s).keeps (.next _)
  case chartskip => exact (execChartskip_does s).keeps (.next _)
  case chartfail => exact (execChartfail_does s).keeps (.next _)
  case reboot => exact (execReboot_does s).keeps (.ite (.next _) (.next _))
  case bootErase slot => exact (execBootErase_does slot s).keeps (.next _)
  case bootProgram slot => exact (execBootProgram_does slot s).keeps (.next _)
  case' bootOperationDone timedOut =>
    refine (execBootOperationDone_does timedOut s).keeps ?_
    unfold execBootOperationDone
  case raise => exact (execRaise_does s).keeps (.next _)
  case clrdeg => exact (execClrdeg_does s).keeps (.next _)
  case bootRead slot => exact (execBootRead_does slot s).keeps (.next _)
  case warmRestart ok => exact (execWarmRestart_does ok s).keeps (.ite (.next _) (.next _))
  case computeDieReset ok => exact (execComputeDieReset_does ok s).keeps (.ite (.next _) (.next _))
  case binnacleReset refToggling => exact (execBinnacleReset_does refToggling s).keeps (.next _)
  case program r => exact (execProgram_does r s).keeps (.next _)
  case erase r => exact (execErase_does r s).keeps (.next _)
  case suspend => exact (execSuspend_does s).keeps (.next _)
  case resume => exact (execResume_does s).keeps (.next _)
  case mcheck => exact (execMcheck_does s).keeps (.next _)
  case refresh r => exact (execRefresh_does r s).keeps (.next _)
  case' flashOperationDone linesDiffer =>
    refine (execFlashOperationDone_does linesDiffer s).keeps ?_
    unfold execFlashOperationDone
  case flashAutoResume => exact (execFlashAutoResume_does s).keeps (.ite (.next _) (.next _))
  case writeProtect hi v => exact (execWriteProtect_does hi v s).keeps (.next _)
  case recordStoreRecall => exact (execRecordStoreRecall_does s).keeps (.ite (.next _) (.next _))
  case counterIncrement mask => exact (execCounterIncrement_does mask s).keeps (.next _)
  case paceRequest v => exact (execPaceRequest_does v s).keeps (.next _)
  case pllLock ok => exact (execPllLock_does ok s).keeps (.ite (.next _) (.next _))
  case voltageSettled => exact (execVoltageSettled_does s).keeps (.ite (.next _) (.ite (.next _) (.next _)))
  case' clockMonitorWindow c count nominal farEnd =>
    refine (execClockMonitorWindow_does c count nominal farEnd s).keeps ?_
    unfold execClockMonitorWindow
  case droop cycles => exact (execDroop_does cycles s).keeps (.ite (.next _) (.next _))
  case gateClose b => exact (execGateClose_does b s).keeps (.next _)
  case gateClosed b forced => exact (execGateClosed_does b forced s).keeps (.ite (.next _) (.next _))
  case gateOpen b => exact (execGateOpen_does b s).keeps (.next _)
  case blockReset b => exact (execBlockReset_does b s).keeps (.next _)
  case blockResetRelease b => exact (execBlockResetRelease_does b s).keeps (.ite (.next _) (.next _))
  case' supplyWarning u =>
    refine (execSupplyWarning_does u s).keeps ?_
    unfold execSupplyWarning
  case' supplyResetCrossing u =>
    refine (execSupplyResetCrossing_does u s).keeps ?_
    unfold execSupplyResetCrossing
  case mainInputRestored => exact (execMainInputRestored_does s).keeps (.ite (.next _) (.next _))
  case governorEvaluation pMeas lanes coldplate => exact (execGovernorEvaluation_does pMeas lanes coldplate s).keeps (.ite (.next _) (.next _))
  case idle => exact (execIdle_does s).keeps (.next _)
  case run => exact (execRun_does s).keeps (.next _)
  case stby => exact (execStby_does s).keeps (.next _)
  case dorm => exact (execDorm_does s).keeps (.next _)
  case idleTimeout => exact (execIdleTimeout_does s).keeps (.ite (.next _) (.next _))
  case standbyTimeout => exact (execStandbyTimeout_does s).keeps (.ite (.next _) (.next _))
  case dormantTimeout => exact (execDormantTimeout_does s).keeps (.ite (.next _) (.next _))
  case wakeTimer => exact (execWakeTimer_does s).keeps (.ite (.next _) (.next _))
  case wakePin level edge => exact (execWakePin_does level edge s).keeps (.ite (.next _) (.next _))
  case' wakeTaken =>
    refine (execWakeTaken_does s).keeps ?_
    unfold execWakeTaken
  case pinConfigWrite n v => exact (execPinConfigWrite_does n v s).keeps (.next _)
  case eventInputEdge n rising => exact (execEventInputEdge_does n rising s).keeps (.ite (.next _) (.next _))
  case eventChannel c dt now sameCycle => exact (execEventChannel_does c dt now sameCycle s).keeps (.ite (.next _) (.next _))
  case eventOutputPulseEnd idx => exact (execEventOutputPulseEnd_does idx s).keeps (.ite (.next _) (.next _))
  case bridgeEvent code => exact (execBridgeEvent_does code s).keeps (.ite (.next _) (.next _))
  case softwareEvent mask => exact (execSoftwareEvent_does mask s).keeps (.next _)
  case stormReenable mask => exact (execStormReenable_does mask s).keeps (.next _)
  case subscriptionWrite k v => exact (execSubscriptionWrite_does k v s).keeps (.next _)
  case producerWrite c v => exact (execProducerWrite_does c v s).keeps (.next _)
  case plotSlot e now => exact (execPlotSlot_does e now s).keeps (.ite (.next _) (.next _))
  case branch e c dly cond tgt => exact (execBranch_does e c dly cond tgt s).keeps (.next _)
  case hold e c dly src pol idx => exact (execHold_does e c dly src pol idx s).keeps (.next _)
  case drive e c dly oe val => exact (execDrive_does e c dly oe val s).keeps (.next _)
  case shift e c dly dir lsb idx => exact (execShift_does e c dly dir lsb idx s).keeps (.next _)
  case take e c dly nb len => exact (execTake_does e c dly nb len s).keeps (.next _)
  case give e c dly nb => exact (execGive_does e c dly nb s).keeps (.next _)
  case copy e c dly dst src now => exact (execCopy_does e c dly dst src now s).keeps (.next _)
  case load e c dly regB imm => exact (execLoad_does e c dly regB imm s).keeps (.next _)
  case signal e c dly kind => exact (execSignal_does e c dly kind s).keeps (.next _)
  case plotRun e mask => exact (execPlotRun_does e mask s).keeps (.next _)
  case plotHalt e mask => exact (execPlotHalt_does e mask s).keeps (.next _)
  case txqWrite e c v => exact (execTxqWrite_does e c v s).keeps (.next _)
  case rxqRead e c => exact (execRxqRead_does e c s).keeps (.next _)
  case joinWrite e c join => exact (execJoinWrite_does e c join s).keeps (.next _)
  case txEntryAppend idx v => exact (execTxEntryAppend_does idx v s).keeps (.next _)
  case rxRead idx => exact (execRxRead_does idx s).keeps (.next _)
  case go idx => exact (execGo_does idx s).keeps (.next _)
  case serialAbort idx => exact (execSerialAbort_does idx s).keeps (.next _)
  case' serialWordDone idx rx =>
    refine (execSerialWordDone_does idx rx s).keeps ?_
    unfold execSerialWordDone
  case' serialTransferStart idx =>
    refine (execSerialTransferStart_does idx s).keeps ?_
    unfold execSerialTransferStart
  case ckdivWrite idx v => exact (execCkdivWrite_does idx v s).keeps (.next _)
  case mpinOutWrite r v => exact (execMpinOutWrite_does r v s).keeps (.next _)
  case safetyWordStart r idx v => exact (execSafetyWordStart_does r idx v s).keeps (.next _)
  case' safetyWordDone idx rx atMark =>
    refine (execSafetyWordDone_does idx rx atMark s).keeps ?_
    unfold execSafetyWordDone
  case registerReadClear r addr set chk => exact (execRegisterReadClear_does r addr set chk s).keeps (.ite (.next _) (.next _))
  case registerWrite r addr v set clr same chk => exact (execRegisterWrite_does r addr v set clr same chk s).keeps (.ite (.next _) (.next _))
  case pilotSyncAcquired p => exact (execPilotSyncAcquired_does p s).keeps (.ite (.next _) (.next _))
  case trimMarkSend => exact (execTrimMarkSend_does s).keeps (.ite (.next _) (.next _))
  case hubPowerUp h dual => exact (execHubPowerUp_does h dual s).keeps (.next _)
  all_goals repeat' first
    | with_reducible exact .next _
    | with_reducible apply Answers.ite
    | (extract_lets +onlyGivenNames u; clear_value u; revert u; intro _)
    | split

/-- Settles O3: what each command can do (`exec_keeps`). -/
theorem everyCommandAnswers : Obligations.EveryCommandAnswers := exec_keeps

/-- Settles O4: an idle step changes nothing, and every other step runs a command on the queue's rest. -/
theorem stepKeepsCanonical : Obligations.StepKeepsCanonical := by
  intro s t hs h
  unfold step at h
  split at h
  · cases h
    exact hs
  · obtain ⟨u, hu, _, canon⟩ := exec_keeps _ _
    rw [hu] at h
    cases h
    exact canon hs

/-- Settles O5: the reset state lists no register and no byte of memory. -/
theorem resetCanonical : Obligations.ResetCanonical := ⟨rfl, rfl⟩

end Sys2Proof.Machine
end

section
/-!
PROOFS of O55 and O56: the address map, the accesses of a register page and of one cycle, and the access codes.
-/
namespace Sys2Proof.Machine

/-! ## The address map -/

theorem pageBase_le (a : Nat) : pageBase a ≤ a := by unfold pageBase; omega
theorem lt_pageBase_add (a : Nat) : a < pageBase a + 0x10000 := by unfold pageBase; omega

theorem inRange_eq_true {a lo hi : Nat} : inRange a lo hi = true ↔ lo ≤ a ∧ a < hi := decide_eq_true_iff
theorem inRange_eq_false {a lo hi : Nat} : inRange a lo hi = false ↔ ¬ (lo ≤ a ∧ a < hi) := decide_eq_false_iff_not

/-- A register page lies on the compute die's pages or on the Binnacle's (R23). -/
theorem isPage_range {a : Nat} (h : isPage a = true) :
    0x4000000000 ≤ a ∧ a < 0x40000E0000 ∨ 0x5000000000 ≤ a ∧ a < 0x5000060000 := by
  have lo := pageBase_le a
  have hi := lt_pageBase_add a
  unfold isPage at h
  rw [Bool.and_eq_true, decide_eq_true_eq] at h
  simp only [regPages, List.any_cons, List.any_nil, Bool.or_eq_true, beq_iff_eq, Bool.or_false, sysBase, perBase, srchBase, chrtBase, cellBase, capBase, memBase, chnBase, hlmBase, clkBase, pinBase, evtBase, pltBase,
    serBase, bootBase, flsBase, nvrBase, safBase, mpinBase, mptBase, mgmtDtBase] at h
  omega
theorem isPage_of_pageBase {a b : Nat} (h : pageBase a = b) (hb : (regPages.any fun p => p.1 == b) = true) (hm : b ≠ mgmtDtBase) :
    isPage a = true := by
  simp only [isPage, h, hb, decide_eq_true hm, Bool.and_self]

/-- No memory region lies where the register pages do (R23, R24). -/
theorem isPage_notMemory {a : Nat} (h : isPage a = true) :
    ¬ a < gddrEnd ∧ isPeriodSram a = false ∧ isScratch a = false ∧ isHelmLocal a = false ∧ isFlash a = false ∧ isRecStore a = false := by
  have := isPage_range h
  simp only [isPeriodSram, isScratch, isHelmLocal, isFlash, isRecStore, inRange_eq_false, gddrEnd, flashBase, nvrBaseAddr]
  omega
theorem isPeriodSram_range {a : Nat} (h : isPeriodSram a = true) : 0x1000000000 ≤ a ∧ a < 0x1004000000 :=
  inRange_eq_true.1 h
theorem isScratch_range {a : Nat} (h : isScratch a = true) : 0x2000000000 ≤ a ∧ a < 0x2002000000 :=
  inRange_eq_true.1 h
theorem not_isPeriodSram_of_isScratch {a : Nat} (h : isScratch a = true) : isPeriodSram a = false := by
  have := isScratch_range h
  exact inRange_eq_false.2 (by omega)

/-- Every page base and every row of a page lies at a multiple of 4. -/
theorem regPages_aligned : ∀ p ∈ regPages, p.1 % 4 = 0 ∧ ∀ r ∈ p.2, r.off % 4 = 0 := by decide
theorem RegRow.index_unaligned {r : RegRow} {o : Nat} (hr : r.off % 4 = 0) (ho : o % 4 ≠ 0) : r.index o = none := by
  unfold RegRow.index
  dsimp only
  rw [if_neg (by omega), if_neg (by omega)]
theorem findRow_unaligned {o : Nat} (ho : o % 4 ≠ 0) (rs : List RegRow) (h : ∀ r ∈ rs, r.off % 4 = 0) : findRow o rs = none := by
  induction rs with
  | nil => rfl
  | cons r rs ih =>
    rw [findRow, RegRow.index_unaligned (h r List.mem_cons_self) ho]
    exact ih fun x hx => h x (List.mem_cons_of_mem _ hx)
/-- There is no register at an unaligned address. -/
theorem regDesc_unaligned {a : Nat} (ha : a % 4 ≠ 0) : regDesc a = none := by
  unfold regDesc
  split
  · rename_i b rows h
    have mem := List.mem_of_find?_eq_some h
    have le := List.find?_some h
    obtain ⟨hb, hr⟩ := regPages_aligned _ mem
    simp only [Bool.and_eq_true, decide_eq_true_eq] at le
    exact findRow_unaligned (by omega) rows hr
  · rfl

/-! ## Accesses of the bus -/

variable {s : State} {a : Nat}

theorem State.dieOk_binnacle (h : 0x5000000000 ≤ a) : s.dieOk a = true := by
  simp [State.dieOk, onCompute, h]
theorem State.dieOk_of_cdUp (h : s.clk.cdUp = true) : s.dieOk a = true := by
  simp [State.dieOk, h]
theorem State.dieOk_off (ha : a < 0x5000000000) (h : s.clk.cdUp = false) : s.dieOk a = false := by
  simp [State.dieOk, onCompute, h, ha]

/-- With the die off nothing on it answers (R27). -/
theorem State.busRead_dieOff (h : s.dieOk a = false) (r : Requester) (n : Nat) (k : Check) (g : Gate) : s.busRead r a n k g = (none, s) := by
  unfold State.busRead
  rw [h]
  rfl
theorem State.busWrite_dieOff (h : s.dieOk a = false) (r : Requester) (bs : List Byte) (k : Check) (g : Gate) :
    s.busWrite r a bs k g = (false, s) := by
  unfold State.busWrite
  rw [h]
  rfl

/-- A read that reaches a register page, said without the other regions. -/
theorem State.busRead_page (h : isPage a = true) (hd : s.dieOk a = true) (r : Requester) (n : Nat) (k : Check) (g : Gate) :
    s.busRead r a n k g =
      if n ≠ 4 ∨ a % 4 ≠ 0 then (none, s)
      else if s.pageReset (pageBase a) then (none, s)
      else if s.gateBars (pageBase a) g then (some (toLE 4 0), s)
      else (some (toLE 4 (s.regRead (pageBase a) (a - pageBase a)).1), (s.regRead (pageBase a) (a - pageBase a)).2) := by
  obtain ⟨h1, h2, h3, h4, h5, h6⟩ := isPage_notMemory h
  unfold State.busRead
  simp only [hd, h1, h2, h3, h4, h5, h6, h, Bool.not_true, Bool.false_eq_true, if_false, if_true]
theorem State.busWrite_page (h : isPage a = true) (hd : s.dieOk a = true) (r : Requester) (bs : List Byte) (k : Check) (g : Gate) :
    s.busWrite r a bs k g =
      if bs.length ≠ 4 ∨ a % 4 ≠ 0 then (false, s)
      else if s.pageReset (pageBase a) then (false, s)
      else if s.gateBars (pageBase a) g then (true, s)
      else s.regWrite r (pageBase a) (a - pageBase a) (ofLE bs) := by
  obtain ⟨h1, h2, h3, h4, h5, h6⟩ := isPage_notMemory h
  unfold State.busWrite
  simp only [hd, h1, h2, h3, h4, h5, h6, h, Bool.not_true, Bool.false_eq_true, if_false, if_true]

/-! ## Period SRAM and cluster scratch (R523) -/

theorem aligned_iff {n : Nat} {l : List Nat} : aligned a n l = true ↔ n ∈ l ∧ a % n = 0 := by
  simp [aligned]
theorem sramForm_iff {r : Requester} {n : Nat} :
    sramForm r a n = true ↔ a % n = 0 ∧ (n = 1 ∨ n = 2 ∨ n = 4 ∨ n = 8 ∨ n = 64 ∧ r = .dma) := by
  simp only [sramForm, Bool.or_eq_true, Bool.and_eq_true, aligned_iff, decide_eq_true_eq, List.mem_cons, List.not_mem_nil, or_false]
  tauto

end Sys2Proof.Machine
end

section
namespace Sys2Proof.Machine

variable {s : State} {a n : Nat}

theorem eccSize_of_isPeriodSram (h : isPeriodSram a = true) : eccSize a = 8 := by
  have := isPeriodSram_range h
  unfold eccSize
  rw [if_neg (by omega), if_neg (by omega)]
theorem eccSize_of_isScratch (h : isScratch a = true) : eccSize a = 8 := by
  have := isScratch_range h
  unfold eccSize
  rw [if_neg (by omega), if_neg (by omega)]
/-- The 64-bit words that an access to period SRAM or scratch touches lie on the same side of its bounds. -/
theorem eccSize_word {w : Nat} (h : isPeriodSram a = true ∨ isScratch a = true) (_lo : a / 8 * 8 ≤ w) (hi : w < a + 64) : eccSize w = 8 := by
  have : 0x1000000000 ≤ a ∧ a < 0x1004000000 ∨ 0x2000000000 ≤ a ∧ a < 0x2002000000 := h.imp isPeriodSram_range isScratch_range
  unfold eccSize
  rw [if_neg (by omega), if_neg (by omega)]

/-- Where no word in error lies, none of the words touched is in error. -/
theorem State.bad_word (h : isPeriodSram a = true ∨ isScratch a = true) (n64 : n ≤ 64) (hb : s.bad a n = false) {w : Nat}
    (hw : w ∈ eccWords a n) : s.bad w (eccSize a) = false := by
  have z : eccSize a = 8 := h.elim eccSize_of_isPeriodSram eccSize_of_isScratch
  simp only [eccWords, z, List.mem_map, List.mem_range] at hw
  obtain ⟨i, hi, rfl⟩ := hw
  have zw : eccSize (8 * (a / 8 + i)) = 8 := eccSize_word h (by omega) (by omega)
  simp only [State.bad, List.any_eq_false, decide_eq_true_eq, eccUnits, z, zw] at hb ⊢
  intro f hf
  have := hb f hf
  omega
/-- With nothing told and no word in error the checks find nothing. -/
theorem State.findEcc_clean (h : ∀ w ∈ eccWords a n, s.bad w (eccSize a) = false) : s.findEcc a n [] = ((0, true), s) := by
  have clean : ((eccWords a n).zipIdx.map fun w => (w.1, s.eccOf w.1 (eccSize a) (([] : List Ecc).getD w.2 .clean))) =
      (eccWords a n).zipIdx.map fun w => (w.1, Ecc.clean) := by
    refine List.map_congr_left fun w hw => ?_
    have := h w.1 (List.fst_mem_of_mem_zipIdx hw)
    simp [State.eccOf, this]
  have none (e : Ecc) (he : e ≠ .clean) : (((eccWords a n).zipIdx.map fun w => (w.1, Ecc.clean)).filter fun x => x.2 == e) = [] := by
    rw [List.filter_eq_nil_iff]
    intro x hx
    obtain ⟨w, -, rfl⟩ := List.mem_map.1 hx
    simpa using he.symm
  unfold State.findEcc
  simp only [clean, none .uncorrectable (by decide), none .corrected (by decide)]
  rfl

section
variable (h : isPeriodSram a = true ∨ isScratch a = true) (hup : s.clk.cdUp = true)
include h hup

/-- Period SRAM and cluster scratch refuse a read of another form (R523). -/
theorem State.busRead_sram_form {r : Requester} (k : Check) (g : Gate) (hf : sramForm r a n = false) :
    s.busRead r a n k g = (none, s) := by
  have low : ¬ a < gddrEnd := by
    have := h.imp isPeriodSram_range isScratch_range
    unfold gddrEnd
    omega
  unfold State.busRead
  rcases h with h | h
  · simp only [State.dieOk_of_cdUp hup, low, h, hf, Bool.not_true, Bool.false_eq_true, Bool.not_false, if_false, if_true]
  · simp only [State.dieOk_of_cdUp hup, low, not_isPeriodSram_of_isScratch h, h, hf, Bool.not_true, Bool.false_eq_true, Bool.not_false,
      if_false, if_true]
/-- A read of the form of R523 of words that are not in error, and found clean, is answered. -/
theorem State.busRead_sram_answers {r : Requester} (g : Gate) (hf : sramForm r a n = true) (hb : s.bad a n = false) :
    (s.busRead r a n {} g).1.isSome = true := by
  have low : ¬ a < gddrEnd := by
    have := h.imp isPeriodSram_range isScratch_range
    unfold gddrEnd
    omega
  have n64 : n ≤ 64 := by
    have := sramForm_iff.1 hf
    omega
  have clean := State.findEcc_clean fun w hw => State.bad_word (s := s) h n64 hb hw
  unfold State.busRead
  rcases h with h | h
  · simp only [State.dieOk_of_cdUp hup, low, h, hf, clean, Bool.not_true, Bool.false_eq_true, if_false, if_true]
    rfl
  · simp only [State.dieOk_of_cdUp hup, low, not_isPeriodSram_of_isScratch h, h, hf, clean, Bool.not_true, Bool.false_eq_true, if_false,
      if_true]
    rfl
end

theorem State.busWrite_sram_form (h : isPeriodSram a = true) (hup : s.clk.cdUp = true) {r : Requester} {bs : List Byte} (k : Check) (g : Gate)
    (hf : sramForm r a bs.length = false) : s.busWrite r a bs k g = (false, s) := by
  have low : ¬ a < gddrEnd := by
    have := isPeriodSram_range h
    unfold gddrEnd
    omega
  unfold State.busWrite
  simp only [State.dieOk_of_cdUp hup, low, h, hf, Bool.not_true, Bool.false_eq_true, Bool.not_false, if_false, if_true]
/-- Cluster scratch discards writes (R93). -/
theorem State.busWrite_scratch (h : isScratch a = true) (hup : s.clk.cdUp = true) (r : Requester) (bs : List Byte) (k : Check) (g : Gate) :
    s.busWrite r a bs k g = (true, s) := by
  have low : ¬ a < gddrEnd := by
    have := isScratch_range h
    unfold gddrEnd
    omega
  unfold State.busWrite
  simp only [State.dieOk_of_cdUp hup, low, not_isPeriodSram_of_isScratch h, h, Bool.not_true, Bool.false_eq_true, if_false, if_true]

/-! ## The SAF page (R28) -/

theorem State.saf_reached (h : pageBase a = safBase) : isPage a = true ∧ s.dieOk a = true := by
  have le := pageBase_le a
  rw [h, safBase] at le
  exact ⟨isPage_of_pageBase h (by decide) (by decide), State.dieOk_binnacle (by omega)⟩
theorem State.busWrite_saf (h : pageBase a = safBase) {r : Requester} (hr : r ≠ .island) (bs : List Byte) (k : Check) :
    s.busWrite r a bs k = (false, s) := by
  obtain ⟨page, die⟩ := State.saf_reached (s := s) h
  rw [State.busWrite_page page die, h]
  have free : s.gateBars safBase .free = false := rfl
  have out : s.pageReset safBase = false := rfl
  have refused (o v : Nat) : s.regWrite r safBase o v = (false, s) := by
    unfold State.regWrite
    simp [hr, safBase, perBase, srchBase, chrtBase, cellBase, capBase, memBase, chnBase, hlmBase, clkBase, pinBase, evtBase, pltBase, serBase,
      bootBase, flsBase, nvrBase]
  simp [free, out, refused]
theorem State.busRead_saf_answers (h : pageBase a = safBase) (ha : a % 4 = 0) (r : Requester) (k : Check) :
    (s.busRead r a 4 k).1.isSome = true := by
  obtain ⟨page, die⟩ := State.saf_reached (s := s) h
  have free : s.gateBars safBase .free = false := rfl
  have out : s.pageReset safBase = false := rfl
  rw [State.busRead_page page die, h]
  simp [free, out, ha]

end Sys2Proof.Machine
end

section
namespace Sys2Proof.Machine

/-! ## The accesses of a cycle (R29) -/

theorem reqRank_lt (r : Requester) : reqRank r < 13 := by
  cases r <;> simp only [reqRank] <;> omega
/-- Two lists put in the order of their ranks below n. -/
theorem flatMap_rank {α : Type} (l m : List α) (i j n : Nat) :
    ((List.range n).flatMap fun k => (if i = k then l else []) ++ (if j = k then m else [])) =
      if i ≤ j then (if i < n then l else []) ++ (if j < n then m else [])
      else (if j < n then m else []) ++ (if i < n then l else []) := by
  induction n with
  | zero => simp
  | succ n ih =>
    rw [List.range_succ, List.flatMap_append, ih]
    simp only [List.flatMap_cons, List.flatMap_nil, List.append_nil]
    split_ifs <;> simp <;> omega
theorem inOrder_pair (x y : Access) : inOrder [x, y] = if reqRank x.r ≤ reqRank y.r then [x, y] else [y, x] := by
  have h := flatMap_rank [x] [y] (reqRank x.r) (reqRank y.r) 13
  simp only [reqRank_lt, if_true] at h
  refine Eq.trans (List.flatMap_congr fun k _ => ?_) h
  by_cases hx : reqRank x.r = k <;> by_cases hy : reqRank y.r = k <;> simp [hx, hy]
theorem inOrder_one (x : Access) : inOrder [x] = [x] := by
  have h := flatMap_rank [x] [] (reqRank x.r) (reqRank x.r) 13
  simp only [reqRank_lt, if_true, le_refl, List.append_nil] at h
  refine Eq.trans (List.flatMap_congr fun k _ => ?_) h
  by_cases hx : reqRank x.r = k <;> simp [hx]

variable {s : State} {r : Requester} {addr : BitVec 40} {v set clr : Word} {chk : Check}

theorem State.accesses_one (x : Access) : s.accesses [x] = s.access x := by
  unfold State.accesses
  rw [if_neg (by simp), inOrder_one]
  rfl
/-- Two accesses of a cycle that do no task's action act one after the other, in the order of R29. -/
theorem State.accesses_pair {x y : Access} (hx : taskWrite x = false) (hy : taskWrite y = false) :
    s.accesses [x, y] = if reqRank x.r ≤ reqRank y.r then (s.access x).access y else (s.access y).access x := by
  unfold State.accesses
  rw [if_neg (by simp [hx, hy]), inOrder_pair]
  split <;> rfl

/-! ## REGISTER_WRITE and REGISTER_READ_CLEAR -/

/-- A write in the module powered that need not wait. -/
theorem exec_registerWrite_one (on : s.clk.power ≠ .off) (free : s.memWaits addr.toNat = false) (open_ : s.latching addr.toNat = false) :
    exec (.registerWrite r addr v set clr [] chk) s = .next (
      let t := (s.busWrite r addr.toNat (toLE 4 v.toNat) chk).2
      if s.pageActs addr.toNat then t.sameCycle addr.toNat v.toNat set.toNat clr.toNat else t) := by
  rw [exec_registerWrite]
  unfold execRegisterWrite
  simp [on, State.accessWaits, free, open_, State.accesses_one, State.access]
theorem exec_registerReadClear_some (on : s.clk.power ≠ .off) (free : s.memWaits addr.toNat = false) {d : RegRow} {k : Nat}
    (h : regDesc addr.toNat = some (d, k)) : exec (.registerReadClear r addr set chk) s = .next (
      let t := (s.busRead r addr.toNat 4 chk).2
      if s.pageActs addr.toNat then t.orReg addr.toNat (set.toNat &&& d.rc) else t) := by
  rw [exec_registerReadClear]
  unfold execRegisterReadClear
  simp [on, free, h, State.access]
theorem exec_registerReadClear_none (on : s.clk.power ≠ .off) (free : s.memWaits addr.toNat = false) (h : regDesc addr.toNat = none) :
    exec (.registerReadClear r addr set chk) s = .next (s.busRead r addr.toNat 4 chk).2 := by
  rw [exec_registerReadClear]
  unfold execRegisterReadClear
  simp [on, free, h, State.access]
/-- In Off, and while an access waits, nothing happens. -/
theorem exec_registerWrite_idle (h : s.clk.power = .off ∨ s.memWaits addr.toNat = true ∨ s.latching addr.toNat = true) :
    exec (.registerWrite r addr v set clr [] chk) s = .next s := by
  rw [exec_registerWrite]
  unfold execRegisterWrite
  rcases h with h | h | h <;> simp [State.accessWaits, h]
theorem exec_registerReadClear_idle (h : s.clk.power = .off ∨ s.memWaits addr.toNat = true) :
    exec (.registerReadClear r addr set chk) s = .next s := by
  rw [exec_registerReadClear]
  unfold execRegisterReadClear
  rcases h with h | h <;> simp [h]

section
variable {a : Nat}

theorem State.memWaits_of_ge (h : gddrEnd ≤ a) : s.memWaits a = false := by
  simp [State.memWaits, Nat.not_lt.2 h]
theorem State.memWaits_of_off (h : s.clk.cdUp = false) : s.memWaits a = false := by
  simp [State.memWaits, State.memReady, h]
theorem slotAt_eq_none (h : ¬ (0x1000000000 ≤ a ∧ a < 0x1000040000)) : slotAt a = none := by
  unfold slotAt
  rw [inRange_eq_false.2 h]
  rfl
theorem State.latching_eq_false (h : ¬ (0x1000000000 ≤ a ∧ a < 0x1000040000)) : s.latching a = false := by
  unfold State.latching
  rw [slotAt_eq_none h]
/-- A slot's addresses are those of its 64 KB (R60). -/
theorem slotAt_eq {q : Slot} (lo : 0x1000000000 + 0x10000 * q.val ≤ a) (hi : a < 0x1000010000 + 0x10000 * q.val) : slotAt a = some q := by
  have hq := q.isLt
  have at_ : toFin 4 ((a - 0x1000000000) / 0x10000) = q := by
    apply Fin.ext
    simp only [toFin, Fin.ofNat]
    omega
  unfold slotAt
  rw [inRange_eq_true.2 (by omega), ofsFrom_eq, at_]
  rfl
theorem State.latching_of_phase {q : Slot} (h : s.phase q = 1) (lo : 0x1000000000 + 0x10000 * q.val ≤ a)
    (hi : a < 0x1000010000 + 0x10000 * q.val) : s.latching a = true := by
  unfold State.latching
  rw [slotAt_eq lo hi]
  exact beq_iff_eq.2 h
/-- A register page is neither GDDR6 nor a slot. -/
theorem State.page_free (h : isPage a = true) : s.memWaits a = false ∧ s.latching a = false := by
  have := isPage_range h
  exact ⟨State.memWaits_of_ge (by unfold gddrEnd; omega), State.latching_eq_false (by omega)⟩

/-! ## What the hardware does in the cycle of a write (R14) -/

/-- A register whose W1S bits no hardware clears (R375, R505, R337). -/
def plainReg (a : Nat) : Prop :=
  a ≠ hlmRun ∧ ¬ (pageBase a = pltBase ∧ a % 16 = 0 ∧ 0x10 ≤ a % 0x10000 ∧ a % 0x10000 < 0x50) ∧ a ≠ mptDbin ∧ a ≠ mptDbout

theorem State.sameCycle_plain_some (h : plainReg a) {d : RegRow} {k : Nat} (hd : regDesc a = some (d, k)) (v set clr : Nat) :
    s.sameCycle a v set clr = s.orReg a (set &&& d.w1c) := by
  obtain ⟨hlm, plt, din, dout⟩ := h
  unfold State.sameCycle
  rw [if_neg hlm, if_neg plt, if_neg din, if_neg dout, hd]
theorem State.sameCycle_plain_none (h : plainReg a) (hd : regDesc a = none) (v set clr : Nat) : s.sameCycle a v set clr = s := by
  obtain ⟨hlm, plt, din, dout⟩ := h
  unfold State.sameCycle
  rw [if_neg hlm, if_neg plt, if_neg din, if_neg dout, hd]
theorem plainReg_of_unaligned (h : a % 4 ≠ 0) : plainReg a := by
  unfold plainReg hlmRun mptDbin mptDbout hlmBase mptBase
  omega
/-- Of the pages, only HLM, PLT and MPT have registers that are not plain. -/
theorem plainReg_of_page {b : Nat} (h : pageBase a = b) (hb : b ≠ hlmBase ∧ b ≠ pltBase ∧ b ≠ mptBase) : plainReg a := by
  have lo := pageBase_le a
  have hi := lt_pageBase_add a
  unfold plainReg hlmRun mptDbin mptDbout pageBase hlmBase mptBase pltBase at *
  omega
theorem State.pageActs_off (ha : a < 0x5000000000) (h : s.clk.cdUp = false) : s.pageActs a = false := by
  simp [State.pageActs, State.dieOk_off ha h]
theorem State.rd_orReg (m : Nat) : (s.orReg a m).rd a = (s.rd a ||| m) % 2 ^ 32 := State.rd_wr_self ..

end

end Sys2Proof.Machine
end

section
namespace Sys2Proof.Machine

variable {s : State} {r : Requester} {addr : BitVec 40} {v set clr : Word} {chk : Check}

/-- A write that the bus refuses changes nothing but the W1C bits that the hardware sets in its cycle (R14). -/
theorem exec_registerWrite_refused (on : s.clk.power ≠ .off) (page : isPage addr.toNat = true) (plain : plainReg addr.toNat)
    (refused : s.busWrite r addr.toNat (toLE 4 v.toNat) chk = (false, s))
    (acts : regDesc addr.toNat = none ∨ s.pageActs addr.toNat = true) :
    ∃ t, exec (.registerWrite r addr v set clr [] chk) s = .next t ∧
      (∀ d k, regDesc addr.toNat = some (d, k) → t.rd addr.toNat = s.rd addr.toNat ||| (set.toNat &&& d.w1c)) ∧
      (regDesc addr.toNat = none → t = s) ∧ Frame [] (regsOf [addr.toNat]) s t := by
  obtain ⟨free, open_⟩ := State.page_free (s := s) page
  refine ⟨_, exec_registerWrite_one on free open_, ?_⟩
  simp only [refused]
  rcases hd : regDesc addr.toNat with _ | ⟨d, k⟩
  · have same : (if s.pageActs addr.toNat = true then s.sameCycle addr.toNat v.toNat set.toNat clr.toNat else s) = s := by
      rw [State.sameCycle_plain_none plain hd, ite_self]
    rw [same]
    exact ⟨fun d k h => (nomatch h), fun _ => rfl, Frame.refl ..⟩
  · rw [if_pos (acts.resolve_left (by simp [hd])), State.sameCycle_plain_some plain hd]
    refine ⟨fun d' k' h => ?_, fun h => (nomatch h), (Frame.refl ..).orReg (List.mem_singleton.2 rfl)⟩
    cases h
    rw [State.rd_orReg]
    exact Nat.mod_eq_of_lt (Nat.or_lt_two_pow (s.rd_lt _) (lt_of_le_of_lt Nat.and_le_left set.isLt))

/-- With the compute die off a command's access to it changes nothing (R27). -/
theorem exec_access_dieOff (h : s.clk.power = .off ∨ addr.toNat < 0x5000000000 ∧ s.clk.cdUp = false) :
    exec (.registerWrite r addr v set clr [] chk) s = .next s ∧ exec (.registerReadClear r addr set chk) s = .next s := by
  by_cases on : s.clk.power = .off
  · exact ⟨exec_registerWrite_idle (.inl on), exec_registerReadClear_idle (.inl on)⟩
  obtain ⟨low, off⟩ := h.resolve_left on
  have die := State.dieOk_off low off
  have free : s.memWaits addr.toNat = false := State.memWaits_of_off off
  have still := State.pageActs_off low off
  constructor
  · cases open_ : s.latching addr.toNat with
    | true => exact exec_registerWrite_idle (.inr (.inr open_))
    | false => simp [exec_registerWrite_one on free open_, State.busWrite_dieOff die, still]
  · rcases hd : regDesc addr.toNat with _ | ⟨d, k⟩
    · simp [exec_registerReadClear_none on free hd, State.busRead_dieOff die]
    · simp [exec_registerReadClear_some on free hd, State.busRead_dieOff die, still]

/-- Settles O55: what each region of the address map refuses, and what a command of a refused access leaves. -/
theorem accessRefusals : Obligations.AccessRefusals := by
  intro s r a
  refine ⟨?form, ?off, ?sram, fun bs k h hr => State.busWrite_saf h hr bs k, fun k h ha => State.busRead_saf_answers h ha r k, ?cmd⟩
  case form =>
    intro n k bs page bad len
    cases die : s.dieOk a with
    | false => exact ⟨State.busRead_dieOff die .., State.busWrite_dieOff die ..⟩
    | true =>
      rw [State.busRead_page page die, State.busWrite_page page die, len]
      exact ⟨if_pos bad, if_pos bad⟩
  case off =>
    intro n k bs low off
    have die := State.dieOk_off low off
    exact ⟨State.busRead_dieOff die .., State.busWrite_dieOff die ..⟩
  case sram =>
    intro n k bs up region len
    refine ⟨fun bad => ?_, fun good hk clean => ?_, fun h => State.busWrite_scratch h up r bs k .free⟩
    · have form : sramForm r a n = false := by
        rw [← Bool.not_eq_true, sramForm_iff]
        exact bad
      exact ⟨State.busRead_sram_form region up k .free form, fun h => State.busWrite_sram_form h up k .free (len ▸ form)⟩
    · subst hk
      exact State.busRead_sram_answers region up .free (sramForm_iff.2 good) clean
  case cmd =>
    intro addr v set clr chk
    refine ⟨exec_access_dieOff, fun ready retrains low => ?_, fun q latch lo hi => ?_, fun on h => ?_⟩
    · have waits : s.memWaits addr.toNat = true := by
        simp only [State.memWaits, ready, retrains, Bool.and_true]
        exact decide_eq_true low
      exact ⟨exec_registerWrite_idle (.inr (.inl waits)), exec_registerReadClear_idle (.inr waits)⟩
    · exact exec_registerWrite_idle (.inr (.inr (State.latching_of_phase latch lo hi)))
    · rcases h with ⟨page, odd⟩ | ⟨saf, hr⟩
      · refine exec_registerWrite_refused on page (plainReg_of_unaligned odd) ?_ (.inl (regDesc_unaligned odd))
        cases die : s.dieOk addr.toNat with
        | false => exact State.busWrite_dieOff die ..
        | true =>
          rw [State.busWrite_page page die]
          exact if_pos (.inr odd)
      · obtain ⟨page, die⟩ := State.saf_reached (s := s) saf
        have acts : s.pageActs addr.toNat = true := by
          unfold State.pageActs
          rw [page, die, saf]
          rfl
        exact exec_registerWrite_refused on page (plainReg_of_page saf (by decide)) (State.busWrite_saf saf hr _ chk) (.inr acts)

end Sys2Proof.Machine
end

section
namespace Sys2Proof.Machine

/-! ## The access codes (R13) -/

/-- The value that a write of v leaves in a register of the row d. -/
def State.coded (s : State) (a : Nat) (d : RegRow) (v : Nat) : Nat :=
  let m := d.rw ||| (if s.bit (lockReg a) 31 then 0 else d.rwl)
  (((s.rd a &&& (allBits ^^^ m)) ||| (v &&& m)) ||| (v &&& d.w1s)) &&& (allBits ^^^ (v &&& d.w1c))

variable {s t : State} {a : Nat} {d : RegRow} {k : Nat}

theorem State.genWrite_some (h : regDesc a = some (d, k)) (v : Nat) : s.genWrite a v = s.wr a (s.coded a d v) := by
  unfold State.genWrite
  rw [h]
  rfl
theorem State.rd_genWrite (h : regDesc a = some (d, k)) (v : Nat) : (s.genWrite a v).rd a = s.coded a d v % 2 ^ 32 := by
  rw [State.genWrite_some h]
  exact State.rd_wr_self s a _
theorem State.genWrite_none (h : regDesc a = none) (v : Nat) : s.genWrite a v = s := by
  unfold State.genWrite
  rw [h]
theorem State.genWrite_frame (v : Nat) : Frame [] (regsOf [a]) s (s.genWrite a v) := by
  rcases h : regDesc a with _ | ⟨d, k⟩
  · rw [State.genWrite_none h]
    exact Frame.refl ..
  · rw [State.genWrite_some h]
    exact (Frame.refl ..).wr (List.mem_singleton.2 rfl)
theorem or_mod_word (x y : Nat) : (x % 2 ^ 32 ||| y) % 2 ^ 32 = (x ||| y) % 2 ^ 32 := by
  rw [Nat.or_mod_two_pow, Nat.mod_mod, ← Nat.or_mod_two_pow]
/-- What a write leaves depends on the registers alone. -/
theorem State.coded_congr (h : ∀ x, t.rd x = s.rd x) (v : Nat) : t.coded a d v = s.coded a d v := by
  have lock : t.bit (lockReg a) 31 = s.bit (lockReg a) 31 := by rw [State.bit, State.bit, h]
  unfold State.coded
  rw [h, lock]
theorem State.genRead_none (h : regDesc a = none) : s.genRead a = (0, s) := by
  unfold State.genRead
  rw [h]
theorem State.genRead_some (h : regDesc a = some (d, k)) : s.genRead a = (s.rd a, if d.rc = 0 then s else s.clrReg a d.rc) := by
  unfold State.genRead
  rw [h]
  dsimp only
  split <;> rfl

/-! ## A page that serves its registers -/

/-- The module is powered, the compute die up, and the page of a neither in reset nor gated. -/
structure Serves (s : State) (a : Nat) : Prop where
  page : isPage a = true
  aligned : a % 4 = 0
  on : s.clk.power ≠ .off
  up : s.clk.cdUp = true
  out : s.pageReset (pageBase a) = false
  open_ : s.pageGated (pageBase a) = false

theorem Serves.acts (h : Serves s a) : s.pageActs a = true := by
  simp [State.pageActs, h.page, State.dieOk_of_cdUp h.up, h.out, h.open_]
theorem Serves.busWrite (h : Serves s a) (r : Requester) (v : Word) (chk : Check) :
    s.busWrite r a (toLE 4 v.toNat) chk = s.regWrite r (pageBase a) (a - pageBase a) v.toNat := by
  have hv : ofLE (toLE 4 v.toNat) = v.toNat := by
    rw [ofLE_toLE]
    exact Nat.mod_eq_of_lt v.isLt
  have bars : s.gateBars (pageBase a) .free = false := by
    simp only [State.gateBars, reduceCtorEq, decide_false, Bool.false_or]
    exact h.open_
  rw [State.busWrite_page h.page (State.dieOk_of_cdUp h.up), hv]
  simp [h.aligned, h.out, bars]
theorem Serves.busRead (h : Serves s a) (r : Requester) (chk : Check) :
    (s.busRead r a 4 chk).2 = (s.regRead (pageBase a) (a - pageBase a)).2 := by
  have bars : s.gateBars (pageBase a) .free = false := by
    simp only [State.gateBars, reduceCtorEq, decide_false, Bool.false_or]
    exact h.open_
  rw [State.busRead_page h.page (State.dieOk_of_cdUp h.up)]
  simp [h.aligned, h.out, bars]
/-- A register of another page than that of the resets and gates has no part in whether a page serves. -/
theorem Serves.frame (h : Serves s a) (f : Frame [] (regsOf [a]) s t) (hb : pageBase a ≠ clkBase) : Serves t a := by
  obtain ⟨parts, regs, -⟩ := f
  have clk : t.clk = s.clk := parts .clk List.not_mem_nil
  have lo := pageBase_le a
  have hi := lt_pageBase_add a
  have hk : pageBase a % 0x10000 = 0 := by
    unfold pageBase
    omega
  have stays (o : Nat) (ho : o < 0x10000) : t.rd (clkBase + o) = s.rd (clkBase + o) := by
    refine regs _ fun e => hb ?_
    have e := List.mem_singleton.1 e
    unfold clkBase at e ⊢
    omega
  have reset (b : Blk) : t.inReset b = s.inReset b := by
    unfold State.inReset State.bit
    rw [show pwrBrstat = clkBase + (pwrBrstat - clkBase) from rfl, stays _ (by decide)]
  have gated (b : Blk) : t.gated b = s.gated b := by
    unfold State.gated State.bit
    rw [show clkGstat = clkBase + (clkGstat - clkBase) from rfl, stays _ (by decide)]
  have gate (b : Blk) : t.bit clkGate (blkIdx b) = s.bit clkGate (blkIdx b) := by
    unfold State.bit
    rw [show clkGate = clkBase + (clkGate - clkBase) from rfl, stays _ (by decide)]
  refine ⟨h.page, h.aligned, clk ▸ h.on, clk ▸ h.up, ?_, ?_⟩
  · have out := h.out
    unfold State.pageReset at out ⊢
    simpa only [reset] using out
  · have open_ := h.open_
    unfold State.pageGated at open_ ⊢
    simpa only [gated, gate] using open_

end Sys2Proof.Machine
end

section
namespace Sys2Proof.Machine

variable {s t : State} {a : Nat} {d : RegRow} {k : Nat} {addr : BitVec 40}

/-! ## Pages whose writes are by the access codes alone -/

/-- Registers that a write changes by their access codes alone: the SYS page, and the CHRT page beside CHRT_CMD (R147). -/
def byCodes (a : Nat) : Prop := pageBase a = sysBase ∨ pageBase a = chrtBase ∧ a ≠ chrtBase + 8

theorem byCodes.regWrite (h : byCodes a) (r : Requester) (v : Nat) :
    (s.regWrite r (pageBase a) (a - pageBase a) v).2 = s.genWrite a v := by
  have lo := pageBase_le a
  have back : pageBase a + (a - pageBase a) = a := by omega
  unfold State.regWrite
  rcases h with h | ⟨h, cmd⟩
  · rw [h] at back ⊢
    simp [sysBase, perBase, srchBase, chrtBase, cellBase, capBase, memBase, chnBase, hlmBase, clkBase, pinBase, evtBase, pltBase, serBase,
      bootBase, flsBase, nvrBase, safBase, mpinBase, mptBase] at back ⊢
    rw [back]
  · have other : a - chrtBase ≠ 0x08 := by omega
    rw [h] at back ⊢
    rw [if_neg (by decide), if_neg (by decide), if_pos rfl, if_neg other, back]
theorem byCodes.isPage (h : byCodes a) : isPage a = true := by
  rcases h with h | ⟨h, -⟩ <;> exact isPage_of_pageBase h (by decide) (by decide)
theorem byCodes.plain (h : byCodes a) : plainReg a := by
  rcases h with h | ⟨h, -⟩ <;> exact plainReg_of_page h (by decide)
theorem byCodes.notClk (h : byCodes a) : pageBase a ≠ clkBase := by
  rcases h with h | ⟨h, -⟩ <;> rw [h] <;> decide
/-- None of these registers does the action of a task (R476). -/
theorem byCodes.taskWrite {x : Access} (h : byCodes x.addr.toNat) : taskWrite x = false := by
  have page : pageBase x.addr.toNat = sysBase ∨ pageBase x.addr.toNat = chrtBase := h.imp_right And.left
  have lo := pageBase_le x.addr.toNat
  have hi := lt_pageBase_add x.addr.toNat
  have list : x.addr.toNat ∉ [srchBase + 0x08, srchBase + 0x0C, srchBase + 0x10, capBase + 0x08, evtBase + 0x0C] := by
    simp only [List.mem_cons, List.not_mem_nil, or_false, srchBase, capBase, evtBase]
    unfold sysBase chrtBase at page
    omega
  have ser : ¬ (serBase + 0x100 ≤ x.addr.toNat ∧ x.addr.toNat < serBase + 0x1C0 ∧ x.addr.toNat % 32 = 0x18) := by
    unfold sysBase chrtBase at page
    unfold serBase
    omega
  unfold Machine.taskWrite
  simp [list, ser]

variable (sv : Serves s addr.toNat) (codes : byCodes addr.toNat)
include sv codes

theorem Serves.access (r : Requester) (v : Word) (chk : Check) : s.access { r, addr, v := some v, chk } = s.genWrite addr.toNat v.toNat := by
  rw [← codes.regWrite r v.toNat, ← sv.busWrite r v chk]
  rfl
/-- A write by the access codes, with the W1C bits that the hardware sets in its cycle (R13, R14). -/
theorem Serves.write (r : Requester) (v set clr : Word) (chk : Check) : ∃ t,
    exec (.registerWrite r addr v set clr [] chk) s = .next t ∧ Frame [] (regsOf [addr.toNat]) s t ∧
    (∀ d k, regDesc addr.toNat = some (d, k) →
      t.rd addr.toNat = (s.coded addr.toNat d v.toNat ||| (set.toNat &&& d.w1c)) % 2 ^ 32) ∧
    (regDesc addr.toNat = none → t = s) := by
  obtain ⟨free, open_⟩ := State.page_free (s := s) sv.page
  refine ⟨_, exec_registerWrite_one sv.on free open_, ?_⟩
  simp only [sv.busWrite, codes.regWrite, sv.acts, if_true]
  rcases hd : regDesc addr.toNat with _ | ⟨d, k⟩
  · rw [State.genWrite_none hd, State.sameCycle_plain_none codes.plain hd]
    exact ⟨Frame.refl .., fun d k h => (nomatch h), fun _ => rfl⟩
  · rw [State.sameCycle_plain_some codes.plain hd]
    refine ⟨(State.genWrite_frame _).orReg (List.mem_singleton.2 rfl), fun d' k' h => ?_, fun h => (nomatch h)⟩
    cases h
    rw [State.rd_orReg, State.rd_genWrite hd, or_mod_word]
/-- Two writes of one cycle, one after the other in the order of R29. -/
theorem Serves.writePair (r r' : Requester) (v v' : Word) (chk chk' : Check) : ∃ w,
    exec (.registerWrite r addr v 0 0 [{ r := r', addr, v := some v', chk := chk' }] chk) s = .next w ∧
    Frame [] (regsOf [addr.toNat]) s w ∧
    ∀ x, w.rd x = (if reqRank r ≤ reqRank r' then (s.genWrite addr.toNat v.toNat).genWrite addr.toNat v'.toNat
      else (s.genWrite addr.toNat v'.toNat).genWrite addr.toNat v.toNat).rd x := by
  obtain ⟨free, open_⟩ := State.page_free (s := s) sv.page
  have waits (q : Requester) (u : Word) (c : Check) : s.accessWaits { r := q, addr, v := some u, chk := c } = false := by
    simp [State.accessWaits, free, open_]
  have both : s.accesses [{ r, addr, v := some v, chk }, { r := r', addr, v := some v', chk := chk' }] =
      if reqRank r ≤ reqRank r' then (s.genWrite addr.toNat v.toNat).genWrite addr.toNat v'.toNat
      else (s.genWrite addr.toNat v'.toNat).genWrite addr.toNat v.toNat := by
    have after (u : Word) := sv.frame (State.genWrite_frame u.toNat) codes.notClk
    have quiet (q : Requester) (u : Word) (c : Check) : Machine.taskWrite { r := q, addr, v := some u, chk := c } = false :=
      byCodes.taskWrite (x := { r := q, addr, v := some u, chk := c }) codes
    rw [State.accesses_pair (quiet r v chk) (quiet r' v' chk')]
    simp only [sv.access codes, (after _).access codes]
  have frame : Frame [] (regsOf [addr.toNat]) s (if reqRank r ≤ reqRank r' then (s.genWrite addr.toNat v.toNat).genWrite addr.toNat v'.toNat
      else (s.genWrite addr.toNat v'.toNat).genWrite addr.toNat v.toNat) :=
    Frame.ite ((State.genWrite_frame _).trans (State.genWrite_frame _)) ((State.genWrite_frame _).trans (State.genWrite_frame _))
  refine ⟨State.sameCycle (if reqRank r ≤ reqRank r' then (s.genWrite addr.toNat v.toNat).genWrite addr.toNat v'.toNat
      else (s.genWrite addr.toNat v'.toNat).genWrite addr.toNat v.toNat) addr.toNat v.toNat 0 0, ?_, ?_⟩
  · rw [exec_registerWrite]
    unfold execRegisterWrite
    simp [sv.on, waits, both, sv.acts]
  · rcases hd : regDesc addr.toNat with _ | ⟨d, k⟩
    · rw [State.sameCycle_plain_none codes.plain hd]
      exact ⟨frame, fun _ => rfl⟩
    · rw [State.sameCycle_plain_some codes.plain hd, Nat.zero_and]
      refine ⟨frame.orReg (List.mem_singleton.2 rfl), fun x => ?_⟩
      by_cases hx : x = addr.toNat
      · subst hx
        rw [State.rd_orReg, Nat.or_zero, Nat.mod_eq_of_lt (State.rd_lt _ _)]
      · exact State.rd_wr_ne _ hx _

end Sys2Proof.Machine
end

section
namespace Sys2Proof.Machine

variable {s t : State} {a : Nat} {addr : BitVec 40}

/-! ## HLM_RUN: RUN of a running core (R375) -/

theorem toFin_core_inj {i j : Nat} (hi : i < 8) (hj : j < 8) (h : (toFin 10 i : CoreN) = toFin 10 j) : i = j := by
  have := congrArg Fin.val h
  simp only [toFin, Fin.ofNat] at this
  omega
/-- A write of RUN stops no core. -/
theorem State.coreRun_running {m : CoreN} (n : CoreN) (h : (s.core m).running = true) : ((s.coreRun n).core m).running = true := by
  by_cases e : m = n
  · subst e
    unfold State.coreRun
    dsimp only
    split
    · rw [State.core_setCore_self]
      exact h
    · exact h
  · unfold State.coreRun State.stallFree
    dsimp only
    split
    · rw [State.core_setCore_ne _ e]
      exact h
    · split
      · exact h
      · rw [State.core_setCore_ne _ e]
        exact (congrArg Core.running (State.core_setCore_ne _ e _)).trans h
theorem State.each_coreRun_running {m : CoreN} (l : List Nat) (h : (s.core m).running = true) :
    ((s.each l fun s n => s.coreRun (toFin 10 n)).core m).running = true := by
  unfold State.each
  induction l generalizing s with
  | nil => exact h
  | cons n l ih => exact ih (State.coreRun_running _ h)

/-- What the hardware does to RUN of core n in the cycle of a write of v: it clears a bit that the write does not set. -/
def State.runCleared (v : Nat) (s : State) (n : Nat) : State :=
  let c : CoreN := toFin 10 n
  if (s.core c).running then s.setCore c { s.core c with running := v.testBit n, stopping := false, runAgain := false } else s

theorem State.runCleared_ne {v n : Nat} {m : CoreN} (h : m ≠ toFin 10 n) : (s.runCleared v n).core m = s.core m := by
  unfold State.runCleared
  dsimp only
  split
  · exact State.core_setCore_ne _ h _
  · rfl
theorem State.runCleared_self {v n : Nat} (h : (s.core (toFin 10 n)).running = true ∨ (s.core (toFin 10 n)).running = v.testBit n) :
    ((s.runCleared v n).core (toFin 10 n)).running = v.testBit n := by
  unfold State.runCleared
  dsimp only
  split
  · rw [State.core_setCore_self]
  · rename_i stopped
    exact h.resolve_left stopped
theorem State.each_runCleared_settled {v n : Nat} (hn : n < 8) (l : List Nat) (hl : ∀ i ∈ l, i < 8)
    (h : (s.core (toFin 10 n)).running = v.testBit n) :
    ((s.each l (State.runCleared v)).core (toFin 10 n)).running = v.testBit n := by
  unfold State.each
  induction l generalizing s with
  | nil => exact h
  | cons i l ih =>
    refine ih (fun j hj => hl j (List.mem_cons_of_mem _ hj)) ?_
    by_cases e : i = n
    · subst e
      exact State.runCleared_self (.inr h)
    · rw [State.runCleared_ne fun k => e (toFin_core_inj hn (hl i List.mem_cons_self) k).symm]
      exact h
/-- Of a running core that the hardware stops, RUN is what the write says. -/
theorem State.each_runCleared {v n : Nat} (hn : n < 8) (l : List Nat) (hl : ∀ i ∈ l, i < 8) (mem : n ∈ l)
    (h : (s.core (toFin 10 n)).running = true) : ((s.each l (State.runCleared v)).core (toFin 10 n)).running = v.testBit n := by
  induction l generalizing s with
  | nil => exact absurd mem List.not_mem_nil
  | cons i l ih =>
    have rest : ∀ j ∈ l, j < 8 := fun j hj => hl j (List.mem_cons_of_mem _ hj)
    by_cases e : i = n
    · subst e
      exact State.each_runCleared_settled hn l rest (State.runCleared_self (.inl h))
    · refine ih rest ((List.mem_cons.1 mem).resolve_left (Ne.symm e)) ?_
      rw [State.runCleared_ne fun k => e (toFin_core_inj hn (hl i List.mem_cons_self) k).symm]
      exact h

theorem mem_setBitsOf {x n i : Nat} : i ∈ setBitsOf x n ↔ i < n ∧ x.testBit i = true := by
  simp [setBitsOf]

theorem Serves.hlmRun_write (sv : Serves s addr.toNat) (ha : addr.toNat = hlmRun) (r : Requester) (v set clr : Word) (chk : Check) :
    exec (.registerWrite r addr v set clr [] chk) s = .next
      ((s.each (setBitsOf v.toNat 8) fun s n => s.coreRun (toFin 10 n)).each (setBitsOf clr.toNat 8) (State.runCleared v.toNat)) := by
  obtain ⟨free, open_⟩ := State.page_free (s := s) sv.page
  rw [exec_registerWrite_one sv.on free open_]
  simp only [sv.busWrite, sv.acts, if_true]
  rw [ha]
  rfl

/-! ## PLT_RUN: RUN of a Plot channel (R505) -/

@[simp] theorem State.plot_setPlot_self (k : Fin 64) (q : PlotCh) : (s.setPlot k q).plot k = q := by
  simp [State.plot, State.setPlot]
theorem State.plot_setPlot_ne {j k : Fin 64} (h : j ≠ k) (q : PlotCh) : (s.setPlot k q).plot j = s.plot j := by
  have : k.val ≠ j.val := fun e => h (Fin.ext e.symm)
  simp [State.plot, State.setPlot, this]
theorem chanIdx_val (e : Fin 4) (c : Fin 16) : (chanIdx e c).val = 16 * e.val + c.val := by
  simp only [chanIdx, toFin, Fin.ofNat]
  omega
theorem mem_engineChans {e : Fin 4} {c : Fin 16} {mask : Nat} : chanIdx e c ∈ engineChans e mask ↔ mask.testBit c.val = true := by
  simp only [engineChans, List.mem_map, mem_setBitsOf]
  constructor
  · rintro ⟨i, ⟨hi, hb⟩, h⟩
    have := congrArg Fin.val h
    rw [chanIdx_val] at this
    simp only [toFin, Fin.ofNat] at this
    have : i = c.val := by omega
    exact this ▸ hb
  · exact fun h => ⟨c.val, ⟨c.isLt, h⟩, rfl⟩

theorem State.each_plot_keeps {k : Fin 64} {f : State → Fin 64 → State} (h : ∀ (u : State) (j : Fin 64), (f u j).plot k = u.plot k)
    (l : List (Fin 64)) : (s.each l f).plot k = s.plot k := by
  unfold State.each
  induction l generalizing s with
  | nil => rfl
  | cons j l ih => exact ih.trans (h s j)
/-- RUN of channel k after an operation that gives RUN the value b in the channels of a list, and changes no other. -/
theorem State.each_plot_run {k : Fin 64} {b : Bool} {f : State → Fin 64 → State} (self : ∀ u : State, ((f u k).plot k).run = b)
    (other : ∀ (u : State) (j : Fin 64), k ≠ j → (f u j).plot k = u.plot k) (l : List (Fin 64)) :
    ((s.each l f).plot k).run = if k ∈ l then b else (s.plot k).run := by
  have keeps (u : State) (j : Fin 64) (h : (u.plot k).run = b) : ((f u j).plot k).run = b := by
    by_cases e : k = j
    · exact e ▸ self u
    · rw [other u j e, h]
  have stays (l : List (Fin 64)) (u : State) (h : (u.plot k).run = b) : ((u.each l f).plot k).run = b := by
    induction l generalizing u with
    | nil => exact h
    | cons j l ih => exact ih _ (keeps u j h)
  induction l generalizing s with
  | nil => rfl
  | cons j l ih =>
    by_cases e : k = j
    · rw [if_pos (List.mem_cons.2 (.inl e))]
      exact stays l _ (e ▸ self s)
    · have step : ((s.each (j :: l) f).plot k).run = if k ∈ l then b else ((f s j).plot k).run := ih
      rw [step, other s j e]
      simp [e]
/-- A halt by the hardware of the channels that a write of v does not run. -/
def State.plotCleared (v : Nat) (s : State) (k : Fin 64) : State := if v.testBit (k.val % 16) then s else s.plotHaltOne k

theorem State.plotRunOne_frame (k : Fin 64) : Frame [.io] noReg s (s.plotRunOne k) := (Frame.refl ..).upd_io List.mem_cons_self
theorem State.plotCleared_frame (v : Nat) (k : Fin 64) : Frame [.io] noReg s (s.plotCleared v k) :=
  Frame.ite (Frame.refl ..) ((Frame.refl ..).upd_io List.mem_cons_self)

theorem Serves.pltRun_write (sv : Serves s addr.toNat) (e : Fin 4) (ha : addr.toNat = pltBase + 0x10 + 16 * e.val) (r : Requester)
    (v set clr : Word) (chk : Check) :
    exec (.registerWrite r addr v set clr [] chk) s = .next
      ((s.each (engineChans e v.toNat) State.plotRunOne).each (engineChans e clr.toNat) (State.plotCleared v.toNat)) := by
  obtain ⟨free, open_⟩ := State.page_free (s := s) sv.page
  rw [exec_registerWrite_one sv.on free open_]
  simp only [sv.busWrite, sv.acts, if_true]
  rw [ha]
  fin_cases e <;> rfl
/-- RUN after a write of PLT_RUN, with the bits that the hardware clears in its cycle. -/
theorem State.plotRun_after (s : State) (e : Fin 4) (c : Fin 16) (v clr : Nat) :
    (((s.each (engineChans e v) State.plotRunOne).each (engineChans e clr) (State.plotCleared v)).plot (chanIdx e c)).run =
      if clr.testBit c.val = true ∧ v.testBit c.val = false then false else (s.plot (chanIdx e c)).run || v.testBit c.val := by
  have low : (chanIdx e c).val % 16 = c.val := by
    rw [chanIdx_val]
    omega
  have run := State.each_plot_run (s := s) (k := chanIdx e c) (b := true) (f := State.plotRunOne)
    (fun u => by simp [State.plotRunOne]) (fun u j h => State.plot_setPlot_ne h _) (engineChans e v)
  simp only [mem_engineChans] at run
  generalize s.each (engineChans e v) State.plotRunOne = u at run ⊢
  have apart (w : State) (j : Fin 64) (h : chanIdx e c ≠ j) : (w.plotCleared v j).plot (chanIdx e c) = w.plot (chanIdx e c) := by
    unfold State.plotCleared
    split
    · rfl
    · exact State.plot_setPlot_ne h _
  cases hv : v.testBit c.val with
  | true =>
    have kept := State.each_plot_keeps (s := u) (k := chanIdx e c) (f := State.plotCleared v) (fun w j => by
      by_cases h : chanIdx e c = j
      · subst h
        simp [State.plotCleared, low, hv]
      · exact apart w j h) (engineChans e clr)
    rw [kept, run, hv]
    simp
  | false =>
    have halt := State.each_plot_run (s := u) (k := chanIdx e c) (b := false) (f := State.plotCleared v)
      (fun w => by simp [State.plotCleared, low, hv, State.plotHaltOne]) apart (engineChans e clr)
    simp only [mem_engineChans] at halt
    rw [halt, run, hv]
    simp

end Sys2Proof.Machine
end

section
namespace Sys2Proof.Machine

variable {s : State} {a : Nat} {addr : BitVec 40}

/-! ## Reads by the access codes (R13) -/

/-- Pages without live fields (R13). -/
def readPages : List Nat := [sysBase, srchBase, cellBase, capBase, memBase, chnBase, clkBase, bootBase]

theorem regRead_byCodes (h : pageBase a ∈ readPages) : s.regRead (pageBase a) (a - pageBase a) = s.genRead a := by
  have lo := pageBase_le a
  have back : pageBase a + (a - pageBase a) = a := by omega
  have other : pageBase a ∉ [perBase, chrtBase, hlmBase, pinBase, evtBase, pltBase, serBase, flsBase, nvrBase, safBase, mpinBase, mptBase] := by
    have apart : ∀ b ∈ readPages,
        b ∉ [perBase, chrtBase, hlmBase, pinBase, evtBase, pltBase, serBase, flsBase, nvrBase, safBase, mpinBase, mptBase] := by decide
    exact apart _ h
  simp only [List.mem_cons, List.not_mem_nil, or_false, not_or] at other
  unfold State.regRead
  simp only [other, if_false, back]
theorem isPage_of_readPages (h : pageBase a ∈ readPages) : isPage a = true := by
  have all : ∀ b ∈ readPages, (regPages.any fun p => p.1 == b) = true ∧ b ≠ mgmtDtBase := by decide
  exact isPage_of_pageBase rfl (all _ h).1 (all _ h).2

/-- A read clears the RC bits but those that the hardware sets in its cycle, and changes nothing else (R13, R14). -/
theorem Serves.readClear (sv : Serves s addr.toNat) (h : pageBase addr.toNat ∈ readPages) (r : Requester) (set : Word) (chk : Check) :
    (∀ d k, regDesc addr.toNat = some (d, k) → ∃ t, exec (.registerReadClear r addr set chk) s = .next t ∧
      t.rd addr.toNat = (if d.rc = 0 then s.rd addr.toNat
        else (s.rd addr.toNat &&& (allBits ^^^ (d.rc % 2 ^ 32))) ||| (set.toNat &&& d.rc) % 2 ^ 32) ∧
      Frame [] (regsOf [addr.toNat]) s t) ∧
    (regDesc addr.toNat = none → exec (.registerReadClear r addr set chk) s = .next s) := by
  obtain ⟨free, -⟩ := State.page_free (s := s) sv.page
  have self : regsOf [addr.toNat] addr.toNat := List.mem_singleton.2 rfl
  constructor
  · intro d k hd
    refine ⟨_, exec_registerReadClear_some sv.on free hd, ?_⟩
    simp only [sv.busRead, regRead_byCodes h, State.genRead_some hd, sv.acts, if_true]
    by_cases rc : d.rc = 0
    · simp only [if_pos rc]
      refine ⟨?_, (Frame.refl ..).orReg self⟩
      rw [State.rd_orReg, rc, Nat.and_zero, Nat.or_zero]
      exact Nat.mod_eq_of_lt (s.rd_lt _)
    · simp only [if_neg rc]
      refine ⟨?_, ((Frame.refl ..).clrReg self).orReg self⟩
      have cleared : (s.clrReg addr.toNat d.rc).rd addr.toNat = s.rd addr.toNat &&& (allBits ^^^ (d.rc % 2 ^ 32)) := by
        rw [State.clrReg, State.rd_wr_self]
        exact Nat.mod_eq_of_lt (lt_of_le_of_lt Nat.and_le_left (s.rd_lt _))
      rw [State.rd_orReg, cleared, Nat.or_mod_two_pow]
      congr 1
      exact Nat.mod_eq_of_lt (lt_of_le_of_lt Nat.and_le_left (s.rd_lt _))
  · intro hd
    rw [exec_registerReadClear_none sv.on free hd, sv.busRead, regRead_byCodes h, State.genRead_none hd]

/-- The second of two writes of a cycle acts on what the first has left (R29). -/
theorem Serves.writesInOrder (sv : Serves s addr.toNat) (codes : byCodes addr.toNat) (x y : Requester) (vx vy : Word) (cx cy : Check) :
    ∃ t u, exec (.registerWrite x addr vx 0 0 [] cx) s = .next t ∧ exec (.registerWrite y addr vy 0 0 [] cy) t = .next u ∧
      ∀ b, ((s.genWrite addr.toNat vx.toNat).genWrite addr.toNat vy.toNat).rd b = u.rd b := by
  obtain ⟨t, ht, ft, rt, nt⟩ := sv.write codes x vx 0 0 cx
  obtain ⟨u, hu, fu, ru, nu⟩ := (sv.frame ft codes.notClk).write codes y vy 0 0 cy
  refine ⟨t, u, ht, hu, fun b => ?_⟩
  have first : ∀ b, t.rd b = (s.genWrite addr.toNat vx.toNat).rd b := by
    intro b
    by_cases hb : b = addr.toNat
    · subst hb
      rcases hd : regDesc addr.toNat with _ | ⟨d, k⟩
      · rw [nt hd, State.genWrite_none hd]
      · rw [rt d k hd, State.rd_genWrite hd]
        exact congrArg (· % 2 ^ 32) (by simp)
    · rw [ft.2.1 b (fun h => hb (List.mem_singleton.1 h)), (State.genWrite_frame _).2.1 b (fun h => hb (List.mem_singleton.1 h))]
  by_cases hb : b = addr.toNat
  · subst hb
    rcases hd : regDesc addr.toNat with _ | ⟨d, k⟩
    · rw [nu hd, State.genWrite_none hd, first]
    · rw [ru d k hd, State.rd_genWrite hd, State.coded_congr first]
      exact congrArg (· % 2 ^ 32) (by simp)
  · rw [fu.2.1 b (fun h => hb (List.mem_singleton.1 h)), (State.genWrite_frame _).2.1 b (fun h => hb (List.mem_singleton.1 h)), first]

/-- Settles O56: what a write and a read by the access codes leave, and what the hardware does in the cycle of a write. -/
theorem registerAccess : Obligations.RegisterAccess := by
  intro s r addr v set clr chk on up aligned
  dsimp only
  intro out open_
  have serves (page : isPage addr.toNat = true) : Serves s addr.toNat := ⟨page, aligned, on, up, out, open_⟩
  refine ⟨fun codes => ?_, fun ha n hclr run => ?_, fun e c ha => ?_, fun hb => (serves (isPage_of_readPages hb)).readClear hb r set chk⟩
  · replace codes : byCodes addr.toNat := codes
    have sv := serves codes.isPage
    obtain ⟨t, ht, ft, rt, nt⟩ := sv.write codes r v set clr chk
    refine ⟨fun d k hd => ⟨t, ht, rt d k hd, ft⟩, fun hd => ht.trans (congrArg _ (nt hd)), fun r' v' chk' => ?_⟩
    obtain ⟨w, hw, fw, rw_⟩ := sv.writePair codes r r' v v' chk chk'
    refine ⟨fun le => ?_, fun lt => ?_⟩
    · have le : reqRank r ≤ reqRank r' := by cases r <;> cases r' <;> exact le
      obtain ⟨t, u, ht, hu, rd⟩ := sv.writesInOrder codes r r' v v' chk chk'
      exact ⟨w, t, u, hw, ht, hu, fun x => (rw_ x).trans (by rw [if_pos le]; exact rd x), fw⟩
    · have lt : reqRank r' < reqRank r := by cases r <;> cases r' <;> exact lt
      obtain ⟨t, u, ht, hu, rd⟩ := sv.writesInOrder codes r' r v' v chk chk'
      exact ⟨w, t, u, hw, ht, hu, fun x => (rw_ x).trans (by rw [if_neg lt.not_ge]; exact rd x), fw⟩
  · have sv := serves (isPage_of_pageBase (b := hlmBase) (by rw [ha]; rfl) (by decide) (by decide))
    refine ⟨_, sv.hlmRun_write ha r v set clr chk, ?_⟩
    exact State.each_runCleared n.isLt _ (fun i hi => (mem_setBitsOf.1 hi).1) (mem_setBitsOf.2 ⟨n.isLt, hclr⟩)
      (State.each_coreRun_running _ run)
  · have sv := serves (isPage_of_pageBase (b := pltBase) (by rw [ha]; fin_cases e <;> rfl) (by decide) (by decide))
    refine ⟨_, sv.pltRun_write e ha r v set clr chk, ?_, State.plotRun_after s e c v.toNat clr.toNat⟩
    exact (Frame.each (Frame.refl ..) fun u k h => h.trans (State.plotRunOne_frame k)).each fun u k h => h.trans (State.plotCleared_frame _ k)

end Sys2Proof.Machine
end

section
namespace Sys2Proof.Machine

variable {s t : State} {slot : Fin 2}

/-! ## Ends and refusals of the operations of BOOT_CMD (R413) -/

/-- An operation has ended with code c: BUSY shows whether an erase or a program runs. -/
def State.Ended (t : State) (c : Nat) : Prop :=
  t.bit bootCmdst 31 = t.boot.op.isSome ∧ t.fld bootCmdst 3 0 = c ∧ (c ≠ 0 → t.bit bootCmdst 8 = true)

theorem bootCmdst_self : regsOf [bootCmdst] bootCmdst := List.mem_singleton.2 rfl

theorem State.cmdEnd_eq (c : Nat) : s.cmdEnd c = (let u := (s.setBit bootCmdst 31 s.boot.op.isSome).setFld bootCmdst 3 0 c
    if c = 0 then u else u.setBit bootCmdst 8 true) := rfl
theorem Frame.cmdEnd {ps : List Part} {rs : Nat → Prop} (h : Frame ps rs s t) (hr : rs bootCmdst) (c : Nat) : Frame ps rs s (t.cmdEnd c) := by
  have k := (h.setBit (i := 31) (b := t.boot.op.isSome) hr).setFld (hi := 3) (lo := 0) (v := c) hr
  exact k.ite (k.setBit hr)
theorem State.cmdEnd_frame (c : Nat) : Frame [] (regsOf [bootCmdst]) s (s.cmdEnd c) := (Frame.refl ..).cmdEnd bootCmdst_self c
theorem State.cmdEnd_boot (c : Nat) : (s.cmdEnd c).boot = s.boot := (s.cmdEnd_does c).part .boot (by decide)
theorem State.cmdEnd_byte (c a : Nat) : (s.cmdEnd c).byte a = s.byte a := (s.cmdEnd_does c).part .mem (by decide) a
theorem State.cmdEnd_rd {a : Nat} (h : a ≠ bootCmdst) (c : Nat) : (s.cmdEnd c).rd a = s.rd a :=
  (State.cmdEnd_frame c).2.1 a fun k => h (List.mem_singleton.1 k)
theorem State.cmdEnd_ended {c : Nat} (h : c < 16) : (s.cmdEnd c).Ended c := by
  have keep (x : Nat) : x % 2 ^ (3 - 0 + 1) = x % 16 := rfl
  rw [State.Ended, State.cmdEnd_boot, State.cmdEnd_eq]
  dsimp only
  split
  · next h0 =>
    refine ⟨?_, ?_, fun k => absurd h0 k⟩
    · simp [State.bit_setFld, State.bit_setBit]
    · rw [State.fld_setFld_self _ (by decide) (by decide), keep, Nat.mod_eq_of_lt h]
  · refine ⟨?_, ?_, fun _ => State.bit_setBit_self _ _ (by decide)⟩
    · simp [State.bit_setFld, State.bit_setBit]
    · rw [State.setBit, State.fld_setFld_ne _ (by decide) (by decide) (by decide) (by decide),
        State.fld_setFld_self _ (by decide) (by decide), keep, Nat.mod_eq_of_lt h]

/-- What an end of an operation says holds on in a state that reads the same there. -/
theorem State.Ended.congr {c : Nat} (h : s.Ended c) (hr : t.rd bootCmdst = s.rd bootCmdst) (hb : t.boot.op = s.boot.op) : t.Ended c := by
  simpa only [State.Ended, State.bit, State.fld, hr, hb] using h

theorem State.powered_on (h : s.clk.power ≠ .off) (t : State) : s.powered t = t := if_neg h
theorem State.powered_off (h : s.clk.power = .off) (t : State) : s.powered t = s := if_pos h

/-! ## The erase unit (R413) -/

theorem foldl_larger_mem (l : List SfdpWrite) (b : SfdpWrite) :
    l.foldl (fun (b x : SfdpWrite) => if b.log < x.log then x else b) b ∈ b :: l ∧
    ∀ e ∈ b :: l, e.log ≤ (l.foldl (fun (b x : SfdpWrite) => if b.log < x.log then x else b) b).log := by
  induction l generalizing b with
  | nil => simp
  | cons x xs ih =>
    rw [List.foldl_cons]
    obtain ⟨mem, top⟩ := ih (if b.log < x.log then x else b)
    simp only [List.mem_cons, forall_eq_or_imp] at mem top ⊢
    obtain ⟨first, rest⟩ := top
    by_cases lt : b.log < x.log
    · rw [if_pos lt] at mem first rest ⊢
      exact ⟨.inr mem, lt.le.trans first, first, rest⟩
    · rw [if_neg lt] at mem first rest ⊢
      exact ⟨mem.imp_right .inr, first, (not_lt.1 lt).trans first, rest⟩

theorem sfdpErase_largest {f : Sfdp} {e : SfdpWrite} (he : e ∈ f.erases) (h : e.log ≤ 16) : e.log ≤ (sfdpErase f).log := by
  have mem : e ∈ f.erases.filter fun e => decide (e.log ≤ 16) := List.mem_filter.2 ⟨he, decide_eq_true h⟩
  unfold sfdpErase
  cases hl : f.erases.filter fun e => decide (e.log ≤ 16) with
  | nil => rw [hl] at mem; exact absurd mem List.not_mem_nil
  | cons x xs => rw [hl] at mem; exact (foldl_larger_mem xs x).2 e mem
theorem sfdpErase_le (f : Sfdp) : (sfdpErase f).log ≤ 16 := by
  unfold sfdpErase
  cases hl : f.erases.filter fun e => decide (e.log ≤ 16) with
  | nil => decide
  | cons x xs =>
    have mem := (foldl_larger_mem xs x).1
    rw [← hl] at mem
    exact of_decide_eq_true (List.mem_filter.1 mem).2

theorem State.eraseUnit_some {f : Sfdp} (h : s.boot.sfdp = some f) : s.eraseUnit = 2 ^ (sfdpErase f).log := by
  unfold State.eraseUnit; rw [h]
theorem State.eraseUnit_le : s.eraseUnit ≤ 0x10000 := by
  cases h : s.boot.sfdp with
  | none => unfold State.eraseUnit; rw [h]; decide
  | some f => rw [State.eraseUnit_some h]; exact Nat.pow_le_pow_right (by decide) (sfdpErase_le f)

/-! ## ERASE and PROGRAM (R413) -/

/-- The order in which ERASE and PROGRAM are refused (log entry 84): locked, booted, busy, out of place. -/
theorem State.bootOp_refused {n c : Nat} (h : s.opRefusal slot n = some c) (op : Nat) (data : List Byte) : s.bootOp op n slot data = s.cmdEnd c := by
  unfold State.bootOp; rw [h]
theorem State.bootOp_starts {n : Nat} (h : s.opRefusal slot n = none) (op : Nat) (data : List Byte) : s.bootOp op n slot data =
    (s.setBit bootCmdst 31 true).setBoot { s.boot with op := some (op, s.slotOfs slot + s.rd bootUpofs, data), sent := s.opCodes op } := by
  unfold State.bootOp; rw [h]
theorem State.opCodes_head {f : Sfdp} (h : s.boot.sfdp = some f) (op : Nat) : (s.opCodes op).head? = some 0x06 := by
  unfold State.opCodes
  rw [h]
  dsimp only
  split
  · rfl
  · obtain ⟨k, hk⟩ : ∃ k, Nat.max 1 (256 / 2 ^ f.page.log) = k + 1 := ⟨_, (Nat.sub_add_cancel (Nat.le_max_left 1 _)).symm⟩
    rw [hk, List.replicate_succ, List.flatten_cons, List.cons_append, List.head?_cons]

section
variable (n op : Nat) (data : List Byte)
theorem State.opRefusal_locked (h : s.bit bootCtrl 31 = true) : s.opRefusal slot n = some 1 := if_pos h
theorem State.opRefusal_booted (h : s.bit bootCtrl 31 = false) (hb : s.bootedSlot = some slot) : s.opRefusal slot n = some 2 := by
  simp [State.opRefusal, h, hb]
theorem State.opRefusal_busy (h : s.bit bootCtrl 31 = false) (hb : s.bootedSlot ≠ some slot) (ho : s.boot.op.isSome = true) :
    s.opRefusal slot n = some 7 := by simp [State.opRefusal, h, hb, ho]
theorem State.opRefusal_idle (h : s.bit bootCtrl 31 = false) (hb : s.bootedSlot ≠ some slot) (ho : s.boot.op = none) :
    s.opRefusal slot n = if s.rd bootUpofs % n ≠ 0 ∨ s.slotSize < s.rd bootUpofs + n then some 3 else none := by
  simp [State.opRefusal, h, hb, ho]
end

/-! ## The end of an ERASE or PROGRAM (R413) -/

theorem State.byte_dropMem (lo hi x : Nat) : (s.dropMem lo hi).byte x = if lo ≤ x ∧ x < hi then memReset x else s.byte x := sget_sdrop ..

theorem getElem_bytes (n a i : Nat) (h : i < (s.bytes a n).length) : (s.bytes a n)[i] = s.byte (a + i) := by
  induction n generalizing a i with
  | zero => exact absurd h (Nat.not_lt_zero _)
  | succ n ih =>
    cases i with
    | zero => rfl
    | succ i =>
      simp only [State.bytes, List.getElem_cons_succ]
      rw [ih, Nat.add_assoc, Nat.add_comm 1]

/-- Programming can only clear bits (log entry 35). -/
theorem byte_programmed {data : List Byte} {u : State} (a i : Nat) (h : i < data.length) :
    (u.setBytes a ((data.zip (s.bytes a data.length)).map fun x => x.1 &&& x.2)).byte (a + i) = data[i] &&& s.byte (a + i) := by
  have len : ((data.zip (s.bytes a data.length)).map fun x => x.1 &&& x.2).length = data.length := by simp
  have at_ : a ≤ a + i ∧ a + i < a + ((data.zip (s.bytes a data.length)).map fun x => x.1 &&& x.2).length := by rw [len]; omega
  rw [State.byte_setBytes, dif_pos at_]
  simp only [Nat.add_sub_cancel_left, List.getElem_map, List.getElem_zip, getElem_bytes]

end Sys2Proof.Machine
end

section
namespace Sys2Proof.Machine

variable {s : State} {slot : Fin 2} {i : Instr}

/-- The operation is refused with code c, which changes nothing but BOOT_CMDST. -/
def Refused (s : State) (i : Instr) (c : Nat) : Prop := ∃ t, exec i s = .next t ∧ t.Ended c ∧ Frame [] (regsOf [bootCmdst]) s t

theorem Refused.of_cmdEnd {c : Nat} (on : s.clk.power ≠ .off) {t : State} (run : exec i s = .next (s.powered t)) (h : t = s.cmdEnd c) (hc : c < 16) :
    Refused s i c :=
  ⟨s.cmdEnd c, by rw [run, State.powered_on on, h], State.cmdEnd_ended hc, State.cmdEnd_frame c⟩

/-! ## ERASE and PROGRAM start (R413) -/

theorem bootOp_started {n : Nat} (h : s.opRefusal slot n = none) (op : Nat) (data : List Byte) :
    (s.bootOp op n slot data).bit bootCmdst 31 = true ∧
      (s.bootOp op n slot data).boot =
        { s.boot with op := some (op, s.slotOfs slot + s.rd bootUpofs, data), sent := (s.bootOp op n slot data).boot.sent } ∧
      (∀ g, s.boot.sfdp = some g → (s.bootOp op n slot data).boot.sent.head? = some 0x06) ∧
      Frame [.boot] (regsOf [bootCmdst]) s (s.bootOp op n slot data) := by
  rw [State.bootOp_starts h]
  refine ⟨(State.setBoot_bit ..).trans (State.bit_setBit_self s _ (by decide)), rfl, fun g hg => State.opCodes_head hg op, ?_⟩
  exact ((Frame.refl ..).setBit bootCmdst_self).upd_boot List.mem_cons_self

/-- What an ERASE or a PROGRAM of n bytes does, by the cases in the order in which they are judged. -/
theorem bootOp_cases {n op : Nat} {data : List Byte} (on : s.clk.power ≠ .off) (run : exec i s = .next (s.powered (s.bootOp op n slot data))) :
    (s.bit bootCtrl 31 = true → Refused s i 1) ∧
    (s.bit bootCtrl 31 = false → s.bootedSlot = some slot → Refused s i 2) ∧
    (s.bit bootCtrl 31 = false → s.bootedSlot ≠ some slot → (s.boot.op.isSome = true → Refused s i 7) ∧ (s.boot.op = none →
      (s.rd bootUpofs % n ≠ 0 ∨ s.slotSize < s.rd bootUpofs + n → Refused s i 3) ∧
      (s.rd bootUpofs % n = 0 → s.rd bootUpofs + n ≤ s.slotSize → ∃ t, exec i s = .next t ∧ t.bit bootCmdst 31 = true ∧
        t.boot = { s.boot with op := some (op, s.slotOfs slot + s.rd bootUpofs, data), sent := t.boot.sent } ∧
        (∀ f, s.boot.sfdp = some f → t.boot.sent.head? = some 0x06) ∧ Frame [.boot] (regsOf [bootCmdst]) s t))) := by
  have refuse {c : Nat} (h : s.opRefusal slot n = some c) (hc : c < 16) : Refused s i c :=
    .of_cmdEnd on run (State.bootOp_refused h op data) hc
  refine ⟨fun l => refuse (State.opRefusal_locked n l) (by decide), fun l b => refuse (State.opRefusal_booted n l b) (by decide),
    fun l b => ⟨fun o => refuse (State.opRefusal_busy n l b o) (by decide), fun o => ?_⟩⟩
  have place := State.opRefusal_idle n l b o
  refine ⟨fun out => refuse (place.trans (if_pos out)) (by decide), fun aligned fits => ?_⟩
  have starts : s.opRefusal slot n = none := place.trans (if_neg (by omega))
  refine ⟨_, run, ?_⟩
  rw [State.powered_on on]
  exact bootOp_started starts op data

/-! ## The end of an ERASE or PROGRAM (R413) -/

theorem exec_bootOperationDone_idle (h : s.boot.op = none) (b : Bool) : exec (.bootOperationDone b) s = .next s := by
  rw [exec_bootOperationDone]
  unfold execBootOperationDone; rw [h]

/-- The bytes that a running operation covers. -/
def State.opBytes (s : State) (op : Nat) : Nat := if op = 2 then s.eraseUnit else 256
/-- No erase or program runs. -/
def State.opOver (s : State) : State := s.setBoot { s.boot with op := none }

section
variable {op a : Nat} {data : List Byte} (h : s.boot.op = some (op, a, data))
include h
theorem exec_bootOperationDone_timedOut : exec (.bootOperationDone true) s =
    .next (((s.opOver.freeBytes (s.opBytes op)).2.setBytes a (s.opOver.freeBytes (s.opBytes op)).1).cmdEnd 4) := by
  rw [exec_bootOperationDone]
  unfold execBootOperationDone; rw [h]; rfl
theorem exec_bootOperationDone_erase (e : op = 2) : exec (.bootOperationDone false) s = .next ((s.opOver.dropMem a (a + s.eraseUnit)).cmdEnd 0) := by
  subst e
  rw [exec_bootOperationDone]
  unfold execBootOperationDone; rw [h]; rfl
theorem exec_bootOperationDone_program (e : op ≠ 2) (len : data.length = 256) : exec (.bootOperationDone false) s =
    .next ((s.opOver.setBytes a ((data.zip (s.opOver.bytes a data.length)).map fun x => x.1 &&& x.2)).cmdEnd 0) := by
  rw [exec_bootOperationDone]
  unfold execBootOperationDone; rw [h, len]
  simp only [e, if_false]
  rfl
end

theorem State.setBytes_sameBoot (a : Nat) (bs : List Byte) : (s.setBytes a bs).boot = s.boot := by rw [State.setBytes_eq]
theorem State.setBytes_frame {ps : List Part} {rs : Nat → Prop} {t : State} (h : Frame ps rs s t) (hp : Part.mem ∈ ps) (a : Nat) (bs : List Byte) :
    Frame ps rs s (t.setBytes a bs) := by
  induction bs generalizing t a with
  | nil => exact h
  | cons b bs ih => exact ih (h.setByte hp) (a + 1)

/-- What the end of an operation keeps of the state in which it has changed the memory. -/
theorem State.cmdEnd_after {ps : List Part} {u : State} (c : Nat) (hc : c < 16) (hb : u.boot = { s.boot with op := none })
    (f : Frame ps (regsOf [bootCmdst]) s u) : (u.cmdEnd c).Ended c ∧ (u.cmdEnd c).boot = { s.boot with op := none } ∧
      (∀ x, (u.cmdEnd c).byte x = u.byte x) ∧ Frame ps (regsOf [bootCmdst]) s (u.cmdEnd c) :=
  ⟨State.cmdEnd_ended hc, (State.cmdEnd_boot c).trans hb, State.cmdEnd_byte c, f.cmdEnd bootCmdst_self c⟩

section
variable {op a : Nat} {data : List Byte} (h : s.boot.op = some (op, a, data))
include h
theorem exec_bootOperationDone_erased (e : op = 2) : ∃ t, exec (.bootOperationDone false) s = .next t ∧ t.Ended 0 ∧
    t.boot = { s.boot with op := none } ∧ (∀ x, a ≤ x → x < a + s.eraseUnit → t.byte x = memReset x) ∧
    (∀ x, ¬ (a ≤ x ∧ x < a + s.eraseUnit) → t.byte x = s.byte x) ∧ Frame [.mem, .boot] (regsOf [bootCmdst]) s t := by
  have frame : Frame [.mem, .boot] (regsOf [bootCmdst]) s (s.opOver.dropMem a (a + s.eraseUnit)) :=
    Frame.doesNone Does.dropMem ((Frame.refl ..).upd_boot (by decide)) (by decide) (by decide)
  obtain ⟨ended, boot, byte, frame⟩ := State.cmdEnd_after 0 (by decide) rfl frame
  refine ⟨_, exec_bootOperationDone_erase h e, ended, boot, fun x lo hi => ?_, fun x out => ?_, frame⟩
  · rw [byte, State.byte_dropMem, if_pos ⟨lo, hi⟩]
  · rw [byte, State.byte_dropMem, if_neg out]
    rfl
theorem exec_bootOperationDone_programmed (e : op ≠ 2) (len : data.length = 256) : ∃ t, exec (.bootOperationDone false) s = .next t ∧ t.Ended 0 ∧
    t.boot = { s.boot with op := none } ∧ (∀ i (k : i < data.length), t.byte (a + i) = data[i] &&& s.byte (a + i)) ∧
    (∀ x, ¬ (a ≤ x ∧ x < a + 256) → t.byte x = s.byte x) ∧ Frame [.mem, .boot] (regsOf [bootCmdst]) s t := by
  have frame := State.setBytes_frame (Frame.upd_boot (x := { s.boot with op := none }) (Frame.refl [.mem, .boot] (regsOf [bootCmdst]) s) (by decide))
    (by decide) a ((data.zip (s.opOver.bytes a data.length)).map fun x => x.1 &&& x.2)
  obtain ⟨ended, boot, byte, frame⟩ := State.cmdEnd_after 0 (by decide) (State.setBytes_sameBoot ..) frame
  refine ⟨_, exec_bootOperationDone_program h e len, ended, boot, fun i k => (byte _).trans (byte_programmed a i k), fun x out => ?_, frame⟩
  refine (byte x).trans (State.byte_setBytes_ne _ ?_)
  rw [List.length_map, List.length_zip, State.length_bytes, Nat.min_self, len]
  omega
theorem exec_bootOperationDone_open : ∃ t, exec (.bootOperationDone true) s = .next t ∧ t.Ended 4 ∧
    t.boot = { s.boot with op := none } ∧ (∀ x, ¬ (a ≤ x ∧ x < a + s.opBytes op) → t.byte x = s.byte x) ∧
    Frame [.mem, .boot, .freeCtr] (regsOf [bootCmdst]) s t := by
  have free : Frame [.mem, .boot, .freeCtr] (regsOf [bootCmdst]) s (s.opOver.freeBytes (s.opBytes op)).2 :=
    ((Frame.refl ..).upd_boot (x := { s.boot with op := none }) (by decide)).upd_freeCtr (by decide)
  have frame := State.setBytes_frame free (by decide) a (s.opOver.freeBytes (s.opBytes op)).1
  obtain ⟨ended, boot, byte, frame⟩ := State.cmdEnd_after 4 (by decide) (State.setBytes_sameBoot ..) frame
  refine ⟨_, exec_bootOperationDone_timedOut h, ended, boot, fun x out => ?_, frame⟩
  have len : (s.opOver.freeBytes (s.opBytes op)).1.length = s.opBytes op := by rw [State.freeBytes, List.length_map, List.length_range]
  refine (byte x).trans (State.byte_setBytes_ne _ ?_)
  rw [len]
  omega
end

end Sys2Proof.Machine
end

section
namespace Sys2Proof.Machine

variable {s t : State} {slot : Fin 2}

theorem ofLE_lt (bs : List Byte) : ofLE bs < 256 ^ bs.length := by
  induction bs with
  | nil => decide
  | cons b bs ih =>
    have := b.isLt
    rw [ofLE, List.length_cons, pow_succ]
    omega
theorem State.word_lt (a : Nat) : s.word a < 2 ^ 32 := by
  have h := ofLE_lt (s.bytes a 4)
  rw [State.length_bytes] at h
  exact h
theorem State.bytes_congr {n a : Nat} (h : ∀ x, a ≤ x → x < a + n → t.byte x = s.byte x) : t.bytes a n = s.bytes a n := by
  induction n generalizing a with
  | zero => rfl
  | succ n ih =>
    rw [State.bytes, State.bytes, h a (Nat.le_refl a) (by omega), ih fun x lo hi => h x (by omega) (by omega)]

/-! ## READ (R413) -/

/-- One word of a slot is copied into BOOT_BUF. -/
def State.readWord (a : Nat) (s : State) (w : Nat) : State := s.wr (bootBufw w) (s.word (a + 4 * w))

theorem bootBufw_inj {v w : Nat} (hv : v < 64) (hw : w < 64) (h : bootBufw v = bootBufw w) : v = w := by
  unfold bootBufw at h; omega
theorem bootCmdst_ne_bootBufw (w : Nat) : bootBufw w ≠ bootCmdst := by
  have : bootCmdst = bootBase + 0x0C := rfl
  unfold bootBufw; omega

theorem State.each_range_succ (f : State → Nat → State) (n : Nat) : s.each (List.range (n + 1)) f = f (s.each (List.range n) f) n := by
  rw [State.each, List.range_succ, List.foldl_append, List.foldl_cons, List.foldl_nil]; rfl

theorem State.bootBuf_filled (s : State) (a n : Nat) (hn : n ≤ 64) : let u := s.each (List.range n) (State.readWord a)
    u.mem = s.mem ∧ (∀ w < n, u.rd (bootBufw w) = s.word (a + 4 * w)) ∧ Frame [] (fun x => x = bootCmdst ∨ ∃ w < 64, x = bootBufw w) s u := by
  induction n with
  | zero => exact ⟨rfl, fun w h => absurd h (Nat.not_lt_zero w), Frame.refl ..⟩
  | succ n ih =>
    obtain ⟨mem, words, frame⟩ := ih (by omega)
    rw [State.each_range_succ]
    have same : (s.each (List.range n) (State.readWord a)).word (a + 4 * n) = s.word (a + 4 * n) :=
      congrArg ofLE (State.bytes_of_mem mem 4 _)
    refine ⟨mem, fun w hw => ?_, frame.wr (.inr ⟨n, by omega, rfl⟩)⟩
    rw [State.readWord, same, State.rd_wr]
    by_cases e : w = n
    · subst e
      rw [if_pos rfl, Nat.mod_eq_of_lt (State.word_lt _)]
    · rw [if_neg fun k => e (bootBufw_inj (by omega) (by omega) k)]
      exact words w (by omega)

theorem State.bootRead_busy (h : s.boot.op.isSome = true) : s.bootRead slot = s.cmdEnd 7 := if_pos h
theorem State.bootRead_out (h : s.boot.op = none) (out : s.slotSize < s.rd bootUpofs + 256) : s.bootRead slot = s.cmdEnd 3 := by
  simp only [State.bootRead, h, Option.isSome_none, Bool.false_eq_true, if_false, out, if_true]
theorem State.bootRead_fits (h : s.boot.op = none) (fits : s.rd bootUpofs + 256 ≤ s.slotSize) :
    s.bootRead slot = (s.each (List.range 64) (State.readWord (s.slotOfs slot + s.rd bootUpofs))).cmdEnd 0 := by
  simp only [State.bootRead, h, Option.isSome_none, Bool.false_eq_true, if_false, if_neg (Nat.not_lt.2 fits)]
  rfl

theorem exec_bootRead_fits (on : s.clk.power ≠ .off) (h : s.boot.op = none) (fits : s.rd bootUpofs + 256 ≤ s.slotSize) :
    ∃ t, exec (.bootRead slot) s = .next t ∧ t.Ended 0 ∧
      (∀ w < 64, t.rd (bootBufw w) = s.word (s.slotOfs slot + s.rd bootUpofs + 4 * w)) ∧
      Frame [] (fun a => a = bootCmdst ∨ ∃ w < 64, a = bootBufw w) s t := by
  obtain ⟨-, words, frame⟩ := State.bootBuf_filled s (s.slotOfs slot + s.rd bootUpofs) 64 (by decide)
  refine ⟨_, congrArg Host.Outcome.next ((State.powered_on on _).trans (State.bootRead_fits h fits)), State.cmdEnd_ended (by decide), fun w hw => ?_,
    frame.cmdEnd (.inl rfl) 0⟩
  rw [State.cmdEnd_rd (bootCmdst_ne_bootBufw w), words w hw]

/-! ## CLRDEG (R403) -/

theorem State.saveProg_before (h : s.boot.recalled = false) : s.saveProg = s := by simp [State.saveProg, h]
theorem exec_clrdeg_ends (on : s.clk.power ≠ .off) : ∃ t, exec .clrdeg s = .next t ∧ t.Ended 0 ∧ t.rd bootDeg = 0 ∧
    (s.boot.recalled = false → ∀ a, t.byte a = s.byte a) ∧ Frame [.mem] (regsOf [bootDeg, bootCmdst]) s t := by
  refine ⟨_, congrArg Host.Outcome.next (State.powered_on on s.clrdeg), State.cmdEnd_ended (by decide), ?_, fun h a => ?_, ?_⟩
  · rw [State.clrdeg, State.cmdEnd_rd (by decide), (State.saveProg_does _).reg _ (by decide), State.rd_wr_self]
    rfl
  · rw [State.clrdeg, State.cmdEnd_byte, State.saveProg_before (s := s.wr bootDeg 0) h]
    rfl
  · have f : Frame [.mem] (regsOf [bootDeg, bootCmdst]) s (s.wr bootDeg 0) := (Frame.refl ..).wr List.mem_cons_self
    exact (Frame.doesNone (State.saveProg_does _) f (by decide) (by decide)).cmdEnd (List.mem_cons_of_mem _ List.mem_cons_self) 0

end Sys2Proof.Machine
end

section
namespace Sys2Proof.Machine

variable {s : State} {m : Nat}

/-! ## The swap of the boot block (R431) -/

theorem Frame.store {ps : List Part} {rs : Nat → Prop} {t : State} (h : Frame ps rs s t) (hm : Part.mem ∈ ps) (hf : Part.flaws ∈ ps)
    (a : Nat) (bs : List Byte) : Frame ps rs s (t.store a bs) := (State.setBytes_frame h hm a bs).upd_flaws hf

/-- The boot block with MINVER m. -/
def State.raised (s : State) (m : Nat) : List Byte := (s.bytes (bbBase s.boot.bbCopy) 0x70).take 4 ++ toLE 2 m ++ (s.bytes (bbBase s.boot.bbCopy) 0x70).drop 6
theorem State.length_raised : (s.raised m).length = 0x70 := by simp [State.raised]
/-- The copy that a swap writes. -/
def State.bbOther (s : State) : Fin 2 := if s.boot.bbCopy = 0 then 1 else 0
/-- The memory of a swap: the other copy is erased, then written, then its generations are. -/
def State.bbWritten (s : State) (m : Nat) : State :=
  ((s.eraseSector (32 * s.bbOther)).store (bbBase s.bbOther) (withCrc (s.raised m))).store (bbBase s.bbOther + 0xF000)
    (List.replicate (16 * (s.boot.bbGen + 1)) 0)

theorem State.bbWritten_body : (s.bbWritten m).bytes (bbBase s.bbOther) 0x70 = s.raised m := by
  have body := State.bytes_store_self (s.eraseSector (32 * s.bbOther)) (withCrc (s.raised m)) (bbBase s.bbOther)
  have len : (withCrc (s.raised m)).length = 0x70 + 4 := by simp [withCrc, State.length_raised]
  rw [len, State.bytes_append, withCrc] at body
  obtain ⟨first, -⟩ := List.append_inj body (by rw [State.length_bytes, State.length_raised])
  rw [← first]
  exact State.bytes_congr fun x _ hi => State.byte_store_ne _ (.inl (by omega))
/-- The footprint of memory with its check bits holds no register. -/
theorem memoryBits : ∀ i ≤ 42, 22 ≤ i → Nat.testBit 0x80000000001 i = false := by decide
theorem memoryBits_one : ∀ i ≤ 42, 22 ≤ i → Nat.testBit 0x1 i = false := by decide
theorem State.bbWritten_frame : Frame [.mem, .boot, .flaws] (regsOf [bootVer, bootCmdst]) s (s.bbWritten m) := by
  have erased : Frame [.mem, .boot, .flaws] (regsOf [bootVer, bootCmdst]) s (s.eraseSector (32 * s.bbOther)) :=
    (Frame.refl ..).does (s.eraseSector_does _) (by decide) fun a _ => memoryBits _ (pageBit_range a).2 (pageBit_range a).1
  exact (erased.store (by decide) (by decide) _ _).store (by decide) (by decide) _ _

theorem State.bbSwap_none (h : 256 ≤ s.boot.bbGen) : s.bbSwap m = none := if_pos h
theorem State.bbSwap_some (h : s.boot.bbGen < 256) : s.bbSwap m =
    some (((s.bbWritten m).setFld bootVer 31 16 m).setBoot { (s.bbWritten m).boot with bbCopy := s.bbOther, bbGen := (s.bbWritten m).boot.bbGen + 1 }) :=
  if_neg (Nat.not_le.2 h)

/-- What a swap with MINVER m leaves. -/
theorem State.bbSwap_raises (h : s.boot.bbGen < 256) (hm : m < 65536) : ∃ t, s.bbSwap m = some t ∧ t.fld bootVer 31 16 = m ∧
    t.boot = { s.boot with bbCopy := s.bbOther, bbGen := s.boot.bbGen + 1 } ∧ t.bytes (bbBase s.bbOther) 0x70 = s.raised m ∧
    Frame [.mem, .boot, .flaws] (regsOf [bootVer, bootCmdst]) s t := by
  have memory : Does 0x80000000001 s (s.bbWritten m) :=
    ((s.eraseSector_does (32 * s.bbOther)).trans Does.store (by decide)).trans Does.store (by decide)
  have same : (s.bbWritten m).boot = s.boot := memory.part .boot (by decide)
  refine ⟨_, State.bbSwap_some h, ?_, ?_, (State.bytes_of_mem ?_ _ _).trans State.bbWritten_body,
    (State.bbWritten_frame.setFld List.mem_cons_self).upd_boot (by decide)⟩
  · rw [State.setBoot_fld, State.fld_setFld_self _ (by decide) (by decide)]
    exact Nat.mod_eq_of_lt hm
  · rw [State.setBoot_boot, same]
  · rw [State.setBoot_mem, State.setFld_mem]

/-! ## RAISE (R403) -/

/-- The block in BOOT_BUF has the form and the signature that R403 asks for. -/
def State.raiseFormed (s : State) : Prop :=
  leAt s.bootBuf 0 4 = 0x4D560001 ∧ leAt s.bootBuf 8 8 = 0 ∧ s.sigOk (s.bootBuf.take 16) (s.bootBuf.drop 16) = true
/-- The MINVER that it asks for lies above the present one and not above the image's. -/
def State.raiseInRange (s : State) : Prop := s.fld bootVer 31 16 < leAt s.bootBuf 4 2 ∧ leAt s.bootBuf 4 2 ≤ s.fld bootVer 15 0

theorem State.raiseMin_locked (h : s.bit bootCtrl 31 = true) : s.raiseMin = s.cmdEnd 1 := if_pos h
section
variable (unlocked : s.bit bootCtrl 31 = false) (idle : s.boot.op = none)
include unlocked
theorem State.raiseMin_busy (h : s.boot.op.isSome = true) : s.raiseMin = s.cmdEnd 7 := by
  simp only [State.raiseMin, unlocked, h, Bool.false_eq_true, if_false, if_true]
include idle
theorem State.raiseMin_ill (h : ¬ s.raiseFormed) : s.raiseMin = s.cmdEnd 5 := by
  have ill : leAt s.bootBuf 0 4 ≠ 0x4D560001 ∨ leAt s.bootBuf 8 8 ≠ 0 ∨ (!s.sigOk (s.bootBuf.take 16) (s.bootBuf.drop 16)) = true := by
    simpa only [State.raiseFormed, not_and_or, Bool.not_eq_true, Bool.not_eq_true'] using h
  simp only [State.raiseMin, unlocked, idle, Option.isSome_none, Bool.false_eq_true, if_false, if_pos ill]
theorem State.raiseMin_formed (h : s.raiseFormed) : s.raiseMin = if leAt s.bootBuf 4 2 ≤ s.fld bootVer 31 16 ∨ s.fld bootVer 15 0 < leAt s.bootBuf 4 2
    then s.cmdEnd 6 else ((s.bbSwap (leAt s.bootBuf 4 2)).map fun t => t.cmdEnd 0).getD (s.cmdEnd 6) := by
  obtain ⟨magic, zero, sig⟩ := h
  simp only [State.raiseMin, unlocked, idle, Option.isSome_none, magic, zero, sig, ne_eq, not_true_eq_false, Bool.not_true, Bool.false_eq_true,
    or_self, if_false]
  cases s.bbSwap (leAt s.bootBuf 4 2) <;> rfl
end

theorem State.leAt_two_lt (bs : List Byte) (i : Nat) : leAt bs i 2 < 65536 := by
  refine lt_of_lt_of_le (ofLE_lt _) (Nat.pow_le_pow_right (by decide) (List.length_take_le 2 _) : _ ≤ 256 ^ 2)

/-- An end that changes nothing but BOOT_CMDST. -/
theorem State.cmdEnd_idle {c : Nat} (hc : c < 16) (idle : s.boot.op = none) :
    (s.cmdEnd c).bit bootCmdst 31 = false ∧ Frame [.mem, .boot, .flaws] (regsOf [bootVer, bootCmdst]) s (s.cmdEnd c) ∧
      (s.cmdEnd c).Ended c ∧ (s.cmdEnd c).boot = s.boot ∧ ∀ a, (s.cmdEnd c).byte a = s.byte a := by
  have ended : (s.cmdEnd c).Ended c := State.cmdEnd_ended hc
  refine ⟨ended.1.trans ?_, (Frame.refl ..).cmdEnd (List.mem_cons_of_mem _ List.mem_cons_self) c, ended, State.cmdEnd_boot c, State.cmdEnd_byte c⟩
  rw [State.cmdEnd_boot, idle, Option.isSome_none]

/-- What a RAISE that is neither locked out nor refused for a running operation does. -/
theorem exec_raise_cases (on : s.clk.power ≠ .off) (unlocked : s.bit bootCtrl 31 = false) (idle : s.boot.op = none) :
    ∃ t, exec .raise s = .next t ∧ t.bit bootCmdst 31 = false ∧ Frame [.mem, .boot, .flaws] (regsOf [bootVer, bootCmdst]) s t ∧
      (¬ s.raiseFormed → t.Ended 5 ∧ t.boot = s.boot ∧ ∀ a, t.byte a = s.byte a) ∧
      (s.raiseFormed → ¬ (s.raiseInRange ∧ s.boot.bbGen < 256) → t.Ended 6 ∧ t.boot = s.boot ∧ ∀ a, t.byte a = s.byte a) ∧
      (s.raiseFormed → s.raiseInRange → s.boot.bbGen < 256 → t.Ended 0 ∧ t.fld bootVer 31 16 = leAt s.bootBuf 4 2 ∧
        t.boot = { s.boot with bbCopy := s.bbOther, bbGen := s.boot.bbGen + 1 } ∧
        t.bytes (bbBase s.bbOther) 0x70 = s.raised (leAt s.bootBuf 4 2)) := by
  have run : exec .raise s = .next s.raiseMin := by rw [exec_raise, execRaise, State.powered_on on]
  by_cases formed : s.raiseFormed
  · by_cases ok : s.raiseInRange ∧ s.boot.bbGen < 256
    · obtain ⟨range, gen⟩ := ok
      obtain ⟨t, swap, ver, boot, body, frame⟩ := State.bbSwap_raises gen (State.leAt_two_lt s.bootBuf 4)
      have out : s.raiseMin = t.cmdEnd 0 := by
        rw [State.raiseMin_formed unlocked idle formed, if_neg (by have := range.1; have := range.2; omega), swap]
        rfl
      have ended : (t.cmdEnd 0).Ended 0 := State.cmdEnd_ended (by decide)
      refine ⟨_, run, ?_⟩
      rw [out]
      refine ⟨ended.1.trans ?_, frame.cmdEnd (List.mem_cons_of_mem _ List.mem_cons_self) 0, absurd formed, fun _ h => absurd ⟨range, gen⟩ h,
        fun _ _ _ => ⟨ended, ?_, (State.cmdEnd_boot 0).trans boot, (State.bytes_congr fun x _ _ => State.cmdEnd_byte 0 x).trans body⟩⟩
      · rw [State.cmdEnd_boot, boot]
        exact congrArg Option.isSome idle
      · rw [State.fld, State.cmdEnd_rd (by decide)]
        exact ver
    · have out : s.raiseMin = s.cmdEnd 6 := by
        rw [State.raiseMin_formed unlocked idle formed]
        split
        · rfl
        · next h =>
          have range : s.raiseInRange := by unfold State.raiseInRange; omega
          rw [State.bbSwap_none (Nat.not_lt.1 fun gen => ok ⟨range, gen⟩)]
          rfl
      obtain ⟨busy, frame, kept⟩ := State.cmdEnd_idle (s := s) (c := 6) (by decide) idle
      refine ⟨_, run, ?_⟩
      rw [out]
      exact ⟨busy, frame, absurd formed, fun _ _ => kept, fun _ range gen => absurd ⟨range, gen⟩ ok⟩
  · obtain ⟨busy, frame, kept⟩ := State.cmdEnd_idle (s := s) (c := 5) (by decide) idle
    refine ⟨_, run, ?_⟩
    rw [State.raiseMin_ill unlocked idle formed]
    exact ⟨busy, frame, fun _ => kept, fun h => absurd h formed, fun h => absurd h formed⟩

end Sys2Proof.Machine
end

section
namespace Sys2Proof.Machine

variable {s u : State} {a : Nat}

/-! ## What the restarts of the blocks leave (R62, R455) -/

theorem State.each_setCl {c : Cl} (l : List Cl) (h : c ∈ l ∨ s.cl c = {}) : (s.each l fun (s : State) c => s.setCl c {}).cl c = {} := by
  induction l generalizing s with
  | nil => exact h.resolve_left List.not_mem_nil
  | cons d l ih =>
    have fresh : c = d ∨ s.cl c = {} → (s.setCl d {}).cl c = {} := by
      intro k
      by_cases e : c = d
      · subst e; exact Vector.getElem_set_self _
      · exact (Vector.getElem_set_ne (x := {}) d.isLt c.isLt fun v => e (Fin.ext v.symm)).trans (k.resolve_left e)
    refine ih (s := s.setCl d {}) ?_
    rcases h with h | h
    · exact (List.mem_cons.1 h).symm.imp_right fun e => fresh (.inl e)
    · exact .inr (fresh (.inr h))
theorem State.srchRestart_cl (c : Cl) : (s.srchRestart).cl c = {} := State.each_setCl _ (.inl (List.mem_finRange c))

/-- The page of MEM is reset; without retention its memory is too. -/
def State.memPageReset (s : State) : State := (s.resetRegs memBase (memBase + 0x10000)).setBit memStatus 30 s.gmem.retained
def State.memEmptied (s : State) : State := if s.gmem.retained then s.memPageReset else s.memPageReset.clearMem 0 gddrEnd
theorem State.memRestart_eq : s.memRestart = s.memEmptied.setMem
    { retained := s.gmem.retained, selfRefresh := s.gmem.retained, poisonDue := if s.gmem.retained then s.memEmptied.gmem.poisonDue else [] } := rfl
theorem State.memRestart_retained : s.memRestart.gmem.retained = s.gmem.retained := by rw [State.memRestart_eq, State.setMem_gmem]
theorem State.memEmptied_rd : s.memEmptied.rd a = s.memPageReset.rd a := by
  unfold State.memEmptied
  split
  · rfl
  · rw [State.clearMem_rd]
theorem State.memRestart_rd (h : ¬ (memBase ≤ a ∧ a < memBase + 0x10000)) : s.memRestart.rd a = s.rd a := by
  have status : a ≠ memStatus := by rintro rfl; exact h (by decide)
  rw [State.memRestart_eq, State.setMem_rd, State.memEmptied_rd, State.memPageReset, State.rd_setBit_ne _ status, State.rd_resetRegs, if_neg h]
theorem State.byte_clearMem (lo hi x : Nat) : (s.clearMem lo hi).byte x = if lo ≤ x ∧ x < hi then memReset x else s.byte x := State.byte_dropMem ..
theorem State.memRestart_byte (h : gddrEnd ≤ a) : s.memRestart.byte a = s.byte a := by
  have page : s.memPageReset.byte a = s.byte a := by rw [State.memPageReset, State.setBit_byte, State.resetRegs_byte]
  rw [State.memRestart_eq, State.setMem_byte, State.memEmptied]
  split
  · exact page
  · rw [State.byte_clearMem, if_neg (by omega), page]

theorem State.peerLane_pairstat (b : Bool) : (s.setBit chnPairstat 5 b).peerLane = s.peerLane := by
  have pair : (s.setBit chnPairstat 5 b).pairPort = s.pairPort := congrArg portOf (State.bit_wr_ne s (by decide) _ _)
  have lock (p : ChPort) (i : Nat) : (s.setBit chnPairstat 5 b).portLock p i = s.portLock p i := by
    unfold State.portLock
    split
    · rfl
    · exact State.bit_wr_ne s (by decide) _ _
  unfold State.peerLane
  simp only [pair, lock]
/-- Where no lane to the peer has been lost, the check of the peer only notes whether there is one. -/
theorem State.peerCheck_kept (h : s.bit chnPairstat 5 = true → s.peerLane = true) : s.peerCheck = s.setBit chnPairstat 5 s.peerLane := by
  unfold State.peerCheck
  dsimp only
  rw [State.peerLane_pairstat]
  refine if_neg ?_
  rw [Bool.and_eq_true, Bool.not_eq_true']
  exact fun k => Bool.noConfusion ((h k.1).symm.trans k.2)

/-- The chain block with its page reset, before its ports act again. -/
def State.chnCleared (s : State) : State :=
  (((s.resetRegs chnBase (chnBase + 0x10000)).wr chnAddr (s.rd chnAddr)).wr chnPilot (s.rd chnPilot)).setChain
    { ({} : Chain) with
      up := { pilot := s.chain.up.pilot }, dn := { pilot := s.chain.dn.pilot }, trimMaster := s.chain.trimMaster, sent := s.chain.sent,
      casts := s.chain.casts, inbox := s.chain.inbox.filter fun x => x.2.1, marksOut := s.chain.marksOut, dreqOut := s.chain.dreqOut,
      dechoOut := s.chain.dechoOut, trimUp := s.chain.trimUp, trimDn := s.chain.trimDn }
theorem State.chnRestart_eq : s.chnRestart =
    (if s.clk.cdUp then (s.chnCleared.portEnable .up true).portEnable .dn true else s.chnCleared).peerCheck := rfl
theorem State.chnCleared_rd (h : ¬ (chnBase ≤ a ∧ a < chnBase + 0x10000)) : s.chnCleared.rd a = s.rd a := by
  have addr : a ≠ chnAddr := by rintro rfl; exact h (by decide)
  have pilot : a ≠ chnPilot := by rintro rfl; exact h (by decide)
  rw [State.chnCleared, State.setChain_rd, State.rd_wr_ne _ pilot, State.rd_wr_ne _ addr, State.rd_resetRegs, if_neg h]
theorem State.chnCleared_pairstat : s.chnCleared.bit chnPairstat 5 = false := by
  rw [State.bit, State.chnCleared, State.setChain_rd, State.rd_wr_ne _ (by decide), State.rd_wr_ne _ (by decide), State.rd_resetRegs, if_pos (by decide)]
  decide
/-- With the compute die down the restart of CHN resets its page. -/
theorem State.chnRestart_down (h : s.clk.cdUp = false) : s.chnRestart = s.chnCleared.setBit chnPairstat 5 s.chnCleared.peerLane := by
  rw [State.chnRestart_eq, h]
  exact State.peerCheck_kept fun k => Bool.noConfusion (State.chnCleared_pairstat.symm.trans k)
/-- The pages of CELL and CHN apart, the restart of CHN leaves the registers. -/
theorem State.chnRestart_rd (h : ¬ (chnBase ≤ a ∧ a < chnBase + 0x10000)) (hp : (0x24241080).testBit (pageBit a) = false) :
    s.chnRestart.rd a = s.rd a := by
  rw [State.chnRestart_eq]
  have ports : Does 0x24241080 s.chnCleared (if s.clk.cdUp then (s.chnCleared.portEnable .up true).portEnable .dn true else s.chnCleared) :=
    Does.ite ((State.portEnable_does _ _ _).trans (State.portEnable_does _ _ _) (by decide)) (Does.refl _ _)
  exact ((ports.trans (State.peerCheck_does _) (by decide)).reg a hp).trans (State.chnCleared_rd h)

theorem State.endCause_active {c i : Nat} (h : i ≠ c) (hi : i < 32) : (s.endCause c).saf.active.testBit i = s.saf.active.testBit i := by
  have set : allBits.testBit i = true := by rw [show allBits = 2 ^ 32 - 1 from rfl, Nat.testBit_two_pow_sub_one]; exact decide_eq_true hi
  simp only [State.endCause, Nat.testBit_and, Nat.testBit_xor, set, Nat.testBit_two_pow_of_ne (Ne.symm h), Bool.xor_false, Bool.and_true]
theorem State.untime_active (mask : Nat) {i : Nat} (h : i ≠ 11) (hi : i < 32) : (s.untime mask).saf.active.testBit i = s.saf.active.testBit i := by
  unfold State.untime
  extract_lets keep t
  split
  · exact State.endCause_active h hi
  · rfl

end Sys2Proof.Machine
end

section
namespace Sys2Proof.Machine

variable {s u : State} {a : Nat}

/-! ## The reset of the compute die in its steps (R62, R465) -/

/-- The pages and memories of the die are reset, and what was outstanding to it is lost. -/
def State.dieCleared (s : State) : State :=
  ((((((s.setMem { s.gmem with retained := s.gmem.selfRefresh && s.gmem.retained }).resetRegs sysBase memBase).resetRegs hlmBase
    (serBase + 0x10000)).clearMem 0x1000000000 0x1004000000).clearMem 0x2000000000 0x2002000000).clearMem 0x3000000000 0x3000100000).loseAccesses
    fun a => decide (a < 0x5000000000)
/-- The registers that the Binnacle holds are put back. -/
def State.dieKept (s : State) : State :=
  ((((s.dieCleared.wr pwrIdletmo (s.rd pwrIdletmo)).wr pwrStbytmo (s.rd pwrStbytmo)).wr pwrWakecfg (s.rd pwrWakecfg)).wr pwrWakesrc
    (s.rd pwrWakesrc)).wr clkStatus (s.rd clkStatus &&& 0xC0000006)
/-- The clock state of a die that has been reset. -/
def Clk.dieReset (k : Clk) : Clk :=
  { k with
    target := none, voltOk := true, lockOk := false, lowering := false, streaks := (0, 0), idlePend := false, runPend := false, idlePeriods := 0 }
/-- The parts of the die are at reset. -/
def State.diePartsReset (s : State) : State :=
  let s := s.setClk s.clk.dieReset
  { s with
    per := perReset s.bootPace, cell := {}, lanes := Vector.replicate 64 {}, pins := s.pins.fresh,
    io := { safeSel := s.io.safeSel, safeTx := s.io.safeTx }, cores := Vector.ofFn fun n : CoreN => if n.val < 8 then {} else s.cores[n] }
def State.diePaced (s : State) : State := (s.wr pwrPace (s.fld bootCfg 3 2)).showPace
/-- MEM and the array restart. -/
def State.dieArray (s : State) : State := { s.memRestart.srchRestart with probs := Vector.replicate 4 {} }
/-- The other blocks restart. -/
def State.dieRest (s : State) (keepRing : Bool) : State := (((s.untime 0xFFFF).chartRestart).capRestart keepRing).chnRestart

theorem State.cdReset_eq : s.cdReset =
    s.dieKept.diePartsReset.diePaced.dieArray.dieRest s.dieKept.diePartsReset.diePaced.memRestart.gmem.retained := rfl

/-! ### Its registers -/

theorem State.dieCleared_rd (a : Nat) : s.dieCleared.rd a = if hlmBase ≤ a ∧ a < serBase + 0x10000 then (regReset a).toNat
    else if sysBase ≤ a ∧ a < memBase then (regReset a).toNat else s.rd a := by
  have lost (v : State) (hit : Nat → Bool) : (v.loseAccesses hit).rd a = v.rd a := rfl
  rw [State.dieCleared, lost, State.clearMem_rd, State.clearMem_rd, State.clearMem_rd, State.rd_resetRegs, State.rd_resetRegs, State.setMem_rd]
/-- The registers that the reset of the die puts back or writes. -/
def dieWritten : List Nat := [pwrIdletmo, pwrStbytmo, pwrWakecfg, pwrWakesrc, clkStatus, pwrPace, perStatus, pwrStatus]
theorem State.dieKept_rd (h : a ∉ dieWritten) : s.dieKept.rd a = s.dieCleared.rd a := by
  simp only [dieWritten, List.mem_cons, List.not_mem_nil, or_false, not_or] at h
  obtain ⟨idle, stby, cfg, src, status, -⟩ := h
  rw [State.dieKept, State.rd_wr_ne _ status, State.rd_wr_ne _ src, State.rd_wr_ne _ cfg, State.rd_wr_ne _ stby, State.rd_wr_ne _ idle]
theorem State.diePaced_rd (h : a ∉ [pwrPace, perStatus, pwrStatus]) : s.diePaced.rd a = s.rd a := by
  simp only [List.mem_cons, List.not_mem_nil, or_false, not_or] at h
  obtain ⟨pace, per, pwr⟩ := h
  rw [State.diePaced, State.showPace, State.rd_setFld_ne _ pwr, State.rd_setFld_ne _ per, State.rd_wr_ne _ pace]
theorem State.diePartsReset_rd : s.diePartsReset.rd a = s.rd a := rfl
theorem State.srchRestart_rd : s.srchRestart.rd a = s.rd a := by
  have noReg : (0x1c : Nat) < 2 ^ pageBit a := lt_of_lt_of_le (by decide) (Nat.pow_le_pow_right (by decide) (pageBit_range a).1 : 2 ^ 22 ≤ _)
  exact (State.srchRestart_does _).reg a (Nat.testBit_lt_two_pow noReg)
theorem State.dieArray_rd (h : ¬ (memBase ≤ a ∧ a < memBase + 0x10000)) : s.dieArray.rd a = s.rd a := by
  have probs (v : State) (x : Vector Problem 4) : ({ v with probs := x } : State).rd a = v.rd a := rfl
  rw [State.dieArray, probs, State.srchRestart_rd, State.memRestart_rd h]
/-- The footprint of CHART's and CAP's restart, and of the passes of the island. -/
theorem State.capChart_does (keepRing : Bool) : Does 0xa000a20 s (((s.untime 0xFFFF).chartRestart).capRestart keepRing) :=
  (((State.untime_does s _).mono (by decide)).trans (State.chartRestart_does _) (by decide)).trans (State.capRestart_does _ _) (by decide)
theorem State.dieRest_rd (keepRing : Bool) (h : ¬ (chnBase ≤ a ∧ a < chnBase + 0x10000)) (hp : (0x2e241aa0).testBit (pageBit a) = false) :
    (s.dieRest keepRing).rd a = s.rd a := by
  have part {m : Nat} (e : 0x2e241aa0 &&& m = m) : m.testBit (pageBit a) = false := by
    rw [← e, Nat.testBit_and, hp, Bool.false_and]
  exact (State.chnRestart_rd h (part (by decide))).trans ((State.capChart_does keepRing).reg a (part (by decide)))

/-- A register that the reset of the die leaves to its first step: not of MEM or CHN, and not written by a later step. -/
def dieSettled (a : Nat) : Prop :=
  a ∉ [pwrPace, perStatus, pwrStatus] ∧ ¬ (memBase ≤ a ∧ a < memBase + 0x10000) ∧ ¬ (chnBase ≤ a ∧ a < chnBase + 0x10000) ∧
    (0x2e241aa0).testBit (pageBit a) = false
theorem State.cdReset_rd (h : dieSettled a) : s.cdReset.rd a = s.dieKept.rd a := by
  obtain ⟨late, mem, chn, pages⟩ := h
  rw [State.cdReset_eq, State.dieRest_rd _ chn pages, State.dieArray_rd mem, State.diePaced_rd late, State.diePartsReset_rd]
/-- The Binnacle's registers stay. -/
theorem State.cdReset_rd_binnacle (h : a ∈ [bootCmdst, bootStatus, bootCfg, mptPcount]) : s.cdReset.rd a = s.rd a := by
  have far : dieSettled a ∧ a ∉ dieWritten ∧ ¬ (hlmBase ≤ a ∧ a < serBase + 0x10000) ∧ ¬ (sysBase ≤ a ∧ a < memBase) := by
    unfold dieSettled
    fin_cases h <;> decide
  obtain ⟨settled, kept, hlm, sys⟩ := far
  rw [State.cdReset_rd settled, State.dieKept_rd kept, State.dieCleared_rd, if_neg hlm, if_neg sys]
theorem State.cdReset_clkStatus : s.cdReset.rd clkStatus = s.rd clkStatus &&& 0xC0000006 := by
  have settled : dieSettled clkStatus := by unfold dieSettled; decide
  rw [State.cdReset_rd settled, State.dieKept, State.rd_wr_self]
  exact Nat.mod_eq_of_lt (lt_of_le_of_lt Nat.and_le_left (s.rd_lt _))
theorem State.cdReset_rd_die (h : a ∈ [clkTrim, perCount]) : s.cdReset.rd a = (regReset a).toNat := by
  have on : dieSettled a ∧ a ∉ dieWritten ∧ (hlmBase ≤ a ∧ a < serBase + 0x10000 ∨ sysBase ≤ a ∧ a < memBase) := by
    unfold dieSettled
    fin_cases h <;> decide
  obtain ⟨settled, kept, page⟩ := on
  rw [State.cdReset_rd settled, State.dieKept_rd kept, State.dieCleared_rd]
  rcases page with page | page
  · rw [if_pos page]
  · rw [if_pos page, ite_self]

end Sys2Proof.Machine
end

section
namespace Sys2Proof.Machine

variable {s : State} {a : Nat}

/-! ## What the reset of the compute die leaves of the parts (R62, R260, R340) -/

theorem State.dieRest_does (keepRing : Bool) : Does 0x7ffffe41aa0 s (s.dieRest keepRing) :=
  ((State.capChart_does keepRing).mono (by decide)).trans (State.chnRestart_does _) (by decide)

/-- Before MEM restarts: what the first steps of the reset make of each part. -/
theorem State.dieFirst_gmem : s.dieKept.diePartsReset.diePaced.gmem = { s.gmem with retained := s.gmem.selfRefresh && s.gmem.retained } := rfl
theorem State.dieFirst_clk : s.dieKept.diePartsReset.diePaced.clk = s.clk.dieReset := rfl
theorem State.dieFirst_port : s.dieKept.diePartsReset.diePaced.port = s.dieCleared.port := rfl
theorem State.dieFirst_saf : s.dieKept.diePartsReset.diePaced.saf = s.saf := rfl
theorem State.dieFirst_per : s.dieKept.diePartsReset.diePaced.per = perReset s.dieKept.bootPace := rfl
theorem State.dieFirst_lanes : s.dieKept.diePartsReset.diePaced.lanes = Vector.replicate 64 {} := rfl
theorem State.dieFirst_cores : s.dieKept.diePartsReset.diePaced.cores =
    Vector.ofFn fun n : CoreN => if n.val < 8 then {} else s.dieCleared.cores[n] := rfl
theorem State.dieFirst_byte : s.dieKept.diePartsReset.diePaced.byte a = s.dieCleared.byte a := by
  have parts (u : State) : u.diePartsReset.byte a = u.byte a := rfl
  rw [State.diePaced, State.showPace, State.setFld_byte, State.setFld_byte, State.wr_byte, parts, State.dieKept]
  simp only [State.wr_byte]

theorem State.searchArray_does : Does 0x1c s.memRestart s.dieArray := (State.srchRestart_does _).trans Does.upd_probs (by decide)
theorem State.dieArray_does : Does 0xfffffc0041d s s.dieArray :=
  (((State.memRestart_does s).mono (by decide)).trans (State.srchRestart_does _) (by decide)).trans Does.upd_probs (by decide)

/-- A part that neither the restart of MEM and the array nor that of the other blocks touches. -/
theorem State.cdReset_part {p : Part} (ha : (0xfffffc0041d : Nat).testBit p.idx = false) (hr : (0x7ffffe41aa0 : Nat).testBit p.idx = false) :
    p.same s.dieKept.diePartsReset.diePaced s.cdReset := by
  rw [State.cdReset_eq]
  exact Part.same_trans (State.dieArray_does.part p ha) ((State.dieRest_does _).part p hr)

theorem State.cdReset_clk : s.cdReset.clk = s.clk.dieReset := (State.cdReset_part (p := .clk) (by decide) (by decide)).trans State.dieFirst_clk
theorem State.cdReset_boot : s.cdReset.boot = s.boot := (State.cdReset_does s).part .boot (by decide)
theorem State.cdReset_flash : s.cdReset.flash = s.flash := (State.cdReset_does s).part .flash (by decide)
theorem State.cdReset_hubs : s.cdReset.hubs = s.hubs := (State.cdReset_does s).part .hubs (by decide)
theorem State.cdReset_port : s.cdReset.port =
    { s.port with reads := s.port.reads.map fun x => if decide (x.addr < 0x5000000000) then { x with lost := true } else x } :=
  (State.cdReset_part (p := .port) (by decide) (by decide)).trans State.dieFirst_port
theorem State.cdReset_per : s.cdReset.per = perReset s.bootPace := by
  have pace : s.dieKept.bootPace = s.bootPace := by
    have cfg : s.dieKept.rd bootCfg = s.rd bootCfg := by
      rw [State.dieKept_rd (by decide), State.dieCleared_rd, if_neg (by decide), if_neg (by decide)]
    rw [State.bootPace, State.bootPace, State.fld, State.fld, cfg]
  rw [← pace]
  exact (State.cdReset_part (p := .per) (by decide) (by decide)).trans State.dieFirst_per
theorem State.cdReset_core (n : CoreN) : s.cdReset.core n = if n.val < 8 then {} else
    { s.core n with pend := (s.core n).pend.map fun x => if decide (x.addr < 0x5000000000) then { x with lost := true } else x } := by
  have cores := (State.cdReset_part (s := s) (p := .cores) (by decide) (by decide)).trans State.dieFirst_cores
  have lost : s.dieCleared.cores[n] =
      { s.core n with pend := (s.core n).pend.map fun x => if decide (x.addr < 0x5000000000) then { x with lost := true } else x } :=
    Vector.getElem_map ..
  rw [State.core, cores, Fin.getElem_fin, Vector.getElem_ofFn]
  split
  · rfl
  · exact lost

theorem State.cdReset_retained : s.cdReset.gmem.retained = (s.gmem.selfRefresh && s.gmem.retained) := by
  have array (u : State) : u.dieArray.gmem.retained = u.gmem.retained :=
    (congrArg Mem.retained (State.searchArray_does.part .gmem (by decide))).trans State.memRestart_retained
  have rest := (State.dieRest_does (s := s.dieKept.diePartsReset.diePaced.dieArray)
    s.dieKept.diePartsReset.diePaced.memRestart.gmem.retained).part .gmem (by decide)
  rw [State.cdReset_eq, congrArg Mem.retained rest, array, State.dieFirst_gmem]

/-- Period SRAM, scratch and the local memories. -/
def dieMemory (a : Nat) : Prop :=
  0x1000000000 ≤ a ∧ a < 0x1004000000 ∨ 0x2000000000 ≤ a ∧ a < 0x2002000000 ∨ 0x3000000000 ≤ a ∧ a < 0x3000100000
theorem State.dieCleared_byte (h : dieMemory a) : s.dieCleared.byte a = 0 := by
  have zero : memReset a = 0 := if_neg (by unfold dieMemory at h; omega)
  have lost (v : State) (hit : Nat → Bool) : (v.loseAccesses hit).byte a = v.byte a := rfl
  rw [State.dieCleared, lost, State.byte_clearMem, State.byte_clearMem, State.byte_clearMem, zero]
  unfold dieMemory at h
  rcases h with h | h | h
  · rw [if_pos h, ite_self, ite_self]
  · rw [if_pos h, ite_self]
  · rw [if_pos h]
theorem State.cdReset_byte (h : dieMemory a) : s.cdReset.byte a = 0 := by
  have beyond : gddrEnd ≤ a := by
    have : gddrEnd = 0x0380000000 := rfl
    unfold dieMemory at h
    omega
  have array (u : State) : u.dieArray.byte a = u.byte a :=
    (State.searchArray_does.part .mem (by decide) a).trans (State.memRestart_byte beyond)
  have rest := (State.dieRest_does (s := s.dieKept.diePartsReset.diePaced.dieArray)
    s.dieKept.diePartsReset.diePaced.memRestart.gmem.retained).part .mem (by decide) a
  rw [State.cdReset_eq, rest, array, State.dieFirst_byte, State.dieCleared_byte h]

theorem State.cdReset_prob (p : Slot) : s.cdReset.prob p = {} := by
  have rest := (State.dieRest_does (s := s.dieKept.diePartsReset.diePaced.dieArray)
    s.dieKept.diePartsReset.diePaced.memRestart.gmem.retained).part .probs (by decide)
  rw [State.cdReset_eq, State.prob, rest]
  exact Vector.getElem_replicate _
theorem State.cdReset_cl (c : Cl) : s.cdReset.cl c = {} := by
  have rest := (State.dieRest_does (s := s.dieKept.diePartsReset.diePaced.dieArray)
    s.dieKept.diePartsReset.diePaced.memRestart.gmem.retained).part .cls (by decide)
  have probs (v : State) (x : Vector Problem 4) : ({ v with probs := x } : State).cls = v.cls := rfl
  rw [State.cdReset_eq, State.cl, rest, State.dieArray, probs]
  exact State.srchRestart_cl c

/-- Cause NORUN stays as it is. -/
theorem State.cdReset_norun : s.cdReset.saf.active.testBit 18 = s.saf.active.testBit 18 := by
  have chn (u : State) : u.chnRestart.saf = u.saf := (State.chnRestart_does u).part .saf (by decide)
  have cap (u : State) (b : Bool) : (u.capRestart b).saf = u.saf := (State.capRestart_does u b).part .saf (by decide)
  have chart (u : State) : u.chartRestart.saf = u.saf := (State.chartRestart_does u).part .saf (by decide)
  have array := (State.dieArray_does (s := s.dieKept.diePartsReset.diePaced)).part .saf (by decide)
  rw [State.cdReset_eq, State.dieRest, chn, cap, chart, State.untime_active _ (by decide) (by decide), array, State.dieFirst_saf]

/-! ### With the die down (R259, R411) -/

/-- The registers and the chain of a die that stays down, before the lanes to the peer are noted. -/
def State.dieDown (s : State) : State :=
  State.chnCleared (((s.dieKept.diePartsReset.diePaced.dieArray.untime 0xFFFF).chartRestart).capRestart
    s.dieKept.diePartsReset.diePaced.memRestart.gmem.retained)
section
variable (down : s.clk.cdUp = false)
include down
theorem State.cdReset_down : s.cdReset = s.dieDown.setBit chnPairstat 5 s.dieDown.peerLane := by
  have clk := ((State.dieArray_does (s := s.dieKept.diePartsReset.diePaced)).part .clk (by decide)).trans State.dieFirst_clk
  rw [State.cdReset_eq, State.dieRest]
  refine State.chnRestart_down ?_
  rw [(State.capChart_does _).part .clk (by decide), clk]
  exact down
/-- The check of the peer that follows finds what the reset left. -/
theorem State.cdReset_peerCheck : s.cdReset.peerCheck = s.cdReset.setBit chnPairstat 5 s.cdReset.peerLane := by
  refine State.peerCheck_kept fun h => ?_
  rw [State.cdReset_down down] at h ⊢
  rw [State.peerLane_pairstat]
  rwa [State.bit_setBit_self _ _ (by decide)] at h
theorem State.cdReset_lane (l : LaneN) : s.cdReset.lane l = {} := by
  have clear (u : State) : u.chnCleared.lanes = u.lanes := rfl
  have array := (State.dieArray_does (s := s.dieKept.diePartsReset.diePaced)).part .lanes (by decide)
  rw [State.cdReset_down down, State.lane, State.setBit_lanes, State.dieDown, clear, (State.capChart_does _).part .lanes (by decide), array,
    State.dieFirst_lanes]
  exact Vector.getElem_replicate _
theorem State.cdReset_cellRole : s.cdReset.rd cellRole = (regReset cellRole).toNat := by
  rw [State.cdReset_down down, State.rd_setBit_ne _ (by decide), State.dieDown, State.chnCleared_rd (by decide),
    (State.capChart_does _).reg cellRole (by decide), State.dieArray_rd (by decide), State.diePaced_rd (by decide), State.diePartsReset_rd,
    State.dieKept_rd (by decide), State.dieCleared_rd, if_neg (by decide), if_pos (by decide)]
end

end Sys2Proof.Machine
end

section
namespace Sys2Proof.Machine

variable {s : State} {a : Nat}

/-! ## The compute die goes into reset (R259, R260, R337) -/

theorem State.leaveRun_norun : s.leaveRun.saf.active.testBit 18 = true := by
  unfold State.leaveRun
  split
  · assumption
  · simp only [State.holdCause, Nat.testBit_or, Nat.testBit_two_pow_self, Bool.or_true]

/-- The die as it is held: MPT_PCOUNT holds the last PER_COUNT, HANG shows why, and its clocks stop. -/
def State.dieHalted (s : State) (held : Bool) : State :=
  let u := (s.wr mptPcount (s.rd perCount)).hangShown
  u.setClk { u.clk with cdUp := false, held }
theorem State.cdDown_up (up : s.clk.cdUp = true) (sr : s.gmem.selfRefresh = true) (held : Bool) :
    s.cdDown held = (s.dieHalted held).cdReset.peerCheck := by
  have stays : s.toSelfRefresh = s := if_pos sr
  unfold State.cdDown
  rw [if_pos up, stays]
  rfl

theorem State.dieHalted_does (held : Bool) : Does 0x20080020000 s (s.dieHalted held) :=
  (((Does.refl 0x20080020000 s).wr (by decide)).trans (State.hangShown_does _) (by decide)).trans (State.setClk_does _ _) (by decide)
theorem State.dieHalted_clk (held : Bool) : (s.dieHalted held).clk = { s.clk with hang := false, cdUp := false, held } := rfl
theorem State.dieHalted_hang (held : Bool) : (s.dieHalted held).bit clkStatus 1 = s.clk.hang := by
  rw [State.dieHalted, State.setClk_bit, State.hangShown, State.setClk_bit, State.bit_setBit_self _ _ (by decide)]
  rfl
theorem State.dieHalted_pcount (held : Bool) : (s.dieHalted held).rd mptPcount = s.rd perCount := by
  rw [State.dieHalted, State.setClk_rd, State.hangShown, State.setClk_rd, State.rd_setBit_ne _ (by decide), State.rd_wr_self]
  exact Nat.mod_eq_of_lt (s.rd_lt _)

/-! ## COMPUTE_DIE_RESET (R62, R260) -/

/-- The sequence of R259 before the die is reset. -/
def State.dieRefreshed (s : State) (ok : Bool) : State := if s.gmem.selfRefresh then s else s.enterSelfRefresh (ok && s.bit memStatus 31)
theorem State.dieRefreshed_does (ok : Bool) : Does 0x80012000c21 s (s.dieRefreshed ok) := Does.ite (Does.refl _ _) (State.enterSelfRefresh_does _ _)
theorem State.dieRefreshed_gmem (ok : Bool) : (s.dieRefreshed ok).gmem.selfRefresh = true ∧
    (s.dieRefreshed ok).gmem.retained = if s.gmem.selfRefresh then s.gmem.retained else ok && s.bit memStatus 31 := by
  unfold State.dieRefreshed
  cases h : s.gmem.selfRefresh
  · exact ⟨rfl, rfl⟩
  · exact ⟨h, rfl⟩

/-- The module leaves Run with a warm restart due and no boot active. -/
def State.dieResetDue (s : State) (ok : Bool) : State :=
  let u := s.dieRefreshed ok
  State.leaveRun { u.setClk { u.clk with power := .starting, cdRstReq := true } with boot := { u.boot with active := false } }
theorem exec_computeDieReset_up (up : s.clk.cdUp = true) (ok : Bool) : exec (.computeDieReset ok) s = .next ((s.dieResetDue ok).cdDown true) := by
  rw [exec_computeDieReset, execComputeDieReset, if_pos up]
  rfl
theorem exec_computeDieReset_off (off : s.clk.cdUp = false) (ok : Bool) : exec (.computeDieReset ok) s = .next s := by
  rw [exec_computeDieReset, execComputeDieReset, off]
  rfl

theorem State.dieResetDue_does (ok : Bool) : Does 0x8c01e269ee1 s (s.dieResetDue ok) :=
  ((((State.dieRefreshed_does (s := s) ok).mono (by decide)).trans (State.setClk_does _ _) (by decide)).trans Does.upd_boot (by decide)).trans
    (State.leaveRun_does _) (by decide)
theorem State.dieResetDue_clk (ok : Bool) : (s.dieResetDue ok).clk = { s.clk with power := .starting, cdRstReq := true } := by
  have clk := (State.dieRefreshed_does (s := s) ok).part .clk (by decide)
  rw [State.dieResetDue, (State.leaveRun_does _).part .clk (by decide)]
  exact congrArg (fun k : Clk => { k with power := .starting, cdRstReq := true }) clk
theorem State.dieResetDue_boot (ok : Bool) : (s.dieResetDue ok).boot = { s.boot with active := false } := by
  have boot := (State.dieRefreshed_does (s := s) ok).part .boot (by decide)
  rw [State.dieResetDue, (State.leaveRun_does _).part .boot (by decide)]
  exact congrArg (fun b : Boot => { b with active := false }) boot
theorem State.dieResetDue_gmem (ok : Bool) : (s.dieResetDue ok).gmem = (s.dieRefreshed ok).gmem := by
  rw [State.dieResetDue, (State.leaveRun_does _).part .gmem (by decide)]
  rfl

end Sys2Proof.Machine
end

section
namespace Sys2Proof.Machine

variable {s : State} {a : Nat}

/-- The state in which COMPUTE_DIE_RESET resets the die. -/
def State.dieAtReset (s : State) (ok : Bool) : State := (s.dieResetDue ok).dieHalted true
theorem State.dieAtReset_does (ok : Bool) : Does 0xac09e269ee1 s (s.dieAtReset ok) :=
  ((State.dieResetDue_does (s := s) ok).mono (by decide)).trans (State.dieHalted_does _) (by decide)
theorem State.dieAtReset_clk (ok : Bool) : (s.dieAtReset ok).clk =
    { s.clk with power := .starting, cdRstReq := true, hang := false, cdUp := false, held := true } := by
  rw [State.dieAtReset, State.dieHalted_clk, State.dieResetDue_clk]
theorem State.dieAtReset_boot (ok : Bool) : (s.dieAtReset ok).boot = { s.boot with active := false } := by
  rw [State.dieAtReset, (State.dieHalted_does _).part .boot (by decide), State.dieResetDue_boot]
theorem State.dieAtReset_gmem (ok : Bool) : (s.dieAtReset ok).gmem = (s.dieRefreshed ok).gmem := by
  rw [State.dieAtReset, (State.dieHalted_does _).part .gmem (by decide), State.dieResetDue_gmem]
theorem State.dieAtReset_norun (ok : Bool) : (s.dieAtReset ok).saf.active.testBit 18 = true := by
  rw [State.dieAtReset, (State.dieHalted_does _).part .saf (by decide)]
  exact State.leaveRun_norun
theorem State.dieAtReset_hang (ok : Bool) : (s.dieAtReset ok).bit clkStatus 1 = s.clk.hang := by
  rw [State.dieAtReset, State.dieHalted_hang, State.dieResetDue_clk]
theorem State.dieAtReset_pcount (ok : Bool) : (s.dieAtReset ok).rd mptPcount = s.rd perCount := by
  rw [State.dieAtReset, State.dieHalted_pcount, (State.dieResetDue_does ok).reg _ (by decide)]
theorem State.dieAtReset_pace (ok : Bool) : (s.dieAtReset ok).bootPace = s.bootPace := by
  rw [State.bootPace, State.bootPace, State.fld, State.fld, (State.dieAtReset_does ok).reg bootCfg (by decide)]

/-- The state that COMPUTE_DIE_RESET leaves: the lanes to the peer apart, that of the reset. -/
theorem exec_computeDieReset_held (up : s.clk.cdUp = true) (ok : Bool) : ∃ t, exec (.computeDieReset ok) s = .next t ∧
    (s.dieAtReset ok).clk.cdUp = false ∧ ∃ b, t = (s.dieAtReset ok).cdReset.setBit chnPairstat 5 b := by
  have clk := State.dieResetDue_clk (s := s) ok
  have down : (s.dieAtReset ok).clk.cdUp = false := by rw [State.dieAtReset_clk]
  have refresh : (s.dieResetDue ok).gmem.selfRefresh = true := by rw [State.dieResetDue_gmem, (State.dieRefreshed_gmem ok).1]
  have dieUp : (s.dieResetDue ok).clk.cdUp = true := by rw [clk]; exact up
  exact ⟨_, exec_computeDieReset_up up ok, down, _, (State.cdDown_up dieUp refresh true).trans (State.cdReset_peerCheck down)⟩

/-- What COMPUTE_DIE_RESET leaves of the powered die. -/
theorem exec_computeDieReset_leaves (up : s.clk.cdUp = true) (ok : Bool) : let lost (a : Nat) : Bool := decide (a < 0x5000000000)
    ∃ t, exec (.computeDieReset ok) s = .next t ∧
    t.gmem.retained = (if s.gmem.selfRefresh then s.gmem.retained else ok && s.bit memStatus 31) ∧
    t.bit clkStatus 1 = s.clk.hang ∧ t.clk.hang = false ∧ t.rd clkTrim = 0 ∧ t.clk.trimCode = s.clk.trimCode ∧ t.clk.cdUp = false ∧ t.clk.held = true ∧
    t.clk.cdRstReq = true ∧ t.clk.power = .starting ∧
    t.boot = { s.boot with active := false } ∧
    t.port = { s.port with reads := s.port.reads.map fun x => if lost x.addr then { x with lost := true } else x } ∧
    (∀ n : CoreN, n.val < 8 → t.core n = {}) ∧
    (∀ n : CoreN, 8 ≤ n.val → t.core n = { s.core n with pend := (s.core n).pend.map fun x => if lost x.addr then { x with lost := true } else x }) ∧
    (∀ a, 0x1000000000 ≤ a ∧ a < 0x1004000000 ∨ 0x2000000000 ≤ a ∧ a < 0x2002000000 ∨ 0x3000000000 ≤ a ∧ a < 0x3000100000 → t.byte a = 0) ∧
    t.per = perReset s.bootPace ∧ (∀ p, t.prob p = {}) ∧ (∀ c, t.cl c = {}) ∧ (∀ l, t.lane l = {}) ∧
    t.rd cellRole = (regReset cellRole).toNat ∧ t.rd perCount = (regReset perCount).toNat ∧ t.rd mptPcount = s.rd perCount ∧
    t.saf.active.testBit 18 = true ∧ t.flash = s.flash ∧ t.hubs = s.hubs := by
  obtain ⟨t, run, down, b, rfl⟩ := exec_computeDieReset_held up ok
  have clk := (State.cdReset_clk (s := s.dieAtReset ok)).trans (congrArg Clk.dieReset (State.dieAtReset_clk ok))
  have core (n : CoreN) : (s.dieAtReset ok).core n = s.core n := by
    rw [State.core, (State.dieAtReset_does ok).part .cores (by decide), State.core]
  have port := (State.dieAtReset_does (s := s) ok).part .port (by decide)
  refine ⟨_, run, ?_, ?_, ?_, ?_, ?_, ?_, ?_, ?_, ?_, ?_, ?_, fun n hn => ?_, fun n hn => ?_, fun a ha => ?_, ?_, fun p => ?_, fun c => ?_, fun l => ?_,
    ?_, ?_, ?_, ?_, ?_, ?_⟩
  · rw [State.setBit_gmem, State.cdReset_retained, State.dieAtReset_gmem, (State.dieRefreshed_gmem ok).1, (State.dieRefreshed_gmem ok).2, Bool.true_and]
  · rw [State.bit, State.rd_setBit_ne _ (by decide), State.cdReset_clkStatus, Nat.testBit_and, ← State.bit, State.dieAtReset_hang]
    exact Bool.and_true _
  · simp only [State.setBit_clk, clk, Clk.dieReset]
  · rw [State.rd_setBit_ne _ (by decide), State.cdReset_rd_die (by decide)]
    decide
  · simp only [State.setBit_clk, clk, Clk.dieReset]
  · simp only [State.setBit_clk, clk, Clk.dieReset]
  · simp only [State.setBit_clk, clk, Clk.dieReset]
  · simp only [State.setBit_clk, clk, Clk.dieReset]
  · simp only [State.setBit_clk, clk, Clk.dieReset]
  · rw [State.setBit_boot, State.cdReset_boot, State.dieAtReset_boot]
  · rw [State.setBit_port, State.cdReset_port, port]
  · rw [State.setBit_core, State.cdReset_core, if_pos hn]
  · rw [State.setBit_core, State.cdReset_core, if_neg (Nat.not_lt.2 hn), core]
  · rw [State.setBit_byte, State.cdReset_byte ha]
  · rw [State.setBit_per, State.cdReset_per, State.dieAtReset_pace]
  · rw [State.setBit_prob, State.cdReset_prob]
  · rw [State.setBit_cl, State.cdReset_cl]
  · rw [State.setBit_lane, State.cdReset_lane down]
  · rw [State.rd_setBit_ne _ (by decide), State.cdReset_cellRole down]
  · rw [State.rd_setBit_ne _ (by decide), State.cdReset_rd_die (by decide)]
  · rw [State.rd_setBit_ne _ (by decide), State.cdReset_rd_binnacle (by decide), State.dieAtReset_pcount]
  · rw [State.setBit_saf, State.cdReset_norun, State.dieAtReset_norun]
  · rw [State.setBit_flash, State.cdReset_flash, (State.dieAtReset_does ok).part .flash (by decide)]
  · rw [State.setBit_hubs, State.cdReset_hubs, (State.dieAtReset_does ok).part .hubs (by decide)]

end Sys2Proof.Machine
end

section
namespace Sys2Proof.Machine

variable {s : State} {a : Nat}

/-! ## A step of the boot starts (R404) -/

theorem State.startStep_boot (k : Nat) : (s.startStep k).boot = { s.boot with step := k, active := true, retry := false } := by
  have prog (u : State) : u.saveProg.boot = u.boot := (State.saveProg_does u).part .boot (by decide)
  unfold State.startStep
  dsimp only
  rw [prog]
  split <;> rfl
theorem State.startStep_rd (h : a ∉ [bootStatus, bootProg]) (k : Nat) : (s.startStep k).rd a = s.rd a := by
  simp only [List.mem_cons, List.not_mem_nil, or_false, not_or] at h
  have prog (u : State) : u.saveProg.rd a = u.rd a := (State.saveProg_does u).reg a (memoryBits_one _ (pageBit_range a).2 (pageBit_range a).1)
  unfold State.startStep
  dsimp only
  rw [prog]
  split
  · rw [State.rd_setFld_ne _ h.2, State.setBoot_rd, State.rd_setFld_ne _ h.1]
  · rw [State.setBoot_rd, State.rd_setFld_ne _ h.1]
/-- BOOT_STATUS beside the step shown. -/
theorem State.startStep_status (k : Nat) : (s.startStep k).rd bootStatus = (s.setFld bootStatus 11 8 k).rd bootStatus := by
  have prog (u : State) : u.saveProg.rd bootStatus = u.rd bootStatus := (State.saveProg_does u).reg _ (by decide)
  unfold State.startStep
  dsimp only
  rw [prog]
  split
  · rw [State.rd_setFld_ne _ (by decide), State.setBoot_rd]
  · rw [State.setBoot_rd]

/-! ## REBOOT (R403) -/

theorem State.cdDown_boot (held : Bool) : (s.cdDown held).boot = s.boot := (State.cdDown_does s held).part .boot (by decide)
/-- The state in which the die goes into reset. -/
def State.dieStopped (s : State) (held : Bool) : State :=
  let u := if s.clk.cdUp then (s.toSelfRefresh.wr mptPcount (s.rd perCount)).hangShown else s
  u.setClk { u.clk with cdUp := false, held }
theorem State.cdDown_eq (held : Bool) : s.cdDown held = (s.dieStopped held).cdReset.peerCheck := rfl
theorem State.dieStopped_clk (held : Bool) : (s.dieStopped held).clk.power = s.clk.power ∧ (s.dieStopped held).clk.cdUp = false := by
  have refresh : s.toSelfRefresh.clk.power = s.clk.power := congrArg Clk.power ((State.toSelfRefresh_does s).part .clk (by decide))
  unfold State.dieStopped
  refine ⟨?_, rfl⟩
  rw [State.setClk_clk]
  dsimp only
  split
  · exact refresh
  · rfl
theorem State.dieStopped_does (held : Bool) : Does 0xa0092020c21 s (s.dieStopped held) :=
  (Does.ite (((((State.toSelfRefresh_does s).mono (by decide)).wr (by decide)).trans (State.hangShown_does _) (by decide)))
    (Does.refl _ _)).trans (State.setClk_does _ _) (by decide)
theorem State.cdDown_clk (held : Bool) : (s.cdDown held).clk.power = s.clk.power ∧ (s.cdDown held).clk.cdUp = false := by
  have peer := (State.peerCheck_does (s.dieStopped held).cdReset).part .clk (by decide)
  rw [State.cdDown_eq, peer, State.cdReset_clk]
  exact State.dieStopped_clk held
theorem State.cdDown_rd (h : a ∈ [bootCmdst, bootStatus]) (held : Bool) : (s.cdDown held).rd a = s.rd a := by
  have kept : a ∈ [bootCmdst, bootStatus, bootCfg, mptPcount] ∧ (0x24241080).testBit (pageBit a) = false ∧
      (0xa0092020c21).testBit (pageBit a) = false := by fin_cases h <;> decide
  obtain ⟨binnacle, peer, stop⟩ := kept
  rw [State.cdDown_eq, (State.peerCheck_does _).reg a peer, State.cdReset_rd_binnacle binnacle, (State.dieStopped_does held).reg a stop]

/-- The state of a REBOOT before the boot starts. -/
def State.rebootDown (s : State) : State := State.cdOff (State.leaveRun ((s.cmdEnd 0).setClk { (s.cmdEnd 0).clk with power := .starting }))
theorem State.rebootDown_boot : s.rebootDown.boot = s.boot := by
  rw [State.rebootDown, State.cdOff, State.cdDown_boot, State.setClk_boot, (State.leaveRun_does _).part .boot (by decide), State.setClk_boot,
    State.cmdEnd_boot]
theorem State.rebootDown_clk : s.rebootDown.clk.cdUp = false := (State.cdDown_clk false).2
theorem State.rebootDown_rd (h : a ∈ [bootCmdst, bootStatus]) : s.rebootDown.rd a = (s.cmdEnd 0).rd a := by
  have run : (0xc00c241ac1).testBit (pageBit a) = false := by fin_cases h <;> decide
  rw [State.rebootDown, State.cdOff, State.cdDown_rd h, State.setClk_rd, (State.leaveRun_does _).reg a run, State.setClk_rd]

/-- The registers with which a boot starts at step 2. -/
def State.bootStart (s : State) : State :=
  let u := (s.setClk { s.clk with power := .starting }).setBoot
    { s.boot with warm := false, fromRecovery := s.bit bootStatus 31, slot := none, chosenHash := s.boot.failHash }
  let v := ((u.setBit bootStatus 31 false).setBit bootStatus 30 false).setFld bootStatus 1 0 0
  v.setBit chnPilot 1 (v.bit bootStatus 29)
theorem State.bootFrom2_eq : s.bootFrom2 = s.bootStart.startStep 2 := rfl
theorem State.bootStart_cmdst : s.bootStart.rd bootCmdst = s.rd bootCmdst := by
  unfold State.bootStart
  dsimp only
  rw [State.rd_setBit_ne _ (by decide), State.rd_setFld_ne _ (by decide), State.rd_setBit_ne _ (by decide), State.rd_setBit_ne _ (by decide),
    State.setBoot_rd, State.setClk_rd]
theorem State.bootStart_choice : s.bootStart.fld bootStatus 1 0 = 0 := by
  unfold State.bootStart
  dsimp only
  rw [State.setBit, State.setFld, State.fld_wr_ne _ (by decide), State.fld_setFld_self _ (by decide) (by decide)]
  rfl
theorem State.bootFrom2_clk : s.bootFrom2.clk = { s.clk with power := .starting } := by
  rw [State.bootFrom2_eq, (State.startStep_does _ _).part .clk (by decide)]
  rfl
theorem State.bootFrom2_boot : s.bootFrom2.boot = { s.boot with
    warm := false, fromRecovery := s.bit bootStatus 31, slot := none, chosenHash := s.boot.failHash, step := 2, active := true, retry := false } := by
  rw [State.bootFrom2_eq, State.startStep_boot]
  rfl

theorem exec_reboot_starts (on : s.clk.power ≠ .off) : ∃ t, exec .reboot s = .next t ∧ t.Ended 0 ∧ t.boot.step = 2 ∧ t.boot.active = true ∧
    t.boot.slot = none ∧ t.boot.fromRecovery = s.bit bootStatus 31 ∧ t.fld bootStatus 1 0 = 0 ∧ t.clk.cdUp = false ∧ t.clk.power = .starting := by
  have run : exec .reboot s = .next s.rebootDown.bootFrom2 := by
    rw [exec_reboot, execReboot, if_neg on]
    rfl
  refine ⟨_, run, ?_, ?_, ?_, ?_, ?_, ?_, ?_, ?_⟩
  · refine (State.cmdEnd_ended (s := s) (c := 0) (by decide)).congr ?_ ?_
    · rw [State.bootFrom2_eq, State.startStep_rd (by decide), State.bootStart_cmdst, State.rebootDown_rd (by decide)]
    · rw [State.bootFrom2_boot, State.rebootDown_boot, State.cmdEnd_boot]
  · rw [State.bootFrom2_boot]
  · rw [State.bootFrom2_boot]
  · rw [State.bootFrom2_boot]
  · rw [State.bootFrom2_boot, State.bit, State.rebootDown_rd (by decide), State.cmdEnd_rd (by decide)]
    rfl
  · rw [State.bootFrom2_eq, State.fld, State.startStep_status, ← State.fld, State.fld_setFld_ne _ (by decide) (by decide) (by decide) (by decide),
      State.bootStart_choice]
  · rw [State.bootFrom2_clk]
    exact State.rebootDown_clk
  · rw [State.bootFrom2_clk]

end Sys2Proof.Machine
end

section
namespace Sys2Proof.Machine

variable {s : State} {a : Nat}

/-! ## The compute die starts (R271, R411) -/

/-- The state in which the die is reset with its clocks running. -/
def State.dieStarting (s : State) : State :=
  let u := if s.clk.cdUp then s.hangShown else s
  u.setClk { u.clk with cdUp := true, held := false }
theorem State.cdStart_eq : s.cdStart = (let t := s.dieStarting.cdReset.endCause 8
    if t.clk.mainLost then t else t.endCause 9) := rfl
theorem State.cdStart_causes : Does 0x800 s.dieStarting.cdReset s.cdStart := by
  rw [State.cdStart_eq]
  exact Does.ite (State.endCause_does _ _) ((State.endCause_does _ _).trans (State.endCause_does _ _) (by decide))

theorem State.dieStarting_clk : s.dieStarting.clk = { s.clk with hang := if s.clk.cdUp then false else s.clk.hang, cdUp := true, held := false } := by
  unfold State.dieStarting
  dsimp only
  split <;> rfl
theorem State.dieStarting_hang : s.dieStarting.bit clkStatus 1 = if s.clk.cdUp then s.clk.hang else s.bit clkStatus 1 := by
  unfold State.dieStarting
  dsimp only
  rw [State.setClk_bit]
  split
  · rw [State.hangShown, State.setClk_bit, State.bit_setBit_self _ _ (by decide)]
  · rfl
theorem State.dieStarting_boot : s.dieStarting.boot = s.boot := by
  unfold State.dieStarting
  dsimp only
  split <;> rfl

theorem State.cdStart_clk : s.cdStart.clk = s.dieStarting.clk.dieReset := (State.cdStart_causes.part .clk (by decide)).trans State.cdReset_clk
theorem State.cdStart_boot : s.cdStart.boot = s.boot :=
  ((State.cdStart_causes.part .boot (by decide)).trans State.cdReset_boot).trans State.dieStarting_boot
theorem State.cdStart_hang : s.cdStart.bit clkStatus 1 = if s.clk.cdUp then s.clk.hang else s.bit clkStatus 1 := by
  rw [State.bit, State.cdStart_causes.reg _ (by decide), State.cdReset_clkStatus, Nat.testBit_and, ← State.bit, State.dieStarting_hang]
  exact Bool.and_true _

/-! ## WARM_RESTART (R411) -/

/-- The state in which a warm restart starts the die: GDDR6 keeps its content, and the module has left Run. -/
def State.warmDue (s : State) (ok : Bool) : State :=
  let u := if s.gmem.selfRefresh || !s.clk.cdUp then s else s.enterSelfRefresh (ok && s.bit memStatus 31)
  State.leaveRun (u.setClk { u.clk with cdRstReq := false, power := .starting })
theorem State.warmDue_does (ok : Bool) : Does 0x8c01e261ee1 s (s.warmDue ok) :=
  (((Does.ite (Does.refl _ _) (State.enterSelfRefresh_does _ _) :
    Does 0x80012000c21 s (if s.gmem.selfRefresh || !s.clk.cdUp then s else s.enterSelfRefresh (ok && s.bit memStatus 31))).mono (by decide)).trans
      (State.setClk_does _ _) (by decide)).trans (State.leaveRun_does _) (by decide)
theorem State.warmDue_clk (ok : Bool) : (s.warmDue ok).clk = { s.clk with cdRstReq := false, power := .starting } := by
  have clk : (if s.gmem.selfRefresh || !s.clk.cdUp then s else s.enterSelfRefresh (ok && s.bit memStatus 31)).clk = s.clk := by
    split
    · rfl
    · exact (State.enterSelfRefresh_does _ _).part .clk (by decide)
  rw [State.warmDue, (State.leaveRun_does _).part .clk (by decide)]
  exact congrArg (fun k : Clk => { k with cdRstReq := false, power := .starting }) clk

/-- The state in which step 5 starts again. -/
def State.warmStaged (s : State) (ok : Bool) : State :=
  let u := (s.warmDue ok).cdStart.setTrctl
  (u.setBit bootStatus 30 true).setBoot { u.boot with warm := true }
theorem State.warmStaged_boot (ok : Bool) : (s.warmStaged ok).boot = { s.boot with warm := true } := by
  have boot : (s.warmDue ok).cdStart.setTrctl.boot = s.boot :=
    (((State.setTrctl_does _).part .boot (by decide)).trans State.cdStart_boot).trans ((State.warmDue_does ok).part .boot (by decide))
  exact congrArg (fun b : Boot => { b with warm := true }) boot
theorem State.warmStaged_clk (ok : Bool) : (s.warmStaged ok).clk = (s.warmDue ok).dieStarting.clk.dieReset := by
  rw [State.warmStaged, State.setBoot_clk, State.setBit_clk, (State.setTrctl_does _).part .clk (by decide), State.cdStart_clk]
theorem State.warmStaged_hang (ok : Bool) : (s.warmStaged ok).bit clkStatus 1 = if s.clk.cdUp then s.clk.hang else s.bit clkStatus 1 := by
  rw [State.warmStaged, State.setBoot_bit, State.bit, State.rd_setBit_ne _ (by decide), (State.setTrctl_does _).reg _ (by decide), ← State.bit,
    State.cdStart_hang, State.warmDue_clk, State.bit, State.bit, (State.warmDue_does ok).reg _ (by decide)]

theorem exec_warmRestart_idle (h : s.clk.cdRstReq = false ∨ s.boot.slot = none ∨ s.clk.mainLost = true ∨ s.clk.power = .off ∨ s.clk.power = .recovery)
    (ok : Bool) : exec (.warmRestart ok) s = .next s := by
  rw [exec_warmRestart]
  refine if_pos ?_
  rcases h with h | h | h | h | h <;> simp [h]
theorem exec_warmRestart_starts (ok : Bool) (due : s.clk.cdRstReq = true) (slot : s.boot.slot.isSome = true) (main : s.clk.mainLost = false)
    (on : s.clk.power ≠ .off) (normal : s.clk.power ≠ .recovery) :
    ∃ t, exec (.warmRestart ok) s = .next t ∧ t.bit clkStatus 1 = (if s.clk.cdUp then s.clk.hang else s.bit clkStatus 1) ∧
    t.boot.step = 5 ∧ t.boot.active = true ∧ t.boot.warm = true ∧ t.boot.slot = s.boot.slot ∧ t.clk.cdUp = true ∧ t.clk.held = false ∧
    t.clk.cdRstReq = false ∧ t.clk.power = .starting ∧ t.bit bootStatus 30 = true := by
  have run : exec (.warmRestart ok) s = .next ((s.warmStaged ok).startStep 5) := by
    have goes : ¬ (!s.clk.cdRstReq || s.boot.slot.isNone || s.clk.mainLost || s.clk.power = .off || s.clk.power = .recovery) = true := by
      simp [due, Option.isSome_iff_ne_none.1 slot, main, on, normal]
    rw [exec_warmRestart]
    exact if_neg goes
  have clk : ((s.warmStaged ok).startStep 5).clk = (s.warmDue ok).dieStarting.clk.dieReset :=
    ((State.startStep_does _ _).part .clk (by decide)).trans (State.warmStaged_clk ok)
  rw [State.dieStarting_clk, State.warmDue_clk, Clk.dieReset] at clk
  refine ⟨_, run, ?_, ?_, ?_, ?_, ?_, ?_, ?_, ?_, ?_, ?_⟩
  · rw [State.bit, State.startStep_rd (by decide), ← State.bit, State.warmStaged_hang]
  · rw [State.startStep_boot]
  · rw [State.startStep_boot]
  · rw [State.startStep_boot, State.warmStaged_boot]
  · rw [State.startStep_boot, State.warmStaged_boot]
  · rw [clk]
  · rw [clk]
  · rw [clk]
  · rw [clk]
  · rw [State.bit, State.startStep_status, ← State.bit, State.bit_setFld _ _ _ (by decide) (by decide), if_neg (by decide), State.warmStaged,
      State.setBoot_bit, State.bit_setBit_self _ _ (by decide)]

/-! ## BINNACLE_RESET (R447) -/

/-- A sparse map that keeps the keys of a set reads there as before and as its default elsewhere. -/
theorem sget_filter {β : Type} [DecidableEq β] {d : Nat → β} (keep : Nat → Bool) (m : List (Nat × β)) (a : Nat) :
    sget d (m.filter fun x => keep x.1) a = if keep a then sget d m a else d a := by
  unfold sget
  by_cases h : keep a = true
  · rw [if_pos h, find?_filter_keep fun c hc => by rw [hc, h]]
  · have none : (m.filter fun x => keep x.1).find? (fun c => c.1 == a) = none := by
      rw [List.find?_eq_none]
      intro c hc e
      exact h (beq_iff_eq.1 e ▸ (List.mem_filter.1 hc).2)
    rw [if_neg h, none]

/-- What the Binnacle reset leaves. -/
theorem exec_binnacleReset_leaves (b : Bool) : ∃ t, exec (.binnacleReset b) s = .next t ∧
    (∀ a, t.byte a = if nonVolatile a then s.byte a else memReset a) ∧
    (∀ a, a ≠ clkStatus → t.rd a = (regReset a).toNat) ∧ t.bit clkStatus 31 = (s.clk.refSel || s.bit clkCtrl 0 || !b) ∧
    t.boot = {} ∧ t.clk = { mainLost := s.clk.mainLost } ∧ t.saf = { active := 2 ^ 18 + 2 ^ 9 * b2n s.clk.mainLost } ∧ t.flash = {} ∧ t.port = {} ∧
    (∀ n, t.core n = {}) ∧ t.hubs = s.hubs ∧ t.pending = s.pending := by
  refine ⟨_, rfl, fun a => ?_, fun a h => ?_, State.bit_setBit_self _ _ (by decide), rfl, rfl, rfl, rfl, rfl, fun n => ?_, rfl, rfl⟩
  · exact sget_filter nonVolatile s.mem a
  · exact State.rd_setBit_ne _ h _ _
  · exact Vector.getElem_replicate _

end Sys2Proof.Machine
end

section
namespace Sys2Proof.Machine

/-- In Off no operation has an effect. -/
theorem exec_bootCommand_off {s : State} {slot : Fin 2} (off : s.clk.power = .off) :
    ∀ i ∈ [Instr.bootErase slot, .bootProgram slot, .raise, .clrdeg, .bootRead slot], exec i s = .next s := by
  have run (t : State) : Host.Outcome.next (s.powered t) = (.next s : Out) := by rw [State.powered_off off]
  simp only [List.mem_cons, List.not_mem_nil, or_false, forall_eq_or_imp, forall_eq]
  exact ⟨run _, run _, run _, run _, run _⟩

/-- Settles O49: what each operation of BOOT_CMD, a warm restart and the resets of the compute die and of the Binnacle leave. -/
theorem bootCommands : Obligations.BootCommands := by
  intro s slot
  dsimp only
  refine ⟨fun f hf e he h => ?_, State.eraseUnit_le, exec_bootCommand_off, fun on => bootOp_cases on rfl, fun on => bootOp_cases on rfl,
    exec_bootOperationDone_idle, fun op a data h => ⟨fun e => ?_, fun e len => ?_, ?_⟩,
    fun on => ⟨fun lock => ?_, fun lock busy => ?_, fun lock idle => ?_⟩,
    exec_clrdeg_ends, fun on busy => ?_, fun on idle out => ?_, exec_bootRead_fits, fun off => if_pos off, exec_reboot_starts,
    fun ok due slot main on normal => exec_warmRestart_starts ok due slot main on normal, fun ok h => exec_warmRestart_idle h ok,
    fun up ok => exec_computeDieReset_leaves up ok, fun off ok => exec_computeDieReset_off off ok, exec_binnacleReset_leaves⟩
  · rw [State.eraseUnit_some hf]
    exact Nat.pow_le_pow_right (by decide) (sfdpErase_largest he h)
  · exact exec_bootOperationDone_erased h e
  · exact exec_bootOperationDone_programmed h e len
  · exact exec_bootOperationDone_open h
  · exact Refused.of_cmdEnd on rfl (State.raiseMin_locked lock) (by decide)
  · exact Refused.of_cmdEnd on rfl (State.raiseMin_busy lock busy) (by decide)
  · obtain ⟨t, run, busy, frame, ill, low, raised⟩ := exec_raise_cases on lock idle
    refine ⟨t, run, busy, frame, fun h => ill ?_, fun magic zero sig => ⟨fun h => low ⟨magic, zero, sig⟩ ?_, fun above below gen => ?_⟩⟩
    · rintro ⟨magic, zero, sig⟩
      exact h.elim (· magic) fun h => h.elim (· zero) fun h => Bool.noConfusion (sig.symm.trans h)
    · rintro ⟨⟨above, below⟩, gen⟩
      exact h.elim (Nat.not_le.2 above) fun h => h.elim (Nat.not_lt.2 below) (Nat.not_le.2 gen)
    · obtain ⟨ended, ver, boot, body⟩ := raised ⟨magic, zero, sig⟩ ⟨above, below⟩ gen
      refine ⟨ended, ver, boot, ?_⟩
      rw [boot]
      exact body
  · exact Refused.of_cmdEnd on rfl (State.bootRead_busy busy) (by decide)
  · exact Refused.of_cmdEnd on rfl (State.bootRead_out idle out) (by decide)

end Sys2Proof.Machine
end

section
namespace Sys2Proof.Machine

variable {n : CoreN} {c : Nat} {k k' : Core} {rs : List RegN} {npc : Word}

/-! ## Cycles of a Helm core in which it writes no register of its own (R343, R356, R372, R373) -/

/-- From k to k' core n lets c cycles pass and at most puts out something, or lets writes of the multiplier land: of the rest of the core
nothing differs. With no such write in flight the multiplier's registers stay. -/
structure Core.Idles (n : CoreN) (c : Nat) (k k' : Core) : Prop where
  cycle : k'.cycle = k.cycle + BitVec.ofNat 64 c
  ipend : ∀ i, i ≠ 16 → k'.ipend.getLsbD i = k.ipend.getLsbD i
  outs : n.val ≠ 9 → k'.outs = k.outs
  mp : k.flight = [] → k'.mp = k.mp ∧ k'.flight = []
  rest : k' = { k with mp := k'.mp, flight := k'.flight, cycle := k'.cycle, ipend := k'.ipend, loaded := k'.loaded, outs := k'.outs }

theorem Core.Idles.refl (n : CoreN) (k : Core) : Core.Idles n 0 k k where
  cycle := (BitVec.add_zero _).symm
  ipend _ _ := rfl
  outs _ := rfl
  mp h := ⟨rfl, h⟩
  rest := rfl

theorem Core.Idles.w (h : Core.Idles n c k k') : k'.w = k.w := by rw [h.rest]
theorem Core.Idles.r (h : Core.Idles n c k k') (x : RegN) : k'.r x = k.r x := by rw [Core.r, Core.r, h.w]
theorem Core.Idles.pc (h : Core.Idles n c k k') : k'.pc = k.pc := by rw [h.rest]
theorem Core.Idles.status (h : Core.Idles n c k k') : k'.status = k.status := by rw [h.rest]
theorem Core.Idles.evec (h : Core.Idles n c k k') : k'.evec = k.evec := by rw [h.rest]
theorem Core.Idles.posted (h : Core.Idles n c k k') : k'.posted = k.posted := by rw [h.rest]
theorem Core.Idles.stores (h : Core.Idles n c k k') : k'.stores = k.stores := by rw [h.rest]
theorem Core.Idles.running (h : Core.Idles n c k k') : k'.running = k.running := by rw [h.rest]
theorem Core.Idles.segAddr (h : Core.Idles n c k k') (ea : Word) : k'.segAddr ea = k.segAddr ea := by
  rw [h.rest]
  rfl

theorem Core.tick_ipend (k : Core) (c : Nat) {i : Nat} (h : i ≠ 16) : (k.tick c).ipend.getLsbD i = k.ipend.getLsbD i := by
  have line : (0x10000 : Word).getLsbD i = false := by
    rw [show (0x10000 : Word) = BitVec.twoPow 32 16 from rfl, BitVec.getLsbD_twoPow]
    simp [h.symm]
  unfold Core.tick
  dsimp only
  generalize (if (k.tcmp - k.cycle.setWidth 32).toNat = 0 then 2 ^ 32 else (k.tcmp - k.cycle.setWidth 32).toNat) = d
  split
  · rw [BitVec.getLsbD_or, line, Bool.or_false]
  · rfl
theorem Core.Idles.tick (h : Core.Idles n c k k') (d : Nat) : Core.Idles n (c + d) k (k'.tick d) where
  cycle := by
    rw [show (k'.tick d).cycle = k'.cycle + BitVec.ofNat 64 d from rfl, h.cycle, BitVec.ofNat_add, BitVec.add_assoc]
  ipend i hi := (k'.tick_ipend d hi).trans (h.ipend i hi)
  outs := h.outs
  mp := h.mp
  rest := by rw [h.rest]; rfl
theorem Core.Idles.loaded (h : Core.Idles n c k k') (x : Option RegN) : Core.Idles n c k { k' with loaded := x } :=
  { h with rest := by rw [h.rest] }
theorem Core.Idles.puts (h : Core.Idles n c k k') (o : LsOut) : Core.Idles n c k (k'.puts n o) := by
  unfold Core.puts
  split
  case isTrue pair =>
    exact { h with
      outs := fun other => absurd pair other
      rest := by rw [h.rest] }
  case isFalse => exact h

/-- Writes that land change the multiplier's registers alone. -/
theorem Core.foldl_landOne (l : List MpWrite) (k : Core) : l.foldl Core.landOne k = { k with mp := (l.foldl Core.landOne k).mp } := by
  induction l generalizing k with
  | nil => rfl
  | cons x l ih => exact ih (k.landOne x)
theorem Core.Idles.landed (h : Core.Idles n c k k') (l keep : List MpWrite) (none : k'.flight = [] → l = [] ∧ keep = []) :
    Core.Idles n c k { l.foldl Core.landOne k' with flight := keep } := by
  rw [Core.foldl_landOne]
  exact { h with
    mp := fun idle => by
      obtain ⟨mp, flight⟩ := h.mp idle
      obtain ⟨rfl, rfl⟩ := none flight
      exact ⟨mp, rfl⟩
    rest := by rw [h.rest] }
theorem Core.Idles.landDue (h : Core.Idles n c k k') : Core.Idles n c k k'.landDue :=
  h.landed _ _ fun idle => by rw [idle]; exact ⟨rfl, rfl⟩
theorem Core.Idles.landAll (h : Core.Idles n c k k') : ∃ d, Core.Idles n (c + d) k k'.landAll :=
  ⟨_, (h.tick _).landed _ _ fun idle => ⟨idle, rfl⟩⟩

theorem Core.lsStore_eq (k : Core) : k.lsStore = { k with lsstat := (k.lsArm.map lsstatOf).getD k.lsstat, lsArm := none } := by
  unfold Core.lsStore
  split
  case h_1 arm => rw [arm]; rfl
  case h_2 arm => rw [arm]; cases k; subst arm; rfl
/-- A store's forced mismatch is the same whatever cycles pass before it (R373). -/
theorem Core.Idles.lsStore (h : Core.Idles n c k k') : Core.Idles n c k.lsStore k'.lsStore := by
  have arm : k'.lsArm = k.lsArm := by rw [h.rest]
  have stat : k'.lsstat = k.lsstat := by rw [h.rest]
  rw [Core.lsStore_eq, Core.lsStore_eq, arm, stat]
  exact { h with rest := by rw [h.rest] }

/-! ## A Helm core completes an instruction (R341, R343) -/

theorem Core.r_setR (k : Core) (rd x : RegN) (v : Word) : (k.setR rd v).r x = if x = rd then (if rd = 0 then 0 else v) else k.r x := by
  unfold Core.setR Core.r
  by_cases e : x = rd
  · subst e
    by_cases z : x = 0 <;> simp [z]
  · have ne : rd.val ≠ x.val := fun h => e (Fin.ext h.symm)
    by_cases z : rd = 0
    · rw [if_pos z, if_neg e]
    · simp [z, e, ne]

theorem Core.Idles.went (h : Core.Idles n c k k') : Core.went n rs k.pc c k k' :=
  ⟨h.pc, h.cycle, fun x _ => h.r x, h.ipend, h.outs, by rw [h.rest]⟩
theorem Core.went.setR (h : Core.went n rs npc c k k') {rd : RegN} (mem : rd ∈ rs) (v : Word) : Core.went n rs npc c k (k'.setR rd v) := by
  obtain ⟨hpc, hcycle, hr, hipend, houts, hrest⟩ := h
  have keep : ∀ x, x ∉ rs → (k'.setR rd v).r x = k.r x := fun x out => by
    rw [Core.r_setR, if_neg (ne_of_mem_of_not_mem mem out).symm, hr x out]
  by_cases z : rd = 0
  · rw [Core.setR, if_pos z]
    exact ⟨hpc, hcycle, hr, hipend, houts, hrest⟩
  · rw [Core.setR, if_neg z] at keep ⊢
    exact ⟨hpc, hcycle, keep, hipend, houts, by rw [hrest]⟩
theorem Core.went.next (h : Core.went n rs npc c k k') : Core.went n rs (npc + 4) c k k'.next := by
  obtain ⟨hpc, hcycle, hr, hipend, houts, hrest⟩ := h
  exact ⟨congrArg (· + 4) hpc, hcycle, hr, hipend, houts, by rw [hrest]; rfl⟩
theorem Core.went.tick (h : Core.went n rs npc c k k') (d : Nat) : Core.went n rs npc (c + d) k (k'.tick d) := by
  obtain ⟨hpc, hcycle, hr, hipend, houts, hrest⟩ := h
  refine ⟨hpc, ?_, hr, fun i hi => (k'.tick_ipend d hi).trans (hipend i hi), houts, by rw [hrest]; rfl⟩
  rw [show (k'.tick d).cycle = k'.cycle + BitVec.ofNat 64 d from rfl, hcycle, BitVec.ofNat_add, BitVec.add_assoc]
theorem Core.went.loaded (h : Core.went n rs npc c k k') (x : Option RegN) : Core.went n rs npc c k { k' with loaded := x } := by
  obtain ⟨hpc, hcycle, hr, hipend, houts, hrest⟩ := h
  exact ⟨hpc, hcycle, hr, hipend, houts, by rw [hrest]⟩

/-! ## A Helm core enters a handler (R363) -/

theorem Core.Idles.entered (h : Core.Idles n c k k') (landed : k'.flight = []) (stores : k.stores = []) (running : k.running = true)
    (cause ret eval vec : Word) : Core.entered n cause ret eval vec k (Core.enter { k' with posted := none } cause ret eval vec) := by
  have inten : k'.inten = k.inten := by rw [Core.inten, Core.inten, h.status]
  refine ⟨by rw [← inten]; rfl, rfl, rfl, rfl, rfl, h.w, landed, h.stores.trans stores, h.running.trans running, rfl,
    ⟨h.evec, ?_, ?_, ?_, ?_, ?_, ?_, ?_⟩, h.outs, fun i hi => (Core.tick_ipend _ _ hi).trans (h.ipend i hi)⟩
  all_goals rw [h.rest]; rfl

end Sys2Proof.Machine
end

section
namespace Sys2Proof.Machine

variable {s t u : State} {n : CoreN} {srcs : List RegN} {ea : Word} {a size : Nat}

/-! ## States that differ in one core alone -/

theorem State.setCore_setCore (s : State) (n : CoreN) (q q' : Core) : (s.setCore n q).setCore n q' = s.setCore n q' := by
  simp [State.setCore]

/-- The state t differs from s in core n alone, the counter of free values aside. -/
structure State.Beside (n : CoreN) (s t : State) : Prop where
  rest : t = { s with cores := t.cores, freeCtr := t.freeCtr }
  others : onlyCore n s t

theorem State.Beside.refl (n : CoreN) (s : State) : State.Beside n s s := ⟨rfl, fun _ _ => rfl⟩
theorem State.Beside.setCore (h : State.Beside n s t) (q : Core) : State.Beside n s (t.setCore n q) :=
  ⟨by rw [h.rest]; rfl, fun m hm => (State.core_setCore_ne t hm q).trans (h.others m hm)⟩
theorem State.Beside.stallFree (h : State.Beside n s t) : State.Beside n s (t.stallFree n) :=
  State.Beside.setCore (t := t.freeWord.2) ⟨by rw [h.rest]; rfl, h.others⟩ _
theorem State.Beside.gmem (h : State.Beside n s t) : t.gmem = s.gmem := by rw [h.rest]
theorem State.Beside.probs (h : State.Beside n s t) : t.probs = s.probs := by rw [h.rest]
theorem State.Beside.clk (h : State.Beside n s t) : t.clk = s.clk := by rw [h.rest]
theorem State.Beside.byte (h : State.Beside n s t) (a : Nat) : t.byte a = s.byte a := by rw [h.rest]; rfl
theorem State.Beside.bytes (h : State.Beside n s t) (a size : Nat) : t.bytes a size = s.bytes a size := State.bytes_congr fun x _ _ => h.byte x
theorem State.Beside.rd (h : State.Beside n s t) (a : Nat) : t.rd a = s.rd a := by rw [h.rest]; rfl
theorem State.Beside.bad (h : State.Beside n s t) (a size : Nat) : t.bad a size = s.bad a size := by rw [h.rest]; rfl
theorem State.Beside.gateOf (h : State.Beside n s t) (a : Nat) : t.gateOf a = s.gateOf a := by rw [h.rest]; rfl
theorem State.Beside.latching (h : State.Beside n s t) (a : Nat) : t.latching a = s.latching a := by rw [h.rest]; rfl
theorem State.Beside.frame (h : State.Beside n s t) {ps : List Part} {rs : Nat → Prop} (cores : Part.cores ∈ ps) (free : Part.freeCtr ∈ ps) :
    Frame ps rs s t := by
  rw [h.rest]
  exact ((Frame.refl ps rs s).upd_cores (x := t.cores) cores).upd_freeCtr (x := t.freeCtr) free
theorem State.Beside.alone (h : State.Beside n s t) : s.alone n t := ⟨h.others, h.frame (by decide) (by decide)⟩

/-- An operation whose footprint leaves the cores out. -/
theorem Does.core {m : Nat} (d : Does m s t) (out : m.testBit Part.cores.idx = false) (c : CoreN) : t.core c = s.core c :=
  congrArg (fun cores : Vector Core 10 => cores[c]) (d.part .cores out)
/-- A step that makes no access to GDDR6 and none to a slot in its latch is taken. -/
theorem State.unlessHeld_next (gmem : t.gmem = s.gmem) (probs : t.probs = s.probs) : s.unlessHeld t = .next t := by
  have free : s.held t = false := by simp [State.held, State.prob, gmem, probs]
  rw [State.unlessHeld, free]
  rfl
theorem State.finish_running (h : (s.core n).running = true) (f : Core → Core) : s.finish n f = s.setCore n (f (s.core n)) := if_pos h

/-! ## The checks of one word (R340) -/

theorem eccSize_localBase (n : CoreN) {o : Nat} (h : o < 0x20000) : eccSize (localBase n + o) = 4 := by
  have bound : n.val < 10 := n.isLt
  unfold eccSize localBase
  split <;> [skip; split] <;> rw [if_neg (by omega), if_pos (by omega)]
theorem localBase_aligned (n : CoreN) : localBase n % 4 = 0 := by
  unfold localBase
  split <;> [skip; split] <;> omega

/-- The access [a, a + size) lies in one word of a memory with 32-bit words. -/
structure InWord (a size : Nat) : Prop where
  ecc : eccSize a = 4
  ecc_word : eccSize (4 * (a / 4)) = 4
  pos : 0 < size
  fits : a % 4 + size ≤ 4

theorem InWord.eccWords (h : InWord a size) : eccWords a size = [4 * (a / 4)] := by
  have pos := h.pos
  have fits := h.fits
  have one : (a + size + 4 - 1) / 4 - a / 4 = 1 := by omega
  simp only [Machine.eccWords, h.ecc, one]
  rfl
theorem InWord.bad (h : InWord a size) : s.bad (4 * (a / 4)) 4 = s.bad a 1 := by
  have first : 4 * (a / 4) / 4 * 4 / 4 = a / 4 * 4 / 4 := by omega
  have last : (4 * (a / 4) + 4 + 4 - 1) / 4 * 4 / 4 = (a + 1 + 4 - 1) / 4 * 4 / 4 := by omega
  simp only [State.bad, eccUnits, h.ecc, h.ecc_word, first, last]
theorem InWord.findEcc (h : InWord a size) (told : Ecc) : s.findEcc a size [told] =
    ((b2n (s.eccOf (4 * (a / 4)) 4 told == .corrected), s.eccOf (4 * (a / 4)) 4 told != .uncorrectable),
      s.noteEcc (4 * (a / 4)) 4 (s.eccOf (4 * (a / 4)) 4 told)) := by
  unfold State.findEcc
  simp only [h.eccWords, h.ecc, List.zipIdx_cons, List.zipIdx_nil, List.map_cons, List.map_nil, List.getD_cons_zero]
  cases s.eccOf (4 * (a / 4)) 4 told <;> rfl
theorem InWord.bad_setBad (h : InWord a size) : (s.setBad (4 * (a / 4)) 4).bad a 1 = true := by
  rw [← h.bad]
  have units : eccUnits (4 * (a / 4)) 4 = (a / 4, a / 4 + 1) := by
    simp only [eccUnits, h.ecc_word, Prod.mk.injEq]
    omega
  simp only [State.bad, State.setBad, units, List.any_eq_true, decide_eq_true_eq]
  by_cases known : a / 4 ∈ s.flaws
  · exact ⟨a / 4, List.mem_append_left _ known, by omega⟩
  · exact ⟨a / 4, List.mem_append_right _ (by simp [known]), by omega⟩

/-! ## The local memory of a core (R340, R344) -/

/-- An aligned access of `size` bytes at ea that lies in the core's local memories. -/
structure LocalForm (ea : Word) (size : Nat) : Prop where
  within : ea.toNat < 0x20000
  sizes : size = 1 ∨ size = 2 ∨ size = 4
  aligned : ea.toNat % size = 0

theorem LocalForm.isLocal (h : LocalForm ea size) : isLocal ea = true := decide_eq_true (Nat.lt_trans h.within (by decide))
theorem LocalForm.localHole (h : LocalForm ea size) : localHole ea = false := by
  simp [Machine.localHole, Nat.not_le.2 h.within]
theorem LocalForm.inWord (h : LocalForm ea size) (n : CoreN) : InWord (localBase n + ea.toNat) size := by
  have lower := h.within
  have start := localBase_aligned n
  have word : 4 * ((localBase n + ea.toNat) / 4) = localBase n + 4 * (ea.toNat / 4) := by omega
  have aligned := h.aligned
  refine ⟨eccSize_localBase n lower, ?_, ?_, ?_⟩
  · rw [word]
    exact eccSize_localBase n (by omega)
  · rcases h.sizes with rfl | rfl | rfl <;> decide
  · rcases h.sizes with rfl | rfl | rfl <;> omega

theorem State.localRead_clean (h : LocalForm ea size) (good : s.bad (localBase n + ea.toNat) 1 = false) :
    s.localRead n ea size .clean = (some (s.bytes (localBase n + ea.toNat) size), s) := by
  have one := (h.inWord n).findEcc (s := s) .clean
  rw [State.eccOf, (h.inWord n).bad, good] at one
  unfold State.localRead
  dsimp only
  rw [one]
  rfl
/-- What a corrected error in core n's local memory leaves: it is counted on the compute die (R340). -/
def State.corrected (s : State) (n : CoreN) : State := if n.val < 8 then s.count hlmEcccnt 15 0 else s
theorem State.corrected_frame {ps : List Part} : Frame ps (regsOf [hlmEcccnt]) s (s.corrected n) :=
  ((Frame.refl ps _ s).count (List.mem_singleton.2 rfl)).ite (Frame.refl ps _ s)
theorem State.corrected_does (s : State) (n : CoreN) : Does 0x40000000 s (s.corrected n) :=
  Does.ite ((Does.refl _ _).count (by decide)) (Does.refl _ _)
theorem State.localRead_corrected (h : LocalForm ea size) (good : s.bad (localBase n + ea.toNat) 1 = false) :
    s.localRead n ea size .corrected = (some (s.bytes (localBase n + ea.toNat) size), s.corrected n) := by
  have one := (h.inWord n).findEcc (s := s) .corrected
  rw [State.eccOf, (h.inWord n).bad, good] at one
  unfold State.localRead
  dsimp only
  rw [one]
  change (some _, if b2n true ≠ 0 ∧ n.val < 8 then _ else _) = _
  simp only [show (b2n true ≠ 0 ∧ n.val < 8) = (n.val < 8) by simp [b2n]]
  rfl
/-- What an uncorrectable word of core n's local memory leaves (R272, R340). -/
def State.localFault (s : State) (n : CoreN) (ea : Word) : State :=
  let t := s.setBad (4 * ((localBase n + ea.toNat) / 4)) 4
  if n.val < 8 then t.setBit hlmFault (8 + n) true else if n.val = 9 then t.islandFault else t
theorem State.localFault_does (s : State) (n : CoreN) (ea : Word) : Does 0x8c04c241ac1 s (s.localFault n ea) :=
  Does.ite ((Does.setBad.mono (by decide)).setBit (by decide))
    (Does.ite ((State.islandFault_does _).andThen (Does.setBad.mono (by decide)) (by decide)) (Does.setBad.mono (by decide)))
theorem State.localFault_bad (h : InWord (localBase n + ea.toNat) size) : (s.localFault n ea).bad (localBase n + ea.toNat) 1 = true := by
  have flaws : (s.localFault n ea).flaws = (s.setBad (4 * ((localBase n + ea.toNat) / 4)) 4).flaws := by
    unfold State.localFault
    dsimp only
    split
    · rfl
    split
    · exact (State.islandFault_does _).part .flaws (by decide)
    · rfl
  rw [State.bad, flaws]
  exact h.bad_setBad
theorem State.localFault_frame (other : n.val ≠ 9) {ps : List Part} (mem : Part.flaws ∈ ps) : Frame ps (regsOf [hlmFault]) s (s.localFault n ea) := by
  unfold State.localFault
  dsimp only
  rw [if_neg other]
  have marked : Frame ps (regsOf [hlmFault]) s (s.setBad (4 * ((localBase n + ea.toNat) / 4)) 4) := (Frame.refl ps _ s).upd_flaws mem
  exact (marked.setBit (List.mem_singleton.2 rfl)).ite marked
theorem State.localRead_found (h : LocalForm ea size) {told : Ecc} (bad : s.eccOf (4 * ((localBase n + ea.toNat) / 4)) 4 told = .uncorrectable) :
    s.localRead n ea size told = (none, s.localFault n ea) := by
  have one := (h.inWord n).findEcc (s := s) told
  rw [bad] at one
  unfold State.localRead
  dsimp only
  rw [one]
  rfl
theorem State.localRead_uncorrectable (h : LocalForm ea size) : s.localRead n ea size .uncorrectable = (none, s.localFault n ea) :=
  State.localRead_found h (by rw [State.eccOf, ite_self])

/-! ## A boundary at which an instruction issues (R339, R362, R364, R367) -/

theorem State.ready_iff : s.ready n = true ↔ s.coreOn n = true ∧ (s.core n).atBoundary = true ∧ (s.core n).posted = none ∧
    (s.core n).interruptDue = false ∧ (s.core n).wfi = false ∧ Core.fetchable n (s.core n) = true ∧ (s.fetch n).1 = none := by
  simp only [State.ready, Bool.and_eq_true, Bool.not_eq_true', Option.isNone_iff_eq_none, and_assoc]
theorem State.ready_running (h : s.ready n = true) : (s.core n).running = true := by
  obtain ⟨-, boundary, -⟩ := State.ready_iff.1 h
  simp only [Core.atBoundary, Bool.and_eq_true] at boundary
  obtain ⟨⟨⟨running, -⟩, -⟩, -⟩ := boundary
  exact running
theorem State.ready_posted (h : s.ready n = true) : (s.core n).posted = none := by
  obtain ⟨-, -, posted, -⟩ := State.ready_iff.1 h
  exact posted

/-- The sector that a flash operation works on reads with at most one free value (R423). -/
theorem State.flashUnder_beside (n : CoreN) (f : FOp) : State.Beside n s (s.flashUnder f a size).2 := by
  unfold State.flashUnder
  dsimp only
  split
  · exact State.Beside.refl n s
  split
  · exact ⟨rfl, fun _ _ => rfl⟩
  · exact State.Beside.refl n s
/-- A read of the flash array that answers, with its line found clean, leaves the state, a free value aside (R417, R423, R426, R434). -/
theorem State.flashRead_clean (n : CoreN) (h : (s.flashRead a size .clean).1 ≠ none) : State.Beside n s (s.flashRead a size .clean).2 := by
  revert h
  unfold State.flashRead
  extract_lets sector redir under
  clear_value redir under
  dsimp only
  split
  · exact fun h => absurd rfl h
  split
  · exact fun _ => State.Beside.refl n s
  split
  · exact fun h => absurd rfl h
  split
  · split
    · exact fun _ => State.flashUnder_beside n _
    · exact fun _ => State.Beside.refl n s
  · exact fun _ => State.Beside.refl n s

theorem State.fetch_local (h : Machine.isLocal (s.core n).pc = true) (told : Ecc) : s.fetch n told =
    (if (s.localRead n (s.core n).pc 4 told).1.isSome then none else some 7, (s.localRead n (s.core n).pc 4 told).2) := if_pos h
theorem State.fetch_flash (h : Machine.isLocal (s.core n).pc = false) (told : Ecc) : s.fetch n told =
    (if (s.flashRead ((s.core n).segAddr (s.core n).pc) 4 told).1.isSome then none else some 2,
      (s.flashRead ((s.core n).segAddr (s.core n).pc) 4 told).2) := if_neg (by simp [h])
/-- A local read that answers, its word found clean, leaves the state. -/
theorem State.localRead_answers (h : LocalForm ea size) (answers : (s.localRead n ea size .clean).1.isSome = true) :
    (s.localRead n ea size .clean).2 = s := by
  cases known : s.bad (localBase n + ea.toNat) 1
  case false => rw [State.localRead_clean h known]
  case true =>
    rw [State.localRead_found h (by rw [State.eccOf, (h.inWord n).bad, known]; rfl)] at answers
    cases answers
/-- A fetch that answers, its word found clean, leaves the state, a free value of the flash array aside (R339). -/
theorem State.fetch_beside (h : (s.fetch n).1 = none) (source : Core.fetchable n (s.core n) = true) : State.Beside n s (s.fetch n).2 := by
  cases loc : Machine.isLocal (s.core n).pc
  case true =>
    rw [State.fetch_local loc] at h ⊢
    have answers : (s.localRead n (s.core n).pc 4 .clean).1.isSome = true := by
      by_contra none
      rw [if_neg none] at h
      cases h
    have form : LocalForm (s.core n).pc 4 := by
      simp only [Core.fetchable, loc, Bool.and_eq_true, Bool.or_eq_true, beq_iff_eq, decide_eq_true_eq, Bool.not_true,
        Bool.and_false, Bool.false_eq_true, false_and, or_false] at source
      exact ⟨by omega, .inr (.inr rfl), source.1⟩
    dsimp only
    rw [State.localRead_answers form answers]
    exact State.Beside.refl n s
  case false =>
    rw [State.fetch_flash loc] at h ⊢
    refine State.flashRead_clean n fun none => ?_
    rw [none] at h
    cases h
theorem State.fetch_core (told : Ecc) (m : CoreN) : (s.fetch n told).2.core m = s.core m := (s.fetch_does n told).core (by decide) m

/-- Core k after the cycle that an instruction reading the registers srcs waits for a load just before it (R352). -/
def Core.waited (srcs : List RegN) (k : Core) : Core := match k.loaded with
  | some r => if srcs.contains r then k.tick 1 else k
  | none => k
theorem Core.waited_idles (n : CoreN) (srcs : List RegN) (k : Core) : Core.Idles n (k.loadUse srcs) k (k.waited srcs) := by
  unfold Core.waited Core.loadUse
  cases k.loaded with
  | none => exact Core.Idles.refl n k
  | some r =>
    dsimp only
    cases srcs.contains r
    · exact Core.Idles.refl n k
    · exact (Core.Idles.refl n k).tick 1
/-- Core k at the start of an instruction that reads the registers srcs: its fetch has gone out, and the multiplier writes that are due have
landed. -/
def Core.issued (n : CoreN) (srcs : List RegN) (k : Core) : Core :=
  Core.landDue (Core.puts n { k.waited srcs with loaded := none } (.fetch (k.waited srcs).pc))
theorem Core.issued_idles (n : CoreN) (srcs : List RegN) (k : Core) : Core.Idles n (k.loadUse srcs) k (k.issued n srcs) :=
  (((Core.waited_idles n srcs k).loaded none).puts _).landDue
/-- The state in which core n's instruction that reads the registers srcs does its work. -/
def State.issuing (s : State) (n : CoreN) (srcs : List RegN) : State := (s.fetch n).2.setCore n ((s.core n).issued n srcs)
@[simp] theorem State.issuing_core : (s.issuing n srcs).core n = (s.core n).issued n srcs := State.core_setCore_self ..
theorem State.issuing_beside (h : s.ready n = true) (srcs : List RegN) : State.Beside n s (s.issuing n srcs) := by
  obtain ⟨-, -, -, -, -, source, answers⟩ := State.ready_iff.1 h
  exact (State.fetch_beside answers source).setCore _
/-- Core n does its next instruction at once, unless an access of it has to wait. -/
theorem State.issue_ready (h : s.ready n = true) (f : State → State) : s.issue n srcs f = s.unlessHeld (f (s.issuing n srcs)) := by
  obtain ⟨on, boundary, posted, calm, awake, source, answers⟩ := State.ready_iff.1 h
  have woken : s.wake n = s := if_neg (by simp [awake])
  unfold State.issue
  rw [if_neg (by simp [on, boundary])]
  simp only [woken]
  rw [if_neg (by simp [posted]), if_neg (by simp [calm]), if_neg (by simp [source])]
  simp only [answers, State.fetch_core]
  rfl

/-! ## Exceptions of a core whose store buffer is empty (R362, R363) -/

theorem State.waitStores_empty (h : (s.core n).stores = []) : s.waitStores n = s := if_pos (by rw [h]; rfl)
theorem State.drainStores_empty (h : (s.core n).stores = []) : s.drainStores n = s := by
  unfold State.drainStores
  rw [h]
  rfl
/-- With no posted store that could fail, and HDL 0, an exception enters its handler. -/
theorem State.exception_enters (stores : (s.core n).stores = []) (posted : (s.core n).posted = none) (running : (s.core n).running = true)
    (first : (s.core n).status.getLsbD 3 = false) (code : Nat) (ret eval : Word) : s.exception n code ret eval =
      s.setCore n (Core.enter { (s.core n).landAll with posted := none } (BitVec.ofNat 32 code) ret eval (s.core n).evec) := by
  obtain ⟨d, idles⟩ := (Core.Idles.refl n (s.core n)).landAll
  unfold State.exception State.quiesce
  rw [State.waitStores_empty stores]
  simp only [State.core_setCore_self, State.setCore_setCore, idles.posted, idles.running, idles.evec, posted, running, Core.hdl, idles.status, first]
  rfl

end Sys2Proof.Machine
end

section
namespace Sys2Proof.Machine

variable {s t : State} {n : CoreN} {rd ra rb : RegN} {imm : BitVec 16} {ea : Word} {kind size : Nat}

/-! ## Loads of a core's local memory (R340, R344, R345, R352) -/

/-- The state in which core n's load of `size` bytes at ea has put out its address. -/
def State.loading (s : State) (n : CoreN) (ra : RegN) (ea : Word) (size : Nat) : State :=
  (s.issuing n [ra]).setCore n (((s.core n).issued n [ra]).puts n (.load ea size))
theorem State.loading_beside (h : s.ready n = true) (ra : RegN) (ea : Word) (size : Nat) : State.Beside n s (s.loading n ra ea size) :=
  (State.issuing_beside h _).setCore _
theorem State.loading_idles (s : State) (n : CoreN) (ra : RegN) (ea : Word) (size : Nat) :
    Core.Idles n ((s.core n).loadUse [ra]) (s.core n) ((s.loading n ra ea size).core n) := by
  rw [State.loading, State.core_setCore_self]
  exact (Core.issued_idles n [ra] (s.core n)).puts _

/-- The core when a load of v into rd has ended. -/
def Core.loads (k : Core) (rd : RegN) (v : Word) : Core := { (k.setR rd v).next.tick 1 with loaded := if rd = 0 then none else some rd }
theorem Core.r_loads (k : Core) (rd : RegN) (v : Word) : (k.loads rd v).r rd = if rd = 0 then 0 else v :=
  (Core.r_setR k rd rd v).trans (if_pos rfl)
theorem Core.Idles.loads {c : Nat} {k k' : Core} (h : Core.Idles n c k k') (rd : RegN) (v : Word) :
    Core.went n [rd] (k.pc + 4) (c + 1) k (k'.loads rd v) :=
  (((h.went.setR List.mem_cons_self v).next).tick 1).loaded _
theorem Core.Idles.loads_mp {c : Nat} {k k' : Core} (h : Core.Idles n c k k') (rd : RegN) (v : Word) (idle : k.flight = []) :
    (k'.loads rd v).mp = k.mp ∧ (k'.loads rd v).flight = [] := by
  have kept : (k'.loads rd v).mp = k'.mp ∧ (k'.loads rd v).flight = k'.flight := by
    unfold Core.loads Core.setR
    split <;> exact ⟨rfl, rfl⟩
  obtain ⟨mp, flight⟩ := kept
  rw [mp, flight]
  exact h.mp idle

section
variable (h : s.ready n = true) (address : (s.core n).r ra + imm.signExtend 32 = ea) (form : LocalForm ea (loadSize kind))
include h address form

theorem State.loadOp_reads {ecc : Ecc} {bs : List Byte} (read : (s.loading n ra ea (loadSize kind)).localRead n ea (loadSize kind) ecc = (some bs, t)) :
    s.loadOp n rd ra imm kind ecc = s.unlessHeld (t.setCore n ((t.core n).loads rd (loadValue kind bs))) := by
  have reg := (Core.issued_idles n [ra] (s.core n)).r ra
  rw [State.loading] at read
  unfold State.loadOp
  rw [State.issue_ready h]
  simp only [State.issuing_core, sext16, reg, address, form.aligned, form.localHole, form.isLocal, read, ne_eq, not_true_eq_false,
    Bool.false_eq_true, if_false, if_true]
  rfl
theorem State.loadOp_fails {ecc : Ecc} (read : (s.loading n ra ea (loadSize kind)).localRead n ea (loadSize kind) ecc = (none, t)) :
    s.loadOp n rd ra imm kind ecc = s.unlessHeld (t.exception n 7 (s.core n).pc ea) := by
  have idles := Core.issued_idles n [ra] (s.core n)
  rw [State.loading] at read
  unfold State.loadOp
  rw [State.issue_ready h]
  simp only [State.issuing_core, sext16, idles.r, idles.pc, address, form.aligned, form.localHole, form.isLocal, read, ne_eq, not_true_eq_false,
    Bool.false_eq_true, if_false, if_true]

/-- A load of words that are not in error, found clean. -/
theorem State.loadOp_clean (good : s.bad (localBase n + ea.toNat) 1 = false) : ∃ t, s.loadOp n rd ra imm kind .clean = .next t ∧
    (t.core n).r rd = (if rd = 0 then 0 else loadValue kind (s.bytes (localBase n + ea.toNat) (loadSize kind))) ∧
    s.ran n [rd] ((s.core n).pc + 4) ((s.core n).loadUse [ra] + 1) t ∧ (t.core n).loaded = if rd = 0 then none else some rd := by
  have beside := State.loading_beside h ra ea (loadSize kind)
  have idles := s.loading_idles n ra ea (loadSize kind)
  have read := State.localRead_clean form ((beside.bad _ _).trans good)
  rw [beside.bytes] at read
  refine ⟨_, (State.loadOp_reads h address form read).trans (State.unlessHeld_next beside.gmem beside.probs), ?_⟩
  rw [State.ran, State.core_setCore_self]
  exact ⟨Core.r_loads .., ⟨idles.loads rd _, (beside.setCore _).alone, idles.loads_mp rd _⟩, rfl⟩
/-- A single-bit error in the word that a load reads is corrected, and counted on the compute die. -/
theorem State.loadOp_corrected (good : s.bad (localBase n + ea.toNat) 1 = false) : ∃ t, s.loadOp n rd ra imm kind .corrected = .next t ∧
    (t.core n).r rd = (if rd = 0 then 0 else loadValue kind (s.bytes (localBase n + ea.toNat) (loadSize kind))) ∧
    Core.went n [rd] ((s.core n).pc + 4) ((s.core n).loadUse [ra] + 1) (s.core n) (t.core n) ∧
    (n.val < 8 → t.fld hlmEcccnt 15 0 = Nat.min (s.fld hlmEcccnt 15 0 + 1) 0xFFFF) ∧ onlyCore n s t ∧
    Frame [.cores, .freeCtr] (regsOf [hlmEcccnt]) s t := by
  have beside := State.loading_beside h ra ea (loadSize kind)
  have idles := s.loading_idles n ra ea (loadSize kind)
  have read := State.localRead_corrected form ((beside.bad _ _).trans good)
  rw [beside.bytes] at read
  refine ⟨_, (State.loadOp_reads h address form read).trans (State.unlessHeld_next ?_ ?_), ?_⟩
  · rw [State.setCore_gmem, (State.corrected_does _ n).part .gmem (by decide), beside.gmem]
  · rw [State.setCore_probs, (State.corrected_does _ n).part .probs (by decide), beside.probs]
  rw [State.core_setCore_self, ((s.loading n ra ea (loadSize kind)).corrected_does n).core (by decide)]
  refine ⟨Core.r_loads .., idles.loads rd _, fun die => ?_, fun m hm => ?_,
    ((beside.frame (by decide) (by decide)).trans State.corrected_frame).setCore (by decide)⟩
  · rw [State.setCore_fld, State.corrected, if_pos die, State.count, State.fld_setFld_self _ (by decide) (by decide), State.fld, beside.rd, ← State.fld]
    exact Nat.mod_eq_of_lt (Nat.lt_of_le_of_lt (Nat.min_le_right _ _) (by decide))
  · rw [State.core_setCore_ne _ hm, ((s.loading n ra ea (loadSize kind)).corrected_does n).core (by decide)]
    exact beside.others m hm
/-- An uncorrectable word that a load reads raises code 7. -/
theorem State.loadOp_uncorrectable (empty : (s.core n).stores = []) (first : (s.core n).status.getLsbD 3 = false) :
    ∃ t, s.loadOp n rd ra imm kind .uncorrectable = .next t ∧ Core.entered n 7 (s.core n).pc ea (s.core n).evec (s.core n) (t.core n) ∧
    t.bad (localBase n + ea.toNat) 1 = true ∧ (n.val < 8 → t.bit hlmFault (8 + n) = true) ∧ onlyCore n s t ∧
    (n.val = 9 → t.saf.islandFault = true) ∧ (n.val ≠ 9 → Frame [.cores, .freeCtr, .flaws] (regsOf [hlmFault]) s t) := by
  have beside := State.loading_beside h ra ea (loadSize kind)
  have idles := s.loading_idles n ra ea (loadSize kind)
  have fault := State.loadOp_fails (rd := rd) h address form (State.localRead_uncorrectable form)
  generalize s.loading n ra ea (loadSize kind) = u at beside idles fault
  have core := (u.localFault_does n ea).core (by decide)
  rw [← core n] at idles
  rw [State.exception_enters (idles.stores.trans empty) (idles.posted.trans (State.ready_posted h)) (idles.running.trans (State.ready_running h))
    (by rw [idles.status, first]), idles.evec] at fault
  obtain ⟨d, landed⟩ := idles.landAll
  refine ⟨_, fault.trans (State.unlessHeld_next ?_ ?_), ?_, ?_, fun die => ?_, fun m hm => ?_, fun island => ?_, fun other => ?_⟩
  · rw [State.setCore_gmem, (u.localFault_does n ea).part .gmem (by decide), beside.gmem]
  · rw [State.setCore_probs, (u.localFault_does n ea).part .probs (by decide), beside.probs]
  · rw [State.core_setCore_self]
    exact landed.entered rfl empty (State.ready_running h) _ _ _ _
  · exact State.localFault_bad (form.inWord n)
  · rw [State.setCore_bit, State.localFault, if_pos die]
    exact State.bit_setBit_self _ _ (by omega)
  · rw [State.core_setCore_ne _ hm, core]
    exact beside.others m hm
  · rw [State.setCore_saf, State.localFault, if_neg (by omega), if_pos island]
    rfl
  · exact (Frame.trans (beside.frame (by decide) (by decide)) (State.localFault_frame other (by decide))).setCore (by decide)
end

theorem loadValue_word (s : State) (a : Nat) : loadValue 0 (s.bytes a 4) = BitVec.ofNat 32 (s.le a 4) := rfl
theorem loadValue_half (s : State) (a : Nat) : loadValue 1 (s.bytes a 2) = (BitVec.ofNat 16 (s.le a 2)).signExtend 32 := rfl
theorem loadValue_halfUnsigned (s : State) (a : Nat) : loadValue 2 (s.bytes a 2) = BitVec.ofNat 32 (s.le a 2) := rfl
theorem ofLE_byte (s : State) (a : Nat) : ofLE (s.bytes a 1) = (s.byte a).toNat := by simp [State.bytes, ofLE]
theorem loadValue_byte (s : State) (a : Nat) : loadValue 3 (s.bytes a 1) = (s.byte a).signExtend 32 := by
  change (BitVec.ofNat 8 (ofLE (s.bytes a 1))).signExtend 32 = _
  rw [ofLE_byte, BitVec.ofNat_toNat, BitVec.setWidth_eq]
theorem loadValue_byteUnsigned (s : State) (a : Nat) : loadValue 4 (s.bytes a 1) = (s.byte a).zeroExtend 32 := by
  change BitVec.ofNat 32 (ofLE (s.bytes a 1)) = _
  rw [ofLE_byte, BitVec.ofNat_toNat]

end Sys2Proof.Machine
end

section
namespace Sys2Proof.Machine

variable {s t : State} {n : CoreN} {rd rs ra rb : RegN} {imm : BitVec 16} {ea v : Word} {size a : Nat}

/-! ## Stores to a core's local memory (R344, R345, R352, R373) -/

theorem getElem_toLE (size x : Nat) {j : Nat} (h : j < (toLE size x).length) : (toLE size x)[j] = BitVec.ofNat 8 (x / 256 ^ j) := by
  induction size generalizing x j with
  | zero => exact absurd h (Nat.not_lt_zero j)
  | succ size ih =>
    cases j with
    | zero => simp [toLE]
    | succ j => simp only [toLE, List.getElem_cons_succ, ih, Nat.div_div_eq_div_mul, pow_succ']
/-- The bytes of a number written at a. -/
theorem State.byte_setBytes_toLE (s : State) (a size x : Nat) {j : Nat} (h : j < size) :
    (s.setBytes a (toLE size x)).byte (a + j) = BitVec.ofNat 8 (x / 256 ^ j) := by
  have within : a ≤ a + j ∧ a + j < a + (toLE size x).length := by
    rw [length_toLE]
    omega
  rw [State.byte_setBytes, dif_pos within]
  simp only [Nat.add_sub_cancel_left, getElem_toLE]
theorem State.byte_setBytes_toLE_ne (s : State) {a size x b : Nat} (h : ¬ (a ≤ b ∧ b < a + size)) :
    (s.setBytes a (toLE size x)).byte b = s.byte b :=
  State.byte_setBytes_ne s (by rw [length_toLE]; omega)
theorem State.le_setBytes_toLE (s : State) (a : Nat) (v : Word) : (s.setBytes a (toLE 4 v.toNat)).le a 4 = v.toNat := by
  have bytes := State.bytes_setBytes_self s (toLE 4 v.toNat) a
  rw [length_toLE] at bytes
  rw [State.le, bytes, ofLE_toLE]
  exact Nat.mod_eq_of_lt (Nat.lt_of_lt_of_eq v.isLt (by decide))
theorem State.setCore_le (s : State) (n : CoreN) (q : Core) (a size : Nat) : (s.setCore n q).le a size = s.le a size :=
  congrArg ofLE (State.bytes_of_mem (t := s.setCore n q) (u := s) rfl size a)

theorem Core.lsStore_pc (k : Core) : k.lsStore.pc = k.pc := by rw [Core.lsStore_eq]
theorem Core.lsStore_segAddr (k : Core) (ea : Word) : k.lsStore.segAddr ea = k.segAddr ea := by
  rw [Core.lsStore_eq]
  rfl
theorem Core.lsStore_r (k : Core) (x : RegN) : k.lsStore.r x = k.r x := by
  rw [Core.lsStore_eq]
  rfl
theorem Core.lsStore_running (k : Core) : k.lsStore.running = k.running := by rw [Core.lsStore_eq]
theorem Core.lsStore_stores (k : Core) : k.lsStore.stores = k.stores := by rw [Core.lsStore_eq]
theorem Core.Idles.putsStore {c : Nat} {k k' : Core} (h : Core.Idles n c k k') (ea v : Word) (size : Nat) :
    Core.Idles n c k.lsStore (k'.putsStore n ea v size) := (h.puts _).lsStore

/-- Core n when its store of w[rs] at ea, `size` bytes, has gone out. -/
def State.storing (s : State) (n : CoreN) (rs ra : RegN) (ea : Word) (size : Nat) : Core :=
  ((s.core n).issued n [rs, ra]).putsStore n ea ((s.core n).r rs) size
theorem State.issued_putsStore : ((s.core n).issued n [rs, ra]).putsStore n ea ((s.core n).r rs) size = s.storing n rs ra ea size := rfl
theorem State.storing_idles (s : State) (n : CoreN) (rs ra : RegN) (ea : Word) (size : Nat) :
    Core.Idles n ((s.core n).loadUse [rs, ra]) (s.core n).lsStore (s.storing n rs ra ea size) := (Core.issued_idles ..).putsStore ..
theorem State.storing_running (h : s.ready n = true) (rs ra : RegN) (ea : Word) (size : Nat) : (s.storing n rs ra ea size).running = true := by
  rw [(s.storing_idles n rs ra ea size).running, Core.lsStore_running, State.ready_running h]

theorem isLocal_eq_false (far : 2 ^ 28 ≤ ea.toNat) : isLocal ea = false := decide_eq_false (Nat.not_lt.2 far)
theorem localHole_eq_false (far : 2 ^ 28 ≤ ea.toNat) : localHole ea = false := by rw [localHole, isLocal_eq_false far, Bool.false_and]

section
variable (h : s.ready n = true) (address : (s.core n).r ra + imm.signExtend 32 = ea)
include h address

theorem State.storeOp_of_coreStore {u : State} (store : (s.issuing n [rs, ra]).coreStore n ea ((s.core n).r rs) size true = (none, u))
    (running : (u.core n).running = true) :
    s.storeOp n rs ra imm size = s.unlessHeld (u.setCore n ((u.core n).next.tick 1)) := by
  have idles := Core.issued_idles n [rs, ra] (s.core n)
  unfold State.storeOp
  rw [State.issue_ready h]
  simp only [State.issuing_core, sext16, idles.r, address, store, State.finish_running running]

theorem State.storeOp_local (form : LocalForm ea size) : ∃ t, s.storeOp n rs ra imm size = .next t ∧
    Core.went n [] ((s.core n).pc + 4) ((s.core n).loadUse [rs, ra] + 1) (s.core n).lsStore (t.core n) ∧
    (∀ j < size, t.byte (localBase n + ea.toNat + j) = BitVec.ofNat 8 (((s.core n).r rs).toNat / 256 ^ j)) ∧
    (∀ x, ¬ (localBase n + ea.toNat ≤ x ∧ x < localBase n + ea.toNat + size) → t.byte x = s.byte x) ∧
    onlyCore n s t ∧ Frame [.mem, .cores, .freeCtr, .flaws] noReg s t := by
  have beside := State.issuing_beside h [rs, ra]
  have store : (s.issuing n [rs, ra]).coreStore n ea ((s.core n).r rs) size true =
      (none, ((s.issuing n [rs, ra]).store (localBase n + ea.toNat) (toLE size ((s.core n).r rs).toNat)).setCore n (s.storing n rs ra ea size)) := by
    simp only [State.coreStore, form.aligned, form.localHole, form.isLocal, State.issuing_core, ne_eq, not_true_eq_false, Bool.false_eq_true,
      if_false, if_true, State.issued_putsStore]
  have run := State.storeOp_of_coreStore h address store (by rw [State.core_setCore_self, State.storing_running h])
  simp only [State.core_setCore_self, State.setCore_setCore] at run
  refine ⟨_, run.trans (State.unlessHeld_next ((Does.store.part .gmem (by decide)).trans beside.gmem)
    ((Does.store.part .probs (by decide)).trans beside.probs)), ?_, fun j hj => ?_, fun x out => ?_, fun m hm => ?_, ?_⟩
  · rw [State.core_setCore_self, ← Core.lsStore_pc]
    exact ((s.storing_idles n rs ra ea size).went.next).tick 1
  · exact State.byte_setBytes_toLE _ _ _ _ hj
  · exact (State.byte_setBytes_toLE_ne _ out).trans (beside.byte x)
  · rw [State.core_setCore_ne _ hm, Does.store.core (by decide)]
    exact beside.others m hm
  · exact ((beside.frame (by decide) (by decide)).store (by decide) (by decide) _ _).setCore (by decide)

/-! ## Loads and stores beyond the local memories (R344, R346) -/


theorem State.loadOp_waits {kind : Nat} (far : 2 ^ 28 ≤ ea.toNat) (aligned : ea.toNat % loadSize kind = 0) (empty : (s.core n).stores = []) (ecc : Ecc) :
    ∃ t, s.loadOp n rd ra imm kind ecc = .next t ∧ (t.core n).pend =
      some { rd, addr := (s.core n).segAddr ea, ea, kind, gate := s.gateOf ((s.core n).segAddr ea) } ∧
    (t.core n).pc = (s.core n).pc ∧ (∀ x, (t.core n).r x = (s.core n).r x) ∧ s.alone n t := by
  have beside := State.loading_beside h ra ea (loadSize kind)
  have idles := s.loading_idles n ra ea (loadSize kind)
  have run : s.loadOp n rd ra imm kind ecc = s.unlessHeld (State.finish (State.drainStores (s.loading n ra ea (loadSize kind)) n) n fun k =>
      { k with pend := some { rd, addr := k.segAddr ea, ea, kind, gate := (s.loading n ra ea (loadSize kind)).gateOf (k.segAddr ea) } }) := by
    unfold State.loadOp
    rw [State.issue_ready h]
    simp only [State.issuing_core, sext16, (Core.issued_idles n [ra] (s.core n)).r, address, aligned, localHole_eq_false far, isLocal_eq_false far,
      ne_eq, not_true_eq_false, Bool.false_eq_true, if_false, State.loading]
  rw [State.drainStores_empty (idles.stores.trans empty), State.finish_running (idles.running.trans (State.ready_running h)), idles.segAddr,
    beside.gateOf] at run
  refine ⟨_, run.trans (State.unlessHeld_next beside.gmem beside.probs), ?_, ?_, fun x => ?_, (beside.setCore _).alone⟩ <;>
    rw [State.core_setCore_self]
  · exact idles.pc
  · exact idles.r x

theorem State.storeOp_posts (far : 2 ^ 28 ≤ ea.toNat) (aligned : ea.toNat % size = 0) (empty : (s.core n).stores = []) :
    ∃ t, s.storeOp n rs ra imm size = .next t ∧ (t.core n).stores =
      [{ addr := (s.core n).segAddr ea, ea, size, val := (s.core n).r rs, gate := s.gateOf ((s.core n).segAddr ea) }] ∧
    (t.core n).pc = (s.core n).pc + 4 ∧ (∀ x, (t.core n).r x = (s.core n).r x) ∧ (t.core n).lsstat = (s.core n).lsStore.lsstat ∧ s.alone n t := by
  have idles := s.storing_idles n rs ra ea size
  have running := State.storing_running h rs ra ea size
  have buffer : (s.storing n rs ra ea size).stores = [] := by rw [idles.stores, Core.lsStore_stores, empty]
  have stepped := State.Beside.setCore (State.issuing_beside h [rs, ra])
  have store : (s.issuing n [rs, ra]).coreStore n ea ((s.core n).r rs) size true = (none, (s.issuing n [rs, ra]).setCore n { s.storing n rs ra ea size with
        stores := [{ addr := (s.core n).segAddr ea, ea, size, val := (s.core n).r rs, gate := s.gateOf ((s.core n).segAddr ea) }] }) := by
    unfold State.coreStore
    simp only [aligned, localHole_eq_false far, isLocal_eq_false far, State.issuing_core, ne_eq, not_true_eq_false, Bool.false_eq_true,
      Bool.not_true, if_false, State.core_setCore_self, State.issued_putsStore, buffer]
    rw [if_neg (by decide), State.finish_running (by rw [State.core_setCore_self, running])]
    simp only [State.core_setCore_self, State.setCore_setCore, buffer, (stepped _).gateOf, idles.segAddr, Core.lsStore_segAddr, List.nil_append]
  have run := State.storeOp_of_coreStore h address store (by rw [State.core_setCore_self]; exact running)
  simp only [State.core_setCore_self, State.setCore_setCore] at run
  refine ⟨_, run.trans (State.unlessHeld_next (stepped _).gmem (stepped _).probs), ?_, ?_, fun x => ?_, ?_, (stepped _).alone⟩ <;>
    rw [State.core_setCore_self]
  · rfl
  · exact congrArg (· + 4) (idles.pc.trans (Core.lsStore_pc _))
  · exact (idles.r x).trans (Core.lsStore_r _ x)
  · change (s.storing n rs ra ea size).lsstat = _
    rw [idles.rest]
end

/-! ## Writes of period SRAM by a core (R63, R86) -/

section
variable {bs : List Byte} (free : ∀ i < bs.length, moduleByte (a + i) = false)
include free

/-- Of bytes that are not the module's none is left out. -/
theorem sramWrite_cells : ((bs.zipIdx.map fun b => (a + b.2, b.1)).filter fun c => !moduleByte c.1) = bs.zipIdx.map fun b => (a + b.2, b.1) := by
  rw [List.filter_eq_self]
  intro c hc
  obtain ⟨⟨b, i⟩, mem, rfl⟩ := List.mem_map.1 hc
  have lower : i < bs.length := by
    have := List.snd_lt_of_mem_zipIdx mem
    simpa using this
  simp [free i lower]
theorem State.sramWrite_open (short : bs.length < 8) (latch : s.latching a = false) : s.sramWrite a bs = s.setBytes a bs := by
  have put : s.sramPut (a, bs) = s.setBytes a bs := if_pos short
  unfold State.sramWrite
  simp only [sramWrite_cells free, latch, if_true, put, Bool.false_eq_true, if_false]
  split
  · exact put
  · rfl
theorem State.sramWrite_latching {p : Slot} (slot : slotAt a = some p) (latch : s.latching a = true) :
    s.sramWrite a bs = s.setProb p { s.prob p with stalled := (s.prob p).stalled ++ [(a, bs)] } := by
  unfold State.sramWrite
  simp only [sramWrite_cells free, slot, latch, if_true]
end

theorem State.unlatched (h : ∀ p, slotAt a = some p → s.phase p ≠ 1) : s.latching a = false := by
  unfold State.latching
  split
  case h_1 p slot => simpa using h p slot
  case h_2 => rfl

/-! ## Atomics (R347, R348) -/

/-- Core n's atomic on the word of period SRAM at w[ra] can be made: it is no word of the module, not in error, the store buffer is empty, and a
Binnacle core finds the compute die in Run. -/
structure State.Reaches (s : State) (n : CoreN) (ra : RegN) : Prop where
  ready : s.ready n = true
  aligned : ((s.core n).r ra).toNat % 4 = 0
  far : 2 ^ 28 ≤ ((s.core n).r ra).toNat
  sram : isPeriodSram ((s.core n).segAddr ((s.core n).r ra)) = true
  up : s.clk.cdUp = true
  empty : (s.core n).stores = []
  run : n.val < 8 ∨ s.clk.power = .run
  good : s.bad ((s.core n).segAddr ((s.core n).r ra)) 4 = false
  free : ∀ i < 4, moduleByte ((s.core n).segAddr ((s.core n).r ra) + i) = false

/-- The core when its atomic at ea has read `old` into rd and written v. -/
def Core.swaps (k : Core) (n : CoreN) (rd : RegN) (ea old v : Word) : Core :=
  ((((k.puts n (.load ea 4)).putsStore n ea v 4).setR rd old).next).tick 16
theorem Core.Idles.swaps {c : Nat} {k k' : Core} (h : Core.Idles n c k k') (rd : RegN) (ea old v : Word) :
    Core.went n [rd] (k.pc + 4) (c + 16) k.lsStore (k'.swaps n rd ea old v) := by
  rw [← Core.lsStore_pc]
  exact ((((h.puts _).putsStore ea v 4).went.setR List.mem_cons_self old).next).tick 16
theorem Core.r_swaps (k : Core) (n : CoreN) (rd : RegN) (ea old v : Word) : (k.swaps n rd ea old v).r rd = if rd = 0 then 0 else old :=
  (Core.r_setR _ rd rd old).trans (if_pos rfl)

/-- The state in which core n's atomic reaches its word: the core has stalled for as long as the manual leaves open. -/
def State.swapping (s : State) (n : CoreN) (ra rb : RegN) : State := (s.issuing n [ra, rb]).stallFree n
theorem State.swapping_beside (h : s.ready n = true) (ra rb : RegN) : State.Beside n s (s.swapping n ra rb) := (State.issuing_beside h _).stallFree
theorem State.swapping_idles (s : State) (n : CoreN) (ra rb : RegN) :
    ∃ stall, Core.Idles n ((s.core n).loadUse [ra, rb] + stall) (s.core n) ((s.swapping n ra rb).core n) := by
  refine ⟨(s.issuing n [ra, rb]).freeWord.1.toNat, ?_⟩
  have core : (s.swapping n ra rb).core n = ((s.issuing n [ra, rb]).core n).tick (s.issuing n [ra, rb]).freeWord.1.toNat := State.core_setCore_self ..
  rw [core, State.issuing_core]
  exact (Core.issued_idles ..).tick _

theorem State.atomicOp_reaches (h : s.Reaches n ra) (f : Word → Word → Word) : s.atomicOp n rd ra rb f =
    let a := (s.core n).segAddr ((s.core n).r ra)
    let old := BitVec.ofNat 32 (s.le a 4)
    let v := f old ((s.core n).r rb)
    s.unlessHeld (((s.swapping n ra rb).sramWrite a (toLE 4 v.toNat)).setCore n
      (((s.swapping n ra rb).core n).swaps n rd ((s.core n).r ra) old v)) := by
  have idles := Core.issued_idles n [ra, rb] (s.core n)
  have beside := State.issuing_beside h.ready [ra, rb]
  have die : (s.issuing n [ra, rb]).dieOk ((s.core n).segAddr ((s.core n).r ra)) = true := State.dieOk_of_cdUp (by rw [beside.clk, h.up])
  have powered : (decide (8 ≤ n.val) && (s.issuing n [ra, rb]).clk.power != .run) = false := by
    rw [beside.clk]
    rcases h.run with lower | run
    · simp [Nat.not_le.2 lower]
    · simp [run]
  have le (x : Nat) : (s.swapping n ra rb).le x 4 = s.le x 4 := congrArg ofLE ((State.swapping_beside h.ready ra rb).bytes x 4)
  unfold State.atomicOp
  rw [State.issue_ready h.ready]
  simp only [State.issuing_core, idles.r, idles.segAddr, h.aligned, isLocal_eq_false h.far, h.sram, die, powered, beside.bad, h.good,
    State.drainStores_empty (State.issuing_core.symm ▸ idles.stores.trans h.empty), ne_eq, not_true_eq_false, Bool.not_true, Bool.or_false,
    Bool.false_eq_true, if_false]
  obtain ⟨stall, idle⟩ := s.swapping_idles n ra rb
  have running := ((idle.puts (.load ((s.core n).r ra) 4)).putsStore ((s.core n).r ra)
    (f (BitVec.ofNat 32 (s.le ((s.core n).segAddr ((s.core n).r ra)) 4)) ((s.core n).r rb)) 4).running
  rw [Core.lsStore_running, State.ready_running h.ready] at running
  simp only [show (s.issuing n [ra, rb]).stallFree n = s.swapping n ra rb from rfl, le]
  rw [State.finish_running (by rw [State.core_setCore_self, running])]
  simp only [State.core_setCore_self, State.setCore_setCore]
  rfl

/-- An atomic whose slot is in no latch. -/
theorem State.atomicOp_swaps (h : s.Reaches n ra) (latch : s.latching ((s.core n).segAddr ((s.core n).r ra)) = false) (f : Word → Word → Word) :
    let a := (s.core n).segAddr ((s.core n).r ra)
    let old := BitVec.ofNat 32 (s.le a 4)
    ∃ t stall, s.atomicOp n rd ra rb f = .next t ∧ (t.core n).r rd = (if rd = 0 then 0 else old) ∧
      Core.went n [rd] ((s.core n).pc + 4) ((s.core n).loadUse [ra, rb] + stall + 16) (s.core n).lsStore (t.core n) ∧
      t.le a 4 = (f old ((s.core n).r rb)).toNat ∧ (∀ x, ¬ (a ≤ x ∧ x < a + 4) → t.byte x = s.byte x) ∧ onlyCore n s t ∧
      Frame [.mem, .cores, .freeCtr] noReg s t := by
  intro a old
  have beside := State.swapping_beside h.ready ra rb
  obtain ⟨stall, idles⟩ := s.swapping_idles n ra rb
  have write := State.sramWrite_open (s := s.swapping n ra rb) (bs := toLE 4 (f old ((s.core n).r rb)).toNat) (by rw [length_toLE]; exact h.free)
    (by rw [length_toLE]; decide) ((beside.latching a).trans latch)
  have run := State.atomicOp_reaches (rd := rd) (rb := rb) h f
  dsimp only at run
  rw [write] at run
  have wrote := Does.setBytes (s := s.swapping n ra rb) (a := a) (bs := toLE 4 (f old ((s.core n).r rb)).toNat)
  refine ⟨_, stall, run.trans (State.unlessHeld_next ((wrote.part .gmem (by decide)).trans beside.gmem)
    ((wrote.part .probs (by decide)).trans beside.probs)),
    ?_, ?_, ?_, fun x out => ?_, fun m hm => ?_, ?_⟩
  · rw [State.core_setCore_self]
    exact Core.r_swaps ..
  · rw [State.core_setCore_self]
    exact idles.swaps ..
  · rw [State.setCore_le, State.le_setBytes_toLE]
  · rw [State.setCore_byte, State.byte_setBytes_toLE_ne _ out, beside.byte]
  · rw [State.core_setCore_ne _ hm]
    exact (wrote.core (by decide) m).trans (beside.others m hm)
  · exact (State.setBytes_frame (beside.frame (by decide) (by decide)) (by decide) _ _).setCore (by decide)
/-- An atomic on a slot in its latch waits (R86, R347). -/
theorem State.atomicOp_stalls (h : s.Reaches n ra) (latch : s.latching ((s.core n).segAddr ((s.core n).r ra)) = true) (f : Word → Word → Word) :
    s.atomicOp n rd ra rb f = .next s := by
  have beside := State.swapping_beside h.ready ra rb
  have run := State.atomicOp_reaches (rd := rd) (rb := rb) h f
  dsimp only at run
  obtain ⟨p, slot⟩ : ∃ p, slotAt ((s.core n).segAddr ((s.core n).r ra)) = some p := by
    rw [← Option.isSome_iff_exists]
    by_contra none
    rw [State.latching, Option.not_isSome_iff_eq_none.1 none] at latch
    cases latch
  rw [State.sramWrite_latching (by rw [length_toLE]; exact h.free) slot ((beside.latching _).trans latch)] at run
  rw [run, State.unlessHeld, if_pos]
  have longer : (s.prob p).stalled.length < ((s.swapping n ra rb).prob p).stalled.length + 1 := by
    rw [State.prob, State.prob, beside.probs]
    exact Nat.lt_succ_self _
  simp only [State.held, Bool.or_eq_true, List.any_eq_true, decide_eq_true_eq]
  refine .inr ⟨p, List.mem_finRange p, ?_⟩
  simpa using longer

end Sys2Proof.Machine
end

section
namespace Sys2Proof.Machine

/-- Settles O35: loads, stores and atomics, each by what its shared operation does at a boundary where it issues. -/
theorem helmLocalAccess : Obligations.HelmLocalAccess := by
  intro s n rd ra rb imm ready k ea base dest loads stores atomic
  have load (kind : Nat) (i : Ecc → Instr) (v : Word) (form : LocalForm ea (loadSize kind)) (run : ∀ e, exec (i e) s = s.loadOp n rd ra imm kind e)
      (value : loadValue kind (s.bytes base (loadSize kind)) = v) : loads i v := by
    subst value
    refine ⟨fun good => ⟨?_, ?_⟩, fun empty first => ?_⟩ <;> rw [run]
    · exact State.loadOp_clean ready rfl form good
    · exact State.loadOp_corrected ready rfl form good
    · exact State.loadOp_uncorrectable ready rfl form empty first
  have store (i : Instr) (size : Nat) (form : LocalForm ea size) (run : exec i s = s.storeOp n rd ra imm size) : stores i size := by
    obtain ⟨t, next, after⟩ := State.storeOp_local ready rfl form
    exact ⟨t, run.trans next, after⟩
  have atom (i : Instr) (f : Word → Word → Word) (reach : s.Reaches n ra) (unlatched : s.latching (k.segAddr (k.r ra)) = false)
      (run : exec i s = s.atomicOp n rd ra rb f) : atomic i f := by
    obtain ⟨t, stall, next, after⟩ := State.atomicOp_swaps reach unlatched f
    exact ⟨t, stall, run.trans next, after⟩
  refine ⟨fun within => ⟨fun aligned => ?_, fun aligned => ?_, ?_, ?_, ?_⟩, fun far aligned empty => ⟨?_, ?_⟩,
    fun aligned far sram up empty run good free slot => ?_, fun aligned far sram up empty run good free latched => ?_⟩
  · have form : LocalForm ea 4 := ⟨within, .inr (.inr rfl), aligned⟩
    exact ⟨load 0 _ _ form (fun _ => rfl) (loadValue_word s base), store _ 4 form rfl⟩
  · have form : LocalForm ea 2 := ⟨within, .inr (.inl rfl), aligned⟩
    exact ⟨load 1 _ _ form (fun _ => rfl) (loadValue_half s base), load 2 _ _ form (fun _ => rfl) (loadValue_halfUnsigned s base), store _ 2 form rfl⟩
  · exact load 3 _ _ ⟨within, .inl rfl, Nat.mod_one _⟩ (fun _ => rfl) (loadValue_byte s base)
  · exact load 4 _ _ ⟨within, .inl rfl, Nat.mod_one _⟩ (fun _ => rfl) (loadValue_byteUnsigned s base)
  · exact store _ 1 ⟨within, .inl rfl, Nat.mod_one _⟩ rfl
  · exact State.loadOp_waits ready rfl far aligned empty
  · exact State.storeOp_posts ready rfl far aligned empty
  · have reach : s.Reaches n ra := ⟨ready, aligned, far, sram, up, empty, run, good, free⟩
    have unlatched := State.unlatched fun p found => (slot p found).1
    exact ⟨atom _ (fun _ b => b) reach unlatched rfl, atom _ (fun a b => a + b) reach unlatched rfl, atom _ (fun a b => a &&& b) reach unlatched rfl,
      atom _ (fun a b => a ||| b) reach unlatched rfl⟩
  · have reach : s.Reaches n ra := ⟨ready, aligned, far, sram, up, empty, run, good, free⟩
    have stalls := State.atomicOp_stalls (rd := rd) (rb := rb) reach latched
    simp only [List.mem_cons, List.not_mem_nil, or_false, forall_eq_or_imp, forall_eq]
    exact ⟨stalls fun _ b => b, stalls fun a b => a + b, stalls fun a b => a &&& b, stalls fun a b => a ||| b⟩

end Sys2Proof.Machine
end

section
namespace Sys2Proof.Machine

variable {s : State}

/-! ## Writes of the PER page (R32, R34, R59) -/

/-- EN set while a period runs: a stop that was asked is off. -/
theorem State.marksOn_running (h : s.per.running = true) :
    s.marksOn = (s.setBit perCtrl 0 true).setPer { s.per with stopPending := false } := by
  unfold State.marksOn
  exact if_pos h
/-- EN set with no period running and no first mark pending: the first mark is pending. -/
theorem State.marksOn_idle (run : s.per.running = false) (first : s.per.firstPending = false) : s.marksOn =
    State.wr ((s.setBit perCtrl 0 true).setPer { s.per with firstPending := true, chainSrc := (s.setBit perCtrl 0 true).bit perCtrl 1 }) perCount 0 := by
  unfold State.marksOn
  dsimp only
  rw [State.setBit_per, run, first]
  rfl
theorem State.marksOn_frame : Frame [.per] (regsOf [perCtrl, perCount]) s s.marksOn := by
  have enabled : Frame [.per] (regsOf [perCtrl, perCount]) s (s.setBit perCtrl 0 true) := (Frame.refl ..).setBit List.mem_cons_self
  exact (enabled.upd_per List.mem_cons_self).ite (enabled.ite ((enabled.upd_per List.mem_cons_self).wr (List.mem_cons_of_mem _ List.mem_cons_self)))
theorem State.marksOn_enables : s.marksOn.bit perCtrl 0 = true := by
  have set : (s.setBit perCtrl 0 true).bit perCtrl 0 = true := State.bit_setBit_self s true (by decide)
  unfold State.marksOn
  dsimp only
  split <;> [skip; split]
  · exact set
  · exact set
  · exact (State.bit_wr_ne _ (by decide) 0 0).trans set

theorem State.markSource_running (h : s.per.running = true) (chain : Bool) : s.markSource chain = s.setBit perCtrl 1 chain := if_pos h
theorem State.markSource_frame (chain : Bool) : Frame [.per] (regsOf [perCtrl]) s (s.markSource chain) := by
  have set : Frame [.per] (regsOf [perCtrl]) s (s.setBit perCtrl 1 chain) := (Frame.refl ..).setBit List.mem_cons_self
  exact set.ite (set.upd_per List.mem_cons_self)
theorem State.markSource_sets (chain : Bool) : (s.markSource chain).bit perCtrl 1 = chain := by
  have set : (s.setBit perCtrl 1 chain).bit perCtrl 1 = chain := State.bit_setBit_self s chain (by decide)
  unfold State.markSource
  dsimp only
  split <;> exact set

theorem State.periodLength_locked (h : s.bit perCtrl 31 = true) (pace : Fin 3) (v : Nat) : s.periodLength pace v = s := if_pos h
theorem State.periodLength_accepted (h : s.bit perCtrl 31 = false) {pace : Fin 3} {v : Nat}
    (range : (lenRange pace).1 ≤ v % 2 ^ 21 ∧ v % 2 ^ 21 ≤ (lenRange pace).2) : s.periodLength pace v = s.wr (perLen pace) (v % 2 ^ 21) :=
  (if_neg (ne_true_of_eq_false h)).trans (if_pos range)
theorem State.periodLength_refused (h : s.bit perCtrl 31 = false) {pace : Fin 3} {v : Nat}
    (range : ¬ ((lenRange pace).1 ≤ v % 2 ^ 21 ∧ v % 2 ^ 21 ≤ (lenRange pace).2)) : s.periodLength pace v = s.setBit perStatus 0 true :=
  (if_neg (ne_true_of_eq_false h)).trans (if_neg range)

theorem State.deadlineReg_locked (h : s.bit perCtrl 31 = true) (r : Fin 3) (v : Nat) : s.deadlineReg r v = s := if_pos h
theorem State.deadlineReg_open (h : s.bit perCtrl 31 = false) (r : Fin 3) (v : Nat) : s.deadlineReg r v =
    State.setPer (s.wr (perDl r) (v &&& (if r = 2 then 0x3FF else 0x03FF03FF))) { s.per with dlNew := true } := if_neg (ne_true_of_eq_false h)
theorem State.deadlineReg_frame (r : Fin 3) (v : Nat) : Frame [.per] (regsOf [perDl r]) s (s.deadlineReg r v) :=
  (Frame.refl ..).ite (((Frame.refl ..).wr List.mem_cons_self).upd_per List.mem_cons_self)

theorem State.timerCompare_frame (n : Fin 4) (v : Nat) : Frame [.per] (regsOf [perTmrCmp n]) s (s.timerCompare n v) := by
  have stored : Frame [.per] (regsOf [perTmrCmp n]) s (s.wr (perTmrCmp n) (v % 2 ^ 24)) := (Frame.refl ..).wr List.mem_cons_self
  exact (stored.upd_per List.mem_cons_self).ite stored
theorem State.timerCompare_stores (n : Fin 4) (v : Nat) : (s.timerCompare n v).rd (perTmrCmp n) = v % 2 ^ 24 := by
  have stored : (s.wr (perTmrCmp n) (v % 2 ^ 24)).rd (perTmrCmp n) = v % 2 ^ 24 := by
    rw [State.rd_wr_self]
    omega
  unfold State.timerCompare
  dsimp only
  split <;> exact stored

/-- Settles O7: each command of the PER page by what its write does while the page is live. -/
theorem periodPageWrites : Obligations.PeriodPageWrites := by
  intro s up
  refine ⟨⟨s.marksOn, if_pos up, State.marksOn_enables, fun run => ?_, fun idle first => ?_, State.marksOn_frame⟩,
    ⟨s.marksOff, if_pos up, State.bit_setBit_self _ false (by decide), rfl, ?_⟩,
    fun c => ⟨s.markSource c, if_pos up, State.markSource_sets c, fun run => ?_, State.markSource_frame c⟩,
    fun pace v => ⟨s.periodLength pace v.toNat, if_pos up, fun locked => State.periodLength_locked locked pace _, fun open_ lo hi => ?_, fun open_ out => ?_⟩,
    fun r v => ⟨s.deadlineReg r v.toNat, if_pos up, fun locked => State.deadlineReg_locked locked r _, fun open_ => ?_, State.deadlineReg_frame r _⟩,
    fun n v => ⟨s.timerCompare n v.toNat, if_pos up, State.timerCompare_stores n _, State.timerCompare_frame n _⟩⟩
  · rw [State.marksOn_running run]
    exact ⟨rfl, State.rd_setBit_ne s (by decide) 0 true⟩
  · rw [State.marksOn_idle idle first]
    exact ⟨rfl, State.rd_wr_self _ perCount 0⟩
  · exact ((Frame.refl ..).upd_per List.mem_cons_self).setBit List.mem_cons_self
  · rw [State.markSource_running run]
    rfl
  · rw [State.periodLength_accepted open_ ⟨lo, hi⟩, State.rd_wr_self]
    exact ⟨by omega, (Frame.refl ..).wr List.mem_cons_self⟩
  · rw [State.periodLength_refused open_ (by omega)]
    exact ⟨State.bit_setBit_self s true (by decide), (Frame.refl ..).setBit List.mem_cons_self⟩
  · rw [State.deadlineReg_open open_]
    have small : v.toNat &&& (if r = 2 then 0x3FF else 0x03FF03FF) < 2 ^ 32 := lt_of_le_of_lt Nat.and_le_left v.isLt
    exact ⟨(State.rd_wr_self s (perDl r) _).trans (Nat.mod_eq_of_lt small), rfl⟩

end Sys2Proof.Machine
end

section
namespace Sys2Proof.Machine

variable {s t u : State} {p r : Slot}

/-! ## What an operation on one problem slot leaves to the others -/

/-- Of the problems, the SRCH page and its flags by slot, t differs from s in what belongs to slot p alone; bit i of SRCH_STATUS and SRCH_FAULT belongs
to slot i mod 4 (R132), and SRCH_FAULTCL, once valid, stays so. -/
structure State.SlotOnly (p : Slot) (s t : State) : Prop where
  probs : ∀ r, r ≠ p → t.prob r = s.prob r
  regs : ∀ a, pageBit a = 24 → a ∉ [srchPstat p, srchStatus, srchFault, srchFaultcl] → t.rd a = s.rd a
  status : ∀ i, i % 4 ≠ p.val → t.bit srchStatus i = s.bit srchStatus i
  fault : ∀ i, i % 4 ≠ p.val → t.bit srchFault i = s.bit srchFault i
  valid : s.bit srchFaultcl 31 = true → t.bit srchFaultcl 31 = true

theorem srchPstat_ne (h : r ≠ p) : srchPstat r ≠ srchPstat p := fun e => h (Fin.ext (by unfold srchPstat at e; omega))
theorem srchPstat_not_flags (p : Slot) : srchPstat p ∉ [srchStatus, srchFault, srchFaultcl, srchDetcfg] := by
  have low : p.val < 4 := p.isLt
  simp only [srchPstat, srchStatus, srchFault, srchFaultcl, srchDetcfg, List.mem_cons, List.not_mem_nil, or_false]
  omega
theorem srchStatus_ne_srchPstat (p : Slot) : srchStatus ≠ srchPstat p := fun e => srchPstat_not_flags p (e ▸ List.mem_cons_self)
theorem srchFault_ne_srchPstat (p : Slot) : srchFault ≠ srchPstat p := fun e => srchPstat_not_flags p (e ▸ by decide)
theorem srchFaultcl_ne_srchPstat (p : Slot) : srchFaultcl ≠ srchPstat p := fun e => srchPstat_not_flags p (e ▸ by decide)

theorem State.SlotOnly.refl (p : Slot) (s : State) : State.SlotOnly p s s :=
  ⟨fun _ _ => rfl, fun _ _ _ => rfl, fun _ _ => rfl, fun _ _ => rfl, id⟩
theorem State.SlotOnly.trans (h : State.SlotOnly p s t) (k : State.SlotOnly p t u) : State.SlotOnly p s u :=
  ⟨fun r e => (k.probs r e).trans (h.probs r e), fun a page out => (k.regs a page out).trans (h.regs a page out),
    fun i e => (k.status i e).trans (h.status i e), fun i e => (k.fault i e).trans (h.fault i e), fun v => k.valid (h.valid v)⟩
theorem State.SlotOnly.ite {c : Prop} [Decidable c] (h : State.SlotOnly p s t) (k : State.SlotOnly p s u) : State.SlotOnly p s (if c then t else u) := by
  split <;> assumption
/-- An operation that has no part in the problems and the SRCH page. -/
theorem State.SlotOnly.does {m : Nat} (k : Does m t u) (h : State.SlotOnly p s t) (out : (m.testBit 2 || m.testBit 24) = false) :
    State.SlotOnly p s u := by
  obtain ⟨probs, page⟩ := Bool.or_eq_false_iff.1 out
  have reg (a : Nat) (ha : pageBit a = 24) : u.rd a = t.rd a := k.reg a (ha ▸ page)
  have status := reg srchStatus (by decide)
  have fault := reg srchFault (by decide)
  have faultcl := reg srchFaultcl (by decide)
  refine h.trans ⟨fun r _ => ?_, fun a ha _ => reg a ha, fun i _ => ?_, fun i _ => ?_, ?_⟩
  · exact congrArg (fun qs : Vector Problem 4 => qs[r]) (k.part .probs probs)
  all_goals simp only [State.bit, status, fault, faultcl, imp_self]
theorem State.SlotOnly.setProb (h : State.SlotOnly p s t) (q : Problem) : State.SlotOnly p s (t.setProb p q) :=
  h.trans ⟨fun _ e => State.prob_setProb_ne t e q, fun _ _ _ => rfl, fun _ _ => rfl, fun _ _ => rfl, id⟩
theorem State.SlotOnly.pstat (h : State.SlotOnly p s t) (hi lo v : Nat) : State.SlotOnly p s (t.setFld (srchPstat p) hi lo v) := by
  refine h.trans ⟨fun _ _ => rfl, fun a _ out => State.rd_wr_ne t (fun e : a = _ => out (e ▸ List.mem_cons_self)) _, fun i _ => ?_, fun i _ => ?_, fun v => ?_⟩
  · exact State.bit_wr_ne t (srchStatus_ne_srchPstat p) _ i
  · exact State.bit_wr_ne t (srchFault_ne_srchPstat p) _ i
  · exact (State.bit_wr_ne t (srchFaultcl_ne_srchPstat p) _ 31).trans v
theorem State.SlotOnly.status_bit (h : State.SlotOnly p s t) {i : Nat} (own : i % 4 = p.val) (small : i < 32) (b : Bool) :
    State.SlotOnly p s (t.setBit srchStatus i b) := by
  refine h.trans ⟨fun _ _ => rfl, fun a _ out => State.rd_wr_ne t (fun e : a = _ => out (e ▸ by simp)) _, fun j other => ?_, fun j _ => ?_, fun v => ?_⟩
  · rw [State.bit_setBit t _ _ b small, if_neg fun e : _ ∧ j = i => other (e.2 ▸ own)]
  · exact State.bit_wr_ne t (by decide) _ j
  · exact (State.bit_wr_ne t (by decide) _ 31).trans v
theorem State.SlotOnly.fault_bit (h : State.SlotOnly p s t) {i : Nat} (own : i % 4 = p.val) (small : i < 32) (b : Bool) :
    State.SlotOnly p s (t.setBit srchFault i b) := by
  refine h.trans ⟨fun _ _ => rfl, fun a _ out => State.rd_wr_ne t (fun e : a = _ => out (e ▸ by simp)) _, fun j _ => ?_, fun j other => ?_, fun v => ?_⟩
  · exact State.bit_wr_ne t (by decide) _ j
  · rw [State.bit_setBit t _ _ b small, if_neg fun e : _ ∧ j = i => other (e.2 ▸ own)]
  · exact (State.bit_wr_ne t (by decide) _ 31).trans v
theorem State.SlotOnly.faultcl (h : State.SlotOnly p s t) {v : Nat} (set : v.testBit 31 = true) : State.SlotOnly p s (t.wr srchFaultcl v) := by
  refine h.trans ⟨fun _ _ => rfl, fun a _ out => State.rd_wr_ne t (fun e : a = _ => out (e ▸ by simp)) _, fun j _ => ?_, fun j _ => ?_, fun _ => ?_⟩
  · exact State.bit_wr_ne t (by decide) _ j
  · exact State.bit_wr_ne t (by decide) _ j
  · rw [State.bit_wr_self]
    exact set

/-! ## PHASE of SRCH_PSTAT (R132) -/

theorem State.setPhase_prob (ph : Nat) (r : Slot) : (s.setPhase p ph).prob r = s.prob r := rfl
theorem State.SlotOnly.setPhase (h : State.SlotOnly p s t) (ph : Nat) : State.SlotOnly p s (t.setPhase p ph) :=
  (h.pstat 2 0 ph).status_bit (by omega) (by omega) _
theorem State.SlotOnly.phase (h : State.SlotOnly r s t) (e : p ≠ r) : t.phase p = s.phase p := by
  have kept : t.rd (srchPstat p) = s.rd (srchPstat p) := by
    refine h.regs _ (pageBit_srchPstat (by omega)) ?_
    rw [List.mem_cons]
    exact not_or.2 ⟨srchPstat_ne e, fun k => srchPstat_not_flags p (by simp only [List.mem_cons] at k ⊢; tauto)⟩
  simp only [State.phase, State.fld, kept]
theorem State.phase_setPhase {ph : Nat} (small : ph < 8) : (s.setPhase p ph).phase p = ph := by
  unfold State.phase State.setPhase
  rw [State.setBit, State.setFld, State.fld_wr_ne _ (srchStatus_ne_srchPstat p).symm, State.fld_setFld_self _ (by decide) (by decide)]
  exact Nat.mod_eq_of_lt small
theorem State.close_setPhase (ph : Nat) : (s.setPhase p ph).fld (srchPstat p) 7 4 = s.fld (srchPstat p) 7 4 := by
  unfold State.setPhase
  rw [State.setBit, State.setFld, State.fld_wr_ne _ (srchStatus_ne_srchPstat p).symm, State.fld_setFld_ne _ (by decide) (by decide) (by decide) (by decide)]

/-! ## How a search closes (R47, R113, R115) -/

/-- The search of p has closed with this code at this time from the launch. -/
def State.ClosedAs (t : State) (p : Slot) (code fc : Nat) : Prop :=
  (t.prob p).close = code ∧ (t.prob p).closeFc = fc ∧ t.phase p = 4 ∧ t.fld (srchPstat p) 7 4 = code

theorem State.closeWith_prob (p : Slot) (code fc : Nat) :
    (s.closeWith p code fc).prob p = { s.prob p with close := code, closeFc := fc, chWait := none } := by
  rw [State.closeWith, State.setPhase_prob, State.setFld_prob, State.prob_setProb_self]
theorem State.closeWith_closed {code : Nat} (small : code < 16) (fc : Nat) : (s.closeWith p code fc).ClosedAs p code fc := by
  refine ⟨congrArg Problem.close (State.closeWith_prob p code fc), congrArg Problem.closeFc (State.closeWith_prob p code fc), State.phase_setPhase (by decide), ?_⟩
  rw [State.closeWith, State.close_setPhase, State.fld_setFld_self _ (by decide) (by decide)]
  exact Nat.mod_eq_of_lt small
theorem State.SlotOnly.closeWith (h : State.SlotOnly p s t) (code fc : Nat) : State.SlotOnly p s (t.closeWith p code fc) :=
  ((h.setProb _).pstat 7 4 code).setPhase 4

/-- A problem with its root placed (R101, R108). -/
def Problem.planted (q : Problem) : Problem :=
  let root : Node := { d := 0, pfx := [], x := q.x0, acc := 0, lb := childBound q.tbl q.tail 0 0 }
  { q with fEps := none, fDrop := none, epsCut := false, drop := false, steals := [], share := none,
           stage1 := q.tbl.determ, lvl := if q.tbl.determ then [root] else [], nxt := [] }
/-- The clusters of a problem with its root not yet placed. -/
def State.clearedFor (s : State) (p : Slot) (q : Problem) : State :=
  s.each (clsOf q.emask) fun s c => s.setCl c { (s.cl c).cleared with owner := some p }
theorem State.clearedFor_does (s : State) (p : Slot) (q : Problem) : Does 0x8 s (s.clearedFor p q) :=
  Does.each (Does.refl ..) fun _ _ h => Does.andThen Does.setCl h rfl
/-- Beside the problem, the placing of the root changes clusters alone. -/
theorem State.plantRoot_does_after (s : State) (p : Slot) (q : Problem) :
    Does 0x8 ((s.clearedFor p q).setProb p q.planted) (s.plantRoot p q) := by
  let u := (s.clearedFor p q).setProb p q.planted
  have cases : s.plantRoot p q = if q.tbl.determ then u else match (clsOf q.emask).head? with
    | some c => u.setCl c { u.cl c with frontier := touchTop [{ d := 0, pfx := [], x := q.x0, acc := 0, lb := childBound q.tbl q.tail 0 0 }] }
    | none => u := rfl
  rw [cases]
  refine Does.ite (Does.refl ..) ?_
  split
  · exact Does.setCl
  · exact Does.refl ..
theorem State.installCorrection_prob (s : State) (p : Slot) :
    (s.installCorrection p).prob p = ((s.prob p).withBounds (s.prob p).x0n).planted := by
  have after := (State.plantRoot_does_after s p ((s.prob p).withBounds (s.prob p).x0n)).part .probs (by decide)
  have same : (s.installCorrection p).prob p = (s.plantRoot p ((s.prob p).withBounds (s.prob p).x0n)).prob p := rfl
  rw [same, State.prob, after]
  exact State.prob_setProb_self ..
theorem State.SlotOnly.installCorrection (h : State.SlotOnly p s t) : State.SlotOnly p s (t.installCorrection p) := by
  have cleared := State.SlotOnly.does (State.clearedFor_does t p ((t.prob p).withBounds (t.prob p).x0n)) h (by decide)
  exact (State.SlotOnly.does (State.plantRoot_does_after ..) (cleared.setProb _) (by decide)).pstat 8 8 _

/-- The search of a slot runs: past its latch, open. -/
theorem State.closeSearch_searching (h : s.phase p = 2) (code fc : Nat) : s.closeSearch p code fc = s.closeWith p code fc := by
  unfold State.closeSearch
  rw [h]
  rfl
theorem State.closeSearch_correcting (h : s.phase p = 3) (code fc : Nat) : s.closeSearch p code fc = (s.installCorrection p).closeWith p code fc := by
  unfold State.closeSearch
  rw [h]
  rfl
theorem State.closeSearch_latching (h : s.phase p = 1) (code fc : Nat) :
    s.closeSearch p code fc = s.setProb p { s.prob p with closeAtLatch := code } := if_pos h
theorem State.SlotOnly.closeSearch (h : State.SlotOnly p s t) (code fc : Nat) : State.SlotOnly p s (t.closeSearch p code fc) :=
  (h.setProb _).ite ((h.closeWith _ _).ite ((h.installCorrection.closeWith _ _).ite h))
theorem State.closeSearch_closed (open_ : s.phase p = 2 ∨ s.phase p = 3) {code : Nat} (small : code < 16) (fc : Nat) :
    (s.closeSearch p code fc).ClosedAs p code fc := by
  rcases open_ with searching | correcting
  · rw [State.closeSearch_searching searching]
    exact State.closeWith_closed small fc
  · rw [State.closeSearch_correcting correcting]
    exact State.closeWith_closed small fc
/-- What a close leaves of the problem: its stall, and what waits for its comparison (R49). -/
theorem State.closeSearch_waits (open_ : s.phase p = 2 ∨ s.phase p = 3) (code fc : Nat) :
    ((s.closeSearch p code fc).prob p).stall = (s.prob p).stall ∧ ((s.closeSearch p code fc).prob p).provWait = (s.prob p).provWait := by
  rcases open_ with searching | correcting
  · rw [State.closeSearch_searching searching, State.closeWith_prob]
    exact ⟨rfl, rfl⟩
  · rw [State.closeSearch_correcting correcting, State.closeWith_prob, State.installCorrection_prob]
    exact ⟨rfl, rfl⟩

theorem State.open_iff : s.open? p = true ↔ s.phase p = 1 ∨ s.phase p = 2 ∨ s.phase p = 3 := by
  simp only [State.open?, Bool.or_eq_true, beq_iff_eq, or_assoc]

end Sys2Proof.Machine
end

section
namespace Sys2Proof.Machine

variable {s : State} {p : Slot}

/-! ## Requests to close, and the closes of the array itself (R47, R111, R115, R116) -/

/-- A close that comes to an open search leaves every other problem as it is. -/
theorem State.closeSearch_ends (open_ : s.phase p = 2 ∨ s.phase p = 3) {code : Nat} (small : code < 16) (fc : Nat) :
    let t := s.closeSearch p code fc
    (t.prob p).close = code ∧ (t.prob p).closeFc = fc ∧ t.phase p = 4 ∧ t.fld (srchPstat p) 7 4 = code ∧ ∀ r, r ≠ p → t.prob r = s.prob r := by
  obtain ⟨shown, time, phase, status⟩ := State.closeSearch_closed open_ small fc
  exact ⟨shown, time, phase, status, ((State.SlotOnly.refl p s).closeSearch code fc).probs⟩
theorem State.closeReq_open (h : s.open? p = true) : s.closeReq p =
    (s.setProb p ((s.prob p).unstallAt s.per.now)).closeSearch p 4 (s.per.now - (s.prob p).launchFc) := if_pos h
theorem State.closeReq_refused (h : s.open? p = false) : s.closeReq p = s.setBit srchStatus (8 + p) true := if_neg (ne_true_of_eq_false h)
theorem State.not_open (h : s.phase p = 0 ∨ 4 ≤ s.phase p) : s.open? p = false := by
  rw [← Bool.not_eq_true, State.open_iff]
  omega

/-- The state in which a request to close slot p at fabric cycle `now` is served. -/
def State.closeAsked (s : State) (p : Slot) (now : Nat) : State := (s.tellNow now).did [8 + p]
theorem State.closeAsked_frame {rs : Nat → Prop} (p : Slot) (now : Nat) : Frame [.per, .pins] rs s (s.closeAsked p now) :=
  ((Frame.refl ..).upd_per (by decide)).upd_pins (by decide)
theorem exec_closeRequest_live (up : s.live .srch = true) (now : Nat) : exec (.closeRequest p now) s = .next ((s.closeAsked p now).closeReq p) := if_pos up
theorem State.closeReq_ends (open_ : s.phase p = 2 ∨ s.phase p = 3) :
    let t := s.closeReq p
    (t.prob p).close = 4 ∧ (t.prob p).closeFc = s.per.now - (s.prob p).launchFc ∧ t.phase p = 4 ∧ t.fld (srchPstat p) 7 4 = 4 ∧
      ∀ r, r ≠ p → t.prob r = s.prob r := by
  rw [State.closeReq_open (State.open_iff.2 (.inr open_))]
  have running : ∀ q, (s.setProb p q).phase p = 2 ∨ (s.setProb p q).phase p = 3 := fun _ => open_
  obtain ⟨code, time, phase, status, others⟩ := State.closeSearch_ends (running ((s.prob p).unstallAt s.per.now)) (code := 4) (by decide) (s.per.now - (s.prob p).launchFc)
  exact ⟨code, time, phase, status, fun r e => (others r e).trans (State.prob_setProb_ne s e _)⟩
theorem State.closeReq_latching (latch : s.phase p = 1) : s.closeReq p =
    (s.setProb p ((s.prob p).unstallAt s.per.now)).setProb p { (s.prob p).unstallAt s.per.now with closeAtLatch := 4 } := by
  rw [State.closeReq_open (State.open_iff.2 (.inl latch)), State.closeSearch_latching (s := s.setProb p _) latch, State.prob_setProb_self]

/-- The open phases past the latch, as the guards of the array's own closes test them. -/
theorem phase_open {x : Nat} (h : x = 2 ∨ x = 3) : (x == 2 || x == 3) = true := by simpa using h

/-- Settles O13: each close by what its command finds, an open search, a latch or neither. -/
theorem closing : Obligations.Closing := by
  intro s p up q closed
  have pages {m : Nat} {ps : List Part} {i : Instr} {t : State} (k : DoesOut m s (exec i s)) (e : exec i s = .next t) (parts : footParts m ps = true)
      (page : footPages m [srchBase] = true) : Frame ps (pagesOf [srchBase]) s t := Frame.out k e parts page
  refine ⟨fun now open_ => ?_, fun now latch => ?_, fun now shut => ?_, fun open_ budget free before => ?_, fun now searching going empty => ?_,
    fun open_ determ going before => ?_⟩
  · exact ⟨_, exec_closeRequest_live up now, State.closeReq_ends (s := s.closeAsked p now) open_,
      pages (execCloseRequest_does p now s) (exec_closeRequest_live up now) (by decide) (by decide)⟩
  · refine ⟨_, exec_closeRequest_live up now, ?_⟩
    rw [State.closeReq_latching (s := s.closeAsked p now) latch, State.prob_setProb_self]
    have asked : Frame [.per, .probs, .pins] noReg s (s.closeAsked p now) := ((Frame.refl ..).upd_per (by decide)).upd_pins (by decide)
    exact ⟨rfl, (asked.setProb (by decide)).setProb (by decide)⟩
  · refine ⟨_, exec_closeRequest_live up now, ?_⟩
    rw [State.closeReq_refused (State.not_open (s := s.closeAsked p now) shut)]
    exact ⟨State.bit_setBit_self _ true (by omega), (State.closeAsked_frame p now).setBit List.mem_cons_self⟩
  · have run : exec (.budgetExpiry p) s = .next (s.closeSearch p 2 (q.tbl.budget + q.stall)) :=
      if_pos (by simp only [up, phase_open open_, Bool.true_and, Bool.and_eq_true, bne_iff_ne, Bool.not_eq_true', decide_eq_true_eq]; exact ⟨⟨budget, free⟩, before⟩)
    exact ⟨_, run, State.closeSearch_ends open_ (by decide) _, pages (execBudgetExpiry_does p s) run (by decide) (by decide)⟩
  · have steps : q.steps = true := Option.isNone_iff_eq_none.2 going
    have run : exec (.treeExhausted p now) s = .next ((s.tellNow now).closeSearch p 1 (Nat.max s.per.now now - q.launchFc)) :=
      if_pos (by simp only [up, searching, empty, beq_self_eq_true, Bool.and_true, Bool.true_and]; exact steps)
    exact ⟨_, run, State.closeSearch_ends (s := s.tellNow now) (.inl searching) (by decide) _,
      pages (execTreeExhausted_does p now s) run (by decide) (by decide)⟩
  · have steps : q.steps = true := Option.isNone_iff_eq_none.2 going
    have run : exec (.deterministicClose p) s = .next (s.closeSearch p (if q.tbl.budget ≠ 0 then 2 else 3) (Nat.max (s.sClose q) 256 + q.stall)) :=
      if_pos (by simp only [up, phase_open open_, Bool.true_and, Bool.and_eq_true, decide_eq_true_eq]; exact ⟨⟨determ, steps⟩, before⟩)
    exact ⟨_, run, State.closeSearch_ends open_ (by split <;> decide) _, pages (execDeterministicClose_does p s) run (by decide) (by decide)⟩

end Sys2Proof.Machine
end

section
namespace Sys2Proof.Machine

variable {s t : State} {b : Blk}

/-! ## Requests outstanding when Idle begins at a mark (R454, R460) -/

/-- Every read of the management port outstanding to block b is forced. -/
def State.ReadsForced (b : Blk) (s : State) : Prop := ∀ x ∈ s.port.reads, onBlock b x.addr = true → x.gate = .forced

theorem State.ReadsForced.same (h : s.ReadsForced b) (port : t.port = s.port) : t.ReadsForced b := by
  unfold State.ReadsForced
  rw [port]
  exact h
theorem State.gateRequests_reads (b : Blk) (f : Gate → Gate) : (s.gateRequests b f).port.reads =
    s.port.reads.map fun x => if onBlock b x.addr then { x with gate := f x.gate } else x := rfl
theorem State.gateRequests_forces (s : State) (b : Blk) : (s.gateRequests b fun _ => .forced).ReadsForced b := by
  intro x mem at_
  rw [State.gateRequests_reads, List.mem_map] at mem
  obtain ⟨y, -, rfl⟩ := mem
  split
  · rfl
  · next off => exact absurd (by rwa [if_neg off] at at_) off
theorem State.ReadsForced.gateRequests (h : s.ReadsForced b) (c : Blk) : (s.gateRequests c fun _ => .forced).ReadsForced b := by
  intro x mem at_
  rw [State.gateRequests_reads, List.mem_map] at mem
  obtain ⟨y, old, rfl⟩ := mem
  split
  · rfl
  · next off => exact h y old (by rwa [if_neg off] at at_)
theorem State.ReadsForced.gateShut (h : s.ReadsForced b) (c : Blk) (forced : Bool) : (s.gateShut c forced).ReadsForced b := by
  have kept : (s.keepBlock c).ReadsForced b := h.same ((State.keepBlock_does s c).part .port (by decide))
  unfold State.gateShut
  dsimp only
  split <;> exact (kept.same rfl).gateRequests c
theorem State.each_gateShut_forces (l : List Blk) (h : b ∈ l ∨ s.ReadsForced b) :
    (s.each l fun (s : State) c => s.gateShut c false).ReadsForced b := by
  induction l generalizing s with
  | nil => exact h.resolve_left List.not_mem_nil
  | cons c l ih =>
    refine ih (s := s.gateShut c false) ?_
    rw [List.mem_cons, or_assoc] at h
    rcases h with rfl | later | before
    · exact .inr (State.gateRequests_forces _ b)
    · exact .inl later
    · exact .inr (before.gateShut c false)

/-- The gates that are open when Idle begins close on what is outstanding. -/
theorem State.idleEnter_forces (gate : b ∈ gateBlks) (other : b ≠ .chn) (open_ : s.gated b = false) : s.idleEnter.ReadsForced b := by
  have mem : b ∈ gateBlks.filter fun b => decide (b ≠ .chn) && !s.gated b :=
    List.mem_filter.2 ⟨gate, by rw [open_, decide_eq_true other]; rfl⟩
  exact (State.each_gateShut_forces _ (.inl mem)).same
    (((State.armWake_does _).part .port (by decide)).trans ((State.leaveRun_does _).part .port (by decide)))
theorem State.powerMark_idles (run : s.clk.power = .run) (due : s.clk.idlePend = true) (steady : s.clk.target = none) :
    ∃ n, s.powerMark = (s.setClk { s.clk with idlePeriods := n }).idleEnter := by
  have held : s.paceSwitch = s := by
    unfold State.paceSwitch
    rw [steady]
  unfold State.powerMark
  rw [held]
  exact ⟨_, if_pos ⟨run, due⟩⟩

/-- The state at a mark before the pace and the power state change. -/
def State.atMark (s : State) : State :=
  let s := if s.per.running && !s.per.commitPassed then s.commitEnd else s
  State.capMark (if s.live .cell then s.cellMark else s.cellAge)
theorem State.atMark_does (s : State) : Does 0xc9412c6 s s.atMark := by
  have ended : Does 0xc9412c6 s (if s.per.running && !s.per.commitPassed then s.commitEnd else s) := Does.ite (State.commitEnd_does s) (Does.refl ..)
  exact (State.capMark_does _).andThen (Does.ite ((State.cellMark_does _).andThen ended rfl) ((State.cellAge_does _).andThen ended rfl)) rfl
/-- What a mark does after them. -/
theorem State.mark_does_after (s : State) (count : Nat) : Does 0x8027bc18ff s.atMark.powerMark (s.mark count) := by
  have counted : Does 0x8027bc18ff s.atMark.powerMark (s.atMark.powerMark.wr perCount count) := (Does.refl ..).wr rfl
  have fresh (q : Per) := Does.andThen (State.takeSettings_does _) (Does.andThen (State.setPer_does _ q) counted rfl) rfl
  exact Does.andThen (State.markNotice_does _) (Does.andThen (State.fire_does _ _) (Does.andThen (State.markUnits_does _ _) (fresh _) rfl) rfl) rfl
/-- A mark at which Idle begins forces the reads that the management port has outstanding to a block whose gate is open. -/
theorem State.mark_forces (run : s.clk.power = .run) (due : s.clk.idlePend = true) (steady : s.clk.target = none) (gate : b ∈ gateBlks)
    (other : b ≠ .chn) (open_ : s.gated b = false) (count : Nat) : (s.mark count).ReadsForced b := by
  have clk : s.atMark.clk = s.clk := (State.atMark_does s).part .clk (by decide)
  have gated : s.atMark.gated b = false := by
    rw [State.gated, State.bit, (State.atMark_does s).reg clkGstat (by decide)]
    exact open_
  obtain ⟨n, idle⟩ := State.powerMark_idles (s := s.atMark) (by rw [clk, run]) (by rw [clk, due]) (by rw [clk, steady])
  have forced : s.atMark.powerMark.ReadsForced b := by
    rw [idle]
    exact State.idleEnter_forces gate other gated
  exact forced.same ((State.mark_does_after s count).part .port (by decide))

theorem exec_periodMark_marks (acts : s.perActs = true) (src : s.per.chainSrc = false) (stop : s.per.stopPending = false) :
    exec .periodMark s = .next (s.mark s.nextCount) := by
  rw [exec_periodMark]
  unfold execPeriodMark
  simp [acts, src, stop]

/-- A running period at whose end Idle begins (R460), while the management port waits for the reply to a read of SRCH_CTRL. -/
def idleDue : State :=
  { State.reset with
    clk := { power := .run, cdUp := true, idlePend := true }
    per := { running := true }
    port := { reads := [{ addr := srchCtrl, want := none }] } }

/-- Refutes O8: a mark at which Idle begins shuts the gates, and what the management port has outstanding to a gated block is then forced, so that
the port does not stay as it was. -/
theorem not_marks : ¬ Obligations.Marks := by
  intro h
  have live : idleDue.live .per = true := by decide
  obtain ⟨t, run, -, changed⟩ := ((h idleDue).1 live (.inl rfl)).1 rfl |>.1 rfl
  have marked : t = idleDue.mark idleDue.nextCount := by
    have same := run.symm.trans (exec_periodMark_marks (by decide) rfl rfl)
    injection same
  have forced : t.ReadsForced .srch := by
    rw [marked]
    exact State.mark_forces rfl rfl rfl (by decide) (by decide) (by decide) _
  obtain ⟨parts, -⟩ := changed
  have port : t.port = idleDue.port := parts .port (by decide)
  have free := (forced.same port.symm) { addr := srchCtrl, want := none } List.mem_cons_self (by decide)
  exact absurd free (by decide)

end Sys2Proof.Machine
end

section
namespace Sys2Proof.Machine

variable {s t u : State} {p r : Slot}

/-! ## An operation on every slot, seen from one of them -/

/-- What the operation on slot p establishes holds after a walk over all slots, when those on the others keep its condition before it and
its result after it. -/
theorem State.each_slot {f : State → Slot → State} {Pre Post : State → Prop} (before : ∀ u r, r ≠ p → Pre u → Pre (f u r))
    (own : ∀ u, Pre u → Post (f u p)) (after : ∀ u r, r ≠ p → Post u → Post (f u r)) (start : Pre s) : Post (s.each allSlots f) := by
  have walk (l : List Slot) (nodup : l.Nodup) : ∀ u, (p ∈ l ∧ Pre u) ∨ (p ∉ l ∧ Post u) → Post (u.each l f) := by
    induction l with
    | nil => exact fun u h => (h.resolve_left fun k => List.not_mem_nil k.1).2
    | cons r l ih =>
      obtain ⟨out, nodup⟩ := List.nodup_cons.1 nodup
      refine fun u h => ih nodup (f u r) ?_
      by_cases e : r = p
      · subst e
        exact .inr ⟨out, own u (h.resolve_right fun k => k.1 List.mem_cons_self).2⟩
      · simp only [List.mem_cons, Ne.symm e, false_or] at h
        exact h.imp (fun k => ⟨k.1, before u r e k.2⟩) fun k => ⟨k.1, after u r e k.2⟩
  exact walk allSlots (List.nodup_finRange 4) s (.inl ⟨List.mem_finRange p, start⟩)

/-! ## A miss (R58) -/

/-- A problem is marked as missed. -/
def State.missShown (s : State) (p : Slot) (reason : Nat) : State :=
  ((s.setProb p { s.prob p with missed := true, reason }).setBit perStatus (4 + p) true).count perMissCnt (8 * p + 7) (8 * p)
theorem State.miss_idle (h : (s.prob p).missed = true ∨ (s.prob p).enabled = false) (reason : Nat) : s.miss p reason = s :=
  if_pos (by rcases h with h | h <;> simp [h])
theorem State.miss_due (enabled : (s.prob p).enabled = true) (fresh : (s.prob p).missed = false) (reason : Nat) :
    s.miss p reason = ((s.missShown p reason).fire (0x14 + p)).capTrig 4 := if_neg (by simp [enabled, fresh])
/-- A miss counts once in a period. -/
theorem State.miss_cases (s : State) (p : Slot) (reason : Nat) : s.miss p reason = s ∨ Does 0x8040200 (s.missShown p reason) (s.miss p reason) := by
  by_cases idle : (s.prob p).missed = true ∨ (s.prob p).enabled = false
  · exact .inl (State.miss_idle idle reason)
  · rw [not_or, Bool.not_eq_true, Bool.not_eq_false] at idle
    rw [State.miss_due idle.2 idle.1]
    exact .inr (Does.andThen (State.capTrig_does _ _) (State.fire_does _ _ |>.mono rfl) rfl)
theorem State.missShown_status (s : State) (p : Slot) (reason i : Nat) :
    (s.missShown p reason).bit perStatus i = if i = 4 + p.val then true else s.bit perStatus i := by
  have low : p.val < 4 := p.isLt
  unfold State.missShown
  rw [State.count, State.setFld, State.bit_wr_ne _ (by decide), State.bit_setBit _ _ _ _ (by omega)]
  simp
theorem State.SlotOnly.miss (h : State.SlotOnly p s t) (reason : Nat) : State.SlotOnly p s (t.miss p reason) := by
  rcases State.miss_cases t p reason with idle | due
  · rw [idle]
    exact h
  · have shown : Does 0x800000 (t.setProb p { t.prob p with missed := true, reason }) (t.missShown p reason) := ((Does.refl ..).setBit rfl).count rfl
    exact State.SlotOnly.does due (State.SlotOnly.does shown (h.setProb _) rfl) rfl
theorem State.miss_prob (s : State) (p : Slot) (reason : Nat) : ∃ m x, (s.miss p reason).prob p = { s.prob p with missed := m, reason := x } := by
  rcases State.miss_cases s p reason with idle | due
  · exact ⟨_, _, congrArg (fun s : State => s.prob p) idle⟩
  · exact ⟨true, reason, (congrArg (fun qs : Vector Problem 4 => qs[p]) (due.part .probs rfl)).trans (State.prob_setProb_self ..)⟩
theorem State.miss_status {i : Nat} (h : s.bit perStatus i = true) (p : Slot) (reason : Nat) : (s.miss p reason).bit perStatus i = true := by
  rcases State.miss_cases s p reason with idle | due
  · rw [idle, h]
  · rw [State.bit, due.reg perStatus rfl, ← State.bit, State.missShown_status, h, ite_self]
theorem State.miss_shows (enabled : (s.prob p).enabled = true) (fresh : (s.prob p).missed = false) (reason : Nat) :
    (s.miss p reason).bit perStatus (4 + p) = true := by
  have due : Does 0x8040200 (s.missShown p reason) (s.miss p reason) := by
    rw [State.miss_due enabled fresh]
    exact Does.andThen (State.capTrig_does _ _) (State.fire_does _ _ |>.mono rfl) rfl
  rw [State.bit, due.reg perStatus rfl, ← State.bit, State.missShown_status, if_pos rfl]

end Sys2Proof.Machine
end

section
namespace Sys2Proof.Machine

variable {s t u : State} {p r : Slot}

/-! ## The fix deadline (R46) -/

theorem State.fixDeadlineOf_prob_ne (e : r ≠ p) : (s.fixDeadlineOf r).prob p = s.prob p := by
  unfold State.fixDeadlineOf
  dsimp only
  split
  · exact State.prob_setProb_ne s e.symm _
  · rfl
theorem State.fixDeadlineOf_status {i : Nat} (h : s.bit perStatus i = true) (r : Slot) : (s.fixDeadlineOf r).bit perStatus i = true := by
  unfold State.fixDeadlineOf
  dsimp only
  split
  · rw [State.bit_setBit _ _ _ _ (by omega)]
    split
    · rfl
    · exact h
  · exact h
theorem State.fixDeadlineOf_late (launched : (s.prob p).launched = true) (byMark : (s.prob p).byMark = true) (late : (s.prob p).fixRdy = false) :
    (s.fixDeadlineOf p).bit perStatus (8 + p) = true := by
  unfold State.fixDeadlineOf
  simp only [launched, byMark, late, Bool.not_false, Bool.and_self, if_true]
  exact State.bit_setBit_self _ true (by omega)

/-- A period in which the fix deadline has just come. -/
def State.fixTold (s : State) : State := s.setPer { s.per with fixPassed := true, now := Nat.max s.per.now (s.dlFc 0) }
/-- What follows the slots at the fix deadline. -/
def State.fixEnd (s : State) : State := (if s.clk.cdUp && !s.inReset .cell then s.linkFixDeadline else s).fire 0x02
theorem State.fixEnd_does (s : State) : Does 0xc00c341ac5 s s.fixEnd :=
  Does.andThen (State.fire_does _ _) (Does.ite (State.linkFixDeadline_does s) (Does.refl ..)) rfl
theorem exec_fixDeadline_due (up : s.live .per = true) (run : s.per.running = true) (due : s.per.fixPassed = false) :
    exec .fixDeadline s = .next (s.fixTold.each allSlots State.fixDeadlineOf).fixEnd := if_pos (by simp [up, run, due])
theorem State.fixTold_per (s : State) : ((s.fixTold.each allSlots State.fixDeadlineOf).fixEnd).per = s.fixTold.per := by
  have slots : Does 0x800004 s.fixTold (s.fixTold.each allSlots State.fixDeadlineOf) :=
    Does.each (Does.refl ..) fun _ _ h => Does.andThen (State.fixDeadlineOf_does _ _) h rfl
  exact ((State.fixEnd_does _).part .per rfl).trans (slots.part .per rfl)
theorem State.fixDeadline_late (launched : (s.prob p).launched = true) (byMark : (s.prob p).byMark = true) (late : (s.prob p).fixRdy = false) :
    ((s.each allSlots State.fixDeadlineOf).fixEnd).bit perStatus (8 + p) = true := by
  have slots : (s.each allSlots State.fixDeadlineOf).bit perStatus (8 + p) = true := by
    refine State.each_slot (p := p) (Pre := fun u => u.prob p = s.prob p) (Post := fun u => u.bit perStatus (8 + p) = true)
      (fun u r e h => (State.fixDeadlineOf_prob_ne e).trans h) (fun u same => ?_) (fun u r _ h => State.fixDeadlineOf_status h r) rfl
    exact State.fixDeadlineOf_late (same ▸ launched) (same ▸ byMark) (same ▸ late)
  rw [State.bit, (State.fixEnd_does _).reg perStatus rfl]
  exact slots

/-! ## The provisional send time (R49) -/

theorem State.provSendTime_prob_ne (e : r ≠ p) : (s.provSendTime r).prob p = s.prob p := by
  unfold State.provSendTime State.provGather
  dsimp only
  split <;> [split <;> [skip; split]; skip]
  · exact State.prob_setProb_ne s e.symm _
  · exact State.prob_setProb_ne s e.symm _
  · rfl
  · rfl
/-- A problem launched at the mark, from its latch on without a decision. -/
structure State.ProvDue (s : State) (p : Slot) : Prop where
  launched : (s.prob p).launched = true
  byMark : (s.prob p).byMark = true
  phase : s.phase p = 1 ∨ s.phase p = 2 ∨ s.phase p = 4
  undecided : (s.prob p).decided = false

theorem State.ProvDue.guard (h : s.ProvDue p) : ((s.prob p).launched && (s.prob p).byMark && (s.phase p == 1 || s.phase p == 2 || s.phase p == 4) &&
    !(s.prob p).decided) = true := by
  simp only [h.launched, h.byMark, h.undecided, Bool.true_and, Bool.and_true, Bool.not_false, Bool.or_eq_true, beq_iff_eq, or_assoc]
  exact h.phase
theorem State.provSendTime_gathers (h : s.ProvDue p) (settled : s.fixSettled (s.prob p) = true) : s.provSendTime p = s.provGather p :=
  (if_pos h.guard).trans (if_pos settled)
theorem State.fixSettled_compared (h : s.fixSettled (s.prob p) = false) : (s.prob p).compared = false := by
  simp only [State.fixSettled, Bool.or_eq_false_iff] at h
  obtain ⟨⟨⟨-, compared⟩, -⟩, -⟩ := h
  exact compared
theorem State.provSendTime_waits (h : s.ProvDue p) (unsettled : s.fixSettled (s.prob p) = false) (ready : (s.prob p).fixRdy = true) :
    s.provSendTime p = s.setProb p { s.prob p with provWait := true } :=
  (if_pos h.guard).trans ((if_neg (ne_true_of_eq_false unsettled)).trans (if_pos (by simp [ready, State.fixSettled_compared unsettled])))
/-- What the provisional send time does to a slot rests on its problem, its phase, the clusters and the period alone. -/
theorem State.provSendTime_congr (k : Does 0x4 s u) (same : u.prob p = s.prob p) : (u.provSendTime p).prob p = (s.provSendTime p).prob p := by
  have phase : u.phase p = s.phase p := congrArg (fun x => bits x 2 0) (k.reg (srchPstat p) (by rw [pageBit_srchPstat (by omega)]; rfl))
  have per : u.per = s.per := k.part .per rfl
  have cls : u.cls = s.cls := k.part .cls rfl
  have best : u.bestOf p = s.bestOf p := by simp only [State.bestOf, State.probCls, State.cl, same, cls]
  have settled : u.fixSettled (s.prob p) = s.fixSettled (s.prob p) := by simp only [State.fixSettled, per]
  unfold State.provSendTime State.provGather
  simp only [same, phase, best, settled]
  split <;> [split <;> [skip; split]; skip]
  all_goals simp only [State.prob_setProb_self, same]
theorem State.each_provSendTime_prob (s : State) (p : Slot) : (s.each allSlots State.provSendTime).prob p = (s.provSendTime p).prob p := by
  refine State.each_slot (p := p) (Pre := fun u => Does 0x4 s u ∧ u.prob p = s.prob p) (Post := fun u => u.prob p = (s.provSendTime p).prob p)
    (fun u r e h => ⟨Does.andThen (State.provSendTime_does u r) h.1 rfl, (State.provSendTime_prob_ne e).trans h.2⟩)
    (fun u h => State.provSendTime_congr h.1 h.2) (fun u r e h => (State.provSendTime_prob_ne e).trans h) ⟨Does.refl .., rfl⟩

/-- A period in which the provisional send time has just come. -/
def State.provTold (s : State) : State := s.setPer { s.per with provPassed := true, now := Nat.max s.per.now (s.dlFc 1) }
/-- The slots and lanes at the provisional send time. -/
def State.provSends (s : State) : State :=
  if s.safe then (if s.live .cell && !s.cell.stopAll then s.each (allSlots.filter fun p => (s.prob p).enabled) State.blockFrames else s)
  else if s.live .srch then s.each allSlots State.provSendTime else s
theorem State.provSends_does (s : State) : Does 0x84 s s.provSends :=
  Does.ite (Does.ite (Does.each (Does.refl ..) fun _ _ h => Does.andThen (State.blockFrames_does _ _) h rfl) (Does.refl ..))
    (Does.ite (Does.each (Does.refl ..) fun _ _ h => Does.andThen (State.provSendTime_does _ _) h rfl) (Does.refl ..))
theorem exec_provisionalSend_due (up : s.live .per = true) (run : s.per.running = true) (fix : s.per.fixPassed = true) (due : s.per.provPassed = false) :
    exec .provisionalSend s = .next (s.provTold.provSends.fire 0x03) := if_pos (by simp [up, run, fix, due])
theorem State.provSends_prob (safe : s.safe = false) (up : s.live .srch = true) (p : Slot) :
    (s.provTold.provSends.fire 0x03).prob p = (s.provTold.provSendTime p).prob p := by
  have slots : s.provTold.provSends = s.provTold.each allSlots State.provSendTime :=
    (if_neg (ne_true_of_eq_false safe)).trans (if_pos up)
  rw [State.prob, (State.fire_does _ _).part .probs rfl, slots]
  exact State.each_provSendTime_prob s.provTold p

end Sys2Proof.Machine
end

section
namespace Sys2Proof.Machine

variable {s t u : State} {p r : Slot}

/-! ## The search deadline (R47, R111) -/

theorem State.setPhase_status {i : Nat} (other : i ≠ 24 + p.val) (ph : Nat) : (s.setPhase p ph).bit srchStatus i = s.bit srchStatus i := by
  unfold State.setPhase
  rw [State.bit_setBit _ _ _ _ (by omega), if_neg fun k => other k.2]
  exact State.bit_wr_ne s (srchStatus_ne_srchPstat p) _ i
theorem State.closeWith_status {i : Nat} (other : i ≠ 24 + p.val) (code fc : Nat) : (s.closeWith p code fc).bit srchStatus i = s.bit srchStatus i :=
  (State.setPhase_status other 4).trans (State.bit_wr_ne _ (srchStatus_ne_srchPstat p) _ i)
theorem State.installCorrection_status (s : State) (p : Slot) (i : Nat) : (s.installCorrection p).bit srchStatus i = s.bit srchStatus i := by
  have planted := (State.plantRoot_does s p ((s.prob p).withBounds (s.prob p).x0n)).reg srchStatus rfl
  refine (State.bit_wr_ne _ (srchStatus_ne_srchPstat p) _ i).trans ?_
  rw [State.bit, planted]
  rfl
theorem State.closeSearch_status (open_ : s.phase p = 2 ∨ s.phase p = 3) {i : Nat} (other : i ≠ 24 + p.val) (code fc : Nat) :
    (s.closeSearch p code fc).bit srchStatus i = s.bit srchStatus i := by
  rcases open_ with searching | correcting
  · rw [State.closeSearch_searching searching, State.closeWith_status other]
  · rw [State.closeSearch_correcting correcting, State.closeWith_status other, State.installCorrection_status]

/-- At the search deadline a search is deterministic and has not come to its closing step (R111). -/
def State.detLost (s : State) (q : Problem) : Bool := q.tbl.determ && decide (q.launchFc + s.sClose q + q.stall > s.dlFc 2)
/-- The close of slot p at the search deadline of s. -/
structure State.SearchEnded (s : State) (p : Slot) (t : State) : Prop where
  lost : s.detLost ((s.prob p).unstallAt (s.dlFc 2)) = true → t.bit srchStatus (4 + p) = true
  stall : (t.prob p).stall = ((s.prob p).unstallAt (s.dlFc 2)).stall
  waits : (t.prob p).provWait = (s.prob p).provWait
  code : (t.prob p).close = if (s.prob p).tbl.determ && !s.detLost ((s.prob p).unstallAt (s.dlFc 2)) && (s.prob p).tbl.budget != 0 then 2 else 3

theorem State.searchDeadlineOf_closes (open_ : s.phase p = 2 ∨ s.phase p = 3) : s.SearchEnded p (s.searchDeadlineOf p) := by
  let q := (s.prob p).unstallAt (s.dlFc 2)
  let told := if s.detLost q then s.setBit srchStatus (4 + p) true else s
  let code := if q.tbl.determ && !s.detLost q && q.tbl.budget != 0 then 2 else 3
  have eq : s.searchDeadlineOf p = (told.setProb p { q with detLost := s.detLost q }).closeSearch p code (s.dlFc 2 - q.launchFc) :=
    if_pos (State.open_iff.2 (.inr open_))
  have phase : told.phase p = s.phase p := by
    unfold told
    split
    · exact State.fld_wr_ne s (srchStatus_ne_srchPstat p).symm _ 2 0
    · rfl
  have open_ : (told.setProb p { q with detLost := s.detLost q }).phase p = 2 ∨ (told.setProb p { q with detLost := s.detLost q }).phase p = 3 := by
    rw [← phase] at open_
    exact open_
  obtain ⟨stall, waits⟩ := State.closeSearch_waits open_ code (s.dlFc 2 - q.launchFc)
  obtain ⟨closed, -⟩ := State.closeSearch_closed open_ (code := code) (by unfold code; split <;> decide) (s.dlFc 2 - q.launchFc)
  rw [State.prob_setProb_self] at stall waits
  rw [eq]
  refine ⟨fun lost => ?_, stall, waits, closed⟩
  rw [State.closeSearch_status open_ (by omega), State.setProb_bit]
  unfold told
  rw [if_pos lost]
  exact State.bit_setBit_self s true (by omega)
theorem State.SlotOnly.searchDeadlineOf (h : State.SlotOnly p s t) : State.SlotOnly p s (t.searchDeadlineOf p) := by
  have marked : State.SlotOnly p s (t.setBit srchStatus (4 + p) true) := h.status_bit (by omega) (by omega) true
  unfold State.searchDeadlineOf
  exact .ite (((State.SlotOnly.ite marked h).setProb _).closeSearch _ _) (.ite (((h.setProb _).setPhase 5).miss 0) h)

/-- What slot p and the search deadline rest on is the same in two states. -/
structure State.SlotSame (p : Slot) (s u : State) : Prop where
  prob : u.prob p = s.prob p
  phase : u.phase p = s.phase p
  per : u.per = s.per
  detcfg : u.rd srchDetcfg = s.rd srchDetcfg
theorem State.SlotSame.refl (p : Slot) (s : State) : State.SlotSame p s s := ⟨rfl, rfl, rfl, rfl⟩
theorem State.SlotSame.other (h : State.SlotSame p s t) (k : State.SlotOnly r t u) (e : r ≠ p) (per : u.per = t.per) : State.SlotSame p s u := by
  have outside : srchDetcfg ∉ [srchPstat r, srchStatus, srchFault, srchFaultcl] := by
    rw [List.mem_cons, not_or]
    exact ⟨fun k => srchPstat_not_flags r (k ▸ by decide), by decide⟩
  exact ⟨(k.probs p e.symm).trans h.prob, (k.phase e.symm).trans h.phase, per.trans h.per, (k.regs srchDetcfg rfl outside).trans h.detcfg⟩
theorem State.SearchEnded.congr (h : u.SearchEnded p t) (k : State.SlotSame p s u) : s.SearchEnded p t := by
  have dl : u.dlFc 2 = s.dlFc 2 := by simp only [State.dlFc, k.per]
  have step (q : Problem) : u.sClose q = s.sClose q := by rw [State.sClose, State.sClose, State.fld, State.fld, dl, k.detcfg]
  have lost (q : Problem) : u.detLost q = s.detLost q := by rw [State.detLost, State.detLost, step, dl]
  obtain ⟨h1, h2, h3, h4⟩ := h
  rw [k.prob, dl, lost] at h1 h4
  rw [k.prob, dl] at h2
  rw [k.prob] at h3
  exact ⟨h1, h2, h3, h4⟩
theorem State.SearchEnded.other (h : s.SearchEnded p t) (k : State.SlotOnly r t u) (e : r ≠ p) : s.SearchEnded p u := by
  obtain ⟨h1, h2, h3, h4⟩ := h
  have mine : (4 + p.val) % 4 ≠ r.val := fun k => e (Fin.ext (by omega))
  rw [← k.probs p e.symm] at h2 h3 h4
  exact ⟨fun lost => (k.status _ mine).trans (h1 lost), h2, h3, h4⟩
theorem State.each_searchDeadlineOf (open_ : s.phase p = 2 ∨ s.phase p = 3) : s.SearchEnded p (s.each allSlots State.searchDeadlineOf) := by
  refine State.each_slot (p := p) (Pre := State.SlotSame p s) (Post := s.SearchEnded p) (fun u r e h => ?_) (fun u h => ?_) (fun u r e h => ?_) (.refl p s)
  · exact h.other (State.SlotOnly.refl r u).searchDeadlineOf e ((State.searchDeadlineOf_does u r).part .per rfl)
  · rw [← h.phase] at open_
    exact (State.searchDeadlineOf_closes open_).congr h
  · exact h.other (State.SlotOnly.refl r u).searchDeadlineOf e

/-- A period in which the search deadline has just come. -/
def State.searchTold (s : State) : State := s.setPer { s.per with srchPassed := true, now := Nat.max s.per.now (s.dlFc 2) }
def State.searchEnds (s : State) : State := if s.live .srch then s.each allSlots State.searchDeadlineOf else s
theorem State.searchEnds_does (s : State) : Does 0x984020c s s.searchEnds :=
  Does.ite (Does.each (Does.refl ..) fun _ _ h => Does.andThen (State.searchDeadlineOf_does _ _) h rfl) (Does.refl ..)
theorem exec_searchDeadline_due (up : s.live .per = true) (run : s.per.running = true) (prov : s.per.provPassed = true) (due : s.per.srchPassed = false) :
    exec .searchDeadline s = .next (s.searchTold.searchEnds.fire 0x04) := if_pos (by simp [up, run, prov, due])
theorem State.searchTold_ends (up : s.live .srch = true) (open_ : s.phase p = 2 ∨ s.phase p = 3) : s.SearchEnded p (s.searchTold.searchEnds.fire 0x04) := by
  have slots : s.searchTold.searchEnds = s.searchTold.each allSlots State.searchDeadlineOf := if_pos up
  obtain ⟨lost, stall, waits, code⟩ := slots ▸ State.each_searchDeadlineOf (s := s.searchTold) open_
  have fired := State.fire_does s.searchTold.searchEnds 0x04
  have prob : (s.searchTold.searchEnds.fire 0x04).prob p = s.searchTold.searchEnds.prob p := congrArg (fun qs : Vector Problem 4 => qs[p]) (fired.part .probs rfl)
  refine ⟨fun k => ?_, by rw [prob]; exact stall, by rw [prob]; exact waits, by rw [prob]; exact code⟩
  rw [State.bit, fired.reg srchStatus rfl]
  exact lost k

/-! ## The check deadline (R50, R58) -/

/-- The check of slot p has no verdict at the check deadline. -/
structure State.CheckDue (s : State) (p : Slot) : Prop where
  launched : (s.prob p).launched = true
  undue : (s.prob p).recDue = false
  checked : (s.prob p).tbl.check ≠ 2
  phase : s.phase p = 2 ∨ s.phase p = 3 ∨ s.phase p = 4
/-- The result of slot p has been withheld for its missing verdict. -/
structure State.Unchecked (p : Slot) (t : State) : Prop where
  verdict : (t.prob p).verdict = 3
  due : (t.prob p).recDue = true
  inc : (t.prob p).inc = none
  fault : t.bit srchFault p = true
  valid : t.bit srchFaultcl 31 = true

theorem State.endWithout_prob (s : State) (p : Slot) (code : Nat) : (s.endWithout p code).prob p =
    { s.prob p with close := code, recDue := true, inc := none, gap := 0, provWait := false, provGather := none,
                    lookup := false, lookOld := none, lookPos := 0, chWait := none } := by
  rw [State.endWithout, State.setPhase_prob, State.setFld_prob, State.prob_setProb_self]
theorem State.SlotOnly.endWithout (h : State.SlotOnly p s t) (code : Nat) : State.SlotOnly p s (t.endWithout p code) :=
  ((h.setProb _).pstat 7 4 code).setPhase 5
/-- The end of a problem without a verdict, before its miss. -/
def State.uncheckedEnd (s : State) (p : Slot) : State :=
  let f := (s.setProb p { s.prob p with verdict := 3 }).freeWord
  ((f.2.endWithout p (s.prob p).close).setBit srchFault p true).wr srchFaultcl (0x80000000 + f.1.toNat % 16)
theorem faultcl_valid (w : Nat) : (0x80000000 + w % 16).testBit 31 = true := by
  rw [Nat.testBit_eq_decide_div_mod_eq, decide_eq_true_eq]
  omega
theorem State.SlotOnly.uncheckedEnd (h : State.SlotOnly p s t) : State.SlotOnly p s (t.uncheckedEnd p) :=
  (((State.SlotOnly.does Does.freeWord (h.setProb _) rfl).endWithout _).fault_bit (by omega) (by omega) true).faultcl (faultcl_valid _)
theorem State.SlotOnly.checkDeadlineOf (h : State.SlotOnly p s t) : State.SlotOnly p s (t.checkDeadlineOf p) :=
  .ite (h.uncheckedEnd.miss 4) h
theorem State.checkDeadlineOf_due (h : s.CheckDue p) : s.checkDeadlineOf p = (s.uncheckedEnd p).miss p 4 := by
  refine if_pos ?_
  simp only [h.launched, h.undue, Bool.not_false, Bool.true_and, Bool.and_eq_true, bne_iff_ne, Bool.or_eq_true, beq_iff_eq, or_assoc]
  exact ⟨h.checked, h.phase⟩
theorem State.checkDeadlineOf_unchecked (h : s.CheckDue p) : (s.checkDeadlineOf p).Unchecked p := by
  have ended : (s.uncheckedEnd p).prob p = ((s.setProb p { s.prob p with verdict := 3 }).freeWord.2.endWithout p (s.prob p).close).prob p := by
    unfold State.uncheckedEnd
    rw [State.wr_prob, State.setBit_prob]
  rw [State.endWithout_prob] at ended
  have verdict : (s.setProb p { s.prob p with verdict := 3 }).freeWord.2.prob p = { s.prob p with verdict := 3 } := State.prob_setProb_self ..
  rw [verdict] at ended
  obtain ⟨m, x, missed⟩ := State.miss_prob (s.uncheckedEnd p) p 4
  rw [ended] at missed
  have page (a : Nat) (srch : pageBit a = 24) : ((s.uncheckedEnd p).miss p 4).rd a = (s.uncheckedEnd p).rd a := (State.miss_does _ p 4).reg a (srch ▸ rfl)
  rw [State.checkDeadlineOf_due h]
  refine ⟨by rw [missed], by rw [missed], by rw [missed], ?_, ?_⟩
  · rw [State.bit, page srchFault rfl]
    exact (State.bit_wr_ne _ (by decide) _ _).trans (State.bit_setBit_self _ true (by omega))
  · rw [State.bit, page srchFaultcl rfl]
    exact (State.bit_wr_self _ srchFaultcl _ 31).trans (faultcl_valid _)
theorem State.Unchecked.other (h : State.Unchecked p t) (k : State.SlotOnly r t u) (e : r ≠ p) : State.Unchecked p u := by
  obtain ⟨h1, h2, h3, h4, h5⟩ := h
  have mine : p.val % 4 ≠ r.val := fun k => e (Fin.ext (by omega))
  rw [← k.probs p e.symm] at h1 h2 h3
  exact ⟨h1, h2, h3, (k.fault _ mine).trans h4, k.valid h5⟩
theorem State.CheckDue.congr (h : s.CheckDue p) (prob : u.prob p = s.prob p) (phase : u.phase p = s.phase p) : u.CheckDue p :=
  ⟨prob ▸ h.launched, prob ▸ h.undue, prob ▸ h.checked, phase ▸ h.phase⟩
theorem State.each_checkDeadlineOf (h : s.CheckDue p) : (s.each allSlots State.checkDeadlineOf).Unchecked p := by
  refine State.each_slot (p := p) (Pre := fun u => u.CheckDue p) (Post := State.Unchecked p) (fun u r e h => ?_)
    (fun u h => State.checkDeadlineOf_unchecked h) (fun u r e h => h.other (State.SlotOnly.refl r u).checkDeadlineOf e) h
  have other := (State.SlotOnly.refl r u).checkDeadlineOf
  exact h.congr (other.probs p e.symm) (other.phase e.symm)

/-- A period in which the check deadline has just come. -/
def State.checkTold (s : State) : State := s.setPer { s.per with chkPassed := true, now := Nat.max s.per.now (s.dlFc 3) }
def State.checkEnds (s : State) : State := if s.live .srch then s.each allSlots State.checkDeadlineOf else s
theorem State.checkEnds_does (s : State) : Does 0x9a40204 s s.checkEnds :=
  Does.ite (Does.each (Does.refl ..) fun _ _ h => Does.andThen (State.checkDeadlineOf_does _ _) h rfl) (Does.refl ..)
theorem exec_checkDeadline_due (up : s.live .per = true) (run : s.per.running = true) (srch : s.per.srchPassed = true) (due : s.per.chkPassed = false) :
    exec .checkDeadline s = .next (s.checkTold.checkEnds.fire 0x05) := if_pos (by simp [up, run, srch, due])
theorem State.checkTold_ends (up : s.live .srch = true) (h : s.CheckDue p) : (s.checkTold.checkEnds.fire 0x05).Unchecked p := by
  have slots : s.checkTold.checkEnds = s.checkTold.each allSlots State.checkDeadlineOf := if_pos up
  obtain ⟨verdict, due, inc, fault, valid⟩ := slots ▸ State.each_checkDeadlineOf (h.congr (u := s.checkTold) rfl rfl)
  have fired := State.fire_does s.checkTold.checkEnds 0x05
  have prob : (s.checkTold.checkEnds.fire 0x05).prob p = s.checkTold.checkEnds.prob p := congrArg (fun qs : Vector Problem 4 => qs[p]) (fired.part .probs rfl)
  rw [← prob] at verdict due inc
  refine ⟨verdict, due, inc, ?_, ?_⟩
  · rw [State.bit, fired.reg srchFault rfl]
    exact fault
  · rw [State.bit, fired.reg srchFaultcl rfl]
    exact valid

end Sys2Proof.Machine
end

section
namespace Sys2Proof.Machine

variable {s t u : State} {p r : Slot}

/-! ## The commit deadline (R52, R58) -/

/-- A problem without a report or a miss at the commit deadline misses. -/
def State.commitMiss (s : State) (p : Slot) : State :=
  let q := s.prob p
  if q.enabled && !q.reported && !q.missed then s.miss p (if !q.launched then 0 else if q.code ≠ 0 then 1 else 5) else s
theorem State.commitDeadlineOf_does_after (s : State) (p : Slot) : Does 0x100000 (s.commitMiss p) (s.commitDeadlineOf p) :=
  Does.ite (State.missNotice_does _ p) (Does.refl ..)
theorem State.commitDeadlineOf_prob_ne (e : p ≠ r) : (s.commitDeadlineOf r).prob p = s.prob p := by
  have missed : State.SlotOnly r s (s.commitMiss r) := .ite ((State.SlotOnly.refl r s).miss _) (.refl r s)
  exact (State.SlotOnly.does (State.commitDeadlineOf_does_after s r) missed rfl).probs p e
theorem State.commitDeadlineOf_perStatus (s : State) (r : Slot) (i : Nat) : (s.commitDeadlineOf r).bit perStatus i = (s.commitMiss r).bit perStatus i := by
  rw [State.bit, (State.commitDeadlineOf_does_after s r).reg perStatus rfl, State.bit]
theorem State.commitDeadlineOf_status {i : Nat} (h : s.bit perStatus i = true) (r : Slot) : (s.commitDeadlineOf r).bit perStatus i = true := by
  rw [State.commitDeadlineOf_perStatus, State.commitMiss]
  split
  · exact State.miss_status h r _
  · exact h
theorem State.commitDeadlineOf_late (enabled : (s.prob p).enabled = true) (unreported : (s.prob p).reported = false) (fresh : (s.prob p).missed = false) :
    (s.commitDeadlineOf p).bit perStatus (4 + p) = true := by
  rw [State.commitDeadlineOf_perStatus, State.commitMiss, if_pos (by rw [enabled, unreported, fresh]; rfl)]
  exact State.miss_shows enabled fresh _
theorem State.each_commitDeadlineOf_late (enabled : (s.prob p).enabled = true) (unreported : (s.prob p).reported = false) (fresh : (s.prob p).missed = false) :
    (s.each allSlots State.commitDeadlineOf).bit perStatus (4 + p) = true := by
  refine State.each_slot (p := p) (Pre := fun u => u.prob p = s.prob p) (Post := fun u => u.bit perStatus (4 + p) = true)
    (fun u r e h => (State.commitDeadlineOf_prob_ne e.symm).trans h) (fun u same => ?_) (fun u r _ h => State.commitDeadlineOf_status h r) rfl
  exact State.commitDeadlineOf_late (same ▸ enabled) (same ▸ unreported) (same ▸ fresh)

/-- What the units do at the commit deadline, once the problems have ended. -/
def State.commitUnits (s : State) : State := s.linkCommitDeadline.capSnapshot.hbSend
theorem State.commitUnits_does (s : State) : Does 0xc0012c0 s s.commitUnits :=
  Does.andThen (State.hbSend_does _) (Does.andThen (State.capSnapshot_does _) ((State.linkCommitDeadline_does s).mono rfl) rfl) rfl
theorem State.commitEnd_eq (s : State) : s.commitEnd =
    ((s.each allSlots State.commitDeadlineOf).setPer { (s.each allSlots State.commitDeadlineOf).per with commitPassed := true }).commitUnits := rfl
theorem State.commitEnd_per (s : State) : s.commitEnd.per = { s.per with commitPassed := true } := by
  have slots : Does 0x8940204 s (s.each allSlots State.commitDeadlineOf) :=
    Does.each (Does.refl ..) fun _ _ h => Does.andThen (State.commitDeadlineOf_does _ _) h rfl
  have per : (s.each allSlots State.commitDeadlineOf).per = s.per := slots.part .per rfl
  rw [State.commitEnd_eq, per]
  exact (State.commitUnits_does _).part .per rfl
theorem State.commitEnd_late (enabled : (s.prob p).enabled = true) (unreported : (s.prob p).reported = false) (fresh : (s.prob p).missed = false) :
    s.commitEnd.bit perStatus (4 + p) = true := by
  rw [State.commitEnd_eq, State.bit, (State.commitUnits_does _).reg perStatus rfl, State.setPer_rd]
  exact State.each_commitDeadlineOf_late enabled unreported fresh
/-- A period in which the commit deadline has just come. -/
def State.commitTold (s : State) : State := s.setPer { s.per with now := Nat.max s.per.now (s.dlFc 4) }
theorem exec_commitDeadline_due (up : s.live .per = true) (run : s.per.running = true) (chk : s.per.chkPassed = true) (due : s.per.commitPassed = false) :
    exec .commitDeadline s = .next (s.commitTold.commitEnd.fire 0x06) := if_pos (by simp [up, run, chk, due])

/-! ## The general timers (R59) -/

theorem State.fire_per (s : State) (code : Nat) : (s.fire code).per = s.per := (State.fire_does s code).part .per rfl
theorem State.fire_evts (up : s.live .evt = true) {c : Fin 32} (on : s.chanOn c = true) (code : Nat) :
    (s.fire code).pins.evts[c] = s.pins.evts[c] + producers s c code := by
  unfold State.fire
  rw [if_pos up]
  exact (Vector.getElem_ofFn c.isLt).trans (by simp [on])
/-- A general timer that is due: its interval of MODE 1 starts anew. -/
def State.timerRestarts (s : State) (n : Fin 4) : State :=
  if s.bit (perTmrCtrl n) 1 then s.setPer { s.per with tmrCur := s.per.tmrCur.set n (s.rd (perTmrCmp n)) } else s
theorem exec_generalTimerFire_due {n : Fin 4} (up : s.live .per = true) (on : s.bit (perTmrCtrl n) 0 = true)
    (due : if s.bit (perTmrCtrl n) 1 then s.per.tmrCur[n] ≠ 0 else s.per.running = true ∧ s.rd (perTmrCmp n) < s.per.len) :
    exec (.generalTimerFire n) s = .next ((s.timerRestarts n).fire (0x08 + n)) := by
  have live : (!s.live .per || !s.bit (perTmrCtrl n) 0) = false := by rw [up, on]; rfl
  rw [exec_generalTimerFire]
  unfold execGeneralTimerFire State.timerRestarts
  rw [if_neg (ne_true_of_eq_false live)]
  by_cases mode : s.bit (perTmrCtrl n) 1 = true
  · rw [if_pos mode] at due
    rw [if_pos mode, if_pos mode, if_neg due]
  · rw [if_neg mode] at due
    rw [if_neg mode, if_neg mode, if_pos due]
theorem State.timerRestarts_cur (s : State) (n : Fin 4) :
    (s.timerRestarts n).per.tmrCur[n] = if s.bit (perTmrCtrl n) 1 then s.rd (perTmrCmp n) else s.per.tmrCur[n] := by
  unfold State.timerRestarts
  split
  · exact Vector.getElem_set_self n.isLt
  · rfl
theorem State.timerRestarts_evts (up : s.live .evt = true) {c : Fin 32} (on : s.chanOn c = true) (n : Fin 4) (code : Nat) :
    ((s.timerRestarts n).fire code).pins.evts[c] = s.pins.evts[c] + producers s c code := by
  unfold State.timerRestarts
  split
  · exact State.fire_evts (s := s.setPer { s.per with tmrCur := s.per.tmrCur.set n (s.rd (perTmrCmp n)) }) up on code
  · exact State.fire_evts up on code

/-- Settles O9: each deadline by what it does at its slots, and the fire of a timer. -/
theorem deadlines : Obligations.Deadlines := by
  intro s up
  refine ⟨fun run due => ?_, fun run fix due => ?_, fun run prov due => ?_, fun run srch due => ?_, fun run chk due => ?_, fun n on due => ?_⟩
  · have next := exec_fixDeadline_due up run due
    exact ⟨_, next, State.fixTold_per s, fun p launched byMark late => State.fixDeadline_late (s := s.fixTold) launched byMark late,
      Frame.out (execFixDeadline_does s) next (by decide) (by decide)⟩
  · have next := exec_provisionalSend_due up run fix due
    refine ⟨_, next, (State.fire_per _ _).trans ((State.provSends_does _).part .per rfl), fun p safe live launched byMark phase undecided settled => ?_,
      fun p safe live launched byMark phase undecided unsettled ready => ?_, Frame.outNone (execProvisionalSend_does s) next (by decide) (by decide)⟩
    · have told : s.provTold.ProvDue p := ⟨launched, byMark, .inr phase, undecided⟩
      rw [State.provSends_prob safe live, State.provSendTime_gathers told settled, State.provGather, State.prob_setProb_self]
      rfl
    · have told : s.provTold.ProvDue p := ⟨launched, byMark, phase, undecided⟩
      rw [State.provSends_prob safe live, State.provSendTime_waits told unsettled ready, State.prob_setProb_self]
      rfl
  · have next := exec_searchDeadline_due up run prov due
    refine ⟨_, next, (State.fire_per _ _).trans ((State.searchEnds_does _).part .per rfl), fun p live open_ => ?_,
      Frame.out (execSearchDeadline_does s) next (by decide) (by decide)⟩
    intro q lost
    obtain ⟨shown, stall, waits, code⟩ := State.searchTold_ends live open_
    have lost_iff : s.detLost q = true ↔ lost := by simp only [State.detLost, Bool.and_eq_true, decide_eq_true_eq, gt_iff_lt, lost]
    refine ⟨fun k => shown (lost_iff.2 k), stall, waits, fun determ budget kept => code.trans (if_pos ?_), fun k => code.trans (if_neg ?_)⟩
    · have kept : s.detLost q = false := Bool.eq_false_iff.2 fun k => kept (lost_iff.1 k)
      exact (Bool.and_eq_true_iff.2 ⟨Bool.and_eq_true_iff.2 ⟨determ, by rw [kept]; rfl⟩, bne_iff_ne.2 budget⟩)
    · rw [Bool.and_eq_true, Bool.and_eq_true, Bool.not_eq_true', bne_iff_ne]
      rintro ⟨⟨determ, kept⟩, budget⟩
      rcases k with free | none | lost
      · exact Bool.noConfusion (determ.symm.trans free)
      · exact budget none
      · exact Bool.noConfusion (kept.symm.trans (lost_iff.2 lost))
  · have next := exec_checkDeadline_due up run srch due
    refine ⟨_, next, (State.fire_per _ _).trans ((State.checkEnds_does _).part .per rfl), fun p live launched undue checked phase => ?_,
      Frame.out (execCheckDeadline_does s) next (by decide) (by decide)⟩
    obtain ⟨verdict, due, inc, fault, valid⟩ := State.checkTold_ends live ⟨launched, undue, checked, phase⟩
    exact ⟨verdict, due, inc, fault, valid⟩
  · have next := exec_commitDeadline_due up run chk due
    refine ⟨_, next, (State.fire_per _ _).trans (State.commitEnd_per _), fun p enabled unreported fresh => ?_,
      Frame.out (execCommitDeadline_does s) next (by decide) (by decide)⟩
    rw [State.bit, (State.fire_does _ _).reg perStatus rfl]
    exact State.commitEnd_late (s := s.commitTold) enabled unreported fresh
  · have next := exec_generalTimerFire_due up on due
    refine ⟨_, next, fun evt c chan => State.timerRestarts_evts evt chan n _, ?_, Frame.outNone (execGeneralTimerFire_does n s) next (by decide) (by decide)⟩
    rw [State.fire_per]
    exact State.timerRestarts_cur s n

end Sys2Proof.Machine
end

section
namespace Sys2Proof.Machine

variable {s t u : State} {m : Nat}

/-! ## What an operation leaves of problems, clusters and registers -/

theorem Does.prob (d : Does m s t) (out : m.testBit 2 = false) (p : Slot) : t.prob p = s.prob p :=
  congrArg (fun qs : Vector Problem 4 => qs[p]) (d.part .probs out)
theorem Does.cl (d : Does m s t) (out : m.testBit 3 = false) (c : Cl) : t.cl c = s.cl c :=
  congrArg (fun qs : Vector Cluster 16 => qs[c]) (d.part .cls out)
theorem Does.bit {a : Nat} (d : Does m s t) (out : m.testBit (pageBit a) = false) (i : Nat) : t.bit a i = s.bit a i :=
  congrArg (fun x : Nat => x.testBit i) (d.reg a out)
theorem Does.phase (d : Does m s t) (out : m.testBit 24 = false) (p : Slot) : t.phase p = s.phase p :=
  congrArg (fun x => bits x 2 0) (d.reg (srchPstat p) (by rw [pageBit_srchPstat (by omega)]; exact out))

end Sys2Proof.Machine
end

section
namespace Sys2Proof.Machine

variable {s : State}

/-! ## The power-up test (R126, R129, R406) -/

/-- Reports of passes join the end of the queue. -/
theorem State.each_selfReport_saf (l : List Nat) : (s.each l fun (s : State) c => s.selfReport c true).saf =
    { s.saf with reports := s.saf.reports ++ l.map fun k => (toFin 16 k, true) } := by
  induction l generalizing s with
  | nil => simp [State.each]
  | cons k l ih => simp only [State.each, List.foldl_cons, List.map_cons] at ih ⊢; rw [ih]; simp [State.selfReport]
theorem State.each_selfReport_does (l : List Nat) : Does 0x800 s (s.each l fun (s : State) c => s.selfReport c true) :=
  Does.each (Does.refl ..) fun _ _ h => Does.andThen (State.selfReport_does ..) h rfl

/-- SRCH_CLAVAIL and BOOT_DEG show what the power-up test found. -/
def State.powerupShown (s : State) (pass : BitVec 16) : State :=
  let bad := 65535 - pass.toNat
  let s := s.wr srchClavail (bad * 65536 + pass.toNat)
  if bad = 0 then s else (s.orReg bootDeg (bad * 65536)).saveProg
/-- The passes of the power-up test are reported. -/
def State.powerupReported (s : State) (pass : BitVec 16) : State :=
  (s.powerupShown pass).each (setBitsOf pass.toNat 16) fun (s : State) c => s.selfReport c true

theorem exec_powerupSelftest_due (up : s.live .srch = true) (due : s.rot.powerupDone = false) (pass : BitVec 16) :
    exec (.powerupSelftest pass) s = .next ((s.powerupReported pass).setRot
      { (s.powerupReported pass).rot with powerupDone := true, cur := 15, stopped := true, tested := true }) :=
  if_neg (by simp [up, due])
theorem exec_powerupSelftest_done (done : s.rot.powerupDone = true) (pass : BitVec 16) : exec (.powerupSelftest pass) s = .next s :=
  if_pos (by simp [done])

theorem State.powerupShown_allPass (s : State) {pass : BitVec 16} (all : pass = 0xFFFF) : s.powerupShown pass = s.wr srchClavail 65535 := by
  subst all
  rfl
theorem State.powerupShown_somePass (s : State) {pass : BitVec 16} (some_ : pass ≠ 0xFFFF) : s.powerupShown pass =
    ((s.wr srchClavail ((65535 - pass.toNat) * 65536 + pass.toNat)).orReg bootDeg ((65535 - pass.toNat) * 65536)).saveProg := by
  have less : pass.toNat ≠ 65535 := fun e => some_ (BitVec.eq_of_toNat_eq e)
  have lt := pass.isLt
  exact if_neg (by omega)
theorem State.powerupShown_avail (s : State) (pass : BitVec 16) :
    (s.powerupShown pass).rd srchClavail = (65535 - pass.toNat) * 65536 + pass.toNat := by
  have lt := pass.isLt
  have fits : ((65535 - pass.toNat) * 65536 + pass.toNat) % 2 ^ 32 = (65535 - pass.toNat) * 65536 + pass.toNat := by omega
  by_cases all : pass = 0xFFFF
  · rw [State.powerupShown_allPass s all, all]
    exact State.rd_wr_self ..
  · rw [State.powerupShown_somePass s all, (State.saveProg_does _).reg _ (by decide), State.orReg, State.rd_wr_ne _ (by decide), State.rd_wr_self, fits]
theorem State.powerupShown_deg (s : State) {pass : BitVec 16} (some_ : pass ≠ 0xFFFF) :
    (s.powerupShown pass).rd bootDeg = s.rd bootDeg ||| (65535 - pass.toNat) * 65536 := by
  rw [State.powerupShown_somePass s some_, (State.saveProg_does _).reg _ (by decide), State.orReg, State.rd_wr_self, State.rd_wr_ne _ (by decide)]
  exact Nat.mod_eq_of_lt (Nat.or_lt_two_pow (s.rd_lt bootDeg) (by omega))
theorem State.powerupShown_frame (s : State) (pass : BitVec 16) : Frame [.mem] (regsOf [srchClavail, bootDeg]) s (s.powerupShown pass) := by
  have shown : Frame [.mem] (regsOf [srchClavail, bootDeg]) s (s.wr srchClavail ((65535 - pass.toNat) * 65536 + pass.toNat)) :=
    (Frame.refl ..).wr List.mem_cons_self
  exact shown.ite (Frame.doesNone (State.saveProg_does _) (shown.orReg (List.mem_cons_of_mem _ List.mem_cons_self)) rfl (by decide))
theorem State.powerupReported_does (s : State) (pass : BitVec 16) : Does 0x800 (s.powerupShown pass) (s.powerupReported pass) :=
  State.each_selfReport_does _
theorem State.powerupReported_reports (s : State) (pass : BitVec 16) : (s.powerupReported pass).saf.reports =
    s.saf.reports ++ (setBitsOf pass.toNat 16).map fun k => (toFin 16 k, true) := by
  have saf : (s.powerupShown pass).saf = s.saf := (State.powerupShown_frame s pass).1 .saf (by decide)
  unfold State.powerupReported
  rw [State.each_selfReport_saf, saf]
theorem State.powerupReported_frame (s : State) (pass : BitVec 16) :
    Frame [.mem, .rot, .saf] (regsOf [srchClavail, bootDeg]) s (s.powerupReported pass) := by
  obtain ⟨parts, regs, queue⟩ := State.powerupShown_frame s pass
  have shown : Frame [.mem, .rot, .saf] (regsOf [srchClavail, bootDeg]) s (s.powerupShown pass) :=
    ⟨fun x out => parts x fun mem => out (List.mem_singleton.1 mem ▸ List.mem_cons_self), regs, queue⟩
  exact Frame.doesNone (State.powerupReported_does s pass) shown rfl (by decide)
theorem State.powerupReported_allPass (s : State) {pass : BitVec 16} (all : pass = 0xFFFF) :
    Frame [.rot, .saf] (regsOf [srchClavail]) s (s.powerupReported pass) := by
  have shown : Frame [.rot, .saf] (regsOf [srchClavail]) s (s.powerupShown pass) := by
    rw [State.powerupShown_allPass s all]
    exact (Frame.refl ..).wr List.mem_cons_self
  exact Frame.doesNone (State.powerupReported_does s pass) shown rfl (by decide)

/-! ## The slots of the rotation (R127) -/

/-- A slot that starts for cluster c: no segment is done, SLOTPER periods lie ahead, and PASSED stays as it is. -/
theorem State.startSlot_rot (s : State) (c : Nat) : (s.startSlot c).rot =
    { s.rot with cur := c, left := s.fld srchStcfg 15 0, segRunning := false, tested := false, stopped := false } := by
  have cfg : ((((s.setFld srchStstat 11 8 c).setFld srchStstat 6 4 0).setFld srchStstat 3 0 (s.fld srchStstat 3 0 + 1)).fld srchStcfg 15 0) = s.fld srchStcfg 15 0 := by
    simp only [State.setFld, State.fld_wr_ne _ (show srchStcfg ≠ srchStstat by decide)]
  rw [← cfg]
  rfl
theorem State.startSlot_fields (s : State) (c : Nat) : (s.startSlot c).fld srchStstat 11 8 = c % 16 ∧ (s.startSlot c).fld srchStstat 6 4 = 0 ∧
    (s.startSlot c).fld srchStstat 31 16 = s.fld srchStstat 31 16 := by
  unfold State.startSlot
  simp only [State.setRot_fld]
  refine ⟨?_, ?_, ?_⟩
  · rw [State.fld_setFld_ne _ (by decide) (by decide) (by decide) (by decide), State.fld_setFld_ne _ (by decide) (by decide) (by decide) (by decide),
      State.fld_setFld_self _ (by decide) (by decide)]
    rfl
  · rw [State.fld_setFld_ne _ (by decide) (by decide) (by decide) (by decide), State.fld_setFld_self _ (by decide) (by decide)]
    rfl
  · rw [State.fld_setFld_ne _ (by decide) (by decide) (by decide) (by decide), State.fld_setFld_ne _ (by decide) (by decide) (by decide) (by decide),
      State.fld_setFld_ne _ (by decide) (by decide) (by decide) (by decide)]
theorem State.startSlot_frame (s : State) (c : Nat) : Frame [.rot] (regsOf [srchStstat]) s (s.startSlot c) :=
  ((((Frame.refl ..).setFld List.mem_cons_self).setFld List.mem_cons_self).setFld List.mem_cons_self).upd_rot List.mem_cons_self

theorem exec_selftestSlotEnd_last (going : s.rotating = true) (last : s.rot.left = 0) : exec .selftestSlotEnd s = .next s.nextSlot :=
  if_pos (by simp [going, last])
/-- A cluster whose exclusion was cleared comes before the order. -/
theorem State.nextSlot_freed {d : Nat} {rest : List Nat} (freed : s.rot.first = d :: rest) : s.nextSlot =
    (s.setRot { s.rot with first := rest, resumeAt := some (s.rot.resumeAt.getD s.rot.cur) }).startSlot d := by
  unfold State.nextSlot
  rw [freed]
/-- PASSED after the order has come to cluster d. -/
def State.orderAt (s : State) (d : Nat) : State :=
  let s' := s.setRot { s.rot with resumeAt := none }
  if d ≤ s.rot.resumeAt.getD s.rot.cur then s'.setFld srchStstat 31 16 0 else s'
theorem State.nextSlot_ordered {d : Nat} (none_ : s.rot.first = []) (next : s.nextTest (s.rot.resumeAt.getD s.rot.cur) = some d) :
    s.nextSlot = (s.orderAt d).startSlot d := by
  have same : (s.setRot { s.rot with resumeAt := none }).nextTest (s.rot.resumeAt.getD s.rot.cur) = some d := next
  unfold State.nextSlot
  rw [none_]
  dsimp only
  rw [same]
  rfl
theorem State.orderAt_frame (s : State) (d : Nat) : Frame [.rot] (regsOf [srchStstat]) s (s.orderAt d) := by
  have resumed : Frame [.rot] (regsOf [srchStstat]) s (s.setRot { s.rot with resumeAt := none }) := (Frame.refl ..).upd_rot List.mem_cons_self
  exact (resumed.setFld List.mem_cons_self).ite resumed
theorem State.orderAt_cfg (s : State) (d : Nat) : (s.orderAt d).fld srchStcfg 15 0 = s.fld srchStcfg 15 0 :=
  congrArg (fun x => bits x 15 0) ((State.orderAt_frame s d).2.1 srchStcfg (by unfold regsOf; decide))

/-! ## Segments (R127, R128) -/

theorem exec_selftestSegmentStart_due (due : s.rotating = true ∧ s.per.running = true ∧ s.per.srchPassed = true ∧ s.dlFc 2 + 320 + 528 ≤ s.per.len ∧
    s.rot.tested = false ∧ s.rot.segRunning = false ∧ s.rot.ran = false ∧ s.testable s.rot.cur = true) :
    exec .selftestSegmentStart s = .next (s.setRot { s.rot with segRunning := true, ran := true }) :=
  if_pos (by simpa [and_assoc] using due)
theorem exec_selftestSegmentStart_undue (undue : ¬ (s.rotating = true ∧ s.per.running = true ∧ s.per.srchPassed = true ∧
    s.dlFc 2 + 320 + 528 ≤ s.per.len ∧ s.rot.tested = false ∧ s.rot.segRunning = false ∧ s.rot.ran = false ∧ s.testable s.rot.cur = true)) :
    exec .selftestSegmentStart s = .next s :=
  if_neg (by simpa [and_assoc] using undue)

/-- The running segment has ended and is counted. -/
def State.segmentDone (s : State) : State :=
  (s.setRot { s.rot with segRunning := false }).setFld srchStstat 6 4 (s.fld srchStstat 6 4 + 1)
theorem State.segmentDone_count (s : State) : s.segmentDone.fld srchStstat 6 4 = (s.fld srchStstat 6 4 + 1) % 8 :=
  State.fld_setFld_self _ (by decide) (by decide)
theorem State.segmentDone_frame (s : State) : Frame [.rot] (regsOf [srchStstat]) s s.segmentDone :=
  ((Frame.refl ..).upd_rot List.mem_cons_self).setFld List.mem_cons_self
/-- The sixth segment has agreed: the cluster under test has passed. -/
def State.sixthDone (s : State) : State :=
  (s.segmentDone.setBit srchStstat (16 + s.rot.cur) true).setRot { s.segmentDone.rot with tested := true }
/-- A pass is declared. -/
def State.segmentsPassed (s : State) : State :=
  let c := toFin 16 s.rot.cur
  (s.sixthDone.setCl c { s.sixthDone.cl c with needsPass := false }).selfReport s.rot.cur true

theorem exec_selftestSegmentEnd_differs (up : s.live .srch = true) (going : s.rot.segRunning = true) :
    exec (.selftestSegmentEnd false) s = .next (s.segmentDone.selfFail s.rot.cur) := if_neg (by simp [up, going])
theorem exec_selftestSegmentEnd_agrees (up : s.live .srch = true) (going : s.rot.segRunning = true) (few : s.fld srchStstat 6 4 < 5) :
    exec (.selftestSegmentEnd true) s = .next s.segmentDone :=
  (if_neg (by simp [up, going])).trans (if_pos (Nat.succ_lt_succ few))
theorem exec_selftestSegmentEnd_passes (up : s.live .srch = true) (going : s.rot.segRunning = true) (last : s.fld srchStstat 6 4 = 5) :
    exec (.selftestSegmentEnd true) s = .next s.segmentsPassed :=
  (if_neg (by simp [up, going])).trans (if_neg (show ¬ s.fld srchStstat 6 4 + 1 < 6 by omega))

theorem State.selfReport_cl (s : State) (c : Nat) (pass : Bool) (d : Cl) : (s.selfReport c pass).cl d = s.cl d := rfl
theorem State.sixthDone_cl (s : State) (d : Cl) : s.sixthDone.cl d = s.cl d := rfl
theorem State.segmentsPassed_count (last : s.fld srchStstat 6 4 = 5) (small : s.rot.cur < 16) : s.segmentsPassed.fld srchStstat 6 4 = 6 := by
  refine (State.fld_setFld_ne s.segmentDone (le_refl _) (by omega) (by omega) (by decide)).trans ?_
  rw [State.segmentDone_count, last]
theorem State.segmentsPassed_shown (s : State) (small : s.rot.cur < 16) : s.segmentsPassed.bit srchStstat (16 + s.rot.cur) = true :=
  State.bit_setBit_self s.segmentDone true (by omega)
theorem State.segmentsPassed_needs (s : State) : (s.segmentsPassed.cl (toFin 16 s.rot.cur)).needsPass = false := by
  unfold State.segmentsPassed
  rw [State.selfReport_cl, State.cl_setCl_self]
theorem State.segmentsPassed_others (s : State) {d : Cl} (other : d ≠ toFin 16 s.rot.cur) : s.segmentsPassed.cl d = s.cl d := by
  unfold State.segmentsPassed
  rw [State.selfReport_cl, State.cl_setCl_ne _ other, State.sixthDone_cl]
theorem State.segmentsPassed_frame (s : State) : Frame [.cls, .rot, .saf] (regsOf [srchStstat]) s s.segmentsPassed := by
  have ended : Frame [.cls, .rot, .saf] (regsOf [srchStstat]) s s.segmentDone := ((Frame.refl ..).upd_rot (by decide)).setFld List.mem_cons_self
  have sixth : Frame [.cls, .rot, .saf] (regsOf [srchStstat]) s s.sixthDone := (ended.setBit List.mem_cons_self).upd_rot (by decide)
  exact (sixth.setCl (by decide)).upd_saf (by decide)

theorem State.selfFail_fault (s : State) {c : Nat} (small : c < 16) : (s.selfFail c).bit srchFault (16 + c) = true := by
  have set : (s.setBit srchFault (16 + c) true).bit srchFault (16 + c) = true := State.bit_setBit_self s true (by omega)
  rw [← set]
  simp only [State.selfFail, State.selfReport, State.bit]
  exact congrArg (fun x : Nat => x.testBit (16 + c)) ((State.rd_wr_ne _ (by decide) _).trans
    ((State.rd_setBit_ne _ (by decide) _ _).trans (State.rd_setBit_ne _ (by decide) _ _)))
theorem State.selfFail_avail (s : State) {c : Nat} (small : c < 16) :
    (s.selfFail c).bit srchClavail (16 + c) = true ∧ (s.selfFail c).bit srchClavail c = false := by
  have shown (i : Nat) : (s.selfFail c).bit srchClavail i =
      (((s.setBit srchFault (16 + c) true).setBit srchClavail (16 + c) true).setBit srchClavail c false).bit srchClavail i :=
    State.bit_wr_ne _ (by decide) _ i
  rw [shown, shown]
  refine ⟨?_, State.bit_setBit_self _ false (by omega)⟩
  rw [State.bit_setBit _ _ _ _ (by omega), if_neg (by omega)]
  exact State.bit_setBit_self _ true (by omega)
theorem State.selfFail_cluster (s : State) {c : Nat} (small : c < 16) : (s.selfFail c).rd srchFaultcl = 0x80000000 + c :=
  (State.rd_wr_self _ srchFaultcl _).trans (Nat.mod_eq_of_lt (by omega))
theorem State.selfFail_frame (s : State) (c : Nat) :
    Frame [.rot, .saf] (regsOf [srchStstat, srchFault, srchClavail, srchFaultcl]) s (s.selfFail c) :=
  (((((Frame.refl ..).setBit (by unfold regsOf; decide)).setBit (by unfold regsOf; decide)).setBit (by unfold regsOf; decide)).wr
    (by unfold regsOf; decide)).upd_rot (by decide) |>.upd_saf (by decide)

/-! ## STEN and CLEXCL (R127) -/

theorem exec_stenWrite_open (up : s.live .srch = true) (open_ : s.bit srchCtrl 31 = false) (en : Bool) :
    exec (.stenWrite en) s = .next (s.setSten en) := if_pos (by simp [up, open_])
theorem exec_clexclWrite_open (up : s.live .srch = true) (open_ : s.bit srchCtrl 31 = false) (v : BitVec 16) :
    exec (.clexclWrite v) s = .next (s.wr srchClexcl v.toNat) := if_pos (by simp [up, open_])
theorem State.setSten_on (s : State) : s.setSten true = s.setBit srchCtrl 0 true := if_neg (by simp)
/-- STEN cleared ends the slot at once. -/
def State.slotStopped (s : State) : State :=
  let t := s.setBit srchCtrl 0 false
  (t.setFld srchStstat 6 4 0).setRot
    { s.rot with stopped := true, segRunning := false, tested := t.bit srchStstat (16 + s.rot.cur) && s.rot.tested }
theorem State.setSten_off (on : s.bit srchCtrl 0 = true) (going : s.rot.stopped = false) : s.setSten false = s.slotStopped :=
  if_pos (by simp [on, going])
theorem State.slotStopped_ctrl (s : State) : s.slotStopped.bit srchCtrl 0 = false :=
  (State.bit_wr_ne (s.setBit srchCtrl 0 false) (show srchCtrl ≠ srchStstat by decide) _ 0).trans (State.bit_setBit_self s false (by decide))
theorem State.slotStopped_frame (s : State) : Frame [.rot] (regsOf [srchCtrl, srchStstat]) s s.slotStopped :=
  (((Frame.refl ..).setBit List.mem_cons_self).setFld (List.mem_cons_of_mem _ List.mem_cons_self)).upd_rot List.mem_cons_self

/-- Settles O22: the power-up test, the segments and slots of the rotation, and the two writes that steer it. -/
theorem clusterSelfTest : Obligations.ClusterSelfTest := by
  intro s up c due
  refine ⟨fun pass fresh => ?_, fun pass done => exec_powerupSelftest_done done pass,
    ⟨fun h => ⟨_, exec_selftestSegmentStart_due h, rfl, (Frame.refl ..).upd_rot List.mem_cons_self⟩, fun h => exec_selftestSegmentStart_undue h⟩,
    fun going small => ?_, fun going last => ?_, fun left => if_neg (by simp [left]), fun open_ => ?_, fun locked en v => ?_⟩
  · refine ⟨_, exec_powerupSelftest_due up fresh pass, ?_, rfl, State.powerupReported_reports s pass, fun all => ?_, fun some_ => ?_, ?_⟩
    · exact ((State.powerupReported_does s pass).reg _ (by decide)).trans (State.powerupShown_avail s pass)
    · exact (State.powerupReported_allPass s all).upd_rot (by decide)
    · exact ((State.powerupReported_does s pass).reg _ (by decide)).trans (State.powerupShown_deg s some_)
    · exact (State.powerupReported_frame s pass).upd_rot (by decide)
  · refine ⟨fun few => ⟨_, exec_selftestSegmentEnd_agrees up going few, ?_, rfl, State.segmentDone_frame s⟩,
      fun last => ⟨_, exec_selftestSegmentEnd_passes up going last, State.segmentsPassed_count last small, State.segmentsPassed_shown s small, rfl, rfl,
        State.segmentsPassed_needs s, fun _ other => State.segmentsPassed_others s other, State.segmentsPassed_frame s⟩,
      ⟨_, exec_selftestSegmentEnd_differs up going, State.selfFail_fault _ small, (State.selfFail_avail _ small).1, (State.selfFail_avail _ small).2,
        State.selfFail_cluster _ small, rfl, rfl, ?_⟩⟩
    · rw [State.segmentDone_count]
      omega
    · have ended : Frame [.rot, .saf] (regsOf [srchStstat, srchFault, srchClavail, srchFaultcl]) s s.segmentDone :=
        ((Frame.refl ..).upd_rot (by decide)).setFld List.mem_cons_self
      exact ended.trans (State.selfFail_frame _ _)
  · refine ⟨fun d rest freed => ?_, fun d none_ next => ?_⟩
    · obtain ⟨cluster, segments, -⟩ := State.startSlot_fields (s.setRot { s.rot with first := rest, resumeAt := some (s.rot.resumeAt.getD c) }) d
      have run := exec_selftestSlotEnd_last going last
      rw [State.nextSlot_freed freed] at run
      have rot := State.startSlot_rot (s.setRot { s.rot with first := rest, resumeAt := some (s.rot.resumeAt.getD c) }) d
      exact ⟨_, run, cluster, segments, congrArg Rotation.cur rot, congrArg Rotation.left rot, congrArg Rotation.first rot, congrArg Rotation.resumeAt rot,
        ((Frame.refl ..).upd_rot List.mem_cons_self).trans (State.startSlot_frame _ d)⟩
    · obtain ⟨cluster, segments, passed⟩ := State.startSlot_fields (s.orderAt d) d
      have run := exec_selftestSlotEnd_last going last
      rw [State.nextSlot_ordered none_ next] at run
      refine ⟨_, run, cluster, segments, ?_, ?_, ?_, fun wraps => passed.trans ?_, fun on => passed.trans ?_,
        (State.orderAt_frame s d).trans (State.startSlot_frame _ d)⟩
      · rw [State.startSlot_rot]
      · rw [State.startSlot_rot, State.orderAt_cfg]
      · rw [State.startSlot_rot]
      · unfold State.orderAt
        rw [if_pos wraps, State.fld_setFld_self _ (by decide) (by decide)]
        rfl
      · unfold State.orderAt
        rw [if_neg (Nat.not_le.2 on)]
        rfl
  · refine ⟨⟨_, exec_stenWrite_open up open_ true, ?_, ?_⟩, fun on running => ⟨_, exec_stenWrite_open up open_ false, ?_⟩,
      fun v => ⟨_, exec_clexclWrite_open up open_ v, ?_, (Frame.refl ..).wr List.mem_cons_self⟩⟩
    · rw [State.setSten_on]
      exact State.bit_setBit_self s true (by decide)
    · rw [State.setSten_on]
      exact (Frame.refl ..).setBit List.mem_cons_self
    · rw [State.setSten_off on running]
      exact ⟨State.slotStopped_ctrl s, rfl, rfl, State.fld_setFld_self (s.setBit srchCtrl 0 false) (by decide) (by decide), State.slotStopped_frame s⟩
    · exact (State.rd_wr_self s srchClexcl _).trans (Nat.mod_eq_of_lt (by have := v.isLt; omega))
  · exact ⟨if_neg (by simp [locked]), if_neg (by simp [locked])⟩

end Sys2Proof.Machine
end

section
namespace Sys2Proof.Machine

variable {s t : State} {p : Slot}

/-! ## Problems that end without a decision (R58, R121, R131, R236, R282) -/

/-- A problem that ends without a decision, its record due. -/
def Problem.ended (q : Problem) (code : Nat) : Problem :=
  { q with close := code, recDue := true, inc := none, gap := 0, provWait := false, provGather := none,
           lookup := false, lookOld := none, lookPos := 0, chWait := none }
/-- A problem after its miss, and after the cluster of a fault has been named. -/
def Problem.told (q : Problem) (missed : Bool) (reason : Nat) (faultCl : Option Nat) : Problem := { q with missed, reason, faultCl }

theorem State.endWithout_ended (s : State) (p : Slot) (code : Nat) : (s.endWithout p code).prob p = (s.prob p).ended code :=
  State.endWithout_prob s p code
theorem State.endWithout_phase (s : State) (p : Slot) (code : Nat) : (s.endWithout p code).phase p = 5 := State.phase_setPhase (by decide)
theorem State.miss_told (s : State) (p : Slot) (reason : Nat) : ∃ m x, (s.miss p reason).prob p = (s.prob p).told m x (s.prob p).faultCl :=
  State.miss_prob s p reason
theorem State.miss_missed (enabled : (s.prob p).enabled = true) (reason : Nat) : ((s.miss p reason).prob p).missed = true := by
  by_cases fresh : (s.prob p).missed = false
  · have due : Does 0x8040200 (s.missShown p reason) (s.miss p reason) := by
      rw [State.miss_due enabled fresh]
      exact Does.andThen (State.capTrig_does _ _) (State.fire_does _ _ |>.mono rfl) rfl
    rw [due.prob rfl]
    exact congrArg Problem.missed (State.prob_setProb_self ..)
  · rw [Bool.not_eq_false] at fresh
    rw [State.miss_idle (.inl fresh), fresh]
theorem State.miss_phase (s : State) (p : Slot) (reason : Nat) : (s.miss p reason).phase p = s.phase p := (State.miss_does s p reason).phase rfl p

theorem State.syncInc_phase (s : State) (p : Slot) : (s.syncInc p).phase p = s.phase p :=
  State.fld_setFld_ne s (le_refl 8) (by decide) (by decide) (by decide)
theorem State.decisionFault_told (s : State) (p : Slot) (c : Nat) : ∃ m x f, (s.decisionFault p c).prob p = (s.prob p).told m x f := by
  let u := (((s.wr srchFaultcl (0x80000000 + c)).setProb p { s.prob p with faultCl := some ((s.prob p).faultCl.getD c) }).fire 0x18).capTrig 2
  have kept : Does 0x8040200 ((s.wr srchFaultcl (0x80000000 + c)).setProb p { s.prob p with faultCl := some ((s.prob p).faultCl.getD c) }) u :=
    Does.andThen (State.capTrig_does _ _) (State.fire_does _ _ |>.mono rfl) rfl
  obtain ⟨m, x, told⟩ := State.miss_told u p 3
  rw [kept.prob rfl p, State.prob_setProb_self] at told
  exact ⟨m, x, _, told⟩
/-- A decision-path fault leaves SRCH but for SRCH_FAULTCL. -/
theorem State.decisionFault_reg (s : State) (p : Slot) (c : Nat) {a : Nat} (page : pageBit a = 24) (other : a ≠ srchFaultcl) :
    (s.decisionFault p c).rd a = s.rd a := by
  let u := (s.wr srchFaultcl (0x80000000 + c)).setProb p { s.prob p with faultCl := some ((s.prob p).faultCl.getD c) }
  have fired : Does 0x8840204 u (s.decisionFault p c) :=
    Does.andThen (State.miss_does _ _ _) (Does.andThen (State.capTrig_does _ _) (State.fire_does _ _ |>.mono rfl) rfl) rfl
  exact (fired.reg a (page ▸ rfl)).trans (State.rd_wr_ne s other _)

/-- The clusters of a problem are emptied. -/
def State.clsCleared (s : State) (emask : Nat) : State := s.each (clsOf emask) fun s c => s.setCl c (s.cl c).cleared
theorem State.clsCleared_does (s : State) (emask : Nat) : Does 0x8 s (s.clsCleared emask) :=
  Does.each (Does.refl ..) fun _ _ h => Does.andThen Does.setCl h rfl

/-- A problem whose result a fault withholds. -/
def Problem.faulted (q : Problem) (now fc : Nat) : Problem := { q.unstallAt now with verdict := 2, closeFc := fc }

theorem State.dataFault_told (s : State) (p : Slot) : ∃ fc m x, (s.dataFault p).prob p =
    (((s.prob p).faulted s.per.now fc).ended 5).told m x (s.prob p).faultCl := by
  let fc := if s.phase p = 1 then 256 else if s.phase p = 4 then ((s.prob p).unstallAt s.per.now).closeFc else s.per.now - ((s.prob p).unstallAt s.per.now).launchFc
  let u := (s.setProb p ((s.prob p).faulted s.per.now fc)).clsCleared (s.prob p).emask
  have marked : u.prob p = (s.prob p).faulted s.per.now fc := ((State.clsCleared_does _ _).prob rfl p).trans (State.prob_setProb_self ..)
  let v := (((u.endWithout p 5).syncInc p).fire 0x18).capTrig 2
  have kept : Does 0x9040200 (u.endWithout p 5) v :=
    Does.andThen (State.capTrig_does _ _) (Does.andThen (State.fire_does _ _) (State.syncInc_does _ _ |>.mono rfl) rfl) rfl
  obtain ⟨m, x, told⟩ := State.miss_told v p 3
  rw [kept.prob rfl p, State.endWithout_ended, marked] at told
  exact ⟨fc, m, x, told⟩
theorem State.dataFault_phase (s : State) (p : Slot) : (s.dataFault p).phase p = 5 := by
  unfold State.dataFault
  rw [State.miss_phase, (State.capTrig_does _ _).phase rfl, (State.fire_does _ _).phase rfl, State.syncInc_phase, State.endWithout_phase]

/-- The state in which a search has stopped on a fault, before the fault is told. -/
def State.stopped (s : State) (p : Slot) : State :=
  let q := (s.prob p).unstallAt s.per.now
  let fc := if s.phase p = 4 then q.closeFc else s.per.now - q.launchFc
  (((s.setProb p { q with verdict := 2, closeFc := fc }).clsCleared q.emask).endWithout p 5).syncInc p
theorem State.stopFault_eq (s : State) (p : Slot) (c : Cl) (fbit : Nat) :
    s.stopFault p c fbit = ((s.stopped p).setBit srchFault fbit true).decisionFault p c := rfl
theorem State.stopped_prob (s : State) (p : Slot) : ∃ fc, (s.stopped p).prob p = ((s.prob p).faulted s.per.now fc).ended 5 := by
  refine ⟨if s.phase p = 4 then (s.prob p).closeFc else s.per.now - (s.prob p).launchFc, ?_⟩
  unfold State.stopped
  rw [State.syncInc, State.setBit_prob, State.endWithout_ended, (State.clsCleared_does _ _).prob rfl, State.prob_setProb_self]
  rfl
theorem State.stopFault_told (s : State) (p : Slot) (c : Cl) (fbit : Nat) : ∃ fc m x f, (s.stopFault p c fbit).prob p =
    (((s.prob p).faulted s.per.now fc).ended 5).told m x f := by
  obtain ⟨fc, ended⟩ := State.stopped_prob s p
  obtain ⟨m, x, f, told⟩ := State.decisionFault_told ((s.stopped p).setBit srchFault fbit true) p c
  exact ⟨fc, m, x, f, told.trans (by rw [State.setBit_prob, ended])⟩
theorem State.stopFault_phase (s : State) (p : Slot) (c : Cl) (fbit : Nat) : (s.stopFault p c fbit).phase p = 5 := by
  have stopped : (s.stopped p).phase p = 5 := (State.syncInc_phase _ p).trans (State.endWithout_phase ..)
  rw [← stopped, State.stopFault_eq]
  refine congrArg (fun x => bits x 2 0) ((State.decisionFault_reg _ p c (pageBit_srchPstat (by omega)) (srchFaultcl_ne_srchPstat p).symm).trans ?_)
  exact State.rd_setBit_ne _ (srchFault_ne_srchPstat p).symm _ _
theorem State.stopFault_fault (s : State) (p : Slot) (c : Cl) {fbit : Nat} (small : fbit < 32) : (s.stopFault p c fbit).bit srchFault fbit = true := by
  rw [State.stopFault_eq, State.bit, State.decisionFault_reg _ p c (by decide) (by decide)]
  exact State.bit_setBit_self _ true small

/-! ## Writes that the latch has stalled (R86) -/

theorem State.applyStalled_prob (s : State) (p : Slot) : (s.applyStalled p).prob p = { s.prob p with stalled := [] } := by
  have written : Does 0x80000000001 (s.setProb p { s.prob p with stalled := [] }) (s.applyStalled p) :=
    Does.each (Does.refl ..) fun _ _ h => Does.andThen Does.sramPut h rfl
  exact (written.prob rfl p).trans (State.prob_setProb_self ..)
theorem State.applyStalled_phase (s : State) (p : Slot) : (s.applyStalled p).phase p = s.phase p := (State.applyStalled_does s p).phase rfl p

end Sys2Proof.Machine
end

section
namespace Sys2Proof.Machine

variable {s : State} {p : Slot}

/-! ## LAUNCH (R113, R116) -/

/-- The state in which a launch of slot p at fabric cycle `now` is served. -/
def State.launchAsked (s : State) (p : Slot) (now : Nat) : State := (s.tellNow now).did [p]
theorem State.launchAsked_frame {rs : Nat → Prop} (p : Slot) (now : Nat) : Frame [.per, .pins] rs s (s.launchAsked p now) :=
  ((Frame.refl ..).upd_per (by decide)).upd_pins (by decide)
theorem exec_launch_live (up : s.live .srch = true) (now : Nat) : exec (.launch p now) s = .next ((s.launchAsked p now).launchReq p) := if_pos up

/-- R116: the slot launches itself at the mark, was launched in the period, comes after the search deadline or before the power-up test. -/
def State.launchRefused (s : State) (p : Slot) : Prop :=
  (slotTable s p).runahead = true ∧ s.bit (srchPstat p) 3 = false ∨ (s.prob p).launched = true ∨ s.per.srchPassed = true ∨ s.rot.powerupDone = false
theorem State.launchReq_refused (h : s.launchRefused p) : s.launchReq p = s.setBit srchStatus (12 + p) true := by
  refine if_pos ?_
  simp only [Bool.or_eq_true, Bool.and_eq_true, Bool.not_eq_true', or_assoc]
  exact h
/-- R116: the launch is accepted when the table is enabled. -/
structure State.LaunchOpen (s : State) (p : Slot) : Prop where
  request : (slotTable s p).runahead = false ∨ s.bit (srchPstat p) 3 = true
  first : (s.prob p).launched = false
  before : s.per.srchPassed = false
  tested : s.rot.powerupDone = true
theorem State.LaunchOpen.guard (h : s.LaunchOpen p) :
    ((slotTable s p).runahead && !s.bit (srchPstat p) 3 || (s.prob p).launched || s.per.srchPassed || !s.rot.powerupDone) = false := by
  obtain ⟨request, first, before, tested⟩ := h
  rw [first, before, tested]
  rcases request with free | suspended
  · rw [free]; rfl
  · rw [suspended]; simp
theorem State.launchReq_disabled (h : s.LaunchOpen p) (off : (slotTable s p).enable = false) :
    s.launchReq p = (s.setProb p { s.prob p with wasEnabled := false }).setBit srchStatus (12 + p) true :=
  (if_neg (by simp only [h.guard]; decide)).trans (if_pos (by rw [off]; rfl))
theorem State.launchReq_starts (h : s.LaunchOpen p) (on : (slotTable s p).enable = true) : s.launchReq p = s.startLatch p false s.per.now :=
  (if_neg (by simp only [h.guard]; decide)).trans (if_neg (by rw [on]; decide))

/-- The problem of a slot whose latch has begun. -/
def State.latchBegun (s : State) (p : Slot) (byMark : Bool) (now : Nat) : Problem :=
  let t := slotTable s p
  let umax := s.clampMax t
  let code := s.validate p t umax
  { s.prob p with launched := true, enabled := true, byMark, launchFc := now, launchCount := s.rd perCount,
                  tbl := t, umax, code, emask := if code = 0 then t.mask &&& s.usable else 0, chartBuf := s.launchChart p }
theorem State.startLatch_prob (s : State) (p : Slot) (byMark : Bool) (now : Nat) :
    (s.startLatch p byMark now).prob p = s.latchBegun p byMark now := by
  have same : s.startLatch p byMark now = ((s.setProb p (s.latchBegun p byMark now)).showAvail (slotTable s p)).setPhase p 1 := rfl
  rw [same, State.setPhase_prob, (State.showAvail_does _ _).prob rfl, State.prob_setProb_self]
theorem State.SlotOnly.startLatch (s : State) (p : Slot) (byMark : Bool) (now : Nat) : State.SlotOnly p s (s.startLatch p byMark now) :=
  (State.SlotOnly.does (State.showAvail_does _ _) ((State.SlotOnly.refl p s).setProb _) rfl).setPhase 1

/-! ## LATCH (R38, R83, R86, R113, R282) -/

/-- The latch ends with the search begun or closed, or with a table that has failed, and then writes that it stalled take effect. -/
theorem State.latchDone_cases (s : State) (p : Slot) : ∃ u : State, s.latchDone p = u.applyStalled p ∧
    ((∃ (w : State) (q : Problem), q.enabled = (s.prob p).enabled ∧ u = ((w.setProb p q).endWithout p 6).miss p 1) ∨
      (s.prob p).code = 0 ∧ ((∃ w : State, u = w.setPhase p 2) ∨ ∃ (w : State) (c fc : Nat), u = w.closeWith p c fc)) := by
  unfold State.latchDone
  extract_lets q t isNew hist u um clamped code obs since base xh x0 found rho perr buf chartOff vstat age shown q' shifted q₁ q₂ planted served counted searching
    ended
  refine ⟨ended, rfl, ?_⟩
  by_cases bad : found ≠ 0
  · exact .inl ⟨shown, q', rfl, if_pos bad⟩
  · have valid : code = 0 := by
      by_contra failed
      obtain ⟨n, e⟩ := Nat.exists_eq_succ_of_ne_zero failed
      exact bad (by simp [found, e])
    refine .inr ⟨valid, ?_⟩
    by_cases asked : q₂.closeAtLatch ≠ 0
    · exact .inr ⟨searching, q₂.closeAtLatch, 256, (if_neg bad).trans (if_pos asked)⟩
    · by_cases spent : 1 ≤ t.budget ∧ t.budget ≤ 256
      · exact .inr ⟨searching, 2, 256, (if_neg bad).trans ((if_neg asked).trans (if_pos spent))⟩
      · exact .inl ⟨counted, (if_neg bad).trans ((if_neg asked).trans (if_neg spent))⟩
theorem State.latchDone_phase (s : State) (p : Slot) : (s.latchDone p).phase p = 2 ∨ (s.latchDone p).phase p = 4 ∨ (s.latchDone p).phase p = 5 := by
  obtain ⟨u, done, ⟨w, q, -, ended⟩ | ⟨-, ⟨w, searching⟩ | ⟨w, c, fc, closed⟩⟩⟩ := State.latchDone_cases s p
  · rw [done, State.applyStalled_phase, ended, State.miss_phase]
    exact .inr (.inr (State.endWithout_phase ..))
  · rw [done, State.applyStalled_phase, searching]
    exact .inl (State.phase_setPhase (by decide))
  · rw [done, State.applyStalled_phase, closed]
    exact .inr (.inl (State.phase_setPhase (by decide)))
theorem State.latchDone_failed (bad : (s.prob p).code ≠ 0) : (s.latchDone p).phase p = 5 ∧ ((s.latchDone p).prob p).close = 6 ∧
    ((s.latchDone p).prob p).recDue = true ∧ ((s.prob p).enabled = true → ((s.latchDone p).prob p).missed = true) := by
  obtain ⟨u, done, ⟨w, q, same, ended⟩ | ⟨valid, -⟩⟩ := State.latchDone_cases s p
  · have closed : ((w.setProb p q).endWithout p 6).prob p = q.ended 6 := by rw [State.endWithout_ended, State.prob_setProb_self]
    obtain ⟨m, x, told⟩ := State.miss_told ((w.setProb p q).endWithout p 6) p 1
    rw [closed] at told
    rw [done, State.applyStalled_phase, State.applyStalled_prob, ended, State.miss_phase]
    refine ⟨State.endWithout_phase .., by rw [told]; rfl, by rw [told]; rfl, fun enabled => State.miss_missed ?_ 1⟩
    rw [closed]
    exact same.trans enabled
  · exact absurd valid bad

/-- A latch stops on an uncorrectable word in its slot's data, and else runs to its end. -/
theorem exec_latch_latching (up : s.live .srch = true) (latch : s.phase p = 1) (ue : Option (BitVec 16)) : exec (.latch p ue) s =
    .next (if (s.noteSlot p ue).bad (slotBase p) tableBytes then ((s.noteSlot p ue).dataFault p).applyStalled p else (s.noteSlot p ue).latchDone p) :=
  if_pos (by simp [up, latch])

/-- Settles O10: a launch by what R116 finds, and the latch by what it reads and validates. -/
theorem launchAndLatch : Obligations.LaunchAndLatch := by
  intro s p up
  have asked (now : Nat) := exec_launch_live (p := p) up now
  refine ⟨fun now request first before tested on => ?_, fun now refused => ?_, fun now request first before tested off => ?_, fun ue latch => ?_⟩
  · have open_ : (s.launchAsked p now).LaunchOpen p := ⟨request, first, before, tested⟩
    have run := asked now
    have out := Frame.out (ps := [.per, .probs, .pins]) (bases := [srchBase, cellBase]) (execLaunch_does p now s) run (by decide) (by decide)
    rw [State.launchReq_starts open_ on] at run out
    have latched := State.startLatch_prob (s.launchAsked p now) p false (s.launchAsked p now).per.now
    refine ⟨_, run, State.phase_setPhase (by decide), ?_, ?_, ?_, ?_, (State.SlotOnly.startLatch (s.launchAsked p now) p false _).probs, out⟩
    all_goals rw [latched]; rfl
  · have run := asked now
    rw [State.launchReq_refused (s := s.launchAsked p now) refused] at run
    exact ⟨_, run, State.bit_setBit_self _ true (by omega), rfl, (State.launchAsked_frame p now).setBit List.mem_cons_self⟩
  · have open_ : (s.launchAsked p now).LaunchOpen p := ⟨request, first, before, tested⟩
    have run := asked now
    rw [State.launchReq_disabled open_ off] at run
    have told : Frame [.per, .probs, .pins] (regsOf [srchStatus]) s (s.launchAsked p now) := ((Frame.refl ..).upd_per (by decide)).upd_pins (by decide)
    exact ⟨_, run, State.bit_setBit_self _ true (by omega), State.prob_setProb_self .., fun r e => State.prob_setProb_ne (s.launchAsked p now) e _,
      (told.setProb (by decide)).setBit List.mem_cons_self⟩
  · intro hurt
    have run := exec_latch_latching up latch ue
    have out := Frame.out (ps := [.mem, .probs, .cls, .cap, .pins, .flaws]) (bases := [perBase, srchBase, chrtBase, capBase])
      (execLatch_does p ue s) run (by decide) (by decide)
    have noted : (s.noteSlot p ue).prob p = s.prob p := (State.noteSlot_does s p ue).prob rfl p
    cases word : hurt with
    | true =>
      rw [if_pos word] at run out
      obtain ⟨fc, m, x, told⟩ := State.dataFault_told (s.noteSlot p ue) p
      have phase : (((s.noteSlot p ue).dataFault p).applyStalled p).phase p = 5 := (State.applyStalled_phase ..).trans (State.dataFault_phase ..)
      have stalled := State.applyStalled_prob ((s.noteSlot p ue).dataFault p) p
      rw [told] at stalled
      refine ⟨_, run, .inr (.inr phase), by rw [stalled], nofun, fun _ => ⟨phase, ?_, ?_, ?_, ?_⟩, out⟩
      all_goals rw [stalled]; rfl
    | false =>
      rw [if_neg (ne_true_of_eq_false word)] at run out
      obtain ⟨u, done, -⟩ := State.latchDone_cases (s.noteSlot p ue) p
      refine ⟨_, run, State.latchDone_phase .., ?_, fun _ bad => ?_, nofun, out⟩
      · rw [done, State.applyStalled_prob]
      · rw [← noted] at bad ⊢
        exact State.latchDone_failed bad

end Sys2Proof.Machine
end

section
namespace Sys2Proof.Machine

variable {s : State} {p : Slot} {c : Cl}

/-! ## Walks over the clusters of a problem -/

/-- In a walk that changes clusters, each by its own step alone, every cluster has made its step once. -/
theorem State.each_cl {α : Type} {key : α → Cl} {g : α → Cluster → Cluster} {f : State → α → State}
    (step : ∀ u a d, (f u a).cl d = if d = key a then g a (u.cl d) else u.cl d) (l : List α) (nodup : (l.map key).Nodup) :
    (∀ a ∈ l, (s.each l f).cl (key a) = g a (s.cl (key a))) ∧ ∀ d, d ∉ l.map key → (s.each l f).cl d = s.cl d := by
  induction l generalizing s with
  | nil => exact ⟨fun _ k => absurd k List.not_mem_nil, fun _ _ => rfl⟩
  | cons a l ih =>
    obtain ⟨fresh, nodup⟩ := List.nodup_cons.1 nodup
    obtain ⟨own, others⟩ := ih (s := f s a) nodup
    refine ⟨fun b mem => ?_, fun d out => ?_⟩
    · rcases List.mem_cons.1 mem with rfl | later
      · exact (others _ fresh).trans ((step s b _).trans (if_pos rfl))
      · have ne : key b ≠ key a := fun e => fresh (e ▸ List.mem_map_of_mem later)
        exact (own b later).trans (congrArg (g b) ((step s a _).trans (if_neg ne)))
    · rw [List.map_cons, List.mem_cons, not_or] at out
      exact (others d out.2).trans ((step s a d).trans (if_neg out.1))
theorem clsOf_nodup (emask : Nat) : (clsOf emask).Nodup := (List.nodup_finRange 16).filter _
/-- The same over the clusters of a mask. -/
theorem State.each_clsOf {g : Cluster → Cluster} {f : State → Cl → State} (step : ∀ u a d, (f u a).cl d = if d = a then g (u.cl d) else u.cl d)
    (emask : Nat) : (∀ k ∈ clsOf emask, (s.each (clsOf emask) f).cl k = g (s.cl k)) ∧ ∀ d, d ∉ clsOf emask → (s.each (clsOf emask) f).cl d = s.cl d := by
  obtain ⟨own, others⟩ := State.each_cl (s := s) (key := id) (g := fun _ => g) step (clsOf emask) (by rw [List.map_id]; exact clsOf_nodup emask)
  rw [List.map_id] at others
  exact ⟨own, others⟩
/-- A cluster after a write of one. -/
theorem State.cl_setCl (s : State) (c d : Cl) (q : Cluster) : (s.setCl c q).cl d = if d = c then q else s.cl d := by
  by_cases e : d = c
  · rw [if_pos e, e, State.cl_setCl_self]
  · rw [if_neg e, State.cl_setCl_ne s e]

/-! ## The pruning test and the issue of a batch (R99 to R101) -/

theorem Problem.prune_kept {q : Problem} {inc : Option Inc} {lb : Nat} {pfx : Course} (h : (q.prune inc lb pfx).2 = false) :
    q.prune inc lb pfx = (q, false) := by
  unfold Problem.prune at h ⊢
  split
  · next hard => rw [if_pos hard] at h; exact Bool.noConfusion h
  · next soft =>
    rw [if_neg soft] at h
    split
    · next v eps => rw [eps] at h; exact Bool.noConfusion h
    · rfl
theorem passNode_prunes {q : Problem} {k : Cluster} {n : Node} {rest : List Node} (h : (q.prune k.inc n.lb n.pfx).2 = true) :
    passNode q k n rest = ((q.prune k.inc n.lb n.pfx).1, k, rest) := if_pos h
/-- The cluster with the batch of node n issued. -/
def Cluster.issue (k : Cluster) (n : Node) (batch : List Leg) : Cluster :=
  if batch.isEmpty then k else { k with flight := k.flight ++ [{ parent := n, kids := batch }] }
theorem passNode_issues {q : Problem} {k : Cluster} {n : Node} {rest : List Node} (h : (q.prune k.inc n.lb n.pfx).2 = false) :
    passNode q k n rest = ({ q with legs := q.legs + (nextBatch q n).1.length }, k.issue n (nextBatch q n).1,
      if (nextBatch q n).2.kids = some [] then rest else (nextBatch q n).2 :: rest) := by
  unfold passNode
  rw [Problem.prune_kept h]
  rfl
theorem nextBatch_width (q : Problem) (n : Node) : (nextBatch q n).1.length ≤ batchWidth q.tbl.check := List.length_take_le ..

/-- The cluster's loop has passed the top node of the frontier. -/
def State.passedTop (s : State) (p : Slot) (c : Cl) (n : Node) (rest : List Node) : State :=
  let r := passNode (s.prob p) (s.cl c) n rest
  (s.setProb p r.1).setCl c { r.2.1 with frontier := touchTop r.2.2 }
/-- Cluster c advances in the search of p, past stage 1. -/
structure State.Searches (s : State) (c : Cl) (p : Slot) : Prop where
  up : s.live .srch = true
  owner : (s.cl c).owner = some p
  phase : s.phase p = 2
  going : (s.prob p).chWait = none
  mine : (s.prob p).emask.testBit c = true
  past : (s.prob p).stage1 = false
theorem exec_batchIssue_passes (h : s.Searches c p) {n : Node} {rest : List Node} (top : (s.cl c).frontier = n :: rest) :
    exec (.batchIssue c) s = .next (s.passedTop p c n rest) := by
  obtain ⟨up, owner, phase, going, mine, past⟩ := h
  rw [exec_batchIssue]
  unfold execBatchIssue
  rw [owner]
  dsimp only
  rw [if_neg (by simp [up, phase, Problem.steps, going, mine]), if_neg (by simp [past]), top]
  rfl
theorem exec_batchIssue_steals (h : s.Searches c p) (empty : (s.cl c).frontier = []) (free : (s.prob p).tbl.determ = false)
    (none_ : ∀ x ∈ (s.prob p).steals, x.taker ≠ c) : exec (.batchIssue c) s = .next (s.setCl c { s.cl c with stealReq := true }) := by
  obtain ⟨up, owner, phase, going, mine, past⟩ := h
  rw [exec_batchIssue]
  unfold execBatchIssue
  rw [owner]
  dsimp only
  rw [if_neg (by simp [up, phase, Problem.steps, going, mine]), if_neg (by simp [past]), empty]
  exact if_neg (by simpa [free] using none_)

/-! ## Offers to the incumbent registers (R101, R102) -/

/-- An incumbent register after an offer. -/
def Cluster.offered (k : Cluster) (cost : Nat) (course : Course) (src : Nat) : Cluster :=
  if better cost course k.inc then { k with inc := some { cost, course, src }, shadow := none } else k
theorem offerTo_cluster (q : Problem) (k : Cluster) (cost : Nat) (course : Course) (src : Nat) :
    (offerTo q k cost course src).2 = k.offered cost course src := by
  unfold offerTo Cluster.offered
  split <;> rfl
theorem offerTo_problem (q : Problem) (k : Cluster) (cost : Nat) (course : Course) (src : Nat) :
    ∃ n, (offerTo q k cost course src).1 = { q with nInc := n } := by
  unfold offerTo
  split <;> exact ⟨_, rfl⟩
theorem Cluster.offered_inc (k : Cluster) (cost : Nat) (course : Course) (src : Nat) :
    (k.offered cost course src).inc = if better cost course k.inc then some { cost, course, src } else k.inc := by
  unfold Cluster.offered
  split <;> rfl
theorem Cluster.offered_flight (k : Cluster) (cost : Nat) (course : Course) (src : Nat) : (k.offered cost course src).flight = k.flight := by
  unfold Cluster.offered
  split <;> rfl

/-! ## A batch lands (R101) -/

theorem Landing.kid_flight (par : Node) (a : Landing) (u : Leg) : (a.kid par u).c.flight = a.c.flight := by
  unfold Landing.kid
  dsimp only
  split
  · rfl
  · split
    · exact (congrArg Cluster.flight (offerTo_cluster ..)).trans (Cluster.offered_flight ..)
    · split <;> rfl
theorem Landing.push_cluster (a : Landing) : a.push.c = a.c := by
  unfold Landing.push
  dsimp only
  split <;> rfl
theorem Batch.lands_flight (b : Batch) (q : Problem) (k : Cluster) : (b.lands q k).c.flight = k.flight := by
  have walk (l : List Leg) : ∀ a : Landing, (l.foldl (Landing.kid b.parent) a).c.flight = a.c.flight := by
    induction l with
    | nil => exact fun _ => rfl
    | cons u l ih => exact fun a => (ih _).trans (Landing.kid_flight ..)
  unfold Batch.lands
  rw [Landing.push_cluster]
  exact walk b.kids _

/-- What a batch that lands leaves to its problem and its cluster. -/
def State.landed (s : State) (p : Slot) (c : Cl) (b : Batch) : State :=
  let a := b.lands (s.prob p) (s.cl c)
  if a.q.stage1 then (s.setProb p { a.q with nxt := a.q.nxt ++ a.keep }).setCl c a.c
  else (s.setProb p a.q).setCl c { a.c with frontier := touchTop (a.keep ++ a.c.frontier) }
theorem State.landBatch_eq (s : State) (p : Slot) (c : Cl) (b : Batch) : s.landBatch p c b =
    ((if (b.lands (s.prob p) (s.cl c)).dropped then (s.landed p c b).setBit srchStatus p true else s.landed p c b).stage1Next p).syncInc p := rfl
theorem State.landed_flight (s : State) (p : Slot) (c : Cl) (b : Batch) : ((s.landed p c b).cl c).flight = (s.cl c).flight := by
  rw [← Batch.lands_flight b (s.prob p) (s.cl c)]
  unfold State.landed
  dsimp only
  split <;> rw [State.cl_setCl_self]
theorem State.landBatch_flight (s : State) (p : Slot) (c : Cl) (b : Batch) : ((s.landBatch p c b).cl c).flight = (s.cl c).flight := by
  rw [State.landBatch_eq, (State.syncInc_does _ _).cl rfl, (State.stage1Next_does _ _).cl rfl, ← State.landed_flight s p c b]
  split <;> rfl
theorem State.landBatch_reg (s : State) (p : Slot) (c : Cl) (b : Batch) {a : Nat} (status : a ≠ srchStatus) (pstat : a ≠ srchPstat p) :
    (s.landBatch p c b).rd a = s.rd a := by
  have landed : (s.landed p c b).rd a = s.rd a := by
    unfold State.landed
    dsimp only
    split <;> rfl
  rw [State.landBatch_eq, State.syncInc, State.rd_setBit_ne _ pstat,
    (State.stage1Next_does _ _).reg a (Nat.testBit_lt_two_pow (Nat.lt_of_lt_of_le (by decide) (Nat.pow_le_pow_right (n := 2) (by decide) (pageBit_range a).1)))]
  split
  · exact (State.rd_setBit_ne _ status _ _).trans landed
  · exact landed

/-- Cluster c works for problem p, from its latch to the gather (R92, R113, R121). -/
structure State.Serves (s : State) (c : Cl) (p : Slot) : Prop where
  up : s.live .srch = true
  serving : s.serving c = some p
  mine : (s.prob p).emask.testBit c = true
  ungathered : (s.prob p).gathered = false
  latched : 1 ≤ s.phase p
  open_ : s.phase p ≤ 4
theorem State.Serves.guard (h : s.Serves c p) :
    (!s.live .srch || !(s.prob p).emask.testBit c || (s.prob p).gathered || !(decide (1 ≤ s.phase p) && decide (s.phase p ≤ 4))) = false := by
  obtain ⟨up, -, mine, ungathered, latched, open_⟩ := h
  simp [up, mine, ungathered, latched, open_]
theorem exec_batchLanding_faults (h : s.Serves c p) {f : LaneFault} {bit : Nat}
    (fault : f = .duplex ∧ bit = 4 ∧ (s.prob p).tbl.check ≠ 2 ∨ f = .scratchUncorrectable ∧ bit = 12) :
    exec (.batchLanding c f) s = .next (s.checkFault p c (bit + p)) := by
  rw [exec_batchLanding]
  unfold execBatchLanding
  rw [h.serving]
  dsimp only
  rw [h.guard, if_neg (by decide)]
  rcases fault with ⟨rfl, rfl, checked⟩ | ⟨rfl, rfl⟩
  · exact if_neg checked
  · rfl
theorem exec_batchLanding_lands (h : s.Serves c p) (phase : s.phase p = 2 ∨ s.phase p = 4) (going : (s.prob p).chWait = none) {b : Batch}
    {bs : List Batch} (flight : (s.cl c).flight = b :: bs) :
    exec (.batchLanding c .none) s = .next ((s.setCl c { s.cl c with flight := bs }).landBatch p c b) := by
  rw [exec_batchLanding]
  unfold execBatchLanding
  rw [h.serving]
  dsimp only
  rw [h.guard, if_neg (by decide), if_neg (show ¬ LaneFault.none = .scratchCorrected by decide), if_neg (by rcases phase with e | e <;> simp [e, Problem.steps, going]), flight]
theorem exec_batchLanding_corrected (h : s.Serves c p) : let u := s.count srchEcccnt 15 0
    exec (.batchLanding c .scratchCorrected) s = .next u ∨
      ∃ b bs, exec (.batchLanding c .scratchCorrected) s = .next ((u.setCl c { u.cl c with flight := bs }).landBatch p c b) := by
  intro u
  rw [exec_batchLanding]
  unfold execBatchLanding
  rw [h.serving]
  dsimp only
  rw [h.guard, if_neg (by decide), if_pos rfl]
  split
  · exact .inl rfl
  · split
    · exact .inl rfl
    · exact .inr ⟨_, _, rfl⟩

/-! ## The array's checks find a fault (R92, R121) -/

theorem State.checkFault_latching (latch : s.phase p = 1) (c : Cl) (fbit : Nat) : s.checkFault p c fbit = (s.stopFault p c fbit).applyStalled p :=
  if_pos latch
theorem State.checkFault_past (past : s.phase p ≠ 1) (c : Cl) (fbit : Nat) : s.checkFault p c fbit = s.stopFault p c fbit := if_neg past
theorem State.checkFault_told (s : State) (p : Slot) (c : Cl) (fbit : Nat) : ∃ fc m x f w, (s.checkFault p c fbit).prob p =
    { (((s.prob p).faulted s.per.now fc).ended 5).told m x f with stalled := w } := by
  obtain ⟨fc, m, x, f, told⟩ := State.stopFault_told s p c fbit
  by_cases latch : s.phase p = 1
  · rw [State.checkFault_latching latch, State.applyStalled_prob, told]
    exact ⟨fc, m, x, f, [], rfl⟩
  · rw [State.checkFault_past latch, told]
    exact ⟨fc, m, x, f, _, rfl⟩
theorem State.checkFault_phase (s : State) (p : Slot) (c : Cl) (fbit : Nat) : (s.checkFault p c fbit).phase p = 5 := by
  by_cases latch : s.phase p = 1
  · rw [State.checkFault_latching latch, State.applyStalled_phase, State.stopFault_phase]
  · rw [State.checkFault_past latch, State.stopFault_phase]
theorem State.checkFault_fault (s : State) (p : Slot) (c : Cl) {fbit : Nat} (small : fbit < 32) : (s.checkFault p c fbit).bit srchFault fbit = true := by
  by_cases latch : s.phase p = 1
  · rw [State.checkFault_latching latch, (State.applyStalled_does _ _).bit rfl, State.stopFault_fault s p c small]
  · rw [State.checkFault_past latch, State.stopFault_fault s p c small]

/-! ## Refined bounds, transfers and the deal (R99, R105, R108) -/

/-- A node whose refined bound has completed. -/
def Node.refinedIn (n : Node) (q : Problem) : Node :=
  { n with lb := Nat.max n.lb (refinedBound q.tbl q.umax n.x (n.levels q.u) n.d n.acc), refined := true }
theorem exec_refinedBound_due (up : s.live .srch = true) {i : Nat} {n : Node} (owner : (s.cl c).owner = some p) (node : (s.cl c).frontier[i]? = some n)
    (phase : s.phase p = 2) (going : (s.prob p).chWait = none) (seen : n.seen = true) (first : n.refined = false) (past : (s.prob p).stage1 = false) :
    exec (.refinedBound c i) s = .next (s.setCl c { s.cl c with frontier := (s.cl c).frontier.set i (n.refinedIn (s.prob p)) }) := by
  rw [exec_refinedBound]
  unfold execRefinedBound
  dsimp only
  rw [owner, node]
  exact if_pos (by simp [up, phase, Problem.steps, going, seen, first, past])

/-- A transfer after its next node has arrived. -/
def Problem.arrived (q : Problem) (c : Cl) (ns : List Node) : Problem :=
  { q with nSteal := q.nSteal + 1,
           steals := if ns.isEmpty then q.steals.filter (fun y => y.taker != c) else q.steals.map fun y => if y.taker == c then { y with nodes := ns } else y }
theorem exec_stealTransfer_due (up : s.live .srch = true) {x : Steal} {n : Node} {ns : List Node} (owner : (s.cl c).owner = some p)
    (phase : s.phase p = 2) (transfer : (s.prob p).steals.find? (fun x => x.taker == c) = some x) (nodes : x.nodes = n :: ns) :
    exec (.stealTransfer c) s =
      .next ((s.setProb p ((s.prob p).arrived c ns)).setCl c { s.cl c with frontier := touchTop ((s.cl c).frontier ++ [n]) }) := by
  rw [exec_stealTransfer]
  unfold execStealTransfer
  rw [owner]
  dsimp only
  rw [if_neg (by simp [up, phase]), transfer]
  dsimp only
  rw [nodes]
  rfl

/-- The nodes that the deal gives to the i-th of k clusters. -/
def dealt (nxt : List Node) (k i : Nat) : List Node := touchTop ((nxt.zipIdx.filter fun n => n.2 % k == i).map (·.1))
/-- The survivors of stage 1 are dealt to the clusters of p. -/
def State.dealtOut (s : State) (p : Slot) : State :=
  let cs := clsOf (s.prob p).emask
  (s.setProb p { s.prob p with stage1 := false, nxt := [] }).each cs.zipIdx fun u c =>
    u.setCl c.1 { u.cl c.1 with frontier := dealt (s.prob p).nxt cs.length c.2 }
theorem exec_deterministicDeal_due (up : s.live .srch = true) {low : Cl} (lowest : (clsOf (s.prob p).emask).head? = some low) (phase : s.phase p = 2)
    (going : (s.prob p).chWait = none) (stage : (s.prob p).stage1 = true) (level : (s.prob p).lvl = []) (flight : (s.cl low).flight = [])
    (enough : (s.prob p).nxt = [] ∨ 4 * (clsOf (s.prob p).emask).length ≤ (s.prob p).nxt.length) :
    exec (.deterministicDeal p) s = .next (s.dealtOut p) := by
  rw [exec_deterministicDeal]
  unfold execDeterministicDeal
  dsimp only
  rw [lowest]
  exact if_pos (by simp [up, phase, Problem.steps, going, stage, level, flight, enough])
theorem State.dealtOut_does (s : State) (p : Slot) : Does 0x8 (s.setProb p { s.prob p with stage1 := false, nxt := [] }) (s.dealtOut p) :=
  Does.each (Does.refl ..) fun _ _ h => Does.andThen Does.setCl h rfl
theorem State.dealtOut_frontier (s : State) (p : Slot) {i : Nat} {c : Cl} (ith : (clsOf (s.prob p).emask)[i]? = some c) :
    ((s.dealtOut p).cl c).frontier = dealt (s.prob p).nxt (clsOf (s.prob p).emask).length i := by
  let cs := clsOf (s.prob p).emask
  have walk := State.each_cl (s := s.setProb p { s.prob p with stage1 := false, nxt := [] }) (key := Prod.fst)
    (g := fun a k => { k with frontier := dealt (s.prob p).nxt cs.length a.2 })
    (f := fun u c => u.setCl c.1 { u.cl c.1 with frontier := dealt (s.prob p).nxt cs.length c.2 })
    (fun u a d => by rw [State.cl_setCl]; split <;> simp_all) cs.zipIdx (by rw [List.zipIdx_map_fst]; exact clsOf_nodup _)
  exact congrArg Cluster.frontier (walk.1 (c, i) (List.mem_zipIdx_iff_getElem?.2 ith))

/-! ## Sharing (R103) and the shadow evaluation (R122) -/

/-- The sharing point has found the best incumbent and shows it. -/
def State.sharedBest (s : State) (p : Slot) : State :=
  let u := s.setProb p { s.prob p with share := s.bestOf p }
  match s.bestOf p with
  | some i => (u.wr (srchPincl p) (i.cost % 2 ^ 32)).wr (srchPinch p) (0x80000000 + i.cost / 2 ^ 32)
  | none => (u.wr (srchPincl p) 0).wr (srchPinch p) 0
theorem srchPincl_ne_srchPinch (p : Slot) : srchPincl p ≠ srchPinch p := by
  unfold srchPincl srchPinch
  omega
theorem State.sharedBest_some {i : Inc} (best : s.bestOf p = some i) :
    (s.sharedBest p).rd (srchPincl p) = i.cost % 2 ^ 32 ∧ (s.sharedBest p).rd (srchPinch p) = (0x80000000 + i.cost / 2 ^ 32) % 2 ^ 32 := by
  unfold State.sharedBest
  dsimp only
  rw [best]
  refine ⟨?_, State.rd_wr_self ..⟩
  rw [State.rd_wr_ne _ (srchPincl_ne_srchPinch p), State.rd_wr_self, Nat.mod_mod]
theorem State.sharedBest_none (best : s.bestOf p = none) :
    (s.sharedBest p).rd (srchPincl p) = 0 ∧ (s.sharedBest p).rd (srchPinch p) = 0 := by
  unfold State.sharedBest
  dsimp only
  rw [best]
  refine ⟨?_, State.rd_wr_self ..⟩
  rw [State.rd_wr_ne _ (srchPincl_ne_srchPinch p), State.rd_wr_self, Nat.zero_mod]
theorem State.sharedBest_prob (s : State) (p : Slot) : (s.sharedBest p).prob p = { s.prob p with share := s.bestOf p } := by
  unfold State.sharedBest
  dsimp only
  split <;> exact State.prob_setProb_self ..
theorem State.sharedBest_frame (s : State) (p : Slot) : Frame [.probs, .cls] (regsOf [srchPincl p, srchPinch p]) s (s.sharedBest p) := by
  have found : Frame [.probs, .cls] (regsOf [srchPincl p, srchPinch p]) s (s.setProb p { s.prob p with share := s.bestOf p }) :=
    (Frame.refl ..).setProb (by decide)
  unfold State.sharedBest
  dsimp only
  split <;> exact (found.wr List.mem_cons_self).wr (List.mem_cons_of_mem _ List.mem_cons_self)
theorem State.serveSteal_share (s : State) (p : Slot) (c : Cl) : ((s.serveSteal p c).prob p).share = (s.prob p).share := by
  unfold State.serveSteal
  split
  · rfl
  · split
    · rfl
    · split
      · rfl
      · dsimp only
        rw [State.prob_setProb_self]
        rfl
/-- The steal requests of p are served. -/
def State.stealsServed (s : State) (p : Slot) : State := s.each (s.probCls p) fun s c => s.serveSteal p c
theorem State.stealsServed_does (s : State) (p : Slot) : Does 0xc s (s.stealsServed p) :=
  Does.each (Does.refl ..) fun _ _ h => Does.andThen (State.serveSteal_does ..) h rfl
theorem State.stealsServed_share (s : State) (p : Slot) : ((s.stealsServed p).prob p).share = (s.prob p).share := by
  have walk (l : List Cl) : ∀ u : State, ((u.each l fun u c => u.serveSteal p c).prob p).share = (u.prob p).share := by
    induction l with
    | nil => exact fun _ => rfl
    | cons c l ih => exact fun u => (ih _).trans (State.serveSteal_share ..)
  exact walk _ s
theorem exec_sharingPoint_due (up : s.live .srch = true) (phase : s.phase p = 2 ∨ s.phase p = 3) (going : (s.prob p).chWait = none) :
    exec (.sharingPoint p) s = .next (if ((s.sharedBest p).prob p).tbl.determ || s.phase p == 3 then s.sharedBest p else (s.sharedBest p).stealsServed p) :=
  if_pos (by simp only [up, phase_open phase, Problem.steps, going, Option.isNone_none, Bool.and_true])

/-- A register after the sharing write. -/
def Cluster.takes (k : Cluster) (i : Inc) : Cluster := if better i.cost i.course k.inc then { k with inc := some i, shadow := none } else k
/-- The registers of p after the sharing write. -/
def State.shareTaken (s : State) (p : Slot) (i : Inc) : State := s.each (s.probCls p) fun s c =>
  if better i.cost i.course (s.cl c).inc then s.setCl c { s.cl c with inc := some i, shadow := none } else s
theorem exec_sharingWrite_due (up : s.live .srch = true) {i : Inc} (share : (s.prob p).share = some i) (going : (s.prob p).chWait = none)
    (phase : s.phase p = 2 ∨ s.phase p = 4 ∧ (s.prob p).gathered = false) :
    exec (.sharingWrite p) s = .next ((s.shareTaken p i).setProb p { s.prob p with share := none }) := by
  rw [exec_sharingWrite]
  unfold execSharingWrite
  dsimp only
  rw [share]
  exact if_pos (by simp [up, Problem.steps, going, phase])
theorem State.shareTaken_cl (s : State) (p : Slot) (i : Inc) : (∀ c, c ∈ clsOf (s.prob p).emask → (s.shareTaken p i).cl c = (s.cl c).takes i) ∧
    ∀ c, c ∉ clsOf (s.prob p).emask → (s.shareTaken p i).cl c = s.cl c := by
  refine State.each_clsOf (g := fun k => k.takes i) (fun u a d => ?_) _
  by_cases e : d = a
  · subst e
    rw [if_pos rfl]
    unfold Cluster.takes
    split
    · exact State.cl_setCl_self ..
    · rfl
  · rw [if_neg e]
    split
    · exact State.cl_setCl_ne _ e _
    · rfl
theorem Cluster.takes_inc (k : Cluster) (i : Inc) : (k.takes i).inc = if better i.cost i.course k.inc then some i else k.inc := by
  unfold Cluster.takes
  split <;> rfl

theorem exec_shadowEvaluation_due (up : s.live .srch = true) {i : Inc} (owner : (s.cl c).owner = some p) (inc : (s.cl c).inc = some i)
    (shadow : (s.prob p).tbl.check = 1) (phase : s.phase p = 2 ∨ s.phase p = 4) : let q := s.prob p
    exec (.shadowEvaluation c) s = .next (s.setCl c { s.cl c with shadow := some (i.course, shadowEval q.tbl q.umax q.x0 q.u i.course) }) := by
  rw [exec_shadowEvaluation]
  unfold execShadowEvaluation
  dsimp only
  rw [owner, inc]
  exact if_pos (by simp [up, shadow, phase])

/-- Settles O11: each command of the search loop by what it finds in its cluster or problem. -/
theorem searchLoop : Obligations.SearchLoop := by
  intro s p up q
  refine ⟨fun c owner phase going mine past => ?_, fun c serving mine ungathered latched open_ => ?_,
    fun c i n owner node phase going seen first past => ?_, fun c x n ns owner phase transfer nodes => ?_,
    fun low lowest phase going stage level flight enough => ?_, fun phase going => ?_, fun i share going phase => ?_,
    fun c i owner inc shadow phase => ?_⟩
  · have searches : s.Searches c p := ⟨up, owner, phase, going, mine, past⟩
    refine ⟨fun n rest top => ⟨_, exec_batchIssue_passes searches top, fun cut => ?_, fun kept some_ => ?_, fun d e => State.cl_setCl_ne _ e _,
        fun r e => State.prob_setProb_ne s e _, ((Frame.refl ..).setProb (by decide)).setCl (by decide)⟩,
      fun empty free none_ => ⟨_, exec_batchIssue_steals searches empty free none_, congrArg Cluster.stealReq (State.cl_setCl_self ..),
        fun d e => State.cl_setCl_ne _ e _, (Frame.refl ..).setCl (by decide)⟩⟩
    · unfold State.passedTop
      rw [passNode_prunes cut, State.cl_setCl_self]
      exact ⟨rfl, rfl⟩
    · unfold State.passedTop
      rw [passNode_issues kept, State.cl_setCl_self, State.setCl_prob, State.prob_setProb_self]
      refine ⟨?_, nextBatch_width _ n, rfl⟩
      have full : (nextBatch q n).1.isEmpty = false := List.isEmpty_eq_false_iff.2 some_
      unfold Cluster.issue
      rw [full]
      rfl
  · have serves : s.Serves c p := ⟨up, serving, mine, ungathered, latched, open_⟩
    refine ⟨fun phase going b bs flight => ⟨_, exec_batchLanding_lands serves phase going flight, ?_, ?_⟩, fun f bit fault => ?_, ?_⟩
    · rw [State.landBatch_flight, State.cl_setCl_self]
    · exact Frame.doesPages (State.landBatch_does ..) ((Frame.refl ..).setCl (by decide)) (by decide) (by decide)
    · have run := exec_batchLanding_faults serves fault
      have small : bit + p.val < 32 := by omega
      obtain ⟨fc, m, x, f', w, told⟩ := State.checkFault_told s p c (bit + p)
      refine ⟨_, run, State.checkFault_fault s p c small, ?_, ?_, ?_, ?_, State.checkFault_phase .., ?_,
        Frame.out (execBatchLanding_does c f s) run (by decide) (by decide), fun past => ?_⟩
      iterate 5 rw [told]; rfl
      rw [State.checkFault_past past]
      have stops := State.stopFault_does s p c (bit + p)
      exact ⟨stops.part .mem rfl, stops.part .flaws rfl⟩
    · have counted : (s.count srchEcccnt 15 0).fld srchEcccnt 15 0 = Nat.min (s.fld srchEcccnt 15 0 + 1) 65535 :=
        (State.fld_setFld_self s (by decide) (by decide)).trans (Nat.mod_eq_of_lt (Nat.lt_of_le_of_lt (Nat.min_le_right ..) (by decide)))
      rcases exec_batchLanding_corrected serves with run | ⟨b, bs, run⟩
      · exact ⟨_, run, counted⟩
      · refine ⟨_, run, (congrArg (fun x => bits x 15 0) ?_).trans counted⟩
        exact State.landBatch_reg _ p c b (by decide) (by unfold srchEcccnt srchPstat; omega)
  · refine ⟨_, exec_refinedBound_due up owner node phase going seen first past, ?_, fun j e => ?_, fun d e => State.cl_setCl_ne s e _,
      (Frame.refl ..).setCl (by decide)⟩
    all_goals rw [State.cl_setCl_self]
    · obtain ⟨lt, -⟩ := List.getElem?_eq_some_iff.1 node
      exact List.getElem?_set_self lt
    · exact List.getElem?_set_ne (Ne.symm e)
  · refine ⟨_, exec_stealTransfer_due up owner phase transfer nodes, congrArg Cluster.frontier (State.cl_setCl_self ..),
      congrArg Problem.nSteal (State.prob_setProb_self ..), fun d e => State.cl_setCl_ne _ e _, ((Frame.refl ..).setProb (by decide)).setCl (by decide)⟩
  · have deals := State.dealtOut_does s p
    have dealt : (s.dealtOut p).prob p = { q with stage1 := false, nxt := [] } := (deals.prob rfl p).trans (State.prob_setProb_self ..)
    refine ⟨_, exec_deterministicDeal_due up lowest phase going stage level flight enough, by rw [dealt], by rw [dealt],
      fun i c ith => State.dealtOut_frontier s p ith, Frame.doesNone deals ((Frame.refl ..).setProb (by decide)) (by decide) (by decide)⟩
  · have serves := State.stealsServed_does (s.sharedBest p) p
    refine ⟨_, exec_sharingPoint_due up phase going, ?_⟩
    have share := congrArg Problem.share (State.sharedBest_prob s p)
    have shown := State.sharedBest_frame s p
    have reg (a : Nat) : ((s.sharedBest p).stealsServed p).rd a = (s.sharedBest p).rd a := (Frame.doesNone (ps := [.probs, .cls]) (rs := noReg)
      serves (Frame.refl ..) (by decide) (by decide)).2.1 a id
    split
    · exact ⟨share, fun i => State.sharedBest_some, State.sharedBest_none, shown⟩
    · rw [reg, reg]
      exact ⟨(State.stealsServed_share ..).trans share, fun i => State.sharedBest_some, State.sharedBest_none, Frame.doesNone serves shown (by decide) (by decide)⟩
  · obtain ⟨own, others⟩ := State.shareTaken_cl s p i
    refine ⟨_, exec_sharingWrite_due up share going phase, congrArg Problem.share (State.prob_setProb_self ..),
      fun c mem => (congrArg Cluster.inc (own c mem)).trans (Cluster.takes_inc ..), others, ?_⟩
    refine Frame.setProb (Frame.each (Frame.refl ..) fun u c h => ?_) (by decide)
    exact (h.setCl (by decide)).ite h
  · exact ⟨_, exec_shadowEvaluation_due up owner inc shadow phase, State.cl_setCl_self .., fun d e => State.cl_setCl_ne s e _, (Frame.refl ..).setCl (by decide)⟩

end Sys2Proof.Machine
end

section
namespace Sys2Proof.Machine

variable {s : State} {p : Slot}

/-! ## Seeds (R102, R109) -/

/-- A course is offered to one register of p. -/
def State.offered (s : State) (p : Slot) (cost : Nat) (course : Course) (src : Nat) (k : Cl) : State :=
  let r := offerTo (s.prob p) (s.cl k) cost course src
  (s.setProb p r.1).setCl k r.2
/-- A course is offered to every register of p. -/
def State.offers (s : State) (p : Slot) (cost : Nat) (course : Course) (src : Nat) : State :=
  s.each (s.probCls p) fun u k => u.offered p cost course src k
theorem State.offers_prob (s : State) (p : Slot) (cost : Nat) (course : Course) (src : Nat) :
    ∃ n, (s.offers p cost course src).prob p = { s.prob p with nInc := n } := by
  have walk (l : List Cl) : ∀ u : State, ∃ n, (u.each l fun u k => u.offered p cost course src k).prob p = { u.prob p with nInc := n } := by
    induction l with
    | nil => exact fun u => ⟨_, rfl⟩
    | cons k l ih =>
      intro u
      obtain ⟨m, first⟩ := offerTo_problem (u.prob p) (u.cl k) cost course src
      obtain ⟨n, rest⟩ := ih (u.offered p cost course src k)
      have step : (u.offered p cost course src k).prob p = { u.prob p with nInc := m } := by
        unfold State.offered
        rw [State.setCl_prob, State.prob_setProb_self, first]
      exact ⟨n, rest.trans (by rw [step])⟩
  exact walk _ s
theorem State.offers_cl (s : State) (p : Slot) (cost : Nat) (course : Course) (src : Nat) {k : Cl} (mem : k ∈ clsOf (s.prob p).emask) :
    ((s.offers p cost course src).cl k) = (s.cl k).offered cost course src := by
  refine (State.each_clsOf (g := fun k => k.offered cost course src) (fun u a d => ?_) (s.prob p).emask).1 k mem
  unfold State.offered
  rw [State.cl_setCl, offerTo_cluster]
  split
  · next e => rw [e]
  · rfl
theorem State.offers_does (s : State) (p : Slot) (cost : Nat) (course : Course) (src : Nat) : Does 0xc s (s.offers p cost course src) :=
  Does.each (Does.refl ..) fun _ _ h => Does.andThen Does.setCl (Does.andThen Does.setProb h rfl) rfl

/-- A seed has been costed. -/
def State.costed (s : State) (p : Slot) : State := s.setProb p { s.prob p with legs := (s.prob p).legs + (s.prob p).tbl.h }
/-- The cost of a course of problem q from its initial state. -/
def Problem.cost? (q : Problem) (c : Course) : Option Nat := courseCost q.tbl q.umax q.x0 q.u c
theorem State.offerSeed_infeasible {c : Course} (none_ : (s.prob p).cost? c = none) (src : Nat) : s.offerSeed p c src = (s.costed p, false) := by
  unfold Problem.cost? at none_
  unfold State.offerSeed
  dsimp only
  rw [none_]
  rfl
theorem State.offerSeed_feasible {c : Course} {cost : Nat} (some_ : (s.prob p).cost? c = some cost) (src : Nat) :
    s.offerSeed p c src = (((s.costed p).offers p cost c src).syncInc p, true) := by
  unfold Problem.cost? at some_
  unfold State.offerSeed
  dsimp only
  rw [some_]
  rfl
theorem State.offerSeed_prob (s : State) (p : Slot) (c : Course) (src : Nat) :
    ∃ n, (s.offerSeed p c src).1.prob p = { s.prob p with legs := (s.prob p).legs + (s.prob p).tbl.h, nInc := n } := by
  have costed : (s.costed p).prob p = { s.prob p with legs := (s.prob p).legs + (s.prob p).tbl.h } := State.prob_setProb_self ..
  cases cost : (s.prob p).cost? c with
  | none => rw [State.offerSeed_infeasible cost]; exact ⟨_, costed⟩
  | some x =>
    rw [State.offerSeed_feasible cost]
    obtain ⟨n, offers⟩ := State.offers_prob (s.costed p) p x c src
    exact ⟨n, offers.trans (by rw [costed])⟩
theorem State.offerSeed_taken {c : Course} {cost : Nat} (some_ : (s.prob p).cost? c = some cost) (src : Nat) {k : Cl}
    (mem : k ∈ clsOf (s.prob p).emask) :
    ((s.offerSeed p c src).1.cl k).inc = if better cost c (s.cl k).inc then some { cost, course := c, src } else (s.cl k).inc := by
  have mask : (s.costed p).prob p = { s.prob p with legs := (s.prob p).legs + (s.prob p).tbl.h } := State.prob_setProb_self ..
  have own := State.offers_cl (s.costed p) p cost c src (k := k) (by rw [mask]; exact mem)
  rw [State.offerSeed_feasible some_]
  exact (congrArg Cluster.inc own).trans (Cluster.offered_inc ..)
theorem State.offerSeed_phase (s : State) (p : Slot) (c : Course) (src : Nat) : (s.offerSeed p c src).1.phase p = s.phase p := by
  cases cost : (s.prob p).cost? c with
  | none => rw [State.offerSeed_infeasible cost]; rfl
  | some x => rw [State.offerSeed_feasible cost, State.syncInc_phase, (State.offers_does ..).phase rfl]; rfl

/-- The search of p runs or its correction is set up, and no lookup stalls it: a seed that is due is offered. -/
structure State.TakesSeeds (s : State) (p : Slot) : Prop where
  up : s.live .srch = true
  phase : s.phase p = 2 ∨ s.phase p = 3
  going : (s.prob p).chWait = none
theorem State.TakesSeeds.guard (h : s.TakesSeeds p) : (s.live .srch && (s.phase p == 2 || s.phase p == 3) && (s.prob p).steps) = true := by
  rw [h.up, phase_open h.phase, Problem.steps, h.going]
  rfl

/-- The shifted seed is offered. -/
def State.shiftedTried (s : State) (p : Slot) (c : Course) : State × Bool := (s.setProb p { s.prob p with shiftPend := false }).offerSeed p c 2
theorem exec_shiftedSeedOffer_due (h : s.TakesSeeds p) {c : Course} (shifted : (s.prob p).shifted = some c) (due : (s.prob p).shiftPend = true) :
    exec (.shiftedSeedOffer p) s = .next (if (s.shiftedTried p c).2 then (s.shiftedTried p c).1
      else (s.shiftedTried p c).1.setProb p { (s.shiftedTried p c).1.prob p with shifted := none }) := by
  rw [exec_shiftedSeedOffer]
  unfold execShiftedSeedOffer
  dsimp only
  split
  · next c' e =>
    obtain rfl : c = c' := Option.some.inj (shifted.symm.trans e)
    exact if_pos (by rw [h.guard, due]; rfl)
  · next e => exact absurd (shifted.symm.trans e) (Option.some_ne_none c)
/-- The chart seed is offered. -/
def State.chartTried (s : State) (p : Slot) (c : Course) : State × Bool := (s.setProb p { s.prob p with seedPend := none }).offerSeed p c 3
theorem exec_chartSeedOffer_due (h : s.TakesSeeds p) {c : Course} (pend : (s.prob p).seedPend = some c)
    (step : (s.prob p).tbl.determ = false ∨ (s.prob p).chStepped = true) :
    exec (.chartSeedOffer p) s = .next (if (s.chartTried p c).2
      then (s.chartTried p c).1.setProb p { (s.chartTried p c).1.prob p with chartSeed := true, seedChart := some c } else (s.chartTried p c).1) := by
  have come : (!(s.prob p).tbl.determ || (s.prob p).chStepped) = true := by rcases step with e | e <;> simp [e]
  rw [exec_chartSeedOffer]
  unfold execChartSeedOffer
  dsimp only
  split
  · next c' e =>
    obtain rfl : c = c' := Option.some.inj (pend.symm.trans e)
    exact if_pos (by rw [h.guard, come]; rfl)
  · next e => exact absurd (pend.symm.trans e) (Option.some_ne_none c)

theorem exec_chartStep_due (up : s.live .srch = true) (phase : s.phase p = 1 ∨ s.phase p = 2 ∨ s.phase p = 3) (determ : (s.prob p).tbl.determ = true)
    (first : (s.prob p).chStepped = false) (now : Nat) : exec (.chartStep p now) s =
      .next ((s.tellNow now).setProb p { s.prob p with chStepped := true, chWait := if (s.prob p).lookup then some now else none }) :=
  if_pos (by rcases phase with e | e | e <;> simp [up, determ, first, e])

/-! ## Fix-ready (R41, R88, R131, R282) -/

/-- The state in which fix-ready of slot p at fabric cycle `now` is served. -/
def State.fixAsked (s : State) (p : Slot) (now : Nat) (ue : Option (BitVec 16)) : State := ((s.noteSlot p ue).tellNow now).did [4 + p]
theorem exec_fixReady_live (up : s.live .srch = true) (now : Nat) (ue : Option (BitVec 16)) :
    exec (.fixReady p now ue) s = .next ((s.fixAsked p now ue).fixReadyReq p) := if_pos up
theorem State.fixAsked_does (s : State) (p : Slot) (now : Nat) (ue : Option (BitVec 16)) : Does 0x80000040002 s (s.fixAsked p now ue) :=
  Does.andThen (State.did_does ..) (Does.andThen (State.tellNow_does ..) (State.noteSlot_does s p ue |>.mono rfl) rfl) rfl
theorem State.fixAsked_frame {ps : List Part} {rs : Nat → Prop} (per : Part.per ∈ ps) (pins : Part.pins ∈ ps) (p : Slot) (now : Nat) :
    Frame ps rs s (s.fixAsked p now none) := ((Frame.refl ..).upd_per per).upd_pins pins
theorem State.fixReadyReq_suspended (own : (s.prob p).byMark = false) (suspended : s.bit (srchPstat p) 3 = true) : s.fixReadyReq p = s :=
  (if_pos (by rw [own]; rfl)).trans (if_pos suspended)
theorem State.fixReadyReq_refused (h : (s.prob p).byMark = true ∧ (s.prob p).fixRdy = true ∨ (s.prob p).byMark = false ∧ s.bit (srchPstat p) 3 = false) :
    s.fixReadyReq p = s.setBit srchStatus (16 + p) true := by
  rcases h with ⟨marked, second⟩ | ⟨own, running⟩
  · exact (if_neg (by rw [marked]; decide)).trans (if_pos second)
  · exact (if_pos (by rw [own]; rfl)).trans (if_neg (by rw [running]; decide))
theorem State.fixReadyReq_hurt (marked : (s.prob p).byMark = true) (first : (s.prob p).fixRdy = false) (hurt : s.obsBad p = true)
    (undue : (s.prob p).recDue = false) (undecided : (s.prob p).decided = false) :
    s.fixReadyReq p = (s.setProb p { s.prob p with fixRdy := true }).dataFault p :=
  (if_neg (by rw [marked]; decide)).trans ((if_neg (by rw [first]; decide)).trans ((if_pos hurt).trans (if_neg (by rw [undue, undecided]; decide))))
theorem State.fixReadyReq_takes (marked : (s.prob p).byMark = true) (first : (s.prob p).fixRdy = false) (good : s.obsBad p = false) :
    let q := s.prob p
    let late := s.per.fixPassed || decide (s.per.now > s.dlFc 0)
    s.fixReadyReq p = s.setProb p { q with fixRdy := true, fixLate := late, drOnly := q.drOnly || late, fixObs := some (readObs s p q.tbl.nx) } :=
  (if_neg (by rw [marked]; decide)).trans ((if_neg (by rw [first]; decide)).trans (if_neg (by rw [good]; decide)))

/-! ## The comparison (R42 to R44, R49) -/

/-- A problem whose comparison is made. -/
def Problem.comparedAt (q : Problem) : Problem :=
  { q with compared := true, resid := residual q.tbl (q.fixObs.getD []) q.xhat, provWait := false }
def Problem.fixAgrees (q : Problem) : Bool := agrees q.tbl (q.fixObs.getD []) q.xhat
/-- The corrected initial state, and whether it saturates. -/
def Problem.corrected (q : Problem) : List Int × Bool := stepModel q.tbl (q.fixObs.getD []) q.u 0

theorem State.compare_agrees (ok : (s.prob p).fixAgrees = true) : s.compare p = s.setProb p (s.prob p).comparedAt ∨
    s.compare p = (s.setProb p (s.prob p).comparedAt).provGather p := by
  have run : s.compare p = if (s.prob p).provWait && !s.per.srchPassed then (s.setProb p (s.prob p).comparedAt).provGather p
      else s.setProb p (s.prob p).comparedAt := if_pos ok
  rw [run]
  split
  · exact .inr rfl
  · exact .inl rfl
theorem State.compare_late (differ : (s.prob p).fixAgrees = false) (late : (s.prob p).recDue = true ∨ (s.prob p).decided = true) :
    s.compare p = s.setProb p (s.prob p).comparedAt :=
  (if_neg (ne_true_of_eq_false differ)).trans (if_pos (Bool.or_eq_true_iff.2 late))
/-- A problem whose comparison is wanted. -/
theorem Problem.wanted {q : Problem} (undue : q.recDue = false) (undecided : q.decided = false) : ¬ (q.recDue || q.decided) = true := by
  rw [undue, undecided]
  decide
theorem State.compare_saturates (differ : (s.prob p).fixAgrees = false) (undue : (s.prob p).recDue = false) (undecided : (s.prob p).decided = false)
    (sat : (s.prob p).corrected.2 = true) : s.compare p =
      (((((s.setProb p (s.prob p).comparedAt).setProb p { (s.prob p).comparedAt with closeFc := s.per.now - (s.prob p).launchFc }).clsCleared
        (s.prob p).emask).endWithout p 7).syncInc p).miss p 6 :=
  (if_neg (ne_true_of_eq_false differ)).trans ((if_neg (Problem.wanted undue undecided)).trans (if_pos sat))
theorem State.compare_corrects (differ : (s.prob p).fixAgrees = false) (undue : (s.prob p).recDue = false) (undecided : (s.prob p).decided = false)
    (fits : (s.prob p).corrected.2 = false) : s.compare p =
      (((s.setProb p (s.prob p).comparedAt).setProb p { (s.prob p).comparedAt with corr := true, x0n := (s.prob p).corrected.1, close := 0, gathered := false }).setFld
        (srchPstat p) 7 4 0).setPhase p 3 :=
  (if_neg (ne_true_of_eq_false differ)).trans ((if_neg (Problem.wanted undue undecided)).trans (if_neg (ne_true_of_eq_false fits)))

/-- What a comparison leaves of the problem it was made for. -/
structure State.Compared (q : Problem) (phase : Nat) (p : Slot) (t : State) : Prop where
  compared : (t.prob p).compared = true
  resid : (t.prob p).resid = residual q.tbl (q.fixObs.getD []) q.xhat
  agreed : q.fixAgrees = true → t.phase p = phase ∧ (t.prob p).corr = q.corr
  corrects : q.fixAgrees = false → q.recDue = false → q.decided = false → q.corrected.2 = false →
    t.phase p = 3 ∧ (t.prob p).corr = true ∧ (t.prob p).x0n = q.corrected.1
  saturates : q.fixAgrees = false → q.recDue = false → q.decided = false → q.corrected.2 = true →
    t.phase p = 5 ∧ (t.prob p).close = 7 ∧ (t.prob p).recDue = true
theorem State.compare_agreed (ok : (s.prob p).fixAgrees = true) : State.Compared (s.prob p) (s.phase p) p (s.compare p) := by
  have made : (s.setProb p (s.prob p).comparedAt).prob p = (s.prob p).comparedAt := State.prob_setProb_self ..
  have no (P : Prop) (k : (s.prob p).fixAgrees = false) : P := Bool.noConfusion (ok.symm.trans k)
  rcases State.compare_agrees ok with run | run
  · rw [run]
    exact ⟨by rw [made]; rfl, by rw [made]; rfl, fun _ => ⟨rfl, by rw [made]; rfl⟩, fun k => no _ k, fun k => no _ k⟩
  · have gathered : (((s.setProb p (s.prob p).comparedAt).provGather p).prob p) = { (s.prob p).comparedAt with
        provWait := false, provGather := ((s.setProb p (s.prob p).comparedAt).bestOf p).bind fun i => i.course.head? } := by
      unfold State.provGather
      rw [State.prob_setProb_self, made]
    rw [run]
    exact ⟨by rw [gathered]; rfl, by rw [gathered]; rfl, fun _ => ⟨rfl, by rw [gathered]; rfl⟩, fun k => no _ k, fun k => no _ k⟩
theorem State.compare_differed (differ : (s.prob p).fixAgrees = false) : State.Compared (s.prob p) (s.phase p) p (s.compare p) := by
  have no (P : Prop) (k : (s.prob p).fixAgrees = true) : P := Bool.noConfusion (k.symm.trans differ)
  by_cases wanted : (s.prob p).recDue = false ∧ (s.prob p).decided = false
  · obtain ⟨undue, undecided⟩ := wanted
    cases sat : (s.prob p).corrected.2 with
    | false =>
      have made : (s.compare p).prob p = { (s.prob p).comparedAt with corr := true, x0n := (s.prob p).corrected.1, close := 0, gathered := false } := by
        rw [State.compare_corrects differ undue undecided sat, State.setPhase_prob, State.setFld_prob, State.prob_setProb_self]
      refine ⟨by rw [made]; rfl, by rw [made]; rfl, fun k => no _ k, fun _ _ _ _ => ⟨?_, by rw [made], by rw [made]⟩,
        fun _ _ _ k => Bool.noConfusion (sat.symm.trans k)⟩
      rw [State.compare_corrects differ undue undecided sat]
      exact State.phase_setPhase (by decide)
    | true =>
      have run := State.compare_saturates differ undue undecided sat
      let u := (((s.setProb p (s.prob p).comparedAt).setProb p { (s.prob p).comparedAt with closeFc := s.per.now - (s.prob p).launchFc }).clsCleared
        (s.prob p).emask)
      have ended : ((u.endWithout p 7).syncInc p).prob p = { (s.prob p).comparedAt with closeFc := s.per.now - (s.prob p).launchFc }.ended 7 := by
        rw [(State.syncInc_does _ p).prob rfl, State.endWithout_ended, (State.clsCleared_does ..).prob rfl, State.prob_setProb_self]
      obtain ⟨m, x, told⟩ := State.miss_told ((u.endWithout p 7).syncInc p) p 6
      rw [ended, ← run] at told
      refine ⟨by rw [told]; rfl, by rw [told]; rfl, fun k => no _ k, fun _ _ _ k => Bool.noConfusion (k.symm.trans sat),
        fun _ _ _ _ => ⟨?_, by rw [told]; rfl, by rw [told]; rfl⟩⟩
      rw [run, State.miss_phase, State.syncInc_phase, State.endWithout_phase]
  · have late : (s.prob p).recDue = true ∨ (s.prob p).decided = true := by
      rwa [not_and_or, Bool.not_eq_false, Bool.not_eq_false] at wanted
    have made : (s.compare p).prob p = (s.prob p).comparedAt := by rw [State.compare_late differ late, State.prob_setProb_self]
    exact ⟨by rw [made]; rfl, by rw [made]; rfl, fun k => no _ k, fun _ undue undecided => absurd ⟨undue, undecided⟩ wanted,
      fun _ undue undecided => absurd ⟨undue, undecided⟩ wanted⟩
theorem State.compare_compared (s : State) (p : Slot) : State.Compared (s.prob p) (s.phase p) p (s.compare p) := by
  cases ok : (s.prob p).fixAgrees with
  | true => exact State.compare_agreed ok
  | false => exact State.compare_differed ok

theorem exec_comparison_due (due : s.comparable p = true) (free : (s.prob p).tbl.determ = false) : exec (.comparison p) s = .next (s.compare p) :=
  if_pos (by rw [due, free]; rfl)
theorem exec_deterministicComparison_due (due : s.comparable p = true) (determ : (s.prob p).tbl.determ = true) (going : (s.prob p).chWait = none)
    (passed : s.per.fixPassed = true) : exec (.deterministicComparison p) s = .next (s.compare p) :=
  if_pos (by rw [due, determ, Problem.steps, going, passed]; rfl)

/-! ## The setup of a correction search (R44, R102, R109, R114) -/

/-- The corrected initial state is in force. -/
def State.correcting (s : State) (p : Slot) : State := (s.installCorrection p).setPhase p 2
/-- The incumbent is re-costed and offered. -/
def State.incumbentTried (s : State) (p : Slot) (best : Option Inc) : State := match best with
  | some i => match (s.prob p).cost? i.course with
    | some cost => (s.offers p cost i.course i.src).syncInc p
    | none => s
  | none => s
/-- The shifted seed is re-costed and offered; one that is not feasible is discarded. -/
def State.shiftRetried (s : State) (p : Slot) (shifted : Option Course) : State := match shifted with
  | some c => match s.offerSeed p c 2 with
    | (s, true) => s
    | (s, false) => s.setProb p { s.prob p with shifted := none }
  | none => s
theorem State.shiftRetried_some (s : State) (p : Slot) (c : Course) : s.shiftRetried p (some c) = (s.offerSeed p c 2).1 ∨
    s.shiftRetried p (some c) = (s.offerSeed p c 2).1.setProb p { (s.offerSeed p c 2).1.prob p with shifted := none } := by
  unfold State.shiftRetried
  dsimp only
  generalize s.offerSeed p c 2 = tried
  obtain ⟨u, feasible⟩ := tried
  cases feasible with
  | true => exact .inl rfl
  | false => exact .inr rfl
/-- The problem at the end of the setup: old is the problem before it. -/
def Problem.setUp (q old : Problem) (now : Nat) : Problem :=
  { q with shiftPend := false, lookup := q.chartBuf.isSome, chWait := if q.tbl.determ && q.chStepped && q.chartBuf.isSome then some now else none,
           lookOld := if old.lookup then some (old.x0, old.u) else none }
/-- What the offers of the setup leave. -/
def State.retried (s : State) (p : Slot) : State :=
  ((s.correcting p).incumbentTried p (s.bestOf p)).shiftRetried p ((s.correcting p).prob p).shifted

theorem State.incumbentTried_prob (s : State) (p : Slot) (best : Option Inc) : ∃ n, (s.incumbentTried p best).prob p = { s.prob p with nInc := n } := by
  unfold State.incumbentTried
  split
  · split
    · rw [(State.syncInc_does ..).prob rfl]
      exact State.offers_prob ..
    · exact ⟨_, rfl⟩
  · exact ⟨_, rfl⟩
theorem State.incumbentTried_phase (s : State) (p : Slot) (best : Option Inc) : (s.incumbentTried p best).phase p = s.phase p := by
  unfold State.incumbentTried
  split
  · split
    · rw [State.syncInc_phase, (State.offers_does ..).phase rfl]
    · rfl
  · rfl
theorem State.shiftRetried_prob (s : State) (p : Slot) (shifted : Option Course) :
    ∃ l n c, (s.shiftRetried p shifted).prob p = { s.prob p with legs := l, nInc := n, shifted := c } := by
  cases shifted with
  | none => exact ⟨_, _, _, rfl⟩
  | some c =>
    obtain ⟨n, offers⟩ := State.offerSeed_prob s p c 2
    rcases State.shiftRetried_some s p c with kept | discarded
    · rw [kept]
      exact ⟨_, n, _, offers⟩
    · rw [discarded, State.prob_setProb_self, offers]
      exact ⟨_, n, none, rfl⟩
theorem State.shiftRetried_phase (s : State) (p : Slot) (shifted : Option Course) : (s.shiftRetried p shifted).phase p = s.phase p := by
  cases shifted with
  | none => rfl
  | some c =>
    rcases State.shiftRetried_some s p c with kept | discarded
    · rw [kept, State.offerSeed_phase]
    · rw [discarded]
      exact State.offerSeed_phase s p c 2
theorem State.retried_prob (s : State) (p : Slot) : ∃ l n c, (s.retried p).prob p =
    { ((s.prob p).withBounds (s.prob p).x0n).planted with legs := l, nInc := n, shifted := c } := by
  obtain ⟨m, first⟩ := State.incumbentTried_prob (s.correcting p) p (s.bestOf p)
  obtain ⟨l, n, c, second⟩ := State.shiftRetried_prob ((s.correcting p).incumbentTried p (s.bestOf p)) p ((s.correcting p).prob p).shifted
  have installed : (s.correcting p).prob p = ((s.prob p).withBounds (s.prob p).x0n).planted := by
    rw [State.correcting, State.setPhase_prob, State.installCorrection_prob]
  exact ⟨l, n, c, second.trans (by rw [first, installed])⟩
theorem State.retried_phase (s : State) (p : Slot) : (s.retried p).phase p = 2 := by
  unfold State.retried
  rw [State.shiftRetried_phase, State.incumbentTried_phase]
  exact State.phase_setPhase (by decide)
/-- The setup of the correction search is complete. -/
def State.setupDone (s : State) (p : Slot) : State := (s.retried p).setProb p (((s.retried p).prob p).setUp (s.prob p) (s.retried p).per.now)
theorem exec_correctionSetup_due (up : s.live .srch = true) (phase : s.phase p = 3) (going : (s.prob p).chWait = none) : exec (.correctionSetup p) s =
    .next (if ((s.retried p).prob p).chartBuf.isSome then (s.setupDone p).count chrtLkcnt 15 0 else s.setupDone p) :=
  if_pos (by simp [up, phase, Problem.steps, going])
theorem State.setupDone_prob (s : State) (p : Slot) : ((s.setupDone p).prob p) = ((s.retried p).prob p).setUp (s.prob p) (s.retried p).per.now :=
  State.prob_setProb_self ..

end Sys2Proof.Machine
end

section
namespace Sys2Proof.Machine

variable {s : State} {p : Slot}

/-! ## What the commands of seeds and fix leave -/

theorem State.shiftedTried_prob (s : State) (p : Slot) (c : Course) : ∃ n, (s.shiftedTried p c).1.prob p =
    { s.prob p with shiftPend := false, legs := (s.prob p).legs + (s.prob p).tbl.h, nInc := n } := by
  obtain ⟨n, offered⟩ := State.offerSeed_prob (s.setProb p { s.prob p with shiftPend := false }) p c 2
  rw [State.prob_setProb_self] at offered
  exact ⟨n, offered⟩
theorem State.chartTried_prob (s : State) (p : Slot) (c : Course) : ∃ n, (s.chartTried p c).1.prob p =
    { s.prob p with seedPend := none, legs := (s.prob p).legs + (s.prob p).tbl.h, nInc := n } := by
  obtain ⟨n, offered⟩ := State.offerSeed_prob (s.setProb p { s.prob p with seedPend := none }) p c 3
  rw [State.prob_setProb_self] at offered
  exact ⟨n, offered⟩
/-- A seed that differs from the problem's own cost alone in what is pending is costed as the problem costs it. -/
theorem State.offerSeed_after {q : Problem} (same : ∀ c, q.cost? c = (s.prob p).cost? c) (mask : q.emask = (s.prob p).emask) (c : Course) (src : Nat) :
    (∀ k, k ∈ clsOf (s.prob p).emask → ∀ cost, (s.prob p).cost? c = some cost →
      ((((s.setProb p q).offerSeed p c src).1).cl k).inc = if better cost c (s.cl k).inc then some { cost, course := c, src } else (s.cl k).inc) ∧
    ((s.prob p).cost? c = none → (s.setProb p q).offerSeed p c src = ((s.setProb p q).costed p, false)) ∧
    ((s.prob p).cost? c ≠ none → ((s.setProb p q).offerSeed p c src).2 = true) := by
  have own : (s.setProb p q).prob p = q := State.prob_setProb_self ..
  have cost : ((s.setProb p q).prob p).cost? c = (s.prob p).cost? c := by rw [own, same]
  refine ⟨fun k mem x feasible => ?_, fun infeasible => State.offerSeed_infeasible (cost.trans infeasible) src, fun feasible => ?_⟩
  · exact State.offerSeed_taken (s := s.setProb p q) (cost.trans feasible) src (by rw [own, mask]; exact mem)
  · obtain ⟨x, feasible⟩ := Option.ne_none_iff_exists'.1 feasible
    rw [State.offerSeed_feasible (cost.trans feasible)]

theorem State.dataFault_fix {q : Problem} : ∃ fc m x, ((s.setProb p q).dataFault p).prob p = ((q.faulted s.per.now fc).ended 5).told m x q.faultCl := by
  obtain ⟨fc, m, x, told⟩ := State.dataFault_told (s.setProb p q) p
  rw [State.prob_setProb_self] at told
  exact ⟨fc, m, x, told⟩

theorem State.incumbentTried_does (s : State) (p : Slot) (best : Option Inc) : Does 0x100000c s (s.incumbentTried p best) := by
  unfold State.incumbentTried
  split
  · split
    · exact Does.andThen (State.syncInc_does ..) ((State.offers_does ..).mono rfl) rfl
    · exact Does.refl ..
  · exact Does.refl ..
theorem State.shiftRetried_does (s : State) (p : Slot) (shifted : Option Course) : Does 0x100000c s (s.shiftRetried p shifted) := by
  cases shifted with
  | none => exact Does.refl ..
  | some c =>
    rcases State.shiftRetried_some s p c with kept | discarded
    · rw [kept]
      exact State.offerSeed_does ..
    · rw [discarded]
      exact Does.andThen Does.setProb (State.offerSeed_does ..) rfl
theorem State.correcting_does (s : State) (p : Slot) : Does 0x100000c s (s.correcting p) :=
  Does.andThen (State.setPhase_does ..) (State.installCorrection_does ..) rfl
theorem State.retried_does (s : State) (p : Slot) : Does 0x100000c s (s.retried p) :=
  Does.andThen (State.shiftRetried_does ..) (Does.andThen (State.incumbentTried_does ..) (State.correcting_does ..) rfl) rfl
theorem State.retried_per (s : State) (p : Slot) : (s.retried p).per = s.per := (State.retried_does s p).part .per rfl

/-- What an offer of course c, from source src and costed as by problem q, leaves of the registers of its clusters. -/
def State.Offered (s : State) (q : Problem) (c : Course) (src : Nat) (t : State) : Prop :=
  ∀ k, k ∈ clsOf q.emask → ∀ cost, q.cost? c = some cost → (t.cl k).inc = if better cost c (s.cl k).inc then some { cost, course := c, src } else (s.cl k).inc
theorem State.Offered.of_none {q : Problem} {c : Course} {src : Nat} {t : State} (infeasible : q.cost? c = none) : s.Offered q c src t :=
  fun _ _ _ feasible => absurd (feasible.symm.trans infeasible) (Option.some_ne_none _)
theorem exec_shiftedSeedOffer_offers (h : s.TakesSeeds p) {c : Course} (shifted : (s.prob p).shifted = some c) (due : (s.prob p).shiftPend = true) :
    ∃ t, exec (.shiftedSeedOffer p) s = .next t ∧ (t.prob p).shiftPend = false ∧ (t.prob p).legs = (s.prob p).legs + (s.prob p).tbl.h ∧
      s.Offered (s.prob p) c 2 t ∧ ((s.prob p).cost? c = none → (t.prob p).shifted = none ∧ t.cls = s.cls) ∧
      Frame [.probs, .cls] (pagesOf [srchBase]) s t := by
  have run := exec_shiftedSeedOffer_due h shifted due
  have out := Frame.out (ps := [.probs, .cls]) (bases := [srchBase]) (execShiftedSeedOffer_does p s) run (by decide) (by decide)
  obtain ⟨n, prob⟩ := State.shiftedTried_prob s p c
  obtain ⟨offered, infeasible, feasible⟩ := State.offerSeed_after (s := s) (p := p) (q := { s.prob p with shiftPend := false }) (fun _ => rfl) rfl c 2
  cases cost : (s.prob p).cost? c with
  | none =>
    have tried : s.shiftedTried p c = ((s.setProb p { s.prob p with shiftPend := false }).costed p, false) := infeasible cost
    have refused : (s.shiftedTried p c).2 = false := congrArg Prod.snd tried
    have same : (s.shiftedTried p c).1.cls = s.cls := congrArg (fun r => r.1.cls) tried
    rw [if_neg (ne_true_of_eq_false refused)] at run out
    exact ⟨_, run, by rw [State.prob_setProb_self, prob], by rw [State.prob_setProb_self, prob], .of_none cost,
      fun _ => ⟨congrArg Problem.shifted (State.prob_setProb_self ..), same⟩, out⟩
  | some x =>
    have some_ : (s.prob p).cost? c ≠ none := by rw [cost]; exact Option.some_ne_none x
    have took : (s.shiftedTried p c).2 = true := feasible some_
    rw [if_pos took] at run out
    exact ⟨_, run, by rw [prob], by rw [prob], offered, fun none_ => absurd none_ (Option.some_ne_none x), out⟩
theorem exec_chartSeedOffer_offers (h : s.TakesSeeds p) {c : Course} (pend : (s.prob p).seedPend = some c)
    (step : (s.prob p).tbl.determ = false ∨ (s.prob p).chStepped = true) :
    ∃ t, exec (.chartSeedOffer p) s = .next t ∧ (t.prob p).seedPend = none ∧ (t.prob p).legs = (s.prob p).legs + (s.prob p).tbl.h ∧
      s.Offered (s.prob p) c 3 t ∧ ((s.prob p).cost? c = none → t.cls = s.cls) ∧
      ((s.prob p).cost? c ≠ none → (t.prob p).chartSeed = true ∧ (t.prob p).seedChart = some c) ∧ Frame [.probs, .cls] (pagesOf [srchBase]) s t := by
  have run := exec_chartSeedOffer_due h pend step
  have out := Frame.out (ps := [.probs, .cls]) (bases := [srchBase]) (execChartSeedOffer_does p s) run (by decide) (by decide)
  obtain ⟨n, prob⟩ := State.chartTried_prob s p c
  obtain ⟨offered, infeasible, feasible⟩ := State.offerSeed_after (s := s) (p := p) (q := { s.prob p with seedPend := none }) (fun _ => rfl) rfl c 3
  cases cost : (s.prob p).cost? c with
  | none =>
    have tried : s.chartTried p c = ((s.setProb p { s.prob p with seedPend := none }).costed p, false) := infeasible cost
    have refused : (s.chartTried p c).2 = false := congrArg Prod.snd tried
    have same : (s.chartTried p c).1.cls = s.cls := congrArg (fun r => r.1.cls) tried
    rw [if_neg (ne_true_of_eq_false refused)] at run out
    exact ⟨_, run, by rw [prob], by rw [prob], .of_none cost, fun _ => same, fun some_ => absurd rfl some_, out⟩
  | some x =>
    have some_ : (s.prob p).cost? c ≠ none := by rw [cost]; exact Option.some_ne_none x
    have took : (s.chartTried p c).2 = true := feasible some_
    rw [if_pos took] at run out
    exact ⟨_, run, by rw [State.prob_setProb_self, prob], by rw [State.prob_setProb_self, prob], offered,
      fun none_ => absurd none_ (Option.some_ne_none x), fun _ => ⟨by rw [State.prob_setProb_self], by rw [State.prob_setProb_self]⟩, out⟩

theorem exec_correctionSetup_sets (up : s.live .srch = true) (phase : s.phase p = 3) (going : (s.prob p).chWait = none) :
    ∃ t, exec (.correctionSetup p) s = .next t ∧ t.phase p = 2 ∧ t.prob p = ((s.retried p).prob p).setUp (s.prob p) s.per.now ∧
      Frame [.probs, .cls] (pagesOf [srchBase, chrtBase]) s t := by
  have run := exec_correctionSetup_due up phase going
  have out := Frame.out (ps := [.probs, .cls]) (bases := [srchBase, chrtBase]) (execCorrectionSetup_does p s) run (by decide) (by decide)
  have counted (c : Prop) [Decidable c] : Does 0x2000000 (s.setupDone p) (if c then (s.setupDone p).count chrtLkcnt 15 0 else s.setupDone p) :=
    Does.ite (Does.count (Does.refl ..) rfl) (Does.refl ..)
  refine ⟨_, run, ?_, ?_, out⟩
  · rw [(counted _).phase rfl]
    exact State.retried_phase s p
  · rw [(counted _).prob rfl, State.setupDone_prob, State.retried_per]

theorem exec_fixReady_takes (up : s.live .srch = true) (now : Nat) (marked : (s.prob p).byMark = true) (first : (s.prob p).fixRdy = false)
    (good : s.obsBad p = false) :
    let q := s.prob p
    let late := s.per.fixPassed || decide (Nat.max s.per.now now > s.dlFc 0)
    ∃ t, exec (.fixReady p now none) s = .next t ∧
      t.prob p = { q with fixRdy := true, fixLate := late, drOnly := q.drOnly || late, fixObs := some (readObs s p q.tbl.nx) } ∧
      Frame [.per, .probs, .pins] noReg s t := by
  have run := exec_fixReady_live (p := p) up now none
  rw [State.fixReadyReq_takes (s := s.fixAsked p now none) marked first good] at run
  have asked : Frame [.per, .probs, .pins] noReg s (s.fixAsked p now none) := State.fixAsked_frame (by decide) (by decide) p now
  exact ⟨_, run, State.prob_setProb_self .., asked.setProb (by decide)⟩
theorem State.fixAsked_prob (s : State) (p : Slot) (now : Nat) (ue : Option (BitVec 16)) : (s.fixAsked p now ue).prob p = s.prob p :=
  (State.fixAsked_does s p now ue).prob rfl p
theorem exec_fixReady_hurt (up : s.live .srch = true) (now : Nat) (ue : Option (BitVec 16)) (marked : (s.prob p).byMark = true)
    (first : (s.prob p).fixRdy = false) (hurt : (s.noteSlot p ue).obsBad p = true) (undue : (s.prob p).recDue = false)
    (undecided : (s.prob p).decided = false) :
    exec (.fixReady p now ue) s = .next (((s.fixAsked p now ue).setProb p { s.prob p with fixRdy := true }).dataFault p) := by
  have same := State.fixAsked_prob s p now ue
  rw [exec_fixReady_live up, State.fixReadyReq_hurt (s := s.fixAsked p now ue) (by rw [same]; exact marked) (by rw [same]; exact first) hurt
    (by rw [same]; exact undue) (by rw [same]; exact undecided), same]
/-- What a data fault of problem q leaves of the problem: no result, and the record of it due. -/
structure State.Withheld (q : Problem) (p : Slot) (t : State) : Prop where
  fixRdy : (t.prob p).fixRdy = q.fixRdy
  fixObs : (t.prob p).fixObs = q.fixObs
  verdict : (t.prob p).verdict = 2
  close : (t.prob p).close = 5
  recDue : (t.prob p).recDue = true
  phase : t.phase p = 5
theorem State.dataFault_withheld (q : Problem) : State.Withheld q p ((s.setProb p q).dataFault p) := by
  obtain ⟨fc, m, x, told⟩ := State.dataFault_fix (s := s) (p := p) (q := q)
  refine ⟨?_, ?_, ?_, ?_, ?_, State.dataFault_phase ..⟩
  all_goals simp only [told, Problem.told, Problem.ended, Problem.faulted, Problem.unstallAt]
theorem exec_fixReady_refused (up : s.live .srch = true) (now : Nat)
    (h : (s.prob p).byMark = true ∧ (s.prob p).fixRdy = true ∨ (s.prob p).byMark = false ∧ s.bit (srchPstat p) 3 = false) :
    ∃ t, exec (.fixReady p now none) s = .next t ∧ t.bit srchStatus (16 + p) = true ∧ Frame [.per, .pins] (regsOf [srchStatus]) s t := by
  have run := exec_fixReady_live (p := p) up now none
  rw [State.fixReadyReq_refused (s := s.fixAsked p now none) h] at run
  exact ⟨_, run, State.bit_setBit_self _ true (by omega), (State.fixAsked_frame (by decide) (by decide) p now).setBit List.mem_cons_self⟩
theorem exec_fixReady_suspended (up : s.live .srch = true) (now : Nat) (own : (s.prob p).byMark = false) (suspended : s.bit (srchPstat p) 3 = true) :
    ∃ t, exec (.fixReady p now none) s = .next t ∧ Frame [.per, .pins] noReg s t := by
  have run := exec_fixReady_live (p := p) up now none
  rw [State.fixReadyReq_suspended (s := s.fixAsked p now none) own suspended] at run
  exact ⟨_, run, State.fixAsked_frame (by decide) (by decide) p now⟩

/-- Settles O12: the seeds by the cost of their course, fix-ready by what it finds, the comparison by its outcome, and the setup. -/
theorem seedsAndFix : Obligations.SeedsAndFix := by
  intro s p up q taken compared
  have judged {m : Nat} {o : Out} (d : DoesOut m s o) (run : o = .next (s.compare p)) (parts : footParts m [.probs, .cls, .cap, .pins] = true)
      (pages : footPages m [perBase, srchBase, capBase] = true) : compared (s.compare p) := by
    obtain ⟨made, resid, agreed, corrects, saturates⟩ := State.compare_compared s p
    exact ⟨made, resid, agreed, corrects, saturates, Frame.out d run parts pages⟩
  refine ⟨fun c shifted due going phase => exec_shiftedSeedOffer_offers ⟨up, phase, going⟩ shifted due,
    fun c pend going step phase => exec_chartSeedOffer_offers ⟨up, phase, going⟩ pend step,
    fun now phase determ first => ⟨_, exec_chartStep_due up phase determ first now, ?_, ?_, ((Frame.refl ..).upd_per (by decide)).setProb (by decide)⟩,
    fun now marked first good => exec_fixReady_takes up now marked first good,
    fun now ue marked first hurt undue undecided => ?_,
    fun now refused => exec_fixReady_refused up now refused, fun now own suspended => exec_fixReady_suspended up now own suspended,
    fun due free => ⟨_, exec_comparison_due due free, judged (execComparison_does p s) (exec_comparison_due due free) (by decide) (by decide)⟩,
    fun due determ going passed => ?_, fun phase going => ?_⟩
  · exact congrArg Problem.chStepped (State.prob_setProb_self ..)
  · exact congrArg Problem.chWait (State.prob_setProb_self ..)
  · have run := exec_fixReady_hurt up now ue marked first hurt undue undecided
    obtain ⟨fixRdy, fixObs, verdict, close, recDue, five⟩ := State.dataFault_withheld (s := s.fixAsked p now ue) (p := p) { s.prob p with fixRdy := true }
    exact ⟨_, run, fixRdy, fixObs, verdict, close, recDue, five, Frame.out (execFixReady_does p now ue s) run (by decide) (by decide)⟩
  · have run := exec_deterministicComparison_due due determ going passed
    exact ⟨_, run, judged (execDeterministicComparison_does p s) run (by decide) (by decide)⟩
  · obtain ⟨t, run, two, prob, out⟩ := exec_correctionSetup_sets up phase going
    obtain ⟨l, n, c, retried⟩ := State.retried_prob s p
    rw [retried] at prob
    have wait : (t.prob p).chWait = if q.tbl.determ && q.chStepped && q.chartBuf.isSome then some s.per.now else none := by rw [prob]; rfl
    refine ⟨t, run, two, by rw [prob]; rfl, ?_, by rw [prob]; rfl, by rw [prob]; rfl, out⟩
    rw [wait]
    simp only [Bool.and_eq_true, and_assoc]

end Sys2Proof.Machine
end

section
namespace Sys2Proof.Machine

variable {s t : State} {p : Slot}

/-! ## A first leg at the sorter (R104, R179, R454) -/

theorem State.sorterPass_dead (down : s.live .cell = false) (kind : Nat) (leg : Leg) : s.sorterPass p kind leg = s := if_pos (by rw [down]; rfl)
/-- The selection job of a first leg. -/
def Problem.job (q : Problem) (kind : Nat) (leg : Leg) : SelJob :=
  { kind, targets := (armsOf q.tbl).zip leg, todo := (List.range 64).filter (armsOf q.tbl).contains }
theorem State.sorterPass_live (up : s.live .cell = true) (kind : Nat) (leg : Leg) : ∃ (u : State) (x : Sel), u.cell = s.cell ∧
    x.job = some ((s.prob p).job kind leg) ∧
    (s.sorterPass p kind leg).cell = { (u.setSel p x).cell with order := u.cell.order.filter (· != p) ++ [p] } := by
  unfold State.sorterPass
  rw [if_neg (by rw [up]; decide)]
  dsimp only
  cases s.cell.sels[p].snap with
  | some k => exact ⟨s, _, rfl, rfl, rfl⟩
  | none =>
    let k := (armsOf (s.prob p).tbl).map (s.snapArm p)
    have marked : Does 0x4000000 s (s.each (k.flatMap ArmSnap.cells) fun (s : State) (c : SnapCell) => s.setBit (cellCst c.n) 2 c.avail) :=
      Does.each (Does.refl ..) fun _ c h => Does.setBit h (by rw [pageBit_cellCst trivial]; rfl)
    exact ⟨_, _, marked.part .cell rfl, rfl, rfl⟩
theorem State.sorterPass_job (up : s.live .cell = true) (kind : Nat) (leg : Leg) :
    (s.sorterPass p kind leg).cell.sels[p].job = some ((s.prob p).job kind leg) := by
  obtain ⟨u, x, -, job, cell⟩ := State.sorterPass_live (p := p) up kind leg
  rw [cell, ← job]
  simp [State.setSel]
theorem State.sorterPass_order (up : s.live .cell = true) (kind : Nat) (leg : Leg) :
    (s.sorterPass p kind leg).cell.order = s.cell.order.filter (· != p) ++ [p] := by
  obtain ⟨u, x, same, -, cell⟩ := State.sorterPass_live (p := p) up kind leg
  rw [cell, same]

theorem exec_provisionalGather_due (up : s.live .srch = true) {leg : Leg} (gathered : (s.prob p).provGather = some leg)
    (undecided : (s.prob p).decided = false) (undue : (s.prob p).recDue = false) (before : s.per.srchPassed = false) :
    exec (.provisionalGather p) s = .next ((s.setProb p { s.prob p with provGather := none }).sorterPass p 0x11 leg) := by
  rw [exec_provisionalGather]
  unfold execProvisionalGather
  dsimp only
  rw [gathered]
  have live : (s.setProb p { s.prob p with provGather := none }).live .srch = true := up
  exact if_pos (by rw [live, undecided, undue, State.setProb_per, before]; rfl)

/-! ## A result that passes (R50, R51, R118) -/

theorem State.checkReport_prob (s : State) (p : Slot) : ∃ r, (s.checkReport p).prob p = { s.prob p with reported := r } := by
  unfold State.checkReport
  dsimp only
  split
  · split
    · exact ⟨true, State.prob_setProb_self ..⟩
    · exact ⟨_, rfl⟩
  · exact ⟨_, rfl⟩
theorem State.settle_prob (s : State) (p : Slot) (leg : Leg) : ∃ e r, (s.settle p leg).prob p = { s.prob p with decided := true, provEq := e, reported := r } := by
  let eq := (s.prob p).provSent && (s.prob p).provLeg == some leg
  let u := s.setProb p { s.prob p with decided := true, provEq := eq }
  have marked : u.prob p = { s.prob p with decided := true, provEq := eq } := State.prob_setProb_self ..
  unfold State.settle
  dsimp only
  split
  · next j _ _ =>
    split
    · split
      · exact ⟨eq, _, marked⟩
      · obtain ⟨r, reported⟩ := State.checkReport_prob ((u.setSel p { u.cell.sels[p] with final := some { j with kind := 0x13 } }).queueFrames p 0x13 j.words) p
        rw [(State.queueFrames_does ..).prob rfl] at reported
        exact ⟨eq, r, reported.trans (by rw [show (u.setSel p { u.cell.sels[p] with final := some { j with kind := 0x13 } }).prob p = _ from marked])⟩
    · exact ⟨eq, _, ((State.sorterPass_does ..).prob rfl p).trans marked⟩
  · exact ⟨eq, _, ((State.sorterPass_does ..).prob rfl p).trans (((State.dropFrames_does ..).prob rfl p).trans marked)⟩
/-- A problem whose result has passed. -/
def Problem.passed (q : Problem) (eq reported : Bool) : Problem := { q with recDue := true, decided := true, provEq := eq, reported }
theorem State.passResult_prob (s : State) (p : Slot) : ∃ e r, (s.passResult p).prob p = (s.prob p).passed e r := by
  let leg := ((s.prob p).inc.bind fun i => i.course.head?).getD []
  obtain ⟨e, r, settled⟩ := State.settle_prob (s.setProb p { s.prob p with recDue := true }) p leg
  rw [State.prob_setProb_self] at settled
  exact ⟨e, r, (State.setPhase_prob ..).trans settled⟩
theorem State.passResult_phase (s : State) (p : Slot) : (s.passResult p).phase p = 5 := State.phase_setPhase (by decide)

/-! ## The final gather (R48, R104, R117) -/

theorem State.setCl_same (s : State) (c : Cl) : s.setCl c (s.cl c) = s := by
  unfold State.setCl State.cl
  rw [show s.cls.set c s.cls[c] = s.cls from Vector.set_getElem_self ..]
/-- No batch in flight: nothing lands. -/
theorem State.drain_still (still : ∀ c, c ∈ clsOf (s.prob p).emask → (s.cl c).flight = []) : s.drain p = s := by
  have walk (l : List Cl) (empty : ∀ c ∈ l, (s.cl c).flight = []) :
      (s.each l fun s c => (s.setCl c { s.cl c with flight := [] }).each (s.cl c).flight fun s b => s.landBatch p c b) = s := by
    induction l with
    | nil => rfl
    | cons c l ih =>
      have same : { s.cl c with flight := [] } = s.cl c := by rw [← empty c List.mem_cons_self]
      have first : ((s.setCl c { s.cl c with flight := [] }).each (s.cl c).flight fun s b => s.landBatch p c b) = s := by
        rw [same, empty c List.mem_cons_self, State.setCl_same]
        rfl
      exact (congrArg (fun u => State.each u l _) first).trans (ih fun c mem => empty c (List.mem_cons_of_mem _ mem))
  exact walk _ still

/-- The final gather of slot p is due. -/
structure State.GatherDue (s : State) (p : Slot) : Prop where
  up : s.live .srch = true
  phase : s.phase p = 4
  first : (s.prob p).gathered = false
  settled : s.fixSettled (s.prob p) = true
theorem State.GatherDue.guard (h : s.GatherDue p) : (s.live .srch && s.phase p == 4 && !(s.prob p).gathered && s.fixSettled (s.prob p)) = true := by
  obtain ⟨up, phase, first, settled⟩ := h
  simp [up, phase, first, settled]
theorem exec_finalGather_none (h : s.GatherDue p) (none_ : (s.drain p).bestOf p = none) (free : ((s.drain p).prob p).tbl.chart ≠ 2) :
    exec (.finalGather p) s = .next (((s.drain p).endWithout p ((s.drain p).prob p).close).miss p 2) := by
  rw [exec_finalGather]
  unfold execFinalGather
  dsimp only
  rw [if_pos h.guard, none_]
  split
  · rfl
  · next i found =>
    dsimp only at found
    split at found
    · next c chart _ => exact absurd chart free
    · exact absurd found (Option.some_ne_none i).symm
/-- The gather holds an incumbent. -/
def State.gatheredBest (s : State) (p : Slot) (i : Inc) : State := s.setProb p { s.prob p with
  gathered := true, inc := some i, gap := gapOf i.cost [s.lowestBound p, (s.prob p).fEps, (s.prob p).fDrop] }
theorem exec_finalGather_best (h : s.GatherDue p) {i : Inc} (best : (s.drain p).bestOf p = some i) : exec (.finalGather p) s =
    .next (if ((s.drain p).prob p).tbl.check = 2 then ((s.drain p).gatheredBest p i).passResult p else (s.drain p).gatheredBest p i) := by
  rw [exec_finalGather]
  unfold execFinalGather
  dsimp only
  rw [if_pos h.guard, best]
  rfl

/-! ## The Duplex and the Shadow verdict (R121, R123, R139) -/

theorem exec_duplexVerdict_due (due : s.awaiting p 0 = true) :
    exec (.duplexVerdict p) s = .next ((s.setProb p { s.prob p with verdict := 1 }).passResult p) := if_pos due

/-- The shadow evaluation agrees with a result (R123, R139). -/
def Problem.shadowHolds (q : Problem) (i : Inc) (copyOk : Bool) : Bool :=
  let r := shadowEval q.tbl q.umax q.x0 q.u i.course
  copyOk && r.2 && (q.tshWide || decide (Machine.dist i.cost r.1 ≤ q.tsh))
theorem Problem.shadowHolds_iff (q : Problem) (i : Inc) (copyOk : Bool) :
    q.shadowHolds i copyOk = true ↔ copyOk = true ∧ (shadowEval q.tbl q.umax q.x0 q.u i.course).2 = true ∧
      (Machine.dist i.cost (shadowEval q.tbl q.umax q.x0 q.u i.course).1 ≤ q.tsh ∨ q.tshWide = true) := by
  simp only [Problem.shadowHolds, Bool.and_eq_true, Bool.or_eq_true, decide_eq_true_eq, and_assoc, or_comm]
/-- The difference of the two costs is noted. -/
def State.shadowCompared (s : State) (p : Slot) (i : Inc) : State :=
  s.setProb p { s.prob p with
    shDiff := sat32 (Machine.dist i.cost (shadowEval (s.prob p).tbl (s.prob p).umax (s.prob p).x0 (s.prob p).u i.course).1) }
/-- The cluster that a failed verdict names. -/
def State.shadowHolder (s : State) (p : Slot) (i : Inc) : Nat :=
  ((((s.shadowCompared p i).probCls p).find? fun c => ((s.shadowCompared p i).cl c).inc == some i).orElse
    fun _ => (s.shadowCompared p i).lowCl p).map Fin.val |>.getD 0
/-- The problem's Shadow verdict is v. -/
def State.shadowJudged (s : State) (p : Slot) (i : Inc) (v : Nat) : State :=
  (s.shadowCompared p i).setProb p { (s.shadowCompared p i).prob p with verdict := v }
theorem State.shadowJudged_prob (s : State) (p : Slot) (i : Inc) (v : Nat) : (s.shadowJudged p i v).prob p = { s.prob p with
    shDiff := sat32 (Machine.dist i.cost (shadowEval (s.prob p).tbl (s.prob p).umax (s.prob p).x0 (s.prob p).u i.course).1), verdict := v } := by
  unfold State.shadowJudged State.shadowCompared
  rw [State.prob_setProb_self, State.prob_setProb_self]
/-- The state in which a failed Shadow verdict is told. -/
def State.shadowFailed (s : State) (p : Slot) (i : Inc) : State :=
  ((s.shadowJudged p i 2).endWithout p (s.prob p).close).setBit srchFault (8 + p) true
theorem exec_shadowVerdict_due {i : Inc} (has : (s.prob p).inc = some i) (due : s.awaiting p 1 = true) (copyOk : Bool) : exec (.shadowVerdict p copyOk) s =
    if (s.prob p).shadowHolds i copyOk then .next ((s.shadowJudged p i 1).passResult p)
    else .next ((s.shadowFailed p i).decisionFault p (s.shadowHolder p i)) := by
  rw [exec_shadowVerdict]
  unfold execShadowVerdict
  dsimp only
  split
  · next j e =>
    obtain rfl : i = j := Option.some.inj (has.symm.trans e)
    exact if_pos due
  · next e => exact absurd (has.symm.trans e) (Option.some_ne_none i)

/-! ## The result record (R118 to R120) -/

theorem length_byteRow (n : Nat) (l : List Nat) : (byteRow n l).length = n := by rw [byteRow, List.length_map, List.length_range]
theorem length_courseBytes (c : Course) : (courseBytes c).length = 96 := by simp [courseBytes, length_byteRow]
theorem length_recordBytes (q : Problem) : (recordBytes q).length = 156 := by simp [recordBytes, length_courseBytes]

theorem State.bytes_setBytes_ne {bs : List Byte} {a b n : Nat} (h : b + n ≤ a ∨ a + bs.length ≤ b) : (s.setBytes a bs).bytes b n = s.bytes b n :=
  State.bytes_congr fun _ _ _ => State.byte_setBytes_ne s (by omega)
theorem State.word_setBytes_ne {bs : List Byte} {a b : Nat} (h : b + 4 ≤ a ∨ a + bs.length ≤ b) : (s.setBytes a bs).word b = s.word b :=
  congrArg ofLE (State.bytes_setBytes_ne h)
/-- The record of p is in its slot. -/
def State.recorded (s : State) (p : Slot) : State :=
  ((s.setWord (slotBase p + 0x1080) (s.prob p).launchCount).setBytes (slotBase p + 0x1084) (recordBytes (s.prob p))).setWord (slotBase p + 0x1120)
    (s.prob p).launchCount
theorem State.recorded_first (s : State) (p : Slot) : (s.recorded p).word (slotBase p + 0x1080) = (s.prob p).launchCount % 2 ^ 32 := by
  unfold State.recorded
  rw [State.setWord, State.setLe, State.word_setBytes_ne (by omega), State.word_setBytes_ne (by omega), State.word_setWord_self]
theorem State.recorded_last (s : State) (p : Slot) : (s.recorded p).word (slotBase p + 0x1120) = (s.prob p).launchCount % 2 ^ 32 :=
  State.word_setWord_self ..
theorem State.recorded_body (s : State) (p : Slot) : (s.recorded p).bytes (slotBase p + 0x1084) 156 = recordBytes (s.prob p) := by
  have body (u : State) := State.bytes_setBytes_self u (recordBytes (s.prob p)) (slotBase p + 0x1084)
  rw [length_recordBytes] at body
  unfold State.recorded State.setWord State.setLe
  rw [State.bytes_setBytes_ne (by omega), body]
theorem State.recorded_else (s : State) (p : Slot) {a : Nat} (out : a < slotBase p + 0x1080 ∨ slotBase p + 0x1124 ≤ a) :
    (s.recorded p).byte a = s.byte a := by
  have four (v : Nat) := length_toLE 4 v
  have body := length_recordBytes (s.prob p)
  unfold State.recorded State.setWord State.setLe
  rw [State.byte_setBytes_ne _ (by rw [four]; omega), State.byte_setBytes_ne _ (by rw [body]; omega), State.byte_setBytes_ne _ (by rw [four]; omega)]
theorem exec_resultRecordWrite_due (up : s.live .srch = true) (due : (s.prob p).recDue = true) (first : (s.prob p).recDone = false) :
    exec (.resultRecordWrite p) s = .next (((s.recorded p).setProb p { s.prob p with recDone := true }).fire (0x10 + p)) :=
  if_pos (by rw [up, due, first]; rfl)

/-- What a failed Shadow verdict leaves of the problem. -/
theorem State.shadowFailed_told (s : State) (p : Slot) (i : Inc) (c : Nat) : ∃ m x f, ((s.shadowFailed p i).decisionFault p c).prob p =
    (((s.shadowJudged p i 2).prob p).ended (s.prob p).close).told m x f := by
  obtain ⟨m, x, f, told⟩ := State.decisionFault_told (s.shadowFailed p i) p c
  exact ⟨m, x, f, told.trans (by rw [State.shadowFailed, State.setBit_prob, State.endWithout_ended])⟩
theorem State.shadowFailed_fault (s : State) (p : Slot) (i : Inc) (c : Nat) : ((s.shadowFailed p i).decisionFault p c).bit srchFault (8 + p) = true := by
  rw [State.bit, State.decisionFault_reg _ p c (by decide) (by decide)]
  exact State.bit_setBit_self _ true (by omega)

/-- A result of slot p has passed. -/
def State.Passed (p : Slot) (t : State) : Prop := (t.prob p).decided = true ∧ (t.prob p).recDue = true ∧ t.phase p = 5
theorem State.passResult_passed (s : State) (p : Slot) : State.Passed p (s.passResult p) := by
  obtain ⟨e, r, result⟩ := State.passResult_prob s p
  exact ⟨by rw [result]; rfl, by rw [result]; rfl, State.passResult_phase s p⟩

theorem exec_provisionalGather_passes (up : s.live .srch = true) {leg : Leg} (gathered : (s.prob p).provGather = some leg)
    (undecided : (s.prob p).decided = false) (undue : (s.prob p).recDue = false) (before : s.per.srchPassed = false) :
    ∃ t, exec (.provisionalGather p) s = .next t ∧ (t.prob p).provGather = none ∧
      (s.live .cell = true → (∃ j, t.cell.sels[p].job = some j ∧ j.kind = 0x11 ∧ j.targets = (armsOf (s.prob p).tbl).zip leg) ∧
        t.cell.order = s.cell.order.filter (· != p) ++ [p]) ∧ (s.live .cell = false → t.cell = s.cell) ∧
      Frame [.probs, .cell] (pagesOf [cellBase]) s t := by
  have run := exec_provisionalGather_due up gathered undecided undue before
  have own : (s.setProb p { s.prob p with provGather := none }).prob p = { s.prob p with provGather := none } := State.prob_setProb_self ..
  refine ⟨_, run, ?_, fun cell => ⟨⟨_, State.sorterPass_job (s := s.setProb p _) cell _ _, rfl, ?_⟩, State.sorterPass_order (s := s.setProb p _) cell _ _⟩,
    fun cell => ?_, Frame.out (execProvisionalGather_does p s) run (by decide) (by decide)⟩
  · rw [(State.sorterPass_does ..).prob rfl, own]
  · rw [own]
    rfl
  · rw [State.sorterPass_dead (s := s.setProb p _) cell]
    rfl

theorem exec_shadowVerdict_judges {i : Inc} (has : (s.prob p).inc = some i) (due : s.awaiting p 1 = true) (copyOk : Bool) :
    let q := s.prob p
    let r := shadowEval q.tbl q.umax q.x0 q.u i.course
    ∃ t, exec (.shadowVerdict p copyOk) s = .next t ∧ (t.prob p).shDiff = sat32 (Machine.dist i.cost r.1) ∧
      (q.shadowHolds i copyOk = true → (t.prob p).verdict = 1 ∧ State.Passed p t) ∧
      (¬ q.shadowHolds i copyOk = true →
        (t.prob p).verdict = 2 ∧ (t.prob p).inc = none ∧ (t.prob p).recDue = true ∧ t.bit srchFault (8 + p) = true) ∧
      Frame [.probs, .cell, .lanes, .cap, .pins, .notices] (pagesOf [perBase, srchBase, cellBase, capBase]) s t := by
  intro q r
  have run := exec_shadowVerdict_due has due copyOk
  by_cases holds : q.shadowHolds i copyOk = true
  · rw [if_pos holds] at run
    obtain ⟨e, x, result⟩ := State.passResult_prob (s.shadowJudged p i 1) p
    rw [State.shadowJudged_prob] at result
    exact ⟨_, run, by rw [result]; rfl, fun _ => ⟨by rw [result]; rfl, State.passResult_passed ..⟩, fun fails => absurd holds fails,
      Frame.out (execShadowVerdict_does p copyOk s) run (by decide) (by decide)⟩
  · rw [if_neg holds] at run
    obtain ⟨m, x, f, told⟩ := State.shadowFailed_told s p i (s.shadowHolder p i)
    rw [State.shadowJudged_prob] at told
    exact ⟨_, run, by rw [told]; rfl, fun passes => absurd passes holds,
      fun _ => ⟨by rw [told]; rfl, by rw [told]; rfl, by rw [told]; rfl, State.shadowFailed_fault ..⟩,
      Frame.out (execShadowVerdict_does p copyOk s) run (by decide) (by decide)⟩

theorem exec_resultRecordWrite_writes (up : s.live .srch = true) (due : (s.prob p).recDue = true) (first : (s.prob p).recDone = false) :
    ∃ t, exec (.resultRecordWrite p) s = .next t ∧ (t.prob p).recDone = true ∧ (∀ a, t.byte a = (s.recorded p).byte a) ∧ Frame [.mem, .probs, .pins] noReg s t := by
  have run := exec_resultRecordWrite_due up due first
  have fired := State.fire_does ((s.recorded p).setProb p { s.prob p with recDone := true }) (0x10 + p)
  refine ⟨_, run, ?_, fun a => (fired.part .mem rfl a).trans (State.setProb_byte ..), Frame.outNone (execResultRecordWrite_does p s) run (by decide) (by decide)⟩
  rw [fired.prob rfl, State.prob_setProb_self]

/-- Settles O14: the gathers by what they find, the verdicts by the result that passes or fails, and the record byte by byte. -/
theorem gatherAndVerdict : Obligations.GatherAndVerdict := by
  intro s p up q passed
  refine ⟨fun leg gathered undecided undue before => exec_provisionalGather_passes up gathered undecided undue before,
    fun phase first settled none_ still free => ?_, fun i phase first settled best => ?_, fun due => ?_, fun copyOk i has due => ?_, fun due first => ?_⟩
  · have same := State.drain_still still
    have run := exec_finalGather_none ⟨up, phase, first, settled⟩ (by rw [same]; exact none_) (by rw [same]; exact free)
    have out := Frame.out (ps := [.probs, .cls, .cell, .lanes, .cap, .pins, .notices]) (bases := [perBase, srchBase, cellBase, capBase])
      (execFinalGather_does p s) run (by decide) (by decide)
    rw [same] at run out
    have ended := State.endWithout_ended s p q.close
    obtain ⟨m, x, told⟩ := State.miss_told (s.endWithout p q.close) p 2
    rw [ended] at told
    refine ⟨_, run, by rw [told]; rfl, by rw [told]; rfl, ?_, fun enabled => State.miss_missed (by rw [ended]; exact enabled) 2, out⟩
    rw [State.miss_phase, State.endWithout_phase]
  · have run := exec_finalGather_best ⟨up, phase, first, settled⟩ best
    refine ⟨_, run, fun checked => ?_, fun simplex => ?_, Frame.out (execFinalGather_does p s) run (by decide) (by decide)⟩
    · rw [if_neg checked, State.gatheredBest, State.prob_setProb_self]
      exact ⟨rfl, rfl⟩
    · rw [if_pos simplex]
      exact State.passResult_passed ..
  · have run := exec_duplexVerdict_due due
    obtain ⟨e, r, result⟩ := State.passResult_prob (s.setProb p { q with verdict := 1 }) p
    rw [State.prob_setProb_self] at result
    exact ⟨_, run, by rw [result]; rfl, State.passResult_passed .., Frame.out (execDuplexVerdict_does p s) run (by decide) (by decide)⟩
  · intro r
    rw [← Problem.shadowHolds_iff]
    exact exec_shadowVerdict_judges has due copyOk
  · obtain ⟨t, run, done, byte, out⟩ := exec_resultRecordWrite_writes up due first
    have bytes (n a : Nat) : t.bytes a n = (s.recorded p).bytes a n := State.bytes_congr fun x _ _ => byte x
    have word (a : Nat) : t.word a = (s.recorded p).word a := congrArg ofLE (bytes 4 a)
    refine ⟨t, run, done, (word _).trans (State.recorded_first s p), (word _).trans (State.recorded_last s p), (bytes 156 _).trans (State.recorded_body s p),
      fun a else_ => (byte a).trans (State.recorded_else s p else_), out⟩

end Sys2Proof.Machine
end

section
/-!
PROOFS of O20: the state of a chart buffer, the work that BEGIN and ABORT stop, and a verification that passes or fails.
-/
namespace Sys2Proof.Machine

variable {s t u : State} {b : Buf} {ps : List Part} {rs : Nat → Prop}

/-! ## The state and the pending activation of a buffer (R145, R146) -/

theorem chrtBuf_apart (b : Buf) : chrtBuf (bufIdx b) ≠ chrtStatus ∧ chrtBuf (bufIdx b) ≠ chrtVerr ∧ chrtBuf (bufIdx b) ≠ chrtBldprog := by
  cases b <;> decide
theorem pageBit_buf (b : Buf) : pageBit (chrtBuf (bufIdx b)) = 25 := by cases b <;> decide

theorem State.bufState_congr (h : t.rd (chrtBuf (bufIdx b)) = s.rd (chrtBuf (bufIdx b))) : t.bufState b = s.bufState b :=
  congrArg (fun x => bits x 2 0) h
theorem State.bufPend_congr (h : t.rd (chrtBuf (bufIdx b)) = s.rd (chrtBuf (bufIdx b))) : t.bufPend b = s.bufPend b :=
  congrArg (fun x : Nat => x.testBit 4) h

@[simp] theorem State.setBufState_chart (s : State) (b : Buf) (st : Nat) : (s.setBufState b st).chart = s.chart :=
  (State.setFld_chart ..).trans (State.setFld_chart ..)
theorem State.rd_setBufState_ne {a : Nat} (h : a ≠ chrtBuf (bufIdx b)) (st : Nat) : (s.setBufState b st).rd a = s.rd a := by
  unfold State.setBufState
  rw [State.rd_setFld_ne _ h, State.rd_setFld_ne _ h]
theorem State.bufState_setBufState {st : Nat} (small : st < 8) : (s.setBufState b st).bufState b = st := by
  refine (State.fld_setFld_ne _ (by decide) (by decide) (by decide) (by decide)).trans ?_
  rw [State.fld_setFld_self _ (by decide) (by decide)]
  exact Nat.mod_eq_of_lt small
theorem State.prog_setBufState_ready : (s.setBufState b 3).fld (chrtBuf (bufIdx b)) 25 16 = 1000 :=
  State.fld_setFld_self _ (by decide) (by decide)
theorem State.bufPend_setBufState (st : Nat) : (s.setBufState b st).bufPend b = s.bufPend b := by
  unfold State.bufPend State.setBufState
  rw [State.bit_setFld _ _ _ (by decide) (by decide), if_neg (by omega), State.bit_setFld _ _ _ (by decide) (by decide), if_neg (by omega)]
theorem Frame.setBufState (h : Frame ps rs s t) (hr : rs (chrtBuf (bufIdx b))) (st : Nat) : Frame ps rs s (t.setBufState b st) :=
  (h.setFld hr).setFld hr

theorem State.bufPend_setBufPend (v : Bool) : (s.setBufPend b v).bufPend b = v := State.bit_setBit_self _ v (by decide)
theorem State.bufState_setBufPend (v : Bool) : (s.setBufPend b v).bufState b = s.bufState b :=
  State.fld_setFld_ne _ (by decide) (by decide) (by decide) (by decide)
theorem State.rd_setBufPend_ne {a : Nat} (h : a ≠ chrtBuf (bufIdx b)) (v : Bool) : (s.setBufPend b v).rd a = s.rd a :=
  State.rd_setBit_ne _ h ..
theorem Frame.setBufPend (h : Frame ps rs s t) (hr : rs (chrtBuf (bufIdx b))) (v : Bool) : Frame ps rs s (t.setBufPend b v) := h.setBit hr

/-- Buffer b is BAD, with no activation pending. -/
def State.BufBad (t : State) (b : Buf) : Prop := t.bufState b = 6 ∧ t.bufPend b = false
theorem State.setBad6_bad (s : State) (b : Buf) : (s.setBad6 b).BufBad b :=
  ⟨(State.bufState_setBufPend _).trans (State.bufState_setBufState (by decide)), State.bufPend_setBufPend _⟩
theorem State.BufBad.congr (h : s.BufBad b) (same : t.rd (chrtBuf (bufIdx b)) = s.rd (chrtBuf (bufIdx b))) : t.BufBad b :=
  ⟨(State.bufState_congr same).trans h.1, (State.bufPend_congr same).trans h.2⟩
theorem Frame.setBad6 (h : Frame ps rs s t) (hr : rs (chrtBuf (bufIdx b))) : Frame ps rs s (t.setBad6 b) :=
  (h.setBufState hr 6).setBufPend hr false

/-! ## Work on a buffer stops (R147) -/

/-- What the chart unit still does once work on buffer b has stopped: a waiting build of the other buffer follows one that ends. -/
def Chart.stopped (c : Chart) (b : Buf) : Chart :=
  let next := c.nextBuild.filter fun k => k.buf != b
  let ended := c.build.any fun k => k.buf == b
  { c with
    build := if ended then next else c.build
    nextBuild := if ended then none else next
    reverBuf := if c.reverBuf = some b then none else c.reverBuf
    pendRever := if c.reverBuf = some b then false else c.pendRever
    bg := if c.bg = some b then none else c.bg }
theorem State.endBuild_chart (s : State) : s.endBuild.chart = { s.chart with build := s.chart.nextBuild, nextBuild := none } := by
  unfold State.endBuild
  dsimp only
  split <;> rfl
theorem Frame.endBuild (h : Frame ps rs s t) (chart : Part.chart ∈ ps) (hr : t.chart.nextBuild ≠ none → rs chrtBldprog) :
    Frame ps rs s t.endBuild := by
  unfold State.endBuild
  dsimp only
  split
  · next waits => exact (h.upd_chart chart).wr (hr (Option.isSome_iff_ne_none.1 waits))
  · exact h.upd_chart chart
/-- Every work on buffer b but a build that runs has stopped. -/
def State.unworked (s : State) (b : Buf) : State :=
  let s := s.setBufPend b false
  let s := if s.chart.bg = some b then { s with chart := { s.chart with bg := none } } else s
  let s := if s.chart.reverBuf = some b then
      { s with chart := { s.chart with reverBuf := none, pendRever := false } }.setBit chrtStatus 27 false else s
  { s with chart := { s.chart with nextBuild := s.chart.nextBuild.filter fun k => k.buf != b } }
theorem State.unworked_chart (s : State) (b : Buf) : (s.unworked b).chart = { s.chart with
    nextBuild := s.chart.nextBuild.filter fun k => k.buf != b
    reverBuf := if s.chart.reverBuf = some b then none else s.chart.reverBuf
    pendRever := if s.chart.reverBuf = some b then false else s.chart.pendRever
    bg := if s.chart.bg = some b then none else s.chart.bg } := by
  by_cases bg : s.chart.bg = some b <;> by_cases rever : s.chart.reverBuf = some b <;> simp [State.unworked, State.setBufPend, bg, rever]
theorem State.unworked_frame (s : State) (b : Buf) (chart : Part.chart ∈ ps) (status : rs chrtStatus) :
    Frame ps rs (s.setBufPend b false) (s.unworked b) := by
  unfold State.unworked
  generalize s.setBufPend b false = u
  dsimp only
  have bg := Frame.ite (c := u.chart.bg = some b) ((Frame.refl ps rs u).upd_chart chart (x := { u.chart with bg := none })) (Frame.refl ps rs u)
  exact (Frame.ite ((bg.upd_chart chart).setBit status) bg).upd_chart chart
theorem State.stopBuf_eq (s : State) (b : Buf) : s.stopBuf b =
    if (s.unworked b).chart.build.any fun k => k.buf == b then (s.unworked b).endBuild else s.unworked b := by
  show (match (s.unworked b).chart.build with
    | some k => if k.buf = b then (s.unworked b).endBuild else s.unworked b
    | none => s.unworked b) = _
  split
  · next k running => simp [running]
  · next none_ => simp [none_]
theorem State.stopBuf_chart (s : State) (b : Buf) : (s.stopBuf b).chart = s.chart.stopped b := by
  have chart := State.unworked_chart s b
  have same : (s.unworked b).chart.build = s.chart.build := by rw [chart]
  rw [State.stopBuf_eq, same]
  unfold Chart.stopped
  by_cases ended : (s.chart.build.any fun k => k.buf == b) = true
  · rw [if_pos ended, State.endBuild_chart, chart]
    simp only [ended, if_true]
  · rw [if_neg ended, chart]
    simp only [ended, if_false, Bool.false_eq_true]
/-- Beside the pending activation, stopping clears a bit of CHRT_STATUS, and CHRT_BLDPROG when a waiting build may start. -/
theorem State.stopBuf_keeps (s : State) (b : Buf) (chart : Part.chart ∈ ps) (status : rs chrtStatus)
    (prog : s.chart.nextBuild ≠ none → rs chrtBldprog) : Frame ps rs (s.setBufPend b false) (s.stopBuf b) := by
  have work : Frame ps rs (s.setBufPend b false) (s.unworked b) := State.unworked_frame s b chart status
  have waits (w : (s.unworked b).chart.nextBuild ≠ none) : rs chrtBldprog := prog fun none_ => w (by
    rw [State.unworked_chart, none_]
    rfl)
  rw [State.stopBuf_eq]
  exact Frame.ite (work.endBuild chart waits) work
/-- Nothing that the chart unit does is about buffer b. -/
def Chart.FreeOf (c : Chart) (b : Buf) : Prop :=
  c.reverBuf ≠ some b ∧ c.bg ≠ some b ∧ ∀ k, c.build = some k ∨ c.nextBuild = some k → k.buf ≠ b
theorem Chart.stopped_freeOf (c : Chart) (b : Buf) : (c.stopped b).FreeOf b := by
  have next (k : Build) (h : (c.nextBuild.filter fun k => k.buf != b) = some k) : k.buf ≠ b := by
    simpa using (Option.filter_eq_some_iff.1 h).2
  unfold Chart.stopped
  refine ⟨?_, ?_, fun k h => ?_⟩
  · dsimp only
    split
    · exact nofun
    · assumption
  · dsimp only
    split
    · exact nofun
    · assumption
  · dsimp only at h
    split at h
    · exact next k (h.resolve_right nofun)
    · next other =>
      rcases h with h | h
      · rw [h] at other
        simpa using other
      · exact next k h

/-! ## Operations of R147 -/

/-- A command that only sets CMDERR. -/
theorem State.errs {c : Instr} (run : exec c s = .next s.cmdErr) :
    ∃ t, exec c s = .next t ∧ t.bit chrtStatus 2 = true ∧ Frame [] (regsOf [chrtStatus]) s t :=
  ⟨_, run, State.bit_setBit_self _ true (by decide), (Frame.refl ..).setBit (List.mem_singleton.2 rfl)⟩

section
variable (up : s.live .chrt = true)
include up

theorem exec_begin_frees (h : s.bufState b = 0 ∨ s.bufState b = 3 ∨ s.bufState b = 6) :
    exec (.begin_ b) s = .next ((s.stopBuf b).setBufState b 1) := by
  rcases h with h | h | h <;> simp [execBegin, up, h]
theorem exec_begin_refused (h : ¬ (s.bufState b = 0 ∨ s.bufState b = 3 ∨ s.bufState b = 6)) : exec (.begin_ b) s = .next s.cmdErr := by
  simp [execBegin, up, h]
theorem exec_verify_loading (h : s.bufState b = 1) : exec (.verify b) s = .next (s.setBufState b 2) := by
  simp [execVerify, up, h]
theorem exec_verify_refused (h : s.bufState b ≠ 1) : exec (.verify b) s = .next s.cmdErr := by
  simp [execVerify, up, h]
theorem exec_activate_ready (h : s.bufState b = 3 ∧ s.bufPend .bufA = false ∧ s.bufPend .bufB = false) :
    exec (.activate b) s = .next ((s.setBufPend b true).setBit chrtStatus 7 false) := by
  simp [execActivate, up, h]
theorem exec_activate_refused (h : ¬ (s.bufState b = 3 ∧ s.bufPend .bufA = false ∧ s.bufPend .bufB = false)) :
    exec (.activate b) s = .next s.cmdErr := by
  simp [execActivate, up, h]
theorem exec_deactivate_active (h : s.actBuf.isSome = true ∧ s.bufPend .bufA = false ∧ s.bufPend .bufB = false ∧ s.bit chrtStatus 7 = false) :
    exec .deactivate s = .next (s.setBit chrtStatus 7 true) := by
  simp [execDeactivate, up, h]
theorem exec_deactivate_refused
    (h : ¬ (s.actBuf.isSome = true ∧ s.bufPend .bufA = false ∧ s.bufPend .bufB = false ∧ s.bit chrtStatus 7 = false)) :
    exec .deactivate s = .next s.cmdErr := by
  simp [execDeactivate, up, h]
theorem exec_abort_frees (h : s.bufState b ≠ 4) : exec (.abort b) s = .next ((s.stopBuf b).setBufState b 0) := by
  simp [execAbort, up, h]
theorem exec_abort_refused (h : s.bufState b = 4) : exec (.abort b) s = .next s.cmdErr := by
  simp [execAbort, up, h]
end

/-- Buffer b has been freed of all work and has taken state st. -/
theorem State.freed (s : State) (b : Buf) {st : Nat} (small : st < 8) : let t := (s.stopBuf b).setBufState b st
    t.bufState b = st ∧ (t.bufPend b = false ∧ t.chart.reverBuf ≠ some b ∧ t.chart.bg ≠ some b ∧
      (∀ k, t.chart.build = some k ∨ t.chart.nextBuild = some k → k.buf ≠ b) ∧
      (s.chart.nextBuild = none → t.rd chrtBldprog = s.rd chrtBldprog)) ∧
    Frame [.chart] (regsOf [chrtBuf (bufIdx b), chrtStatus, chrtBldprog]) s t := by
  intro t
  obtain ⟨status, -, bldprog⟩ := chrtBuf_apart b
  have chart : t.chart = s.chart.stopped b := (State.setBufState_chart ..).trans (State.stopBuf_chart s b)
  obtain ⟨rever, bg, builds⟩ := Chart.stopped_freeOf s.chart b
  have kept := State.stopBuf_keeps s b (ps := [.chart]) (rs := regsOf [chrtStatus, chrtBldprog]) (by decide) (by simp [regsOf])
    fun _ => by simp [regsOf]
  refine ⟨State.bufState_setBufState small, ⟨?_, chart ▸ rever, chart ▸ bg, chart ▸ builds, fun none_ => ?_⟩, ?_⟩
  · rw [State.bufPend_setBufState, State.bufPend_congr (kept.2.1 _ (by simp [regsOf, status, bldprog])), State.bufPend_setBufPend]
  · have still := State.stopBuf_keeps s b (ps := [.chart]) (rs := regsOf [chrtStatus]) (by decide) (List.mem_singleton.2 rfl) fun w => absurd none_ w
    rw [State.rd_setBufState_ne bldprog.symm, still.2.1 _ (by simp [regsOf, chrtStatus, chrtBldprog]), State.rd_setBufPend_ne bldprog.symm]
  · have own : regsOf [chrtBuf (bufIdx b), chrtStatus, chrtBldprog] (chrtBuf (bufIdx b)) := List.mem_cons_self
    refine (((Frame.refl ..).setBufPend own false).trans (State.stopBuf_keeps s b (by decide) ?_ fun _ => ?_)).setBufState own st
    · exact List.mem_cons_of_mem _ List.mem_cons_self
    · exact List.mem_cons_of_mem _ (List.mem_cons_of_mem _ List.mem_cons_self)

/-! ## Verification (R161, R162) -/

/-- The registers of a list, and those of the MEM page, where the reads of a long check count what they meet. -/
def orMem (l : List Nat) : Nat → Prop := fun a => a ∈ l ∨ pagesOf [memBase] a
/-- An operation on the registers of the MEM page alone. -/
theorem Frame.doesMem {m : Nat} {l : List Nat} (k : Does m t u) (h : Frame ps (orMem l) s t) (hp : footParts m ps = true)
    (hr : footPages m [memBase] = true) : Frame ps (orMem l) s u :=
  Frame.does k h hp fun _ out => footPages_testBit hr fun page => out (.inr page)

theorem State.memUe_shows (s : State) (a : Nat) :
    (s.memUe a false).bit memStatus 1 = true ∧ (s.memUe a false).rd memUeaddr = 2 ^ 31 + a / 64 % 2 ^ 28 := by
  have addr : (2 ^ 31 + b2n false * 2 ^ 30 + a / 64 % 2 ^ 28) % 2 ^ 32 = 2 ^ 31 + a / 64 % 2 ^ 28 := by
    rw [show b2n false = 0 from rfl]
    omega
  unfold State.memUe
  dsimp only
  constructor
  · exact (Does.upd_saf.bit (by decide) 1).trans ((State.bit_wr_ne _ (by decide) ..).trans (State.bit_setBit_self _ true (by decide)))
  · exact (Does.upd_saf.reg _ (by decide)).trans ((State.rd_wr_self _ memUeaddr _).trans addr)
theorem State.memUeAt_shows {ue : Option Nat} {a : Nat} (h : ue = some a) (s : State) :
    (s.memUeAt ue).bit memStatus 1 = true ∧ (s.memUeAt ue).rd memUeaddr = 2 ^ 31 + a / 64 % 2 ^ 28 := by
  subst h
  exact State.memUe_shows s a

/-- A verification of buffer b has failed as f says (R161). -/
def State.FailedAs (t : State) (b : Buf) (f : VFail) : Prop := t.bufState b = 6 ∧ t.bufPend b = false ∧ t.bit chrtStatus 0 = true ∧
  t.rd chrtVerr = (0x80000000 + bufIdx b * 2 ^ 30 + f.sec % 4 * 2 ^ 28 + f.code * 2 ^ 24 +
    (if f.code = 6 ∨ f.code = 7 ∨ f.code = 9 then f.blk % 2 ^ 24 else 0)) % 2 ^ 32
theorem State.rd_verifyFail_ne {a : Nat} (h : a ≠ chrtVerr) (s : State) (b : Buf) (f : VFail) :
    (s.verifyFail b f).rd a = (((s.memUeAt f.ue).setBad6 b).setBit chrtStatus 0 true).rd a := by
  unfold State.verifyFail
  exact State.rd_wr_ne _ h _
theorem State.verifyFail_failed (s : State) (b : Buf) (f : VFail) : (s.verifyFail b f).FailedAs b f := by
  obtain ⟨status, verr, -⟩ := chrtBuf_apart b
  have same := (State.rd_verifyFail_ne verr s b f).trans (State.rd_setBit_ne _ status ..)
  obtain ⟨bad, pend⟩ := (State.setBad6_bad (s.memUeAt f.ue) b).congr same
  refine ⟨bad, pend, ?_, ?_⟩
  · unfold State.bit
    rw [State.rd_verifyFail_ne (by decide)]
    exact State.bit_setBit_self _ true (by decide)
  · unfold State.verifyFail
    exact State.rd_wr_self ..
/-- A failure writes no register off the CHRT page but those of the error that it met. -/
theorem State.verifyFail_mem {a : Nat} (h : pageBit a ≠ 25) (s : State) (b : Buf) (f : VFail) : (s.verifyFail b f).rd a = (s.memUeAt f.ue).rd a := by
  have other {x : Nat} (hx : pageBit x = 25) : a ≠ x := fun e => h (e ▸ hx)
  have buf := other (pageBit_buf b)
  rw [State.rd_verifyFail_ne (other (by decide)), State.rd_setBit_ne _ (other (by decide)), State.setBad6, State.rd_setBufPend_ne buf,
    State.rd_setBufState_ne buf]
theorem Frame.verifyFail (f : VFail) (h : Frame ps rs s (t.memUeAt f.ue)) (buf : rs (chrtBuf (bufIdx b))) (status : rs chrtStatus)
    (verr : rs chrtVerr) : Frame ps rs s (t.verifyFail b f) :=
  ((h.setBad6 buf).setBit status).wr verr

/-- All the checks of a verification of buffer b have run, with what their reads meet. -/
def State.checkedAll (s : State) (b : Buf) (met : Met) : State × Option VFail :=
  s.checkRun b met fun s => checkChart s b (s.fld chrtIlen 26 0)

theorem exec_verificationDone_idle (h : s.bufState b ≠ 2 ∨ s.chart.reverBuf = some b ∨ s.anyRetrain = true) (met : Met) :
    exec (.verificationDone b met) s = .next s :=
  if_pos (by rcases h with h | h | h <;> simp [h])

section
variable (up : s.live .chrt = true) (verifying : s.bufState b = 2) (first : s.chart.reverBuf ≠ some b) (still : s.anyRetrain = false) (met : Met)
include up verifying first still

theorem exec_verificationDone_unready (down : s.memReady = false) :
    exec (.verificationDone b met) s = .next (s.verifyFail b { code := 9, sec := 0, blk := 0 }) := by
  simp [execVerificationDone, up, verifying, first, still, down]
theorem exec_verificationDone_passes (ready : s.memReady = true) (none_ : (s.checkedAll b met).2 = none) :
    exec (.verificationDone b met) s = .next ((s.checkedAll b met).1.setBufState b 3) := by
  unfold State.checkedAll at none_ ⊢
  simp [execVerificationDone, up, verifying, first, still, ready, none_]
theorem exec_verificationDone_fails (ready : s.memReady = true) {f : VFail} (found : (s.checkedAll b met).2 = some f) :
    exec (.verificationDone b met) s = .next ((s.checkedAll b met).1.verifyFail b f) := by
  unfold State.checkedAll at found ⊢
  simp [execVerificationDone, up, verifying, first, still, ready, found]

theorem exec_verificationDone_ends :
    (s.memReady = false → ∃ t, exec (.verificationDone b met) s = .next t ∧ t.FailedAs b { code := 9, sec := 0, blk := 0 } ∧
      Frame [] (regsOf [chrtBuf (bufIdx b), chrtStatus, chrtVerr]) s t) ∧
    (s.memReady = true →
      ((s.checkedAll b met).2 = none → ∃ t, exec (.verificationDone b met) s = .next t ∧ t.bufState b = 3 ∧
        t.fld (chrtBuf (bufIdx b)) 25 16 = 1000 ∧ Frame [.gmem, .flaws] (orMem [chrtBuf (bufIdx b)]) s t) ∧
      ∀ f, (s.checkedAll b met).2 = some f → ∃ t, exec (.verificationDone b met) s = .next t ∧ t.FailedAs b f ∧
        (∀ a, f.ue = some a → t.bit memStatus 1 = true ∧ t.rd memUeaddr = 2 ^ 31 + a / 64 % 2 ^ 28) ∧
        Frame [.gmem, .saf, .flaws] (orMem [chrtBuf (bufIdx b), chrtStatus, chrtVerr]) s t) := by
  have run := State.checkRun_does s b met fun s => checkChart s b (s.fld chrtIlen 26 0)
  refine ⟨fun down => ?_, fun ready => ⟨fun none_ => ?_, fun f found => ?_⟩⟩
  · exact ⟨_, exec_verificationDone_unready up verifying first still met down, State.verifyFail_failed ..,
      Frame.verifyFail _ (Frame.refl ..) List.mem_cons_self (by simp [regsOf]) (by simp [regsOf])⟩
  · exact ⟨_, exec_verificationDone_passes up verifying first still met ready none_, State.bufState_setBufState (by decide),
      State.prog_setBufState_ready, (Frame.doesMem run (Frame.refl ..) (by decide) (by decide)).setBufState (.inl List.mem_cons_self) 3⟩
  · have reads : Frame [.gmem, .saf, .flaws] (orMem [chrtBuf (bufIdx b), chrtStatus, chrtVerr]) s ((s.checkedAll b met).1.memUeAt f.ue) :=
      Frame.doesMem (State.memUeAt_does _ _) (Frame.doesMem run (Frame.refl ..) (by decide) (by decide)) (by decide) (by decide)
    refine ⟨_, exec_verificationDone_fails up verifying first still met ready found, State.verifyFail_failed .., fun a ue => ?_,
      Frame.verifyFail f reads (.inl List.mem_cons_self) (.inl (by simp)) (.inl (by simp))⟩
    obtain ⟨status, addr⟩ := State.memUeAt_shows ue (s.checkedAll b met).1
    unfold State.bit
    rw [State.verifyFail_mem (by decide), State.verifyFail_mem (by decide)]
    exact ⟨status, addr⟩
end

/-- Settles O20: each operation by the states it is open in, and a verification by what its checks find. -/
theorem chartBuffers : Obligations.ChartBuffers := by
  intro s b up r err free readBy
  have own : regsOf [r] r := List.mem_singleton.2 rfl
  refine ⟨fun h => ?_, fun h => State.errs (exec_begin_refused up h), fun h => ?_, fun h => State.errs (exec_verify_refused up h),
    exec_verificationDone_idle, fun verifying first still met => exec_verificationDone_ends up verifying first still met, fun ready a b' => ?_,
    fun h => State.errs (exec_activate_refused up h), fun act a b' wanted => ?_, fun h => State.errs (exec_deactivate_refused up h), fun h => ?_,
    fun h => State.errs (exec_abort_refused up h)⟩
  · exact ⟨_, exec_begin_frees up h, State.freed s b (by decide)⟩
  · exact ⟨_, exec_verify_loading up h, State.bufState_setBufState (by decide), (Frame.refl ..).setBufState own 2⟩
  · refine ⟨_, exec_activate_ready up ⟨ready, a, b'⟩, ?_, State.bit_setBit_self _ false (by decide),
      ((Frame.refl ..).setBufPend List.mem_cons_self true).setBit (by simp)⟩
    exact (State.bufPend_congr (State.rd_setBit_ne _ (chrtBuf_apart b).1 ..)).trans (State.bufPend_setBufPend true)
  · exact ⟨_, exec_deactivate_active up ⟨act, a, b', wanted⟩, State.bit_setBit_self _ true (by decide),
      (Frame.refl ..).setBit (List.mem_singleton.2 rfl)⟩
  · exact ⟨_, exec_abort_frees up h, State.freed s b (by decide)⟩

end Sys2Proof.Machine
end

section
/-!
PROOFS of O21: chart lookups, the builder, re-verification and background verification.
-/
namespace Sys2Proof.Machine

variable {s t u : State} {p : Slot} {b : Buf} {ps : List Part} {rs : Nat → Prop}

/-! ## What a lookup's reads leave (R253, R257) -/

theorem State.memRetry_lkUsed (s : State) (c : ChanN) (edc limit : Nat) : (s.memRetry c edc limit).1.gmem.lkUsed = s.gmem.lkUsed := by
  unfold State.memRetry State.linkFail
  dsimp only
  split <;> rfl
theorem State.checkWords_gmem (s : State) (a n : Nat) (told : List Ecc) (scrub : Bool) : (s.checkWords a n told scrub).1.gmem = s.gmem :=
  (State.checkWords_does s a n told scrub).part .gmem (by decide)
/-- The reads of a unit do not count against the lookups' allotment. -/
theorem State.unitReads_lkUsed (s : State) (lookup : Bool) (l : List (Nat × Check)) : (s.unitReads lookup l).1.gmem.lkUsed = s.gmem.lkUsed := by
  induction l generalizing s with
  | nil => rfl
  | cons x l ih =>
    have retry := State.memRetry_lkUsed s (s.chanOf x.1) x.2.edc (s.retryLimit lookup)
    unfold State.unitReads
    split
    · exact congrArg Mem.lkUsed ((State.holeSeen_does s x.1).part .gmem (by decide))
    · dsimp only
      split
      · exact retry
      · have check := State.checkWords_gmem (s.memRetry (s.chanOf x.1) x.2.edc (s.retryLimit lookup)).1 (x.1 / 64 * 64) 64 x.2.ecc false
        split
        · next t e =>
          rw [e] at check
          exact (ih t).trans ((congrArg Mem.lkUsed check).trans retry)
        · next t e =>
          rw [e] at check
          exact (congrArg Mem.lkUsed check).trans retry

/-! ## A lookup (R157 to R160) -/

/-- The bursts that the lookup of problem p reads now have been read: the state, and the burst that failed. -/
def State.lookRead (s : State) (p : Slot) (chks : List Check) (now : Nat) : State × Option (Nat × Bool) :=
  let u := s.tellNow now
  let r := u.unitReads true ((u.lookNow p).zipIdx.map fun b => (b.1, chks.getD b.2 {}))
  (r.1.setMem { r.1.gmem with lkUsed := r.1.gmem.lkUsed + (u.lookNow p).length }, r.2)
/-- What the lookup of problem p finds when no read fails. -/
def State.lookFound (s : State) (p : Slot) (now : Nat) : Looked :=
  let u := s.tellNow now
  let xu := (s.prob p).lookOld.getD ((s.prob p).x0, (s.prob p).u)
  match u.lookSect p with
  | some c => chartLook u c xu.1 xu.2
  | none => .miss
theorem State.lookFound_eq (s : State) (p : Slot) (now : Nat) : s.lookFound p now = (((s.tellNow now).lookSect p).map fun c =>
    chartLook (s.tellNow now) c ((s.prob p).lookOld.getD ((s.prob p).x0, (s.prob p).u)).1
      ((s.prob p).lookOld.getD ((s.prob p).x0, (s.prob p).u)).2).getD .miss := by
  unfold State.lookFound
  dsimp only
  rcases (s.tellNow now).lookSect p with _ | c <;> rfl
/-- The problem q without its oldest lookup. -/
def Problem.lookOver (q : Problem) : Problem := { q with lookup := q.lookup && q.lookOld.isSome, lookOld := none, lookPos := 0 }
/-- The problem q whose oldest lookup has ended at fabric cycle `now`. -/
def Problem.looked (q : Problem) (now : Nat) : Problem :=
  if q.lookOver.lookup then q.lookOver else q.lookOver.unstallAt now
/-- The lookup of problem q of slot p ends: no course after a failed read, and else what was found. -/
def State.lookEnds (t : State) (p : Slot) (q : Problem) (failed : Option (Nat × Bool)) (found : Looked) : State :=
  match failed, found with
  | some (_, ue), _ => (t.setProb p q).lookFail (if ue then some 4 else none)
  | none, .decodeError => (t.setProb p q).lookFail (some 5)
  | none, .miss => (t.setProb p q).lookFail none
  | none, .course c => if t.phase p = 2 ∨ t.phase p = 3 then t.setProb p { q with lastLookup := some c, seedPend := some c } else t.setProb p q
/-- Bursts of the lookup are left for a later window. -/
def State.LookMore (s : State) (p : Slot) (chks : List Check) (now : Nat) : Prop :=
  (s.lookRead p chks now).2 = none ∧ (s.prob p).lookPos + ((s.tellNow now).lookNow p).length < ((s.tellNow now).lookupReads p).length

theorem exec_chartLookup_idle (h : (s.prob p).lookup = false ∧ (s.prob p).lookOld = none ∨ s.lookWaits p = true) (chks : List Check) (now : Nat) :
    exec (.chartLookup p chks now) s = .next s :=
  if_pos (by rcases h with ⟨a, b⟩ | h <;> simp [*])

/-- A lookup is out and its next burst need not wait. -/
structure State.Looks (s : State) (p : Slot) : Prop where
  up : s.live .chrt = true
  out : (s.prob p).lookup = true ∨ (s.prob p).lookOld.isSome = true
  free : s.lookWaits p = false
theorem State.Looks.guard (h : s.Looks p) : ¬ (!s.live .chrt || !((s.prob p).lookup || (s.prob p).lookOld.isSome) || s.lookWaits p) = true := by
  rcases h.out with e | e <;> simp [h.up, h.free, e]

theorem exec_chartLookup_more (h : s.Looks p) {chks : List Check} {now : Nat} (more : s.LookMore p chks now) : exec (.chartLookup p chks now) s =
    .next ((s.lookRead p chks now).1.setProb p { s.prob p with lookPos := (s.prob p).lookPos + ((s.tellNow now).lookNow p).length }) := by
  rw [exec_chartLookup]
  unfold execChartLookup
  refine (if_neg h.guard).trans ?_
  refine if_pos ?_
  obtain ⟨good, left⟩ := more
  rw [Bool.and_eq_true, decide_eq_true_eq]
  exact ⟨Option.isNone_iff_eq_none.2 good, left⟩
theorem exec_chartLookup_ends (h : s.Looks p) {chks : List Check} {now : Nat} (last : ¬ s.LookMore p chks now) : exec (.chartLookup p chks now) s =
    .next ((s.lookRead p chks now).1.lookEnds p ((s.prob p).looked now) (s.lookRead p chks now).2 (s.lookFound p now)) := by
  rw [exec_chartLookup]
  unfold execChartLookup
  refine (if_neg h.guard).trans ((if_neg ?_).trans ?_)
  · rw [Bool.and_eq_true, decide_eq_true_eq]
    exact fun ⟨good, left⟩ => last ⟨Option.isNone_iff_eq_none.1 good, left⟩
  · unfold State.lookEnds
    split
    · next a ue failed =>
      rw [show (s.lookRead p chks now).2 = some (a, ue) from failed]
      rfl
    · next good =>
      rw [show (s.lookRead p chks now).2 = none from good]
      split
      · next found =>
        rw [show s.lookFound p now = .decodeError from found]
        rfl
      · next found =>
        rw [show s.lookFound p now = .miss from found]
        rfl
      · next k found =>
        rw [show s.lookFound p now = .course k from found]
        exact (apply_ite Host.Outcome.next ..).symm

theorem State.lookRead_does (s : State) (p : Slot) (chks : List Check) (now : Nat) : Does 0x80010000c02 s (s.lookRead p chks now).1 :=
  Does.andThen (State.setMem_does _ _) (Does.andThen (State.unitReads_does _ _ _) ((State.tellNow_does s now).mono (by decide)) (by decide)) (by decide)
theorem State.lookRead_lkUsed (s : State) (p : Slot) (chks : List Check) (now : Nat) :
    (s.lookRead p chks now).1.gmem.lkUsed = s.gmem.lkUsed + ((s.tellNow now).lookNow p).length :=
  congrArg (· + _) (State.unitReads_lkUsed (s.tellNow now) true _)

theorem Problem.looked_over (q : Problem) (now : Nat) :
    (q.looked now).lookOld = none ∧ (q.looked now).lookup = (q.lookup && q.lookOld.isSome) ∧ (q.looked now).lookPos = 0 := by
  unfold Problem.looked
  split <;> exact ⟨rfl, rfl, rfl⟩
/-- The stall ends with the last lookup outstanding (R109). -/
theorem Problem.looked_last {q : Problem} (last : (q.lookup && q.lookOld.isSome) = false) (now : Nat) :
    (q.looked now).chWait = none ∧ (q.looked now).stall = (q.unstallAt now).stall := by
  unfold Problem.looked
  rw [if_neg (by rw [Problem.lookOver, last]; exact Bool.false_ne_true)]
  exact ⟨rfl, rfl⟩

/-- A lookup is counted as a miss. -/
def State.Missed (s t : State) : Prop := t.fld chrtLkcnt 31 16 = Nat.min (s.fld chrtLkcnt 31 16 + 1) 65535
theorem State.count_missed (s : State) : s.Missed (s.count chrtLkcnt 31 16) := by
  refine (State.fld_setFld_self _ (by decide) (by decide)).trans (Nat.mod_eq_of_lt ?_)
  exact lt_of_le_of_lt (Nat.min_le_right ..) (by decide)
theorem State.lookFail_none (s : State) : s.Missed (s.lookFail none) ∧ (s.lookFail none).chart = s.chart := ⟨s.count_missed, State.count_chart ..⟩
theorem State.lookFail_some (s : State) {i : Nat} (small : i < 32) : s.Missed (s.lookFail (some i)) ∧ (s.lookFail (some i)).bit chrtStatus i = true ∧
    (s.lookFail (some i)).chart = { s.chart with withdraw := true } := by
  have same : s.lookFail (some i) =
      { (s.count chrtLkcnt 31 16).setBit chrtStatus i true with chart := { s.chart with withdraw := true } } := by
    unfold State.lookFail
    simp only [State.count_chart]
  rw [same]
  refine ⟨?_, (Does.upd_chart.bit (by decide) i).trans (State.bit_setBit_self _ true small), rfl⟩
  exact (congrArg (fun x => bits x 31 16) ((Does.upd_chart.reg chrtLkcnt (by decide)).trans (State.rd_setBit_ne _ (by decide) ..))).trans s.count_missed
theorem State.lookFail_prob (s : State) (i : Option Nat) (k : Slot) : (s.lookFail i).prob k = s.prob k := (State.lookFail_does s i).prob (by decide) k

/-- The end of a lookup leaves its problem q, but for a seed. -/
theorem State.lookEnds_prob (t : State) (p : Slot) (q : Problem) (failed : Option (Nat × Bool)) (found : Looked) :
    ∃ l c, (t.lookEnds p q failed found).prob p = { q with lastLookup := l, seedPend := c } := by
  have fails (i : Option Nat) : ((t.setProb p q).lookFail i).prob p = q := (State.lookFail_prob ..).trans (State.prob_setProb_self ..)
  unfold State.lookEnds
  split
  · exact ⟨_, _, fails _⟩
  · exact ⟨_, _, fails _⟩
  · exact ⟨_, _, fails _⟩
  · split <;> exact ⟨_, _, State.prob_setProb_self ..⟩
theorem State.lookEnds_prob_ne {k : Slot} (other : k ≠ p) (t : State) (q : Problem) (failed : Option (Nat × Bool)) (found : Looked) :
    (t.lookEnds p q failed found).prob k = t.prob k := by
  have fails (i : Option Nat) : ((t.setProb p q).lookFail i).prob k = t.prob k :=
    (State.lookFail_prob ..).trans (State.prob_setProb_ne _ other _)
  unfold State.lookEnds
  split
  · exact fails _
  · exact fails _
  · exact fails _
  · split <;> exact State.prob_setProb_ne _ other _
theorem State.lookEnds_does (t : State) (p : Slot) (q : Problem) (failed : Option (Nat × Bool)) (found : Looked) :
    Does 0x2000024 t (t.lookEnds p q failed found) := by
  have set (x : Problem) : Does 0x2000024 t (t.setProb p x) := Does.setProb.mono (by decide)
  have fails (i : Option Nat) : Does 0x2000024 t ((t.setProb p q).lookFail i) := Does.andThen (State.lookFail_does _ i) (set q) (by decide)
  unfold State.lookEnds
  split
  · exact fails _
  · exact fails _
  · exact fails _
  · exact Does.ite (set _) (set _)

/-- How the lookup of problem q of slot p in state s has ended, in t: what its reads met and what it found. -/
structure State.LookEnded (s : State) (p : Slot) (q : Problem) (failed : Option (Nat × Bool)) (found : Looked) (t : State) : Prop where
  hurt : ∀ a, failed = some (a, true) → s.Missed t ∧ t.bit chrtStatus 4 = true ∧ t.chart = { s.chart with withdraw := true }
  refused : ∀ a, failed = some (a, false) → s.Missed t ∧ t.chart = s.chart
  missed : failed = none → found = .miss → s.Missed t ∧ t.chart = s.chart
  undecodable : failed = none → found = .decodeError → s.Missed t ∧ t.bit chrtStatus 5 = true ∧ t.chart = { s.chart with withdraw := true }
  seeded : ∀ k, failed = none → found = .course k → s.phase p = 2 ∨ s.phase p = 3 →
    t.prob p = { q with lastLookup := some k, seedPend := some k } ∧ t.chart = s.chart
theorem State.lookEnds_ended (t : State) (p : Slot) (q : Problem) (failed : Option (Nat × Bool)) (found : Looked) :
    t.LookEnded p q failed found (t.lookEnds p q failed found) where
  hurt := by
    rintro a rfl
    exact State.lookFail_some (t.setProb p q) (by decide)
  refused := by
    rintro a rfl
    exact State.lookFail_none (t.setProb p q)
  missed := by
    rintro rfl rfl
    exact State.lookFail_none (t.setProb p q)
  undecodable := by
    rintro rfl rfl
    exact State.lookFail_some (t.setProb p q) (by decide)
  seeded := by
    rintro k rfl rfl searching
    have seeds : t.lookEnds p q none (.course k) = t.setProb p { q with lastLookup := some k, seedPend := some k } := if_pos searching
    rw [seeds]
    exact ⟨State.prob_setProb_self .., rfl⟩
/-- Reads and the time told change nothing that the end of a lookup is told by. -/
theorem State.LookEnded.before {q : Problem} {failed : Option (Nat × Bool)} {found : Looked} {t u : State} (h : u.LookEnded p q failed found t)
    (reads : Does 0x80010000c02 s u) : s.LookEnded p q failed found t := by
  have chart : u.chart = s.chart := reads.part .chart (by decide)
  have phase : u.phase p = s.phase p := reads.phase (by decide) p
  have count : u.fld chrtLkcnt 31 16 = s.fld chrtLkcnt 31 16 := congrArg (fun x => bits x 31 16) (reads.reg chrtLkcnt (by decide))
  obtain ⟨hurt, refused, missed, undecodable, seeded⟩ := h
  unfold State.Missed at *
  rw [chart, count] at hurt refused missed undecodable
  rw [chart, phase] at seeded
  exact ⟨hurt, refused, missed, undecodable, seeded⟩

/-- A lookup that need not wait reads what it may and goes on or ends. -/
theorem exec_chartLookup_goes (h : s.Looks p) (chks : List Check) (now : Nat) : ∃ t, exec (.chartLookup p chks now) s = .next t ∧
    (∀ k, k ≠ p → t.prob k = s.prob k) ∧ t.gmem.lkUsed = s.gmem.lkUsed + ((s.tellNow now).lookNow p).length ∧
    Frame [.per, .probs, .chart, .gmem, .saf, .flaws] (pagesOf [chrtBase, memBase]) s t ∧
    (s.LookMore p chks now →
      t.prob p = { s.prob p with lookPos := (s.prob p).lookPos + ((s.tellNow now).lookNow p).length } ∧ t.chart = s.chart) ∧
    (¬ s.LookMore p chks now →
      (∃ l c, t.prob p = { (s.prob p).looked now with lastLookup := l, seedPend := c }) ∧
      s.LookEnded p ((s.prob p).looked now) (s.lookRead p chks now).2 (s.lookFound p now) t) := by
  have reads := State.lookRead_does s p chks now
  have used := State.lookRead_lkUsed s p chks now
  by_cases more : s.LookMore p chks now
  · have run := exec_chartLookup_more h more
    refine ⟨_, run, fun k other => (State.prob_setProb_ne _ other _).trans (reads.prob (by decide) k), used,
      Frame.out (execChartLookup_does p chks now s) run (by decide) (by decide), fun _ => ⟨State.prob_setProb_self .., ?_⟩, fun last => absurd more last⟩
    exact reads.part .chart (by decide)
  · have run := exec_chartLookup_ends h more
    have ends := State.lookEnds_does (s.lookRead p chks now).1 p ((s.prob p).looked now) (s.lookRead p chks now).2 (s.lookFound p now)
    exact ⟨_, run, fun k other => (State.lookEnds_prob_ne other ..).trans (reads.prob (by decide) k),
      (congrArg Mem.lkUsed (ends.part .gmem (by decide))).trans used, Frame.out (execChartLookup_does p chks now s) run (by decide) (by decide),
      fun go => absurd go more, fun _ => ⟨State.lookEnds_prob .., (State.lookEnds_ended ..).before reads⟩⟩

end Sys2Proof.Machine
end

section
namespace Sys2Proof.Machine

variable {s t u : State} {b : Buf} {ps : List Part} {rs : Nat → Prop}

/-! ## A problem table is read from memory alone (R63) -/

theorem slotTable_congr (h : ∀ a, t.word a = s.word a) (p : Slot) : slotTable t p = slotTable s p := by
  have entry : entryAt t = entryAt s := by
    funext b i
    simp only [entryAt, h]
  have action : actionAt t = actionAt s := by
    funext b j
    simp only [actionAt, h]
  have coupling : couplingAt t = couplingAt s := by
    funext b nu c
    simp only [couplingAt, h]
  simp only [slotTable, readTable, h, entry, action, coupling]
theorem State.word_setBufState (st a : Nat) : (s.setBufState b st).word a = s.word a :=
  congrArg ofLE (State.bytes_congr fun x _ _ => (State.setBufState_does s b st).part .mem (by decide) x)

/-! ## BUILD (R147, R166) -/

/-- The header and the directory of buffer b have been read, with what the reads meet, and whether they could be. -/
def State.headRead (s : State) (b : Buf) (met : Met) : State × Bool := s.longRead (bufBase b) 0x500 met
/-- The header of b, as state u shows it, says what to build (R149). -/
def State.HeadGood (s : State) (b : Buf) (met : Met) : Prop := (s.headRead b met).2 = true ∧ headOk (s.headRead b met).1 b = true
/-- A channel of the header retrains. -/
def State.headWaits (s : State) (b : Buf) : Bool := (burstsOf (bufBase b) 0x500).any s.memWaits
/-- The sections that buffer b asks for. -/
def State.asked (s : State) (b : Buf) : List Sect := (sections s b).map (·.2)
/-- The build of buffer b, with nothing built. -/
def State.newBuild (s : State) (b : Buf) : Build :=
  { buf := b, tables := (s.asked b).map fun c => slotTable s (toFin 4 c.slot), sec := 0, done := [], out := [] }
/-- Build k runs, or follows the one that runs (log entry 112). -/
def State.addBuild (s : State) (k : Build) : State :=
  if s.chart.build.isSome then { s with chart := { s.chart with nextBuild := some k } }
  else { s.wr chrtBldprog 0 with chart := { s.chart with build := some k } }
theorem State.headRead_does (s : State) (b : Buf) (met : Met) : Does 0x80010000c00 s (s.headRead b met).1 := State.longRead_does ..

theorem State.addBuild_first (none_ : s.chart.build = none) (k : Build) :
    (s.addBuild k).chart = { s.chart with build := some k } ∧ (s.addBuild k).rd chrtBldprog = 0 := by
  unfold State.addBuild
  rw [none_]
  exact ⟨rfl, (Does.upd_chart.reg _ (by decide)).trans (State.rd_wr_self ..)⟩
theorem State.addBuild_second (some_ : s.chart.build.isSome = true) (k : Build) :
    (s.addBuild k).chart = { s.chart with nextBuild := some k } ∧ (s.addBuild k).rd chrtBldprog = s.rd chrtBldprog := by
  unfold State.addBuild
  rw [if_pos some_]
  exact ⟨rfl, Does.upd_chart.reg _ (by decide)⟩
theorem Frame.addBuild (h : Frame ps rs s t) (chart : Part.chart ∈ ps) (prog : rs chrtBldprog) (k : Build) : Frame ps rs s (t.addBuild k) :=
  Frame.ite (h.upd_chart chart) ((h.wr prog).upd_chart chart)

theorem exec_build_refused (up : s.live .chrt = true) (h : s.bufState b ≠ 1) (met : Met) : exec (.build b met) s = .next s.cmdErr := by
  simp [execBuild, up, h]
theorem exec_build_waits (up : s.live .chrt = true) (loading : s.bufState b = 1) (waits : s.headWaits b = true) (met : Met) :
    exec (.build b met) s = .next s := by
  unfold State.headWaits at waits
  simp [execBuild, up, loading, waits]

section
variable (up : s.live .chrt = true) (loading : s.bufState b = 1) (free : ¬ s.headWaits b = true) (met : Met)
include up loading free

theorem exec_build_reads : exec (.build b met) s =
    if !(s.headRead b met).2 || !headOk (s.headRead b met).1 b then .next (s.headRead b met).1.cmdErr
    else if (s.headRead b met).1.buildRefused ((s.headRead b met).1.asked b) then .next ((s.headRead b met).1.setBit chrtStatus 1 true)
    else .next (((s.headRead b met).1.setBufState b 5).addBuild ((s.headRead b met).1.newBuild b)) := by
  have powered : ¬ (!s.live .chrt) = true := by simp [up]
  rw [exec_build]
  unfold execBuild
  refine (if_neg powered).trans ((if_neg (not_not_intro loading)).trans ((if_neg free).trans ?_))
  refine if_congr Iff.rfl rfl (if_congr Iff.rfl rfl ?_)
  have tables (c : Sect) : slotTable ((s.headRead b met).1.setBufState b 5) (toFin 4 c.slot) = slotTable (s.headRead b met).1 (toFin 4 c.slot) :=
    slotTable_congr (fun a => State.word_setBufState 5 a) _
  unfold State.addBuild State.newBuild
  simp only [← tables]
  exact (apply_ite Host.Outcome.next ..).symm
theorem exec_build_unreadable (bad : ¬ s.HeadGood b met) : exec (.build b met) s = .next (s.headRead b met).1.cmdErr :=
  (exec_build_reads up loading free met).trans (if_pos (by
    simp only [State.HeadGood, not_and_or, Bool.not_eq_true] at bad
    rcases bad with e | e <;> simp [e]))
theorem exec_build_judges (good : s.HeadGood b met) : exec (.build b met) s =
    if (s.headRead b met).1.buildRefused ((s.headRead b met).1.asked b) then .next ((s.headRead b met).1.setBit chrtStatus 1 true)
    else .next (((s.headRead b met).1.setBufState b 5).addBuild ((s.headRead b met).1.newBuild b)) := by
  obtain ⟨answered, head⟩ := good
  exact (exec_build_reads up loading free met).trans (if_neg (by simp [answered, head]))

theorem exec_build_errs (bad : ¬ s.HeadGood b met) : ∃ t, exec (.build b met) s = .next t ∧ t.bit chrtStatus 2 = true ∧
    Frame [.gmem, .saf, .flaws] (orMem [chrtStatus]) s t :=
  ⟨_, exec_build_unreadable up loading free met bad, State.bit_setBit_self _ true (by decide),
    (Frame.doesMem (State.headRead_does s b met) (Frame.refl ..) (by decide) (by decide)).setBit (.inl List.mem_cons_self)⟩
theorem exec_build_inconsistent (good : s.HeadGood b met) (refused : (s.headRead b met).1.buildRefused ((s.headRead b met).1.asked b) = true) :
    ∃ t, exec (.build b met) s = .next t ∧ t.bit chrtStatus 1 = true ∧ Frame [.gmem, .saf, .flaws] (orMem [chrtStatus]) s t :=
  ⟨_, (exec_build_judges up loading free met good).trans (if_pos refused), State.bit_setBit_self _ true (by decide),
    (Frame.doesMem (State.headRead_does s b met) (Frame.refl ..) (by decide) (by decide)).setBit (.inl List.mem_cons_self)⟩
theorem exec_build_starts (good : s.HeadGood b met) (taken : (s.headRead b met).1.buildRefused ((s.headRead b met).1.asked b) = false) :
    ∃ t, exec (.build b met) s = .next t ∧ t.bufState b = 5 ∧
      (s.chart.build = none → t.chart = { s.chart with build := some ((s.headRead b met).1.newBuild b) } ∧ t.rd chrtBldprog = 0) ∧
      (s.chart.build.isSome = true →
        t.chart = { s.chart with nextBuild := some ((s.headRead b met).1.newBuild b) } ∧ t.rd chrtBldprog = s.rd chrtBldprog) ∧
      Frame [.chart, .gmem, .saf, .flaws] (orMem [chrtBuf (bufIdx b), chrtBldprog]) s t := by
  have read := State.headRead_does s b met
  have prog := (chrtBuf_apart b).2.2
  have chart : ((s.headRead b met).1.setBufState b 5).chart = s.chart := (State.setBufState_chart ..).trans (read.part .chart (by decide))
  have before : ((s.headRead b met).1.setBufState b 5).rd chrtBldprog = s.rd chrtBldprog :=
    (State.rd_setBufState_ne prog.symm 5).trans (read.reg _ (by decide))
  refine ⟨_, (exec_build_judges up loading free met good).trans (if_neg (by simp [taken])), ?_, fun none_ => ?_, fun some_ => ?_, ?_⟩
  · have added : Frame [.chart] (regsOf [chrtBldprog]) ((s.headRead b met).1.setBufState b 5) _ :=
      (Frame.refl ..).addBuild List.mem_cons_self List.mem_cons_self ((s.headRead b met).1.newBuild b)
    exact (State.bufState_congr (added.2.1 _ (by simp [regsOf, prog]))).trans (State.bufState_setBufState (by decide))
  · rw [← chart] at none_ ⊢
    exact State.addBuild_first none_ _
  · rw [← chart] at some_ ⊢
    rw [← before]
    exact State.addBuild_second some_ _
  · exact ((Frame.doesMem read (Frame.refl ..) (by decide) (by decide)).setBufState (.inl List.mem_cons_self) 5).addBuild (by decide)
      (.inl (List.mem_cons_of_mem _ List.mem_cons_self)) _
end

end Sys2Proof.Machine
end

section
namespace Sys2Proof.Machine

variable {s t u : State} {b : Buf} {c : Cl} {k : Build} {ps : List Part} {rs : Nat → Prop}

/-! ## BUILD_ENTRY (R167, R168) -/

/-- Build k runs and an entry's search may complete on cluster c. -/
structure State.Builds (s : State) (c : Cl) (k : Build) : Prop where
  running : s.chart.build = some k
  up : s.live .chrt = true
  array : s.live .srch = true
  free : s.buildFree c = true
  ready : s.memReady = true
  still : s.anyRetrain = false
theorem State.Builds.guard (h : s.Builds c k) : ¬ (!s.live .chrt || !s.live .srch || !s.buildFree c || !s.memReady || s.anyRetrain) = true := by
  simp [h.up, h.array, h.free, h.ready, h.still]

/-- The entries of the section of build k once the search of the next one has ended (log entry 7). -/
def State.grown (s : State) (k : Build) : List (Option Course) :=
  let st := (sectAt s k.buf k.sec).start k.out.length
  k.out ++ [entrySearch (k.tables.getD k.sec {}) st.1 st.2 (s.fld chrtBldbud 23 0)]
/-- Build k has a new entry: CHRT_BLDPROG shows v, and PROG the share of the whole build. -/
def State.showEntry (s : State) (v : Nat) (k : Build) : State :=
  let s := s.wr chrtBldprog v
  let s := s.setFld (chrtBuf (bufIdx k.buf)) 25 16 (s.buildProg k)
  { s with chart := { s.chart with build := some k } }
/-- Build k has come to a new section. -/
def State.showSection (s : State) (v : Nat) (k : Build) : State :=
  let s := s.setFld (chrtBuf (bufIdx k.buf)) 25 16 (s.buildProg k)
  { s.wr chrtBldprog v with chart := { s.chart with build := some k } }
theorem State.showEntry_shows (s : State) (v : Nat) (k : Build) :
    (s.showEntry v k).chart.build = some k ∧ (s.showEntry v k).rd chrtBldprog = v % 2 ^ 32 ∧
      Frame [.chart] (regsOf [chrtBldprog, chrtBuf (bufIdx k.buf)]) s (s.showEntry v k) := by
  unfold State.showEntry
  refine ⟨rfl, ?_, ?_⟩
  · exact (Does.upd_chart.reg _ (by decide)).trans ((State.rd_setFld_ne _ (chrtBuf_apart k.buf).2.2.symm ..).trans (State.rd_wr_self ..))
  · exact (((Frame.refl ..).wr List.mem_cons_self).setFld (List.mem_cons_of_mem _ List.mem_cons_self)).upd_chart List.mem_cons_self
theorem State.showSection_shows (s : State) (v : Nat) (k : Build) : (s.showSection v k).chart.build = some k ∧
    Frame [.chart] (regsOf [chrtBldprog, chrtBuf (bufIdx k.buf)]) s (s.showSection v k) :=
  ⟨rfl, (((Frame.refl ..).setFld (List.mem_cons_of_mem _ List.mem_cons_self)).wr List.mem_cons_self).upd_chart List.mem_cons_self⟩

/-- A search that has ended gives the section an entry; the last of a section ends it, and the last of all ends the build. -/
theorem exec_buildEntry_due (h : s.Builds c k) (met : Met) : exec (.buildEntry c met) s =
    if (s.grown k).length < (sectAt s k.buf k.sec).product then
      .next (s.showEntry (k.sec * 2 ^ 30 + (s.grown k).length) { k with out := s.grown k })
    else if k.sec + 1 < nsec s k.buf then
      .next (s.showSection ((k.sec + 1) * 2 ^ 30) { k with sec := k.sec + 1, done := k.done ++ [s.grown k], out := [] })
    else .next ((s.wr chrtBldprog (k.sec * 2 ^ 30 + (s.grown k).length)).finishBuild k.buf (k.done ++ [s.grown k]) met) := by
  rw [exec_buildEntry]
  unfold execBuildEntry
  rw [h.running]
  dsimp -zeta only
  rw [if_neg h.guard]
  unfold State.showEntry State.showSection
  rfl

/-- The sections of a finished build have been laid out in buffer b: the state, and where the chart ends. -/
def State.laidOut (s : State) (b : Buf) (secs : List (List (Option Course))) : State × Nat :=
  secs.zipIdx.foldl (fun (a : State × Nat) e => a.1.writeSect b e.2 e.1 a.2) (s, 0x1000)
/-- A finished chart has been written to buffer b, with what its write bursts meet. -/
def State.chartWritten (s : State) (b : Buf) (secs : List (List (Option Course))) (met : Met) : State :=
  let len := (s.laidOut b secs).2
  let s := (s.laidOut b secs).1.unitPut (bufBase b + 8) (toLE 4 (len / 64))
  let s := s.unitPut (bufBase b + 0x10) (chartDigest s b)
  (s.meetWrites (bufBase b) (bufBase b + len) met).wr chrtIlen (len / 64)
theorem State.finishBuild_eq (s : State) (b : Buf) (secs : List (List (Option Course))) (met : Met) :
    s.finishBuild b secs met = ((s.chartWritten b secs met).setBufState b 2).endBuild := rfl
theorem State.chartWritten_does (s : State) (b : Buf) (secs : List (List (Option Course))) (met : Met) :
    Does 0x80012000401 s (s.chartWritten b secs met) := by
  have laid : Does 0x80012000401 s (s.laidOut b secs).1 :=
    Does.foldlFst (Does.refl ..) fun _ _ h => Does.andThen (State.writeSect_does ..) h (by decide)
  unfold State.chartWritten
  exact Does.wr (Does.andThen (State.meetWrites_does ..) (Does.andThen (State.unitPut_does ..) (Does.andThen (State.unitPut_does ..) laid (by decide))
    (by decide)) (by decide)) (by decide)
theorem State.bufState_endBuild (s : State) (b : Buf) : s.endBuild.bufState b = s.bufState b := by
  have ends : Frame [.chart] (regsOf [chrtBldprog]) s s.endBuild := (Frame.refl ..).endBuild List.mem_cons_self fun _ => List.mem_cons_self
  exact State.bufState_congr (ends.2.1 _ (by simp [regsOf, (chrtBuf_apart b).2.2]))
/-- A finished build leaves its buffer to be verified, and the waiting build runs. -/
theorem State.finishBuild_ends (s : State) (b : Buf) (secs : List (List (Option Course))) (met : Met) :
    (s.finishBuild b secs met).bufState b = 2 ∧
      (s.finishBuild b secs met).chart = { s.chart with build := s.chart.nextBuild, nextBuild := none } := by
  have chart : (s.chartWritten b secs met).chart = s.chart := (State.chartWritten_does s b secs met).part .chart (by decide)
  rw [State.finishBuild_eq]
  refine ⟨(State.bufState_endBuild ..).trans (State.bufState_setBufState (by decide)), ?_⟩
  rw [State.endBuild_chart, State.setBufState_chart, chart]
/-- An entry of the build that runs is done: within a section, at its end, and at the end of the last one. -/
theorem exec_buildEntry_goes (h : s.Builds c k) (met : Met) :
    ((s.grown k).length < (sectAt s k.buf k.sec).product → ∃ t, exec (.buildEntry c met) s = .next t ∧
      t.chart.build = some { k with out := s.grown k } ∧ t.rd chrtBldprog = (k.sec * 2 ^ 30 + (s.grown k).length) % 2 ^ 32 ∧
      Frame [.chart] (regsOf [chrtBldprog, chrtBuf (bufIdx k.buf)]) s t) ∧
    ((sectAt s k.buf k.sec).product ≤ (s.grown k).length → k.sec + 1 < nsec s k.buf → ∃ t, exec (.buildEntry c met) s = .next t ∧
      t.chart.build = some { k with sec := k.sec + 1, done := k.done ++ [s.grown k], out := [] } ∧
      Frame [.chart] (regsOf [chrtBldprog, chrtBuf (bufIdx k.buf)]) s t) ∧
    ((sectAt s k.buf k.sec).product ≤ (s.grown k).length → nsec s k.buf ≤ k.sec + 1 → ∃ t, exec (.buildEntry c met) s = .next t ∧
      t.bufState k.buf = 2 ∧ t.chart = { s.chart with build := s.chart.nextBuild, nextBuild := none } ∧
      Frame [.mem, .chart, .gmem, .flaws] (pagesOf [chrtBase, memBase]) s t) := by
  rw [exec_buildEntry_due h met]
  refine ⟨fun more => ?_, fun last more => ?_, fun last all => ?_⟩
  · exact ⟨_, if_pos more, State.showEntry_shows ..⟩
  · exact ⟨_, (if_neg (not_lt_of_ge last)).trans (if_pos more), State.showSection_shows ..⟩
  · obtain ⟨state, chart⟩ := State.finishBuild_ends (s.wr chrtBldprog (k.sec * 2 ^ 30 + (s.grown k).length)) k.buf (k.done ++ [s.grown k]) met
    rw [State.wr_chart] at chart
    exact ⟨_, (if_neg (not_lt_of_ge last)).trans (if_neg (not_lt_of_ge all)), state, chart,
      Frame.doesPages (State.finishBuild_does ..) ((Frame.refl ..).wr ⟨chrtBase, List.mem_cons_self, by decide⟩) (by decide) (by decide)⟩

end Sys2Proof.Machine
end

section
namespace Sys2Proof.Machine

variable {s t u : State} {b : Buf} {ps : List Part} {rs : Nat → Prop}

/-! ## Re-verification (R169) -/

/-- The form checks of the re-verification of buffer b have run, with what their reads meet. -/
def State.formChecked (s : State) (b : Buf) (met : Met) : State × Option VFail :=
  (s.setBit chrtStatus 27 false).checkRun b met fun s => checkForm s b (bufSize / 64)
/-- The re-verification of buffer b has failed, at an uncorrectable word where `ue` tells one. -/
def State.reverFailed (s : State) (b : Buf) (ue : Option Nat) : State :=
  { ((s.memUeAt ue).setBad6 b).setBit chrtStatus 0 true with chart := { s.chart with reverBuf := none } }
/-- The re-verification of buffer b has passed. -/
def State.reverPassed (s : State) (b : Buf) : State :=
  { s.setBufState b 3 with chart := { s.chart with pendRever := true, bg := if s.bit chrtCtrl 1 then some b else none } }

/-- A re-verification is due and can run. -/
structure State.ReverDue (s : State) (b : Buf) : Prop where
  buf : s.chart.reverBuf = some b
  up : s.live .chrt = true
  due : s.bit chrtStatus 27 = true
  ready : s.memReady = true
  still : s.anyRetrain = false
theorem State.ReverDue.guard (h : s.ReverDue b) : ¬ (!s.live .chrt || !s.bit chrtStatus 27 || !s.memReady || s.anyRetrain) = true := by
  simp [h.up, h.due, h.ready, h.still]

/-- The chart in buffer b is the one that the chart record describes (R165, R169). -/
def State.AsRecorded (s : State) (b : Buf) : Prop :=
  s.word (bufBase b + 0x10) = (recRead s 4 5).getD 2 0 ∧ s.word (bufBase b + 0x14) = (recRead s 4 5).getD 3 0 ∧ bcrcCrc s b = (recRead s 4 5).getD 4 0
theorem exec_chartReverify_due (h : s.ReverDue b) (met : Met) : ∃ t, exec (.chartReverify met) s = .next t ∧
    ((∃ ue, t = (s.formChecked b met).1.reverFailed b ue) ∨
      (s.formChecked b met).2 = none ∧ (s.formChecked b met).1.AsRecorded b ∧ t = (s.formChecked b met).1.reverPassed b) := by
  rw [exec_chartReverify]
  unfold execChartReverify
  rw [h.buf]
  dsimp -zeta only
  rw [if_neg h.guard]
  split
  · exact ⟨_, rfl, .inl ⟨_, rfl⟩⟩
  · next none_ =>
    by_cases same : (s.formChecked b met).1.AsRecorded b
    · exact ⟨_, if_pos same, .inr ⟨none_, same, rfl⟩⟩
    · exact ⟨_, if_neg same, .inl ⟨none, rfl⟩⟩

theorem State.reverFailed_shows (s : State) (b : Buf) (ue : Option Nat) : (s.reverFailed b ue).BufBad b ∧
    (s.reverFailed b ue).bit chrtStatus 0 = true ∧ (s.reverFailed b ue).chart.reverBuf = none := by
  have bad := State.setBad6_bad (s.memUeAt ue) b
  refine ⟨bad.congr ?_, (Does.upd_chart.bit (by decide) 0).trans (State.bit_setBit_self _ true (by decide)), rfl⟩
  exact (Does.upd_chart.reg _ (by rw [pageBit_buf]; decide)).trans (State.rd_setBit_ne _ (chrtBuf_apart b).1 ..)
theorem State.reverPassed_state (s : State) (b : Buf) : (s.reverPassed b).bufState b = 3 :=
  (State.bufState_congr (Does.upd_chart.reg _ (by rw [pageBit_buf]; decide))).trans (State.bufState_setBufState (by decide))
/-- An ended re-verification keeps what another bit of CHRT_STATUS shows. -/
theorem State.reverFailed_status (s : State) (b : Buf) (ue : Option Nat) {i : Nat} (other : i ≠ 0) :
    (s.reverFailed b ue).bit chrtStatus i = s.bit chrtStatus i := by
  refine (Does.upd_chart.bit (by decide) i).trans ((State.bit_setBit _ chrtStatus i true (by decide)).trans ((if_neg (by simp [other])).trans ?_))
  have status := (chrtBuf_apart b).1.symm
  unfold State.bit State.setBad6
  rw [State.rd_setBufPend_ne status, State.rd_setBufState_ne status, (State.memUeAt_does s ue).reg chrtStatus (by decide)]
theorem State.reverPassed_status (s : State) (b : Buf) (i : Nat) : (s.reverPassed b).bit chrtStatus i = s.bit chrtStatus i :=
  (Does.upd_chart.bit (by decide) i).trans (congrArg (fun x : Nat => x.testBit i) (State.rd_setBufState_ne (chrtBuf_apart b).1.symm 3))

/-- A re-verification of buffer b that was due in s has ended in t: READY, to become active at the next mark, or BAD, which it is when the form
checks have failed. -/
def State.ReverEnded (s : State) (b : Buf) (malformed : Bool) (t : State) : Prop := t.bit chrtStatus 27 = false ∧
  (malformed = true → t.bufState b = 6 ∧ t.bit chrtStatus 0 = true) ∧
  (t.bufState b = 3 ∧ t.chart.pendRever = true ∧ t.chart.bg = (if s.bit chrtCtrl 1 then some b else none) ∨
    t.bufState b = 6 ∧ t.bufPend b = false ∧ t.bit chrtStatus 0 = true ∧ t.chart.reverBuf = none)
theorem State.reverFailed_ended (cleared : u.bit chrtStatus 27 = false) (ue : Option Nat) (malformed : Bool) :
    s.ReverEnded b malformed (u.reverFailed b ue) := by
  obtain ⟨⟨bad, pend⟩, fail, none_⟩ := State.reverFailed_shows u b ue
  exact ⟨(State.reverFailed_status u b ue (by decide)).trans cleared, fun _ => ⟨bad, fail⟩, .inr ⟨bad, pend, fail, none_⟩⟩
theorem State.reverPassed_ended (cleared : u.bit chrtStatus 27 = false) (ctrl : u.bit chrtCtrl 1 = s.bit chrtCtrl 1) :
    s.ReverEnded b false (u.reverPassed b) :=
  ⟨(State.reverPassed_status ..).trans cleared, nofun, .inl ⟨State.reverPassed_state .., rfl, by rw [← ctrl]; rfl⟩⟩
theorem exec_chartReverify_ends (h : s.ReverDue b) (met : Met) : ∃ t, exec (.chartReverify met) s = .next t ∧
    s.ReverEnded b (s.formChecked b met).2.isSome t ∧ Frame [.chart, .gmem, .saf, .flaws] (pagesOf [chrtBase, memBase]) s t := by
  have reads := State.checkRun_does (s.setBit chrtStatus 27 false) b met fun s => checkForm s b (bufSize / 64)
  have cleared : (s.formChecked b met).1.bit chrtStatus 27 = false := (reads.bit (by decide) 27).trans (State.bit_setBit_self _ false (by decide))
  have ctrl : (s.formChecked b met).1.bit chrtCtrl 1 = s.bit chrtCtrl 1 :=
    (reads.bit (by decide) 1).trans (congrArg (fun x : Nat => x.testBit 1) (State.rd_setBit_ne _ (by decide) ..))
  have out {t : State} (run : exec (.chartReverify met) s = .next t) : Frame [.chart, .gmem, .saf, .flaws] (pagesOf [chrtBase, memBase]) s t :=
    Frame.out (execChartReverify_does met s) run (by decide) (by decide)
  obtain ⟨t, run, ⟨ue, e⟩ | ⟨none_, -, e⟩⟩ := exec_chartReverify_due h met
  · exact ⟨t, run, e ▸ State.reverFailed_ended cleared ue _, out run⟩
  · exact ⟨t, run, e ▸ none_ ▸ State.reverPassed_ended cleared ctrl, out run⟩

/-! ## Background verification (R170) -/

/-- The background verification of buffer b has ended, with what its reads meet. -/
def State.bgChecked (s : State) (b : Buf) (met : Met) : State × Option VFail :=
  State.checkRun { s with chart := { s.chart with bg := none } } b met fun s => (checkCrcs s b).orElse fun _ => checkDigest s b
/-- Buffer b is active, or becomes so at the next mark (R169). -/
def State.Stands (s : State) (b : Buf) : Prop := s.actBuf = some b ∨ s.chart.pendRever = true ∧ s.chart.reverBuf = some b
/-- The background verification of a buffer has found an error, at an uncorrectable word where `ue` tells one. -/
def State.bgFailed (s : State) (ue : Option Nat) : State := (s.memUeAt ue).setBit chrtStatus 6 true

/-- A background verification of buffer b can run. -/
structure State.BgDue (s : State) (b : Buf) : Prop where
  buf : s.chart.bg = some b
  up : s.live .chrt = true
  ready : s.memReady = true
  still : s.anyRetrain = false
theorem State.BgDue.guard (h : s.BgDue b) : ¬ (!s.live .chrt || !s.memReady || s.anyRetrain) = true := by
  simp [h.up, h.ready, h.still]

/-- A background verification that finds nothing only ends; an error withdraws a chart that stands and spoils another. -/
theorem exec_backgroundVerify_due (h : s.BgDue b) (met : Met) : ∃ t, exec (.backgroundVerify met) s = .next t ∧
    ((s.bgChecked b met).2 = none ∧ t = (s.bgChecked b met).1 ∨
      ∃ f, (s.bgChecked b met).2 = some f ∧ let u := (s.bgChecked b met).1.bgFailed f.ue
        (u.Stands b ∧ t = { u with chart := { u.chart with withdraw := true } } ∨ ¬ u.Stands b ∧ t = u.setBad6 b)) := by
  rw [exec_backgroundVerify]
  unfold execBackgroundVerify
  rw [h.buf]
  dsimp -zeta only
  rw [if_neg h.guard]
  split
  · next none_ => exact ⟨_, rfl, .inl ⟨none_, rfl⟩⟩
  · next f found =>
    by_cases stands : ((s.bgChecked b met).1.bgFailed f.ue).Stands b
    · exact ⟨_, if_pos stands, .inr ⟨f, found, .inl ⟨stands, rfl⟩⟩⟩
    · exact ⟨_, if_neg stands, .inr ⟨f, found, .inr ⟨stands, rfl⟩⟩⟩

theorem State.bgFailed_chart (s : State) (ue : Option Nat) : (s.bgFailed ue).chart = s.chart :=
  (State.setBit_chart ..).trans ((State.memUeAt_does s ue).part .chart (by decide))
theorem State.bgFailed_actBuf (s : State) (ue : Option Nat) : (s.bgFailed ue).actBuf = s.actBuf := by
  have same : (s.bgFailed ue).fld chrtStatus 29 28 = s.fld chrtStatus 29 28 :=
    (State.fld_setFld_ne _ (by decide) (by decide) (by decide) (by decide)).trans
      (congrArg (fun x => bits x 29 28) ((State.memUeAt_does s ue).reg chrtStatus (by decide)))
  unfold State.actBuf
  rw [same]

/-- The chart unit's part as the failure of a background verification finds it. -/
theorem State.bgFailed_before (s : State) (b : Buf) (met : Met) (ue : Option Nat) : ((s.bgChecked b met).1.bgFailed ue).chart = { s.chart with bg := none } ∧
    (((s.bgChecked b met).1.bgFailed ue).Stands b ↔ s.Stands b) := by
  have reads := State.checkRun_does { s with chart := { s.chart with bg := none } } b met fun s => (checkCrcs s b).orElse fun _ => checkDigest s b
  have chart : ((s.bgChecked b met).1.bgFailed ue).chart = { s.chart with bg := none } :=
    (State.bgFailed_chart ..).trans (reads.part .chart (by decide))
  have status : (s.bgChecked b met).1.fld chrtStatus 29 28 = s.fld chrtStatus 29 28 :=
    congrArg (fun x => bits x 29 28) ((reads.reg chrtStatus (by decide)).trans (Does.upd_chart.reg _ (by decide)))
  have act : ((s.bgChecked b met).1.bgFailed ue).actBuf = s.actBuf := by
    rw [State.bgFailed_actBuf]
    unfold State.actBuf
    rw [status]
  refine ⟨chart, ?_⟩
  unfold State.Stands
  rw [act, chart]
/-- CHRT_STATUS bit 6 stays set when the buffer becomes BAD. -/
theorem State.bgFailed_shows (s : State) (b : Buf) (ue : Option Nat) :
    (s.bgFailed ue).bit chrtStatus 6 = true ∧ ((s.bgFailed ue).setBad6 b).bit chrtStatus 6 = true := by
  have failed : (s.bgFailed ue).bit chrtStatus 6 = true := State.bit_setBit_self _ true (by decide)
  have status := (chrtBuf_apart b).1.symm
  refine ⟨failed, Eq.trans (congrArg (fun x : Nat => x.testBit 6) ?_) failed⟩
  exact (State.rd_setBufPend_ne status _).trans (State.rd_setBufState_ne status _)

theorem exec_backgroundVerify_ends (h : s.BgDue b) (met : Met) :
    ((s.bgChecked b met).2 = none → ∃ t, exec (.backgroundVerify met) s = .next t ∧ t.chart = { s.chart with bg := none } ∧
      Frame [.chart, .gmem, .flaws] (pagesOf [memBase]) s t) ∧
    ((s.bgChecked b met).2.isSome = true → ∃ t, exec (.backgroundVerify met) s = .next t ∧ t.bit chrtStatus 6 = true ∧
      (s.Stands b → t.chart = { s.chart with bg := none, withdraw := true }) ∧
      (¬ s.Stands b → t.bufState b = 6 ∧ t.bufPend b = false ∧ t.chart = { s.chart with bg := none }) ∧
      Frame [.chart, .gmem, .saf, .flaws] (pagesOf [chrtBase, memBase]) s t) := by
  have reads := State.checkRun_does { s with chart := { s.chart with bg := none } } b met fun s => (checkCrcs s b).orElse fun _ => checkDigest s b
  obtain ⟨t, run, ⟨none_, rfl⟩ | ⟨f, found, ends⟩⟩ := exec_backgroundVerify_due h met
  · exact ⟨fun _ => ⟨_, run, reads.part .chart (by decide), Frame.doesPages reads ((Frame.refl ..).upd_chart List.mem_cons_self) (by decide) (by decide)⟩,
      fun some_ => by simp [none_] at some_⟩
  obtain ⟨chart, stands⟩ := State.bgFailed_before s b met f.ue
  obtain ⟨failed, spoilt⟩ := State.bgFailed_shows (s.bgChecked b met).1 b f.ue
  have out := Frame.out (ps := [.chart, .gmem, .saf, .flaws]) (bases := [chrtBase, memBase]) (execBackgroundVerify_does met s) run (by decide) (by decide)
  refine ⟨fun none_ => by simp [none_] at found, fun _ => ⟨t, run, ?_⟩⟩
  obtain ⟨up, rfl⟩ | ⟨fallen, rfl⟩ := ends
  · exact ⟨(Does.upd_chart.bit (by decide) 6).trans failed, fun _ => by rw [chart], fun fallen => absurd (stands.1 up) fallen, out⟩
  · obtain ⟨bad, pend⟩ := State.setBad6_bad ((s.bgChecked b met).1.bgFailed f.ue) b
    refine ⟨spoilt, fun up => absurd (stands.2 up) fallen, fun _ => ⟨bad, pend, ?_⟩, out⟩
    rw [← chart]
    exact (State.setBit_chart ..).trans (State.setBufState_chart ..)

/-- Settles O21: a lookup by what it reads and finds, a build from its start to its last entry, and the two checks by what they find. -/
theorem chartEngines : Obligations.ChartEngines := by
  intro s up readBy
  refine ⟨fun p chks now => ?lookup, fun b met => ?build, fun c k met running array free ready still => ?entry,
    fun b met buf due ready still => ?reverify, fun b met buf ready still => ?background⟩
  case lookup =>
    intro q i
    refine ⟨fun h => exec_chartLookup_idle h chks now, fun out free => ?_⟩
    intro xu u found bs r more
    obtain ⟨t, run, others, used, frame, goes, ends⟩ := exec_chartLookup_goes ⟨up, out, free⟩ chks now
    refine ⟨t, run, others, used, frame, goes, fun last => ?_⟩
    obtain ⟨⟨l, c, prob⟩, hurt, refused, missed, undecodable, seeded⟩ := ends last
    obtain ⟨old, look, pos⟩ := Problem.looked_over q now
    have found_eq : s.lookFound p now = found.getD .miss := State.lookFound_eq s p now
    refine ⟨by rw [prob]; exact old, by rw [prob]; exact look, by rw [prob]; exact pos, fun none_ => by rw [prob]; exact Problem.looked_last none_ now,
      hurt, refused, fun none_ miss => missed none_ ?_, fun none_ bad => undecodable none_ ?_, fun k none_ course searching => ?_⟩
    · rcases miss with e | e <;> rw [found_eq, e] <;> rfl
    · rw [found_eq, bad]
      rfl
    · obtain ⟨e, chart⟩ := seeded k none_ (by rw [found_eq, course]; rfl) searching
      rw [e]
      exact ⟨rfl, rfl, chart⟩
  case build =>
    exact ⟨fun h => State.errs (exec_build_refused up h met), fun loading waits => exec_build_waits up loading waits met,
      fun loading free bad => exec_build_errs up loading free met bad, fun loading free good => exec_build_inconsistent up loading free met good,
      fun loading free good => exec_build_starts up loading free met good⟩
  case entry => exact exec_buildEntry_goes ⟨running, up, array, free, ready, still⟩ met
  case reverify =>
    obtain ⟨t, run, ⟨cleared, malformed, ends⟩, frame⟩ := exec_chartReverify_ends ⟨buf, up, due, ready, still⟩ met
    exact ⟨t, run, cleared, malformed, ends, frame⟩
  case background => exact exec_backgroundVerify_ends ⟨buf, up, ready, still⟩ met

end Sys2Proof.Machine
end

section
/-!
PROOFS of O15: the selection of an arm, a frame that leaves a lane, and the end of a decay window.
-/
namespace Sys2Proof.Machine

variable {s t u : State} {p : Slot} {a : ArmN} {m : Nat}

/-- An operation without registers in its footprint. -/
theorem Does.rd_kept (d : Does m s t) (small : m < 0x400000) (x : Nat) : t.rd x = s.rd x :=
  d.reg x (Nat.testBit_lt_two_pow (Nat.lt_of_lt_of_le small (Nat.pow_le_pow_right (n := 2) (by decide) (pageBit_range x).1)))
theorem Does.sel (d : Does m s t) (out : m.testBit 6 = false) (p : Slot) : t.cell.sels[p] = s.cell.sels[p] :=
  congrArg (fun c : CellUnit => c.sels[p]) (d.part .cell out)
theorem Does.lane (d : Does m s t) (out : m.testBit 7 = false) (l : LaneN) : t.lane l = s.lane l :=
  congrArg (fun ls : Vector Lane 64 => ls[l]) (d.part .lanes out)

/-! ## The registers of a selection (R178, R182) -/

/-- The registers that a selection of arm a writes. -/
def selRegs (a : ArmN) : List Nat := [cellAstat a, cellShortLo, cellShortHi, cellSelstat]
/-- CELL_ASTAT of arm a after the selection r. -/
def State.selStat (s : State) (a : ArmN) (r : Pick × Bool) : Nat :=
  putBits (s.rd (cellAstat a)) 23 0 (r.1.ins.length * 65536 + r.1.swaps * 256 + b2n r.2)
/-- The selection r of arm a is recorded, with its shortfall. -/
def State.selTold (s : State) (a : ArmN) (r : Pick × Bool) : State :=
  let u := s.wr (cellAstat a) (s.selStat a r)
  if r.2 then u.shortfall a else u

theorem cellAstat_not_short (a : ArmN) : cellAstat a ∉ [cellShortLo, cellShortHi, cellSelstat] := by
  simp only [List.mem_cons, List.not_mem_nil, or_false]
  unfold cellAstat cellShortLo cellShortHi cellSelstat
  omega
theorem State.shortfall_frame (s : State) (a : ArmN) : Frame [] (regsOf [cellShortLo, cellShortHi, cellSelstat]) s (s.shortfall a) :=
  (Frame.ite ((Frame.refl ..).orReg (by simp [regsOf])) ((Frame.refl ..).orReg (by simp [regsOf]))).setBit (by simp [regsOf])
theorem State.shortfall_selstat (s : State) (a : ArmN) : (s.shortfall a).bit cellSelstat 1 = true := State.bit_setBit_self _ true (by decide)

theorem State.selTold_frame (ps : List Part) (s : State) (a : ArmN) (r : Pick × Bool) : Frame ps (regsOf (selRegs a)) s (s.selTold a r) := by
  have wrote : Frame ps (regsOf (selRegs a)) s (s.wr (cellAstat a) (s.selStat a r)) := (Frame.refl ..).wr List.mem_cons_self
  refine Frame.ite ?_ wrote
  obtain ⟨parts, regs, queue⟩ := State.shortfall_frame (s.wr (cellAstat a) (s.selStat a r)) a
  exact wrote.trans ⟨fun q _ => parts q List.not_mem_nil, fun x out => regs x fun mem => out (List.mem_cons_of_mem _ mem), queue⟩
theorem State.selTold_astat (s : State) (a : ArmN) (r : Pick × Bool) : (s.selTold a r).rd (cellAstat a) = s.selStat a r := by
  have wrote : (s.wr (cellAstat a) (s.selStat a r)).rd (cellAstat a) = s.selStat a r :=
    (State.rd_wr_self ..).trans (Nat.mod_eq_of_lt (putBits_lt (by decide) (by decide) (s.rd_lt _)))
  unfold State.selTold
  dsimp only
  split
  · exact ((State.shortfall_frame ..).2.1 _ (cellAstat_not_short a)).trans wrote
  · exact wrote
theorem State.selTold_short {r : Pick × Bool} (short : r.2 = true) (s : State) (a : ArmN) : (s.selTold a r).bit cellSelstat 1 = true := by
  unfold State.selTold
  rw [if_pos short]
  exact State.shortfall_selstat ..
theorem State.selTold_cell (s : State) (a : ArmN) (r : Pick × Bool) : (s.selTold a r).cell = s.cell :=
  (State.selTold_frame [] s a r).1 .cell List.not_mem_nil

/-- The command words of an arm follow from its staging, its configuration and the map of the cells. -/
theorem State.armWords_congr {k : ArmSnap} (stg : t.rd (cellAstg k.arm) = s.rd (cellAstg k.arm)) (cfg : t.rd (cellAcfg k.arm) = s.rd (cellAcfg k.arm))
    (map : ∀ n, t.rd (cellCmap n) = s.rd (cellCmap n)) (q : Pick) : t.armWords k q = s.armWords k q := by
  unfold State.armWords State.bit State.fld
  rw [stg, cfg]
  simp only [map]
theorem State.selTold_armWords {k : ArmSnap} (own : k.arm = a.val) (s : State) (r : Pick × Bool) (q : Pick) :
    (s.selTold a r).armWords k q = s.armWords k q := by
  have kept (x : Nat) (out : x ∉ selRegs a) : (s.selTold a r).rd x = s.rd x := (State.selTold_frame [] s a r).2.1 x out
  have low := a.isLt
  refine State.armWords_congr (kept _ ?_) (kept _ ?_) (fun n => kept _ ?_) q
  all_goals
    simp only [own, selRegs, List.mem_cons, List.not_mem_nil, or_false]
    unfold cellAstat cellShortLo cellShortHi cellSelstat
  · unfold cellAstg
    omega
  · unfold cellAcfg
    omega
  · unfold cellCmap
    omega

/-! ## The job of a selection (R186, R209) -/

theorem State.setSel_sel (s : State) (p : Slot) (x : Sel) : (s.setSel p x).cell.sels[p] = x := by simp [State.setSel]

/-- The frames of a complete job leave the sorter as the job's end has set it. -/
theorem State.finishJob_job (s : State) (p : Slot) (j : SelJob) : (s.finishJob p j).cell.sels[p].job = none := by
  unfold State.finishJob
  dsimp only
  split
  · rw [State.setSel_sel]
  · split
    · rw [(State.queueFrames_does ..).sel rfl, State.setSel_sel]
    · rw [(State.checkReport_does ..).sel rfl, (State.queueFrames_does ..).sel rfl, State.setSel_sel]

/-- A job with the selection of arm a made: its words, and its level. -/
def SelJob.selected (j : SelJob) (a : ArmN) (words : List (Nat × Nat)) (level : Nat) : SelJob :=
  { j with todo := j.todo.filter (· != a.val), words := j.words ++ words, realised := j.realised ++ [(a.val, level)] }
/-- The sorter goes on with a job, or ends it. -/
def State.goOn (s : State) (p : Slot) (j : SelJob) : State :=
  if j.todo.isEmpty then s.finishJob p j else s.setSel p { s.cell.sels[p] with job := some j }

theorem State.goOn_does (s : State) (p : Slot) (j : SelJob) : Does 0x1000c4 s (s.goOn p j) :=
  Does.ite (State.finishJob_does ..) ((State.setSel_does ..).mono (by decide))
theorem State.goOn_more {j : SelJob} (more : j.todo ≠ []) (s : State) (p : Slot) : (s.goOn p j).cell.sels[p].job = some j := by
  unfold State.goOn
  rw [if_neg (mt List.isEmpty_iff.1 more), State.setSel_sel]
theorem State.goOn_last {j : SelJob} (last : j.todo = []) (s : State) (p : Slot) : (s.goOn p j).cell.sels[p].job = none := by
  unfold State.goOn
  rw [if_pos (List.isEmpty_iff.2 last)]
  exact State.finishJob_job ..

/-- The arms that wait for an engine, in the order of R186. -/
def State.waiting (s : State) : List (Slot × Nat) :=
  s.cell.order.flatMap fun q => match s.cell.sels[q].job with
    | some j => j.todo.map fun b => (q, b)
    | none => []
theorem exec_selection_made (up : s.live .cell = true) {j : SelJob} (job : s.cell.sels[p].job = some j) {ss : List ArmSnap}
    (snap : s.cell.sels[p].snap = some ss) {k : ArmSnap} (found : ss.find? (fun k => k.arm == a.val) = some k)
    (first : (s.waiting.take 4).contains (p, a.val) = true) : let r := s.select k (lookD 0 j.targets a)
    exec (.selection p a) s = .next ((s.selTold a r).goOn p (j.selected a (s.armWords k r.1) r.1.ins.length)) := by
  intro r
  have own : k.arm = a.val := beq_iff_eq.1 (List.find?_some (p := fun k : ArmSnap => k.arm == a.val) found)
  rw [← State.selTold_armWords own s r r.1]
  rw [exec_selection]
  unfold execSelection State.goOn
  rw [State.selTold_cell]
  simp only [job, snap, found, Option.getD_some]
  rw [if_pos]
  · rfl
  · rw [up]
    exact first

/-! ## Frames that leave (R52, R210, R216) -/

variable {l : LaneN} {f : DFrame} {rest : List DFrame}

/-- The lane once frame f has left it. -/
def Lane.leave (k : Lane) (f : DFrame) (rest : List DFrame) (seq : Option Nat) : Lane :=
  { k with queue := rest, await := k.await ++ [f], sent := f :: k.sent, seq }
theorem State.tellStates_frameLeft (u : State) (l : LaneN) (f : DFrame) (rest : List DFrame) (seq : Option Nat) :
    ((u.tellStates l f).frameLeft l f rest seq).lane l = (u.lane l).leave f rest seq ∧
    ∀ n, n ≠ l → ((u.tellStates l f).frameLeft l f rest seq).lane n = u.lane n := by
  have kept := (State.tellStates_does u l f).lane rfl
  constructor
  · rw [← kept l]
    exact State.lane_setLane_self ..
  · intro n e
    rw [← kept n]
    exact State.lane_setLane_ne _ e _
theorem State.frameLeft_told_does (u : State) (l : LaneN) (f : DFrame) (rest : List DFrame) (seq : Option Nat) :
    Does 0x1000c4 u ((u.tellStates l f).frameLeft l f rest seq) :=
  Does.andThen (State.frameLeft_does ..) ((State.tellStates_does ..).mono (by decide)) (by decide)
/-- A new frame as it leaves (R210). -/
def State.newFrame (s : State) (f : DFrame) (n : Nat) : DFrame :=
  { f with seq := n, role := s.role, pcnt := if f.kind = 0x21 then s.pcnt16 else f.pcnt }
theorem State.sendNew_lanes (u : State) (l : LaneN) (f : DFrame) (rest : List DFrame) (n : Nat) :
    (u.sendNew l f rest n).lane l = (u.lane l).leave (u.newFrame f n) rest (some ((n + 1) % 256)) ∧
    ∀ k, k ≠ l → (u.sendNew l f rest n).lane k = u.lane k := by
  obtain ⟨own, others⟩ := State.tellStates_frameLeft u l (u.newFrame f n) rest (some ((n + 1) % 256))
  have kept (k : LaneN) : (u.sendNew l f rest n).lane k = (((u.tellStates l (u.newFrame f n)).frameLeft l (u.newFrame f n) rest _).lane k) :=
    (State.afterFrame_does _ _).lane rfl k
  exact ⟨(kept l).trans own, fun k e => (kept k).trans (others k e)⟩

/-- Frame f stands at the front of lane l's queue and may leave. -/
structure State.MaySend (s : State) (l : LaneN) (f : DFrame) (rest : List DFrame) : Prop where
  up : s.live .cell = true
  queue : (s.lane l).queue = f :: rest
  state : s.fld (cellLstat l) 2 0 = 4 ∨ s.fld (cellLstat l) 2 0 = 3 ∧ f.kind = 0x21
  inTime : f.kind = 0x21 ∨ s.per.commitPassed = false

theorem State.MaySend.open_ (may : s.MaySend l f rest) :
    (!s.live .cell || !(s.fld (cellLstat l) 2 0 == 4 || (s.fld (cellLstat l) 2 0 == 3 && f.kind == 0x21)) ||
      (f.kind != 0x21 && s.per.commitPassed)) = false := by
  obtain ⟨up, -, state, inTime⟩ := may
  rcases state with e | ⟨e, kind⟩ <;> rcases inTime with i | i <;> simp [*]
theorem exec_downlinkFrameSend_resent (may : s.MaySend l f rest) (again : f.rtx ≠ 0) : exec (.downlinkFrameSend l) s =
    .next (((s.count (cellLerr l) 23 16).tellStates l f).frameLeft l f rest (s.lane l).seq) := by
  rw [exec_downlinkFrameSend]
  unfold execDownlinkFrameSend
  simp only [may.queue, may.open_, Bool.false_eq_true, if_false]
  exact if_pos again
theorem exec_downlinkFrameSend_next (may : s.MaySend l f rest) (new : f.rtx = 0) {n : Nat} (seq : (s.lane l).seq = some n) :
    exec (.downlinkFrameSend l) s = .next (s.sendNew l f rest n) := by
  rw [exec_downlinkFrameSend]
  unfold execDownlinkFrameSend
  simp only [may.queue, may.open_, Bool.false_eq_true, if_false, seq]
  exact if_neg (not_not.2 new)
/-- A lane that has sent none begins with a free sequence number. -/
theorem exec_downlinkFrameSend_first (may : s.MaySend l f rest) (new : f.rtx = 0) (none_ : (s.lane l).seq = none) :
    exec (.downlinkFrameSend l) s = .next (s.freeWord.2.sendNew l f rest (s.freeWord.1.toNat % 256)) := by
  rw [exec_downlinkFrameSend]
  unfold execDownlinkFrameSend
  simp only [may.queue, may.open_, Bool.false_eq_true, if_false, none_]
  exact if_neg (not_not.2 new)

/-- A frame sent again keeps its sequence number and counts in CELL_LERR. -/
theorem exec_downlinkFrameSend_again (may : s.MaySend l f rest) (again : f.rtx ≠ 0) : ∃ t, exec (.downlinkFrameSend l) s = .next t ∧
    t.lane l = (s.lane l).leave f rest (s.lane l).seq ∧ t.fld (cellLerr l) 23 16 = Nat.min (s.fld (cellLerr l) 23 16 + 1) 255 ∧
    (∀ n, n ≠ l → t.lane n = s.lane n) ∧ Frame [.probs, .cell, .lanes, .notices, .freeCtr] (regsOf [cellLerr l]) s t := by
  have left := State.frameLeft_told_does (s.count (cellLerr l) 23 16) l f rest (s.lane l).seq
  obtain ⟨own, others⟩ := State.tellStates_frameLeft (s.count (cellLerr l) 23 16) l f rest (s.lane l).seq
  rw [State.count_lane] at own
  simp only [State.count_lane] at others
  refine ⟨_, exec_downlinkFrameSend_resent may again, own, ?_, others,
    Frame.doesNone left ((Frame.refl ..).count List.mem_cons_self) (by decide) (by decide)⟩
  have counted : (s.count (cellLerr l) 23 16).fld (cellLerr l) 23 16 = Nat.min (s.fld (cellLerr l) 23 16 + 1) 255 % 256 :=
    State.fld_setFld_self s (by decide) (by decide)
  rw [State.fld, left.rd_kept (by decide), ← State.fld, counted]
  exact Nat.mod_eq_of_lt (Nat.lt_succ_of_le (Nat.min_le_right ..))
/-- A new frame takes the lane's next sequence number, or a free one where the lane has sent none. -/
theorem exec_downlinkFrameSend_new (may : s.MaySend l f rest) (new : f.rtx = 0) : ∃ t n, exec (.downlinkFrameSend l) s = .next t ∧
    (∀ k, (s.lane l).seq = some k → k = n) ∧ t.lane l = (s.lane l).leave (s.newFrame f n) rest (some ((n + 1) % 256)) ∧
    (∀ n, n ≠ l → t.lane n = s.lane n) ∧ Frame [.probs, .cell, .lanes, .notices, .freeCtr] (regsOf [cellLerr l]) s t := by
  cases seq : (s.lane l).seq with
  | some n =>
    obtain ⟨own, others⟩ := s.sendNew_lanes l f rest n
    exact ⟨_, n, exec_downlinkFrameSend_next may new seq, fun k e => (Option.some.inj e).symm, own, others,
      Frame.doesNone (State.sendNew_does ..) (Frame.refl ..) (by decide) (by decide)⟩
  | none =>
    obtain ⟨own, others⟩ := s.freeWord.2.sendNew_lanes l f rest (s.freeWord.1.toNat % 256)
    exact ⟨_, _, exec_downlinkFrameSend_first may new seq, fun k e => absurd e (Option.some_ne_none k).symm, own, others,
      Frame.doesNone (State.sendNew_does ..) (Frame.doesNone Does.freeWord (Frame.refl ..) (by decide) (by decide)) (by decide) (by decide)⟩

/-! ## Switch counts (R183) -/

/-- The switch count of cell n is halved. -/
def State.halve (s : State) (n : Nat) : State := s.setFld (cellCst n) 31 16 (s.fld (cellCst n) 31 16 / 2)
theorem State.halve_rd_ne {x n : Nat} (ne : x ≠ cellCst n) (s : State) : (s.halve n).rd x = s.rd x := by
  unfold State.halve
  exact State.rd_setFld_ne s ne _ _ _
theorem State.halve_rd_self (s : State) (n : Nat) :
    (s.halve n).rd (cellCst n) = putBits (s.rd (cellCst n)) 31 16 (bits (s.rd (cellCst n)) 31 16 / 2) := by
  unfold State.halve
  rw [State.rd_setFld _ _ (by decide) (by decide), if_pos rfl, State.fld]
theorem State.each_cons {α : Type} (s : State) (x : α) (l : List α) (f : State → α → State) : s.each (x :: l) f = (f s x).each l f := rfl
theorem cellCst_ne {n k : Nat} (e : n % 1024 ≠ k % 1024) : cellCst n ≠ cellCst k := by
  unfold cellCst
  omega
theorem State.each_halve_rd (l : List Nat) {n : Nat} (out : ∀ k ∈ l, k % 1024 ≠ n % 1024) (s : State) :
    (s.each l State.halve).rd (cellCst n) = s.rd (cellCst n) := by
  induction l generalizing s with
  | nil => rfl
  | cons k l ih =>
    have ne : cellCst n ≠ cellCst k := cellCst_ne (out k List.mem_cons_self).symm
    rw [State.each_cons, ih fun i mem => out i (List.mem_cons_of_mem _ mem), State.halve_rd_ne ne]
/-- A cell that shares its number modulo 1,024 with no other of the list is halved once. -/
theorem State.each_halve_once (l : List Nat) {n : Nat} (once : l.filter (fun k => k % 1024 == n % 1024) = [n]) (s : State) :
    (s.each l State.halve).rd (cellCst n) = (s.halve n).rd (cellCst n) := by
  induction l generalizing s with
  | nil => exact absurd once (by simp)
  | cons k l ih =>
    by_cases e : k % 1024 = n % 1024
    · rw [List.filter_cons_of_pos (by rw [e]; exact beq_self_eq_true _), List.cons.injEq, List.filter_eq_nil_iff] at once
      obtain ⟨rfl, rest⟩ := once
      rw [State.each_cons, State.each_halve_rd l fun i mem same => rest i mem (beq_iff_eq.2 same)]
    · rw [List.filter_cons_of_neg (by simpa using e)] at once
      have ne : cellCst n ≠ cellCst k := cellCst_ne (Ne.symm e)
      rw [State.each_cons, ih once, State.halve_rd_self, State.halve_rd_self, State.halve_rd_ne ne]
theorem State.halve_fields (s : State) (n : Nat) : (s.halve n).fld (cellCst n) 31 16 = s.fld (cellCst n) 31 16 / 2 ∧
    (s.halve n).fld (cellCst n) 15 0 = s.fld (cellCst n) 15 0 := by
  have small : s.fld (cellCst n) 31 16 < 2 ^ 16 := bits_lt ..
  exact ⟨(State.fld_setFld_self s (by decide) (by decide)).trans (Nat.mod_eq_of_lt (by omega)),
    State.fld_setFld_ne s (by decide) (by decide) (.inr (by decide)) (by decide)⟩

theorem State.each_halve_frame (ps : List Part) {cells : List Nat} (l : List Nat) (sub : ∀ n ∈ l, n ∈ cells) (s : State) :
    Frame ps (fun x => ∃ n ∈ cells, x = cellCst n) s (s.each l State.halve) := by
  induction l generalizing s with
  | nil => exact Frame.refl ..
  | cons k l ih =>
    have first : Frame ps (fun x => ∃ n ∈ cells, x = cellCst n) s (s.halve k) := (Frame.refl ..).setFld ⟨k, sub k List.mem_cons_self, rfl⟩
    rw [State.each_cons]
    exact first.trans (ih (fun i mem => sub i (List.mem_cons_of_mem _ mem)) (s.halve k))

theorem exec_switchCountDecay_due (up : s.live .cell = true) (due : s.cell.due.contains a.val = true) :
    let u := s.each (s.armCells a) State.halve
    exec (.switchCountDecay a) s = .next { u with cell := { u.cell with due := u.cell.due.filter (· != a.val) } } :=
  if_pos (by rw [up, due]; rfl)
theorem exec_switchCountDecay_halves (up : s.live .cell = true) (due : s.cell.due.contains a.val = true) :
    ∃ t, exec (.switchCountDecay a) s = .next t ∧ t.cell = { s.cell with due := s.cell.due.filter (· != a.val) } ∧
      (∀ n, (s.armCells a).filter (fun k => k % 1024 == n % 1024) = [n] → t.rd (cellCst n) = (s.halve n).rd (cellCst n)) ∧
      Frame [.cell] (fun x => ∃ n ∈ s.armCells a, x = cellCst n) s t := by
  have walked := State.each_halve_frame [.cell] (s.armCells a) (fun _ => id) s
  have cell : (s.each (s.armCells a) State.halve).cell = s.cell :=
    (State.each_halve_frame [] (s.armCells a) (fun _ => id) s).1 .cell List.not_mem_nil
  refine ⟨_, exec_switchCountDecay_due up due, ?_, fun n once => State.each_halve_once _ once s, walked.upd_cell List.mem_cons_self⟩
  dsimp only
  rw [cell]

/-- Settles O15: a selection by what it records and how its job goes on, a frame by whether it is new, and a decay by each cell it halves. -/
theorem selectionAndFrames : Obligations.SelectionAndFrames := by
  intro s up
  refine ⟨fun p a j ss k job snap found first => ?selection, fun l f rest queue state inTime => ?send, fun a due => ?decay, ?cntclr⟩
  case selection =>
    intro r
    have after := State.goOn_does (s.selTold a r) p (j.selected a (s.armWords k r.1) r.1.ins.length)
    refine ⟨_, exec_selection_made up job snap found first, (after.rd_kept (by decide) _).trans (s.selTold_astat a r),
      fun short => (after.bit (by decide) 1).trans (State.selTold_short short s a), fun more => State.goOn_more more .., fun last => State.goOn_last last ..,
      Frame.doesNone after (State.selTold_frame _ s a r) (by decide) (by decide)⟩
  case send =>
    have may : s.MaySend l f rest := ⟨up, queue, state, inTime⟩
    by_cases new : f.rtx = 0
    · obtain ⟨t, n, run, next, own, others, frame⟩ := exec_downlinkFrameSend_new may new
      refine ⟨t, run, by rw [own]; rfl, fun again => absurd new again, fun k _ seq => ?_, others, frame⟩
      rw [own, next k seq]
      exact ⟨rfl, rfl⟩
    · obtain ⟨t, run, own, counted, others, frame⟩ := exec_downlinkFrameSend_again may new
      exact ⟨t, run, by rw [own]; rfl, fun _ => ⟨by rw [own]; rfl, counted⟩, fun _ new' _ => absurd new' new, others, frame⟩
  case decay =>
    obtain ⟨t, run, cell, halved, frame⟩ := exec_switchCountDecay_halves up due
    refine ⟨t, run, cell, fun n once => ?_, frame⟩
    obtain ⟨count, low⟩ := s.halve_fields n
    simp only [State.fld, halved n once]
    exact ⟨count, low⟩
  case cntclr => exact ⟨_, if_pos up, rfl, (Frame.refl ..).upd_cell List.mem_cons_self⟩

end Sys2Proof.Machine
end

section
/-!
PROOFS of O18: a hub's marks, its hold policy, the frames it receives and what it sends.
-/
namespace Sys2Proof.Machine

variable {s : State} {h : HubN} {k : Hub}

/-! ## A command of a hub writes that hub alone -/

/-- Of the state, nothing but hub h differs. -/
def State.HubOnly (h : HubN) (s t : State) : Prop := (∀ m, m ≠ h → t.hub m = s.hub m) ∧ Frame [.hubs] noReg s t

theorem State.setHub_hubOnly (s : State) (h : HubN) (k : Hub) : State.HubOnly h s (s.setHub h k) :=
  ⟨fun _ e => State.hub_setHub_ne s e k, (Frame.refl ..).setHub List.mem_cons_self⟩
/-- What holds of the hub k that a command writes as hub h holds of hub h after it, and nothing else differs. -/
theorem exec_setHub {c : Instr} {P : Hub → Prop} (run : exec c s = .next (s.setHub h k)) (holds : P k) :
    ∃ t, exec c s = .next t ∧ P (t.hub h) ∧ State.HubOnly h s t :=
  ⟨_, run, (State.hub_setHub_self ..).symm ▸ holds, s.setHub_hubOnly h k⟩

/-- A port that the hub has: port B is a dual hub's (R220). -/
theorem Hub.port_on {portB : Bool} (port : portB = false ∨ k.dual = true) : (portB && !k.dual) = false ∧ (k.dual || !portB) = true := by
  rcases port with rfl | dual
  · exact ⟨rfl, Bool.or_true _⟩
  · rw [dual]
    exact ⟨Bool.and_false _, rfl⟩

/-- Every cell blocked with its count at 3 (R191). -/
def Hub.Blocked (k : Hub) : Prop := ∀ i : Fin 16, k.cells[i].state = 2 ∧ k.cells[i].hold = 3
theorem Hub.blocked_of_reset (reset : k.cells = Vector.replicate 16 {}) : k.Blocked := fun i => by
  rw [reset, Fin.getElem_fin, Vector.getElem_replicate]
  exact ⟨rfl, rfl⟩

/-! ## The hub mark (R189, R191, R201) -/

theorem Hub.applyPar_pcnt (k : Hub) (e : Nat × Nat × Bool) : (k.applyPar e).pcnt = k.pcnt := by
  unfold Hub.applyPar
  repeat' split
  all_goals rfl
theorem Hub.applyPars_pcnt (l : List (Nat × Nat × Bool)) (k : Hub) : (l.foldl Hub.applyPar k).pcnt = k.pcnt := by
  induction l generalizing k with
  | nil => rfl
  | cons e l ih => exact (ih _).trans (k.applyPar_pcnt e)

theorem HubCell.atMark_command {c : HubCell} {w : Nat} (command : c.next = some w) :
    c.atMark true = { state := if w % 4 = 3 then 2 else w % 4, hold := 0 } := by
  unfold HubCell.atMark
  rw [command]
/-- Without a resolved command the count rises to at most 3, and the cell is blocked at 3. -/
theorem HubCell.atMark_held {c : HubCell} (none_ : c.next = none) (resolve : Bool) :
    (c.atMark resolve).hold = Nat.min (c.hold + 1) 3 ∧ (c.atMark resolve).state = if c.hold < 2 then c.state else 2 := by
  have reaches : Nat.min (c.hold + 1) 3 = 3 ↔ ¬ c.hold < 2 := by
    change min (c.hold + 1) 3 = 3 ↔ ¬ c.hold < 2
    omega
  unfold HubCell.atMark
  rw [none_]
  cases resolve <;> simp only [reaches, ite_not, and_self]

theorem Hub.atMark_pcnt (k : Hub) (samples : List Sample) : (k.atMark samples).pcnt = (k.pcnt + 1) % 65536 :=
  congrArg (fun n => (n + 1) % 65536) (Hub.applyPars_pcnt k.pendPar k)
/-- With three MARK blocks absent every cell is blocked. -/
theorem Hub.atMark_lost (configured : k.configured = true) (lost : k.absent ≥ 3) (samples : List Sample) (i : Fin 16) :
    (k.atMark samples).cells[i].state = 2 := by
  unfold Hub.atMark
  simp only [configured, lost, Bool.not_true, Bool.false_eq_true, if_false, if_true, Fin.getElem_fin, Vector.getElem_map]
theorem Hub.atMark_cell (configured : k.configured = true) (kept : k.absent < 3) (open_ : k.blockAll = false) (samples : List Sample) (i : Fin 16) :
    (k.atMark samples).cells[i] = k.cells[i].atMark true := by
  unfold Hub.atMark
  simp only [configured, open_, show ¬ k.absent ≥ 3 by omega, Bool.not_true, Bool.not_false, Bool.false_eq_true, if_false, Fin.getElem_fin,
    Vector.getElem_map]

theorem exec_hubMark_timed (timed : (s.hub h).timed = true) (samples : List Sample) :
    exec (.hubMark h samples) s = .next (s.setHub h ((s.hub h).atMark samples)) := if_pos timed
theorem exec_hubMark_untimed (untimed : (s.hub h).timed = false) (samples : List Sample) : exec (.hubMark h samples) s = .next s :=
  if_neg (by rw [untimed]; decide)

/-! ## MARK blocks (R200, R201, R220) -/

/-- The hub with the ROLE of a block taken for its port and, before it has timed a mark, the timing port that the two roles name. -/
def Hub.takeRole (k : Hub) (portB role : Bool) : Hub :=
  let a := if portB then k.roleA else role
  let b := if portB then role else k.roleB
  { k with roleA := a, roleB := b, timingB := if k.timed || a == b then k.timingB else b }
/-- The mark of the block has been counted as having none. -/
abbrev Hub.Counted (k : Hub) : Prop := k.gotBlock = true ∧ k.absent ≠ 0

theorem exec_hubMarkBlock_run {portB : Bool} (port : portB = false ∨ (s.hub h).dual = true) (pcnt : BitVec 16) (ofs : BitVec 7) (role : Bool)
    (len : BitVec 24) : let k := (s.hub h).takeRole portB role
    exec (.hubMarkBlock h portB pcnt ofs role len) s = if portB = k.timingB ∧ ¬ (s.hub h).Counted then
        .next (s.setHub h { k with timed := true, gotBlock := true, pcnt := pcnt.toNat, len := len.toNat, absent := 0, blockAll := false })
      else .next (s.setHub h k) := by
  intro k
  rw [exec_hubMarkBlock]
  unfold execHubMarkBlock
  dsimp only
  rw [(Hub.port_on port).1]
  cases portB <;> rfl
theorem Hub.takeRole_timingB (k : Hub) (portB role : Bool) : let a := if portB then k.roleA else role
    let b := if portB then role else k.roleB
    (k.takeRole portB role).timingB = if k.timed = true ∨ a = b then k.timingB else b := by
  simp only [Hub.takeRole, Bool.or_eq_true, beq_iff_eq]

theorem exec_hubMarkAbsent_due (timed : (s.hub h).timed = true) (none_ : (s.hub h).gotBlock = false) :
    exec (.hubMarkAbsent h) s =
      .next (s.setHub h { s.hub h with absent := (s.hub h).absent + 1, markLost := true, gotBlock := true }) :=
  if_pos (by rw [timed, none_]; rfl)

/-! ## What a hub sends (R197, R202, R206) -/

theorem exec_hubDreq_answered {portB : Bool} (port : portB = false ∨ (s.hub h).dual = true) (token : Byte) (turn : BitVec 16) :
    exec (.hubDreq h portB 0x4B token turn) s =
      .next (s.setHub h { s.hub h with out := (portB, [0x55, token] ++ toLE 2 turn.toNat) :: (s.hub h).out }) :=
  if_pos ⟨rfl, (Hub.port_on port).2⟩
theorem exec_hubDreq_other {typ : Byte} (other : typ ≠ 0x4B) (portB : Bool) (token : Byte) (turn : BitVec 16) :
    exec (.hubDreq h portB typ token turn) s = .next s := if_neg fun b => other b.1

/-- HSTAT of the next uplink: what the first uplink of the mark told, else what the flags tell now. -/
def Hub.hstat (k : Hub) (supply : Bool) : Nat :=
  k.upstat.getD (b2n k.markLost + 2 * b2n k.dlErr + 4 * b2n k.late + 8 * b2n k.dupErr + 16 * b2n k.roleC + 32 * b2n supply)
/-- The hub once HSTAT st of a mark has been told. -/
def Hub.told (k : Hub) (st : Nat) : Hub :=
  if k.upstat.isSome then k else
    { k with upstat := some st, markLost := false, dlErr := false, late := false, dupErr := false, roleC := false }
theorem exec_hubUplink_sent {portB : Bool} (configured : (s.hub h).configured = true) (port : portB = false ∨ (s.hub h).dual = true) (supply : Bool) :
    let k := (s.hub h).told ((s.hub h).hstat supply)
    exec (.hubUplink h portB supply) s =
      .next (s.setHub h { k with out := (portB, k.uplink portB ((s.hub h).hstat supply)) :: k.out }) :=
  if_pos (by rw [configured, (Hub.port_on port).2]; rfl)
theorem Hub.told_kept (k : Hub) (st : Nat) : (k.told st).out = k.out ∧ (k.told st).num = k.num := by
  unfold Hub.told
  split <;> exact ⟨rfl, rfl⟩
theorem Hub.told_first (first : k.upstat = none) (st : Nat) :
    k.told st = { k with upstat := some st, markLost := false, dlErr := false, late := false, dupErr := false, roleC := false } :=
  if_neg (by rw [first]; decide)
theorem Hub.uplink_head (k : Hub) (portB : Bool) (st : Nat) : (k.uplink portB st).take 2 = toLE 1 1 ++ toLE 1 (k.num.getD 0 + 64 * b2n portB) := rfl

/-! ## Downlink frames (R189, R211, R217) -/

theorem exec_hubDownlinkFrame_configured {portB : Bool} (port : portB = false ∨ (s.hub h).dual = true) (configured : (s.hub h).configured = true)
    (bytes : List Byte) (tNs : Nat) :
    exec (.hubDownlinkFrame h portB bytes tNs) s = .next (s.setHub h ((s.hub h).receive portB bytes tNs)) := by
  rw [exec_hubDownlinkFrame]
  unfold execHubDownlinkFrame
  simp only [(Hub.port_on port).1, configured, Bool.false_eq_true, if_false, if_true]

variable {bs : List Byte} {f : DFrame} {portB : Bool} {tNs : Nat}

theorem Hub.receive_badCrc (bad : crcOk bs = false) (k : Hub) (portB : Bool) (tNs : Nat) : k.receive portB bs tNs = { k.countDl with dlErr := true } := by
  unfold Hub.receive
  rw [bad]
  rfl

/-- The bytes are those of the well-formed frame f. -/
structure IsFrame (bs : List Byte) (f : DFrame) : Prop where
  crc : crcOk bs = true
  parse : parseFrame bs = some f
  form : f.wellFormed = true
theorem IsFrame.read (is : IsFrame bs f) : (if crcOk bs then parseFrame bs else none).filter DFrame.wellFormed = some f := by
  rw [is.crc, if_pos rfl, is.parse, Option.filter_some, if_pos is.form]
theorem Hub.receive_elsewhere (is : IsFrame bs f) (other : k.num ≠ some f.hub) (portB : Bool) (tNs : Nat) : k.receive portB bs tNs = k := by
  unfold Hub.receive
  rw [is.read]
  exact if_pos other

/-- A command, commit or cancel frame for hub k, of a sequence number that k has not received in the period. -/
structure Hub.Fresh (k : Hub) (bs : List Byte) (f : DFrame) : Prop extends IsFrame bs f where
  own : k.num = some f.hub
  command : f.kind ≠ 0x21
  unseen : ∀ r, r ∈ k.rx → r.frame.seq ≠ f.seq

/-- The hub with the number of the last intact frame (R206). -/
def Hub.seen (k : Hub) (seq : Nat) : Hub := { k with lastSeq := seq }
/-- The hub with a frame taken with a result, and acknowledged. -/
def Hub.took (portB : Bool) (f : DFrame) (base : Nat) (r : Hub × Nat) : Hub :=
  Hub.ack { r.1 with rx := r.1.rx ++ [{ portB, frame := f, base, result := r.2 }] } portB f.seq f.hub r.2
/-- Such a frame is late, or belongs to another period, or is accepted (R189, R217). -/
theorem Hub.receive_fresh (fresh : k.Fresh bs f) (portB : Bool) (tNs : Nat) : k.receive portB bs tNs =
    if f.pcnt % 65536 ≠ k.pcnt % 65536 ∨ tNs > 10 * k.hcdl.getD 0 then ({ (k.seen f.seq).countDl with late := true }).ack portB f.seq f.hub 1
    else Hub.took portB f (baseCrcOf bs) ((k.seen f.seq).accept portB f) := by
  have unseen : k.rx.find? (fun r => r.portB == portB && r.frame.seq == f.seq && r.frame.kind == f.kind && r.base == baseCrcOf bs) = none := by
    refine List.find?_eq_none.2 fun r mem => ?_
    simp [fresh.unseen r mem]
  have period : (f.pcnt + 1) % 65536 ≠ (k.pcnt + 1) % 65536 ↔ f.pcnt % 65536 ≠ k.pcnt % 65536 := by omega
  unfold Hub.receive
  rw [fresh.read]
  dsimp only
  rw [if_neg (not_not.2 fresh.own), unseen]
  dsimp only
  rw [if_neg fresh.command]
  exact if_congr (or_congr period Iff.rfl) rfl rfl
/-- On a hub with one uplink that has resolved nothing, a command frame of the committed or commit form is resolved. -/
theorem Hub.accept_first (kind : f.kind = 0x12 ∨ f.kind = 0x14) (solo : k.dual = false) (unsolved : k.solved = []) (silent : k.rx = []) (portB : Bool) :
    k.accept portB f = ({ k.resolve (frameCmds f.cmask f.words) with solved := [(f.prob, portB)] }, 0) := by
  have not13 : f.kind ≠ 0x13 := by omega
  have not11 : f.kind ≠ 0x11 := by omega
  unfold Hub.accept
  simp only [silent, List.any_nil, Bool.and_false, Bool.false_eq_true, if_false, not13, not11, solo, Bool.false_and, or_self, unsolved]
theorem Hub.resolve_next (k : Hub) (cmds : List (Nat × Nat)) (i : Fin 16) :
    (k.resolve cmds).cells[i].next = match look cmds i with | some w => some w | none => k.cells[i].next := by
  unfold Hub.resolve
  rw [Fin.getElem_fin, Vector.getElem_ofFn]
  dsimp only
  cases look cmds i <;> rfl

/-! ## The statement -/

/-- Settles O18: each command writes its hub alone (`exec_setHub`), by what the hub has then become. -/
theorem hubs : Obligations.Hubs := by
  intro s h k kept blocked
  refine ⟨fun dual => ?powerUp, ?unconfigure, fun samples timed => ?mark, fun samples untimed => exec_hubMark_untimed untimed samples,
    fun portB pcnt ofs role len port => ?block, fun timed none_ => ?absent, fun portB token turn port => ?dreq,
    fun portB typ token turn other => exec_hubDreq_other other portB token turn, fun portB supply configured port => ?uplink,
    fun portB bytes tNs port configured => ?downlink⟩
  case powerUp =>
    obtain ⟨t, run, is, only⟩ := exec_setHub (h := h) (P := fun q => q = { dual }) (exec_hubPowerUp s h dual) rfl
    exact ⟨t, run, by rw [is], by rw [is], by rw [is]; exact Hub.blocked_of_reset rfl, only⟩
  case unconfigure =>
    obtain ⟨t, run, ⟨off, none_, cells⟩, only⟩ := exec_setHub (s := s)
      (P := fun q => q.configured = false ∧ q.num = none ∧ q.Blocked) (exec_hubUnconfigure s h) ⟨rfl, rfl, Hub.blocked_of_reset rfl⟩
    exact ⟨t, run, off, none_, cells, only⟩
  case mark =>
    obtain ⟨t, run, is, only⟩ := exec_setHub (P := (· = k.atMark samples)) (exec_hubMark_timed timed samples) rfl
    refine ⟨t, run, is ▸ k.atMark_pcnt samples, is ▸ rfl, fun configured lost i => is ▸ Hub.atMark_lost configured lost samples i,
      fun configured in_ open_ i => ?_, only⟩
    rw [is, Hub.atMark_cell configured in_ open_]
    exact ⟨fun w command => by rw [HubCell.atMark_command command]; exact ⟨rfl, rfl⟩, fun none_ => HubCell.atMark_held none_ true⟩
  case block =>
    have run := exec_hubMarkBlock_run port pcnt ofs role len
    have timing := k.takeRole_timingB portB role
    by_cases taken : portB = (k.takeRole portB role).timingB ∧ ¬ k.Counted
    · obtain ⟨t, run, is, only⟩ := exec_setHub (P := (· = _)) (run.trans (if_pos taken)) rfl
      refine ⟨t, run, ?_⟩
      rw [is]
      exact ⟨rfl, rfl, timing, fun _ _ => ⟨rfl, rfl, rfl, rfl⟩, fun out => absurd taken fun n => out.elim (· (n.1.trans timing)) n.2, only⟩
    · obtain ⟨t, run, is, only⟩ := exec_setHub (P := (· = _)) (run.trans (if_neg taken)) rfl
      refine ⟨t, run, ?_⟩
      rw [is]
      exact ⟨rfl, rfl, timing, fun on fresh => absurd ⟨on.trans timing.symm, fresh⟩ taken, fun _ => ⟨rfl, rfl, rfl⟩, only⟩
  case absent =>
    obtain ⟨t, run, ⟨absent, lost⟩, only⟩ := exec_setHub (P := fun q => q.absent = k.absent + 1 ∧ q.markLost = true)
      (exec_hubMarkAbsent_due timed none_) ⟨rfl, rfl⟩
    exact ⟨t, run, absent, lost, only⟩
  case dreq => exact exec_setHub (P := fun q => q.out = (portB, [0x55, token] ++ toLE 2 turn.toNat) :: k.out) (exec_hubDreq_answered port token turn) rfl
  case uplink =>
    obtain ⟨t, run, is, only⟩ := exec_setHub (P := (· = _)) (exec_hubUplink_sent configured port supply) rfl
    obtain ⟨out, num⟩ := k.told_kept (k.hstat supply)
    refine ⟨t, _, run, by rw [is]; exact congrArg _ out, ?_, fun first => ?_, only⟩
    · rw [Hub.uplink_head, num]
    · rw [is, Hub.told_first first]
      exact ⟨rfl, rfl, rfl, rfl⟩
  case downlink =>
    have run := exec_hubDownlinkFrame_configured port configured bytes tNs
    refine ⟨fun bad => ?_, fun f crc parse form => ⟨fun other => ?_, fun own command unseen =>
      ⟨fun late => ?_, fun period time kind solo unsolved silent => ?_⟩⟩⟩
    · rw [Hub.receive_badCrc bad] at run
      obtain ⟨t, run, is, only⟩ := exec_setHub (P := (· = _)) run rfl
      exact ⟨t, run, by rw [is], by rw [is]; rfl, by rw [is]; rfl, by rw [is]; rfl, only⟩
    · exact exec_setHub (P := (· = k)) run (Hub.receive_elsewhere ⟨crc, parse, form⟩ other portB tNs)
    · rw [Hub.receive_fresh ⟨⟨crc, parse, form⟩, own, command, unseen⟩, if_pos late] at run
      obtain ⟨t, run, is, only⟩ := exec_setHub (P := (· = _)) run rfl
      exact ⟨t, run, by rw [is]; rfl, by rw [is]; rfl, by rw [is]; rfl, only⟩
    · rw [Hub.receive_fresh ⟨⟨crc, parse, form⟩, own, command, unseen⟩, if_neg (not_or.2 ⟨not_not.2 period, Nat.not_lt.2 time⟩),
        Hub.accept_first (k := k.seen f.seq) kind solo unsolved silent] at run
      obtain ⟨t, run, is, only⟩ := exec_setHub (P := (· = _)) run rfl
      have cells : (t.hub h).cells = ((k.seen f.seq).resolve (frameCmds f.cmask f.words)).cells := by rw [is]; rfl
      refine ⟨t, run, fun i => ?_, by rw [is]; rfl, by rw [is]; rfl, only⟩
      rw [cells]
      exact Hub.resolve_next (k.seen f.seq) (frameCmds f.cmask f.words) i

end Sys2Proof.Machine
end

section
/-!
PROOFS of O16 and O17, the lanes: the registers of a lane, the state it takes, its failure, and the frames that wait in it.
-/
namespace Sys2Proof.Machine

variable {s t u : State} {l m : LaneN} {a : Nat}

/-! ## The registers of a lane (R223) -/

/-- The registers that hold a lane's state. -/
def laneRegs (l : LaneN) : List Nat := [cellLstat l, cellLupLo, cellLupHi]

/-- A register that no change of lane l's state writes, nor its failure. -/
theorem spare_of_ne (own : a ≠ cellLstat l) (outside : a < cellStatus ∨ cellLupHi < a) : a ∉ cellStatus :: laneRegs l := by
  simp only [laneRegs, List.mem_cons, List.not_mem_nil, or_false, not_or]
  unfold cellStatus cellLupLo cellLupHi at *
  omega
theorem cellLcfg_spare (l m : LaneN) : cellLcfg m ∉ cellStatus :: laneRegs l := by
  refine spare_of_ne ?_ (.inr ?_)
  · unfold cellLcfg cellLstat
    omega
  · unfold cellLcfg cellLupHi
    omega
theorem cellLdly_spare (l m : LaneN) : cellLdly m ∉ cellStatus :: laneRegs l := by
  refine spare_of_ne ?_ (.inr ?_)
  · unfold cellLdly cellLstat
    omega
  · unfold cellLdly cellLupHi
    omega
theorem cellLstat_ne (e : m ≠ l) : cellLstat m ≠ cellLstat l := by
  have := Fin.val_ne_of_ne e
  unfold cellLstat
  omega
theorem cellLstat_ne_cellLcfg (l m : LaneN) : cellLstat l ≠ cellLcfg m := by
  unfold cellLstat cellLcfg
  omega
theorem cellLstat_above (l : LaneN) : cellUprxHi < cellLstat l := by
  unfold cellLstat cellUprxHi
  omega
theorem cellLstat_ne_cellStatus (l : LaneN) : cellLstat l ≠ cellStatus := Nat.ne_of_gt (Nat.lt_trans (by decide) (cellLstat_above l))
theorem cellLstat_spare (e : m ≠ l) : cellLstat m ∉ cellStatus :: laneRegs l :=
  spare_of_ne (cellLstat_ne e) (.inr (Nat.lt_trans (by decide) (cellLstat_above m)))

theorem State.laneState_congr (h : t.rd (cellLstat l) = s.rd (cellLstat l)) : t.laneState l = s.laneState l := congrArg (fun x => bits x 2 0) h
theorem State.laneBlock_congr (h : t.rd (cellLstat l) = s.rd (cellLstat l)) : t.laneBlock l = s.laneBlock l := congrArg (fun x => x.testBit 3) h
theorem State.laneEn_congr (h : t.rd (cellLcfg l) = s.rd (cellLcfg l)) : t.laneEn l = s.laneEn l := congrArg (fun x => x.testBit 31) h
theorem State.laneHub_congr (h : t.rd (cellLcfg l) = s.rd (cellLcfg l)) : t.laneHub l = s.laneHub l := congrArg (fun x => bits x 5 0) h
theorem State.bit_congr (h : t.rd a = s.rd a) (i : Nat) : t.bit a i = s.bit a i := congrArg (fun x => x.testBit i) h

/-- A write of block lock leaves the lane's state. -/
theorem State.laneState_setBit (s : State) (l : LaneN) {i : Nat} (high : 2 < i) (small : i < 32) (b : Bool) :
    (s.setBit (cellLstat l) i b).laneState l = s.laneState l :=
  State.fld_setFld_ne s (Nat.le_refl i) small (.inr high) (by decide)

/-! ## A lane's bit in a pair of registers -/

section
variable {lo hi : Nat} {b : Bool}

theorem State.laneBit_rd (nlo : a ≠ lo) (nhi : a ≠ hi) : (s.laneBit lo hi l b).rd a = s.rd a := by
  unfold State.laneBit
  split
  · exact State.rd_setBit_ne s nlo _ _
  · exact State.rd_setBit_ne s nhi _ _
theorem State.laneBit_lanes (s : State) (lo hi : Nat) (l : LaneN) (b : Bool) : (s.laneBit lo hi l b).lanes = s.lanes := by
  unfold State.laneBit
  split <;> rfl
theorem State.laneBitOf_laneBit (s : State) (lo hi : Nat) (l : LaneN) (b : Bool) : (s.laneBit lo hi l b).laneBitOf lo hi l = b := by
  unfold State.laneBit State.laneBitOf
  split
  · exact State.bit_setBit_self s b ‹_›
  · exact State.bit_setBit_self s b (by omega)
theorem State.laneBitOf_congr (hlo : t.rd lo = s.rd lo) (hhi : t.rd hi = s.rd hi) : t.laneBitOf lo hi l = s.laneBitOf lo hi l := by
  unfold State.laneBitOf State.bit
  rw [hlo, hhi]
end

/-! ## The state of a lane (R202) -/

/-- A lane in which no frame waits. -/
def Lane.emptied (k : Lane) : Lane := { k with queue := [], await := [] }
/-- No lane but l differs. -/
def State.LaneAlone (l : LaneN) (s t : State) : Prop := ∀ m, m ≠ l → t.lane m = s.lane m

theorem State.LaneAlone.trans (h : State.LaneAlone l s t) (k : State.LaneAlone l t u) : State.LaneAlone l s u := fun m e => (k m e).trans (h m e)
theorem State.LaneAlone.of_lanes (h : t.lanes = s.lanes) : State.LaneAlone l s t := fun m _ => congrArg (fun ls : Vector Lane 64 => ls[m]) h
theorem State.LaneAlone.setLane (h : State.LaneAlone l s t) (k : Lane) : State.LaneAlone l s (t.setLane l k) :=
  h.trans fun _ e => State.lane_setLane_ne t e k
theorem State.lane_of_lanes (h : t.lanes = s.lanes) (l : LaneN) : t.lane l = s.lane l := congrArg (fun ls : Vector Lane 64 => ls[l]) h

/-- A lane's state is shown in CELL_LSTAT and in CELL_LUP. -/
def State.showLaneState (s : State) (l : LaneN) (st : Nat) : State := (s.setFld (cellLstat l) 2 0 st).laneBit cellLupLo cellLupHi l (st == 4)
theorem State.setLaneState_eq (s : State) (l : LaneN) (st : Nat) : s.setLaneState l st =
    if st = 3 ∨ st = 4 then s.showLaneState l st else (s.showLaneState l st).setLane l ((s.showLaneState l st).lane l).emptied := rfl
theorem State.showLaneState_lanes (s : State) (l : LaneN) (st : Nat) : (s.showLaneState l st).lanes = s.lanes := State.laneBit_lanes ..
theorem State.setLaneState_shown (s : State) (l : LaneN) (st a : Nat) : (s.setLaneState l st).rd a = (s.showLaneState l st).rd a := by
  rw [State.setLaneState_eq]
  split <;> rfl
theorem State.setLaneState_rd (out : a ∉ laneRegs l) (s : State) (st : Nat) : (s.setLaneState l st).rd a = s.rd a := by
  simp only [laneRegs, List.mem_cons, List.not_mem_nil, or_false, not_or] at out
  obtain ⟨own, lo, hi⟩ := out
  rw [State.setLaneState_shown, State.showLaneState, State.laneBit_rd lo hi, State.rd_setFld_ne s own]
theorem State.setLaneState_lstat (s : State) (l : LaneN) (st : Nat) :
    (s.setLaneState l st).rd (cellLstat l) = putBits (s.rd (cellLstat l)) 2 0 st := by
  have above := cellLstat_above l
  unfold cellUprxHi at above
  rw [State.setLaneState_shown, State.showLaneState, State.laneBit_rd (by unfold cellLupLo; omega) (by unfold cellLupHi; omega),
    State.rd_setFld s _ (by decide) (by decide), if_pos rfl]
theorem State.setLaneState_state (s : State) (l : LaneN) {st : Nat} (small : st < 8) : (s.setLaneState l st).laneState l = st := by
  rw [State.laneState, State.fld, State.setLaneState_lstat, bits_putBits_self (by decide)]
  exact Nat.mod_eq_of_lt small
theorem State.setLaneState_block (s : State) (l : LaneN) (st : Nat) : (s.setLaneState l st).laneBlock l = s.laneBlock l := by
  rw [State.laneBlock, State.bit, State.setLaneState_lstat, testBit_putBits (by decide), if_neg (by decide)]
  rfl
/-- In CONFIG and UP frames may wait. -/
theorem State.setLaneState_open {st : Nat} (open_ : st = 3 ∨ st = 4) (s : State) (l : LaneN) : (s.setLaneState l st).lanes = s.lanes := by
  rw [State.setLaneState_eq, if_pos open_, State.showLaneState_lanes]
theorem State.setLaneState_shut {st : Nat} (shut : ¬ (st = 3 ∨ st = 4)) (s : State) (l : LaneN) :
    (s.setLaneState l st).lane l = (s.lane l).emptied := by
  rw [State.setLaneState_eq, if_neg shut, State.lane_setLane_self, State.lane_of_lanes (s.showLaneState_lanes l st)]
theorem State.setLaneState_alone (s : State) (l : LaneN) (st : Nat) : State.LaneAlone l s (s.setLaneState l st) := by
  have shown : State.LaneAlone l s (s.showLaneState l st) := .of_lanes (s.showLaneState_lanes l st)
  rw [State.setLaneState_eq]
  split
  · exact shown
  · exact shown.setLane _

/-! ## DELAY and LOCKING begin (R202) -/

theorem State.startDelay_rd (s : State) (l : LaneN) (n a : Nat) : (s.startDelay l n).rd a = (s.setLaneState l 2).rd a := rfl
theorem State.startDelay_state (s : State) (l : LaneN) (n : Nat) : (s.startDelay l n).laneState l = 2 := s.setLaneState_state l (by decide)
theorem State.startDelay_lane (s : State) (l : LaneN) (n : Nat) :
    (s.startDelay l n).lane l = { (s.lane l).emptied with echoes := [], attempts := n } := by
  rw [State.startDelay, State.lane_setLane_self, State.setLaneState_shut (by decide)]
theorem State.startDelay_alone (s : State) (l : LaneN) (n : Nat) : State.LaneAlone l s (s.startDelay l n) := (s.setLaneState_alone l 2).setLane _
theorem State.startLocking_unlocked (none_ : s.laneBlock l = false) : s.startLocking l = s.setLaneState l 1 :=
  if_neg (by rw [State.setLaneState_block, none_]; decide)

/-! ## The failure of a lane (R202) -/

/-- Lane l has failed with a code; nothing waits in it. -/
def State.LaneFailed (t : State) (l : LaneN) (code : Nat) : Prop :=
  t.laneState l = 6 ∧ t.fld (cellLstat l) 11 8 = code ∧ (t.lane l).queue = [] ∧ (t.lane l).await = []
/-- FAILED with a code, before the reports that waited for the lane. -/
def State.showFailed (s : State) (l : LaneN) (code : Nat) : State :=
  let u := (s.setLaneState l 6).setFld (cellLstat l) 11 8 code
  if code = 2 then u.setBit cellStatus 3 true else u

theorem State.LaneFailed.congr {code : Nat} (h : s.LaneFailed l code) (hr : t.rd (cellLstat l) = s.rd (cellLstat l)) (hl : t.lane l = s.lane l) :
    t.LaneFailed l code := by
  obtain ⟨state, field, queue, await⟩ := h
  exact ⟨(State.laneState_congr hr).trans state, (congrArg (fun x => bits x 11 8) hr).trans field, hl ▸ queue, hl ▸ await⟩
theorem State.laneFail_rd_shown (s : State) (l : LaneN) (code a : Nat) : (s.laneFail l code).rd a = (s.showFailed l code).rd a :=
  (State.reportsDue_does _).rd_kept (by decide) a
theorem State.showFailed_lanes (s : State) (l : LaneN) (code : Nat) : (s.showFailed l code).lanes = (s.setLaneState l 6).lanes := by
  unfold State.showFailed
  dsimp only
  split <;> rfl
theorem State.laneFail_lanes (s : State) (l : LaneN) (code : Nat) : (s.laneFail l code).lanes = (s.setLaneState l 6).lanes :=
  ((State.reportsDue_does _).part .lanes rfl).trans (s.showFailed_lanes l code)
theorem State.laneFail_rd (out : a ∉ cellStatus :: laneRegs l) (s : State) (code : Nat) : (s.laneFail l code).rd a = s.rd a := by
  obtain ⟨status, regs⟩ := not_or.1 (mt List.mem_cons.2 out)
  have own : a ≠ cellLstat l := fun e => regs (e ▸ List.mem_cons_self)
  have failed : ((s.setLaneState l 6).setFld (cellLstat l) 11 8 code).rd a = s.rd a := by
    rw [State.rd_setFld_ne _ own, State.setLaneState_rd regs]
  rw [State.laneFail_rd_shown]
  unfold State.showFailed
  dsimp only
  split
  · rw [State.rd_setBit_ne _ status, failed]
  · exact failed
theorem State.laneFail_lstat (s : State) (l : LaneN) (code : Nat) :
    (s.laneFail l code).rd (cellLstat l) = putBits (putBits (s.rd (cellLstat l)) 2 0 6) 11 8 code := by
  have failed : ((s.setLaneState l 6).setFld (cellLstat l) 11 8 code).rd (cellLstat l) = putBits (putBits (s.rd (cellLstat l)) 2 0 6) 11 8 code := by
    rw [State.rd_setFld _ _ (by decide) (by decide), if_pos rfl, State.setLaneState_lstat]
  rw [State.laneFail_rd_shown]
  unfold State.showFailed
  dsimp only
  split
  · rw [State.rd_setBit_ne _ (cellLstat_ne_cellStatus l), failed]
  · exact failed
theorem State.laneFail_lane (s : State) (l : LaneN) (code : Nat) : (s.laneFail l code).lane l = (s.lane l).emptied := by
  rw [State.lane_of_lanes (s.laneFail_lanes l code), State.setLaneState_shut (by decide)]
theorem State.laneFail_alone (s : State) (l : LaneN) (code : Nat) : State.LaneAlone l s (s.laneFail l code) :=
  (s.setLaneState_alone l 6).trans (.of_lanes (s.laneFail_lanes l code))
theorem State.laneFail_failed (s : State) (l : LaneN) {code : Nat} (small : code < 16) : (s.laneFail l code).LaneFailed l code := by
  have lane := s.laneFail_lane l code
  refine ⟨?_, ?_, by rw [lane]; rfl, by rw [lane]; rfl⟩
  · rw [State.laneState, State.fld, State.laneFail_lstat, bits_putBits_ne (by decide) (by decide) (by decide), bits_putBits_self (by decide)]
    rfl
  · rw [State.fld, State.laneFail_lstat, bits_putBits_self (by decide)]
    exact Nat.mod_eq_of_lt small
theorem State.laneFail_duphub (s : State) (l : LaneN) : (s.laneFail l 2).bit cellStatus 3 = true := by
  rw [State.bit, State.laneFail_rd_shown]
  exact State.bit_setBit_self _ true (by decide)
/-- Of CELL_STATUS a failure for another reason sets nothing. -/
theorem State.laneFail_status {code : Nat} (other : code ≠ 2) (s : State) (l : LaneN) : (s.laneFail l code).rd cellStatus = s.rd cellStatus := by
  rw [State.laneFail_rd_shown, State.showFailed, if_neg other, State.rd_setFld_ne _ (cellLstat_ne_cellStatus l).symm, State.setLaneState_rd]
  have := cellLstat_ne_cellStatus l
  simp only [laneRegs, List.mem_cons, List.not_mem_nil, or_false, not_or]
  exact ⟨this.symm, by decide, by decide⟩

/-! ## HPAR frames (R203, R204) -/

/-- A new HPAR frame waits behind q in a lane in CONFIG that has sent n of them. -/
def State.Configures (t : State) (l : LaneN) (hub : Nat) (q : List DFrame) (n : Nat) : Prop :=
  t.laneState l = 3 ∧ (t.lane l).hparSent = n ∧ ∃ f, (t.lane l).queue = q ++ [f] ∧ f.kind = 0x21 ∧ f.rtx = 0 ∧ f.hub = hub

/-- The HPAR frame of R204 with all four parameters. -/
def State.newHpar (s : State) (l : LaneN) : DFrame :=
  s.hparFrame l [(0, s.laneHub l), (1, s.fld (cellLdly l) 16 0), (2, s.rd cellHcdl), (3, s.rd cellUpofs)]
theorem State.sendHpar_lane (s : State) (l : LaneN) : (s.sendHpar l).lane l =
    { s.lane l with queue := (s.lane l).queue ++ [s.newHpar l], hparSent := (s.lane l).hparSent + 1, hparMark := none } :=
  State.lane_setLane_self ..
theorem State.sendHpar_configures (config : s.laneState l = 3) :
    (s.sendHpar l).Configures l (s.laneHub l) (s.lane l).queue ((s.lane l).hparSent + 1) := by
  unfold State.Configures
  rw [State.sendHpar_lane]
  exact ⟨config, rfl, s.newHpar l, rfl, rfl, rfl, rfl⟩
theorem State.sendHpar_alone (s : State) (l : LaneN) : State.LaneAlone l s (s.sendHpar l) := fun _ e => State.lane_setLane_ne s e _

end Sys2Proof.Machine
end

section
/-!
PROOFS of O16, the bring-up of a lane: LANE_ENABLE with the duplicate hubs, LANE_DISABLE, and block lock.
-/
namespace Sys2Proof.Machine

variable {s t u : State} {l m : LaneN} {a : Nat}

/-! ## What a sparse map lists -/

theorem sget_of_mem {β : Type} [DecidableEq β] {d : Nat → β} {k : List (Nat × β)} {v : β} (wf : swf d k = true) (mem : (a, v) ∈ k) :
    sget d k a = v := by
  obtain ⟨sorted, -⟩ := (swf_iff k).1 wf
  clear wf
  induction k with
  | nil => exact absurd mem List.not_mem_nil
  | cons c k ih =>
    obtain ⟨first, rest⟩ := List.pairwise_cons.1 sorted
    unfold sget
    rcases List.mem_cons.1 mem with rfl | later
    · rw [List.find?_cons_of_pos (by exact beq_self_eq_true a)]
    · have ne : c.1 ≠ a := Nat.ne_of_lt (first _ later)
      rw [List.find?_cons_of_neg (by simpa using ne)]
      exact ih later rest
theorem mem_of_sget_ne {β : Type} [DecidableEq β] {d : Nat → β} {k : List (Nat × β)} (ne : sget d k a ≠ d a) : (a, sget d k a) ∈ k := by
  unfold sget at *
  cases found : k.find? fun c => c.1 == a with
  | none => exact absurd (by rw [found]) ne
  | some c =>
    have key : c.1 = a := beq_iff_eq.1 (List.find?_some (p := fun c : Nat × β => c.1 == a) found)
    exact key ▸ List.mem_of_find?_eq_some found
/-- A listed element shows its register. -/
theorem State.listed_rd (canon : s.canonical = true) {base stride count : Nat} {c : Nat × Nat} (mem : c ∈ s.listed base stride count) :
    c.1 < count ∧ c.2 = s.rd (base + stride * c.1) := by
  obtain ⟨⟨x, v⟩, within, some_⟩ := List.mem_filterMap.1 mem
  obtain ⟨⟨lo, hi, whole⟩, shown⟩ := Option.ite_none_right_eq_some.1 some_
  obtain rfl := Option.some.inj shown
  dsimp only at lo hi whole ⊢
  have at_ : base + stride * ((x - base) / stride) = x := by
    rw [Nat.mul_div_cancel' (Nat.dvd_of_mod_eq_zero whole)]
    omega
  refine ⟨Nat.div_lt_of_lt_mul (by omega), ?_⟩
  rw [at_, State.rd, sget_of_mem (Bool.and_eq_true_iff.1 canon).2 within]
/-- An element that differs from its reset value is listed. -/
theorem State.listed_of_ne {base stride count i : Nat} (pos : 0 < stride) (inside : i < count)
    (ne : sget regReset s.regs (base + stride * i) ≠ regReset (base + stride * i)) : (i, s.rd (base + stride * i)) ∈ s.listed base stride count := by
  have below : stride * i < stride * count := Nat.mul_lt_mul_of_pos_left inside pos
  refine List.mem_filterMap.2 ⟨_, mem_of_sget_ne ne, ?_⟩
  dsimp only
  rw [if_pos ⟨by omega, by omega, by rw [Nat.add_sub_cancel_left, Nat.mul_mod_right]⟩, Nat.add_sub_cancel_left, Nat.mul_div_cancel_left _ pos]
  rfl

/-! ## Duplicate hubs (R202, R222) -/

theorem cellLcfg_reset_off : ∀ l : LaneN, (regReset (cellLcfg l)).getLsbD 31 = false := by decide

/-- A lower-numbered enabled lane has lane l's HUB. -/
def State.DupHub (s : State) (l : LaneN) : Prop := ∃ m : LaneN, m < l ∧ s.laneEn m = true ∧ s.laneHub m = s.laneHub l
/-- The configurations of the enabled lanes, as listed. -/
def State.lanesOn (s : State) : List (Nat × Nat) := (s.listed (cellLcfg 0) 16 64).filter fun c => c.2.testBit 31
/-- Lane l as its configuration stands in that list. -/
def State.lcfgOf (s : State) (l : LaneN) : Nat × Nat := (l.val, s.rd (cellLcfg l))
/-- The check of one of them for a duplicate hub. -/
def State.dupCheck (s : State) (c : Nat × Nat) : State :=
  let l : LaneN := toFin 64 c.1
  if s.laneState l ≠ 6 ∧ (s.listed (cellLcfg 0) 16 64).any (fun d => d.2.testBit 31 && decide (d.1 < c.1) && d.2 % 64 == c.2 % 64) then
    s.laneFail l 2
  else s
theorem State.dupHubs_eq (s : State) : s.dupHubs = s.each s.lanesOn State.dupCheck := rfl

theorem cellLcfg_row (i : Nat) : cellLcfg 0 + 16 * i = cellLcfg i := by
  unfold cellLcfg
  omega
theorem State.mem_lanesOn (canon : s.canonical = true) {c : Nat × Nat} : c ∈ s.lanesOn ↔ ∃ m, s.laneEn m = true ∧ c = s.lcfgOf m := by
  constructor
  · intro mem
    obtain ⟨listed, on⟩ := List.mem_filter.1 mem
    obtain ⟨low, shows⟩ := State.listed_rd canon listed
    rw [cellLcfg_row] at shows
    exact ⟨⟨c.1, low⟩, (congrArg (·.testBit 31) shows).symm.trans on, Prod.ext rfl shows⟩
  · rintro ⟨m, on, rfl⟩
    have differs : sget regReset s.regs (cellLcfg 0 + 16 * m) ≠ regReset (cellLcfg 0 + 16 * m) := by
      rw [cellLcfg_row]
      intro e
      have off := cellLcfg_reset_off m
      rw [← e] at off
      exact absurd (on.symm.trans off) (by decide)
    have listed := State.listed_of_ne (count := 64) (by decide) m.isLt differs
    rw [cellLcfg_row] at listed
    exact List.mem_filter.2 ⟨listed, on⟩
theorem State.dupHub_iff (canon : s.canonical = true) (l : LaneN) : s.DupHub l ↔
    (s.listed (cellLcfg 0) 16 64).any (fun d => d.2.testBit 31 && decide (d.1 < (s.lcfgOf l).1) && d.2 % 64 == (s.lcfgOf l).2 % 64) = true := by
  rw [List.any_eq_true]
  constructor
  · rintro ⟨m, lower, on, same⟩
    obtain ⟨listed, on'⟩ := List.mem_filter.1 ((State.mem_lanesOn canon).2 ⟨m, on, rfl⟩)
    exact ⟨_, listed, by rw [on', decide_eq_true (p := (s.lcfgOf m).1 < (s.lcfgOf l).1) lower]; exact beq_iff_eq.2 same⟩
  · rintro ⟨d, listed, holds⟩
    simp only [Bool.and_eq_true, decide_eq_true_eq, beq_iff_eq] at holds
    obtain ⟨⟨on, lower⟩, same⟩ := holds
    obtain ⟨m, on', rfl⟩ := (State.mem_lanesOn canon).1 (List.mem_filter.2 ⟨listed, on⟩)
    exact ⟨m, lower, on', same⟩
theorem toFin_val {n : Nat} [NeZero n] (l : Fin n) : toFin n l.val = l := Fin.ofNat_val_eq_self l
theorem State.dupCheck_fails (canon : s.canonical = true) (fresh : s.laneState l ≠ 6) (dup : s.DupHub l) : s.dupCheck (s.lcfgOf l) = s.laneFail l 2 := by
  have any := (State.dupHub_iff canon l).1 dup
  unfold State.dupCheck
  rw [any]
  show (if s.laneState (toFin 64 l.val) ≠ 6 ∧ true = true then s.laneFail (toFin 64 l.val) 2 else s) = _
  rw [toFin_val]
  exact if_pos ⟨fresh, rfl⟩
theorem State.dupCheck_keeps (canon : s.canonical = true) (spared : s.laneState l = 6 ∨ ¬ s.DupHub l) : s.dupCheck (s.lcfgOf l) = s := by
  refine if_neg fun ⟨state, any⟩ => ?_
  have eq : toFin 64 (s.lcfgOf l).1 = l := toFin_val l
  rw [eq] at state
  exact spared.elim state fun none_ => none_ ((State.dupHub_iff canon l).2 any)
theorem State.dupCheck_cases (canon : s.canonical = true) (m : LaneN) :
    s.dupCheck (s.lcfgOf m) = s ∨ s.DupHub m ∧ s.dupCheck (s.lcfgOf m) = s.laneFail m 2 := by
  by_cases spared : s.laneState m = 6 ∨ ¬ s.DupHub m
  · exact .inl (State.dupCheck_keeps canon spared)
  · obtain ⟨fresh, dup⟩ := not_or.1 spared
    exact .inr ⟨not_not.1 dup, State.dupCheck_fails canon fresh (not_not.1 dup)⟩

/-- The configuration of every lane is as in s, and the registers are listed canonically. -/
def State.SameLanes (s u : State) : Prop := u.canonical = true ∧ ∀ m : LaneN, u.rd (cellLcfg m) = s.rd (cellLcfg m)

theorem State.SameLanes.lcfgOf (same : s.SameLanes u) (m : LaneN) : s.lcfgOf m = u.lcfgOf m := Prod.ext rfl (same.2 m).symm
theorem State.SameLanes.dupHub (same : s.SameLanes u) (l : LaneN) : u.DupHub l ↔ s.DupHub l :=
  exists_congr fun m => and_congr_right fun _ => by rw [State.laneEn_congr (same.2 m), State.laneHub_congr (same.2 m), State.laneHub_congr (same.2 l)]
theorem State.SameLanes.laneFail (same : s.SameLanes u) (m : LaneN) (code : Nat) : s.SameLanes (u.laneFail m code) :=
  ⟨(u.laneFail_does m code).canon same.1, fun k => (State.laneFail_rd (cellLcfg_spare m k) u code).trans (same.2 k)⟩
theorem State.SameLanes.dupCheck (same : s.SameLanes u) (m : LaneN) : s.SameLanes (u.dupCheck (s.lcfgOf m)) := by
  rw [same.lcfgOf]
  rcases State.dupCheck_cases same.1 m with e | ⟨-, e⟩ <;> rw [e]
  · exact same
  · exact same.laneFail m 2

/-- Over the checks of a list of lanes, what each keeps holds at the end. -/
theorem State.each_dupCheck {P : State → Prop} (keep : ∀ u m, s.SameLanes u → P u → P (u.dupCheck (s.lcfgOf m))) (ls : List (Nat × Nat))
    (lanes : ∀ c ∈ ls, ∃ m, c = s.lcfgOf m) (same : s.SameLanes u) (holds : P u) :
    s.SameLanes (u.each ls State.dupCheck) ∧ P (u.each ls State.dupCheck) := by
  induction ls generalizing u with
  | nil => exact ⟨same, holds⟩
  | cons c ls ih =>
    obtain ⟨m, rfl⟩ := lanes c List.mem_cons_self
    exact ih (fun d mem => lanes d (List.mem_cons_of_mem _ mem)) (same.dupCheck m) (keep u m same holds)
theorem State.lanesOn_lanes (canon : s.canonical = true) : ∀ c ∈ s.lanesOn, ∃ m, c = s.lcfgOf m := fun _ mem =>
  let ⟨m, _, e⟩ := (State.mem_lanesOn canon).1 mem
  ⟨m, e⟩
theorem State.SameLanes.refl (canon : s.canonical = true) : s.SameLanes s := ⟨canon, fun _ => rfl⟩
theorem State.dupHubs_keeps (canon : s.canonical = true) {P : State → Prop} (keep : ∀ u m, s.SameLanes u → P u → P (u.dupCheck (s.lcfgOf m)))
    (holds : P s) : P s.dupHubs :=
  (State.each_dupCheck keep s.lanesOn (State.lanesOn_lanes canon) (.refl canon) holds).2
/-- A register that no failure writes is as before the checks. -/
theorem State.dupHubs_rd (canon : s.canonical = true) (spare : ∀ m : LaneN, s.DupHub m → a ∉ cellStatus :: laneRegs m) : s.dupHubs.rd a = s.rd a := by
  refine State.dupHubs_keeps canon (P := fun u => u.rd a = s.rd a) (fun u m same kept => ?_) rfl
  rw [same.lcfgOf]
  rcases State.dupCheck_cases same.1 m with e | ⟨dup, e⟩ <;> rw [e]
  · exact kept
  · exact (State.laneFail_rd (spare m ((same.dupHub m).1 dup)) u 2).trans kept
theorem State.dupHubs_lstat (canon : s.canonical = true) (none_ : ¬ s.DupHub l) : s.dupHubs.rd (cellLstat l) = s.rd (cellLstat l) :=
  State.dupHubs_rd canon fun _ dup => cellLstat_spare fun e => none_ (e ▸ dup)

/-- Lane l has failed for its hub, and DUPHUB shows it. -/
def State.FailedDup (u : State) (l : LaneN) : Prop := u.LaneFailed l 2 ∧ u.bit cellStatus 3 = true
theorem State.FailedDup.laneFail (h : u.FailedDup l) (e : l ≠ m) : (u.laneFail m 2).FailedDup l :=
  ⟨h.1.congr (State.laneFail_rd (cellLstat_spare e) u 2) (u.laneFail_alone m 2 l e), u.laneFail_duphub m⟩
theorem State.FailedDup.dupCheck (same : s.SameLanes u) (h : u.FailedDup l) (m : LaneN) : (u.dupCheck (s.lcfgOf m)).FailedDup l := by
  rw [same.lcfgOf]
  by_cases e : l = m
  · rw [State.dupCheck_keeps same.1 (.inl (e ▸ h.1.1))]
    exact h
  · rcases State.dupCheck_cases same.1 m with k | ⟨-, k⟩ <;> rw [k]
    · exact h
    · exact h.laneFail e
/-- Until its own check lane l has not failed, or it has for its hub. -/
theorem State.freshOrDup_dupCheck (same : s.SameLanes u) (h : u.laneState l ≠ 6 ∨ u.FailedDup l) (m : LaneN) :
    (u.dupCheck (s.lcfgOf m)).laneState l ≠ 6 ∨ (u.dupCheck (s.lcfgOf m)).FailedDup l := by
  rcases h with fresh | done
  · rw [same.lcfgOf]
    rcases State.dupCheck_cases same.1 m with k | ⟨-, k⟩ <;> rw [k]
    · exact .inl fresh
    · by_cases e : l = m
      · subst e
        exact .inr ⟨State.laneFail_failed _ l (by decide), State.laneFail_duphub _ l⟩
      · exact .inl (by rwa [State.laneState_congr (State.laneFail_rd (cellLstat_spare e) u 2)])
  · exact .inr (done.dupCheck same m)
/-- An enabled lane that has not failed fails when its hub is a lower lane's. -/
theorem State.dupHubs_fails (canon : s.canonical = true) (on : s.laneEn l = true) (fresh : s.laneState l ≠ 6) (dup : s.DupHub l) :
    s.dupHubs.FailedDup l := by
  obtain ⟨before, after, split⟩ := List.append_of_mem ((State.mem_lanesOn canon).2 ⟨l, on, rfl⟩)
  have lanes := State.lanesOn_lanes canon
  rw [split] at lanes
  obtain ⟨same, left⟩ := State.each_dupCheck (P := fun u => u.laneState l ≠ 6 ∨ u.FailedDup l) (fun u m same h => State.freshOrDup_dupCheck same h m)
    before (fun c mem => lanes c (List.mem_append_left _ mem)) (.refl canon) (.inl fresh)
  have own : ((s.each before State.dupCheck).dupCheck (s.lcfgOf l)).FailedDup l := by
    rcases left with fresh' | done
    · rw [same.lcfgOf, State.dupCheck_fails same.1 fresh' ((same.dupHub l).2 dup)]
      exact ⟨State.laneFail_failed _ l (by decide), State.laneFail_duphub _ l⟩
    · exact done.dupCheck same l
  have walk := (State.each_dupCheck (P := fun u => u.FailedDup l) (fun u m same h => h.dupCheck same m) after
    (fun c mem => lanes c (List.mem_append_right _ (List.mem_cons_of_mem _ mem))) (same.dupCheck l) own).2
  rw [State.dupHubs_eq, split, State.each, List.foldl_append]
  exact walk

/-! ## LANE_ENABLE and LANE_DISABLE (R196, R202, R222) -/

/-- Lane l enabled, with nothing measured and nothing waiting. -/
def State.laneCleared (s : State) (l : LaneN) : State :=
  let u := ((s.setBit (cellLcfg l) 31 true).wr (cellLstat l) 0).wr (cellLdly l) 0
  u.setLane l { u.lane l with queue := [], await := [], silent := 0, hparMark := none, hparSent := 0, gotUplink := false }
theorem State.laneOn_eq (s : State) (l : LaneN) : s.laneOn l = ((s.laneCleared l).startLocking l).dupHubs := rfl
theorem cellLdly_ne (l m : LaneN) : cellLdly l ≠ cellLstat m ∧ cellLdly l ≠ cellLcfg m := by
  unfold cellLdly cellLstat cellLcfg
  omega
theorem cellLcfg_ne (e : m ≠ l) : cellLcfg m ≠ cellLcfg l := by
  have := Fin.val_ne_of_ne e
  unfold cellLcfg
  omega
theorem State.laneCleared_lcfg (s : State) (l m : LaneN) : (s.laneCleared l).rd (cellLcfg m) = (s.setBit (cellLcfg l) 31 true).rd (cellLcfg m) := by
  unfold State.laneCleared
  dsimp only
  rw [State.setLane_rd, State.rd_wr_ne _ (cellLdly_ne l m).2.symm, State.rd_wr_ne _ (cellLstat_ne_cellLcfg l m).symm]
theorem State.laneCleared_lstat (s : State) (l : LaneN) : (s.laneCleared l).rd (cellLstat l) = 0 := by
  unfold State.laneCleared
  dsimp only
  rw [State.setLane_rd, State.rd_wr_ne _ (cellLdly_ne l l).1.symm, State.rd_wr_self, Nat.zero_mod]
theorem State.laneCleared_ldly (s : State) (l : LaneN) : (s.laneCleared l).rd (cellLdly l) = 0 := by
  unfold State.laneCleared
  dsimp only
  rw [State.setLane_rd, State.rd_wr_self, Nat.zero_mod]
theorem State.laneCleared_unlocked (s : State) (l : LaneN) : (s.laneCleared l).laneBlock l = false := by
  rw [State.laneBlock, State.bit, State.laneCleared_lstat]
  rfl
/-- Lane l in LOCKING, before the check for duplicate hubs. -/
theorem State.laneOn_locking (s : State) (l : LaneN) : s.laneOn l = ((s.laneCleared l).setLaneState l 1).dupHubs := by
  rw [State.laneOn_eq, State.startLocking_unlocked (s.laneCleared_unlocked l)]

section
variable (s : State) (l : LaneN)

theorem State.locking_canonical (canon : s.canonical = true) : ((s.laneCleared l).setLaneState l 1).canonical = true := by
  have cleared : Does 0x4000080 s (s.laneCleared l) := by
    refine Does.andThen Does.setLane (Does.wr (Does.wr (Does.setBit (Does.refl _ _) ?_) ?_) ?_) (by decide)
    · rw [pageBit_cellLcfg (by omega)]
      decide
    · rw [pageBit_cellLstat (by omega)]
      decide
    · rw [pageBit_cellLdly (by omega)]
      decide
  exact (State.setLaneState_does ..).canon (cleared.canon canon)
theorem State.locking_lcfg (m : LaneN) : ((s.laneCleared l).setLaneState l 1).rd (cellLcfg m) = (s.setBit (cellLcfg l) 31 true).rd (cellLcfg m) := by
  rw [State.setLaneState_rd (List.not_mem_of_not_mem_cons (cellLcfg_spare l m)), State.laneCleared_lcfg]
theorem State.locking_en : ((s.laneCleared l).setLaneState l 1).laneEn l = true := by
  rw [State.laneEn_congr (s.locking_lcfg l l)]
  exact State.bit_setBit_self s true (by decide)
theorem State.locking_hub (m : LaneN) : ((s.laneCleared l).setLaneState l 1).laneHub m = s.laneHub m := by
  rw [State.laneHub_congr (s.locking_lcfg l m)]
  by_cases e : m = l
  · rw [e]
    exact State.fld_setFld_ne s (Nat.le_refl 31) (by decide) (.inr (by decide)) (by decide)
  · exact State.laneHub_congr (State.rd_setBit_ne s (cellLcfg_ne e) _ _)
theorem State.locking_dupHub : ((s.laneCleared l).setLaneState l 1).DupHub l ↔ s.DupHub l := by
  refine exists_congr fun m => and_congr_right fun lower => ?_
  have other : m ≠ l := Fin.ne_of_lt lower
  rw [s.locking_hub l m, s.locking_hub l l, State.laneEn_congr ((s.locking_lcfg l m).trans (State.rd_setBit_ne s (cellLcfg_ne other) _ _))]
theorem State.locking_lstat : ((s.laneCleared l).setLaneState l 1).rd (cellLstat l) = 1 := by
  rw [State.setLaneState_lstat, State.laneCleared_lstat]
  decide
theorem State.locking_ldly : ((s.laneCleared l).setLaneState l 1).rd (cellLdly l) = 0 := by
  rw [State.setLaneState_rd (List.not_mem_of_not_mem_cons (cellLdly_spare l l)), State.laneCleared_ldly]
end

theorem exec_laneEnable_off (up : s.live .cell = true) (off : s.laneEn l = false) : exec (.laneEnable l) s = .next (s.laneOn l) :=
  if_pos (by rw [up, off]; rfl)
theorem exec_laneEnable_on (on : s.laneEn l = true) : exec (.laneEnable l) s = .next s := if_neg (by rw [on]; simp)
/-- LANE_ENABLE brings a lane to LOCKING, or to FAILED when a lower lane has its hub. -/
theorem exec_laneEnable_brings (up : s.live .cell = true) (off : s.laneEn l = false) (canon : s.canonical = true) : ∃ t,
    exec (.laneEnable l) s = .next t ∧ t.laneEn l = true ∧ t.rd (cellLdly l) = 0 ∧ (¬ s.DupHub l → t.rd (cellLstat l) = 1) ∧
    (s.DupHub l → t.FailedDup l) ∧ Frame [.probs, .lanes, .notices] (pagesOf [cellBase]) s t := by
  have canon' := s.locking_canonical l canon
  have run := exec_laneEnable_off up off
  refine ⟨_, run, ?_, ?_, fun none_ => ?_, fun dup => ?_, Frame.out (execLaneEnable_does l s) run (by decide) (by decide)⟩ <;> rw [State.laneOn_locking]
  · rw [State.laneEn_congr (State.dupHubs_rd canon' fun m _ => cellLcfg_spare m l), State.locking_en]
  · rw [State.dupHubs_rd canon' fun m _ => cellLdly_spare m l, State.locking_ldly]
  · rw [State.dupHubs_lstat canon' (mt (s.locking_dupHub l).1 none_), State.locking_lstat]
  · refine State.dupHubs_fails canon' (s.locking_en l) ?_ ((s.locking_dupHub l).2 dup)
    rw [State.setLaneState_state _ l (by decide)]
    decide

/-- A lane that goes off: the end of its loss and the reports that waited for it touch no register. -/
theorem State.laneOff_rd (s : State) (l : LaneN) (a : Nat) :
    (s.laneOff l).rd a = (((s.setBit (cellLcfg l) 31 false).setLaneState l 0).setBit (cellLstat l) 3 false).rd a :=
  ((State.reportsDue_does _).rd_kept (by decide) a).trans ((State.laneBack_does _ l).rd_kept (by decide) a)
theorem State.laneOff_lanes (s : State) (l : LaneN) : (s.laneOff l).lanes = ((s.setBit (cellLcfg l) 31 false).setLaneState l 0).lanes :=
  ((State.reportsDue_does _).part .lanes rfl).trans ((State.laneBack_does _ l).part .lanes rfl)
theorem exec_laneDisable_off (off : s.laneEn l = false) : exec (.laneDisable l) s = .next s := if_neg (by rw [off]; simp)
/-- LANE_DISABLE takes a lane to OFF. -/
theorem exec_laneDisable_stops (up : s.live .cell = true) (on : s.laneEn l = true) : ∃ t, exec (.laneDisable l) s = .next t ∧ t.laneEn l = false ∧
    t.laneState l = 0 ∧ t.laneBlock l = false ∧ t.lane l = (s.lane l).emptied ∧ State.LaneAlone l s t ∧
    Frame [.probs, .lanes, .saf, .notices] (pagesOf [cellBase]) s t := by
  have run : exec (.laneDisable l) s = .next (s.laneOff l) := if_pos (by rw [up, on]; rfl)
  refine ⟨_, run, ?_, ?_, ?_, ?_, ?_, Frame.out (execLaneDisable_does l s) run (by decide) (by decide)⟩
  · rw [State.laneEn_congr (s.laneOff_rd l _), State.laneEn, State.bit, State.rd_setBit_ne _ (cellLstat_ne_cellLcfg l l).symm,
      State.setLaneState_rd (List.not_mem_of_not_mem_cons (cellLcfg_spare l l))]
    exact State.bit_setBit_self s false (by decide)
  · rw [State.laneState_congr (s.laneOff_rd l _), State.laneState_setBit _ l (by decide) (by decide), State.setLaneState_state _ l (by decide)]
  · rw [State.laneBlock_congr (s.laneOff_rd l _), State.laneBlock, State.bit_setBit_self _ false (by decide)]
  · rw [State.lane_of_lanes (s.laneOff_lanes l), State.setLaneState_shut (by decide), State.setBit_lane]
  · have alone := (s.setBit (cellLcfg l) 31 false).setLaneState_alone l 0
    exact fun m e => by rw [State.lane_of_lanes (s.laneOff_lanes l), alone m e, State.setBit_lane]

end Sys2Proof.Machine
end

section
/-!
PROOFS of O16, block lock of a lane and the loss of one (R196, R218, R219).
-/
namespace Sys2Proof.Machine

variable {s t u : State} {l m : LaneN} {a : Nat}

/-! ## Block lock (R196, R202) -/

/-- Lane l shows block lock or its absence. -/
def State.showBlock (s : State) (l : LaneN) (b : Bool) : State := s.setBit (cellLstat l) 3 b
theorem State.showBlock_state (s : State) (l : LaneN) (b : Bool) : (s.showBlock l b).laneState l = s.laneState l :=
  State.laneState_setBit s l (by decide) (by decide) b
theorem State.showBlock_block (s : State) (l : LaneN) (b : Bool) : (s.showBlock l b).laneBlock l = b := State.bit_setBit_self s b (by decide)
theorem State.showBlock_rd (ne : a ≠ cellLstat l) (s : State) (b : Bool) : (s.showBlock l b).rd a = s.rd a := State.rd_setBit_ne s ne 3 b
theorem State.showBlock_lanes (s : State) (l : LaneN) (b : Bool) : (s.showBlock l b).lanes = s.lanes := rfl
theorem State.showBlock_lane (s : State) (l : LaneN) (b : Bool) (m : LaneN) : (s.showBlock l b).lane m = s.lane m := rfl
theorem State.showBlock_alone (s : State) (l : LaneN) (b : Bool) : State.LaneAlone l s (s.showBlock l b) := .of_lanes rfl

theorem exec_blockLock_off (off : s.laneEn l = false) :
    exec (.blockLockAcquired (.cell l)) s = .next s ∧ exec (.blockLockLost (.cell l)) s = .next s :=
  ⟨congrArg _ (if_neg (by rw [off]; simp)), congrArg _ (if_neg (by rw [off]; simp))⟩

theorem State.laneLocked_on (up : s.live .cell = true) (on : s.laneEn l = true) :
    s.laneLocked l = if s.laneState l = 1 then (s.showBlock l true).startDelay l 1 else s.showBlock l true := by
  unfold State.laneLocked
  rw [if_pos (by rw [up, on]; rfl), ← State.showBlock_state s l true]
  rfl
/-- Block lock takes a lane in LOCKING to DELAY, and elsewhere only shows. -/
theorem exec_blockLockAcquired_on (up : s.live .cell = true) (on : s.laneEn l = true) : ∃ t, exec (.blockLockAcquired (.cell l)) s = .next t ∧
    t.laneBlock l = true ∧ (s.laneState l = 1 → t.laneState l = 2 ∧ t.lane l = { (s.lane l).emptied with echoes := [], attempts := 1 }) ∧
    (s.laneState l ≠ 1 → t.laneState l = s.laneState l ∧ t.lanes = s.lanes) ∧ State.LaneAlone l s t ∧ Frame [.lanes] (pagesOf [cellBase]) s t := by
  refine ⟨_, rfl, ?_⟩
  have frame : Frame [.lanes] (pagesOf [cellBase]) s (s.laneLocked l) := Frame.doesPages (State.laneLocked_does s l) (.refl ..) (by decide) (by decide)
  by_cases locking : s.laneState l = 1
  · have is : s.laneLocked l = (s.showBlock l true).startDelay l 1 := (State.laneLocked_on up on).trans (if_pos locking)
    rw [is] at frame ⊢
    refine ⟨?_, fun _ => ⟨State.startDelay_state .., ?_⟩, fun n => absurd locking n, ?_, frame⟩
    · rw [State.laneBlock_congr (State.startDelay_rd ..), State.setLaneState_block, State.showBlock_block]
    · rw [State.startDelay_lane, State.showBlock_lane]
    · exact (s.showBlock_alone l true).trans ((s.showBlock l true).startDelay_alone l 1)
  · have is : s.laneLocked l = s.showBlock l true := (State.laneLocked_on up on).trans (if_neg locking)
    rw [is] at frame ⊢
    exact ⟨s.showBlock_block l true, fun e => absurd e locking, fun _ => ⟨s.showBlock_state l true, s.showBlock_lanes l true⟩,
      s.showBlock_alone l true, frame⟩

/-! ## A lane in UP is lost (R218, R219) -/

/-- The loss recorded in the registers of the lanes. -/
def State.lossShown (s : State) (l : LaneN) : State := ((s.laneBit cellLlostLo cellLlostHi l true).setBit cellStatus 0 true).setLaneState l 5
/-- The loss told to the events, the capture and, unless masked, the island. -/
def State.lossTold (s : State) (l : LaneN) : State :=
  let v := ((s.setLane l { s.lane l with silent := 0 }).fire 0x0D).capTrig 5
  if v.bit safCfg 27 then v
  else State.holdCause { v with saf := { v.saf with lanesLost := l :: v.saf.lanesLost.filter fun x => x != l } } 7 0 l
/-- With AUTO 1 bring-up begins again. -/
def State.lossRetried (s : State) (l : LaneN) : State := if s.bit (cellLcfg l) 30 then s.startLocking l else s
theorem State.laneLost_eq (s : State) (l : LaneN) : s.laneLost l = (((s.lossShown l).lossTold l).lossRetried l).reportsDue := rfl

/-- A cause latched and recorded (R266). -/
def State.causeShown (s : State) (cause slot unit : Nat) : State :=
  let s := s.orReg safCause (2 ^ cause)
  let s := s.wr safLastflt (0x80000000 + slot * 2 ^ 24 + unit * 2 ^ 16 + cause)
  s.wr safFltpcnt (s.saf.pcnt.getD 0)
/-- A cause logged, with no release pending and no test running (R289). -/
def State.causeLogged (s : State) (cause slot unit : Nat) : State :=
  let s := s.causeShown cause slot unit
  let s := s.setSaf { s.saf with relPending := false, test := none }
  s.evLog 5 cause slot
/-- What the hand-over to the peer sets (R284). -/
def State.handOverSet (s : State) (cause : Nat) : State :=
  let s := (s.setBit safStatus 28 true)
  { s with saf := { s.saf with pairWait := some cause }, cell := { s.cell with stopFrames := true } }
/-- The hand-over to the peer begins (R284). -/
def State.handOver (s : State) (cause : Nat) : State :=
  let s := s.handOverSet cause
  let s := s.stopWaiting.peerSend true 0x12 (toLE 4 (s.rd perCount) ++ toLE 1 cause ++ toLE 3 0)
  s.setBit cellRole 0 false
theorem State.raiseCause_eq (s : State) (cause slot unit : Nat) : s.raiseCause cause slot unit =
    if s.saf.islandFault then s else
    let v := s.causeLogged cause slot unit
    if v.safe || v.saf.pairWait.isSome && pairedCauses.contains cause then v
    else if v.bit safCfg 31 && v.role && pairedCauses.contains cause then v.handOver cause
    else v.enterSafe := rfl

section
variable (page : pageBit a = 26)
include page

theorem ne_of_pageBit {b : Nat} (other : pageBit b ≠ 26) : a ≠ b := fun e => other (e ▸ page)
theorem Does.cell_rd {f : Nat} (d : Does f s t) (out : f.testBit 26 = false) : t.rd a = s.rd a := d.reg a (by rw [page]; exact out)
theorem State.wr_cell_rd {b : Nat} (other : pageBit b ≠ 26) (s : State) (v : Nat) : (s.wr b v).rd a = s.rd a :=
  State.rd_wr_ne s (ne_of_pageBit page other) v
theorem State.causeShown_cell (s : State) (cause slot unit : Nat) : (s.causeShown cause slot unit).rd a = s.rd a := by
  unfold State.causeShown State.orReg
  rw [State.wr_cell_rd page (by decide), State.wr_cell_rd page (by decide), State.wr_cell_rd page (by decide)]
theorem State.causeLogged_cell (s : State) (cause slot unit : Nat) : (s.causeLogged cause slot unit).rd a = s.rd a := by
  unfold State.causeLogged
  dsimp only
  rw [(State.evLog_does ..).cell_rd page (by decide), State.setSaf_rd, State.causeShown_cell page]
theorem State.handOver_cell (other : a ≠ cellRole) (s : State) (cause : Nat) : (s.handOver cause).rd a = s.rd a := by
  have set_ : (s.handOverSet cause).rd a = s.rd a := by
    unfold State.handOverSet
    dsimp only
    rw [Does.upd_cell_saf.cell_rd page (by decide), State.rd_setBit_ne _ (ne_of_pageBit page (by decide))]
  unfold State.handOver
  dsimp only
  rw [State.rd_setBit_ne _ other, (State.peerSend_does ..).cell_rd page (by decide), (State.stopWaiting_does _).cell_rd page (by decide), set_]
/-- Of the CELL page a cause writes CELL_ROLE alone (R284). -/
theorem State.raiseCause_cell (other : a ≠ cellRole) (s : State) (cause slot unit : Nat) : (s.raiseCause cause slot unit).rd a = s.rd a := by
  have logged := s.causeLogged_cell page cause slot unit
  rw [State.raiseCause_eq]
  dsimp only
  split
  · rfl
  split
  · exact logged
  split
  · exact (State.handOver_cell page other _ cause).trans logged
  · exact ((State.enterSafe_does _).cell_rd page (by decide)).trans logged
theorem State.lossTold_cell (other : a ≠ cellRole) (s : State) (l : LaneN) : (s.lossTold l).rd a = s.rd a := by
  have captured : (((s.setLane l { s.lane l with silent := 0 }).fire 0x0D).capTrig 5).rd a = s.rd a := by
    rw [(State.capTrig_does _ _).cell_rd page (by decide), (State.fire_does _ _).cell_rd page (by decide), State.setLane_rd]
  unfold State.lossTold
  dsimp only
  split
  · exact captured
  · exact (State.raiseCause_cell page other _ 7 0 l).trans captured
end

theorem pageBit_laneRegs (l : LaneN) : pageBit (cellLstat l) = 26 ∧ pageBit (cellLcfg l) = 26 :=
  ⟨pageBit_cellLstat (by omega), pageBit_cellLcfg (by omega)⟩
theorem laneRegs_ne_cellRole (l : LaneN) : cellLstat l ≠ cellRole ∧ cellLcfg l ≠ cellRole := by
  unfold cellLstat cellLcfg cellRole
  omega
theorem State.lossTold_lstat (s : State) (l : LaneN) : (s.lossTold l).rd (cellLstat l) = s.rd (cellLstat l) :=
  State.lossTold_cell (pageBit_laneRegs l).1 (laneRegs_ne_cellRole l).1 s l
theorem State.lossShown_lcfg (s : State) (l : LaneN) : (s.lossShown l).rd (cellLcfg l) = s.rd (cellLcfg l) := by
  have low : cellLlostHi < cellLcfg l := by
    unfold cellLlostHi cellLcfg
    omega
  unfold State.lossShown
  rw [State.setLaneState_rd (List.not_mem_of_not_mem_cons (cellLcfg_spare l l)), State.rd_setBit_ne _ (Nat.ne_of_gt (Nat.lt_trans (by decide) low)),
    State.laneBit_rd (Nat.ne_of_gt (Nat.lt_trans (by decide) low)) (Nat.ne_of_gt low)]
theorem State.lossShown_block (s : State) (l : LaneN) : (s.lossShown l).laneBlock l = s.laneBlock l := by
  have above := cellLstat_above l
  have shown : ((s.laneBit cellLlostLo cellLlostHi l true).setBit cellStatus 0 true).rd (cellLstat l) = s.rd (cellLstat l) := by
    rw [State.rd_setBit_ne _ (cellLstat_ne_cellStatus l), State.laneBit_rd (Nat.ne_of_gt (Nat.lt_trans (by decide) above))
      (Nat.ne_of_gt (Nat.lt_trans (by decide) above))]
  exact (State.setLaneState_block _ l 5).trans (State.laneBlock_congr shown)
theorem State.lossTold_lcfg (s : State) (l : LaneN) : ((s.lossShown l).lossTold l).rd (cellLcfg l) = s.rd (cellLcfg l) :=
  (State.lossTold_cell (pageBit_laneRegs l).2 (laneRegs_ne_cellRole l).2 _ l).trans (s.lossShown_lcfg l)

/-- A lost lane without block lock: bring-up begins again with AUTO 1. -/
theorem State.lossRetried_unlocked (none_ : s.laneBlock l = false) :
    s.lossRetried l = if s.bit (cellLcfg l) 30 then s.setLaneState l 1 else s := by
  unfold State.lossRetried
  rw [State.startLocking_unlocked none_]
theorem State.lossRetried_rd (none_ : s.laneBlock l = false) (out : a ∉ laneRegs l) : (s.lossRetried l).rd a = s.rd a := by
  rw [State.lossRetried_unlocked none_]
  split
  · exact State.setLaneState_rd out s 1
  · rfl
/-- The loss of a lane without block lock. -/
theorem State.laneLost_unlocked (none_ : s.laneBlock l = false) : (s.laneLost l).laneBlock l = false ∧
    (s.laneLost l).laneState l = (if s.bit (cellLcfg l) 30 then 1 else 5) ∧ (s.laneLost l).bit cellStatus 0 = true ∧
    (s.laneLost l).laneBitOf cellLlostLo cellLlostHi l = true := by
  have told : ((s.lossShown l).lossTold l).laneBlock l = false := by
    rw [State.laneBlock_congr (State.lossTold_lstat ..), State.lossShown_block, none_]
  have auto_ : ((s.lossShown l).lossTold l).bit (cellLcfg l) 30 = s.bit (cellLcfg l) 30 := State.bit_congr (s.lossTold_lcfg l) 30
  have due (a : Nat) : (s.laneLost l).rd a = (((s.lossShown l).lossTold l).lossRetried l).rd a := by
    rw [State.laneLost_eq]
    exact (State.reportsDue_does _).rd_kept (by decide) a
  have kept (a : Nat) (page : pageBit a = 26) (other : a ≠ cellRole) (out : a ∉ laneRegs l) :
      (s.laneLost l).rd a = ((s.laneBit cellLlostLo cellLlostHi l true).setBit cellStatus 0 true).rd a := by
    rw [due, State.lossRetried_rd told out, State.lossTold_cell page other]
    exact State.setLaneState_rd out _ 5
  have above := cellLstat_above l
  have spare (a : Nat) (low : a ≤ cellUprxHi) (outside : a < cellLupLo ∨ cellLupHi < a) : a ∉ laneRegs l := by
    simp only [laneRegs, List.mem_cons, List.not_mem_nil, or_false, not_or]
    unfold cellLupLo cellLupHi cellUprxHi at *
    omega
  refine ⟨?_, ?_, ?_, ?_⟩
  · rw [State.laneBlock_congr (due _), State.lossRetried_unlocked told]
    split
    · rw [State.setLaneState_block, told]
    · exact told
  · rw [State.laneState_congr (due _), State.lossRetried_unlocked told, auto_]
    split
    · exact State.setLaneState_state _ l (by decide)
    · rw [State.laneState_congr (State.lossTold_lstat ..)]
      exact State.setLaneState_state _ l (by decide)
  · rw [State.bit_congr (kept cellStatus (by decide) (by decide) (spare _ (by decide) (by decide)))]
    exact State.bit_setBit_self _ true (by decide)
  · rw [State.laneBitOf_congr (kept cellLlostLo (by decide) (by decide) (spare _ (by decide) (by decide)))
        (kept cellLlostHi (by decide) (by decide) (spare _ (by decide) (by decide))),
      State.laneBitOf_congr (State.rd_setBit_ne _ (by decide) _ _) (State.rd_setBit_ne _ (by decide) _ _), State.laneBitOf_laneBit]

/-! ## Block lock is lost -/

theorem State.laneUnlocked_on (up : s.live .cell = true) (on : s.laneEn l = true) : s.laneUnlocked l =
    if s.laneState l = 4 then (s.showBlock l false).laneLost l
    else if s.laneState l = 2 ∨ s.laneState l = 3 then (s.showBlock l false).setLaneState l 1 else s.showBlock l false := by
  unfold State.laneUnlocked
  rw [if_pos (by rw [up, on]; rfl), ← State.showBlock_state s l false, ← State.startLocking_unlocked (s.showBlock_block l false)]
  rfl
/-- A lane in DELAY or CONFIG locks again, one in UP is lost, and elsewhere the lock alone goes. -/
theorem exec_blockLockLost_on (up : s.live .cell = true) (on : s.laneEn l = true) : ∃ t, exec (.blockLockLost (.cell l)) s = .next t ∧
    t.laneBlock l = false ∧
    (s.laneState l = 2 ∨ s.laneState l = 3 → t.laneState l = 1 ∧ State.LaneAlone l s t ∧ Frame [.lanes] (pagesOf [cellBase]) s t) ∧
    (s.laneState l = 4 → t.bit cellStatus 0 = true ∧ t.laneBitOf cellLlostLo cellLlostHi l = true ∧
      t.laneState l = (if s.bit (cellLcfg l) 30 then 1 else 5) ∧
      Frame [.mem, .probs, .cell, .lanes, .cap, .saf, .chain, .pins, .notices, .freeCtr] (pagesOf [cellBase, capBase, nvrBase, safBase]) s t) ∧
    (s.laneState l ∉ [2, 3, 4] → t.laneState l = s.laneState l ∧ Frame [] (regsOf [cellLstat l]) s t) := by
  have is := State.laneUnlocked_on up on
  have frame : Frame [.mem, .probs, .cell, .lanes, .cap, .saf, .chain, .pins, .notices, .freeCtr] (pagesOf [cellBase, capBase, nvrBase, safBase]) s
      (s.laneUnlocked l) := Frame.doesPages (State.laneUnlocked_does s l) (.refl ..) (by decide) (by decide)
  have block := s.showBlock_block l false
  refine ⟨_, rfl, ?_⟩
  by_cases inUp : s.laneState l = 4
  · obtain ⟨none_, state, status, lost⟩ := State.laneLost_unlocked block
    rw [State.bit_congr (State.showBlock_rd (cellLstat_ne_cellLcfg l l).symm s false)] at state
    rw [if_pos inUp] at is
    rw [is] at frame ⊢
    exact ⟨none_, fun e => absurd inUp (by omega), fun _ => ⟨status, lost, state, frame⟩, fun out => absurd inUp fun e => out (by rw [e]; decide)⟩
  rw [if_neg inUp] at is
  by_cases again : s.laneState l = 2 ∨ s.laneState l = 3
  · rw [if_pos again] at is
    rw [is]
    refine ⟨by rw [State.setLaneState_block, block], fun _ => ⟨State.setLaneState_state _ l (by decide), ?_, ?_⟩, fun e => absurd e inUp, fun out => ?_⟩
    · exact (s.showBlock_alone l false).trans ((s.showBlock l false).setLaneState_alone l 1)
    · refine Frame.doesPages (State.setLaneState_does (s.showBlock l false) l 1) (Frame.setBit (.refl ..) ?_) (by decide) (by decide)
      exact ⟨cellBase, List.mem_singleton.2 rfl, by unfold cellLstat; omega, by unfold cellLstat; omega⟩
    · simp only [List.mem_cons, List.not_mem_nil, or_false, not_or] at out
      exact absurd again (by omega)
  · rw [if_neg again] at is
    rw [is]
    exact ⟨block, fun e => absurd e again, fun e => absurd e inUp,
      fun _ => ⟨s.showBlock_state l false, Frame.setBit (.refl ..) (List.mem_singleton.2 rfl)⟩⟩

end Sys2Proof.Machine
end

section
/-!
PROOFS of O16, what a lane's control blocks and time-outs bring: DECHO, ACK and ACK_TIMEOUT (R202, R216, R223).
-/
namespace Sys2Proof.Machine

variable {s t u : State} {l m : LaneN} {a : Nat}

/-! ## DECHO (R202) -/

/-- The lane with one more echo counted, the next DREQ carrying the next token. -/
def Lane.echoed (k : Lane) (e : Nat) : Lane := { k with echoes := k.echoes ++ [e], token := (k.token + 1) % 256 }
/-- CONFIG begins with a measured delay and one HPAR frame. -/
def State.startConfig (s : State) (l : LaneN) (d : Nat) : State :=
  let s := (s.wr (cellLdly l) (2 ^ 31 + d)).setLaneState l 3
  (s.setLane l { s.lane l with hparSent := 0 }).sendHpar l
/-- A measurement of eight echoes is over. -/
def State.delayMeasured (s : State) (l : LaneN) (es : List Nat) (attempts : Nat) : State :=
  match dlyOf es with
  | some d => if d > 100000 then s.laneFail l 1 else s.startConfig l d
  | none => if attempts < 4 then s.startDelay l (attempts + 1) else s.laneFail l 1

theorem dlyOf_near {es : List Nat} (near : maxN es - minN es ≤ 4) : dlyOf es = some (minN es) := if_pos near
theorem dlyOf_wide {es : List Nat} (wide : 4 < maxN es - minN es) : dlyOf es = none := if_neg (Nat.not_le.2 wide)

section
variable {es : List Nat} {attempts : Nat}

theorem State.delayMeasured_config (near : maxN es - minN es ≤ 4) (short : minN es ≤ 100000) :
    s.delayMeasured l es attempts = s.startConfig l (minN es) := by
  unfold State.delayMeasured
  rw [dlyOf_near near]
  exact if_neg (Nat.not_lt.2 short)
theorem State.delayMeasured_far (near : maxN es - minN es ≤ 4) (far : 100000 < minN es) : s.delayMeasured l es attempts = s.laneFail l 1 := by
  unfold State.delayMeasured
  rw [dlyOf_near near]
  exact if_pos far
theorem State.delayMeasured_again (wide : 4 < maxN es - minN es) (left : attempts < 4) : s.delayMeasured l es attempts = s.startDelay l (attempts + 1) := by
  unfold State.delayMeasured
  rw [dlyOf_wide wide]
  exact if_pos left
theorem State.delayMeasured_out (wide : 4 < maxN es - minN es) (last : 4 ≤ attempts) : s.delayMeasured l es attempts = s.laneFail l 1 := by
  unfold State.delayMeasured
  rw [dlyOf_wide wide]
  exact if_neg (Nat.not_lt.2 last)
end

/-- The lane as CONFIG begins: what waits in it stays, and an HPAR frame joins it. -/
theorem State.startConfig_lane (s : State) (l : LaneN) (d : Nat) : ∃ f, (s.startConfig l d).lane l =
    { s.lane l with queue := (s.lane l).queue ++ [f], hparSent := 1, hparMark := none } ∧ f.kind = 0x21 ∧ f.rtx = 0 ∧ f.hub = s.laneHub l := by
  have wrote : ((s.wr (cellLdly l) (2 ^ 31 + d)).setLaneState l 3).lane l = s.lane l :=
    (State.lane_of_lanes (State.setLaneState_open (.inl rfl) _ l) l).trans (State.wr_lane ..)
  have hub : ((s.wr (cellLdly l) (2 ^ 31 + d)).setLaneState l 3).laneHub l = s.laneHub l := by
    rw [State.laneHub_congr (State.setLaneState_rd (List.not_mem_of_not_mem_cons (cellLcfg_spare l l)) _ 3)]
    exact State.laneHub_congr (State.rd_wr_ne s (cellLdly_ne l l).2.symm _)
  unfold State.startConfig
  dsimp only
  rw [State.sendHpar_lane, State.lane_setLane_self, wrote]
  exact ⟨_, rfl, rfl, rfl, hub⟩
theorem State.startConfig_configures (s : State) (l : LaneN) (d : Nat) : (s.startConfig l d).Configures l (s.laneHub l) (s.lane l).queue 1 := by
  obtain ⟨f, lane, kind, rtx, hub⟩ := s.startConfig_lane l d
  refine ⟨State.setLaneState_state _ l (by decide), ?_, f, ?_, kind, rtx, hub⟩ <;> rw [lane]
theorem State.startConfig_ldly (s : State) (l : LaneN) {d : Nat} (small : d ≤ 100000) : (s.startConfig l d).rd (cellLdly l) = 2 ^ 31 + d := by
  have shown : ((s.wr (cellLdly l) (2 ^ 31 + d)).setLaneState l 3).rd (cellLdly l) = (2 ^ 31 + d) % 2 ^ 32 :=
    (State.setLaneState_rd (List.not_mem_of_not_mem_cons (cellLdly_spare l l)) _ 3).trans (State.rd_wr_self ..)
  exact shown.trans (Nat.mod_eq_of_lt (by omega))
theorem State.startConfig_alone (s : State) (l : LaneN) (d : Nat) : State.LaneAlone l s (s.startConfig l d) := by
  have opened : State.LaneAlone l (s.wr (cellLdly l) (2 ^ 31 + d)) ((s.wr (cellLdly l) (2 ^ 31 + d)).setLaneState l 3) :=
    (s.wr (cellLdly l) (2 ^ 31 + d)).setLaneState_alone l 3
  exact fun m e => ((State.sendHpar_alone _ l).trans (fun _ _ => rfl) m e).trans ((State.lane_setLane_ne _ e _).trans (opened m e))

/-- Whatever a measurement ends in, the other lanes stay, and the token of the lane. -/
theorem State.delayMeasured_keeps (s : State) (l : LaneN) (es : List Nat) (attempts : Nat) :
    State.LaneAlone l s (s.delayMeasured l es attempts) ∧ ((s.delayMeasured l es attempts).lane l).token = (s.lane l).token := by
  have failed : State.LaneAlone l s (s.laneFail l 1) ∧ ((s.laneFail l 1).lane l).token = (s.lane l).token :=
    ⟨s.laneFail_alone l 1, by rw [State.laneFail_lane]; rfl⟩
  unfold State.delayMeasured
  split
  · split
    · exact failed
    · obtain ⟨f, lane, -⟩ := s.startConfig_lane l _
      exact ⟨s.startConfig_alone l _, by rw [lane]⟩
  · split
    · exact ⟨s.startDelay_alone l _, by rw [State.startDelay_lane]; rfl⟩
    · exact failed

section
variable {token : Byte} {turn : BitVec 16} {rtt : Nat}

theorem execDecho_eq (s : State) (l : LaneN) (typ token : Byte) (turn : BitVec 16) (rtt : Nat) : execDecho l typ token turn rtt s =
    if !s.laneRx l then .next s else if typ ≠ 0x55 then .next (s.badBlock l typ.toNat) else
    if s.laneState l ≠ 2 ∨ token.toNat ≠ (s.lane l).token then .next s else
    let u := s.setLane l ((s.lane l).echoed ((rtt - turn.toNat) / 2))
    let es := (s.lane l).echoes ++ [(rtt - turn.toNat) / 2]
    if es.length < 8 then .next u else
    match dlyOf es with
    | some d => if d > 100000 then .next (u.laneFail l 1) else .next (u.startConfig l d)
    | none => if (s.lane l).attempts < 4 then .next (u.startDelay l ((s.lane l).attempts + 1)) else .next (u.laneFail l 1) := rfl
theorem exec_decho_ignored (rx : s.laneRx l = true) (other : s.laneState l ≠ 2 ∨ token.toNat ≠ (s.lane l).token) :
    exec (.decho l 0x55 token turn rtt) s = .next s := by
  rw [exec_decho, execDecho_eq, rx]
  exact if_pos other
section
variable (rx : s.laneRx l = true) (delay : s.laneState l = 2) (asked : token.toNat = (s.lane l).token)
include rx delay asked

theorem execDecho_answered : execDecho l 0x55 token turn rtt s =
    let u := s.setLane l ((s.lane l).echoed ((rtt - turn.toNat) / 2))
    let es := (s.lane l).echoes ++ [(rtt - turn.toNat) / 2]
    if es.length < 8 then .next u else .next (u.delayMeasured l es (s.lane l).attempts) := by
  have answers : ¬ (s.laneState l ≠ 2 ∨ token.toNat ≠ (s.lane l).token) := by
    rw [delay, asked]
    simp
  rw [execDecho_eq, rx, if_neg (by decide : ¬ (!true) = true), if_neg (by decide : ¬ (0x55 : Byte) ≠ 0x55), if_neg answers]
  unfold State.delayMeasured
  dsimp only
  cases dlyOf ((s.lane l).echoes ++ [(rtt - turn.toNat) / 2]) with
  | some d => exact if_congr Iff.rfl rfl (apply_ite _ _ _ _).symm
  | none => exact if_congr Iff.rfl rfl (apply_ite _ _ _ _).symm
theorem exec_decho_counts (few : ((s.lane l).echoes ++ [(rtt - turn.toNat) / 2]).length < 8) :
    exec (.decho l 0x55 token turn rtt) s = .next (s.setLane l ((s.lane l).echoed ((rtt - turn.toNat) / 2))) := by
  rw [exec_decho, execDecho_answered rx delay asked]
  exact if_pos few
theorem exec_decho_measures (all : 8 ≤ ((s.lane l).echoes ++ [(rtt - turn.toNat) / 2]).length) : exec (.decho l 0x55 token turn rtt) s =
    .next ((s.setLane l ((s.lane l).echoed ((rtt - turn.toNat) / 2))).delayMeasured l ((s.lane l).echoes ++ [(rtt - turn.toNat) / 2]) (s.lane l).attempts) := by
  rw [exec_decho, execDecho_answered rx delay asked]
  exact if_neg (Nat.not_lt.2 all)
end
/-- A block of a type outside R197 is counted. -/
theorem exec_decho_unknown {typ : Byte} (rx : s.laneRx l = true) (unknown : knownBlock typ.toNat = false) :
    exec (.decho l typ token turn rtt) s = .next (s.count (cellLerr l) 15 0) := by
  have other : typ ≠ 0x55 := by
    rintro rfl
    exact absurd unknown (by decide)
  rw [exec_decho, execDecho_eq, rx]
  refine (if_pos other).trans ?_
  rw [State.badBlock, unknown]
  rfl
end

/-- A count field after an event: one more, up to its greatest value. -/
theorem State.fld_count (s : State) (a : Nat) {hi lo : Nat} (order : lo ≤ hi) (within : hi < 32) :
    (s.count a hi lo).fld a hi lo = Nat.min (s.fld a hi lo + 1) (2 ^ (hi - lo + 1) - 1) := by
  have pos : 0 < 2 ^ (hi - lo + 1) := by positivity
  exact (State.fld_setFld_self s order within).trans (Nat.mod_eq_of_lt (Nat.lt_of_le_of_lt (Nat.min_le_right ..) (by omega)))

/-! ## ACK (R202, R216, R223) -/

/-- The frame that SEQ names: one that waits for its ACK, or to be sent again. -/
def Lane.named (k : Lane) (seq : Nat) : Option DFrame := (k.await ++ k.queue.filter fun f => f.rtx != 0).find? fun f => f.seq == seq
/-- The lane once every frame with a SEQ has left it. -/
def Lane.acked (k : Lane) (seq : Nat) : Lane :=
  { k with await := k.await.filter (fun g => g.seq != seq), queue := k.queue.filter fun g => g.rtx == 0 || g.seq != seq }
/-- HUBLATE is set by result 1. -/
def State.showLate (s : State) (result : Byte) : State := if result = 1 then s.setBit cellStatus 5 true else s
/-- In CONFIG the result of an HPAR frame decides how bring-up goes on. -/
def State.hparAcked (s : State) (l : LaneN) (result : Byte) : State :=
  if result = 0 then s.setLane l { s.lane l with hparMark := some 0 }
  else if (s.lane l).hparSent < 4 then s.sendHpar l else s.laneFail l 3

theorem State.showLate_lanes (s : State) (result : Byte) : (s.showLate result).lanes = s.lanes := by
  unfold State.showLate
  split <;> rfl
theorem State.showLate_rd (ne : a ≠ cellStatus) (s : State) (result : Byte) : (s.showLate result).rd a = s.rd a := by
  unfold State.showLate
  split
  · exact State.rd_setBit_ne s ne _ _
  · rfl
theorem State.showLate_bit (s : State) (result : Byte) : (s.showLate result).bit cellStatus 5 = (decide (result = 1) || s.bit cellStatus 5) := by
  unfold State.showLate
  by_cases late : result = 1
  · rw [if_pos late, State.bit_setBit_self s true (by decide), decide_eq_true late, Bool.true_or]
  · rw [if_neg late, decide_eq_false late, Bool.false_or]
theorem State.showLate_state (s : State) (l : LaneN) (result : Byte) : (s.showLate result).laneState l = s.laneState l :=
  State.laneState_congr (State.showLate_rd (cellLstat_ne_cellStatus l) s result)
theorem State.showLate_hub (s : State) (l : LaneN) (result : Byte) : (s.showLate result).laneHub l = s.laneHub l :=
  State.laneHub_congr (State.showLate_rd (fun e => cellLcfg_spare l l (e ▸ List.mem_cons_self)) s result)
theorem State.hparAcked_status (s : State) (l : LaneN) (result : Byte) : (s.hparAcked l result).rd cellStatus = s.rd cellStatus := by
  unfold State.hparAcked
  split
  · rfl
  split
  · rfl
  · exact State.laneFail_status (by decide) s l
theorem State.hparAcked_alone (s : State) (l : LaneN) (result : Byte) : State.LaneAlone l s (s.hparAcked l result) := by
  unfold State.hparAcked
  split
  · exact fun _ e => State.lane_setLane_ne s e _
  split
  · exact s.sendHpar_alone l
  · exact s.laneFail_alone l 3

section
variable {seq : Byte} {hub : HubN} {result : Byte} {f : DFrame}

/-- The state in which an ACK has taken its frames from the lane. -/
def State.taken (s : State) (l : LaneN) (seq result : Byte) : State := (s.showLate result).setLane l ((s.lane l).acked seq.toNat)

theorem execAck_eq (s : State) (l : LaneN) (typ seq : Byte) (hub : HubN) (result : Byte) : execAck l typ seq hub result s =
    if !s.laneRx l then .next s else if typ ≠ 0x2D then .next (s.badBlock l typ.toNat) else
    match ((s.showLate result).lane l).named seq.toNat with
    | none => .next (s.showLate result)
    | some f =>
      let u := (s.showLate result).setLane l (((s.showLate result).lane l).acked seq.toNat)
      if f.kind = 0x21 ∧ u.laneState l = 3 then
        if result = 0 then .next (u.setLane l { u.lane l with hparMark := some 0 })
        else if (u.lane l).hparSent < 4 then .next (u.sendHpar l) else .next (u.laneFail l 3)
      else .next u := rfl
section
variable (rx : s.laneRx l = true)
include rx

theorem execAck_received : execAck l 0x2D seq hub result s =
    match (s.lane l).named seq.toNat with
    | none => .next (s.showLate result)
    | some f => .next (if f.kind = 0x21 ∧ s.laneState l = 3 then (s.taken l seq result).hparAcked l result else s.taken l seq result) := by
  have state : ((s.showLate result).setLane l ((s.lane l).acked seq.toNat)).laneState l = s.laneState l := s.showLate_state l result
  rw [execAck_eq, rx, if_neg (by decide : ¬ (!true) = true), if_neg (by decide : ¬ (0x2D : Byte) ≠ 0x2D), State.lane_of_lanes (s.showLate_lanes result)]
  cases (s.lane l).named seq.toNat with
  | none => rfl
  | some f =>
    dsimp only
    rw [state]
    unfold State.hparAcked State.taken
    split
    · split
      · rfl
      · split <;> rfl
    · rfl
theorem exec_ack_none (none_ : (s.lane l).named seq.toNat = none) : exec (.ack l 0x2D seq hub result) s = .next (s.showLate result) := by
  rw [exec_ack, execAck_received rx, none_]
theorem exec_ack_taken (found : (s.lane l).named seq.toNat = some f) (other : ¬ (f.kind = 0x21 ∧ s.laneState l = 3)) :
    exec (.ack l 0x2D seq hub result) s = .next (s.taken l seq result) := by
  rw [exec_ack, execAck_received rx, found]
  exact congrArg _ (if_neg other)
theorem exec_ack_hpar (found : (s.lane l).named seq.toNat = some f) (hpar : f.kind = 0x21 ∧ s.laneState l = 3) :
    exec (.ack l 0x2D seq hub result) s = .next ((s.taken l seq result).hparAcked l result) := by
  rw [exec_ack, execAck_received rx, found]
  exact congrArg _ (if_pos hpar)
end
end

/-! ## ACK_TIMEOUT (R202, R216) -/

section
variable {seq : Byte} {f : DFrame}

/-- The lane once the frames with a SEQ have been waited for too long. -/
def Lane.timedOut (k : Lane) (seq : Nat) : Lane := { k with await := k.await.filter fun g => g.seq != seq }
/-- The lane with a frame that is to be sent again first. -/
def Lane.resends (k : Lane) (f : DFrame) : Lane := { k with queue := { f with rtx := f.rtx + 1 } :: k.queue }
/-- A frame may be sent again (R52, R216, R266). -/
def State.MayRepeat (s : State) (f : DFrame) : Prop :=
  f.rtx < s.rtxMax ∧ (f.kind = 0x21 ∨ f.pcnt = s.pcnt16 ∧ s.per.commitPassed = false) ∧ s.mayResend f = true
/-- In CONFIG an HPAR frame without ACK is sent again, or anew, or the lane fails, by how many it has sent. -/
def State.hparTimedOut (s : State) (l : LaneN) (f : DFrame) (sent : Nat) : State :=
  if sent ≥ 4 then s.laneFail l 3
  else if f.rtx < 2 then
    let u := s.setLane l ((s.lane l).resends f)
    u.setLane l { u.lane l with hparSent := sent + 1 }
  else s.sendHpar l
theorem execAckTimeout_eq (s : State) (l : LaneN) (seq : Byte) : execAckTimeout l seq s =
    match (s.lane l).await.find? fun f => f.seq == seq.toNat with
    | none => .next s
    | some f =>
      if !s.live .cell then .next s else
      let u := s.setLane l ((s.lane l).timedOut seq.toNat)
      if f.kind = 0x21 ∧ u.laneState l = 3 then
        if (s.lane l).hparSent ≥ 4 then .next (u.laneFail l 3)
        else if f.rtx < 2 then
          let v := u.setLane l ((u.lane l).resends f)
          .next (v.setLane l { v.lane l with hparSent := (s.lane l).hparSent + 1 })
        else .next (u.sendHpar l)
      else if f.rtx < u.rtxMax && (f.kind == 0x21 || f.pcnt == u.pcnt16 && !u.per.commitPassed) && u.mayResend f then
        .next (u.setLane l ((u.lane l).resends f))
      else .next (u.abandon l) := rfl
theorem exec_ackTimeout_none (none_ : (s.lane l).await.find? (fun f => f.seq == seq.toNat) = none) : exec (.ackTimeout l seq) s = .next s := by
  rw [exec_ackTimeout, execAckTimeout_eq, none_]
theorem State.mayRepeat_iff (s : State) (f : DFrame) :
    (decide (f.rtx < s.rtxMax) && (f.kind == 0x21 || f.pcnt == s.pcnt16 && !s.per.commitPassed) && s.mayResend f) = true ↔ s.MayRepeat f := by
  unfold State.MayRepeat
  rw [Bool.and_eq_true, Bool.and_eq_true, decide_eq_true_eq, Bool.or_eq_true, Bool.and_eq_true, beq_iff_eq, beq_iff_eq, Bool.not_eq_true', and_assoc]
theorem State.setLane_twice (s : State) (l : LaneN) (k q : Lane) : (s.setLane l k).setLane l q = s.setLane l q := by
  unfold State.setLane
  simp only [Vector.set_set]

section
variable (up : s.live .cell = true) (found : (s.lane l).await.find? (fun f => f.seq == seq.toNat) = some f)
include up found

theorem exec_ackTimeout_config (hpar : f.kind = 0x21 ∧ s.laneState l = 3) :
    exec (.ackTimeout l seq) s = .next ((s.setLane l ((s.lane l).timedOut seq.toNat)).hparTimedOut l f (s.lane l).hparSent) := by
  rw [exec_ackTimeout, execAckTimeout_eq, found, up]
  refine (if_pos hpar).trans ?_
  unfold State.hparTimedOut
  split
  · rfl
  · split <;> rfl
theorem exec_ackTimeout_repeats (other : ¬ (f.kind = 0x21 ∧ s.laneState l = 3)) (again : s.MayRepeat f) :
    exec (.ackTimeout l seq) s = .next (s.setLane l (((s.lane l).timedOut seq.toNat).resends f)) := by
  rw [exec_ackTimeout, execAckTimeout_eq, found, up]
  refine (if_neg other).trans ((if_pos ((s.mayRepeat_iff f).2 again)).trans ?_)
  rw [State.lane_setLane_self, State.setLane_twice]
theorem exec_ackTimeout_abandons (other : ¬ (f.kind = 0x21 ∧ s.laneState l = 3)) (last : ¬ s.MayRepeat f) :
    exec (.ackTimeout l seq) s = .next ((s.setLane l ((s.lane l).timedOut seq.toNat)).abandon l) := by
  rw [exec_ackTimeout, execAckTimeout_eq, found, up]
  exact (if_neg other).trans (if_neg fun again => last ((s.mayRepeat_iff f).1 again))
end
end

end Sys2Proof.Machine
end

section
/-!
PROOFS of O16: the commands of a lane's bring-up, each by what it finds.
-/
namespace Sys2Proof.Machine

variable {s t u : State} {l : LaneN} {f : DFrame} {code : Nat}

/-! ## What the ends of bring-up leave of the lane (R202, R216) -/

/-- A frame is abandoned: it is counted, and CELL_STATUS tells it. -/
theorem State.abandon_told (s : State) (l : LaneN) : (s.abandon l).fld (cellLerr l) 31 24 = Nat.min (s.fld (cellLerr l) 31 24 + 1) 255 ∧
    (s.abandon l).bit cellStatus 2 = true := by
  have other : cellLerr l ≠ cellStatus := by
    unfold cellLerr cellStatus
    omega
  refine ⟨?_, State.bit_setBit_self _ true (by decide)⟩
  unfold State.abandon
  rw [State.fld, State.rd_setBit_ne _ other, ← State.fld]
  exact s.fld_count _ (by decide) (by decide)
theorem State.abandon_lanes (s : State) (l : LaneN) : (s.abandon l).lanes = s.lanes := (s.abandon_does l).part .lanes rfl
/-- A lane in CONFIG that sends a new HPAR frame. -/
theorem State.sendHpar_after {k : Lane} (config : s.laneState l = 3) :
    (((s.setLane l k).sendHpar l).lane l).await = k.await ∧ ((s.setLane l k).sendHpar l).Configures l (s.laneHub l) k.queue (k.hparSent + 1) := by
  have after := State.sendHpar_configures (s := s.setLane l k) (l := l) config
  rw [State.lane_setLane_self] at after
  refine ⟨?_, after⟩
  rw [State.sendHpar_lane, State.lane_setLane_self]

section
variable {sent : Nat}

theorem State.hparTimedOut_fails (last : 4 ≤ sent) : s.hparTimedOut l f sent = s.laneFail l 3 := if_pos last
theorem State.hparTimedOut_repeats (left : sent < 4) (few : f.rtx < 2) :
    s.hparTimedOut l f sent = s.setLane l { (s.lane l).resends f with hparSent := sent + 1 } := by
  unfold State.hparTimedOut
  rw [if_neg (Nat.not_le.2 left), if_pos few]
  dsimp only
  rw [State.lane_setLane_self, State.setLane_twice]
theorem State.hparTimedOut_anew (left : sent < 4) (many : 2 ≤ f.rtx) : s.hparTimedOut l f sent = s.sendHpar l := by
  unfold State.hparTimedOut
  rw [if_neg (Nat.not_le.2 left), if_neg (Nat.not_lt.2 many)]
theorem State.hparTimedOut_alone (s : State) (l : LaneN) (f : DFrame) (sent : Nat) : State.LaneAlone l s (s.hparTimedOut l f sent) := by
  rcases Nat.lt_or_ge sent 4 with left | last
  · rcases Nat.lt_or_ge f.rtx 2 with few | many
    · rw [State.hparTimedOut_repeats left few]
      exact fun _ e => State.lane_setLane_ne s e _
    · rw [State.hparTimedOut_anew left many]
      exact s.sendHpar_alone l
  · rw [State.hparTimedOut_fails last]
    exact s.laneFail_alone l 3
end

theorem State.setLane_alone (s : State) (l : LaneN) (k : Lane) : State.LaneAlone l s (s.setLane l k) := fun _ e => State.lane_setLane_ne s e k
/-- The frame of the commands that bring a lane up. -/
def State.InCell (s t : State) : Prop := Frame [.probs, .lanes, .notices] (pagesOf [cellBase]) s t
theorem State.InCell.of_does {o : Out} (d : DoesOut 0x4100084 s o) (run : o = .next t) : State.InCell s t := Frame.out d run (by decide) (by decide)

/-- An echo that answers the DREQ: it counts, and the eighth ends the measurement. -/
theorem exec_decho_echo {token : Byte} {turn : BitVec 16} {rtt : Nat} (rx : s.laneRx l = true) (delay : s.laneState l = 2)
    (asked : token.toNat = (s.lane l).token) : let k := s.lane l
    let es := k.echoes ++ [(rtt - turn.toNat) / 2]
    ∃ t, exec (.decho l 0x55 token turn rtt) s = .next t ∧ State.LaneAlone l s t ∧ State.InCell s t ∧ (t.lane l).token = (k.token + 1) % 256 ∧
      (es.length < 8 → t.lane l = k.echoed ((rtt - turn.toNat) / 2) ∧ t.regs = s.regs) ∧
      (8 ≤ es.length → maxN es - minN es ≤ 4 →
        (minN es ≤ 100000 → t.rd (cellLdly l) = 2 ^ 31 + minN es ∧ t.Configures l (s.laneHub l) k.queue 1) ∧
        (100000 < minN es → t.LaneFailed l 1)) ∧
      (8 ≤ es.length → 4 < maxN es - minN es →
        (k.attempts < 4 → t.laneState l = 2 ∧ (t.lane l).echoes = [] ∧ (t.lane l).attempts = k.attempts + 1) ∧
        (4 ≤ k.attempts → t.LaneFailed l 1)) := by
  intro k es
  have does {t : State} (run : exec (.decho l 0x55 token turn rtt) s = .next t) : State.InCell s t := .of_does (execDecho_does l 0x55 token turn rtt s) run
  have counted := s.setLane_alone l (k.echoed ((rtt - turn.toNat) / 2))
  rcases Nat.lt_or_ge es.length 8 with few | all
  · have run := exec_decho_counts rx delay asked few
    exact ⟨_, run, counted, does run, by rw [State.lane_setLane_self]; rfl, fun _ => ⟨State.lane_setLane_self .., rfl⟩,
      fun all => absurd few (Nat.not_lt.2 all), fun all => absurd few (Nat.not_lt.2 all)⟩
  have run := exec_decho_measures rx delay asked all
  obtain ⟨alone, token_⟩ := (s.setLane l (k.echoed ((rtt - turn.toNat) / 2))).delayMeasured_keeps l es k.attempts
  refine ⟨_, run, counted.trans alone, does run, ?_, fun few => absurd few (Nat.not_lt.2 all), fun _ near => ⟨fun short => ?_, fun far => ?_⟩,
    fun _ wide => ⟨fun left => ?_, fun last => ?_⟩⟩
  · rw [token_, State.lane_setLane_self]
    rfl
  · have config := (s.setLane l (k.echoed ((rtt - turn.toNat) / 2))).startConfig_configures l (minN es)
    rw [State.lane_setLane_self] at config
    rw [State.delayMeasured_config near short]
    exact ⟨State.startConfig_ldly _ l short, config⟩
  · rw [State.delayMeasured_far near far]
    exact State.laneFail_failed _ l (by decide)
  · rw [State.delayMeasured_again wide left, State.startDelay_lane]
    exact ⟨State.startDelay_state .., rfl, rfl⟩
  · rw [State.delayMeasured_out wide last]
    exact State.laneFail_failed _ l (by decide)

/-- An ACK takes the frames of its SEQ, and in CONFIG decides how bring-up goes on. -/
theorem exec_ack_result (rx : s.laneRx l = true) (seq : Byte) (hub : HubN) (result : Byte) : let k := s.lane l
    ∃ t, exec (.ack l 0x2D seq hub result) s = .next t ∧ State.LaneAlone l s t ∧ State.InCell s t ∧
      t.bit cellStatus 5 = (decide (result = 1) || s.bit cellStatus 5) ∧ (k.named seq.toNat = none → t.lanes = s.lanes) ∧
      (∀ f, k.named seq.toNat = some f →
        (f.kind ≠ 0x21 ∨ s.laneState l ≠ 3 → t.lane l = k.acked seq.toNat) ∧
        (f.kind = 0x21 → s.laneState l = 3 → result = 0 → t.lane l = { k.acked seq.toNat with hparMark := some 0 }) ∧
        (f.kind = 0x21 → s.laneState l = 3 → result ≠ 0 → k.hparSent < 4 →
          (t.lane l).await = (k.acked seq.toNat).await ∧ t.Configures l (s.laneHub l) (k.acked seq.toNat).queue (k.hparSent + 1)) ∧
        (f.kind = 0x21 → s.laneState l = 3 → result ≠ 0 → 4 ≤ k.hparSent → t.LaneFailed l 3)) := by
  intro k
  have does {t : State} (run : exec (.ack l 0x2D seq hub result) s = .next t) : State.InCell s t := .of_does (execAck_does l 0x2D seq hub result s) run
  have late : State.LaneAlone l s (s.showLate result) := .of_lanes (s.showLate_lanes result)
  have status := s.showLate_bit result
  cases found : k.named seq.toNat with
  | none =>
    have run := exec_ack_none (hub := hub) (result := result) rx found
    exact ⟨_, run, late, does run, status, fun _ => s.showLate_lanes result, fun f e => absurd e (Option.some_ne_none f).symm⟩
  | some f =>
    have taken : State.LaneAlone l s (s.taken l seq result) := late.setLane _
    have lane : (s.taken l seq result).lane l = k.acked seq.toNat := State.lane_setLane_self ..
    have none_ {P : Prop} (e : some f = none) : P := absurd e (Option.some_ne_none f)
    by_cases hpar : f.kind = 0x21 ∧ s.laneState l = 3
    · have run := exec_ack_hpar (hub := hub) (result := result) rx found hpar
      have config : (s.showLate result).laneState l = 3 := (s.showLate_state l result).trans hpar.2
      have after := (s.taken l seq result).hparAcked_alone l result
      refine ⟨_, run, taken.trans after, does run, (State.bit_congr (State.hparAcked_status ..) 5).trans status, none_, ?_⟩
      rintro _ ⟨⟩
      refine ⟨fun other => absurd hpar (by tauto), fun _ _ ok => ?_, fun _ _ bad left => ?_, fun _ _ bad last => ?_⟩ <;> unfold State.hparAcked
      · rw [if_pos ok, State.lane_setLane_self, lane]
      · rw [if_neg bad, lane, if_pos (show (k.acked seq.toNat).hparSent < 4 from left)]
        have after := State.sendHpar_after (k := k.acked seq.toNat) config
        rw [State.showLate_hub] at after
        exact after
      · rw [if_neg bad, lane, if_neg (show ¬ (k.acked seq.toNat).hparSent < 4 from Nat.not_lt.2 last)]
        exact State.laneFail_failed _ l (by decide)
    · have run := exec_ack_taken (hub := hub) (result := result) rx found hpar
      refine ⟨_, run, taken, does run, status, none_, ?_⟩
      rintro _ ⟨⟩
      exact ⟨fun _ => lane, fun kind config => absurd ⟨kind, config⟩ hpar, fun kind config => absurd ⟨kind, config⟩ hpar,
        fun kind config => absurd ⟨kind, config⟩ hpar⟩

/-- A frame whose time-out passes is sent again, or abandoned; in CONFIG it is sent again, or anew, or the lane fails. -/
theorem exec_ackTimeout_passes (up : s.live .cell = true) {seq : Byte} (found : (s.lane l).await.find? (fun f => f.seq == seq.toNat) = some f) :
    let k := s.lane l
    ∃ t, exec (.ackTimeout l seq) s = .next t ∧ State.LaneAlone l s t ∧ State.InCell s t ∧
      (f.kind ≠ 0x21 ∨ s.laneState l ≠ 3 →
        (s.MayRepeat f → t.lane l = (k.timedOut seq.toNat).resends f ∧ t.regs = s.regs) ∧
        (¬ s.MayRepeat f → t.lane l = k.timedOut seq.toNat ∧ t.fld (cellLerr l) 31 24 = Nat.min (s.fld (cellLerr l) 31 24 + 1) 255 ∧
          t.bit cellStatus 2 = true)) ∧
      (f.kind = 0x21 → s.laneState l = 3 →
        (4 ≤ k.hparSent → t.LaneFailed l 3) ∧
        (k.hparSent < 4 → f.rtx < 2 → t.lane l = { (k.timedOut seq.toNat).resends f with hparSent := k.hparSent + 1 } ∧ t.regs = s.regs) ∧
        (k.hparSent < 4 → 2 ≤ f.rtx →
          (t.lane l).await = (k.timedOut seq.toNat).await ∧ t.Configures l (s.laneHub l) k.queue (k.hparSent + 1))) := by
  intro k
  have does {t : State} (run : exec (.ackTimeout l seq) s = .next t) : State.InCell s t := .of_does (execAckTimeout_does l seq s) run
  have waited := s.setLane_alone l (k.timedOut seq.toNat)
  by_cases hpar : f.kind = 0x21 ∧ s.laneState l = 3
  · have run := exec_ackTimeout_config up found hpar
    have after := (s.setLane l (k.timedOut seq.toNat)).hparTimedOut_alone l f k.hparSent
    refine ⟨_, run, waited.trans after, does run, fun other => absurd hpar (by tauto), fun _ config =>
      ⟨fun last => ?_, fun left few => ?_, fun left many => ?_⟩⟩
    · rw [State.hparTimedOut_fails last]
      exact State.laneFail_failed _ l (by decide)
    · rw [State.hparTimedOut_repeats left few, State.lane_setLane_self, State.setLane_twice, State.lane_setLane_self]
      exact ⟨rfl, rfl⟩
    · rw [State.hparTimedOut_anew left many]
      exact State.sendHpar_after config
  · have other {P : Prop} (kind : f.kind = 0x21) (config : s.laneState l = 3) : P := absurd ⟨kind, config⟩ hpar
    by_cases again : s.MayRepeat f
    · have run := exec_ackTimeout_repeats up found hpar again
      exact ⟨_, run, s.setLane_alone l _, does run, fun _ => ⟨fun _ => ⟨State.lane_setLane_self .., rfl⟩, fun last => absurd again last⟩, other⟩
    · have run := exec_ackTimeout_abandons up found hpar again
      obtain ⟨counted, told⟩ := (s.setLane l (k.timedOut seq.toNat)).abandon_told l
      rw [State.setLane_fld] at counted
      have lanes := (s.setLane l (k.timedOut seq.toNat)).abandon_lanes l
      exact ⟨_, run, waited.trans (.of_lanes lanes), does run, fun _ => ⟨fun may => absurd may again, fun _ =>
        ⟨(State.lane_of_lanes lanes l).trans (State.lane_setLane_self ..), counted, told⟩⟩, other⟩

/-! ## The statement -/

/-- Settles O16: enabling by what hubs the lower lanes have, block lock by the lane's state, and each block or time-out by the frame it names. -/
theorem laneStates : Obligations.LaneStates := by
  intro s l up k st alone failed inCell hpar
  refine ⟨fun off canon => ?enable, fun on => ⟨exec_laneEnable_on on, ?disable⟩,
    fun off => ⟨exec_laneDisable_off off, exec_blockLock_off off⟩, fun on => ⟨?acquired, exec_blockLockLost_on up on⟩,
    fun token turn rtt rx => ⟨exec_decho_ignored rx, exec_decho_echo rx⟩, fun typ token turn rtt rx unknown => ?unknown,
    fun seq hub result rx => exec_ack_result rx seq hub result, fun seq none_ => exec_ackTimeout_none none_,
    fun seq f found => exec_ackTimeout_passes up found⟩
  case enable =>
    obtain ⟨t, run, on, ldly, fresh, dup, frame⟩ := exec_laneEnable_brings up off canon
    exact ⟨t, run, on, ldly, fun none_ => fresh fun ⟨m, lower, same⟩ => none_ m lower same, dup, frame⟩
  case disable =>
    obtain ⟨t, run, off, state, block, lane, others, frame⟩ := exec_laneDisable_stops up on
    exact ⟨t, run, off, state, block, by rw [lane]; rfl, by rw [lane]; rfl, others, frame⟩
  case acquired =>
    obtain ⟨t, run, block, locking, elsewhere, others, frame⟩ := exec_blockLockAcquired_on up on
    refine ⟨t, run, block, fun e => ?_, elsewhere, others, frame⟩
    obtain ⟨state, lane⟩ := locking e
    exact ⟨state, by rw [lane], by rw [lane]⟩
  case unknown => exact ⟨_, exec_decho_unknown rx unknown, s.fld_count _ (by decide) (by decide), Frame.count (.refl ..) (List.mem_singleton.2 rfl)⟩

end Sys2Proof.Machine
end

section
/-!
PROOFS of O17, the line: blocks and their bytes, block lock, frames as blocks, and the scrambler.
-/
namespace Sys2Proof.Machine

/-! ## Blocks (R195) -/

theorem testBit_ofLE (bs : List Byte) (i : Nat) {j : Nat} (low : j < 8) : (ofLE bs).testBit (8 * i + j) = (bs.getD i 0).getLsbD j := by
  induction bs generalizing i with
  | nil => simp [ofLE]
  | cons b bs ih =>
    have split : ofLE (b :: bs) = 2 ^ 8 * ofLE bs + b.toNat := by
      rw [ofLE]
      omega
    rw [split, Nat.testBit_two_pow_mul_add _ b.isLt]
    cases i with
    | zero => simp [low, BitVec.testBit_toNat]
    | succ i =>
      rw [if_neg (by omega), show 8 * (i + 1) + j - 8 = 8 * i + j by omega, ih, List.getD_cons_succ]
theorem toLE_ofLE (bs : List Byte) : toLE bs.length (ofLE bs) = bs := by
  induction bs with
  | nil => rfl
  | cons b bs ih =>
    have low : BitVec.ofNat 8 (b.toNat + 256 * ofLE bs) = b := BitVec.eq_of_toNat_eq (by rw [BitVec.toNat_ofNat]; omega)
    have rest : (b.toNat + 256 * ofLE bs) / 256 = ofLE bs := by omega
    rw [List.length_cons, ofLE, toLE, low, rest, ih]
theorem payOf_getLsbD (bs : List Byte) {i j : Nat} (byte : i < 8) (bit : j < 8) : (payOf bs).getLsbD (8 * i + j) = (bs.getD i 0).getLsbD j := by
  have low : 8 * i + j < 64 := by omega
  unfold payOf
  rw [BitVec.getLsbD_ofNat, testBit_ofLE _ _ bit, List.getD_eq_getElem?_getD, List.getElem?_take_of_lt byte, ← List.getD_eq_getElem?_getD]
  simp [low]
theorem toLE_payOf {bs : List Byte} (full : bs.length = 8) : toLE 8 (payOf bs).toNat = bs := by
  have small : ofLE bs < 2 ^ 64 := by
    have := ofLE_lt bs
    rwa [full] at this
  unfold payOf
  rw [List.take_of_length_le (Nat.le_of_eq full), BitVec.toNat_ofNat, Nat.mod_eq_of_lt small, ← full, toLE_ofLE]
/-- A block is read by its sync header, 1 or 2; 0 and 3 are invalid. -/
theorem Block66.read_isSome (b : Block66) : b.read.isSome = !(b.sync == 0 || b.sync == 3) := by
  have four : b.sync = 0 ∨ b.sync = 1 ∨ b.sync = 2 ∨ b.sync = 3 := by
    generalize b.sync = x
    revert x
    decide
  unfold Block66.read
  rcases four with e | e | e | e <;> rw [e] <;> rfl

/-! ## Block lock (R196) -/

/-- The receiver after one header, as a step of the lock. -/
theorem RxLock.blocks_cons (k : RxLock) (b : Block66) (bs : List Block66) : k.blocks (b :: bs) = (k.see 64 16 b.read.isSome).blocks bs := rfl
theorem RxLock.blocks_append (k : RxLock) (bs cs : List Block66) : k.blocks (bs ++ cs) = (k.blocks bs).blocks cs := List.foldl_append
/-- What a receiver has seen: the latest 64, the latest first. -/
theorem RxLock.blocks_seen (k : RxLock) (bs : List Block66) (some_ : bs ≠ []) :
    (k.blocks bs).seen = ((bs.map fun b => b.read.isSome).reverse ++ k.seen).take 64 := by
  induction bs generalizing k with
  | nil => exact absurd rfl some_
  | cons b bs ih =>
    rw [RxLock.blocks_cons]
    cases bs with
    | nil => rfl
    | cons c cs =>
      rw [ih _ (List.cons_ne_nil c cs), List.map_cons (a := b), List.reverse_cons, List.append_assoc]
      simp only [RxLock.see, List.take_append, List.take_take, List.singleton_append]
      congr 2
      omega
/-- Of the latest headers, 64 valid ones bring a receiver into lock, and 16 invalid ones take it out. -/
theorem RxLock.see_locked (k : RxLock) (ok : Bool) :
    ((k.see 64 16 ok).seen = List.replicate 64 true → (k.see 64 16 ok).locked = true) ∧
    (16 ≤ (k.see 64 16 ok).seen.count false → (k.see 64 16 ok).locked = false) := by
  unfold RxLock.see
  dsimp only
  generalize (ok :: k.seen).take 64 = seen
  refine ⟨fun all => ?_, fun many => ?_⟩
  · rw [all]
    cases k.locked <;> rfl
  · have bad : seen.all id = false := List.all_eq_false.2 ⟨false, List.count_pos_iff.1 (by omega), by simp⟩
    have lost : decide (seen.count false < 16) = false := decide_eq_false (by omega)
    rw [bad, lost, Bool.and_false, ite_self]
theorem RxLock.blocks_locked (k : RxLock) {bs : List Block66} (some_ : bs ≠ []) :
    ((k.blocks bs).seen = List.replicate 64 true → (k.blocks bs).locked = true) ∧
    (16 ≤ (k.blocks bs).seen.count false → (k.blocks bs).locked = false) := by
  rw [← List.dropLast_concat_getLast some_, RxLock.blocks_append]
  exact RxLock.see_locked ..
/-- How many of a run of headers are invalid. -/
def invalidHeaders (bs : List Block66) : Nat := (bs.filter fun b => b.sync == 0 || b.sync == 3).length
theorem invalidHeaders_eq (bs : List Block66) : (bs.map fun b => b.read.isSome).count false = invalidHeaders bs := by
  unfold invalidHeaders
  rw [List.count_eq_countP, List.countP_map, List.countP_eq_length_filter]
  congr 2
  funext b
  rw [Function.comp, Block66.read_isSome]
  cases (b.sync == 0 || b.sync == 3) <;> rfl
theorem RxLock.blocks_acquire (k : RxLock) {bs : List Block66} (long : bs.length = 64) (valid : ∀ b ∈ bs, b.sync = 1 ∨ b.sync = 2) :
    (k.blocks bs).locked = true := by
  have some_ : bs ≠ [] := List.ne_nil_of_length_pos (by omega)
  refine (k.blocks_locked some_).1 ?_
  have all : bs.map (fun b => b.read.isSome) = List.replicate 64 true := by
    refine List.eq_replicate_iff.2 ⟨by rw [List.length_map, long], fun x mem => ?_⟩
    obtain ⟨b, within, rfl⟩ := List.mem_map.1 mem
    rw [Block66.read_isSome]
    rcases valid b within with e | e <;> rw [e] <;> rfl
  rw [k.blocks_seen bs some_, all, List.reverse_replicate, List.take_append_of_le_length (by simp)]
  rfl
theorem RxLock.blocks_lose (k : RxLock) {bs : List Block66} (short : bs.length ≤ 64) (many : 16 ≤ invalidHeaders bs) : (k.blocks bs).locked = false := by
  have some_ : bs ≠ [] := by
    rintro rfl
    exact absurd many (by decide)
  refine (k.blocks_locked some_).2 ?_
  rw [k.blocks_seen bs some_, List.take_append, List.take_of_length_le (by simpa using short), List.count_append, List.count_reverse, invalidHeaders_eq]
  omega
/-- A receiver in lock stays so while fewer than 16 headers are invalid. -/
theorem RxLock.blocks_keep (k : RxLock) (bs : List Block66) (locked : k.locked = true) (few : k.seen.count false + invalidHeaders bs < 16) :
    (k.blocks bs).locked = true := by
  induction bs generalizing k with
  | nil => exact locked
  | cons b bs ih =>
    have counted : k.seen.count false + invalidHeaders (b :: bs) = (b.read.isSome :: k.seen).count false + invalidHeaders bs := by
      rw [← invalidHeaders_eq, ← invalidHeaders_eq, List.map_cons, List.count_cons, List.count_cons]
      omega
    have seen : ((b.read.isSome :: k.seen).take 64).count false ≤ (b.read.isSome :: k.seen).count false := (List.take_sublist ..).count_le _
    rw [RxLock.blocks_cons]
    refine ih _ ?_ ?_
    · unfold RxLock.see
      dsimp only
      rw [if_pos locked, decide_eq_true_eq]
      omega
    · unfold RxLock.see
      dsimp only
      omega
theorem invalidHeaders_concat_le (bs : List Block66) (b : Block66) : invalidHeaders (bs ++ [b]) ≤ invalidHeaders bs + 1 := by
  unfold invalidHeaders
  rw [List.filter_append, List.length_append]
  exact Nat.add_le_add_left (List.length_filter_le ..) _

/-! ## Frames as blocks (R198) -/

theorem frameBlocks_length (bytes : List Byte) : (frameBlocks bytes).length = 1 + (bytes.length + 7) / 8 := by
  unfold frameBlocks
  rw [List.length_cons, List.length_map, List.length_range, Nat.add_comm]
theorem frameBlocks_data {bytes : List Byte} {i : Nat} {b : Block66} (later : 0 < i) (at_ : (frameBlocks bytes)[i]? = some b) :
    b = dataBlock ((bytes.drop (8 * (i - 1))).take 8) := by
  obtain ⟨i, rfl⟩ := Nat.exists_eq_succ_of_ne_zero (Nat.ne_of_gt later)
  unfold frameBlocks at at_
  rw [List.getElem?_cons_succ, List.getElem?_map, Option.map_eq_some_iff] at at_
  obtain ⟨k, mem, rfl⟩ := at_
  obtain ⟨_, rfl⟩ := List.getElem?_eq_some_iff.1 mem
  rw [List.getElem_range]
  rfl
theorem getD_take_drop (bytes : List Byte) (n : Nat) {j : Nat} (low : j < 8) : ((bytes.drop n).take 8).getD j 0 = bytes.getD (n + j) 0 := by
  rw [List.getD_eq_getElem?_getD, List.getElem?_take_of_lt low, List.getElem?_drop, ← List.getD_eq_getElem?_getD]

/-! ## The scrambler (R194) -/

/-- The bit sent d before bit i of `os`, the register r holding what was sent before them. -/
def sentBefore (r : BitVec 58) (os : List Bool) (i d : Nat) : Bool := if d ≤ i then os.getD (i - d) false else r.getLsbD (d - 1 - i)
theorem sentBefore_succ (r : BitVec 58) (o : Bool) (os : List Bool) (i : Nat) {d : Nat} (pos : 0 < d) (within : d ≤ 58) :
    sentBefore r (o :: os) (i + 1) d = sentBefore ((r <<< 1) ||| (BitVec.ofBool o).setWidth 58) os i d := by
  unfold sentBefore
  rcases Nat.lt_trichotomy d (i + 1) with early | rfl | late
  · rw [if_pos (by omega), if_pos (by omega), show i + 1 - d = i - d + 1 by omega, List.getD_cons_succ]
  · rw [if_pos (Nat.le_refl _), if_neg (by omega), Nat.sub_self, List.getD_cons_zero, show i + 1 - 1 - i = 0 by omega]
    simp
  · have inside : d - 1 - i < 58 := by omega
    have above : ¬ d - 1 - i < 1 := by omega
    have tail : (BitVec.ofBool o).getLsbD (d - 1 - i) = false := BitVec.getLsbD_of_ge _ _ (by omega)
    rw [if_neg (by omega), if_neg (by omega), BitVec.getLsbD_or, BitVec.getLsbD_shiftLeft, BitVec.getLsbD_setWidth, tail]
    simp only [inside, above, decide_true, decide_false, Bool.true_and, Bool.not_false, Bool.and_false, Bool.or_false]
    rfl
theorem scrambled_bit (bs : List Bool) (r : BitVec 58) {i : Nat} (inside : i < bs.length) : let os := (throughBits scrambleBit r bs).2
    os.getD i false = ((bs.getD i false ^^ sentBefore r os i 39) ^^ sentBefore r os i 58) := by
  induction bs generalizing r i with
  | nil => exact absurd inside (Nat.not_lt_zero _)
  | cons b bs ih =>
    dsimp only [throughBits]
    cases i with
    | zero => rfl
    | succ i =>
      rw [sentBefore_succ _ _ _ _ (by decide) (by decide), sentBefore_succ _ _ _ _ (by decide) (by decide)]
      exact ih _ (Nat.lt_of_succ_lt_succ inside)

theorem sumN_cons (x : Nat) (l : List Nat) : sumN (x :: l) = x + sumN l := by
  unfold sumN
  rw [← List.sum_eq_foldl_nat, ← List.sum_eq_foldl_nat, List.sum_cons]
theorem testBit_sumN_zipIdx (bs : List Bool) (n i : Nat) :
    ∃ x, sumN ((bs.zipIdx n).map fun b => b2n b.1 * 2 ^ b.2) = 2 ^ n * x ∧ x.testBit i = bs.getD i false := by
  induction bs generalizing n i with
  | nil => exact ⟨0, rfl, by simp⟩
  | cons b bs ih =>
    obtain ⟨x, sum, -⟩ := ih (n + 1) 0
    refine ⟨2 * x + b2n b, ?_, ?_⟩
    · rw [List.zipIdx_cons, List.map_cons, sumN_cons, sum]
      ring
    · cases i with
      | zero => cases b <;> simp [b2n, Nat.testBit_zero]
      | succ i =>
        obtain ⟨y, sum', bit⟩ := ih (n + 1) i
        have same : x = y := Nat.eq_of_mul_eq_mul_left (by positivity) (sum.symm.trans sum')
        rw [List.getD_cons_succ, ← bit, same, Nat.testBit_succ]
        congr 1
        have := b2n_lt b
        omega
theorem bitsPay_getLsbD (bs : List Bool) {i : Nat} (inside : i < 64) : (bitsPay bs).getLsbD i = bs.getD i false := by
  obtain ⟨x, sum, bit⟩ := testBit_sumN_zipIdx bs 0 i
  unfold bitsPay
  rw [BitVec.getLsbD_ofNat, sum, Nat.pow_zero, Nat.one_mul, bit]
  simp [inside]
theorem lineBits_getD (p : BitVec 64) {i : Nat} (inside : i < 64) : (lineBits p).getD i false = p.getLsbD i := by
  unfold lineBits
  simp [inside]
theorem lineBits_length (p : BitVec 64) : (lineBits p).length = 64 := by simp [lineBits]
theorem bitsPay_lineBits (p : BitVec 64) : bitsPay (lineBits p) = p :=
  BitVec.eq_of_getLsbD_eq fun _ inside => (bitsPay_getLsbD _ inside).trans (lineBits_getD p inside)
theorem lineBits_bitsPay {bs : List Bool} (long : bs.length = 64) : lineBits (bitsPay bs) = bs := by
  refine List.ext_getElem (by rw [lineBits_length, long]) fun i inside inside' => ?_
  have low : i < 64 := long ▸ inside'
  rw [List.getElem_eq_getD false, List.getElem_eq_getD false, lineBits_getD _ low, bitsPay_getLsbD _ low]

theorem Block66.scramble_pay (r : BitVec 58) (b : Block66) : (b.scramble r).2.pay = bitsPay (throughBits scrambleBit r (lineBits b.pay)).2 := by
  unfold Block66.scramble
  generalize throughBits scrambleBit r (lineBits b.pay) = x
  cases x
  rfl
theorem Block66.scramble_register (r : BitVec 58) (b : Block66) : (b.scramble r).1 = (throughBits scrambleBit r (lineBits b.pay)).1 := by
  unfold Block66.scramble
  generalize throughBits scrambleBit r (lineBits b.pay) = x
  cases x
  rfl
theorem Block66.scramble_bit (r : BitVec 58) (b : Block66) {i : Nat} (inside : i < 64) : let o := (b.scramble r).2
    let before (i d : Nat) : Bool := if d ≤ i then o.pay.getLsbD (i - d) else r.getLsbD (d - 1 - i)
    o.pay.getLsbD i = ((b.pay.getLsbD i ^^ before i 39) ^^ before i 58) := by
  intro o before
  have pay (k : Nat) (low : k < 64) : o.pay.getLsbD k = (throughBits scrambleBit r (lineBits b.pay)).2.getD k false := by
    rw [Block66.scramble_pay, bitsPay_getLsbD _ low]
  have sent (d : Nat) : before i d = sentBefore r (throughBits scrambleBit r (lineBits b.pay)).2 i d := if_congr Iff.rfl (pay _ (by omega)) rfl
  rw [sent, sent, ← lineBits_getD b.pay inside, ← scrambled_bit _ r (by rwa [lineBits_length]), pay i inside]
/-- A receiver with the sender's register reads the block, and then holds the sender's register again. -/
theorem Block66.unscramble_scramble (r : BitVec 58) (b : Block66) : (b.scramble r).2.unscramble r = ((b.scramble r).1, b) := by
  have sent : lineBits (b.scramble r).2.pay = (throughBits scrambleBit r (lineBits b.pay)).2 :=
    (congrArg lineBits (Block66.scramble_pay r b)).trans (lineBits_bitsPay (by rw [throughBits_length, lineBits_length]))
  unfold Block66.unscramble
  rw [sent, throughBits_undo]
  dsimp only
  rw [bitsPay_lineBits, Block66.sync_scramble, Block66.scramble_register]
theorem lineOf_sync (r : BitVec 58) (bs : List Block66) : (lineOf r bs).map (·.sync) = bs.map (·.sync) := by
  induction bs generalizing r with
  | nil => rfl
  | cons b bs ih => rw [lineOf, List.map_cons, List.map_cons, ih, Block66.sync_scramble]
theorem lineRead_lineOf (r : BitVec 58) (bs : List Block66) : lineRead r (lineOf r bs) = bs := by
  induction bs generalizing r with
  | nil => rfl
  | cons b bs ih => rw [lineOf, lineRead, Block66.unscramble_scramble, ih]

end Sys2Proof.Machine
end

section
/-!
PROOFS of O17: uplink frames, the HPAR updates of CELL_HCDL and CELL_UPOFS, and CELL_ROLE.
-/
namespace Sys2Proof.Machine

variable {s t u : State} {l : LaneN} {bs tail : List Byte} {a h n i : Nat}

/-! ## The uplink record of a cell (R205, R208) -/

/-- Cell i of hub h is stored from an uplink frame, and its state reported. -/
def State.storeCell (bs tail : List Byte) (h : Nat) (s : State) (i : Nat) : State :=
  let c := 16 * h + i
  let s := s.setBytes (uplinkRec c) ((bs.drop (8 + 12 * i)).take 12 ++ tail)
  let s := { s with cell := { s.cell with recNow := c :: s.cell.recNow.filter (· != c) } }
  s.recReport c (byteAt bs (8 + 12 * i + 6) % 4)

/-- A report of a cell's state writes its record, the notice of a difference and the count of them (R188). -/
theorem State.recReport_frame (s : State) (c st : Nat) : Frame [.cell] (regsOf [cellCst c, cellSelstat, cellMiscnt]) s (s.recReport c st) := by
  have own : regsOf [cellCst c, cellSelstat, cellMiscnt] (cellCst c) := by simp [regsOf]
  have told : Frame [.cell] (regsOf [cellCst c, cellSelstat, cellMiscnt]) s (((s.setBit (cellCst c) 1 true).setBit cellSelstat 2 true).count cellMiscnt 15 0) :=
    (((Frame.refl ..).setBit own).setBit (by simp [regsOf])).count (by simp [regsOf])
  unfold State.recReport
  dsimp only
  exact Frame.ite ((Frame.refl ..).setBit own) ((told.setFld own).upd_cell List.mem_cons_self)
theorem State.recReport_rd (low : a < cellSelstat) (s : State) (c st : Nat) : (s.recReport c st).rd a = s.rd a := by
  refine (s.recReport_frame c st).2.1 a ?_
  simp only [regsOf, List.mem_cons, List.not_mem_nil, or_false, not_or]
  unfold cellCst cellMiscnt cellSelstat at *
  omega
theorem State.storeCell_rd (low : a < cellSelstat) (s : State) (i : Nat) : (s.storeCell bs tail h i).rd a = s.rd a := by
  unfold State.storeCell
  dsimp only
  rw [State.recReport_rd low, Does.upd_cell.rd_kept (by decide), Does.setBytes.rd_kept (by decide)]
theorem State.storeCell_lanes (s : State) (i : Nat) : (s.storeCell bs tail h i).lanes = s.lanes := by
  unfold State.storeCell
  dsimp only
  rw [(State.recReport_does ..).part .lanes rfl, Does.upd_cell.part .lanes rfl, Does.setBytes.part .lanes rfl]
theorem State.storeCell_byte (s : State) (i a : Nat) : (s.storeCell bs tail h i).byte a =
    (s.setBytes (uplinkRec (16 * h + i)) ((bs.drop (8 + 12 * i)).take 12 ++ tail)).byte a :=
  (State.recReport_frame ..).1 .mem (by decide) a
/-- The row of a cell whose twelve bytes the frame holds. -/
theorem row_length (long : tail.length = 4) (within : 8 + 12 * (i + 1) ≤ bs.length) : ((bs.drop (8 + 12 * i)).take 12 ++ tail).length = 16 := by
  rw [List.length_append, List.length_take, List.length_drop, long]
  omega
theorem State.storeCell_own (long : tail.length = 4) (within : 8 + 12 * (i + 1) ≤ bs.length) {k : Nat} (low : k < 12) (s : State) :
    (s.storeCell bs tail h i).byte (uplinkRec (16 * h + i) + k) = bs.getD (8 + 12 * i + k) 0 := by
  have first : ((bs.drop (8 + 12 * i)).take 12).length = 12 := by
    rw [List.length_take, List.length_drop]
    omega
  rw [State.storeCell_byte, State.byte_setBytes, dif_pos ⟨Nat.le_add_right .., by rw [row_length long within]; omega⟩]
  simp only [Nat.add_sub_cancel_left]
  rw [List.getElem_append_left (by omega), List.getElem_take, List.getElem_drop, List.getElem_eq_getD 0]
theorem State.storeCell_other (long : tail.length = 4) (within : 8 + 12 * (i + 1) ≤ bs.length)
    (out : a < uplinkRec (16 * h + i) ∨ uplinkRec (16 * h + i + 1) ≤ a) (s : State) : (s.storeCell bs tail h i).byte a = s.byte a := by
  rw [State.storeCell_byte, State.byte_setBytes_ne]
  rw [row_length long within]
  unfold uplinkRec at *
  omega

/-- The first n cells of a hub stored. -/
def State.storeCells (s : State) (bs tail : List Byte) (h n : Nat) : State := s.each (List.range n) (State.storeCell bs tail h)
theorem State.storeCells_succ (s : State) (bs tail : List Byte) (h n : Nat) :
    s.storeCells bs tail h (n + 1) = (s.storeCells bs tail h n).storeCell bs tail h n := State.each_range_succ ..
theorem State.storeCells_rd (low : a < cellSelstat) (s : State) (n : Nat) : (s.storeCells bs tail h n).rd a = s.rd a := by
  induction n with
  | zero => rfl
  | succ n ih => rw [State.storeCells_succ, State.storeCell_rd low, ih]
theorem State.storeCells_lanes (s : State) (bs tail : List Byte) (h n : Nat) : (s.storeCells bs tail h n).lanes = s.lanes := by
  induction n with
  | zero => rfl
  | succ n ih => rw [State.storeCells_succ, State.storeCell_lanes, ih]
theorem State.storeCells_byte (long : tail.length = 4) (within : 8 + 12 * n ≤ bs.length) (s : State) :
    (∀ i k, i < n → k < 12 → (s.storeCells bs tail h n).byte (uplinkRec (16 * h + i) + k) = bs.getD (8 + 12 * i + k) 0) ∧
    ∀ a, a < uplinkRec (16 * h) ∨ uplinkRec (16 * h + n) ≤ a → (s.storeCells bs tail h n).byte a = s.byte a := by
  induction n with
  | zero => exact ⟨fun _ _ none_ => absurd none_ (Nat.not_lt_zero _), fun _ _ => rfl⟩
  | succ n ih =>
    obtain ⟨stored, outside⟩ := ih (by omega)
    simp only [State.storeCells_succ]
    refine ⟨fun i k among low => ?_, fun a out => ?_⟩
    · rcases Nat.lt_succ_iff_lt_or_eq.1 among with before | rfl
      · rw [State.storeCell_other long within (.inl (by unfold uplinkRec; omega)), stored i k before low]
      · exact State.storeCell_own long within low _
    · rw [State.storeCell_other long within (by unfold uplinkRec at *; omega), outside a (by unfold uplinkRec at *; omega)]

/-! ## An uplink frame is stored (R205, R207, R208) -/

/-- CELL_LSTAT and CELL_STATUS show what the frame tells of the hub. -/
def State.uplinkShown (s : State) (l : LaneN) (n stat : Nat) : State :=
  let s := s.setFld (cellLstat l) 20 16 n
  let s := s.setBit (cellLstat l) 12 (stat.testBit 4)
  if stat.testBit 4 then s.setBit cellStatus 4 true else s
/-- The frame is counted for its lane and hub. -/
def State.uplinkCounted (s : State) (l : LaneN) (h n : Nat) : State :=
  let s := s.laneBit cellUprxLo cellUprxHi l true
  let s := s.setLane l { s.lane l with gotUplink := true }
  { s with cell := { s.cell with upNow := h :: s.cell.upNow.filter (· != h), ncell := (h, n) :: s.cell.ncell.filter (·.1 != h) } }

/-- A frame is stored and counted; what may follow is an event. -/
theorem State.storeUplink_eq (s : State) (l : LaneN) (bs : List Byte) : ∃ tail : List Byte, tail.length = 4 ∧
    Does 0x40000 ((((s.uplinkShown l (byteAt bs 4 % 32) (byteAt bs 5)).storeCells bs tail (byteAt bs 1 % 64) (byteAt bs 4 % 32))).uplinkCounted l
      (byteAt bs 1 % 64) (byteAt bs 4 % 32)) (s.storeUplink l bs) := by
  refine ⟨toLE 2 (s.uplinkShown l (byteAt bs 4 % 32) (byteAt bs 5)).pcnt16 ++
    toLE 1 (b2n (!s.per.fixPassed) + 2 * b2n ((byteAt bs 5).testBit 0)) ++ toLE 1 l, by simp, ?_⟩
  exact Does.ite (State.fire_does ..) (Does.refl ..)

theorem State.uplinkShown_state (s : State) (l : LaneN) (n stat : Nat) : (s.uplinkShown l n stat).laneState l = s.laneState l := by
  have shown : ((s.setFld (cellLstat l) 20 16 n).setBit (cellLstat l) 12 (stat.testBit 4)).laneState l = s.laneState l :=
    (State.laneState_setBit _ l (by decide) (by decide) _).trans (State.fld_setFld_ne s (by decide) (by decide) (.inr (by decide)) (by decide))
  unfold State.uplinkShown
  dsimp only
  split
  · exact (State.laneState_congr (State.rd_setBit_ne _ (cellLstat_ne_cellStatus l) _ _)).trans shown
  · exact shown
theorem State.uplinkShown_does (s : State) (l : LaneN) (n stat : Nat) : Does 0x4000000 s (s.uplinkShown l n stat) := by
  have page : Nat.testBit 0x4000000 (pageBit (cellLstat l)) = true := by
    rw [pageBit_cellLstat (by omega)]
    decide
  have shown : Does 0x4000000 s ((s.setFld (cellLstat l) 20 16 n).setBit (cellLstat l) 12 (stat.testBit 4)) := ((Does.refl ..).setFld page).setBit page
  exact Does.ite (shown.setBit (by decide)) shown

section
variable (s : State) (l : LaneN) (h n : Nat)

theorem State.uplinkCounted_rd (a : Nat) : (s.uplinkCounted l h n).rd a = (s.laneBit cellUprxLo cellUprxHi l true).rd a := rfl
theorem State.uplinkCounted_lane : (s.uplinkCounted l h n).lane l = { s.lane l with gotUplink := true } := by
  have lanes := State.lane_of_lanes (s.laneBit_lanes cellUprxLo cellUprxHi l true) l
  refine (State.lane_setLane_self ..).trans ?_
  rw [lanes]
theorem State.uplinkCounted_alone : State.LaneAlone l s (s.uplinkCounted l h n) := fun m e =>
  (State.lane_setLane_ne _ e _).trans (State.lane_of_lanes (s.laneBit_lanes cellUprxLo cellUprxHi l true) m)
theorem State.uplinkCounted_byte (a : Nat) : (s.uplinkCounted l h n).byte a = s.byte a := by
  have bit : (s.laneBit cellUprxLo cellUprxHi l true).byte a = s.byte a := (s.laneBit_does _ _ l true rfl rfl).part .mem rfl a
  exact bit
theorem State.uplinkCounted_state : (s.uplinkCounted l h n).laneState l = s.laneState l :=
  State.laneState_congr ((s.uplinkCounted_rd l h n _).trans
    (State.laneBit_rd (Nat.ne_of_gt (Nat.lt_trans (by decide) (cellLstat_above l))) (Nat.ne_of_gt (cellLstat_above l))))
theorem State.uplinkCounted_uprx : (s.uplinkCounted l h n).laneBitOf cellUprxLo cellUprxHi l = true :=
  (State.laneBitOf_congr (s.uplinkCounted_rd l h n _) (s.uplinkCounted_rd l h n _)).trans (State.laneBitOf_laneBit ..)
theorem State.uplinkCounted_hub : (s.uplinkCounted l h n).hubStat h = n + 128 := by
  unfold State.hubStat State.uplinkCounted
  simp [lookD, b2n]
end

/-! ## UPLINK_FRAME (R203, R207, R223) -/

/-- The lane of an accepted frame is in UP, and a loss of it over. -/
def State.inUp (s : State) (l : LaneN) : State := State.laneBack (s.setLaneState l 4) l
theorem State.inUp_state (s : State) (l : LaneN) : (s.inUp l).laneState l = 4 :=
  (State.laneState_congr ((State.laneBack_does _ l).rd_kept (by decide) _)).trans (s.setLaneState_state l (by decide))
theorem State.inUp_lanes (s : State) (l : LaneN) : (s.inUp l).lanes = s.lanes :=
  ((State.laneBack_does _ l).part .lanes rfl).trans (State.setLaneState_open (.inr rfl) s l)
theorem State.inUp_byte (s : State) (l : LaneN) (a : Nat) : (s.inUp l).byte a = s.byte a :=
  ((State.laneBack_does _ l).part .mem rfl a).trans ((s.setLaneState_does l 4).part .mem rfl a)

/-- What a lane has stored and counted once a frame of n cells of hub h is accepted. -/
def State.Uplinked (s t : State) (l : LaneN) (bs : List Byte) (h n : Nat) : Prop :=
  t.laneState l = 4 ∧ t.laneBitOf cellUprxLo cellUprxHi l = true ∧
  (∀ i k, i < n → k < 12 → t.byte (uplinkRec (16 * h + i) + k) = bs.getD (8 + 12 * i + k) 0) ∧
  (∀ a, a < uplinkRec (16 * h) ∨ uplinkRec (16 * h + n) ≤ a → t.byte a = s.byte a) ∧
  (t.lane l).gotUplink = true ∧ t.hubStat h = n + 128 ∧ State.LaneAlone l s t
theorem State.storeUplink_uplinked (s : State) (l : LaneN) (within : 8 + 12 * (byteAt bs 4 % 32) ≤ bs.length) :
    State.Uplinked s ((s.inUp l).storeUplink l bs) l bs (byteAt bs 1 % 64) (byteAt bs 4 % 32) := by
  obtain ⟨tail, long, after⟩ := (s.inUp l).storeUplink_eq l bs
  revert after within
  generalize byteAt bs 4 % 32 = n
  generalize byteAt bs 1 % 64 = h
  generalize byteAt bs 5 = stat
  intro within after
  have shown := (s.inUp l).uplinkShown_does l n stat
  obtain ⟨stored, outside⟩ := State.storeCells_byte (h := h) long within ((s.inUp l).uplinkShown l n stat)
  have lanes' : (((s.inUp l).uplinkShown l n stat).storeCells bs tail h n).lanes = s.lanes := by
    rw [State.storeCells_lanes, shown.part .lanes rfl, State.inUp_lanes]
  have low : cellLstat l < cellSelstat := by
    unfold cellLstat cellSelstat
    omega
  refine ⟨?_, ?_, fun i k among low => ?_, fun a out => ?_, ?_, ?_, fun m e => ?_⟩
  · rw [State.laneState_congr (after.rd_kept (by decide) _), State.uplinkCounted_state, State.laneState_congr (State.storeCells_rd low _ n),
      State.uplinkShown_state, State.inUp_state]
  · rw [State.laneBitOf_congr (after.rd_kept (by decide) _) (after.rd_kept (by decide) _), State.uplinkCounted_uprx]
  · rw [after.part .mem rfl, State.uplinkCounted_byte, stored i k among low]
  · rw [after.part .mem rfl, State.uplinkCounted_byte, outside a out, shown.part .mem rfl, State.inUp_byte]
  · rw [after.lane rfl, State.uplinkCounted_lane]
  · have cell := after.part .cell rfl
    unfold State.hubStat
    rw [cell]
    exact State.uplinkCounted_hub ..
  · rw [after.lane rfl, State.uplinkCounted_alone _ l h n m e, State.lane_of_lanes lanes']

/-- The lane takes an accepted uplink frame: in UP, or in CONFIG once the mark after its HPAR's acknowledgement has passed. -/
def State.TakesUplink (s : State) (l : LaneN) : Prop := s.laneState l = 4 ∨ s.laneState l = 3 ∧ (s.lane l).hparMark = some 1

theorem execUplinkFrame_accepted (rx : s.laneRx l = true) (ok : s.uplinkOk l bs = true) (takes : s.TakesUplink l) : execUplinkFrame l bs s =
    if byteAt bs 4 % 32 = 0 ∨ 16 < byteAt bs 4 % 32 then .next (s.laneFail l 4) else .next ((s.inUp l).storeUplink l bs) := by
  unfold execUplinkFrame
  rw [rx, if_neg (by decide)]
  refine if_pos ?_
  rw [ok]
  rcases takes with e | ⟨e, mark⟩
  · exact .inr ⟨e, rfl⟩
  · exact .inl ⟨e, mark, rfl⟩
/-- An intact frame of 1 to 16 cells holds twelve bytes of each. -/
theorem State.uplinkOk_length (ok : s.uplinkOk l bs = true) (pos : 1 ≤ byteAt bs 4 % 32) (most : byteAt bs 4 % 32 ≤ 16) :
    bs.length = 12 + 12 * (byteAt bs 4 % 32) := by
  unfold State.uplinkOk at ok
  simp only [Bool.and_eq_true, Bool.or_eq_true, beq_iff_eq, decide_eq_true_eq] at ok
  obtain ⟨-, length⟩ := ok
  omega
theorem exec_uplinkFrame_stores (rx : s.laneRx l = true) (ok : s.uplinkOk l bs = true) (takes : s.TakesUplink l) (pos : 1 ≤ byteAt bs 4 % 32)
    (most : byteAt bs 4 % 32 ≤ 16) : exec (.uplinkFrame l bs) s = .next ((s.inUp l).storeUplink l bs) := by
  rw [exec_uplinkFrame, execUplinkFrame_accepted rx ok takes]
  exact if_neg (by omega)
theorem exec_uplinkFrame_fails (rx : s.laneRx l = true) (ok : s.uplinkOk l bs = true) (takes : s.TakesUplink l)
    (range : byteAt bs 4 % 32 = 0 ∨ 16 < byteAt bs 4 % 32) : exec (.uplinkFrame l bs) s = .next (s.laneFail l 4) := by
  rw [exec_uplinkFrame, execUplinkFrame_accepted rx ok takes]
  exact if_pos range
theorem exec_uplinkFrame_refused (rx : s.laneRx l = true) (inUp : s.laneState l = 4) (bad : s.uplinkOk l bs = false) :
    exec (.uplinkFrame l bs) s = .next ((s.count (cellLerr l) 15 0).setBit cellStatus 1 true) := by
  rw [exec_uplinkFrame]
  unfold execUplinkFrame
  rw [rx, if_neg (by decide), bad]
  exact (if_neg (by simp)).trans (if_pos inUp)

/-! ## HPAR updates (R223) -/

/-- Lane l, when in UP, gets an HPAR frame of its own behind its queue. -/
def State.hparUpdate (entry : Nat × Nat) (s : State) (l : LaneN) : State :=
  if s.laneState l = 4 then s.setLane l { s.lane l with queue := (s.lane l).queue ++ [s.hparFrame l [entry]] } else s
/-- The lane after it, the registers being those of u. -/
def State.hparQueued (u : State) (entry : Nat × Nat) (l : LaneN) (k : Lane) : Lane :=
  if u.laneState l = 4 then { k with queue := k.queue ++ [u.hparFrame l [entry]] } else k

theorem State.hparUpdate_regs (entry : Nat × Nat) (s : State) (l : LaneN) : (s.hparUpdate entry l).regs = s.regs := by
  unfold State.hparUpdate
  split <;> rfl
theorem State.hparUpdate_lane (entry : Nat × Nat) (same : s.regs = u.regs) (l m : LaneN) :
    (s.hparUpdate entry l).lane m = if m = l then u.hparQueued entry m (s.lane m) else s.lane m := by
  have rd (a : Nat) : s.rd a = u.rd a := by
    unfold State.rd
    rw [same]
  have state : s.laneState l = u.laneState l := State.laneState_congr (rd _)
  have frame : s.hparFrame l [entry] = u.hparFrame l [entry] := by
    unfold State.hparFrame State.pcnt16
    rw [State.laneHub_congr (rd _), rd]
  unfold State.hparUpdate State.hparQueued
  by_cases e : m = l
  · subst e
    rw [if_pos rfl, state, frame]
    split
    · rw [State.lane_setLane_self]
    · rfl
  · rw [if_neg e]
    split
    · rw [State.lane_setLane_ne _ e]
    · rfl
theorem State.each_hparUpdate (entry : Nat × Nat) (ls : List LaneN) (nodup : ls.Nodup) (same : s.regs = u.regs) (m : LaneN) :
    (s.each ls (State.hparUpdate entry)).lane m = if m ∈ ls then u.hparQueued entry m (s.lane m) else s.lane m := by
  induction ls generalizing s with
  | nil => rfl
  | cons l ls ih =>
    obtain ⟨fresh, nodup⟩ := List.nodup_cons.1 nodup
    rw [State.each_cons, ih nodup ((s.hparUpdate_regs entry l).trans same), State.hparUpdate_lane entry same]
    by_cases e : m = l
    · rw [if_neg (e ▸ fresh), if_pos e, if_pos (e ▸ List.mem_cons_self)]
    · simp only [List.mem_cons, e, false_or, if_false]
theorem State.allLanes_hparUpdate (s : State) (entry : Nat × Nat) (m : LaneN) :
    (s.each allLanes (State.hparUpdate entry)).lane m = s.hparQueued entry m (s.lane m) :=
  (State.each_hparUpdate entry allLanes (List.nodup_finRange 64) rfl m).trans (if_pos (List.mem_finRange m))
theorem State.allLanes_hparUpdate_frame {rs : Nat → Prop} (s : State) (entry : Nat × Nat) :
    Frame [.lanes] rs s (s.each allLanes (State.hparUpdate entry)) :=
  Frame.each (.refl ..) fun _ _ k => Frame.ite (k.setLane List.mem_cons_self) k

/-- The register that HCDL_WRITE writes, and the value it keeps of v. -/
def hcdlReg (upofs : Bool) : Nat := if upofs then cellUpofs else cellHcdl
def hcdlVal (upofs : Bool) (v : Word) : Nat := v.toNat % (if upofs then 2 ^ 10 else 2 ^ 17)
/-- The entry of the HPAR frame that tells it. -/
def hcdlEntry (upofs : Bool) (v : Word) : Nat × Nat := (if upofs then 3 else 2, hcdlVal upofs v)

theorem hcdlVal_lt (upofs : Bool) (v : Word) : hcdlVal upofs v < 2 ^ 32 := by
  have : hcdlVal upofs v < if upofs then 2 ^ 10 else 2 ^ 17 := Nat.mod_lt _ (by cases upofs <;> decide)
  cases upofs
  · exact Nat.lt_trans this (by decide)
  · exact Nat.lt_trans this (by decide)
/-- The registers of the lanes and of the period count are others. -/
theorem hcdlReg_ne (upofs : Bool) (l : LaneN) : cellLstat l ≠ hcdlReg upofs ∧ cellLcfg l ≠ hcdlReg upofs ∧ perCount ≠ hcdlReg upofs := by
  have top : hcdlReg upofs ≤ cellUpofs := by cases upofs <;> decide
  have low : cellHcdl ≤ hcdlReg upofs := by cases upofs <;> decide
  unfold cellUpofs at top
  unfold cellHcdl at low
  refine ⟨?_, ?_, Nat.ne_of_lt (Nat.lt_of_lt_of_le (by decide) low)⟩
  · unfold cellLstat
    omega
  · unfold cellLcfg
    omega
theorem exec_hcdlWrite_same (up : s.live .cell = true) {upofs : Bool} {v : Word}
    (held : s.bit cellCtrl 31 = true ∨ s.rd (hcdlReg upofs) = hcdlVal upofs v) : exec (.hcdlWrite upofs v) s = .next s :=
  (if_pos up).trans (congrArg _ (if_pos held))
theorem exec_hcdlWrite_new (up : s.live .cell = true) {upofs : Bool} {v : Word} (open_ : s.bit cellCtrl 31 = false)
    (new : s.rd (hcdlReg upofs) ≠ hcdlVal upofs v) : exec (.hcdlWrite upofs v) s =
    .next ((s.wr (hcdlReg upofs) (hcdlVal upofs v)).each allLanes (State.hparUpdate (hcdlEntry upofs v))) := by
  have write : ¬ (s.bit cellCtrl 31 = true ∨ s.rd (hcdlReg upofs) = hcdlVal upofs v) := by
    rw [open_]
    simp [new]
  refine (if_pos up).trans (congrArg _ ((if_neg write).trans ?_))
  cases upofs <;> rfl
/-- A new value is stored and goes to every lane in UP. -/
theorem exec_hcdlWrite_tells (up : s.live .cell = true) {upofs : Bool} {v : Word} (open_ : s.bit cellCtrl 31 = false)
    (new : s.rd (hcdlReg upofs) ≠ hcdlVal upofs v) : ∃ t, exec (.hcdlWrite upofs v) s = .next t ∧ t.rd (hcdlReg upofs) = hcdlVal upofs v ∧
    (∀ l, t.lane l = s.hparQueued (hcdlEntry upofs v) l (s.lane l)) ∧ Frame [.lanes] (regsOf [hcdlReg upofs]) s t := by
  have told (rs : Nat → Prop) := State.allLanes_hparUpdate_frame (rs := rs) (s.wr (hcdlReg upofs) (hcdlVal upofs v)) (hcdlEntry upofs v)
  refine ⟨_, exec_hcdlWrite_new up open_ new, ?_, fun l => ?_, ((Frame.refl ..).wr (List.mem_singleton.2 rfl)).trans (told _)⟩
  · rw [(told noReg).2.1 _ id, State.rd_wr_self, Nat.mod_eq_of_lt (hcdlVal_lt upofs v)]
  · obtain ⟨lstat, lcfg, count⟩ := hcdlReg_ne upofs l
    have state : (s.wr (hcdlReg upofs) (hcdlVal upofs v)).laneState l = s.laneState l := State.laneState_congr (State.rd_wr_ne s lstat _)
    have frame : (s.wr (hcdlReg upofs) (hcdlVal upofs v)).hparFrame l [hcdlEntry upofs v] = s.hparFrame l [hcdlEntry upofs v] := by
      unfold State.hparFrame State.pcnt16
      rw [State.laneHub_congr (State.rd_wr_ne s lcfg _), State.rd_wr_ne s count]
    rw [State.allLanes_hparUpdate]
    unfold State.hparQueued
    rw [state, frame, State.wr_lane]

/-! ## The statement -/

/-- Settles O17: an uplink frame by whether it is accepted, the HPAR updates lane by lane, and the line block by block and bit by bit. -/
theorem cellTraffic : Obligations.CellTraffic := by
  refine ⟨fun s up => ⟨fun l bytes rx ok takes => ?uplink, fun l bytes rx inUp bad => ?refused, fun upofs v => ?hcdl, fun role => ?role⟩,
    fun bytes => ?blocks, fun b invalid_ => ?header, fun k bs => ?lock, fun bytes => ?frames, fun r b => ?scrambler,
    fun r bs => ⟨lineOf_sync r bs, lineRead_lineOf r bs⟩⟩
  case uplink =>
    refine ⟨fun pos most => ?_, fun range => ?_⟩
    · have run := exec_uplinkFrame_stores rx ok takes pos most
      have length := State.uplinkOk_length ok pos most
      obtain ⟨state, uprx, stored, outside, got, hub, alone⟩ := s.storeUplink_uplinked l (bs := bytes) (by omega)
      exact ⟨_, run, state, uprx, stored, outside, got, hub, alone, Frame.out (execUplinkFrame_does l bytes s) run (by decide) (by decide)⟩
    · obtain ⟨state, code, -, -⟩ := s.laneFail_failed l (code := 4) (by decide)
      exact ⟨_, exec_uplinkFrame_fails rx ok takes range, state, code, Frame.doesPages (s.laneFail_does l 4) (.refl ..) (by decide) (by decide)⟩
  case refused =>
    have other : cellLerr l ≠ cellStatus := by
      unfold cellLerr cellStatus
      omega
    refine ⟨_, exec_uplinkFrame_refused rx inUp bad, ?_, State.bit_setBit_self _ true (by decide), ((Frame.refl ..).count ?_).setBit ?_⟩
    · rw [State.fld, State.rd_setBit_ne _ other, ← State.fld]
      exact s.fld_count _ (by decide) (by decide)
    · exact List.mem_cons_self
    · exact List.mem_cons_of_mem _ List.mem_cons_self
  case hcdl =>
    refine ⟨exec_hcdlWrite_same up, fun open_ new => ?_⟩
    obtain ⟨t, run, stored, lanes, frame⟩ := exec_hcdlWrite_tells up open_ new
    refine ⟨t, run, stored, fun l inUp => ?_, fun l elsewhere => ?_, frame⟩ <;> rw [lanes l, State.hparQueued]
    · rw [if_pos inUp]
      rfl
    · rw [if_neg elsewhere]
  case role =>
    refine ⟨_, if_pos up, State.bit_setBit_self s role (by decide), (Frame.refl ..).setBit rfl, fun i other => ?_⟩
    rw [State.bit_setBit s _ _ role (by decide), if_neg fun both => other both.2]
  case blocks =>
    refine ⟨rfl, rfl, rfl, rfl, fun i j byte bit => payOf_getLsbD bytes byte bit, fun full => ⟨?_, ?_⟩⟩
    · exact congrArg (fun x => some (false, x)) (toLE_payOf full)
    · exact congrArg (fun x => some (true, x)) (toLE_payOf full)
  case header =>
    refine Option.not_isSome_iff_eq_none.1 ?_
    rw [b.read_isSome]
    rcases invalid_ with e | e <;> rw [e] <;> decide
  case lock =>
    refine ⟨k.blocks_acquire, k.blocks_lose, fun b locked fresh _ few => ?_⟩
    have total := invalidHeaders_concat_le bs b
    rw [← RxLock.blocks_append]
    refine k.blocks_keep _ locked ?_
    rw [fresh]
    exact Nat.lt_of_le_of_lt (Nat.le_of_eq (Nat.zero_add _)) (Nat.lt_of_le_of_lt total (Nat.succ_lt_succ few))
  case frames =>
    refine ⟨rfl, frameBlocks_length bytes, fun i b later at_ => ?_⟩
    rw [frameBlocks_data later at_]
    exact ⟨rfl, fun j byte k bit => (payOf_getLsbD _ byte bit).trans (congrArg (BitVec.getLsbD · k) (getD_take_drop bytes _ byte))⟩
  case scrambler => exact ⟨Block66.sync_scramble r b, fun i inside => b.scramble_bit r inside⟩

end Sys2Proof.Machine
end

section
/-!
PROOFS of O19: the triggers, the records, the freezing and the scan of the capture ring.
-/
namespace Sys2Proof.Machine

variable {s t : State} {src : Nat} {ps : List Part} {rs : Nat → Prop}

/-! ## Triggers (R236, R240) -/

theorem State.capTrig_disabled (off : s.bit capTrigen src = false) : s.capTrig src = s :=
  if_pos (by rw [off, Bool.not_false, Bool.or_true])

/-- With the unit live and the source enabled, the ring decides whether the trigger is lost or counts. -/
theorem State.capTrig_enabled (up : s.live .cap = true) (on : s.bit capTrigen src = true) : s.capTrig src =
    if s.bit capStatus 31 && !s.cap.resume then { s.setBit capStatus 2 true with cap := { s.cap with lost := s.cap.lost ||| 2 ^ src } }
    else
      let u := if s.bit capStatus 31 || s.cap.trigged then s else s.setBit capStatus 27 true
      State.fire { u with cap := { u.cap with trigs := u.cap.trigs ||| 2 ^ src } } 0x19 :=
  if_neg (by rw [up, on]; decide)

/-- On a frozen ring the trigger is lost. -/
theorem State.capTrig_loses (up : s.live .cap = true) (on : s.bit capTrigen src = true) (frozen : s.bit capStatus 31 = true)
    (resume : s.cap.resume = false) : (s.capTrig src).bit capStatus 2 = true ∧ (s.capTrig src).cap = { s.cap with lost := s.cap.lost ||| 2 ^ src } ∧
    Frame [.cap] (regsOf [capStatus]) s (s.capTrig src) := by
  have lost : s.capTrig src = (s.setBit capStatus 2 true).setCap { s.cap with lost := s.cap.lost ||| 2 ^ src } :=
    (State.capTrig_enabled up on).trans (if_pos (by rw [frozen, resume]; rfl))
  rw [lost]
  exact ⟨State.bit_setBit_self s true (by decide), rfl, ((Frame.refl ..).setBit (List.mem_singleton.2 rfl)).upd_cap List.mem_cons_self⟩

theorem State.fire_cap (s : State) (code : Nat) : (s.fire code).cap = s.cap := (State.fire_does s code).part .cap rfl
theorem State.fire_rd (s : State) (code a : Nat) : (s.fire code).rd a = s.rd a := (State.fire_does s code).rd_kept (by decide) a

/-- The source joins those of the next snapshot, and the event of a trigger fires. -/
def State.trigTaken (s : State) (src : Nat) : State := State.fire { s with cap := { s.cap with trigs := s.cap.trigs ||| 2 ^ src } } 0x19
theorem State.trigTaken_cap (s : State) (src : Nat) : (s.trigTaken src).cap = { s.cap with trigs := s.cap.trigs ||| 2 ^ src } := State.fire_cap ..
theorem State.trigTaken_rd (s : State) (src a : Nat) : (s.trigTaken src).rd a = s.rd a := State.fire_rd ..
/-- TRIGGED shows once a running ring has had a trigger. -/
def State.trigShown (s : State) : State := if s.bit capStatus 31 || s.cap.trigged then s else s.setBit capStatus 27 true
theorem State.trigShown_cap (s : State) : s.trigShown.cap = s.cap := by rw [State.trigShown, apply_ite State.cap, State.setBit_cap, ite_self]

/-- A trigger that counts: it joins those of the next snapshot, and shows TRIGGED when it is the first of a running ring. -/
theorem State.capTrig_counts (up : s.live .cap = true) (on : s.bit capTrigen src = true)
    (counts : s.bit capStatus 31 = false ∨ s.cap.resume = true) : (s.capTrig src).cap = { s.cap with trigs := s.cap.trigs ||| 2 ^ src } ∧
    (s.bit capStatus 31 = false → s.cap.trigged = false → (s.capTrig src).bit capStatus 27 = true) ∧
    Frame [.cap, .pins] (regsOf [capStatus]) s (s.capTrig src) := by
  have open_ : ¬ (s.bit capStatus 31 && !s.cap.resume) = true := by
    rcases counts with h | h <;> simp [h]
  have taken : s.capTrig src = s.trigShown.trigTaken src := (State.capTrig_enabled up on).trans (if_neg open_)
  rw [taken]
  refine ⟨?_, fun running first => ?_, ?_⟩
  · rw [State.trigTaken_cap, State.trigShown_cap]
  · rw [State.bit_congr (State.trigTaken_rd ..), State.trigShown, running, first]
    exact State.bit_setBit_self s true (by decide)
  · refine Frame.doesNone (State.fire_does ..) (Frame.upd_cap ?_ (by decide)) (by decide) (by decide)
    exact .ite (.refl ..) ((Frame.refl ..).setBit (List.mem_singleton.2 rfl))

theorem exec_captureTrigger_disabled {src : Fin 6} (off : s.bit capTrigen src = false) : exec (.captureTrigger src) s = .next s :=
  congrArg _ (State.capTrig_disabled off)

/-! ## FREEZE, RESUME, CLEAR and the end of the post-trigger count (R237, R240) -/

theorem State.writeCapRec_cap (s : State) : s.writeCapRec.cap = s.cap := (State.writeCapRec_does s).part .cap rfl
theorem State.writeCapRec_rd (s : State) (a : Nat) : s.writeCapRec.rd a = s.rd a := (State.writeCapRec_does s).rd_kept (by decide) a

/-- What a freeze of the ring with a cause leaves. -/
theorem State.freezeRing_freezes (s : State) (cause : Nat) (small : cause < 8) :
    (s.freezeRing cause).fld capStatus 31 27 = 16 + 2 * cause ∧
    (s.freezeRing cause).cap = { s.cap with snap := none, wrote := 0, trigs := 0, resume := false } ∧
    Frame [.mem, .cap, .pins] (regsOf [capStatus]) s (s.freezeRing cause) := by
  unfold State.freezeRing
  dsimp only
  refine ⟨?_, ?_, ?_⟩
  · have shown := State.fld_setFld_self s (a := capStatus) (hi := 31) (lo := 27) (v := 16 + 2 * cause) (by decide) (by decide)
    rw [State.fld, State.fire_rd, State.writeCapRec_rd, State.setCap_rd, ← State.fld, shown]
    exact Nat.mod_eq_of_lt (by omega)
  · rw [State.fire_cap, State.writeCapRec_cap, State.setCap_cap, State.setFld_cap]
  · refine Frame.doesNone (State.fire_does ..) (Frame.doesNone (State.writeCapRec_does _) ?_ (by decide) (by decide)) (by decide) (by decide)
    exact ((Frame.refl ..).setFld (List.mem_singleton.2 rfl)).upd_cap (by decide)

theorem State.did_frame (hp : Part.pins ∈ ps) (ks : List Nat) : Frame ps rs s (s.did ks) := (Frame.refl ..).upd_pins hp

theorem exec_freeze_running (up : s.live .cap = true) (running : s.bit capStatus 31 = false) :
    exec .freeze s = .next ((s.did [13]).freezeRing 2) :=
  (if_pos up).trans (congrArg _ (if_neg (by rw [State.did_bit, running]; decide)))
theorem exec_freeze_frozen (up : s.live .cap = true) (frozen : s.bit capStatus 31 = true) :
    exec .freeze s = .next ((s.did [13]).setCap { s.cap with resume := false, trigs := 0 }) :=
  (if_pos up).trans (congrArg _ (if_pos frozen))
theorem exec_captureResume_frozen (up : s.live .cap = true) (frozen : s.bit capStatus 31 = true) :
    exec .captureResume s = .next (s.setCap { s.cap with resume := true, trigs := s.cap.trigs ||| s.cap.lost, lost := 0 }) :=
  (if_pos up).trans (congrArg _ (if_pos frozen))
theorem exec_captureResume_running (running : s.bit capStatus 31 = false) : exec .captureResume s = .next s := by
  have same : s.capResume = s := if_neg (by rw [running]; decide)
  rw [exec_captureResume, execCaptureResume, same, ite_self]
theorem exec_clear_running (running : s.bit capStatus 31 = false) : exec .clear s = .next s := by
  have same : s.capClear = s := if_neg (by rw [running]; decide)
  rw [exec_clear, execClear, same, ite_self]

/-- CLEAR of a frozen ring: it is empty at CAP_WPTR, and no trigger is recorded. -/
theorem exec_clear_frozen (up : s.live .cap = true) (frozen : s.bit capStatus 31 = true) : ∃ t, exec .clear s = .next t ∧
    t.rd capOldest = s.rd capWptr ∧ t.rd capTrigptr = 0 ∧ t.rd capTrigpcnt = 0 ∧ t.cap = { s.cap with any := false } ∧
    Frame [.cap] (regsOf [capOldest, capTrigptr, capTrigpcnt]) s t := by
  refine ⟨_, (if_pos up).trans (congrArg _ (if_pos frozen)), ?_, ?_, ?_, rfl, ?_⟩
  · rw [State.setCap_rd, State.rd_wr_ne _ (by decide), State.rd_wr_ne _ (by decide), State.rd_wr_self]
    exact Nat.mod_eq_of_lt (s.rd_lt _)
  · rw [State.setCap_rd, State.rd_wr_ne _ (by decide), State.rd_wr_self]
    rfl
  · rw [State.setCap_rd, State.rd_wr_self]
    rfl
  · exact ((((Frame.refl ..).wr (by simp [regsOf])).wr (by simp [regsOf])).wr (by simp [regsOf])).upd_cap (by decide)

theorem exec_postTriggerEnd_freezes (up : s.live .cap = true) (fired : s.cap.trigged = true) (ended : s.cap.post = 0) (none_ : s.cap.snap = none)
    (running : s.bit capStatus 31 = false) : exec .postTriggerEnd s = .next (s.freezeRing 1) :=
  if_pos (by rw [up, fired, ended, none_, running]; decide)

end Sys2Proof.Machine
end

section
namespace Sys2Proof.Machine

variable {s t : State} {x : Snap} {edcs : List Nat}

/-! ## What a record's bursts meet (R253, R257) -/

theorem State.count_zero_rd (s : State) (a b : Nat) {hi lo : Nat} (order : lo ≤ hi) (within : hi < 32) :
    (s.count a hi lo 0).rd b = s.rd b := by
  have same : Nat.min (s.fld a hi lo + 0) (2 ^ (hi - lo + 1) - 1) = s.fld a hi lo :=
    Nat.min_eq_left (Nat.le_sub_one_of_lt (bits_lt (s.rd a) hi lo))
  rw [State.count, State.rd_setFld _ _ order within, same]
  split
  · next e =>
    subst e
    refine Nat.eq_of_testBit_eq fun i => ?_
    rw [testBit_putBits order]
    split
    · next inside =>
      rw [State.fld, testBit_bits, Nat.sub_add_cancel inside.1, decide_eq_true (by omega), Bool.true_and]
    · rfl
  · rfl

/-- Whether an access waits depends on the registers, on the channels and on the clocks. -/
theorem State.memWaits_congr (rd : ∀ b, t.rd b = s.rd b) (gmem : t.gmem = s.gmem) (clk : t.clk = s.clk) (a : Nat) :
    t.memWaits a = s.memWaits a := by
  have used : t.inUse = s.inUse := funext fun c => by rw [State.inUse, State.exclMask, State.fld, rd]; rfl
  have ready : t.memReady = s.memReady := by
    rw [State.memReady, State.inReset, State.bit_congr (rd _), State.bit_congr (rd _), gmem, clk]
    rfl
  have chan : t.chanOf a = s.chanOf a := by
    unfold State.chanOf State.linear State.chansInUse State.exclMask State.fld
    rw [used, rd]
  simp only [State.memWaits, ready, gmem, chan]

/-- A burst without link errors leaves every register. -/
theorem State.capLink_clean (s : State) (a : Nat) : s.capLink a 0 = s.count (memChstat (s.chanOf a)) 7 0 0 := by
  have kept : ¬ s.retryLimit false < 0 := Nat.not_lt_zero _
  have none_ : Nat.min 0 (s.retryLimit false) = 0 := Nat.zero_min _
  unfold State.capLink State.memRetry
  dsimp only
  rw [none_, if_neg kept]
  rfl

/-- Bursts without link errors to channels that do not retrain go out, all of them. -/
theorem State.capSend_clean (l : List (Nat × Nat)) (clean : ∀ b ∈ l, b.2 = 0) (free : ∀ b ∈ l, s.memWaits b.1 = false) :
    (s.capSend l).2 = l.length := by
  induction l generalizing s with
  | nil => rfl
  | cons b l ih =>
    obtain ⟨a, e⟩ := b
    obtain rfl : e = 0 := clean _ List.mem_cons_self
    have go : ¬ s.memWaits a = true := Bool.not_eq_true _ ▸ free _ List.mem_cons_self
    have rest := ih (s := s.capLink a 0) (fun b m => clean b (List.mem_cons_of_mem _ m)) fun b m => by
      rw [State.capLink_clean, State.memWaits_congr (State.count_zero_rd s _ · (by decide) (by decide)) rfl rfl]
      exact free b (List.mem_cons_of_mem _ m)
    unfold State.capSend
    rw [if_neg go]
    exact congrArg (· + 1) rest

theorem State.memRetry_capUsed (s : State) (c : ChanN) (edc limit : Nat) : (s.memRetry c edc limit).1.gmem.capUsed = s.gmem.capUsed := by
  unfold State.memRetry State.linkFail
  dsimp only
  split <;> rfl
theorem State.capLink_capUsed (s : State) (a e : Nat) : (s.capLink a e).gmem.capUsed = s.gmem.capUsed := by
  have retry := s.memRetry_capUsed (s.chanOf a) e (s.retryLimit false)
  unfold State.capLink
  dsimp only
  split <;> exact retry
theorem State.capSend_capUsed (s : State) (l : List (Nat × Nat)) : (s.capSend l).1.gmem.capUsed = s.gmem.capUsed := by
  induction l generalizing s with
  | nil => rfl
  | cons b l ih =>
    unfold State.capSend
    split
    · rfl
    · exact (ih _).trans (s.capLink_capUsed _ _)

/-! ## CAPTURE_RECORD (R233, R257) -/

/-- The bursts of record x that are due, as far as the allotment of the window reaches, with the link CRC mismatches of each. -/
def State.burstsDue (s : State) (x : Snap) (edcs : List Nat) : List (Nat × Nat) :=
  (((s.recWrites x).drop s.cap.wrote).take s.capLeft).zipIdx.map fun a => (a.1, edcs.getD a.2 0)
/-- How many of them go out. -/
def State.burstsSent (s : State) (x : Snap) (edcs : List Nat) : Nat := (s.capSend (s.burstsDue x edcs)).2
/-- The state in which they have gone out and count against the allotment. -/
def State.recordSent (s : State) (x : Snap) (edcs : List Nat) : State :=
  let t := (s.capSend (s.burstsDue x edcs)).1
  t.setMem { t.gmem with capUsed := t.gmem.capUsed + s.burstsSent x edcs }

theorem State.burstsDue_length (s : State) (x : Snap) (edcs : List Nat) :
    (s.burstsDue x edcs).length = Nat.min s.capLeft ((s.recWrites x).length - s.cap.wrote) := by
  simp only [State.burstsDue, List.length_map, List.length_zipIdx, List.length_take, List.length_drop]
theorem State.burstsDue_none (left : s.capLeft = 0) (x : Snap) (edcs : List Nat) : s.burstsDue x edcs = [] := by
  rw [State.burstsDue, left]
  rfl
/-- Without link errors all the bursts that are due go out. -/
theorem State.burstsSent_clean (free : s.capWithheld x = false) (clean : ∀ e ∈ edcs, e = 0) :
    s.burstsSent x edcs = Nat.min s.capLeft ((s.recWrites x).length - s.cap.wrote) := by
  have told (i : Nat) : edcs.getD i 0 = 0 := by
    rw [List.getD_eq_getElem?_getD]
    cases h : edcs[i]? with
    | none => rfl
    | some e => exact clean e (List.mem_of_getElem? h)
  rw [← State.burstsDue_length s x edcs]
  refine State.capSend_clean _ (fun b mem => ?_) fun b mem => ?_
  · obtain ⟨a, -, rfl⟩ := List.mem_map.1 mem
    exact told a.2
  · obtain ⟨a, listed, rfl⟩ := List.mem_map.1 mem
    have due := List.mem_of_mem_take (List.fst_mem_of_mem_zipIdx listed)
    have open_ := List.any_eq_false.1 free a.1 due
    rw [Bool.not_eq_true, Bool.or_eq_false_iff] at open_
    exact open_.2

theorem State.recordSent_does (s : State) (x : Snap) (edcs : List Nat) : Does 0x10000400 s (s.recordSent x edcs) :=
  (State.setMem_does _ _).andThen (State.capSend_does s _) rfl
theorem State.recordSent_capUsed (s : State) (x : Snap) (edcs : List Nat) :
    (s.recordSent x edcs).gmem.capUsed = s.gmem.capUsed + s.burstsSent x edcs :=
  congrArg (· + s.burstsSent x edcs) (s.capSend_capUsed _)

theorem exec_captureRecord_drops (up : s.live .cap = true) (snap : s.cap.snap = some x) {withheld : Bool}
    (stop : withheld = true ∨ s.capWithheld x = true) (edcs : List Nat) : exec (.captureRecord withheld edcs) s = .next s.dropRecord := by
  have held : (withheld || s.capWithheld x) = true := Bool.or_eq_true_iff.2 stop
  rw [exec_captureRecord]
  unfold execCaptureRecord
  rw [snap]
  dsimp only
  rw [if_neg (by rw [up]; decide), if_pos held]

/-- The bursts that are due go out; with the last one the record is in the ring. -/
theorem exec_captureRecord_sends (up : s.live .cap = true) (snap : s.cap.snap = some x) (free : s.capWithheld x = false) (edcs : List Nat) :
    exec (.captureRecord false edcs) s = .next (if s.cap.wrote + s.burstsSent x edcs < (s.recWrites x).length then
        (s.recordSent x edcs).setCap { (s.recordSent x edcs).cap with wrote := s.cap.wrote + s.burstsSent x edcs }
      else (s.recordSent x edcs).writeRecord x) := by
  rw [exec_captureRecord]
  unfold execCaptureRecord
  rw [snap]
  dsimp only
  rw [if_neg (by rw [up]; decide), if_neg (by rw [free]; decide)]
  rfl

/-- A record that is dropped (R233). -/
theorem State.dropRecord_drops (s : State) :
    s.dropRecord.cap = { s.cap with snap := none, wrote := 0, gap := true, dropped := true } ∧ s.dropRecord.bit capStatus 1 = true ∧
    s.dropRecord.fld capDropcnt 15 0 = Nat.min (s.fld capDropcnt 15 0 + 1) 65535 ∧
    Frame [.cap] (regsOf [capStatus, capDropcnt]) s s.dropRecord := by
  refine ⟨rfl, State.bit_setBit_self _ true (by decide), ?_, (((Frame.refl ..).upd_cap ?_).count ?_).setBit ?_⟩
  · exact (State.fld_wr_ne _ (by decide) ..).trans (State.fld_count _ _ (by decide) (by decide))
  · exact List.mem_cons_self
  · exact List.mem_cons_of_mem _ List.mem_cons_self
  · exact List.mem_cons_self

/-! ## The record in the ring (R227, R234) -/

/-- The ring with room made for record x. -/
def State.ringRoom (s : State) (x : Snap) : State :=
  let o := s.wrapRing.2
  let n := (s.nextBytes x).length
  if s.cap.any then s.wrapRing.1.advance o (o + n) (n / 64 + 1) else s.wrapRing.1
/-- The record is stored. -/
def State.recordStored (s : State) (x : Snap) : State := (s.ringRoom x).store (ringBase + s.wrapRing.2) (s.nextBytes x)
/-- It is counted, and CAP_WPTR stands after it. -/
def State.recordCounted (s : State) (x : Snap) : State :=
  let w := s.wrapRing.2 + (s.nextBytes x).length
  ((s.recordStored x).wr capWptr (if ringSize ≤ w then 0 else w)).wr capReccnt ((s.recordStored x).rd capReccnt + 1)
/-- The oldest record and the trigger record are noted. -/
def State.recordNoted (s : State) (x : Snap) : State :=
  let o := s.wrapRing.2
  let t := if s.cap.any then s.recordCounted x else (s.recordCounted x).wr capOldest o
  if s.cap.trigRec then (t.wr capTrigptr (2 ^ 31 + o)).wr capTrigpcnt x.pcnt else t
/-- No snapshot is left to write. -/
def State.recordDone (s : State) (x : Snap) : State :=
  let t := s.recordNoted x
  t.setCap { t.cap with
    snap := none, prev := some { x with cells := (s.nextSection x).2 }, sinceKey := if s.isKey x then 0 else s.cap.sinceKey + 1,
    gap := false, dropped := false, keyNext := false, trigRec := false, any := true, wrote := 0 }

theorem State.writeRecord_eq (s : State) (x : Snap) :
    s.writeRecord x = if s.isKey x then ((s.recordDone x).wr capLastkey s.wrapRing.2).writeCapRec else s.recordDone x := rfl

theorem State.writeRecord_cap (s : State) (x : Snap) : (s.writeRecord x).cap = (s.recordDone x).cap := by
  rw [State.writeRecord_eq]
  split
  · exact (State.writeCapRec_does _).part .cap rfl
  · rfl
theorem State.writeRecord_rd {a : Nat} (h : a ≠ capLastkey) (s : State) (x : Snap) : (s.writeRecord x).rd a = (s.recordNoted x).rd a := by
  rw [State.writeRecord_eq]
  split
  · exact ((State.writeCapRec_does _).rd_kept (by decide) a).trans (State.rd_wr_ne _ h _)
  · rfl

theorem State.advance_rd {a : Nat} (h : a ≠ capOldest) (s : State) (lo hi n : Nat) : (s.advance lo hi n).rd a = s.rd a := by
  induction n generalizing s with
  | zero => rfl
  | succ n ih =>
    unfold State.advance
    dsimp only
    split
    · exact (ih _).trans (State.rd_wr_ne _ h _)
    · rfl
theorem State.wrapRing_rd {a : Nat} (oldest : a ≠ capOldest) (wptr : a ≠ capWptr) (s : State) : s.wrapRing.1.rd a = s.rd a := by
  have stored (u : State) (b : Nat) (bs : List Byte) : ((u.store b bs).wr capWptr 0).rd a = u.rd a :=
    (State.rd_wr_ne _ wptr _).trans (Does.store.reg a (by
      have := pageBit_range a
      exact memoryBits _ this.2 this.1))
  unfold State.wrapRing
  dsimp only
  split
  · refine (stored _ _ _).trans ?_
    split
    · exact State.rd_wr_ne _ oldest _
    · rfl
  · rfl
theorem State.store_rd (s : State) (a : Nat) (bs : List Byte) (b : Nat) : (s.store a bs).rd b = s.rd b := by
  rw [State.store_eq]
  rfl
theorem State.recordStored_rd {a : Nat} (oldest : a ≠ capOldest) (wptr : a ≠ capWptr) (s : State) (x : Snap) :
    (s.recordStored x).rd a = s.rd a := by
  rw [State.recordStored, State.store_rd, State.ringRoom]
  split
  · exact (State.advance_rd oldest ..).trans (State.wrapRing_rd oldest wptr s)
  · exact State.wrapRing_rd oldest wptr s

/-- A record that has been written is counted. -/
theorem State.writeRecord_reccnt (s : State) (x : Snap) : (s.writeRecord x).rd capReccnt = (s.rd capReccnt + 1) % 2 ^ 32 := by
  have counted : (s.recordCounted x).rd capReccnt = (s.rd capReccnt + 1) % 2 ^ 32 :=
    (State.rd_wr_self ..).trans (by rw [State.recordStored_rd (by decide) (by decide)])
  have oldest : (if s.cap.any then s.recordCounted x else (s.recordCounted x).wr capOldest s.wrapRing.2).rd capReccnt =
      (s.recordCounted x).rd capReccnt := by
    split
    · rfl
    · exact State.rd_wr_ne _ (by decide) _
  rw [State.writeRecord_rd (by decide), State.recordNoted, ← counted, ← oldest]
  split
  · exact (State.rd_wr_ne _ (by decide) _).trans (State.rd_wr_ne _ (by decide) _)
  · rfl

/-! ### Its bytes -/

/-- The record store lies above the memory of the ring. -/
theorem State.writeCapRec_byte {a : Nat} (low : a < nvrBaseAddr) (s : State) : s.writeCapRec.byte a = s.byte a := by
  unfold State.writeCapRec State.recWrite
  exact State.byte_setBytes_ne _ (.inl (Nat.lt_of_lt_of_le low (Nat.le_add_right_of_le (Nat.le_add_right ..))))
theorem State.writeRecord_byte {a : Nat} (low : a < nvrBaseAddr) (s : State) (x : Snap) : (s.writeRecord x).byte a = (s.recordStored x).byte a := by
  have noted : (s.recordDone x).byte a = (s.recordStored x).byte a := by
    have counted : (s.recordCounted x).byte a = (s.recordStored x).byte a := by rw [State.recordCounted, State.wr_byte, State.wr_byte]
    rw [State.recordDone, State.setCap_byte, State.recordNoted]
    split <;> split <;> simp only [State.wr_byte, counted]
  rw [State.writeRecord_eq, ← noted]
  split
  · exact State.writeCapRec_byte low _
  · rfl

/-- A number in the middle of what is stored. -/
theorem State.le_store {bs pre post : List Byte} {n v : Nat} (split : bs = pre ++ (toLE n v ++ post)) (s : State) (a : Nat) :
    (s.store a bs).le (a + pre.length) n = v % 256 ^ n := by
  have whole := State.bytes_store_self s bs a
  subst split
  rw [List.length_append, List.length_append, length_toLE, State.bytes_append, State.bytes_append] at whole
  have rest := List.append_inj_right whole (State.length_bytes ..)
  have num := List.append_inj_left rest (by rw [State.length_bytes, length_toLE])
  rw [State.le, num, ofLE_toLE]

/-- Each record begins with its magic, a version, its flags, its length and the period count (R227). -/
theorem State.nextBytes_head (s : State) (x : Snap) : ∃ flags len post, s.nextBytes x =
    toLE 2 0x4352 ++ (toLE 1 1 ++ (toLE 1 flags ++ (toLE 4 len ++ (toLE 4 x.pcnt ++ post)))) := by
  unfold State.nextBytes withCrc recordBody
  simp only [List.append_assoc]
  exact ⟨_, _, _, rfl⟩

/-- With room for the largest record no wrap marker is due. -/
theorem State.wrapRing_room (room : recMax ≤ ringSize - s.rd capWptr) : s.wrapRing = (s, s.rd capWptr) :=
  if_neg (Nat.not_lt.2 room)
theorem State.ringRoom_byte (room : recMax ≤ ringSize - s.rd capWptr) (x : Snap) (a : Nat) : (s.ringRoom x).byte a = s.byte a := by
  unfold State.ringRoom
  rw [State.wrapRing_room room]
  dsimp only
  split
  · exact (State.advance_does ..).part .mem rfl a
  · rfl

/-- A record that has room stands at CAP_WPTR, and the memory below it is unchanged (R227, R234). -/
theorem State.writeRecord_stands (room : recMax ≤ ringSize - s.rd capWptr) (inside : s.rd capWptr < ringSize) (x : Snap) :
    (s.writeRecord x).le (ringBase + s.rd capWptr) 2 = 0x4352 ∧
    (s.writeRecord x).word (ringBase + s.rd capWptr + 8) = x.pcnt % 2 ^ 32 ∧
    ∀ a, a < ringBase + s.rd capWptr → (s.writeRecord x).byte a = s.byte a := by
  have low : ringBase + s.rd capWptr + 12 ≤ nvrBaseAddr := by
    unfold ringBase nvrBaseAddr
    unfold ringSize at inside
    omega
  have stored : s.recordStored x = (s.ringRoom x).store (ringBase + s.rd capWptr) (s.nextBytes x) := by
    rw [State.recordStored, State.wrapRing_room room]
  have bytes {n a : Nat} (h : a + n ≤ nvrBaseAddr) : (s.writeRecord x).le a n = (s.recordStored x).le a n :=
    congrArg ofLE (State.bytes_congr fun b _ hi => State.writeRecord_byte (by omega) s x)
  obtain ⟨flags, len, post, head⟩ := s.nextBytes_head x
  refine ⟨?_, ?_, fun a below => ?_⟩
  · rw [bytes (by omega), stored]
    exact State.le_store (pre := []) (n := 2) (v := 0x4352) (head.trans (List.nil_append _).symm) _ _
  · rw [State.word, bytes (by omega), stored]
    exact State.le_store (pre := toLE 2 0x4352 ++ toLE 1 1 ++ toLE 1 flags ++ toLE 4 len) (v := x.pcnt) (post := post) (head.trans (by simp only [List.append_assoc])) _ _
  · rw [State.writeRecord_byte (by omega), stored, State.byte_store_ne _ (.inl below), State.ringRoom_byte room]

end Sys2Proof.Machine
end

section
namespace Sys2Proof.Machine

variable {s t : State} {met : Met}

/-! ## What the reads of the scan meet (R253, R257) -/

/-- The allotment of class 2 and what has been used of it. -/
def State.SameAllot (s t : State) : Prop := t.rd memAllot = s.rd memAllot ∧ t.gmem.capUsed = s.gmem.capUsed

theorem State.SameAllot.trans {u : State} (h : State.SameAllot s t) (k : State.SameAllot t u) : State.SameAllot s u :=
  ⟨k.1.trans h.1, k.2.trans h.2⟩
theorem State.SameAllot.capLeft (h : State.SameAllot s t) : t.capLeft = s.capLeft := by
  obtain ⟨allot, used⟩ := h
  rw [State.capLeft, State.fld, allot, used]
  rfl
theorem memAllot_ne_memChstat (c : Nat) : memAllot ≠ memChstat c := by
  unfold memAllot memChstat
  omega
theorem State.memRetry_allot (s : State) (c : ChanN) (edc limit : Nat) : State.SameAllot s (s.memRetry c edc limit).1 := by
  refine ⟨?_, s.memRetry_capUsed c edc limit⟩
  unfold State.memRetry State.linkFail
  dsimp only
  split
  · rw [State.setMem_rd, State.rd_setBit_ne _ (by decide)]
    exact State.rd_setFld_ne _ (memAllot_ne_memChstat c) _ _ _
  · exact State.rd_setFld_ne _ (memAllot_ne_memChstat c) _ _ _
theorem State.memCorrected_allot (s : State) (n : Nat) : State.SameAllot s (s.memCorrected n) := by
  refine ⟨?_, congrArg Mem.capUsed ((State.memCorrected_does s n).part .gmem rfl)⟩
  unfold State.memCorrected
  split
  · rfl
  · exact (State.rd_setBit_ne _ (by decide) _ _).trans (State.rd_setFld_ne _ (by decide) _ _ _)
theorem State.meetBurst_allot (s : State) (a : Nat) (k : Check) : State.SameAllot s (s.meetBurst a k).1 := by
  have retry := s.memRetry_allot (s.chanOf a) k.edc (s.retryLimit false)
  unfold State.meetBurst
  dsimp only
  split
  · exact retry
  · have known (u : State) (l : List (Nat × Ecc)) : Does 0x80000000000 u (l.foldl (fun (s : State) e => s.setBad e.1 8) u) :=
      Does.foldl (Does.refl ..) fun v _ d => Does.setBad.andThen d rfl
    have noted (u : State) (l : List (Nat × Ecc)) : State.SameAllot u (l.foldl (fun (s : State) e => s.setBad e.1 8) u) :=
      ⟨(known u l).reg _ (by decide), congrArg Mem.capUsed ((known u l).part .gmem rfl)⟩
    exact retry.trans ((State.memCorrected_allot _ _).trans (noted _ _))
/-- The reads of a long read do not count against the allotment of class 2. -/
theorem State.meetReads_allot (s : State) (lo hi : Nat) (met : Met) : State.SameAllot s (s.meetReads lo hi met).1 := by
  induction met generalizing s with
  | nil => exact ⟨rfl, rfl⟩
  | cons x met ih =>
    unfold State.meetReads
    dsimp only
    split
    · exact (s.meetBurst_allot _ _).trans (ih _)
    · exact ih s

/-! ## The scan after a reset (R238) -/

/-- Where the scan ends, once its reads have lost the bursts `lost`. -/
def State.scanEnd (s : State) (lost : List Nat) : ScanEnd :=
  (s.without lost).scanRing (Nat.max 1 (s.fld capKeyint 15 0)) (s.rd capWptr) (s.word (ringBase + s.rd capLastkey + 8)) 0
/-- The bursts that it reads in this window. -/
def State.scanCount (s : State) (lost : List Nat) : Nat := Nat.min s.capLeft ((s.scanEnd lost).bursts - s.cap.scanned)
/-- They count against the allotment. -/
def State.scanCounted (s : State) (lost : List Nat) : State := s.setMem { s.gmem with capUsed := s.gmem.capUsed + s.scanCount lost }
/-- The uncorrectable word at which the scan has ended is recorded, unless its burst was lost. -/
def State.scanTold (s : State) (lost : List Nat) : State :=
  match (s.scanEnd lost).ue with
  | some u => if lost.contains (u / 64 * 64) then s.scanCounted lost else (s.scanCounted lost).memUe u false
  | none => s.scanCounted lost
/-- The scan goes on in a later window. -/
def State.scanHeld (s : State) (lost : List Nat) : State :=
  (s.scanCounted lost).setCap { (s.scanCounted lost).cap with scanned := s.cap.scanned + s.scanCount lost }
/-- The scan is over: CAP_WPTR stands where it ended. -/
def State.scanOver (s : State) (lost : List Nat) : State :=
  ((s.scanTold lost).wr capWptr (s.scanEnd lost).ofs).setCap { (s.scanTold lost).cap with
    scan := false, scanned := 0, any := (s.scanTold lost).cap.any || (s.scanEnd lost).ofs != s.rd capWptr }

theorem exec_ringScan_waits (waits : s.cap.scan = false ∨ s.memReady = false ∨ s.anyRetrain = true ∨ s.capLeft = 0) (met : Met) :
    exec (.ringScan met) s = .next s := by
  rw [exec_ringScan]
  refine if_neg ?_
  rcases waits with h | h | h | h <;> simp [h]

/-- The scan reads on within the allotment, or is over (R238, R257). -/
theorem exec_ringScan_reads (up : s.live .cap = true) (due : s.cap.scan = true) (ready : s.memReady = true) (idle : s.anyRetrain = false)
    (left : s.capLeft ≠ 0) (met : Met) : exec (.ringScan met) s = .next (
      let r := s.meetReads ringBase (ringBase + ringSize) met
      if r.1.cap.scanned + r.1.scanCount r.2 < (r.1.scanEnd r.2).bursts then r.1.scanHeld r.2 else r.1.scanOver r.2) := by
  have go : (s.live .cap && s.cap.scan && s.memReady && !s.anyRetrain && decide (0 < s.capLeft)) = true := by
    rw [up, due, ready, idle, decide_eq_true (Nat.pos_of_ne_zero left)]
    rfl
  exact (if_pos go).trans (apply_ite _ _ _ _).symm

theorem State.scanTold_cap (s : State) (lost : List Nat) : (s.scanTold lost).cap = s.cap := by
  unfold State.scanTold
  split
  · split
    · rfl
    · exact (State.memUe_does _ _ _).part .cap rfl
  · rfl
theorem State.scanTold_gmem (s : State) (lost : List Nat) : (s.scanTold lost).gmem = (s.scanCounted lost).gmem := by
  unfold State.scanTold
  split
  · split
    · rfl
    · exact (State.memUe_does _ _ _).part .gmem rfl
  · rfl
theorem State.scanOver_cap (s : State) (lost : List Nat) : (s.scanOver lost).cap =
    { s.cap with scan := false, scanned := 0, any := s.cap.any || (s.scanEnd lost).ofs != s.rd capWptr } := by
  rw [State.scanOver, State.setCap_cap, State.scanTold_cap]
theorem State.scanOver_wptr (s : State) (lost : List Nat) : (s.scanOver lost).rd capWptr = (s.scanEnd lost).ofs % 2 ^ 32 := State.rd_wr_self ..
/-- An uncorrectable word that the scan has met is recorded. -/
theorem State.scanOver_told {u : Nat} {lost : List Nat} (ended : (s.scanEnd lost).ue = some u) (kept : u / 64 * 64 ∉ lost) :
    (s.scanOver lost).bit memStatus 1 = true ∧ (s.scanOver lost).rd memUeaddr = 2 ^ 31 + u / 64 % 2 ^ 28 := by
  have told : s.scanTold lost = (s.scanCounted lost).memUe u false := by
    unfold State.scanTold
    rw [ended]
    exact if_neg fun h => kept (List.contains_iff_mem.1 h)
  obtain ⟨status, addr⟩ := (s.scanCounted lost).memUe_shows u
  rw [State.scanOver, told, State.setCap_bit, State.setCap_rd]
  exact ⟨(State.bit_wr_ne _ (by decide) _ _).trans status, (State.rd_wr_ne _ (by decide) _).trans addr⟩

/-! ### In terms of the state before the scan's reads -/

/-- The reads leave what the scan goes by: the unit's registers and parts, the bytes of the ring, and the allotment. -/
theorem State.scanEnd_reads (s : State) (met : Met) : let r := s.meetReads ringBase (ringBase + ringSize) met
    r.1.scanEnd r.2 = (r.1.without r.2).scanRing (Nat.max 1 (s.fld capKeyint 15 0)) (s.rd capWptr) (s.word (ringBase + s.rd capLastkey + 8)) 0 := by
  have does := s.meetReads_does ringBase (ringBase + ringSize) met
  have last (a : Nat) : (s.meetReads ringBase (ringBase + ringSize) met).1.word a = s.word a :=
    congrArg ofLE (State.bytes_congr fun b _ _ => does.part .mem rfl b)
  have keyint := does.reg capKeyint rfl
  have wptr := does.reg capWptr rfl
  have lastkey := does.reg capLastkey rfl
  simp only [State.scanEnd, State.fld, keyint, wptr, lastkey, last]

theorem State.scanRing_stops {ofs : Nat} (record : s.le (ringBase + ofs) 2 ≠ 0x4352) (marker : s.le (ringBase + ofs) 2 ≠ 0x4357)
    (n last bursts : Nat) : (s.scanRing (n + 1) ofs last bursts).ofs = ofs ∧ (s.scanRing (n + 1) ofs last bursts).bursts ≤ bursts + 144 := by
  have short (w : Nat) : bursts + Nat.max 1 (ceilDiv (Nat.min w recMax) 64) ≤ bursts + 144 := by
    have most : Nat.min w recMax ≤ 9216 := Nat.min_le_right ..
    refine Nat.add_le_add_left (Nat.max_le.2 ⟨by decide, ?_⟩) _
    unfold ceilDiv
    omega
  unfold State.scanRing
  dsimp only
  rw [if_neg marker]
  split
  · exact ⟨rfl, short _⟩
  · rw [if_neg fun good => record good.2.1]
    exact ⟨rfl, short _⟩

end Sys2Proof.Machine
end

section
namespace Sys2Proof.Machine

variable {s : State}

/-! ## The statement -/

/-- What CAPTURE_RECORD does with the bursts that are due. -/
theorem captureRecord_sends (up : s.live .cap = true) {x : Snap} (snap : s.cap.snap = some x) (free : s.capWithheld x = false) (edcs : List Nat) :
    ∃ t, exec (.captureRecord false edcs) s = .next t ∧ t.gmem.capUsed = s.gmem.capUsed + s.burstsSent x edcs ∧
      (s.cap.wrote + s.burstsSent x edcs < (s.recWrites x).length →
        t.cap = { s.cap with wrote := s.cap.wrote + s.burstsSent x edcs } ∧ Frame [.cap, .gmem] (pagesOf [memBase]) s t) ∧
      ((s.recWrites x).length ≤ s.cap.wrote + s.burstsSent x edcs → t = (s.recordSent x edcs).writeRecord x) := by
  have sent := s.recordSent_does x edcs
  have used := s.recordSent_capUsed x edcs
  refine ⟨_, exec_captureRecord_sends up snap free edcs, ?_, fun more => ?_, fun all => if_neg (Nat.not_lt.2 all)⟩
  · split
    · exact used
    · exact (congrArg Mem.capUsed ((State.writeRecord_does _ x).part .gmem rfl)).trans used
  · rw [if_pos more]
    refine ⟨?_, (Frame.doesPages sent (.refl ..) (by decide) (by decide)).upd_cap (by decide)⟩
    exact congrArg (fun c : Cap => { c with wrote := s.cap.wrote + s.burstsSent x edcs }) (sent.part .cap rfl)

/-- With the allotment of the window used up the record waits. -/
theorem captureRecord_waits (up : s.live .cap = true) {x : Snap} (snap : s.cap.snap = some x) (free : s.capWithheld x = false)
    (left : s.capLeft = 0) (more : s.cap.wrote < (s.recWrites x).length) (edcs : List Nat) : exec (.captureRecord false edcs) s = .next s := by
  have none_ := State.burstsDue_none left x edcs
  have sent : s.burstsSent x edcs = 0 := by
    rw [State.burstsSent, none_]
    rfl
  have same : s.recordSent x edcs = s := by
    rw [State.recordSent, sent, none_]
    rfl
  rw [exec_captureRecord_sends up snap free, sent, same, Nat.add_zero, if_pos more]
  rfl

/-- What the last burst of a record leaves. -/
theorem State.recordSent_written (s : State) (x : Snap) (edcs : List Nat) : let t := (s.recordSent x edcs).writeRecord x
    t.cap.snap = none ∧ t.cap.any = true ∧ t.cap.gap = false ∧ t.cap.dropped = false ∧ t.cap.wrote = 0 ∧
    t.rd capReccnt = (s.rd capReccnt + 1) % 2 ^ 32 ∧
    (ringSize - s.rd capWptr ≥ recMax → s.rd capWptr < ringSize →
      t.le (ringBase + s.rd capWptr) 2 = 0x4352 ∧ t.word (ringBase + s.rd capWptr + 8) = x.pcnt % 2 ^ 32 ∧
      ∀ a, a < ringBase + s.rd capWptr → t.byte a = s.byte a) := by
  have sent := s.recordSent_does x edcs
  have cap := (s.recordSent x edcs).writeRecord_cap x
  have wptr := sent.reg capWptr rfl
  dsimp only
  rw [cap, State.writeRecord_reccnt, sent.reg capReccnt rfl]
  refine ⟨rfl, rfl, rfl, rfl, rfl, rfl, fun room inside => ?_⟩
  obtain ⟨magic, count, below⟩ := State.writeRecord_stands (s := s.recordSent x edcs) (by rwa [wptr]) (by rwa [wptr]) x
  rw [wptr] at magic count below
  exact ⟨magic, count, fun a low => (below a low).trans (sent.part .mem rfl a)⟩

/-- What RING_SCAN does where nothing holds it back. -/
theorem ringScan_reads (up : s.live .cap = true) (due : s.cap.scan = true) (ready : s.memReady = true) (idle : s.anyRetrain = false)
    (left : s.capLeft ≠ 0) (met : Met) :
    let r := s.meetReads ringBase (ringBase + ringSize) met
    let e := (r.1.without r.2).scanRing (Nat.max 1 (s.fld capKeyint 15 0)) (s.rd capWptr) (s.word (ringBase + s.rd capLastkey + 8)) 0
    let n := Nat.min s.capLeft (e.bursts - s.cap.scanned)
    ∃ t, exec (.ringScan met) s = .next t ∧ t.gmem.capUsed = s.gmem.capUsed + n ∧ Frame [.cap, .gmem, .saf, .flaws] (pagesOf [capBase, memBase]) s t ∧
      (s.cap.scanned + n < e.bursts → t.cap = { s.cap with scanned := s.cap.scanned + n } ∧ t.rd capWptr = s.rd capWptr) ∧
      (e.bursts ≤ s.cap.scanned + n → t.cap = { s.cap with scan := false, scanned := 0, any := s.cap.any || e.ofs != s.rd capWptr } ∧
        t.rd capWptr = e.ofs % 2 ^ 32 ∧
        ∀ u, e.ue = some u → u / 64 * 64 ∉ r.2 → t.bit memStatus 1 = true ∧ t.rd memUeaddr = 2 ^ 31 + u / 64 % 2 ^ 28) := by
  intro r e n
  have does : Does 0x80010000400 s r.1 := s.meetReads_does ringBase (ringBase + ringSize) met
  have allot : State.SameAllot s r.1 := s.meetReads_allot ringBase (ringBase + ringSize) met
  have cap : r.1.cap = s.cap := does.part .cap rfl
  have wptr : r.1.rd capWptr = s.rd capWptr := does.reg capWptr rfl
  have ended : r.1.scanEnd r.2 = e := s.scanEnd_reads met
  have count : r.1.scanCount r.2 = n := by rw [State.scanCount, allot.capLeft, ended, cap]
  have counted : (r.1.scanCounted r.2).gmem.capUsed = s.gmem.capUsed + n := by
    rw [State.scanCounted, State.setMem_gmem, allot.2, count]
  have run := exec_ringScan_reads up due ready idle left met
  change exec (.ringScan met) s = .next (if r.1.cap.scanned + r.1.scanCount r.2 < (r.1.scanEnd r.2).bursts then _ else _) at run
  rw [cap, count, ended] at run
  refine ⟨_, run, ?_, Frame.out (execRingScan_does met s) run (by decide) (by decide), fun more => ?_, fun all => ?_⟩
  · split
    · exact counted
    · exact (congrArg Mem.capUsed (r.1.scanTold_gmem r.2)).trans counted
  · rw [if_pos more, State.scanHeld, State.setCap_cap, State.setCap_rd, count, ← cap]
    exact ⟨rfl, wptr⟩
  · rw [if_neg (Nat.not_lt.2 all), State.scanOver_cap, State.scanOver_wptr, ended, cap, wptr]
    exact ⟨rfl, rfl, fun u ue kept => State.scanOver_told ((congrArg ScanEnd.ue ended).trans ue) kept⟩

/-- Where neither a record nor a marker stands at CAP_WPTR the scan leaves the ring. -/
theorem ringScan_none (up : s.live .cap = true) (due : s.cap.scan = true) (ready : s.memReady = true) (idle : s.anyRetrain = false)
    (left : 144 ≤ s.capLeft) (record : s.le (ringBase + s.rd capWptr) 2 ≠ 0x4352) (marker : s.le (ringBase + s.rd capWptr) 2 ≠ 0x4357) :
    ∃ t, exec (.ringScan []) s = .next t ∧ t.cap = { s.cap with scan := false, scanned := 0 } ∧ t.rd capWptr = s.rd capWptr := by
  obtain ⟨t, run, -, -, -, over_⟩ := ringScan_reads up due ready idle (by omega) []
  obtain ⟨n, more⟩ : ∃ n, Nat.max 1 (s.fld capKeyint 15 0) = n + 1 := Nat.exists_eq_add_of_le' (Nat.le_max_left ..)
  obtain ⟨ofs, bursts⟩ := State.scanRing_stops record marker n (s.word (ringBase + s.rd capLastkey + 8)) 0
  have plain : (s.meetReads ringBase (ringBase + ringSize) []).1.without (s.meetReads ringBase (ringBase + ringSize) []).2 = s := rfl
  rw [plain, more] at over_
  generalize s.scanRing (n + 1) (s.rd capWptr) (s.word (ringBase + s.rd capLastkey + 8)) 0 = e at ofs bursts over_
  have all : Nat.min s.capLeft (e.bursts - s.cap.scanned) = e.bursts - s.cap.scanned := Nat.min_eq_right (by omega)
  obtain ⟨cap, wptr, -⟩ := over_ (by omega)
  rw [ofs, bne_self_eq_false, Bool.or_false] at cap
  rw [ofs, Nat.mod_eq_of_lt (s.rd_lt _)] at wptr
  exact ⟨t, run, cap, wptr⟩

/-- Settles O19: triggers and commands by what they find of the ring, a record by what of it goes out (log
entry 115), the scan by where it ends. -/
theorem captureRing : Obligations.CaptureRing := by
  intro s up
  refine ⟨fun src off => exec_captureTrigger_disabled off, fun src on frozen resume => ?lost, fun src on counts => ?counts, fun on running => ?trig,
    fun x snap => ⟨fun withheld edcs stop => ?drops, fun edcs free left more => ?waits, fun edcs free => ?sends⟩, fun running => ?freeze,
    fun frozen => ?frozen, fun frozen => ?resume, fun running => ⟨exec_captureResume_running running, exec_clear_running running⟩,
    exec_clear_frozen up, fun fired ended none_ running => ?ends, fun waits => exec_ringScan_waits waits,
    fun due ready idle left met => ringScan_reads up due ready idle left met, fun due ready idle left => ringScan_none up due ready idle left⟩
  case lost => exact ⟨_, rfl, State.capTrig_loses up on frozen resume⟩
  case counts =>
    obtain ⟨cap, shows, frame⟩ := State.capTrig_counts up on counts
    exact ⟨_, rfl, cap, shows, frame⟩
  case trig =>
    obtain ⟨cap, -, frame⟩ := State.capTrig_counts (s := s.did [12]) (src := 0) up on (.inl running)
    exact ⟨_, rfl, cap, (State.did_frame (by decide) _).trans frame⟩
  case drops => exact ⟨_, exec_captureRecord_drops up snap stop edcs, s.dropRecord_drops⟩
  case waits => exact captureRecord_waits up snap free left more edcs
  case sends =>
    intro all sent
    obtain ⟨t, run, used, part, whole⟩ := captureRecord_sends up snap free edcs
    refine ⟨t, run, used, State.burstsSent_clean free, part, fun last => ?_, Frame.out (execCaptureRecord_does false edcs s) run (by decide) (by decide)⟩
    rw [whole last]
    exact s.recordSent_written x edcs
  case freeze =>
    obtain ⟨status, cap, frame⟩ := (s.did [13]).freezeRing_freezes 2 (by decide)
    exact ⟨_, exec_freeze_running up running, status, cap, (State.did_frame (by decide) _).trans frame⟩
  case frozen => exact ⟨_, exec_freeze_frozen up frozen, rfl, (State.did_frame (by decide) _).upd_cap (by decide)⟩
  case resume => exact ⟨_, exec_captureResume_frozen up frozen, rfl, (Frame.refl ..).upd_cap (by decide)⟩
  case ends =>
    obtain ⟨status, -, frame⟩ := s.freezeRing_freezes 1 (by decide)
    exact ⟨_, exec_postTriggerEnd_freezes up fired ended none_ running, status, frame⟩

end Sys2Proof.Machine
end

section
/-!
PROOFS of O53: the clock gates and the resets of blocks.
-/
namespace Sys2Proof.Machine

variable {s t u : State} {b : Blk} {ps : List Part} {rs : Nat → Prop}

/-! ## The requests outstanding to a block (R454, R455) -/

theorem gateable_iff : gateable b = true ↔ b ≠ .mem ∧ b ≠ .per := by cases b <;> decide
theorem blkIdx_lt (b : Blk) : blkIdx b < 10 := by cases b <;> decide
theorem blkIdx_lt_eight (gate : gateable b = true) : blkIdx b < 8 := of_decide_eq_true gate

/-- How the requests outstanding to block b stand to its gate becomes what f makes of it. -/
def State.Regated (b : Blk) (f : Gate → Gate) (s t : State) : Prop :=
  t.port = { s.port with reads := s.port.reads.map fun x => if onBlock b x.addr then { x with gate := f x.gate } else x } ∧
  ∀ n, t.core n = { s.core n with
    pend := (s.core n).pend.map fun x => if onBlock b x.addr then { x with gate := f x.gate } else x
    stores := (s.core n).stores.map fun x => if onBlock b x.addr then { x with gate := f x.gate } else x }
theorem State.gateRequests_regates (s : State) (b : Blk) (f : Gate → Gate) : State.Regated b f s (s.gateRequests b f) :=
  ⟨rfl, fun n => Vector.getElem_map _ n.isLt⟩
theorem State.Regated.of_same {f : Gate → Gate} (h : State.Regated b f u t) (port : u.port = s.port) (cores : u.cores = s.cores) :
    State.Regated b f s t := by
  unfold State.Regated State.core at h ⊢
  rwa [port, cores] at h
theorem State.Regated.to_same {f : Gate → Gate} (h : State.Regated b f s t) (port : u.port = t.port) (cores : u.cores = t.cores) :
    State.Regated b f s u := by
  unfold State.Regated State.core at h ⊢
  rwa [port, cores]
theorem State.gateRequests_bit (s : State) (b : Blk) (f : Gate → Gate) (a i : Nat) : (s.gateRequests b f).bit a i = s.bit a i := rfl

/-- The accesses that `hit` names are to end in error responses. -/
def State.Loses (hit : Nat → Bool) (s t : State) : Prop :=
  t.port = { s.port with reads := s.port.reads.map fun x => if hit x.addr then { x with lost := true } else x } ∧
  ∀ n, t.core n = { s.core n with pend := (s.core n).pend.map fun x => if hit x.addr then { x with lost := true } else x }
theorem State.loseAccesses_loses (s : State) (hit : Nat → Bool) : State.Loses hit s (s.loseAccesses hit) :=
  ⟨rfl, fun n => Vector.getElem_map _ n.isLt⟩
theorem State.Loses.of_same {hit : Nat → Bool} (h : State.Loses hit u t) (port : u.port = s.port) (cores : u.cores = s.cores) :
    State.Loses hit s t := by
  unfold State.Loses State.core at h ⊢
  rwa [port, cores] at h
theorem State.Loses.to_same {hit : Nat → Bool} (h : State.Loses hit s t) (port : u.port = t.port) (cores : u.cores = t.cores) :
    State.Loses hit s u := by
  unfold State.Loses State.core at h ⊢
  rwa [port, cores]

/-! ## Clock gates (R453, R454) -/

/-- With the compute die off no command on a gate or a block reset acts; MEM and PER have no gate. -/
theorem exec_gates_off (off : gateable b = false ∨ s.clk.cdUp = false) : exec (.gateClose b) s = .next s ∧
    (∀ f, exec (.gateClosed b f) s = .next s) ∧ exec (.gateOpen b) s = .next s := by
  have none_ : (gateable b && s.clk.cdUp) = false := Bool.and_eq_false_iff.2 off
  refine ⟨congrArg _ (if_neg ?_), fun f => if_neg ?_, congrArg _ (if_neg ?_)⟩ <;> simp [none_]

theorem exec_gateClose_closed (h : s.bit clkGate (blkIdx b) = true) : exec (.gateClose b) s = .next s :=
  congrArg _ (if_neg (by simp [h]))
/-- A close request bars new accesses; what is in flight may finish (log entry 49). -/
theorem exec_gateClose_closes (gate : gateable b = true) (up : s.clk.cdUp = true) (open_ : s.bit clkGate (blkIdx b) = false) :
    exec (.gateClose b) s = .next ((s.setBit clkGate (blkIdx b) true).gateRequests b fun g => if g = .free then .closing else g) :=
  congrArg _ (if_pos (by rw [gate, up, open_]; rfl))

theorem exec_gateClosed_idle (h : s.bit clkGate (blkIdx b) = false ∨ s.gated b = true) (f : Bool) : exec (.gateClosed b f) s = .next s := by
  refine if_neg ?_
  rcases h with h | h <;> simp [h]
theorem exec_gateClosed_shuts (gate : gateable b = true) (up : s.clk.cdUp = true) (asked : s.bit clkGate (blkIdx b) = true)
    (open_ : s.gated b = false) (f : Bool) : exec (.gateClosed b f) s = .next (s.gateShut b f) :=
  if_pos (by rw [gate, up, asked, open_]; rfl)

/-- Before the requests are forced: the gate shows closed, and whether something was in flight. -/
def State.gateShown (s : State) (b : Blk) (forced : Bool) : State :=
  let t := (s.keepBlock b).setBit clkGstat (blkIdx b) true
  if forced then t.setBit clkGstat (16 + blkIdx b) true else t
theorem State.gateShut_eq (s : State) (b : Blk) (f : Bool) :
    s.gateShut b f = (s.gateShown b (f || s.inFlight b)).gateRequests b fun _ => .forced := rfl
theorem State.keepBlock_bit (s : State) (b : Blk) (a i : Nat) : (s.keepBlock b).bit a i = s.bit a i :=
  State.bit_congr ((State.keepBlock_does s b).rd_kept (by decide) a) i
/-- The bits of CLK_GSTAT of a gate that has closed. -/
theorem State.gateShown_bit (gate : gateable b = true) (s : State) (forced : Bool) (j : Nat) : (s.gateShown b forced).bit clkGstat j =
    if j = 16 + blkIdx b then forced || s.bit clkGstat j else if j = blkIdx b then true else s.bit clkGstat j := by
  have small := blkIdx_lt_eight gate
  have closed (j : Nat) : ((s.keepBlock b).setBit clkGstat (blkIdx b) true).bit clkGstat j = if j = blkIdx b then true else s.bit clkGstat j := by
    rw [State.bit_setBit _ _ _ _ (by omega), s.keepBlock_bit]
    simp only [true_and]
  unfold State.gateShown
  cases forced with
  | true =>
    rw [if_pos rfl, State.bit_setBit _ _ _ _ (by omega), closed]
    simp only [true_and, Bool.true_or]
  | false =>
    rw [if_neg Bool.false_ne_true, closed, Bool.false_or]
    by_cases e : j = 16 + blkIdx b
    · rw [if_pos e, if_neg (by omega)]
    · rw [if_neg e]
theorem State.gateShown_frame (s : State) (b : Blk) (forced : Bool) : Frame [.port, .cores, .pins, .freeCtr] (regsOf [clkGstat]) s (s.gateShown b forced) := by
  have kept := (Frame.doesNone (State.keepBlock_does s b) (Frame.refl [.port, .cores, .pins, .freeCtr] (regsOf [clkGstat]) s) (by decide) (by decide)).setBit
    (i := blkIdx b) (b := true) (List.mem_singleton.2 rfl)
  exact .ite (kept.setBit (List.mem_singleton.2 rfl)) kept
theorem State.gateShown_parts (s : State) (b : Blk) (forced : Bool) :
    (s.gateShown b forced).port = s.port ∧ (s.gateShown b forced).cores = s.cores := by
  have kept := State.keepBlock_does s b
  unfold State.gateShown
  cases forced <;> exact ⟨kept.part .port rfl, kept.part .cores rfl⟩

/-- An open request clears the bit of CLK_GATE, and what was in flight is free again. -/
def State.gateAsked (s : State) (b : Blk) : State := (s.setBit clkGate (blkIdx b) false).gateRequests b fun g => if g = .closing then .free else g
theorem exec_gateOpen_opens (gate : gateable b = true) (up : s.clk.cdUp = true) : exec (.gateOpen b) s = .next (
    if s.clk.power = .idle ∧ b ≠ .chn then s.gateAsked b
    else ((s.gateAsked b).setBit clkGstat (blkIdx b) false).setBit clkGstat (16 + blkIdx b) false) :=
  congrArg _ (if_pos (by rw [gate, up]; rfl))
theorem State.gateAsked_bit (s : State) (b : Blk) : (s.gateAsked b).bit clkGate (blkIdx b) = false :=
  State.bit_setBit_self s false (Nat.lt_trans (blkIdx_lt b) (by decide))
theorem State.gateAsked_frame (hr : rs clkGate) (s : State) (b : Blk) : Frame [.port, .cores] rs s (s.gateAsked b) :=
  Frame.doesNone (State.gateRequests_does ..) ((Frame.refl ..).setBit hr) (by decide) (by decide)
theorem State.gateAsked_regates (s : State) (b : Blk) : State.Regated b (fun g => if g = .closing then .free else g) s (s.gateAsked b) :=
  (State.gateRequests_regates _ b _).of_same rfl rfl

/-! ## A block reset begins (R455) -/

theorem exec_blockReset_off (off : s.inReset b = true ∨ s.clk.cdUp = false) : exec (.blockReset b) s = .next s := by
  refine congrArg _ (if_pos ?_)
  rcases off with h | h <;> simp [h]
theorem exec_blockResetRelease_off (off : s.inReset b = false ∨ s.clk.cdUp = false) : exec (.blockResetRelease b) s = .next s := by
  refine if_neg ?_
  rcases off with h | h <;> simp [h]

/-- The addresses whose accesses a reset of block b ends. -/
def resetHits (b : Blk) (a : Nat) : Bool := decide (blkBase b ≤ a ∧ a < blkBase b + 0x10000 ∨ b = .mem ∧ a < gddrEnd)
theorem resetHits_eq (b : Blk) : (fun a => onBlock b a || decide (b = .mem ∧ a < gddrEnd)) = resetHits b :=
  funext fun _ => (Bool.decide_or ..).symm
/-- The block is held in reset, from the state in which the devices are in self-refresh if they have to be. -/
def State.resetHeld (s : State) (b : Blk) : State := ((s.loseAccesses (resetHits b)).keepBlock b).setBit pwrBrstat (blkIdx b) true
theorem exec_blockReset_starts (up : s.clk.cdUp = true) (out : s.inReset b = false) :
    exec (.blockReset b) s = .next ((if b = .mem then s.toSelfRefresh else s).resetHeld b) := by
  refine congrArg _ ((if_neg (by rw [out, up]; decide)).trans ?_)
  rw [State.resetHeld, ← resetHits_eq]
theorem State.resetHeld_inReset (s : State) (b : Blk) : (s.resetHeld b).inReset b = true :=
  State.bit_setBit_self _ true (Nat.lt_trans (blkIdx_lt b) (by decide))
theorem State.resetHeld_loses (s : State) (b : Blk) : State.Loses (resetHits b) s (s.resetHeld b) := by
  have kept := State.keepBlock_does (s.loseAccesses (resetHits b)) b
  exact (s.loseAccesses_loses _).to_same (kept.part .port rfl) (kept.part .cores rfl)
/-- The reset of a block keeps its pins' levels; MEM has none. -/
theorem State.resetHeld_frame (hr : rs pwrBrstat) (s : State) (b : Blk) : Frame [.port, .cores, .pins, .freeCtr] rs s (s.resetHeld b) :=
  (Frame.doesNone (State.keepBlock_does ..) (Frame.doesNone (State.loseAccesses_does ..) (.refl ..) (by decide) (by decide)) (by decide)
    (by decide)).setBit hr
theorem State.resetHeld_mem_frame (hr : rs pwrBrstat) (h : Frame ps rs s t) (hp : footParts 0x6000 ps = true) : Frame ps rs s (t.resetHeld .mem) :=
  (Frame.doesNone (State.loseAccesses_does ..) h hp (by decide)).setBit hr

end Sys2Proof.Machine
end
section
namespace Sys2Proof.Machine

variable {s t u : State} {b : Blk} {ps : List Part} {rs : Nat → Prop}

/-! ## The sequence of R259 before a reset of MEM -/

/-- A write that is served changes the memory, MEM's parts, and the flag of a refused write to a chart buffer (R145, R246). -/
theorem State.gddrServe_write_does (s : State) (u : MemUser) (a n : Nat) (bs : List Byte) (k : Check) :
    Does 0x80012000c01 s (s.gddrServe u a n (some bs) k).1 := by
  have retry (c : ChanN) (limit : Nat) : Does 0x80012000c01 s (s.memRetry c k.edc limit).1 := (State.memRetry_does ..).mono rfl
  unfold State.gddrServe
  dsimp only
  split
  · exact Does.refl ..
  · split
    · exact (Does.refl ..).setBit rfl
    · split
      · exact (Does.refl ..).setBit rfl
      · split
        · exact Does.refl ..
        · split
          · exact Does.refl ..
          · split
            · exact (State.poisonLater_does ..).andThen (retry ..) rfl
            · exact (State.gddrStore_does ..).andThen (retry ..) rfl
theorem State.serveNow_write_does {q : MemReq} (write : q.data.isSome = true) (s : State) : Does 0x80012000c01 s (s.serveNow q) := by
  obtain ⟨bs, data⟩ := Option.isSome_iff_exists.1 write
  unfold State.serveNow
  dsimp only
  rw [data]
  exact (State.gddrServe_write_does ..).andThen ((State.setMem_does ..).mono rfl) rfl
theorem State.finishWrites_write_does (s : State) : Does 0x80012000c01 s s.finishWrites := by
  unfold State.finishWrites
  rw [List.foldl_filter]
  refine Does.foldl (Does.refl ..) fun u q done => ?_
  split
  · next write => exact (State.serveNow_write_does write u).andThen done rfl
  · exact done
theorem State.finishWrites_none (none_ : ∀ q ∈ s.gmem.waiting, q.data = none) : s.finishWrites = s := by
  have empty : (s.gmem.waiting.filter fun q => q.data.isSome) = [] :=
    List.filter_eq_nil_iff.2 fun q mem => by rw [none_ q mem]; exact Bool.false_ne_true
  rw [State.finishWrites, empty]
  rfl

theorem State.toSelfRefresh_idle (h : s.gmem.selfRefresh = true) : s.toSelfRefresh = s := if_pos h
theorem State.toSelfRefresh_enters (h : s.gmem.selfRefresh = false) : s.toSelfRefresh =
    ((s.finishWrites.setBit memStatus 31 false).setBit memStatus 30 (s.bit memStatus 31)).setMem
      { s.finishWrites.gmem with selfRefresh := true, retained := s.bit memStatus 31, waiting := [] } :=
  if_neg (by rw [h]; decide)
/-- The sequence of R259 with what it leaves on the MEM page. -/
theorem State.toSelfRefresh_entered (h : s.gmem.selfRefresh = false) : s.toSelfRefresh.gmem.selfRefresh = true ∧
    s.toSelfRefresh.gmem.waiting = [] ∧ s.toSelfRefresh.bit memStatus 31 = false ∧ s.toSelfRefresh.bit memStatus 30 = s.bit memStatus 31 ∧
    Does 0x80012000c01 s s.toSelfRefresh := by
  rw [State.toSelfRefresh_enters h]
  refine ⟨rfl, rfl, ?_, ?_, ?_⟩
  · rw [State.setMem_bit, State.bit_setBit _ _ _ _ (by decide), if_neg (by decide), State.bit_setBit_self _ _ (by decide)]
  · rw [State.setMem_bit, State.bit_setBit_self _ _ (by decide)]
  · exact (State.setMem_does ..).andThen ((s.finishWrites_write_does.setBit rfl).setBit rfl) rfl
/-- With no write waiting only the state of the devices changes. -/
theorem State.toSelfRefresh_plain (h : s.gmem.selfRefresh = false) (none_ : ∀ q ∈ s.gmem.waiting, q.data = none) :
    s.toSelfRefresh.gmem = { s.gmem with selfRefresh := true, retained := s.bit memStatus 31, waiting := [] } ∧
    Frame [.gmem, .port, .cores] (regsOf [pwrBrstat, memStatus]) s s.toSelfRefresh := by
  rw [State.toSelfRefresh_enters h, State.finishWrites_none none_]
  exact ⟨rfl, (((Frame.refl ..).setBit (by simp [regsOf])).setBit (by simp [regsOf])).upd_gmem (by decide)⟩

end Sys2Proof.Machine
end
section
namespace Sys2Proof.Machine

variable {s t u : State} {b : Blk} {ps : List Part} {rs : Nat → Prop} {a : Nat}

/-! ## The content of a block after its reset (R12, R455) -/

theorem pagesOf_iff {x : Nat} : pagesOf [x] a ↔ x ≤ a ∧ a < x + 0x10000 := by simp [pagesOf]
/-- The page of block b is at its reset values. -/
def State.pageFresh (s : State) (b : Blk) : State := s.resetRegs (blkBase b) (blkBase b + 0x10000)
theorem State.pageFresh_frame (ps : List Part) (s : State) (b : Blk) : Frame ps (pagesOf [blkBase b]) s (s.pageFresh b) := by
  refine ⟨fun p _ => ?_, fun a out => (State.rd_resetRegs ..).trans (if_neg fun page => out (pagesOf_iff.2 page)), rfl⟩
  cases p with
  | mem => exact fun _ => rfl
  | _ => rfl
theorem State.pageFresh_rd (lo : blkBase b ≤ a) (hi : a < blkBase b + 0x10000) (s : State) : (s.pageFresh b).rd a = (regReset a).toNat :=
  (State.rd_resetRegs ..).trans (if_pos ⟨lo, hi⟩)

/-! ### SRCH (R126, log entry 112) -/

theorem State.each_owed (l : List Slot) (once : l.Nodup) (s : State) (p : Slot) :
    (s.each l fun (s : State) p => s.setProb p (s.prob p).owed).prob p = if p ∈ l then (s.prob p).owed else s.prob p := by
  induction l generalizing s with
  | nil => exact (if_neg List.not_mem_nil).symm
  | cons q l ih =>
    obtain ⟨fresh, rest⟩ := List.nodup_cons.1 once
    refine (ih rest (s.setProb q (s.prob q).owed)).trans ?_
    by_cases e : p = q
    · subst e
      rw [if_neg fresh, if_pos List.mem_cons_self, State.prob_setProb_self]
    · rw [State.prob_setProb_ne _ e]
      exact if_congr (by rw [List.mem_cons, or_iff_right e]) rfl rfl
theorem State.srchRestart_prob (s : State) (p : Slot) : s.srchRestart.prob p = (s.prob p).owed := by
  have cls (u : State) : Does 0x8 u (u.each allCls fun (s : State) c => s.setCl c {}) := Does.each (Does.refl ..) fun v _ d => Does.setCl.andThen d rfl
  exact ((cls _).prob rfl p).trans ((State.each_owed _ (List.nodup_finRange 4) _ p).trans (if_pos (List.mem_finRange p)))
theorem State.srchRestart_rot (s : State) : s.srchRestart.rot = {} := by
  have probs (u : State) : Does 0x4 u (u.each allSlots fun (s : State) p => s.setProb p (s.prob p).owed) :=
    Does.each (Does.refl ..) fun v _ d => Does.setProb.andThen d rfl
  have cls (u : State) : Does 0x8 u (u.each allCls fun (s : State) c => s.setCl c {}) := Does.each (Does.refl ..) fun v _ d => Does.setCl.andThen d rfl
  exact ((cls _).part .rot rfl).trans ((probs _).part .rot rfl)
/-- With every cluster in the mask none is timed and none is late (R286). -/
theorem State.untime_all (s : State) : s.untime 0xFFFF = (s.setSaf { s.saf with timed := 0, late := 0, passes := [] }).endCause 11 := by
  have masked : ∀ c : Cl, Nat.testBit 0xFFFF c = true := by decide
  have none_ : (s.saf.passes.filter fun x => !Nat.testBit 0xFFFF x.1) = [] :=
    List.filter_eq_nil_iff.2 fun x _ => by rw [masked]; exact Bool.false_ne_true
  have keep (x : Nat) : x &&& (0xFFFF ^^^ 0xFFFF % 65536) = 0 := Nat.and_zero x
  unfold State.untime
  dsimp only
  rw [keep, keep, none_]
  exact if_pos rfl
theorem State.endCause_self (s : State) : (s.endCause 11).saf.active.testBit 11 = false := by
  have out : Nat.testBit (allBits ^^^ 2 ^ 11) 11 = false := by decide
  exact (Nat.testBit_and ..).trans (by rw [out, Bool.and_false])

/-! ### CHRT and CAP (R169, R238, R261) -/

theorem State.chartRestart_chart (s : State) : s.chartRestart.chart = { reverBuf := s.chartRestart.chart.reverBuf } := by
  unfold State.chartRestart
  dsimp only
  split <;> rfl
/-- Both buffers are EMPTY, with no activation pending. -/
def State.bufsEmpty (s : State) : State :=
  ((((s.setBufState .bufA 0).setBufState .bufB 0).setActive none).setBufPend .bufA false).setBufPend .bufB false
/-- Nothing of the chart unit runs. -/
def State.chartEmptied (s : State) : State := { s.bufsEmpty with chart := {} }
theorem State.bufsEmpty_state (s : State) (b : Buf) : s.bufsEmpty.bufState b = 0 := by
  have active (u : State) : (u.setActive none).bufState b = u.bufState b :=
    State.bufState_congr ((State.rd_setFld_ne _ (chrtBuf_apart b).1 ..).trans (State.rd_setFld_ne _ (chrtBuf_apart b).1 ..))
  have pend (u : State) (c : Buf) : (u.setBufPend c false).bufState b = u.bufState b := by
    by_cases e : c = b
    · subst e
      exact State.bufState_setBufPend false
    · exact State.bufState_congr (State.rd_setBufPend_ne (by revert e; cases b <;> cases c <;> decide) false)
  have states : ((s.setBufState .bufA 0).setBufState .bufB 0).bufState b = 0 := by
    cases b with
    | bufA => exact (State.bufState_congr (State.rd_setBufState_ne (by decide) 0)).trans (State.bufState_setBufState (by decide))
    | bufB => exact State.bufState_setBufState (by decide)
  rw [State.bufsEmpty, pend, pend, active, states]
theorem State.chartEmptied_state (s : State) (b : Buf) : s.chartEmptied.bufState b = 0 :=
  (State.bufState_congr (Does.upd_chart.rd_kept (by decide) _)).trans (s.bufsEmpty_state b)
/-- Without retention both chart buffers stay EMPTY, and CHRT_GEN is 0. -/
theorem State.chartRestart_lost (lost : s.gmem.retained = false) : s.chartRestart.chart = {} ∧ s.chartRestart.rd chrtGen = 0 ∧
    ∀ b, s.chartRestart.bufState b = 0 := by
  have run : s.chartRestart = (s.chartEmptied.wr chrtGen 0).setBit chrtStatus 27 false := by
    unfold State.chartRestart
    dsimp only
    split
    · next kept _ => exact absurd (lost.symm.trans kept) Bool.false_ne_true
    · rfl
  rw [run]
  refine ⟨rfl, ?_, fun b => ?_⟩
  · rw [State.rd_setBit_ne _ (by decide), State.rd_wr_self]
    rfl
  · rw [← s.chartEmptied_state b]
    refine State.bufState_congr ?_
    rw [State.rd_setBit_ne _ (chrtBuf_apart b).1, State.rd_wr_ne _ (by cases b <;> decide)]

/-- A field within the field that was written. -/
theorem bits_putBits {x v hi lo hi' lo' : Nat} (order : lo' ≤ hi') (below : lo ≤ lo') (above : hi' ≤ hi) :
    bits (putBits x hi lo v) hi' lo' = bits v (hi' - lo) (lo' - lo) := by
  refine Nat.eq_of_testBit_eq fun i => ?_
  rw [testBit_bits, testBit_bits, testBit_putBits (by omega), show hi' - lo - (lo' - lo) = hi' - lo' by omega]
  by_cases inside : i < hi' - lo' + 1
  · rw [if_pos ⟨by omega, by omega⟩, show i + lo' - lo = i + (lo' - lo) by omega]
  · rw [decide_eq_false inside, Bool.false_and, Bool.false_and]
theorem State.capRestart_lost (s : State) : s.capRestart false = s.setCap {} := rfl
/-- The ring that self-refresh has kept is frozen, FCAUSE 3, and its scan due. -/
theorem State.capRestart_kept (s : State) : (s.capRestart true).bit capStatus 31 = true ∧ (s.capRestart true).fld capStatus 30 28 = 3 ∧
    (s.capRestart true).cap.scan = true := by
  have shown (u : State) : (u.setFld capStatus 31 27 (16 + 2 * 3)).rd capStatus = putBits (u.rd capStatus) 31 27 22 :=
    (State.rd_setFld _ _ (by decide) (by decide)).trans (if_pos rfl)
  unfold State.capRestart
  dsimp only
  rw [if_pos rfl]
  refine ⟨?_, ?_, rfl⟩
  · rw [State.bit, State.setCap_rd, shown, testBit_putBits (by decide), if_pos (by decide)]
    decide
  · rw [State.fld, State.setCap_rd, shown, bits_putBits (by decide) (by decide) (by decide)]
    decide

/-! ### CHN (R301, R310) -/

/-- Bring-up of an enabled port writes CHN_PORTSTAT alone. -/
theorem State.portLocking_rd (h : a ≠ chnPortstat) (s : State) (p : ChPort) (st : Nat) : (s.portLocking p st).rd a = s.rd a := by
  have shown (u : State) (v : Nat) : (u.setPortState p v).rd a = u.rd a := State.rd_setFld_ne u h ..
  unfold State.portLocking
  dsimp only
  split
  · exact ((State.startMeasure_does ..).rd_kept (by decide) a).trans ((shown ..).trans (shown ..))
  · exact shown ..
theorem State.portEnable_rd (h : a ≠ chnPortstat) (s : State) (p : ChPort) : (s.portEnable p true).rd a = s.rd a := by
  unfold State.portEnable
  rw [if_pos rfl]
  split
  · exact State.portLocking_rd h ..
  · rfl
theorem State.portEnable_chain_does (s : State) (p : ChPort) : Does 0x20001000 s (s.portEnable p true) := by
  unfold State.portEnable
  rw [if_pos rfl]
  exact Does.ite (State.portLocking_does ..) (Does.refl ..)
/-- The ports of the chain block act again. -/
def State.chnPorts (s : State) : State := if s.clk.cdUp then (s.chnCleared.portEnable .up true).portEnable .dn true else s.chnCleared
theorem State.chnPorts_does (s : State) : Does 0x20001000 s.chnCleared s.chnPorts :=
  Does.ite ((State.portEnable_chain_does ..).andThen (State.portEnable_chain_does ..) rfl) (Does.refl ..)
theorem State.chnPorts_rd (h : a ≠ chnPortstat) (s : State) : s.chnPorts.rd a = s.chnCleared.rd a := by
  unfold State.chnPorts
  split
  · exact (State.portEnable_rd h ..).trans (State.portEnable_rd h ..)
  · rfl
/-- No lane to the peer is lost when the block restarts: PEERLN is 0 before. -/
theorem State.chnRestart_checked (s : State) : s.chnRestart = s.chnPorts.setBit chnPairstat 5 s.chnPorts.peerLane := by
  have before : s.chnPorts.bit chnPairstat 5 = false := (State.bit_congr (s.chnPorts_rd (by decide)) 5).trans State.chnCleared_pairstat
  exact State.chnRestart_eq.trans (State.peerCheck_kept fun k => Bool.noConfusion (before.symm.trans k))
/-- CHN_ADDR and CHN_PILOT are kept (R301). -/
theorem State.chnRestart_keeps (s : State) : s.chnRestart.rd chnAddr = s.rd chnAddr ∧ s.chnRestart.rd chnPilot = s.rd chnPilot := by
  have kept (a : Nat) (h : a ≠ chnPortstat) (h' : a ≠ chnPairstat) : s.chnRestart.rd a = s.chnCleared.rd a := by
    rw [State.chnRestart_checked, State.rd_setBit_ne _ h', State.chnPorts_rd h]
  rw [kept chnAddr (by decide) (by decide), kept chnPilot (by decide) (by decide), State.chnCleared, State.setChain_rd, State.setChain_rd,
    State.rd_wr_self, State.rd_wr_ne _ (by decide), State.rd_wr_self]
  exact ⟨Nat.mod_eq_of_lt (s.rd_lt _), Nat.mod_eq_of_lt (s.rd_lt _)⟩
theorem State.chnRestart_frame (chain : Part.chain ∈ ps) (hp : footParts 0x20001000 ps = true) (s : State) :
    Frame ps (pagesOf [chnBase]) s s.chnRestart := by
  have on {x : Nat} (h : chnBase ≤ x ∧ x < chnBase + 0x10000) : pagesOf [chnBase] x := pagesOf_iff.2 h
  have cleared : Frame ps (pagesOf [chnBase]) s s.chnCleared :=
    (((s.pageFresh_frame ps .chn).wr (on (by decide))).wr (on (by decide))).upd_chain chain
  rw [State.chnRestart_checked]
  exact (Frame.doesPages s.chnPorts_does cleared hp (by decide)).setBit (on (by decide))

/-! ### MEM (R261) -/

theorem State.ringEmpty_empties (s : State) : s.ringEmpty.rd capWptr = 0 ∧ s.ringEmpty.rd capOldest = 0 ∧ s.ringEmpty.cap.any = false := by
  unfold State.ringEmpty
  dsimp only
  refine ⟨?_, ?_, rfl⟩
  · rw [State.setCap_rd, State.rd_wr_ne _ (by decide), State.rd_wr_ne _ (by decide), State.rd_wr_ne _ (by decide), State.rd_wr_ne _ (by decide),
      State.rd_wr_self]
    rfl
  · rw [State.setCap_rd, State.rd_wr_ne _ (by decide), State.rd_wr_ne _ (by decide), State.rd_wr_ne _ (by decide), State.rd_wr_self]
    rfl
theorem State.memPageReset_frame (ps : List Part) (s : State) : Frame ps (pagesOf [memBase]) s s.memPageReset :=
  (s.pageFresh_frame ps .mem).setBit (pagesOf_iff.2 (by decide))
/-- What MEM_STATUS shows after a reset of MEM. -/
theorem State.memRestart_status (s : State) : s.memRestart.bit memStatus 31 = false ∧ s.memRestart.bit memStatus 30 = s.gmem.retained := by
  have shown (i : Nat) : s.memRestart.bit memStatus i = s.memPageReset.bit memStatus i := by
    rw [State.memRestart_eq, State.setMem_bit]
    exact State.bit_congr State.memEmptied_rd i
  have fresh : (s.resetRegs memBase (memBase + 0x10000)).bit memStatus 31 = false := by
    rw [State.bit, State.rd_resetRegs, if_pos (by decide)]
    decide
  rw [shown, shown, State.memPageReset, State.bit_setBit _ _ _ _ (by decide), if_neg (by decide), fresh, State.bit_setBit_self _ _ (by decide)]
  exact ⟨rfl, rfl⟩
theorem State.memRestart_kept (kept : s.gmem.retained = true) (hp : Part.gmem ∈ ps) : Frame ps (pagesOf [memBase]) s s.memRestart := by
  have emptied : s.memEmptied = s.memPageReset := if_pos kept
  rw [State.memRestart_eq, emptied]
  exact (s.memPageReset_frame ps).upd_gmem hp
/-- Without retention the content of GDDR6 is lost. -/
theorem State.memRestart_lost (lost : s.gmem.retained = false) : Frame [.mem, .chart, .cap, .gmem, .flaws] (pagesOf [memBase]) s s.memRestart ∧
    ∀ a, s.memRestart.byte a = if a < gddrEnd then 0 else s.byte a := by
  have emptied : s.memEmptied = s.memPageReset.clearMem 0 gddrEnd := if_neg (by rw [lost]; decide)
  rw [State.memRestart_eq, emptied]
  refine ⟨(Frame.doesPages Does.clearMem (s.memPageReset_frame _) (by decide) (by decide)).upd_gmem (by decide), fun a => ?_⟩
  have page : s.memPageReset.byte a = s.byte a := by rw [State.memPageReset, State.setBit_byte, State.resetRegs_byte]
  rw [State.setMem_byte, State.byte_clearMem, page]
  by_cases low : a < gddrEnd
  · have zero : memReset a = 0 := if_neg (by unfold gddrEnd at low; omega)
    rw [if_pos low, if_pos ⟨Nat.zero_le a, low⟩, zero]
  · rw [if_neg low, if_neg fun h => low h.2]

end Sys2Proof.Machine
end
section
namespace Sys2Proof.Machine

variable {s t : State} {b : Blk} {ps : List Part} {rs rs' : Nat → Prop} {a : Nat}

/-! ## The release of a block reset (R455) -/

/-- The block is out of reset, its content not yet made fresh. -/
def State.released (s : State) (b : Blk) : State := s.setBit pwrBrstat (blkIdx b) false
theorem exec_blockResetRelease_releases (up : s.clk.cdUp = true) (held : s.inReset b = true) :
    exec (.blockResetRelease b) s = .next ((s.released b).blockFresh b) := if_pos (by rw [up, held]; rfl)
theorem Frame.released (h : Frame ps rs (s.released b) t) (sub : ∀ a, rs a → rs' a) (brstat : rs' pwrBrstat) : Frame ps rs' s t :=
  ((Frame.refl ps rs' s).setBit brstat).trans ⟨h.1, fun a out => h.2.1 a fun on => out (sub a on), h.2.2⟩

/-- The parts that the release of a block's reset makes fresh. -/
def freshParts : Blk → List Part
  | .srch => [.probs, .cls, .rot, .saf] | .chrt => [.chart] | .cell => [.cell, .lanes] | .cap => [.cap]
  | .chn => [.lanes, .chain, .pins, .freeCtr] | .evt => [.pins] | .plt => [.io] | .ser => [.io]
  | .mem => [.mem, .chart, .cap, .gmem, .flaws] | .per => [.per]
/-- The pages that it writes: a reset of MEM without retention leaves no chart and no record (R261). -/
def freshPages (b : Blk) : List Nat := if b = .mem then [memBase, chrtBase, capBase] else [blkBase b]

theorem State.blockFresh_srch (s : State) : s.blockFresh .srch = (s.pageFresh .srch).srchRestart.untime 0xFFFF := rfl
theorem State.blockFresh_chrt (s : State) : s.blockFresh .chrt = (s.pageFresh .chrt).chartRestart := rfl
theorem State.blockFresh_cap (s : State) : s.blockFresh .cap = (s.pageFresh .cap).capRestart (s.gmem.selfRefresh && s.gmem.retained) := rfl
theorem State.blockFresh_mem_kept (kept : s.gmem.retained = true) : s.blockFresh .mem = s.memRestart := if_pos kept
theorem State.blockFresh_mem_lost (lost : s.gmem.retained = false) : s.blockFresh .mem = s.memRestart.chartRestart.ringEmpty :=
  if_neg (by rw [State.memRestart_retained, lost]; decide)

theorem Frame.memFresh (h : Frame ps (pagesOf [memBase]) s t) : Frame ps (pagesOf [memBase, chrtBase, capBase]) s t :=
  ⟨h.1, fun a out => h.2.1 a fun ⟨x, mem, page⟩ => out ⟨x, List.mem_of_mem_take (i := 1) mem, page⟩, h.2.2⟩
theorem State.blockFresh_frame (s : State) (b : Blk) : Frame (freshParts b) (pagesOf (freshPages b)) s (s.blockFresh b) := by
  have page (b : Blk) := s.pageFresh_frame (freshParts b) b
  cases b with
  | srch =>
    exact Frame.doesNone (State.untime_does ..) (Frame.doesNone (State.srchRestart_does _) (page .srch) (by decide) (by decide)) (by decide) (by decide)
  | chrt => exact Frame.doesPages (State.chartRestart_does _) (page .chrt) (by decide) (by decide)
  | cell => exact Frame.doesNone Does.upd_cell_lanes (page .cell) (by decide) (by decide)
  | cap => exact Frame.doesPages (State.capRestart_does ..) (page .cap) (by decide) (by decide)
  | chn => exact State.chnRestart_frame (by decide) (by decide) s
  | evt => exact (page .evt).upd_pins (by decide)
  | plt => exact (page .plt).upd_io (by decide)
  | ser => exact (page .ser).upd_io (by decide)
  | mem =>
    cases e : s.gmem.retained with
    | true =>
      rw [State.blockFresh_mem_kept e]
      exact (State.memRestart_kept e (by decide)).memFresh
    | false =>
      rw [State.blockFresh_mem_lost e]
      exact Frame.doesPages (State.ringEmpty_does _) (Frame.doesPages (State.chartRestart_does _) (State.memRestart_lost e).1.memFresh
        (by decide) (by decide)) (by decide) (by decide)
  | per => exact ((page .per).upd_per (by decide)).setFld (pagesOf_iff.2 (by decide))
theorem State.released_inReset (s : State) (b : Blk) : ((s.released b).blockFresh b).inReset b = false := by
  have off : ¬ pagesOf (freshPages b) pwrBrstat := by
    rintro ⟨x, mem, lo, hi⟩
    revert x
    cases b <;> decide
  have kept := ((s.released b).blockFresh_frame b).2.1 pwrBrstat off
  exact (State.bit_congr kept _).trans (State.bit_setBit_self s false (Nat.lt_trans (blkIdx_lt b) (by decide)))

/-- The blocks whose registers are all at their reset values. -/
theorem State.blockFresh_rd (h : b ∈ [Blk.srch, .cell, .evt, .plt, .ser]) (lo : blkBase b ≤ a) (hi : a < blkBase b + 0x10000) (s : State) :
    (s.blockFresh b).rd a = (regReset a).toNat := by
  have fresh := s.pageFresh_rd lo hi
  simp only [List.mem_cons, List.not_mem_nil, or_false] at h
  rcases h with rfl | rfl | rfl | rfl | rfl
  · exact ((State.untime_does ..).rd_kept (by decide) a).trans (State.srchRestart_rd.trans fresh)
  · exact (Does.upd_cell_lanes.rd_kept (by decide) a).trans fresh
  · exact (Does.upd_pins.rd_kept (by decide) a).trans fresh
  · exact (Does.upd_io.rd_kept (by decide) a).trans fresh
  · exact (Does.upd_io.rd_kept (by decide) a).trans fresh

/-- What the period owes the problems stays; the array and its tests begin again (R55, R58, R126, log entry 112). -/
theorem State.blockFresh_array (s : State) : let t := s.blockFresh .srch
    (∀ p, t.prob p = (s.prob p).owed) ∧ (∀ c, t.cl c = {}) ∧ t.rot = {} ∧ t.saf.late = 0 ∧ t.saf.passes = [] ∧ t.saf.timed = 0 ∧
    t.saf.active.testBit 11 = false := by
  have array : Does 0x800 (s.pageFresh .srch).srchRestart (s.blockFresh .srch) := State.untime_does ..
  refine ⟨fun p => (array.prob rfl p).trans (State.srchRestart_prob _ p), fun c => (array.cl rfl c).trans (State.srchRestart_cl c),
    (array.part .rot rfl).trans (State.srchRestart_rot _), ?_⟩
  rw [State.blockFresh_srch, State.untime_all]
  exact ⟨rfl, rfl, rfl, State.endCause_self _⟩

/-- CAP without retained self-refresh: empty, its page at the reset values (R241). -/
theorem State.blockFresh_cap_empty (lost : s.gmem.selfRefresh = false ∨ s.gmem.retained = false) : (s.blockFresh .cap).cap = {} ∧
    ∀ a, capBase ≤ a → a < capBase + 0x10000 → (s.blockFresh .cap).rd a = (regReset a).toNat := by
  have empty : s.blockFresh .cap = (s.pageFresh .cap).setCap {} := by
    rw [State.blockFresh_cap, Bool.and_eq_false_iff.2 lost, State.capRestart_lost]
  rw [empty]
  exact ⟨rfl, fun a lo hi => State.pageFresh_rd (b := .cap) lo hi s⟩

/-- MEM without retention: GDDR6 reads 0, and there is no chart and no record (R261). -/
theorem State.blockFresh_mem_empty (lost : s.gmem.retained = false) : let t := s.blockFresh .mem
    (∀ a, t.byte a = if a < gddrEnd then 0 else s.byte a) ∧ t.bufState .bufA = 0 ∧ t.bufState .bufB = 0 ∧ t.rd chrtGen = 0 ∧
    t.rd capWptr = 0 ∧ t.rd capOldest = 0 ∧ t.cap.any = false := by
  have ring := State.ringEmpty_does s.memRestart.chartRestart
  have chart := State.chartRestart_does s.memRestart
  obtain ⟨-, gen, states⟩ := State.chartRestart_lost (s := s.memRestart) (State.memRestart_retained.trans lost)
  have state (b : Buf) : s.memRestart.chartRestart.ringEmpty.bufState b = 0 :=
    (State.bufState_congr (ring.reg _ (by rw [pageBit_buf]; decide))).trans (states b)
  dsimp only
  rw [State.blockFresh_mem_lost lost]
  refine ⟨fun a => ?_, state .bufA, state .bufB, (ring.reg _ (by decide)).trans gen, State.ringEmpty_empties _⟩
  exact (ring.part .mem rfl a).trans ((chart.part .mem rfl a).trans ((State.memRestart_lost lost).2 a))
/-- What MEM shows after its reset. -/
theorem State.blockFresh_mem_shows (s : State) : let t := s.blockFresh .mem
    t.gmem.retained = s.gmem.retained ∧ t.gmem.selfRefresh = s.gmem.retained ∧ t.bit memStatus 31 = false ∧ t.bit memStatus 30 = s.gmem.retained := by
  obtain ⟨ready, retained⟩ := s.memRestart_status
  cases e : s.gmem.retained with
  | true =>
    rw [e] at retained
    rw [State.blockFresh_mem_kept e]
    exact ⟨State.memRestart_retained.trans e, State.memRestart_retained.trans e, ready, retained⟩
  | false =>
    rw [e] at retained
    have rest : Does 0xa000220 s.memRestart s.memRestart.chartRestart.ringEmpty :=
      (State.ringEmpty_does _).andThen ((State.chartRestart_does _).mono rfl) rfl
    have gmem := rest.part .gmem rfl
    rw [State.blockFresh_mem_lost e]
    refine ⟨?_, ?_, (rest.bit rfl 31).trans ready, (rest.bit rfl 30).trans retained⟩
    · exact (congrArg Mem.retained gmem).trans (State.memRestart_retained.trans e)
    · exact (congrArg Mem.selfRefresh gmem).trans (State.memRestart_retained.trans e)

/-- PER: the clock's pace stays in force, and PACE shows the boot pace (R59, log entry 97). -/
theorem State.blockFresh_per (s : State) : (s.blockFresh .per).per = perReset s.per.pace ∧
    (s.blockFresh .per).fld perStatus 17 16 = Nat.min (s.fld bootCfg 3 2) 2 := by
  refine ⟨rfl, ?_⟩
  have cfg : (s.pageFresh .per).fld bootCfg 3 2 = s.fld bootCfg 3 2 :=
    congrArg (bits · 3 2) ((State.rd_resetRegs ..).trans (if_neg (by decide)))
  have pace : ((s.pageFresh .per).bootPace : Nat) = Nat.min (s.fld bootCfg 3 2) 2 := by
    rw [State.bootPace, cfg]
    exact Nat.mod_eq_of_lt (Nat.lt_succ_of_le (Nat.min_le_right ..))
  refine (State.fld_setFld_self _ (by decide) (by decide)).trans ?_
  exact (congrArg (· % 4) pace).trans (Nat.mod_eq_of_lt (Nat.lt_of_le_of_lt (Nat.min_le_right ..) (by decide)))

end Sys2Proof.Machine
end
section
namespace Sys2Proof.Machine

variable {s : State} {b : Blk}

/-! ## The statement -/

/-- A gate that opens: what was in flight is free, and CLK_GSTAT shows the gate open. -/
theorem State.gateAsked_opened (gate : gateable b = true) (s : State) :
    let t := ((s.gateAsked b).setBit clkGstat (blkIdx b) false).setBit clkGstat (16 + blkIdx b) false
    t.bit clkGate (blkIdx b) = false ∧ t.gated b = false ∧ t.bit clkGstat (16 + blkIdx b) = false ∧
    State.Regated b (fun g => if g = .closing then .free else g) s t ∧ Frame [.port, .cores] (regsOf [clkGate, clkGstat]) s t := by
  have small := blkIdx_lt_eight gate
  refine ⟨?_, ?_, State.bit_setBit_self _ false (by omega), (s.gateAsked_regates b).to_same rfl rfl,
    ((s.gateAsked_frame (by simp [regsOf]) b).setBit (by simp [regsOf])).setBit (by simp [regsOf])⟩
  · rw [State.bit_congr (State.rd_setBit_ne _ (by decide) _ _), State.bit_congr (State.rd_setBit_ne _ (by decide) _ _), State.gateAsked_bit]
  · rw [State.gated, State.bit_setBit _ _ _ _ (by omega), if_neg (by omega), State.bit_setBit_self _ _ (by omega)]

/-- Settles O53: a gate by what is asked of it, a reset by whether the block is MEM, a release by the block. -/
theorem gatesAndBlockResets : Obligations.GatesAndBlockResets := by
  intro s b i page on gates
  refine ⟨fun off => ?off, fun none_ => ?none_, fun up mem per => ?gates, ?_⟩
  case off =>
    obtain ⟨close, closed, open_⟩ := exec_gates_off (b := b) (.inr off)
    exact ⟨close, closed, open_, exec_blockReset_off (.inr off), exec_blockResetRelease_off (.inr off)⟩
  case none_ => exact exec_gates_off (.inl (by rcases none_ with rfl | rfl <;> rfl))
  case gates =>
    have gate := gateable_iff.2 ⟨mem, per⟩
    have small : i < 8 := blkIdx_lt_eight gate
    refine ⟨exec_gateClose_closed, fun open_ => ?close, fun f asked open_ => ?shut, fun f idle => exec_gateClosed_idle idle f, fun runs => ?open_,
      fun idle other => ?idle⟩
    case close =>
      refine ⟨_, exec_gateClose_closes gate up open_, State.bit_setBit_self s true (by omega), fun j other => ?_,
        (State.gateRequests_regates _ b _).of_same rfl rfl,
        Frame.doesNone (State.gateRequests_does ..) ((Frame.refl ..).setBit (List.mem_singleton.2 rfl)) (by decide) (by decide)⟩
      rw [State.gateRequests_bit, State.bit_setBit _ _ _ _ (by omega), if_neg fun e => other e.2]
    case shut =>
      obtain ⟨port, cores⟩ := s.gateShown_parts b (f || s.inFlight b)
      refine ⟨_, exec_gateClosed_shuts gate up asked open_ f, ?_, ?_, fun j other later => ?_, ?_, ?_⟩
      · rw [State.gateShut_eq, State.gated, State.gateRequests_bit, State.gateShown_bit gate, if_neg (by omega), if_pos rfl]
      · rw [State.gateShut_eq, State.gateRequests_bit, State.gateShown_bit gate, if_pos rfl]
      · rw [State.gateShut_eq, State.gateRequests_bit, State.gateShown_bit gate, if_neg later, if_neg other]
      · exact (State.gateRequests_regates _ b _).of_same port cores
      · rw [State.gateShut_eq]
        exact Frame.doesNone (State.gateRequests_does ..) (s.gateShown_frame b _) (by decide) (by decide)
    case open_ =>
      have go : ¬ (s.clk.power = .idle ∧ b ≠ .chn) := fun h => runs.elim (fun k => k h.1) h.2
      exact ⟨_, (exec_gateOpen_opens gate up).trans (congrArg _ (if_neg go)), s.gateAsked_opened gate⟩
    case idle =>
      exact ⟨_, (exec_gateOpen_opens gate up).trans (congrArg _ (if_pos ⟨idle, other⟩)), s.gateAsked_bit b, s.gateAsked_regates b,
        s.gateAsked_frame (List.mem_singleton.2 rfl) b⟩
  intro hit errs
  refine ⟨fun up out => ?reset, fun held => exec_blockReset_off (.inl held), fun out => exec_blockResetRelease_off (.inl out), fun up held => ?release⟩
  case reset =>
    have run := exec_blockReset_starts up out
    refine ⟨fun other => ?other, fun mem awake => ?awake, fun mem asleep => ?asleep⟩
    case other =>
      rw [if_neg other] at run
      exact ⟨_, run, s.resetHeld_inReset b, s.resetHeld_loses b, s.resetHeld_frame (List.mem_singleton.2 rfl) b⟩
    case awake =>
      subst mem
      rw [if_pos rfl] at run
      obtain ⟨self, waiting, ready, retained, does⟩ := State.toSelfRefresh_entered awake
      have status (j : Nat) : (s.toSelfRefresh.resetHeld .mem).bit memStatus j = s.toSelfRefresh.bit memStatus j :=
        State.bit_congr (State.rd_setBit_ne _ (by decide) _ _) j
      refine ⟨_, run, State.resetHeld_inReset _ _, (State.resetHeld_loses _ _).of_same (does.part .port rfl) (does.part .cores rfl), self, waiting,
        (status 31).trans ready, fun none_ => ?_, ?_⟩
      · obtain ⟨gmem, frame⟩ := State.toSelfRefresh_plain awake none_
        exact ⟨(status 30).trans retained, gmem, State.resetHeld_mem_frame (by simp [regsOf]) frame (by decide)⟩
      · exact State.resetHeld_mem_frame ⟨clkBase, by decide, by decide, by decide⟩ (Frame.doesPages does (.refl ..) (by decide) (by decide)) (by decide)
    case asleep =>
      subst mem
      rw [if_pos rfl, State.toSelfRefresh_idle asleep] at run
      exact ⟨_, run, s.resetHeld_inReset _, s.resetHeld_loses _, State.resetHeld_mem_frame (List.mem_singleton.2 rfl) (.refl ..) (by decide)⟩
  case release =>
    have frame (u : State) (ps : List Part) (h : Frame ps (pagesOf [blkBase b]) (s.released b) u) : Frame ps page s u :=
      h.released (fun a on => .inr (pagesOf_iff.1 on)) (.inl rfl)
    have fresh := (s.released b).blockFresh_frame b
    refine ⟨_, exec_blockResetRelease_releases up held, s.released_inReset b, fun listed a lo hi => State.blockFresh_rd listed lo hi _,
      ?srch, ?chrt, ?cell, ?cap, ?chn, ?evt, ?plt, ?ser, ?mem, ?per⟩
    case srch =>
      rintro rfl
      obtain ⟨owed, cls, rot, late, passes, timed, active⟩ := (s.released .srch).blockFresh_array
      exact ⟨owed, cls, rot, late, passes, timed, active, frame _ _ fresh⟩
    case chrt =>
      rintro rfl
      have restart := (s.released .chrt).blockFresh_chrt
      refine ⟨restart ▸ State.chartRestart_chart _, fun lost => ?_, frame _ _ fresh⟩
      obtain ⟨chart, gen, states⟩ := State.chartRestart_lost (s := (s.released .chrt).pageFresh .chrt) lost
      rw [restart]
      exact ⟨chart, gen, states .bufA, states .bufB⟩
    case cell =>
      rintro rfl
      exact ⟨fun l => Vector.getElem_replicate l.isLt, rfl, frame _ _ fresh⟩
    case cap =>
      rintro rfl
      refine ⟨fun lost => State.blockFresh_cap_empty (s := s.released .cap) lost, fun asleep kept => ?_, frame _ _ fresh⟩
      have due : ((s.released .cap).gmem.selfRefresh && (s.released .cap).gmem.retained) = true := Bool.and_eq_true_iff.2 ⟨asleep, kept⟩
      rw [State.blockFresh_cap, due]
      exact State.capRestart_kept _
    case chn =>
      rintro rfl
      obtain ⟨addr, pilot⟩ := (s.released .chn).chnRestart_keeps
      exact ⟨addr.trans (State.rd_setBit_ne _ (by decide) ..), pilot.trans (State.rd_setBit_ne _ (by decide) ..), frame _ _ fresh⟩
    case evt =>
      rintro rfl
      exact ⟨rfl, frame _ _ fresh⟩
    case plt =>
      rintro rfl
      exact ⟨fun c => Vector.getElem_replicate c.isLt, rfl, frame _ _ fresh⟩
    case ser =>
      rintro rfl
      exact ⟨fun c => Vector.getElem_replicate c.isLt, rfl, frame _ _ fresh⟩
    case mem =>
      rintro rfl
      obtain ⟨retained, asleep, ready, shown⟩ := (s.released .mem).blockFresh_mem_shows
      refine ⟨retained, asleep, ready, shown, fun kept => ?_, fun lost => ?_⟩
      · have only := State.memRestart_kept (s := s.released .mem) kept (List.mem_singleton.2 rfl)
        rw [State.blockFresh_mem_kept (s := s.released .mem) kept]
        exact ⟨only.1 .mem (by decide), frame _ _ only⟩
      · obtain ⟨bytes, bufA, bufB, gen, wptr, oldest, any⟩ := State.blockFresh_mem_empty (s := s.released .mem) lost
        refine ⟨bytes, bufA, bufB, gen, wptr, oldest, any, fresh.released (fun a on => ?_) (.inl (.inl rfl))⟩
        obtain ⟨x, mem, on⟩ := on
        rcases List.mem_cons.1 mem with rfl | mem
        · exact .inl (.inr on)
        · exact .inr ⟨x, mem, on⟩
    case per =>
      rintro rfl
      obtain ⟨per, pace⟩ := (s.released .per).blockFresh_per
      have cfg : (s.released .per).fld bootCfg 3 2 = s.fld bootCfg 3 2 := congrArg (bits · 3 2) (State.rd_setBit_ne _ (by decide) ..)
      exact ⟨per, pace.trans (by rw [cfg]), frame _ _ fresh⟩

end Sys2Proof.Machine
end

section
/-!
PROOF that O42 fails: a posted store to a slot in its latch waits, also while the die is off.
-/
namespace Sys2Proof.Machine

/-- The die is off, slot 0 shows its latch, and a store of core 8 to the slot's table is posted. -/
def dieOffInLatch : State :=
  (State.reset.setPhase 0 1).setCore 8 { stores := [{ addr := slotBase 0, ea := 0x10000000, size := 4, val := 0 }] }
theorem dieOffInLatch_latching : dieOffInLatch.latching (slotBase 0) = true := by
  have slot : slotAt (slotBase 0) = some 0 := by decide
  have phase : dieOffInLatch.phase 0 = 1 := by
    rw [State.phase, dieOffInLatch, State.setCore_fld]
    exact State.phase_setPhase (by decide)
  rw [State.latching, slot]
  exact beq_iff_eq.2 phase
theorem dieOffInLatch_stores : (dieOffInLatch.core 8).stores = [{ addr := slotBase 0, ea := 0x10000000, size := 4, val := 0 }] := by
  rw [dieOffInLatch, State.core_setCore_self]

/-- A posted store that waits, for a retraining channel or for a latch, stays in the store buffer (R86, R258, R347). -/
theorem exec_postedStoreComplete_waits {s : State} {n : CoreN} {p : Posted} {rest : List Posted} (posted : (s.core n).stores = p :: rest)
    (wait : s.storeWaits p.addr = true) (chk : Check) : exec (.postedStoreComplete n chk) s = .next s := by
  rw [exec_postedStoreComplete]
  unfold execPostedStoreComplete
  rw [posted]
  exact if_pos wait

/-- Refutes O42: with the die off and slot 0 in its latch, a store to the slot stays in the store buffer, where the statement has it leave. -/
theorem not_helmReplies : ¬ Obligations.HelmReplies := by
  intro h
  obtain ⟨-, -, -, posted⟩ := h dieOffInLatch 8 {} 0
  obtain ⟨-, -, off⟩ := posted _ [] dieOffInLatch_stores
  obtain ⟨t, run, core, -, -⟩ := off rfl (by decide)
  have stays : exec (.postedStoreComplete 8 {}) dieOffInLatch = .next dieOffInLatch :=
    exec_postedStoreComplete_waits dieOffInLatch_stores (by rw [State.storeWaits, dieOffInLatch_latching, Bool.or_true]) {}
  have same : t = dieOffInLatch := by
    have := run.symm.trans stays
    injection this
  have emptied := congrArg Core.stores core
  rw [same, dieOffInLatch_stores] at emptied
  cases emptied

end Sys2Proof.Machine
end

section
/-!
PROOF that O47 fails: MPT_WERRH holds 32 bits, and the address of an outstanding read is no more than a number.
-/
namespace Sys2Proof.Machine

/-- The management port waits for a read at a, which a reset of what it addresses has turned into an error response. -/
def lostRead (a : Nat) : State := { State.reset with port := { reads := [{ addr := a, want := some 0, lost := true }] } }
/-- The statement's record of such a read fits the register whatever the address. -/
theorem managementWindow_record (h : Obligations.ManagementWindow) (a : Nat) : 2 ^ 31 + 0 * 2 ^ 29 + a / 2 ^ 32 < 2 ^ 32 := by
  obtain ⟨-, -, -, -, -, -, lost, -⟩ := h (lostRead a) 0 {}
  obtain ⟨t, -, -, ⟨-, -, record⟩, -⟩ := lost a 0 .free [] rfl rfl
  exact record ▸ t.rd_lt mptWerrh

/-- Refutes O47: the statement has MPT_WERRH show all of the address above its low word, also of an address beyond the bus. -/
theorem not_managementWindow : ¬ Obligations.ManagementWindow := fun h =>
  absurd (managementWindow_record h (2 ^ 64)) (by norm_num)

end Sys2Proof.Machine
end

section
/-!
PROOF that O48 fails: a boot whose step SLOT fails keeps the slot that was chosen before.
-/
namespace Sys2Proof.Machine
variable {s : State}

/-- A failed step leaves the slot that is chosen, and the number of the step (R407, R408). -/
theorem State.setAlternative_boot (s : State) (k : Nat) : (s.setAlternative k).boot =
    { s.boot with failHash := if k ≠ 2 ∧ (k = 3 ∨ k = 5 ∨ k = 10) then s.boot.chosenHash else s.boot.failHash } := by
  unfold State.setAlternative
  split_ifs <;> first | rfl | omega
theorem State.enterRecovery_boot (s : State) : s.enterRecovery.boot = { s.boot with active := false, retry := false } := by
  have alert (u : State) : (u.alert 5).boot = u.boot := (State.alert_does u 5).part .boot (by decide)
  unfold State.enterRecovery
  rw [alert]
  rfl
theorem State.bootFail_chosen (s : State) : s.bootFail.boot.slot = s.boot.slot ∧ s.bootFail.boot.step = s.boot.step := by
  unfold State.bootFail
  extract_lets k n again shown clk stopped off boot saved
  have stoppedBoot : stopped.boot = (s.setAlternative k).boot :=
    ((State.leaveRun_does _).part .boot (by decide)).trans ((State.setClk_boot ..).trans ((State.setFld_boot ..).trans (State.setFld_boot ..)))
  have offBoot : off.boot = stopped.boot := by
    refine ((State.cdOff_does _).part .boot (by decide)).trans ?_
    split
    · rfl
    · exact (State.gddrOff_does _).part .boot (by decide)
  have savedBoot : saved.boot = { off.boot with active := false, retry := again, warm := false } := (State.saveProg_does _).part .boot (by decide)
  have chosen : saved.boot.slot = s.boot.slot ∧ saved.boot.step = s.boot.step := by
    rw [savedBoot, offBoot, stoppedBoot, State.setAlternative_boot]
    exact ⟨rfl, rfl⟩
  split
  · exact chosen
  · rw [State.enterRecovery_boot]
    exact chosen

/-- Both headers as step SLOT copies them, with the CORES words they name (R401). -/
def State.headersRead (s : State) : State :=
  let t := s.setBoot { s.boot with hdr := [s.bytes (s.slotOfs 0) 0x1000, s.bytes (s.slotOfs 1) 0x1000] }
  t.setBoot { t.boot with cores := [t.peekCores 0 (t.hdrOf 0), t.peekCores 1 (t.hdrOf 1)] }
/-- Neither header has its magic, and BOOT_SLOTST shows so. -/
def State.headersRefused (s : State) : State :=
  State.showSlot (State.showSlot ((s.headersRead.wr (bootSeq 0) (leAt (s.headersRead.hdrOf 0) 8 4)).wr (bootSeq 1) (leAt (s.headersRead.hdrOf 1) 8 4)) 0 1) 1 1
theorem State.headersRead_boot (s : State) : s.headersRead.boot = { s.boot with
    hdr := [s.bytes (s.slotOfs 0) 0x1000, s.bytes (s.slotOfs 1) 0x1000], cores := s.headersRead.boot.cores } := rfl
theorem State.headersRefused_boot (s : State) : s.headersRefused.boot = s.headersRead.boot := rfl
theorem State.headerReason_magic {h : List Byte} (bad : leAt h 0 4 ≠ 0x54494D47) (cores : List Nat) : s.headerReason h cores = 1 := if_pos (.inl bad)
/-- Where neither header has its magic, step SLOT fails. -/
theorem exec_bootSlot_refused (step : s.inStep 3 = true) (bad : ∀ n, leAt (s.bytes (s.slotOfs n) 0x1000) 0 4 ≠ 0x54494D47) :
    exec .bootSlot s = .next s.headersRefused.bootFail := by
  have r0 := State.headerReason_magic (s := s.headersRead) (h := s.headersRead.hdrOf 0) (bad 0) (s.headersRead.coresOf 0)
  have r1 := State.headerReason_magic (s := s.headersRead) (h := s.headersRead.hdrOf 1) (bad 1) (s.headersRead.coresOf 1)
  have order : s.headersRefused.slotOrder (fun n => if n = 0 then (1 : Nat) == 0 else (1 : Nat) == 0) = ([], false) := by
    unfold State.slotOrder
    rfl
  rw [State.headersRefused, State.headersRead] at order
  rw [State.headersRead] at r0 r1
  dsimp only at order r0 r1
  rw [exec_bootSlot]
  unfold execBootSlot
  simp only [step, Bool.not_true, Bool.false_eq_true, if_false]
  rw [r0, r1]
  rw [order]
  rfl

/-- A boot in step SLOT that finds no header in the boot memory, with slot 0 chosen already. -/
def slotKept : State := { State.reset with boot := { step := 3, active := true, slot := some 0 }, clk := { power := .starting } }
theorem slotKept_noHeader (n : Fin 2) : leAt (slotKept.bytes (slotKept.slotOfs n) 0x1000) 0 4 ≠ 0x54494D47 := by
  have erased : slotKept.bytes (slotKept.slotOfs n) 4 = List.replicate 4 0xFF := by
    refine State.bytes_unlisted _ _ _ _ (fun c mem => absurd mem List.not_mem_nil) fun x lo hi => if_pos (.inr ?_)
    have base : slotKept.slotOfs n = 0x10000000000 := by simp [State.slotOfs, slotKept, extBase]
    omega
  rw [show 0x1000 = 4 + 0xFFC from rfl, State.bytes_append, leAt, List.drop_zero, List.take_left' (State.length_bytes ..), erased]
  decide

/-- Refutes O48: step SLOT fails, and the slot chosen before stays, where the statement has the next step start with a slot chosen. -/
theorem not_bootSteps : ¬ Obligations.BootSteps := by
  intro h
  obtain ⟨-, -, -, slot, -⟩ := h slotKept
  have step : slotKept.inStep 3 = true := by decide
  obtain ⟨t, run, -, -, -, -, chosen⟩ := slot step
  have fails := run.symm.trans (exec_bootSlot_refused step slotKept_noHeader)
  obtain ⟨kept, third⟩ := State.bootFail_chosen slotKept.headersRefused
  injection fails with same
  rw [State.headersRefused_boot, ← same] at kept third
  obtain ⟨⟨fourth, -⟩, -⟩ := chosen 0 kept
  rw [third] at fourth
  exact absurd fourth (by decide)

end Sys2Proof.Machine
end

section
/-!
PROOF of O38: CALL, CALLR and RET, word by word of their frame.
-/
namespace Sys2Proof.Machine

variable {s t : State} {n : CoreN} {c : Nat} {k : Core} {ea : Word}

/-! ## The words of a frame in a core's local memory (R359) -/

theorem Core.lsStore_lsStore (k : Core) : k.lsStore.lsStore = k.lsStore := by rw [Core.lsStore_eq, Core.lsStore_eq]; rfl

/-- The words vs stand from a on, and beside them only core n and words in error differ from s. -/
structure State.Holds (n : CoreN) (a : Nat) (vs : List Word) (s t : State) : Prop where
  words : ∀ j (h : j < vs.length), t.le (a + 4 * j) 4 = vs[j].toNat
  bytes : ∀ x, ¬ (a ≤ x ∧ x < a + 4 * vs.length) → t.byte x = s.byte x
  others : onlyCore n s t
  frame : Frame [.mem, .cores, .flaws] noReg s t

theorem State.le_congr {a size : Nat} (h : ∀ x, a ≤ x → x < a + size → t.byte x = s.byte x) : t.le a size = s.le a size :=
  congrArg ofLE (State.bytes_congr h)

/-- The state when core n has stored v at ea of its local memory. -/
def State.putWord (s : State) (n : CoreN) (ea v : Word) : State :=
  (s.setCore n ((s.core n).putsStore n ea v 4)).store (localBase n + ea.toNat) (toLE 4 v.toNat)
theorem State.putWord_core (s : State) (n : CoreN) (ea v : Word) : (s.putWord n ea v).core n = (s.core n).putsStore n ea v 4 :=
  (Does.store.core (by decide) n).trans (State.core_setCore_self ..)
theorem State.putWord_holds (s : State) (n : CoreN) (ea v : Word) : State.Holds n (localBase n + ea.toNat) [v] s (s.putWord n ea v) where
  words j h := by
    obtain rfl : j = 0 := by simpa using h
    exact State.le_setBytes_toLE ..
  bytes x out := State.byte_setBytes_toLE_ne _ out
  others m hm := (Does.store.core (by decide) m).trans (State.core_setCore_ne s hm _)
  frame := ((Frame.refl _ _ s).setCore (by decide)).store (by decide) (by decide) _ _
theorem State.Holds.cons {u : State} {a : Nat} {v : Word} {vs : List Word} (first : State.Holds n a [v] s t)
    (rest : State.Holds n (a + 4) vs t u) : State.Holds n a (v :: vs) s u where
  words j h := by
    cases j with
    | zero => exact (State.le_congr fun x _ _ => rest.bytes x (by omega)).trans (first.words 0 Nat.zero_lt_one)
    | succ j => rw [show a + 4 * (j + 1) = a + 4 + 4 * j by omega]; exact rest.words j (by simpa using h)
  bytes x out := by
    rw [List.length_cons] at out
    exact (rest.bytes x (by omega)).trans (first.bytes x (by rw [List.length_singleton]; omega))
  others m hm := (rest.others m hm).trans (first.others m hm)
  frame := first.frame.trans rest.frame

theorem State.frameStore_local (v : Word) (vs : List Word) (idles : Core.Idles n c k (s.core n))
    (fits : ea.toNat + 4 * (vs.length + 1) ≤ 0x20000) : ∃ t, s.frameStore n ea (v :: vs) = (none, t) ∧
    Core.Idles n c k.lsStore (t.core n) ∧ State.Holds n (localBase n + ea.toNat) (v :: vs) s t := by
  have within : ¬ 0x20000 ≤ ea.toNat := by omega
  have loc : isLocal ea = true := decide_eq_true (by omega)
  have step (vs : List Word) : s.frameStore n ea (v :: vs) = (s.putWord n ea v).frameStore n (ea + 4) vs := by
    rw [State.frameStore, if_neg (by simp [localHole, within])]
    exact if_pos loc
  have stored : Core.Idles n c k.lsStore ((s.putWord n ea v).core n) := by
    rw [State.putWord_core]
    exact idles.putsStore ea v 4
  have first := s.putWord_holds n ea v
  induction vs generalizing s ea v k with
  | nil => exact ⟨_, step [], stored, first⟩
  | cons w vs ih =>
    rw [List.length_cons] at fits
    have up : (ea + 4).toNat = ea.toNat + 4 := by bv_omega
    obtain ⟨t, run, idle, rest⟩ := ih (s := s.putWord n ea v) (ea := ea + 4) (k := k.lsStore) w stored (by omega) (by omega)
      (decide_eq_true (by omega)) (fun vs => by
        rw [State.frameStore, if_neg (by simp [localHole]; omega)]
        exact if_pos (decide_eq_true (by omega))) (by
        rw [State.putWord_core]
        exact stored.putsStore _ w 4) (State.putWord_holds ..)
    rw [Core.lsStore_lsStore] at idle
    rw [up, ← Nat.add_assoc] at rest
    exact ⟨t, (step _).trans run, idle, first.cons rest⟩

/-! ## CALL and CALLR (R359, R360) -/

/-- PC + 4 × off (R350). -/
theorem Core.target16_eq (k : Core) (off : BitVec 16) : k.target16 off = k.pc + BitVec.ofInt 32 (4 * off.toInt) := by
  rw [Core.target16, sext16, BitVec.shiftLeft_eq_mul_twoPow, Int.mul_comm, BitVec.ofInt_mul]
  rfl
theorem Core.went.goto {rs : List RegN} {pc : Word} {k' : Core} (h : Core.went n rs pc c k k') (a : Word) : Core.went n rs a c k (k'.goto a) := by
  obtain ⟨-, hcycle, hr, hipend, houts, hrest⟩ := h
  exact ⟨rfl, hcycle, hr, hipend, houts, by rw [hrest]; rfl⟩

/-- The core when a CALL that stored m words from sp on goes to its target. -/
def Core.calls (k : Core) (sp dest : Word) (m : Nat) : Core := (((k.setR 2 sp).setR 1 (k.pc + 4)).goto dest).tick (m + 1)
theorem Core.calls_sp (k : Core) (sp dest : Word) (m : Nat) : (k.calls sp dest m).r 2 = sp :=
  (Core.r_setR _ 1 2 _).trans (by rw [if_neg (by decide), Core.r_setR]; rfl)
theorem Core.calls_link (k : Core) (sp dest : Word) (m : Nat) : (k.calls sp dest m).r 1 = k.pc + 4 := Core.r_setR _ 1 1 _
theorem Core.Idles.calls {k' : Core} (h : Core.Idles n c k k') (sp dest : Word) (m : Nat) :
    Core.went n [1, 2] dest (c + m + 1) k (k'.calls sp dest m) :=
  (((h.went.setR (by decide) sp).setR (by decide) _).goto dest).tick (m + 1)

section
variable {mask : BitVec 10} {srcs : List RegN} {target : Core → Word} {dest sp : Word} (h : s.ready n = true)
  (top : (s.core n).r 2 - BitVec.ofNat 32 (4 * ((maskRegs mask).length + 1)) = sp)
  (goes : target ((s.core n).issued n ([1, 2] ++ maskRegs mask ++ srcs)) = dest)
include h top

theorem State.callOp_aligned (aligned : ((s.core n).r 2).toNat % 4 = 0) {f : Option Word × State}
    (stored : (s.issuing n ([1, 2] ++ maskRegs mask ++ srcs)).frameStore n sp ((s.core n).r 1 :: (maskRegs mask).map (s.core n).r) = f) :
    s.callOp n mask srcs target = s.unlessHeld (match (generalizing := false) f with
      | (some ea, t) => t.exception n 5 (s.core n).pc ea
      | (none, t) => t.finish n fun k => k.calls sp (target ((s.core n).issued n ([1, 2] ++ maskRegs mask ++ srcs))) ((maskRegs mask).length + 1))
        := by
  have idles := Core.issued_idles n ([1, 2] ++ maskRegs mask ++ srcs) (s.core n)
  subst stored
  have regs : ((s.core n).issued n ([1, 2] ++ maskRegs mask ++ srcs)).r = (s.core n).r := funext idles.r
  unfold State.callOp
  rw [State.issue_ready h]
  simp only [State.issuing_core, regs, idles.pc, aligned, top, ne_eq, not_true_eq_false, if_false]
  rfl

include goes
/-- A CALL whose frame lies in the core's local memory. -/
theorem State.callOp_local (aligned : ((s.core n).r 2).toNat % 4 = 0) (fits : 4 * ((maskRegs mask).length + 1) ≤ ((s.core n).r 2).toNat)
    (within : ((s.core n).r 2).toNat ≤ 0x20000) : ∃ t, s.callOp n mask srcs target = .next t ∧ (t.core n).r 2 = sp ∧
      (t.core n).r 1 = (s.core n).pc + 4 ∧
      Core.went n [1, 2] dest ((s.core n).loadUse ([1, 2] ++ maskRegs mask ++ srcs) + ((maskRegs mask).length + 1) + 1)
        (s.core n).lsStore (t.core n) ∧
      t.le (localBase n + sp.toNat) 4 = ((s.core n).r 1).toNat ∧
      (∀ j (h : j < (maskRegs mask).length), t.le (localBase n + sp.toNat + 4 * (j + 1)) 4 = ((s.core n).r (maskRegs mask)[j]).toNat) ∧
      (∀ a, ¬ (localBase n + sp.toNat ≤ a ∧ a < localBase n + sp.toNat + 4 * ((maskRegs mask).length + 1)) → t.byte a = s.byte a) ∧
      onlyCore n s t ∧ Frame [.mem, .cores, .freeCtr, .flaws] noReg s t := by
  have beside := State.issuing_beside h ([1, 2] ++ maskRegs mask ++ srcs)
  have low : sp.toNat + 4 * ((maskRegs mask).length + 1) = ((s.core n).r 2).toNat := by bv_omega
  have issued := Core.issued_idles n ([1, 2] ++ maskRegs mask ++ srcs) (s.core n)
  rw [← State.issuing_core (s := s)] at issued
  obtain ⟨u, run, idles, holds⟩ := State.frameStore_local (ea := sp) ((s.core n).r 1) ((maskRegs mask).map (s.core n).r) issued
    (by rw [List.length_map]; omega)
  have called := State.callOp_aligned (target := target) h top aligned run
  have running : (u.core n).running = true := by rw [idles.running, Core.lsStore_running, State.ready_running h]
  dsimp only at called
  rw [State.finish_running running, goes] at called
  obtain ⟨words, bytes, others, frame⟩ := holds
  simp only [List.length_cons, List.length_map] at words bytes
  refine ⟨_, called.trans (State.unlessHeld_next ?_ ?_), ?_, ?_, ?_, ?_, fun j hj => ?_, fun a out => ?_, fun m hm => ?_, ?_⟩
  · exact (frame.1 .gmem (by decide)).trans beside.gmem
  · exact (frame.1 .probs (by decide)).trans beside.probs
  · rw [State.core_setCore_self]
    exact Core.calls_sp ..
  · rw [State.core_setCore_self, Core.calls_link, idles.pc, Core.lsStore_pc]
  · rw [State.core_setCore_self]
    exact idles.calls ..
  · rw [State.setCore_le]
    exact words 0 (Nat.succ_pos _)
  · rw [State.setCore_le]
    exact (words (j + 1) (Nat.succ_lt_succ hj)).trans (by simp)
  · exact (bytes a out).trans (beside.byte a)
  · rw [State.core_setCore_ne _ hm, others m hm]
    exact beside.others m hm
  · refine Frame.setCore (Frame.trans (beside.frame (by decide) (by decide)) ⟨fun p out => frame.1 p fun mem => out ?_, frame.2⟩) (by decide)
    revert mem
    cases p <;> decide
end

/-! ## The words of a frame that RET reads (R340, R361) -/

/-- The j words from a on. -/
def State.wordsAt (s : State) (a j : Nat) : List Word := (List.range j).map fun i => BitVec.ofNat 32 (s.le (a + 4 * i) 4)
theorem State.length_wordsAt (s : State) (a j : Nat) : (s.wordsAt a j).length = j := by simp [State.wordsAt]
theorem State.getElem_wordsAt (s : State) (a j : Nat) {i : Nat} (h : i < (s.wordsAt a j).length) :
    (s.wordsAt a j)[i] = BitVec.ofNat 32 (s.le (a + 4 * i) 4) := by simp [State.wordsAt]
theorem State.wordsAt_succ (s : State) (a j : Nat) : s.wordsAt a (j + 1) = BitVec.ofNat 32 (s.le a 4) :: s.wordsAt (a + 4) j := by
  simp [State.wordsAt, List.range_succ_eq_map, Function.comp_def, Nat.mul_add, Nat.add_assoc, Nat.add_comm]
theorem State.Beside.wordsAt (h : State.Beside n s t) (a j : Nat) : t.wordsAt a j = s.wordsAt a j :=
  List.map_congr_left fun _ _ => congrArg (fun bs => BitVec.ofNat 32 (ofLE bs)) (h.bytes _ 4)
/-- Of local memory with no word in error none of the words is in error. -/
theorem State.bad_localWord {m i : Nat} (within : ea.toNat + 4 * m ≤ 0x20000) (good : s.bad (localBase n + ea.toNat) (4 * m) = false)
    (lower : i < m) : s.bad (localBase n + ea.toNat + 4 * i) 1 = false := by
  have first := eccSize_localBase n (o := ea.toNat) (by omega)
  have word := eccSize_localBase n (o := ea.toNat + 4 * i) (by omega)
  rw [← Nat.add_assoc] at word
  simp only [State.bad, List.any_eq_false, decide_eq_true_eq, eccUnits, first, word] at good ⊢
  intro f mem
  have := good f mem
  omega

/-- Core n's load of the word at ea has gone out. -/
def State.asks (s : State) (n : CoreN) (ea : Word) : State := s.setCore n ((s.core n).puts n (.load ea 4))
/-- The first j words of a frame in local memory, found clean, are read one by one. -/
theorem State.frameLoad_clean (j i : Nat) (eccs : List Ecc) (within : ea.toNat + 4 * j ≤ 0x20000) (aligned : ea.toNat % 4 = 0)
    (told : ∀ x < j, eccs.getD x .clean = .clean) (good : ∀ x < j, s.bad (localBase n + ea.toNat + 4 * x) 1 = false)
    (idles : Core.Idles n c k (s.core n)) : ∃ t, State.Beside n s t ∧ Core.Idles n c k (t.core n) ∧ s.frameLoad n ea (j + i) eccs =
      ((s.wordsAt (localBase n + ea.toNat) j ++ (t.frameLoad n (ea + BitVec.ofNat 32 (4 * j)) i (eccs.drop j)).1.1,
        (t.frameLoad n (ea + BitVec.ofNat 32 (4 * j)) i (eccs.drop j)).1.2), (t.frameLoad n (ea + BitVec.ofNat 32 (4 * j)) i (eccs.drop j)).2) := by
  induction j generalizing s ea eccs with
  | zero => exact ⟨s, State.Beside.refl n s, idles, by simp [State.wordsAt]⟩
  | succ j ih =>
    have form : LocalForm ea 4 := ⟨by omega, .inr (.inr rfl), aligned⟩
    have beside : State.Beside n s (s.asks n ea) := (State.Beside.refl n s).setCore _
    have up : (ea + 4).toNat = ea.toNat + 4 := by bv_omega
    have asked : Core.Idles n c k ((s.asks n ea).core n) := by
      rw [State.asks, State.core_setCore_self]
      exact idles.puts _
    obtain ⟨t, other, idle, run⟩ := ih (s := s.asks n ea) (ea := ea + 4) eccs.tail (by omega) (by omega)
      (fun x hx => by simpa using told (x + 1) (by omega)) (fun x hx => by
        rw [beside.bad, up, show localBase n + (ea.toNat + 4) + 4 * x = localBase n + ea.toNat + 4 * (x + 1) by omega]
        exact good (x + 1) (by omega)) asked
    have read : (s.asks n ea).localRead n ea 4 (eccs.headD .clean) = (some (s.bytes (localBase n + ea.toNat) 4), s.asks n ea) := by
      have head : eccs.headD .clean = .clean := by
        rw [← told 0 (Nat.succ_pos j)]
        cases eccs <;> rfl
      rw [head, State.localRead_clean form ((beside.bad _ _).trans (good 0 (Nat.succ_pos j))), beside.bytes]
    refine ⟨t, ⟨by rw [other.rest, beside.rest], fun m hm => (other.others m hm).trans (beside.others m hm)⟩, idle, ?_⟩
    rw [State.wordsAt_succ, show j + 1 + i = j + i + 1 by omega, State.frameLoad, form.localHole, form.isLocal]
    rw [State.asks] at read run
    simp only [Bool.false_eq_true, if_false, if_true, read, run]
    rw [← State.asks, beside.wordsAt, up, ← Nat.add_assoc, ← loadValue_word]
    rw [show ea + 4 + BitVec.ofNat 32 (4 * j) = ea + BitVec.ofNat 32 (4 * (j + 1)) by bv_omega, List.drop_tail]
    rfl
/-- Word j of the frame is found uncorrectable, the words before it clean. -/
theorem State.frameLoad_fails (j i : Nat) (within : ea.toNat + 4 * (j + 1) ≤ 0x20000) (aligned : ea.toNat % 4 = 0)
    (good : ∀ x < j, s.bad (localBase n + ea.toNat + 4 * x) 1 = false) (idles : Core.Idles n c k (s.core n)) :
    ∃ t, State.Beside n s t ∧ Core.Idles n c k (t.core n) ∧ ∃ ws, s.frameLoad n ea (j + (i + 1)) (List.replicate j .clean ++ [.uncorrectable]) =
      ((ws, some (7, ea + BitVec.ofNat 32 (4 * j))), t.localFault n (ea + BitVec.ofNat 32 (4 * j))) := by
  have at_j : (ea + BitVec.ofNat 32 (4 * j)).toNat = ea.toNat + 4 * j := by bv_omega
  have form : LocalForm (ea + BitVec.ofNat 32 (4 * j)) 4 := ⟨by omega, .inr (.inr rfl), by omega⟩
  obtain ⟨t, other, idle, run⟩ := State.frameLoad_clean (s := s) (ea := ea) j (i + 1) (List.replicate j .clean ++ [.uncorrectable]) (by omega) aligned
    (fun x hx => by simp [List.getElem?_append_left (List.length_replicate.symm ▸ hx : x < (List.replicate j Ecc.clean).length), hx]) good idles
  have asked : Core.Idles n c k ((t.asks n (ea + BitVec.ofNat 32 (4 * j))).core n) := by
    rw [State.asks, State.core_setCore_self]
    exact idle.puts _
  have last : t.frameLoad n (ea + BitVec.ofNat 32 (4 * j)) (i + 1) [.uncorrectable] = (([], some (7, ea + BitVec.ofNat 32 (4 * j))),
      (t.asks n (ea + BitVec.ofNat 32 (4 * j))).localFault n (ea + BitVec.ofNat 32 (4 * j))) := by
    have read := State.localRead_uncorrectable (n := n) (s := t.asks n (ea + BitVec.ofNat 32 (4 * j))) form
    rw [State.asks] at read
    rw [State.frameLoad, form.localHole, form.isLocal]
    simp only [Bool.false_eq_true, if_false, if_true, List.headD_cons, read]
    rfl
  rw [List.drop_left' (List.length_replicate ..), last] at run
  exact ⟨_, other.setCore _, asked, _, run⟩

/-! ## RET (R361) -/

theorem maskRegs_high {mask : BitVec 10} {x : RegN} (h : x ∈ maskRegs mask) : 22 ≤ x.val := by
  obtain ⟨i, mem, rfl⟩ := List.mem_map.1 h
  have := (mem_setBitsOf.1 mem).1
  rw [toFin, Fin.val_ofNat]
  omega
theorem maskRegs_nodup (mask : BitVec 10) : (maskRegs mask).Nodup := by
  refine (List.Nodup.filter _ List.nodup_range).map_on fun i hi j hj same => ?_
  have upper := (mem_setBitsOf.1 hi).1
  have upper' := (mem_setBitsOf.1 hj).1
  have := congrArg Fin.val same
  rw [toFin, toFin, Fin.val_ofNat, Fin.val_ofNat] at this
  omega

/-- The core with the words vs in its registers rs. -/
def Core.setRs (k : Core) (rs : List RegN) (vs : List Word) : Core := (rs.zip vs).foldl (fun (k : Core) x => k.setR x.1 x.2) k
theorem Core.setRs_cons (k : Core) (x : RegN) (rs : List RegN) (v : Word) (vs : List Word) :
    k.setRs (x :: rs) (v :: vs) = (k.setR x v).setRs rs vs := rfl
theorem Core.r_setRs_out {rs : List RegN} {x : RegN} (out : x ∉ rs) (vs : List Word) : (k.setRs rs vs).r x = k.r x := by
  induction rs generalizing k vs with
  | nil => rfl
  | cons y rs ih =>
    obtain ⟨ne, out⟩ := not_or.1 (mt List.mem_cons.2 out)
    cases vs with
    | nil => rfl
    | cons v vs => rw [Core.setRs_cons, ih out, Core.r_setR, if_neg ne]
theorem Core.r_setRs {rs : List RegN} (nodup : rs.Nodup) (zero : 0 ∉ rs) (vs : List Word) {j : Nat} (h : j < rs.length) (hv : j < vs.length) :
    (k.setRs rs vs).r rs[j] = vs[j] := by
  induction rs generalizing k vs j with
  | nil => exact absurd h (Nat.not_lt_zero j)
  | cons y rs ih =>
    obtain ⟨ne, out⟩ := not_or.1 (mt List.mem_cons.2 zero)
    obtain ⟨fresh, nodup⟩ := List.nodup_cons.1 nodup
    cases vs with
    | nil => exact absurd hv (Nat.not_lt_zero j)
    | cons v vs =>
      rw [Core.setRs_cons]
      cases j with
      | zero => exact (Core.r_setRs_out fresh vs).trans (by rw [Core.r_setR, if_pos rfl, if_neg (Ne.symm ne)]; rfl)
      | succ j => exact ih nodup out vs (Nat.lt_of_succ_lt_succ h) (Nat.lt_of_succ_lt_succ hv)
theorem Core.setR_mp (k : Core) (x : RegN) (v : Word) : (k.setR x v).mp = k.mp ∧ (k.setR x v).flight = k.flight := by
  unfold Core.setR
  split <;> exact ⟨rfl, rfl⟩
theorem Core.setRs_mp (k : Core) (rs : List RegN) (vs : List Word) : (k.setRs rs vs).mp = k.mp ∧ (k.setRs rs vs).flight = k.flight := by
  induction rs generalizing k vs with
  | nil => exact ⟨rfl, rfl⟩
  | cons y rs ih =>
    cases vs with
    | nil => exact ⟨rfl, rfl⟩
    | cons v vs => exact ⟨(ih _ vs).1.trans (k.setR_mp y v).1, (ih _ vs).2.trans (k.setR_mp y v).2⟩
theorem Core.went.setRs {ps rs : List RegN} {pc : Word} {k' : Core} (h : Core.went n ps pc c k k') (sub : ∀ x ∈ rs, x ∈ ps) (vs : List Word) :
    Core.went n ps pc c k (k'.setRs rs vs) := by
  induction rs generalizing k' vs with
  | nil => exact h
  | cons y rs ih =>
    cases vs with
    | nil => exact h
    | cons v vs => exact ih (h.setR (sub y List.mem_cons_self) v) (fun x mem => sub x (List.mem_cons_of_mem y mem)) vs

/-- The core when a RET has read the link and the words vs of its registers rs, with w2 then sp. -/
def Core.rets (k : Core) (sp back link : Word) (rs : List RegN) (vs : List Word) : Core :=
  ((((k.setR 1 link).setRs rs vs).setR 2 sp).goto back).tick (rs.length + 3)
theorem Core.r_rets (k : Core) (sp back link : Word) (rs : List RegN) (vs : List Word) (x : RegN) :
    (k.rets sp back link rs vs).r x = (((k.setR 1 link).setRs rs vs).setR 2 sp).r x := rfl
theorem Core.Idles.rets {k' : Core} (h : Core.Idles n c k k') (sp back link : Word) (rs : List RegN) (vs : List Word) :
    Core.went n ([1, 2] ++ rs) back (c + (rs.length + 3)) k (k'.rets sp back link rs vs) :=
  ((((h.went.setR (by simp) link).setRs (fun x mem => List.mem_append_right _ mem) vs).setR (by simp) sp).goto back).tick _
theorem Core.Idles.rets_mp {k' : Core} (h : Core.Idles n c k k') (sp back link : Word) (rs : List RegN) (vs : List Word) (idle : k.flight = []) :
    (k'.rets sp back link rs vs).mp = k.mp ∧ (k'.rets sp back link rs vs).flight = [] := by
  obtain ⟨mp, flight⟩ := h.mp idle
  obtain ⟨mp₁, flight₁⟩ := k'.setR_mp 1 link
  obtain ⟨mp₂, flight₂⟩ := (k'.setR 1 link).setRs_mp rs vs
  obtain ⟨mp₃, flight₃⟩ := ((k'.setR 1 link).setRs rs vs).setR_mp 2 sp
  exact ⟨mp₃.trans (mp₂.trans (mp₁.trans mp)), flight₃.trans (flight₂.trans (flight₁.trans flight))⟩

section
variable {mask : BitVec 10} {eccs : List Ecc} (h : s.ready n = true)
include h

theorem exec_ret_aligned (aligned : ((s.core n).r 2).toNat % 4 = 0) {f : (List Word × Option (Nat × Word)) × State}
    (loaded : (s.issuing n [1, 2]).frameLoad n ((s.core n).r 2) ((maskRegs mask).length + 1) eccs = f) :
    exec (.ret n mask eccs) s = s.unlessHeld (match (generalizing := false) f with
      | ((link :: vs, none), t) => t.finish n fun k =>
          k.rets ((s.core n).r 2 + BitVec.ofNat 32 (4 * ((maskRegs mask).length + 1))) (k.r 1) link (maskRegs mask) vs
      | ((_, some (code, ea)), t) => t.exception n code (s.core n).pc ea
      | (([], none), t) => t) := by
  have idles := Core.issued_idles n [1, 2] (s.core n)
  subst loaded
  rw [exec_ret, execRet, State.issue_ready h]
  simp only [State.issuing_core, idles.r, idles.pc, aligned, ne_eq, not_true_eq_false, if_false]
  rfl

/-- A RET whose frame lies in the core's local memory, no word of it in error. -/
theorem exec_ret_local (aligned : ((s.core n).r 2).toNat % 4 = 0) (within : ((s.core n).r 2).toNat + 4 * ((maskRegs mask).length + 1) ≤ 0x20000)
    (good : s.bad (localBase n + ((s.core n).r 2).toNat) (4 * ((maskRegs mask).length + 1)) = false) :
    ∃ t, exec (.ret n mask []) s = .next t ∧ (t.core n).r 2 = (s.core n).r 2 + BitVec.ofNat 32 (4 * ((maskRegs mask).length + 1)) ∧
      (t.core n).r 1 = BitVec.ofNat 32 (s.le (localBase n + ((s.core n).r 2).toNat) 4) ∧
      (∀ j (h : j < (maskRegs mask).length), (t.core n).r (maskRegs mask)[j] =
        BitVec.ofNat 32 (s.le (localBase n + ((s.core n).r 2).toNat + 4 * (j + 1)) 4)) ∧
      s.ran n ([1, 2] ++ maskRegs mask) ((s.core n).r 1) ((s.core n).loadUse [1, 2] + ((maskRegs mask).length + 1) + 2) t := by
  have beside := State.issuing_beside h [1, 2]
  have issued := Core.issued_idles n [1, 2] (s.core n)
  rw [← State.issuing_core (s := s)] at issued
  obtain ⟨u, other, idles, run⟩ := State.frameLoad_clean (ea := (s.core n).r 2) ((maskRegs mask).length + 1) 0 [] within aligned (fun _ _ => rfl)
    (fun x hx => (beside.bad _ _).trans (State.bad_localWord within good hx)) issued
  rw [beside.wordsAt, State.wordsAt_succ] at run
  have ret := exec_ret_aligned h aligned run
  simp only [State.frameLoad, List.append_nil] at ret
  rw [State.finish_running (idles.running.trans (State.ready_running h)), idles.r] at ret
  have low (x : RegN) (below : x.val < 22) : x ∉ maskRegs mask := fun mem => Nat.not_le.2 below (maskRegs_high mem)
  refine ⟨_, ret.trans (State.unlessHeld_next (other.gmem.trans beside.gmem) (other.probs.trans beside.probs)), ?_⟩
  rw [State.ran, State.core_setCore_self]
  refine ⟨?_, ?_, fun j hj => ?_, idles.rets .., ⟨fun m hm => ?_, ?_⟩, idles.rets_mp _ _ _ _ _⟩
  · rw [Core.r_rets, Core.r_setR, if_pos rfl, if_neg (by decide)]
  · rw [Core.r_rets, Core.r_setR, if_neg (by decide), Core.r_setRs_out (low 1 (by decide)), Core.r_setR, if_pos rfl, if_neg (by decide)]
  · have ne : (maskRegs mask)[j] ≠ 2 := fun same => low 2 (by decide) (same ▸ List.getElem_mem hj)
    rw [Core.r_rets, Core.r_setR, if_neg ne, Core.r_setRs (maskRegs_nodup mask) (low 0 (by decide)) _ hj
      (by rw [State.length_wordsAt]; exact hj), State.getElem_wordsAt, Nat.mul_succ, Nat.add_comm (4 * j), ← Nat.add_assoc]
  · rw [State.core_setCore_ne _ hm, other.others m hm]
    exact beside.others m hm
  · exact ((beside.frame (by decide) (by decide)).trans (other.frame (by decide) (by decide))).setCore (by decide)
end

/-! ## Exceptions of CALL, CALLR and RET (R340, R345, R361) -/

section
variable {u : State} (h : s.ready n = true) (beside : State.Beside n s u) (idles : Core.Idles n c (s.core n) (u.core n))
  (empty : (s.core n).stores = []) (first : (s.core n).status.getLsbD 3 = false)
include h beside idles empty first

/-- From a state in which only cycles of core n have passed an exception is its handler's entry and nothing else. -/
theorem State.exception_trapped (code : Nat) (ret eval : Word) : ∃ t, s.unlessHeld (u.exception n code ret eval) = .next t ∧
    s.trapped n (BitVec.ofNat 32 code) ret eval (s.core n).evec t := by
  have running := State.ready_running h
  obtain ⟨d, landed⟩ := idles.landAll
  rw [State.exception_enters (idles.stores.trans empty) (idles.posted.trans (State.ready_posted h)) (idles.running.trans running)
    (by rw [idles.status, first]), idles.evec]
  refine ⟨_, State.unlessHeld_next beside.gmem beside.probs, ?_, (beside.setCore _).alone⟩
  rw [State.core_setCore_self]
  exact landed.entered rfl empty running _ _ _ _
/-- An uncorrectable word of the core's local memory raises code 7. -/
theorem State.localFault_raises (at_ ev : Word) : ∃ t, s.unlessHeld ((u.localFault n at_).exception n 7 (s.core n).pc ev) = .next t ∧
    Core.entered n 7 (s.core n).pc ev (s.core n).evec (s.core n) (t.core n) ∧ (n.val < 8 → t.bit hlmFault (8 + n) = true) ∧ onlyCore n s t ∧
    (n.val ≠ 9 → Frame [.cores, .freeCtr, .flaws] (regsOf [hlmFault]) s t) := by
  have core := (u.localFault_does n at_).core (by decide)
  have running := State.ready_running h
  obtain ⟨d, landed⟩ := idles.landAll
  rw [← core n] at idles landed
  rw [State.exception_enters (idles.stores.trans empty) (idles.posted.trans (State.ready_posted h)) (idles.running.trans running)
    (by rw [idles.status, first]), idles.evec]
  refine ⟨_, State.unlessHeld_next ?_ ?_, ?_, fun die => ?_, fun m hm => ?_, fun other => ?_⟩
  · rw [State.setCore_gmem, (u.localFault_does n at_).part .gmem (by decide), beside.gmem]
  · rw [State.setCore_probs, (u.localFault_does n at_).part .probs (by decide), beside.probs]
  · rw [State.core_setCore_self]
    exact landed.entered rfl empty running _ _ _ _
  · rw [State.setCore_bit, State.localFault, if_pos die]
    exact State.bit_setBit_self _ _ (by omega)
  · rw [State.core_setCore_ne _ hm, core]
    exact beside.others m hm
  · exact (Frame.trans (beside.frame (by decide) (by decide)) (State.localFault_frame other (by decide))).setCore (by decide)
end

theorem State.issuing_idles (s : State) (n : CoreN) (srcs : List RegN) :
    Core.Idles n ((s.core n).loadUse srcs) (s.core n) ((s.issuing n srcs).core n) := by
  rw [State.issuing_core]
  exact Core.issued_idles n srcs (s.core n)
theorem localHole_of_range (low : 0x20000 ≤ ea.toNat) (high : ea.toNat < 2 ^ 28) : localHole ea = true :=
  Bool.and_eq_true_iff.2 ⟨decide_eq_true high, decide_eq_true low⟩

section
variable {mask : BitVec 10} {srcs : List RegN} {target : Core → Word} {sp : Word} (h : s.ready n = true)
include h

/-- Word j of the frame of a RET in the core's local memory is found uncorrectable. -/
theorem exec_ret_uncorrectable (aligned : ((s.core n).r 2).toNat % 4 = 0)
    (within : ((s.core n).r 2).toNat + 4 * ((maskRegs mask).length + 1) ≤ 0x20000)
    (good : s.bad (localBase n + ((s.core n).r 2).toNat) (4 * ((maskRegs mask).length + 1)) = false)
    (empty : (s.core n).stores = []) (first : (s.core n).status.getLsbD 3 = false) {j : Nat} (lower : j < (maskRegs mask).length + 1) :
    ∃ t, exec (.ret n mask (List.replicate j .clean ++ [.uncorrectable])) s = .next t ∧
      Core.entered n 7 (s.core n).pc ((s.core n).r 2 + BitVec.ofNat 32 (4 * j)) (s.core n).evec (s.core n) (t.core n) ∧
      (n.val < 8 → t.bit hlmFault (8 + n) = true) ∧ onlyCore n s t ∧ (n.val ≠ 9 → Frame [.cores, .freeCtr, .flaws] (regsOf [hlmFault]) s t) := by
  have beside := State.issuing_beside h [1, 2]
  obtain ⟨u, other, idles, ws, run⟩ := State.frameLoad_fails (ea := (s.core n).r 2) j ((maskRegs mask).length - j) (by omega) aligned
    (fun x hx => (beside.bad _ _).trans (State.bad_localWord within good (by omega))) (s.issuing_idles n [1, 2])
  rw [show j + ((maskRegs mask).length - j + 1) = (maskRegs mask).length + 1 by omega] at run
  have ret := exec_ret_aligned h aligned run
  obtain ⟨t, raised, after⟩ := State.localFault_raises h (u := u) ⟨by rw [other.rest, beside.rest],
    fun m hm => (other.others m hm).trans (beside.others m hm)⟩
    idles empty first ((s.core n).r 2 + BitVec.ofNat 32 (4 * j)) ((s.core n).r 2 + BitVec.ofNat 32 (4 * j))
  refine ⟨t, ?_, after⟩
  cases ws <;> exact ret.trans raised

section
variable (empty : (s.core n).stores = []) (first : (s.core n).status.getLsbD 3 = false)
include empty first

theorem State.callOp_misaligned (top : (s.core n).r 2 - BitVec.ofNat 32 (4 * ((maskRegs mask).length + 1)) = sp)
    (odd : ((s.core n).r 2).toNat % 4 ≠ 0) : ∃ t, s.callOp n mask srcs target = .next t ∧ s.trapped n 3 (s.core n).pc sp (s.core n).evec t := by
  have idles := s.issuing_idles n ([1, 2] ++ maskRegs mask ++ srcs)
  obtain ⟨t, run, trapped⟩ := State.exception_trapped h (State.issuing_beside h _) idles empty first 3 (s.core n).pc sp
  refine ⟨t, Eq.trans ?_ run, trapped⟩
  unfold State.callOp
  rw [State.issue_ready h]
  simp only [idles.r, idles.pc, top, odd, ne_eq, not_false_eq_true, if_true]
theorem exec_ret_misaligned (odd : ((s.core n).r 2).toNat % 4 ≠ 0) (eccs : List Ecc) :
    ∃ t, exec (.ret n mask eccs) s = .next t ∧ s.trapped n 3 (s.core n).pc ((s.core n).r 2) (s.core n).evec t := by
  have idles := s.issuing_idles n [1, 2]
  obtain ⟨t, run, trapped⟩ := State.exception_trapped h (State.issuing_beside h _) idles empty first 3 (s.core n).pc ((s.core n).r 2)
  refine ⟨t, Eq.trans ?_ run, trapped⟩
  rw [exec_ret, execRet, State.issue_ready h]
  simp only [idles.r, idles.pc, odd, ne_eq, not_false_eq_true, if_true]
theorem State.callOp_hole (top : (s.core n).r 2 - BitVec.ofNat 32 (4 * ((maskRegs mask).length + 1)) = sp)
    (aligned : ((s.core n).r 2).toNat % 4 = 0) (low : 0x20000 ≤ sp.toNat) (high : sp.toNat < 2 ^ 28) :
    ∃ t, s.callOp n mask srcs target = .next t ∧ s.trapped n 5 (s.core n).pc sp (s.core n).evec t := by
  have idles := s.issuing_idles n ([1, 2] ++ maskRegs mask ++ srcs)
  obtain ⟨t, run, trapped⟩ := State.exception_trapped h (State.issuing_beside h _) idles empty first 5 (s.core n).pc sp
  have stored : (s.issuing n ([1, 2] ++ maskRegs mask ++ srcs)).frameStore n sp ((s.core n).r 1 :: (maskRegs mask).map (s.core n).r) =
      (some sp, s.issuing n ([1, 2] ++ maskRegs mask ++ srcs)) := by
    rw [State.frameStore, if_pos (localHole_of_range low high)]
  have call := State.callOp_aligned (target := target) h top aligned stored
  dsimp only at call
  exact ⟨t, call.trans run, trapped⟩
theorem exec_ret_hole (aligned : ((s.core n).r 2).toNat % 4 = 0) (low : 0x20000 ≤ ((s.core n).r 2).toNat) (high : ((s.core n).r 2).toNat < 2 ^ 28)
    (eccs : List Ecc) : ∃ t, exec (.ret n mask eccs) s = .next t ∧ s.trapped n 4 (s.core n).pc ((s.core n).r 2) (s.core n).evec t := by
  have idles := s.issuing_idles n [1, 2]
  obtain ⟨t, run, trapped⟩ := State.exception_trapped h (State.issuing_beside h _) idles empty first 4 (s.core n).pc ((s.core n).r 2)
  have loaded : (s.issuing n [1, 2]).frameLoad n ((s.core n).r 2) ((maskRegs mask).length + 1) eccs =
      (([], some (4, (s.core n).r 2)), s.issuing n [1, 2]) := by
    rw [State.frameLoad, if_pos (localHole_of_range low high)]
  have ret := exec_ret_aligned h aligned loaded
  dsimp only at ret
  exact ⟨t, ret.trans run, trapped⟩
end
end

/-! ## A frame on a channel that retrains (R258) -/

theorem State.unlessHeld_held (longer : s.gmem.waiting.length < t.gmem.waiting.length) : s.unlessHeld t = .next s := by
  rw [State.unlessHeld, if_pos (by simp [State.held, longer])]
/-- The exception of a core whose store buffer is empty leaves the requests that wait. -/
theorem State.exception_gmem (empty : (s.core n).stores = []) (code : Nat) (ret eval : Word) : (s.exception n code ret eval).gmem = s.gmem := by
  unfold State.exception State.quiesce
  rw [State.waitStores_empty empty]
  dsimp only
  split
  · rfl
  split
  · exact (State.doubleFault_does _ n _ _).part .gmem (by decide)
  · rfl
theorem State.finish_gmem (s : State) (n : CoreN) (f : Core → Core) : (s.finish n f).gmem = s.gmem := by
  unfold State.finish
  split <;> rfl

/-- No access of the GDDR6 regions that is served changes which requests wait. -/
theorem State.gddrServe_waiting (s : State) (u : MemUser) (a size : Nat) (data : Option (List Byte)) (chk : Check) :
    (s.gddrServe u a size data chk).1.gmem.waiting = s.gmem.waiting := by
  have retry (c : ChanN) (edc limit : Nat) : (s.memRetry c edc limit).1.gmem.waiting = s.gmem.waiting := by
    unfold State.memRetry
    dsimp only
    split <;> rfl
  unfold State.gddrServe
  split
  · rfl
  split
  · rfl
  split
  · rfl
  split
  · rfl
  dsimp only
  split
  · rfl
  cases data with
  | none =>
    dsimp only
    split
    · exact retry ..
    · rw [(State.gddrFetch_does ..).part .gmem (by decide)]
      exact retry ..
  | some bs =>
    dsimp only
    split
    · exact retry ..
    · rw [(State.gddrStore_does ..).part .gmem (by decide)]
      exact retry ..

theorem State.gddrAccess_waiting (s : State) (u : MemUser) (a size : Nat) (data : Option (List Byte)) (chk : Check) :
    s.gmem.waiting.length ≤ (s.gddrAccess u a size data chk).1.gmem.waiting.length := by
  unfold State.gddrAccess
  split
  · rw [show ∀ m : Mem, (s.setMem m).gmem = m from fun _ => rfl, List.length_append]
    exact Nat.le_add_right _ _
  · rw [State.gddrServe_waiting]

/-- A write in the GDDR6 regions leaves the cores, and takes no request from those that wait. -/
theorem State.busWrite_gddr {a : Nat} (h : a < gddrEnd) (r : Requester) (bs : List Byte) (chk : Check) :
    s.gmem.waiting.length ≤ (s.busWrite r a bs chk).2.gmem.waiting.length ∧ (s.busWrite r a bs chk).2.core n = s.core n := by
  unfold State.busWrite
  dsimp only
  split
  · exact ⟨Nat.le_refl _, rfl⟩
  exact ⟨s.gddrAccess_waiting .., (State.gddrAccess_does ..).core (by decide) n⟩
/-- The state in which one more request waits. -/
def State.waits (s : State) (q : MemReq) : State := s.setMem { s.gmem with waiting := s.gmem.waiting ++ [q] }
theorem State.waits_longer (s : State) (q : MemReq) : s.gmem.waiting.length < (s.waits q).gmem.waiting.length := by
  rw [show (s.waits q).gmem.waiting = s.gmem.waiting ++ [q] from rfl, List.length_append]
  exact Nat.lt_succ_self _
section
variable {a : Nat} (h : s.memWaits a = true)
include h
theorem State.memWaits_open : s.dieOk a = true ∧ a < gddrEnd := by
  refine ⟨?_, ?_⟩ <;> by_contra out
  · have off : s.clk.cdUp = false := by
      by_contra up
      exact out (State.dieOk_of_cdUp (Bool.eq_true_of_not_eq_false up))
    rw [State.memWaits_of_off off] at h
    cases h
  · rw [State.memWaits_of_ge (Nat.le_of_not_lt out)] at h
    cases h
theorem State.busWrite_waits (r : Requester) (bs : List Byte) (chk : Check) : s.busWrite r a bs chk =
    (true, s.waits { u := .req r, addr := a, size := bs.length, data := some bs, chk }) := by
  obtain ⟨die, lower⟩ := State.memWaits_open h
  unfold State.busWrite State.gddrAccess
  simp only [die, lower, h, Bool.not_true, Bool.false_eq_true, if_false, if_true]
  rfl
theorem State.busRead_waits (r : Requester) (size : Nat) (chk : Check) : s.busRead r a size chk =
    (none, s.waits { u := .req r, addr := a, size, data := none, chk }) := by
  obtain ⟨die, lower⟩ := State.memWaits_open h
  unfold State.busRead State.gddrAccess
  simp only [die, lower, h, Bool.not_true, Bool.false_eq_true, if_false, if_true]
  rfl
end
theorem State.Beside.memWaits (h : State.Beside n s t) (a : Nat) : t.memWaits a = s.memWaits a := State.memWaits_congr h.rd h.gmem h.clk a

theorem Core.Idles.stallFree (h : Core.Idles n c k (s.core n)) : ∃ d, Core.Idles n d k ((s.stallFree n).core n) := by
  have core : (s.stallFree n).core n = (s.core n).tick s.freeWord.1.toNat := State.core_setCore_self ..
  exact ⟨_, core ▸ h.tick _⟩
/-- Core n's store of v at ea beyond its local memory has gone out, and the core has stalled for as long as the manual leaves open. -/
def State.sends (s : State) (n : CoreN) (ea v : Word) : State := (s.setCore n ((s.core n).putsStore n ea v 4)).stallFree n
theorem State.sends_beside (s : State) (n : CoreN) (ea v : Word) : State.Beside n s (s.sends n ea v) := ((State.Beside.refl n s).setCore _).stallFree
theorem State.sends_core (s : State) (n : CoreN) (ea v : Word) : ((s.sends n ea v).core n).stores = (s.core n).stores ∧
    ∀ x, ((s.sends n ea v).core n).segAddr x = (s.core n).segAddr x := by
  have sent : Core.Idles n 0 (s.core n).lsStore ((s.setCore n ((s.core n).putsStore n ea v 4)).core n) := by
    rw [State.core_setCore_self]
    exact (Core.Idles.refl n (s.core n)).putsStore ea v 4
  obtain ⟨c, idles⟩ := sent.stallFree
  exact ⟨idles.stores.trans (Core.lsStore_stores _), fun x => (idles.segAddr x).trans (Core.lsStore_segAddr _ x)⟩
theorem State.frameStore_far (far : 2 ^ 28 ≤ ea.toNat) (empty : (s.core n).stores = []) (v : Word) (vs : List Word) : s.frameStore n ea (v :: vs) =
    match (generalizing := false) (s.sends n ea v).busWrite (coreReq n) ((s.core n).segAddr ea) (toLE 4 v.toNat) {} with
    | (true, t) => t.frameStore n (ea + 4) vs
    | (false, t) => (some ea, t) := by
  obtain ⟨-, seg⟩ := s.sends_core n ea v
  rw [← seg, State.frameStore, localHole_eq_false far, isLocal_eq_false far]
  simp only [Bool.false_eq_true, if_false]
  rw [State.waitStores_empty]
  · rfl
  · rw [State.core_setCore_self, Core.putsStore, Core.lsStore_stores, ((Core.Idles.refl n (s.core n)).puts _).stores, empty]
/-- A frame in GDDR6 takes no request from those that wait. -/
theorem State.frameStore_gddr {vs : List Word} (empty : (s.core n).stores = [])
    (place : ∀ i < vs.length, 2 ^ 28 ≤ (ea + BitVec.ofNat 32 (4 * i)).toNat ∧ (s.core n).segAddr (ea + BitVec.ofNat 32 (4 * i)) < gddrEnd) :
    s.gmem.waiting.length ≤ (s.frameStore n ea vs).2.gmem.waiting.length ∧ ((s.frameStore n ea vs).2.core n).stores = [] := by
  induction vs generalizing s ea with
  | nil => exact ⟨Nat.le_refl _, empty⟩
  | cons v vs ih =>
    obtain ⟨far, lower⟩ := place 0 (Nat.succ_pos _)
    rw [Nat.mul_zero, BitVec.add_zero] at far lower
    obtain ⟨buffer, seg⟩ := s.sends_core n ea v
    obtain ⟨keeps, core⟩ := State.busWrite_gddr (n := n) (s := s.sends n ea v) lower (coreReq n) (toLE 4 v.toNat) {}
    rw [State.frameStore_far far empty]
    rw [(s.sends_beside n ea v).gmem] at keeps
    generalize (s.sends n ea v).busWrite (coreReq n) ((s.core n).segAddr ea) (toLE 4 v.toNat) {} = w at keeps core
    obtain ⟨done, t⟩ := w
    dsimp only at keeps core
    cases done with
    | false =>
      dsimp only
      exact ⟨keeps, by rw [core, buffer, empty]⟩
    | true =>
      dsimp only
      have later := ih (s := t) (ea := ea + 4) (by rw [core, buffer, empty]) fun i hi => by
        have := place (i + 1) (Nat.succ_lt_succ hi)
        rw [show ea + 4 + BitVec.ofNat 32 (4 * i) = ea + BitVec.ofNat 32 (4 * (i + 1)) by bv_omega, core, seg]
        exact this
      exact ⟨Nat.le_trans keeps later.1, later.2⟩

/-- A frame of m words at ea in GDDR6, its first word on a channel that retrains. -/
structure State.FrameWaits (s : State) (n : CoreN) (ea : Word) (m : Nat) : Prop where
  far : 2 ^ 28 ≤ ea.toNat
  within : ea.toNat % 2 ^ 28 + 4 * m ≤ 2 ^ 28
  below : (s.core n).segAddr ea + 4 * m ≤ gddrEnd
  empty : (s.core n).stores = []
  waits : s.memWaits ((s.core n).segAddr ea) = true
theorem State.FrameWaits.place {m i : Nat} (h : s.FrameWaits n ea m) (lower : i < m) :
    2 ^ 28 ≤ (ea + BitVec.ofNat 32 (4 * i)).toNat ∧ (s.core n).segAddr (ea + BitVec.ofNat 32 (4 * i)) < gddrEnd := by
  have far := h.far
  have within := h.within
  have bound := ea.isLt
  have at_i : (ea + BitVec.ofNat 32 (4 * i)).toNat = ea.toNat + 4 * i := by
    rw [BitVec.toNat_add, BitVec.toNat_ofNat]
    omega
  have seg : (s.core n).segAddr (ea + BitVec.ofNat 32 (4 * i)) = (s.core n).segAddr ea + 4 * i := by
    have same : (ea.toNat + 4 * i) / 2 ^ 28 = ea.toNat / 2 ^ 28 := by omega
    simp only [Core.segAddr, at_i, same]
    omega
  have below := h.below
  omega
theorem State.FrameWaits.beside {m : Nat} (h : s.FrameWaits n ea m) (other : State.Beside n s t) (idles : Core.Idles n c (s.core n) (t.core n)) :
    t.FrameWaits n ea m :=
  ⟨h.far, h.within, by rw [idles.segAddr]; exact h.below, idles.stores.trans h.empty, by rw [idles.segAddr, other.memWaits]; exact h.waits⟩
theorem State.frameStore_waits {v : Word} {vs : List Word} (h : s.FrameWaits n ea (vs.length + 1)) :
    s.gmem.waiting.length < (s.frameStore n ea (v :: vs)).2.gmem.waiting.length ∧ ((s.frameStore n ea (v :: vs)).2.core n).stores = [] := by
  obtain ⟨buffer, seg⟩ := s.sends_core n ea v
  have beside := s.sends_beside n ea v
  have write := State.busWrite_waits (s := s.sends n ea v) (by rw [beside.memWaits]; exact h.waits) (coreReq n) (toLE 4 v.toNat) {}
  rw [State.frameStore_far h.far h.empty, write]
  dsimp only
  generalize ({ u := _, addr := _, size := _, data := _, chk := _ } : MemReq) = q
  have later := State.frameStore_gddr (s := (s.sends n ea v).waits q) (n := n) (ea := ea + 4) (vs := vs) (buffer.trans h.empty) fun i hi => by
    have := h.place (Nat.succ_lt_succ hi)
    rw [show ea + 4 + BitVec.ofNat 32 (4 * i) = ea + BitVec.ofNat 32 (4 * (i + 1)) by bv_omega]
    exact ⟨this.1, (congrArg (· < gddrEnd) (seg _)).mpr this.2⟩
  have longer := (s.sends n ea v).waits_longer q
  rw [beside.gmem] at longer
  exact ⟨Nat.lt_of_lt_of_le longer later.1, later.2⟩
theorem State.frameLoad_waits {m : Nat} (h : s.FrameWaits n ea (m + 1)) (eccs : List Ecc) :
    ∃ t, s.frameLoad n ea (m + 1) eccs = (([], some (4, ea)), t) ∧
    s.gmem.waiting.length < t.gmem.waiting.length ∧ (t.core n).stores = [] := by
  have beside : State.Beside n s ((s.asks n ea).stallFree n) := ((State.Beside.refl n s).setCore _).stallFree
  have asked : Core.Idles n 0 (s.core n) ((s.asks n ea).core n) := by
    rw [State.asks, State.core_setCore_self]
    exact (Core.Idles.refl n (s.core n)).puts _
  obtain ⟨c, idles⟩ := asked.stallFree
  have read := State.busRead_waits (s := (s.asks n ea).stallFree n) (a := (s.core n).segAddr ea) (by rw [beside.memWaits]; exact h.waits)
    (coreReq n) 4 { ecc := eccs.take 1 }
  have quiet : (s.asks n ea).waitStores n = s.asks n ea := by
    rw [State.waitStores_empty (asked.stores.trans h.empty)]
  rw [← idles.segAddr] at read
  have longer := State.waits_longer ((s.asks n ea).stallFree n)
    { u := .req (coreReq n)
      addr := (((s.asks n ea).stallFree n).core n).segAddr ea
      size := 4
      data := none
      chk := { ecc := eccs.take 1 } }
  rw [beside.gmem] at longer
  refine ⟨_, ?_, longer, idles.stores.trans h.empty⟩
  rw [State.frameLoad, localHole_eq_false h.far, isLocal_eq_false h.far]
  rw [State.asks] at quiet read
  simp only [Bool.false_eq_true, if_false, quiet, read]
  rfl

section
variable {mask : BitVec 10} {srcs : List RegN} {target : Core → Word} {sp : Word} (h : s.ready n = true)
  (aligned : ((s.core n).r 2).toNat % 4 = 0)
include h aligned

theorem State.callOp_waits (top : (s.core n).r 2 - BitVec.ofNat 32 (4 * ((maskRegs mask).length + 1)) = sp)
    (waits : s.FrameWaits n sp ((maskRegs mask).length + 1)) : s.callOp n mask srcs target = .next s := by
  have beside := State.issuing_beside h ([1, 2] ++ maskRegs mask ++ srcs)
  have waits := waits.beside beside (s.issuing_idles n _)
  rw [← List.length_map (f := (s.core n).r)] at waits
  obtain ⟨longer, empty⟩ := State.frameStore_waits (v := (s.core n).r 1) waits
  have call := State.callOp_aligned (target := target) (srcs := srcs) h top aligned rfl
  rw [beside.gmem] at longer
  generalize (s.issuing n ([1, 2] ++ maskRegs mask ++ srcs)).frameStore n sp ((s.core n).r 1 :: (maskRegs mask).map (s.core n).r)
    = f at longer empty call
  obtain ⟨fault, t⟩ := f
  refine call.trans (State.unlessHeld_held ?_)
  cases fault with
  | some ea =>
    dsimp only
    rw [State.exception_gmem empty]
    exact longer
  | none =>
    dsimp only
    rw [State.finish_gmem]
    exact longer
theorem exec_ret_waits (waits : s.FrameWaits n ((s.core n).r 2) ((maskRegs mask).length + 1)) (eccs : List Ecc) :
    exec (.ret n mask eccs) s = .next s := by
  have beside := State.issuing_beside h [1, 2]
  obtain ⟨t, load, longer, empty⟩ := State.frameLoad_waits (waits.beside beside (s.issuing_idles n _)) eccs
  have ret := exec_ret_aligned h aligned load
  dsimp only at ret
  rw [beside.gmem] at longer
  exact ret.trans (State.unlessHeld_held (by rw [State.exception_gmem empty]; exact longer))
end

/-- Settles O38: CALL, CALLR and RET by what their frame meets, in local memory, in its hole and on a channel that retrains. -/
theorem helmCallReturn : Obligations.HelmCallReturn := by
  intro s n mask off ra ready k rs m sp frame base calls
  have call (srcs : List RegN) (target : Core → Word) (i : Instr) (dest : Word) (run : exec i s = s.callOp n mask srcs target)
      (goes : target ((s.core n).issued n ([1, 2] ++ maskRegs mask ++ srcs)) = dest) (aligned : (k.r 2).toNat % 4 = 0) (fits : 4 * m ≤ (k.r 2).toNat)
      (within : (k.r 2).toNat ≤ 0x20000) : calls i srcs dest := by
    obtain ⟨t, next, after⟩ := State.callOp_local ready rfl goes aligned fits within
    exact ⟨t, run.trans next, after⟩
  have isCall : exec (.call n mask off) s = s.callOp n mask [] fun k => k.target16 off := exec_call ..
  have isCallr : exec (.callr n mask ra) s = s.callOp n mask [ra] fun k => k.r ra := exec_callr ..
  refine ⟨fun aligned fits within => ⟨?_, ?_⟩, fun aligned within good => ⟨?_, fun empty first j lower => ?_⟩, ⟨fun wait => ⟨?_, ?_⟩,
    fun wait eccs => ?_⟩,
    fun empty first => ⟨fun odd => ⟨?_, ?_, fun eccs => ?_⟩, fun aligned low high => ⟨?_, ?_⟩, fun aligned low high eccs => ?_⟩⟩
  · refine call [] (fun k => k.target16 off) _ _ isCall ?_ aligned fits within
    rw [Core.target16_eq, (Core.issued_idles n _ (s.core n)).pc]
  · exact call [ra] (fun k => k.r ra) _ _ isCallr ((Core.issued_idles n _ (s.core n)).r ra) aligned fits within
  · exact exec_ret_local ready aligned within good
  · exact exec_ret_uncorrectable ready aligned within good empty first lower
  · obtain ⟨aligned, far, fits, below, empty, waits⟩ := wait
    exact isCall.trans (State.callOp_waits ready aligned rfl ⟨far, fits, below, empty, waits⟩)
  · obtain ⟨aligned, far, fits, below, empty, waits⟩ := wait
    exact isCallr.trans (State.callOp_waits ready aligned rfl ⟨far, fits, below, empty, waits⟩)
  · obtain ⟨aligned, far, fits, below, empty, waits⟩ := wait
    exact exec_ret_waits ready aligned ⟨far, fits, below, empty, waits⟩ eccs
  · rw [isCall]
    exact State.callOp_misaligned ready empty first rfl odd
  · rw [isCallr]
    exact State.callOp_misaligned ready empty first rfl odd
  · exact exec_ret_misaligned ready empty first odd eccs
  · rw [isCall]
    exact State.callOp_hole ready empty first rfl aligned low high
  · rw [isCallr]
    exact State.callOp_hole ready empty first rfl aligned low high
  · exact exec_ret_hole ready empty first aligned low high eccs

end Sys2Proof.Machine
end

section
/-!
PROOF of O24: training, short retrains, the exclusion of channels and self-refresh of the GDDR6.
-/
namespace Sys2Proof.Machine

variable {s t u : State} {c d : ChanN} {a : Nat} {ps : List Part} {rs : Nat → Prop}

/-! ## The registers of a channel, and what its place depends on (R245, R250) -/

/-- MEM_CHSTAT of the channels lies apart from every other register. -/
theorem ne_memChstat (c : ChanN) (h : a < 0x4000060040 ∨ 0x4000060060 ≤ a) : a ≠ memChstat c := by
  have bound : c.val < 8 := c.isLt
  unfold memChstat memBase
  omega
theorem memChstat_inj (h : memChstat c = memChstat d) : c = d := by
  unfold memChstat at h
  exact Fin.ext (by omega)
theorem mem_allChans (c : ChanN) : c ∈ allChans := List.mem_finRange c
theorem State.exclMask_congr (h : t.rd memTrctl = s.rd memTrctl) : t.exclMask = s.exclMask := by
  rw [State.exclMask, State.exclMask, State.fld, State.fld, h]
theorem State.inUse_congr (h : t.rd memTrctl = s.rd memTrctl) : t.inUse = s.inUse := by
  funext c
  rw [State.inUse, State.inUse, State.exclMask_congr h]
theorem State.chanOf_congr (h : t.rd memTrctl = s.rd memTrctl) : t.chanOf = s.chanOf := by
  funext a
  rw [State.chanOf, State.chanOf, State.chansInUse, State.chansInUse, State.linear, State.linear, State.inUse_congr h, State.exclMask_congr h]

/-! ## Training (R249, R250) -/

/-- Channel c passes its training: its pattern passed, with an eye of the least width or more. -/
def State.trains (s : State) (c : ChanN) (ok : Bool) (eye : Nat) : Bool := ok && decide ((if s.bit memTrctl (8 + c) then 28 else 24) ≤ eye)
theorem State.trains_congr (h : t.rd memTrctl = s.rd memTrctl) (ok : Bool) (eye : Nat) : t.trains c ok eye = s.trains c ok eye := by
  rw [State.trains, State.trains, State.bit_congr h]

theorem Frame.setGcnt (h : Frame ps rs s t) (mem : Part.mem ∈ ps) (hr : rs bootDeg) (v : Nat) : Frame ps rs s (t.setGcnt c v) := by
  unfold State.setGcnt State.saveProg State.recWrite
  exact (h.setFld hr).ite (State.setBytes_frame (h.setFld hr) mem _ _)
theorem State.setGcnt_gmem (s : State) (c : ChanN) (v : Nat) : (s.setGcnt c v).gmem = s.gmem := (State.setGcnt_does ..).part .gmem (by decide)
theorem State.setGcnt_rd (ne : a ≠ bootDeg) (s : State) (c : ChanN) (v : Nat) : (s.setGcnt c v).rd a = s.rd a :=
  ((Frame.refl [.mem] (regsOf [bootDeg]) s).setGcnt (by decide) (List.mem_singleton.2 rfl) v).2.1 a fun mem => ne (List.mem_singleton.1 mem)

/-! The part of the controller after a register write: as rewrite rules that the kernel need not unfold. -/
theorem State.gmem_setFld (s : State) (a hi lo v : Nat) : (s.setFld a hi lo v).gmem = s.gmem := by rw [State.setFld_gmem]
theorem State.gmem_setBit (s : State) (a i : Nat) (v : Bool) : (s.setBit a i v).gmem = s.gmem := by rw [State.setBit_gmem]
theorem State.gmem_setMem (s : State) (m : Mem) : (s.setMem m).gmem = m := by rw [State.setMem_gmem]
theorem State.gmem_saveTraining (s : State) (c : ChanN) : (s.saveTraining c).gmem = s.gmem :=
  (State.saveTraining_does s c).part .gmem (by decide)

theorem Frame.setMem (h : Frame ps rs s t) (mem : Part.gmem ∈ ps) (m : Mem) : Frame ps rs s (t.setMem m) := h.upd_gmem mem

/-- The training of a channel writes its status, MEM_STATUS and the record of failures. -/
theorem State.trained_frame (s : State) (c : ChanN) (ok : Bool) (eye : Nat) :
    Frame [.mem, .gmem, .freeCtr] (regsOf [memChstat c, memStatus, bootDeg]) s (s.trained c ok eye) := by
  have base := Frame.refl [.mem, .gmem, .freeCtr] (regsOf [memChstat c, memStatus, bootDeg]) s
  have chstat : regsOf [memChstat c, memStatus, bootDeg] (memChstat c) := by simp [regsOf]
  have status : regsOf [memChstat c, memStatus, bootDeg] memStatus := by simp [regsOf]
  have deg : regsOf [memChstat c, memStatus, bootDeg] bootDeg := by simp [regsOf]
  unfold State.trained
  dsimp only
  refine Frame.ite (base.setFld chstat) (Frame.ite ?_ ?_)
  · exact Frame.setGcnt (Frame.doesNone (State.saveTraining_does ..)
      (((((base.setFld chstat).setFld chstat).setFld chstat).setBit status).setMem (by decide) _) (by decide) (by decide)) (by decide) deg _
  · exact ((((base.setFld chstat).setFld chstat).setBit status).setMem (by decide) _).setGcnt (by decide) deg _
/-- The training of a channel leaves MEM_TRCTL. -/
theorem State.trained_trctl (s : State) (c : ChanN) (ok : Bool) (eye : Nat) : (s.trained c ok eye).rd memTrctl = s.rd memTrctl := by
  refine (s.trained_frame c ok eye).2.1 _ fun mem => ?_
  rcases List.mem_cons.1 mem with h | h
  · exact ne_memChstat c (.inl (by decide)) h
  · revert h
    decide
/-- What the training of a channel leaves of the record of which channels have passed. -/
theorem State.trained_gmem (s : State) (c : ChanN) (ok : Bool) (eye : Nat) : (s.trained c ok eye).gmem.training = s.gmem.training ∧
    (s.trained c ok eye).gmem.passed = if s.inUse c then s.gmem.passed.set c (s.trains c ok eye) else s.gmem.passed := by
  unfold State.trained State.trains
  dsimp only
  cases s.inUse c with
  | false => simp only [Bool.not_false, if_true, State.gmem_setFld, Bool.false_eq_true, if_false, and_self]
  | true =>
    cases ok && decide ((if s.bit memTrctl (8 + c) then 28 else 24) ≤ eye) <;>
      simp only [Bool.not_true, Bool.false_eq_true, if_false, if_true, State.setGcnt_gmem, State.gmem_saveTraining, State.gmem_setMem,
        State.gmem_setBit,
        State.gmem_setFld, and_self]

/-- The training of the channels of l, each with its pattern check and its eye. -/
def State.trainAll (s : State) (pass : BitVec 8) (eye : Vector Byte 8) (l : List ChanN) : State :=
  s.each l fun (s : State) c => s.trained c (pass.toNat.testBit c) eye[c].toNat
theorem State.trainAll_does (s : State) (pass : BitVec 8) (eye : Vector Byte 8) (l : List ChanN) : Does 0x1010200401 s (s.trainAll pass eye l) :=
  Does.foldl (Does.refl ..) fun _ _ done => (State.trained_does ..).andThen done (by decide)
theorem State.trainAll_leaves (pass : BitVec 8) (eye : Vector Byte 8) (l : List ChanN) (s : State) :
    (s.trainAll pass eye l).rd memTrctl = s.rd memTrctl ∧ (s.trainAll pass eye l).gmem.training = s.gmem.training ∧
    ∀ d, (s.trainAll pass eye l).gmem.passed[d] =
      if d ∈ l ∧ s.inUse d = true then s.trains d (pass.toNat.testBit d) eye[d].toNat else s.gmem.passed[d] := by
  induction l generalizing s with
  | nil => exact ⟨rfl, rfl, fun d => (if_neg fun h => List.not_mem_nil h.1).symm⟩
  | cons c l ih =>
    obtain ⟨trctl, training, passed⟩ := ih (s.trained c (pass.toNat.testBit c) eye[c].toNat)
    have kept := s.trained_trctl c (pass.toNat.testBit c) eye[c].toNat
    obtain ⟨first, set⟩ := s.trained_gmem c (pass.toNat.testBit c) eye[c].toNat
    refine ⟨trctl.trans kept, training.trans first, fun d => (passed d).trans ?_⟩
    rw [State.inUse_congr kept, State.trains_congr kept, set]
    by_cases later : d ∈ l ∧ s.inUse d = true
    · rw [if_pos later, if_pos ⟨List.mem_cons_of_mem c later.1, later.2⟩]
    rw [if_neg later]
    by_cases same : d = c
    · subst same
      by_cases used : s.inUse d = true
      · rw [if_pos used, if_pos ⟨List.mem_cons_self, used⟩]
        exact Vector.getElem_set_self _
      · rw [if_neg used, if_neg fun h : _ ∧ _ => used h.2]
    · rw [if_neg fun h : _ ∧ _ => later ⟨(List.mem_cons.1 h.1).resolve_left same, h.2⟩]
      split
      · exact Vector.getElem_set_ne _ _ fun h => same (Fin.ext h).symm
      · rfl

theorem State.setReady_gmem (s : State) : (s.setReady).gmem = s.gmem := (State.setReady_does s).part .gmem (by decide)
theorem State.setReady_passed (h : ∀ c, s.inUse c = true → s.gmem.passed[c] = true) : s.setReady.bit memStatus 31 = true := by
  unfold State.setReady
  rw [if_pos (List.all_eq_true.2 fun c (mem : c ∈ s.chansInUse) => h c (List.mem_filter.1 mem).2)]
  exact State.bit_setBit_self _ _ (by decide)

/-- Training that is done: every channel in use has passed or failed, and READY is set once all have passed. -/
theorem exec_trainingDone_leaves (up : s.clk.cdUp = true) (out : s.inReset .mem = false) (running : s.gmem.training = true) (pass : BitVec 8)
    (eye : Vector Byte 8) : ∃ t, exec (.trainingDone pass eye) s = .next t ∧ t.gmem.training = false ∧
      (∀ c, s.inUse c = true → t.gmem.passed[c] = s.trains c (pass.toNat.testBit c) eye[c].toNat) ∧
      ((∀ c, s.inUse c = true → s.trains c (pass.toNat.testBit c) eye[c].toNat = true) → t.bit memStatus 31 = true) ∧
      Frame [.mem, .gmem, .freeCtr] (pagesOf [memBase, bootBase]) s t := by
  have run : exec (.trainingDone pass eye) s = .next ((s.setMem { s.gmem with training := false }).trainAll pass eye allChans).setReady := by
    rw [exec_trainingDone]
    exact if_pos (by rw [running, up, out]; rfl)
  obtain ⟨trctl, training, passed⟩ := State.trainAll_leaves pass eye allChans (s.setMem { s.gmem with training := false })
  have marks (c : ChanN) (used : s.inUse c = true) : ((s.setMem { s.gmem with training := false }).trainAll pass eye allChans).gmem.passed[c] =
      s.trains c (pass.toNat.testBit c) eye[c].toNat := (passed c).trans (if_pos ⟨mem_allChans c, used⟩)
  refine ⟨_, run, ?_, fun c used => ?_, fun all => State.setReady_passed fun c used => ?_, ?_⟩
  · rw [State.setReady_gmem]
    exact training
  · rw [State.setReady_gmem]
    exact marks c used
  · rw [State.inUse_congr trctl] at used
    exact (marks c used).trans (all c used)
  · have trained := (State.trainAll_does _ pass eye allChans).andThen ((State.setMem_does s { s.gmem with training := false }).mono
      (m := 0x1010200401) rfl) rfl
    exact Frame.doesPages ((State.setReady_does _).andThen trained rfl) (Frame.refl ..) rfl rfl

/-! ## Short retrains (R251, R254, R261) -/

theorem eccUnits_lt (a n : Nat) (pos : 0 < n) : (eccUnits a n).1 < (eccUnits a n).2 := by
  have sizes : eccSize a = 4 ∨ eccSize a = 8 ∨ eccSize a = 16 := by
    unfold eccSize
    split
    · exact .inr (.inr rfl)
    split
    · exact .inl rfl
    · exact .inr (.inl rfl)
  unfold eccUnits
  rcases sizes with h | h | h <;> rw [h] <;> dsimp only <;> omega
theorem State.bad_setBad_self (s : State) (a : Nat) {n : Nat} (pos : 0 < n) : (s.setBad a n).bad a n = true := by
  have nonempty := eccUnits_lt a n pos
  simp only [State.bad, State.setBad, List.any_eq_true, decide_eq_true_eq]
  by_cases known : (eccUnits a n).1 ∈ s.flaws
  · exact ⟨_, List.mem_append_left _ known, Nat.le_refl _, nonempty⟩
  · refine ⟨_, List.mem_append_right _ (List.mem_filter.2 ⟨List.mem_map.2 ⟨0, List.mem_range.2 (by omega), Nat.add_zero _⟩, ?_⟩), Nat.le_refl _,
      nonempty⟩
    simpa using known
/-- A word in error stays so when others are found. -/
theorem State.bad_setBad {x m : Nat} (h : s.bad x m = true) (a n : Nat) : (s.setBad a n).bad x m = true := by
  simp only [State.bad, State.setBad, List.any_append, Bool.or_eq_true]
  exact .inl h
/-- Blocks are marked as in error, one after another. -/
def State.marked (s : State) (l : List Nat) : State := l.foldl (fun (s : State) b => s.setBad (64 * b) 64) s
theorem State.marked_bad (l : List Nat) (s : State) : (∀ x m, s.bad x m = true → (s.marked l).bad x m = true) ∧
    ∀ b ∈ l, (s.marked l).bad (64 * b) 64 = true := by
  induction l generalizing s with
  | nil => exact ⟨fun _ _ h => h, fun _ mem => absurd mem List.not_mem_nil⟩
  | cons b l ih =>
    obtain ⟨keep, all⟩ := ih (s.setBad (64 * b) 64)
    refine ⟨fun x m h => keep x m (State.bad_setBad h _ _), fun x mem => ?_⟩
    rcases List.mem_cons.1 mem with rfl | mem
    · exact keep _ _ (State.bad_setBad_self s _ (by decide))
    · exact all x mem
theorem State.marked_frame {l : List Nat} (h : Frame ps rs s t) (flaws : Part.flaws ∈ ps) : Frame ps rs s (t.marked l) := by
  induction l generalizing t with
  | nil => exact h
  | cons b l ih => exact ih (h.upd_flaws flaws)

/-- The blocks that wait for channel c's retrain are in error after it. -/
theorem State.poisonNow_leaves (s : State) (c : ChanN) :
    (s.poisonNow c).gmem = { s.gmem with poisonDue := (s.poisonNow c).gmem.poisonDue } ∧
    (∀ b ∈ s.gmem.poisonDue, s.chanOf (64 * b) = c → (s.poisonNow c).bad (64 * b) 64 = true) ∧ Frame [.gmem, .flaws] noReg s (s.poisonNow c) := by
  have shape : s.poisonNow c = (s.marked (s.gmem.poisonDue.filter fun b => s.chanOf (64 * b) == c)).setMem
      { s.gmem with poisonDue := s.gmem.poisonDue.filter (not ∘ fun b => s.chanOf (64 * b) == c) } := by
    unfold State.poisonNow
    rw [List.partition_eq_filter_filter]
    rfl
  obtain ⟨-, all⟩ := s.marked_bad (s.gmem.poisonDue.filter fun b => s.chanOf (64 * b) == c)
  rw [shape]
  refine ⟨rfl, fun b mem here => all b (List.mem_filter.2 ⟨mem, beq_iff_eq.2 here⟩), ?_⟩
  exact (State.marked_frame (Frame.refl ..) (by decide)).setMem (by decide) _

theorem State.serveWaiting_idle (h : s.gmem.waiting = []) : s.serveWaiting = s := by
  rw [State.serveWaiting, h]
  rfl
/-- A short retrain of channel c is counted, with its eye. -/
def State.retrained (s : State) (c : ChanN) (eye : Byte) : State := (s.count (memChstat c) 23 16).setFld (memChstat c) 15 8 eye.toNat
theorem State.retrained_gmem (s : State) (c : ChanN) (eye : Byte) : (s.retrained c eye).gmem = s.gmem := by
  rw [State.retrained, State.setFld_gmem, State.count_gmem]
theorem State.retrained_saf (s : State) (c : ChanN) (eye : Byte) : (s.retrained c eye).saf = s.saf := by
  rw [State.retrained, State.setFld_saf, State.count_saf]
theorem State.retrained_count (s : State) (c : ChanN) (eye : Byte) :
    (s.retrained c eye).fld (memChstat c) 23 16 = Nat.min (s.fld (memChstat c) 23 16 + 1) 255 := by
  rw [State.retrained, State.fld_setFld_ne _ (by decide) (by decide) (by decide) (by decide), State.fld_count _ _ (by decide) (by decide)]
  rfl
theorem State.retrained_eye (s : State) (c : ChanN) (eye : Byte) : (s.retrained c eye).fld (memChstat c) 15 8 = eye.toNat := by
  rw [State.retrained, State.fld_setFld_self _ (by decide) (by decide)]
  exact Nat.mod_eq_of_lt eye.isLt
theorem Frame.retrained (h : Frame ps rs s t) (hr : rs (memChstat c)) (eye : Byte) : Frame ps rs s (t.retrained c eye) := (h.count hr).setFld hr

/-- The controller when channel c has passed a short retrain. -/
def Mem.recover (m : Mem) (c : ChanN) : Mem :=
  { m with retraining := m.retraining.set c false, tries := m.tries.set c 0, passed := m.passed.set c true }
/-- The controller when channel c is out of service. -/
def Mem.drop (m : Mem) (c : ChanN) : Mem :=
  { m with retraining := m.retraining.set c false, tries := m.tries.set c 0, passed := m.passed.set c false, dead := m.dead.set c true }
/-- Channel c has recovered in a short retrain. -/
def State.recovered (s : State) (c : ChanN) (eye : Byte) : State :=
  ((s.retrained c eye).setMem (Mem.recover s.gmem c)).setBit memStatus (8 + c) false
/-- Channel c has failed a second short retrain. -/
def State.dropped (s : State) (c : ChanN) (eye : Byte) : State :=
  (((s.retrained c eye).setMem (Mem.drop s.gmem c)).setBit memStatus (8 + c) true).setFld (memChstat c) 31 30 3
/-- The loss of channel c is reported to the island. -/
def State.reportChan (s : State) (c : ChanN) : State := { s with saf := { s.saf with memChans := s.saf.memChans ||| 2 ^ c.val } }

theorem Mem.recover_at (m : Mem) (c : ChanN) : (m.recover c).retraining[c] = false ∧ (m.recover c).passed[c] = true :=
  ⟨Vector.getElem_set_self _, Vector.getElem_set_self _⟩
theorem Mem.drop_at (m : Mem) (c : ChanN) : (m.drop c).retraining[c] = false ∧ (m.drop c).dead[c] = true ∧ (m.drop c).passed[c] = false :=
  ⟨Vector.getElem_set_self _, Vector.getElem_set_self _, Vector.getElem_set_self _⟩

theorem State.reportChan_gmem (s : State) (c : ChanN) : (s.reportChan c).gmem = s.gmem := rfl
theorem State.reportChan_rd (s : State) (c : ChanN) (a : Nat) : (s.reportChan c).rd a = s.rd a := rfl
theorem State.reportChan_saf (s : State) (c : ChanN) : (s.reportChan c).saf = { s.saf with memChans := s.saf.memChans ||| 2 ^ c.val } := rfl
theorem Frame.reportChan (h : Frame ps rs s t) (saf : Part.saf ∈ ps) (c : ChanN) : Frame ps rs s (t.reportChan c) := h.upd_saf saf

theorem State.setReady_rd (ne : a ≠ memStatus) (s : State) : s.setReady.rd a = s.rd a := by
  unfold State.setReady
  split
  · exact State.rd_setBit_ne _ ne ..
  · rfl
theorem State.setReady_bit {i : Nat} (ne : i ≠ 31) (s : State) : s.setReady.bit memStatus i = s.bit memStatus i := by
  unfold State.setReady
  split
  · exact (State.bit_setBit _ _ _ _ (by decide)).trans (if_neg fun h => ne h.2)
  · rfl
theorem Frame.setReady (h : Frame ps rs s t) (hr : rs memStatus) : Frame ps rs s t.setReady := Frame.ite (h.setBit hr) h

theorem State.recovered_gmem (s : State) (c : ChanN) (eye : Byte) : (s.recovered c eye).setReady.gmem = Mem.recover s.gmem c := by
  rw [State.setReady_gmem, State.recovered, State.gmem_setBit, State.gmem_setMem]
theorem State.recovered_rd (ne : a ≠ memStatus) (s : State) (c : ChanN) (eye : Byte) :
    (s.recovered c eye).setReady.rd a = (s.retrained c eye).rd a := by
  rw [State.setReady_rd ne, State.recovered, State.rd_setBit_ne _ ne, State.setMem_rd]
theorem State.recovered_bit (s : State) (c : ChanN) (eye : Byte) : (s.recovered c eye).setReady.bit memStatus (8 + c) = false := by
  rw [State.setReady_bit (by omega)]
  exact State.bit_setBit_self _ _ (by omega)
theorem State.recovered_frame (s : State) (c : ChanN) (eye : Byte) :
    Frame [.gmem, .flaws] (regsOf [memChstat c, memStatus]) s (s.recovered c eye).setReady := by
  have chstat : regsOf [memChstat c, memStatus] (memChstat c) := by simp [regsOf]
  have status : regsOf [memChstat c, memStatus] memStatus := by simp [regsOf]
  exact ((((Frame.refl ..).retrained chstat eye).setMem (by decide) _).setBit status).setReady status
theorem State.recovered_chanOf (s : State) (c : ChanN) (eye : Byte) : (s.recovered c eye).setReady.chanOf = s.chanOf := by
  refine State.chanOf_congr ((s.recovered_frame c eye).2.1 _ fun mem => ?_)
  rcases List.mem_cons.1 mem with h | h
  · exact ne_memChstat c (.inl (by decide)) h
  · revert h
    decide
theorem State.dropped_gmem (s : State) (c : ChanN) (eye : Byte) : (s.dropped c eye).gmem = Mem.drop s.gmem c := by
  rw [State.dropped, State.gmem_setFld, State.gmem_setBit, State.gmem_setMem]
theorem State.dropped_saf (s : State) (c : ChanN) (eye : Byte) : (s.dropped c eye).saf = s.saf := by
  rw [State.dropped, State.setFld_saf, State.setBit_saf, State.setMem_saf, State.retrained_saf]
theorem State.dropped_bit (s : State) (c : ChanN) (eye : Byte) : (s.dropped c eye).bit memStatus (8 + c) = true := by
  have status : memStatus ≠ memChstat c := ne_memChstat c (.inl (by decide))
  rw [State.dropped, State.bit_congr (State.rd_setFld_ne _ status ..)]
  exact State.bit_setBit_self _ _ (by omega)
theorem State.dropped_mode (s : State) (c : ChanN) (eye : Byte) : (s.dropped c eye).fld (memChstat c) 31 30 = 3 :=
  State.fld_setFld_self _ (by decide) (by decide)
theorem State.dropped_frame (s : State) (c : ChanN) (eye : Byte) :
    Frame [.mem, .gmem, .saf] (regsOf [memChstat c, memStatus, bootDeg]) s (s.dropped c eye) := by
  have chstat : regsOf [memChstat c, memStatus, bootDeg] (memChstat c) := by simp [regsOf]
  have status : regsOf [memChstat c, memStatus, bootDeg] memStatus := by simp [regsOf]
  exact ((((Frame.refl ..).retrained chstat eye).setMem (by decide) _).setBit status).setFld chstat

section
variable (up : s.clk.cdUp = true) (out : s.inReset .mem = false) (due : s.gmem.retraining[c] = true) {eye : Byte} {ok : Bool}
include up out due

theorem exec_shortRetrain_due : exec (.shortRetrain c ok eye) s =
    if ok && decide (24 ≤ eye.toNat) then .next (((s.recovered c eye).setReady).poisonNow c).serveWaiting
    else if s.gmem.tries[c] = 0 then .next ((s.retrained c eye).setMem { s.gmem with tries := s.gmem.tries.set c 1 })
    else .next (((s.dropped c eye).reportChan c).setGcnt c (Nat.min (((s.dropped c eye).reportChan c).gcnt c + 1) 3)).serveWaiting := by
  rw [exec_shortRetrain, execShortRetrain, if_neg (by rw [due, up, out]; decide)]
  have same : (s.retrained c eye).gmem = s.gmem := State.retrained_gmem s c eye
  rw [← same, State.recovered, State.dropped, ← same]
  rfl

/-- A good short retrain: the channel has passed, and the blocks due on it are in error. -/
theorem exec_shortRetrain_passes (none_ : s.gmem.waiting = []) (good : ok = true) (wide : 24 ≤ eye.toNat) : ∃ t,
    exec (.shortRetrain c ok eye) s = .next t ∧ t.gmem.retraining[c] = false ∧ t.gmem.passed[c] = true ∧ t.bit memStatus (8 + c) = false ∧
    t.fld (memChstat c) 23 16 = Nat.min (s.fld (memChstat c) 23 16 + 1) 255 ∧ t.fld (memChstat c) 15 8 = eye.toNat ∧
    (∀ b ∈ s.gmem.poisonDue, s.chanOf (64 * b) = c → t.bad (64 * b) 64 = true) ∧ Frame [.gmem, .flaws] (regsOf [memChstat c, memStatus]) s t := by
  have apart : memChstat c ≠ memStatus := (ne_memChstat c (.inl (by decide))).symm
  obtain ⟨gmem, marks, frame⟩ := (s.recovered c eye).setReady.poisonNow_leaves c
  rw [State.recovered_gmem] at gmem marks
  rw [State.recovered_chanOf] at marks
  have chstat (hi lo : Nat) : ((s.recovered c eye).setReady.poisonNow c).fld (memChstat c) hi lo = (s.retrained c eye).fld (memChstat c) hi lo := by
    rw [State.fld, frame.2.1 _ id, State.recovered_rd apart, ← State.fld]
  have run := (exec_shortRetrain_due up out due (eye := eye) (ok := ok)).trans (if_pos (by simp [good, wide]))
  rw [State.serveWaiting_idle (by rw [gmem]; exact none_)] at run
  refine ⟨_, run, ?_, ?_, ?_, ?_, ?_, marks, (s.recovered_frame c eye).trans ⟨frame.1, fun a _ => frame.2.1 a id, frame.2.2⟩⟩
  · rw [gmem]
    exact (Mem.recover_at s.gmem c).1
  · rw [gmem]
    exact (Mem.recover_at s.gmem c).2
  · rw [State.bit_congr (frame.2.1 _ id), State.recovered_bit]
  · rw [chstat, State.retrained_count]
  · rw [chstat, State.retrained_eye]
/-- A first short retrain that fails is tried again. -/
theorem exec_shortRetrain_again (poor : ok = false ∨ eye.toNat < 24) (first : s.gmem.tries[c] = 0) : ∃ t, exec (.shortRetrain c ok eye) s = .next t ∧
    t.gmem = { s.gmem with tries := s.gmem.tries.set c 1 } ∧ t.fld (memChstat c) 23 16 = Nat.min (s.fld (memChstat c) 23 16 + 1) 255 ∧
    Frame [.gmem] (regsOf [memChstat c]) s t := by
  have fails : ¬ (ok && decide (24 ≤ eye.toNat)) = true := by rcases poor with h | h <;> simp [h]
  have run := (exec_shortRetrain_due up out due (eye := eye) (ok := ok)).trans ((if_neg fails).trans (if_pos first))
  exact ⟨_, run, rfl, (State.setMem_fld ..).trans (State.retrained_count ..), ((Frame.refl ..).retrained (List.mem_singleton.2 rfl)
    eye).setMem (by decide) _⟩
/-- A second one that fails takes the channel out of service, which the island learns. -/
theorem exec_shortRetrain_drops (none_ : s.gmem.waiting = []) (poor : ok = false ∨ eye.toNat < 24) (second : s.gmem.tries[c] ≠ 0) : ∃ t,
    exec (.shortRetrain c ok eye) s = .next t ∧ t.gmem.retraining[c] = false ∧ t.gmem.dead[c] = true ∧ t.gmem.passed[c] = false ∧
    t.bit memStatus (8 + c) = true ∧ t.fld (memChstat c) 31 30 = 3 ∧ t.saf = { s.saf with memChans := s.saf.memChans ||| 2 ^ c.val } ∧
    Frame [.mem, .gmem, .saf] (regsOf [memChstat c, memStatus, bootDeg]) s t := by
  have fails : ¬ (ok && decide (24 ≤ eye.toNat)) = true := by rcases poor with h | h <;> simp [h]
  have run := (exec_shortRetrain_due up out due (eye := eye) (ok := ok)).trans ((if_neg fails).trans (if_neg second))
  generalize Nat.min (((s.dropped c eye).reportChan c).gcnt c + 1) 3 = v at run
  have gmem : (((s.dropped c eye).reportChan c).setGcnt c v).gmem = Mem.drop s.gmem c := by
    rw [State.setGcnt_gmem, State.reportChan_gmem, State.dropped_gmem]
  have deg : memChstat c ≠ bootDeg := (ne_memChstat c (.inr (by decide))).symm
  rw [State.serveWaiting_idle (by rw [gmem]; exact none_)] at run
  refine ⟨_, run, ?_, ?_, ?_, ?_, ?_, ?_, ?_⟩
  · rw [gmem]
    exact (Mem.drop_at s.gmem c).1
  · rw [gmem]
    exact (Mem.drop_at s.gmem c).2.1
  · rw [gmem]
    exact (Mem.drop_at s.gmem c).2.2
  · rw [State.bit_congr (State.setGcnt_rd (by decide) ..), State.bit_congr (State.reportChan_rd ..), State.dropped_bit]
  · rw [State.fld, State.setGcnt_rd deg, State.reportChan_rd, ← State.fld, State.dropped_mode]
  · rw [(State.setGcnt_does ..).part .saf (by decide), State.reportChan_saf, State.dropped_saf]
  · exact ((s.dropped_frame c eye).reportChan (by decide) c).setGcnt (by decide) (by simp [regsOf]) v
end

/-! ## The exclusion of a channel (R250, R263) -/

/-- MODE of channel c once EXCL takes v: none where it stays. -/
def State.modeAfter (s : State) (v : Nat) (c : ChanN) : Option Nat :=
  if v.testBit c then some 3 else if s.exclMask.testBit c then some (if s.bit memStatus (8 + c) then 3 else 0) else none
/-- MODE of channel c takes its new value, if there is one. -/
def State.setMode (s : State) (c : ChanN) : Option Nat → State
  | some m => s.setFld (memChstat c) 31 30 m
  | none => s
theorem State.setMode_rd (ne : a ≠ memChstat c) (s : State) (m : Option Nat) : (s.setMode c m).rd a = s.rd a := by
  cases m with
  | none => rfl
  | some m => exact State.rd_setFld_ne _ ne ..
theorem State.setMode_mode (s : State) (c : ChanN) (m : Option Nat) (small : ∀ x, m = some x → x < 4) :
    (s.setMode c m).fld (memChstat c) 31 30 = m.getD (s.fld (memChstat c) 31 30) := by
  cases m with
  | none => rfl
  | some m => exact (State.fld_setFld_self _ (by decide) (by decide)).trans (Nat.mod_eq_of_lt (small m rfl))
theorem Frame.setMode (h : Frame ps rs s t) (hr : rs (memChstat c)) (m : Option Nat) : Frame ps rs s (t.setMode c m) := by
  cases m with
  | none => exact h
  | some m => exact h.setFld hr
theorem State.modeAfter_small (s : State) (v : Nat) (c : ChanN) : ∀ x, s.modeAfter v c = some x → x < 4 := by
  unfold State.modeAfter
  intro x
  split
  · rintro ⟨⟩
    decide
  split
  · rintro ⟨⟩
    split <;> decide
  · rintro ⟨⟩

/-- The channels of l take the MODEs that f gives. -/
def State.setModes (s : State) (f : ChanN → Option Nat) (l : List ChanN) : State := s.each l fun (s : State) c => s.setMode c (f c)
theorem State.setModes_frame (f : ChanN → Option Nat) (l : List ChanN) (s : State) :
    Frame [] (fun a => ∃ c : ChanN, a = memChstat c) s (s.setModes f l) :=
  Frame.each (Frame.refl ..) fun _ c h => h.setMode ⟨c, rfl⟩ _
theorem State.setModes_mode (f : ChanN → Option Nat) (small : ∀ c x, f c = some x → x < 4) (l : List ChanN) (s : State) (c : ChanN) :
    (s.setModes f l).fld (memChstat c) 31 30 = if c ∈ l then (f c).getD (s.fld (memChstat c) 31 30) else s.fld (memChstat c) 31 30 := by
  induction l generalizing s with
  | nil => rfl
  | cons d l ih =>
    refine (ih (s.setMode d (f d))).trans ?_
    by_cases same : c = d
    · subst same
      rw [State.setMode_mode _ _ _ (small c), if_pos List.mem_cons_self]
      split
      · cases f c <;> rfl
      · rfl
    · have kept : (s.setMode d (f d)).fld (memChstat c) 31 30 = s.fld (memChstat c) 31 30 := by
        rw [State.fld, State.setMode_rd fun h => same (memChstat_inj h), ← State.fld]
      simp only [kept, List.mem_cons, same, false_or]

theorem State.exclude_eq (s : State) (v : Nat) : s.exclude v = (s.setFld memTrctl 23 16 v).setModes (s.modeAfter v) allChans := by
  have step (l : List ChanN) (u : State) (status : u.rd memStatus = s.rd memStatus) :
      (u.each l fun (u : State) c => if v.testBit c then u.setFld (memChstat c) 31 30 3
        else if s.exclMask.testBit c then u.setFld (memChstat c) 31 30 (if u.bit memStatus (8 + c) then 3 else 0) else u) =
      u.setModes (s.modeAfter v) l := by
    induction l generalizing u with
    | nil => rfl
    | cons c l ih =>
      have one : (if v.testBit c then u.setFld (memChstat c) 31 30 3
          else if s.exclMask.testBit c then u.setFld (memChstat c) 31 30 (if u.bit memStatus (8 + c) then 3 else 0) else u) =
          u.setMode c (s.modeAfter v c) := by
        rw [State.bit_congr status, State.modeAfter]
        split
        · rfl
        split <;> rfl
      rw [State.each, List.foldl_cons, one]
      exact ih _ ((State.setMode_rd (ne_memChstat c (.inl (by decide))) ..).trans status)
  exact step allChans _ (State.rd_setFld_ne _ (by decide) ..)

section
variable (up : s.clk.cdUp = true) (out : s.inReset .mem = false) {v : BitVec 8}
include up out

theorem exec_exclWrite_runs : exec (.exclWrite v) s = .next (s.setExcl v.toNat) := by
  rw [exec_exclWrite]
  exact if_pos (by rw [up, out]; rfl)
theorem exec_exclWrite_takes (open_ : s.bit memCtrl 31 = false) (one : popcount v.toNat 8 ≤ 1) : ∃ t, exec (.exclWrite v) s = .next t ∧
    t.fld memTrctl 23 16 = v.toNat ∧
    (∀ c : ChanN, let mode (x : State) := x.fld (memChstat c) 31 30
      (v.getLsbD c = true → mode t = 3) ∧
      (v.getLsbD c = false → mode t = if s.inUse c then mode s else if s.bit memStatus (8 + c) then 3 else 0)) ∧
    Frame [] (fun a => a = memTrctl ∨ ∃ c : ChanN, a = memChstat c) s t := by
  have frame := State.setModes_frame (s.modeAfter v.toNat) allChans (s.setFld memTrctl 23 16 v.toNat)
  refine ⟨_, (exec_exclWrite_runs up out).trans (congrArg _ ((if_neg (by rw [open_]; decide)).trans ((if_neg (Nat.not_lt.2 one)).trans
    (s.exclude_eq _)))), ?_, fun c => ?_, ?_⟩
  · rw [State.fld, frame.2.1 _ fun ⟨c, h⟩ => ne_memChstat c (.inl (by decide)) h, ← State.fld, State.fld_setFld_self _ (by decide) (by decide)]
    exact Nat.mod_eq_of_lt v.isLt
  · have mode := State.setModes_mode (s.modeAfter v.toNat) (s.modeAfter_small v.toNat) allChans (s.setFld memTrctl 23 16 v.toNat) c
    have kept : (s.setFld memTrctl 23 16 v.toNat).fld (memChstat c) 31 30 = s.fld (memChstat c) 31 30 := by
      rw [State.fld, State.rd_setFld_ne _ (ne_memChstat c (.inl (by decide))).symm, ← State.fld]
    rw [if_pos (mem_allChans c), kept] at mode
    refine ⟨fun excluded => ?_, fun within => ?_⟩ <;> dsimp only <;> rw [mode, State.modeAfter]
    · rw [if_pos (show v.toNat.testBit c = true from excluded)]
      rfl
    · rw [if_neg (by rw [show v.toNat.testBit c = false from within]; decide), State.inUse]
      cases s.exclMask.testBit c <;> rfl
  · exact Frame.trans (Frame.setFld (Frame.refl ..) (.inl rfl)) ⟨frame.1, fun a other => frame.2.1 a fun h => other (.inr h), frame.2.2⟩
end

/-! ## Self-refresh (R259, R261) -/

theorem State.enterSelfRefresh_leaves (s : State) (ok : Bool) : (s.enterSelfRefresh ok).bit memStatus 31 = false ∧
    (s.enterSelfRefresh ok).bit memStatus 30 = ok ∧
    (s.enterSelfRefresh ok).gmem = { s.finishWrites.gmem with selfRefresh := true, retained := ok, waiting := [] } ∧
    Does 0x80012000c01 s (s.enterSelfRefresh ok) := by
  refine ⟨?_, ?_, ?_, ?_⟩ <;> unfold State.enterSelfRefresh <;> dsimp only
  · rw [State.setMem_bit, State.bit_setBit _ _ _ _ (by decide), if_neg (by decide), State.bit_setBit_self _ _ (by decide)]
  · rw [State.setMem_bit, State.bit_setBit_self _ _ (by decide)]
  · rw [State.gmem_setMem, State.gmem_setBit, State.gmem_setBit]
  · exact (State.setMem_does ..).andThen ((s.finishWrites_write_does.setBit rfl).setBit rfl) rfl
theorem exec_selfRefreshEntry_runs (up : s.clk.cdUp = true) (out : s.inReset .mem = false) (awake : s.gmem.selfRefresh = false) (ok : Bool) :
    exec (.selfRefreshEntry ok) s = .next (s.enterSelfRefresh ok) := by
  rw [exec_selfRefreshEntry]
  exact if_pos (by rw [up, out, awake]; rfl)
theorem exec_selfRefreshExit_runs (up : s.clk.cdUp = true) (out : s.inReset .mem = false) (asleep : s.gmem.selfRefresh = true)
    (kept : s.gmem.retained = true) : exec .selfRefreshExit s = .next (s.setMem { s.gmem with
      selfRefresh := false
      retraining := Vector.ofFn fun c : ChanN => s.inUse c
      tries := Vector.replicate 8 0
      passed := Vector.replicate 8 false }) := by
  rw [exec_selfRefreshExit]
  exact if_pos (by rw [up, out, asleep, kept]; rfl)

/-- Settles O24: each operation by what it leaves, the channels' training and exclusion by induction on the channels. -/
theorem gddr6Training : Obligations.Gddr6Training := by
  intro s up out
  have start : exec .trainingStart s = .next s.startTraining := by
    rw [exec_trainingStart]
    exact if_pos (by rw [up, out]; rfl)
  refine ⟨fun ready => ?_, fun idle awake => ?_, fun pass eye running => exec_trainingDone_leaves up out running pass eye,
    fun c ok eye due none_ => ⟨?_, ?_, ?_⟩,
    fun v => ⟨fun locked => ?_, fun open_ more => ?_, exec_exclWrite_takes up out⟩, fun awake ok => ?_, fun asleep kept => ?_⟩
  · exact ⟨_, start.trans (congrArg _ (if_pos ready)), State.bit_setBit_self _ _ (by decide), (Frame.refl ..).setBit (List.mem_singleton.2 rfl)⟩
  · refine ⟨_, start.trans (congrArg _ ((if_neg (by rw [idle]; decide)).trans (if_neg (by rw [awake]; decide)))), rfl,
      (Frame.refl ..).setMem (by decide) _⟩
  · exact exec_shortRetrain_passes up out due none_
  · exact exec_shortRetrain_again up out due
  · exact exec_shortRetrain_drops up out due none_
  · exact (exec_exclWrite_runs up out).trans (congrArg _ (if_pos locked))
  · exact ⟨_, (exec_exclWrite_runs up out).trans (congrArg _ ((if_neg (by rw [open_]; decide)).trans (if_pos more))),
      State.bit_setBit_self _ _ (by decide),
      (Frame.refl ..).setBit (List.mem_singleton.2 rfl)⟩
  · obtain ⟨ready, retained, gmem, done⟩ := s.enterSelfRefresh_leaves ok
    refine ⟨_, exec_selfRefreshEntry_runs up out awake ok, ready, retained, ?_, ?_, ?_, fun reads => ⟨?_, ?_⟩, ?_⟩
    · rw [gmem]
    · rw [gmem]
    · rw [gmem]
    · rw [gmem, State.finishWrites_none reads]
    · unfold State.enterSelfRefresh
      rw [State.finishWrites_none reads]
      exact (((Frame.refl ..).setBit (List.mem_singleton.2 rfl)).setBit (List.mem_singleton.2 rfl)).setMem (by decide) _
    · exact Frame.doesPages done (Frame.refl ..) (by decide) (by decide)
  · refine ⟨_, exec_selfRefreshExit_runs up out asleep kept, rfl, fun c => ⟨?_, ?_⟩, (Frame.refl ..).setMem (by decide) _⟩
    · exact Vector.getElem_ofFn _
    · exact Vector.getElem_replicate _

end Sys2Proof.Machine
end

section
/-!
PROOF of O23: requests and their service, refresh and scrub of the GDDR6.
-/
namespace Sys2Proof.Machine

variable {s t u : State} {c : ChanN} {a n : Nat} {told : List Ecc} {ps : List Part} {rs : Nat → Prop}

/-! ## The checks of the words of an access (R247) -/

/-- The first word of [a, a + n) that the check finds uncorrectable. -/
def State.failing (s : State) (a n : Nat) (told : List Ecc) : Option (Nat × Ecc) := (s.eccsAt a n told).find? fun e => e.2 == .uncorrectable
theorem State.failing_congr (flaws : t.flaws = s.flaws) (a n : Nat) (told : List Ecc) : t.failing a n told = s.failing a n told := by
  have bad (x m : Nat) : t.bad x m = s.bad x m := by rw [State.bad, State.bad, flaws]
  simp only [State.failing, State.eccsAt, State.eccOf, bad]

theorem Frame.memCorrected (h : Frame ps rs s t) (count : rs memCecnt) (status : rs memStatus) (k : Nat) : Frame ps rs s (t.memCorrected k) :=
  Frame.ite h ((h.count count).setBit status)
/-- The words of l are in error. -/
def State.flawed (s : State) (l : List (Nat × Ecc)) : State := l.foldl (fun (s : State) x => s.setBad x.1 8) s
theorem Frame.flawed (h : Frame ps rs s t) (flaws : Part.flaws ∈ ps) (l : List (Nat × Ecc)) : Frame ps rs s (t.flawed l) := by
  induction l generalizing t with
  | nil => exact h
  | cons x l ih => exact ih (h.upd_flaws flaws)

/-- How many words of [a, a + n) the check finds with a single-bit error. -/
def State.singles (s : State) (a n : Nat) (told : List Ecc) : Nat := ((s.eccsAt a n told).filter fun e => e.2 == .corrected).length
theorem State.checkWords_clean (none_ : s.failing a n told = none) (scrub : Bool) :
    s.checkWords a n told scrub = (s.memCorrected (s.singles a n told), true) := by
  have empty : (s.eccsAt a n told).filter (fun e => e.2 == .uncorrectable) = [] := List.filter_eq_nil_iff.2 (List.find?_eq_none.1 none_)
  unfold State.checkWords
  dsimp only
  rw [empty]
  rfl
theorem State.checkWords_finds {e : Nat × Ecc} (found : s.failing a n told = some e) (scrub : Bool) :
    ∃ l, s.checkWords a n told scrub = (((s.memCorrected (s.singles a n told)).flawed l).memUe e.1 scrub, false) := by
  have first : ((s.eccsAt a n told).filter (fun e => e.2 == .uncorrectable)).head? = some e := by rw [List.head?_filter]; exact found
  cases list : (s.eccsAt a n told).filter (fun e => e.2 == .uncorrectable) with
  | nil =>
    rw [list] at first
    cases first
  | cons x l =>
    rw [list] at first
    cases first
    refine ⟨l, ?_⟩
    unfold State.checkWords
    dsimp only
    rw [list]
    rfl

/-- An uncorrectable word at x has been recorded, as the scrub's where the flag says so (R247, R256, R282). -/
structure State.Records (x : Nat) (scrub : Bool) (s t : State) : Prop where
  status : t.bit memStatus 1 = true
  addr : t.rd memUeaddr = 2 ^ 31 + b2n scrub * 2 ^ 30 + x / 64 % 2 ^ 28
  saf : t.saf = { s.saf with memRegions := s.saf.memRegions ||| 2 ^ regionOf x }
  frame : Frame [.saf, .flaws] (regsOf [memCecnt, memUecnt, memStatus, memUeaddr]) s t
theorem State.memUe_records (s : State) (x : Nat) (scrub : Bool) : State.Records x scrub s (s.memUe x scrub) := by
  have small : (2 ^ 31 + b2n scrub * 2 ^ 30 + x / 64 % 2 ^ 28) % 2 ^ 32 = 2 ^ 31 + b2n scrub * 2 ^ 30 + x / 64 % 2 ^ 28 := by
    have flag := b2n_lt scrub
    omega
  have frame : Frame [.saf, .flaws] (regsOf [memCecnt, memUecnt, memStatus, memUeaddr]) s
      ((((s.setBad x 8).count memUecnt 15 0).setBit memStatus 1 true).wr memUeaddr (2 ^ 31 + b2n scrub * 2 ^ 30 + x / 64 % 2 ^ 28)) :=
    ((((Frame.refl ..).upd_flaws (by decide)).count (by simp [regsOf])).setBit (by simp [regsOf])).wr (by simp [regsOf])
  unfold State.memUe
  refine ⟨?_, ?_, rfl, frame.upd_saf (by decide)⟩ <;> dsimp only
  · exact (Does.upd_saf.bit (by decide) 1).trans ((State.bit_wr_ne _ (by decide) ..).trans (State.bit_setBit_self _ true (by decide)))
  · exact (Does.upd_saf.reg _ (by decide)).trans ((State.rd_wr_self _ memUeaddr _).trans small)
theorem State.Records.after {x : Nat} {scrub : Bool} (before : Frame [.flaws] (regsOf [memCecnt, memStatus]) s t) (h : State.Records x scrub t u) :
    State.Records x scrub s u where
  status := h.status
  addr := h.addr
  saf := by rw [h.saf, before.1 .saf (by decide)]
  frame := by
    refine Frame.trans ⟨fun p out => before.1 p fun mem => out (List.mem_cons_of_mem _ mem), fun a out => before.2.1 a fun mem => out ?_,
      before.2.2⟩ h.frame
    rcases List.mem_cons.1 mem with rfl | mem
    · exact List.mem_cons_self
    · rcases List.mem_singleton.1 mem with rfl
      simp [regsOf]
theorem State.checkWords_records {e : Nat × Ecc} (found : s.failing a n told = some e) (scrub : Bool) :
    State.Records e.1 scrub s (s.checkWords a n told scrub).1 ∧ (s.checkWords a n told scrub).2 = false := by
  obtain ⟨l, run⟩ := State.checkWords_finds found scrub
  have before : Frame [.flaws] (regsOf [memCecnt, memStatus]) s
      ((s.memCorrected (s.singles a n told)).flawed l) :=
    Frame.flawed (Frame.memCorrected (Frame.refl ..) (by simp [regsOf]) (by simp [regsOf]) _) (by decide) l
  rw [run]
  exact ⟨(State.memUe_records ..).after before, rfl⟩

/-- A word in error that the scrub finds sets SCRUBUE, and withdraws the chart that is active there (R256). -/
theorem State.scrubUe_leaves (s : State) (a : Nat) : (s.scrubUe a).bit memStatus 2 = true ∧
    (∀ i, i ≠ 2 → (s.scrubUe a).bit memStatus i = s.bit memStatus i) ∧
    (∀ b, bufAt a = some b → s.actBuf = some b → (s.scrubUe a).chart.withdraw = true) ∧
    Frame [.chart] (regsOf [memStatus]) s (s.scrubUe a) := by
  have frame : Frame [.chart] (regsOf [memStatus]) s (s.setBit memStatus 2 true) := (Frame.refl ..).setBit (List.mem_singleton.2 rfl)
  have bits (i : Nat) : (s.scrubUe a).bit memStatus i = (s.setBit memStatus 2 true).bit memStatus i := by
    unfold State.scrubUe
    dsimp only
    split
    · split <;> rfl
    · rfl
  refine ⟨(bits 2).trans (State.bit_setBit_self _ _ (by decide)), fun i ne => (bits i).trans ((State.bit_setBit _ _ _ _ (by decide)).trans
    (if_neg fun h => ne h.2)), fun b at_ act => ?_, ?_⟩
  · have active : (s.setBit memStatus 2 true).fld chrtStatus 29 28 = bufIdx b + 1 := by
      rw [State.fld, State.rd_setBit_ne _ (by decide), ← State.fld]
      revert act
      unfold State.actBuf
      dsimp only
      split
      · rintro ⟨⟩
        assumption
      split
      · rintro ⟨⟩
        assumption
      · rintro ⟨⟩
    unfold State.scrubUe
    dsimp only
    rw [at_]
    dsimp only
    rw [if_pos active]
  · unfold State.scrubUe
    dsimp only
    split
    · exact Frame.ite (frame.upd_chart (by decide)) frame
    · exact frame

/-! ## Reads and writes that pass the tests of size, hole and channel (R246, R247, R253, R254) -/

theorem State.memRetry_within {edc limit : Nat} (h : edc ≤ limit) (s : State) (c : ChanN) :
    s.memRetry c edc limit = (s.count (memChstat c) 7 0 (Nat.min edc limit), false) := if_neg (Nat.not_lt.2 h)
theorem State.memRetry_beyond {edc limit : Nat} (h : limit < edc) (s : State) (c : ChanN) :
    s.memRetry c edc limit = ((s.count (memChstat c) 7 0 (Nat.min edc limit)).linkFail c, true) := if_pos h
/-- The mismatches of an access are counted, up to the field's greatest value. -/
theorem State.fld_count_by (s : State) (a k : Nat) : (s.count a 7 0 k).fld a 7 0 = Nat.min (s.fld a 7 0 + k) 255 :=
  (State.fld_setFld_self _ (by decide) (by decide)).trans (Nat.mod_eq_of_lt (Nat.lt_of_le_of_lt (Nat.min_le_right ..) (by decide)))

/-- A read without an uncorrectable word. -/
theorem State.gddrFetch_clean (none_ : s.failing a n told = none) (x : MemUser) :
    (s.gddrFetch x a n told).1 = s.memCorrected (s.singles a n told) := by
  unfold State.gddrFetch
  rw [State.checkWords_clean none_]
/-- A read that meets an uncorrectable word: a read of the scrub looks further (R256). -/
theorem State.gddrFetch_finds {e : Nat × Ecc} (found : s.failing a n told = some e) (x : MemUser) : (s.gddrFetch x a n told).1 =
    if x = .scrub then (s.checkWords a n told (x == .scrub)).1.scrubUe a else (s.checkWords a n told (x == .scrub)).1 := by
  obtain ⟨-, lost⟩ := State.checkWords_records found (x == .scrub)
  unfold State.gddrFetch
  generalize s.checkWords a n told (x == .scrub) = w at lost
  obtain ⟨t, ok⟩ := w
  subst lost
  rfl
theorem State.gddrStore_leaves {bs : List Byte} (len : bs.length = n) (whole : 8 ≤ n ∨ s.failing a n told = none) :
    (s.gddrStore a bs told).1.bytes a n = bs ∧ (∀ y, y < a ∨ a + n ≤ y → (s.gddrStore a bs told).1.byte y = s.byte y) ∧
    Frame [.mem, .flaws] (regsOf [memCecnt, memStatus]) s (s.gddrStore a bs told).1 := by
  subst len
  have corrected := Frame.memCorrected (Frame.refl [.mem, .flaws] (regsOf [memCecnt, memStatus]) s) (by simp [regsOf]) (by simp [regsOf])
    (s.singles a bs.length told)
  unfold State.gddrStore
  split
  · next short =>
    rw [State.checkWords_clean (whole.resolve_left (Nat.not_le.2 short))]
    exact ⟨State.bytes_setBytes_self .., fun y out => (State.byte_setBytes_ne _ out).trans ((State.memCorrected_does ..).part .mem (by decide) y),
      State.setBytes_frame corrected (by decide) _ _⟩
  · exact ⟨State.bytes_store_self .., fun y out => State.byte_store_ne _ out, Frame.store (Frame.refl ..) (by decide) (by decide) _ _⟩
theorem State.gddrStore_finds {bs : List Byte} {e : Nat × Ecc} (len : bs.length = n) (short : n < 8) (found : s.failing a n told = some e) :
    (s.gddrStore a bs told).1 = (s.checkWords a n told false).1 := by
  subst len
  obtain ⟨-, lost⟩ := State.checkWords_records found false
  unfold State.gddrStore
  rw [if_pos short]
  generalize s.checkWords a bs.length told false = w at lost
  obtain ⟨t, ok⟩ := w
  subst lost
  rfl

/-! ## One access is served (R246, R252, R262, R409) -/

/-- What an access that gets to its channel does there. -/
def State.atChannel (s : State) (x : MemUser) (a n : Nat) (data : Option (List Byte)) (chk : Check) : State × Option (List Byte) :=
  if s.gmem.dead[s.chanOf a] then (s, none)
  else
    let (s, gone) := s.memRetry (s.chanOf a) chk.edc (s.retryLimit (x == .lookup))
    match data with
    | none => if gone then (s, none) else s.gddrFetch x a n chk.ecc
    | some bs =>
      if gone then (s.poisonLater a, some [])
      else
        let (s, ok) := s.gddrStore a (bs.take n ++ List.replicate (n - bs.length) 0) chk.ecc
        (s, if ok then some [] else none)

section
variable {x : MemUser} {data : Option (List Byte)} {chk : Check}

theorem State.gddrServe_outside (h : memSizeOk (unitPath x) a n = false ∨ gddrEnd ≤ a) : s.gddrServe x a n data chk = (s, none) :=
  if_pos (by rcases h with h | h <;> simp [h])

section
variable (ready : s.memReady = true) (size : memSizeOk (unitPath x) a n = true) (within : a < gddrEnd)
include ready size within

theorem State.gddrServe_inside : ¬ (!s.memReady || !memSizeOk (unitPath x) a n || decide (gddrEnd ≤ a)) = true := by
  simp [ready, size, Nat.not_le.2 within]
theorem State.gddrServe_hole (excl : s.exclMask ≠ 0) (hole : inHole a = true) :
    s.gddrServe x a n data chk = (s.setBit memStatus 3 true, none) :=
  (if_neg (State.gddrServe_inside ready size within)).trans (if_pos (by simp [excl, hole]))

section
variable (usable : s.exclMask = 0 ∨ inHole a = false)
include usable

omit ready size within in
theorem State.gddrServe_usable : ¬ (s.exclMask != 0 && inHole a) = true := by
  rcases usable with h | h <;> simp [h]
theorem State.gddrServe_refused (write : data.isSome = true) (refused : s.bufRefuses x a = true) :
    s.gddrServe x a n data chk = (s.setBit chrtStatus 3 true, none) :=
  (if_neg (State.gddrServe_inside ready size within)).trans ((if_neg (State.gddrServe_usable usable)).trans
    (if_pos (by rw [write, refused]; rfl)))
theorem State.gddrServe_retained (write : data.isSome = true) (taken : s.bufRefuses x a = false) (kept : retainBase ≤ a) :
    s.gddrServe x a n data chk = (s, none) :=
  (if_neg (State.gddrServe_inside ready size within)).trans ((if_neg (State.gddrServe_usable usable)).trans
    ((if_neg (by rw [taken, Bool.and_false]; decide)).trans (if_pos (by rw [write, decide_eq_true kept]; rfl))))

theorem State.gddrServe_atChannel (takes : data = none ∨ s.bufRefuses x a = false ∧ a < retainBase) :
    s.gddrServe x a n data chk = s.atChannel x a n data chk := by
  refine (if_neg (State.gddrServe_inside ready size within)).trans ((if_neg (State.gddrServe_usable usable)).trans
    ((if_neg ?_).trans (if_neg ?_)))
  · rcases takes with rfl | ⟨h, -⟩
    · exact Bool.false_ne_true
    · rw [h, Bool.and_false]
      decide
  · rcases takes with rfl | ⟨-, h⟩
    · exact Bool.false_ne_true
    · rw [decide_eq_false (Nat.not_le.2 h), Bool.and_false]
      decide
end
end

theorem State.atChannel_dead (dead : s.gmem.dead[s.chanOf a] = true) : s.atChannel x a n data chk = (s, none) := if_pos dead

section
variable (alive : s.gmem.dead[s.chanOf a] = false)
include alive

/-- The retries are exhausted. -/
theorem State.atChannel_gone (gone : s.retryLimit (x == .lookup) < chk.edc) : (s.atChannel x a n data chk).1 =
    let t := (s.count (memChstat (s.chanOf a)) 7 0 (Nat.min chk.edc (s.retryLimit (x == .lookup)))).linkFail (s.chanOf a)
    if data.isSome then t.poisonLater a else t := by
  have served : ¬ s.gmem.dead[s.chanOf a] = true := by rw [alive]; decide
  unfold State.atChannel
  rw [if_neg served, State.memRetry_beyond gone]
  cases data <;> rfl
theorem State.atChannel_read (within : chk.edc ≤ s.retryLimit (x == .lookup)) : (s.atChannel x a n none chk).1 =
    ((s.count (memChstat (s.chanOf a)) 7 0 (Nat.min chk.edc (s.retryLimit (x == .lookup)))).gddrFetch x a n chk.ecc).1 := by
  have served : ¬ s.gmem.dead[s.chanOf a] = true := by rw [alive]; decide
  unfold State.atChannel
  rw [if_neg served, State.memRetry_within within]
  rfl
theorem State.atChannel_write (within : chk.edc ≤ s.retryLimit (x == .lookup)) (bs : List Byte) : (s.atChannel x a n (some bs) chk).1 =
    ((s.count (memChstat (s.chanOf a)) 7 0 (Nat.min chk.edc (s.retryLimit (x == .lookup)))).gddrStore a
      (bs.take n ++ List.replicate (n - bs.length) 0) chk.ecc).1 := by
  have served : ¬ s.gmem.dead[s.chanOf a] = true := by rw [alive]; decide
  unfold State.atChannel
  rw [if_neg served, State.memRetry_within within]
  rfl
end
end

/-! ## What a service may change -/

theorem State.checkWords_frame (s : State) (a n : Nat) (told : List Ecc) (scrub : Bool) :
    Frame [.saf, .flaws] (regsOf [memCecnt, memUecnt, memStatus, memUeaddr]) s (s.checkWords a n told scrub).1 := by
  cases found : s.failing a n told with
  | none =>
    rw [State.checkWords_clean found]
    exact Frame.memCorrected (Frame.refl ..) (by simp [regsOf]) (by simp [regsOf]) _
  | some e => exact (State.checkWords_records found scrub).1.frame
theorem Frame.widen {qs : List Part} {r : Nat → Prop} (h : Frame qs r s t) (parts : ∀ p ∈ qs, p ∈ ps) (regs : ∀ a, r a → rs a) : Frame ps rs s t :=
  ⟨fun p out => h.1 p fun mem => out (parts p mem), fun a out => h.2.1 a fun mem => out (regs a mem), h.2.2⟩

/-- The registers that a service on channel c may write. -/
def servedRegs (c : ChanN) : List Nat := [memChstat c, memCecnt, memUecnt, memStatus, memUeaddr]
theorem mem_servedRegs {r : Nat} (h : r ∈ [memCecnt, memUecnt, memStatus, memUeaddr]) (c : ChanN) : r ∈ servedRegs c := List.mem_cons_of_mem _ h

section
variable {x : MemUser} {data : Option (List Byte)} {chk : Check}

theorem State.gddrFetch_frame (s : State) (x : MemUser) (a n : Nat) (told : List Ecc) (c : ChanN) :
    Frame [.saf, .flaws, .chart] (regsOf (servedRegs c)) s (s.gddrFetch x a n told).1 := by
  have words := (s.checkWords_frame a n told (x == .scrub)).widen (ps := [.saf, .flaws, .chart]) (rs := regsOf (servedRegs c)) (by decide)
    fun r mem => mem_servedRegs mem c
  cases found : s.failing a n told with
  | none =>
    rw [State.gddrFetch_clean found]
    exact Frame.memCorrected (Frame.refl ..) (by simp [regsOf, servedRegs]) (by simp [regsOf, servedRegs]) _
  | some e =>
    rw [State.gddrFetch_finds found]
    obtain ⟨-, -, -, looks⟩ := (s.checkWords a n told (x == .scrub)).1.scrubUe_leaves a
    exact Frame.ite (words.trans (looks.widen (by decide) fun r mem => mem_servedRegs (by rcases List.mem_singleton.1 mem with rfl; decide) c)) words
theorem State.gddrStore_frame (s : State) (a : Nat) (bs : List Byte) (told : List Ecc) (c : ChanN) :
    Frame [.saf, .flaws, .mem] (regsOf (servedRegs c)) s (s.gddrStore a bs told).1 := by
  have words := (s.checkWords_frame a bs.length told false).widen (ps := [.saf, .flaws, .mem]) (rs := regsOf (servedRegs c)) (by decide)
    fun r mem => mem_servedRegs mem c
  unfold State.gddrStore
  split
  · generalize s.checkWords a bs.length told false = w at words
    obtain ⟨t, ok⟩ := w
    cases ok with
    | false => exact words
    | true => exact State.setBytes_frame words (by decide) _ _
  · exact Frame.store (Frame.refl ..) (by decide) (by decide) _ _

/-- The parts that a write and a read may change beside registers. -/
def serviceParts : Bool → List Part
  | true => [.gmem, .saf, .flaws, .mem]
  | false => [.chart, .gmem, .saf, .flaws]
theorem State.atChannel_frame (s : State) (x : MemUser) (a n : Nat) (data : Option (List Byte)) (chk : Check) :
    Frame (serviceParts data.isSome) (regsOf (servedRegs (s.chanOf a))) s
      (s.atChannel x a n data chk).1 := by
  have chstat : regsOf (servedRegs (s.chanOf a)) (memChstat (s.chanOf a)) := List.mem_cons_self
  have status : regsOf (servedRegs (s.chanOf a)) memStatus := by simp [regsOf, servedRegs]
  have counted (ps : List Part) : Frame ps (regsOf (servedRegs (s.chanOf a))) s
      (s.count (memChstat (s.chanOf a)) 7 0 (Nat.min chk.edc (s.retryLimit (x == .lookup)))) := (Frame.refl ..).count chstat
  cases alive : s.gmem.dead[s.chanOf a] with
  | true =>
    rw [State.atChannel_dead alive]
    exact Frame.refl ..
  | false =>
    rcases Nat.lt_or_ge (s.retryLimit (x == .lookup)) chk.edc with gone | within
    · rw [State.atChannel_gone alive gone]
      cases data with
      | none => exact ((counted _).setBit status).setMem (by decide) _
      | some bs =>
        rw [Option.isSome_some]
        exact (((counted _).setBit status).setMem (by decide) _).setMem (by decide) _
    · cases data with
      | none =>
        rw [State.atChannel_read alive within]
        exact (counted _).trans ((State.gddrFetch_frame ..).widen (by decide) fun _ h => h)
      | some bs =>
        rw [State.atChannel_write alive within, Option.isSome_some]
        exact (counted _).trans ((State.gddrStore_frame ..).widen (by decide) fun _ h => h)

/-- A service leaves of the controller all but the channels that it finds retraining and the blocks due on them. -/
structure Mem.Served (m m' : Mem) : Prop where
  rest : m' = { m with retraining := m'.retraining, tries := m'.tries, poisonDue := m'.poisonDue }
  retraining : ∀ c : ChanN, m.retraining[c] = true → m'.retraining[c] = true
theorem Mem.Served.refl (m : Mem) : Mem.Served m m := ⟨rfl, fun _ h => h⟩
theorem Mem.Served.of_eq {m m' : Mem} (h : m' = m) : Mem.Served m m' := h ▸ Mem.Served.refl m
theorem getElem_set_true (v : Vector Bool 8) (c d : ChanN) (h : v[d] = true) : (v.set c true)[d] = true := by
  by_cases same : c.val = d.val
  · obtain rfl : c = d := Fin.ext same
    exact Vector.getElem_set_self _
  · exact (Vector.getElem_set_ne _ _ same).trans h
/-- A channel whose retries are exhausted retrains. -/
def Mem.fail (m : Mem) (c : ChanN) : Mem := { m with retraining := m.retraining.set c true, tries := m.tries.set c 0 }
theorem State.linkFail_gmem (s : State) (c : ChanN) : (s.linkFail c).gmem = Mem.fail s.gmem c := by
  unfold State.linkFail
  dsimp only
  rw [State.gmem_setMem, State.gmem_setBit]
  rfl
theorem Mem.fail_served (m : Mem) (c : ChanN) : Mem.Served m (m.fail c) := ⟨rfl, fun d h => getElem_set_true m.retraining c d h⟩
theorem State.poisonLater_gmem (s : State) (a : Nat) : (s.poisonLater a).gmem = { s.gmem with poisonDue := s.gmem.poisonDue ++ [a / 64] } := rfl

theorem State.atChannel_gmem (s : State) (x : MemUser) (a n : Nat) (data : Option (List Byte)) (chk : Check) :
    Mem.Served s.gmem (s.atChannel x a n data chk).1.gmem := by
  cases alive : s.gmem.dead[s.chanOf a] with
  | true => exact .of_eq (by rw [State.atChannel_dead alive])
  | false =>
    rcases Nat.lt_or_ge (s.retryLimit (x == .lookup)) chk.edc with gone | within
    · rw [State.atChannel_gone alive gone]
      have fails := Mem.fail_served s.gmem (s.chanOf a)
      cases data with
      | none =>
        simp only [Option.isSome_none, Bool.false_eq_true, if_false, State.linkFail_gmem, State.count_gmem]
        exact fails
      | some bs =>
        simp only [Option.isSome_some, if_true, State.poisonLater_gmem, State.linkFail_gmem, State.count_gmem]
        exact ⟨rfl, fails.retraining⟩
    · cases data with
      | none =>
        rw [State.atChannel_read alive within, (State.gddrFetch_does ..).part .gmem (by decide), State.count_gmem]
        exact .refl _
      | some bs =>
        rw [State.atChannel_write alive within, (State.gddrStore_does ..).part .gmem (by decide), State.count_gmem]
        exact .refl _

theorem State.gddrServe_cases (s : State) (x : MemUser) (a n : Nat) (data : Option (List Byte)) (chk : Check) :
    (s.gddrServe x a n data chk).1 = s ∨ (s.gddrServe x a n data chk).1 = s.setBit memStatus 3 true ∨
    (s.gddrServe x a n data chk).1 = s.setBit chrtStatus 3 true ∨ s.gddrServe x a n data chk = s.atChannel x a n data chk := by
  unfold State.gddrServe
  split
  · exact .inl rfl
  split
  · exact .inr (.inl rfl)
  split
  · exact .inr (.inr (.inl rfl))
  split
  · exact .inl rfl
  · exact .inr (.inr (.inr rfl))
/-- The controller after a service, and the registers that it leaves. -/
theorem State.gddrServe_keeps (s : State) (x : MemUser) (a n : Nat) (data : Option (List Byte)) (chk : Check) :
    Mem.Served s.gmem (s.gddrServe x a n data chk).1.gmem ∧
    ∀ r, r ≠ chrtStatus → r ∉ servedRegs (s.chanOf a) → (s.gddrServe x a n data chk).1.rd r = s.rd r := by
  rcases s.gddrServe_cases x a n data chk with h | h | h | h <;> rw [h]
  · exact ⟨.refl _, fun _ _ _ => rfl⟩
  · refine ⟨.of_eq (State.gmem_setBit ..), fun r _ out => State.rd_setBit_ne _ ?_ ..⟩
    rintro rfl
    exact out (by simp [servedRegs])
  · exact ⟨.of_eq (State.gmem_setBit ..), fun r ne _ => State.rd_setBit_ne _ ne ..⟩
  · exact ⟨s.atChannel_gmem x a n data chk, fun r _ out => (s.atChannel_frame x a n data chk).2.1 r out⟩
end

/-! ## Which requests are served (R257) -/

theorem State.pickReq_none (h : ∀ w ∈ s.gmem.waiting, s.serve? w = false) : s.pickReq = none := by
  have empty : (s.gmem.waiting.zipIdx.filter fun q => s.serve? q.1) = [] :=
    List.filter_eq_nil_iff.2 fun q mem => by rw [h q.1 (List.fst_mem_of_mem_zipIdx mem)]; exact Bool.false_ne_true
  unfold State.pickReq
  rw [empty]
  rfl
/-- Of the requests that wait the last alone can be served. -/
theorem State.pickReq_last {ws : List MemReq} {q : MemReq} (waiting : s.gmem.waiting = ws ++ [q]) (h : ∀ w ∈ ws, s.serve? w = false)
    (served : s.serve? q = true) : s.pickReq = some ws.length := by
  have empty : (ws.zipIdx.filter fun q => s.serve? q.1) = [] :=
    List.filter_eq_nil_iff.2 fun q mem => by rw [h q.1 (List.fst_mem_of_mem_zipIdx mem)]; exact Bool.false_ne_true
  have one : (s.gmem.waiting.zipIdx.filter fun q => s.serve? q.1) = [(q, ws.length)] := by
    rw [waiting, List.zipIdx_append, List.filter_append, empty]
    simp [served]
  unfold State.pickReq
  rw [one]
  rfl

theorem State.memClass_congr (buf : ∀ b, t.rd (chrtBuf (bufIdx b)) = s.rd (chrtBuf (bufIdx b))) (q : MemReq) : t.memClass q = s.memClass q := by
  have state (b : Buf) : t.bufState b = s.bufState b := State.bufState_congr (buf b)
  simp only [State.memClass, state]
/-- A request that waits for its allotment or its channel goes on to wait when another is served. -/
theorem State.serve?_stays {q : MemReq} (trctl : t.rd memTrctl = s.rd memTrctl) (allot : t.rd memAllot = s.rd memAllot)
    (buf : ∀ b, t.rd (chrtBuf (bufIdx b)) = s.rd (chrtBuf (bufIdx b))) (lk : s.gmem.lkUsed ≤ t.gmem.lkUsed) (cap : s.gmem.capUsed ≤ t.gmem.capUsed)
    (re : ∀ c : ChanN, s.gmem.retraining[c] = true → t.gmem.retraining[c] = true) (h : s.serve? q = false) : t.serve? q = false := by
  have chan : t.chanOf q.addr = s.chanOf q.addr := congrFun (State.chanOf_congr trctl) _
  have lkField : t.fld memAllot 31 16 = s.fld memAllot 31 16 := congrArg (bits · 31 16) allot
  have capField : t.fld memAllot 15 0 = s.fld memAllot 15 0 := congrArg (bits · 15 0) allot
  have lkLeft : t.lkLeft ≤ s.lkLeft := by
    rw [State.lkLeft, State.lkLeft, lkField]
    exact Nat.sub_le_sub_left lk _
  have capLeft : t.capLeft ≤ s.capLeft := by
    rw [State.capLeft, State.capLeft, capField]
    exact Nat.sub_le_sub_left cap _
  simp only [State.serve?, Bool.and_eq_false_iff, Bool.not_eq_false', State.memClass_congr buf, chan] at h ⊢
  refine h.imp (re _) fun used => ?_
  revert used
  split
  · exact fun used => decide_eq_false fun left => of_decide_eq_false used (Nat.lt_of_lt_of_le left lkLeft)
  split
  · exact fun used => decide_eq_false fun left => of_decide_eq_false used (Nat.lt_of_lt_of_le left capLeft)
  · exact id

theorem State.setWaiting_serve? (s : State) (ws : List MemReq) (q : MemReq) :
    (s.setMem { s.gmem with waiting := ws }).serve? q = s.serve? q := rfl
/-- A request that has to wait joins those that do. -/
theorem State.offerReq_waits {q : MemReq} (calm : ∀ w ∈ s.gmem.waiting, s.serve? w = false) (h : s.serve? q = false) :
    s.offerReq q = s.setMem { s.gmem with waiting := s.gmem.waiting ++ [q] } := by
  have none_ : (s.setMem { s.gmem with waiting := s.gmem.waiting ++ [q] }).pickReq = none := State.pickReq_none fun w mem => by
    rw [State.setWaiting_serve?]
    rcases List.mem_append.1 mem with mem | mem
    · exact calm w mem
    · rwa [List.mem_singleton.1 mem]
  have len : (s.setMem { s.gmem with waiting := s.gmem.waiting ++ [q] }).gmem.waiting.length = s.gmem.waiting.length + 1 := by
    rw [State.gmem_setMem, List.length_append]
    rfl
  unfold State.offerReq State.serveWaiting
  rw [len, State.serveLoop, none_]

/-- The controller when the request q has been taken for service: its class has used one burst more, and its user's turn has passed. -/
def State.admits (s : State) (q : MemReq) : Mem :=
  { s.gmem with
    lkUsed := s.gmem.lkUsed + b2n (s.memClass q == 1)
    capUsed := s.gmem.capUsed + b2n (s.memClass q == 2)
    last := s.gmem.last.set (s.memClass q) (userIdx q.u) }
/-- A request that can be served is, and no other after it. -/
theorem State.offerReq_serves {q : MemReq} (calm : ∀ w ∈ s.gmem.waiting, s.serve? w = false) (h : s.serve? q = true) :
    s.offerReq q = ((s.setMem (s.admits q)).gddrServe q.u q.addr q.size q.data q.chk).1 := by
  have last : (s.setMem { s.gmem with waiting := s.gmem.waiting ++ [q] }).pickReq = some s.gmem.waiting.length :=
    State.pickReq_last rfl (fun w mem => (s.setWaiting_serve? _ w).trans (calm w mem)) ((s.setWaiting_serve? _ q).trans h)
  have len : (s.setMem { s.gmem with waiting := s.gmem.waiting ++ [q] }).gmem.waiting.length = s.gmem.waiting.length + 1 := by
    rw [State.gmem_setMem, List.length_append]
    rfl
  have at_ : (s.setMem { s.gmem with waiting := s.gmem.waiting ++ [q] }).gmem.waiting[s.gmem.waiting.length]? = some q := by
    rw [State.gmem_setMem]
    exact List.getElem?_concat_length
  have erased : (s.gmem.waiting ++ [q]).eraseIdx s.gmem.waiting.length = s.gmem.waiting := by
    rw [List.eraseIdx_append_of_length_le (Nat.le_refl _), Nat.sub_self]
    exact List.append_nil _
  have served : ((s.setMem { s.gmem with waiting := s.gmem.waiting ++ [q] }).setMem
      { (s.setMem { s.gmem with waiting := s.gmem.waiting ++ [q] }).gmem with
        waiting := (s.setMem { s.gmem with waiting := s.gmem.waiting ++ [q] }).gmem.waiting.eraseIdx s.gmem.waiting.length }).serveNow q =
      ((s.setMem (s.admits q)).gddrServe q.u q.addr q.size q.data q.chk).1 := by
    rw [State.gmem_setMem, erased]
    rfl
  obtain ⟨gmem, regs⟩ := (s.setMem (s.admits q)).gddrServe_keeps q.u q.addr q.size q.data q.chk
  have none_ : ((s.setMem (s.admits q)).gddrServe q.u q.addr q.size q.data q.chk).1.pickReq = none := by
    generalize ((s.setMem (s.admits q)).gddrServe q.u q.addr q.size q.data q.chk).1 = t at gmem regs
    obtain ⟨rest, re⟩ := gmem
    have kept {r : Nat} (ne : r ≠ chrtStatus) (chstat : r < 0x4000060040) (other : r ∉ [memCecnt, memUecnt, memStatus, memUeaddr]) :
      t.rd r = s.rd r :=
      regs r ne fun mem => (List.mem_cons.1 mem).elim (ne_memChstat _ (.inl chstat)) other
    refine State.pickReq_none fun w mem => State.serve?_stays (s := s) (kept (by decide) (by decide) (by decide)) (kept (by decide) (by decide)
      (by decide))
      (fun b => kept (chrtBuf_apart b).1 (by cases b <;> decide) (by cases b <;> decide)) ?_ ?_ re (calm w ?_)
    · rw [rest]
      exact Nat.le_add_right ..
    · rw [rest]
      exact Nat.le_add_right ..
    · rw [rest] at mem
      exact mem
  unfold State.offerReq State.serveWaiting
  rw [len, State.serveLoop, last]
  dsimp only
  rw [at_]
  dsimp only
  rw [served]
  cases s.gmem.waiting.length with
  | zero => rfl
  | succ k => rw [State.serveLoop, none_]

/-! ## What a service leaves (R247, R253, R254, R256) -/

/-- An access to the address a has met an uncorrectable word at e; the flag tells a read of the scrub. -/
structure State.Finds (scrub : Bool) (a e : Nat) (s t : State) : Prop where
  status : t.bit memStatus 1 = true
  scrubbed : scrub = true → t.bit memStatus 2 = true ∧ ∀ b, bufAt a = some b → s.actBuf = some b → t.chart.withdraw = true
  addr : t.rd memUeaddr = 2 ^ 31 + b2n scrub * 2 ^ 30 + e / 64 % 2 ^ 28
  saf : t.saf = { s.saf with memRegions := s.saf.memRegions ||| 2 ^ regionOf e }
  frame : Frame (if scrub then [.saf, .flaws, .chart] else [.saf, .flaws]) (regsOf [memCecnt, memUecnt, memStatus, memUeaddr]) s t

theorem State.actBuf_congr (h : t.rd chrtStatus = s.rd chrtStatus) : t.actBuf = s.actBuf := by
  have field : t.fld chrtStatus 29 28 = s.fld chrtStatus 29 28 := congrArg (bits · 29 28) h
  rw [State.actBuf, State.actBuf, field]
theorem State.gddrFetch_found {e : Nat × Ecc} (found : s.failing a n told = some e) (x : MemUser) :
    State.Finds (x == .scrub) a e.1 s (s.gddrFetch x a n told).1 := by
  obtain ⟨⟨status, addr, saf, frame⟩, -⟩ := State.checkWords_records found (x == .scrub)
  rw [State.gddrFetch_finds found]
  by_cases scrub : x = .scrub
  · subst scrub
    obtain ⟨second, others, withdraws, looks⟩ := (s.checkWords a n told true).1.scrubUe_leaves a
    have act := State.actBuf_congr (frame.2.1 chrtStatus (by simp [regsOf]; decide))
    refine ⟨(others 1 (by decide)).trans status, fun _ => ⟨second, fun b at_ active => withdraws b at_ (act.trans active)⟩, ?_, ?_, ?_⟩
    · exact (looks.2.1 memUeaddr (by simp [regsOf]; decide)).trans addr
    · exact (looks.1 .saf (by decide)).trans saf
    · exact (frame.widen (by decide) fun _ h => h).trans (looks.widen (by decide) fun r h => by
        rcases List.mem_singleton.1 h with rfl
        simp [regsOf])
  · have flag : (x == MemUser.scrub) = false := beq_eq_false_iff_ne.2 scrub
    rw [if_neg scrub]
    rw [flag] at status addr saf frame ⊢
    exact ⟨status, fun h => Bool.noConfusion h, addr, saf, frame⟩
theorem State.gddrStore_found {bs : List Byte} {e : Nat × Ecc} (len : bs.length = n) (short : n < 8) (found : s.failing a n told = some e) :
    State.Finds false a e.1 s (s.gddrStore a bs told).1 := by
  obtain ⟨⟨status, addr, saf, frame⟩, -⟩ := State.checkWords_records found false
  rw [State.gddrStore_finds len short found]
  exact ⟨status, fun h => Bool.noConfusion h, addr, saf, frame⟩

section
variable {x : MemUser} {data : Option (List Byte)} {chk : Check}

/-- The mismatches of an access to a, met with the retries of user x, have been counted. -/
def State.counted (s : State) (x : MemUser) (a : Nat) (chk : Check) : State :=
  s.count (memChstat (s.chanOf a)) 7 0 (Nat.min chk.edc (s.retryLimit (x == .lookup)))
theorem State.counted_fld (s : State) (x : MemUser) (a : Nat) (chk : Check) : (s.counted x a chk).fld (memChstat (s.chanOf a)) 7 0 =
    Nat.min (s.fld (memChstat (s.chanOf a)) 7 0 + Nat.min chk.edc (s.retryLimit (x == .lookup))) 255 := State.fld_count_by ..
theorem State.counted_frame (s : State) (x : MemUser) (a : Nat) (chk : Check) (ps : List Part) :
    Frame ps (regsOf [memChstat (s.chanOf a)]) s (s.counted x a chk) := (Frame.refl ..).count (List.mem_singleton.2 rfl)
theorem State.counted_failing (s : State) (x : MemUser) (a : Nat) (chk : Check) (m : Nat) (told : List Ecc) :
    (s.counted x a chk).failing a m told = s.failing a m told := State.failing_congr (State.count_flaws ..) ..
/-- What comes after the count and writes no status of a channel keeps it. -/
theorem State.counted_kept {rs : List Nat} (h : Frame ps (regsOf rs) (s.counted x a chk) t) (low : ∀ r ∈ rs, r < 0x4000060040) :
    t.fld (memChstat (s.chanOf a)) 7 0 = Nat.min (s.fld (memChstat (s.chanOf a)) 7 0 + Nat.min chk.edc (s.retryLimit (x == .lookup))) 255 := by
  rw [State.fld, h.2.1 _ fun mem => ne_memChstat (s.chanOf a) (.inl (low _ mem)) rfl, ← State.fld, State.counted_fld]
theorem State.counted_after {qs : List Part} {rs : List Nat} (h : Frame ps (regsOf rs) (s.counted x a chk) t) (parts : ∀ p ∈ ps, p ∈ qs) :
    Frame qs (regsOf (memChstat (s.chanOf a) :: rs)) s t :=
  ((s.counted_frame x a chk qs).widen (fun _ h => h) fun r mem => by
    rcases List.mem_singleton.1 mem with rfl
    exact List.mem_cons_self).trans (h.widen parts fun r mem => List.mem_cons_of_mem _ mem)

section
variable (alive : s.gmem.dead[s.chanOf a] = false)
include alive

/-- With its retries exhausted the access is given up: its channel retrains, and a write's block is to be poisoned. -/
theorem State.atChannel_retrains (gone : s.retryLimit (x == .lookup) < chk.edc) :
    (s.atChannel x a n data chk).1.gmem = { s.gmem with
      retraining := s.gmem.retraining.set (s.chanOf a) true
      tries := s.gmem.tries.set (s.chanOf a) 0
      poisonDue := s.gmem.poisonDue ++ if data.isSome then [a / 64] else [] } ∧
    (s.atChannel x a n data chk).1.fld (memChstat (s.chanOf a)) 7 0 =
      Nat.min (s.fld (memChstat (s.chanOf a)) 7 0 + Nat.min chk.edc (s.retryLimit (x == .lookup))) 255 ∧
    (s.atChannel x a n data chk).1.bit memStatus (16 + s.chanOf a) = true ∧
    Frame [.gmem] (regsOf [memChstat (s.chanOf a), memStatus]) s (s.atChannel x a n data chk).1 := by
  have failed : Frame [.gmem] (regsOf [memStatus]) (s.counted x a chk) ((s.counted x a chk).linkFail (s.chanOf a)) :=
    ((Frame.refl ..).setBit (List.mem_singleton.2 rfl)).setMem (by decide) _
  have marked : ((s.counted x a chk).linkFail (s.chanOf a)).bit memStatus (16 + s.chanOf a) = true :=
    (State.setMem_bit ..).trans (State.bit_setBit_self _ _ (by omega))
  have gmem : (s.counted x a chk).gmem = s.gmem := (s.counted_frame x a chk []).1 .gmem (by decide)
  rw [State.atChannel_gone alive gone, ← State.counted]
  dsimp only
  cases data with
  | none =>
    rw [Option.isSome_none, if_neg (by decide), if_neg (by decide), State.linkFail_gmem, gmem, List.append_nil]
    exact ⟨rfl, State.counted_kept failed (by decide), marked, State.counted_after failed (by decide)⟩
  | some bs =>
    have poisoned : Frame [.gmem] (regsOf [memStatus]) (s.counted x a chk) (((s.counted x a chk).linkFail (s.chanOf a)).poisonLater a) :=
      failed.setMem (by decide) _
    rw [Option.isSome_some, if_pos rfl, if_pos rfl, State.poisonLater_gmem, State.linkFail_gmem, gmem]
    exact ⟨rfl, State.counted_kept poisoned (by decide), (State.setMem_bit ..).trans marked, State.counted_after poisoned (by decide)⟩

section
variable (within : chk.edc ≤ s.retryLimit (x == .lookup))
include within

theorem State.atChannel_gmem_within : (s.atChannel x a n data chk).1.gmem = s.gmem := by
  cases data with
  | none => rw [State.atChannel_read alive within, (State.gddrFetch_does ..).part .gmem (by decide), State.count_gmem]
  | some bs => rw [State.atChannel_write alive within, (State.gddrStore_does ..).part .gmem (by decide), State.count_gmem]
theorem State.atChannel_writes {bs : List Byte} (len : bs.length = n) (whole : 8 ≤ n ∨ s.failing a n chk.ecc = none) :
    (s.atChannel x a n (some bs) chk).1.fld (memChstat (s.chanOf a)) 7 0 =
      Nat.min (s.fld (memChstat (s.chanOf a)) 7 0 + Nat.min chk.edc (s.retryLimit (x == .lookup))) 255 ∧
    (s.atChannel x a n (some bs) chk).1.bytes a n = bs ∧
    (∀ y, y < a ∨ a + n ≤ y → (s.atChannel x a n (some bs) chk).1.byte y = s.byte y) ∧
    Frame [.mem, .flaws] (regsOf [memChstat (s.chanOf a), memCecnt, memStatus]) s (s.atChannel x a n (some bs) chk).1 := by
  have exact_ : bs.take n ++ List.replicate (n - bs.length) 0 = bs := by
    rw [← len, List.take_length, Nat.sub_self]
    exact List.append_nil _
  rw [State.atChannel_write alive within, ← State.counted, exact_]
  obtain ⟨bytes, others, frame⟩ := State.gddrStore_leaves (s := s.counted x a chk) (told := chk.ecc) len
    (whole.imp_right (s.counted_failing x a chk n chk.ecc).trans)
  exact ⟨State.counted_kept frame (by decide), bytes, others, State.counted_after frame (by decide)⟩
theorem State.atChannel_reads (clean : s.failing a n chk.ecc = none) :
    (s.atChannel x a n none chk).1.fld (memChstat (s.chanOf a)) 7 0 =
      Nat.min (s.fld (memChstat (s.chanOf a)) 7 0 + Nat.min chk.edc (s.retryLimit (x == .lookup))) 255 ∧
    Frame [] (regsOf [memChstat (s.chanOf a), memCecnt, memStatus]) s (s.atChannel x a n none chk).1 := by
  rw [State.atChannel_read alive within, ← State.counted, State.gddrFetch_clean ((s.counted_failing x a chk n chk.ecc).trans clean)]
  have frame : Frame [] (regsOf [memCecnt, memStatus]) (s.counted x a chk)
      ((s.counted x a chk).memCorrected ((s.counted x a chk).singles a n chk.ecc)) :=
    Frame.memCorrected (Frame.refl ..) (by simp [regsOf]) (by simp [regsOf]) _
  exact ⟨State.counted_kept frame (by decide), State.counted_after frame (by decide)⟩
/-- An uncorrectable word is met: by a read, or by a write that is merged into it. -/
theorem State.atChannel_finds {e : Nat × Ecc} (merged : data = none ∨ n < 8) (found : s.failing a n chk.ecc = some e) :
    (s.atChannel x a n data chk).1.fld (memChstat (s.chanOf a)) 7 0 =
      Nat.min (s.fld (memChstat (s.chanOf a)) 7 0 + Nat.min chk.edc (s.retryLimit (x == .lookup))) 255 ∧
    State.Finds (x == .scrub && data.isNone) a e.1 (s.counted x a chk) (s.atChannel x a n data chk).1 := by
  have after : State.Finds (x == .scrub && data.isNone) a e.1 (s.counted x a chk) (s.atChannel x a n data chk).1 := by
    have found' := (s.counted_failing x a chk n chk.ecc).trans found
    cases data with
    | none =>
      rw [State.atChannel_read alive within, ← State.counted, Option.isNone_none, Bool.and_true]
      exact State.gddrFetch_found found' x
    | some bs =>
      have short : n < 8 := merged.resolve_left (by simp)
      rw [State.atChannel_write alive within, ← State.counted, Option.isNone_some, Bool.and_false]
      exact State.gddrStore_found (by simp; omega) short found'
  exact ⟨State.counted_kept after.frame (by decide), after⟩
end
end
end

/-! ## The scrub's next block (R256) -/

theorem gddrEnd_block : gddrEnd / 64 = 0xE000000 := rfl
/-- The block that the scrub reads lies in the memory and in no hole. -/
theorem State.scrubAt_place (s : State) (b : Nat) : 64 * s.scrubAt b < gddrEnd ∧ (s.exclMask = 0 ∨ inHole (64 * s.scrubAt b) = false) := by
  have last : gddrEnd = 0x380000000 := rfl
  unfold State.scrubAt
  rw [gddrEnd_block]
  split
  · exact ⟨by omega, .inr (by decide)⟩
  next low =>
  split
  · split
    · exact ⟨by omega, .inr (by decide)⟩
    · exact ⟨by omega, .inr (by decide)⟩
  · next out =>
    refine ⟨by omega, ?_⟩
    by_cases none_ : s.exclMask = 0
    · exact .inl none_
    · right
      simpa [none_] using out
theorem State.scrubAt_next {b : Nat} (none_ : s.exclMask = 0) (lower : b < gddrEnd / 64) : s.scrubAt b = b := by
  unfold State.scrubAt
  rw [if_neg (Nat.not_le.2 lower), if_neg (by simp [none_])]

/-- The scrub's position has moved on. -/
def State.scrubbing (s : State) : State := s.wr memScrubpos (s.scrubAt (s.scrubAt (s.fld memScrubpos 27 0) + 1))
theorem State.scrubbing_frame (s : State) (ps : List Part) : Frame ps (regsOf [memScrubpos])
    s s.scrubbing := (Frame.refl ..).wr (List.mem_singleton.2 rfl)
theorem State.scrubbing_rd {r : Nat} (ne : r ≠ memScrubpos) (s : State) : s.scrubbing.rd r = s.rd r := State.rd_wr_ne _ ne _
theorem State.scrubbing_pos (s : State) : s.scrubbing.rd memScrubpos = s.scrubAt (s.scrubAt (s.fld memScrubpos 27 0) + 1) := by
  have bound := (s.scrubAt_place (s.scrubAt (s.fld memScrubpos 27 0) + 1)).1
  have last : gddrEnd = 0x380000000 := rfl
  exact (State.rd_wr_self ..).trans (Nat.mod_eq_of_lt (by omega))
/-- The scrub reads its block as an access that gets to its channel. -/
theorem State.scrubbing_serves (ready : s.memReady = true) (chk : Check) :
    s.scrubbing.gddrServe .scrub (64 * s.scrubAt (s.fld memScrubpos 27 0)) 64 none chk =
      s.scrubbing.atChannel .scrub (64 * s.scrubAt (s.fld memScrubpos 27 0)) 64 none chk := by
  obtain ⟨within, usable⟩ := s.scrubAt_place (s.fld memScrubpos 27 0)
  have excl : s.scrubbing.exclMask = s.exclMask := State.exclMask_congr (State.scrubbing_rd (by decide) s)
  have answers : s.scrubbing.memReady = true := by
    rw [← ready, State.memReady, State.memReady, State.inReset, State.inReset, State.bit_congr (State.scrubbing_rd (by decide) s),
      State.bit_congr (State.scrubbing_rd (by decide) s)]
    rfl
  refine State.gddrServe_atChannel answers ?_ within (by rwa [excl]) (.inl rfl)
  rw [memSizeOk, Nat.mul_mod_right]
  rfl

theorem exec_scrub_idle (h : s.bit memCtrl 1 = false ∨ s.memWaits (64 * s.scrubAt (s.fld memScrubpos 27 0)) = true) (chk : Check) :
    exec (.scrub chk) s = .next s := by
  rw [exec_scrub]
  exact if_neg (by rcases h with h | h <;> simp [h])
theorem exec_scrub_reads (ready : s.memReady = true) (on : s.bit memCtrl 1 = true)
    (free : s.memWaits (64 * s.scrubAt (s.fld memScrubpos 27 0)) = false) (chk : Check) :
    exec (.scrub chk) s = .next (s.scrubbing.atChannel .scrub (64 * s.scrubAt (s.fld memScrubpos 27 0)) 64 none chk).1 := by
  rw [exec_scrub, ← State.scrubbing_serves ready]
  exact if_pos (by simp [ready, on, free])

/-- What the scrub leaves of its next block. -/
theorem exec_scrub_leaves (ready : s.memReady = true) (on : s.bit memCtrl 1 = true) {b : Nat} (at_ : s.scrubAt (s.fld memScrubpos 27 0) = b)
    (free : s.memWaits (64 * b) = false) (chk : Check) : ∃ t, exec (.scrub chk) s = .next t ∧ t.rd memScrubpos = s.scrubAt (b + 1) ∧
      (s.exclMask = 0 → b + 1 < gddrEnd / 64 → t.rd memScrubpos = b + 1) ∧
      Frame [.chart, .gmem, .saf, .flaws] (regsOf [memScrubpos, memChstat (s.chanOf (64 * b)), memCecnt, memUecnt, memStatus, memUeaddr]) s t ∧
      (s.gmem.dead[s.chanOf (64 * b)] = false → s.fld memCfg 2 0 < chk.edc →
        t.bit memStatus (16 + s.chanOf (64 * b)) = true ∧ t.gmem.retraining[s.chanOf (64 * b)] = true) ∧
      (s.gmem.dead[s.chanOf (64 * b)] = false → chk.edc ≤ s.fld memCfg 2 0 → t.gmem = s.gmem ∧
        (s.failing (64 * b) 64 chk.ecc = none → Frame [] (regsOf [memScrubpos, memChstat (s.chanOf (64 * b)), memCecnt, memStatus]) s t) ∧
        (∀ e, s.failing (64 * b) 64 chk.ecc = some e → t.bit memStatus 1 = true ∧ t.bit memStatus 2 = true ∧
          t.rd memUeaddr = 2 ^ 31 + 2 ^ 30 + e.1 / 64 % 2 ^ 28 ∧
          ∀ x, bufAt (64 * b) = some x → s.actBuf = some x → t.chart.withdraw = true)) := by
  subst at_
  have run := exec_scrub_reads ready on free chk
  have pos := s.scrubbing_pos
  have first := s.scrubbing_frame
  have chan : s.scrubbing.chanOf (64 * s.scrubAt (s.fld memScrubpos 27 0)) = s.chanOf (64 * s.scrubAt (s.fld memScrubpos 27 0)) :=
    congrFun (State.chanOf_congr (State.scrubbing_rd (by decide) s)) _
  have gmem : s.scrubbing.gmem = s.gmem := (first []).1 .gmem (by decide)
  have retry : s.scrubbing.retryLimit (MemUser.scrub == .lookup) = s.fld memCfg 2 0 := congrArg (bits · 2 0) (State.scrubbing_rd (by decide) s)
  have failing (told : List Ecc) := State.failing_congr (t := s.scrubbing) ((first []).1 .flaws (by decide))
    (64 * s.scrubAt (s.fld memScrubpos 27 0)) 64 told
  have act : s.scrubbing.actBuf = s.actBuf := State.actBuf_congr (State.scrubbing_rd (by decide) s)
  generalize s.scrubAt (s.fld memScrubpos 27 0) = b at run pos chan failing
  have served := s.scrubbing.atChannel_frame .scrub (64 * b) 64 none chk
  rw [Option.isSome_none, chan] at served
  have kept : (s.scrubbing.atChannel .scrub (64 * b) 64 none chk).1.rd memScrubpos = s.scrubAt (b + 1) :=
    (served.2.1 _ fun mem => (List.mem_cons.1 mem).elim (ne_memChstat _ (.inl (by decide))) (by decide)).trans pos
  refine ⟨_, run, kept, fun none_ lower => kept.trans (State.scrubAt_next none_ lower), ?_, fun alive gone => ?_, fun alive within => ?_⟩
  · exact ((first _).widen (fun _ h => h) fun r mem => by rcases List.mem_singleton.1 mem with rfl; exact List.mem_cons_self).trans
      (served.widen (by decide) fun r mem => List.mem_cons_of_mem _ mem)
  · have alive' : s.scrubbing.gmem.dead[s.scrubbing.chanOf (64 * b)] = false := by rw [gmem, ← alive]; exact congrArg (s.gmem.dead[·]) chan
    obtain ⟨mem, -, fails, -⟩ := State.atChannel_retrains (n := 64) (data := none) alive' (retry.symm ▸ gone)
    have marked : (s.scrubbing.atChannel .scrub (64 * b) 64 none chk).1.gmem.retraining[s.scrubbing.chanOf (64 * b)] = true :=
      (congrArg (fun m : Mem => m.retraining[s.scrubbing.chanOf (64 * b)]) mem).trans (Vector.getElem_set_self _)
    rw [chan] at fails
    exact ⟨fails, (congrArg (fun d : ChanN => (s.scrubbing.atChannel .scrub (64 * b) 64 none chk).1.gmem.retraining[d]) chan.symm).trans marked⟩
  · have alive' : s.scrubbing.gmem.dead[s.scrubbing.chanOf (64 * b)] = false := by rw [gmem, ← alive]; exact congrArg (s.gmem.dead[·]) chan
    have within' : chk.edc ≤ s.scrubbing.retryLimit (MemUser.scrub == .lookup) := retry.symm ▸ within
    refine ⟨(State.atChannel_gmem_within alive' within').trans gmem, fun clean => ?_, fun e found => ?_⟩
    · obtain ⟨-, frame⟩ := State.atChannel_reads (n := 64) alive' within' ((failing _).trans clean)
      rw [chan] at frame
      exact ((first _).widen (fun _ h => h) fun r mem => by rcases List.mem_singleton.1 mem with rfl; exact List.mem_cons_self).trans
        (frame.widen (fun _ h => h) fun r mem => List.mem_cons_of_mem _ mem)
    · obtain ⟨-, status, scrubbed, addr, -, -⟩ := State.atChannel_finds (n := 64) (data := none) alive' within' (.inl rfl) ((failing _).trans found)
      obtain ⟨second, withdraws⟩ := scrubbed rfl
      have counted : (s.scrubbing.counted .scrub (64 * b) chk).actBuf = s.scrubbing.actBuf :=
        State.actBuf_congr (State.rd_setFld_ne _ (ne_memChstat _ (.inl (by decide))) ..)
      exact ⟨status, second, addr, fun x at_ active => withdraws x at_ (counted.trans (act.trans active))⟩

/-! ## A request that is taken (R246, R257) -/

section
variable {q : MemReq}

/-- The state in which the request q, taken for service, is served. -/
def State.taking (s : State) (q : MemReq) : State := s.setMem (s.admits q)
theorem State.taking_counted_saf (s : State) (q : MemReq) (x : MemUser) (a : Nat) (chk : Check) : ((s.taking q).counted x a chk).saf = s.saf :=
  ((s.taking q).counted_frame x a chk []).1 .saf (by decide)
theorem State.taking_counted_actBuf (s : State) (q : MemReq) (x : MemUser) (a : Nat) (chk : Check) :
    ((s.taking q).counted x a chk).actBuf = s.actBuf :=
  State.actBuf_congr (State.rd_setFld_ne _ (ne_memChstat _ (.inl (by decide))) ..)
/-- Beside the controller nothing changes when a request is taken. -/
theorem State.taking_frame (h : Frame ps rs (s.taking q) t) : Frame (.gmem :: ps) rs s t :=
  ((Frame.refl (.gmem :: ps) rs s).setMem List.mem_cons_self _).trans (h.widen (fun _ mem => List.mem_cons_of_mem _ mem) fun _ h => h)
theorem exec_gddr6Access_serves (ready : s.memReady = true) (calm : ∀ w ∈ s.gmem.waiting, s.serve? w = false) (served : s.serve? q = true) :
    exec (.gddr6Access q.u q.addr q.size q.data q.chk) s = .next ((s.taking q).gddrServe q.u q.addr q.size q.data q.chk).1 := by
  rw [exec_gddr6Access]
  exact (if_pos ready).trans (congrArg _ (State.offerReq_serves calm served))
end

/-- Settles O23: a request by whether it can be served, a service by the tests it passes and by what its channel's retries and checks meet. -/
theorem gddr6Access : Obligations.Gddr6Access := by
  intro s ready calm
  refine ⟨fun x a n data chk => ?_, fun none_ => ?_, fun c bank awake up => ?_, fun c v awake up => ?_, ?_⟩
  · intro q i burst k m does c
    refine ⟨fun waits => ?_, fun served => ?_⟩
    · refine ⟨_, (exec_gddr6Access ..).trans ((if_pos ready).trans (congrArg _ (State.offerReq_waits calm waits))), rfl, trivial,
        (Frame.refl ..).setMem List.mem_cons_self _⟩
    have run : exec i s = .next ((s.taking q).gddrServe x a n data chk).1 := exec_gddr6Access_serves ready calm served
    have unit_ : unitPath x = burst := by cases x <;> rfl
    have goes {ps : List Part} {rs : List Nat} {p : State → Prop} {t : State} (serve : ((s.taking q).gddrServe x a n data chk).1 = t)
        (gmem : t.gmem = (s.taking q).gmem) (holds : p t) (frame : Frame ps (regsOf rs) (s.taking q) t) : does m ps rs p :=
      ⟨t, run.trans (congrArg _ serve), gmem, holds, State.taking_frame frame⟩
    refine ⟨fun out => ?_, fun size within => ⟨fun excl hole => ?_, fun usable => ?_⟩⟩
    · rw [← unit_] at out
      exact goes (congrArg Prod.fst (State.gddrServe_outside out)) rfl trivial (Frame.refl ..)
    · rw [← unit_] at size
      exact goes (congrArg Prod.fst (State.gddrServe_hole ready size within excl hole)) (State.gmem_setBit ..) (State.bit_setBit_self _ _ (by decide))
        ((Frame.refl ..).setBit (List.mem_singleton.2 rfl))
    rw [← unit_] at size
    refine ⟨fun write refused => ?_, fun write taken kept => ?_, fun takes => ?_⟩
    · exact goes (congrArg Prod.fst (State.gddrServe_refused ready size within usable write refused)) (State.gmem_setBit ..)
        (State.bit_setBit_self _ _ (by decide)) ((Frame.refl ..).setBit (List.mem_singleton.2 rfl))
    · exact goes (congrArg Prod.fst (State.gddrServe_retained ready size within usable write taken kept)) rfl trivial (Frame.refl ..)
    have serve : ((s.taking q).gddrServe x a n data chk).1 = ((s.taking q).atChannel x a n data chk).1 :=
      congrArg Prod.fst (State.gddrServe_atChannel ready size within usable takes)
    refine ⟨fun dead => ?_, fun alive => ?_⟩
    · exact goes (serve.trans (congrArg Prod.fst (State.atChannel_dead dead))) rfl trivial (Frame.refl ..)
    have alive : (s.taking q).gmem.dead[(s.taking q).chanOf a] = false := alive
    intro limit scrub counted failing
    refine ⟨fun gone => ?_, fun within => ⟨fun bs write len whole => ?_, fun read clean => ?_, fun e merged found => ?_⟩⟩
    · obtain ⟨gmem, count, fails, frame⟩ := State.atChannel_retrains (n := n) (data := data) alive gone
      exact ⟨_, run.trans (congrArg _ serve), gmem, ⟨count, fails⟩, (State.taking_frame frame).widen (by decide) fun _ h => h⟩
    · subst write
      obtain ⟨count, bytes, others, frame⟩ := State.atChannel_writes alive within len whole
      exact goes serve (State.atChannel_gmem_within alive within) ⟨count, bytes, others⟩ frame
    · subst read
      obtain ⟨count, frame⟩ := State.atChannel_reads alive within clean
      exact goes serve (State.atChannel_gmem_within alive within) count frame
    · obtain ⟨count, ⟨status, scrubbed, addr, saf, frame⟩⟩ := State.atChannel_finds alive within merged found
      rw [State.taking_counted_saf] at saf
      rw [State.taking_counted_actBuf] at scrubbed
      by_cases scrubs : scrub
      · have flag : (x == .scrub && data.isNone) = true := by
          obtain ⟨rfl, rfl⟩ := scrubs
          rfl
        rw [flag] at scrubbed addr frame
        rw [if_pos scrubs, if_pos scrubs]
        exact goes serve (State.atChannel_gmem_within alive within) ⟨count, status, fun _ => scrubbed rfl, addr, saf⟩
          (State.counted_after frame fun _ h => h)
      · have flag : (x == .scrub && data.isNone) = false := by
          refine Bool.eq_false_of_not_eq_true fun both => scrubs ?_
          rwa [Bool.and_eq_true, beq_iff_eq, Option.isNone_iff_eq_none] at both
        rw [flag] at addr frame
        rw [if_neg scrubs, if_neg scrubs]
        exact goes serve (State.atChannel_gmem_within alive within) ⟨count, status, fun h => absurd h scrubs, addr, saf⟩
          (State.counted_after frame fun _ h => h)
  · refine ⟨_, (exec_arbitrationWindow ..).trans ((if_pos ready).trans (congrArg _ (State.serveWaiting_idle none_))), rfl,
      (Frame.refl ..).setMem (by decide) _⟩
  · refine ⟨_, (exec_perBankRefresh ..).trans (if_pos (by rw [up, awake]; rfl)), rfl, (Frame.refl ..).setMem (by decide) _⟩
  · refine ⟨_, (exec_temperatureReadout ..).trans (if_pos (by rw [up, awake]; rfl)), fun hot => ?_, fun cold => ?_, fun low high => ?_,
      fun d other => ?_,
      (Frame.refl ..).setMem (by decide) _⟩
    · exact (Vector.getElem_set_self _).trans (if_pos hot)
    · exact (Vector.getElem_set_self _).trans ((if_neg (by omega)).trans (if_pos cold))
    · exact (Vector.getElem_set_self _).trans ((if_neg (by omega)).trans (if_neg (by omega)))
    · exact Vector.getElem_set_ne c.isLt d.isLt fun h => other (Fin.ext h).symm
  · intro b c
    exact ⟨exec_scrub_idle, fun on free chk => exec_scrub_leaves ready on rfl free chk⟩

end Sys2Proof.Machine
end

section
/-!
PROOF of O29: register access and bulk transfers over the chain.
-/
namespace Sys2Proof.Machine

variable {s t u : State} {a n : Nat} {ps : List Part} {rs : Nat → Prop} {src : Fin 64} {tag : BitVec 16}

/-! ## The frame that answers a request (R297) -/

/-- The frame to `dst`, with the port and the lane it leaves on; none while the data lanes do not act. -/
def State.answer (s : State) (pilot : Bool) (typ dst tag : Nat) (pay : List Byte) : List (ChPort × ChLane × CFrame) :=
  let q := s.portToward dst
  let wrap := s.portDead q pilot
  let r := if wrap then otherPort q else q
  let f : CFrame := { typ, dst, src := s.myAddr, hops := 0, wrap, tag, pay }
  if pilot = true then [(r, .pl, f)] else if s.dataOn r = true then [(r, s.dataLane r typ, f)] else []
def State.said (s : State) (fs : List (ChPort × ChLane × CFrame)) : State := s.setChain { s.chain with sent := s.chain.sent ++ fs }

theorem State.emit_eq (s : State) (p : ChPort) (pilot : Bool) (f : CFrame) : s.emit p pilot f =
    s.said (if pilot = true then [(p, .pl, f)] else if s.dataOn p = true then [(p, s.dataLane p f.typ, f)] else []) := by
  have silent : s.said [] = s := by rw [State.said, List.append_nil]; rfl
  unfold State.emit
  cases pilot
  · cases s.dataOn p
    · simp [silent]
    · rfl
  · rfl
theorem State.respond_eq (s : State) (pilot : Bool) (typ dst tag : Nat) (pay : List Byte) :
    s.respond pilot typ dst tag pay = s.said (s.answer pilot typ dst tag pay) := by
  unfold State.respond State.chainSend State.route State.answer
  generalize dead : s.portDead (s.portToward dst) pilot = w
  cases w
  · simp [State.emit_eq, dead]
  · simp [State.emit_eq, dead]

/-- What the way of an answer depends on: these registers, the block's action, and the sync of the pilot lanes. -/
def wayRegs : List Nat := [chnAddr, chnPortstat, chnCtrl, chnPilot, chnBulkcfg, clkGstat, pwrBrstat]
structure State.SameWay (s t : State) : Prop where
  rd : ∀ r ∈ wayRegs, t.rd r = s.rd r
  clk : t.clk = s.clk
  up : t.chain.up = s.chain.up
  dn : t.chain.dn = s.chain.dn

theorem State.SameWay.of_frame (h : Frame ps rs s t) (clk : Part.clk ∉ ps) (regs : ∀ r ∈ wayRegs, ¬ rs r)
    (up : t.chain.up = s.chain.up) (dn : t.chain.dn = s.chain.dn) : State.SameWay s t :=
  ⟨fun r hr => h.2.1 r (regs r hr), h.1 .clk clk, up, dn⟩

section
variable (h : State.SameWay s t)
include h

theorem State.SameWay.bit {r : Nat} (hr : r ∈ wayRegs) (i : Nat) : t.bit r i = s.bit r i := State.bit_congr (h.rd r hr) i
theorem State.SameWay.fld {r : Nat} (hr : r ∈ wayRegs) (hi lo : Nat) : t.fld r hi lo = s.fld r hi lo := by
  rw [State.fld, State.fld, h.rd r hr]
theorem State.SameWay.cport (p : ChPort) : t.cport p = s.cport p := by
  cases p
  · exact h.up
  · exact h.dn
theorem State.SameWay.portLock (p : ChPort) (i : Nat) : t.portLock p i = s.portLock p i := by
  rw [State.portLock, State.portLock, h.cport, h.bit (by decide)]
theorem State.SameWay.portDead (p : ChPort) (pilot : Bool) : t.portDead p pilot = s.portDead p pilot := by
  simp only [State.portDead, h.portLock, State.portState, h.fld (r := chnPortstat) (by decide)]
theorem State.SameWay.live : t.live .chn = s.live .chn := by
  simp only [State.live, State.gated, State.inReset, h.clk, h.bit (r := clkGstat) (by decide), h.bit (r := pwrBrstat) (by decide)]
theorem State.SameWay.dataOn (p : ChPort) : t.dataOn p = s.dataOn p := by
  simp only [State.dataOn, h.live, h.bit (r := chnCtrl) (by decide), h.bit (r := chnPilot) (by decide)]
theorem State.SameWay.dataLane (p : ChPort) (typ : Nat) : t.dataLane p typ = s.dataLane p typ := by
  simp only [State.dataLane, h.portLock]
theorem State.SameWay.myAddr : t.myAddr = s.myAddr := h.fld (by decide) 5 0
theorem State.SameWay.portToward (dst : Nat) : t.portToward dst = s.portToward dst := by
  simp only [State.portToward, State.hostPort, h.myAddr, h.bit (r := chnAddr) (by decide)]
theorem State.SameWay.bulkWin : t.bulkWin = s.bulkWin := by
  simp only [State.bulkWin, h.fld (r := chnBulkcfg) (by decide)]
theorem State.SameWay.answer (pilot : Bool) (typ dst tag : Nat) (pay : List Byte) :
    t.answer pilot typ dst tag pay = s.answer pilot typ dst tag pay := by
  simp only [State.answer, h.portToward, h.portDead, h.dataOn, h.dataLane, h.myAddr]
/-- An answer leaves as it would have left before. -/
theorem State.SameWay.respond_chain (pilot : Bool) (typ dst tag : Nat) (pay : List Byte) : (t.respond pilot typ dst tag pay).chain =
    { t.chain with sent := t.chain.sent ++ s.answer pilot typ dst tag pay } := by
  rw [State.respond_eq, h.answer]
  rfl
end

theorem Frame.respond (h : Frame ps rs s t) (chain : Part.chain ∈ ps) (pilot : Bool) (typ dst tag : Nat) (pay : List Byte) :
    Frame ps rs s (t.respond pilot typ dst tag pay) := by
  rw [State.respond_eq]
  exact h.upd_chain chain

/-! ## The request leaves the inbox (R303) -/

/-- The state in which the request of a source is performed. -/
def State.took (s : State) (typ : Nat) (src : Fin 64) : State := (s.takeFrame typ (some src.val)).2
theorem State.took_eq (s : State) (typ : Nat) (src : Fin 64) :
    s.took typ src = s.setChain { s.chain with inbox := (s.took typ src).chain.inbox } := by
  unfold State.took State.takeFrame
  dsimp only
  split
  · rfl
  · rfl
theorem State.took_frame (s : State) (typ : Nat) (src : Fin 64) : Frame [.chain] rs s (s.took typ src) := by
  rw [State.took_eq]
  exact (Frame.refl _ _ _).upd_chain (by decide)
theorem State.took_chain (s : State) (typ : Nat) (src : Fin 64) :
    (s.took typ src).chain = { s.chain with inbox := (s.took typ src).chain.inbox } := by
  conv_lhs => rw [State.took_eq]
  rfl
theorem State.took_way (s : State) (typ : Nat) (src : Fin 64) : State.SameWay s (s.took typ src) :=
  State.SameWay.of_frame (rs := noReg) (s.took_frame typ src) (by decide) (fun _ _ h => h) (by rw [State.took_chain]) (by rw [State.took_chain])

/-- State u answers the request of type `req` with a frame, and differs from s in the parts and registers named beside. -/
structure State.Answers (s : State) (src : Fin 64) (req : Nat) (fs : List (ChPort × ChLane × CFrame)) (ps : List Part) (rs : List Nat) (u : State) :
    Prop where
  chain : u.chain = { s.chain with inbox := (s.took req src).chain.inbox, sent := s.chain.sent ++ fs }
  frame : Frame ps (regsOf rs) s u

/-- What is done before the answer leaves the chain as it is. -/
theorem State.respond_answers {l : List Nat} {req : Nat} (way : ∀ r ∈ wayRegs, r ∉ l) (clk : Part.clk ∉ ps) (mem : Part.chain ∈ ps)
    (h : Frame ps (regsOf l) s t) (chain : t.chain = (s.took req src).chain) (pilot : Bool) (typ dst tag : Nat) (pay : List Byte) :
    s.Answers src req (s.answer pilot typ dst tag pay) ps l (t.respond pilot typ dst tag pay) := by
  have same : State.SameWay s t := State.SameWay.of_frame h clk way (by rw [chain, State.took_chain]) (by rw [chain, State.took_chain])
  refine ⟨?_, h.respond mem ..⟩
  rw [same.respond_chain, chain, State.took_chain]

/-! ## Period SRAM past the slots (R523) -/

/-- [a, a + n) lies in period SRAM past the slots and holds no word in error. -/
structure State.Plain (s : State) (a n : Nat) : Prop where
  up : s.clk.cdUp = true
  lo : 0x1000040000 ≤ a
  hi : a + n ≤ 0x1004000000
  good : s.bad a n = false

section
variable (h : s.Plain a n)
include h

theorem State.Plain.sram (pos : 0 < n) : isPeriodSram a = true :=
  inRange_eq_true.2 ⟨Nat.le_trans (by decide) h.lo, Nat.lt_of_lt_of_le (Nat.lt_add_of_pos_right pos) h.hi⟩
theorem State.Plain.noSlot : slotAt a = none := by
  have := h.lo
  exact slotAt_eq_none (by omega)
theorem State.Plain.part {b m : Nat} (lo : a ≤ b) (hi : b + m ≤ a + n) : s.Plain b m where
  up := h.up
  lo := Nat.le_trans h.lo lo
  hi := Nat.le_trans hi h.hi
  good := by
    have size (x : Nat) (above : 0x1000040000 ≤ x) (below : x ≤ 0x1004000000) : eccSize x = 8 := by
      unfold eccSize
      rw [if_neg (by omega), if_neg (by omega)]
    have sa := size a h.lo (Nat.le_trans (Nat.le_add_right a n) h.hi)
    have sb := size b (Nat.le_trans h.lo lo) (Nat.le_trans (Nat.le_trans (Nat.le_add_right b m) hi) h.hi)
    have good := h.good
    simp only [State.bad, List.any_eq_false, decide_eq_true_eq, eccUnits, sa, sb] at good ⊢
    intro f mem
    have := good f mem
    omega
theorem State.Plain.after (clk : t.clk = s.clk) (flaws : t.flaws = s.flaws) : t.Plain a n where
  up := by rw [clk]; exact h.up
  lo := h.lo
  hi := h.hi
  good := by rw [State.bad, flaws]; exact h.good
theorem State.Plain.rangeFree (whole : a % 8 = 0) (m : Nat) : s.rangeWaits a m = false := by
  rw [State.rangeWaits, List.any_eq_false]
  intro w mem
  obtain ⟨i, -, rfl⟩ := List.mem_map.1 mem
  have := h.lo
  rw [State.memWaits_of_ge (by unfold gddrEnd; omega)]
  exact Bool.false_ne_true
theorem State.Plain.clean {r : Requester} (form : sramForm r a n = true) : s.findEcc a n [] = ((0, true), s) := by
  have size := (sramForm_iff.1 form).2
  exact State.findEcc_clean fun w mem => State.bad_word (.inl (h.sram (by omega))) (by omega) h.good mem
theorem State.Plain.read_found {r : Requester} (form : sramForm r a n = true) {k : Check} {m : Nat} {ok : Bool}
    (found : s.findEcc a n k.ecc = ((m, ok), t)) : s.busRead r a n k = if ok then (some (t.bytes a n), t) else (none, t.sramFault a) := by
  have size := (sramForm_iff.1 form).2
  have low : ¬ a < gddrEnd := Nat.not_lt.2 (Nat.le_trans (by decide) h.lo)
  unfold State.busRead
  simp only [State.dieOk_of_cdUp h.up, low, h.sram (by omega), form, found, Bool.not_true, Bool.false_eq_true, if_false, if_true]
  cases ok
  · rfl
  · rfl
theorem State.Plain.read {r : Requester} (form : sramForm r a n = true) : s.busRead r a n {} = (some (s.bytes a n), s) := by
  exact h.read_found (k := {}) form (h.clean form)
/-- A 64-bit word that its check finds uncorrectable (R523). -/
theorem State.Plain.read_fails {r : Requester} (eight : n = 8) (form : sramForm r a n = true) :
    s.busRead r a n { ecc := [.uncorrectable] } = (none, s.setBad a 8) := by
  subst eight
  have z : eccSize a = 8 := eccSize_of_isPeriodSram (h.sram (by decide))
  have whole : a % 8 = 0 := (sramForm_iff.1 form).1
  have words : eccWords a 8 = [a] := by
    rw [eccWords, z, show (a + 8 + 8 - 1) / 8 - a / 8 = 1 by omega]
    show [8 * (a / 8 + 0)] = [a]
    rw [show 8 * (a / 8 + 0) = a by omega]
  have found : s.findEcc a 8 [.uncorrectable] = ((0, false), s.setBad a 8) := by
    unfold State.findEcc
    simp [words, z, State.eccOf, h.good]
  have far : (s.setBad a 8).sramFault a = s.setBad a 8 := by rw [State.sramFault, h.noSlot]
  exact (h.read_found form found).trans (congrArg (Prod.mk none) far)
theorem State.Plain.write {r : Requester} {bs : List Byte} (len : bs.length = n) (short : n < 8) (form : sramForm r a n = true) :
    s.busWrite r a bs {} = (true, s.setBytes a bs) := by
  subst len
  have size := (sramForm_iff.1 form).2
  have low : ¬ a < gddrEnd := Nat.not_lt.2 (Nat.le_trans (by decide) h.lo)
  have put : s.sramWrite a bs = s.setBytes a bs := by
    have open_ : s.latching a = false := by rw [State.latching, h.noSlot]
    refine State.sramWrite_open (fun i _ => ?_) short open_
    have := h.lo
    rw [moduleByte, slotAt_eq_none (by omega)]
    rfl
  unfold State.busWrite
  simp only [State.dieOk_of_cdUp h.up, low, h.sram (by omega), form, h.clean form, Nat.not_le.2 short, put, Bool.not_true, Bool.false_eq_true,
    if_false, if_true]
end

/-! ## Words read and written in ascending order (R303) -/

theorem sramForm_word (r : Requester) (h : a % 4 = 0) : sramForm r a 4 = true := sramForm_iff.2 ⟨h, by omega⟩

theorem State.readWords_plain (r : Requester) (whole : a % 4 = 0) (h : s.Plain a (4 * n)) :
    ∃ ws, s.readWords r a n [] = (ws, s) ∧ ws.length = n ∧ ws.flatten = s.bytes a (4 * n) := by
  induction n generalizing a with
  | zero => exact ⟨[], rfl, rfl, rfl⟩
  | succ n ih =>
    obtain ⟨ws, rest, len, flat⟩ := ih (a := a + 4) (by omega) (h.part (by omega) (by omega))
    have first : s.busRead r a 4 {} = (some (s.bytes a 4), s) := (h.part (le_refl a) (by omega)).read (sramForm_word r whole)
    refine ⟨s.bytes a 4 :: ws, ?_, congrArg (· + 1) len, ?_⟩
    · rw [State.readWords, List.headD_nil, first]
      dsimp only
      rw [List.tail_nil, rest]
    · rw [List.flatten_cons, flat, ← State.bytes_append, show 4 + 4 * n = 4 * (n + 1) by omega]

/-- The words ws stand from a on, and no other byte and no other part differs from s. -/
structure State.Written (a : Nat) (ws : List Word) (s t : State) : Prop where
  words : ∀ i (h : i < ws.length), t.word (a + 4 * i) = ws[i].toNat
  bytes : ∀ x, ¬ (a ≤ x ∧ x < a + 4 * ws.length) → t.byte x = s.byte x
  frame : Frame [.mem] noReg s t

theorem State.Written.cons {w : Word} {ws : List Word} (rest : State.Written (a + 4) ws (s.setBytes a (toLE 4 w.toNat)) t) :
    State.Written a (w :: ws) s t where
  words i h := by
    cases i with
    | zero => exact (State.le_congr fun x _ _ => rest.bytes x (by omega)).trans (State.le_setBytes_toLE ..)
    | succ i => rw [show a + 4 * (i + 1) = a + 4 + 4 * i by omega]; exact rest.words i (by simpa using h)
  bytes x out := by
    rw [List.length_cons] at out
    exact (rest.bytes x (by omega)).trans (State.byte_setBytes_toLE_ne s (by omega))
  frame := (State.setBytes_frame (Frame.refl _ _ s) (by decide) ..).trans rest.frame

theorem State.writeWords_plain (r : Requester) (ws : List Word) (whole : a % 4 = 0) (h : s.Plain a (4 * ws.length)) :
    ∃ t, s.writeWords r a ws [] = (ws.length, t) ∧ State.Written a ws s t := by
  induction ws generalizing s a with
  | nil => exact ⟨s, rfl, fun _ h => absurd h (Nat.not_lt_zero _), fun _ _ => rfl, Frame.refl ..⟩
  | cons w ws ih =>
    rw [List.length_cons] at h
    have put : Does 1 s (s.setBytes a (toLE 4 w.toNat)) := Does.setBytes
    have later : (s.setBytes a (toLE 4 w.toNat)).Plain (a + 4) (4 * ws.length) :=
      (h.part (Nat.le_add_right a 4) (by omega)).after (put.part .clk (by decide)) (put.part .flaws (by decide))
    obtain ⟨t, rest, written⟩ := ih (a := a + 4) (by omega) later
    have first : s.busWrite r a (toLE 4 w.toNat) {} = (true, s.setBytes a (toLE 4 w.toNat)) :=
      (h.part (le_refl a) (by omega)).write (length_toLE 4 _) (by decide) (sramForm_word r whole)
    refine ⟨t, ?_, written.cons⟩
    rw [State.writeWords, List.headD_nil, first]
    dsimp only
    rw [List.tail_nil, rest]
    rfl

/-- Reads of 8 bytes go on as long as the checks told find nothing. -/
theorem State.readEights_plain (i m : Nat) {ks : List Check} (quiet : ∀ j < i, ks.getD j {} = {}) (whole : a % 8 = 0) (h : s.Plain a (8 * i)) :
    s.readEights a (i + m) ks =
      (s.bytes a (8 * i) ++ (s.readEights (a + 8 * i) m (ks.drop i)).1, (s.readEights (a + 8 * i) m (ks.drop i)).2) := by
  induction i generalizing a ks with
  | zero => simp [State.bytes]
  | succ i ih =>
    have rest := ih (a := a + 8) (ks := ks.tail) (fun j lower => by simpa using quiet (j + 1) (by omega)) (by omega)
      (h.part (by omega) (by omega))
    have told : ks.headD {} = {} := by simpa [List.head?_eq_getElem?] using quiet 0 (by omega)
    have first : s.busRead .dma a 8 {} = (some (s.bytes a 8), s) :=
      (h.part (le_refl a) (by omega)).read (sramForm_iff.2 ⟨whole, by omega⟩)
    rw [show i + 1 + m = i + m + 1 by omega, State.readEights, told, first]
    dsimp only
    rw [rest, List.drop_tail, show a + 8 + 8 * i = a + 8 * (i + 1) by omega, show 8 * (i + 1) = 8 + 8 * i by omega, State.bytes_append,
      List.append_assoc]

/-! ## RDREQ (R303, R304) -/

theorem State.SameWay.aclRead (h : State.SameWay s t) (x : Nat) : t.aclRead x = s.aclRead x := by
  rw [State.aclRead, State.aclRead, h.bit (by decide)]
theorem State.SameWay.aclWrite (h : State.SameWay s t) (x : Nat) : t.aclWrite x = s.aclWrite x := by
  rw [State.aclWrite, State.aclWrite, h.bit (by decide)]
theorem State.aclErr_frame (h : Frame ps (regsOf [chnStatus]) s t) : Frame ps (regsOf [chnStatus]) s t.aclErr := by
  unfold State.aclErr
  exact Frame.ite (h.setBit (List.mem_singleton.2 rfl)) h
theorem State.aclErr_chain (s : State) : s.aclErr.chain = s.chain := (State.aclErr_does s).part .chain (by decide)
theorem State.aclErr_flag (up : s.clk.cdUp = true) : s.aclErr.bit chnStatus 1 = true := by
  rw [State.aclErr, if_pos up]
  exact State.bit_setBit_self s _ (by decide)
theorem State.respond_rd (s : State) (pilot : Bool) (typ dst tag : Nat) (pay : List Byte) (r : Nat) :
    (s.respond pilot typ dst tag pay).rd r = s.rd r := by
  rw [State.respond_eq]
  rfl
theorem State.took_plain (h : s.Plain a n) (typ : Nat) (src : Fin 64) : (s.took typ src).Plain a n :=
  h.after ((s.took_frame (rs := noReg) typ src).1 .clk (by decide)) ((s.took_frame (rs := noReg) typ src).1 .flaws (by decide))
theorem State.took_bytes (s : State) (typ : Nat) (src : Fin 64) (a n : Nat) : (s.took typ src).bytes a n = s.bytes a n :=
  State.bytes_congr fun x _ _ => (s.took_frame (rs := noReg) typ src).1 .mem (by decide) x
theorem wordStatus_all (n : Nat) : wordStatus n n = [0, 0, 0, 0] := if_pos rfl
theorem wordStatus_none (pos : 0 < n) : wordStatus n 0 = [1, 0, 0, 0] := if_neg (by omega)
theorem wordsOk_iff {pilot : Bool} : wordsOk pilot a n = true ↔ (1 ≤ n ∧ n ≤ if pilot then 2 else 64) ∧ a % 4 = 0 := by
  simp [wordsOk]

variable {p : ChPort} {pilot : Bool} {addr : BitVec 40} {nw : Byte} {chks : List Check}

theorem exec_rdreq_idle (h : s.chnUp pilot = false ∨ s.rangeWaits addr.toNat (4 * nw.toNat) = true) :
    exec (.rdreq p pilot src tag addr nw chks) s = .next s := by
  rw [exec_rdreq, execRdreq]
  exact if_pos (by rcases h with h | h <;> simp [h])

section
variable (up : s.chnUp pilot = true) (free : s.rangeWaits addr.toNat (4 * nw.toNat) = false)
include up free

theorem exec_rdreq_misformed (bad : wordsOk pilot addr.toNat nw.toNat = false) : exec (.rdreq p pilot src tag addr nw chks) s =
    .next ((s.took 1 src).respond pilot 2 src tag.toNat (rdrspNone pilot 3 nw.toNat)) := by
  rw [exec_rdreq, execRdreq]
  simp [up, free, bad, State.took]
theorem exec_rdreq_refused (ok : wordsOk pilot addr.toNat nw.toNat = true) (refused : s.aclRead src = true) :
    exec (.rdreq p pilot src tag addr nw chks) s =
      .next ((s.took 1 src).aclErr.respond pilot 2 src tag.toNat (rdrspNone pilot 2 nw.toNat)) := by
  have acl : (s.takeFrame 1 (some src.val)).2.aclRead src = true := ((s.took_way 1 src).aclRead src).trans refused
  rw [exec_rdreq, execRdreq]
  simp [up, free, ok, acl, State.took]
theorem exec_rdreq_reads (ok : wordsOk pilot addr.toNat nw.toNat = true) (allowed : s.aclRead src = false) {ws : List (List Byte)}
    (read : (s.took 1 src).readWords (.chain src) addr.toNat nw.toNat chks = (ws, t)) : exec (.rdreq p pilot src tag addr nw chks) s =
    .next (t.respond pilot 2 src tag.toNat
      (wordStatus nw.toNat ws.length ++ ws.flatten ++ List.replicate (4 * (nw.toNat - ws.length)) 0)) := by
  have acl : (s.takeFrame 1 (some src.val)).2.aclRead src = false := ((s.took_way 1 src).aclRead src).trans allowed
  unfold State.took at read
  rw [exec_rdreq, execRdreq]
  simp [up, free, ok, acl, read]

end

/-! ## WRREQ (R303, R304) -/

variable {ws : List Word}

theorem exec_wrreq_idle (h : s.chnUp pilot = false ∨ s.rangeWaits addr.toNat (4 * ws.length) = true) :
    exec (.wrreq p pilot src tag addr ws chks) s = .next s := by
  rw [exec_wrreq, execWrreq]
  exact if_pos (by rcases h with h | h <;> simp [h])

section
variable (up : s.chnUp pilot = true) (free : s.rangeWaits addr.toNat (4 * ws.length) = false)
include up free

theorem exec_wrreq_misformed (bad : wordsOk pilot addr.toNat ws.length = false) : exec (.wrreq p pilot src tag addr ws chks) s =
    .next ((s.took 3 src).respond pilot 4 src tag.toNat [3, 0, 0, 0]) := by
  rw [exec_wrreq, execWrreq]
  simp only [up, free, bad, Bool.not_true, Bool.not_false, Bool.or_self, Bool.false_eq_true, if_false, if_true]
  rfl
theorem exec_wrreq_refused (ok : wordsOk pilot addr.toNat ws.length = true) (page : pageBase addr.toNat ≠ safBase)
    (refused : s.aclWrite src = true) :
    exec (.wrreq p pilot src tag addr ws chks) s = .next ((s.took 3 src).aclErr.respond pilot 4 src tag.toNat [2, 0, 0, 0]) := by
  have acl : (s.takeFrame 3 (some src.val)).2.aclWrite src = true := ((s.took_way 3 src).aclWrite src).trans refused
  rw [exec_wrreq, execWrreq]
  simp only [up, free, ok, acl, bne_iff_ne.2 page, Bool.not_true, Bool.and_self, Bool.or_self, Bool.false_eq_true, if_false, if_true]
  rfl
theorem exec_wrreq_writes (ok : wordsOk pilot addr.toNat ws.length = true) (allowed : pageBase addr.toNat = safBase ∨ s.aclWrite src = false)
    {k : Nat} (written : (s.took 3 src).writeWords (.chain src) addr.toNat ws chks = (k, t)) : exec (.wrreq p pilot src tag addr ws chks) s =
    .next (t.respond pilot 4 src tag.toNat (wordStatus ws.length k)) := by
  have acl : ((s.takeFrame 3 (some src.val)).2.aclWrite src && pageBase addr.toNat != safBase) = false := by
    rcases allowed with page | allowed
    · simp [page]
    · rw [show (s.takeFrame 3 (some src.val)).2.aclWrite src = false from ((s.took_way 3 src).aclWrite src).trans allowed]
      rfl
  unfold State.took at written
  rw [exec_wrreq, execWrreq]
  simp [up, free, ok, acl, written]

end

/-! ## The answers to register requests -/

section
variable (up : s.chnUp pilot = true)
include up

section
variable (free : s.rangeWaits addr.toNat (4 * nw.toNat) = false) (ok : wordsOk pilot addr.toNat nw.toNat = true)
include free ok

theorem exec_rdreq_acl (refused : s.aclRead src = true) : ∃ t, exec (.rdreq p pilot src tag addr nw chks) s = .next t ∧
    s.Answers src 1 (s.answer pilot 2 src tag.toNat (rdrspNone pilot 2 nw.toNat)) [.chain] [chnStatus] t ∧
    (s.clk.cdUp = true → t.bit chnStatus 1 = true) := by
  refine ⟨_, exec_rdreq_refused up free ok refused, State.respond_answers (by decide) (by decide) (by decide)
    (State.aclErr_frame (s.took_frame 1 src)) (State.aclErr_chain _) .., fun on => ?_⟩
  rw [State.bit_congr (State.respond_rd ..)]
  exact State.aclErr_flag (((s.took_way 1 src).clk ▸ on))
theorem exec_rdreq_plain (allowed : s.aclRead src = false) (h : s.Plain addr.toNat (4 * nw.toNat)) :
    ∃ t, exec (.rdreq p pilot src tag addr nw []) s = .next t ∧
      s.Answers src 1 (s.answer pilot 2 src tag.toNat ([0, 0, 0, 0] ++ s.bytes addr.toNat (4 * nw.toNat))) [.chain] [] t := by
  obtain ⟨ws, read, len, flat⟩ := State.readWords_plain (.chain src) (wordsOk_iff.1 ok).2 (State.took_plain h 1 src)
  have done := State.respond_answers (l := []) (by decide) (by decide) (by decide) (s.took_frame 1 src) rfl pilot 2 src tag.toNat
    ([0, 0, 0, 0] ++ s.bytes addr.toNat (4 * nw.toNat))
  refine ⟨_, exec_rdreq_reads up free ok allowed read, ?_⟩
  rw [len, wordStatus_all, Nat.sub_self, flat, State.took_bytes]
  simpa using done
/-- With the die off the first word gets an error response (R27). -/
theorem exec_rdreq_off (allowed : s.aclRead src = false) (off : s.clk.cdUp = false) (low : addr.toNat + 4 * nw.toNat ≤ 0x5000000000) :
    ∃ t, exec (.rdreq p pilot src tag addr nw chks) s = .next t ∧
      s.Answers src 1 (s.answer pilot 2 src tag.toNat ([1, 0, 0, 0] ++ List.replicate (4 * nw.toNat) 0)) [.chain] [] t := by
  obtain ⟨m, hm⟩ : ∃ m, nw.toNat = m + 1 := ⟨nw.toNat - 1, by have := (wordsOk_iff.1 ok).1.1; omega⟩
  have first : (s.took 1 src).dieOk addr.toNat = false :=
    State.dieOk_off (by omega) ((congrArg Clk.cdUp (s.took_way 1 src).clk).trans off)
  have read : (s.took 1 src).readWords (.chain src) addr.toNat nw.toNat chks = ([], s.took 1 src) := by
    rw [hm, State.readWords, State.busRead_dieOff first]
  have done := State.respond_answers (l := []) (by decide) (by decide) (by decide) (s.took_frame 1 src) rfl pilot 2 src tag.toNat
    ([1, 0, 0, 0] ++ List.replicate (4 * nw.toNat) 0)
  refine ⟨_, exec_rdreq_reads up free ok allowed read, ?_⟩
  rw [List.length_nil, wordStatus_none (by omega)]
  simpa using done
end

section
variable (free : s.rangeWaits addr.toNat (4 * ws.length) = false) (ok : wordsOk pilot addr.toNat ws.length = true)
include free ok

theorem exec_wrreq_saf (page : pageBase addr.toNat = safBase) : ∃ t, exec (.wrreq p pilot src tag addr ws chks) s = .next t ∧
    s.Answers src 3 (s.answer pilot 4 src tag.toNat [1, 0, 0, 0]) [.chain] [] t := by
  have some_ := (wordsOk_iff.1 ok).1.1
  have written : (s.took 3 src).writeWords (.chain src) addr.toNat ws chks = (0, s.took 3 src) := by
    cases ws with
    | nil => exact absurd some_ (by decide)
    | cons w ws => rw [State.writeWords, State.busWrite_saf page (by simp)]
  refine ⟨_, exec_wrreq_writes up free ok (.inl page) written, ?_⟩
  rw [wordStatus_none some_]
  exact State.respond_answers (by decide) (by decide) (by decide) (s.took_frame 3 src) rfl ..
theorem exec_wrreq_plain (allowed : s.aclWrite src = false) (h : s.Plain addr.toNat (4 * ws.length)) :
    ∃ t, exec (.wrreq p pilot src tag addr ws []) s = .next t ∧
      s.Answers src 3 (s.answer pilot 4 src tag.toNat [0, 0, 0, 0]) [.mem, .chain] [] t ∧
      (∀ i (h : i < ws.length), t.word (addr.toNat + 4 * i) = ws[i].toNat) ∧
      ∀ x, ¬ (addr.toNat ≤ x ∧ x < addr.toNat + 4 * ws.length) → t.byte x = s.byte x := by
  obtain ⟨t, written, leaves⟩ := State.writeWords_plain (.chain src) ws (wordsOk_iff.1 ok).2 (State.took_plain h 3 src)
  have frame : Frame [.mem, .chain] (regsOf []) s t := ((s.took_frame (rs := regsOf []) 3 src).widen (by decide) fun _ h => h).trans
    (leaves.frame.widen (by decide) fun _ h => h.elim)
  have kept (x : Nat) : (t.respond pilot 4 src tag.toNat [0, 0, 0, 0]).byte x = t.byte x := (State.respond_does ..).part .mem (by decide) x
  refine ⟨_, exec_wrreq_writes up free ok (.inr allowed) written, ?_⟩
  rw [wordStatus_all]
  refine ⟨State.respond_answers (by decide) (by decide) (by decide) frame (leaves.frame.1 .chain (by decide)) .., fun i lower => ?_,
    fun x out => ?_⟩
  · rw [State.word, State.le_congr fun x _ _ => kept x]
    exact leaves.words i lower
  · rw [kept, leaves.bytes x out]
    exact (s.took_frame (rs := noReg) 3 src).1 .mem (by decide) x
end
end

/-! ## Blocks of 64 bytes (R246, R252) -/

/-- The words of a block lie on one channel (R245). -/
theorem State.chanOf_word {b w : Nat} (block : b % 64 = 0) (mem : w ∈ wordsOf b 64) : s.chanOf w = s.chanOf b := by
  obtain ⟨i, lower, rfl⟩ := List.mem_map.1 mem
  have lower := List.mem_range.1 lower
  have near : s.linear (8 * (b / 8 + i)) / 256 = s.linear b / 256 := by
    simp only [State.linear, ofsFrom_eq]
    split_ifs <;> omega
  rw [State.chanOf, near]
  rfl
theorem mem_wordsOf {b m : Nat} (whole : b % 8 = 0) (lo : a ≤ b) (hi : b + 8 ≤ a + m) : b ∈ wordsOf a m :=
  List.mem_map.2 ⟨b / 8 - a / 8, List.mem_range.2 (by omega), by omega⟩
theorem State.memWaits_of_range {b m : Nat} (free : s.rangeWaits a m = false) (whole : b % 8 = 0) (lo : a ≤ b) (hi : b + 8 ≤ a + m) :
    s.memWaits b = false :=
  Bool.eq_false_iff.2 (List.any_eq_false.1 free b (mem_wordsOf whole lo hi))

section
variable {b : Nat} (block : b % 64 = 0)
include block

/-- A block of a channel out of service. -/
theorem State.memDown_block (ready : s.memReady = true) (usable : s.exclMask = 0 ∨ inHole b = false) :
    s.memDown b 64 = s.gmem.dead[s.chanOf b] := by
  have hole : (s.exclMask != 0 && inHole b) = false := Bool.eq_false_iff.2 (State.gddrServe_usable usable)
  rw [State.memDown, ready, hole, Bool.eq_iff_iff]
  simp only [Bool.not_true, Bool.false_or, List.any_eq_true, Bool.and_eq_true, beq_iff_eq]
  constructor
  · rintro ⟨c, -, dead, w, mem, rfl⟩
    rwa [State.chanOf_word block mem] at dead
  · exact fun dead => ⟨s.chanOf b, mem_allChans _, dead, b, mem_wordsOf (by omega) (le_refl b) (by omega), rfl⟩
/-- A write of a block that would get an error response sets at most a status bit. -/
theorem State.gddrAccess_blockRefused (below : b + 64 ≤ retainBase) (free : s.memWaits b = false) (refused : s.blockRefused b = true) :
    (s.gddrAccess .bulk b 64 (some []) {}).1 = s ∨ (s.gddrAccess .bulk b 64 (some []) {}).1 = s.setBit memStatus 3 true ∨
      (s.gddrAccess .bulk b 64 (some []) {}).1 = s.setBit chrtStatus 3 true := by
  have size : memSizeOk (unitPath .bulk) b 64 = true := by simp [memSizeOk, unitPath, block]
  have within : b < gddrEnd := by
    unfold retainBase at below
    unfold gddrEnd
    omega
  have served : s.gddrAccess .bulk b 64 (some []) {} = s.gddrServe .bulk b 64 (some []) {} :=
    if_neg (by rw [free]; exact Bool.false_ne_true)
  rw [served]
  by_cases ready : s.memReady = true
  · by_cases hole : s.exclMask ≠ 0 ∧ inHole b = true
    · exact .inr (.inl (congrArg Prod.fst (State.gddrServe_hole ready size within hole.1 hole.2)))
    · have usable : s.exclMask = 0 ∨ inHole b = false := by
        rwa [not_and_or, not_not, Bool.not_eq_true] at hole
      cases taken : s.bufRefuses .bulk b with
      | true => exact .inr (.inr (congrArg Prod.fst (State.gddrServe_refused ready size within usable rfl taken)))
      | false =>
        have dead : s.gmem.dead[s.chanOf b] = true := by
          rw [← State.memDown_block block ready usable]
          rwa [State.blockRefused, taken, Bool.or_false] at refused
        rw [State.gddrServe_atChannel ready size within usable (.inr ⟨taken, by omega⟩), State.atChannel_dead dead]
        exact .inl rfl
  · refine .inl (congrArg Prod.fst (if_pos ?_))
    rw [Bool.eq_false_iff.2 ready]
    rfl
/-- A block of memory in service takes the data with their check bits. -/
theorem State.gddrAccess_block {bs : List Byte} (len : bs.length = 64) (below : b + 64 ≤ retainBase) (free : s.memWaits b = false)
    (ready : s.memReady = true) (usable : s.exclMask = 0 ∨ inHole b = false) (taken : s.bufRefuses .bulk b = false)
    (alive : s.gmem.dead[s.chanOf b] = false) :
    (s.gddrAccess .bulk b 64 (some bs) {}).1 = (s.counted .bulk b {}).store b bs := by
  have size : memSizeOk (unitPath .bulk) b 64 = true := by simp [memSizeOk, unitPath, block]
  have within : b < gddrEnd := by
    unfold retainBase at below
    unfold gddrEnd
    omega
  have served : s.gddrAccess .bulk b 64 (some bs) {} = s.gddrServe .bulk b 64 (some bs) {} :=
    if_neg (by rw [free]; exact Bool.false_ne_true)
  have whole : bs.take 64 ++ List.replicate (64 - bs.length) 0 = bs := by
    rw [List.take_of_length_le (Nat.le_of_eq len), len]
    exact List.append_nil bs
  rw [served, State.gddrServe_atChannel ready size within usable (.inr ⟨taken, by omega⟩),
    State.atChannel_write alive (Nat.zero_le _), whole]
  exact congrArg Prod.fst (if_neg (by rw [len]; decide))
theorem State.store_block_bad (low : b < gddrEnd) {bs : List Byte} (len : bs.length = 64) (t : State) : (t.store b bs).bad b 64 = false := by
  unfold gddrEnd at low
  have z : eccSize b = 8 := by
    unfold eccSize
    rw [if_neg (by omega), if_neg (by omega)]
  refine State.bad_mend _ ?_ ?_
  · rw [eccUnits, z]
    dsimp only
    omega
  · rw [eccUnits, z, len]
    dsimp only
    omega
end

/-! ## The sequence of a source's bulk writes (R305) -/

theorem State.bseqOf_congr (h : t.chain.bseqs = s.chain.bseqs) (x : Nat) : t.bseqOf x = s.bseqOf x := by
  rw [State.bseqOf, State.bseqOf, h]
theorem State.setBseq_chain (s : State) (x : Nat) (v : Nat × Option Nat) : (s.setBseq x v).chain =
    { s.chain with bseqs := (s.chain.bseqs.filter fun y => y.1 != x) ++ [(x, v)] } := by
  unfold State.setBseq
  dsimp only
  split
  · rw [State.setFld_chain]
    rfl
  · rfl
theorem State.bseqOf_setBseq (s : State) (x : Nat) (v : Nat × Option Nat) : (s.setBseq x v).bseqOf x = v := by
  have none_ : (s.chain.bseqs.filter fun y => y.1 != x).find? (fun y => y.1 == x) = none := by
    rw [List.find?_eq_none]
    intro y mem
    simpa using (List.mem_filter.1 mem).2
  rw [State.bseqOf, State.setBseq_chain]
  simp only [List.find?_append, none_, Option.none_or, List.find?_cons, beq_self_eq_true]
theorem Frame.setBseq (h : Frame ps rs s t) (chain : Part.chain ∈ ps) (hr : rs chnBulkstat) (x : Nat) (v : Nat × Option Nat) :
    Frame ps rs s (t.setBseq x v) :=
  have kept := h.upd_chain chain
  Frame.ite (kept.setFld hr) kept
/-- The acknowledgement of a source that has written. -/
theorem State.blkack_eq {last : Nat} (h : (s.bseqOf src).2 = some last) (tag st : Nat) : s.blkack src tag st =
    s.respond false 6 src tag (toLE 2 last ++ [BitVec.ofNat 8 st, BitVec.ofNat 8 s.bulkWin]) := by
  unfold State.blkack
  rw [h]
  rfl
theorem State.took_bseqOf (s : State) (typ : Nat) (src : Fin 64) (x : Nat) : (s.took typ src).bseqOf x = s.bseqOf x :=
  State.bseqOf_congr (by rw [State.took_chain]) x

/-! ## BLKWR (R305) -/

/-- The form that R305 asks of a bulk write. -/
def bulkForm (a n : Nat) : Prop := 64 ≤ n ∧ n ≤ 2040 ∧ n % 64 = 0 ∧ a % 64 = 0
/-- The answer to a bulk write, with the last BSEQ written. -/
def State.ack (s : State) (src : Fin 64) (tag : BitVec 16) (last st : Nat) : List (ChPort × ChLane × CFrame) :=
  s.answer false 6 src tag.toNat (toLE 2 last ++ [BitVec.ofNat 8 st, BitVec.ofNat 8 s.bulkWin])

variable {bs : List Byte} {bq : BitVec 16} {last : Nat}

theorem State.SameWay.blkack_chain (h : State.SameWay s t) (wrote : (t.bseqOf src).2 = some last) (st : Nat) :
    (t.blkack src tag.toNat st).chain = { t.chain with sent := t.chain.sent ++ s.ack src tag last st } := by
  rw [State.blkack_eq wrote, h.respond_chain, h.bulkWin]
  rfl
theorem State.blkack_answers {l : List Nat} (way : ∀ r ∈ wayRegs, r ∉ l) (clk : Part.clk ∉ ps) (mem : Part.chain ∈ ps)
    (h : Frame ps (regsOf l) s t) (chain : t.chain = (s.took 5 src).chain) (wrote : (s.bseqOf src).2 = some last) (st : Nat) :
    s.Answers src 5 (s.ack src tag last st) ps l (t.blkack src tag.toNat st) := by
  have same : State.SameWay s t := State.SameWay.of_frame h clk way (by rw [chain, State.took_chain]) (by rw [chain, State.took_chain])
  have wrote' : (t.bseqOf src).2 = some last := by
    rw [State.bseqOf_congr (s := s) (by rw [chain, State.took_chain])]
    exact wrote
  rw [State.blkack_eq wrote', same.bulkWin]
  exact State.respond_answers way clk mem h chain ..

theorem exec_blkwr_idle {start : Bool} (h : s.chnData = false ∨ s.rangeWaits addr.toNat bs.length = true) :
    exec (.blkwr src tag addr start bq bs chks) s = .next s := by
  rw [exec_blkwr, execBlkwr]
  exact if_pos (by rcases h with h | h <;> simp [h])

section
variable (up : s.chnData = true) (free : s.rangeWaits addr.toNat bs.length = false)
include up free

theorem exec_blkwr_misformed (bad : ¬ bulkForm addr.toNat bs.length) :
    exec (.blkwr src tag addr false bq bs chks) s = .next ((s.took 5 src).blkack src tag.toNat 3) := by
  rw [exec_blkwr, execBlkwr, if_neg (by simp [up, free])]
  refine if_pos ?_
  unfold bulkForm at bad
  simp only [Bool.not_eq_true', Bool.eq_false_iff, ne_eq, Bool.and_eq_true, decide_eq_true_eq, beq_iff_eq]
  tauto

variable (form : bulkForm addr.toNat bs.length)
include form

theorem exec_blkwr_formed : exec (.blkwr src tag addr false bq bs chks) s =
    let t := s.took 5 src
    if !t.bit chnCtrl 8 || t.aclWrite src then .next (t.aclErr.blkack src tag.toNat 2)
    else if bq.toNat ≠ (t.bseqOf src).1 then .next (t.blkack src tag.toNat 0)
    else if !oneRegion addr.toNat bs.length || decide (retainBase < addr.toNat + bs.length) then .next (t.blkack src tag.toNat 1)
    else match t.blocksRefused addr.toNat (bs.length / 64) with
      | some b => .next (State.blkack (t.gddrAccess .bulk b 64 (some []) {}).1 src tag.toNat 1)
      | none => .next (((t.writeBlocks addr.toNat (bs.length / 64) bs chks).setBseq src
          (((t.bseqOf src).1 + 1) % 65536, some (t.bseqOf src).1)).blkack src tag.toNat 0) := by
  rw [exec_blkwr, execBlkwr, if_neg (by simp [up, free])]
  obtain ⟨lo, hi, blocks, block⟩ := form
  exact if_neg (by simp [lo, hi, blocks, block])
theorem exec_blkwr_refused (refused : s.bit chnCtrl 8 = false ∨ s.aclWrite src = true) :
    exec (.blkwr src tag addr false bq bs chks) s = .next ((s.took 5 src).aclErr.blkack src tag.toNat 2) := by
  have way := s.took_way 5 src
  rw [exec_blkwr_formed up free form]
  refine if_pos ?_
  rw [way.bit (by decide), way.aclWrite]
  rcases refused with h | h <;> simp [h]

variable (on : s.bit chnCtrl 8 = true) (allowed : s.aclWrite src = false)
include on allowed

theorem exec_blkwr_allowed : exec (.blkwr src tag addr false bq bs chks) s =
    let t := s.took 5 src
    if bq.toNat ≠ (t.bseqOf src).1 then .next (t.blkack src tag.toNat 0)
    else if !oneRegion addr.toNat bs.length || decide (retainBase < addr.toNat + bs.length) then .next (t.blkack src tag.toNat 1)
    else match t.blocksRefused addr.toNat (bs.length / 64) with
      | some b => .next (State.blkack (t.gddrAccess .bulk b 64 (some []) {}).1 src tag.toNat 1)
      | none => .next (((t.writeBlocks addr.toNat (bs.length / 64) bs chks).setBseq src
          (((t.bseqOf src).1 + 1) % 65536, some (t.bseqOf src).1)).blkack src tag.toNat 0) := by
  have way := s.took_way 5 src
  rw [exec_blkwr_formed up free form]
  refine if_neg ?_
  rw [way.bit (by decide), way.aclWrite, on, allowed]
  decide
theorem exec_blkwr_outOfSequence (other : bq.toNat ≠ (s.bseqOf src).1) :
    exec (.blkwr src tag addr false bq bs chks) s = .next ((s.took 5 src).blkack src tag.toNat 0) := by
  rw [exec_blkwr_allowed up free form on allowed]
  exact if_pos (by rwa [State.took_bseqOf])
theorem exec_blkwr_outside (expected : bq.toNat = (s.bseqOf src).1)
    (outside : oneRegion addr.toNat bs.length = false ∨ retainBase < addr.toNat + bs.length) :
    exec (.blkwr src tag addr false bq bs chks) s = .next ((s.took 5 src).blkack src tag.toNat 1) := by
  rw [exec_blkwr_allowed up free form on allowed]
  refine (if_neg (by rw [State.took_bseqOf]; exact not_not.2 expected)).trans (if_pos ?_)
  rcases outside with h | h <;> simp [h]

variable (expected : bq.toNat = (s.bseqOf src).1) (one : oneRegion addr.toNat bs.length = true) (below : addr.toNat + bs.length ≤ retainBase)
include expected one below

theorem exec_blkwr_notWritten {b : Nat} (some_ : (s.took 5 src).blocksRefused addr.toNat (bs.length / 64) = some b) :
    exec (.blkwr src tag addr false bq bs chks) s =
      .next (State.blkack ((s.took 5 src).gddrAccess .bulk b 64 (some []) {}).1 src tag.toNat 1) := by
  rw [exec_blkwr_allowed up free form on allowed]
  refine (if_neg (by rw [State.took_bseqOf]; exact not_not.2 expected)).trans ((if_neg (by simp [one, below])).trans ?_)
  rw [some_]
theorem exec_blkwr_written (none_ : (s.took 5 src).blocksRefused addr.toNat (bs.length / 64) = none) :
    exec (.blkwr src tag addr false bq bs chks) s =
      .next ((((s.took 5 src).writeBlocks addr.toNat (bs.length / 64) bs chks).setBseq src
        ((bq.toNat + 1) % 65536, some bq.toNat)).blkack src tag.toNat 0) := by
  rw [exec_blkwr_allowed up free form on allowed]
  refine (if_neg (by rw [State.took_bseqOf]; exact not_not.2 expected)).trans ((if_neg (by simp [one, below])).trans ?_)
  rw [none_, State.took_bseqOf, expected]
end

/-! ## What a bulk write leaves -/

theorem State.setChain_blockRefused (s : State) (c : Chain) (b : Nat) : (s.setChain c).blockRefused b = s.blockRefused b := rfl
theorem State.setChain_memWaits (s : State) (c : Chain) (b : Nat) : (s.setChain c).memWaits b = s.memWaits b := rfl
theorem State.took_blockRefused (s : State) (typ : Nat) (src : Fin 64) (b : Nat) : (s.took typ src).blockRefused b = s.blockRefused b := by
  rw [State.took_eq, State.setChain_blockRefused]
theorem State.took_memWaits (s : State) (typ : Nat) (src : Fin 64) (b : Nat) : (s.took typ src).memWaits b = s.memWaits b := by
  rw [State.took_eq, State.setChain_memWaits]
theorem State.took_blocksRefused (s : State) (typ : Nat) (src : Fin 64) (a m : Nat) :
    (s.took typ src).blocksRefused a m = s.blocksRefused a m := by
  rw [State.blocksRefused, State.blocksRefused, funext (s.took_blockRefused typ src)]
theorem State.took_mem (s : State) (typ : Nat) (src : Fin 64) : (s.took typ src).mem = s.mem := by
  rw [State.took_eq]
  rfl
theorem State.respond_mem (s : State) (pilot : Bool) (typ dst tag : Nat) (pay : List Byte) : (s.respond pilot typ dst tag pay).mem = s.mem := by
  rw [State.respond_eq]
  rfl
theorem State.blocksRefused_some {b : Nat} (h : s.blocksRefused a n = some b) : s.blockRefused b = true ∧ ∃ i < n, b = a + 64 * i := by
  refine ⟨List.find?_some h, ?_⟩
  obtain ⟨i, mem, rfl⟩ := List.mem_map.1 (List.mem_of_find?_eq_some h)
  exact ⟨i, List.mem_range.1 mem, rfl⟩

/-- The sequence moves on to m, with b the last written, and the source is told so. -/
theorem State.setBseq_blkack_leaves {w : State} {l : List Nat} (way : ∀ r ∈ wayRegs, r ∉ l) (stat : chnBulkstat ∈ l) (clk : Part.clk ∉ ps)
    (mem : Part.chain ∈ ps) (frame : Frame ps (regsOf l) s w) (chain : w.chain = (s.took 5 src).chain) (m b st : Nat) :
    let t := (w.setBseq src (m, some b)).blkack src tag.toNat st
    (∀ x, t.byte x = w.byte x) ∧ t.flaws = w.flaws ∧ t.bseqOf src = (m, some b) ∧ t.chain.sent = s.chain.sent ++ s.ack src tag b st ∧
      t.chain.inbox = (s.took 5 src).chain.inbox ∧ Frame ps (regsOf l) s t := by
  have shown := frame.setBseq mem stat src (m, some b)
  have sequence := w.bseqOf_setBseq src (m, some b)
  have after := w.setBseq_chain src (m, some b)
  have same := w.setBseq_does src (m, some b)
  rw [chain, State.took_chain] at after
  generalize w.setBseq src (m, some b) = v at shown sequence after same
  have way : State.SameWay s v := State.SameWay.of_frame shown clk way (by rw [after]) (by rw [after])
  have wrote : (v.bseqOf src).2 = some b := congrArg Prod.snd sequence
  have sent := way.blkack_chain (tag := tag) wrote st
  have told : Does 0x1000 v (v.blkack src tag.toNat st) := by
    rw [State.blkack_eq wrote]
    exact State.respond_does ..
  refine ⟨fun x => (told.part .mem (by decide) x).trans (same.part .mem (by decide) x),
    (told.part .flaws (by decide)).trans (same.part .flaws (by decide)), ?_, ?_, ?_, ?_⟩
  · rw [State.bseqOf_congr (s := v) (by rw [sent]), sequence]
  · rw [sent, after]
  · rw [sent, after]
  · rw [State.blkack_eq wrote]
    exact shown.respond mem ..
theorem State.took_store_frame (s : State) (src : Fin 64) (a : Nat) (bs : List Byte) : Frame [.mem, .gmem, .chain, .flaws]
    (regsOf [memChstat (s.chanOf a), chnBulkstat]) s (((s.took 5 src).counted .bulk a {}).store a bs) := by
  have chan : (s.took 5 src).chanOf a = s.chanOf a := by
    rw [State.took_eq]
    rfl
  have counts := (s.took 5 src).counted_frame .bulk a {} [.mem, .gmem, .chain, .flaws]
  rw [chan] at counts
  exact Frame.store (((s.took_frame 5 src).widen (by decide) fun _ h => h).trans
    (counts.widen (fun _ h => h) fun r mem => List.mem_cons.2 (.inl (List.mem_singleton.1 mem)))) (by decide) (by decide) _ _

section
variable (up : s.chnData = true) (free : s.rangeWaits addr.toNat bs.length = false) (form : bulkForm addr.toNat bs.length)
  (on : s.bit chnCtrl 8 = true) (allowed : s.aclWrite src = false) (expected : bq.toNat = (s.bseqOf src).1)
  (one : oneRegion addr.toNat bs.length = true) (below : addr.toNat + bs.length ≤ retainBase) (wrote : (s.bseqOf src).2 = some last)
include up free form on allowed expected one below wrote

theorem exec_blkwr_blockRefused (some_ : (s.blocksRefused addr.toNat (bs.length / 64)).isSome = true) :
    ∃ t, exec (.blkwr src tag addr false bq bs chks) s = .next t ∧ t.mem = s.mem ∧ t.bseqOf src = s.bseqOf src ∧
      t.chain = { s.chain with inbox := (s.took 5 src).chain.inbox, sent := s.chain.sent ++ s.ack src tag last 1 } := by
  obtain ⟨b, found⟩ := Option.isSome_iff_exists.1 some_
  obtain ⟨refused, i, lower, place⟩ := State.blocksRefused_some found
  have ⟨_, _, blocks, block⟩ := form
  have whole : b % 64 = 0 := by omega
  have waits : (s.took 5 src).memWaits b = false := by
    rw [State.took_memWaits]
    exact State.memWaits_of_range free (by omega) (by omega) (by omega)
  have asked := State.gddrAccess_blockRefused whole (by omega) waits (by rwa [State.took_blockRefused])
  have run := exec_blkwr_notWritten (tag := tag) (chks := chks) up free form on allowed expected one below (by rwa [State.took_blocksRefused])
  generalize ((s.took 5 src).gddrAccess .bulk b 64 (some []) {}).1 = t at asked run
  have kept : t.mem = (s.took 5 src).mem ∧ t.chain = (s.took 5 src).chain ∧
      Frame [.chain] (regsOf [memStatus, chrtStatus]) s t := by
    have start := s.took_frame (rs := regsOf [memStatus, chrtStatus]) 5 src
    rcases asked with rfl | rfl | rfl
    · exact ⟨rfl, rfl, start⟩
    · exact ⟨State.setBit_mem .., State.setBit_chain .., start.setBit (by simp [regsOf])⟩
    · exact ⟨State.setBit_mem .., State.setBit_chain .., start.setBit (by simp [regsOf])⟩
  obtain ⟨mem, chain, frame⟩ := kept
  have done := State.blkack_answers (tag := tag) (by decide) (by decide) (by decide) frame chain wrote 1
  refine ⟨_, run, ?_, ?_, done.chain⟩
  · have wrote' : (t.bseqOf src).2 = some last := by
      rw [State.bseqOf_congr (congrArg Chain.bseqs chain), State.took_bseqOf]
      exact wrote
    rw [State.blkack_eq wrote', State.respond_mem, mem, State.took_mem]
  · exact State.bseqOf_congr (by rw [done.chain]) src

omit wrote in
/-- The block of one frame, in memory in service, is written. -/
theorem exec_blkwr_store (len : bs.length = 64) (ready : s.memReady = true) (usable : s.exclMask = 0) (noBuf : bufAt addr.toNat = none)
    (alive : s.gmem.dead[s.chanOf addr.toNat] = false) : exec (.blkwr src tag addr false bq bs []) s =
      .next (((((s.took 5 src).counted .bulk addr.toNat {}).store addr.toNat bs).setBseq src
        ((bq.toNat + 1) % 65536, some bq.toNat)).blkack src tag.toNat 0) := by
  have ⟨_, _, _, block⟩ := form
  have waits : s.memWaits addr.toNat = false := State.memWaits_of_range free (by omega) (le_refl _) (by omega)
  have taken : s.bufRefuses .bulk addr.toNat = false := by rw [State.bufRefuses, noBuf]
  have accepted : s.blockRefused addr.toNat = false := by
    rw [State.blockRefused, State.memDown_block block ready (.inl usable), alive, taken]
    rfl
  have none_ : (s.took 5 src).blocksRefused addr.toNat (bs.length / 64) = none := by
    rw [State.took_blocksRefused, len]
    exact List.find?_eq_none.2 fun b mem => by
      rw [List.mem_singleton.1 (show b ∈ [addr.toNat] from mem), accepted]
      exact Bool.false_ne_true
  have stored : (s.took 5 src).writeBlocks addr.toNat (bs.length / 64) bs [] =
      ((s.took 5 src).counted .bulk addr.toNat {}).store addr.toNat bs := by
    have first : (s.took 5 src).writeBlocks addr.toNat 1 bs [] =
      ((s.took 5 src).gddrAccess .bulk addr.toNat 64 (some (bs.take 64)) {}).1 := rfl
    rw [len, show 64 / 64 = 1 from rfl, first, List.take_of_length_le (Nat.le_of_eq len)]
    rw [State.took_eq]
    exact State.gddrAccess_block block len (by omega) waits ready (.inl usable) taken alive
  rw [exec_blkwr_written up free form on allowed expected one below none_, stored]

omit wrote in
theorem exec_blkwr_takes (len : bs.length = 64) (ready : s.memReady = true) (usable : s.exclMask = 0) (noBuf : bufAt addr.toNat = none)
    (alive : s.gmem.dead[s.chanOf addr.toNat] = false) : ∃ t, exec (.blkwr src tag addr false bq bs []) s = .next t ∧
      t.bytes addr.toNat 64 = bs ∧ t.bad addr.toNat 64 = false ∧
      (∀ x, x < addr.toNat ∨ addr.toNat + 64 ≤ x → t.byte x = s.byte x) ∧ t.bseqOf src = ((bq.toNat + 1) % 65536, some bq.toNat) ∧
      t.chain.sent = s.chain.sent ++ s.ack src tag bq.toNat 0 ∧ t.chain.inbox = (s.took 5 src).chain.inbox ∧
      Frame [.mem, .gmem, .chain, .flaws] (regsOf [memChstat (s.chanOf addr.toNat), chnBulkstat]) s t := by
  have ⟨_, _, _, block⟩ := form
  have low : addr.toNat < gddrEnd := by
    unfold retainBase at below
    unfold gddrEnd
    omega
  have run := exec_blkwr_store (tag := tag) up free form on allowed expected one below len ready usable noBuf alive
  have clean := State.store_block_bad block low len ((s.took 5 src).counted .bulk addr.toNat {})
  have bytes := len ▸ State.bytes_store_self ((s.took 5 src).counted .bulk addr.toNat {}) bs addr.toNat
  have others (x : Nat) (out : x < addr.toNat ∨ addr.toNat + 64 ≤ x) :
      (((s.took 5 src).counted .bulk addr.toNat {}).store addr.toNat bs).byte x = s.byte x :=
    (State.byte_store_ne _ (by rwa [len])).trans ((s.took_frame (rs := noReg) 5 src).1 .mem (by decide) x)
  have frame := State.took_store_frame s src addr.toNat bs
  have chain : (((s.took 5 src).counted .bulk addr.toNat {}).store addr.toNat bs).chain = (s.took 5 src).chain :=
    (Does.store.part .chain (by decide)).trans (State.count_chain ..)
  generalize ((s.took 5 src).counted .bulk addr.toNat {}).store addr.toNat bs = w at run clean bytes others frame chain
  have way : ∀ r ∈ wayRegs, r ∉ [memChstat (s.chanOf addr.toNat), chnBulkstat] := by
    have apart : ∀ r ∈ wayRegs, (r < 0x4000060040 ∨ 0x4000060060 ≤ r) ∧ r ≠ chnBulkstat := by decide
    intro r mem hit
    rcases List.mem_pair.1 hit with h | h
    · exact ne_memChstat _ (apart r mem).1 h
    · exact (apart r mem).2 h
  obtain ⟨final, flaws, sequence, sent, inbox, shown⟩ := State.setBseq_blkack_leaves (tag := tag) way (by simp) (by decide) (by decide)
    frame chain ((bq.toNat + 1) % 65536) bq.toNat 0
  refine ⟨_, run, ?_, ?_, fun x out => (final x).trans (others x out), sequence, sent, inbox, shown⟩
  · rw [State.bytes_congr fun x _ _ => final x, bytes]
  · rw [State.bad, flaws]
    exact clean
end

/-! ## BLKRD (R306) -/

/-- The form that R306 asks of a bulk read. -/
def readForm (a n : Nat) : Prop := 1 ≤ n ∧ n ≤ 1024 ∧ a % 64 = 0

theorem State.blkReject_eq (s : State) (src : Fin 64) (tag a st : Nat) :
    s.blkReject src tag a st = s.respond false 8 src tag (toLE 5 a ++ [BitVec.ofNat 8 st, 0, 0]) := by
  rw [State.blkReject, List.append_assoc]
  rfl
theorem exec_blkrd_idle (h : s.chnData = false) (len : BitVec 16) : exec (.blkrd src tag addr len) s = .next s := by
  rw [exec_blkrd, execBlkrd]
  exact if_pos (by simp [h])

section
variable (up : s.chnData = true) {len : BitVec 16}
include up

theorem exec_blkrd_misformed (bad : ¬ readForm addr.toNat len.toNat) :
    exec (.blkrd src tag addr len) s = .next ((s.took 7 src).respond false 8 src tag.toNat (toLE 5 addr.toNat ++ [3, 0, 0])) := by
  have test : (!(decide (1 ≤ len.toNat ∧ len.toNat ≤ 1024) && addr.toNat % 64 == 0)) = true := by
    unfold readForm at bad
    simp only [Bool.not_eq_true', Bool.eq_false_iff, ne_eq, Bool.and_eq_true, decide_eq_true_eq, beq_iff_eq]
    tauto
  rw [exec_blkrd, execBlkrd, if_neg (by simp [up])]
  refine (if_pos test).trans ?_
  rw [State.blkReject_eq]
  rfl

variable (form : readForm addr.toNat len.toNat)
include form

theorem exec_blkrd_refused (refused : s.bit chnCtrl 8 = false ∨ s.aclRead src = true) : exec (.blkrd src tag addr len) s =
    .next ((s.took 7 src).aclErr.respond false 8 src tag.toNat (toLE 5 addr.toNat ++ [2, 0, 0])) := by
  have way := s.took_way 7 src
  have test : (!(s.took 7 src).bit chnCtrl 8 || (s.took 7 src).aclRead src) = true := by
    rw [way.bit (by decide), way.aclRead]
    rcases refused with h | h <;> simp [h]
  obtain ⟨lo, hi, block⟩ := form
  rw [exec_blkrd, execBlkrd, if_neg (by simp [up])]
  refine (if_neg (by simp [lo, hi, block])).trans ((if_pos test).trans ?_)
  rw [State.blkReject_eq]
  rfl
/-- The stream of a bulk read replaces the source's earlier one. -/
theorem exec_blkrd_starts (on : s.bit chnCtrl 8 = true) (allowed : s.aclRead src = false) :
    ∃ t, exec (.blkrd src tag addr len) s = .next t ∧
      t.chain = { s.chain with
        inbox := (s.took 7 src).chain.inbox
        streams := s.chain.streams.filter (fun x => x.src != src.val) ++
          [{ src := src, tag := tag.toNat, addr := addr.toNat, left := 64 * len.toNat }] } ∧
      Frame [.chain] noReg s t := by
  have way := s.took_way 7 src
  have test : ¬ (!(s.took 7 src).bit chnCtrl 8 || (s.took 7 src).aclRead src) = true := by
    rw [way.bit (by decide), way.aclRead, on, allowed]
    decide
  have start := s.took_frame (rs := noReg) 7 src
  have chain := s.took_chain 7 src
  obtain ⟨lo, hi, block⟩ := form
  refine ⟨(s.took 7 src).setChain { (s.took 7 src).chain with
    streams := (s.took 7 src).chain.streams.filter (fun x => x.src != src.val) ++
      [{ src := src, tag := tag.toNat, addr := addr.toNat, left := 64 * len.toNat }] }, ?_, ?_, start.upd_chain (by decide)⟩
  · rw [exec_blkrd, execBlkrd, if_neg (by simp [up])]
    exact (if_neg (by simp [lo, hi, block])).trans (if_neg test)
  · generalize s.took 7 src = t at chain
    rw [show ∀ c, (t.setChain c).chain = c from fun _ => rfl, chain]
end

/-! ## BLKDATA_SEND (R306) -/

theorem exec_blkdataSend_empty (h : s.chain.streams = []) (chks : List Check) : exec (.blkdataSend chks) s = .next s := by
  rw [exec_blkdataSend, execBlkdataSend, h]
theorem exec_blkdataSend_idle (h : s.chnData = false) (chks : List Check) : exec (.blkdataSend chks) s = .next s := by
  rw [exec_blkdataSend, execBlkdataSend]
  split
  · exact if_pos (by simp [h])
  · rfl

section
variable {q : BulkRead} {rest : List BulkRead} (streams : s.chain.streams = q :: rest) (up : s.chnData = true)
include streams up

/-- The frame of the oldest stream carries what was read, then zeros, and the stream moves on. -/
theorem exec_blkdataSend_sends (len : Nat.min 2040 q.left = n) (free : s.rangeWaits q.addr n = false) {d : List Byte}
    (read : s.readEights q.addr (n / 8) chks = (d, t)) (chain : t.chain = s.chain) (frame : Frame ps noReg s t) (clk : Part.clk ∉ ps)
    (mem : Part.chain ∈ ps) : ∃ u, exec (.blkdataSend chks) s = .next u ∧
      u.chain = { s.chain with
        streams := if q.left = n then rest else { q with addr := q.addr + n, left := q.left - n } :: rest
        sent := s.chain.sent ++ s.answer false 8 q.src q.tag
          (toLE 5 q.addr ++ [BitVec.ofNat 8 (b2n (d.length != n)), 0, 0] ++ d ++ List.replicate (n - d.length) 0) } ∧
      Frame ps noReg s u := by
  subst len
  have way : State.SameWay s t := State.SameWay.of_frame frame clk (fun _ _ h => h) (by rw [chain]) (by rw [chain])
  have all : q.left - Nat.min 2040 q.left = 0 ↔ q.left = Nat.min 2040 q.left := by
    have : Nat.min 2040 q.left ≤ q.left := Nat.min_le_right ..
    omega
  have pay (st : Nat) (z : List Byte) : toLE 5 q.addr ++ toLE 1 st ++ toLE 2 0 ++ d ++ z = toLE 5 q.addr ++ [BitVec.ofNat 8 st, 0, 0] ++ d ++ z := by
    rw [List.append_assoc (toLE 5 q.addr)]
    rfl
  have sent := way.respond_chain false 8 q.src q.tag (toLE 5 q.addr ++ toLE 1 (b2n (d.length != Nat.min 2040 q.left)) ++ toLE 2 0 ++ d ++
    List.replicate (Nat.min 2040 q.left - d.length) 0)
  have shown := frame.respond mem false 8 q.src q.tag (toLE 5 q.addr ++ toLE 1 (b2n (d.length != Nat.min 2040 q.left)) ++ toLE 2 0 ++ d ++
    List.replicate (Nat.min 2040 q.left - d.length) 0)
  rw [exec_blkdataSend, execBlkdataSend, streams]
  dsimp only
  rw [if_neg (by simp [up, free]), read]
  refine ⟨_, rfl, ?_, shown.upd_chain mem⟩
  rw [show ∀ (v : State) c, (v.setChain c).chain = c from fun _ _ => rfl, sent, chain, pay]
  simp only [all]
end

/-- The checks of words of which that at index i is found uncorrectable, and those before it clean. -/
def foundAt (i : Nat) : List Check := List.replicate i { ecc := [] } ++ [{ ecc := [.uncorrectable] }]
theorem foundAt_before (i : Nat) : ∀ j < i, (foundAt i).getD j {} = {} := by
  intro j before
  rw [foundAt, List.getD_append _ _ _ _ (by rwa [List.length_replicate]), List.getD_replicate _ before]
theorem foundAt_drop (i : Nat) : (foundAt i).drop i = [{ ecc := [.uncorrectable] }] := List.drop_left' List.length_replicate

/-- The addresses of a stream and what is left of it are multiples of 8. -/
theorem BulkRead.eights {q : BulkRead} (len : Nat.min 2040 q.left = n) (rest8 : q.left % 8 = 0) : 8 * (n / 8) = n := by
  rcases Nat.le_total 2040 q.left with h | h
  · rw [← len, show Nat.min 2040 q.left = 2040 from Nat.min_eq_left h]
  · rw [← len, show Nat.min 2040 q.left = q.left from Nat.min_eq_right h]
    omega

section
variable {q : BulkRead} {rest : List BulkRead} (streams : s.chain.streams = q :: rest) (up : s.chnData = true)
  (len : Nat.min 2040 q.left = n) (rest8 : q.left % 8 = 0) (whole : q.addr % 8 = 0) (h : s.Plain q.addr n)
include streams up len rest8 whole h

theorem exec_blkdataSend_plain : ∃ u, exec (.blkdataSend []) s = .next u ∧
    u.chain = { s.chain with
      streams := if q.left = n then rest else { q with addr := q.addr + n, left := q.left - n } :: rest
      sent := s.chain.sent ++ s.answer false 8 q.src q.tag (toLE 5 q.addr ++ [0, 0, 0] ++ s.bytes q.addr n) } ∧
    Frame [.chain] noReg s u := by
  have size := BulkRead.eights len rest8
  have read : s.readEights q.addr (n / 8) [] = (s.bytes q.addr n, s) := by
    have all := State.readEights_plain (s := s) (n / 8) 0 (ks := []) (fun _ _ => rfl) whole (by rwa [size])
    rw [Nat.add_zero, size] at all
    exact all.trans (congrArg (·, s) (List.append_nil _))
  obtain ⟨u, run, chain, frame⟩ := exec_blkdataSend_sends streams up len (h.rangeFree whole n) read rfl (Frame.refl [.chain] noReg s) (by decide)
    (by decide)
  refine ⟨u, run, ?_, frame⟩
  rw [chain, State.length_bytes, bne_self_eq_false, Nat.sub_self]
  simp [b2n]
/-- The word at 8 i is found uncorrectable: the data of the words before it, then zeros. -/
theorem exec_blkdataSend_uncorrectable {i : Nat} (lower : i < n / 8) :
    ∃ u, exec (.blkdataSend (foundAt i)) s = .next u ∧
      u.chain = { s.chain with
        streams := if q.left = n then rest else { q with addr := q.addr + n, left := q.left - n } :: rest
        sent := s.chain.sent ++ s.answer false 8 q.src q.tag
          (toLE 5 q.addr ++ [1, 0, 0] ++ s.bytes q.addr (8 * i) ++ List.replicate (n - 8 * i) 0) } ∧
      Frame [.chain, .flaws] noReg s u := by
  have size := BulkRead.eights len rest8
  obtain ⟨m, count⟩ : ∃ m, n / 8 = i + (m + 1) := ⟨n / 8 - i - 1, by omega⟩
  have fails : s.busRead .dma (q.addr + 8 * i) 8 { ecc := [.uncorrectable] } = (none, s.setBad (q.addr + 8 * i) 8) :=
    (h.part (Nat.le_add_right ..) (by omega)).read_fails rfl (sramForm_iff.2 ⟨by omega, by omega⟩)
  have read : s.readEights q.addr (n / 8) (foundAt i) =
      (s.bytes q.addr (8 * i), s.setBad (q.addr + 8 * i) 8) := by
    rw [count, State.readEights_plain i (m + 1) (foundAt_before i) whole (h.part (le_refl _) (by omega)), foundAt_drop, State.readEights,
      List.headD_cons, fails]
    exact congrArg (·, _) (List.append_nil _)
  have frame : Frame [.chain, .flaws] noReg s (s.setBad (q.addr + 8 * i) 8) := (Frame.refl ..).upd_flaws (by decide)
  obtain ⟨u, run, chain, frame⟩ := exec_blkdataSend_sends streams up len (h.rangeFree whole n) read (Does.setBad.part .chain (by decide)) frame
    (by decide) (by decide)
  refine ⟨u, run, ?_, frame⟩
  rw [chain, State.length_bytes, show (8 * i != n) = true from bne_iff_ne.2 (by omega)]
  rfl
end

/-! ## The obligation -/

theorem State.Answers.ran {l : List Nat} {fs : List (ChPort × ChLane × CFrame)} {i : Instr} {req : Nat}
    (run : exec i s = .next t) (done : s.Answers src req fs [.chain] l t) : ∃ t, exec i s = .next t ∧
      t.chain = { s.chain with inbox := (s.took req src).chain.inbox, sent := s.chain.sent ++ fs } ∧ Frame [.chain] (regsOf l) s t :=
  ⟨t, run, done.chain, done.frame⟩

/-- Settles O29: a request is taken from the inbox, judged and performed, and answered by the one frame of `State.answer`, whose way no
request changes; the words of period SRAM and the blocks of GDDR6 are followed one by one. -/
theorem chainRequests : Obligations.ChainRequests := by
  unfold Obligations.ChainRequests
  intro s p src tag addr nw ws bs a q answer left answers plain shut
  have took (req : Nat) {l : List Nat} : Frame [.chain] (regsOf l) s (s.took req src) := s.took_frame req src
  have respond (req typ : Nat) (pilot : Bool) (pay : List Byte) {l : List Nat} {t : State} (way : ∀ r ∈ wayRegs, r ∉ l)
      (h : Frame [.chain] (regsOf l) s t) (chain : t.chain = (s.took req src).chain) :
      s.Answers src req (s.answer pilot typ src tag.toNat pay) [.chain] l (t.respond pilot typ src tag.toNat pay) :=
    State.respond_answers way (by decide) (by decide) h chain ..
  refine ⟨fun pilot chks up => ⟨?_, ?_, ?_, ?_⟩, fun pilot chks down => ?_, fun down => ?_, fun up => ⟨?_, ?_, ?_, ?_, ?_⟩⟩
  case refine_1 => exact fun waits => exec_rdreq_idle (.inr waits)
  case refine_2 =>
    refine fun free => ⟨fun bad => ?_, fun ok refused => ?_, fun ok allowed => ⟨?_, ?_⟩⟩
    · exact State.Answers.ran (exec_rdreq_misformed up free bad) (respond 1 2 pilot _ (by decide) (took 1) rfl)
    · obtain ⟨t, run, done, flag⟩ := exec_rdreq_acl (p := p) (tag := tag) (chks := chks) up free ok refused
      exact ⟨State.Answers.ran run done, fun on => ⟨t, run, flag on⟩⟩
    · rintro rfl ⟨on, lo, hi, good⟩
      obtain ⟨t, run, done⟩ := exec_rdreq_plain (p := p) (tag := tag) up free ok allowed ⟨on, lo, hi, good⟩
      exact State.Answers.ran run done
    · rintro ⟨off, low⟩
      obtain ⟨t, run, done⟩ := exec_rdreq_off (p := p) (tag := tag) (chks := chks) up free ok allowed off low
      exact State.Answers.ran run done
  case refine_3 => exact fun waits => exec_wrreq_idle (.inr waits)
  case refine_4 =>
    refine fun free => ⟨fun bad => ?_, fun ok page => ?_, fun ok page refused => ?_, ?_⟩
    · exact State.Answers.ran (exec_wrreq_misformed up free bad) (respond 3 4 pilot _ (by decide) (took 3) rfl)
    · obtain ⟨t, run, done⟩ := exec_wrreq_saf (p := p) (tag := tag) (chks := chks) up free ok page
      exact State.Answers.ran run done
    · exact State.Answers.ran (exec_wrreq_refused up free ok page refused)
        (respond 3 4 pilot _ (by decide) (State.aclErr_frame (took 3)) (State.aclErr_chain _))
    · rintro ok allowed rfl ⟨on, lo, hi, good⟩
      obtain ⟨t, run, done, words, others⟩ := exec_wrreq_plain (p := p) (tag := tag) up free ok allowed ⟨on, lo, hi, good⟩
      exact ⟨t, run, done.chain, words, others, done.frame.widen (fun _ h => h) fun _ h => absurd h List.not_mem_nil⟩
  case refine_5 => exact ⟨exec_rdreq_idle (.inl down), exec_wrreq_idle (.inl down)⟩
  case refine_6 => exact ⟨fun _ _ _ => exec_blkwr_idle (.inl down), exec_blkrd_idle down, exec_blkdataSend_idle down⟩
  case refine_7 => exact fun _ _ _ waits => exec_blkwr_idle (.inr waits)
  case refine_8 =>
    intro bq last free wrote i form ack
    have acks (st : Nat) {l : List Nat} {t : State} (way : ∀ r ∈ wayRegs, r ∉ l) (h : Frame [.chain] (regsOf l) s t)
        (chain : t.chain = (s.took 5 src).chain) : s.Answers src 5 (s.ack src tag last st) [.chain] l (t.blkack src tag.toNat st) :=
      State.blkack_answers way (by decide) (by decide) h chain wrote st
    refine ⟨fun bad => ?_, fun ok refused => ?_, fun ok on allowed => ⟨fun other => ?_, fun expected outside => ?_, ?_, ?_⟩⟩
    · exact State.Answers.ran (exec_blkwr_misformed up free bad) (acks 3 (by decide) (took 5) rfl)
    · exact State.Answers.ran (exec_blkwr_refused up free ok refused)
        (acks 2 (by decide) (State.aclErr_frame (took 5)) (State.aclErr_chain _))
    · exact State.Answers.ran (exec_blkwr_outOfSequence up free ok on allowed other) (acks 0 (by decide) (took 5) rfl)
    · exact State.Answers.ran (exec_blkwr_outside up free ok on allowed expected outside) (acks 1 (by decide) (took 5) rfl)
    · exact fun expected one below => exec_blkwr_blockRefused up free ok on allowed expected one below wrote
    · intro expected len below one ready usable noBuf alive
      exact exec_blkwr_takes up free ok on allowed expected (by rwa [len]) (by rwa [len]) len ready usable noBuf alive
  case refine_9 =>
    intro len form
    refine ⟨fun bad => ?_, fun ok refused => ?_, fun ok on allowed => exec_blkrd_starts up ok on allowed⟩
    · exact State.Answers.ran (exec_blkrd_misformed up bad) (respond 7 8 false _ (by decide) (took 7) rfl)
    · exact State.Answers.ran (exec_blkrd_refused up ok refused)
        (respond 7 8 false _ (by decide) (State.aclErr_frame (took 7)) (State.aclErr_chain _))
  case refine_10 => exact exec_blkdataSend_empty
  case refine_11 =>
    intro r rest streams pos rest8 whole n h next
    have len : Nat.min 2040 r = n := rfl
    clear_value n
    obtain ⟨on, lo, hi, good⟩ := h
    have moved : next = if r = n then rest else { src := ↑src, tag := tag.toNat, addr := a + n, left := r - n } :: rest := rfl
    have plain_ := exec_blkdataSend_plain streams up len rest8 whole ⟨on, lo, hi, good⟩
    dsimp only at plain_
    rw [← moved] at plain_
    refine ⟨plain_, fun i lower => ?_⟩
    have found := exec_blkdataSend_uncorrectable streams up len rest8 whole ⟨on, lo, hi, good⟩ lower
    dsimp only at found
    rw [foundAt, ← moved] at found
    exact found

end Sys2Proof.Machine
end
